-- ==== Sys2Proof/Word.lean ====
section
/-!
DEFINITION. The word types of the Hexlos model and their plainest readings: bytes, 64-bit register words, 128-byte lines
with their byte masks, and the sparse tables and status codes that the state is built of.
Bit 0 is the least significant bit and byte 0 of a line is its lowest address (R6).
-/
namespace Sys2Proof

/-- A byte. -/
abbrev Byte := BitVec 8
/-- A 64-bit register, command or record word (R51, R6). -/
abbrev Word := BitVec 64
/-- The 128 bytes of a line, byte n at bits 8n + 7 to 8n (R6). -/
abbrev LineData := BitVec 1024
/-- A byte mask of a line: bit n enables byte n (R244). -/
abbrev LineMask := BitVec 128

/-- A sparse table by number in one canonical form: keys strictly rising, and no entry equal to the default value, which
an unlisted key reads as. Plain data, so equal tables are equal lists. -/
abbrev Tbl (α : Type) := List (Nat × α)

/-- The status codes of R12 and no others. -/
inductive Status where
  | ok | partly | demandPending | selfHeld | contextLost | objectGone | permission | unmapped | poison
  | barrierAbandoned | timeout | regressive | quota | reservationBroken | partnerAbsent | partnerQuarantined | unitAbsent
deriving DecidableEq, Repr, Inhabited

/-- The 8-bit code of a status (R12). -/
def Status.code : Status → Nat
  | .ok => 0x00 | .partly => 0x01 | .demandPending => 0x02 | .selfHeld => 0x03
  | .contextLost => 0x10 | .objectGone => 0x11 | .permission => 0x12 | .unmapped => 0x13 | .poison => 0x14
  | .barrierAbandoned => 0x15 | .timeout => 0x16 | .regressive => 0x17 | .quota => 0x18 | .reservationBroken => 0x19
  | .partnerAbsent => 0x20 | .partnerQuarantined => 0x21 | .unitAbsent => 0x30

/-- The status that a code of R12 names; a code outside the table reads as none. -/
def Status.ofCode (n : Nat) : Option Status :=
  [Status.ok, .partly, .demandPending, .selfHeld, .contextLost, .objectGone, .permission, .unmapped, .poison,
   .barrierAbandoned, .timeout, .regressive, .quota, .reservationBroken, .partnerAbsent, .partnerQuarantined,
   .unitAbsent].find? (fun s => s.code == n)

end Sys2Proof
end

