-- ==== Sys2Proof/Syntax.lean ====
section
/-!
DEFINITION. The commands of the block: one constructor of Instr per row of spec/opcode_table.json, with its operands, and the
types that the operands are built of. A command is an event at the boundary of the block, or a step that the block takes by
itself once its condition holds; the operands say what the event carried, or which of several waiting items it takes.
-/
namespace Sys2Proof

/-- The cascade straps (R503). -/
structure Straps where
  /-- CAS_POS. -/
  pos : Nat := 0
  /-- CAS_MASTER. -/
  master : Bool := true
  /-- CAS_SIZE: blocks minus 1. -/
  sizeM1 : Nat := 0
deriving DecidableEq, Repr, Inhabited

/-- Who makes a register access (R48, R53): host station 0 or 1, and the partition that the request names. -/
structure Acc where
  /-- 0 for HST0, 1 for HST1. -/
  st : Nat := 0
  /-- PART of the request. -/
  part : Nat := 0
deriving DecidableEq, Repr, Inhabited

/-- The way a mailbox is reached (R483). -/
inductive MbVia where
  /-- the mailbox registers of a partition view page, through a host station by a partition -/
  | view (a : Acc)
  /-- the MBX page, through a host station by a partition -/
  | page (a : Acc)
  /-- I3C by the board management controller -/
  | i3c
deriving DecidableEq, Repr, Inhabited

/-- A mailbox and the way it is reached. -/
structure MbAcc where
  /-- mailbox number, 0 to 65 -/
  mb : Nat := 0
  /-- how -/
  via : MbVia := .view {}
deriving DecidableEq, Repr, Inhabited

/-- A request to a home (R212, REQ opcodes of the package protocol). -/
inductive HomeOp where
  | rdShared | rdOwn | upgrade | rdOnce | wrFull | wrPart | wrStash
  /-- ATOMIC with its 8-bit AOP: operation in [7:4], format in [3:0] (R284) -/
  | atomic (aop : Nat)
deriving DecidableEq, Repr, Inhabited

/-- Where the answer of a request to a home goes. -/
inductive Origin where
  /-- a host station -/
  | host (st : Nat)
  /-- burst of an engine request held by the engine station -/
  | eng (req burst : Nat)
  /-- a write or read of a mover segment: channel, number of the descriptor in it, and segment -/
  | mover (chan desc seg : Nat)
  /-- the home relay: the block's own accesses -/
  | relay
  /-- the home relay for a command of a queue: queue and SEQ, whose work the answer ends -/
  | cmd (q seq : Nat)
  /-- a cascade port -/
  | cascade (port : Nat)
  /-- another block of the cascade: its position, and the number it gave the request -/
  | block (pos num : Nat)
  /-- the home relay, for an operation of the block that needs the line's current data: a number of the operation (R36) -/
  | own (k : Nat)
  /-- the home relay, for the commit of a data port: its page (R65, R70) -/
  | dp (page : Nat)
  /-- the span: a remote request held in an ingress tracker -/
  | span (tracker : Nat)
  /-- the home relay for the record of a lockstep window (R615) -/
  | det (win : Nat)
deriving DecidableEq, Repr, Inhabited

/-- A request as it is placed at the home of its line (R207, R212, R244, R301, R511). -/
structure HomeReq where
  /-- what is asked -/
  op : HomeOp := .rdOnce
  /-- agent number of the requester (R203) -/
  agent : Nat := 32
  /-- where the answer goes -/
  origin : Origin := .relay
  /-- TAG, echoed in the answer -/
  tag : Nat := 0
  /-- the requester's partition -/
  part : Nat := 0
  /-- LINE = NPA[45:7] -/
  line : Nat := 0
  /-- write or operand data -/
  data : LineData := 0
  /-- byte mask of WR_PART and ATOMIC -/
  mask : LineMask := 0
  /-- poison of the data, one bit per 16-byte chunk -/
  poison : Nat := 0
  /-- STASH target (R228) -/
  stash : Nat := 0
  /-- PRIO (R587) -/
  prio : Nat := 0
  /-- context of an engine or command request, none for a host request (R295, R470) -/
  ctx : Option Nat := none
  /-- dispatch slot of the kernel instance that asks (R467) -/
  slot : Option Nat := none
  /-- contributor name of a RED_ORD: node, session, index (R300) -/
  contrib : Option (Nat × Nat × Nat) := none
  /-- beacon count at which the source issued it (R301) -/
  stamp : Word := 0
  /-- node of a requester in another package (R544) -/
  node : Option Nat := none
  /-- event tick in which the request was issued under its translation (R195) -/
  et : Nat := 0
  /-- VA of the line under whose translation it was issued (R195) -/
  va : Nat := 0
deriving DecidableEq, Repr, Inhabited

/-- An engine request as it arrives at its port (R244). -/
structure EngOp where
  tag : Nat := 0
  ctx : Nat := 0
  va : Nat := 0
  /-- LEN_M1: lines minus 1 -/
  lenM1 : Nat := 0
  op : HomeOp := .rdOnce
  data : List LineData := []
  /-- byte mask of each line of WR_PART and ATOMIC -/
  masks : List LineMask := []
  /-- poison of each line's data -/
  poisons : List Nat := []
  stash : Nat := 0
  prio : Nat := 0
  /-- STREAM_ID and TILE of a tile request -/
  stream : Option (Nat × Nat) := none
  /-- dispatch slot of the kernel instance that asks (R467) -/
  slot : Option Nat := none
deriving DecidableEq, Repr, Inhabited

/-- What the header of a stream request says of its sender: the context, and the TAG that its answer carries (R720). -/
structure ReqHead where
  ctx : Nat := 0
  tag : Nat := 0
deriving DecidableEq, Repr, Inhabited

/-- The DIRTY bit of an agent's answer to a snoop, and its STATUS (R245). -/
structure SnpBits where
  dirty : Bool := false
  status : Nat := 0
deriving DecidableEq, Repr, Inhabited

/-- What a flit brings beside its messages: the CREDIT field, and headers of it whose CLASS and OP the protocol reserves (R238, R239). -/
structure FlitHead where
  credits : Word := 0
  heads : List (Nat × Nat) := []
deriving DecidableEq, Repr, Inhabited

/-- The snoops of the package protocol (R215). -/
inductive SnpOp where
  | fwdShr | fwdOwn | fwdOnce | inv | invData | backinv
deriving DecidableEq, Repr, Inhabited

/-- The answers a home sends (R212, R287). -/
inductive AnsKind where
  | dataOnce | dataF | dataCE | dataDE | comp
deriving DecidableEq, Repr, Inhabited

/-- A request of another package as it arrives at this package's ingress station (R512, R525, R544). -/
structure RemoteReq where
  node : Nat := 0
  pos : Nat := 0
  part : Nat := 0
  tag : Nat := 0
  op : HomeOp := .rdOnce
  line : Nat := 0
  data : LineData := 0
  mask : LineMask := 0
  poison : Nat := 0
  stash : Nat := 0
  contrib : Option (Nat × Nat × Nat) := none
  stamp : Word := 0
deriving DecidableEq, Repr, Inhabited

/-- A message on the span (R525, R526). -/
inductive SpanMsg where
  /-- a request of this package for another node, with the tracker number as its tag -/
  | req (node tracker : Nat) (r : HomeReq)
  /-- a request of another package for this one -/
  | ingress (r : RemoteReq)
  /-- an answer to a request of another package -/
  | ans (node pos tag : Nat) (k : AnsKind) (status : Status) (data : LineData) (poison : Nat)
  /-- an answer that this package awaited: the block that awaits it, its remote tracker, kind, status code, data, poison -/
  | rsp (pos tracker : Nat) (k : AnsKind) (status : Nat) (data : LineData) (poison : Nat)
  /-- a snoop to a node's holders -/
  | snp (node line : Nat) (op : SnpOp)
  /-- the combined answer to a snoop, with the dirty data and its poison -/
  | snpRsp (node line : Nat) (hadCopy : Bool) (data : Option (LineData × Nat))
  /-- the ACK of a remote holder -/
  | ack (node tag line : Nat)
  /-- a link-local message: LOP and its body -/
  | link (lop : Nat) (body : List Word)
  /-- a message that R536 calls malformed -/
  | malformed
  /-- a filler slot -/
  | filler
deriving DecidableEq, Repr, Inhabited

/-- What a message between two blocks of the cascade carries: the package protocol's messages for the block it is sent to, and
the work that a block relays (R36, R46, R203, R501, R506). -/
inductive CasLoad where
  /-- words that only the sender and the receiver read -/
  | raw (body : List Word)
  /-- a request to a line homed in the receiver, with the sender's number for it -/
  | req (num : Nat) (r : HomeReq)
  /-- an answer to a request of the receiver, by its number; the last one ends it -/
  | ans (num : Nat) (kind : AnsKind) (status : Status) (data : LineData) (poison : Nat) (last : Bool)
  /-- a snoop for an agent of the receiver's stations (R203) -/
  | snp (agent : Nat) (op : SnpOp) (line dest destTag : Nat)
  /-- STASH_DATA for an agent of the receiver's stations (R229) -/
  | stash (agent line : Nat) (data : LineData) (poison : Nat)
  /-- an agent's SNP_RSP, SNP_DATA, ACK or eviction on a line homed in the receiver, and its answer to a stash offer -/
  | snpRsp (agent line : Nat) (hadCopy wbPending : Bool) (dirty : SnpBits)
  | snpData (agent line : Nat) (data : LineData) (poison : Nat) (dirty : SnpBits)
  | ack (agent tag line : Nat)
  | evict (agent tag line : Nat) (data : Option (LineData × Nat))
  | stashAns (agent line : Nat) (accept : Bool)
  /-- COMP of an eviction, for an agent of the receiver's stations -/
  | wbComp (agent tag : Nat)
  /-- a register access of a host station of the sender, and its answer (R46) -/
  | reg (write : Bool) (a : Acc) (off size : Nat) (data : List Word)
  | regRsp (st : Nat) (status : Status) (data : List Word)
  /-- a request that Sudric of the sender relays to Sudric of the master, and the reply (R501) -/
  | svc (mb seq : Nat) (code : Nat) (args : List Word)
  | svcRsp (mb seq code : Nat) (status : Status) (results : List Word) (override : Bool)
  /-- NODE_ID as written on the master (R506) -/
  | nodeId (v : Word)
  /-- DET_MODE as written on the master (R608) -/
  | detMode (v : Word)
  /-- a Kindle that the master has armed, or ended before its release: its count and its partitions (R602, R606, R607) -/
  | kindle (armed : Bool) (k parts : Word)
  /-- the memory ranges, before formation: number, MEM_BASE, MEM_CTL and MEM_PBASE of each (R552) -/
  | ranges (l : List (Nat × Word × Word × Word))
  /-- a message for another node, to the block whose span station carries it (R512), or from that block to the home's -/
  | span (node : Nat) (m : SpanMsg)
  /-- a fence signal's notification of a record at an address (R457) -/
  | note (npa : Nat) (v : Word)
  /-- the homes of a fenced slice have moved to their successors: their number k (R643, R644) -/
  | sliceGone (k : Nat)
  /-- the master opens partition 0 on every block (R680) -/
  | rootOpen
  /-- the beacon period in ns of the master's start parameters (R673) -/
  | beaconNs (ns : Nat)
  /-- a line whose new home keeps RUNCACHED set (R646) -/
  | runcached (line : Nat)
  /-- the span station of the sender: 0 not ACTIVE, 1 quarantined, 2 serving; and how the requests routed through it end, when they do (R538,
  R540, R642) -/
  | station (st : Nat) (gone : Option Status)
deriving DecidableEq, Repr, Inhabited

/-- A message between two blocks of the cascade (R509, R510). -/
structure CasMsg where
  src : Nat := 0
  dst : Nat := 0
  hop2 : Bool := false
  span : Bool := false
  cls : Nat := 0
  line : Option Nat := none
  /-- bytes of its slots -/
  bytes : Nat := 16
  load : CasLoad := .raw []
deriving DecidableEq, Repr, Inhabited

/-- A marker codeword (R520, R523). -/
structure Marker where
  lane : Nat := 0
  width : Nat := 32
  index : Nat := 0
  epoch : Nat := 0
deriving DecidableEq, Repr, Inhabited

/-- The partner's HELLO (R527). -/
structure Hello where
  lo : Nat := 1
  hi : Nat := 1
  node : Nat := 0
  gen : Nat := 1
  width : Nat := 32
deriving DecidableEq, Repr, Inhabited

/-- A certificate as read from its encoding (R563): the subject's public key, x then y, the bytes it signs, and its signature, r then s. -/
structure Cert where
  key : List Byte := []
  body : List Byte := []
  sig : List Byte := []
  /-- the signature is ECDSA P-384 with SHA-384 -/
  ecdsa : Bool := true
deriving DecidableEq, Repr, Inhabited

/-- The beacon word that a BEACON message carries (R533). -/
structure BcnWordOp where
  next : Word := 0
  uncertain : Bool := false
deriving DecidableEq, Repr, Inhabited

/-- The words of a directory entry (R235, R646). -/
inductive DirWord where | state | remote | tag
deriving DecidableEq, Repr, Inhabited

/-- A word that the patrol scrub found in error (R635, R639). -/
structure ScrubErr where
  /-- page of the unit that holds it -/
  page : Nat := 0
  /-- cell as its bit in the disabled-unit map, none when the unit has no cells -/
  cell : Option Nat := none
  /-- the word could not be corrected -/
  uncorr : Bool := false
  /-- the word holds data of a line: the line, and the chunks that are lost -/
  data : Option (Nat × Nat) := none
  /-- the word is part of a directory entry: the entry's line, and which word (R646) -/
  dir : Option (Nat × DirWord) := none
deriving DecidableEq, Repr, Inhabited

/-- The commands of the block. -/
inductive Instr where
  /-- POWER_ON_RESET (R663): Deassertion of PORn after the supplies are up starts every boot stage from the fuse load, with all state reset. -/
  | powerOnReset (straps : Straps) (fuseOk : Bool)
  /-- BLOCK_RESET (R663): Assertion of RST_N ends all work in flight without completions and restarts the boot stages, keeping only the always-on state. -/
  | blockReset (straps : Straps) (fuseOk : Bool)
  /-- RESET_RELEASE (R597): After PLL lock, internal reset is released on the first fclk edge aligned with a reference edge and the event-tick counter starts. -/
  | resetRelease
  /-- ROM_STAGE_END (R681): Memory BIST and SRAM initialisation end; failing fenceable units are fenced, or the block halts, and the block waits for an image. -/
  | romStageEnd (badPages badCells : List Nat)
  /-- IMAGE_START (R674): The service verifies the staged Sudric image and start parameters and, on success, runs the INIT stage. -/
  | imageStart (mb seq : Nat) (args : List Word)
  /-- CASCADE_LINK_INIT (R504): A LINK_INIT carrying position, master, size and version arrives on a cascade port and is recorded for formation. -/
  | cascadeLinkInit (port : Nat) (peer : Straps) (gen step : Nat) (reaches : List Nat) (lat : Nat)
  /-- CASCADE_FORMED (R504): The master declares the cascade formed once every position has reached it, sets the routes and copies the memory ranges. -/
  | cascadeFormed
  /-- JOIN_DEADLINE (R505): At 50,000 bt after release an unformed cascade records the join error and no block opens its root partition. -/
  | joinDeadline
  /-- STATION_BRINGUP_TIMEOUT (R675): A station link not active within 40,000,000 cyc of step 6 stops gating the start. -/
  | stationBringupTimeout (page : Nat)
  /-- MP_READY_RISE (R695): MP_READY is sampled 1 after MP_EN, so the port may carry requests and raises READY. -/
  | mpReadyRise (port : Nat)
  /-- MP_READY_FALL (R695): MP_READY falls while MP_EN is 1 and the block fences the memory port. -/
  | mpReadyFall (port : Nat)
  /-- MEM_WAIT_EXPIRE (R676): A controller not ready after MEM_WAIT bt has its memory port fenced and stops gating the start. -/
  | memWaitExpire
  /-- ATTESTATION_READY (R679): A block has judged its chain, computed its fingerprints and sent its section to the master. -/
  | attestationReady (pos : Nat) (leaf sect : List Byte)
  /-- ROOT_PARTITION_OPEN (R680): The master opens partition 0 on every block in one tick once formation, readiness and bring-up are complete. -/
  | rootPartitionOpen
  /-- RST_CTL_WRITE (R685): A write with REQ and CONFIRM 0x5A drives RST_REQ until RST_N is sampled asserted. -/
  | rstCtlWrite (a : Acc) (v : Word)
  /-- UNIT_RST_WRITE (R682): A write of UNIT_RST with GO resets an allowed unit that is fenced or idle, or is refused. -/
  | unitRstWrite (a : Acc) (v : Word)
  /-- UNIT_RESET_DONE (R683): A unit's reset and BIST finish; it is unfenced and brought up, or stays fenced with POISON, and UNIT_RST_DONE is raised. -/
  | unitResetDone (bistOk : Bool)
  /-- THROTTLE_CHANGE (R705): A THROTTLE level sampled equal in two consecutive event ticks limits the unsealed slots admitted. -/
  | throttleChange (level : Nat)
  /-- POWER_REPORT (R707): At each beacon tick the block drives PWR_RPT with its mean power and strobes PWR_STB. -/
  | powerReport (units : Nat)
  /-- FUSE_PROGRAM (R704): The IEEE 1687 fuse instrument blows one fuse bit, or refuses it under the lifecycle. -/
  | fuseProgram (row bit : Nat)
  /-- TEST_SCAN_ENTRY (R710): Entering WS_SCAN or WS_INTEST outside DEBUG clears all SRAM and registers and stops function until a block reset. -/
  | testScanEntry
  /-- MEMORY_BIST_RUN (R711): A memory BIST instrument runs on a fenced unit or during the ROM stage, or refuses. -/
  | memoryBistRun (page : Nat)
  /-- I3C_ACCESS (R708): A private I3C write or read reaches the always-on and management offsets of the block. -/
  | i3cAccess (write : Bool) (off : Nat) (v : Word)
  /-- REGISTER_WRITE (R75): A write to a register with no row of its own takes effect, or is refused under the access and expert rules. -/
  | registerWrite (a : Acc) (off size : Nat) (data : List Word)
  /-- READ_CLEAR (R9): A read of an RC register returns its value and clears it, resolving before a same-cycle hardware update. -/
  | readClear (a : Acc) (off size : Nat)
  /-- PG_CTL_WRITE (R74): A write of PG_CTL sets ENABLE, sets or clears EXPERT and may request a fence. -/
  | pgCtlWrite (a : Acc) (page : Nat) (v : Word)
  /-- OVERRIDE_CHECK (R81): After EXPERT is cleared, Sudric checks every overridden field against its safe limits, adopts or restores it and clears OVERRIDE. -/
  | overrideCheck (page : Nat)
  /-- IRQ_RAW_CLEAR (R62): A W1C write to IRQ_RAW clears bits, a same-cycle hardware set survives, and a message is sent if IRQ_PEND stays non-zero. -/
  | irqRawClear (a : Acc) (page : Nat) (v : Word)
  /-- IRQ_EN_WRITE (R60): A write of IRQ_EN updates IRQ_PEND and sends an interrupt message if it is left non-zero. -/
  | irqEnWrite (a : Acc) (page : Nat) (v : Word)
  /-- DP_ADDR_WRITE (R712): A write of DP_ADDR sets array and offset, or is refused while a transfer runs. -/
  | dpAddrWrite (a : Acc) (page : Nat) (v : Word)
  /-- DP_START_READ (R64): A write of DP_CTL with MODE read claims the port, captures a snapshot if any, and starts fetching the first block. -/
  | dpStartRead (a : Acc) (page : Nat) (v : Word)
  /-- DP_START_WRITE (R67): A write of DP_CTL with MODE write claims the port and begins a write burst. -/
  | dpStartWrite (a : Acc) (page : Nat) (v : Word)
  /-- DP_MODE_RESERVED (R713): A write of MODE 0b11 while idle starts nothing and ends with PERMISSION and DP_ERR. -/
  | dpModeReserved (a : Acc) (page : Nat) (v : Word)
  /-- DP_ABANDON (R71): A write of MODE 0b00 without FLUSH abandons the transfer and discards uncommitted words. -/
  | dpAbandon (a : Acc) (page : Nat) (v : Word)
  /-- DP_FLUSH (R68): A DP_CTL write with FLUSH in write mode commits the valid words without advancing. -/
  | dpFlush (a : Acc) (page : Nat) (v : Word)
  /-- DP_BLOCK_FETCHED (R66): The block fetched at OFFSET lands in the window and READY is set, or the transfer stops on an error. -/
  | dpBlockFetched (page : Nat)
  /-- DP_WIN_READ (R66): A read of the window returns a word, or 0 with UNDERRUN, and a read of 0x01F8 ends the block. -/
  | dpWinRead (a : Acc) (page : Nat) (off size : Nat)
  /-- DP_WIN_WRITE (R68): A write of the window marks words valid, and a write of 0x01F8 commits the block and advances or ends the burst. -/
  | dpWinWrite (a : Acc) (page : Nat) (off size : Nat) (data : List Word)
  /-- DP_COMMIT_DONE (R70): A commit reaches its array; at the end of the burst MODE returns to idle with DONE or ERR and an interrupt. -/
  | dpCommitDone (page : Nat)
  /-- BEACON_PULSE (R90): A beacon pulse is accepted in its window and advances the count, acts as a resync pulse, or is ignored as a stray. -/
  | beaconPulse (span : Bool) (at_ : Nat)
  /-- BEACON_WORD (R88): A beacon word arrives and is kept for the next pulse, or is discarded on a bad CRC or gap. -/
  | beaconWord (span : Bool) (bytes : List Byte)
  /-- RESYNC_INTERRUPTS (R117): RESYNC and STEP are raised at rank 4 of the event tick after the count steps. -/
  | resyncInterrupts
  /-- BEACON_COAST (R92): No pulse arrives by the expected time plus WIN, so the block advances the count as a coasted tick. -/
  | beaconCoast
  /-- BEACON_DARK_ENTRY (R107): After 4 periods without an accepted pulse the block enters dark mode and raises DARK. -/
  | beaconDarkEntry
  /-- BEACON_FREE_RUN_TICK (R108): In dark or early resync mode the count advances every PERIOD_NOM cyc on its own. -/
  | beaconFreeRunTick
  /-- BCN_CFG_WRITE (R116): A write of BCN_CFG changes source and settings, a source change entering resync, or is refused. -/
  | bcnCfgWrite (a : Acc) (v : Word)
  /-- BCN_PERIOD_WRITE (R89): A write of the period and window takes effect at the next counted tick, or is refused when out of range. -/
  | bcnPeriodWrite (a : Acc) (v : Word)
  /-- DEADLINE_EXPIRE (R102): A deadline expires at rank 6 unless the awaited event is sampled in the same tick. -/
  | deadlineExpire (handle : Nat)
  /-- ENGINE_REQUEST (R31): An engine request arrives with a context and VA and is translated, checked and cut into bursts. -/
  | engineRequest (port : Nat) (r : EngOp)
  /-- STREAM_OPEN (R162): An engine opens a stream with a descriptor, which binds or rebinds a stream slot or is refused. -/
  | streamOpen (port : Nat) (ctx : ReqHead) (desc : List Word)
  /-- STREAM_CLOSE (R163): An engine closes a stream and its slot is released. -/
  | streamClose (port : Nat) (ctx : ReqHead) (streamId : Nat)
  /-- PREFETCH_WALK_START (R168): A prefetch walk starts once no demand miss waits and the prefetch walk limit allows. -/
  | prefetchWalkStart
  /-- WALK_START (R152): The walker starts a waiting miss in a free slot, round robin over partitions within WALK_LIMIT. -/
  | walkStart
  /-- WALK_COMPLETE (R155): A walk ends with a cause, installing the translation or producing a fault, or restarting on an epoch change. -/
  | walkComplete (slot : Nat)
  /-- FAULT_RING_RETRY (R180): Every 16 bt the block reads CONSUME again and delivers held fault records as space frees. -/
  | faultRingRetry
  /-- DEMAND_TIMEOUT (R184): A pause not ended by a verdict within DEADLINE loses its context with TIMEOUT. -/
  | demandTimeout (token : Nat)
  /-- BURST_ISSUE (R170): A burst issues once its translation is valid under the current epochs. -/
  | burstIssue (req burst : Nat)
  /-- HOST_REQUEST (R187): A host station request is checked against the partition layout and routed to its home, or refused. -/
  | hostRequest (st : Nat) (op : HomeOp) (r : HomeReq) (node : Option Nat)
  /-- CONTEXT_LOSS (R413): A context becomes LOST at rank 3, its queued and running work ends as the loss table decides, and CTX_LOST is raised. -/
  | contextLoss (ctx : Nat)
  /-- RD_SHARED (R212): A RD_SHARED request is placed at its home and served from memory or by forwarding, granting CE or F. -/
  | rdShared (r : HomeReq)
  /-- RD_OWN (R212): A RD_OWN request is placed and served with invalidations or forwarding, granting CE or DE. -/
  | rdOwn (r : HomeReq)
  /-- UPGRADE (R212): An UPGRADE request invalidates other holders and grants ownership without data, or is served as RD_OWN. -/
  | upgrade (r : HomeReq)
  /-- RD_ONCE (R212): A RD_ONCE request returns the current data without granting a cached state. -/
  | rdOnce (r : HomeReq)
  /-- WR_FULL (R214): A full-line write is placed, invalidates holders, writes memory and completes with COMP. -/
  | wrFull (r : HomeReq)
  /-- WR_PART (R214): A partial write merges masked bytes at the home after recalling the line. -/
  | wrPart (r : HomeReq)
  /-- WR_STASH (R228): A stashing write is served as WR_FULL and, when honoured, offers the line to the target cache. -/
  | wrStash (r : HomeReq)
  /-- APERTURE_READ (R396): A read of a decode aperture line is served by decoding the compressed ember's elements and scales. -/
  | apertureRead (r : HomeReq)
  /-- SWAP (R288): An atomic swap writes the operand and returns the prior value. -/
  | swap (r : HomeReq) (fmt : Nat)
  /-- CAS (R286): A compare-and-swap writes the operand when the element equals the compare value and returns the prior value. -/
  | cas (r : HomeReq) (fmt : Nat)
  /-- FETCH_ADD (R289): An atomic add updates each enabled element and returns the prior value. -/
  | fetchAdd (r : HomeReq) (fmt : Nat)
  /-- FETCH_MIN (R292): An atomic minimum updates each element and returns the prior value. -/
  | fetchMin (r : HomeReq) (fmt : Nat)
  /-- FETCH_MAX (R292): An atomic maximum updates each element and returns the prior value. -/
  | fetchMax (r : HomeReq) (fmt : Nat)
  /-- FETCH_AND (R288): An atomic AND updates each element and returns the prior value. -/
  | fetchAnd (r : HomeReq) (fmt : Nat)
  /-- FETCH_OR (R288): An atomic OR updates each element and returns the prior value. -/
  | fetchOr (r : HomeReq) (fmt : Nat)
  /-- FETCH_XOR (R288): An atomic XOR updates each element and returns the prior value. -/
  | fetchXor (r : HomeReq) (fmt : Nat)
  /-- RED_ADD (R287): A reduction add updates the line at the home and returns COMP alone. -/
  | redAdd (r : HomeReq) (fmt : Nat)
  /-- RED_MIN (R287): A reduction minimum updates the line and returns COMP alone. -/
  | redMin (r : HomeReq) (fmt : Nat)
  /-- RED_MAX (R287): A reduction maximum updates the line and returns COMP alone. -/
  | redMax (r : HomeReq) (fmt : Nat)
  /-- RED_ORD (R302): An ordered reduction contribution is stored or folded in its window, or refused as late, duplicate or over quota. -/
  | redOrd (r : HomeReq) (fmt : Nat)
  /-- LOCK_ACQ (R296): An owner-tagged lock acquire sets HELD and OWNER when free, or answers held or SELF_HELD. -/
  | lockAcq (r : HomeReq) (fmt : Nat)
  /-- LOCK_REL (R296): An owner-tagged lock release clears the word when the tag owns it, or answers PERMISSION. -/
  | lockRel (r : HomeReq) (fmt : Nat)
  /-- FENCE_SIG (R449): A fence signal advances the record, does nothing, or records a regressive value, notifying watchers on advance. -/
  | fenceSig (r : HomeReq) (fmt : Nat)
  /-- BARRIER_ARRIVAL (R472): An arrival at a barrier record binds it if needed, updates registration and PENDING, and may release a generation. -/
  | barrierArrival (r : HomeReq)
  /-- BARRIER_LANE_DROP (R472): A drop at a barrier record lowers LIVE and PENDING and may release a generation. -/
  | barrierLaneDrop (r : HomeReq)
  /-- REGISTRATION_DROP (R474): At the next tick after an instance ends or a context is lost, its barrier registrations are dropped or the barrier is abandoned. -/
  | registrationDrop
  /-- BARRIER_DEADLINE (R476): DUE is reached with lanes pending and the barrier is abandoned, its registered contexts lost. -/
  | barrierDeadline (slot : Nat)
  /-- FENCE_ARM (R455): An ARM atomic returns VALUE and KIND and sets the block's watch bit on the record. -/
  | fenceArm (slot : Nat)
  /-- FENCE_ARM_RESULT (R455): The ARM result retires the wait when already satisfied or leaves the slot holding it. -/
  | fenceArmResult (slot : Nat)
  /-- FENCE_NOTIFICATION (R457): A notification of a new VALUE is compared with the block's watch slots and retires satisfied waits. -/
  | fenceNotification
  /-- FENCE_POLL (R460): Every POLL_BT a polling wait reads the record and is satisfied when the value reaches its target. -/
  | fencePoll (slot : Nat)
  /-- FENCE_WAIT_TIMEOUT (R458): A wait's deadline expires; it retires with TIMEOUT and may lose its context. -/
  | fenceWaitTimeout (slot : Nat)
  /-- ACK (R242): A requester's ACK ends a granting transaction and starts the Wick hold, or is discarded as a protocol error. -/
  | ack (agent tag line : Nat)
  /-- WICK_HOLD_END (R219): A Wick hold expires and delayed snoops to the winning agent may be sent. -/
  | wickHoldEnd (line : Nat)
  /-- SNP_RSP (R215): A snoop answer arrives at the home and completes or advances its transaction. -/
  | snpRsp (agent line : Nat) (hadCopy wbPending : Bool) (dirty : SnpBits)
  /-- SNP_DATA (R227): Snoop data from a holder reaches the home or requester and is written or forwarded. -/
  | snpData (agent line : Nat) (data : LineData) (poison : Nat) (dirty : SnpBits)
  /-- SNOOP_TIMEOUT (R223): A snoop unanswered after DEADLINE treats the agent as I, poisons an owned line and finishes the transaction. -/
  | snoopTimeout (agent line : Nat)
  /-- EVICT_CLEAN (R217): A clean eviction is accepted into a writeback buffer and removes the agent from the entry. -/
  | evictClean (agent tag line : Nat)
  /-- EVICT_DIRTY (R217): A dirty eviction writes memory and either answers a waiting snoop or removes the agent at once. -/
  | evictDirty (agent tag line : Nat) (data : LineData) (poison : Nat)
  /-- STASH_ACCEPT (R229): The target accepts a stash, installs the line in CE and becomes owner. -/
  | stashAccept (agent line : Nat)
  /-- STASH_DECLINE (R229): The target declines a stash and the line becomes Uncached. -/
  | stashDecline (agent line : Nat)
  /-- LINK_INIT (R239): At link-up a side sends its initial credits per class and the station link becomes active. -/
  | linkInit (page : Nat) (credits : Word)
  /-- STATION_LINK_UP (R29): A station link comes up and pending interrupts for it are delivered. -/
  | stationLinkUp (page : Nat)
  /-- STATION_LINK_DOWN (R250): A station link goes down, its lines are treated as answered, owned lines poisoned, and its transactions complete with PARTNER_ABSENT. -/
  | stationLinkDown (page : Nat)
  /-- MEMORY_RESPONSE (R691): The controller presents read data with its tag and poison bits, which the home decrypts and uses. -/
  | memoryResponse (port tag : Nat) (poison : Nat)
  /-- MEMORY_READ_TIMEOUT (R693): A read not returned within the port's TIMEOUT fences the port as a UE_UNIT. -/
  | memoryReadTimeout (port tag : Nat)
  /-- CASCADE_FORWARD (R510): A forwarding block moves a message from a first-hop pool to the second-hop pool toward its destination. -/
  | cascadeForward (port : Nat) (m : CasMsg)
  /-- CASCADE_PORT_DOWN (R513): A cascade port goes down and Sudric recomputes routes within 64 bt, fencing a block left without a path. -/
  | cascadePortDown (port : Nat)
  /-- COMMAND_FETCH (R426): The Lamplighter fetches a command from a queue and checks opcode, header, operands and issues pin TAKEs. -/
  | commandFetch
  /-- COMMAND_ACCEPT (R439): When every pin TAKE answers, the command is accepted or completed with the failing pin's status. -/
  | commandAccept (q seq : Nat)
  /-- COMMAND_DISPATCH (R423): An accepted command is dispatched in SEQ order once SERIAL, FENCE_WAIT and STEP_ADVANCE allow. -/
  | commandDispatch (q seq : Nat)
  /-- COMMAND_RETIRE (R440): A retiring command writes its record, signals fences, sends interrupts and then drops its pins. -/
  | commandRetire (q seq : Nat)
  /-- NOP (R428): NOP takes and drops its pins and completes with OK. -/
  | nop (q seq : Nat)
  /-- MOVE (R314): MOVE hands its descriptors to an owned channel's FIFO, or is refused. -/
  | move (q seq : Nat)
  /-- MOVE_XFM (R314): MOVE_XFM hands descriptors with transform programs to a channel, or completes UNIT_ABSENT without XFM. -/
  | moveXfm (q seq : Nat)
  /-- ENG_DISPATCH (R430): ENG_DISPATCH writes the command to the next dispatch ring slot and interrupts the accelerator. -/
  | engDispatch (q seq : Nat)
  /-- FENCE_SIGNAL (R452): FENCE_SIGNAL checks its object and issues a FENCE_SIG, retiring with its status. -/
  | fenceSignal (q seq : Nat)
  /-- FENCE_WAIT (R455): FENCE_WAIT checks its object and takes a watch slot and ARM, or falls back to polling. -/
  | fenceWait (q seq : Nat)
  /-- BAR_ARRIVE (R468): BAR_ARRIVE issues a barrier arrival from the home relay and retires with its status. -/
  | barArrive (q seq : Nat)
  /-- BAR_DROP (R468): BAR_DROP issues a barrier drop from the home relay and retires with its status. -/
  | barDrop (q seq : Nat)
  /-- STEP_ADVANCE (R412): STEP_ADVANCE adds INC to the context's step counter after earlier commands start. -/
  | stepAdvance (q seq : Nat)
  /-- TIER_MOVE (R386): TIER_MOVE resolves its pages and starts their promotion or demotion moves in VA order. -/
  | tierMove (q seq : Nat)
  /-- MAP_WITHDRAW (R195): MAP_WITHDRAW is checked and accepted, dropping cached translations, raising the epoch and tagging bursts. -/
  | mapWithdraw (q seq : Nat)
  /-- REPORT (R429): REPORT writes a context or time record to DEST and completes. -/
  | report (q seq : Nat)
  /-- WD_GO_WRITE (R156): A write of WD_CTL[GO] starts a register-path withdrawal, or is refused while busy. -/
  | wdGoWrite (a : Acc) (v : Word)
  /-- WITHDRAWAL_COMPLETE (R196): The last tagged burst reaches its point of coherence and the withdrawal completes with record, fence or WD_DONE. -/
  | withdrawalComplete (id : Nat)
  /-- SPACE_REGISTER_WRITE (R132): A write of SPACE_ROOT or SPACE_CTL takes effect, or is refused while the space is bound. -/
  | spaceRegisterWrite (a : Acc) (off : Nat) (v : Word)
  /-- S2_ROOT_WRITE (R156): A write of S2_ROOT sets a partition's stage-2 root, refusing identity for partitions other than 0. -/
  | s2RootWrite (a : Acc) (v : Word)
  /-- DB_TAIL_WRITE (R418): A write of DB_TAIL advances the producer count when in range, or sets BAD_TAIL. -/
  | dbTailWrite (a : Acc) (q : Nat) (v : Word)
  /-- OBJ_OP_TAKE (R437): A TAKE written to OBJ_OP raises an object's reference count at its home or answers its failure. -/
  | objOpTake (a : Acc) (q : Nat) (v : Word)
  /-- OBJ_OP_DROP (R437): A DROP written to OBJ_OP lowers an object's count, setting GONE at zero. -/
  | objOpDrop (a : Acc) (q : Nat) (v : Word)
  /-- OBJECT_RELEASE (R441): An object set GONE releases its tiered pages, fence watches and barriers and is appended to the release ring. -/
  | objectRelease (part obj : Nat)
  /-- RELEASE_RING_SCAN (R441): At least every 4,096 bt Sudric scans the object table and appends unreported GONE objects. -/
  | releaseRingScan (part : Nat)
  /-- Q_CTL_WRITE (R443): A write of a queue's control or ring bases takes effect or is refused while the queue is live. -/
  | qCtlWrite (a : Acc) (off : Nat) (v : Word)
  /-- CTX_CTL_WRITE (R444): A write of a context's partition or space is refused unless the context is FREE. -/
  | ctxCtlWrite (a : Acc) (v : Word)
  /-- OBJ_TBL_WRITE (R445): A write of a partition's object table or release ring is refused while the partition has live contexts. -/
  | objTblWrite (a : Acc) (off : Nat) (v : Word)
  /-- CONTEXT_DRAINED (R411): When every command of a DRAINING context has retired, BOUND falls and the context becomes FREE. -/
  | contextDrained (ctx : Nat)
  /-- DESCRIPTOR_START (R317): A channel reads a descriptor, checks it, latches its program and cuts its rows into segments. -/
  | descriptorStart (chan : Nat)
  /-- SEGMENT_STAGE_GRANT (R328): A segment is granted staging space and its source lines are read. -/
  | segmentStageGrant (chan desc seg : Nat)
  /-- PIPE_SLOT (R329): At each 128-cyc slot a pipe takes a ready segment by sealed, reserved and weighted classes. -/
  | pipeSlot (pipe : Nat)
  /-- SEGMENT_COMPLETE (R327): A pipe finishes converting and writing a segment and frees its staging space. -/
  | segmentComplete (chan desc seg : Nat)
  /-- HALF_POINT (R339): The first half of a descriptor's rows is performed and its HALF signal and CH_HALF bit are set. -/
  | halfPoint (chan : Nat)
  /-- FULL_POINT (R339): All rows are performed and the FULL signal and CH_FULL bit are set, completing the command after the last descriptor. -/
  | fullPoint (chan : Nat)
  /-- CH_CTL_WRITE (R320): A write of a channel's owner takes effect only while the channel is idle. -/
  | chCtlWrite (a : Acc) (v : Word)
  /-- SLOT_CTL_WRITE (R344): A write of a pipe slot's sealed owner applies from the next frame, or is refused beyond 48 slots. -/
  | slotCtlWrite (a : Acc) (v : Word)
  /-- REDUCTION_GRACE_EXPIRE (R304): At window end plus GRACE, short lines are combined and marked PARTIAL. -/
  | reductionGraceExpire (sess line win : Nat)
  /-- REDUCTION_WINDOW_DONE (R306): When all combine writes are performed the session record is written and the session fence signalled. -/
  | reductionWindowDone (sess win : Nat)
  /-- HEAT_UPDATE (R379): At each heat window end every tracked entry's heat and quiet count are updated. -/
  | heatUpdate
  /-- AUTO_MOVE_CHOICE (R380): In the tick after a heat update the engine chooses automatic demotions and promotions. -/
  | autoMoveChoice
  /-- TIER_MOVE_START (R388): A chosen or requested page move takes a free slot and its destination and starts the copy. -/
  | tierMoveStart
  /-- COPY_PASS_END (R389): A copy pass ends; the move recopies dirty lines, switches, or is abandoned after PASSES. -/
  | copyPassEnd (slot : Nat)
  /-- SWITCH_FINAL_COPY (R390): After the switch withdrawal completes, the remaining dirty lines are copied, held requests released and the old location freed. -/
  | switchFinalCopy (slot : Nat)
  /-- COMPRESS_STEP (R393): After each withdrawal of a compressed demotion or promotion, the engine encodes, writes the ember or decodes and rewrites the leaf. -/
  | compressStep (slot : Nat)
  /-- POOL_REGISTER_WRITE (R371): A write of a pool base or size takes effect only while tiering is disabled and nothing is enrolled. -/
  | poolRegisterWrite (a : Acc) (off : Nat) (v : Word)
  /-- H2S_PUSH (R484): A push adds a word to the request FIFO or is discarded with OVERRUN. -/
  | h2sPush (w : MbAcc) (v : Word)
  /-- S2H_POP (R484): A pop returns and removes the head reply word, or returns 0 with UNDERRUN. -/
  | s2hPop (w : MbAcc)
  /-- MB_LOCK_WRITE (R487): A lock write acquires a free lock with its tag or releases a lock it owns, else sets LOCK_ERR. -/
  | mbLockWrite (w : MbAcc) (v : Word)
  /-- H2S_DB_WRITE (R485): A write of the request doorbell sets REQUEST to tell Sudric requests are ready. -/
  | h2sDbWrite (w : MbAcc) (v : Word)
  /-- S2H_DB_CLEAR (R486): A W1C write of the reply doorbell clears bits and re-interrupts if masked bits remain. -/
  | s2hDbClear (w : MbAcc) (v : Word)
  /-- S2H_MASK_WRITE (R486): A write of the reply mask may send an interrupt when pending bits become enabled. -/
  | s2hMaskWrite (w : MbAcc) (v : Word)
  /-- FORCE_UNLOCK (R488): MB_CTL FORCE_UNLOCK clears the mailbox lock at rank 1. -/
  | forceUnlock (a : Acc) (mb : Nat)
  /-- FLUSH_H2S (R498): MB_CTL FLUSH_H2S discards the words of the request FIFO. -/
  | flushH2s (a : Acc) (mb : Nat)
  /-- FLUSH_S2H (R498): MB_CTL FLUSH_S2H discards the words of the reply FIFO. -/
  | flushS2h (a : Acc) (mb : Nat)
  /-- REQUEST_TAKE (R490): Sudric takes REQUEST and pops and runs the requests in order, refusing malformed ones. -/
  | requestTake (mb : Nat)
  /-- REPLY_PUSH (R491): Sudric pushes a whole reply once the FIFO has room and sets REPLY. -/
  | replyPush (mb : Nat)
  /-- H2S_TIMEOUT (R496): The timer toward Sudric expires and the request FIFO and doorbell are flushed. -/
  | h2sTimeout (mb : Nat)
  /-- S2H_TIMEOUT (R497): The timer toward the host expires and unread replies are discarded and counted in LOST. -/
  | s2hTimeout (mb : Nat)
  /-- VERSION (R658): VERSION agrees an interface version for the mailbox. -/
  | version (mb seq : Nat) (args : List Word)
  /-- OVERRIDE_LOG (R499): OVERRIDE_LOG returns entries of the override log for a page. -/
  | overrideLog (mb seq : Nat) (args : List Word)
  /-- LAST_REPLY (R500): LAST_REPLY returns the reply header of the newest recent request with a SEQ. -/
  | lastReply (mb seq : Nat) (args : List Word)
  /-- BCN_SET (R89): BCN_SET sets the beacon period, source and resync run length. -/
  | bcnSet (mb seq : Nat) (args : List Word)
  /-- PART_OPEN (R576): PART_OPEN opens a FREE partition and returns its key epoch. -/
  | partOpen (mb seq : Nat) (args : List Word)
  /-- PART_SEAL (R583): PART_SEAL seals or unseals a partition with fixed slots on every resource. -/
  | partSeal (mb seq : Nat) (args : List Word)
  /-- PART_CLOSE (R407): PART_CLOSE loses the partition's contexts, drains, destroys its state and runs Snuff. -/
  | partClose (mb seq : Nat) (args : List Word)
  /-- CLOSE_DRAIN_DONE (R407): When the closing partition's commands and withdrawals finish, its contexts and registrations are destroyed and Snuff starts. -/
  | closeDrainDone (part : Nat)
  /-- SNUFF_PHASE_END (R577): A Snuff phase ends at its fixed time and the next phase starts or the partition becomes FREE. -/
  | snuffPhaseEnd
  /-- LAYOUT_ASSIGN (R569): LAYOUT_SET assign gives a range from partition 0's layout to an open partition. -/
  | layoutAssign (mb seq : Nat) (args : List Word)
  /-- LAYOUT_REMOVE (R571): LAYOUT_SET remove withdraws, invalidates and scrubs a range before clearing or holding the entry. -/
  | layoutRemove (mb seq : Nat) (args : List Word)
  /-- CTX_CREATE (R410): CTX_CREATE makes a FREE context LIVE, bound to a partition and space. -/
  | ctxCreate (mb seq : Nat) (args : List Word)
  /-- CTX_DESTROY (R411): CTX_DESTROY loses a LIVE context and moves it to DRAINING. -/
  | ctxDestroy (mb seq : Nat) (args : List Word)
  /-- SPACE_GET (R131): SPACE_GET allocates a translation space with a level-A root. -/
  | spaceGet (mb seq : Nat) (args : List Word)
  /-- SPACE_PUT (R718): SPACE_PUT withdraws a whole unbound space and frees it. -/
  | spacePut (mb seq : Nat) (args : List Word)
  /-- QUEUE_CREATE (R655): QUEUE_CREATE creates and binds a queue, or answers QUOTA when none is free. -/
  | queueCreate (mb seq : Nat) (args : List Word)
  /-- QUEUE_DESTROY (R424): QUEUE_DESTROY disables a queue and replies after its last command retires. -/
  | queueDestroy (mb seq : Nat) (args : List Word)
  /-- OBJ_TABLE_SET (R433): OBJ_TABLE_SET registers a partition's object table and release ring. -/
  | objTableSet (mb seq : Nat) (args : List Word)
  /-- FAULT_RING_SET (R722): FAULT_RING_SET checks and registers a fault ring and takes references. -/
  | faultRingSet (mb seq : Nat) (args : List Word)
  /-- DISPATCH_RING_SET (R722): DISPATCH_RING_SET checks and registers a dispatch ring and takes a reference. -/
  | dispatchRingSet (mb seq : Nat) (args : List Word)
  /-- RESUME_RETRY (R183): A RETRY verdict ends a pause and walks and issues the held bytes again. -/
  | resumeRetry (mb seq : Nat) (args : List Word)
  /-- RESUME_ABORT (R183): An ABORT verdict loses the paused context and frees its token. -/
  | resumeAbort (mb seq : Nat) (args : List Word)
  /-- FENCE_WATCH (R463): FENCE_WATCH sets a host watch on a record with a target, deadline and doorbell bit. -/
  | fenceWatch (mb seq : Nat) (args : List Word)
  /-- FENCE_UNWATCH (R463): FENCE_UNWATCH cancels a host watch, ringing its doorbell bit and dropping its pin. -/
  | fenceUnwatch (mb seq : Nat) (args : List Word)
  /-- CHAN_ASSIGN (R320): CHAN_ASSIGN gives a mover channel to a partition when it is idle. -/
  | chanAssign (mb seq : Nat) (args : List Word)
  /-- XFM_LOAD (R367): XFM_LOAD checks and loads a transform program image into an owned slot. -/
  | xfmLoad (mb seq : Nat) (args : List Word)
  /-- RED_OPEN (R300): RED_OPEN opens an ordered reduction session from its record. -/
  | redOpen (mb seq : Nat) (args : List Word)
  /-- RED_BIND (R300): RED_BIND binds a context to a contributor index of a session. -/
  | redBind (mb seq : Nat) (args : List Word)
  /-- RED_UNBIND (R300): RED_UNBIND removes a context's contributor name. -/
  | redUnbind (mb seq : Nat) (args : List Word)
  /-- RED_CLOSE (R300): RED_CLOSE closes an ordered reduction session. -/
  | redClose (mb seq : Nat) (args : List Word)
  /-- CWIN_SET (R546): CWIN_SET writes or clears a coherent window on every block, clearing starting a drain. -/
  | cwinSet (mb seq : Nat) (args : List Word)
  /-- WINDOW_DRAIN_DONE (R546): The last remote copy of a cleared window is gone and the window stops draining. -/
  | windowDrainDone (w : Nat)
  /-- TIER_ENROL (R374): TIER_ENROL enrols the pages of an object for tiering. -/
  | tierEnrol (mb seq : Nat) (args : List Word)
  /-- TIER_UNENROL (R376): TIER_UNENROL removes an object's pages from tiering. -/
  | tierUnenrol (mb seq : Nat) (args : List Word)
  /-- TIER_POLICY (R383): TIER_POLICY sets the tiering configuration, thresholds and window. -/
  | tierPolicy (mb seq : Nat) (args : List Word)
  /-- ATTEST_WRITE (R572): ATTEST with DEST 0b00 writes a signed report to the caller's memory. -/
  | attestWrite (mb seq : Nat) (args : List Word)
  /-- ATTEST_CAPTURE (R572): ATTEST with DEST 0b01 captures a report into the SEC array and piece buffer. -/
  | attestCapture (mb seq : Nat) (args : List Word)
  /-- ATTEST_PIECE (R572): ATTEST with DEST 0b10 returns 112 bytes of the captured report. -/
  | attestPiece (mb seq : Nat) (args : List Word)
  /-- RESERVE (R586): RESERVE sets a partition's share of a resource and its latency target. -/
  | reserve (mb seq : Nat) (args : List Word)
  /-- KINDLE_ARM (R601): A Kindle arm closes the fetch gate for the named partitions until release count K. -/
  | kindleArm (mb seq : Nat) (args : List Word)
  /-- KINDLE_CANCEL (R607): A Kindle cancel opens the gate and answers a pending arm with TIMEOUT. -/
  | kindleCancel (mb seq : Nat) (args : List Word)
  /-- KINDLE_RELEASE (R605): At the pulse for K plus 16 cyc each block restarts its event tick, resets arbitration and opens the gate. -/
  | kindleRelease
  /-- LOCKSTEP_PAIR (R613): LOCKSTEP_PAIR pairs with a peer block for a Kindle and sends the header record. -/
  | lockstepPair (mb seq : Nat) (args : List Word)
  /-- LOCKSTEP_UNPAIR (R619): An unpair ends comparison and stops intercepting the ring. -/
  | lockstepUnpair (mb seq : Nat) (args : List Word)
  /-- LOCKSTEP_WINDOW_END (R615): At each lockstep window end the block sends its digest record to the peer and compares an earlier window. -/
  | lockstepWindowEnd (units : List (Nat × List Nat))
  /-- LOCKSTEP_RECORD_INGRESS (R616): A peer's write to the ring is delivered to the comparator buffer and answered with COMP. -/
  | lockstepRecordIngress (m : RemoteReq)
  /-- FINGERPRINT (R610): FINGERPRINT returns the reproducibility digest of a selector. -/
  | fingerprint (mb seq : Nat) (args : List Word)
  /-- FINGERPRINT_RECOMPUTE (R611): After an input change Sudric recomputes every fingerprint and raises FP_CHANGED if it differs. -/
  | fingerprintRecompute
  /-- DET_MODE_WRITE (R608): A write of DET_MODE on the master applies to every block and marks the fingerprint stale. -/
  | detModeWrite (a : Acc) (v : Word)
  /-- HEALTH (R650): HEALTH returns the worst class, record count and disabled-unit map to the BMC. -/
  | health (mb seq : Nat) (args : List Word)
  /-- NODE_ID_WRITE (R506): A write of NODE_ID on the master applies to every block, or is refused. -/
  | nodeIdWrite (a : Acc) (v : Word)
  /-- MEM_RANGE_WRITE (R516): A write of a memory range takes effect before formation when valid, or is refused. -/
  | memRangeWrite (a : Acc) (off : Nat) (v : Word)
  /-- SPAN_ROUTE_SWITCH (R540): When requests under an old span route entry have ended, requests for its nodes leave under the new entry. -/
  | spanRouteSwitch (entry : Nat)
  /-- LANE_LOCK (R520): Lanes lock on codewords and are deskewed by markers, or training backs off. -/
  | laneLock (lanes : Nat) (timeout : Bool)
  /-- MARKER_RECEIVE (R523): A marker codeword gives lane, width and index; a non-zero epoch unlocks the lane. -/
  | markerReceive (lane : Nat) (m : Marker)
  /-- HELLO (R527): HELLO exchanges versions, node IDs and widths and agrees the Vilnor version or fails with NOVER. -/
  | hello (h : Hello)
  /-- CERT (R563): The partner's certificate chain is received and verified against the enabled anchors. -/
  | cert (chain : List Cert)
  /-- KEYX (R528): The partner's nonce and ephemeral ECDH key are received for key derivation. -/
  | keyx (nonce point : List Byte)
  /-- FINISH (R528): The partner's signed transcript hash is verified and the direction keys are derived. -/
  | finish (sigOk : Bool)
  /-- CAL_REQ (R532): A calibration request is answered with CAL_RSP carrying the hold time. -/
  | calReq (hold : Nat)
  /-- CAL_RSP (R532): A calibration response yields the one-way delay D stored in BCN_CAL. -/
  | calRsp (hold t4 : Nat)
  /-- CAL_TIMER (R532): Every CAL_BT the station sends a calibration request. -/
  | calTimer (t1 : Nat)
  /-- TRAINING_TIMEOUT (R529): A training state exceeds its bound and the link backs off, or quarantines in AUTH. -/
  | trainingTimeout
  /-- BACKOFF_EXPIRE (R529): A training back-off ends and training retries from LOCK. -/
  | backoffExpire
  /-- FLIT_RECEIVE (R522): A received flit is checked by CRC and tag and its messages accepted, or it is NAKed or triggers quarantine. -/
  | flitReceive (words : List (Nat × List Nat)) (flit : List Byte) (msgs : List SpanMsg)
  /-- SPAN_ACK (R524): An ACK frees acknowledged flits from the replay buffer. -/
  | spanAck (flit : Nat)
  /-- SPAN_NAK (R524): A NAK makes the transmitter replay from the named sequence. -/
  | spanNak (flit : Nat)
  /-- SPAN_CREDIT (R526): A CREDIT message returns per-class credits from the partner. -/
  | spanCredit (credits : Word)
  /-- CRICKET (R531): A received Cricket proves the partner alive and carries its count and accepted sequence. -/
  | cricket (count : Word) (flit : Nat)
  /-- CRICKET_TIMER (R531): Every CRICKET_BT the side sends a Cricket and checks for missed periods. -/
  | cricketTimer
  /-- CRICKET_LOSS (R531): CRICKET_MISS periods without a Cricket declare the link down and retrain. -/
  | cricketLoss
  /-- BEACON (R533): A BEACON message reconstructs the partner's tick and schedules the corrected pulse for BCN. -/
  | beacon (w : BcnWordOp) (txOff arrival : Nat)
  /-- QUAR_NOTICE (R538): A partner's quarantine notice is received on a link. -/
  | quarNotice
  /-- QUAR_RELEASE (R539): A write of QUAR_CTL RELEASE clears quarantine and retrains from LOCK. -/
  | quarRelease (a : Acc) (v : Word)
  /-- TRAIN_EN_WRITE (R535): A write of SPN_CFG TRAIN_EN starts training or holds the link DOWN, restoring width on a toggle. -/
  | trainEnWrite (a : Acc) (v : Word)
  /-- SPAN_INGRESS_REQUEST (R544): A remote request arriving from the span is admitted by a window and forwarded via the home relay, or refused. -/
  | spanIngressRequest (m : RemoteReq)
  /-- REMOTE_RESPONSE (R259): An answer to a remote request returns over the span and completes it at the origin. -/
  | remoteResponse (tracker : Nat) (kind : AnsKind) (status : Nat) (data : LineData) (poison : Nat)
  /-- REMOTE_DEADLINE (R543): A remote request's deadline expires and it completes with PARTNER_ABSENT. -/
  | remoteDeadline (tracker : Nat)
  /-- REMOTE_SNOOP (R550): A snoop for a remote node is fanned out at its ingress station and combined into one answer. -/
  | remoteSnoop (node line : Nat) (op : SnpOp)
  /-- RESERVATION_WINDOW_END (R591): At each reservation window end shares reset and broken reservations are reported. -/
  | reservationWindowEnd
  /-- TENANT_PUBLICATION (R631): At each 4,096 bt window end tenant counters publish coarsened counts and the throttle bin. -/
  | tenantPublication
  /-- TC_CFG_WRITE (R632): A change of a tenant counter source clears its raw count and published value. -/
  | tcCfgWrite (a : Acc) (view idx : Nat) (v : Word)
  /-- CNT_VAL_WRITE (R626): A write of a general counter value takes effect before the tick's additions. -/
  | cntValWrite (a : Acc) (idx : Nat) (v : Word)
  /-- CNT_CFG_WRITE (R651): A write of a counter configuration applies next tick, or is refused for a nonexistent source. -/
  | cntCfgWrite (a : Acc) (idx : Nat) (v : Word)
  /-- CNT_FREEZE (R628): A write of CNT_CTL FREEZE stops or resumes counter additions. -/
  | cntFreeze (a : Acc) (v : Word)
  /-- CNT_CLEAR (R628): A write of CNT_CTL CLEAR zeroes every counter and overflow bit. -/
  | cntClear (a : Acc) (v : Word)
  /-- PATROL_SCRUB (R635): The patrol scrub reads every SRAM word each period, corrects and writes back or reports uncorrectable words. -/
  | patrolScrub (errs : List ScrubErr)
  /-- FENCE_CELL_WRITE (R652): A write of FENCE_CELL fences a cell, waiting for a running rebalance for slices. -/
  | fenceCellWrite (a : Acc) (v : Word)
  /-- REBALANCE_COMPLETE (R644): After the last back-invalidation answer every block serves the fenced slice's homes from successors. -/
  | rebalanceComplete
  /-- LOG_SEL_WRITE (R649): A write of LOG_SEL selects a record as the ring stood at the write. -/
  | logSelWrite (a : Acc) (v : Word)
  /-- RESYNC_WINDOW_CLOSE (R112): In resync mode after the phase reference, an acceptance window around the phase reference plus a whole number of periods closes without a pulse, ending the good-pulse run. -/
  | resyncWindowClose
  /-- MP_CREDIT_RETURN (R690): The controller returns command and line credits on MP_CCR and MP_LCR, letting the port issue waiting requests. -/
  | mpCreditReturn (port cmds lines : Nat)
  /-- FLIT_CREDIT_RETURN (R239): A package protocol flit whose control slot returns credits per class arrives at a station or cascade port and releases messages waiting for those credits. -/
  | flitCreditReturn (page : Nat) (port : Nat) (credits : FlitHead)
deriving DecidableEq, Repr

end Sys2Proof
end

