-- ==== Sys2Proof/Config.lean ====
section
/-!
DEFINITION. What the spec leaves open, as constants without a value: the free values of the model (log entry 3), and the
limits that the architecture fixes once for every build.
-/
namespace Sys2Proof

/-- A byte that the spec leaves undefined: the n-th free value drawn. Nothing constrains it (log entry 3). -/
opaque Config.freeByte : Nat → Byte
/-- A word that the spec leaves undefined: the n-th free value drawn (log entry 3). -/
opaque Config.freeWord : Nat → Word
/-- The root key of another block of the cascade, by position: each block has its own fuses (R561) (log entry 8). -/
opaque Config.otherRoot : Nat → List Byte
/-- The private number of an ephemeral ECDH key, and the nonce that goes with it, of the n-th draw: both are random (R528) (log entry 11). -/
opaque Config.ephemeralKey : Nat → Nat
opaque Config.linkNonce : Nat → List Byte
/-- The secret number of a signature over a digest, which FIPS 186 leaves to the signer (R564, R574) (log entry 11). -/
opaque Config.signNonce : List Byte → Nat
/-- What stands in for the device seed in DEBUG, where the fused one is disconnected (R559) (log entry 11). -/
opaque Config.noSeed : List Byte

/-- Event tick in fabric cycles (R97). -/
def Config.tickCyc : Nat := 8
/-- Request trackers of a slice (R207). -/
def Config.trackers : Nat := 512
/-- Ways of a directory set (R231). -/
def Config.dirWays : Nat := 16
/-- Lines of a slice's ordered reduction store (R309). -/
def Config.redStore : Nat := 4096

end Sys2Proof
end

