-- ==== Sys2Proof/Machine/State.lean ====
section
/-!
DEFINITION. The state of a Hexlos block as plain data: every register, table, queue, FIFO, counter and mode that the
spec gives it, each with the rule that names it, the queue of waiting commands, and the state after reset.
The default value of every field is its value after reset.
-/
namespace Sys2Proof.Machine
open Sys2Proof

/-- Ways a command can stop the machine. -/
inductive Fault where
  /-- A request names a line outside the 46-bit NPA space (R118): no such address exists. Raised by the request
  commands of the homes. Safe: the hardware cannot carry such an address. -/
  | noSuchAddress
deriving DecidableEq, Repr

/-- Commands that have no meaning. -/
inductive Refusal where
  /-- A command that is not modelled, by its mnemonic. Raised by the dispatch alone. Safe. -/
  | notModelled (mnemonic : String)
deriving DecidableEq, Repr

/-- BCN_STAT[MODE] (R92, R107, R111). -/
inductive BcnMode where | locked | coast | dark | resync
deriving DecidableEq, Repr, Inhabited
/-- Lifecycle states (R557). -/
inductive Lifecycle where | blank | secured | debug | retired
deriving DecidableEq, Repr, Inhabited
/-- Partition states (R406). -/
inductive PartState where | free | open_ | closing | scrub
deriving DecidableEq, Repr, Inhabited
/-- Error classes (R634). -/
inductive ErrClass where | none | ce | ueData | ueUnit | protocol | fatal
deriving DecidableEq, Repr, Inhabited
/-- Access classes of a translation (R123). -/
inductive Access where | read | write | atomic
deriving DecidableEq, Repr, Inhabited
/-- What of a mover channel waits for a translation (R141, R169): the read of its next descriptor, or a burst of a segment's source or
destination lines, by channel, number of the descriptor and segment. -/
inductive MoveFor where
  | desc (chan : Nat)
  | src (chan desc seg : Nat)
  | dst (chan desc seg : Nat)
deriving DecidableEq, Repr, Inhabited
/-- Who issued a withdrawal, and so what its completion does (R197). -/
inductive WdFrom where
  /-- WD_CTL[GO] -/
  | reg
  /-- MAP_WITHDRAW command: queue and SEQ -/
  | cmd (q seq : Nat)
  /-- page move in a move slot of the tiering engine -/
  | tier (slot : Nat)
  /-- SPACE_PUT: space, mailbox and SEQ -/
  | space (id mb seq : Nat)
  /-- removal of a layout entry -/
  | layout (entry : Nat)
  /-- assignment of a layout entry, which waits for host requests and drains nothing: mailbox and SEQ -/
  | assign (mb seq : Nat)
  /-- a write of S2_ROOT, or another change Sudric makes -/
  | internal
deriving DecidableEq, Repr, Inhabited
/-- Progress of a burst (R169 to R172). -/
inductive BurstState where | waiting | missed | ready | issued | held | done
deriving DecidableEq, Repr, Inhabited
/-- State of a demand token (R178, R183). -/
inductive TokenState where | free | paused | retrying
deriving DecidableEq, Repr, Inhabited
/-- Directory states (R206): Uncached, Shared, Forwarded and Owned, with the holder vector by agent number. -/
inductive DirState where
  | unc
  | shared (v : BitVec 32)
  | fwd (f : Nat) (v : BitVec 32)
  | owned (o : Nat)
deriving DecidableEq, Repr, Inhabited
/-- What a transaction on a Blocked line is for. -/
inductive TxnKind where
  /-- a request in its place -/
  | serve
  /-- back-invalidation of a victim (R232) -/
  | backinv
  /-- the stash offer after a WR_STASH, to an agent (R229) -/
  | stash (agent : Nat)
  /-- invalidation for a Snuff or a range scrub: dirty data is discarded -/
  | purge
  /-- back-invalidation of the copies in other packages, when a window is cleared (R546) -/
  | remoteInv
  /-- what is left of a transaction whose requester is gone (R250) -/
  | lost
deriving DecidableEq, Repr, Inhabited
/-- Progress of a mover segment (R325 to R338). -/
inductive SegState where | wait | staged | run | written | done
deriving DecidableEq, Repr, Inhabited
/-- STATE of a heat entry or ember record (R402). -/
inductive HeatState where | untracked | resident | out | inn | free | ember | emberMx
deriving DecidableEq, Repr, Inhabited
/-- Progress of a page move: copy passes, the wait for a drain, the switch withdrawal (R389, R390), and for compressed moves the
withdrawal of W and that of the final leaf, each with its wait (R393, R398). -/
inductive MoveStep where | copy | waitDrain | withdraw | clampWait | clamp | shownWait | shown
deriving DecidableEq, Repr, Inhabited
/-- Context states (R410). -/
inductive CtxState where | free | live | lost | killing
deriving DecidableEq, Repr, Inhabited
/-- Progress of a command: pins asked for, accepted, dispatched, at work in its unit, ended (R426, R439, R440). -/
inductive CmdState where | taking | accepted | dispatched | running | retire
deriving DecidableEq, Repr, Inhabited
/-- States of the Vilnor link (R527 and the training table). -/
inductive SpnState where | down | lock | hello | auth | cal | active | backoff
deriving DecidableEq, Repr, Inhabited

/-- One event that a counter may count (R623, R625): page, event number, partition, instance and amount. -/
structure CntEvent where
  page : Nat := 0
  ev : Nat := 0
  part : Nat := 0
  inst : Nat := 0
  n : Nat := 1
deriving DecidableEq, Repr, Inhabited

/-- The registers of a data port that an access may reach. -/
inductive DpKind where | win | rd | ctl | addr
deriving DecidableEq, Repr, Inhabited

/-- An access to a data port that waits in its host station's request queue (R68). -/
structure DpAcc where
  acc : Acc := {}
  kind : DpKind := .win
  off : Nat := 0
  size : Nat := 8
  data : List Word := []
deriving DecidableEq, Repr, Inhabited

/-- An answer of a home to a requester (R212). -/
structure Answer where
  origin : Origin := .relay
  agent : Nat := 32
  tag : Nat := 0
  line : Nat := 0
  kind : AnsKind := .comp
  status : Status := .ok
  data : LineData := 0
  poison : Nat := 0
deriving DecidableEq, Repr, Inhabited

/-- What the block sends across its boundary. -/
inductive OutMsg where
  /-- CTL INTR through a host station: station, vector word as IRQ_VEC or MB_VEC holds it, page index (R60, R486) -/
  | intr (st : Nat) (vec : Word) (page : Nat)
  /-- an answer to a host station, an engine port or a cascade port -/
  | ans (a : Answer)
  /-- a snoop to an agent, with DEST agent and DEST_TAG -/
  | snp (agent : Nat) (op : SnpOp) (line dest destTag : Nat)
  /-- STASH_DATA to an agent, with its poison (R229, R245) -/
  | stash (agent line : Nat) (data : LineData) (poison : Nat)
  /-- the CREDIT field of a flit to a station's partner: credits of the messages consumed (R239) -/
  | credit (page : Nat) (credits : Word)
  /-- COMP of an eviction (R217, R218) -/
  | wbComp (agent tag : Nat)
  /-- REG_RSP: station, status, words of a read -/
  | reg (st : Nat) (status : Status) (data : List Word)
  /-- the value an I3C read returns -/
  | i3c (data : Word)
  /-- LINK_INIT of a station page or cascade port: page index, credits -/
  | linkInit (page : Nat) (credits : Word)
  /-- a message over a cascade port -/
  | cas (port : Nat) (m : CasMsg)
  /-- a message over the span -/
  | span (m : SpanMsg)
  /-- beacon pulse at a cycle, and the 96-bit word that announces the next, as its 12 bytes in order (R85, R87, R701) -/
  | beacon (at_ : Nat) (word : List Byte)
  /-- an engine request completed at its port: port, tag, status code, data by line, poison -/
  | eng (port tag : Nat) (status : Status) (data : List LineData) (poison : Nat)
  /-- an ENG_DISPATCH written to a dispatch ring slot: partition, slot, words (R430) -/
  | dispatch (part slot : Nat) (words : List Word)
  /-- a memory read or write at a memory port: port, write, tag, line -/
  | mem (port : Nat) (wr : Bool) (tag line : Nat)
deriving DecidableEq, Repr, Inhabited

/-- What memory holds of a line while a write of it waits for the credits of its memory port (R642, R690). -/
structure OldLine where
  line : Nat := 0
  data : LineData := 0
  pois : Nat := 0
  key : Option (Nat × Nat) := none
deriving DecidableEq, Repr, Inhabited

/-- A read outstanding at a memory port, with the answers that its data completes (R691 to R693). -/
structure MemRead where
  tag : Nat := 0
  line : Nat := 0
  cyc : Nat := 0
  /-- chunks that memory held poisoned when the read was issued (R694) -/
  pois : Nat := 0
  /-- the line version that the request's place gave it -/
  ans : List Answer := []
deriving DecidableEq, Repr, Inhabited

/-- What Yelorward built into the block (R38, R39) and the digests the build and the ROM carry. -/
structure Build where
  /-- span station present (01 R39; 1). -/
  spn : Bool := true
  /-- coherent windows present (01 R39; 1). -/
  cwin : Bool := true
  /-- lockstep comparator present (01 R39; 1). -/
  lockstep : Bool := true
  /-- transform units present (01 R39; 1). -/
  xfm : Bool := true
  /-- far memory ports present (01 R39; 1). -/
  fmp : Bool := true
  /-- tiering engine present (01 R39; 1). -/
  tir : Bool := true
  /-- engine ports, PG_CAP[PORTS] (02 R56; 8). -/
  ports : Nat := 32
  /-- directory entries in Mi, PG_CAP[DIR_MI] (02 R56; 8). -/
  dirMi : Nat := 8
  /-- engine FDI instances that the integrator tied off (21 R687; 8). -/
  engTied : List Nat := []
  /-- Lantern entries, PG_CAP[LANTERN] (02 R56; 16). -/
  lantern : Nat := 16384
  /-- ROM_DIGEST; the empty list stands for 48 zero bytes (16 R574; 384). -/
  romDigest : List Byte := []
  /-- CONFIG_DIGEST of Yelorward; the empty list stands for 48 zero bytes (16 R574; 384). -/
  configDigest : List Byte := []
  /-- digest of the Derfold image key held in ROM; the empty list stands for 48 zero bytes (20 R672; 384). -/
  imageKeyDigest : List Byte := []
deriving DecidableEq, Repr, Inhabited

/-- Clocks, reset and the event tick (R97, R597). -/
structure Clk where
  /-- fabric cycles since reset release (17 R597; unbounded). -/
  cyc : Nat := 0
  /-- cycle in which the current event tick began (03 R97; unbounded). -/
  tickStart : Nat := 0
  /-- the advance of the count that falls in the current event tick is in the queue, and the tick's other events follow it (03 R98; 1). -/
  advancing : Bool := false
  /-- event ticks since reset release (17 R597; unbounded). -/
  et : Nat := 0
  /-- event tick in which the frames of 64 slots were last restarted at slot 0 (17 R605; unbounded). -/
  frameEt : Nat := 0
  /-- the block runs no function until a block reset (scan entry) (21 R710; 1). -/
  stopped : Bool := false
  /-- RST_REQ is driven (20 R685; 1). -/
  rstReq : Bool := false
  /-- THROTTLE level in effect (21 R705; 3). -/
  throttle : Nat := 0
  /-- highest level applied in the current tenant window (21 R706; 3). -/
  throttleMax : Nat := 0
  /-- last PWR_RPT value driven (21 R707; 16). -/
  pwrRpt : Nat := 0
deriving DecidableEq, Repr, Inhabited

/-- One entry of a page's override log (R499). -/
structure Override where
  /-- register offset (14 R499; 16). -/
  off : Nat := 0
  /-- least significant bit of the field (14 R499; 6). -/
  lsb : Nat := 0
  /-- WIDTH of the field in bits (14 R499; 6). -/
  width : Nat := 64
  /-- 0 overridden, 1 adopted, 2 restored (14 R499; 2). -/
  st : Nat := 0
  /-- value Sudric last set, right-aligned (14 R499; 64). -/
  value : Word := 0
  /-- record that the select register named, for a register that shows one of many (14 R499; 10). -/
  sel : Nat := 0
deriving DecidableEq, Repr, Inhabited

/-- The common header of a 64 KiB page, its data port and its override record (R54 to R82). -/
structure Page where
  /-- PG_CTL[ENABLE] where it is RW; the other pages read 1 (02 R57; 1). -/
  enable : Bool := false
  /-- PG_CTL[EXPERT] (02 R74; 1). -/
  expert : Bool := false
  /-- PG_CTL[FENCE], set by a write or by RAS (02 R59; 1). -/
  fence : Bool := false
  /-- PG_STAT[LAST] (02 R75; 8). -/
  last : Status := .ok
  /-- PG_STAT[OVERRIDE] (02 R80; 1). -/
  override : Bool := false
  /-- PG_STAT[ACC_ERR] (02 R52; 1). -/
  accErr : Bool := false
  /-- accepted work outstanding that no unit structure shows; PG_STAT[BUSY] is 1 while it is not 0 (02 R58; unbounded). -/
  work : Nat := 0
  /-- IRQ_RAW (02 R60; 64). -/
  irqRaw : Word := 0
  /-- IRQ_EN (02 R60; 64). -/
  irqEn : Word := 0
  /-- IRQ_VEC (02 R61; 64). -/
  irqVec : Word := 0
  /-- stations that are link-down and are owed the page's message (01 R29; 2). -/
  irqHeld : List Nat := []
  /-- DP_ADDR as written (02 R712; 64). -/
  dpAddr : Word := 0
  /-- DP_CTL as written, MODE apart (02 R712; 64). -/
  dpCtl : Word := 0
  /-- DP_CTL[MODE]: 0 idle, 1 read, 2 write (02 R69; 2). -/
  dpMode : Nat := 0
  /-- OFFSET of the current block (02 R68; 56). -/
  dpOff : Nat := 0
  /-- DP_STAT[STATUS] (02 R70; 8). -/
  dpStatus : Status := .ok
  /-- DP_STAT[READY] (02 R66; 1). -/
  dpReady : Bool := false
  /-- DP_STAT[DONE] (02 R70; 1). -/
  dpDone : Bool := false
  /-- DP_STAT[ERR] (02 R70; 1). -/
  dpErr : Bool := false
  /-- DP_STAT[UNDERRUN] (02 R66; 1). -/
  dpUnderrun : Bool := false
  /-- DP_STAT[CONFLICT] (02 R69; 1). -/
  dpConflict : Bool := false
  /-- DP_STAT[REMAIN] (02 R70; 16). -/
  dpRemain : Nat := 0
  /-- host station that claimed the port (02 R69; 1). -/
  dpClaim : Option Nat := none
  /-- the 256-byte window (02 R66; 32 x 64). -/
  dpWin : Tbl Word := []
  /-- window words marked valid since the last commit (02 R67; 32). -/
  dpValid : List Nat := []
  /-- contents captured for a snapshot array (02 R64; array). -/
  dpSnap : List Word := []
  /-- words of the commit on its way to the array, by byte offset (02 R70; 32 x 64). -/
  dpCommit : List (Nat × Word) := []
  /-- array select of the commit on its way (02 R70; 8). -/
  dpCommitArr : Nat := 0
  /-- a commit is on its way to the array (02 R70; 1). -/
  dpCommitting : Bool := false
  /-- the block in the window held a poisoned word (02 R71; 1). -/
  dpPois : Bool := false
  /-- the commit on its way belongs to a transfer that was abandoned (02 R71; 1). -/
  dpOld : Bool := false
  /-- line writes of the commit that are not yet performed (02 R70; 8). -/
  dpLeft : Nat := 0
  /-- the line writes of the commit have been placed at their homes (02 R70; 1). -/
  dpSent : Bool := false
  /-- accesses that wait in a host station's request queue for the commit (02 R715; 32). -/
  dpWait : List DpAcc := []
  /-- the commit on its way ends the burst (02 R70; 1). -/
  dpEnding : Bool := false
  /-- register values Sudric last set, by offset (02 R80; 64 each). -/
  basic : Tbl (Option Word) := []
  /-- the override log, newest first (14 R499; 64 entries). -/
  log : List Override := []
  /-- the check after EXPERT fell is running (02 R81; 1). -/
  checking : Bool := false
deriving DecidableEq, Repr, Inhabited

/-- A beacon word (R87). -/
structure BcnWord where
  /-- NEXT (03 R87; 64). -/
  next : Word := 0
  /-- UNCERTAIN (03 R87; 1). -/
  uncertain : Bool := false
deriving DecidableEq, Repr, Inhabited

/-- Beacon counting (R83 to R117). -/
structure Bcn where
  /-- BCN_CFG (03 R115; 64). -/
  cfg : Word := 0x100000
  /-- BCN_PERIOD as in force (03 R89; 64). -/
  period : Word := 0x40007D0
  /-- BCN_CFG[SRC] change that waits for the next counted tick (03 R116; 64). -/
  cfgNext : Option Word := none
  /-- BCN_PERIOD that waits for the next counted tick (03 R116; 64). -/
  periodNext : Option Word := none
  /-- BCN_COUNT (03 R94; 64). -/
  count : Word := 0
  /-- BCN_STAT[MODE] (03 R92; 2). -/
  mode : BcnMode := .dark
  /-- BCN_STAT[UNCERTAIN] (03 R109; 1). -/
  uncertain : Bool := true
  /-- BCN_STAT[SRC_UNCERTAIN] (03 R110; 1). -/
  srcUncertain : Bool := false
  /-- BCN_STAT[GOOD_RUN] (03 R112; 8). -/
  goodRun : Nat := 0
  /-- cycle of the event tick in which the count last advanced (03 R95; cyc). -/
  lastTick : Nat := 0
  /-- expected time of the last counted tick, the origin of the next expected time (03 R90; cyc). -/
  expected : Nat := 0
  /-- cycle from which dark entry is counted: the last accepted pulse, phase reference or entry into resync (03 R107; cyc). -/
  lastPulse : Nat := 0
  /-- cycle of the last accepted pulse, for BCN_LAST_PERIOD (03 R116; cyc). -/
  lastAcc : Option Nat := none
  /-- the count last advanced by a coasted tick (03 R96; 1). -/
  coasted : Bool := false
  /-- valid word announcing the next pulse (03 R87; 96). -/
  word : Option BcnWord := none
  /-- mismatching accepted pulses in a row (03 R93; 2). -/
  missRow : Nat := 0
  /-- phase reference of resync mode, moved on by whole periods (03 R111; cyc). -/
  phaseRef : Option Nat := none
  /-- cycle of the entry into resync mode (03 R716; cyc). -/
  resyncAt : Nat := 0
  /-- count that the next good pulse of the run must announce (03 R112; 64). -/
  runNext : Option Word := none
  /-- cycle in which the valid word arrived (03 R88; 64). -/
  wordAt : Nat := 0
  /-- a full run was completed and the announced count is awaited (03 R113; 1). -/
  runDone : Bool := false
  /-- event tick of the step whose interrupts are owed (03 R117; 64). -/
  irqAt : Nat := 0
  /-- interrupts owed in the event tick after a step: 0 none, 1 RESYNC, 2 RESYNC and STEP (03 R117; 2). -/
  irqStep : Nat := 0
  /-- BCN_STRAY (03 R91; 32). -/
  stray : Nat := 0
  /-- BCN_COAST_TOTAL (03 R92; 32). -/
  coastTotal : Nat := 0
  /-- BCN_WORD_ERR (03 R88; 32). -/
  wordErr : Nat := 0
  /-- BCN_DARK_AT (03 R107; 64). -/
  darkAt : Word := 0
  /-- BCN_RESYNC (03 R114; 64). -/
  resync : Word := 0
  /-- BCN_LAST_PERIOD (03 R116; 20). -/
  lastPeriod : Nat := 0
deriving DecidableEq, Repr, Inhabited

/-- CTL start-up registers, the image staging array and what the boot stages keep (R663 to R686). -/
structure Boot where
  /-- BOOT_STAT[STAGE] (20 R674; 4). -/
  stage : Nat := 0
  /-- BOOT_STAT[ERR] (20 R674; 8). -/
  err : Nat := 0
  /-- BOOT_STAT[RST_CAUSE] (20 R685; 2). -/
  rstCause : Nat := 0
  /-- BOOT_INFO (20 R670; 64). -/
  info : Word := 0
  /-- OPEN_AT (20 R680; 64). -/
  openAt : Word := 0
  /-- PREV_STAT (20 R663; 64). -/
  prevStat : Word := 0
  /-- BOOT_COUNT (20 R670; 32). -/
  bootCount : Nat := 0
  /-- UNIT_RST_STAT page index (20 R682; 8). -/
  urPage : Nat := 0
  /-- UNIT_RST_STAT[BUSY] (20 R682; 1). -/
  urBusy : Bool := false
  /-- UNIT_RST_STAT[STATUS] (20 R683; 8). -/
  urStatus : Status := .ok
  /-- CTL data-port array 0x01 (20 R671; 2 MiB). -/
  staging : Tbl Byte := []
  /-- a Sudric image runs (20 R674; 1). -/
  running : Bool := false
  /-- SUDRIC_DIGEST of the running image; the empty list stands for 48 zero bytes (20 R672; 384). -/
  sudricDigest : List Byte := []
  /-- MEM_WAIT of the start parameters (20 R676; 32). -/
  memWait : Nat := 0
  /-- FCLK_KHZ of the start parameters (20 R673; 32). -/
  fclkKhz : Nat := 0
  /-- BEACON_NS of the master's start parameters, 0 while not known (20 R673; 14). -/
  beaconNs : Nat := 0
  /-- SPAN_TRAIN of the start parameters (20 R678; 1). -/
  spanTrain : Bool := false
  /-- device certificate chain of the start parameters (16 R564; 3064 B). -/
  cert : List Byte := []
  /-- cycle in which step 6 ended (20 R675; cyc). -/
  step6Cyc : Nat := 0
  /-- beacon count at which step 6 ended (20 R676; 64). -/
  step6Count : Word := 0
  /-- station and memory port pages that no longer gate the start (20 R675; pages). -/
  ungated : List Nat := []
  /-- cascade positions that are attestation-ready (20 R679; positions). -/
  attReady : List Nat := []
  /-- partitions that were not FREE when the last block reset came (20 R665; 64). -/
  wasOpen : List Nat := []
  /-- the current start follows a block reset (20 R665; 1). -/
  restarted : Bool := false
deriving DecidableEq, Repr, Inhabited

/-- The fuse macro (R703). -/
structure Fuses where
  /-- blown bits by row (21 R703; 4096 x 64). -/
  rows : Tbl Word := []
  /-- the fuse array failed its integrity check at the last fuse load (20 R681; 1). -/
  fuseBad : Bool := false
  /-- lifecycle state as the last fuse load fixed it (16 R557; 2). -/
  lifecycle : Lifecycle := .blank
  /-- rows as the last fuse load read them (21 R704; 4096 x 64). -/
  loaded : Tbl Word := []
deriving DecidableEq, Repr, Inhabited

/-- One entry of the partition layout table (R568). -/
structure Layout where
  /-- PART (16 R568; 10). -/
  part : Nat := 0
  /-- VALID (16 R568; 1). -/
  valid : Bool := false
  /-- HELD (16 R580; 1). -/
  held : Bool := false
  /-- base in 4 MiB granules (16 R569; 24). -/
  base : Nat := 0
  /-- length in 4 MiB granules (16 R569; 24). -/
  len : Nat := 0
  /-- removal: 0 none, 1 withdrawing, 2 and 3 invalidating and scrubbing (16 R571; 2). -/
  removing : Nat := 0
  /-- mailbox owed the reply of the removal (16 R571; 7). -/
  rmMb : Nat := 0
  /-- SEQ owed the reply of the removal (16 R571; 8). -/
  rmSeq : Nat := 0
deriving DecidableEq, Repr, Inhabited

/-- A partition's reservation of one resource (R586 to R592). -/
structure Reserv where
  /-- units served in the current window (16 R588; unbounded). -/
  used : Nat := 0
  /-- units served at or after the end of a window that has not closed yet (03 R104; unbounded). -/
  usedNext : Nat := 0
  /-- units taken for the progress floor at or after that end (03 R104; 10). -/
  cutNext : Nat := 0
  /-- SHARE (16 R586; 10). -/
  share : Nat := 0
  /-- effective share in the last window (16 R591; 10). -/
  eff : Nat := 0
  /-- units taken for the progress floor in the current window (16 R591; 10). -/
  cut : Nat := 0
  /-- BROKEN in the last window (16 R591; 1). -/
  broken : Bool := false
deriving DecidableEq, Repr, Inhabited

/-- SEC page: layout, keys, Snuff, sealing, reservations, attestation (R557 to R595). -/
structure Sec where
  /-- PART_SEL (16 R594; 6). -/
  partSel : Nat := 0
  /-- RANGE_SEL (16 R594; 10). -/
  rangeSel : Nat := 0
  /-- RES_SEL (16 R594; 64). -/
  resSel : Word := 0
  /-- RES_CFG (16 R594; 64). -/
  resCfg : Word := 0x40
  /-- window length in force (16 R594; 16). -/
  resWin : Nat := 0x40
  /-- end count of the current reservation window (16 R588; 64). -/
  resEnd : Word := 0x40
  /-- unfenced slices that slice reservations are scaled by (16 R592; 4). -/
  slices : Nat := 8
  /-- the window is the first after a slice was fenced (16 R592; 1). -/
  sliceMsg : Bool := false
  /-- key epochs (16 R576; 64 x 32). -/
  epochs : Tbl Nat := []
  /-- the layout table (16 R568; 1024 entries). -/
  layout : Tbl Layout := []
  /-- SLOTS of each sealed partition (16 R583; 64 x 6). -/
  sealed : Tbl Nat := []
  /-- sealed positions of every resource's frame: the partition, + 1024 (16 R583; 64 x 11). -/
  frame : Tbl Nat := []
  /-- reservations by partition x 4 + resource (16 R586; 256). -/
  reserv : Tbl Reserv := []
  /-- LAT_ET of each partition (16 R586; 64 x 16). -/
  latEt : Tbl Nat := []
  /-- LIFECYCLE[CHAIN_OK] (16 R564; 1). -/
  chainOk : Bool := false
  /-- SNUFF_STAT partition (16 R577; 6). -/
  snuffPart : Nat := 0
  /-- running phase 1 to 4, 0 when none (16 R577; 3). -/
  snuffPhase : Nat := 0
  /-- cycle in which the running phase ends (16 R577; cyc). -/
  snuffEnd : Nat := 0
  /-- mailbox owed the reply of PART_CLOSE (16 R576; 7). -/
  snuffMb : Nat := 0
  /-- SEQ owed the reply of PART_CLOSE (16 R576; 8). -/
  snuffSeq : Nat := 0
  /-- a fenced port left lines of the running Snuff unwritten (16 R580; 1). -/
  snuffHeld : Bool := false
  /-- far pool units held with unwritten lines (16 R580; units). -/
  heldUnits : List Nat := []
  /-- near pool frames held with unwritten lines (16 R580; frames). -/
  heldFrames : List Nat := []
  /-- last captured attestation report (16 R594; report). -/
  report : List Byte := []
  /-- piece buffers of mailboxes 0 and 64 (16 R572; 2 x report). -/
  pieces : Tbl (List Byte) := []
  /-- attestation block sections the master holds, by position (16 R573; 8 x 256 B). -/
  sections : Tbl (List Byte) := []
  /-- BROKEN_TOTAL (16 R595; 32). -/
  brokenTotal : Nat := 0
  /-- SNUFF_TOTAL (16 R595; 32). -/
  snuffTotal : Nat := 0
  /-- ATTEST_TOTAL (16 R572; 32). -/
  attestTotal : Nat := 0
deriving DecidableEq, Repr, Inhabited

/-- One of the 66 mailboxes (R481 to R498). -/
structure Mailbox where
  /-- MB_LOCK[HELD] (14 R487; 1). -/
  held : Bool := false
  /-- MB_LOCK[OWNER] (14 R487; 16). -/
  owner : Nat := 0
  /-- request FIFO (14 R484; 16 x 64). -/
  h2s : List Word := []
  /-- reply FIFO (14 R484; 16 x 64). -/
  s2h : List Word := []
  /-- H2S_DB (14 R485; 32). -/
  h2sDb : Word := 0
  /-- H2S_MASK (14 R485; 32). -/
  h2sMask : Word := 1
  /-- S2H_DB (14 R486; 32). -/
  s2hDb : Word := 0
  /-- S2H_MASK (14 R486; 32). -/
  s2hMask : Word := 0
  /-- MB_VEC (14 R486; 64). -/
  vec : Word := 0
  /-- stations that are link-down and are owed the mailbox's message (14 R486; 2). -/
  irqHeld : List Nat := []
  /-- MB_ERR[OVERRUN] (14 R484; 1). -/
  overrun : Bool := false
  /-- MB_ERR[UNDERRUN] (14 R484; 1). -/
  underrun : Bool := false
  /-- MB_ERR[LOCK_ERR] (14 R487; 1). -/
  lockErr : Bool := false
  /-- MB_TIMEOUT[H2S_TO] (14 R495; 1). -/
  h2sTo : Bool := false
  /-- MB_TIMEOUT[S2H_TO] (14 R495; 1). -/
  s2hTo : Bool := false
  /-- H2S_CAUSE (14 R495; 2). -/
  h2sCause : Nat := 0
  /-- S2H_CAUSE (14 R495; 2). -/
  s2hCause : Nat := 0
  /-- LOST (14 R497; 8). -/
  lost : Nat := 0
  /-- beacon count at which the timer toward Sudric expires (14 R495; 64). -/
  h2sTimer : Option Word := none
  /-- beacon count at which the timer toward the host expires (14 R495; 64). -/
  s2hTimer : Option Word := none
  /-- whole replies that wait for room, oldest first (14 R491; replies). -/
  replies : List (List Word) := []
  /-- words left of each message in the reply FIFO, in order (14 R497; words). -/
  fifoMsgs : List Nat := []
  /-- reply headers of the last 16 requests, newest first (14 R500; 16 x 64). -/
  recent : List Word := []
  /-- agreed interface version (19 R659; 8). -/
  version : Nat := 1
deriving DecidableEq, Repr, Inhabited

/-- MBX page (R482, R502). -/
structure Mbx where
  /-- MBX_CFG (14 R502; 64). -/
  cfg : Word := 0x40000100
  /-- the mailboxes (14 R481; 66). -/
  boxes : Tbl Mailbox := []
  /-- TO_MAP_LO (14 R502; 64). -/
  toMapLo : Word := 0
  /-- TO_MAP_HI (14 R502; 64). -/
  toMapHi : Word := 0
deriving DecidableEq, Repr, Inhabited

/-- CNT page (R623 to R633). -/
structure Cnt where
  /-- CNT_CTL[FREEZE] (18 R628; 1). -/
  freeze : Bool := false
  /-- FREEZE as the current event tick applies it (18 R628; 1). -/
  freezeNow : Bool := false
  /-- CNT_OVF (18 R627; 64). -/
  ovf : Word := 0
  /-- CNT_VAL (18 R627; 64 x 48). -/
  vals : Tbl Nat := []
  /-- CNT_CFG as written (18 R626; 64 x 64). -/
  cfgs : Tbl Word := []
  /-- CNT_CFG as the current event tick applies it (18 R626; 64 x 64). -/
  cfgsNow : Tbl Word := []
  /-- events sampled in the current event tick (18 R625; events). -/
  events : List CntEvent := []
  /-- a clear was taken in this event tick (18 R628; 1). -/
  clr : Bool := false
deriving DecidableEq, Repr, Inhabited

/-- One tenant counter (R630 to R633). -/
structure TenCnt where
  /-- TC_CFG[TSRC] (18 R630; 8). -/
  src : Nat := 0
  /-- source as the current event tick counts it (18 R632; 8). -/
  srcNow : Nat := 0
  /-- raw count, never readable (18 R631; 64). -/
  raw : Nat := 0
  /-- TC_VAL (18 R631; 64). -/
  val : Nat := 0
deriving DecidableEq, Repr, Inhabited

/-- What the block keeps for one partition (R404 to R408, R433, R582). -/
structure Part where
  /-- PV_STAT[STATE] (12 R406; 3). -/
  st : PartState := .free
  /-- PV_ERR[ACC_ERR] (02 R52; 1). -/
  accErr : Bool := false
  /-- tenant counters (18 R630; 8). -/
  tc : Tbl TenCnt := []
  /-- TC_PUB (18 R631; 64). -/
  tcPub : Word := 0
  /-- TC_THROTTLE (18 R631; 2). -/
  tcBin : Nat := 0
  /-- OBJ_TBL (12 R445; 64). -/
  objTbl : Word := 0
  /-- REL_BASE (12 R445; 64). -/
  relBase : Word := 0
  /-- REL_CTL (12 R445; 64). -/
  relCtl : Word := 0
  /-- release ring entries written (12 R441; 64). -/
  relProduce : Nat := 0
  /-- object IDs that wait for room in the release ring (12 R441; 256). -/
  relHold : List Nat := []
  /-- object of the registered fault ring (05 R722; 24). -/
  faultObj : Option Nat := none
  /-- n of the fault ring (05 R179; 5). -/
  faultLog : Nat := 0
  /-- fence object of the fault ring (05 R179; 24). -/
  faultFObj : Nat := 0
  /-- fence index of the fault ring (05 R179; 32). -/
  faultFIdx : Nat := 0
  /-- fault records written (05 R179; 64). -/
  faultProduce : Nat := 0
  /-- object of the registered dispatch ring (12 R430; 24). -/
  dispObj : Option Nat := none
  /-- m of the dispatch ring (12 R430; 4). -/
  dispLog : Nat := 0
  /-- next dispatch slot in dispatch order (12 R430; 12). -/
  dispNext : Nat := 0
  /-- running instances: slot to (context, SEQ + 1) (12 R431; 4096). -/
  dispRun : Tbl (Nat × Nat) := []
  /-- queue of the running instance of a slot (12 R431; 4096). -/
  dispQ : Tbl Nat := []
  /-- object of the ring in which the running instance of a slot was dispatched (12 R430; 4096). -/
  dispOf : Tbl Nat := []
  /-- mailbox owed the reply of PART_CLOSE (12 R407; 7). -/
  closeMb : Nat := 0
  /-- SEQ owed the reply of PART_CLOSE (12 R407; 8). -/
  closeSeq : Nat := 0
  /-- the last fault ring write attempt failed (05 R721; 1). -/
  ringFail : Bool := false
  /-- the last release ring write attempt failed (05 R721; 1). -/
  relFail : Bool := false
  /-- objects set GONE whose release has not run (12 R441; IDs). -/
  goneTodo : List Nat := []
  /-- GONE objects that the release ring and its hold store had no room for (12 R441; IDs). -/
  goneLate : List Nat := []
  /-- count by which the object table is scanned again (12 R441; 64). -/
  scanAt : Word := 0
deriving DecidableEq, Repr, Inhabited

/-- One error log record (R648). -/
structure LogRec where
  /-- STATUS (18 R648; 8). -/
  status : Nat := 0
  /-- CLASS (18 R634; 3). -/
  cls : ErrClass := .none
  /-- PAGE (18 R648; 6). -/
  page : Nat := 0
  /-- INDEX (18 R648; 8). -/
  index : Nat := 0
  /-- PART (18 R648; 10). -/
  part : Nat := 0x3FF
  /-- ADDR with ADDR_VALID (18 R648; 57). -/
  addr : Option Nat := none
  /-- ADDR_VA (18 R648; 1). -/
  addrVa : Bool := false
  /-- timestamp (18 R648; 128). -/
  time : Nat := 0
deriving DecidableEq, Repr, Inhabited

/-- RAS page (R634 to R653). -/
structure Ras where
  /-- RAS_CFG (18 R639; 64). -/
  cfg : Word := 0x40004100101
  /-- RAS_STAT worst class since reset (18 R634; 3). -/
  worst : Nat := 0
  /-- worst class since the previous HEALTH (18 R650; 3). -/
  worstHealth : Nat := 0
  /-- records written since the previous HEALTH (18 R650; 8). -/
  sinceHealth : Nat := 0
  /-- fenced cells, by their bit of DIS_LO (18 R647; 56). -/
  cells : List Nat := []
  /-- log ring, newest first (18 R648; 256). -/
  log : List LogRec := []
  /-- LOG_SEL (18 R649; 8). -/
  logSel : Nat := 0
  /-- record that LOG_REC0 to LOG_REC3 show (18 R649; 256). -/
  logShown : LogRec := {}
  /-- LOG_LOST (18 R648; 32). -/
  logLost : Nat := 0
  /-- CE_TOTAL (18 R653; 32). -/
  ceTotal : Nat := 0
  /-- UE_TOTAL (18 R653; 32). -/
  ueTotal : Nat := 0
  /-- PROTO_TOTAL (18 R653; 32). -/
  protoTotal : Nat := 0
  /-- FATAL_TOTAL (18 R653; 32). -/
  fatalTotal : Nat := 0
  /-- CE count of each cell in the current window, by kind x 256 + index (18 R639; cells). -/
  ceWin : Tbl Nat := []
  /-- snoop timeouts of each station in the current window (18 R638; pages). -/
  stoWin : Tbl Nat := []
  /-- end count of the current CE window (18 R638; 64). -/
  winEnd : Word := 0
  /-- slice being rebalanced, then the slices that wait, in order (18 R644; 8). -/
  rebal : List Nat := []
  /-- words of directory entries, by line, that the slice could not read: its rebalance meets them (18 R646; entries). -/
  badDir : List (Nat × DirWord) := []
  /-- lines whose new home keeps RUNCACHED set (18 R646; lines). -/
  rebalKeep : List Nat := []
  /-- fenced homes k of other blocks of the cascade (18 R643; homes). -/
  remFenced : List Nat := []
deriving DecidableEq, Repr, Inhabited

/-- One CAS memory range (R515). -/
structure MemRange where
  /-- MEM_BASE (15 R515; 64). -/
  base : Word := 0
  /-- MEM_CTL (15 R515; 64). -/
  ctl : Word := 0
  /-- MEM_PBASE (15 R515; 64). -/
  pbase : Word := 0
deriving DecidableEq, Repr, Inhabited

/-- What LINK_INIT told of the block behind a cascade port (R504). -/
structure CasPeer where
  /-- position (15 R504; 3). -/
  pos : Nat := 0
  /-- CAS_MASTER (15 R504; 1). -/
  master : Bool := false
  /-- CAS_SIZE (15 R504; 3). -/
  sizeM1 : Nat := 0
  /-- generation (15 R504; 8). -/
  gen : Nat := 1
  /-- stepping (15 R504; 8). -/
  step : Nat := 0xB0
  /-- positions with a direct link to that block (15 R504; 8). -/
  reaches : List Nat := []
  /-- the port is up (15 R513; 1). -/
  up : Bool := true
  /-- measured arrival latency (17 R598; cyc). -/
  lat : Nat := 0
deriving DecidableEq, Repr, Inhabited

/-- CAS page (R503 to R517, R552). -/
structure Cas where
  /-- CAS_STRAP[POS] (15 R503; 3). -/
  pos : Nat := 0
  /-- CAS_STRAP[MASTER] (15 R503; 1). -/
  master : Bool := true
  /-- CAS_STRAP[SIZE_M1] (15 R503; 3). -/
  sizeM1 : Nat := 0
  /-- CAS_STAT[STATE] (15 R505; 2). -/
  st : Nat := 0
  /-- CAS_STAT[ERR] (15 R505; 4). -/
  err : Nat := 0
  /-- what stands behind each cascade port (15 R504; 4). -/
  peers : Tbl (Option CasPeer) := []
  /-- NODE_ID (15 R506; 64). -/
  nodeId : Word := 0
  /-- CAS_ROUTE field of each position (15 R508; 8 x 4). -/
  routes : Tbl Nat := []
  /-- MEM_SEL (15 R552; 4). -/
  memSel : Nat := 0
  /-- memory ranges (15 R515; 16). -/
  ranges : Tbl MemRange := []
  /-- FWD_BYTES (15 R553; 48). -/
  fwdBytes : Nat := 0
  /-- forwarded messages that wait for second-hop credits, oldest first (15 R510; messages). -/
  pools : List CasMsg := []
  /-- credits held per port, pool and class (15 R510; 4 x 24 x 8). -/
  credits : Tbl Nat := []
  /-- requests sent to homes in other blocks of the cascade, by the number they were given (01 R36; requests). -/
  outst : Tbl (Option HomeReq) := []
  /-- number of the next one (01 R36; unbounded). -/
  nextOut : Nat := 0
  /-- position of the master, once a message of it has told it (14 R501; 3). -/
  masterAt : Option Nat := none
  /-- host agents of other blocks' stations, with the block that has one (06 R203; pairs). -/
  hostAt : List (Nat × Nat) := []
deriving DecidableEq, Repr, Inhabited

/-- The first divergence of a pairing (R618). -/
structure Divergence where
  /-- DIV_AT (17 R618; 64). -/
  atK : Word := 0
  /-- DIV_INFO[KIND] (17 R617; 3). -/
  kind : Nat := 0
  /-- DIV_INFO[STATION] (17 R618; 3). -/
  station : Nat := 0
  /-- DIV_LOCAL (17 R618; 128). -/
  mine : Nat := 0
  /-- DIV_PEER (17 R618; 128). -/
  peer : Nat := 0
  /-- a divergence stands recorded (17 R618; 1). -/
  seen : Bool := false
deriving DecidableEq, Repr, Inhabited

/-- DET page (R596 to R622). -/
structure Det where
  /-- DET_MODE (17 R608; 64). -/
  mode : Word := 0
  /-- DET_STAT[FP_STALE] (17 R611; 1). -/
  fpStale : Bool := false
  /-- DET_STAT[KINDLE] (17 R602; 2). -/
  kindle : Nat := 0
  /-- KINDLE_AT (17 R602; 64). -/
  kindleAt : Word := 0
  /-- KINDLE_PART (17 R602; 64). -/
  kindlePart : Word := 0
  /-- partitions whose fetch gate is closed (17 R602; 64). -/
  gate : Word := 0
  /-- cycle of the accepted pulse for K (17 R603; cyc). -/
  kindlePulse : Option Nat := none
  /-- SEQ of the arm that waits for its reply on mailbox 65 (17 R605; 8). -/
  kindleMb : Option Nat := none
  /-- KINDLE_CFG (17 R604; 64). -/
  kindleCfg : Word := 0
  /-- R_K of the pairing: lockstep windows run from it on (17 R614; cyc). -/
  lsStart : Option Nat := none
  /-- FP_SEL (17 R610; 7). -/
  fpSel : Nat := 0
  /-- completed fingerprints by selector (17 R609; 65 x 384). -/
  fps : Tbl (List Byte) := []
  /-- FINGERPRINT and ATTEST requests that wait: mailbox, SEQ, service, arguments (17 R611; requests). -/
  fpWait : List (Nat × Nat × Nat × List Word) := []
  /-- DET_STAT[CAS_LAT] (17 R598; 8). -/
  casLat : Nat := 0
  /-- LS_CFG (17 R614; 64). -/
  lsCfg : Word := 0x47F
  /-- DET_STAT[LS] (17 R613; 3). -/
  ls : Nat := 0
  /-- LS_PEER (17 R613; 64). -/
  lsPeer : Word := 0
  /-- LS_RING (17 R613; 64). -/
  lsRing : Word := 0
  /-- PEER_RING of the pairing (17 R613; 64). -/
  lsPeerRing : Word := 0
  /-- K of the pairing (17 R613; 64). -/
  lsK : Word := 0
  /-- index j of the current lockstep window (17 R614; unbounded). -/
  lsWin : Nat := 0
  /-- own digests of the windows still to be compared, by window index (17 R617; 64 x 7 x 128). -/
  lsMine : Tbl (List Nat) := []
  /-- windows whose own record carries UNCERTAIN (17 R617; windows). -/
  lsMineUnc : List Nat := []
  /-- comparator buffer by line of RING (17 R616; 128 x 128 B). -/
  lsBuf : Tbl (List Word) := []
  /-- windows whose own record write ended with PARTNER_ABSENT or PARTNER_QUARANTINED (17 R617; windows). -/
  lsFail : List Nat := []
  /-- first divergence (17 R618; record). -/
  div : Divergence := {}
  /-- DIV_TOTAL (17 R618; 32). -/
  divTotal : Nat := 0
  /-- UNC_WIN (17 R620; 32). -/
  uncWin : Nat := 0
deriving DecidableEq, Repr, Inhabited

/-- One translation space (R131, R132, R146). -/
structure Space where
  /-- SPACE_ROOT[VALID] (04 R132; 1). -/
  valid : Bool := false
  /-- GPA of the level-A table (04 R132; 52). -/
  root : Nat := 0
  /-- SPACE_CTL[PART] (04 R131; 10). -/
  part : Nat := 0
  /-- SPACE_CTL[BOUND] (04 R131; 13). -/
  bound : Nat := 0
  /-- SPACE_CTL[SIZES] (04 R157; 3). -/
  sizes : Nat := 0
  /-- SPACE_EPOCH (04 R146; 32). -/
  epoch : Nat := 0
  /-- SPACE_GET handed the space out (04 R718; 1). -/
  taken : Bool := false
  /-- mailbox and SEQ owed the reply of a SPACE_PUT (04 R718; 15). -/
  putMb : Option (Nat × Nat) := none
deriving DecidableEq, Repr, Inhabited

/-- A partition's stage 2 (R128, R146). -/
structure Stage2 where
  /-- S2_ROOT[S2_EN] (04 R128; 1). -/
  en : Bool := false
  /-- NPA of the level-A table (04 R128; 46). -/
  root : Nat := 0
  /-- S2_EPOCH (04 R146; 32). -/
  epoch : Nat := 0
deriving DecidableEq, Repr, Inhabited

/-- A translation: what a page maps to (R127). -/
structure Xlat where
  /-- page size code: 0 4 MiB, 1 256 MiB, 2 16 GiB (04 R142; 2). -/
  size : Nat := 0
  /-- NPA of the page's first byte (04 R127; 46). -/
  out : Nat := 0
  /-- R (04 R123; 1). -/
  r : Bool := false
  /-- W (04 R123; 1). -/
  w : Bool := false
  /-- ATOM (04 R123; 1). -/
  atom : Bool := false
  /-- ATTR (04 R124; 2). -/
  attr : Nat := 0
  /-- GLOBAL (04 R121; 1). -/
  glob : Bool := false
  /-- NODE (04 R121; 16). -/
  node : Nat := 0
deriving DecidableEq, Repr, Inhabited

/-- A cached translation of a Firefly, pipe buffer or the Lantern (R139, R142, R158). -/
structure TlbEntry where
  /-- KIND: false combined, true stage 2 (04 R142; 1). -/
  stage2 : Bool := false
  /-- space or partition (04 R142; 12). -/
  id : Nat := 0
  /-- page number at the entry's size (04 R158; 35). -/
  pn : Nat := 0
  /-- the translation (04 R127; record). -/
  x : Xlat := {}
  /-- space epoch, or stage-2 epoch for a stage-2 entry (04 R146; 32). -/
  epoch : Nat := 0
  /-- stage-2 epoch of a combined entry (04 R146; 32). -/
  epoch2 : Nat := 0
  /-- PREFETCHED (04 R158; 1). -/
  pref : Bool := false
  /-- entry index in a Firefly or pipe buffer; slice and set of a Lantern entry (04 R140; 11). -/
  idx : Nat := 0
  /-- way of a Lantern entry in its set (04 R144; 3). -/
  way : Nat := 0
deriving DecidableEq, Repr, Inhabited

/-- An entry of the walker's upper-level cache (R145). -/
structure UpEntry where
  /-- stage of the table (04 R145; 1). -/
  stage2 : Bool := false
  /-- space or partition (04 R145; 12). -/
  id : Nat := 0
  /-- 0 level A, 1 level B (04 R145; 1). -/
  level : Nat := 0
  /-- input address from the level's lowest index bit up (04 R145; 23). -/
  index : Nat := 0
  /-- table address the entry points to (04 R145; 52). -/
  ptr : Nat := 0
deriving DecidableEq, Repr, Inhabited

/-- A miss that waits for, or is served by, a walk (R151, R152, R166). -/
structure Miss where
  /-- engine port, or 32 + mover pipe (04 R151; 6). -/
  port : Nat := 0
  /-- engine request and burst that wait (04 R151; unbounded). -/
  req : Nat := 0
  /-- burst index (04 R151; unbounded). -/
  burst : Nat := 0
  /-- space (04 R151; 12). -/
  space : Nat := 0
  /-- VA (04 R151; 57). -/
  va : Nat := 0
  /-- access class (04 R123; 2). -/
  acc : Access := .read
  /-- prefetch miss (05 R166; 1). -/
  pref : Bool := false
  /-- the prefetch covers the first byte of the next tile (05 R166; 1). -/
  first : Bool := false
  /-- STREAM_CFG[PF_WALKS] as it stood when the tile that prefetches started (05 R201; 7). -/
  pfw : Nat := 0
  /-- a miss of a mover pipe, and what waits for it (04 R141; record). -/
  move : Option MoveFor := none
  /-- event tick of the miss (04 R152; et). -/
  tick : Nat := 0
deriving DecidableEq, Repr, Inhabited

/-- A walk in a walk slot (R151 to R153). -/
structure Walk where
  /-- the miss that started it (04 R151; record). -/
  miss : Miss := {}
  /-- space epoch when the walk began (04 R146; 32). -/
  epoch : Nat := 0
  /-- stage-2 epoch when the walk began (04 R146; 32). -/
  epoch2 : Nat := 0
  /-- the walk follows a dropped denying entry (04 R154; 1). -/
  fresh : Bool := false
deriving DecidableEq, Repr, Inhabited

/-- A draining withdrawal (R193 to R199). -/
structure Withdrawal where
  /-- order of acceptance (05 R194; unbounded). -/
  id : Nat := 0
  /-- KIND (05 R192; 2). -/
  kind : Nat := 0
  /-- space or partition (05 R192; 12). -/
  target : Nat := 0
  /-- range base (05 R193; 57). -/
  base : Nat := 0
  /-- length in 4 MiB granules (05 R193; 35). -/
  len : Nat := 0
  /-- tagged bursts not yet at their point of coherence (05 R195; lines). -/
  tags : List (Origin × Nat × Nat) := []
  /-- who issued it and what completion does (05 R197; record). -/
  src : WdFrom := .reg
  /-- event tick of acceptance (05 R196; et). -/
  atEt : Nat := 0
  /-- issuing partition (12 R407; 10). -/
  part : Nat := 0
deriving DecidableEq, Repr, Inhabited

/-- LAN page, translation caches, walker and withdrawals (R118 to R158, R191 to R199). -/
structure Lan where
  /-- LAN_CFG (04 R154; 64). -/
  cfg : Word := 0x2001
  /-- SPACE_SEL (04 R132; 12). -/
  spaceSel : Nat := 0
  /-- PART_SEL (04 R156; 6). -/
  partSel : Nat := 0
  /-- translation spaces (04 R131; 4096). -/
  spaces : Tbl Space := []
  /-- stage 2 of each partition (04 R128; 64). -/
  s2 : Tbl Stage2 := []
  /-- WD_CTL, GO apart (04 R156; 64). -/
  wdCtl : Word := 0
  /-- WD_BASE (04 R156; 64). -/
  wdBase : Word := 0
  /-- WD_LEN (04 R156; 64). -/
  wdLen : Word := 0
  /-- WD_STAT[STATUS] (04 R156; 8). -/
  wdStatus : Status := .ok
  /-- WD_STAT[BUSY] (04 R156; 1). -/
  wdBusy : Bool := false
  /-- WD_STAT[DONE] (05 R197; 1). -/
  wdDone : Bool := false
  /-- LAN_MISS_TOTAL (04 R157; 32). -/
  missTotal : Nat := 0
  /-- RUN_FALLBACK (04 R125; 32). -/
  runFallback : Nat := 0
  /-- Lantern entries, most recently used first (04 R144; 16384). -/
  lantern : List TlbEntry := []
  /-- upper-level cache, most recently used first (04 R145; 1024). -/
  upper : List UpEntry := []
  /-- misses waiting for a walk slot, oldest first (04 R151; 8 per port). -/
  misses : List Miss := []
  /-- walk slots (04 R152; 64). -/
  walks : Tbl (Option Walk) := []
  /-- round-robin pointer over partitions (04 R152; 6). -/
  rrPart : Nat := 0
  /-- withdrawals draining, oldest first (05 R194; 16). -/
  wds : List Withdrawal := []
  /-- order number of the next withdrawal (05 R199; unbounded). -/
  wdNext : Nat := 0
  /-- withdrawals of Sudric and of the tiering engine that wait for one of the 16 drains, oldest first (05 R194; withdrawals). -/
  wdWait : List Withdrawal := []
deriving DecidableEq, Repr, Inhabited

/-- The link registers of a host or engine station (R246 to R250). -/
structure Link where
  /-- LINK_CFG (06 R248; 64). -/
  cfg : Word := 0
  /-- LINK_STAT[STATE] (06 R249; 2). -/
  st : Nat := 0
  /-- FDI instances active (06 R249; 8). -/
  fdi : Nat := 0
  /-- CREDIT_TX, the credits the partner advertised (06 R239; 48). -/
  creditTx : Word := 0
  /-- CREDIT_RX, the credits the block advertised (06 R239; 48). -/
  creditRx : Word := 0
  /-- credits of each class the block holds toward the partner (06 R239; 6 x 8). -/
  held : Tbl Nat := []
  /-- messages that wait for credits, oldest first (06 R239; messages). -/
  waiting : List OutMsg := []
  /-- credits of each class whose messages were consumed and that the next flit returns (06 R239; 6 x 8). -/
  owed : Tbl Nat := []
  /-- SNOOP_TIMEOUT of the station (06 R223; 32). -/
  snoopTimeout : Nat := 0
  /-- PROTO_ERR of the station (06 R238; 32). -/
  protoErr : Nat := 0
  /-- PROTO_LOG (06 R238; 64). -/
  protoLog : Word := 0
  /-- PRIO 0b11 requests of partitions with a target that a host station has open: agent, TAG, partition, event tick (16 R587; requests). -/
  lat : List (Nat × Nat × Nat × Nat) := []
deriving DecidableEq, Repr, Inhabited

/-- A stream slot of an engine port (R159 to R166). -/
structure Slot where
  /-- the slot is bound (05 R162; 1). -/
  bound : Bool := false
  /-- context of the opening request (05 R162; 16). -/
  ctx : Nat := 0
  /-- the stream descriptor (05 R159; 48 B). -/
  desc : List Word := []
  /-- order of the slot's most recent request (05 R162; unbounded). -/
  tick : Nat := 0
  /-- highest tile started (05 R164; 32). -/
  tile : Option Nat := none
  /-- starts of the last four tiles, newest first (05 R164; 4 x cyc). -/
  starts : List Nat := []
  /-- first byte VA of the current and the next tile (04 R140; 2 pages). -/
  prot : List Nat := []
  /-- tiles ahead that the latest start prefetched (05 R165; tiles). -/
  prefed : List Nat := []
  /-- tile indexes that have started (05 R719; tiles). -/
  started : List Nat := []
  /-- number of the slot's binding (05 R162; unbounded). -/
  bindNo : Nat := 0
  /-- lines of the last tile's footprint that its requests have performed (05 R163; lines). -/
  lastDone : List Nat := []
deriving DecidableEq, Repr, Inhabited

/-- A burst of an engine request (R169 to R172). -/
structure Burst where
  /-- VA of its first byte (05 R169; 57). -/
  va : Nat := 0
  /-- index in the request of its first line (05 R169; 7). -/
  line0 : Nat := 0
  /-- lines (05 R169; 7). -/
  lines : Nat := 0
  /-- progress (05 R170; 3). -/
  st : BurstState := .waiting
  /-- translation checked at issue (05 R171; record). -/
  x : Xlat := {}
  /-- lines not yet performed (07 R258; 7). -/
  left : Nat := 0
  /-- demand token that holds its bytes; 0 for none (05 R178; 11). -/
  token : Nat := 0
  /-- a cached denial was dropped and walked again (04 R154; 1). -/
  redo : Bool := false
  /-- the burst faulted on a port that held 8 already, and waits for a hold to end (05 R178; 1). -/
  parked : Bool := false
deriving DecidableEq, Repr, Inhabited

/-- An engine request in its port (R31, R244). -/
structure EngReq where
  /-- engine port (05 R169; 5). -/
  port : Nat := 0
  /-- TAG (06 R244; 12). -/
  tag : Nat := 0
  /-- context (01 R31; 16). -/
  ctx : Nat := 0
  /-- partition (01 R31; 10). -/
  part : Nat := 0
  /-- space (04 R131; 12). -/
  space : Nat := 0
  /-- request (06 R244; 8). -/
  op : HomeOp := .rdOnce
  /-- VA (06 R244; 57). -/
  va : Nat := 0
  /-- lines (06 R244; 8). -/
  nlines : Nat := 1
  /-- write data by line (06 R244; 128 B each). -/
  data : List LineData := []
  /-- byte masks by line (06 R244; 128 each). -/
  masks : List LineMask := []
  /-- poison of the data by line (06 R245; 8 each). -/
  poisons : List Nat := []
  /-- descriptor of its stream slot when the request came (05 R181; 48 B). -/
  desc : List Word := []
  /-- binding of its stream slot (05 R175; unbounded). -/
  bindNo : Nat := 0
  /-- stash target (06 R228; 6). -/
  stash : Nat := 0
  /-- PRIO (16 R587; 2). -/
  prio : Nat := 0
  /-- stream slot (05 R719; 7). -/
  slot : Option Nat := none
  /-- tile index (05 R719; 32). -/
  tile : Nat := 0
  /-- its bursts in order (05 R169; bursts). -/
  bursts : List Burst := []
  /-- largest status code among its lines (07 R260; 8). -/
  status : Status := .ok
  /-- event tick in which the station sampled it (16 R587; et). -/
  et : Nat := 0
deriving DecidableEq, Repr, Inhabited

/-- A demand token (R175 to R186). -/
structure Token where
  /-- free, paused or retrying (05 R183; 2). -/
  st : TokenState := .free
  /-- partition (05 R185; 10). -/
  part : Nat := 0
  /-- contexts it pauses (05 R184; contexts). -/
  ctxs : List Nat := []
  /-- space (05 R177; 12). -/
  space : Nat := 0
  /-- 4 MiB granule (05 R177; 35). -/
  page : Nat := 0
  /-- deadline (05 R184; 64). -/
  due : Word := 0
  /-- resume attempts (05 R183; 4). -/
  attempt : Nat := 0
deriving DecidableEq, Repr, Inhabited

/-- ENG page: streams, demand faults, engine requests (R159 to R201). -/
structure Eng where
  /-- link registers (06 R246; record). -/
  link : Link := {}
  /-- STREAM_CFG (05 R201; 64). -/
  streamCfg : Word := 0x1010080004
  /-- DEMAND_CFG (05 R201; 64). -/
  demandCfg : Word := 0xF4240
  /-- PF_ISSUED (05 R201; 32). -/
  pfIssued : Nat := 0
  /-- PF_DROP (05 R167; 32). -/
  pfDrop : Nat := 0
  /-- PF_USED (05 R201; 32). -/
  pfUsed : Nat := 0
  /-- DEMAND_TOTAL (05 R201; 32). -/
  demandTotal : Nat := 0
  /-- FAULT_DROPPED (05 R180; 32). -/
  faultDropped : Nat := 0
  /-- STREAM_REFUSED (05 R161; 32). -/
  streamRefused : Nat := 0
  /-- Firefly of each port, most recently used first (04 R139; 32 x 32). -/
  fireflies : Tbl (List TlbEntry) := []
  /-- stream slots by port x 4 + index (05 R162; 128). -/
  slots : Tbl Slot := []
  /-- requests in the ports (05 R169; requests). -/
  reqs : Tbl (Option EngReq) := []
  /-- number of the next request (05 R169; unbounded). -/
  nextReq : Nat := 0
  /-- number of the next binding of a stream slot (05 R162; unbounded). -/
  nextBind : Nat := 1
  /-- demand tokens 1 to 1024 (05 R178; 1024). -/
  tokens : Tbl Token := []
  /-- fault records that wait for ring space: partition and record (05 R180; 256 records). -/
  hold : List (Nat × List Word) := []
  /-- count at which CONSUME is read again (05 R180; 64). -/
  holdNext : Word := 0
deriving DecidableEq, Repr, Inhabited

/-- A directory entry (R204 to R206, R235). -/
structure DirEntry where
  /-- Uncached, Shared, Forwarded or Owned (06 R206; record). -/
  st : DirState := .unc
  /-- remote sharer pointers (15 R547; 4 x 16). -/
  remote : List Nat := []
  /-- RUNCACHED (15 R548; 1). -/
  runcached : Bool := false
deriving DecidableEq, Repr, Inhabited

/-- An open transaction on a Blocked line (R209 to R211). -/
structure Txn where
  /-- the request; none for a back-invalidation (06 R210; record). -/
  req : Option HomeReq := none
  /-- what the transaction is (06 R232; record). -/
  kind : TxnKind := .serve
  /-- snoops sent and unanswered: agent, snoop, and the cycle of its deadline as SNOOP_CFG stood when it was sent (06 R210; agents). -/
  await : List (Nat × SnpOp × Nat) := []
  /-- snoops that a Wick hold delays (06 R219; agents). -/
  later : List (Nat × SnpOp) := []
  /-- line data a holder supplied (06 R216; 1024). -/
  data : Option LineData := none
  /-- the supplied data is dirty (06 R212; 1). -/
  dirty : Bool := false
  /-- poison of the supplied data (06 R223; 8). -/
  poison : Nat := 0
  /-- a holder forwarded the data to the requester (06 R215; 1). -/
  fwded : Bool := false
  /-- directory state frozen under the block (06 R206; record). -/
  old : DirState := .unc
  /-- directory state the end of the transaction sets (06 R212; record). -/
  grant : DirState := .unc
  /-- agents that answered and whose data or eviction is awaited (06 R216; agents). -/
  need : List Nat := []
  /-- agents whose data or eviction arrived before their answer (06 R217; agents). -/
  got : List Nat := []
  /-- agent and tag whose ACK is awaited (06 R242; 18). -/
  ackFrom : Option (Nat × Nat) := none
  /-- status other than OK that a snoop's answer carried (06 R245; 8). -/
  status : Status := .ok
  /-- the grant is a win (06 R219; 1). -/
  win : Bool := false
deriving DecidableEq, Repr, Inhabited

/-- An ordered reduction session (R299, R300). -/
structure Session where
  /-- FMT (08 R299; 4). -/
  fmt : Nat := 0
  /-- ROP (08 R299; 2). -/
  rop : Nat := 0
  /-- ACC (08 R299; 1). -/
  acc : Bool := false
  /-- INIT (08 R299; 1). -/
  init : Bool := false
  /-- contributors (08 R299; 21). -/
  n : Nat := 1
  /-- first target line (08 R299; 39). -/
  target : Nat := 0
  /-- target lines (08 R299; 32). -/
  lines : Nat := 1
  /-- WIN_LEN (08 R299; 16). -/
  winLen : Nat := 1
  /-- GRACE (08 R299; 8). -/
  grace : Nat := 1
  /-- FENCE_OBJ (08 R299; 24). -/
  fObj : Nat := 0
  /-- FENCE_EN (08 R299; 1). -/
  fEn : Bool := false
  /-- FENCE_IDX (08 R299; 32). -/
  fIdx : Nat := 0
  /-- opener's partition (08 R300; 10). -/
  part : Nat := 0
  /-- NPA of the session record (08 R306; 46). -/
  recNpa : Nat := 0
  /-- WINDOWS (08 R306; 64). -/
  combinedWin : Nat := 0
  /-- LATE (08 R299; 32). -/
  late : Nat := 0
  /-- REFUSED (08 R299; 32). -/
  refused : Nat := 0
deriving DecidableEq, Repr, Inhabited

/-- One target line of one window in the ordered reduction store (R302 to R305). -/
structure RedLine where
  /-- session (08 R302; 8). -/
  sess : Nat := 0
  /-- target line (08 R302; 39). -/
  line : Nat := 0
  /-- end count of the window (08 R301; 64). -/
  win : Nat := 0
  /-- contributions by ascending index (08 R303; contributions). -/
  contrib : List (Nat × LineData × LineMask) := []
  /-- poisoned chunks of the contributions (08 R303; 8). -/
  pois : Nat := 0
  /-- the combine has begun (08 R307; 1). -/
  done : Bool := false
  /-- the combine write is performed (08 R306; 1). -/
  perf : Bool := false
deriving DecidableEq, Repr, Inhabited

/-- One window of a session (R306, R309). -/
structure RedWin where
  /-- session (08 R306; 8). -/
  sess : Nat := 0
  /-- end count (08 R306; 64). -/
  win : Nat := 0
  /-- lines combined short (08 R305; 32). -/
  short : Nat := 0
  /-- LAST (08 R305; 8). -/
  last : Status := .ok
deriving DecidableEq, Repr, Inhabited

/-- An event whose records the block has written and not yet announced, because their writes are not performed (R268). -/
structure Notice where
  /-- partition (07 R268; 10). -/
  part : Nat := 0
  /-- the fence to signal: object, index and value (07 R268; reference). -/
  sig : Option (Nat × Nat × Word) := none
  /-- the interrupt to raise: page and bit (07 R268; 11). -/
  irq : Option (Nat × Nat) := none
  /-- lines of the records (07 R268; lines). -/
  lines : List Nat := []
deriving DecidableEq, Repr, Inhabited

/-- A coherent window (R545). -/
structure Window where
  /-- word 0 (15 R545; 64). -/
  w0 : Word := 0
  /-- word 1 (15 R545; 64). -/
  w1 : Word := 0
deriving DecidableEq, Repr, Inhabited

/-- HOM page: directory, transactions, atomics and reductions (R202 to R235, R284 to R310, R545 to R551). -/
structure Hom where
  /-- HOM_CFG (06 R213; 64). -/
  cfg : Word := 3
  /-- WICK_CFG (06 R246; 64). -/
  wickCfg : Word := 0x60
  /-- SNOOP_CFG (06 R246; 64). -/
  snoopCfg : Word := 0x2000
  /-- STASH_SEL (06 R246; 6). -/
  stashSel : Nat := 0
  /-- STASH_MASK (06 R228; 64 x 32). -/
  stashMask : Tbl Word := []
  /-- directory by line (06 R231; 8 Mi). -/
  dir : Tbl DirEntry := []
  /-- lines with an entry, most recently used first (06 R232; entries). -/
  dirLru : List Nat := []
  /-- open transactions by line (06 R209; lines). -/
  txns : Tbl (Option Txn) := []
  /-- requests in their places behind a Blocked line (06 R207; 512 per slice). -/
  waiters : Tbl (List HomeReq) := []
  /-- requests that wait for an eligible directory way or a free tracker (06 R233; requests). -/
  setWait : List HomeReq := []
  /-- requests of each partition with a slice share that were admitted in the current reservation window (16 R588; 64). -/
  admitted : Tbl Nat := []
  /-- those at or after the end of a window that has not closed yet (03 R104; 64). -/
  admittedNext : Tbl Nat := []
  /-- Wick holds by line: winner + 1 and end cycle (06 R219; lines). -/
  wick : Tbl (Nat × Nat) := []
  /-- lines in the atomic line buffers, most recently used first (08 R297; 64 per slice). -/
  aluLines : List Nat := []
  /-- BACKINV_TOTAL (06 R232; 32). -/
  backinvTotal : Nat := 0
  /-- WICK_DELAYS (06 R219; 32). -/
  wickDelays : Nat := 0
  /-- STASH_TOTAL (06 R229; 32). -/
  stashTotal : Nat := 0
  /-- STASH_DROPPED (06 R228; 32). -/
  stashDropped : Nat := 0
  /-- SNOOP_TIMEOUT (06 R223; 32). -/
  snoopTimeout : Nat := 0
  /-- PROTO_ERR (06 R242; 32). -/
  protoErr : Nat := 0
  /-- coherent windows (15 R545; 64 x 128). -/
  windows : Tbl Window := []
  /-- windows draining, with what they held before they were cleared (15 R546; 64 x 128). -/
  winDrain : Tbl Window := []
  /-- REMOTE_UNCACHED (15 R548; 32). -/
  remoteUncached : Nat := 0
  /-- ordered reduction sessions (08 R300; 256). -/
  sessions : Tbl (Option Session) := []
  /-- contributor name of each context: node, session, index (08 R300; 4096). -/
  binds : Tbl (Option (Nat × Nat × Nat)) := []
  /-- ordered reduction store (08 R302; 4096 per slice). -/
  redLines : List RedLine := []
  /-- windows not yet reported (08 R306; windows). -/
  redWins : List RedWin := []
  /-- transaction number of the block's own requests (06 R240; unbounded). -/
  nextTag : Nat := 0
  /-- the block's own writes and signals to lines that a cache or a transaction holds: placed at their homes in the next event tick (01 R36; requests). -/
  relayQ : List HomeReq := []
  /-- events that wait for their records' writes, in order (07 R268; events). -/
  notices : List Notice := []
  /-- lines of evictions in writeback buffers, whose memory write has not left through its port (06 R217; 128 per slice). -/
  wbuf : List Nat := []
  /-- lines whose current data the block has asked for and received: number of its own operation, and line (01 R36; lines). -/
  fresh : List (Nat × Nat) := []
  /-- way of each line with an entry, plus 1 (06 R232; 8 Mi x 4). -/
  dirWay : Tbl Nat := []
deriving DecidableEq, Repr, Inhabited

/-- A data mover descriptor as the channel read it (R321). -/
structure Desc where
  /-- the 16 words (09 R321; 16 x 64). -/
  words : List Word := []
deriving DecidableEq, Repr, Inhabited

/-- A source line of a segment (R326, R341). -/
structure SegRead where
  /-- VA of the line / 128 (09 R326; 50). -/
  va : Nat := 0
  /-- 0 not issued, 1 issued, 2 arrived, 3 held under a demand token (09 R326; 2). -/
  st : Nat := 0
  /-- its data (09 R333; 1024). -/
  data : LineData := 0
  /-- its poisoned chunks (09 R341; 8). -/
  pois : Nat := 0
  /-- the demand token (05 R178; 11). -/
  token : Nat := 0
  /-- its home answered with a status other than OK and without data (09 R341; 1). -/
  bad : Bool := false
deriving DecidableEq, Repr, Inhabited

/-- A segment of a running descriptor (R325 to R329). -/
structure Seg where
  /-- row (09 R325; 32). -/
  row : Nat := 0
  /-- first element (09 R325; 32). -/
  el0 : Nat := 0
  /-- elements (09 R325; 17). -/
  n : Nat := 0
  /-- progress (09 R326; 3). -/
  st : SegState := .wait
  /-- staging bytes granted (09 R326; 16). -/
  stage : Nat := 0
  /-- part of the grant taken from the shared space (09 R328; 16). -/
  shared : Nat := 0
  /-- pipe that runs it (09 R329; 3). -/
  pipe : Nat := 0
  /-- source, second-source and scale lines (09 R326; lines). -/
  reads : List SegRead := []
  /-- demand tokens that hold its destination lines (09 R341; tokens). -/
  held : List Nat := []
  /-- demand tokens whose retry walks its destination lines again (05 R183; tokens). -/
  retry : List Nat := []
  /-- tags of writes not yet performed (09 R338; tags). -/
  out : List Nat := []
deriving DecidableEq, Repr, Inhabited

/-- A descriptor that a channel runs (R317, R338 to R342). -/
structure Active where
  /-- number of the descriptor in its channel, in starting order (09 R317; unbounded). -/
  key : Nat := 0
  /-- index within its command (09 R318; 16). -/
  idx : Nat := 0
  /-- queue and SEQ of its command (09 R317; 74). -/
  cmd : Nat × Nat := (0, 0)
  /-- the descriptor (09 R321; record). -/
  desc : Desc := {}
  /-- latched transform program, empty when none (10 R365; 256 B). -/
  prog : List Word := []
  /-- slot it latched (10 R366; 8). -/
  slot : Option Nat := none
  /-- its segments in row order (09 R325; segments). -/
  segs : List Seg := []
  /-- largest status among its cases (09 R341; 8). -/
  status : Status := .ok
  /-- HALF point reached (09 R338; 1). -/
  half : Bool := false
  /-- FULL point reached (09 R338; 1). -/
  full : Bool := false
  /-- its number among the descriptors started in all channels (09 R328; unbounded). -/
  arr : Nat := 0
deriving DecidableEq, Repr, Inhabited

/-- A command a channel accepted (R316, R317). -/
structure ChanCmd where
  /-- queue (09 R316; 10). -/
  q : Nat := 0
  /-- SEQ (09 R316; 64). -/
  seq : Nat := 0
  /-- MOVE_XFM (10 R365; 1). -/
  xfm : Bool := false
  /-- context (09 R314; 16). -/
  ctx : Nat := 0
  /-- partition (09 R313; 10). -/
  part : Nat := 0
  /-- DESC_VA (09 R314; 57). -/
  descVa : Nat := 0
  /-- COUNT (09 R314; 16). -/
  count : Nat := 0
  /-- index of the next descriptor to start (09 R317; 16). -/
  next : Nat := 0
  /-- step counter sampled at the start (10 R353; 64). -/
  step : Word := 0
  /-- the command has started (10 R353; 1). -/
  started : Bool := false
  /-- status of its first descriptor that was not OK (09 R341; 8). -/
  status : Status := .ok
  /-- index of that descriptor (12 R427; 16). -/
  bad : Nat := 0
  /-- no later descriptor starts (09 R342; 1). -/
  stop : Bool := false
deriving DecidableEq, Repr, Inhabited

/-- A mover channel (R313, R316 to R320). -/
structure Chan where
  /-- CH_CTL[PART] (09 R320; 10). -/
  part : Nat := 0
  /-- CH_CTL[OWNED] (09 R320; 1). -/
  owned : Bool := false
  /-- CH_CTL[WEIGHT] (09 R329; 4). -/
  weight : Nat := 1
  /-- CH_CTL[PIPE_MASK] (09 R330; 8). -/
  pipes : Nat := 255
  /-- CH_CTL[STAGE_CAP] (09 R328; 12). -/
  cap : Nat := 0xFFF
  /-- commands, oldest first (09 R316; 16). -/
  fifo : List ChanCmd := []
  /-- descriptors started and not completed, oldest first (09 R318; 16). -/
  active : List Active := []
  /-- CH_BYTES (09 R345; 48). -/
  bytes : Nat := 0
  /-- demand tokens of paused segments (09 R341; tokens). -/
  paused : List Nat := []
  /-- demand token that holds the read of its next descriptor (05 R178; 11). -/
  descTok : Nat := 0
  /-- that read faulted while the channel held 8 pauses, and waits for one to end (05 R178; 1). -/
  descPark : Bool := false
  /-- demand token whose retry walks that read again (05 R183; 11). -/
  descRetry : Nat := 0
  /-- number of the next descriptor to start (09 R317; unbounded). -/
  nextKey : Nat := 0
  /-- weighted round-robin credit left (09 R329; 4). -/
  credit : Nat := 0
deriving DecidableEq, Repr, Inhabited

/-- MOV page (R313 to R345). -/
structure Mov where
  /-- CH_SEL (09 R344; 6). -/
  chSel : Nat := 0
  /-- channels (09 R313; 64). -/
  chans : Tbl Chan := []
  /-- CH_HALF (09 R339; 64). -/
  chHalf : Word := 0
  /-- CH_FULL (09 R339; 64). -/
  chFull : Word := 0
  /-- CH_ERR (09 R345; 64). -/
  chErr : Word := 0
  /-- SLOT_SEL (09 R344; 9). -/
  slotSel : Nat := 0
  /-- SLOT_CTL by pipe x 64 + slot, as written (09 R344; 512 x 11). -/
  slots : Tbl Nat := []
  /-- SLOT_CTL as the current frame applies it (09 R344; 512 x 11). -/
  slotsNow : Tbl Nat := []
  /-- next slot of each pipe's frame (09 R329; 8 x 6). -/
  frame : Tbl Nat := []
  /-- round-robin pointer of each pipe over the channels of class 3 (09 R329; 8 x 6). -/
  rr : Tbl Nat := []
  /-- round-robin pointer of each pipe over the partitions of class 2 (09 R329; 8 x 6). -/
  rrPart : Tbl Nat := []
  /-- round-robin pointer over the channels of a partition, by pipe x 64 + partition (09 R329; 512 x 6). -/
  rrChan : Tbl Nat := []
  /-- slots that the running segment of each pipe still takes (09 R329; 8 x slots). -/
  busy : Tbl Nat := []
  /-- number of the next descriptor to start (09 R328; unbounded). -/
  nextArr : Nat := 0
  /-- contexts that started a segment in the current reservation window (16 R589; contexts). -/
  served : List Nat := []
  /-- contexts that started one at or after the end of a window that has not closed yet (03 R104; contexts). -/
  servedNext : List Nat := []
  /-- translation buffer of each pipe (04 R141; 8 x 32). -/
  buffers : Tbl (List TlbEntry) := []
  /-- SEG_TOTAL (09 R345; 32). -/
  segTotal : Nat := 0
  /-- STASH_PARTIAL (09 R336; 32). -/
  stashPartial : Nat := 0
  /-- POISON_OUT (09 R341; 32). -/
  poisonOut : Nat := 0
deriving DecidableEq, Repr, Inhabited

/-- XFM page (R359 to R370). -/
structure Xfm where
  /-- PROG_SEL (10 R369; 8). -/
  progSel : Nat := 0
  /-- PROG_OWN (10 R369; 256 x 64). -/
  own : Tbl Word := []
  /-- program store by word (10 R359; 8192 x 64). -/
  store : Tbl Word := []
  /-- SR_ELEMS (10 R351; 48). -/
  srElems : Nat := 0
  /-- SAT_TOTAL (10 R349; 32). -/
  satTotal : Nat := 0
  /-- NAN_LOST (10 R349; 32). -/
  nanLost : Nat := 0
  /-- PROG_REFUSED (10 R366; 32). -/
  progRefused : Nat := 0
deriving DecidableEq, Repr, Inhabited

/-- A heat entry or ember record (R402). -/
structure Heat where
  /-- STATE (11 R402; 3). -/
  st : HeatState := .untracked
  /-- AUTO (11 R402; 1). -/
  auto : Bool := false
  /-- LOSSY_OK (11 R402; 1). -/
  lossyOk : Bool := false
  /-- SRC_FMT (11 R402; 4). -/
  srcFmt : Nat := 0
  /-- MX_FMT (11 R402; 6). -/
  mxFmt : Nat := 0
  /-- PART (11 R402; 10). -/
  part : Nat := 0
  /-- OBJ (11 R402; 24). -/
  obj : Nat := 0
  /-- NPA of the stage-2 leaf (11 R402; 46). -/
  leaf : Nat := 0
  /-- leaf value the engine wrote at enrolment or at the last move (11 R390; 64). -/
  leafVal : Word := 0
  /-- saved R, W, ATOM (11 R402; 3). -/
  perm : Nat := 0
  /-- saved ATTR (11 R402; 2). -/
  attr : Nat := 0
  /-- GPA of the page (11 R390; 52). -/
  gpa : Nat := 0
  /-- HEAT (11 R379; 8). -/
  heat : Nat := 0
  /-- WCOUNT (11 R378; 16). -/
  wcount : Nat := 0
  /-- WROTE (11 R378; 1). -/
  wrote : Bool := false
  /-- requests stamped at or after the end of a heat window whose update has not run yet (03 R104; 16). -/
  wnext : Nat := 0
  /-- one of them wrote (03 R104; 1). -/
  wroteNext : Bool := false
  /-- QUIET (11 R379; 16). -/
  quiet : Nat := 0
  /-- MOVES (11 R402; 32). -/
  moves : Nat := 0
  /-- aperture slot of a compressed ember (11 R402; 17). -/
  slot : Nat := 0
  /-- unit count of an ember (11 R402; 5). -/
  units : Nat := 0
deriving DecidableEq, Repr, Inhabited

/-- A page move in a move slot (R382 to R399). -/
structure TierMove where
  /-- false demotion of a frame, true promotion of an ember (11 R388; 1). -/
  fromFar : Bool := false
  /-- frame or first unit it moves from (11 R388; 24). -/
  src : Nat := 0
  /-- frame or first unit it moves to (11 R388; 24). -/
  dst : Nat := 0
  /-- units of the ember (11 R395; 5). -/
  units : Nat := 8
  /-- compressed move (11 R393; 1). -/
  lossy : Bool := false
  /-- progress (11 R389; 3). -/
  step : MoveStep := .copy
  /-- passes done (11 R389; 4). -/
  pass : Nat := 0
  /-- PASSES it started with (11 R401; 4). -/
  passes : Nat := 3
  /-- SWITCH_LINES it started with (11 R401; 9). -/
  switchLines : Nat := 256
  /-- dirty map: lines set (11 R389; 32768). -/
  dirty : List Nat := []
  /-- TIER_MOVE that asked for it (11 R386; 74). -/
  cmd : Option (Nat × Nat) := none
  /-- withdrawal it waits for (11 R390; unbounded). -/
  wd : Option Nat := none
  /-- aperture slot (11 R393; 16). -/
  slot : Nat := 0
  /-- lines of the pass whose data a cache holds: they are copied when it has come (11 R388; 32768). -/
  late : List Nat := []
  /-- a pipe, port or slice it uses was fenced: it is abandoned at its next step (11 R399; 1). -/
  broken : Bool := false
deriving DecidableEq, Repr, Inhabited

/-- A running TIER_MOVE (R384 to R387). -/
structure TierCmd where
  /-- queue (11 R386; 10). -/
  q : Nat := 0
  /-- SEQ (11 R386; 64). -/
  seq : Nat := 0
  /-- partition (11 R385; 10). -/
  part : Nat := 0
  /-- DIR (11 R384; 1). -/
  promote : Bool := false
  /-- LOSSY (11 R384; 1). -/
  lossy : Bool := false
  /-- context (11 R385; 16). -/
  ctx : Nat := 0
  /-- number of the next page to judge, VA by 4 MiB (11 R386; 36). -/
  next : Nat := 0
  /-- pages not yet judged (11 R386; 32). -/
  rest : Nat := 0
  /-- moves started that have not ended (11 R386; 5). -/
  moving : Nat := 0
  /-- the context was lost: no further page is judged (12 R414; 1). -/
  lost : Bool := false
  /-- pages in the requested tier (11 R386; 32). -/
  good : Nat := 0
  /-- PAGES (11 R386; 32). -/
  pages : Nat := 0
deriving DecidableEq, Repr, Inhabited

/-- TIR page (R371 to R403). -/
structure Tir where
  /-- TIR_CFG (11 R401; 64). -/
  cfg : Word := 0x9003620
  /-- TIR_WIN (11 R401; 64). -/
  win : Word := 0x10000
  /-- TIR_THRESH (11 R401; 64). -/
  thresh : Word := 0x401004008
  /-- TIR_CFG in force (11 R401; 64). -/
  cfgNow : Word := 0x9003620
  /-- TIR_WIN in force (11 R401; 64). -/
  winNow : Word := 0x10000
  /-- TIR_THRESH in force (11 R401; 64). -/
  threshNow : Word := 0x401004008
  /-- NEAR_BASE (11 R371; 64). -/
  nearBase : Word := 0
  /-- NEAR_PAGES (11 R371; 64). -/
  nearPages : Word := 0
  /-- FAR_BASE (11 R371; 64). -/
  farBase : Word := 0
  /-- FAR_UNITS (11 R371; 64). -/
  farUnits : Word := 0
  /-- DECODE_BASE (11 R371; 64). -/
  decodeBase : Word := 0
  /-- heat table by frame (11 R402; 65536). -/
  frames : Tbl Heat := []
  /-- ember table by first unit (11 R372; 2^24). -/
  embers : Tbl Heat := []
  /-- move slots (11 R382; 16). -/
  moves : Tbl (Option TierMove) := []
  /-- automatic choices not yet started: promote and index (11 R380; choices). -/
  autoQ : List (Bool × Nat) := []
  /-- a heat update was made and the choice is due in the next event tick (11 R380; 1). -/
  autoDue : Bool := false
  /-- running TIER_MOVE commands (11 R386; commands). -/
  cmds : List TierCmd := []
  /-- block time of the last heat update (11 R379; 64). -/
  heatAt : Word := 0
  /-- DEMOTE_TOTAL (11 R403; 32). -/
  demoteTotal : Nat := 0
  /-- PROMOTE_TOTAL (11 R403; 32). -/
  promoteTotal : Nat := 0
  /-- LOSSY_TOTAL (11 R403; 32). -/
  lossyTotal : Nat := 0
  /-- ABANDONED (11 R389; 32). -/
  abandoned : Nat := 0
  /-- DECODE_READS (11 R396; 48). -/
  decodeReads : Nat := 0
deriving DecidableEq, Repr, Inhabited

/-- A context (R409 to R415). -/
structure Ctx where
  /-- PART (12 R410; 10). -/
  part : Nat := 0
  /-- SPACE (12 R410; 12). -/
  space : Nat := 0
  /-- STATE (12 R410; 2). -/
  st : CtxState := .free
  /-- CAUSE (12 R413; 8). -/
  cause : Status := .ok
  /-- step counter (12 R412; 64). -/
  step : Word := 0
  /-- loss that takes effect at rank 3 of the next event tick (12 R413; 8). -/
  doomed : Option Status := none
  /-- mailbox and SEQ owed the reply of a destroy (12 R411; 15). -/
  killMb : Option (Nat × Nat) := none
deriving DecidableEq, Repr, Inhabited

/-- A fetched command (R420 to R440). -/
structure Cmd where
  /-- queue (12 R420; 10). -/
  q : Nat := 0
  /-- SEQ (12 R420; 64). -/
  seq : Nat := 0
  /-- context (12 R420; 16). -/
  ctx : Nat := 0
  /-- partition (12 R420; 10). -/
  part : Nat := 0
  /-- the 64 bytes (12 R425; 64 B). -/
  words : List Word := []
  /-- progress (12 R439; 3). -/
  st : CmdState := .taking
  /-- answers of the pin TAKEs (12 R439; 4). -/
  takes : List Status := []
  /-- pins are held (12 R440; 1). -/
  pinned : Bool := false
  /-- status at retirement (12 R427; 8). -/
  status : Status := .ok
  /-- RESULT (12 R427; 64). -/
  result : Word := 0
  /-- completion record: 0 not yet written, 1 on its way, 2 performed (12 R440; 2). -/
  recorded : Nat := 0
  /-- fences to signal at retirement: object, index, value (12 R440; signals). -/
  fences : List (Nat × Nat × Word) := []
deriving DecidableEq, Repr, Inhabited

/-- A queue (R416 to R424). -/
structure Queue where
  /-- Q_BASE (12 R443; 64). -/
  base : Word := 0
  /-- Q_CBASE (12 R443; 64). -/
  cbase : Word := 0
  /-- Q_CTL[ENABLE] (12 R424; 1). -/
  enable : Bool := false
  /-- Q_CTL[PRIV] (12 R416; 1). -/
  priv : Bool := false
  /-- Q_CTL[LOG2] (12 R416; 5). -/
  log2 : Nat := 0
  /-- Q_CTL[CONTEXT] (12 R443; 16). -/
  ctx : Nat := 0
  /-- the queue is bound to a context (19 R655; 1). -/
  bound : Bool := false
  /-- DB_TAIL (12 R418; 64). -/
  tail : Nat := 0
  /-- DB_HEAD (12 R420; 64). -/
  head : Nat := 0
  /-- DB_DONE (12 R417; 64). -/
  done : Nat := 0
  /-- SEQs retired beyond DB_DONE (12 R417; SEQs). -/
  retired : List Nat := []
  /-- DB_ERR[BAD_TAIL] (12 R418; 1). -/
  badTail : Bool := false
  /-- DB_ERR[OBJ_REFUSED] (12 R438; 1). -/
  objRefused : Bool := false
  /-- DB_ERR[ACC_ERR] (02 R52; 1). -/
  accErr : Bool := false
  /-- an OBJ_OP whose record is asked for: OBJ_STAT[BUSY] (12 R438; 64). -/
  objPend : Option Word := none
  /-- OBJ_STAT[STATUS] (12 R438; 8). -/
  objStatus : Status := .ok
  /-- OBJ_STAT count (12 R438; 32). -/
  objCount : Nat := 0
  /-- Q_STAT[STALLED] (12 R422; 1). -/
  stalled : Bool := false
  /-- mailbox and SEQ owed the reply of a destroy (12 R424; 15). -/
  killMb : Option (Nat × Nat) := none
  /-- the queue's owner (12 R443; 10). -/
  part : Nat := 0
deriving DecidableEq, Repr, Inhabited

/-- LMP page: contexts, queues, commands (R409 to R446). -/
structure Lmp where
  /-- LMP_CFG (12 R420; 64). -/
  cfg : Word := 0x40
  /-- Q_SEL (12 R443; 10). -/
  qSel : Nat := 0
  /-- CTX_SEL (12 R444; 12). -/
  ctxSel : Nat := 0
  /-- PART_SEL (12 R445; 6). -/
  partSel : Nat := 0
  /-- contexts by index (12 R409; 4096). -/
  ctxs : Tbl Ctx := []
  /-- queues (12 R416; 1024). -/
  queues : Tbl Queue := []
  /-- commands fetched and not retired, oldest first (12 R420; commands). -/
  cmds : List Cmd := []
  /-- round-robin pointer over partitions (12 R420; 6). -/
  rrPart : Nat := 0
  /-- slots of this event tick in which a command was fetched (16 R584; 4). -/
  slotsUsed : List Nat := []
  /-- contexts that had a command fetched in the current reservation window (16 R589; contexts). -/
  served : List Nat := []
  /-- contexts that had one at or after the end of a window that has not closed yet (03 R104; contexts). -/
  servedNext : List Nat := []
  /-- round-robin pointer over each partition's queues (12 R420; 64 x 10). -/
  rrQueue : Tbl Nat := []
  /-- CMD_TOTAL (12 R446; 32). -/
  cmdTotal : Nat := 0
  /-- LOST_TOTAL (12 R413; 32). -/
  lostTotal : Nat := 0
  /-- REF_REFUSED (12 R440; 32). -/
  refRefused : Nat := 0
deriving DecidableEq, Repr, Inhabited

/-- A watch slot or a polling wait (R455 to R463). -/
structure Watch where
  /-- FENCE_WAIT that waits: queue and SEQ (13 R455; 74). -/
  cmd : Option (Nat × Nat) := none
  /-- doorbell bit of a host watch (13 R463; 5). -/
  host : Option Nat := none
  /-- waiting partition (13 R456; 10). -/
  part : Nat := 0
  /-- object (13 R453; 24). -/
  obj : Nat := 0
  /-- index (13 R453; 32). -/
  idx : Nat := 0
  /-- NPA of the record (13 R455; 46). -/
  npa : Nat := 0
  /-- node of a record in another package (13 R461; 16). -/
  node : Nat := 0
  /-- the record is homed in another package (13 R461; 1). -/
  remote : Bool := false
  /-- TARGET (13 R454; 64). -/
  target : Word := 0
  /-- deadline (13 R458; 64). -/
  due : Option Word := none
  /-- TO_LOSE (13 R458; 1). -/
  lose : Bool := false
  /-- a polling wait (13 R460; 1). -/
  poll : Bool := false
  /-- count of the next read (13 R460; 64). -/
  nextPoll : Word := 0
  /-- the ARM was placed (13 R455; 1). -/
  armed : Bool := false
  /-- VALUE and KIND that the ARM returned and that are not yet judged (13 R455; 68). -/
  armVal : Option (Word × Nat) := none
  /-- context of the wait (13 R462; 16). -/
  ctx : Nat := 0
deriving DecidableEq, Repr, Inhabited

/-- A barrier registration (R470). -/
structure Reg where
  /-- owner's context (13 R470; 16). -/
  ctx : Nat := 0
  /-- owner's dispatch slot; none when the owner is the context alone (13 R470; 12). -/
  slot : Option Nat := none
  /-- REG (13 R470; 21). -/
  reg : Nat := 0
  /-- ARR (13 R470; 21). -/
  arr : Nat := 0
  /-- the registration is open (13 R470; 1). -/
  isOpen : Bool := true
deriving DecidableEq, Repr, Inhabited

/-- A barrier slot (R466 to R473). -/
structure Bar where
  /-- NPA of the record (13 R470; 46). -/
  npa : Nat := 0
  /-- partition whose object holds the record (13 R471; 10). -/
  part : Nat := 0
  /-- object that holds the record (13 R471; 24). -/
  obj : Option Nat := none
  /-- GPA of the record (13 R471; 52). -/
  gpa : Nat := 0
  /-- LIVE (13 R464; 21). -/
  live : Nat := 0
  /-- PENDING (13 R464; 21). -/
  pending : Nat := 0
  /-- GEN (13 R473; 64). -/
  gen : Word := 0
  /-- DEADLINE (13 R464; 32). -/
  deadline : Nat := 0
  /-- DUE (13 R472; 64). -/
  due : Option Word := none
  /-- LOSS_ABANDONS (13 R475; 1). -/
  lossAb : Bool := false
  /-- REL_OBJ (13 R464; 24). -/
  relObj : Nat := 0
  /-- REL_EN (13 R464; 1). -/
  relEn : Bool := false
  /-- REL_IDX (13 R464; 32). -/
  relIdx : Nat := 0
  /-- EXPECT (13 R464; 21). -/
  expect : Nat := 0
  /-- registrations (13 R470; 16384 shared). -/
  regs : List Reg := []
deriving DecidableEq, Repr, Inhabited

/-- FNC page: watches and barriers (R447 to R480). -/
structure Fnc where
  /-- FNC_CFG (13 R479; 64). -/
  cfg : Word := 0x4000004
  /-- watch slots 0 to 8191, polling waits from 8192 on (13 R455; 8192 and polls). -/
  watches : Tbl (Option Watch) := []
  /-- barrier slots (13 R470; 2048). -/
  bars : Tbl (Option Bar) := []
  /-- notifications sent to this block and not yet sampled: record NPA and VALUE (13 R457; notices). -/
  notes : List (Nat × Word) := []
  /-- owners whose registrations drop at the next event tick (13 R474; owners). -/
  drops : List (Nat × Option Nat) := []
  /-- WATCH_FULL_TOTAL (13 R460; 32). -/
  watchFull : Nat := 0
  /-- ADV_TOTAL (13 R449; 48). -/
  advTotal : Nat := 0
  /-- REGRESS_TOTAL (13 R449; 32). -/
  regressTotal : Nat := 0
  /-- SIG_DROPPED (13 R451; 32). -/
  sigDropped : Nat := 0
  /-- ABANDON_TOTAL (13 R477; 32). -/
  abandonTotal : Nat := 0
  /-- BAR_REFUSED (13 R472; 32). -/
  barRefused : Nat := 0
deriving DecidableEq, Repr, Inhabited

/-- A remote tracker (R542, R543). -/
structure Remote where
  /-- target node (15 R540; 16). -/
  node : Nat := 0
  /-- the request (15 R542; record). -/
  req : HomeReq := {}
  /-- deadline (15 R542; 64). -/
  due : Word := 0
  /-- it left under the entry in force (15 R540; 1). -/
  sent : Bool := true
  /-- SPAN_ROUTE entry it uses (15 R540; 8). -/
  entry : Nat := 0
  /-- station position it left through (15 R540; 3). -/
  pos : Nat := 0
deriving DecidableEq, Repr, Inhabited

/-- A remote request that this block admitted (R512, R544). -/
structure Ingress where
  /-- requester's node (15 R544; 16). -/
  node : Nat := 0
  /-- requester's partition (15 R544; 10). -/
  part : Nat := 0
  /-- requester's tag (15 R512; 12). -/
  tag : Nat := 0
  /-- requester's block (15 R525; 3). -/
  pos : Nat := 0
deriving DecidableEq, Repr, Inhabited

/-- A snoop of a remote home fanned out here (R550). -/
structure RemSnp where
  /-- home's node (15 R550; 16). -/
  node : Nat := 0
  /-- line (15 R550; 39). -/
  line : Nat := 0
  /-- agents whose answer is awaited (15 R550; agents). -/
  left : List Nat := []
  /-- OR of HAD_COPY (15 R550; 1). -/
  had : Bool := false
  /-- dirty data and its poison (15 R550; 1032). -/
  data : Option (LineData × Nat) := none
  /-- block of the cascade that sent it on, and takes the answer (15 R550; 3). -/
  via : Option Nat := none
deriving DecidableEq, Repr, Inhabited

/-- SPN page and the Vilnor link (R518 to R543). -/
structure Spn where
  /-- SPN_CFG (15 R527; 64). -/
  cfg : Word := 0
  /-- SPN_STAT[STATE] (15 R527; 3). -/
  st : SpnState := .down
  /-- SPN_STAT[WIDTH] (15 R518; 6). -/
  width : Nat := 0
  /-- SPN_STAT[QUAR] (15 R537; 1). -/
  quar : Bool := false
  /-- SPN_STAT[QCAUSE] (15 R537; 4). -/
  qcause : Nat := 0
  /-- SPN_STAT[VERSION] (15 R527; 8). -/
  version : Nat := 0
  /-- SPN_STAT[PARTNER_NODE] (15 R527; 16). -/
  partner : Nat := 0
  /-- SPN_STAT[NOVER] (15 R527; 1). -/
  nover : Bool := false
  /-- LANE_MAP (15 R518; 32). -/
  lanes : Nat := 0
  /-- lanes locked on codewords (15 R520; 32). -/
  locked : Nat := 0
  /-- SPN_TIMERS (15 R531; 64). -/
  timers : Word := 0x4000410
  /-- REMOTE_CFG (15 R542; 64). -/
  remoteCfg : Word := 0x400000400
  /-- FAULT_CFG (15 R535; 64). -/
  faultCfg : Word := 0x404000100
  /-- HOSTILE_CFG (15 R537; 64). -/
  hostileCfg : Word := 0x4000010
  /-- BCN_CAL (15 R532; 32). -/
  bcnCal : Nat := 0
  /-- BCN_ASYM (15 R532; 64). -/
  bcnAsym : Word := 0
  /-- REMOTE_EN (15 R541; 64). -/
  remoteEn : Word := 0
  /-- ROUTE_SEL (15 R540; 8). -/
  routeSel : Nat := 0
  /-- SPAN_ROUTE entries (15 R540; 256 x 4). -/
  routes : Tbl Nat := []
  /-- entries that wait for the requests under the old entry (15 R540; 256 x 4). -/
  routesNew : Tbl (Option Nat) := []
  /-- span stations of the other blocks: 0 not ACTIVE, 1 quarantined, 2 serving (15 R540; 8 x 2). -/
  stations : Tbl Nat := []
  /-- INGRESS_CFG (15 R512; 64). -/
  ingressCfg : Word := 0x80
  /-- FEC_CORR (15 R555; 48). -/
  fecCorr : Nat := 0
  /-- FEC_UNCORR (15 R555; 32). -/
  fecUncorr : Nat := 0
  /-- REPLAY_TOTAL (15 R555; 32). -/
  replayTotal : Nat := 0
  /-- MALFORMED (15 R536; 32). -/
  malformed : Nat := 0
  /-- LATE_RSP (15 R543; 32). -/
  lateRsp : Nat := 0
  /-- DEADLINE_EXP (15 R543; 32). -/
  deadlineExp : Nat := 0
  /-- replays in the current FAULT_WIN window (15 R535; 16). -/
  replayWin : Nat := 0
  /-- end of that window (15 R535; 64). -/
  replayEnd : Word := 0
  /-- malformed messages in the current MAL_WIN window (15 R537; 16). -/
  malWin : Nat := 0
  /-- end of that window (15 R537; 64). -/
  malEnd : Word := 0
  /-- counts at which the FAULT_WIN windows of the latest retrains began, newest first (15 R535; counts). -/
  retrains : List Word := []
  /-- uncorrectable codewords of each lane group (15 R535; 4 x 32). -/
  groupUncorr : Tbl Nat := []
  /-- widest link the next training may form (15 R535; 6). -/
  maxWidth : Nat := 32
  /-- width of the last ACTIVE link (15 R535; 6). -/
  lastWidth : Nat := 32
  /-- lane groups left out (15 R518; 4). -/
  groupsOut : List Nat := []
  /-- next back-off in bt, 0 for 1,024 (15 R529; 21). -/
  backoff : Nat := 0
  /-- count at which the training state or back-off ends (15 R529; 64). -/
  stateEnd : Word := 0
  /-- partner chain accepted in this AUTH (15 R528; 1). -/
  chainOk : Bool := false
  /-- partner KEYX received in this AUTH (15 R528; 1). -/
  keyxSeen : Bool := false
  /-- direction keys; never readable (15 R528; 2 x 256). -/
  keys : List Byte := []
  /-- flits sent (15 R524; 64). -/
  txSeq : Nat := 0
  /-- flits accepted (15 R524; 64). -/
  rxSeq : Nat := 0
  /-- flits the partner acknowledged (15 R524; 64). -/
  ackedTo : Nat := 0
  /-- unacknowledged messages with their flit sequence, oldest first (15 R524; 16384). -/
  replay : List (Nat × SpanMsg) := []
  /-- flits are discarded until the replay arrives (15 R524; 1). -/
  discard : Bool := false
  /-- credits per class toward the partner (15 R526; 6). -/
  credits : Tbl Nat := []
  /-- messages that wait for credits or for ACTIVE, oldest first (15 R526; messages). -/
  waiting : List SpanMsg := []
  /-- a CRICKET was accepted in the current period (15 R531; 1). -/
  cricketSeen : Bool := false
  /-- periods in a row without a CRICKET (15 R531; 4). -/
  cricketMiss : Nat := 0
  /-- count the last CRICKET carried (15 R531; 64). -/
  cricketCount : Word := 0
  /-- count of the next CRICKET period end (15 R531; 64). -/
  cricketNext : Word := 0
  /-- count of the next CAL_REQ (15 R532; 64). -/
  calNext : Word := 0
  /-- t1 of the calibration request that is out (15 R532; 64). -/
  calT1 : Option Nat := none
  /-- last two reconstructed ticks, newest first (15 R533; 2 x 64). -/
  bcnTicks : List Nat := []
  /-- remote trackers (15 R542; 4096). -/
  remotes : Tbl (Option Remote) := []
  /-- remote requests that wait for a tracker or a route, oldest first (15 R542; requests). -/
  remWait : List (Nat × HomeReq) := []
  /-- remote requests at this package's homes, by the block's tag (15 R512; trackers). -/
  ingress : Tbl (Option Ingress) := []
  /-- writes from other nodes that wait for the place of the one before (R273), oldest first (15 R512; writes). -/
  ingWait : List HomeReq := []
  /-- snoops of remote homes fanned out here (15 R550; snoops). -/
  remSnps : List RemSnp := []
  /-- pulse and word due at BCN: count, UNCERTAIN, cycle (15 R533; 65). -/
  bcnOut : Option (Word × Bool × Nat) := none
deriving DecidableEq, Repr, Inhabited

/-- A memory port page (R690 to R696). -/
structure MemPort where
  /-- MP_CFG (21 R696; 64). -/
  cfg : Word := 0x100000
  /-- MP_PRESENT is tied 1 (21 R687; 1). -/
  present : Bool := true
  /-- MP_STAT[EN] (21 R695; 1). -/
  en : Bool := false
  /-- MP_STAT[READY] (21 R695; 1). -/
  ready : Bool := false
  /-- command credits held (21 R690; 7). -/
  cmdCr : Nat := 0
  /-- line credits held (21 R690; 4). -/
  lineCr : Nat := 0
  /-- reads outstanding: tag, line, cycle issued and the answers that wait (21 R693; 4096). -/
  reads : List MemRead := []
  /-- requests that wait for credits: write and line (21 R690; requests). -/
  queue : List (Bool × Nat) := []
  /-- what memory holds of each line whose write waits for credits, oldest write first (18 R642; requests). -/
  unwritten : List OldLine := []
  /-- MP_POISON_RD (21 R696; 32). -/
  poisonRd : Nat := 0
  /-- MP_LINES (21 R690; 48). -/
  lines : Nat := 0
  /-- next read tag (21 R691; 12). -/
  nextTag : Nat := 0
deriving DecidableEq, Repr, Inhabited

/-- The whole block, plain data. -/
structure State where
  /-- build options (01 R39; record). -/
  build : Build := {}
  /-- clocks and reset (03 R97; record). -/
  clk : Clk := {}
  /-- number of free values drawn so far, the MODEL's own field; no statement rests on its value (model; unbounded). -/
  free : Nat := 0
  /-- page headers by page index (02 R54; 64). -/
  pages : Tbl Page := []
  /-- start-up (20 R663; record). -/
  boot : Boot := {}
  /-- fuses (21 R703; record). -/
  fuses : Fuses := {}
  /-- beacon (03 R94; record). -/
  bcn : Bcn := {}
  /-- security (16 R568; record). -/
  sec : Sec := {}
  /-- mailboxes (14 R481; record). -/
  mbx : Mbx := {}
  /-- counters (18 R623; record). -/
  cnt : Cnt := {}
  /-- partitions (12 R404; 64). -/
  parts : Tbl Part := []
  /-- errors and fencing (18 R634; record). -/
  ras : Ras := {}
  /-- cascade (15 R503; record). -/
  cas : Cas := {}
  /-- determinism (17 R608; record). -/
  det : Det := {}
  /-- translation (04 R131; record). -/
  lan : Lan := {}
  /-- engine station (05 R159; record). -/
  eng : Eng := {}
  /-- link registers of HST0 and HST1 (06 R249; 2). -/
  hst : Tbl Link := []
  /-- homes (06 R202; record). -/
  hom : Hom := {}
  /-- data movers (09 R313; record). -/
  mov : Mov := {}
  /-- transform units (10 R359; record). -/
  xfm : Xfm := {}
  /-- tiering (11 R371; record). -/
  tir : Tir := {}
  /-- Lamplighter (12 R409; record). -/
  lmp : Lmp := {}
  /-- fences and barriers (13 R447; record). -/
  fnc : Fnc := {}
  /-- span station (15 R518; record). -/
  spn : Spn := {}
  /-- NMP0, NMP1, FMP0, FMP1 in this order (21 R690; 4). -/
  mps : Tbl MemPort := []
  /-- node memory by NPA as its owner reads it; an unlisted byte reads 0 (04 R118; 2^46 bytes). -/
  mem : List Host.Cell := []
  /-- poisoned 16-byte chunks by NPA / 16, ascending (18 R636; chunks). -/
  memPois : List Nat := []
  /-- partition and key epoch under which each line was last written (16 R565; lines). -/
  memKey : Tbl (Option (Nat × Nat)) := []
  /-- scrubbed ranges, newest first: first line, lines, and the partition and key epoch under which their zeros were written (16 R577; ranges). -/
  memScrub : List (Nat × Nat × Nat × Nat) := []
  /-- what the block sent across its boundary, oldest first; the MODEL's own record of it (model; messages). -/
  out : List OutMsg := []
  /-- pooled units, by kind and number, that were in use when the current event tick began or were taken in it: none of them is taken again in it (19 R656; units). -/
  inUse : List (Nat × Nat) := []
  /-- what the pins and links deliver for the next event tick, in no order: the tick orders it (R97, R101); the MODEL's own field (model; commands). -/
  sampled : List Instr := []
  /-- commands that wait, FIRST IN, FIRST OUT; the MODEL's own field (model; commands). -/
  pending : List Instr := []
deriving DecidableEq, Repr, Inhabited

/-- The machine right after reset: every field at its reset value (R663), with no command waiting. -/
def State.reset : State := {}

end Sys2Proof.Machine
end

