-- ==== Sys2Proof/Machine/Bits.lean ====
section
/-!
DEFINITION. The helpers under every operation: sparse tables in canonical form, bit fields of words, and byte orders (R6).
-/
namespace Sys2Proof.Machine
open Sys2Proof

/-! ## Sparse tables -/

/-- What a table holds under a number. -/
def tget {α : Type} [Inhabited α] : Tbl α → Nat → α
  | [], _ => default
  | (k', v) :: t, k => if k' = k then v else tget t k

/-- A value put under a number that a table does not list, where the numbers keep rising. -/
def tput {α : Type} : Tbl α → Nat → α → Tbl α
  | [], k, v => [(k, v)]
  | (k', v') :: t, k, v => if k < k' then (k, v) :: (k', v') :: t else (k', v') :: tput t k v

/-- A table with one entry set; the canonical form is kept: a default value is not listed. -/
def tset {α : Type} [Inhabited α] [DecidableEq α] (t : Tbl α) (k : Nat) (v : α) : Tbl α :=
  let r := t.filter (fun e => e.1 != k)
  if v = default then r else tput r k v

/-- A table with one entry changed by a function. -/
def tupd {α : Type} [Inhabited α] [DecidableEq α] (t : Tbl α) (k : Nat) (f : α → α) : Tbl α := tset t k (f (tget t k))

/-- The canonical form of a table: keys rising, no default entry. -/
def tblWf {α : Type} [Inhabited α] [DecidableEq α] : Tbl α → Bool
  | [] => true
  | [(_, v)] => decide (v ≠ default)
  | (k, v) :: (k', v') :: t => decide (v ≠ default) && decide (k < k') && tblWf ((k', v') :: t)

/-- The numbers a table of Option values lists with a value. -/
def tsome {α : Type} (t : Tbl (Option α)) : List (Nat × α) :=
  t.filterMap (fun e => e.2.map (fun v => (e.1, v)))

/-! ## Bits and fields -/

/-- The field [hi:lo] of a word as a number (R6). -/
def fld (w : Word) (hi lo : Nat) : Nat := (w.toNat >>> lo) % 2 ^ (hi - lo + 1)

/-- One bit of a word. -/
def bitOf (w : Word) (n : Nat) : Bool := w.getLsbD n

/-- A number as a 64-bit word. -/
def w64 (n : Nat) : Word := BitVec.ofNat 64 n

/-- The number of a Bool. -/
def b2n (b : Bool) : Nat := if b then 1 else 0

/-- A word with the field [hi:lo] replaced. -/
def setFld (w : Word) (hi lo v : Nat) : Word :=
  w64 (w.toNat - (fld w hi lo) * 2 ^ lo + (v % 2 ^ (hi - lo + 1)) * 2 ^ lo)

/-- A word from fields given as (lowest bit, value). -/
def pack : List (Nat × Nat) → Word
  | [] => 0
  | (lo, v) :: t => w64 (v <<< lo) ||| pack t

/-- A word with one bit set or cleared. -/
def setBit (w : Word) (n : Nat) (b : Bool) : Word :=
  if b then w ||| w64 (1 <<< n) else w &&& ~~~ (w64 (1 <<< n))

/-- A word with the bits of a mask kept and the others 0. -/
def keep (w mask : Word) : Word := w &&& mask

/-- The mask of bits [hi:lo]. -/
def mask (hi lo : Nat) : Word := w64 ((2 ^ (hi + 1) - 1) - (2 ^ lo - 1))

/-- A saturating sum in a register of n bits. -/
def satAdd (bits a k : Nat) : Nat := min (a + k) (2 ^ bits - 1)

/-- Ceiling of a division; 0 divisors read as 1. -/
def cdiv (a b : Nat) : Nat := (a + b - 1) / max b 1

/-- A number kept between two limits. -/
def clamp (lo hi n : Nat) : Nat := max lo (min hi n)

/-- Insert into a rising list of numbers without repeats. -/
def setIns : List Nat → Nat → List Nat
  | [], k => [k]
  | a :: t, k => if k < a then k :: a :: t else if k = a then a :: t else a :: setIns t k

/-- Remove a number from a list. -/
def setDel (l : List Nat) (k : Nat) : List Nat := l.filter (fun a => a != k)

/-- The first n elements of a list padded with a value. -/
def padTo {α : Type} (n : Nat) (d : α) (l : List α) : List α := (l ++ List.replicate (n - l.length) d).take n

/-- A list with the element at an index changed. -/
def lmod {α : Type} : List α → Nat → (α → α) → List α
  | [], _, _ => []
  | a :: t, 0, f => f a :: t
  | a :: t, n + 1, f => a :: lmod t n f

/-- The bytes of a word, lowest first (R6). -/
def wordBytes (w : Word) : List Byte := (List.range 8).map (fun i => BitVec.ofNat 8 (w.toNat >>> (8 * i)))

/-- The number that bytes spell, lowest first (R6). -/
def bytesNat : List Byte → Nat
  | [] => 0
  | b :: t => b.toNat + 256 * bytesNat t

/-- n bytes of a number, lowest first (R6). -/
def natBytes : Nat → Nat → List Byte
  | 0, _ => []
  | n + 1, v => BitVec.ofNat 8 v :: natBytes n (v / 256)

/-- Byte n of a line. -/
def lineByte (d : LineData) (n : Nat) : Byte := d.extractLsb' (8 * n) 8

/-- A line from its bytes. -/
def lineOf (bs : List Byte) : LineData := BitVec.ofNat 1024 (bytesNat bs)

/-- The bytes of a line. -/
def lineBytes (d : LineData) : List Byte := (List.range 128).map (lineByte d)

end Sys2Proof.Machine
end

