-- ==== Sys2Proof/Machine/Sha.lean ====
section
/-!
DEFINITION. SHA-384 as FIPS 180-4 defines it (R24), and the 128-bit field of the station digests (R614).
-/
namespace Sys2Proof.Machine
open Sys2Proof

/-! ## SHA-384 -/

/-- Round constants 0 to 19: the fraction bits of the cube roots of primes. -/
def shaK0 : List Word := [
  0x428A2F98D728AE22, 0x7137449123EF65CD, 0xB5C0FBCFEC4D3B2F, 0xE9B5DBA58189DBBC, 0x3956C25BF348B538,
  0x59F111F1B605D019, 0x923F82A4AF194F9B, 0xAB1C5ED5DA6D8118, 0xD807AA98A3030242, 0x12835B0145706FBE,
  0x243185BE4EE4B28C, 0x550C7DC3D5FFB4E2, 0x72BE5D74F27B896F, 0x80DEB1FE3B1696B1, 0x9BDC06A725C71235,
  0xC19BF174CF692694, 0xE49B69C19EF14AD2, 0xEFBE4786384F25E3, 0x0FC19DC68B8CD5B5, 0x240CA1CC77AC9C65]

/-- Round constants 20 to 39: the fraction bits of the cube roots of primes. -/
def shaK1 : List Word := [
  0x2DE92C6F592B0275, 0x4A7484AA6EA6E483, 0x5CB0A9DCBD41FBD4, 0x76F988DA831153B5, 0x983E5152EE66DFAB,
  0xA831C66D2DB43210, 0xB00327C898FB213F, 0xBF597FC7BEEF0EE4, 0xC6E00BF33DA88FC2, 0xD5A79147930AA725,
  0x06CA6351E003826F, 0x142929670A0E6E70, 0x27B70A8546D22FFC, 0x2E1B21385C26C926, 0x4D2C6DFC5AC42AED,
  0x53380D139D95B3DF, 0x650A73548BAF63DE, 0x766A0ABB3C77B2A8, 0x81C2C92E47EDAEE6, 0x92722C851482353B]

/-- Round constants 40 to 59: the fraction bits of the cube roots of primes. -/
def shaK2 : List Word := [
  0xA2BFE8A14CF10364, 0xA81A664BBC423001, 0xC24B8B70D0F89791, 0xC76C51A30654BE30, 0xD192E819D6EF5218,
  0xD69906245565A910, 0xF40E35855771202A, 0x106AA07032BBD1B8, 0x19A4C116B8D2D0C8, 0x1E376C085141AB53,
  0x2748774CDF8EEB99, 0x34B0BCB5E19B48A8, 0x391C0CB3C5C95A63, 0x4ED8AA4AE3418ACB, 0x5B9CCA4F7763E373,
  0x682E6FF3D6B2B8A3, 0x748F82EE5DEFB2FC, 0x78A5636F43172F60, 0x84C87814A1F0AB72, 0x8CC702081A6439EC]

/-- Round constants 60 to 79: the fraction bits of the cube roots of primes. -/
def shaK3 : List Word := [
  0x90BEFFFA23631E28, 0xA4506CEBDE82BDE9, 0xBEF9A3F7B2C67915, 0xC67178F2E372532B, 0xCA273ECEEA26619C,
  0xD186B8C721C0C207, 0xEADA7DD6CDE0EB1E, 0xF57D4F7FEE6ED178, 0x06F067AA72176FBA, 0x0A637DC5A2C898A6,
  0x113F9804BEF90DAE, 0x1B710B35131C471B, 0x28DB77F523047D84, 0x32CAAB7B40C72493, 0x3C9EBE0A15C9BEBC,
  0x431D67C49C100D4C, 0x4CC5D4BECB3E42B6, 0x597F299CFC657E2A, 0x5FCB6FAB3AD6FAEC, 0x6C44198C4A475817]

/-- The 80 round constants. -/
def shaK : List Word := shaK0 ++ shaK1 ++ shaK2 ++ shaK3

/-- The eight working words of SHA-384. -/
structure ShaH where
  a : Word
  b : Word
  c : Word
  d : Word
  e : Word
  f : Word
  g : Word
  h : Word
deriving DecidableEq, Repr, Inhabited

/-- The initial hash value of SHA-384. -/
def shaInit : ShaH :=
  ⟨0xCBBB9D5DC1059ED8, 0x629A292A367CD507, 0x9159015A3070DD17, 0x152FECD8F70E5939,
   0x67332667FFC00B31, 0x8EB44A8768581511, 0xDB0C2E0D64F98FA7, 0x47B5481DBEFA4FA4⟩

/-- The functions of the schedule and of a round. -/
def shaS0 (x : Word) : Word := x.rotateRight 1 ^^^ x.rotateRight 8 ^^^ (x >>> 7)
def shaS1 (x : Word) : Word := x.rotateRight 19 ^^^ x.rotateRight 61 ^^^ (x >>> 6)
def shaB0 (x : Word) : Word := x.rotateRight 28 ^^^ x.rotateRight 34 ^^^ x.rotateRight 39
def shaB1 (x : Word) : Word := x.rotateRight 14 ^^^ x.rotateRight 18 ^^^ x.rotateRight 41
def shaCh (x y z : Word) : Word := (x &&& y) ^^^ (~~~ x &&& z)
def shaMaj (x y z : Word) : Word := (x &&& y) ^^^ (x &&& z) ^^^ (y &&& z)

/-- The message schedule: the last 16 words, newest first, give the next. -/
def shaSched : Nat → List Word → List Word → List Word
  | 0, _, acc => acc
  | n + 1, last, acc =>
    let w := shaS1 (last.getD 1 0) + last.getD 6 0 + shaS0 (last.getD 14 0) + last.getD 15 0
    shaSched n (w :: last.take 15) (w :: acc)

/-- The 80 words of a block's schedule. -/
def shaWords (ws : List Word) : List Word := (shaSched 64 ws.reverse ws.reverse).reverse

/-- One round. -/
def shaRound (s : ShaH) (k w : Word) : ShaH :=
  let t1 := s.h + shaB1 s.e + shaCh s.e s.f s.g + k + w
  let t2 := shaB0 s.a + shaMaj s.a s.b s.c
  ⟨t1 + t2, s.a, s.b, s.c, s.d + t1, s.e, s.f, s.g⟩

/-- One block of 16 words. -/
def shaBlock (s : ShaH) (ws : List Word) : ShaH :=
  let t := (shaK.zip (shaWords ws)).foldl (fun u x => shaRound u x.1 x.2) s
  ⟨s.a + t.a, s.b + t.b, s.c + t.c, s.d + t.d, s.e + t.e, s.f + t.f, s.g + t.g, s.h + t.h⟩

/-- A word from 8 bytes, most significant first. -/
def beWord (bs : List Byte) : Word := w64 (bytesNat bs.reverse)

/-- The bytes of a word, most significant first. -/
def beBytes (w : Word) : List Byte := (wordBytes w).reverse

/-- The padded message. -/
def shaPad (bs : List Byte) : List Byte :=
  let z := (112 + 128 - (bs.length + 1) % 128) % 128
  bs ++ [0x80] ++ List.replicate z 0 ++ (natBytes 16 (8 * bs.length)).reverse

/-- The blocks of a padded message, n of them. -/
def shaBlocks : Nat → ShaH → List Byte → ShaH
  | 0, s, _ => s
  | n + 1, s, bs => shaBlocks n (shaBlock s ((List.range 16).map (fun i => beWord ((bs.drop (8 * i)).take 8)))) (bs.drop 128)

/-- SHA-384 of a message: 48 bytes. -/
def sha384 (bs : List Byte) : List Byte :=
  let p := shaPad bs
  let t := shaBlocks (p.length / 128) shaInit p
  [t.a, t.b, t.c, t.d, t.e, t.f].flatMap beBytes

/-! ## The field of the station digests -/

/-- A product by x in GF(2^128) with the polynomial x^128 + x^7 + x^2 + x + 1 (R614). -/
def gfDouble (a : Nat) : Nat :=
  let b := 2 * a
  if b < 2 ^ 128 then b else (b % 2 ^ 128) ^^^ 0x87

/-- A product in GF(2^128): n bits of the second factor (R614). -/
def gfMulBits : Nat → Nat → Nat → Nat
  | 0, _, _ => 0
  | n + 1, a, b => (if b % 2 = 1 then a else 0) ^^^ gfMulBits n (gfDouble a) (b / 2)

/-- A product in GF(2^128) (R614). -/
def gfMul (a b : Nat) : Nat := gfMulBits 128 a b

end Sys2Proof.Machine
end

