-- ==== Sys2Proof/Machine/Ecdsa.lean ====
section
/-!
DEFINITION. The verification of an ECDSA signature on the curve P-384 as FIPS 186 defines it (R671, R672).
-/
namespace Sys2Proof.Machine
open Sys2Proof

/-- The prime of the field of P-384. -/
def ecP : Nat := 2 ^ 384 - 2 ^ 128 - 2 ^ 96 + 2 ^ 32 - 1
/-- The order of the base point. -/
def ecN : Nat := 0xFFFFFFFFFFFFFFFFFFFFFFFFFFFFFFFFFFFFFFFFFFFFFFFFC7634D81F4372DDF581A0DB248B0A77AECEC196ACCC52973
/-- The coefficient b of the curve y^2 = x^3 - 3x + b. -/
def ecB : Nat := 0xB3312FA7E23EE7E4988E056BE3F82D19181D9C6EFE8141120314088F5013875AC656398D8A2ED19D2A85C8EDD3EC2AEF
/-- The base point. -/
def ecGx : Nat := 0xAA87CA22BE8B05378EB1C71EF320AD746E1D3B628BA79B9859F741E082542A385502F25DBF55296C3A545E3872760AB7
def ecGy : Nat := 0x3617DE4A96262C6F5D9E98BF9292DC29F8F41DBD289A147CE9DA3113B5F0B8C00A60B1CE1D7E819D7A431D7C90EA0E5F

/-- A point of the curve: x / z^2 and y / z^3, or the point at infinity where z is 0. -/
structure EcPoint where
  x : Nat := 1
  y : Nat := 1
  z : Nat := 0
deriving DecidableEq, Repr, Inhabited

/-- A difference in the field. -/
def ecSub (a b : Nat) : Nat := (a + ecP - b % ecP) % ecP

/-- Twice a point. -/
def ecDouble (a : EcPoint) : EcPoint :=
  let y2 := a.y * a.y % ecP
  let z2 := a.z * a.z % ecP
  let s := 4 * a.x * y2 % ecP
  let m := 3 * ecSub a.x z2 * (a.x + z2) % ecP
  let x := ecSub (m * m) (2 * s)
  { x := x, y := ecSub (m * ecSub s x) (8 * y2 * y2), z := 2 * a.y * a.z % ecP }

/-- The sum of two points. -/
def ecAdd (a b : EcPoint) : EcPoint :=
  if a.z = 0 then b
  else if b.z = 0 then a
  else
    let az := a.z * a.z % ecP
    let bz := b.z * b.z % ecP
    let u := a.x * bz % ecP
    let v := a.y * bz * b.z % ecP
    let h := ecSub (b.x * az) u
    let r := ecSub (b.y * az * a.z) v
    if h = 0 then (if r = 0 then ecDouble a else { })
    else
      let h2 := h * h % ecP
      let h3 := h2 * h % ecP
      let x := ecSub (r * r) (h3 + 2 * u * h2)
      { x := x, y := ecSub (r * ecSub (u * h2) x) (v * h3), z := h * a.z * b.z % ecP }

/-- A point k times, k below 2^384. -/
def ecMul (k : Nat) (a : EcPoint) : EcPoint :=
  (List.range 384).foldr (fun i b => if k.testBit i then ecAdd (ecDouble b) a else ecDouble b) { }

/-- A power modulo m, the exponent below 2^384. -/
def ecPow (b e m : Nat) : Nat :=
  (List.range 384).foldr (fun i a => if e.testBit i then a * a % m * b % m else a * a % m) 1

/-- A public point: both coordinates in the field, on the curve. -/
def ecOnCurve (x y : Nat) : Bool := decide (x < ecP) && decide (y < ecP) && y * y % ecP == (x * x * x + (ecP - 3) * x + ecB) % ecP

/-- The signature (r, s) of a digest under the public point (x, y). -/
def ecVerify (x y e r s : Nat) : Bool :=
  let w := ecPow s (ecN - 2) ecN
  let q := ecAdd (ecMul (e * w % ecN) { x := ecGx, y := ecGy, z := 1 }) (ecMul (r * w % ecN) { x := x, y := y, z := 1 })
  ecOnCurve x y && decide (0 < r) && decide (r < ecN) && decide (0 < s) && decide (s < ecN) && q.z != 0 &&
  q.x * ecPow (q.z * q.z % ecP) (ecP - 2) ecP % ecP % ecN == r

/-- A number of most significant byte first. -/
def beNat (bs : List Byte) : Nat := bytesNat bs.reverse

/-- ECDSA P-384 with SHA-384 (R671): the key x then y, the digest of the signed bytes, and the signature r then s, each of 48 bytes. -/
def ecdsaValid (key digest sig : List Byte) : Bool :=
  ecVerify (beNat (key.take 48)) (beNat (key.drop 48)) (beNat digest) (beNat (sig.take 48)) (beNat (sig.drop 48))

end Sys2Proof.Machine
end

