-- ==== Sys2Proof/Machine/Crypto.lean ====
section
/-!
DEFINITION. The keys that the block derives from its fuses, with HKDF-SHA-384 as RFC 5869 defines it (R558, R561), and the memory
encryption, AES-XTS-256 as IEEE 1619 defines it over AES as FIPS 197 defines it (R565).
-/
namespace Sys2Proof.Machine
open Sys2Proof

/-! ## HKDF -/

/-- HMAC-SHA-384 of a message under a key of at most 128 bytes. -/
def hmac384 (key msg : List Byte) : List Byte :=
  let k := padTo 128 0 key
  sha384 (k.map (fun b => b ^^^ 0x5C) ++ sha384 (k.map (fun b => b ^^^ 0x36) ++ msg))

/-- The blocks of an expansion from the i-th on, n of them. -/
def hkdfBlocks (prk info : List Byte) : Nat → Nat → List Byte → List Byte
  | 0, _, _ => []
  | n + 1, i, last =>
    let t := hmac384 prk (last ++ info ++ natBytes 1 i)
    t ++ hkdfBlocks prk info n (i + 1) t

/-- HKDF-SHA-384: n bytes from keying material, salt and info. -/
def hkdf384 (ikm salt info : List Byte) (n : Nat) : List Byte := (hkdfBlocks (hmac384 salt ikm) info (cdiv n 48) 1 []).take n

/-! ## AES-256 -/

/-- A product by x in the field of AES. -/
def aesDouble (a : Nat) : Nat := if a < 128 then 2 * a else (2 * a - 256) ^^^ 0x1B

/-- A product in the field of AES: n bits of the second factor. -/
def aesMulBits : Nat → Nat → Nat → Nat
  | 0, _, _ => 0
  | n + 1, a, b => (if b % 2 = 1 then a else 0) ^^^ aesMulBits n (aesDouble a) (b / 2)

/-- A product in the field of AES. -/
def aesMul (a b : Nat) : Nat := aesMulBits 8 a b

/-- The inverse in the field of AES, a to the power of 254; 0 for 0. -/
def aesInv (a : Nat) : Nat :=
  let a2 := aesMul a a
  let a3 := aesMul a2 a
  let a6 := aesMul a3 a3
  let a12 := aesMul a6 a6
  let a15 := aesMul a12 a3
  let a30 := aesMul a15 a15
  let a60 := aesMul a30 a30
  let a120 := aesMul a60 a60
  let a126 := aesMul a120 a6
  let a127 := aesMul a126 a
  aesMul a127 a127

/-- A byte turned left by k bits. -/
def aesRotl (a k : Nat) : Nat := a * 2 ^ k % 256 + a * 2 ^ k / 256

/-- The substitution of a byte, and its inverse. -/
def aesSub (a : Nat) : Nat :=
  let b := aesInv a
  b ^^^ aesRotl b 1 ^^^ aesRotl b 2 ^^^ aesRotl b 3 ^^^ aesRotl b 4 ^^^ 0x63
def aesSubInv (a : Nat) : Nat := aesInv (aesRotl a 1 ^^^ aesRotl a 3 ^^^ aesRotl a 6 ^^^ 0x05)

/-- Two blocks of bytes, byte by byte. -/
def xorBytes (a b : List Nat) : List Nat := a.zipWith (fun x y => x ^^^ y) b

/-- The words of 4 bytes of the key schedule, newest first, from the i-th word on, n more of them. -/
def aesExpand : Nat → Nat → Nat → List (List Nat) → List (List Nat)
  | 0, _, _, ws => ws
  | n + 1, i, rc, ws =>
    let p := ws.getD 0 []
    let t := if i % 8 = 0 then xorBytes [aesSub (p.getD 1 0), aesSub (p.getD 2 0), aesSub (p.getD 3 0), aesSub (p.getD 0 0)] [rc, 0, 0, 0]
             else if i % 8 = 4 then p.map aesSub else p
    aesExpand n (i + 1) (if i % 8 = 0 then aesDouble rc else rc) (xorBytes (ws.getD 7 []) t :: ws)

/-- The 15 round keys of a key of 32 bytes, 16 bytes each. -/
def aesKeys (key : List Nat) : List (List Nat) :=
  let w0 := (List.range 8).map (fun i => (key.drop (4 * i)).take 4)
  let ws := (aesExpand 52 8 1 w0.reverse).reverse
  (List.range 15).map (fun i => ((ws.drop (4 * i)).take 4).flatten)

/-- The rows of a block turned, and turned back. -/
def aesShift (b : List Nat) : List Nat := (List.range 16).map (fun i => b.getD ((i + 4 * (i % 4)) % 16) 0)
def aesShiftInv (b : List Nat) : List Nat := (List.range 16).map (fun i => b.getD ((i + 16 - 4 * (i % 4)) % 16) 0)

/-- The columns of a block multiplied by a column of coefficients. -/
def aesMix (m : List Nat) (b : List Nat) : List Nat :=
  (List.range 16).map (fun i => (List.range 4).foldl (fun x j => x ^^^ aesMul (b.getD (4 * (i / 4) + j) 0) (m.getD ((j + 4 - i % 4) % 4) 0)) 0)

/-- AES-256 of a block of 16 bytes under its round keys, and its inverse. -/
def aesEnc (ks : List (List Nat)) (b : List Nat) : List Nat :=
  let t := (List.range 13).foldl (fun x i => xorBytes (aesMix [2, 3, 1, 1] (aesShift (x.map aesSub))) (ks.getD (i + 1) [])) (xorBytes b (ks.getD 0 []))
  xorBytes (aesShift (t.map aesSub)) (ks.getD 14 [])
def aesDec (ks : List (List Nat)) (b : List Nat) : List Nat :=
  let t := (List.range 13).foldl (fun x i => aesMix [14, 11, 13, 9] (xorBytes ((aesShiftInv x).map aesSubInv) (ks.getD (13 - i) []))) (xorBytes b (ks.getD 14 []))
  xorBytes ((aesShiftInv t).map aesSubInv) (ks.getD 0 [])

/-! ## XTS -/

/-- The round keys of the two keys of a memory key: data and tweak. -/
structure XtsKey where
  data : List (List Nat)
  tweak : List (List Nat)
deriving DecidableEq, Repr, Inhabited

/-- The blocks of a data unit under a function of blocks, n of them, with the tweak as a number. -/
def xtsBlocks (f : List Nat → List Nat) : Nat → Nat → List Nat → List Nat
  | 0, _, _ => []
  | n + 1, t, bs =>
    let tw := (natBytes 16 t).map BitVec.toNat
    xorBytes (f (xorBytes (bs.take 16) tw)) tw ++ xtsBlocks f n (gfDouble t) (bs.drop 16)

/-- A line of 128 bytes through XTS, its line number as the tweak (R565). -/
def xtsLine (k : XtsKey) (f : List Nat → List Nat) (line : Nat) (bs : List Byte) : List Byte :=
  let t := aesEnc k.tweak ((natBytes 16 line).map BitVec.toNat)
  (xtsBlocks f 8 (bytesNat (t.map (BitVec.ofNat 8))) (bs.map BitVec.toNat)).map (BitVec.ofNat 8)

/-- A line encrypted, and decrypted (R565). -/
def xtsEncrypt (k : XtsKey) (line : Nat) (bs : List Byte) : List Byte := xtsLine k (aesEnc k.data) line bs
def xtsDecrypt (k : XtsKey) (line : Nat) (bs : List Byte) : List Byte := xtsLine k (aesDec k.data) line bs

/-! ## Keys -/

/-- The bytes of n fuse rows from a row on, lowest first (R703). -/
def fuseBytes (f : Fuses) (row n : Nat) : List Byte := (List.range n).flatMap (fun i => wordBytes (tget f.loaded (row + i)))

/-- The salt of every derivation: "hexlos-g1". -/
def kdfSalt : List Byte := [0x68, 0x65, 0x78, 0x6C, 0x6F, 0x73, 0x2D, 0x67, 0x31]

/-- The root key: all zero in BLANK and DEBUG (R558), else the fused one (R703). -/
def rootKey (f : Fuses) : List Byte :=
  if f.lifecycle == .blank || f.lifecycle == .debug then List.replicate 32 0 else fuseBytes f 0 4

/-- mem_key of a partition and key epoch (R561). -/
def memKey (root : List Byte) (p e : Nat) : List Byte := hkdf384 root kdfSalt ([0x6D, 0x65, 0x6D] ++ natBytes 2 p ++ natBytes 4 e) 64

/-- mem_key as XTS uses it. -/
def memXts (root : List Byte) (p e : Nat) : XtsKey :=
  let k := (memKey root p e).map BitVec.toNat
  { data := aesKeys (k.take 32), tweak := aesKeys (k.drop 32) }

end Sys2Proof.Machine
end

