-- ==== Sys2Proof/Machine/Ops.lean ====
section
/-!
DEFINITION. The operations that every meaning is built of: memory by byte, word and line, the record of sent messages, counted events, interrupts, the error log, timestamps, homes and memory ranges, and free values.
-/
namespace Sys2Proof.Machine
open Sys2Proof

/-! ## Page indices and cells -/

@[reducible] def pCTL : Nat := 0x00
@[reducible] def pBCN : Nat := 0x01
@[reducible] def pSEC : Nat := 0x02
@[reducible] def pMBX : Nat := 0x03
@[reducible] def pCNT : Nat := 0x04
@[reducible] def pRAS : Nat := 0x05
@[reducible] def pCAS : Nat := 0x06
@[reducible] def pDET : Nat := 0x07
@[reducible] def pLAN : Nat := 0x08
@[reducible] def pHOM : Nat := 0x09
@[reducible] def pMOV : Nat := 0x0A
@[reducible] def pXFM : Nat := 0x0B
@[reducible] def pTIR : Nat := 0x0C
@[reducible] def pLMP : Nat := 0x0D
@[reducible] def pFNC : Nat := 0x0E
@[reducible] def pENG : Nat := 0x10
@[reducible] def pHST0 : Nat := 0x11
@[reducible] def pHST1 : Nat := 0x12
@[reducible] def pNMP0 : Nat := 0x14
@[reducible] def pFMP1 : Nat := 0x17
@[reducible] def pSPN : Nat := 0x18

/-- The page indices that stand for a unit (R47). -/
def isPage (p : Nat) : Bool := p ≤ 0x0E || (0x10 ≤ p && p ≤ 0x12) || (0x14 ≤ p && p ≤ 0x18)

/-- PG_CAP[PRESENT]: the build contains the unit (R39). -/
def present (s : State) (p : Nat) : Bool :=
  if p = pXFM then s.build.xfm else if p = pTIR then s.build.tir
  else if p = 0x16 || p = 0x17 then s.build.fmp else if p = pSPN then s.build.spn else isPage p

/-- The units that no fence closes (R641). -/
def unfenceable (p : Nat) : Bool :=
  [pCTL, pBCN, pSEC, pMBX, pRAS, pCAS, pLAN, pHOM, pLMP, pFNC].contains p

/-- Fuse rows of the fuse map (R703): lifecycle, minimum SVN, anchor enables with the unit fences, and cell disables. -/
def rowLife : Nat := 0x00A
def rowSvn : Nat := 0x00B
def rowOff : Nat := 0x024
def rowCells : Nat := 0x025

/-- PG_CAP[FUSED_OFF]: a fuse fences the unit (R640, the fuse map of R703). -/
def fusedOff (s : State) (p : Nat) : Bool :=
  let w := tget s.fuses.loaded rowOff
  if 0x10 ≤ p ∧ p ≤ 0x18 then bitOf w (4 + (p - 0x10)) else if p = pXFM then bitOf w 13 else if p = pTIR then bitOf w 14 else false

/-- PG_CAP[LOCKSTEP]: the comparator is built; no fuse changes an option bit (R39, R621). -/
def hasLockstep (s : State) : Bool := s.build.lockstep

/-- The comparator works: it is built, and no fuse fences it (R621, R640, R703). -/
def lockstepOn (s : State) : Bool := hasLockstep s && !bitOf (tget s.fuses.loaded rowOff) 15

/-- PG_STAT[FENCED]: fenced by fuse, by PG_CTL[FENCE] or by RAS (R640). -/
def fenced (s : State) (p : Nat) : Bool := fusedOff s p || (tget s.pages p).fence

/-- A cell of the disabled-unit map is fenced (R647). -/
def cellFenced (s : State) (c : Nat) : Bool :=
  s.ras.cells.contains c || (decide (c < 56) && bitOf (tget s.fuses.loaded rowCells) c)

/-- The units of a page accept new work: ENABLE, which reads 1 on the pages where it is RO (R57). -/
def enabled (s : State) (p : Nat) : Bool :=
  if p = pENG || p = pHST0 || p = pHST1 || (pNMP0 ≤ p && p ≤ pSPN) || p = pMOV || p = pXFM || p = pTIR || p = pCNT
  then (tget s.pages p).enable else true

/-- The header of a page. -/
def page (s : State) (p : Nat) : Page := tget s.pages p

/-- A state with the header of a page changed. -/
def updPage (s : State) (p : Nat) (f : Page → Page) : State := { s with pages := tupd s.pages p f }

/-- The link registers of a host station. -/
def hst (s : State) (h : Nat) : Link := tget s.hst h

/-- The link of a host station is active (R249). -/
def hostUp (s : State) (h : Nat) : Bool := (hst s h).st == 2 && !fenced s (pHST0 + h)

/-- What the block keeps for a partition. -/
def part (s : State) (p : Nat) : Part := tget s.parts p

/-- A state with a partition's record changed. -/
def updPart (s : State) (p : Nat) (f : Part → Part) : State := { s with parts := tupd s.parts p f }

/-- A partition exists: it is not FREE (R406). -/
def partExists (s : State) (p : Nat) : Bool := p < 64 && (part s p).st != .free

/-! ## Messages, events, interrupts -/

/-- Link registers of the engine station or a host station. -/
def linkOf (s : State) (p : Nat) : Link := if p = pENG then s.eng.link else hst s (p - pHST0)

/-- A state with the link of a station page changed. -/
def updLink (s : State) (p : Nat) (f : Link → Link) : State :=
  if p = pENG then { s with eng := { s.eng with link := f s.eng.link } }
  else { s with hst := tupd s.hst (p - pHST0) f }

/-- Station page of an agent of this block: the engine agent, or the host agent that a station names (R203, R204). -/
def agentPage (s : State) (a : Nat) : Option Nat :=
  if a = 16 + s.cas.pos then some pENG
  else if 16 ≤ a then none
  else (([0, 1].find? (fun h => bitOf (hst s h).cfg 12 && fld (hst s h).cfg 11 8 == a)).map (fun h => pHST0 + h))

/-- Class of an answer: RSP for COMP, DAT for data (R239). -/
def ansClass (k : AnsKind) : Nat := match k with
  | .comp => 3
  | _ => 4

/-- Station page and class whose credit a message spends (R239); none for what no station link carries. -/
def msgLink (s : State) : OutMsg → Option (Nat × Nat)
  | .intr st _ _ => some (pHST0 + st, 5)
  | .reg st _ _ => some (pHST0 + st, 5)
  | .ans a => match a.origin with
    | .host h => some (pHST0 + h, ansClass a.kind)
    | .eng _ _ => some (pENG, ansClass a.kind)
    | _ => none
  | .snp a _ _ _ _ => (agentPage s a).map (fun p => (p, 2))
  | .stash a _ _ _ => (agentPage s a).map (fun p => (p, 4))
  | .dispatch _ _ _ => some (pENG, 5)
  | .wbComp a _ => (agentPage s a).map (fun p => (p, 3))
  | _ => none

/-- A message leaves the block. A station link takes it against a credit of its class, and holds it back in order while it
has none (R239, R240); a link that is not active carries nothing. -/
def emit (s : State) (m : OutMsg) : State :=
  match msgLink s m with
  | none => { s with out := s.out ++ [m] }
  | some (p, c) =>
    let l := linkOf s p
    if l.st ≠ 2 then s
    else if 0 < tget l.held c ∧ !(l.waiting.any (fun x => (msgLink s x).map (fun y => y.2) == some c)) then
      { updLink s p (fun l => { l with held := tupd l.held c (fun n => n - 1) }) with out := s.out ++ [m] }
    else updLink s p (fun l => { l with waiting := l.waiting ++ [m] })

/-- The block has consumed messages of a class from a station's partner: their credits are owed back (R239). -/
def consume (s : State) (p cls : Nat) (n : Nat := 1) : State :=
  if (linkOf s p).st ≠ 2 then s else updLink s p (fun l => { l with owed := tupd l.owed cls (fun k => k + n) })

/-- The next flit to a station's partner returns the credits owed, 8 bits for each class (R239). -/
def returnCredits (s : State) (p : Nat) : State :=
  let l := linkOf s p
  if l.st ≠ 2 ∨ l.owed.isEmpty then s
  else
    let w := (List.range 6).foldl (fun w c => w + min 255 (tget l.owed c) * 2 ^ (8 * c)) 0
    { updLink s p (fun l => { l with owed := (List.range 6).foldl (fun t c => tset t c (tget l.owed c - 255)) [] }) with out := s.out ++ [.credit p (w64 w)] }

/-- Messages held back for credits leave in their order, as far as the credits of their classes go (R239). -/
def linkRelease (s : State) (p : Nat) : State :=
  let w := (linkOf s p).waiting
  w.foldl emit (updLink s p (fun l => { l with waiting := [] }))

/-- Several messages leave the block. -/
def emits (s : State) (ms : List OutMsg) : State := { s with out := s.out ++ ms }

/-- A source of a general or tenant counter occurs n times (R623, R625, R630). Tenant sources carry page 64. -/
def count (s : State) (page ev : Nat) (part : Nat := 0x3FF) (inst : Nat := 0xFFF) (n : Nat := 1) : State :=
  { s with cnt := { s.cnt with events := s.cnt.events ++ [{ page := page, ev := ev, part := part, inst := inst, n := n }] } }

/-- A tenant source of a partition occurs n times (R630). -/
def tenant (s : State) (part src : Nat) (n : Nat := 1) : State := count s 64 src part 0xFFF n

/-- IRQ_PEND (R60). -/
def irqPend (p : Page) : Word := p.irqRaw &&& p.irqEn

/-- The host stations that a vector word names (R60, R61). -/
def vecStations (v : Word) : List Nat :=
  match fld v 1 0 with
  | 0 => [0]
  | 1 => [1]
  | 3 => [0, 1]
  | _ => []

/-- INTERRUPT_MESSAGE: one message through each station that IRQ_VEC names, held back while its link is down (R60, R29). -/
def sendIrq (s : State) (p : Nat) : State :=
  (vecStations (page s p).irqVec).foldl (fun t h =>
    if hostUp t h then emit t (.intr h (page t p).irqVec p)
    else updPage t p (fun q => { q with irqHeld := setIns q.irqHeld h })) s

/-- Hardware sets IRQ_RAW bits of a page; a message is sent when IRQ_PEND becomes non-zero (R60). -/
def raise (s : State) (p bit : Nat) : State :=
  let old := page s p
  let t := updPage s p (fun q => { q with irqRaw := setBit q.irqRaw bit true })
  let t := if bit < 16 then count t p (48 + bit) else t
  if irqPend old = 0 ∧ irqPend (page t p) ≠ 0 then sendIrq t p else t

/-- PG_STAT[LAST] of a page: the status of its latest register-triggered action. -/
def setLast (s : State) (p : Nat) (st : Status) : State := updPage s p (fun q => { q with last := st })

/-! ## Time -/

/-- Cycle in which the current event tick began, or the cycle itself between ticks: deadlines in cyc count from it. -/
def now (s : State) : Nat := s.clk.cyc

/-- Move the fabric clock forward to a cycle, never back (log entry 7). -/
def advanceTo (s : State) (c : Nat) : State := { s with clk := { s.clk with cyc := max s.clk.cyc c } }

/-- BCN_COUNT as a number. -/
def bt (s : State) : Nat := s.bcn.count.toNat

/-- A deadline at a count has come: the count has reached or passed it, modulo 2^64 with the half-range window (R94, R102). -/
def btDue (s : State) (d : Nat) : Bool := decide ((s.bcn.count - w64 d).toNat < 2 ^ 63)

/-- Cycle in which the event tick of the present cycle began: ticks of 8 cyc from the last reset release or Kindle release on (R97, R605). -/
def tickOf (s : State) : Nat := s.clk.tickStart + (s.clk.cyc - s.clk.tickStart) / Config.tickCyc * Config.tickCyc

/-- The first event tick that begins at or after a cycle: in it a deadline in cyc expires (R103). -/
def tickCeil (s : State) (c : Nat) : Nat := s.clk.tickStart + cdiv (c - s.clk.tickStart) Config.tickCyc * Config.tickCyc

/-- Move the fabric clock forward to the event tick in which a deadline in cyc expires (R103). -/
def advanceToTick (s : State) (c : Nat) : State := advanceTo s (max c (tickCeil s c))

/-- Event ticks since reset release at the present cycle (R97). -/
def etNow (s : State) : Nat := s.clk.et + (s.clk.cyc - s.clk.tickStart) / Config.tickCyc

/-- The block runs: its clock goes and its reset is released (R631, R638). -/
def live (s : State) : Bool := !s.clk.stopped && decide (2 ≤ s.boot.stage)

/-- SUB of the current event tick (R95): fabric cycles since the last tick, shifted by SUB_SHIFT and kept in 11 bits. -/
def subCount (s : State) : Nat :=
  min ((tickOf s - s.bcn.lastTick) >>> (fld s.bcn.cfg 6 4)) 0x7FF

/-- The 128-bit timestamp of the current event tick (R96). -/
def timestamp (s : State) : Nat :=
  bt s + subCount s * 2 ^ 64 + fld s.bcn.cfg 6 4 * 2 ^ 75 + b2n s.bcn.coasted * 2 ^ 78 + b2n s.bcn.uncertain * 2 ^ 79

/-! ## Free values -/

/-- Draw a free word (log entry 3). -/
def drawWord (s : State) : Word × State := (Config.freeWord s.free, { s with free := s.free + 1 })
/-- Draw a free byte (log entry 3). -/
def drawByte (s : State) : Byte × State := (Config.freeByte s.free, { s with free := s.free + 1 })

/-! ## Pooled units -/

/-! Kinds of pooled units (R656). -/
@[reducible] def uWatch : Nat := 0
@[reducible] def uCtx : Nat := 1
@[reducible] def uQueue : Nat := 2
@[reducible] def uSpace : Nat := 3
@[reducible] def uSession : Nat := 4
@[reducible] def uWalk : Nat := 5
@[reducible] def uRemote : Nat := 6
@[reducible] def uToken : Nat := 7
@[reducible] def uBar : Nat := 8
@[reducible] def uMove : Nat := 9
@[reducible] def uFrame : Nat := 10
@[reducible] def uFar : Nat := 11
@[reducible] def uSlot : Nat := 12
@[reducible] def uLayout : Nat := 13
@[reducible] def uDrain : Nat := 14
@[reducible] def uReg : Nat := 15
@[reducible] def uFifo : Nat := 16
@[reducible] def uHold : Nat := 17
@[reducible] def uRelHold : Nat := 18
@[reducible] def uRed : Nat := 19

/-- A unit was not in use when the event tick began, and was not taken in it: one that is free may be taken (R656). -/
def unitOpen (s : State) (kind i : Nat) : Bool := !s.inUse.contains (kind, i)

/-- Units of a kind that count against its limit: those held now, and those that were held when the event tick began (R656). -/
def unitsHeld (s : State) (kind : Nat) (now : List Nat) : Nat :=
  (now ++ (s.inUse.filter (fun u => u.1 == kind && !now.contains u.2)).map (fun u => u.2)).length

/-- Units of a pool that is only counted: those held now, or the number held when the event tick began where that is more (R656). -/
def poolHeld (s : State) (kind now : Nat) : Nat := ((s.inUse.filter (fun u => u.1 == kind)).map (fun u => u.2)).foldl max now

/-- A unit is taken. -/
def takeUnit (s : State) (kind i : Nat) : State := { s with inUse := (kind, i) :: s.inUse }

/-! ## Mailbox doorbells -/

/-- A mailbox. -/
def mbox (s : State) (m : Nat) : Mailbox := tget s.mbx.boxes m

/-- A state with a mailbox changed. -/
def updMb (s : State) (m : Nat) (f : Mailbox → Mailbox) : State :=
  { s with mbx := { s.mbx with boxes := tupd s.mbx.boxes m f } }

/-- The interrupt message of a mailbox (R486): mailbox 64 interrupts the board management controller over I3C instead. -/
def mbIrq (s : State) (m : Nat) : State :=
  if m = 64 then emit s (.i3c (w64 1))
  else (vecStations (mbox s m).vec).foldl (fun t h =>
    if hostUp t h then emit t (.intr h (mbox t m).vec pMBX)
    else updMb t m (fun q => { q with irqHeld := setIns q.irqHeld h })) s

/-- Sudric sets S2H_DB bits of a mailbox; the message is sent when S2H_DB AND S2H_MASK becomes non-zero (R486). -/
def ringS2h (s : State) (m bit : Nat) : State :=
  let old := (mbox s m).s2hDb &&& (mbox s m).s2hMask
  let t := updMb s m (fun q => { q with s2hDb := setBit q.s2hDb bit true })
  if old = 0 ∧ (mbox t m).s2hDb &&& (mbox t m).s2hMask ≠ 0 then mbIrq t m else t

/-- The mailbox of a partition: p for the tenants' own, by partition number (R481). -/
def mbOfPart (p : Nat) : Nat := p

/-- S2H_DB bits (R485). -/
@[reducible] def dbReply : Nat := 0
@[reducible] def dbEvent : Nat := 1

/-! ## The error log -/

/-- Code of an error class (R634). -/
def clsCode : ErrClass → Nat
  | .none => 0 | .ce => 1 | .ueData => 2 | .ueUnit => 3 | .protocol => 4 | .fatal => 5

/-- The worse of two classes, CE, PROTOCOL, UE_DATA, UE_UNIT and FATAL from least to worst (log entry 13). -/
def clsRank : Nat → Nat
  | 0 => 0 | 1 => 1 | 4 => 2 | 2 => 3 | 3 => 4 | _ => 5

/-- The worse of two class codes. -/
def worse (a b : Nat) : Nat := if clsRank a < clsRank b then b else a

/-- Totals and interrupts of a logged class (R653). -/
def rasTotal (s : State) (c : ErrClass) : State :=
  match c with
  | .none => s
  | .ce =>
    let t := count { s with ras := { s.ras with ceTotal := satAdd 32 s.ras.ceTotal 1 } } pRAS 1
    if s.ras.ceTotal = 0 then raise t pRAS 0 else t
  | .ueData | .ueUnit =>
    raise (count { s with ras := { s.ras with ueTotal := satAdd 32 s.ras.ueTotal 1 } } pRAS 2) pRAS 1
  | .protocol => count { s with ras := { s.ras with protoTotal := satAdd 32 s.ras.protoTotal 1 } } pRAS 3
  | .fatal =>
    ringS2h (raise (count { s with ras := { s.ras with fatalTotal := satAdd 32 s.ras.fatalTotal 1 } } pRAS 4) pRAS 4) 64 dbEvent

/-- ERROR_LOG: RAS writes a record, the oldest one going when the ring of 256 is full (R648), and keeps the worst class (R634, R650). -/
def logErr (s : State) (c : ErrClass) (st : Status) (page : Nat) (index : Nat := 0) (part : Nat := 0x3FF)
    (addr : Option Nat := none) (va : Bool := false) : State :=
  let r : LogRec := { status := st.code, cls := c, page := page, index := index, part := part, addr := addr,
                      addrVa := va, time := timestamp s }
  let full := decide (256 ≤ s.ras.log.length)
  let t := { s with ras := { s.ras with
    log := (r :: s.ras.log).take 256
    worst := worse s.ras.worst (clsCode c)
    worstHealth := worse s.ras.worstHealth (clsCode c)
    sinceHealth := satAdd 8 s.ras.sinceHealth 1 } }
  let t := if full then
      let u := count { t with ras := { t.ras with logLost := satAdd 32 t.ras.logLost 1 } } pRAS 0
      if s.ras.logLost = 0 then raise u pRAS 5 else u
    else t
  rasTotal t c

/-- A PROTOCOL error of a refused access (R48, R188, R46). -/
def logProto (s : State) (st : Status) (page : Nat) (index part : Nat) (addr : Option Nat := none) : State :=
  logErr s .protocol st page index part addr

/-! ## Homes and memory ranges -/

/-- Blocks of the cascade. -/
def blocks (s : State) : Nat := s.cas.sizeM1 + 1

/-- Mode of a memory range: 0 none, 1 single port, 2 interleaved near, 3 interleaved far (R515). -/
def rangeMode (r : MemRange) : Nat := fld r.ctl 25 24

/-- First line and number of lines of a range. -/
def rangeBase (r : MemRange) : Nat := fld r.base 45 22 * 32768
def rangeLines (r : MemRange) : Nat := fld r.ctl 23 0 * 32768

/-- The memory range that contains a line (R514, R516). -/
def rangeOf (s : State) (line : Nat) : Option MemRange :=
  (s.cas.ranges.find? (fun e => rangeMode e.2 != 0 && decide (rangeBase e.2 ≤ line) &&
    decide (line < rangeBase e.2 + rangeLines e.2))).map (fun e => e.2)

/-- The home function with every home present: k, and j (R514). -/
def homeK (s : State) (line : Nat) : Nat × Nat :=
  let o := match rangeOf s line with
    | some r => if 2 ≤ rangeMode r then line - rangeBase r else line
    | none => line
  let H := 8 * blocks s
  let j := o / H
  let sft := ((j % 4096) ^^^ (j / 4096 % 4096) ^^^ (j / 16777216 % 4096)) % H
  ((o % H + sft) % H, j)

/-- The memory port that serves a line: block position and port 0 NMP0, 1 NMP1, 2 FMP0, 3 FMP1 (R515). -/
def portOf (s : State) (line : Nat) : Option (Nat × Nat) :=
  (rangeOf s line).map (fun r =>
    if rangeMode r = 1 then (fld r.ctl 28 26, fld r.ctl 29 29 + 2 * fld r.ctl 30 30)
    else
      let k := (homeK s line).1
      (k % blocks s, (k / blocks s) % 2 + (if rangeMode r = 3 then 2 else 0)))

/-! ## Memory -/

/-- The byte at an NPA, whatever key it was written under; a byte that nothing has written is 0 (log entry 4). -/
def memByte (s : State) (a : Nat) : Byte := tget s.mem a

/-- A state with a byte of memory written. -/
def setMemByte (s : State) (a : Nat) (b : Byte) : State := { s with mem := tset s.mem a b }

/-- Memory in its canonical form (R118): addresses rising, no entry that reads as an unlisted address does. -/
def memWf (m : List Host.Cell) : Bool := tblWf (α := Byte) m

/-- Bytes written from an address up. -/
def memPut : List Host.Cell → Nat → List Byte → List Host.Cell
  | m, _, [] => m
  | m, a, b :: t => memPut (tset m a b) (a + 1) t

/-- n bytes read from an address up. -/
def memGet (m : List Host.Cell) (a n : Nat) : List Byte := (List.range n).map (fun i => tget m (a + i))

/-- The memory key of a partition now: the partition and its key epoch (R565). -/
def keyOf (s : State) (p : Nat) : Nat × Nat := (p, tget s.sec.epochs p)

/-- The key under which a line was last written: by a write of the line, or by the newest scrub that covered it (R565, R571, R577). -/
def writtenKey (s : State) (line : Nat) : Option (Nat × Nat) :=
  match tget s.memKey line with
  | some k => some k
  | none => (s.memScrub.find? (fun r => decide (r.1 ≤ line) && decide (line < r.1 + r.2.1))).map (fun r => r.2.2)

/-- Lines of a range are written with zeros under a partition's present key (R571, R577). -/
def scrubLines (s : State) (base n p : Nat) : State :=
  let mine := fun (line : Nat) => decide (base ≤ line) && decide (line < base + n)
  if n = 0 then s else
  { s with mem := s.mem.filter (fun e => !mine (e.1 / 128))
           memPois := s.memPois.filter (fun c => !mine (c / 8))
           memKey := s.memKey.filter (fun e => !mine e.1)
           memScrub := (base, n, p, tget s.sec.epochs p) :: s.memScrub }

/-- The root key of the block that owns the memory port of a line: this block's as its fuses give it (R558, R561), another block's its
own (log entry 8). -/
def rootKeyOf (s : State) (line : Nat) : List Byte :=
  match portOf s line with
  | some (b, _) => if b = s.cas.pos then rootKey s.fuses else Config.otherRoot b
  | none => rootKey s.fuses

/-- The bytes of a line as a key other than the writer's shows them (R565): what memory holds, encrypted under the writer's key, is
decrypted under the reader's. -/
def otherKeyLine (s : State) (line : Nat) (w r : Nat × Nat) : List Byte :=
  let root := rootKeyOf s line
  xtsDecrypt (memXts root r.1 r.2) line (xtsEncrypt (memXts root w.1 w.2) line (memGet s.mem (line * 128) 128))

/-- A byte as the reader's key shows it: the plaintext when the line was written under that key or by nobody, else what the
other key makes of it (R565). -/
def keyedByte (s : State) (key : Nat × Nat) (a : Nat) : Byte :=
  match writtenKey s (a / 128) with
  | none => memByte s a
  | some k => if k = key then memByte s a else (otherKeyLine s (a / 128) k key).getD (a % 128) 0

/-! ## Pools and owners of lines -/

/-- An entry of the heat table belongs to an enrolled page (R374, R402). -/
def tracked (st : HeatState) : Bool := st != .untracked && st != .free

/-- The near frame of an NPA, when it lies in the near pool (R371). -/
def nearFrame (s : State) (npa : Nat) : Option Nat :=
  let b := s.tir.nearBase.toNat
  if b ≤ npa ∧ npa < b + min 65536 s.tir.nearPages.toNat * 2 ^ 22 then some ((npa - b) / 2 ^ 22) else none

/-- The far unit of an NPA, when it lies in the far pool (R371). -/
def farUnit (s : State) (npa : Nat) : Option Nat :=
  let b := s.tir.farBase.toNat
  if b ≤ npa ∧ npa < b + s.tir.farUnits.toNat * 2 ^ 19 then some ((npa - b) / 2 ^ 19) else none

/-- The aperture slot of an NPA, when it lies in the decode aperture of 65,536 slots (R371). -/
def apertureSlot (s : State) (npa : Nat) : Option Nat :=
  let b := s.tir.decodeBase.toNat
  if s.build.tir ∧ b ≠ 0 ∧ b ≤ npa ∧ npa < b + 65536 * 2 ^ 22 then some ((npa - b) / 2 ^ 22) else none

/-- The ember whose units hold a far unit: its first unit and record. -/
def emberOf (s : State) (u : Nat) : Option (Nat × Heat) :=
  s.tir.embers.find? (fun e => e.2.st != .untracked && decide (e.1 ≤ u) && decide (u < e.1 + e.2.units))

/-- The ember that an aperture slot shows. -/
def emberOfSlot (s : State) (sl : Nat) : Option (Nat × Heat) :=
  s.tir.embers.find? (fun e => e.2.st == .emberMx && e.2.slot == sl)

/-- The valid layout entry that covers an NPA (R568). -/
def layoutEntry (s : State) (npa : Nat) : Option Layout :=
  (s.sec.layout.find? (fun e => e.2.valid && decide (e.2.base ≤ npa / 0x400000) && decide (npa / 0x400000 < e.2.base + e.2.len))).map
    (fun e => e.2)

/-- The owner of a line (R566): the partition of the layout entry that covers it, the partition that the heat entry or ember
record of its frame or unit names, else partition 0; a held line has none (R580). -/
def layoutOwner (s : State) (npa : Nat) : Option Nat :=
  match layoutEntry s npa with
  | some e => if e.held || e.removing != 0 then none else some e.part
  | none =>
    match nearFrame s npa with
    | some f => if s.sec.heldFrames.contains f then none
                else if tracked (tget s.tir.frames f).st then some (tget s.tir.frames f).part else some 0
    | none =>
      match farUnit s npa with
      | some u => if s.sec.heldUnits.contains u then none
                  else some (match emberOf s u with
        | some (_, h) => h.part
        | none => 0)
      | none => some 0

/-- The key under which the block reads and writes a line (R565). -/
def lineKey (s : State) (line : Nat) : Nat × Nat := keyOf s ((layoutOwner s (line * 128)).getD 0)

/-- A line of memory as its owner reads it. -/
def rdLine (s : State) (line : Nat) : LineData :=
  lineOf ((List.range 128).map (fun i => keyedByte s (lineKey s line) (line * 128 + i)))

/-- Poison of a line, one bit per 16-byte chunk (R636). -/
def linePois (s : State) (line : Nat) : Nat :=
  (List.range 8).foldl (fun p i => if s.memPois.contains (line * 8 + i) then p + 2 ^ i else p) 0

/-- The poison list with the chunks of a line set to a value where a chunk mask says so. -/
def setPois (l : List Nat) (line chunks pois : Nat) : List Nat :=
  (List.range 8).foldl (fun l i =>
    if chunks.testBit i then (if pois.testBit i then setIns l (line * 8 + i) else setDel l (line * 8 + i)) else l) l

/-- The bytes of a line with those that a mask enables taken from new data. -/
def mergeLine (old new : LineData) (m : LineMask) : LineData :=
  lineOf ((List.range 128).map (fun i => if m.getLsbD i then lineByte new i else lineByte old i))

/-- Chunks of which the mask enables every byte. -/
def fullChunks (m : LineMask) : Nat :=
  (List.range 8).foldl (fun p i => if (List.range 16).all (fun j => m.getLsbD (16 * i + j)) then p + 2 ^ i else p) 0

/-- Chunks of which the mask enables some byte. -/
def someChunks (m : LineMask) : Nat :=
  (List.range 8).foldl (fun p i => if (List.range 16).any (fun j => m.getLsbD (16 * i + j)) then p + 2 ^ i else p) 0

/-- Poison of a line after a masked write: a chunk written in full takes the data's poison (R636), a chunk written in part
is poisoned when the old chunk or the data was (R636). -/
def mergePois (old new : Nat) (m : LineMask) : Nat :=
  (List.range 8).foldl (fun p i =>
    if (fullChunks m).testBit i then (if new.testBit i then p + 2 ^ i else p)
    else if (someChunks m).testBit i then (if new.testBit i || old.testBit i then p + 2 ^ i else p)
    else (if old.testBit i then p + 2 ^ i else p)) 0

/-- A whole line is written to memory under its owner's present key, with its poison. -/
def wrLine (s : State) (line : Nat) (d : LineData) (pois : Nat) : State :=
  { s with mem := memPut s.mem (line * 128) (lineBytes d)
           memPois := setPois s.memPois line 0xFF pois
           memKey := tset s.memKey line (some (lineKey s line)) }

/-- A line is merged with masked data. -/
def wrLineMasked (s : State) (line : Nat) (d : LineData) (m : LineMask) (pois : Nat) : State :=
  wrLine s line (mergeLine (rdLine s line) d m) (mergePois (linePois s line) pois m)

/-- n bytes of memory as their owner reads them, from an NPA up. -/
def rdBytes (s : State) (a n : Nat) : List Byte :=
  (List.range n).map (fun i => keyedByte s (lineKey s ((a + i) / 128)) (a + i))

/-- A chunk of the n bytes from an NPA up is poisoned. -/
def bytesPois (s : State) (a n : Nat) : Bool := s.memPois.any (fun c => decide (a / 16 ≤ c) && decide (c ≤ (a + n - 1) / 16))

/-- The 64-bit word at an NPA. -/
def rdWord (s : State) (a : Nat) : Word := w64 (bytesNat (rdBytes s a 8))

/-- n words from an NPA up. -/
def rdWords (s : State) (a n : Nat) : List Word := (List.range n).map (fun i => rdWord s (a + 8 * i))

/-- Bytes within one line are written at an NPA. -/
def wrBytesLine (s : State) (a : Nat) (bs : List Byte) : State :=
  let line := a / 128
  let off := a % 128
  let d := lineOf ((List.range 128).map (fun i => if off ≤ i && i < off + bs.length then bs.getD (i - off) 0 else lineByte (rdLine s line) i))
  let m : LineMask := BitVec.ofNat 128 ((2 ^ bs.length - 1) * 2 ^ off)
  wrLine s line d (mergePois (linePois s line) 0 m)

/-- A 64-bit word is written at an NPA that is a multiple of 8. -/
def wrWord (s : State) (a : Nat) (w : Word) : State := wrBytesLine s a (wordBytes w)

/-- Words are written from an NPA up. -/
def wrWords (s : State) (a : Nat) : List Word → State
  | [] => s
  | w :: t => wrWords (wrWord s a w) (a + 8) t

/-! ## Homes and memory ports -/

/-- A home k of the cascade is fenced (R643). -/
def homeFenced (s : State) (k : Nat) : Bool :=
  if k % blocks s = s.cas.pos then cellFenced s (32 + k / blocks s) && s.ras.rebal.head? != some (k / blocks s) || s.ras.remFenced.contains k
  else s.ras.remFenced.contains k

/-- The first unfenced home from k on (R643). -/
def nextHome (s : State) : Nat → Nat → Nat
  | 0, k => k
  | n + 1, k => if homeFenced s k then nextHome s n ((k + 1) % (8 * blocks s)) else k

/-- The home that serves a line: block and slice (R514, R643). -/
def homeOf (s : State) (line : Nat) : Nat × Nat :=
  let k := nextHome s (8 * blocks s) (homeK s line).1
  (k % blocks s, k / blocks s)

/-- The slice of the home that serves a line. -/
def sliceOf (s : State) (line : Nat) : Nat := (homeOf s line).2

/-- The home that serves a line as one number, block by block (R514). -/
def homeNo (s : State) (line : Nat) : Nat := (homeOf s line).1 * 8 + (homeOf s line).2

/-- The home that serves a line is one of this block's. -/
def homeHere (s : State) (line : Nat) : Bool := (homeOf s line).1 == s.cas.pos

/-- Another block of the cascade is left without a path and counts as fenced, its eight slices with it (R513, R643): it stands in the
list of rebalances as 8 more than its position until its homes have moved. -/
def blockGone (s : State) (b : Nat) : Bool := s.ras.rebal.contains (8 + b) || (List.range 8).all (fun i => s.ras.remFenced.contains (i * blocks s + b))

/-- A memory port of this block is connected: built, unfenced and ready (R30, R695). Ports of the other blocks are taken as
connected (log entry 8). -/
def portUp (s : State) (bp : Nat × Nat) : Bool :=
  if bp.1 = s.cas.pos then
    present s (pNMP0 + bp.2) && !fenced s (pNMP0 + bp.2) && (tget s.mps bp.2).en && (tget s.mps bp.2).ready
  else !blockGone s bp.1

/-- A memory port is fenced (R642). -/
def portFenced (s : State) (bp : Nat × Nat) : Bool :=
  (bp.1 = s.cas.pos && fenced s (pNMP0 + bp.2)) || (bp.1 ≠ s.cas.pos && blockGone s bp.1)

/-- What stands in the way of an access to a line's memory: nothing, no connected port (R30), or a fenced port (R642). -/
def memStatus (s : State) (line : Nat) : Status :=
  match portOf s line with
  | none => .unmapped
  | some bp => if portUp s bp then .ok else if portFenced s bp then .poison else .unmapped

/-! ## Answers at a memory port -/

/-- A state with a memory port changed. -/
def updMp (s : State) (p : Nat) (f : MemPort → MemPort) : State := { s with mps := tupd s.mps p f }

/-- A line moves at a memory port: MP_LINES and its statistic (R690, R696). -/
def mpLine (s : State) (p : Nat) : State := count (updMp s p (fun q => { q with lines := satAdd 48 q.lines 1 })) (pNMP0 + p) 1

/-- What memory holds of a line, as it stands there. -/
def oldLine (s : State) (line : Nat) : OldLine :=
  { line := line, data := lineOf (memGet s.mem (line * 128) 128), pois := linePois s line, key := tget s.memKey line }

/-- Memory holds a line as it stood before a write that was not performed. -/
def putBack (s : State) (o : OldLine) : State :=
  { s with mem := memPut s.mem (o.line * 128) (lineBytes o.data)
           memPois := setPois s.memPois o.line 0xFF o.pois
           memKey := tset s.memKey o.line o.key }

/-- The writes that wait at a memory port are not performed: their lines stand as before the first of them (R642). -/
def putBackAll (s : State) (l : List OldLine) : State := l.reverse.foldl putBack s

/-- A line write leaves through its memory port and spends a command and a line credit (R690); a write has reached memory
when the controller accepts it (R692). While it waits, what memory held before it is kept. -/
def mpWrite (s : State) (line : Nat) (old : OldLine) : State :=
  match portOf s line with
  | some (b, p) =>
    if b = s.cas.pos then
      let m := tget s.mps p
      let t := mpLine s p
      if 0 < m.cmdCr ∧ 0 < m.lineCr then
        emit (updMp t p (fun q => { q with cmdCr := q.cmdCr - 1, lineCr := q.lineCr - 1 })) (.mem p true 0 line)
      else updMp t p (fun q => { q with queue := q.queue ++ [(true, line)], unwritten := q.unwritten ++ [old] })
    else s
  | none => s

/-! ## The block's own writes -/

/-- No cache, transaction or waiting write holds a line of this block's homes: what the block writes to it takes effect in its place
at once (R36). -/
def lineIdle (s : State) (line : Nat) : Bool :=
  homeHere s line && (tget s.hom.txns line).isNone && tget s.hom.dir line == {} && !s.hom.relayQ.any (fun r => r.line == line)

/-! Numbers of the block's operations that read lines coherently (R36): the array of a data port, a walk, a channel's descriptor read,
the fault and release rings of a partition, and what the Lamplighter, a dispatch, a fence watch, Sudric and the tiering engine read. -/
def kArray (page : Nat) : Nat := 1000 + page
def kWalk (slot : Nat) : Nat := 2000 + slot
def kChan (chan : Nat) : Nat := 3000 + chan
def kRing (part : Nat) : Nat := 4000 + part
def kRel (part : Nat) : Nat := 5000 + part
def kLamp : Nat := 6000
def kObj : Nat := 6001
def kSudric : Nat := 6002
def kTier : Nat := 6003

/-- Operation k is over: what it asked for is no longer fresh to it. -/
def ownDone (s : State) (k : Nat) : State := { s with hom := { s.hom with fresh := s.hom.fresh.filter (fun x => x.1 != k) } }

/-- Memory shows the line's current data to operation k of the block: its home is here, and no cache owns it, no transaction blocks it
and no write of the block's own waits for it; or the operation asked for the line and has its answer (R36). -/
def lineCurrent (s : State) (k line : Nat) : Bool :=
  s.hom.fresh.contains (k, line) ||
  (homeHere s line && (tget s.hom.txns line).isNone && !s.hom.relayQ.any (fun r => r.line == line) && (match (tget s.hom.dir line).st with
    | .owned _ => false
    | _ => true))

/-- A request of the block's own that is placed at its home in the next event tick (R36). -/
def relayLater (s : State) (r : HomeReq) : State := { s with hom := { s.hom with relayQ := s.hom.relayQ ++ [r] } }

/-- A partial write by the home relay of bytes that lie in one line, for a partition. -/
def relayBytes (s : State) (p a : Nat) (bs : List Byte) : HomeReq :=
  { op := .wrPart, agent := 32 + s.cas.pos, origin := .relay, part := p, line := a / 128,
    data := BitVec.ofNat 1024 (bytesNat bs * 2 ^ (8 * (a % 128))), mask := BitVec.ofNat 128 ((2 ^ bs.length - 1) * 2 ^ (a % 128)) }

/-- The block writes a word of a record at an NPA that is a multiple of 8: at once where nothing holds the line, else at its home behind
what does (R36). -/
def ownPutWord (s : State) (p a : Nat) (w : Word) : State :=
  if lineIdle s (a / 128) then wrWord s a w else relayLater s (relayBytes s p a (wordBytes w))

/-- Words of records with their NPAs are written in order through their homes' relay (R36). -/
def relayPuts (s : State) (p : Nat) : List (Nat × Word) → State
  | [] => s
  | (a, w) :: t => relayPuts (relayLater s (relayBytes s p a (wordBytes w))) p t

/-- Words of records with their NPAs are written in order to memory. -/
def wrPuts (s : State) : List (Nat × Word) → State
  | [] => s
  | (a, w) :: t => wrPuts (wrWord s a w) t

/-- The block writes words of records: at once and together where nothing holds any of their lines, else all in order behind what
does (R36). -/
def ownPuts (s : State) (p : Nat) (l : List (Nat × Word)) : State :=
  if l.all (fun e => lineIdle s (e.1 / 128)) then wrPuts s l else relayPuts s p l

/-- Words from an NPA up, each with its own NPA. -/
def wordsAt (a : Nat) : List Word → List (Nat × Word)
  | [] => []
  | w :: t => (a, w) :: wordsAt (a + 8) t

/-- The block writes words of a record from an NPA up (R36). -/
def ownPut (s : State) (p a : Nat) (l : List Word) : State := ownPuts s p (wordsAt a l)

/-! ## Sealed slots and reservations -/

/-- A partition is sealed (R583). -/
def isSealed (s : State) (p : Nat) : Bool := tget s.sec.sealed p != 0

/-- The partition whose sealed slot stands at a position of the frame, the same on every resource (R583, R584). -/
def sealedAt (s : State) (i : Nat) : Option Nat :=
  let w := tget s.sec.frame (i % 64)
  if w.testBit 10 then some (w % 1024) else none

/-- Of the unsealed slots of a frame, those that THROTTLE leaves: the first max(8, floor(U x (8 - L) / 8)) of the U (R706). -/
def throttled (s : State) (free : List Nat) : List Nat := free.take (max 8 (free.length * (8 - s.clk.throttle) / 8))

/-- A slot admits the work of a partition: a sealed partition's own in its slots alone, the others in those of the rest that THROTTLE leaves
(R584, R706). -/
def slotOpen (s : State) (p i : Nat) : Bool :=
  match sealedAt s i with
  | some q => q == p
  | none => !isSealed s p && (s.clk.throttle == 0 || (throttled s ((List.range 64).filter (fun k => (sealedAt s k).isNone))).contains (i % 64))

/-- The position in the frames of the current event tick: they run from reset, or from the last release with FIXED_ARB (R584, R605). -/
def frameTick (s : State) : Nat := s.clk.et - s.clk.frameEt

/-- R_K in this block, once the pulse for K was accepted (R603). -/
def releaseAt (s : State) : Option Nat :=
  s.det.kindlePulse.map (fun p => p + 16 - (if s.cas.master then 0 else fld s.det.kindleCfg 4 0))

/-- The reservation window has ended and is not closed yet (R104): what is served now belongs to the next one. -/
def winOver (s : State) : Bool := btDue s s.sec.resEnd.toNat

/-- The reservation window is in its last bt (R591). -/
def lastBt (s : State) : Bool := s.bcn.count + 1 == s.sec.resEnd

/-- Units that a resource serves in one reservation window (R586, R588): 8 requests per et at each of 8 slices, mover slots of 128 cyc on
8 pipes, and a command in 2 cyc. The order of the span's messages leaves nothing to choose (log entry 9). -/
def resUnits (s : State) (res : Nat) : Nat :=
  let c := max 1 s.sec.resWin * fld s.bcn.period 19 0
  match res with
  | 0 => 8 * c
  | 1 => 8 * (c / 128)
  | 3 => c / 2
  | _ => 0

/-- The partition is below its reservation of a resource in the current window (R329, R588, R591). -/
def belowShare (s : State) (res p : Nat) : Bool :=
  let r := tget s.sec.reserv (p * 4 + res)
  let (used, cut) := if winOver s then (r.usedNext, r.cutNext) else (r.used, r.cut)
  r.share != 0 && decide (used * 1024 < (r.share - cut) * resUnits s res)

/-- A unit of a partition's reservation is counted in the window that its stamp lies in (R104): served, or taken for the progress
floor. -/
def useShare (s : State) (res p used cut : Nat) : State :=
  { s with sec := { s.sec with reserv := tupd s.sec.reserv (p * 4 + res) (fun r =>
      if winOver s then { r with usedNext := r.usedNext + used, cutNext := r.cutNext + cut }
      else { r with used := r.used + used, cut := r.cut + cut }) } }

/-- The partition is below its share of slice admission, which fenced slices scale (R588, R592). -/
def belowSlice (s : State) (p : Nat) : Bool :=
  let n := (tget s.sec.reserv (p * 4)).share * s.sec.slices / 8
  n != 0 && decide (tget (if winOver s then s.hom.admittedNext else s.hom.admitted) p * 1024 < n * resUnits s 0)

/-- A slice admits a request of a partition: it counts toward the partition's share of the window (R104, R588). -/
def countAdmit (s : State) (p : Nat) : State :=
  if (tget s.sec.reserv (p * 4)).share = 0 then s
  else if winOver s then { s with hom := { s.hom with admittedNext := tupd s.hom.admittedNext p (fun n => n + 1) } }
  else { s with hom := { s.hom with admitted := tupd s.hom.admitted p (fun n => n + 1) } }

/-- A line is written to memory through its port: point of coherence and port traffic together. -/
def storeLine (s : State) (line : Nat) (d : LineData) (pois : Nat) : State := mpWrite (wrLine s line d pois) line (oldLine s line)

end Sys2Proof.Machine
end

