-- ==== Sys2Proof/Machine/Keys.lean ====
section
/-!
DEFINITION. The device key pair and what the block makes with it: the digest of its public key, its signatures, and the keys of a
span link (R528, R559, R561, R564, R574).
-/
namespace Sys2Proof.Machine
open Sys2Proof

/-- The bytes of a number, most significant first. -/
def beBytesN (n v : Nat) : List Byte := (natBytes n v).reverse

/-- The coordinates of a point. -/
def ecAffine (a : EcPoint) : Nat × Nat :=
  let i := ecPow a.z (ecP - 2) ecP
  (a.x * i % ecP * i % ecP, a.y * i % ecP * i % ecP * i % ecP)

/-- The base point a number of times. -/
def ecBase (k : Nat) : EcPoint := ecMul k { x := ecGx, y := ecGy, z := 1 }

/-- A signature of a digest with a private key and a secret number, r then s, each of 48 bytes. -/
def ecSign (d e k : Nat) : List Byte :=
  let r := (ecAffine (ecBase k)).1 % ecN
  let s := ecPow k (ecN - 2) ecN * ((e + r * d) % ecN) % ecN
  beBytesN 48 r ++ beBytesN 48 s

/-- A number from 1 to the order of the base point less 1. -/
def ecScalar (n : Nat) : Nat := n % (ecN - 1) + 1

/-- The device seed: the fused one, disconnected in DEBUG (R559, R703). -/
def deviceSeed (f : Fuses) : List Byte := if f.lifecycle == .debug then Config.noSeed else fuseBytes f 4 6

/-- device_private of R561. -/
def devicePrivate (f : Fuses) : Nat := ecScalar (beNat (hkdf384 (deviceSeed f) kdfSalt [0x64, 0x65, 0x76] 72))

/-- The device public key: x then y, as R671 writes a key. -/
def devicePublic (f : Fuses) : List Byte :=
  let q := ecAffine (ecBase (devicePrivate f))
  beBytesN 48 q.1 ++ beBytesN 48 q.2

/-- DEVKEY_ID (R574). -/
def deviceKeyId (f : Fuses) : List Byte := sha384 (devicePublic f)

/-- The signature of the block over a digest (R564, R574). -/
def deviceSign (f : Fuses) (digest : List Byte) : List Byte := ecSign (devicePrivate f) (beNat digest) (ecScalar (Config.signNonce digest))

/-- The 64 bytes of the two direction keys of a link (R528): the shared point's x under the nonces and node IDs, those of the lower node
first. -/
def linkKeys (d : Nat) (mine partner : List Byte) (node other : Nat) (point : List Byte) : List Byte :=
  let q := ecMul d { x := beNat (point.take 48), y := beNat ((point.drop 48).take 48), z := 1 }
  let first := decide (node ≤ other)
  hkdf384 (beBytesN 48 (ecAffine q).1) (if first then mine ++ partner else partner ++ mine)
    ([0x76, 0x69, 0x6C, 0x6E, 0x6F, 0x72, 0x2D, 0x67, 0x31] ++ natBytes 2 (if first then node else other) ++ natBytes 2 (if first then other else node)) 64

/-! ## Certificate chains -/

/-- A public key is one that an enabled trust anchor names (R563, R703). -/
def anchorOk (f : Fuses) (key : List Byte) : Bool :=
  (List.range 4).any (fun i => bitOf (tget f.loaded rowOff) i && fuseBytes f (0x00C + 6 * i) 6 == sha384 key)

/-- A certificate is signed by the next one of its chain (R563). -/
def linkOk (a b : Cert) : Bool := ecdsaValid b.key (sha384 a.body) a.sig

/-- A partner's chain, leaf first, is accepted (R563). -/
def chainOk (f : Fuses) (l : List Cert) : Bool :=
  decide (1 ≤ l.length) && decide (l.length ≤ 4) && l.all Cert.ecdsa && (l.zip (l.drop 1)).all (fun x => linkOk x.1 x.2) &&
  l.getLast?.any (fun c => anchorOk f c.key)

end Sys2Proof.Machine
end

