-- ==== Sys2Proof/Machine/Translate.lean ====
section
/-!
DEFINITION. Two-stage translation: table entries, the layout check, the walk of both stages, the translation caches and what
a withdrawal drops from them (R118 to R158).
-/
namespace Sys2Proof.Machine
open Sys2Proof

/-- How a walk ends: a fault with cause, level and stage (R155), a combined translation, or a line of a table that must be asked
for first, because a cache may hold it newer than memory (R130). -/
inductive WalkRes where
  | fault (cause lvl stage : Nat)
  | ok (x : Xlat)
  | ask (line : Nat)
deriving DecidableEq, Repr, Inhabited

/-- Status code of a walk's cause (R155). -/
def causeStatus : Nat → Status
  | 0 => .ok | 1 => .unmapped | 2 => .demandPending | 3 => .unmapped | 4 => .permission | 5 => .permission
  | 6 => .unmapped | 7 => .permission | 8 => .poison | 9 => .unmapped | 0xA => .unitAbsent | _ => .unmapped

/-- Bytes of a page by its size code (R120, R142). -/
def pageBytes (size : Nat) : Nat := 2 ^ (22 + 6 * size)

/-- A valid entry is malformed (R122): level 0 A, 1 B, 2 C; stage true for stage 2. -/
def malformed (e : Word) (lvl : Nat) (stage2 : Bool) : Bool :=
  let leaf := bitOf e 1
  (leaf && lvl == 0) || (!leaf && lvl == 2) || fld e 9 8 == 3 ||
  (leaf && fld e 21 15 != 0) || (leaf && lvl == 1 && fld e 33 22 != 0) ||
  (stage2 && fld e 47 46 != 0) || (stage2 && !leaf && fld e 51 48 != 0) ||
  (stage2 && leaf && !bitOf e 7 && fld e 63 48 != 0)

/-- Address a valid entry points or maps to: 52 bits at stage 1, 46 at stage 2. -/
def entryAddr (e : Word) (stage2 : Bool) : Nat := if stage2 then fld e 45 15 * 2 ^ 15 else fld e 51 15 * 2 ^ 15

/-- The head h of a run agrees with its level-C leaf e at index i (R125). -/
def runOk (h e : Word) (i : Nat) (stage2 : Bool) : Bool :=
  bitOf h 0 && bitOf h 1 && bitOf h 2 && entryAddr h stage2 % 2 ^ 28 == 0 &&
  fld h 5 3 == fld e 5 3 && fld h 9 8 == fld e 9 8 &&
  (if stage2 then bitOf h 7 == bitOf e 7 && fld h 63 48 == fld e 63 48 else bitOf h 6 == bitOf e 6) &&
  entryAddr e stage2 == entryAddr h stage2 + (i % 64) * 2 ^ 22

/-- The NPA lies in a tiering pool or in the decode aperture (R373). -/
def inPool (s : State) (npa : Nat) : Bool :=
  (nearFrame s npa).isSome || (farUnit s npa).isSome || (apertureSlot s npa).isSome

/-- The layout check of R129: a near frame or far unit names the partition as its owner (R373); for other lines, the partition's
layout holds the NPA, and no removal of the range runs and nothing of it is held (R566, R568, R571, R580). -/
def inLayout (s : State) (p npa : Nat) : Bool :=
  match nearFrame s npa with
  | some f => tracked (tget s.tir.frames f).st && (tget s.tir.frames f).part == p
  | none =>
    match farUnit s npa with
    | some u => match emberOf s u with
      | some (_, h) => h.part == p
      | none => false
    | none =>
      match apertureSlot s npa with
      | some sl => match emberOfSlot s sl with
        | some (_, h) => h.part == p
        | none => false
      | none =>
        match layoutEntry s npa with
        | some e => !e.held && e.removing == 0 && e.part == p
        | none => p == 0 && (rangeOf s (npa / 128)).isSome

/-! ## Caches -/

/-- The partition that owns a cached translation. -/
def tlbOwner (s : State) (e : TlbEntry) : Nat := if e.stage2 then e.id else (tget s.lan.spaces e.id).part

/-- The entry maps an address of its space or partition. -/
def tlbHits (e : TlbEntry) (stage2 : Bool) (id addr : Nat) : Bool :=
  e.stage2 == stage2 && e.id == id && e.pn == addr / pageBytes e.x.size

/-- Among the entries that hit, the smallest page size wins, then the lowest entry index (R139). -/
def tlbPick : List TlbEntry → Option TlbEntry
  | [] => none
  | e :: t => match tlbPick t with
    | none => some e
    | some b => if e.x.size < b.x.size ∨ (e.x.size = b.x.size ∧ e.idx ≤ b.idx) then some e else some b

/-- Lookup in a fully associative buffer (R139). -/
def tlbFind (l : List TlbEntry) (stage2 : Bool) (id addr : Nat) : Option TlbEntry :=
  tlbPick (l.filter (fun e => tlbHits e stage2 id addr))

/-- An entry becomes the most recently used of its buffer (R140). -/
def tlbTouch (l : List TlbEntry) (e : TlbEntry) : List TlbEntry := e :: l.filter (fun x => x != e)

/-- Slice and set of a Lantern entry, as slice + 8 x set (R142). -/
def lanternPlace (s : State) (stage2 : Bool) (size id addr : Nat) : Nat :=
  let pn := addr / pageBytes size
  let k := pn ^^^ (id <<< 20) ^^^ (size <<< 32) ^^^ (b2n stage2 <<< 34)
  let h := ((k % 2048) ^^^ (k / 2 ^ 11 % 2048) ^^^ (k / 2 ^ 22 % 2048) ^^^ (k / 2 ^ 33 % 4)) % 2048
  let slice := (List.range 8).foldl (fun c _ => if cellFenced s (32 + c) then (c + 1) % 8 else c) (h % 8)
  let set := if s.build.lantern = 16384 then h / 8 else (h / 8) % 128
  slice + 8 * set

/-- The fill of a partition may evict an entry: never an entry of another partition that is sealed, and a sealed partition
evicts only its own (R585). -/
def mayEvict (s : State) (filler : Nat) (e : TlbEntry) : Bool :=
  let o := tlbOwner s e
  o == filler || (!isSealed s o && !isSealed s filler)

/-- Remove the last element that satisfies a test; none when there is none. -/
def dropLastThat {α : Type} (p : α → Bool) (l : List α) : Option (List α) :=
  match l.reverse.findIdx? p with
  | some i => some (l.reverse.eraseIdx i).reverse
  | none => none

/-- A fill of the Lantern: the most recently used of its set, or the second least recently used when it was made ahead of
demand (R144). It takes the lowest way that holds no entry, or that of the entry it replaces (log entry 25). A fill that finds no
eligible way is not installed (R585). -/
def lanternFill (s : State) (e : TlbEntry) : State :=
  let l := s.lan.lantern.filter (fun x => !(x.stage2 == e.stage2 && x.id == e.id && x.pn == e.pn && x.x.size == e.x.size))
  let free := fun (l : List TlbEntry) => (List.range 8).find? (fun w => !l.any (fun x => x.idx == e.idx && x.way == w))
  let l' := if (free l).isSome then some l else dropLastThat (fun x => x.idx == e.idx && mayEvict s (tlbOwner s e) x) l
  match l' with
  | none => s
  | some l =>
    let e := { e with way := (free l).getD 0 }
    let n := if e.pref then
        match l.reverse.findIdx? (fun x => x.idx == e.idx) with
        | some i => let k := l.length - 1 - i
                    l.take k ++ [e] ++ l.drop k
        | none => e :: l
      else e :: l
    { s with lan := { s.lan with lantern := n } }

/-- Probe of the Lantern for all page sizes (R143). A hit becomes the most recently used of its set (R144). -/
def lanternFind (s : State) (stage2 : Bool) (id addr : Nat) : Option TlbEntry :=
  tlbFind s.lan.lantern stage2 id addr

/-- The Lantern with an entry made most recently used. -/
def lanternTouch (s : State) (e : TlbEntry) : State :=
  { s with lan := { s.lan with lantern := tlbTouch s.lan.lantern e } }

/-- A fill of a Firefly or a pipe buffer of 32 entries: the lowest invalid entry, or the least recently used one that no
active stream slot protects (R140) and that R585 lets go. -/
def tlbFill (s : State) (l : List TlbEntry) (e : TlbEntry) (protect : TlbEntry → Bool) : List TlbEntry :=
  let l := l.filter (fun x => !(x.stage2 == e.stage2 && x.id == e.id && x.pn == e.pn && x.x.size == e.x.size))
  match (List.range 32).find? (fun i => !(l.any (fun x => x.idx == i))) with
  | some i => { e with idx := i } :: l
  | none =>
    let okEv := fun x => !protect x && mayEvict s (tlbOwner s e) x
    match (l.reverse).find? okEv with
    | some v => { e with idx := v.idx } :: l.filter (fun x => x != v)
    | none => l

/-- Lookup in the upper-level cache (R145). -/
def upFind (s : State) (stage2 : Bool) (id lvl addr : Nat) : Option UpEntry :=
  s.lan.upper.find? (fun u => u.stage2 == stage2 && u.id == id && u.level == lvl && u.index == addr / 2 ^ (46 - 12 * lvl))

/-- A fill or hit of the upper-level cache: most recently used, 1,024 entries (R145). -/
def upTouch (s : State) (u : UpEntry) : State :=
  { s with lan := { s.lan with upper := (u :: s.lan.upper.filter (fun x => x != u)).take 1024 } }

/-! ## The walk -/

/-- A read of a table entry finds its line somewhere else than in memory: operation k reads coherently, and must ask for the line
first (R36, R130). What reads for no operation reads memory as it stands (log entry 28). -/
def tableAsk (s : State) (k : Option Nat) (npa : Nat) : Bool :=
  match k with
  | none => false
  | some k => memStatus s (npa / 128) == .ok && !lineCurrent s k (npa / 128)

/-- A read of a table entry: cause when it cannot be read, and the entry (R130). -/
def tableRead (s : State) (npa : Nat) (key : Nat × Nat) : Nat × Word :=
  match memStatus s (npa / 128) with
  | .ok => if bytesPois s npa 8 then (8, 0)
           else (0, w64 (bytesNat ((List.range 8).map (fun i => keyedByte s key (npa + i)))))
  | .poison => (8, 0)
  | _ => (9, 0)

/-- Index of a level in an address (levels table). -/
def lvlIndex (lvl addr : Nat) (stage2 : Bool) : Nat :=
  if lvl = 0 then (if stage2 then addr / 2 ^ 46 % 64 else addr / 2 ^ 46 % 2048)
  else addr / 2 ^ (46 - 12 * lvl) % 4096

/-- The translation that a leaf gives to the page of an address. -/
def leafXlat (e : Word) (size : Nat) (stage2 : Bool) : Xlat :=
  { size := size, out := entryAddr e stage2, r := bitOf e 3, w := bitOf e 4, atom := bitOf e 5, attr := fld e 9 8,
    glob := stage2 && bitOf e 7, node := if stage2 then fld e 63 48 else 0 }

/-- A translation as it stands at its use: a global address whose node is this package's own is a plain address of this package,
whenever NODE_ID took that value (R33, R34, R119). -/
def localX (s : State) (x : Xlat) : Xlat :=
  if x.glob && x.node == fld s.cas.nodeId 15 0 then { x with glob := false, node := 0 } else x

/-- A walk meets a run fallback, which counts (R125, R157). -/
def runFell (s : State) : State :=
  let t := count { s with lan := { s.lan with runFallback := satAdd 32 s.lan.runFallback 1 } } pLAN 1
  if s.lan.runFallback = 0 then raise t pLAN 1 else t

/-- Stage 2 of a partition for a GPA, for operation k (R127 to R130): the state after the cache fills, and the translation or the
fault. -/
def s2Levels (s : State) (k : Option Nat) (p gpa : Nat) : Nat → Nat → Nat → State × WalkRes
  | 0, lvl, _ => (s, .fault 3 lvl 2)
  | n + 1, lvl, tbl =>
    let ea := tbl + lvlIndex lvl gpa true * 8
    if !inLayout s 0 ea then (s, .fault 7 lvl 2) else
    if tableAsk s k ea then (s, .ask (ea / 128)) else
    let (c, e) := tableRead s ea (keyOf s 0)
    if c ≠ 0 then (s, .fault c lvl 2)
    else if !bitOf e 0 then (s, .fault 3 lvl 2)
    else if malformed e lvl true then (s, .fault 6 lvl 2)
    else if !bitOf e 1 then
      let u : UpEntry := { stage2 := true, id := p, level := lvl, index := gpa / 2 ^ (46 - 12 * lvl), ptr := entryAddr e true }
      s2Levels (upTouch s u) k p gpa n (lvl + 1) (entryAddr e true)
    else
      let i := lvlIndex 2 gpa true
      let size0 := if lvl = 1 then 2 else 0
      let inRun := lvl = 2 && bitOf e 2
      let ha := tbl + (i - i % 64) * 8
      if inRun && tableAsk s k ha then (s, .ask (ha / 128)) else
      let h := if inRun then tableRead s ha (keyOf s 0) else (0, 0)
      if h.1 ≠ 0 then (s, .fault h.1 lvl 2) else
      let run := inRun && runOk h.2 e i true
      let s := if inRun && !run then runFell s else s
      let x := leafXlat (if run then h.2 else e) (if run then 1 else size0) true
      let ent : TlbEntry := { stage2 := true, id := p, pn := gpa / pageBytes x.size, x := x,
                              epoch := (tget s.lan.s2 p).epoch, idx := lanternPlace s true x.size p gpa }
      (lanternFill s ent, .ok x)

/-- s2_translate for operation k: identity, the Lantern, the upper-level cache, then the tables. -/
def s2Translate (s : State) (k : Option Nat) (p gpa : Nat) : State × WalkRes :=
  let r := tget s.lan.s2 p
  if !r.en then
    if p ≠ 0 ∨ 2 ^ 46 ≤ gpa then (s, .fault 3 0 2)
    else (s, .ok { size := 2, out := gpa / 2 ^ 34 * 2 ^ 34, r := true, w := true, atom := true })
  else
    match lanternFind s true p gpa with
    | some e => (lanternTouch s e, .ok e.x)
    | none =>
      match upFind s true p 1 gpa with
      | some u => s2Levels (upTouch s u) k p gpa 1 2 u.ptr
      | none =>
        match upFind s true p 0 gpa with
        | some u => s2Levels (upTouch s u) k p gpa 2 1 u.ptr
        | none => s2Levels s k p gpa 3 0 r.root

/-- The output address of a translation for an address of its page. -/
def xAddr (x : Xlat) (addr : Nat) : Nat := x.out + addr % pageBytes x.size

/-- What the read of a stage-1 table entry gives: cause and stage of a fault, the entry, or a line to ask for. -/
inductive EntryRes where
  | fault (cause stage : Nat)
  | entry (e : Word)
  | ask (line : Nat)
deriving DecidableEq, Repr, Inhabited

/-- A stage-1 table entry is read through stage 2 and the layout check, for operation k (R129, R130). A fault of stage 2 on its address
is reported with stage 2 and, the source being silent on the level, with the level of the entry that stage 1 reads (DESIGN CHOICE,
log entry 70). -/
def s1Read (s : State) (k : Option Nat) (p gpa : Nat) : State × EntryRes :=
  match s2Translate s k p gpa with
  | (t, .fault c _ st) => (t, .fault c st)
  | (t, .ask l) => (t, .ask l)
  | (t, .ok x) =>
    if (localX t x).glob then (t, .fault 9 1)
    else if !inLayout t p (xAddr x gpa) then (t, .fault 7 2)
    else if tableAsk t k (xAddr x gpa) then (t, .ask (xAddr x gpa / 128))
    else match tableRead t (xAddr x gpa) (keyOf t p) with
      | (0, e) => (t, .entry e)
      | (c, _) => (t, .fault c 1)

/-- The combined permissions allow an access (R123). -/
def permits (x : Xlat) : Access → Bool
  | .read => x.r
  | .write => x.w
  | .atomic => x.r && x.w && x.atom

/-- The two stages combined for an address (R127). -/
def combineX (x1 x2 : Xlat) (va gpa : Nat) : Xlat :=
  let size := min x1.size x2.size
  { size := size, out := xAddr x2 gpa - va % pageBytes size, r := x1.r && x2.r, w := x1.w && x2.w,
    atom := x1.atom && x2.atom, attr := max x1.attr x2.attr, glob := x2.glob, node := x2.node }

/-- The end of a walk, from a stage-1 leaf on. -/
def walkLeaf (s : State) (k : Option Nat) (p va : Nat) (acc : Access) (lvl : Nat) (x1 : Xlat) : State × WalkRes :=
  let gpa := x1.out + va % pageBytes x1.size
  match s2Translate s k p gpa with
  | (t, .fault c l st) => (t, .fault c l st)
  | (t, .ask l) => (t, .ask l)
  | (t, .ok x2) =>
    let x := combineX x1 x2 va gpa
    if !permits x1 acc then (t, .fault 4 lvl 1)
    else if !permits x2 acc then (t, .fault 5 lvl 2)
    else if !(localX t x).glob && !inLayout t p (xAddr x va) then (t, .fault 7 0 2)
    else if (localX t x).glob && !present t pSPN then (t, .fault 0xA 0 2)
    else (t, .ok x)

/-- Stage 1 from a level on (the walk pseudocode). -/
def s1Levels (s : State) (k : Option Nat) (sid p va : Nat) (acc : Access) : Nat → Nat → Nat → State × WalkRes
  | 0, lvl, _ => (s, .fault 1 lvl 1)
  | n + 1, lvl, tbl =>
    match s1Read s k p (tbl + lvlIndex lvl va false * 8) with
    | (t, .fault c st) => (t, .fault c lvl st)
    | (t, .ask l) => (t, .ask l)
    | (t, .entry e) =>
      if !bitOf e 0 then (t, .fault (if bitOf e 6 then 2 else 1) lvl 1)
      else if malformed e lvl false then (t, .fault 6 lvl 1)
      else if !bitOf e 1 then
        let u : UpEntry := { stage2 := false, id := sid, level := lvl, index := va / 2 ^ (46 - 12 * lvl), ptr := entryAddr e false }
        s1Levels (upTouch t u) k sid p va acc n (lvl + 1) (entryAddr e false)
      else if lvl = 2 ∧ bitOf e 2 then
        let i := lvlIndex 2 va false
        match s1Read t k p (tbl + (i - i % 64) * 8) with
        | (t, .fault c st) => (t, .fault c lvl st)
        | (t, .ask l) => (t, .ask l)
        | (t, .entry h) =>
          if runOk h e i false then walkLeaf t k p va acc lvl (leafXlat h 1 false)
          else walkLeaf (runFell t) k p va acc lvl (leafXlat e 0 false)
      else walkLeaf t k p va acc lvl (leafXlat e (if lvl = 1 then 2 else 0) false)

/-- A walk of a space for a VA and an access class, from the upper-level cache or the root on. -/
def walkFrom (s : State) (k : Option Nat) (sid va : Nat) (acc : Access) : State × WalkRes :=
  let sp := tget s.lan.spaces sid
  if !sp.valid then (s, .fault 0xB 0 1)
  else match upFind s false sid 1 va with
    | some u => s1Levels (upTouch s u) k sid sp.part va acc 1 2 u.ptr
    | none => match upFind s false sid 0 va with
      | some u => s1Levels (upTouch s u) k sid sp.part va acc 2 1 u.ptr
      | none => s1Levels s k sid sp.part va acc 3 0 sp.root

/-- A walk of a space for a VA and an access class, for operation k (R151, R155). One that reads poison raises WALK_POISON (R157). -/
def walk (s : State) (k : Option Nat) (sid va : Nat) (acc : Access) : State × WalkRes :=
  match walkFrom s k sid va acc with
  | (t, .fault c l st) => (if c = 8 then raise t pLAN 2 else t, .fault c l st)
  | r => r

/-- The combined entry that a walk installs (R146). -/
def walkEntry (s : State) (sid va : Nat) (x : Xlat) (ep ep2 : Nat) (pref : Bool) : TlbEntry :=
  { stage2 := false, id := sid, pn := va / pageBytes x.size, x := x, epoch := ep, epoch2 := ep2, pref := pref,
    idx := lanternPlace s false x.size sid va }

/-- A combined translation is installed in the Lantern and noted in SPACE_CTL[SIZES] (R144, R157). -/
def installX (s : State) (sid : Nat) (e : TlbEntry) : State :=
  let t := lanternFill s e
  { t with lan := { t.lan with spaces := tupd t.lan.spaces sid (fun q => { q with sizes := q.sizes ||| (1 <<< e.x.size) }) } }

/-- The status, NPA and node of a GPA that the block itself names in a partition: an object record, a ring, a fence record
(R437, R451). The Lantern is read and not filled, and no register counts the lookup (log entry 14). -/
def gpaLookup (s : State) (p gpa : Nat) : Status × Nat × Option Nat :=
  match (s2Translate s none p gpa).2 with
  | .fault c _ _ => (causeStatus c, 0, none)
  | .ask _ => (.unmapped, 0, none)
  | .ok x =>
    let a := xAddr x gpa
    let x := localX s x
    if x.glob then (if present s pSPN then (.ok, a, some x.node) else (.unitAbsent, a, none))
    else if !inLayout s p a then (.permission, a, none)
    else match memStatus s (a / 128) with
      | .ok => (.ok, a, none)
      | st => (st, a, none)

/-! ## Withdrawal of cached translations -/

/-- Two ranges overlap. -/
def overlap (a la b lb : Nat) : Bool := decide (a < b + lb) && decide (b < a + la)

/-- A cached entry that a withdrawal of kind, target, base and granules drops (R147, R148). -/
def wdHits (s : State) (kind target base len : Nat) (e : TlbEntry) : Bool :=
  match kind with
  | 0 => !e.stage2 && e.id == target && overlap (e.pn * pageBytes e.x.size) (pageBytes e.x.size) base (len * 2 ^ 22)
  | 2 => !e.stage2 && e.id == target
  | 1 => if e.stage2 then e.id == target && overlap (e.pn * pageBytes e.x.size) (pageBytes e.x.size) base (len * 2 ^ 22)
         else tlbOwner s e == target
  | _ => tlbOwner s e == target

/-- An upper-level entry whose range the withdrawn range overlaps (R145, R148). -/
def wdHitsUp (s : State) (kind target base len : Nat) (u : UpEntry) : Bool :=
  let span := 2 ^ (46 - 12 * u.level)
  match kind with
  | 0 => !u.stage2 && u.id == target && overlap (u.index * span) span base (len * 2 ^ 22)
  | 2 => !u.stage2 && u.id == target
  | 1 => u.stage2 && u.id == target && overlap (u.index * span) span base (len * 2 ^ 22)
  | _ => if u.stage2 then u.id == target else (tget s.lan.spaces u.id).part == target

/-- An entry that stays takes the new epoch value (R147). -/
def wdRestamp (s : State) (kind target newEp : Nat) (e : TlbEntry) : TlbEntry :=
  if kind = 0 ∨ kind = 2 then (if !e.stage2 && e.id == target then { e with epoch := newEp } else e)
  else if e.stage2 && e.id == target then { e with epoch := newEp }
  else if !e.stage2 && tlbOwner s e == target then { e with epoch2 := newEp } else e

/-- The three actions of R147 in one event tick, on the Lantern, every Firefly, every pipe buffer and the upper-level cache. -/
def wdDrop (s : State) (kind target base len : Nat) : State :=
  let isSp := kind == 0 || kind == 2
  let newEp := (if isSp then (tget s.lan.spaces target).epoch else (tget s.lan.s2 target).epoch) + 1
  let newEp := newEp % 2 ^ 32
  let f := fun (l : List TlbEntry) => (l.filter (fun e => !wdHits s kind target base len e)).map (wdRestamp s kind target newEp)
  { s with
    lan := { s.lan with
      lantern := f s.lan.lantern
      upper := s.lan.upper.filter (fun u => !wdHitsUp s kind target base len u)
      spaces := if isSp then tupd s.lan.spaces target (fun q => { q with epoch := newEp, sizes := if kind = 2 then 0 else q.sizes })
                else s.lan.spaces
      s2 := if isSp then s.lan.s2 else tupd s.lan.s2 target (fun q => { q with epoch := newEp }) }
    eng := { s.eng with fireflies := (s.eng.fireflies.map (fun e => (e.1, f e.2))).filter (fun e => !e.2.isEmpty) }
    mov := { s.mov with buffers := (s.mov.buffers.map (fun e => (e.1, f e.2))).filter (fun e => !e.2.isEmpty) } }

end Sys2Proof.Machine
end

