-- ==== Sys2Proof/Machine/Objects.lean ====
section
/-!
DEFINITION. Contexts by number, memory-object records and their reference operations, and the check of fences named by
reference (R409, R434, R437, R451).
-/
namespace Sys2Proof.Machine
open Sys2Proof

/-- A context of this block by its number; other numbers name none (R409). -/
def ctxIdx (s : State) (c : Nat) : Option Nat :=
  if c < 32768 ∧ c / 4096 = s.cas.pos then some (c % 4096) else none

/-- The record of a context number; FREE when the number is not this block's. -/
def ctxOf (s : State) (c : Nat) : Ctx :=
  match ctxIdx s c with
  | some i => tget s.lmp.ctxs i
  | none => {}

/-- The context is LIVE. -/
def ctxLive (s : State) (c : Nat) : Bool := (ctxIdx s c).isSome && (ctxOf s c).st == .live

/-- A state with a context changed. -/
def updCtx (s : State) (c : Nat) (f : Ctx → Ctx) : State :=
  match ctxIdx s c with
  | some i => { s with lmp := { s.lmp with ctxs := tupd s.lmp.ctxs i f } }
  | none => s

/-- A cause of loss is sampled: the context is lost at rank 3 by CONTEXT_LOSS (R413, R717). The first cause stands. -/
def doom (s : State) (c : Nat) (st : Status) : State :=
  if ctxLive s c then updCtx s c (fun q => { q with doomed := some (q.doomed.getD st) }) else s

/-- A queue. -/
def queue (s : State) (q : Nat) : Queue := tget s.lmp.queues q

/-- A state with a queue changed. -/
def updQ (s : State) (q : Nat) (f : Queue → Queue) : State :=
  { s with lmp := { s.lmp with queues := tupd s.lmp.queues q f } }

/-- A state with a fetched command changed. -/
def updCmd (s : State) (q seq : Nat) (f : Cmd → Cmd) : State :=
  { s with lmp := { s.lmp with cmds := s.lmp.cmds.map (fun c => if c.q == q && c.seq == seq then f c else c) } }

/-- A command that was fetched and has not retired. -/
def cmdOf (s : State) (q seq : Nat) : Option Cmd := s.lmp.cmds.find? (fun c => c.q == q && c.seq == seq)

/-- A command's work has ended: it retires with a status and a RESULT (R440). A command that already ended keeps its status. -/
def endCmd (s : State) (q seq : Nat) (st : Status) (res : Word := 0) : State :=
  updCmd s q seq (fun c => if c.st == .retire then c else { c with st := .retire, status := st, result := res })

/-- A request that the home relay made for a command is answered: its completion record is performed, or its work ends: with
CONTEXT_LOST once its context is lost (R268, R415, R440). -/
def cmdAnswered (s : State) (q seq : Nat) (st : Status) : State :=
  match cmdOf s q seq with
  | none => s
  | some c => if c.st == .retire then updCmd s q seq (fun c => { c with recorded := if c.recorded = 1 then 2 else c.recorded })
              else endCmd s q seq (if ctxLive s c.ctx then st else .contextLost)

/-! ## Object records -/

/-- Where the record of an object lies: status and NPA (R433). -/
def objWhere (s : State) (p id : Nat) : Status × Nat :=
  let t := (part s p).objTbl
  let lg := fld t 4 0
  if lg < 6 ∨ 24 < lg ∨ 2 ^ lg ≤ id then (.permission, 0)
  else
    let (st, a, node) := gpaLookup s p (fld t 51 12 * 4096 + id * 64)
    if node.isSome then (.unmapped, 0)
    else if st != .ok then (if st == .permission || st == .poison then (st, 0) else (.unmapped, 0))
    else if bytesPois s a 64 then (.poison, 0) else (.ok, a)

/-- Word 0 of the record passes the check of R437. -/
def objWord0Ok (w : Word) (p id : Nat) : Bool := bitOf w 0 && !bitOf w 1 && fld w 39 16 == id && fld w 49 40 == p

/-- TAKE or DROP on an object of a partition (R437): status and count after the operation. -/
def objOp (s : State) (p id : Nat) (take : Bool) : State × Status × Nat :=
  let (st, a) := objWhere s p id
  if st != .ok then (s, st, 0) else
  let w0 := rdWord s a
  let w1 := rdWord s (a + 8)
  let cnt := fld w1 31 0
  let gone := fun (t : State) => updPart (ownPut t p a [setBit w0 1 true]) p (fun q => { q with goneTodo := q.goneTodo ++ [id] })
  if !objWord0Ok w0 p id then (s, .objectGone, cnt)
  else if cnt = 0 then (gone s, .objectGone, 0)
  else if take then
    if 0xFFFFFF00 ≤ cnt then (s, .quota, cnt) else (ownPut s p (a + 8) [setFld w1 31 0 (cnt + 1)], .ok, cnt + 1)
  else if cnt = 1 then (gone (ownPut s p (a + 8) [setFld w1 31 0 0]), .ok, 0)
  else (ownPut s p (a + 8) [setFld w1 31 0 (cnt - 1)], .ok, cnt - 1)

/-- The block drops a reference; an answer other than OK counts in REF_REFUSED and is logged (R440). -/
def dropRef (s : State) (p id : Nat) : State :=
  let (t, st, _) := objOp s p id false
  if st == .ok then t
  else
    let u := count { t with lmp := { t.lmp with refRefused := satAdd 32 t.lmp.refRefused 1 } } pLMP 2
    logProto u st pLMP 0 p

/-- GPA of page 0 and number of pages of an object whose record is readable, whatever its state. -/
def objRange (s : State) (p id : Nat) : Option (Nat × Nat) :=
  let (st, a) := objWhere s p id
  if st == .ok then some (fld (rdWord s (a + 16)) 51 22 * 2 ^ 22, fld (rdWord s (a + 24)) 31 0) else none

/-- The check of R451 for a fence or barrier record named by reference: the GPA of the record when it passes. -/
def fenceCheck (s : State) (p obj idx : Nat) : Option Nat :=
  let (st, a) := objWhere s p obj
  if st != .ok then none else
  let w0 := rdWord s a
  if bitOf w0 0 && !bitOf w0 1 && bitOf w0 2 && fld w0 49 40 == p && decide (idx < fld (rdWord s (a + 24)) 31 0 * 65536)
  then some (fld (rdWord s (a + 16)) 51 22 * 2 ^ 22 + idx * 64) else none

/-- The object holds the NPA: one of its pages maps to the 4 MiB frame (R434). -/
def objHolds (s : State) (p id npa : Nat) : Bool :=
  match objRange s p id with
  | none => false
  | some (g, n) => (List.range n).any (fun i =>
      let (st, a, node) := gpaLookup s p (g + i * 2 ^ 22)
      st == .ok && node.isNone && a / 2 ^ 22 == npa / 2 ^ 22)

end Sys2Proof.Machine
end

