-- ==== Sys2Proof/Machine/SpanOut.lean ====
section
/-!
DEFINITION. What leaves over the cascade ports and the span: credits and pools of a cascade port, the egress of the span
station, span routes, and the remote trackers of requests to other nodes (R508 to R513, R524 to R526, R540 to R543).
-/
namespace Sys2Proof.Machine
open Sys2Proof

/-! ## Cascade ports -/

/-- Credit pool of a message on its next link: local or span, first or second hop (R510). -/
def casPool (m : CasMsg) : Nat := 2 * b2n m.span + b2n m.hop2

/-- Key of the credits of a port, pool and class (R510). -/
def casKey (port : Nat) (m : CasMsg) : Nat := port * 24 + casPool m * 6 + m.cls % 6

/-- Port of the route to a position, when it is valid (R508). -/
def casPort (s : State) (dst : Nat) : Option Nat :=
  let r := tget s.cas.routes dst
  if r.testBit 3 then some (r % 4) else none

/-- A message leaves toward another block, or waits for a credit of its port, pool and class behind those before it (R509,
R510). A message to a position without a route is lost (R513). -/
def casSend (s : State) (m : CasMsg) : State :=
  match casPort s m.dst with
  | none => s
  | some p =>
    if 0 < tget s.cas.credits (casKey p m) ∧ !(s.cas.pools.any (fun x => (casPort s x.dst).map (fun q => casKey q x) == some (casKey p m))) then
      emit { s with cas := { s.cas with credits := tupd s.cas.credits (casKey p m) (fun n => n - 1) } } (.cas p m)
    else { s with cas := { s.cas with pools := s.cas.pools ++ [m] } }

/-- Messages that wait for cascade credits leave in their order. -/
def casRelease (s : State) : State :=
  s.cas.pools.foldl casSend { s with cas := { s.cas with pools := [] } }

/-- A message goes to every other block of the cascade. -/
def casAll (s : State) (l : CasLoad) : State :=
  ((List.range (blocks s)).filter (fun b => b != s.cas.pos)).foldl (fun t b => casSend t { src := s.cas.pos, dst := b, cls := 5, bytes := 16, load := l }) s

/-! ## Span egress -/

/-- Class of a span message; link-local messages need no credit (R526). -/
def spanClass : SpanMsg → Option Nat
  | .req _ _ _ => some 0
  | .ingress _ => some 0
  | .ans _ _ _ k _ _ _ => some (ansClass k)
  | .rsp _ _ k _ _ _ => some (ansClass k)
  | .snp _ _ _ => some 2
  | .snpRsp _ _ _ _ => some 3
  | .ack _ _ _ => some 3
  | _ => none

/-- A message of the package protocol leaves in the next flit and stays in the replay buffer until it is acknowledged
(R524); it waits for ACTIVE, for room in the buffer of 16,384 flits, and for credits (R526). A quarantined link carries none
(R538). One flit carries one message (log entry 20). -/
def spanSend (s : State) (m : SpanMsg) : State :=
  let n := s.spn
  if n.quar then s
  else
    let cls := spanClass m
    let room := match cls with
      | some c => decide (0 < tget n.credits c) && n.waiting.isEmpty
      | none => true
    if n.st == .active && room && decide (n.replay.length < 16384) then
      emit { s with spn := { n with
        credits := match cls with
          | some c => tupd n.credits c (fun k => k - 1)
          | none => n.credits
        replay := n.replay ++ [(n.txSeq, m)]
        txSeq := n.txSeq + 1 } } (.span m)
    else { s with spn := { n with waiting := n.waiting ++ [m] } }

/-- Waiting span messages leave in their order, as far as credits and the replay buffer go. -/
def spanRelease (s : State) : State :=
  s.spn.waiting.foldl spanSend { s with spn := { s.spn with waiting := [] } }

/-- A link-local message leaves whatever the credits (R526, R538). -/
def spanLocal (s : State) (lop : Nat) (body : List Word) : State := emit s (.span (.link lop body))

/-! ## Span routes and remote trackers -/

/-- Entry of SPAN_ROUTE that a node uses (R540). -/
def routeEntry (node : Nat) : Nat := (node % 256) ^^^ (node / 256 % 256)

/-- A message for another node goes through the station at the position of its route: this block's own, or over the cascade.
Without a valid route it waits nowhere. -/
def toNode (s : State) (node : Nat) (m : SpanMsg) : State :=
  let r := tget s.spn.routes (routeEntry node)
  if !r.testBit 3 then s
  else if r % 8 = s.cas.pos then spanSend s m
  else casSend s { src := s.cas.pos, dst := r % 8, span := true, cls := (spanClass m).getD 5, load := .span node m }

/-- Number of remote trackers (R542). -/
def remTrackers : Nat := 4096

/-- REMOTE_CFG[DEADLINE] in bt; 0 acts as 1. -/
def remDeadline (s : State) : Nat := max 1 (fld s.spn.remoteCfg 15 0)

/-- A remote request takes its tracker and leaves, or waits for a tracker or for its route entry to change (R540, R542). -/
def remTake (s : State) (x : Nat × HomeReq) : State :=
  let e := routeEntry x.1
  let wait := { s with spn := { s.spn with remWait := s.spn.remWait ++ [x] } }
  if (tget s.spn.routesNew e).isSome then wait
  else match (List.range remTrackers).find? (fun i => (tget s.spn.remotes i).isNone && unitOpen s uRemote i) with
    | none => wait
    | some i =>
      let r := tget s.spn.routes e
      let rec' : Remote := { node := x.1, req := x.2, due := s.bcn.count + w64 (remDeadline s), sent := r.testBit 3, entry := e, pos := r % 8 }
      toNode { takeUnit s uRemote i with spn := { s.spn with remotes := tset s.spn.remotes i (some rec') } } x.1 (.req x.1 i x.2)

/-- Remote requests that wait are tried again, in order. -/
def remDrain (s : State) : State :=
  s.spn.remWait.foldl remTake { s with spn := { s.spn with remWait := [] } }

/-- A request is routed toward another node behind those that wait (R540, R542). -/
def remRoute (s : State) (node : Nat) (r : HomeReq) : State :=
  remDrain { s with spn := { s.spn with remWait := s.spn.remWait ++ [(node, r)] } }

end Sys2Proof.Machine
end

