-- ==== Sys2Proof/Machine/Mailbox.lean ====
section
/-!
DEFINITION. Mailboxes: receiver states, timers, FIFOs, the replies of Sudric and the messages it sends without a request
(R481 to R498).
-/
namespace Sys2Proof.Machine
open Sys2Proof

/-! ## Receivers and timers -/

/-- Sudric answers a mailbox: 0 and 64 from the end of the ROM stage on, HALTED included, the others once the root partition is open
(R494, R669, R681). -/
def sudricServes (s : State) (m : Nat) : Bool :=
  if m = 0 ∨ m = 64 then decide (3 ≤ s.boot.stage) else s.boot.stage == 9

/-- H2S_RX, the receiver state toward Sudric (R494, R669). -/
def h2sRx (s : State) (m : Nat) : Nat :=
  if m = 65 ∧ !s.cas.master then 3
  else if !sudricServes s m then 3
  else if s.boot.urBusy ∧ s.boot.urPage = pMBX then 2
  else if !bitOf (mbox s m).h2sMask 0 then 1 else 0

/-- S2H_RX, the receiver state toward the host (R494). A BMC counts as attached (log entry 15). -/
def s2hRx (s : State) (m : Nat) : Nat :=
  let b := mbox s m
  let down := m != 64 && !(vecStations b.vec).any (hostUp s)
  if m < 64 ∧ (part s m).st = .free then 3
  else if m < 64 ∧ ((part s m).st = .closing ∨ (part s m).st = .scrub) then 2
  else if down then 2
  else if b.s2hDb ≠ 0 ∧ b.s2hDb &&& b.s2hMask = 0 then 1 else 0

/-- MBX_CFG[TO_S] and [TO_H] in bt; 0 acts as 1 (R502). -/
def toS (s : State) : Nat := max 1 (fld s.mbx.cfg 15 0)
def toH (s : State) : Nat := max 1 (fld s.mbx.cfg 47 16)

/-- The timer toward Sudric runs while the FIFO or a doorbell bit holds something (R495). -/
def armH2s (s : State) (m : Nat) (restart : Bool) : State :=
  updMb s m (fun b =>
    if b.h2s.isEmpty && b.h2sDb == 0 then { b with h2sTimer := none }
    else { b with h2sTimer := if restart || b.h2sTimer.isNone then some (s.bcn.count + w64 (toS s)) else b.h2sTimer })

/-- The timer toward the host (R495). -/
def armS2h (s : State) (m : Nat) (restart : Bool) : State :=
  updMb s m (fun b =>
    if b.s2h.isEmpty && b.s2hDb == 0 then { b with s2hTimer := none }
    else { b with s2hTimer := if restart || b.s2hTimer.isNone then some (s.bcn.count + w64 (toH s)) else b.s2hTimer })

/-- Sudric rings reply doorbell bits (R485, R486). -/
def ringReply (s : State) (m bit : Nat) : State := armS2h (ringS2h s m bit) m false

/-! ## Words -/

/-- A word is pushed toward Sudric (R484). -/
def pushH2s (s : State) (m : Nat) (v : Word) : State :=
  if (mbox s m).h2s.length < 16 then armH2s (updMb s m (fun b => { b with h2s := b.h2s ++ [v] })) m false
  else updMb s m (fun b => { b with overrun := true })

/-- The word that a pop returns, and the state after it (R484). -/
def popS2h (s : State) (m : Nat) : State × Word :=
  match (mbox s m).s2h with
  | [] => (updMb s m (fun b => { b with underrun := true }), 0)
  | w :: t =>
    (armS2h (updMb s m (fun b => { b with s2h := t, fifoMsgs := match b.fifoMsgs with
      | [] => []
      | n :: r => if n ≤ 1 then r else (n - 1) :: r })) m true, w)

/-! ## Replies -/

/-- Header of a reply (R489). -/
def replyHdr (st : Status) (ovr : Bool) (results seq svc : Nat) : Word :=
  pack [(0, st.code), (8, b2n ovr), (16, results % 16), (24, seq % 256), (32, svc % 65536)]

/-- The place of a reply that is still owed: bit 63 marks it, SEQ and SVC name it. -/
def owedHdr (seq svc : Nat) : Word := pack [(24, seq % 256), (32, svc % 65536), (63, 1)]

/-- A reply of this mailbox is still owed. -/
def owed (l : List Word) : Bool := bitOf (l.headD 0) 63

/-- Where the reply of a request goes, by the number it runs under (R501): SEQ below 256 for a request of this block's own mailbox,
256 x (b + 1) more for one that block b relayed, 2^16 more for one of this block's own that the master has passed back to it, and from
2^20 on nowhere, for a service that another block answers (log entry 71). -/
def relayed (b seq : Nat) : Nat := 256 * (b + 1) + seq % 256
def passedBack (seq : Nat) : Nat := 2 ^ 16 + seq % 256
def silent (seq : Nat) : Nat := 2 ^ 20 + seq % 256

/-- Sudric takes a request: its reply keeps the place of the request in the order (R491). -/
def oweReply (s : State) (m seq svc : Nat) : State := if 256 ≤ seq then s else updMb s m (fun b => { b with replies := b.replies ++ [[owedHdr seq svc]] })

/-- The first place owed to a SEQ and SVC is filled; with none the reply goes last. -/
def fillOwed (seq svc : Nat) (r : List Word) : List (List Word) → List (List Word)
  | [] => [r]
  | x :: t => if x == [owedHdr seq svc] then r :: t else x :: fillOwed seq svc r t

/-- Sudric's reply to a request is complete (R491), and goes back to the block that relayed the request (R501); LAST_REPLY keeps the
headers of the last 16 requests (R500). -/
def reply (s : State) (m seq svc : Nat) (st : Status) (res : List Word := []) (ovr : Bool := false) : State :=
  let h := replyHdr st ovr res.length seq svc
  if 2 ^ 20 ≤ seq then s
  else if 256 ≤ seq ∧ seq < 2 ^ 16 then
    casSend s { src := s.cas.pos, dst := seq / 256 - 1, cls := 5, bytes := 16 + 8 * res.length, load := .svcRsp m (seq % 256) svc st res ovr }
  else updMb s m (fun b => { b with replies := fillOwed seq svc (h :: res) b.replies, recent := (h :: b.recent).take 16 })

/-- The oldest reply is pushed once the FIFO has room for the whole of it, and REPLY is set (R491). A message that no request
asked for sets EVENT instead (R593). -/
def pushReply (s : State) (m : Nat) : State :=
  let b := mbox s m
  match b.replies with
  | [] => s
  | r :: t =>
    if owed r || decide (16 < b.s2h.length + r.length) then s
    else
      let t := updMb s m (fun b => { b with s2h := b.s2h ++ r, fifoMsgs := b.fifoMsgs ++ [r.length], replies := t })
      ringReply t m (if fld (r.headD 0) 47 32 = 0xFFFF then dbEvent else dbReply)

/-- Sudric tells a partition of something that no request asked for (R485). -/
def tellEvent (s : State) (m : Nat) : State := ringReply s m dbEvent

/-! ## Host writes of doorbell registers -/

/-- A write to S2H_DB or S2H_MASK that leaves S2H_DB AND S2H_MASK non-zero sends one more message (R486). -/
def afterMbWrite (s : State) (m : Nat) : State :=
  if (mbox s m).s2hDb &&& (mbox s m).s2hMask ≠ 0 then mbIrq s m else s

/-- A flush of the direction toward the host: words, whole replies not yet pushed stay (R498). -/
def flushToHost (s : State) (m : Nat) : State := armS2h (updMb s m (fun b => { b with s2h := [], fifoMsgs := [] })) m false

/-- A flush of the direction toward Sudric (R498). -/
def flushToSudric (s : State) (m : Nat) : State := armH2s (updMb s m (fun b => { b with h2s := [] })) m false

/-- A timer expired: the TO flag, CAUSE and the TO map, with the interrupt of R502. -/
def mbTimedOut (s : State) (m : Nat) : State :=
  let old := if m < 64 then bitOf s.mbx.toMapLo m else bitOf s.mbx.toMapHi (m - 64)
  let t := { s with mbx := { s.mbx with
    toMapLo := if m < 64 then setBit s.mbx.toMapLo m true else s.mbx.toMapLo
    toMapHi := if m < 64 then s.mbx.toMapHi else setBit s.mbx.toMapHi (m - 64) true } }
  if old then t else raise t pMBX 0

/-- Expiry toward Sudric (R495, R496). -/
def h2sExpire (s : State) (m : Nat) : State :=
  match (mbox s m).h2sTimer with
  | none => s
  | some d =>
    if !btDue s d.toNat then s
    else mbTimedOut (updMb s m (fun b => { b with h2sTo := true, h2sCause := h2sRx s m, h2s := [], h2sDb := 0, h2sTimer := none })) m

/-- Expiry toward the host (R495, R497): the replies whose words stand in the FIFO are discarded and counted in LOST. -/
def s2hExpire (s : State) (m : Nat) : State :=
  match (mbox s m).s2hTimer with
  | none => s
  | some d =>
    if !btDue s d.toNat then s
    else
      let t := updMb s m (fun b => { b with s2hTo := true, s2hCause := s2hRx s m, lost := satAdd 8 b.lost b.fifoMsgs.length,
                                            s2h := [], fifoMsgs := [], s2hDb := setBit b.s2hDb dbReply false, s2hTimer := none })
      mbTimedOut (armS2h t m false) m

/-- Mailbox lock writes (R487): word as written. -/
def lockWrite (b : Mailbox) (v : Word) : Mailbox :=
  if bitOf v 0 then (if b.held then b else { b with held := true, owner := fld v 31 16 })
  else if fld v 31 16 = b.owner then { b with held := false, owner := 0 }
  else { b with lockErr := true }

/-- Mailbox n returns to its reset values (R498). -/
def mbReset (s : State) (m : Nat) : State := updMb s m (fun _ => {})

end Sys2Proof.Machine
end

