-- ==== Sys2Proof/Machine/Beacon.lean ====
section
/-!
DEFINITION. The beacon: words, pulses, coasting, dark mode, resync and the count that every deadline is named in (R83 to
R117), and what a count without a pulse does to an armed Kindle (R606).
-/
namespace Sys2Proof.Machine
open Sys2Proof

/-- One bit of CRC-16 with polynomial 0x1021 (R87). -/
def crcBit (c : Nat) (b : Bool) : Nat :=
  let top := (c / 32768 % 2 == 1) != b
  let c := c * 2 % 65536
  if top then c ^^^ 0x1021 else c

/-- CRC-16 over bytes, initial value 0xFFFF, most significant bit of each byte first (R87). -/
def crc16 (bs : List Byte) : Nat :=
  bs.foldl (fun c b => (List.range 8).foldl (fun c i => crcBit c (b.getLsbD (7 - i))) c) 0xFFFF

/-- A beacon word from the 12 bytes of its 96 bits, when it is complete and its CRC is good (R87, R88). -/
def beaconWordOf (bs : List Byte) : Option BcnWord :=
  if bs.length = 12 ∧ crc16 (bs.take 10) = bytesNat (bs.drop 10) then
    some { next := w64 (bytesNat (bs.take 8)), uncertain := (bs.getD 8 0).getLsbD 0 }
  else none

/-- The 12 bytes of a beacon word: NEXT, UNCERTAIN, reserved zeros, and the CRC over the ten bytes before it (R87). -/
def beaconBytes (next : Word) (uncertain : Bool) : List Byte :=
  let b := wordBytes next ++ [BitVec.ofNat 8 (b2n uncertain), 0]
  b ++ [BitVec.ofNat 8 (crc16 b), BitVec.ofNat 8 (crc16 b / 256)]

/-- PERIOD_NOM and WIN in force (R89). -/
def periodNom (s : State) : Nat := fld s.bcn.period 19 0
def bcnWin (s : State) : Nat := fld s.bcn.period 35 20

/-- RESYNC_N; 0 acts as 1. -/
def resyncN (s : State) : Nat := max 1 (fld s.bcn.cfg 23 16)

/-- A state with the beacon record changed. -/
def updBcn (s : State) (f : Bcn → Bcn) : State := { s with bcn := f s.bcn }

/-- The block takes its beacon from the span station (R83, R84). -/
def fromSpan (s : State) : Bool := s.cas.master && fld s.bcn.cfg 1 0 == 1

/-- BCN_WORD_ERR gains 1 and IRQ_RAW[WORD_ERR] is raised (R88, R93). -/
def wordErr (s : State) : State :=
  raise (count (updBcn s (fun b => { b with wordErr := satAdd 32 b.wordErr 1 })) pBCN 2) pBCN 5

/-- Entry into resync mode other than from dark mode (R716). -/
def enterResync (s : State) : State :=
  updBcn s (fun b => { b with mode := .resync, uncertain := true, phaseRef := none, resyncAt := tickOf s, lastPulse := s.clk.cyc,
                              goodRun := 0, runNext := none, runDone := false, missRow := 0, expected := b.lastTick })

/-- A divergence of the pairing, by kind and station, with both digests: the first one of a pairing is recorded and raises
DIVERGE (R618). -/
def lsFirst (s : State) (label : Word) (kind station mine peer : Nat) : State :=
  if s.det.div.seen then s
  else raise { s with det := { s.det with div := { atK := label, kind := kind, station := station, mine := mine, peer := peer, seen := true } } } pDET 1

/-- The pairing becomes BROKEN (R617, R618): comparison stops. -/
def lsBroken (s : State) (label : Word) (kind : Nat) : State :=
  if s.det.ls = 0 ∨ s.det.ls = 4 then s
  else let t := lsFirst s label kind 0 0 0
       raise { t with det := { t.det with ls := 4 } } pDET 2

/-- The Kindle that is armed is cancelled (R606, R619): the gate stays closed, and the arm is answered TIMEOUT with R1 = 0. -/
def kindleAbort (s : State) : State :=
  if s.det.kindle ≠ 1 then s else
  let t := { s with det := { s.det with kindle := 3, kindleMb := none, kindlePulse := none } }
  let t := raise t pDET 0
  let t := match s.det.kindleMb with
    | some q => reply t 65 q 0x90 .timeout [0]
    | none => t
  if t.det.ls = 1 then lsBroken t (t.det.lsK + w64 t.det.lsWin) 3 else t

/-- A setting that waits for the next counted tick applies (R116). -/
def applyBcnNext (s : State) : State :=
  let t := match s.bcn.periodNext with
    | some p => updBcn s (fun b => { b with period := p, periodNext := none })
    | none => s
  match t.bcn.cfgNext with
  | some c =>
    let changed := fld c 1 0 != fld t.bcn.cfg 1 0
    let u := updBcn t (fun b => { b with cfg := setFld b.cfg 1 0 (fld c 1 0), cfgNext := none })
    if changed then enterResync u else u
  | none => t

/-- The beacon outputs: the master, or a block whose OUT_EN is 1, drives one pulse and one word for each tick it counts, 2 cyc
after it (R85, R87, R701); the word carries UNCERTAIN while BCN_STAT does (R109). -/
def driveBeacon (s : State) : State :=
  if s.cas.master || bitOf s.bcn.cfg 2 then emit s (.beacon (s.clk.cyc + 2) (beaconBytes (s.bcn.count + 1) s.bcn.uncertain)) else s

/-- The count takes a value in the current event tick (R90, R92, R98, R108, R113): the tick becomes the origin of the sub-count
(R95), the tick is counted as a BEACON_TICKS event (R623), settings that wait apply (R116) and the outputs follow (R85). -/
def setCount (s : State) (n : Word) (coasted : Bool) : State :=
  let t := updBcn s (fun b => { b with count := n, lastTick := tickOf s, coasted := coasted })
  driveBeacon (applyBcnNext (count t pCNT 2))

/-- The count advances by one, by a pulse or without one; without a pulse a Kindle armed for it is cancelled (R606). -/
def advanceCount (s : State) (coasted pulsed : Bool) : State :=
  let n := s.bcn.count + 1
  let t := if !pulsed && s.det.kindle == 1 && s.det.kindleAt == n then kindleAbort s else s
  setCount t n coasted

/-- A pulse that carries count K releases an armed Kindle (R603): the cycle of the pulse is kept for the release at R_K. -/
def kindlePulse (s : State) : State :=
  if s.det.kindle = 1 ∧ s.bcn.count = s.det.kindleAt then { s with det := { s.det with kindlePulse := some s.clk.cyc } } else s

/-- Cycles between the last two accepted pulses (BCN_LAST_PERIOD): 20 bits; the spec states no value for more (log entry 16). -/
def noteAccepted (s : State) : State :=
  let c := s.clk.cyc
  let t := match s.bcn.lastAcc with
    | none => s
    | some l =>
      if c - l < 2 ^ 20 then updBcn s (fun b => { b with lastPeriod := c - l })
      else let (w, u) := drawWord s
           updBcn u (fun b => { b with lastPeriod := fld w 19 0 })
  updBcn t (fun b => { b with lastAcc := some c, lastPulse := c })

/-- R110 at an accepted pulse whose valid word has UNCERTAIN clear. -/
def clearSrcUnc (s : State) (w : Option BcnWord) : State :=
  match w with
  | some x => if !x.uncertain && s.bcn.srcUncertain then
      updBcn s (fun b => { b with srcUncertain := false, uncertain := if b.mode == .locked || b.mode == .coast then false else b.uncertain })
    else s
  | none => s

/-- A stray pulse (R91). -/
def strayPulse (s : State) : State :=
  raise (count (updBcn s (fun b => { b with stray := satAdd 32 b.stray 1 })) pBCN 0) pBCN 4

/-- A pulse accepted while locked or coasting (R90, R93). A block that coasts is locked again from the accepted pulse on: the spec has
no sentence on the return from coasting (DESIGN CHOICE, log entry 70). On a loss of lock UNCERTAIN is set in the tick, before the word of the counted
tick is sent (R109, R716). -/
def lockedPulse (s : State) : State :=
  let w := s.bcn.word
  let t := noteAccepted (updBcn s (fun b => { b with mode := .locked, word := none, expected := s.clk.cyc }))
  let t := clearSrcUnc t w
  let bad := w.any (fun x => x.next != s.bcn.count + 1)
  let lose := bad && decide (3 ≤ s.bcn.missRow + 1)
  let t := kindlePulse (advanceCount (if lose then updBcn t (fun b => { b with uncertain := true }) else t) false true)
  if bad then
    let t := wordErr (updBcn t (fun b => { b with missRow := b.missRow + 1 }))
    if lose then enterResync t else t
  else if w.isSome then updBcn t (fun b => { b with missRow := 0 })
  else t

/-- The phase reference (R111, R716): the first pulse sampled in dark mode or after an entry into resync mode. -/
def phasePulse (s : State) : State :=
  updBcn s (fun b => { b with mode := .resync, uncertain := true, phaseRef := some s.clk.cyc, lastPulse := s.clk.cyc, word := none,
                              goodRun := 0, runNext := none, runDone := false })

/-- A run of good pulses ends (R112). -/
def endRun (s : State) : State := updBcn s (fun b => { b with goodRun := 0, runNext := none, runDone := false })

/-- Return to lock (R113, R114): the count takes the announced value A, where it would have reached C. -/
def lockAt (s : State) (a c : Word) : State :=
  let step := (a - c).toNat
  let t := setCount (updBcn s (fun b => { b with mode := .locked, uncertain := false, phaseRef := none, goodRun := 0, runNext := none,
                                                 runDone := false, missRow := 0, expected := s.clk.cyc })) a false
  updBcn t (fun b => { b with resync := pack [(0, a.toNat % 2 ^ 48), (48, min 0xFFFF step)], irqStep := if 1 < step then 2 else 1, irqAt := etNow s })

/-- An accepted pulse whose valid word announced another count than the block reached on it is counted (R93). -/
def judgeWord (s : State) (announced : Word) : State := if announced = s.bcn.count then s else wordErr s

/-- A pulse accepted in a window around the phase reference (R93, R111 to R114). -/
def resyncPulse (s : State) : State :=
  let w := s.bcn.word
  let t := clearSrcUnc (noteAccepted (updBcn s (fun b => { b with word := none }))) w
  match w with
  | none => kindlePulse (advanceCount (endRun t) false true)
  | some x =>
    let t :=
      if t.bcn.goodRun ≠ 0 ∧ t.bcn.runNext = some x.next then updBcn t (fun b => { b with goodRun := satAdd 8 b.goodRun 1, runNext := some (x.next + 1) })
      else updBcn (endRun t) (fun b => { b with goodRun := 1, runNext := some (x.next + 1) })
    let c := s.bcn.count + 1
    let ge := fun (a b : Word) => decide ((a - b).toNat < 2 ^ 63)
    if t.bcn.runDone || decide (resyncN t ≤ t.bcn.goodRun) then
      if ge x.next c then kindlePulse (lockAt t x.next c) else judgeWord (updBcn t (fun b => { b with runDone := true })) x.next
    else judgeWord (kindlePulse (advanceCount t false true)) x.next

/-- Cycles by which a pulse misses a time. -/
def missBy (a b : Nat) : Nat := (a - b) + (b - a)

/-- A valid word is kept for the next pulse, and one with UNCERTAIN is passed on while the block is locked (R88, R110). A block that
coasts is taken to stay locked: R110 says only 'while it stays locked' (DESIGN CHOICE, log entry 70). -/
def takeWord (s : State) (w : BcnWord) : State :=
  let t := updBcn s (fun b => { b with word := some w, wordAt := s.clk.cyc })
  if w.uncertain && (s.bcn.mode == .locked || s.bcn.mode == .coast) then
    let u := updBcn t (fun b => { b with srcUncertain := true, uncertain := true })
    if s.bcn.srcUncertain then u else raise u pBCN 6
  else t

/-- The word that the span station presents with its pulse (R86, R533). -/
def spanWord (s : State) : State :=
  match s.spn.bcnOut with
  | some (n, u, _) => takeWord { s with spn := { s.spn with bcnOut := none } } { next := n, uncertain := u }
  | none => s

/-- BEACON_PULSE: a pulse from a source sampled at a cycle. A pulse of the source that is not in force reaches nothing (R84);
the span station presents a pulse only in the cycle it reconstructed, with its word (R86, R533). A pulse of the very tick in which the
block enters resync mode lies outside every window and is a stray: R716 says only that a later one is the phase reference (DESIGN CHOICE, log entry
70). -/
def execBeaconPulse (span : Bool) (at_ : Nat) (s : State) : Host.Outcome State Fault Refusal :=
  if !live s || span != fromSpan s || (span && !s.spn.bcnOut.any (fun x => x.2.2 == at_)) then .next s else
  let s := if span then spanWord s else s
  let s := advanceTo s at_
  let c := s.clk.cyc
  match s.bcn.mode with
  | .dark => .next (phasePulse s)
  | .resync =>
    match s.bcn.phaseRef with
    | none => if tickOf s = s.bcn.resyncAt then .next (strayPulse s) else .next (phasePulse s)
    | some r =>
      let p := max 1 (periodNom s)
      let k := (c - r + p / 2) / p
      if 1 ≤ k ∧ missBy c (r + k * p) ≤ bcnWin s then
        -- a window that closed without a pulse in between ended the run, and a word that came before its close announced that pulse (R112)
        let stale := decide (s.bcn.wordAt ≤ r + (k - 1) * p + bcnWin s)
        let t := if 1 < k then updBcn (endRun s) (fun b => { b with word := if stale then none else b.word }) else s
        .next (resyncPulse (updBcn t (fun b => { b with phaseRef := some (r + k * p) })))
      else .next (endRun (strayPulse s))
  | _ =>
    if missBy c (s.bcn.expected + periodNom s) ≤ bcnWin s then .next (lockedPulse s) else .next (strayPulse s)

/-- The word that the span station holds for its next pulse (R86). -/
def spanHas (s : State) (w : Option BcnWord) : Bool :=
  match s.spn.bcnOut, w with
  | some (n, u, _), some x => x.next == n && x.uncertain == u
  | _, _ => false

/-- BEACON_WORD: the bytes of a beacon word that a source delivered before the next pulse; a word that is not complete or whose
CRC is bad is discarded (R88), and a valid one announces the next pulse and may carry UNCERTAIN (R110). The span station delivers the
word of its BEACON message and no other (R86). -/
def execBeaconWord (span : Bool) (bytes : List Byte) (s : State) : Host.Outcome State Fault Refusal :=
  let w := beaconWordOf bytes
  if !live s || span != fromSpan s || (span && !spanHas s w) then .next s else
  .next (match w with
    | none => wordErr (updBcn s (fun b => { b with word := none }))
    | some w => takeWord s w)

/-- RESYNC_INTERRUPTS: RESYNC, and STEP after a step of more than 1, at rank 4 of the event tick after the step (R114, R117). -/
def execResyncInterrupts (s : State) : Host.Outcome State Fault Refusal :=
  let n := s.bcn.irqStep
  let t := updBcn s (fun b => { b with irqStep := 0 })
  .next (if n = 0 ∨ etNow s ≤ s.bcn.irqAt then s else if n = 1 then raise t pBCN 1 else raise (raise t pBCN 1) pBCN 2)

/-- Cycle of the dark entry: 4 x PERIOD_NOM after the last accepted pulse or what counts as one (R107). -/
def darkAt (s : State) : Nat := s.bcn.lastPulse + 4 * periodNom s

/-- BEACON_COAST: no pulse was accepted by the expected time plus WIN (R92). -/
def execBeaconCoast (s : State) : Host.Outcome State Fault Refusal :=
  let e := s.bcn.expected + periodNom s
  if live s ∧ (s.bcn.mode = .locked ∨ s.bcn.mode = .coast) ∧ e + bcnWin s < darkAt s then
    let t := advanceToTick s (e + bcnWin s)
    let t := updBcn t (fun b => { b with mode := .coast, expected := e, coastTotal := satAdd 32 b.coastTotal 1, word := none })
    .next (advanceCount (raise (count t pBCN 1) pBCN 3) true false)
  else .next s

/-- BEACON_DARK_ENTRY: 4 x PERIOD_NOM passed since the last accepted pulse (R107). -/
def execBeaconDarkEntry (s : State) : Host.Outcome State Fault Refusal :=
  if !live s || s.bcn.mode == .dark then .next s
  else
    let t := kindleAbort (advanceToTick s (darkAt s))
    let t := updBcn t (fun b => { b with mode := .dark, uncertain := true, phaseRef := none, goodRun := 0, runNext := none, runDone := false,
                                         expected := t.clk.cyc, word := none })
    let t := advanceCount t false false
    .next (raise (updBcn t (fun b => { b with darkAt := b.count })) pBCN 0)

/-- BEACON_FREE_RUN_TICK: the count advances every PERIOD_NOM in dark mode, and in resync mode until the phase reference (R108,
R716). -/
def execBeaconFreeRunTick (s : State) : Host.Outcome State Fault Refusal :=
  let e := s.bcn.expected + periodNom s
  if live s ∧ (s.bcn.mode = .dark ∨ (s.bcn.mode = .resync ∧ s.bcn.phaseRef = none ∧ e < darkAt s)) then
    let t := advanceToTick s e
    .next (advanceCount (updBcn t (fun b => { b with expected := e })) false false)
  else .next s

/-- RESYNC_WINDOW_CLOSE: a window around the phase reference closes without a pulse and ends the run (R112). -/
def execResyncWindowClose (s : State) : Host.Outcome State Fault Refusal :=
  if !live s then .next s else
  match s.bcn.mode, s.bcn.phaseRef with
  | .resync, some r =>
    let t := advanceTo s (r + periodNom s + bcnWin s)
    .next (endRun (updBcn t (fun b => { b with phaseRef := some (r + periodNom s), word := none })))
  | _, _ => .next s

end Sys2Proof.Machine
end

