-- ==== Sys2Proof/Machine/Num.lean ====
section
/-!
DEFINITION. Number formats and exact arithmetic (R284, R288 to R293, R346 to R350): every finite value is a dyadic number
m x 2^e with an integer m, results are computed exactly and rounded once.
-/
namespace Sys2Proof.Machine
open Sys2Proof

/-- A floating-point format: exponent bits, fraction bits, and what its top exponent holds. -/
structure FFmt where
  /-- exponent bits -/
  eb : Nat
  /-- fraction bits -/
  mb : Nat
  /-- bias -/
  bias : Nat
  /-- the format has infinities -/
  inf : Bool
  /-- the format has NaN -/
  nan : Bool
deriving DecidableEq, Repr, Inhabited

def fFP32 : FFmt := ⟨8, 23, 127, true, true⟩
def fBF16 : FFmt := ⟨8, 7, 127, true, true⟩
def fFP16 : FFmt := ⟨5, 10, 15, true, true⟩
def fE4M3 : FFmt := ⟨4, 3, 7, false, true⟩
def fE5M2 : FFmt := ⟨5, 2, 15, true, true⟩
def fE3M2 : FFmt := ⟨3, 2, 3, false, false⟩
def fE2M3 : FFmt := ⟨2, 3, 1, false, false⟩
def fE2M1 : FFmt := ⟨2, 1, 1, false, false⟩

/-- A number: NaN, an infinity, or (sign, m, e) for a magnitude m x 2^e; the sign of zero is kept. -/
inductive FVal where
  | nan
  | inf (neg : Bool)
  | fin (neg : Bool) (m : Nat) (e : Int)
deriving DecidableEq, Repr, Inhabited

/-- The value of a code of a format. In E4M3 the one NaN is the all-ones magnitude (R291). -/
def fDecode (f : FFmt) (c : Nat) : FVal :=
  let neg := c / 2 ^ (f.eb + f.mb) % 2 == 1
  let e := c / 2 ^ f.mb % 2 ^ f.eb
  let m := c % 2 ^ f.mb
  if f.inf ∧ e = 2 ^ f.eb - 1 then (if m = 0 then .inf neg else .nan)
  else if !f.inf ∧ f.nan ∧ e = 2 ^ f.eb - 1 ∧ m = 2 ^ f.mb - 1 then .nan
  else if e = 0 then .fin neg m (1 - (f.bias : Int) - f.mb)
  else .fin neg (2 ^ f.mb + m) ((e : Int) - f.bias - f.mb)

/-- The canonical quiet NaN of a format, sign 0 (R291). -/
def fNaN (f : FFmt) : Nat :=
  if f.inf then (2 ^ f.eb - 1) * 2 ^ f.mb + 2 ^ (f.mb - 1) else 2 ^ (f.eb + f.mb) - 1

/-- The code of the largest finite magnitude. -/
def fMaxCode (f : FFmt) : Nat :=
  if f.inf then (2 ^ f.eb - 1) * 2 ^ f.mb - 1
  else if f.nan then 2 ^ (f.eb + f.mb) - 2 else 2 ^ (f.eb + f.mb) - 1

/-- What rounding does: to nearest with ties to even; toward zero; or away from zero when the discarded fraction, scaled to 2^24, exceeds
a 24-bit key (R350, R351). -/
inductive Rnd where
  | rne
  | trunc
  | keyed (u : Nat)
deriving DecidableEq, Repr, Inhabited

/-- m x 2^-k rounded to an integer by a mode, k at least 0. -/
def roundShift (r : Rnd) (m k : Nat) : Nat :=
  let q := m / 2 ^ k
  let rem := m % 2 ^ k
  match r with
  | .trunc => q
  | .rne => if 2 * rem < 2 ^ k then q else if 2 ^ k < 2 * rem then q + 1 else q + q % 2
  | .keyed u => if u * 2 ^ k < rem * 2 ^ 24 then q + 1 else q

/-- Number of bits of a magnitude. -/
def bitLen (m : Nat) : Nat := if m = 0 then 0 else Nat.log2 m + 1

/-- What a value beyond the largest finite one becomes: an infinity where the format has one and saturation is off, else the
largest finite value (R290, R349). -/
def fOverflow (f : FFmt) (sat : Bool) : Nat :=
  if f.inf && !sat then (2 ^ f.eb - 1) * 2 ^ f.mb else fMaxCode f

/-- The code of a finite value rounded once to a format, and whether it overflowed. Subnormals are kept (R289). -/
def fRound (f : FFmt) (r : Rnd) (sat : Bool) (neg : Bool) (m : Nat) (e : Int) : Nat × Bool :=
  let sgn := if neg then 2 ^ (f.eb + f.mb) else 0
  if m = 0 then (sgn, false) else
  let emin : Int := 1 - (f.bias : Int) - f.mb
  let top : Int := e + (bitLen m : Int) - 1
  let q : Int := max emin (top - f.mb)
  let k : Int := q - e
  let n := if 0 ≤ k then roundShift r m k.toNat else m * 2 ^ (-k).toNat
  let (n, q) := if 2 ^ (f.mb + 1) ≤ n then (n / 2, q + 1) else (n, q)
  let code := if n < 2 ^ f.mb then n else (q - emin).toNat * 2 ^ f.mb + n
  if fMaxCode f < code then (sgn + fOverflow f sat, true) else (sgn + code, false)

/-- The code of any value rounded to a format. An infinity of a format without infinities saturates. -/
def fEncode (f : FFmt) (r : Rnd) (sat : Bool) : FVal → Nat × Bool
  | .nan => (fNaN f, false)
  | .inf neg => ((if neg then 2 ^ (f.eb + f.mb) else 0) + fOverflow f sat, !f.inf || sat)
  | .fin neg m e => fRound f r sat neg m e

/-- The signed mantissas of two finite values over one exponent. -/
def fAlign (n1 : Bool) (m1 : Nat) (e1 : Int) (n2 : Bool) (m2 : Nat) (e2 : Int) : Int × Int × Int :=
  let e := min e1 e2
  let a : Int := (m1 * 2 ^ (e1 - e).toNat : Nat)
  let b : Int := (m2 * 2 ^ (e2 - e).toNat : Nat)
  (if n1 then -a else a, if n2 then -b else b, e)

/-- Exact sum (R289, R291, R293): opposite finite values give +0, two zeros of sign minus give -0. -/
def fAdd : FVal → FVal → FVal
  | .nan, _ => .nan
  | _, .nan => .nan
  | .inf a, .inf b => if a = b then .inf a else .nan
  | .inf a, _ => .inf a
  | _, .inf b => .inf b
  | .fin n1 m1 e1, .fin n2 m2 e2 =>
    let (a, b, e) := fAlign n1 m1 e1 n2 m2 e2
    if a + b = 0 then .fin (n1 && n2) 0 e else .fin (decide (a + b < 0)) (a + b).natAbs e

/-- Exact product. -/
def fMul : FVal → FVal → FVal
  | .nan, _ => .nan
  | _, .nan => .nan
  | .inf a, .inf b => .inf (a != b)
  | .inf a, .fin n m _ => if m = 0 then .nan else .inf (a != n)
  | .fin n m _, .inf a => if m = 0 then .nan else .inf (a != n)
  | .fin n1 m1 e1, .fin n2 m2 e2 => .fin (n1 != n2) (m1 * m2) (e1 + e2)

/-- The opposite value. -/
def fNeg : FVal → FVal
  | .nan => .nan
  | .inf a => .inf (!a)
  | .fin n m e => .fin (!n) m e

/-- a is below b; -0 is below +0 (R292). NaN is below nothing. -/
def fLt : FVal → FVal → Bool
  | .nan, _ => false
  | _, .nan => false
  | .inf a, .inf b => a && !b
  | .inf a, .fin _ _ _ => a
  | .fin _ _ _, .inf b => !b
  | .fin n1 m1 e1, .fin n2 m2 e2 =>
    let (a, b, _) := fAlign n1 m1 e1 n2 m2 e2
    if m1 = 0 ∧ m2 = 0 then n1 && !n2 else decide (a < b)

/-- IEEE 754-2019 minimum and maximum (R292). -/
def fMin (a b : FVal) : FVal := if a == .nan || b == .nan then .nan else if fLt b a then b else a
def fMax (a b : FVal) : FVal := if a == .nan || b == .nan then .nan else if fLt a b then b else a

/-- Width in bytes of an element format code of R284; 0 for the reserved ones. -/
def fmtBytes : Nat → Nat
  | 0 => 1 | 1 => 1 | 2 => 2 | 3 => 2 | 4 => 4 | 5 => 4 | 6 => 8 | 7 => 8
  | 8 => 4 | 9 => 2 | 0xA => 2 | 0xB => 1 | 0xC => 1 | _ => 0

/-- The format is floating point, and which. -/
def fmtFloat : Nat → Option FFmt
  | 8 => some fFP32 | 9 => some fBF16 | 0xA => some fFP16 | 0xB => some fE4M3 | 0xC => some fE5M2 | _ => none

/-- The format is a signed integer. -/
def fmtSigned (f : Nat) : Bool := f == 0 || f == 2 || f == 4 || f == 6

/-- A code of n bits as a signed number. -/
def toSigned (bits c : Nat) : Int := if c < 2 ^ (bits - 1) then c else (c : Int) - 2 ^ bits

/-- ADD, MIN and MAX of two codes of a format (R288 to R293): op 0 ADD, 1 MIN, 2 MAX. -/
def arith (op fmt a b : Nat) : Nat :=
  match fmtFloat fmt with
  | some f =>
    let x := fDecode f a
    let y := fDecode f b
    (fEncode f .rne false (if op = 0 then fAdd x y else if op = 1 then fMin x y else fMax x y)).1
  | none =>
    let bits := 8 * fmtBytes fmt
    if op = 0 then (a + b) % 2 ^ bits
    else
      let lt := if fmtSigned fmt then decide (toSigned bits a < toSigned bits b) else decide (a < b)
      if op = 1 then (if lt then a else b) else (if lt then b else a)

end Sys2Proof.Machine
end

