-- ==== Sys2Proof/Machine/Formats.lean ====
section
/-!
DEFINITION. Format codes of conversions, the value of a conversion with its counts, keyed stochastic rounding, MX blocks, and
transform programs (R346 to R364, R366, R723).
-/
namespace Sys2Proof.Machine
open Sys2Proof

/-- Width in bits of an element of a format code (R346); 0 for the reserved codes. -/
def fmtWidth (c : Nat) : Nat :=
  match c with
  | 0x00 => 8 | 0x01 => 8 | 0x02 => 16 | 0x03 => 16 | 0x04 => 32 | 0x05 => 32 | 0x06 => 64 | 0x07 => 64
  | 0x08 => 32 | 0x09 => 16 | 0x0A => 16 | 0x0B => 8 | 0x0C => 8 | 0x0D => 6 | 0x0E => 6 | 0x0F => 4
  | 0x10 => 4 | 0x11 => 4 | 0x12 => 2 | 0x13 => 1
  | 0x20 => 8 | 0x21 => 8 | 0x22 => 6 | 0x23 => 6 | 0x24 => 4 | 0x25 => 8 | _ => 0

/-- The code names an MX format. -/
def isMx (c : Nat) : Bool := 0x20 ≤ c && c ≤ 0x25

/-- The floating-point format of a code that is not MX. -/
def fltOf (c : Nat) : Option FFmt :=
  match c with
  | 0x08 => some fFP32 | 0x09 => some fBF16 | 0x0A => some fFP16 | 0x0B => some fE4M3 | 0x0C => some fE5M2
  | 0x0D => some fE3M2 | 0x0E => some fE2M3 | 0x0F => some fE2M1 | _ => none

/-- An integer format of a code is signed. -/
def intSigned (c : Nat) : Bool := [0x00, 0x02, 0x04, 0x06, 0x10, 0x12].contains c

/-- The value of an element of a format that is not MX. -/
def valOf (c x : Nat) : FVal :=
  match fltOf c with
  | some f => fDecode f x
  | none =>
    let v : Int := if intSigned c then toSigned (fmtWidth c) x else x
    .fin (decide (v < 0)) v.natAbs 0

/-- What a conversion gives, with what it counts (R349, SR_ELEMS). -/
structure Cv where
  /-- bits of the element -/
  code : Nat := 0
  /-- saturated -/
  sat : Bool := false
  /-- NaN written as zero -/
  nanLost : Bool := false
  /-- a number U was drawn -/
  sr : Bool := false
deriving DecidableEq, Repr, Inhabited

/-- The rounding mode draws random numbers. -/
def isKeyed : Rnd → Bool
  | .keyed _ => true
  | _ => false

/-- A magnitude m x 2^e is an integer multiple of 2^q. -/
def onGrid (m : Nat) (e q : Int) : Bool := decide (q ≤ e) || m % 2 ^ (q - e).toNat == 0

/-- A finite value rounded to a floating-point format (R348, R349): saturated before keyed rounding when it lies beyond the
largest finite value; without infinity in the format, or toward zero, an overflow gives the largest finite value. -/
def cvtFlt (f : FFmt) (r : Rnd) (neg : Bool) (m : Nat) (e : Int) : Cv :=
  let sgn := if neg then 2 ^ (f.eb + f.mb) else 0
  let (t, ovf) := fRound f .trunc true neg m e
  let exact := match fDecode f t with
    | .fin _ m' e' => let (a, b, _) := fAlign false m e false m' e'; a == b
    | _ => false
  let beyond := ovf || (t == sgn + fMaxCode f && !exact)
  if isKeyed r then
    if beyond then { code := sgn + fMaxCode f, sat := true }
    else if exact then { code := t } else { code := (fRound f r true neg m e).1, sr := true }
  else
    let (c, o) := fRound f r (r == .trunc) neg m e
    { code := c, sat := o && (r == .trunc || !f.inf) }

/-- A finite value rounded to an integer format and saturated (R349). -/
def cvtInt (c : Nat) (r : Rnd) (neg : Bool) (m : Nat) (e : Int) : Cv :=
  let w := fmtWidth c
  let hi : Nat := if intSigned c then 2 ^ (w - 1) - 1 else 2 ^ w - 1
  let lo : Nat := if intSigned c then 2 ^ (w - 1) else 0
  let lim := if neg then lo else hi
  let exact := onGrid m e 0
  let n0 := if 0 ≤ e then m * 2 ^ (min e.toNat 2048) else roundShift .trunc m (-e).toNat
  let beyond := decide (lim < n0) || (n0 == lim && !exact)
  let n := if 0 ≤ e then n0 else roundShift r m (-e).toNat
  let enc := fun (k : Nat) => if neg then (2 ^ w - k) % 2 ^ w else k
  if isKeyed r && beyond then { code := enc lim, sat := true }
  else if lim < n then { code := enc lim, sat := true }
  else { code := enc n, sr := isKeyed r && !exact }

/-- The value of a conversion of any value to a format that is not MX (R348 to R350). -/
def cvt (c : Nat) (r : Rnd) (v : FVal) : Cv :=
  match fltOf c, v with
  | some f, .nan => if f.nan then { code := fNaN f } else { code := 0, nanLost := true }
  | some f, .inf n => { code := (if n then 2 ^ (f.eb + f.mb) else 0) + fOverflow f false, sat := !f.inf }
  | some f, .fin n m e => cvtFlt f r n m e
  | none, .nan => { code := 0, nanLost := true }
  | none, .inf n =>
    let w := fmtWidth c
    { code := if n then (if intSigned c then 2 ^ (w - 1) else 0) else (if intSigned c then 2 ^ (w - 1) - 1 else 2 ^ w - 1), sat := true }
  | none, .fin n m e => cvtInt c r n m e

/-! ## Keyed rounding -/

/-- mix64 of R352. -/
def mix64 (z : Word) : Word :=
  let z := (z ^^^ (z >>> 30)) * 0xBF58476D1CE4E5B9#64
  let z := (z ^^^ (z >>> 27)) * 0x94D049BB133111EB#64
  z ^^^ (z >>> 31)

/-- keyed_u of R352: the 24-bit number U of a seed, step, node, bit address and site. -/
def keyedU (seed step : Word) (node bitaddr site : Nat) : Nat :=
  let h := mix64 (seed ^^^ 0x6A09E667F3BCC908#64)
  let h := mix64 (h ^^^ step)
  let h := mix64 (h ^^^ w64 bitaddr)
  let h := mix64 (h ^^^ w64 (node * 256) ^^^ w64 site)
  fld h 63 40

/-- The rounding mode that RND selects, with the number U of the site (R350). -/
def rndOf (rnd u : Nat) : Rnd := match rnd with
  | 0 => .rne
  | 1 => .trunc
  | _ => .keyed u

/-! ## MX blocks -/

/-- emax of an MX format (R356). -/
def mxEmax : Nat → Int
  | 0x20 => 8 | 0x21 => 15 | 0x22 => 4 | 0x23 => 2 | 0x24 => 2 | _ => 0

/-- Element format of an MX format; none for MXINT8. -/
def mxElem : Nat → Option FFmt
  | 0x20 => some fE4M3 | 0x21 => some fE5M2 | 0x22 => some fE3M2 | 0x23 => some fE2M3 | 0x24 => some fE2M1 | _ => none

/-- floor(log2 |v|) of a value that is not zero. -/
def log2Of : FVal → Option Int
  | .fin _ m e => if m = 0 then none else some ((bitLen m : Int) - 1 + e)
  | _ => none

/-- A value scaled by a power of two. -/
def scaleV (v : FVal) (k : Int) : FVal := match v with
  | .fin n m e => .fin n m (e + k)
  | x => x

/-- The largest exponent of a list of values, none when all are zero. -/
def maxLog : List FVal → Option Int
  | [] => none
  | v :: t => match log2Of v, maxLog t with
    | none, r => r
    | some a, none => some a
    | some a, some b => some (max a b)

/-- One element of an MX block whose value is already divided by the scale (R356, R723). -/
def mxPut (c : Nat) (r : Rnd) (v : FVal) : Cv :=
  match mxElem c, v with
  | some f, .fin n m e =>
    let (cc, o) := fRound f r true n m e
    let x := cvtFlt f r n m e
    if o then { code := cc, sat := true } else if x.sat then { code := cc, sat := true } else { code := x.code, sr := x.sr }
  | none, .fin n m e =>
    let x := cvtInt 0x00 r n m (e + 6)
    if x.code = 0x80 then { code := 0x81, sat := true } else x
  | _, _ => {}

/-- A block of values encoded (R356): the scale byte and the elements. -/
def mxEncode (c : Nat) (vs : List (FVal × Rnd)) : Nat × List Cv :=
  if vs.any (fun x => match x.1 with
    | .fin _ _ _ => false
    | _ => true) then (0xFF, vs.map (fun _ => {}))
  else
    match maxLog (vs.map (fun x => x.1)) with
    | none => (0x7F, vs.map (fun _ => {}))
    | some l =>
      let x : Int := max (-127) (min 127 (l - mxEmax c))
      ((x + 127).toNat, vs.map (fun y => mxPut c y.2 (scaleV y.1 (-x))))

/-- The value of an element of a block with a scale byte (R357). -/
def mxDecode (c scale elem : Nat) : FVal :=
  if scale = 0xFF then .nan
  else
    let v := match mxElem c with
      | some f => fDecode f elem
      | none => scaleV (valOf 0x00 elem) (-6)
    scaleV v ((scale : Int) - 127)

/-! ## Transform programs -/

/-- Fields of a program slot of 32 words (R359). -/
def progLen (p : List Word) : Nat := fld (p.getD 0 0) 4 0
def progOut (p : List Word) : Nat := fld (p.getD 0 0) 7 5
def progOp (p : List Word) (i : Nat) : Word := p.getD (8 + i) 0
def progK (p : List Word) (i : Nat) : Nat := let w := p.getD (24 + i / 2) 0; if i % 2 = 0 then fld w 31 0 else fld w 63 32

/-- Operands that an operation uses (R361). -/
def opUses (o : Nat) : Nat :=
  match o with
  | 0x00 => 0 | 0x01 => 2 | 0x02 => 2 | 0x03 => 2 | 0x04 => 3 | 0x05 => 2 | 0x06 => 2 | 0x07 => 1 | 0x08 => 1 | 0x09 => 1
  | 0x0A => 1 | 0x0B => 1 | 0x0C => 3 | 0x0D => 3 | 0x0E => 2 | 0x0F => 1 | _ => 0

/-- An operation word has no reserved field set (R360). -/
def opFieldsOk (w : Word) : Bool := fld w 63 34 == 0 && (fld w 5 0 == 0x0F || fld w 33 24 == 0)

/-- An operation uses no reserved OP, selector, QFMT or QRND (R360, R361). -/
def opOk (w : Word) : Bool :=
  let o := fld w 5 0
  let sel := fun (k : Nat) => decide (k < 8) || decide (16 ≤ k)
  decide (o ≤ 0x11) &&
  (decide (opUses o < 1) || sel (fld w 13 9)) && (decide (opUses o < 2) || sel (fld w 18 14)) && (decide (opUses o < 3) || sel (fld w 23 19)) &&
  (o != 0x0F || (decide (0x08 ≤ fld w 31 24) && decide (fld w 31 24 ≤ 0x13) && fld w 33 32 != 3))

/-- The checks of R366 on an image apart from ownership and from LEN 0. -/
def progFieldsOk (p : List Word) : Bool :=
  let n := progLen p
  decide (n ≤ 16) && fld (p.getD 0 0) 63 16 == 0 && (List.range 7).all (fun i => p.getD (1 + i) 0 == 0) &&
  (List.range n).all (fun i => opFieldsOk (progOp p i)) && fld (p.getD 0 0) 15 8 == 1 && (List.range n).all (fun i => opOk (progOp p i))

/-- A QUANT operation of the program rounds stochastically. -/
def progSr (p : List Word) : Bool :=
  (List.range (progLen p)).any (fun i => fld (progOp p i) 5 0 == 0x0F && fld (progOp p i) 33 32 == 2)

/-- Integer square root by bits, from bit k down. -/
def isqrtFrom : Nat → Nat → Nat → Nat
  | 0, _, r => r
  | k + 1, n, r => let c := r + 2 ^ k; isqrtFrom k n (if c * c ≤ n then c else r)

/-- floor(sqrt n). -/
def isqrt (n : Nat) : Nat := isqrtFrom (bitLen n / 2 + 1) n 0

/-- An exact result known as q x 2^e from below, exactly when sticky is false: one bit is added below it (R361). -/
def stickyV (neg : Bool) (q : Nat) (sticky : Bool) (e : Int) : FVal := .fin neg (2 * q + (if sticky then 1 else 0)) (e - 1)

/-- 1 / A (R361). -/
def vRcp : FVal → FVal
  | .nan => .nan
  | .inf n => .fin n 0 0
  | .fin n m e =>
    if m = 0 then .inf n
    else let k := bitLen m + 64
         stickyV n (2 ^ k / m) (2 ^ k % m != 0) (-(k : Int) - e)

/-- 1 / sqrt(A) (R361). -/
def vRsqrt : FVal → FVal
  | .nan => .nan
  | .inf n => if n then .nan else .fin false 0 0
  | .fin n m e =>
    if m = 0 then .inf n
    else if n then .nan
    else
      let odd := e % 2 != 0
      let m' := if odd then 2 * m else m
      let e' := if odd then e - 1 else e
      let k := bitLen m' + 64
      let q := isqrt (2 ^ (2 * k) / m')
      stickyV false q (q * q * m' != 2 ^ (2 * k)) (-(k : Int) - e' / 2)

/-- 2^f for a fraction of n bits, as a fixed-point number of 192 fraction bits: the product of 2^(2^-i) over the bits set. -/
def exp2Frac : Nat → Nat → Nat → Nat → Nat
  | 0, _, _, acc => acc
  | n + 1, f, c, acc =>
    -- c is 2^(2^-i) for the highest bit left of f
    let acc := if f.testBit n then acc * c / 2 ^ 192 else acc
    exp2Frac n f (isqrt (c * 2 ^ 192)) acc

/-- 2^A (R361). -/
def vExp2 : FVal → FVal
  | .nan => .nan
  | .inf n => if n then .fin false 0 0 else .inf false
  | .fin neg m e =>
    if m = 0 then .fin false 1 0
    else if 0 ≤ e then .fin false 1 (max (-400) (min 400 ((if neg then -1 else 1) * ((m * 2 ^ (min e.toNat 12) : Nat) : Int))))
    else
      let k := (-e).toNat
      let whole : Int := if neg then -((m / 2 ^ k : Nat) : Int) - (if m % 2 ^ k = 0 then 0 else 1) else (m / 2 ^ k : Nat)
      let f := if neg then (2 ^ k - m % 2 ^ k) % 2 ^ k else m % 2 ^ k
      let n : Int := max (-400) (min 400 whole)
      if f = 0 then .fin false 1 n
      else stickyV false (exp2Frac k f (isqrt (2 ^ 385)) (2 ^ 192)) true (n - 192)

/-- The code of a value in FP32, rounded to nearest even, NaN canonical. -/
def toF32 (v : FVal) : Nat := (fEncode fFP32 .rne false v).1
/-- The value of an FP32 code. -/
def f32 (c : Nat) : FVal := fDecode fFP32 c

/-- Counts of a program or row of conversions. -/
structure CvCount where
  sat : Nat := 0
  nan : Nat := 0
  sr : Nat := 0
deriving DecidableEq, Repr, Inhabited

/-- A conversion counted. -/
def CvCount.add (k : CvCount) (c : Cv) : CvCount :=
  { sat := k.sat + (if c.sat then 1 else 0), nan := k.nan + (if c.nanLost then 1 else 0), sr := k.sr + (if c.sr then 1 else 0) }

/-- Operand of a selector: a register or a constant (R360). -/
def opndOf (p : List Word) (regs : List Nat) (sel : Nat) : Nat := if sel < 8 then regs.getD sel 0 else progK p (sel - 16)

/-- The FP32 result of an operation, with the conversion of a QUANT (R361). -/
def opResult (w : Word) (a b c idx row u : Nat) : Option (Nat × Cv) :=
  let va := f32 a
  let vb := f32 b
  let vc := f32 c
  let plain := fun (v : FVal) => some (toF32 v, ({} : Cv))
  match fld w 5 0 with
  | 0x01 => plain (fAdd va vb)
  | 0x02 => plain (fAdd va (fNeg vb))
  | 0x03 => plain (fMul va vb)
  | 0x04 => plain (fAdd (fMul va vb) vc)
  | 0x05 => plain (fMin va vb)
  | 0x06 => plain (fMax va vb)
  | 0x07 => plain (match va with
    | .fin _ m e => .fin false m e
    | .inf _ => .inf false
    | .nan => .nan)
  | 0x08 => plain (fNeg va)
  | 0x09 => plain (vRcp va)
  | 0x0A => plain (vRsqrt va)
  | 0x0B => plain (vExp2 va)
  | 0x0C => plain (fMin (fMax va vb) vc)
  | 0x0D => plain (if va != .nan && a / 2 ^ 31 % 2 == 0 then vb else vc)
  | 0x0E => plain (match va, vb with
    | .fin n1 m1 e1, .fin n2 m2 e2 => let (x, y, _) := fAlign n1 m1 e1 n2 m2 e2
                                      if y < x then .fin false 1 0 else .fin false 0 0
    | _, _ => if fLt vb va then .fin false 1 0 else .fin false 0 0)
  | 0x0F =>
    let q := cvt (fld w 31 24) (rndOf (fld w 33 32) u) va
    some (toF32 (valOf (fld w 31 24) q.code), q)
  | 0x10 => plain (.fin false idx 0)
  | 0x11 => plain (.fin false row 0)
  | _ => none

/-- The operations of a program in index order (R363): registers after operation i of n. -/
def runOps (p : List Word) (idx row : Nat) (u : Nat → Nat) : Nat → Nat → List Nat → CvCount → List Nat × CvCount
  | 0, _, regs, k => (regs, k)
  | n + 1, i, regs, k =>
    let w := progOp p i
    match opResult w (opndOf p regs (fld w 13 9)) (opndOf p regs (fld w 18 14)) (opndOf p regs (fld w 23 19)) idx row (u i) with
    | none => runOps p idx row u n (i + 1) regs k
    | some (r, c) => runOps p idx row u n (i + 1) (regs.set (fld w 8 6) r) (k.add c)

/-- The program on one element (R362): the value of register OUT, and what its operations counted. -/
def runProg (p : List Word) (v0 v1 : FVal) (idx row : Nat) (u : Nat → Nat) : FVal × CvCount :=
  let (regs, k) := runOps p idx row u (progLen p) 0 [toF32 v0, toF32 v1, 0, 0, 0, 0, 0, 0] {}
  (f32 (regs.getD (progOut p) 0), k)

/-- Conversions count in the XFM page while the unit is present (R349, R351). -/
def countCv (s : State) (k : CvCount) : State :=
  if !s.build.xfm then s else
  let x := s.xfm
  let t := { s with xfm := { x with srElems := satAdd 48 x.srElems k.sr, satTotal := satAdd 32 x.satTotal k.sat, nanLost := satAdd 32 x.nanLost k.nan } }
  let t := if k.sr = 0 then t else count t pXFM 0 0x3FF 0xFFF k.sr
  let t := if k.sat = 0 then t else count t pXFM 1 0x3FF 0xFFF k.sat
  let t := if k.nan = 0 then t else count t pXFM 2 0x3FF 0xFFF k.nan
  if x.nanLost = 0 ∧ k.nan ≠ 0 then raise t pXFM 1 else t

end Sys2Proof.Machine
end

