-- ==== Sys2Proof/Machine/Fence.lean ====
section
/-!
DEFINITION. Fence records and barriers at their homes: signals, notifications, the end of a kernel instance, registrations,
releases and abandonments (R447 to R478).
-/
namespace Sys2Proof.Machine
open Sys2Proof

/-! ## Signals -/

/-- VALUE and KIND of the record at an NPA. -/
def recValue (s : State) (a : Nat) : Word := rdWord s a
def recKind (s : State) (a : Nat) : Nat := fld (rdWord s (a + 56)) 3 0

/-- A wait for a target is satisfied (R454). -/
def satisfied (v t : Word) : Bool := decide ((v - t).toNat < 2 ^ 63)

/-- Stream slots that a kernel instance or a context leaves are released (R163). -/
def releaseSlotsOf (s : State) (f : Slot → Bool) : State :=
  { s with eng := { s.eng with slots := s.eng.slots.filter (fun e => !f e.2) } }

/-- A stream descriptor names the dispatch slot of the kernel instance that opened it (R159, R163). -/
def slotNames (x : Slot) (c slot : Nat) : Bool :=
  let w := x.desc.getD 5 0
  x.ctx == c && !bitOf w 44 && fld w 43 32 == slot

/-- KERNEL_INSTANCE_END (R431): the ENG_DISPATCH retires with OK, its slot is free, the stream slots that name it are released
(R163) and its registrations drop in the next event tick (R474). -/
def kernelEnd (s : State) (p slot : Nat) : State :=
  let (c, seq1) := tget (part s p).dispRun slot
  if seq1 = 0 then s else
  let q := tget (part s p).dispQ slot
  let t := updPart s p (fun r => { r with dispRun := tset r.dispRun slot (0, 0), dispQ := tset r.dispQ slot 0, dispOf := tset r.dispOf slot 0 })
  let t := endCmd t q (seq1 - 1) .ok
  let t := releaseSlotsOf t (fun x => slotNames x c slot)
  { t with fnc := { t.fnc with drops := t.fnc.drops ++ [(c, some slot)] } }

/-- Dispatch slots whose fence record lies at an NPA and whose instance ends when VALUE is v (R430, R431). -/
def endedSlots (s : State) (a : Nat) (v : Word) : List (Nat × Nat) :=
  s.parts.flatMap (fun e =>
    (e.2.dispRun.filter (fun x =>
      match objRange s e.1 (tget e.2.dispOf x.1) with
      | none => false
      | some (g, _) =>
        let (st, n, node) := gpaLookup s e.1 (g + x.1 * 128 + 64)
        st == .ok && node.isNone && n == a && satisfied v (w64 x.2.2))).map (fun x => (e.1, x.1)))

/-- Watchers of a record are notified of its new VALUE: this block samples the notice itself, other blocks by message (R457). -/
def notify (s : State) (a : Nat) (v : Word) : State :=
  let m := fld (rdWord s (a + 48)) 7 0
  (List.range 8).foldl (fun t n =>
    if !m.testBit n then t
    else if n = t.cas.pos then { t with fnc := { t.fnc with notes := t.fnc.notes ++ [(a, v)] } }
    else casSend t { src := t.cas.pos, dst := n, cls := 3, line := some (a / 128), load := .note a v }) s

/-- A signal v at the fence record at an NPA, in its place (R449), caused by a partition. -/
def signalRec (s : State) (a : Nat) (v : Word) (p : Nat) : State × Status :=
  if bytesPois s a 16 then (s, .poison)
  else if recKind s a ≠ 0 then (s, .permission)
  else
    let d := (v - recValue s a).toNat
    if d = 0 then (s, .ok)
    else if d < 2 ^ 63 then
      let ts := timestamp s
      let t := wrWords (wrWord s a v) (a + 32) [w64 ts, w64 (ts / 2 ^ 64)]
      let t := tenant (count { t with fnc := { t.fnc with advTotal := satAdd 48 t.fnc.advTotal 1 } } pFNC 1 p) p 8
      let t := notify t a v
      ((endedSlots t a v).foldl (fun u e => kernelEnd u e.1 e.2) t, .ok)
    else
      let w1 := rdWord s (a + 8)
      let t := wrWords s (a + 8) [setBit (setFld w1 31 0 (satAdd 32 (fld w1 31 0) 1)) 32 true, v]
      let t := count { t with fnc := { t.fnc with regressTotal := satAdd 32 t.fnc.regressTotal 1 } } pFNC 2 p
      (if s.fnc.regressTotal = 0 then raise t pFNC 3 else t, .regressive)

/-- The FENCE_SIG by which the block signals a record at an NPA (R449, R451). -/
def signalReq (s : State) (p a : Nat) (v : Word) : HomeReq :=
  { op := .atomic 0xE7, agent := 32 + s.cas.pos, part := p, line := a / 128,
    data := BitVec.ofNat 1024 (v.toNat <<< (8 * (a % 128))), mask := BitVec.ofNat 128 (0xFF <<< (a % 128)) }

/-- The block signals a record in another package: the request waits for a remote tracker (R451, R542). -/
def remoteSignal (s : State) (p node a : Nat) (v : Word) : State := remRoute s node (signalReq s p a v)

/-- A signal that the block discards (R451, R480). -/
def sigDrop (s : State) (p : Nat) : State :=
  let t := count { s with fnc := { s.fnc with sigDropped := satAdd 32 s.fnc.sigDropped 1 } } pFNC 3 p
  if s.fnc.sigDropped = 0 then raise t pFNC 2 else t

/-- The block signals a fence by object reference and checks it against the object record (R451). -/
def signalRef (s : State) (p obj idx : Nat) (v : Word) : State :=
  match fenceCheck s p obj idx with
  | none => sigDrop s p
  | some g =>
    let (st, a, node) := gpaLookup s p g
    match node with
    | some n => remoteSignal s p n a v
    | none => if st == .ok then (if lineIdle s (a / 128) then (signalRec s a v p).1 else relayLater s (signalReq s p a v)) else sigDrop s p

/-! ## Announcements -/

/-- A write of the block's own to a line waits for its place or for the end of its transaction (R258). -/
def ownWaits (s : State) (line : Nat) : Bool :=
  let f := fun (r : HomeReq) => r.origin == .relay && r.line == line
  s.hom.relayQ.any f || (tget s.hom.waiters line).any f || s.hom.setWait.any f || (tsome s.hom.txns).any (fun e => e.2.req.any f) ||
  (tsome s.cas.outst).any (fun e => f e.2)

/-- An event is announced: its fence is signalled and then its interrupt raised. -/
def announceNow (s : State) (n : Notice) : State :=
  let t := match n.sig with
    | some (o, i, v) => signalRef s n.part o i v
    | none => s
  match n.irq with
  | some (p, b) => raise t p b
  | none => t

/-- An event whose records the block has just written is announced at once, when those writes are performed and no earlier event waits;
else in its turn, once they are (R268). -/
def announce (s : State) (n : Notice) : State :=
  if s.hom.notices.isEmpty && n.lines.all (lineIdle s) then announceNow s n
  else { s with hom := { s.hom with notices := s.hom.notices ++ [n] } }

/-- Events whose records are performed by now are announced, up to the first one that still waits (R268). -/
def announceAll : Nat → State → State
  | 0, s => s
  | k + 1, s =>
    match s.hom.notices with
    | [] => s
    | n :: l => if n.lines.any (ownWaits s) then s else announceAll k (announceNow { s with hom := { s.hom with notices := l } } n)

/-! ## Barriers -/

/-- The barrier slot bound to a record. -/
def barAt (s : State) (a : Nat) : Option (Nat × Bar) := (tsome s.fnc.bars).find? (fun e => e.2.npa == a)

/-- A state with a barrier slot set or freed. -/
def setBar (s : State) (i : Nat) (b : Option Bar) : State := { s with fnc := { s.fnc with bars := tset s.fnc.bars i b } }

/-- Registrations in use (R470). -/
def regsUsed (s : State) : Nat := (tsome s.fnc.bars).foldl (fun n e => n + e.2.regs.length) 0

/-- What names each registration in use. -/
def regNames (s : State) : List Nat :=
  (tsome s.fnc.bars).flatMap (fun e => e.2.regs.map (fun r => (e.1 * 2 ^ 16 + r.ctx) * 2 ^ 16 + r.slot.elim 0 (fun n => n + 1)))

/-- The write-back of words 0, 1, 2 and 5 (R466). -/
def barWriteBack (s : State) (b : Bar) (bound abandoned : Bool) : State :=
  let w0 := setBit (setBit (rdWord s b.npa) 3 bound) 2 abandoned
  wrWord (wrWords s b.npa [w0, pack [(0, b.live), (21, b.pending)], b.gen]) (b.npa + 40) (b.due.getD 0)

/-- The owner of a registration covers another: the context alone covers all its slots (R474). -/
def regOf (b : Bar) (c : Nat) (slot : Option Nat) : Option Reg := b.regs.find? (fun r => r.ctx == c && r.slot == slot)

/-- BARRIER_RELEASE (R473), followed by the unbinding of R470 when LIVE is 0. -/
def barRelease (s : State) (i : Nat) (b : Bar) : State :=
  let b := { b with gen := b.gen + 1, pending := b.live, due := none,
                    regs := b.regs.map (fun r => { r with arr := 0, isOpen := false }) }
  let keepBound := b.live != 0
  let t := barWriteBack (setBar s i (if keepBound then some b else none)) b keepBound false
  if b.relEn then signalRef t b.part b.relObj b.relIdx b.gen else t

/-- After an operation or a drop: a generation whose PENDING is 0 is released (R472, R474). -/
def barSettle (s : State) (i : Nat) (b : Bar) : State :=
  if b.pending = 0 then barRelease s i b else setBar s i (some b)

/-- Abandonment of a bound barrier (R477). -/
def barAbandon (s : State) (i : Nat) (b : Bar) : State :=
  let t := barWriteBack (setBar s i none) b false true
  let t := raise (count { t with fnc := { t.fnc with abandonTotal := satAdd 32 t.fnc.abandonTotal 1 } } pFNC 4 b.part) pFNC 1
  (b.regs.map (fun r => r.ctx)).dedup.foldl (fun u c => doom u c .barrierAbandoned) t

/-- A barrier operation that is answered QUOTA or PERMISSION counts in BAR_REFUSED. -/
def barRefuse (s : State) (p : Nat) (st : Status) : State × Status :=
  (count { s with fnc := { s.fnc with barRefused := satAdd 32 s.fnc.barRefused 1 } } pFNC 5 p, st)

/-- The first operation on an unbound record binds it to a free slot (R470). -/
def barBind (s : State) (a p : Nat) : Option (Nat × Bar) :=
  match (List.range 2048).find? (fun i => (tget s.fnc.bars i).isNone && unitOpen s uBar i) with
  | none => none
  | some i =>
    let w0 := rdWord s a
    let w4 := rdWord s (a + 32)
    some (i, { npa := a, part := p, live := fld w0 36 16, pending := fld w0 36 16, gen := rdWord s (a + 16),
               deadline := fld (rdWord s (a + 24)) 31 0, due := none, lossAb := bitOf w0 1, relObj := fld w4 23 0,
               relEn := bitOf w4 24, relIdx := fld w4 63 32, expect := fld w0 36 16, regs := [] })

/-- A difference in the 21 bits of LIVE and PENDING (R8). -/
def sub21 (a n : Nat) : Nat := (a + 2 ^ 21 - n % 2 ^ 21) % 2 ^ 21

/-- The pseudocode of R472 on a bound barrier: the barrier after the operation, or the status that refuses it. -/
def barApply (s : State) (b : Bar) (n : Nat) (drop : Bool) (c : Nat) (slot : Option Nat) : Except Status Bar :=
  let due := if b.due.isNone && b.deadline != 0 then some (s.bcn.count + w64 b.deadline) else b.due
  let r := regOf b c slot
  if b.pending < n then .error .quota
  else if !drop then
    if r.isNone && 16384 ≤ unitsHeld s uReg (regNames s) then .error .quota
    else
      let r0 := r.getD { ctx := c, slot := slot, reg := 0, arr := 0, isOpen := true }
      if !r0.isOpen && r0.reg < r0.arr + n then .error .quota
      else
        let r1 := { r0 with reg := if r0.isOpen then r0.reg + n else r0.reg, arr := r0.arr + n }
        let regs := if r.isNone then b.regs ++ [r1] else b.regs.map (fun x => if x == r0 then r1 else x)
        .ok { b with due := due, pending := b.pending - n, regs := regs }
  else
    match r with
    | some r0 =>
      if !r0.isOpen then
        if r0.reg - r0.arr < n then .error .quota
        else .ok { b with due := due, live := sub21 b.live n, pending := b.pending - n,
                          regs := b.regs.map (fun x => if x == r0 then { r0 with reg := r0.reg - n } else x) }
      else .ok { b with due := due, live := sub21 b.live n, pending := b.pending - n }
    | none => .ok { b with due := due, live := sub21 b.live n, pending := b.pending - n }

/-- A barrier operation at the record at an NPA: operand, whether a host sent it, and the requester's partition (R468 to
R472, R478). -/
def barOp (s : State) (a : Nat) (w : Word) (fromHost : Bool) (p : Nat) : State × Status :=
  let n := fld w 20 0
  let c := fld w 63 48
  let slot := if bitOf w 22 then none else some (fld w 34 23)
  let w0 := rdWord s a
  if bytesPois s a 64 then (s, .poison)
  else if fromHost || n == 0 || fld w 47 35 != 0 || !bitOf w0 0 || recKind s a != 1 then barRefuse s p .permission
  else
    let known := barAt s a
    if known.isNone && bitOf w0 2 then (doom s c .barrierAbandoned, .barrierAbandoned)
    else
      match (match known with | some x => some x | none => barBind s a p) with
      | none => barRefuse s p .quota
      | some (i, b) =>
        let t := if known.isNone then barWriteBack (setBar (takeUnit s uBar i) i (some b)) b true false else s
        match barApply t b n (bitOf w 21) c slot with
        | .error st => barRefuse s p st
        | .ok b' => (barSettle t i b', .ok)

/-- The registrations of an owner on one barrier are dropped (R474). -/
def barDropOwner (s : State) (i : Nat) (own : Reg → Bool) : State :=
  match tget s.fnc.bars i with
  | none => s
  | some b =>
    let gone := b.regs.filter own
    if gone.isEmpty then s
    else
      let pend := gone.foldl (fun n r => sub21 n (sub21 r.reg r.arr)) b.pending
      let live := gone.foldl (fun n r => sub21 n r.reg) b.live
      barSettle s i { b with pending := pend, live := live, regs := b.regs.filter (fun r => !own r) }

/-- FENCE_SIG as the home executes it: one UINT64 element at byte 0 of a fence record or byte 8 of a barrier record (R449,
R450, R469). Position is the byte of the element in the line. -/
def fenceSigAt (s : State) (line pos : Nat) (v : Word) (fromHost : Bool) (p : Nat) : State × Status :=
  let a := line * 128 + pos / 64 * 64
  if pos % 64 = 0 then
    match signalRec s a v p with
    | (t, st) => (t, st)
  else if pos % 64 = 8 then
    barOp s a v fromHost p
  else (s, .permission)

end Sys2Proof.Machine
end

