-- ==== Sys2Proof/Machine/Operands.lean ====
section
/-!
DEFINITION. The operand forms of requests to a home: AOP codes, elements under a byte mask, lock words and tags, and the
execution of every atomic on a version of its line (R284 to R297).
-/
namespace Sys2Proof.Machine
open Sys2Proof

/-- OP and FMT of an AOP (R284). -/
def aopOp (a : Nat) : Nat := a / 16 % 16
def aopFmt (a : Nat) : Nat := a % 16

/-- The operation returns the prior value (R284). -/
def aopReturns (a : Nat) : Bool := aopOp a ≤ 7 || aopOp a == 0xC || aopOp a == 0xD

/-- The format is accepted for the operation (R284). -/
def aopFmtOk (a : Nat) : Bool :=
  let op := aopOp a
  let f := aopFmt a
  if op = 1 then f ≤ 7 else if op = 0xC ∨ op = 0xD ∨ op = 0xE then f == 7 else true

/-- The element of a width at a byte position, as a number. -/
def elemAt (d : LineData) (w p : Nat) : Nat := (d.toNat >>> (8 * p)) % 2 ^ (8 * w)

/-- A line with the element of a width at a byte position replaced. -/
def setElem (d : LineData) (w p v : Nat) : LineData :=
  BitVec.ofNat 1024 (d.toNat - elemAt d w p * 2 ^ (8 * p) + (v % 2 ^ (8 * w)) * 2 ^ (8 * p))

/-- Every byte of the element is enabled. -/
def elemOn (m : LineMask) (w p : Nat) : Bool := (List.range w).all (fun i => m.getLsbD (p + i))

/-- Byte positions of the complete enabled elements of a width (R285). -/
def elems (m : LineMask) (w : Nat) : List Nat :=
  if w = 0 then [] else ((List.range (128 / w)).map (fun i => i * w)).filter (fun p => elemOn m w p)

/-- The mask that the elements of a width at some positions cover. -/
def elemMask (w : Nat) (ps : List Nat) : LineMask :=
  BitVec.ofNat 128 (ps.foldl (fun n p => n ||| ((2 ^ w - 1) <<< p)) 0)

/-- The compare position of a CAS (R286). -/
def casPos (p : Nat) : Nat := (p + 64) % 128

/-- Which row of R294 refuses an atomic: its status, or none; nothing enabled answers OK with nothing done. -/
def aopRefused (aop : Nat) (m : LineMask) (pois : Nat) : Option Status :=
  let op := aopOp aop
  let w := fmtBytes (aopFmt aop)
  let ps := elems m w
  let one := op == 1 || op == 0xC || op == 0xD
  if op = 0xF ∨ w = 0 then some .permission
  else if !aopFmtOk aop then some .permission
  else if elemMask w ps != m then some .permission
  else if one && ps.length != 1 then some .permission
  else if m = 0 then some .ok
  else if someChunks m &&& pois != 0 then some .poison
  else none

/-- The new value of one element (R286, R288 to R293). -/
def elemOp (op fmt old x cmp : Nat) : Nat :=
  match op with
  | 0 => x
  | 1 => if old = cmp then x else old
  | 2 => arith 0 fmt old x
  | 3 => arith 1 fmt old x
  | 4 => arith 2 fmt old x
  | 5 => old &&& x
  | 6 => old ||| x
  | 7 => old ^^^ x
  | 8 => arith 0 fmt old x
  | 9 => arith 1 fmt old x
  | _ => arith 2 fmt old x

/-- Every enabled element operated on independently (R285). -/
def elemsOp (op fmt : Nat) (d x : LineData) (m : LineMask) : LineData :=
  let w := fmtBytes fmt
  (elems m w).foldl (fun acc p => setElem acc w p (elemOp op fmt (elemAt d w p) (elemAt x w p) (elemAt x w (casPos p)))) d

/-- Status and new word of a lock operation on a prior word, with the requester's operand (R296). -/
def lockOp (acq : Bool) (prior opnd : Nat) : Status × Nat :=
  let held := prior % 2 == 1
  let owner := prior / 2 ^ 16
  let tag := opnd / 2 ^ 16 % 2 ^ 48
  if prior / 2 % 2 ^ 15 ≠ 0 then (.permission, prior)
  else if acq then
    if !held then (.ok, 1 + tag * 2 ^ 16)
    else if owner = tag then (.selfHeld, prior) else (.ok, prior)
  else if held && owner == tag then (.ok, 0) else (.permission, prior)

/-- The engine port writes the context number into bits [63:48] of the operand of a lock or barrier operation (R295, R467). -/
def stampCtx (aop : Nat) (d : LineData) (m : LineMask) (ctx : Option Nat) : LineData :=
  match ctx with
  | none => d
  | some c =>
    if aopOp aop = 0xC ∨ aopOp aop = 0xD then
      (elems m 8).foldl (fun acc p => setElem acc 2 (p + 6) c) d
    else if aopOp aop = 0xE then
      (elems m 8).foldl (fun acc p => if p % 64 = 8 then setElem acc 2 (p + 6) c else acc) d
    else d

/-- The bytes of a line that a mask enables, zeros elsewhere (R287). -/
def maskedLine (d : LineData) (m : LineMask) : LineData := mergeLine 0 d m

/-! ## Stream descriptors -/

/-- Signed value of an n-bit field. -/
def signed (n v : Nat) : Int := if v < 2 ^ (n - 1) then v else (v : Int) - 2 ^ n

/-- Fields of a stream descriptor (R159). -/
def dBase (d : List Word) : Int := fld (d.getD 0 0) 56 0
def dDir (d : List Word) : Nat := fld (d.getD 0 0) 58 57
def dRowBytes (d : List Word) : Nat := fld (d.getD 1 0) 19 0
def dRowsM1 (d : List Word) : Nat := fld (d.getD 1 0) 35 20
def dTilesX (d : List Word) : Nat := fld (d.getD 1 0) 51 36 + 1
def dStream (d : List Word) : Nat := fld (d.getD 1 0) 59 52
def dPitch (d : List Word) : Int := signed 40 (fld (d.getD 2 0) 39 0)
def dStepX (d : List Word) : Int := signed 48 (fld (d.getD 3 0) 47 0)
def dStepY (d : List Word) : Int := signed 48 (fld (d.getD 4 0) 47 0)
def dTileCount (d : List Word) : Nat := fld (d.getD 5 0) 31 0

/-- T(t), where tile t begins (R160). -/
def tileStart (d : List Word) (t : Nat) : Int :=
  dBase d + (t % dTilesX d : Nat) * dStepX d + (t / dTilesX d : Nat) * dStepY d

/-- First byte and end of the range that holds every row of a tile (R165). -/
def tileRange (d : List Word) (t : Nat) : Int × Int :=
  let a := tileStart d t
  let z := a + (dRowsM1 d : Nat) * dPitch d
  (min a z, max a z + dRowBytes d)

/-- Row r of a tile begins here (R160). -/
def rowStart (d : List Word) (t r : Nat) : Int := tileStart d t + (r : Nat) * dPitch d

/-- The first byte, in tile order, that a range of addresses shares with a tile: its address, row and column (R160, R181). A range
that no row of the tile reaches begins at its own first byte, with row and column 0. -/
def firstInTile (d : List Word) (t va n : Nat) : Nat × Nat × Nat :=
  match (List.range (dRowsM1 d + 1)).find? (fun r =>
      decide (rowStart d t r < (va + n : Nat)) && decide ((va : Int) < rowStart d t r + dRowBytes d)) with
  | some r =>
    let a := max (va : Int) (rowStart d t r)
    (a.toNat, r, (a - rowStart d t r).toNat)
  | none => (va, 0, 0)

/-- Bytes of a tile that lie in a 4 MiB granule (R175, R181; log entry 22). -/
def tileBytesIn (d : List Word) (t page : Nat) : Nat :=
  let g0 : Int := (page * 2 ^ 22 : Nat)
  let g1 : Int := ((page + 1) * 2 ^ 22 : Nat)
  (List.range (dRowsM1 d + 1)).foldl (fun n r =>
    n + (min (rowStart d t r + dRowBytes d) g1 - max (rowStart d t r) g0).toNat) 0

/-- Every line of a tile's footprint is in a list of lines by VA (R160, R163). -/
def tileCovered (d : List Word) (t : Nat) (ls : List Nat) : Bool :=
  (List.range (dRowsM1 d + 1)).all (fun r =>
    let a := (rowStart d t r).toNat
    (List.range ((a + dRowBytes d + 127) / 128 - a / 128)).all (fun i => ls.contains (a / 128 + i)))

end Sys2Proof.Machine
end

