-- ==== Sys2Proof/Machine/Deliver.lean ====
section
/-!
DEFINITION. How an answer of a home reaches its requester: through a memory port when the data comes from memory, and then to
the host station, the engine port, the mover segment, the cascade port or the span station that waits for it.
-/
namespace Sys2Proof.Machine
open Sys2Proof

/-- The numerically larger status code of two (R260, R341). -/
def maxStatus (a b : Status) : Status := if a.code < b.code then b else a

/-- A page interrupt counter helper: HOM protocol errors are logged, counted and raised (R215, R218, R242). -/
def homProtoErr (s : State) (line : Nat) : State :=
  let t := logErr s .protocol .ok pHOM (sliceOf s line) 0x3FF (some (line * 128))
  raise (count { t with hom := { t.hom with protoErr := satAdd 32 t.hom.protoErr 1 } } pHOM 5 0x3FF (sliceOf s line)) pHOM 1

/-- A request of a partition with a latency target and PRIO 0b11 that took too long counts as a miss (R587). -/
def latMiss (s : State) (p prio et0 : Nat) : State :=
  let lat := tget s.sec.latEt p
  if lat ≠ 0 ∧ prio = 3 ∧ lat < s.clk.et - et0 then tenant s p 0xA else s

/-- A host station samples a request: one whose partition has a latency target and that carries PRIO 0b11 is remembered (R587). -/
def latOpen (s : State) (h : Nat) (r : HomeReq) : State :=
  let l := (hst s h).lat.filter (fun x => x.1 != r.agent || x.2.1 != r.tag)
  let m := if r.prio = 3 ∧ tget s.sec.latEt r.part ≠ 0 then l ++ [(r.agent, r.tag, r.part, s.clk.et)] else l
  if m = (hst s h).lat then s else { s with hst := tupd s.hst h (fun k => { k with lat := m }) }

/-- A host station sends the last answer of a request that it remembers (R587). -/
def latClose (s : State) (h : Nat) (a : Answer) (last : Bool) : State :=
  match (hst s h).lat.find? (fun x => x.1 == a.agent && x.2.1 == a.tag) with
  | none => s
  | some x =>
    if !last then s
    else latMiss { s with hst := tupd s.hst h (fun k => { k with lat := k.lat.erase x }) } x.2.2.1 3 x.2.2.2

/-- A slot's prefetches that wait for a walk are discarded with its prefetch state (R162). -/
def dropPref (s : State) (k : Nat) : State :=
  { s with lan := { s.lan with misses := s.lan.misses.filter (fun m => !(m.pref && m.req == k)) } }

/-- A stream slot is released (R163). -/
def releaseSlot (s : State) (k : Nat) : State :=
  let t := dropPref s k
  { t with eng := { t.eng with slots := tset t.eng.slots k {} } }

/-- A request of the last tile of a bounded stream has performed its lines: the tile completes when every line of its footprint is
performed, and its slot is released (R160, R163). -/
def lastTileDone (s : State) (r : EngReq) : State :=
  match r.slot with
  | none => s
  | some k =>
    let x := tget s.eng.slots k
    if !x.bound || x.bindNo != r.bindNo || dTileCount x.desc == 0 || r.tile + 1 != dTileCount x.desc then s
    else
      let ls := x.lastDone ++ (List.range r.nlines).map (fun i => r.va / 128 + i)
      if tileCovered x.desc r.tile ls then releaseSlot s k
      else { s with eng := { s.eng with slots := tset s.eng.slots k { x with lastDone := ls } } }

/-- The engine request is complete: its completion goes to the port (R260). -/
def engFinish (s : State) (n : Nat) (r : EngReq) : State :=
  let t := emit s (.eng r.port r.tag r.status [] 0)
  let t := { t with eng := { t.eng with reqs := tset t.eng.reqs n none } }
  latMiss (tenant (lastTileDone t r) r.part 2) r.part r.prio r.et

/-- A line of an engine request's burst is performed (R172, R258, R260). -/
def engLineDone (s : State) (n b : Nat) (st : Status) : State :=
  match tget s.eng.reqs n with
  | none => s
  | some r =>
    let f := fun (x : Burst) =>
      let y := { x with left := x.left - 1 }
      { y with st := if y.left = 0 then .done else y.st }
    let r' := { r with bursts := lmod r.bursts b f, status := maxStatus r.status st }
    let t := { s with eng := { s.eng with reqs := tset s.eng.reqs n (some r') } }
    if r'.bursts.all (fun x => x.st == .done) then engFinish t n r' else t

/-- A channel of the movers. -/
def chan (s : State) (c : Nat) : Chan := tget s.mov.chans c

/-- A state with a channel changed. -/
def updChan (s : State) (c : Nat) (f : Chan → Chan) : State := { s with mov := { s.mov with chans := tupd s.mov.chans c f } }

/-- A state with the running descriptor of a number changed. -/
def updActive (s : State) (c k : Nat) (f : Active → Active) : State :=
  updChan s c (fun h => { h with active := h.active.map (fun a => if a.key == k then f a else a) })

/-- A state with a segment of a running descriptor changed. -/
def updSeg (s : State) (c k g : Nat) (f : Seg → Seg) : State := updActive s c k (fun a => { a with segs := lmod a.segs g f })

/-- A running descriptor takes a status, when it is worse than its own (R341). -/
def descStatus (a : Active) (st : Status) : Active := if st == .ok then a else { a with status := maxStatus a.status st }

/-- A source line of a segment arrives (R326, R341). -/
def segReadDone (s : State) (c k g i : Nat) (a : Answer) : State :=
  updActive s c k (fun x =>
    let y := { x with segs := lmod x.segs g (fun q => { q with reads := lmod q.reads i (fun l => { l with st := 2, data := a.data, pois := a.poison, bad := a.status != .ok && a.poison == 0 }) }) }
    descStatus y (if a.poison = 0 then a.status else maxStatus a.status .poison))

/-- A write of a mover segment is performed (R338, R341). -/
def segWriteDone (s : State) (c k g tag : Nat) (st : Status) : State :=
  updActive s c k (fun a => descStatus { a with segs := lmod a.segs g (fun x => { x with out := x.out.erase tag }) } st)

/-- The line that the block asked for, for an operation of its own, has come: memory, which a cache's copy hides, takes what the
answer shows, and the operation goes on when it is next tried (R36, log entry 28). -/
def ownGot (s : State) (k : Nat) (a : Answer) : State :=
  let t := if a.kind == .comp || (a.status != .ok && a.status != .poison) || (rdLine s a.line = a.data ∧ linePois s a.line = a.poison) then s
    else wrLine s a.line a.data a.poison
  { t with hom := { t.hom with fresh := if t.hom.fresh.contains (k, a.line) then t.hom.fresh else (k, a.line) :: t.hom.fresh } }

/-- One answer reaches its requester; the last answer of a request performs its line (R258). -/
def deliver (s : State) (last : Bool) (a : Answer) : State :=
  match a.origin with
  | .host h => latClose (emit s (.ans a)) h a last
  | .cascade _ => emit s (.ans a)
  | .relay => s
  | .block pos n =>
    casSend s { src := s.cas.pos, dst := pos, cls := ansClass a.kind, line := some a.line, bytes := if a.kind == .comp then 16 else 144,
                load := .ans n a.kind a.status a.data a.poison last }
  | .own k => if last then ownGot s k a else s
  | .dp p => if last then updPage s p (fun q => { q with dpLeft := q.dpLeft - 1 }) else s
  | .det w =>
    if a.status == .partnerAbsent || a.status == .partnerQuarantined then { s with det := { s.det with lsFail := setIns s.det.lsFail w } } else s
  | .cmd q seq => if last then cmdAnswered s q seq a.status else s
  | .eng n b =>
    let t := emit s (.ans a)
    if last then engLineDone t n b a.status else t
  | .mover c d g => if a.tag % 2 = 0 then segReadDone s c d g (a.tag / 2) a else if last then segWriteDone s c d g a.tag a.status else s
  | .span k =>
    match tget s.spn.ingress k with
    | none => s
    | some i =>
      let t := toNode s i.node (.ans i.node i.pos i.tag a.kind a.status a.data a.poison)
      if last then { t with spn := { t.spn with ingress := tset t.spn.ingress k none } } else t

/-- All answers of a request, in order. -/
def deliverAll (s : State) : List Answer → State
  | [] => s
  | [a] => deliver s true a
  | a :: t => deliverAll (deliver s false a) t

/-- Answers whose data comes from memory wait for the read of their line at its port, under the next tag that no read of the port has
(R690, R691); a port of another block answers at once (log entry 8). -/
def viaMemory (s : State) (line : Nat) (as : List Answer) : State :=
  match portOf s line with
  | none => deliverAll s as
  | some (b, p) =>
    if b ≠ s.cas.pos then deliverAll s as
    else
      let m := tget s.mps p
      let n := if p < 2 then 4096 else 1024
      let tag := (((List.range n).map (fun i => (m.nextTag + i) % n)).find? (fun k => !m.reads.any (fun d => d.tag == k))).getD (m.nextTag % n)
      let rd : MemRead := { tag := tag, line := line, cyc := s.clk.cyc, pois := linePois s line, ans := as }
      let t := updMp (mpLine s p) p (fun q => { q with nextTag := (tag + 1) % n, reads := q.reads ++ [rd] })
      if 0 < m.cmdCr ∧ 0 < m.lineCr then
        emit (updMp t p (fun q => { q with cmdCr := q.cmdCr - 1, lineCr := q.lineCr - 1 })) (.mem p false tag line)
      else updMp t p (fun q => { q with queue := q.queue ++ [(false, tag)] })

/-- An answer to a request. -/
def ansOf (r : HomeReq) (k : AnsKind) (st : Status) (d : LineData) (pois : Nat) : Answer :=
  { origin := r.origin, agent := r.agent, tag := r.tag, line := r.line, kind := k, status := st, data := d, poison := pois }

/-- The request asks for data. -/
def asksData : HomeOp → Bool
  | .rdShared | .rdOwn | .upgrade | .rdOnce => true
  | .atomic a => aopReturns a
  | _ => false

/-- A request that ends with a status and without effect: a read returns zeros, or every chunk poisoned under POISON (R642,
R644); a write or atomic is not performed. -/
def refuseReq (s : State) (r : HomeReq) (st : Status) : State :=
  let pois := if st == .poison || st == .partnerAbsent then 0xFF else 0
  if asksData r.op then
    match r.op with
    | .atomic _ => deliverAll s [ansOf r .dataOnce st 0 pois, ansOf r .comp st 0 0]
    | _ => deliverAll s [ansOf r .dataOnce st 0 pois]
  else deliverAll s [ansOf r .comp st 0 0]

end Sys2Proof.Machine
end

