-- ==== Sys2Proof/Machine/Reduce.lean ====
section
/-!
DEFINITION. Ordered reductions at a home: the store of contributions, the fold in index order, the combine and the end of a
window (R299 to R310).
-/
namespace Sys2Proof.Machine
open Sys2Proof

/-- End count of the window of a stamp (R301, R105). -/
def winEndOf (len : Nat) (stamp : Word) : Nat := (stamp.toNat / max len 1 + 1) * max len 1

/-- An element of a format widened to FP32 (R303). Every value of the narrower formats is a value of FP32. -/
def toFP32 (fmt c : Nat) : Nat :=
  match fmtFloat fmt with
  | some f => (fEncode fFP32 .rne false (fDecode f c)).1
  | none => c

/-- An FP32 value rounded once to a format. -/
def fromFP32 (fmt c : Nat) : Nat :=
  match fmtFloat fmt with
  | some f => (fEncode f .rne false (fDecode fFP32 c)).1
  | none => c

/-- The left fold of one element over the contributions that enable it, in index order (R303): none where no term exists. -/
def foldElem (rop fmt w p : Nat) (acc : Bool) (init : Option Nat) (cs : List (Nat × LineData × LineMask)) : Option Nat :=
  let terms := (cs.filter (fun c => elemOn c.2.2 w p)).map (fun c => elemAt c.2.1 w p)
  let terms := match init with
    | some b => b :: terms
    | none => terms
  let wide := fun (x : Nat) => if acc then toFP32 fmt x else x
  match terms with
  | [] => none
  | t :: ts =>
    let r := ts.foldl (fun a x => arith rop (if acc then 8 else fmt) a (wide x)) (wide t)
    some (if acc then fromFP32 fmt r else r)

/-- The line after its combine (R303, R304). -/
def combineLine (q : Session) (base : LineData) (cs : List (Nat × LineData × LineMask)) : LineData :=
  let w := fmtBytes q.fmt
  if w = 0 then base else
  (List.range (128 / w)).foldl (fun d i =>
    let p := i * w
    if cs.any (fun c => elemOn c.2.2 w p) then
      match foldElem q.rop q.fmt w p q.acc (if q.init then none else some (elemAt base w p)) cs with
      | some v => setElem d w p v
      | none => d
    else d) base

/-- Store lines of an open accumulator (R309). -/
def accLines (q : Session) : Nat := if !q.acc then 1 else if fmtBytes q.fmt = 2 then 2 else 4

/-- Contributions that wait for a lower index: those beyond the run of indices from 0 (R303). -/
def unfolded : Nat → List (Nat × LineData × LineMask) → Nat
  | _, [] => 0
  | i, c :: t => if c.1 = i then unfolded (i + 1) t else (c :: t).length

/-- Store lines in use in a slice (R309). -/
def redUsed (s : State) (slice : Nat) : Nat :=
  (s.hom.redLines.filter (fun r => !r.done && sliceOf s r.line == slice)).foldl (fun n r =>
    match tget s.hom.sessions r.sess with
    | some q => n + accLines q + unfolded 0 r.contrib
    | none => n) 0

/-- A session's counter of late or refused contributions gains 1, and word 6 of its record shows it (R299, R307, R308). -/
def redCount (s : State) (k : Nat) (late : Bool) : State :=
  match tget s.hom.sessions k with
  | none => s
  | some q =>
    let q' := if late then { q with late := satAdd 32 q.late 1 } else { q with refused := satAdd 32 q.refused 1 }
    ownPut { s with hom := { s.hom with sessions := tset s.hom.sessions k (some q') } } q.part (q.recNpa + 48) [pack [(0, q'.late), (32, q'.refused)]]

/-- A window of a session changed; it is opened when it is new. -/
def updWin (s : State) (k e : Nat) (f : RedWin → RedWin) : State :=
  let l := s.hom.redWins
  let l' := if l.any (fun w => w.sess == k && w.win == e) then l.map (fun w => if w.sess == k && w.win == e then f w else w)
            else l ++ [f { sess := k, win := e, short := 0, last := .ok }]
  { s with hom := { s.hom with redWins := l' } }

/-- Insert a contribution by ascending index. -/
def insContrib (c : Nat × LineData × LineMask) : List (Nat × LineData × LineMask) → List (Nat × LineData × LineMask)
  | [] => [c]
  | x :: t => if c.1 < x.1 then c :: x :: t else x :: insContrib c t

/-- The line of a window in the ordered reduction store. -/
def redLineOf (s : State) (k line e : Nat) : Option RedLine :=
  s.hom.redLines.find? (fun r => r.sess == k && r.line == line && r.win == e)

/-- The line of a window set. -/
def setRedLine (s : State) (r : RedLine) : State :=
  let l := s.hom.redLines
  let same := fun (x : RedLine) => x.sess == r.sess && x.line == r.line && x.win == r.win
  { s with hom := { s.hom with redLines := if l.any same then l.map (fun x => if same x then r else x) else l ++ [r] } }

/-- A RED_ORD contribution at its slice; one with no byte enabled does nothing (R294, R302, R307 to R309): the state, the status of its COMP, and whether its line's window
has reached N contributions. -/
def redStore (s : State) (r : HomeReq) : State × Status × Option (Nat × Nat) :=
  match r.contrib with
  | none => (s, .permission, none)
  | some (_, k, idx) =>
    match tget s.hom.sessions k with
    | none => (s, .permission, none)
    | some q =>
      let fmtOk := match r.op with
        | .atomic a => aopFmt a == q.fmt
        | _ => false
      let w := fmtBytes q.fmt
      if !fmtOk || elemMask w (elems r.mask w) != r.mask then (redCount s k false, .permission, none)
      else if q.n ≤ idx ∨ r.line < q.target ∨ q.target + q.lines ≤ r.line then (redCount s k false, .permission, none)
      else if elems r.mask w = [] then (s, .ok, none)
      else
        let e := winEndOf q.winLen r.stamp
        let old := redLineOf s k r.line e
        let begun := match old with
          | some l => l.done
          | none => btDue s (e + q.grace)
        if begun then (redCount s k true, .timeout, none)
        else
          let l := old.getD { sess := k, line := r.line, win := e, contrib := [], pois := 0, done := false, perf := false }
          if l.contrib.any (fun c => c.1 == idx) then (redCount s k false, .quota, none)
          else
            let l' := { l with contrib := insContrib (idx, r.data, r.mask) l.contrib, pois := l.pois ||| r.poison }
            let t := setRedLine (updWin s k e id) l'
            let sl := sliceOf s r.line
            if Config.redStore < poolHeld s (uRed + sl) (redUsed s sl) + (redUsed t sl - redUsed s sl) then
              (updWin (redCount s k false) k e (fun x => { x with last := .quota }), .quota, none)
            else (t, .ok, if q.n ≤ l'.contrib.length then some (k, e) else none)

/-- The combine begins (R304, R305): the line is marked, and a combine that falls short is noted. -/
def redBegin (s : State) (k line e : Nat) : State :=
  match redLineOf s k line e, tget s.hom.sessions k with
  | some l, some q =>
    if l.done then s else
    let t := setRedLine s { l with done := true }
    if l.contrib.length < q.n then
      updWin t k e (fun x => { x with short := satAdd 32 x.short 1, last := maxStatus x.last .partly })
    else t
  | _, _ => s

/-- The request that carries a combine to its place in the line's order (R302). -/
def redReq (s : State) (k line : Nat) : HomeReq :=
  let p := match tget s.hom.sessions k with
    | some q => q.part
    | none => 0
  { op := .atomic 0xB0, agent := 32 + s.cas.pos, origin := .relay, part := p, line := line, mask := BitVec.allOnes 128 }

/-- The combine of a line on a version of it: the new version and its poison, and the state with the combine performed. -/
def redExec (s : State) (line : Nat) (base : LineData) (pois : Nat) : State × LineData × Nat :=
  match s.hom.redLines.find? (fun r => r.line == line && r.done && !r.perf) with
  | none => (s, base, pois)
  | some l =>
    match tget s.hom.sessions l.sess with
    | none => (s, base, pois)
    | some q =>
      let m := l.contrib.foldl (fun m c => m ||| c.2.2) (0 : LineMask)
      let keepOld := !q.init
      let p := (List.range 8).foldl (fun n i =>
        let on := (someChunks m).testBit i
        let full := (fullChunks m).testBit i
        if (on && l.pois.testBit i) || (pois.testBit i && (keepOld || !full)) then n + 2 ^ i else n) 0
      (setRedLine s { l with perf := true, contrib := [] }, combineLine q base l.contrib, p)

/-- Every line of a window that received a contribution has its combine write performed, and no line can still receive one
(R306): its grace is over or every target line is combined. -/
def winReady (s : State) (k e : Nat) : Bool :=
  match tget s.hom.sessions k with
  | none => false
  | some q =>
    let ls := s.hom.redLines.filter (fun r => r.sess == k && r.win == e)
    s.hom.redWins.any (fun w => w.sess == k && w.win == e) && ls.all (fun r => r.perf) &&
    (btDue s (e + q.grace) || decide (q.lines ≤ ls.length))

end Sys2Proof.Machine
end

