-- ==== Sys2Proof/Machine/Aperture.lean ====
section
/-!
DEFINITION. Reads of the decode aperture: a line of a slot is decoded from the compressed ember that the slot shows (R395,
R396).
-/
namespace Sys2Proof.Machine
open Sys2Proof

/-- n bits of memory from a bit address up, as a number. -/
def memBits (s : State) (bit n : Nat) : Nat := bytesNat (rdBytes s (bit / 8) ((bit % 8 + n + 7) / 8)) / 2 ^ (bit % 8) % 2 ^ n

/-- Element i of a compressed ember at an NPA, decoded into its source format (R357, R395, R396), and its poison. -/
def emberElem (s : State) (h : Heat) (npa i : Nat) : Nat × Bool :=
  let ew := fmtWidth h.mxFmt
  let total := 2 ^ 22 * 8 / max 1 (fmtWidth h.srcFmt)
  let eb := npa * 8 + i * ew
  let sa := npa + total * ew / 8 + i / 32
  let pois := bytesPois s (eb / 8) ((eb % 8 + ew + 7) / 8) || bytesPois s sa 1
  ((cvt h.srcFmt .rne (mxDecode h.mxFmt (bytesNat (rdBytes s sa 1)) (memBits s eb ew))).code, pois)

/-- The bytes and poison of elements packed from byte 0 of a line. -/
def packElems (w : Nat) (l : List (Nat × Bool)) : LineData × Nat :=
  let d := (l.zipIdx).foldl (fun d e => d + e.1.1 * 2 ^ (w * e.2)) 0
  let p := (l.zipIdx).foldl (fun p e => if e.1.2 then p ||| (1 <<< (w * e.2 / 128)) else p) 0
  (BitVec.ofNat 1024 d, p)

/-- Line i of the page that a compressed ember holds, decoded (R396, R398). -/
def emberLine (s : State) (k : Nat) (h : Heat) (i : Nat) : LineData × Nat :=
  let w := fmtWidth h.srcFmt
  let n := 1024 / max 1 w
  packElems w ((List.range n).map (fun j => emberElem s h (s.tir.farBase.toNat + k * 2 ^ 19) (i * n + j)))

/-- The data of a line of the decode aperture and its poison, with DECODE_READS counted (R396, R642). -/
def apertureData (s : State) (line : Nat) : State × LineData × Nat :=
  if fenced s pTIR then (s, 0, 0xFF) else
  match apertureSlot s (line * 128) with
  | none => (s, 0, 0xFF)
  | some sl => match emberOfSlot s sl with
    | none => (s, 0, 0xFF)
    | some (k, h) =>
      let (d, p) := emberLine s k h (line % 32768)
      let t := count { s with tir := { s.tir with decodeReads := satAdd 48 s.tir.decodeReads 1 } } pTIR 4
      (if p ≠ 0 then raise t pTIR 3 else t, d, p)

end Sys2Proof.Machine
end

