-- ==== Sys2Proof/Machine/Home.lean ====
section
/-!
DEFINITION. The home of a line: its directory entry, the places of requests behind a Blocked line, snoops and their answers,
grants and the Wick hold, directory capacity, and the execution of writes and atomics at their place (R202 to R235, R254,
R255, R297, R547 to R549).
-/
namespace Sys2Proof.Machine
open Sys2Proof

/-! ## Agents and holders -/

/-- The host station of this block that names a host agent (R203). -/
def hostStation (s : State) (a : Nat) : Option Nat := [0, 1].find? (fun h => bitOf (hst s h).cfg 12 && fld (hst s h).cfg 11 8 == a)

/-- The agent may keep lines (R204): a host agent that a station names, the engine agent when CACHING is 1; the agents of other
blocks of the cascade are taken at their word (log entry 8). -/
def isCaching (s : State) (a : Nat) : Bool :=
  if a < 16 then (hostStation s a).isSome || decide (1 < blocks s)
  else if a < 24 then
    if a - 16 = s.cas.pos then bitOf s.eng.link.cfg 0 else decide (a - 16 < blocks s)
  else false

/-- Agents of a holder vector, ascending. -/
def vecAgents (v : BitVec 32) : List Nat := (List.range 32).filter (fun i => v.getLsbD i)

/-- A holder vector of agents. -/
def agentsVec (l : List Nat) : BitVec 32 := l.foldl (fun v a => if a < 32 then v ||| BitVec.ofNat 32 (1 <<< a) else v) 0

/-- Number that stands for a node's holders in the lists of a transaction. -/
def nodeAgent (n : Nat) : Nat := 64 + n

/-- The agent that holds a line as its owner: AGENT 63 stands for the node in pointer 0 (R547). -/
def ownerOf (e : DirEntry) (o : Nat) : Nat := if o = 63 then nodeAgent (e.remote.headD 0) else o

/-- Every holder that an entry lists (R206, R547). -/
def holders (e : DirEntry) : List Nat :=
  let rem := e.remote.map nodeAgent
  match e.st with
  | .unc => []
  | .shared v => vecAgents v ++ rem
  | .fwd f v => setIns (vecAgents v) f ++ rem
  | .owned o => [ownerOf e o]

/-- A directory state without a local agent. -/
def dropAgent (st : DirState) (a : Nat) : DirState :=
  let del := fun (v : BitVec 32) => v &&& ~~~ (BitVec.ofNat 32 (1 <<< a))
  match st with
  | .unc => .unc
  | .shared v => if del v = 0 then .unc else .shared (del v)
  | .fwd f v => if f = a then (if del v = 0 then .unc else .shared (del v)) else .fwd f (del v)
  | .owned o => if o = a then .unc else .owned o

/-- An entry without a holder, local or remote. -/
def dropHolder (e : DirEntry) (a : Nat) : DirEntry :=
  if 64 ≤ a then
    let rem := e.remote.filter (fun n => n != a - 64)
    match e.st with
    | .owned 63 => if rem.isEmpty then {} else { e with remote := rem }
    | .shared v => if v = 0 ∧ rem.isEmpty then {} else { e with remote := rem }
    | _ => { e with remote := rem }
  else
    let st := dropAgent e.st a
    if st = .unc then (if e.remote.isEmpty then {} else { e with st := .shared 0 }) else { e with st := st }

/-- The directory entry of a line. -/
def dirOf (s : State) (line : Nat) : DirEntry := tget s.hom.dir line

/-- Home and set of a line in the directory: the home as one number, and the set of R231 in its slice. -/
def dirSet (s : State) (line : Nat) : Nat × Nat :=
  (homeNo s line, ((line % 65536) ^^^ (line / 65536 % 65536) ^^^ (line / 2 ^ 32 % 128)) % (s.build.dirMi * 8192))

/-- The way, plus 1, that a line takes in its set: the one it has, else the lowest free one (R232). -/
def wayFor (s : State) (line : Nat) : Nat :=
  if tget s.hom.dirWay line ≠ 0 then tget s.hom.dirWay line
  else
    let used := (s.hom.dirLru.filter (fun l => dirSet s l == dirSet s line)).map (fun l => tget s.hom.dirWay l)
    ((List.range 16).find? (fun w => !used.contains (w + 1))).getD 0 + 1

/-- The directory entry of a line set, and the line made most recently used; an Uncached line has no entry. -/
def setDir (s : State) (line : Nat) (e : DirEntry) : State :=
  let e := if e.st == .unc then {} else e
  let lru := s.hom.dirLru.filter (fun l => l != line)
  let way := if e = {} then 0 else wayFor s line
  { s with hom := { s.hom with dir := tset s.hom.dir line e, dirLru := if e = {} then lru else line :: lru, dirWay := tset s.hom.dirWay line way } }

/-- The transaction that blocks a line. -/
def txnOf (s : State) (line : Nat) : Option Txn := tget s.hom.txns line

/-- A state with the transaction of a line set. -/
def setTxn (s : State) (line : Nat) (t : Option Txn) : State := { s with hom := { s.hom with txns := tset s.hom.txns line t } }

/-- A Wick hold of an agent on a line runs (R219). -/
def wickOn (s : State) (line a : Nat) : Bool :=
  let (w, e) := tget s.hom.wick line
  w == a + 1 && decide (s.clk.cyc < e)

/-- WICK in cyc, kept between 16 and 4,096 (R219, R246). -/
def wickLen (s : State) : Nat := clamp 16 4096 (fld s.hom.wickCfg 12 0)

/-- SNOOP_CFG[DEADLINE] in cyc, at least 1,024 (R223). -/
def snoopDeadline (s : State) : Nat := max 1024 (fld s.hom.snoopCfg 19 0)

/-- SPN.REMOTE_CFG[RSNOOP] with its limit (R550). -/
def remSnoopDeadline (s : State) : Nat := max 1024 (fld s.spn.remoteCfg 39 16)

/-- Cycle of the deadline of a snoop that is sent now to an agent or a node (R223, R246, R550). -/
def snoopDue (s : State) (a : Nat) : Nat := s.clk.cyc + if 64 ≤ a then remSnoopDeadline s else snoopDeadline s

/-- A win starts a Wick hold (R219, R221). -/
def startWick (s : State) (line a : Nat) : State :=
  { s with hom := { s.hom with wick := tset s.hom.wick line (a + 1, s.clk.cyc + wickLen s) } }

/-! ## Heat and the dirty map -/

/-- The heat window has ended (R105, R379). -/
def heatDue (s : State) : Bool :=
  let w := max 1 (fld s.tir.winNow 31 0)
  s.build.tir && !fenced s pTIR && bt s / w != s.tir.heatAt.toNat / w

/-- A request is counted in the heat window that its stamp lies in (R104, R378): in the next one, once the current one has ended. -/
def heatBump (ended wr : Bool) (h : Heat) : Heat :=
  if ended then { h with wnext := min 0xFFFF (h.wnext + 1), wroteNext := h.wroteNext || wr }
  else { h with wcount := min 0xFFFF (h.wcount + 1), wrote := h.wrote || wr }

/-- A request on a line of an enrolled near frame or an ember is counted (R378), unless the tiering engine is fenced (R642);
a write sets WROTE and the line's bit in the dirty map of a move that copies from it (R389). -/
def heatTouch (s : State) (line : Nat) (wr : Bool) : State :=
  if !s.build.tir || fenced s pTIR then s else
  let npa := line * 128
  let bump := heatBump (heatDue s) wr
  match nearFrame s npa with
  | some f =>
    let t := if tracked (tget s.tir.frames f).st then { s with tir := { s.tir with frames := tupd s.tir.frames f bump } } else s
    if !wr then t else
      let mark := fun (m : Option TierMove) => m.map (fun m =>
        if !m.fromFar && m.src == f && !m.lossy then { m with dirty := setIns m.dirty (line % 32768) } else m)
      { t with tir := { t.tir with moves := t.tir.moves.map (fun e => (e.1, mark e.2)) } }
  | none => match farUnit s npa with
    | none => s
    | some u => match emberOf s u with
      | none => s
      | some (k, _) =>
        let t := { s with tir := { s.tir with embers := s.tir.embers.map (fun e => if e.1 == k then (e.1, bump e.2) else e) } }
        if !wr then t else
          let off := (npa - s.tir.farBase.toNat) / 128 - k * 4096
          let mark := fun (m : Option TierMove) => m.map (fun m =>
            if m.fromFar && m.src == k && !m.lossy then { m with dirty := setIns m.dirty off } else m)
          { t with tir := { t.tir with moves := t.tir.moves.map (fun e => (e.1, mark e.2)) } }

/-! ## Snoops -/

/-- The snoops that a request needs on a line in a directory state (the table of R212, with R213). -/
def snoopsFor (op : HomeOp) (e : DirEntry) (req : Nat) (fwdEn : Bool) : List (Nat × SnpOp) :=
  let others := (holders e).filter (fun a => a != req)
  match op, e.st with
  | _, .unc => []
  | .rdShared, .fwd f _ => if fwdEn && f != req then [(f, .fwdShr)] else []
  | .rdShared, .owned o => [(ownerOf e o, .fwdShr)]
  | .rdShared, .shared _ => []
  | .rdOwn, .shared _ => others.map (fun a => (a, .inv))
  | .rdOwn, .fwd f _ => others.map (fun a => (a, if a = f && fwdEn then .fwdOwn else .inv))
  | .rdOwn, .owned o => [(ownerOf e o, .fwdOwn)]
  | .upgrade, _ => others.map (fun a => (a, .inv))
  | .rdOnce, .owned o => [(ownerOf e o, .fwdOnce)]
  | .rdOnce, _ => []
  | .wrFull, _ => (holders e).map (fun a => (a, .inv))
  | .wrStash, _ => (holders e).map (fun a => (a, .inv))
  | .wrPart, .owned o => [(ownerOf e o, .invData)]
  | .wrPart, _ => (holders e).map (fun a => (a, .inv))
  | .atomic _, .owned o => [(ownerOf e o, .invData)]
  | .atomic _, _ => (holders e).map (fun a => (a, .inv))

/-- The other block through which a message reaches an agent: the engine agent's own block, or the lowest-positioned block known to
have a station for a host agent that no station of this block names (R203, log entry 8). -/
def agentBlock (s : State) (a : Nat) : Option Nat :=
  if 16 ≤ a then (if a < 24 ∧ a - 16 ≠ s.cas.pos ∧ a - 16 < blocks s then some (a - 16) else none)
  else if (hostStation s a).isSome then none
  else (s.cas.hostAt.filter (fun x => x.1 == a)).foldl (fun (m : Option Nat) x => some (min x.2 (m.getD x.2))) none

/-- A message of the package protocol to another block of the cascade (R509). -/
def casTo (s : State) (dst cls line bytes : Nat) (l : CasLoad) : State :=
  casSend s { src := s.cas.pos, dst := dst, cls := cls, line := some line, bytes := bytes, load := l }

/-- A snoop is sent: to a node over the span (R550), over the cascade to the block of the agent's station (R203), else to the agent. -/
def sendSnoop (s : State) (line : Nat) (x : Nat × SnpOp) (dest tag : Nat) : State :=
  if 64 ≤ x.1 then toNode s (x.1 - 64) (.snp (x.1 - 64) line x.2)
  else match agentBlock s x.1 with
    | some b => casTo s b 2 line 16 (.snp x.1 x.2 line dest tag)
    | none => emit s (.snp x.1 x.2 line dest tag)

/-- COMP of an eviction goes to the agent that sent it. -/
def sendWbComp (s : State) (a tag line : Nat) : State :=
  match agentBlock s a with
  | some b => casTo s b 3 line 16 (.wbComp a tag)
  | none => emit s (.wbComp a tag)

/-- STASH_DATA goes to its target (R229). -/
def sendStash (s : State) (a line : Nat) (d : LineData) (p : Nat) : State :=
  match agentBlock s a with
  | some b => casTo s b 4 line 144 (.stash a line d p)
  | none => emit s (.stash a line d p)

/-- The snoops of a transaction: those to an agent under its Wick hold wait, the others are sent now (R219). -/
def sendSnoops (s : State) (line dest tag : Nat) (l : List (Nat × SnpOp)) : State × List (Nat × SnpOp × Nat) × List (Nat × SnpOp) :=
  let later := l.filter (fun x => wickOn s line x.1)
  let nowL := l.filter (fun x => !wickOn s line x.1)
  let t := nowL.foldl (fun u x => sendSnoop u line x dest tag) s
  let t := if later.isEmpty then t
    else count { t with hom := { t.hom with wickDelays := satAdd 32 t.hom.wickDelays later.length } } pHOM 1 0x3FF (sliceOf t line) later.length
  (t, nowL.map (fun x => (x.1, x.2, snoopDue t x.1)), later)

/-! ## Execution at the home -/

/-- The partition of this package that a request counts for; a request of another package counts for none (R512, R544). -/
def homePart (r : HomeReq) : Nat := if r.node.isSome then 0x3FF else r.part


/-- A poisoned read is logged against the line's owner (R637). -/
def logPoison (s : State) (line pois : Nat) : State :=
  if pois = 0 then s else logErr s .ueData .poison pHOM (sliceOf s line) ((layoutOwner s (line * 128)).getD 0) (some (line * 128))

/-- A line of an atomic line buffer is written back through its memory port (R297, R644). -/
def aluBack (s : State) (line : Nat) : State := mpWrite { s with hom := { s.hom with aluLines := s.hom.aluLines.erase line } } line (oldLine s line)

/-- The line is one of its slice's atomic line buffer of 64, most recently used; the line that leaves the buffer for it is written back
through its memory port (R297). -/
def aluTouch (s : State) (line : Nat) : State :=
  let l := line :: s.hom.aluLines.filter (fun x => x != line)
  let mine := l.filter (fun x => sliceOf s x == sliceOf s line)
  let t := { s with hom := { s.hom with aluLines := l } }
  if 64 < mine.length then aluBack t (mine.getLastD line) else t

/-- DET_MODE[STRICT_FP] refuses FETCH_ADD and RED_ADD in the floating-point formats 0x8 to 0xC (R608). -/
def strictRefused (s : State) (aop : Nat) : Bool :=
  bitOf s.det.mode 0 && (aopOp aop == 2 || aopOp aop == 8) && decide (8 ≤ aopFmt aop) && decide (aopFmt aop ≤ 0xC)

/-- The data comes from memory through a port of this block: what the controller returns poisoned is logged there (R694). -/
def viaPort (s : State) (line : Nat) (fromMem : Bool) : Bool :=
  fromMem && !s.hom.aluLines.contains line && (portOf s line).any (fun x => x.1 == s.cas.pos)

/-- A poisoned read is logged once: by the memory port that returns the data, else by the home (R637, R694). -/
def logRead (s : State) (line pois : Nat) (fromMem : Bool) : State := if viaPort s line fromMem then s else logPoison s line pois

/-- An atomic executes on a version of its line (R255, R285 to R297): the state with the next version written, and the answers
of the operation. What it updates stays in the atomic line buffer, in front of memory. -/
def execAtomic (s : State) (r : HomeReq) (aop : Nat) (base : LineData) (pois : Nat) (fromMem : Bool) : State × List Answer :=
  let op := aopOp aop
  let comp := fun (st : Status) => ansOf r .comp st 0 0
  if op = 0xB then
    let (t, d, p) := redExec s r.line base pois
    (storeLine t r.line d p, [comp .ok])
  else
    match (if strictRefused s aop then some .permission else aopRefused aop r.mask pois) with
    | some st =>
      if aopReturns aop then
        let bad := if st == .poison then someChunks r.mask &&& pois else 0
        (if st == .poison then logRead s r.line bad fromMem else s,
         [ansOf r .dataOnce st (if st == .ok then maskedLine base r.mask else 0) bad, comp st])
      else (if st == .poison then logPoison s r.line (someChunks r.mask &&& pois) else s, [comp st])
    | none =>
      let s := aluTouch (tenant s (homePart r) 5) r.line
      let prior := ansOf r .dataOnce .ok (maskedLine base r.mask) 0
      if op = 0xE then
        match elems r.mask 8 with
        | [p] =>
          -- the record is the version at this place: written through first when a cache held it dirty
          let t := if rdLine s r.line = base then s else wrLine s r.line base pois
          let (t, st) := fenceSigAt t r.line p (w64 (elemAt r.data 8 p)) r.ctx.isNone r.part
          (t, [comp st])
        | _ => (s, [comp .permission])
      else if op = 0xC ∨ op = 0xD then
        match elems r.mask 8 with
        | [p] =>
          let (st, v) := lockOp (op = 0xC) (elemAt base 8 p) (elemAt r.data 8 p)
          (wrLine s r.line (setElem base 8 p v) pois, [{ prior with status := st }, comp st])
        | _ => (s, [comp .permission])
      else
        let d := elemsOp op (aopFmt aop) base r.data r.mask
        let t := wrLine s r.line d (mergePois pois r.poison r.mask)
        (t, if aopReturns aop then [prior, comp .ok] else [comp .ok])

/-- STASH_MASK of the line's partition names the target of a request (R228): the requester's own partition, and for a request of
another package the partition that owns the line. It is judged when the request is placed (R246). -/
def stashAllowed (s : State) (r : HomeReq) : Bool :=
  let p := if r.node.isSome then (layoutOwner s (r.line * 128)).getD 0 else r.part
  decide (r.stash ≠ 0) && bitOf (tget s.hom.stashMask p) (r.stash - 1)

/-- The stash target of a placed request as an agent, when it is honoured (R228). -/
def stashAgent (s : State) (r : HomeReq) : Option Nat :=
  if r.stash = 0 ∨ 24 < r.stash then none
  else
    let a := r.stash - 1
    let up := if a < 16 then (match hostStation s a with
                | some h => hostUp s h
                | none => decide (1 < blocks s))
              else if a - 16 = s.cas.pos then s.eng.link.st == 2 else decide (a - 16 < blocks s)
    if bitOf s.hom.cfg 1 && isCaching s a && up then some a else none

/-- A stash target that is not honoured or declines (R228, R229, R247). -/
def stashDrop (s : State) (line : Nat) : State :=
  let t := count { s with hom := { s.hom with stashDropped := satAdd 32 s.hom.stashDropped 1 } } pHOM 3 0x3FF (sliceOf s line)
  if s.hom.stashDropped = 0 then raise t pHOM 2 else t

/-- The data and poison a transaction works on: what a holder supplied, else memory. -/
def txnLine (s : State) (line : Nat) (t : Txn) : LineData × Nat :=
  match t.data with
  | some d => (d, t.poison)
  | none => (rdLine s line, linePois s line)

/-- The answers go out: straight away when a holder supplied the data or none is needed, else with the memory read (R690). -/
def answer (s : State) (line : Nat) (fromMem : Bool) (as : List Answer) : State :=
  if fromMem && !s.hom.aluLines.contains line then viaMemory s line as else deliverAll s as

/-- A data answer, its status POISON when a chunk is poisoned (R637). -/
def dataAns (r : HomeReq) (k : AnsKind) (d : LineData) (p : Nat) : Answer :=
  ansOf r k (if p = 0 then .ok else .poison) d p

/-- The kind of a requester's record in the directory: a local agent's number, or 63 for another node (R547). -/
def reqAgent (r : HomeReq) : Nat := if r.node.isSome then 63 else r.agent

/-- The directory entry that a grant to a requester sets (R212, R547). -/
def grantEntry (old : DirEntry) (st : DirState) (r : HomeReq) : DirEntry :=
  match r.node with
  | none => { old with st := st, remote := match st with
      | .owned _ => []
      | _ => old.remote }
  | some n => { old with st := st, remote := match st with
      | .owned _ => [n]
      | _ => setIns old.remote n }

/-- A transaction whose grant has been sent waits for the ACK (R210). -/
def grantTxn (s : State) (line : Nat) (t : Txn) (r : HomeReq) (st : DirState) (win : Bool) : State :=
  setTxn s line (some { t with grant := st, ackFrom := some (r.agent, r.tag), win := win })

/-- The end of a transaction that serves a request, once every answer it awaits is in (R210, R212, R214). The answers are sent,
and either the grant waits for its ACK or the line is freed. -/
def finishServe (s : State) (line : Nat) (t : Txn) (r : HomeReq) : State :=
  let e := { dirOf s line with st := t.old }
  if t.status ≠ .ok then setTxn (setDir (refuseReq s r t.status) line e) line none else
  let free := fun (u : State) (e' : DirEntry) => setTxn (setDir u line e') line none
  let memD := (rdLine s line, linePois s line)
  let read := fun (u : State) (fromMem : Bool) => tenant (logRead u line (txnLine s line t).2 fromMem) (homePart r) 3
  match r.op with
  | .rdShared =>
    let others := match t.old with
      | .shared v => v
      | .fwd f v => v ||| agentsVec [f]
      | .owned o => agentsVec [o]
      | .unc => 0
    if r.node.isSome then
      -- another node receives S, or CE when no one holds the line (R547)
      if t.old = .unc then
        let (d, p) := txnLine s line t
        grantTxn (answer (read s t.data.isNone) line t.data.isNone [dataAns r .dataCE d p]) line t r (.owned 63) true
      else
        let (d, p) := txnLine s line t
        grantTxn (answer (read s t.data.isNone) line t.data.isNone [dataAns r .dataF d p]) line t r (.shared others) false
    else if t.fwded then
      let (d, p) := txnLine s line t
      grantTxn (answer (read s false) line false [dataAns r .dataF d p]) line t r (.fwd r.agent (others ||| agentsVec [r.agent])) false
    else if t.old = .unc then
      let (d, p) := txnLine s line t
      grantTxn (answer (read s t.data.isNone) line t.data.isNone [dataAns r .dataCE d p]) line t r (.owned r.agent) true
    else
      grantTxn (answer (read s true) line true [dataAns r .dataF memD.1 memD.2]) line t r (.fwd r.agent (others ||| agentsVec [r.agent])) false
  | .rdOwn =>
    let (d, p) := txnLine s line t
    let k := if t.data.isSome && t.dirty then AnsKind.dataDE else .dataCE
    grantTxn (answer (read s t.data.isNone) line t.data.isNone [dataAns r k d p]) line t r (.owned (reqAgent r)) true
  | .upgrade => grantTxn (answer s line false [ansOf r .comp .ok 0 0]) line t r (.owned (reqAgent r)) true
  | .rdOnce =>
    let (d, p) := txnLine s line t
    free (answer (read s t.data.isNone) line t.data.isNone [dataAns r .dataOnce d p]) e
  | .wrFull => free (answer (tenant (storeLine s line r.data r.poison) (homePart r) 4) line false [ansOf r .comp .ok 0 0]) {}
  | .wrPart =>
    let (d, p) := txnLine s line t
    let u := tenant (storeLine s line (mergeLine d r.data r.mask) (mergePois p r.poison r.mask)) (homePart r) 4
    free (answer u line false [ansOf r .comp .ok 0 0]) {}
  | .atomic aop =>
    let (d, p) := txnLine s line t
    let (u, as) := execAtomic s r aop d p (aopReturns aop && t.data.isNone)
    free (answer u line (aopReturns aop && t.data.isNone) as) {}
  | .wrStash =>
    let u := answer (tenant (storeLine s line r.data r.poison) (homePart r) 4) line false [ansOf r .comp .ok 0 0]
    match stashAgent s r with
    | none => free (stashDrop u line) {}
    | some a =>
      let u := sendStash (setDir u line {}) a line r.data r.poison
      setTxn u line (some { req := some r, kind := .stash a, await := [(a, .inv, snoopDue s a)] })

/-- A back-invalidation or purge ends: returned dirty data goes to memory and the entry is freed (R232). -/
def finishBack (s : State) (line : Nat) (t : Txn) : State :=
  let u := match t.data with
    | some d => if t.dirty && (t.kind == .backinv || t.kind == .remoteInv) then storeLine s line d t.poison else s
    | none => s
  setTxn (setDir u line (if t.kind == .remoteInv then dirOf u line else {})) line none

/-- The rest of a transaction whose requester is gone ends: holders that an answer did not remove keep the line (R206, R250). -/
def finishLost (s : State) (line : Nat) (t : Txn) : State := setTxn (setDir s line { dirOf s line with st := t.old }) line none

/-- A transaction all of whose answers are in ends. -/
def settle (s : State) (line : Nat) : State :=
  match txnOf s line with
  | none => s
  | some t =>
    if !t.await.isEmpty || !t.later.isEmpty || !t.need.isEmpty || t.ackFrom.isSome then s
    else match t.kind, t.req with
      | .serve, some r => finishServe s line t r
      | .stash _, _ => setTxn s line none
      | .lost, _ => finishLost s line t
      | _, _ => finishBack s line t

/-! ## Places and capacity -/

/-- The request leaves its line with an entry: a grant, or a stash that may be accepted (R229, R232). -/
def needsWay (s : State) (r : HomeReq) : Bool :=
  r.op == .rdShared || r.op == .rdOwn || r.op == .upgrade || (r.op == .wrStash && (stashAgent s r).isSome)

/-- Lines that hold a way of a line's set: lines with an entry, and lines whose grant or stash offer is on its way. -/
def setLines (s : State) (line : Nat) : List Nat :=
  let d := dirSet s line
  let a := s.hom.dirLru.filter (fun l => dirSet s l == d)
  let b := (tsome s.hom.txns).filterMap (fun e =>
    if dirSet s e.1 == d && !a.contains e.1 && (e.2.req.any (needsWay s)) then some e.1 else none)
  a ++ b

/-- The fill of a request may evict a directory way (R585). -/
def mayEvictDir (s : State) (p line : Nat) : Bool :=
  let o := (layoutOwner s (line * 128)).getD 0
  o == p || (!isSealed s o && !isSealed s p)

/-- What capacity says of a request that needs a new entry (R232, R233, R585). -/
inductive Room where
  /-- a way is free, or the line has its entry -/
  | ok
  /-- the victim's line is back-invalidated first -/
  | evict (line : Nat)
  /-- every eligible way is Blocked or under a Wick hold -/
  | wait
  /-- no way is eligible: served without a grant -/
  | refuse
deriving DecidableEq, Repr, Inhabited

/-- Room for a line's entry. -/
def roomFor (s : State) (r : HomeReq) : Room :=
  let l := setLines s r.line
  if dirOf s r.line != {} || l.length < Config.dirWays then .ok
  else
    let el := l.filter (mayEvictDir s r.part)
    if el.isEmpty then .refuse
    else if (tsome s.hom.txns).any (fun e => e.2.kind == .backinv && dirSet s e.1 == dirSet s r.line) then .wait
    else match el.reverse.find? (fun v => (txnOf s v).isNone && !(match tget s.hom.wick v with
        | (w, e) => w != 0 && decide (s.clk.cyc < e))) with
      | some v => .evict v
      | none => .wait

/-- A line's transaction is opened for a back-invalidation or purge of all its holders. -/
def openBack (s : State) (line : Nat) (kind : TxnKind) (op : SnpOp) : State :=
  let e := dirOf s line
  let (t, aw, later) := sendSnoops s line (32 + s.cas.pos) 0 ((holders e).map (fun a => (a, op)))
  settle (setTxn t line (some { kind := kind, await := aw, later := later, old := e.st })) line

/-- A line's transaction is opened for a purge of all its holders: SNP_INV, or SNP_BACKINV to another node (R571, R577). -/
def openPurge (s : State) (line : Nat) : State :=
  let e := dirOf s line
  let (t, aw, later) := sendSnoops s line (32 + s.cas.pos) 0 ((holders e).map (fun a => (a, if 64 ≤ a then SnpOp.backinv else .inv)))
  settle (setTxn t line (some { kind := .purge, await := aw, later := later, old := e.st })) line

/-- The copies of a line that nodes hold are back-invalidated, and the entry keeps the agents of this package (R546). -/
def openRemoteInv (s : State) (line : Nat) (gone : Nat → Bool) : State :=
  let e := dirOf s line
  let out := e.remote.filter gone
  let e' := out.foldl (fun x n => dropHolder x (nodeAgent n)) e
  let (t, aw, later) := sendSnoops (setDir s line e') line (32 + s.cas.pos) 0 (out.map (fun n => (nodeAgent n, SnpOp.backinv)))
  settle (setTxn t line (some { kind := .remoteInv, await := aw, later := later, old := e'.st })) line

/-- BACK_INVALIDATION of a victim (R232). -/
def backInv (s : State) (line : Nat) : State :=
  let t := count { s with hom := { s.hom with backinvTotal := satAdd 32 s.hom.backinvTotal 1 } } pHOM 0 0x3FF (sliceOf s line)
  openBack t line .backinv .backinv

/-- A window of the table covers a line for a node and partition (R544, R545). -/
def windowFor (s : State) (line node p : Nat) : Option (Nat × Window) :=
  s.hom.windows.find? (fun e =>
    let w := e.2.w0
    bitOf w 0 && (bitOf w 26 || fld w 42 27 == node) && (bitOf w 25 || fld w 24 15 == p) &&
    decide (fld e.2.w1 47 24 * 32768 ≤ line) && decide (line < (fld e.2.w1 47 24 + fld e.2.w1 23 0) * 32768))

/-- The operation as the home serves it: a non-caching requester's read is RD_ONCE (R204); a node gets a grant only in a
coherent window, while RUNCACHED is 0 and a pointer is its own or free (R547, R549). -/
def servedOp (s : State) (r : HomeReq) : HomeOp :=
  let grants := r.op == .rdShared || r.op == .rdOwn || r.op == .upgrade
  if !grants then r.op else
  match r.node with
  | none => if isCaching s r.agent then r.op else .rdOnce
  | some n =>
    let e := dirOf s r.line
    let coh := match windowFor s r.line n r.part with
      | some (_, w) => bitOf w.w0 1
      | none => false
    if s.build.cwin && coh && !e.runcached && (e.remote.contains n || e.remote.length < 4) then r.op else .rdOnce

/-- The request would need a fifth pointer (R548). -/
def fifthPointer (s : State) (r : HomeReq) : Bool :=
  match r.node with
  | none => false
  | some n =>
    let e := dirOf s r.line
    let coh := match windowFor s r.line n r.part with
      | some (_, w) => bitOf w.w0 1
      | none => false
    (r.op == .rdShared || r.op == .rdOwn || r.op == .upgrade) && coh && !e.runcached && !e.remote.contains n && e.remote.length == 4

/-- UPGRADE of a requester that the entry does not list is served as RD_OWN (R212). -/
def upgradeOp (e : DirEntry) (op : HomeOp) (req : Nat) : HomeOp :=
  if op = .upgrade then
    match e.st with
    | .shared _ => if (holders e).contains req then .upgrade else .rdOwn
    | .fwd _ _ => if (holders e).contains req then .upgrade else .rdOwn
    | _ => .rdOwn
  else op

/-- The requester's number in holder lists. -/
def holderNo (r : HomeReq) : Nat := match r.node with
  | none => r.agent
  | some n => nodeAgent n

/-- A request at the head of its line's order is served (R209, R212): without blocking when it needs no snoop and grants
nothing, else under a transaction. The line is not Blocked, and room for a grant has been found. -/
def serve (s : State) (r : HomeReq) : State :=
  let line := r.line
  let e := dirOf s line
  let five := fifthPointer s r
  let op := upgradeOp e (servedOp s r) (holderNo r)
  let snp0 := if five then e.remote.map (fun n => (nodeAgent n, if e.st == .owned 63 then SnpOp.invData else .inv)) else []
  let e := if five then { e with remote := [], runcached := true, st := if e.st == .owned 63 then .shared 0 else e.st } else e
  let s := if five then
      let t := count { s with hom := { s.hom with remoteUncached := satAdd 32 s.hom.remoteUncached 1 } } pHOM 6 r.part (sliceOf s line)
      { t with hom := { t.hom with dir := tset t.hom.dir line e } }
    else s
  let r := { r with op := op }
  let wr := match op with
    | .wrFull | .wrPart | .wrStash | .atomic _ => true
    | _ => false
  let s := heatTouch s line wr
  let (t, aw, later) := sendSnoops s line (if r.node.isSome || !isCaching s r.agent then 32 + s.cas.pos else r.agent) r.tag
    (snp0 ++ snoopsFor op e (holderNo r) (bitOf s.hom.cfg 0))
  settle (setTxn t line (some { req := some r, kind := .serve, await := aw, later := later, old := e.st })) line

/-- The station pool a request's tracker belongs to (R208): 0, 1 host stations, 2 engine station, 3 to 6 cascade ports; none
for the shared pool alone. -/
def trackerPool (s : State) (r : HomeReq) : Option Nat :=
  match r.origin with
  | .host h => some h
  | .eng _ _ => some 2
  | .cascade p => some (3 + p)
  | .block b _ => (casPort s b).map (fun p => 3 + p)
  | _ => none

/-- Requests that hold trackers of a home, given as one number (R207). -/
def inTrackers (s : State) (home : Nat) : List HomeReq :=
  (s.hom.waiters.flatMap (fun e => e.2) ++ (tsome s.hom.txns).filterMap (fun e => e.2.req)).filter (fun r => homeNo s r.line == home)

/-- SPN.INGRESS_CFG[CAP] with its limits (R512). -/
def ingressCap (s : State) : Nat := clamp 8 512 (fld s.spn.ingressCfg 9 0)

/-- A request that came from the span. -/
def isIngress (r : HomeReq) : Bool :=
  match r.origin with
  | .span _ => true
  | _ => false

/-- A slice may admit a request: the event tick's slot is one for its partition's work (R584), and a tracker is free for it (R208): one of
its station's own 8, or one of the 456 shared ones; a sealed partition uses 16 trackers reserved to it and no other (R584). -/
def trackerFree (s : State) (r : HomeReq) : Bool :=
  let l := inTrackers s (homeNo s r.line)
  slotOpen s (homePart r) (frameTick s) &&
  if isSealed s (homePart r) then decide ((l.filter (fun x => homePart x == homePart r)).length < 16)
  else
    let l := l.filter (fun x => !isSealed s (homePart x))
    let held := fun (p : Nat) => (l.filter (fun x => trackerPool s x == some p)).length
    let own := match trackerPool s r with
      | some p => decide (held p < 8)
      | none => false
    let cap := match r.origin with
      | .span _ => decide ((l.filter isIngress).length < ingressCap s)
      | _ => true
    let shared := (l.filter (fun x => (trackerPool s x).isNone)).length + ((List.range 7).map (fun p => held p - 8)).sum
    cap && (own || decide (shared < Config.trackers - 56 - 16 * s.sec.sealed.length))

/-- A request may take a tracker: one is free, and no request to its line waits for one before it (R207, R256). -/
def trackerMay (s : State) (r : HomeReq) : Bool :=
  trackerFree s r && !(s.hom.setWait.takeWhile (fun x => x != r)).any (fun x => x.line == r.line)

/-- The class of a request in slice admission: of a sealed partition in its slot, below its share, one with a latency target and PRIO 0b11,
and the rest (R584, R587, R588). -/
def admitClass (s : State) (r : HomeReq) : Nat :=
  let p := homePart r
  if isSealed s p then 0 else if belowSlice s p then 1 else if r.prio = 3 ∧ tget s.sec.latEt p ≠ 0 then 2 else 3

/-- Requests in the order in which a slice admits them: by class, and within a class as they came. -/
def admitOrder (s : State) (l : List HomeReq) : List HomeReq := (List.range 4).flatMap (fun c => l.filter (fun r => admitClass s r == c))

/-- The home that serves a line is of a slice of this block that is being rebalanced, or of a block that was lost and whose homes
have not moved yet: it answers POISON (R643, R644). -/
def sliceDown (s : State) (line : Nat) : Bool :=
  let (b, sl) := homeOf s line
  if b = s.cas.pos then s.ras.rebal.head? == some sl else s.ras.rebal.contains (8 + b)

/-- A page move that switches holds every request to a line of its destination until its withdrawal completes and its last lines
are copied (R390, R391). -/
def moveHolds (s : State) (line : Nat) : Bool :=
  (tsome s.tir.moves).any (fun e =>
    let m := e.2
    m.step == .withdraw &&
    (if m.fromFar then nearFrame s (line * 128) == some m.dst
     else (farUnit s (line * 128)).any (fun u => decide (m.dst ≤ u) && decide (u < m.dst + 8))))

/-- A request whose turn has come: refused when its line has no memory, answered POISON behind a fenced port, or served. None
when it must wait for a directory way (R232, R233). -/
def tryServe (s : State) (r : HomeReq) : Option State :=
  if sliceDown s r.line then some (refuseReq s r .poison)
  else if (apertureSlot s (r.line * 128)).isSome && r.op == .rdOnce then
    let (t, d, p) := apertureData s r.line
    some (deliverAll (tenant (logPoison t r.line p) (homePart r) 3) [dataAns r .dataOnce d p])
  else
    let st := memStatus s r.line
    if st != .ok then some (refuseReq s r st)
    else
      let op := upgradeOp (dirOf s r.line) (servedOp s r) (holderNo r)
      if needsWay s { r with op := op } then
        match roomFor s r with
        | .ok => some (serve s r)
        | .refuse => some (serve s (if r.op == .wrStash then { r with stash := 0 } else { r with op := .rdOnce }))
        | .evict _ => none
        | .wait => none
      else some (serve s r)

/-- Requests behind a line that is no longer Blocked are served in their places (R207). -/
def drain : Nat → State → Nat → State
  | 0, s, _ => s
  | n + 1, s, line =>
    if (txnOf s line).isSome || moveHolds s line then s
    else match tget s.hom.waiters line with
      | [] => s
      | r :: t =>
        match tryServe s r with
        | some u => drain n { u with hom := { u.hom with waiters := tset u.hom.waiters line t } } line
        | none =>
          -- the head waits for a directory way: a victim is back-invalidated when one is eligible
          match roomFor s r with
          | .evict v => backInv s v
          | _ => s

/-- A request takes its place on its line (R207). -/
def place1 (s : State) (r : HomeReq) : State :=
  let w := tget s.hom.waiters r.line
  drain (w.length + 1) { s with hom := { s.hom with waiters := tset s.hom.waiters r.line (w ++ [r]) } } r.line

/-- Bytes of a request's slots (R244): its header, and its data with the byte mask that a partial write or an atomic carries. -/
def reqBytes (r : HomeReq) : Nat :=
  match r.op with
  | .wrFull | .wrStash => 144
  | .wrPart | .atomic _ => 160
  | _ => 16

/-- The credits of a request that took its tracker, and of the data with it, go back to the station's partner (R208, R239). -/
def reqConsumed (s : State) (r : HomeReq) : State :=
  match r.origin with
  | .host h =>
    let t := consume s (pHST0 + h) 0
    if 16 < reqBytes r then consume t (pHST0 + h) 4 else t
  | _ => s

/-- A slice admits a request: it takes a tracker and its place (R207, R208). -/
def admitReq (s : State) (r : HomeReq) : State := reqConsumed (place1 (countAdmit s (homePart r)) r) r

/-- Lines whose head waits although the line is not Blocked are tried again, and requests that wait for a tracker take one. -/
def retry (s : State) : State :=
  let t := s.hom.waiters.foldl (fun u e => if (txnOf u e.1).isNone then drain (e.2.length + 1) u e.1 else u) s
  (admitOrder t t.hom.setWait).foldl (fun u r =>
    if u.hom.setWait.contains r && trackerMay u r then admitReq { u with hom := { u.hom with setWait := u.hom.setWait.erase r } } r else u) t

/-- After a transaction on a line ended: its waiters are served and others that waited for a way or a tracker are tried. -/
def afterLine (s : State) (line : Nat) : State :=
  retry (drain ((tget s.hom.waiters line).length + 1) s line)

/-- A RED_ORD contribution is stored or refused at its slice; the N-th one begins the combine of its line (R302, R304). -/
def placeRed (s : State) (r : HomeReq) : State :=
  let (t, st, full) := redStore s r
  let t := deliverAll (if st == .ok && r.mask != 0 then tenant t (homePart r) 5 else t) [ansOf r .comp st 0 0]
  match full with
  | none => t
  | some (k, e) => place1 (redBegin t k r.line e) (redReq t k r.line)

/-- A request to a line homed in another block goes there over the cascade, under a number of this block (R24, R36, R509). -/
def casReq (s : State) (r : HomeReq) : State :=
  let n := s.cas.nextOut
  casTo { s with cas := { s.cas with outst := tset s.cas.outst n (some r), nextOut := n + 1 } } (homeOf s r.line).1 0 r.line (reqBytes r) (.req n r)

/-- An answer of a home in another block: it reaches the requester, and the last one ends the request. -/
def casAns (s : State) (n : Nat) (k : AnsKind) (st : Status) (d : LineData) (p : Nat) (last : Bool) : State :=
  match tget s.cas.outst n with
  | none => s
  | some r =>
    let t := if last then { s with cas := { s.cas with outst := tset s.cas.outst n none } } else s
    deliver t last (ansOf r k st d p)

/-- A request takes a tracker and its place, or waits for a tracker, behind any other request to its line that waits for one (R207, R208,
R256). -/
def takeTracker (s : State) (r : HomeReq) : State :=
  if trackerMay s r then retry (admitReq s r) else { s with hom := { s.hom with setWait := s.hom.setWait ++ [r] } }

/-- A request is placed at its home, which another block of the cascade may hold (R24, R36). The mask of a stash target is judged now
(R246). -/
def place (s : State) (r : HomeReq) : State :=
  if !homeHere s r.line then (let t := reqConsumed s r
                              if sliceDown s r.line then refuseReq t r .poison else casReq t r) else
  let r := if r.op == .wrStash && !stashAllowed s r then { r with stash := 0 } else r
  match r.op with
  | .atomic a =>
    if aopOp a = 0xB then
      (let t := reqConsumed s r
       if sliceDown s r.line then refuseReq t r .poison else placeRed t r)
    else takeTracker s r
  | _ => takeTracker s r

/-- A request goes to the home of its line in a package: in this one, or over the span (R33, R34). -/
def toPackage (s : State) (node : Nat) (r : HomeReq) : State :=
  if node = fld s.cas.nodeId 15 0 then place s r else remRoute s node r

/-! ## Answers to snoops -/

/-- The DEST of a forward snoop supplies data with an answer. -/
def isFwd : SnpOp → Bool
  | .fwdShr | .fwdOwn | .fwdOnce => true
  | _ => false

/-- The entry frozen under a transaction without a holder that turned out to hold nothing. -/
def txnDrop (s : State) (line : Nat) (t : Txn) (a : Nat) : State × Txn :=
  let e := dropHolder { dirOf s line with st := t.old } a
  let gone := decide (e.st = .unc)
  ({ s with hom := { s.hom with dir := tset s.hom.dir line (if gone then {} else e)
                                dirLru := if gone then s.hom.dirLru.filter (fun l => l != line) else s.hom.dirLru
                                dirWay := if gone then tset s.hom.dirWay line 0 else s.hom.dirWay } }, { t with old := e.st })

/-- A snoop leaves its holder without the line (the table of snoops). -/
def isInval : SnpOp → Bool
  | .fwdOwn | .inv | .invData | .backinv => true
  | _ => false

/-- The entry frozen under a transaction whose requester is gone, after a holder answered a snoop: an invalidated holder is listed no
more, and one that forwarded keeps the line shared (R206). -/
def lostAnswer (s : State) (line : Nat) (t : Txn) (a : Nat) (op : SnpOp) : State × Txn :=
  if t.kind != .lost then (s, t)
  else if isInval op then txnDrop s line t a
  else match op, t.old with
    | .fwdShr, .owned o => if o = a ∧ a < 32 then (s, { t with old := .shared (agentsVec [a]) }) else (s, t)
    | .fwdShr, .fwd f v => (s, { t with old := .shared (v ||| agentsVec [f]) })
    | _, _ => (s, t)

/-- What a status in a snoop's answer does to its transaction: one other than OK completes it with that status (R245). -/
def txnStatus (t : Txn) (st : Status) : Txn := if st = .ok then t else { t with status := st }

/-- An agent's answer to a snoop (R206, R210, R215, R216, R245). A remote node's holder of a clean line sends no data with it (R550): memory
serves the request. -/
def snoopAnswer (s : State) (a line : Nat) (had wb dirty : Bool) (st : Status) : State :=
  match txnOf s line with
  | none => s
  | some t =>
    let t := txnStatus t st
    match t.await.find? (fun x => x.1 == a) with
    | none => s
    | some (_, op, _) =>
      let t := { t with await := t.await.filter (fun x => x.1 != a) }
      if had then
        let sends := isFwd op && (decide (a < 64) || dirty)
        let wants := sends || (dirty && (op == .invData || op == .backinv))
        let (s, t) := lostAnswer s line t a op
        let t := { t with fwded := t.fwded || sends, need := if wants && !t.got.contains a then t.need ++ [a] else t.need }
        afterLine (settle (setTxn s line (some t)) line) line
      else
        let wasOwner := t.old == .owned a || (decide (64 ≤ a) && t.old == .owned 63)
        let (u, t) := txnDrop s line t a
        let u := if isFwd op && wasOwner && !wb then homProtoErr u line else u
        let t := { t with need := if wb && !t.got.contains a then t.need ++ [a] else t.need }
        afterLine (settle (setTxn u line (some t)) line) line

/-- Data that a holder supplies for a snoop (R212, R227); a status other than OK whose data carries no poisoned chunk completes the
transaction (R245). -/
def snoopData (s : State) (a line : Nat) (d : LineData) (pois : Nat) (dirty : Bool) (st : Status) : State :=
  match txnOf s line with
  | none => s
  | some t =>
    let t := if pois = 0 then txnStatus t st else t
    let op := (t.await.find? (fun x => x.1 == a)).map (fun x => x.2.1)
    if op.isNone && !t.need.contains a then s
    else
      let isShr := match t.req with
        | some r => r.op == .rdShared
        | none => false
      let u := if dirty && (isShr || t.kind == .lost) then storeLine s line d pois else s
      let keepIt := dirty || (match t.req with
        | some r => r.op == .rdShared || r.op == .rdOwn || r.op == .rdOnce
        | none => false)
      let t := if keepIt then { t with data := some d, dirty := dirty, poison := pois } else t
      let t := { t with need := t.need.filter (fun x => x != a), got := t.got ++ [a] }
      afterLine (settle (setTxn u line (some t)) line) line

/-- A snoop is never answered: the agent is treated as holding nothing, and a line it owned is written poisoned (R223). -/
def snoopGone (s : State) (a line : Nat) : State :=
  match txnOf s line with
  | none => s
  | some t =>
    match t.kind with
    | .stash b => if a = b then afterLine (setTxn (setDir (stashDrop s line) line {}) line none) line else s
    | _ =>
      let wasOwner := t.old == .owned a || (64 ≤ a && t.old == .owned 63)
      let u := if wasOwner then storeLine s line (rdLine s line) 0xFF else s
      let (u, t) := txnDrop u line { t with await := t.await.filter (fun x => x.1 != a), later := t.later.filter (fun x => x.1 != a), need := t.need.filter (fun x => x != a) } a
      afterLine (settle (setTxn u line (some t)) line) line

/-- A line's write waits for the credits of its memory port. -/
def writeQueued (s : State) (line : Nat) : Bool := s.mps.any (fun e => e.2.queue.contains (true, line))

/-- What an EVICT_DIRTY carries is written to memory; it keeps its writeback buffer while the write waits for its port (R217). -/
def evictStore (s : State) (line : Nat) (data : Option (LineData × Nat)) : State :=
  match data with
  | none => s
  | some (d, p) =>
    let t := storeLine s line d p
    if writeQueued t line then { t with hom := { t.hom with wbuf := t.hom.wbuf ++ [line] } } else t

/-- An eviction (R217, R218). -/
def evict (s : State) (a tag line : Nat) (data : Option (LineData × Nat)) : State :=
  let s := sendWbComp s a tag line
  let e := dirOf s line
  let t := txnOf s line
  let listed := (holders e).contains a || (match t with
    | some t => (holders { e with st := t.old }).contains a || t.need.contains a
    | none => false)
  if !listed then homProtoErr s line
  else
    let awaited := match t with
      | some t => t.await.any (fun x => x.1 == a) || t.need.contains a
      | none => false
    match t, awaited with
    | some t, true =>
      let u := evictStore s line data
      let t := match data with
        | some (d, p) => { t with data := some d, dirty := true, poison := p }
        | none => t
      let t := { t with need := t.need.filter (fun x => x != a), got := t.got ++ [a] }
      afterLine (settle (setTxn u line (some t)) line) line
    | t, _ =>
      let u := evictStore s line data
      let u := setDir u line (dropHolder (dirOf u line) a)
      match t with
      | some t =>
        -- a delayed snoop of the agent is needed no more, and a grant on its way does not list it again (R217, R219)
        let granted := t.ackFrom.any (fun x => x.1 != a)
        let t' := { t with old := dropAgent t.old a, later := t.later.filter (fun x => x.1 != a), grant := if granted then dropAgent t.grant a else t.grant }
        let v := setTxn u line (some t')
        if t.later.any (fun x => x.1 == a) then afterLine (settle v line) line else v
      | none => retry u

/-- An answer to a request that a grant's data waits for: the grant has not been sent. -/
def isGrantOf (a tag line : Nat) (x : Answer) : Bool :=
  x.agent == a && x.tag == tag && x.line == line && x.kind != .dataOnce

/-- The grant has been sent: it waits neither for its line from memory nor for a credit of its link (R242). -/
def grantSent (s : State) (a tag line : Nat) : Bool :=
  !(s.mps.any (fun e => e.2.reads.any (fun r => r.ans.any (isGrantOf a tag line)))) &&
  !((s.eng.link.waiting ++ s.hst.flatMap (fun e => e.2.waiting)).any (fun m => match m with
    | .ans x => isGrantOf a tag line x
    | _ => false))

/-- The ACK of a grant (R210, R219, R242). -/
def ackGrant (s : State) (a tag line : Nat) : State :=
  match txnOf s line with
  | none => homProtoErr s line
  | some t =>
    if t.ackFrom != some (a, tag) || !grantSent s a tag line then homProtoErr s line
    else
      match t.req with
      | none => homProtoErr s line
      | some r =>
        let u := setTxn (setDir s line (grantEntry (dirOf s line) t.grant r)) line none
        let u := if t.win then startWick u line (holderNo r) else u
        afterLine u line

/-- A Wick hold ends and the snoops it delayed are sent (R219, R222). -/
def wickEnd (s : State) (line : Nat) : State :=
  let (w, e) := tget s.hom.wick line
  if w = 0 then s
  else
    let s := advanceTo s e
    let s := { s with hom := { s.hom with wick := tset s.hom.wick line (0, 0) } }
    match txnOf s line with
    | none => retry s
    | some t =>
      let (dest, tag) := match t.req with
        | some r => (if r.node.isSome || !isCaching s r.agent then 32 + s.cas.pos else r.agent, r.tag)
        | none => (32 + s.cas.pos, 0)
      let u := t.later.foldl (fun u x => sendSnoop u line x dest tag) s
      let t := { t with await := t.await ++ t.later.map (fun x => (x.1, x.2, snoopDue u x.1)), later := [] }
      afterLine (settle (setTxn u line (some t)) line) line

/-! ## The block's own accesses -/

/-- The operation has asked for the line and waits for the answer. -/
def ownAsked (s : State) (k line : Nat) : Bool :=
  let f := fun (r : HomeReq) => r.origin == .own k && r.line == line
  s.hom.waiters.any (fun e => e.2.any f) || s.hom.setWait.any f || (tsome s.hom.txns).any (fun e => e.2.req.any f) ||
  (tsome s.cas.outst).any (fun e => f e.2) || s.mps.any (fun e => e.2.reads.any (fun r => r.ans.any (fun a => a.origin == .own k && a.line == line)))

/-- An operation of the block asks for a line whose current data a cache or another block holds (R36, R227). -/
def ownAsk (s : State) (k line : Nat) : State :=
  if lineCurrent s k line || ownAsked s k line then s
  else place s { op := .rdOnce, agent := 32 + s.cas.pos, origin := .own k, line := line }

/-- An operation of the block that changes a record in its place takes the line from the caches that hold it, with a write of no byte
(R36). A line homed in another block is asked for, and what is written to it follows through its home. -/
def ownClear (s : State) (k line : Nat) : State :=
  if lineIdle s line || ownAsked s k line then s
  else if homeHere s line then
    place s { op := .wrPart, agent := 32 + s.cas.pos, origin := .own k, part := (layoutOwner s (line * 128)).getD 0, line := line }
  else ownAsk s k line

/-- Operation k may change the records on these lines in their places now, or takes the lines for it (R36). -/
def recReady (s : State) (k line : Nat) : Bool := lineIdle s line || (!homeHere s line && lineCurrent s k line)

/-- The lines are made ready for operation k, when one of them is not: none when it may go on. -/
def recAsk (s : State) (k : Nat) (ls : List Nat) : Option State :=
  let l := ls.filter (fun x => !recReady s k x)
  if l.isEmpty then none else some (l.foldl (fun t x => ownClear t k x) s)

/-- A command that must wait is taken again in the next event tick. -/
def later (s : State) (i : Instr) : State := { s with sampled := s.sampled ++ [i] }

/-- Operation k reads some lines and changes records on others: it asks for those it must wait for; none when it may go on (R36). -/
def linesAsk (s : State) (k : Nat) (reads recs : List Nat) : Option State :=
  if reads.all (lineCurrent s k) then recAsk s k recs else some (reads.foldl (fun t l => ownAsk t k l) s)

/-- Lines of the records of objects of a partition, of those that have a place (R433). -/
def objLines (s : State) (p : Nat) (ids : List Nat) : List Nat :=
  (ids.filterMap (fun id => match objWhere s p id with
    | (.ok, a) => some (a / 128)
    | _ => none)).dedup

/-- The line of the fence or barrier record that a reference names, when it passes the check of R451 and lies in this package. -/
def fenceLine (s : State) (p obj idx : Nat) : List Nat :=
  match fenceCheck s p obj idx with
  | none => []
  | some g => match gpaLookup s p g with
    | (.ok, a, none) => [a / 128]
    | _ => []

/-- Operation k of the block may read these lines from memory now, or asks for those whose data it must wait for (R36). -/
def ownLines (s : State) (k : Nat) (ls : List Nat) : Bool × State :=
  if ls.all (lineCurrent s k) then (true, { s with hom := { s.hom with fresh := s.hom.fresh.filter (fun x => !(x.1 == k && ls.contains x.2)) } })
  else (false, ls.foldl (fun t l => ownAsk t k l) s)

/-- Lines of the n bytes from an NPA up. -/
def linesOf (a n : Nat) : List Nat := (List.range ((a + n + 127) / 128 - a / 128)).map (fun i => a / 128 + i)

/-- The block's own coherent write of whole or partial lines through their homes, without waiting for the answer: what a unit
inside the block issues from its relay (R36). -/
def relayWrite (s : State) (p line : Nat) (d : LineData) (m : LineMask) (pois : Nat) : State :=
  place s { op := if m = BitVec.allOnes 128 then .wrFull else .wrPart, agent := 32 + s.cas.pos, origin := .relay, part := p,
            line := line, data := d, mask := m, poison := pois }

end Sys2Proof.Machine
end

