-- ==== Sys2Proof/Machine/Flags.lean ====
section
/-!
DEFINITION. The status words of the block: every flag and count that a status register shows, computed from the state (the
register tables of the chapters; PG_STAT, PG_CAP and the STAT registers of the pages).
-/
namespace Sys2Proof.Machine
open Sys2Proof

/-! ## Header words -/

/-- Unit code of a page index (PG_ID). -/
def unitCode (p : Nat) : Nat :=
  if p ≤ 0x0E then p + 1 else if p = 0x10 then 0x20 else if p = 0x11 ∨ p = 0x12 then 0x21
  else if p = 0x14 ∨ p = 0x15 then 0x22 else if p = 0x16 ∨ p = 0x17 then 0x23 else if p = 0x18 then 0x24 else 0

/-- INSTANCE of a page (PG_ID). -/
def unitInst (p : Nat) : Nat := if p = 0x12 ∨ p = 0x15 ∨ p = 0x17 then 1 else 0

/-- PG_ID. -/
def pgId (p : Nat) : Word := if unitCode p = 0 then 0 else pack [(48, unitCode p), (40, unitInst p), (32, 1), (24, 1), (16, 0xB0)]

/-- Offsets of the statistic registers of a page, ascending: event i is the i-th (R623). -/
def statRegs (p : Nat) : List Nat :=
  match p with
  | 0x01 => [0x228, 0x230, 0x238]
  | 0x02 => [0x250, 0x258, 0x260]
  | 0x05 => [0x250, 0x258, 0x260, 0x268, 0x270]
  | 0x06 => [0x248]
  | 0x07 => [0x2A8, 0x2B0]
  | 0x08 => [0x268, 0x270]
  | 0x09 => [0x238, 0x240, 0x248, 0x250, 0x258, 0x260, 0x808]
  | 0x0A => [0x218, 0x250, 0x258, 0x260]
  | 0x0B => [0x220, 0x228, 0x230, 0x238]
  | 0x0C => [0x250, 0x258, 0x260, 0x268, 0x270]
  | 0x0D => [0x270, 0x278, 0x280]
  | 0x0E => [0x218, 0x220, 0x228, 0x230, 0x238, 0x240]
  | 0x10 => [0x218, 0x220, 0x228, 0x230, 0x238, 0x240, 0x328, 0x330]
  | 0x11 => [0x328, 0x330]
  | 0x12 => [0x328, 0x330]
  | 0x14 => [0x210, 0x218]
  | 0x15 => [0x210, 0x218]
  | 0x16 => [0x210, 0x218]
  | 0x17 => [0x210, 0x218]
  | 0x18 => [0x270, 0x278, 0x280, 0x288, 0x290, 0x298]
  | _ => []

/-- Unit interrupts that a page defines in bits 0 to 15. -/
def irqBits (p : Nat) : List Nat :=
  match p with
  | 0x00 => [0, 1, 2]
  | 0x01 => [0, 1, 2, 3, 4, 5, 6]
  | 0x02 => [0, 1, 2, 3]
  | 0x03 => [0]
  | 0x04 => [0]
  | 0x05 => [0, 1, 2, 3, 4, 5]
  | 0x06 => [0, 1, 2, 3]
  | 0x07 => [0, 1, 2, 3]
  | 0x08 => [0, 1, 2]
  | 0x09 => [0, 1, 2]
  | 0x0A => [0, 1, 2, 3]
  | 0x0B => [0, 1]
  | 0x0C => [0, 1, 2, 3]
  | 0x0D => [0, 1, 2, 3]
  | 0x0E => [0, 1, 2, 3]
  | 0x10 => [0, 1, 2, 3, 8, 9, 10, 11]
  | 0x11 => [0, 1, 2, 3]
  | 0x12 => [0, 1, 2, 3]
  | 0x14 => [0, 1, 2]
  | 0x15 => [0, 1, 2]
  | 0x16 => [0, 1, 2]
  | 0x17 => [0, 1, 2]
  | 0x18 => [0, 1, 2, 3, 4, 5]
  | _ => []

/-- An event ID names a source of this build (R623). -/
def isSource (s : State) (id : Nat) : Bool :=
  let p := id / 64
  let e := id % 64
  present s p && (if p = pCNT ∧ e < 48 then decide (e < 4)
    else if e < 48 then decide (e < (statRegs p).length) else (irqBits p).contains (e - 48))

/-- SOURCES: event IDs that the build defines (R623). -/
def sources (s : State) : Nat := ((List.range 4096).filter (isSource s)).length

/-- PG_CAP. -/
def pgCap (s : State) (p : Nat) : Word :=
  let base := pack [(0, b2n (present s p)), (1, b2n (fusedOff s p))]
  base ||| (match p with
    | 0x04 => pack [(16, sources s)]
    | 0x07 => pack [(16, b2n (hasLockstep s))]
    | 0x08 => pack [(16, s.build.lantern)]
    | 0x09 => pack [(16, b2n s.build.cwin), (24, s.build.dirMi)]
    | 0x0B => pack [(16, 0xFF)]
    | 0x10 => pack [(16, s.build.ports)]
    | _ => 0)

/-- PG_CTL as read. -/
def pgCtl (s : State) (p : Nat) : Word :=
  pack [(0, b2n (enabled s p)), (1, b2n (page s p).expert), (2, b2n (fenced s p))]

/-- PG_STAT[LINK_UP]. -/
def linkUp (s : State) (p : Nat) : Bool :=
  if p = pENG ∨ p = pHST0 ∨ p = pHST1 then (linkOf s p).st == 2
  else if p = pSPN then s.spn.st == .active
  else if 0x14 ≤ p ∧ p ≤ 0x17 then (tget s.mps (p - 0x14)).ready else false

/-- Channels of the movers whose STATE is not idle. -/
def chanState (s : State) (c : Nat) : Nat :=
  let h := tget s.mov.chans c
  if !h.paused.isEmpty then 2
  else if h.fifo.isEmpty && h.active.isEmpty then 0
  else if h.active.isEmpty && (h.fifo.head?.map (fun x => x.stop)) == some true then 3 else 1

/-- Requests that are at work at a home of this block, at a home of another, or at another node. -/
def reqsAtWork (s : State) : List HomeReq :=
  s.hom.setWait ++ s.hom.waiters.flatMap (fun e => e.2) ++ (tsome s.hom.txns).filterMap (fun e => e.2.req) ++
  (tsome s.cas.outst).map (fun e => e.2) ++ s.spn.remWait.map (fun x => x.2) ++ (tsome s.spn.remotes).map (fun e => e.2.req)

/-- A request of a host station is at work, or its answer waits for its line from memory (R58). -/
def hostBusy (s : State) (h : Nat) : Bool :=
  (reqsAtWork s).any (fun r => r.origin == .host h) || s.mps.any (fun e => e.2.reads.any (fun r => r.ans.any (fun a => a.origin == .host h)))

/-- PG_STAT[BUSY]: accepted work of the unit is outstanding (R58). -/
def pgBusy (s : State) (p : Nat) : Bool :=
  (page s p).work != 0 || (page s p).dpCommitting || (match p with
    | 0x00 => s.boot.urBusy
    | 0x02 => s.sec.snuffPhase != 0
    | 0x03 => s.mbx.boxes.any (fun b => b.2.replies.any owed)
    | 0x07 => s.det.kindle == 1 || s.det.fpStale
    | 0x08 => !(tsome s.lan.walks).isEmpty || !s.lan.misses.isEmpty || !s.lan.wds.isEmpty
    | 0x09 => !(tsome s.hom.txns).isEmpty || !s.hom.setWait.isEmpty || s.hom.waiters.any (fun e => !e.2.isEmpty)
    | 0x0A => (List.range 64).any (fun c => chanState s c != 0)
    | 0x0B => s.mov.chans.any (fun e => e.2.active.any (fun a => !a.prog.isEmpty))
    | 0x0C => !(tsome s.tir.moves).isEmpty || !s.tir.cmds.isEmpty
    | 0x0D => !s.lmp.cmds.isEmpty
    | 0x0E => !(tsome s.fnc.watches).isEmpty
    | 0x10 => !(tsome s.eng.reqs).isEmpty
    | 0x11 => hostBusy s 0
    | 0x12 => hostBusy s 1
    | 0x18 => !(tsome s.spn.remotes).isEmpty
    | _ => if 0x14 ≤ p ∧ p ≤ 0x17 then !(tget s.mps (p - 0x14)).reads.isEmpty || !(tget s.mps (p - 0x14)).queue.isEmpty else false)

/-- Code of BCN_STAT[MODE]. -/
def bcnModeCode : BcnMode → Nat
  | .locked => 0 | .coast => 1 | .dark => 2 | .resync => 3

/-- PG_STAT[UNIT]. -/
def pgUnit (s : State) (p : Nat) : Nat :=
  if p = pBCN then bcnModeCode s.bcn.mode + 4 * b2n s.bcn.uncertain
  else if p = pMOV then ((List.range 64).filter (fun c => chanState s c != 0)).length else 0

/-- PG_STAT. -/
def pgStat (s : State) (p : Nat) : Word :=
  pack [(0, (page s p).last.code), (8, b2n (pgBusy s p)), (9, b2n (fenced s p)), (10, b2n (page s p).override), (11, b2n (linkUp s p)),
        (12, b2n (page s p).accErr), (16, pgUnit s p)]

/-- DP_STAT. -/
def dpStat (q : Page) : Word :=
  pack [(0, q.dpStatus.code), (8, b2n q.dpReady), (9, b2n q.dpDone), (10, b2n q.dpErr), (11, b2n q.dpUnderrun), (12, b2n q.dpConflict), (16, q.dpRemain)]

/-! ## Unit status words -/

/-- BCN_STAT. -/
def bcnStat (s : State) : Word :=
  pack [(0, bcnModeCode s.bcn.mode), (2, b2n s.bcn.uncertain), (3, b2n s.bcn.srcUncertain), (8, s.bcn.goodRun)]

/-- DIS_LO: cells fenced for any reason (R647). -/
def disLo (s : State) : Word :=
  (List.range 56).foldl (fun w c => if cellFenced s c && (decide (32 ≤ c) || decide (c < s.build.ports)) then setBit w c true else w) 0

/-- DIS_HI: pages fenced (R647). -/
def disHi (s : State) : Word := (List.range 64).foldl (fun w p => if isPage p && fenced s p then setBit w p true else w) 0

/-- Code of PV_STAT[STATE] (R406). Partition 0 reads OPEN from start-up. -/
def partCode : PartState → Nat
  | .free => 0 | .open_ => 1 | .closing => 2 | .scrub => 3

/-- PV_STAT. -/
def pvStat (s : State) (p : Nat) : Word :=
  let q := part s p
  pack [(0, partCode q.st), (3, b2n (isSealed s p)), (4, b2n q.faultObj.isSome), (5, b2n (q.objTbl != 0)), (6, b2n q.dispObj.isSome)]

/-- PV_CAP (R49). -/
def pvCap (s : State) : Word := (List.range 64).foldl (fun w p => if isPage p && present s p then setBit w p true else w) 0

/-- PV_BUILD (R49). -/
def pvBuild (s : State) : Word :=
  pack [(0, s.build.ports), (8, s.build.dirMi), (16, s.build.lantern), (32, b2n s.build.cwin), (33, b2n (hasLockstep s))]

/-- Commands of a queue accepted and not retired. -/
def qInFlight (s : State) (q : Nat) : Nat := (s.lmp.cmds.filter (fun c => c.q == q)).length

/-- Code of a context state (CTX_CTL[STATE]). -/
def ctxCode : CtxState → Nat
  | .free => 0 | .live => 1 | .lost => 2 | .killing => 3

/-- DB_STAT. -/
def dbStat (s : State) (q : Nat) : Word :=
  let k := queue s q
  let c := ctxOf s k.ctx
  pack [(0, b2n k.enable), (1, b2n k.priv), (2, b2n (k.bound && c.st == .lost)), (8, if k.bound && c.st == .lost then c.cause.code else 0)]

/-- CTX_CTL as read. -/
def ctxCtl (s : State) (i : Nat) : Word :=
  let c := tget s.lmp.ctxs i
  let n := i + 4096 * s.cas.pos
  pack [(0, c.part), (16, c.space), (32, ctxCode c.st), (40, c.cause.code),
        (48, (s.lmp.queues.filter (fun e => e.2.bound && e.2.ctx == n)).length)]

/-- The part of n lines from a line on that lies behind a block's memory ports: an equal part of an interleaved range (R577). -/
def shareOn (s : State) (line n b : Nat) : Nat :=
  match rangeOf s line with
  | some r => if 2 ≤ rangeMode r then n / blocks s else if fld r.ctl 28 26 = b then n else 0
  | none => 0

/-- Lines of a partition behind a block's ports: layout entries, and 32,768 for each enrolled page of this block's pools (R577). -/
def linesOn (s : State) (p b : Nat) : Nat :=
  let near := (s.tir.frames.filter (fun e => tracked e.2.st && e.2.part == p)).length * 32768
  let far := (s.tir.embers.filter (fun e => tracked e.2.st && e.2.part == p)).length * 32768
  (s.sec.layout.filter (fun e => e.2.valid && e.2.part == p && !e.2.held)).foldl (fun n e => n + shareOn s (e.2.base * 32768) (e.2.len * 32768) b) 0 +
    shareOn s (s.tir.nearBase.toNat / 128) near b + shareOn s (s.tir.farBase.toNat / 128) far b

/-- Lines of a partition on this block's ports. -/
def partLines (s : State) (p : Nat) : Nat := linesOn s p s.cas.pos

/-- M of R577: the largest number of a partition's lines on any block's ports. -/
def snuffLines (s : State) (p : Nat) : Nat := (List.range (blocks s)).foldl (fun n b => max n (linesOn s p b)) 0

/-- SNUFF_STAT: the phase is coded from 0 (log entry 17). -/
def snuffStat (s : State) : Word :=
  let n := partLines s s.sec.snuffPart
  let left := if s.sec.snuffPhase = 0 ∨ s.sec.snuffPhase = 4 then 0 else if s.sec.snuffPhase = 3 then min n (s.sec.snuffEnd - s.clk.cyc) else n
  pack [(0, s.sec.snuffPart), (6, b2n (s.sec.snuffPhase != 0)), (8, s.sec.snuffPhase - 1), (32, left)]

/-- Code of the lifecycle state. -/
def lifeCode : Lifecycle → Nat
  | .blank => 0 | .secured => 1 | .debug => 2 | .retired => 3

/-- LIFECYCLE. -/
def lifeWord (s : State) : Word :=
  let any := fun (a n : Nat) => (List.range n).any (fun i => tget s.fuses.loaded (a + i) != 0)
  pack [(0, lifeCode s.fuses.lifecycle), (2, b2n (any 0 4)), (3, b2n (any 4 6)), (4, fld (tget s.fuses.loaded rowOff) 3 0), (8, b2n s.sec.chainOk)]

/-- Staging bytes granted in the movers (STAGE_USED). -/
def stageUsed (s : State) : Nat :=
  s.mov.chans.foldl (fun n e => n + (e.2.active.flatMap (fun a => a.segs)).foldl (fun m g => m + g.stage) 0) 0

/-- Code of a state of the Vilnor link. -/
def spnCode : SpnState → Nat
  | .down => 0 | .lock => 1 | .hello => 2 | .auth => 3 | .cal => 4 | .active => 5 | .backoff => 6

/-- SPN_STAT. -/
def spnStat (s : State) : Word :=
  pack [(0, spnCode s.spn.st), (3, s.spn.width), (9, b2n s.spn.quar), (10, s.spn.qcause), (14, s.spn.version), (22, s.spn.partner), (38, b2n s.spn.nover)]

/-- Snoops that await an answer of a station's agent (SNP_OUT). -/
def snpOut (s : State) (p : Nat) : Nat :=
  let a := if p = pENG then 16 + s.cas.pos else fld (hst s (p - pHST0)).cfg 11 8
  (tsome s.hom.txns).foldl (fun n e => n + (e.2.await.filter (fun x => x.1 == a)).length) 0

/-- MB_STAT (R482). -/
def mbStat (s : State) (m : Nat) : Word :=
  let b := mbox s m
  pack [(0, b.h2s.length), (5, b2n (decide (16 ≤ b.h2s.length))), (8, b.s2h.length), (13, b2n (decide (16 ≤ b.s2h.length))), (16, h2sRx s m), (18, s2hRx s m)]

/-- DET_STAT. -/
def detStat (s : State) : Word := pack [(0, b2n s.det.fpStale), (1, s.det.kindle), (3, s.det.ls), (8, s.det.casLat)]

/-- BOOT_STAT. -/
def bootStat (s : State) : Word := pack [(0, s.boot.stage), (4, s.boot.err), (16, s.boot.rstCause)]

/-- Watch slots and polling waits in use (WATCH_STAT). -/
def watchStat (s : State) : Word :=
  let l := tsome s.fnc.watches
  pack [(0, (l.filter (fun e => !e.2.poll)).length), (16, (l.filter (fun e => e.2.poll)).length)]

end Sys2Proof.Machine
end

