-- ==== Sys2Proof/Machine/HomeCmds.lean ====
section
/-!
DEFINITION. The commands that reach a home: requests, atomics, barrier operations, acknowledgements, answers to snoops,
evictions, the end of a Wick hold, and the events of ordered reductions.
-/
namespace Sys2Proof.Machine
open Sys2Proof

/-- A request placed at the home of its line; a line outside the NPA space exists nowhere (R118). -/
def atHome (r : HomeReq) (s : State) : Host.Outcome State Fault Refusal :=
  if 2 ^ 39 ≤ r.line then .fault .noSuchAddress else .next (if live s then place s r else s)

/-- RD_SHARED at the home of its line (R207, R212). -/
def execRdShared (r : HomeReq) (s : State) : Host.Outcome State Fault Refusal := atHome { r with op := .rdShared } s

/-- RD_OWN at the home of its line (R207, R212). -/
def execRdOwn (r : HomeReq) (s : State) : Host.Outcome State Fault Refusal := atHome { r with op := .rdOwn } s

/-- UPGRADE at the home of its line (R207, R212). -/
def execUpgrade (r : HomeReq) (s : State) : Host.Outcome State Fault Refusal := atHome { r with op := .upgrade } s

/-- RD_ONCE at the home of its line (R207, R212). -/
def execRdOnce (r : HomeReq) (s : State) : Host.Outcome State Fault Refusal := atHome { r with op := .rdOnce } s

/-- WR_FULL at the home of its line (R207, R212). -/
def execWrFull (r : HomeReq) (s : State) : Host.Outcome State Fault Refusal := atHome { r with op := .wrFull } s

/-- WR_PART at the home of its line (R207, R212). -/
def execWrPart (r : HomeReq) (s : State) : Host.Outcome State Fault Refusal := atHome { r with op := .wrPart } s

/-- WR_STASH at the home of its line (R207, R212). -/
def execWrStash (r : HomeReq) (s : State) : Host.Outcome State Fault Refusal := atHome { r with op := .wrStash } s

/-- SWAP in an element format, at its place in the line's order (R255, R284, R288). -/
def execSwap (r : HomeReq) (fmt : Nat) (s : State) : Host.Outcome State Fault Refusal :=
  atHome { r with op := .atomic (0 + fmt % 16) } s

/-- CAS in an element format, at its place in the line's order (R255, R284, R286). -/
def execCas (r : HomeReq) (fmt : Nat) (s : State) : Host.Outcome State Fault Refusal :=
  atHome { r with op := .atomic (16 + fmt % 16) } s

/-- FETCH_ADD in an element format, at its place in the line's order (R255, R284, R289). -/
def execFetchAdd (r : HomeReq) (fmt : Nat) (s : State) : Host.Outcome State Fault Refusal :=
  atHome { r with op := .atomic (32 + fmt % 16) } s

/-- FETCH_MIN in an element format, at its place in the line's order (R255, R284, R292). -/
def execFetchMin (r : HomeReq) (fmt : Nat) (s : State) : Host.Outcome State Fault Refusal :=
  atHome { r with op := .atomic (48 + fmt % 16) } s

/-- FETCH_MAX in an element format, at its place in the line's order (R255, R284, R292). -/
def execFetchMax (r : HomeReq) (fmt : Nat) (s : State) : Host.Outcome State Fault Refusal :=
  atHome { r with op := .atomic (64 + fmt % 16) } s

/-- FETCH_AND in an element format, at its place in the line's order (R255, R284, R288). -/
def execFetchAnd (r : HomeReq) (fmt : Nat) (s : State) : Host.Outcome State Fault Refusal :=
  atHome { r with op := .atomic (80 + fmt % 16) } s

/-- FETCH_OR in an element format, at its place in the line's order (R255, R284, R288). -/
def execFetchOr (r : HomeReq) (fmt : Nat) (s : State) : Host.Outcome State Fault Refusal :=
  atHome { r with op := .atomic (96 + fmt % 16) } s

/-- FETCH_XOR in an element format, at its place in the line's order (R255, R284, R288). -/
def execFetchXor (r : HomeReq) (fmt : Nat) (s : State) : Host.Outcome State Fault Refusal :=
  atHome { r with op := .atomic (112 + fmt % 16) } s

/-- RED_ADD in an element format, at its place in the line's order (R255, R284, R289). -/
def execRedAdd (r : HomeReq) (fmt : Nat) (s : State) : Host.Outcome State Fault Refusal :=
  atHome { r with op := .atomic (128 + fmt % 16) } s

/-- RED_MIN in an element format, at its place in the line's order (R255, R284, R292). -/
def execRedMin (r : HomeReq) (fmt : Nat) (s : State) : Host.Outcome State Fault Refusal :=
  atHome { r with op := .atomic (144 + fmt % 16) } s

/-- RED_MAX in an element format, at its place in the line's order (R255, R284, R292). -/
def execRedMax (r : HomeReq) (fmt : Nat) (s : State) : Host.Outcome State Fault Refusal :=
  atHome { r with op := .atomic (160 + fmt % 16) } s

/-- RED_ORD in an element format, at its place in the line's order (R255, R284, R302). -/
def execRedOrd (r : HomeReq) (fmt : Nat) (s : State) : Host.Outcome State Fault Refusal :=
  atHome { r with op := .atomic (176 + fmt % 16) } s

/-- LOCK_ACQ in an element format, at its place in the line's order (R255, R284, R296). -/
def execLockAcq (r : HomeReq) (fmt : Nat) (s : State) : Host.Outcome State Fault Refusal :=
  atHome { r with op := .atomic (192 + fmt % 16) } s

/-- LOCK_REL in an element format, at its place in the line's order (R255, R284, R296). -/
def execLockRel (r : HomeReq) (fmt : Nat) (s : State) : Host.Outcome State Fault Refusal :=
  atHome { r with op := .atomic (208 + fmt % 16) } s

/-- FENCE_SIG in an element format, at its place in the line's order (R255, R284, R449). -/
def execFenceSig (r : HomeReq) (fmt : Nat) (s : State) : Host.Outcome State Fault Refusal :=
  atHome { r with op := .atomic (224 + fmt % 16) } s

/-- APERTURE_READ: a read of a line of the decode aperture, served as RD_ONCE (R396). -/
def execApertureRead (r : HomeReq) (s : State) : Host.Outcome State Fault Refusal := atHome { r with op := .rdOnce } s

/-- A barrier operation: a FENCE_SIG at byte 8 of the barrier record, its DROP bit as the command says (R469). -/
def barrierReq (r : HomeReq) (drop : Bool) : HomeReq :=
  { r with op := .atomic 0xE7
           data := (elems r.mask 8).foldl (fun d p =>
             let v := elemAt d 8 p
             setElem d 8 p (v - v / 2 ^ 21 % 2 * 2 ^ 21 + b2n drop * 2 ^ 21)) r.data }

/-- BARRIER_ARRIVAL (R472): an arrival at a barrier record. -/
def execBarrierArrival (r : HomeReq) (s : State) : Host.Outcome State Fault Refusal := atHome (barrierReq r false) s

/-- BARRIER_LANE_DROP (R472): lanes leave a barrier. -/
def execBarrierLaneDrop (r : HomeReq) (s : State) : Host.Outcome State Fault Refusal := atHome (barrierReq r true) s

/-- A message of an agent is consumed: its credit is owed back to the agent's station (R239). -/
def agentConsumed (s : State) (agent cls : Nat) : State :=
  match agentPage s agent with
  | some p => consume s p cls
  | none => s

/-- A message of an agent for the home of a line: the message is consumed, and goes on to the home's block when another block of the
cascade has the home (R36, R239, R509). -/
def fromAgent (s : State) (agent cls line bytes : Nat) (l : CasLoad) (f : State → State) : State :=
  if !live s then s else
  let t := agentConsumed s agent cls
  if homeHere t line then f t else casTo t (homeOf t line).1 cls line bytes l

/-- ACK of a grant, or an ACK that no grant awaits (R210, R242). -/
def execAck (agent tag line : Nat) (s : State) : Host.Outcome State Fault Refusal :=
  .next (fromAgent s agent 3 line 16 (.ack agent tag line) (fun t => ackGrant t agent tag line))

/-- The end of a line's Wick hold (R219, R222). -/
def execWickHoldEnd (line : Nat) (s : State) : Host.Outcome State Fault Refusal := .next (wickEnd s line)

/-- EVICT_CLEAN (R217, R218). -/
def execEvictClean (agent tag line : Nat) (s : State) : Host.Outcome State Fault Refusal :=
  .next (fromAgent s agent 1 line 16 (.evict agent tag line none) (fun t => evict t agent tag line none))

/-- EVICT_DIRTY with its data (R217, R218). -/
def execEvictDirty (agent tag line : Nat) (data : LineData) (poison : Nat) (s : State) : Host.Outcome State Fault Refusal :=
  .next (fromAgent s agent 1 line 144 (.evict agent tag line (some (data, poison))) (fun t => evict t agent tag line (some (data, poison))))

/-- The stash offer of a line that an agent has in hand. -/
def stashOffered (s : State) (a line : Nat) : Bool :=
  match txnOf s line with
  | some t => t.kind == .stash a
  | none => false

/-- An offered line is installed in CE at its target, which becomes owner: a win (R221, R229). -/
def stashAccept (s : State) (agent line : Nat) : State :=
  if stashOffered s agent line then
    let t := count { s with hom := { s.hom with stashTotal := satAdd 32 s.hom.stashTotal 1 } } pHOM 2 0x3FF (sliceOf s line)
    afterLine (startWick (setTxn (setDir t line { st := .owned agent }) line none) line agent) line
  else s

/-- An offered line is declined and becomes Uncached (R229). -/
def stashDecline (s : State) (agent line : Nat) : State :=
  if stashOffered s agent line then afterLine (setTxn (setDir (stashDrop s line) line {}) line none) line else s

/-- STASH_ACCEPT: the target installs the line in CE and becomes owner, a win (R221, R229). -/
def execStashAccept (agent line : Nat) (s : State) : Host.Outcome State Fault Refusal :=
  .next (fromAgent s agent 3 line 16 (.stashAns agent line true) (fun t => stashAccept t agent line))

/-- STASH_DECLINE: the line becomes Uncached (R229). -/
def execStashDecline (agent line : Nat) (s : State) : Host.Outcome State Fault Refusal :=
  .next (fromAgent s agent 3 line 16 (.stashAns agent line false) (fun t => stashDecline t agent line))

/-- REDUCTION_GRACE_EXPIRE: at rank 6 of the first event tick whose count is e + GRACE, a line short of contributions is
combined (R304, R305). -/
def execReductionGraceExpire (sess line win : Nat) (s : State) : Host.Outcome State Fault Refusal :=
  match redLineOf s sess line win, tget s.hom.sessions sess with
  | some l, some q =>
    if !l.done && btDue s (win + q.grace) then .next (place1 (redBegin s sess line win) (redReq s sess line)) else .next s
  | _, _ => .next s

/-- REDUCTION_WINDOW_DONE: every combine write of the window is performed; words 4 and 5 of the record are written and, once they are
performed, the session fence is signalled with the end count (R268, R306). -/
def execReductionWindowDone (sess win : Nat) (s : State) : Host.Outcome State Fault Refusal :=
  match s.hom.redWins.find? (fun w => w.sess == sess && w.win == win), tget s.hom.sessions sess with
  | some w, some q =>
    if !winReady s sess win then .next s
    else
      let q' := { q with combinedWin := q.combinedWin + 1 }
      let t := { s with hom := { s.hom with
        sessions := tset s.hom.sessions sess (some q')
        redWins := s.hom.redWins.filter (fun x => !(x.sess == sess && x.win == win))
        redLines := s.hom.redLines.filter (fun r => !(r.sess == sess && r.win == win && btDue s (win + q.grace))) } }
      let t := ownPut t q.part (q.recNpa + 32) [w64 q'.combinedWin, pack [(0, w.last.code), (8, w.short)]]
      let t := if t.bcn.uncertain then count { t with det := { t.det with uncWin := satAdd 32 t.det.uncWin 1 } } pDET 1 else t
      .next (if q.fEn then announce t { part := q.part, sig := some (q.fObj, q.fIdx, w64 win), lines := [q.recNpa / 128] } else t)
  | _, _ => .next s

end Sys2Proof.Machine
end

