-- ==== Sys2Proof/Machine/Gone.lean ====
section
/-!
DEFINITION. Agents and requesters that are gone: the lines they held, the transactions that waited for them, and their own requests
(R206, R223, R250, R513).
-/
namespace Sys2Proof.Machine
open Sys2Proof

/-! ## Agents -/

/-- A timeout is counted at the home and at the agent's station, and both raise their interrupt (R223). -/
def timeoutCount (s : State) (a line : Nat) : State :=
  let u := raise (count { s with hom := { s.hom with snoopTimeout := satAdd 32 s.hom.snoopTimeout 1 } } pHOM 4 0x3FF (sliceOf s line)) pHOM 0
  match agentPage u a with
  | none => u
  | some p =>
    let u := count (updLink u p (fun l => { l with snoopTimeout := satAdd 32 l.snoopTimeout 1 })) p (if p = pENG then 6 else 0)
    raise u p (if p = pENG then 10 else 2)

/-- A gone agent was the owner of a line: the line is written poisoned, and the loss counts as a timeout (R223, R250). -/
def ownedLost (s : State) (a line : Nat) : State := timeoutCount (storeLine s line (rdLine s line) 0xFF) a line

/-- An agent holds a line no more; what it owned is lost (R250). -/
def lineLose (s : State) (a line : Nat) : State :=
  let t := if (dirOf s line).st == .owned a then ownedLost s a line else s
  setDir t line (dropHolder (dirOf t line) a)

/-- A grant to a gone agent is taken as received and lost: what it owned is lost with it, and the others keep the line (R206, R250). -/
def grantLose (s : State) (a line : Nat) (t : Txn) (r : HomeReq) : State :=
  let e := grantEntry (dirOf s line) t.grant r
  let u := if t.grant == .owned a && grantSent s a r.tag line then ownedLost s a line else s
  afterLine (setTxn (setDir u line (dropHolder e a)) line none) line

/-- An open transaction meets a gone agent: its snoops, the delayed ones too, are answered with HAD_COPY at 0, it holds the line no
more, and a grant to it is taken back (R250). -/
def txnLose (s : State) (a line : Nat) : State :=
  match txnOf s line with
  | none => s
  | some t =>
    match t.kind with
    | .stash b => if a = b then snoopGone s a line else s
    | _ =>
      match t.req, t.ackFrom.any (fun x => x.1 == a) with
      | some r, true => if r.node.isNone then grantLose s a line t r else s
      | _, _ =>
        let waits := t.await.any (fun x => x.1 == a) || t.need.contains a || t.later.any (fun x => x.1 == a)
        let u := if t.old == .owned a && !t.got.contains a && !waits then ownedLost s a line
          else if t.old == .owned a && waits then timeoutCount s a line else s
        if waits then snoopGone u a line
        else if (holders { dirOf u line with st := t.old }).contains a then
          let (v, t) := txnDrop u line t a
          afterLine (settle (setTxn v line (some t)) line) line
        else u

/-- Everything that an agent held is answered for it (R250). -/
def agentLose (s : State) (a : Nat) : State :=
  let t := (s.hom.txns.map (fun e => e.1)).foldl (fun u l => txnLose u a l) s
  (t.hom.dir.filter (fun e => (holders e.2).contains a && (txnOf t e.1).isNone)).foldl (fun u e => lineLose u a e.1) t

/-! ## Requests -/

/-- Snoops of a transaction that have been answered: those its request needed, without those still awaited or delayed. -/
def answeredSnoops (s : State) (line : Nat) (t : Txn) (r : HomeReq) : List (Nat × SnpOp) :=
  (snoopsFor r.op { dirOf s line with st := t.old } (holderNo r) (bitOf s.hom.cfg 0)).filter (fun x =>
    !t.await.any (fun y => y.1 == x.1) && !t.later.any (fun y => y.1 == x.1))

/-- The requester of an open transaction is gone: the transaction goes on without it until its snoops are answered. Dirty data that a
holder gave up goes to memory, and the entry keeps the holders that still have the line (R206, R250). -/
def txnOrphan (s : State) (line : Nat) (t : Txn) (r : HomeReq) : State :=
  let t' := { t with kind := .lost, req := none }
  let u := match t.data, t.dirty && r.op != .rdShared with
    | some d, true => storeLine s line d t.poison
    | _, _ => s
  let (u, t') := (answeredSnoops s line t r).foldl (fun (x : State × Txn) y => lostAnswer x.1 line x.2 y.1 y.2) (u, t')
  afterLine (settle (setTxn u line (some t')) line) line

/-- Requests of a kind end with a status: those in their places, those that wait for a tracker, and those under a transaction (R250,
R644). -/
def reqsLose (s : State) (f : HomeReq → Bool) (st : Status) : State :=
  let w := s.hom.waiters.flatMap (fun e => e.2.filter f) ++ s.hom.setWait.filter f
  let t := { s with hom := { s.hom with waiters := (s.hom.waiters.map (fun e => (e.1, e.2.filter (fun r => !f r)))).filter (fun e => !e.2.isEmpty),
                                        setWait := s.hom.setWait.filter (fun r => !f r) } }
  let t := w.foldl (fun u r => refuseReq u r st) t
  retry ((tsome t.hom.txns).foldl (fun u e =>
    match e.2.req with
    | some r => if f r && e.2.kind == .serve && e.2.ackFrom.isNone then txnOrphan (refuseReq u r st) e.1 e.2 r else u
    | none => u) t)

/-- A request whose requester is gone is answered to nobody. -/
def orphan (f : HomeReq → Bool) (r : HomeReq) : HomeReq := if f r then { r with origin := .relay } else r

/-- The answers on their way to a requester that is gone are dropped: those that wait for a line from memory, for a home in another
block and for another node. -/
def answersLose (s : State) (f : HomeReq → Bool) (g : Origin → Bool) : State :=
  { s with
    mps := s.mps.map (fun e => (e.1, { e.2 with reads := e.2.reads.map (fun d => { d with ans := d.ans.filter (fun a => !g a.origin) }) }))
    cas := { s.cas with outst := s.cas.outst.map (fun e => (e.1, e.2.map (orphan f))) }
    spn := { s.spn with remotes := s.spn.remotes.map (fun e => (e.1, e.2.map (fun x => { x with req := orphan f x.req })))
                        remWait := s.spn.remWait.map (fun x => (x.1, orphan f x.2)) } }

/-! ## Other blocks of the cascade -/

/-- Requests that this block sent to homes in another block end with a status. -/
def casEnd (s : State) (f : Nat → Bool) (st : Status) : State :=
  (tsome s.cas.outst).foldl (fun t e =>
    if f (homeOf t e.2.line).1 then refuseReq { t with cas := { t.cas with outst := tset t.cas.outst e.1 none } } e.2 st else t) s

/-- Host agents whose stations stand in a block, as far as this block knows (R203). -/
def hostsAt (s : State) (n : Nat) : List Nat := (s.cas.hostAt.filter (fun x => x.2 == n)).map (fun x => x.1)

/-- Another block is left without a path and counts as fenced: requests for its homes end with POISON until the blocks serve them from
their successors, its agents are gone, and so are its requests (R513, R643, R644). -/
def blockLose (s : State) (n : Nat) : State :=
  if s.ras.rebal.contains (8 + n) || blockGone s n then s
  else
    let t := casEnd { s with ras := { s.ras with rebal := s.ras.rebal ++ [8 + n] } } (fun b => b == n) .poison
    let t := { t with cas := { t.cas with hostAt := t.cas.hostAt.filter (fun x => x.2 != n) } }
    let t := ((16 + n) :: (hostsAt s n).filter (fun a => !t.cas.hostAt.any (fun x => x.1 == a))).foldl agentLose t
    reqsLose t (fun r => match r.origin with
      | .block b _ => b == n
      | _ => false) .partnerAbsent

end Sys2Proof.Machine
end

