-- ==== Sys2Proof/Machine/Flit.lean ====
section
/-!
DEFINITION. The codewords and the flits of the span: RS(544,514) as IEEE 802.3 Clause 119 defines it, AES-256-GCM as NIST SP 800-38D
defines it, and the layout, the CRC and the tag of a flit (R519 to R522).
-/
namespace Sys2Proof.Machine
open Sys2Proof

/-! ## The field of 1,024 elements -/

/-- A symbol divided by the primitive element. -/
def rsHalf (a : Nat) : Nat := if a % 2 = 0 then a / 2 else (a ^^^ 1033) / 2

/-- A product by the primitive element in the field of 10-bit symbols, whose polynomial is x^10 + x^3 + 1. -/
def rsDouble (a : Nat) : Nat := if a < 512 then 2 * a else (2 * a - 1024) ^^^ 9

/-- A product of symbols: n bits of the second factor. -/
def rsMulBits : Nat → Nat → Nat → Nat
  | 0, _, _ => 0
  | n + 1, a, b => (if b % 2 = 1 then a else 0) ^^^ rsMulBits n (rsDouble a) (b / 2)

/-- A product of symbols. -/
def rsMul (a b : Nat) : Nat := rsMulBits 10 a b

/-- A power of a symbol with an exponent below 2^n. -/
def rsPow (a : Nat) : Nat → Nat → Nat
  | 0, _ => 1
  | n + 1, e => rsMul (if e % 2 = 1 then a else 1) (rsPow (rsMul a a) n (e / 2))

/-- The inverse of a symbol; 0 for 0. -/
def rsInv (a : Nat) : Nat := rsPow a 10 1022

/-- A power of the primitive element, modulo its order of 1,023. -/
def rsAlpha (e : Nat) : Nat := rsPow 2 10 (e % 1023)

/-! ## Polynomials over it, lowest coefficient first -/

/-- A sum of polynomials. -/
def rsAdd : List Nat → List Nat → List Nat
  | [], b => b
  | a, [] => a
  | x :: a, y :: b => (x ^^^ y) :: rsAdd a b

/-- A polynomial times a symbol. -/
def rsScale (c : Nat) (p : List Nat) : List Nat := p.map (rsMul c)

/-- The value of a polynomial. -/
def rsEval (p : List Nat) (x : Nat) : Nat := p.foldr (fun c v => c ^^^ rsMul v x) 0

/-- The first n coefficients of a product. -/
def rsProd (n : Nat) (a b : List Nat) : List Nat :=
  (List.range n).map (fun k => (List.range (k + 1)).foldl (fun v i => v ^^^ rsMul (a.getD i 0) (b.getD (k - i) 0)) 0)

/-! ## RS(544,514) -/

/-- Symbols of a codeword, those of its payload, and the errors that the code corrects. -/
def rsLen : Nat := 544
def rsData : Nat := 514
def rsFix : Nat := 15

/-- The syndromes of a codeword, first symbol first: its values at the 30 roots of the generator, powers 0 to 29 of the primitive
element. -/
def rsSyndromes (cw : List Nat) : List Nat :=
  (List.range (rsLen - rsData)).map (fun j => cw.foldl (fun v c => rsMul v (rsAlpha j) ^^^ c) 0)

/-- The search for the error locator over the syndromes that are left: n, the locator and its length, the previous locator, the
steps since it, and its discrepancy. -/
def rsLocate (syn : List Nat) : Nat → Nat → List Nat → Nat → List Nat → Nat → Nat → List Nat × Nat
  | 0, _, c, l, _, _, _ => (c, l)
  | k + 1, n, c, l, b, m, d0 =>
    let d := (List.range (l + 1)).foldl (fun v i => v ^^^ rsMul (c.getD i 0) (syn.getD (n - i) 0)) 0
    if d = 0 then rsLocate syn k (n + 1) c l b (m + 1) d0
    else
      let c' := rsAdd c (List.replicate m 0 ++ rsScale (rsMul d (rsInv d0)) b)
      if 2 * l ≤ n then rsLocate syn k (n + 1) c' (n + 1 - l) c 1 d else rsLocate syn k (n + 1) c' l b (m + 1) d0

/-- The powers of x, from p on, at which a codeword has an error: k of them are looked at, and x is the inverse of the primitive element to the
power p. -/
def rsRoots (loc : List Nat) : Nat → Nat → Nat → List Nat
  | 0, _, _ => []
  | k + 1, p, x => if rsEval loc x = 0 then p :: rsRoots loc k (p + 1) (rsHalf x) else rsRoots loc k (p + 1) (rsHalf x)

/-- The error of the symbol at a power of x, from the locator and the syndromes. -/
def rsError (syn loc : List Nat) (p : Nat) : Nat :=
  let x := rsAlpha (1023 - p % 1023)
  let om := rsEval (rsProd (rsLen - rsData) syn loc) x
  let dl := ((List.range loc.length).filter (fun i => i % 2 == 1)).foldl (fun v i => v ^^^ rsMul (loc.getD i 0) (rsPow x 10 (i - 1))) 0
  rsMul (rsAlpha p) (rsMul om (rsInv dl))

/-- A codeword decoded: its symbols and the number of them that were wrong, or none when it is uncorrectable. -/
def rsDecode (cw : List Nat) : Option (List Nat × Nat) :=
  if cw.length ≠ rsLen ∨ cw.any (fun c => decide (1024 ≤ c)) then none
  else
    let syn := rsSyndromes cw
    if syn.all (fun v => v == 0) then some (cw, 0)
    else
      let (loc, l) := rsLocate syn (rsLen - rsData) 0 [1] 0 [1] 1 1
      let at_ := rsRoots loc rsLen 0 1
      if rsFix < l ∨ at_.length ≠ l then none
      else
        let fixed := cw.zipIdx.map (fun e => if at_.contains (rsLen - 1 - e.2) then e.1 ^^^ rsError syn loc (rsLen - 1 - e.2) else e.1)
        if (rsSyndromes fixed).all (fun v => v == 0) then some (fixed, l) else none

/-! ## AES-256-GCM -/

/-- A product in the field of GHASH, bit 127 of a number being the first bit of its block: n bits of the first factor. -/
def ghashMul : Nat → Nat → Nat → Nat
  | 0, _, _ => 0
  | n + 1, x, v => (if x.testBit n then v else 0) ^^^ ghashMul n x (if v % 2 = 1 then v / 2 ^^^ 0xE1 * 2 ^ 120 else v / 2)

/-- GHASH of n blocks of 16 bytes. -/
def ghash (h : Nat) : Nat → Nat → List Byte → Nat
  | 0, y, _ => y
  | n + 1, y, bs => ghash h n (ghashMul 128 (y ^^^ beNat (bs.take 16)) h) (bs.drop 16)

/-- AES-256 of a block of bytes, as a number. -/
def aesBlock (ks : List (List Nat)) (bs : List Byte) : Nat := beNat ((aesEnc ks (bs.map BitVec.toNat)).map (BitVec.ofNat 8))

/-- The first 96 bits of the tag of a ciphertext, for an IV of 96 bits and no additional authenticated data. -/
def gcmTag (key iv text : List Byte) : List Byte :=
  let ks := aesKeys (key.map BitVec.toNat)
  let n := cdiv text.length 16
  let y := ghash (aesBlock ks (List.replicate 16 0)) (n + 1) 0 (padTo (16 * n) 0 text ++ beBytesN 16 (8 * text.length))
  (beBytesN 16 (y ^^^ aesBlock ks (padTo 12 0 iv ++ [0, 0, 0, 1]))).take 12

/-! ## Flits -/

/-- The parts of a flit of 256 bytes (R521): the payload, the tag and the CRC. -/
def flitPayload (f : List Byte) : List Byte := f.take 242
def flitTag (f : List Byte) : List Byte := (f.drop 242).take 12
def flitCrc (f : List Byte) : Nat := bytesNat ((f.drop 254).take 2)

/-- The CRC of a flit is good (R521, R522). -/
def flitCrcOk (f : List Byte) : Bool := f.length == 256 && crc16 (f.take 254) == flitCrc f

/-- The IV of a flit (R522, R523): its sequence, link key epoch 0, and the direction in the last bit. -/
def flitIv (seq : Nat) (dir : Bool) : List Byte := natBytes 8 seq ++ natBytes 4 (b2n dir * 2 ^ 31)

/-- The key of a direction (R528). -/
def flitKey (keys : List Byte) (dir : Bool) : List Byte := if dir then (keys.drop 32).take 32 else keys.take 32

/-- The direction of what the partner sends: 0 from the side with the lower node ID (R522). -/
def rxDir (s : State) : Bool := decide (fld s.cas.nodeId 15 0 < s.spn.partner)

/-- The tag of a received flit verifies: it is the next one of its direction (R522, R524). -/
def flitTagOk (s : State) (f : List Byte) : Bool :=
  flitTag f == gcmTag (flitKey s.spn.keys (rxDir s)) (flitIv s.spn.rxSeq (rxDir s)) (flitPayload f)

/-- A flit of the partner with a payload: its tag and its CRC (R521, R522). -/
def flitOf (s : State) (payload : List Byte) : List Byte :=
  let b := padTo 242 0 payload ++ padTo 12 0 (gcmTag (flitKey s.spn.keys (rxDir s)) (flitIv s.spn.rxSeq (rxDir s)) (padTo 242 0 payload))
  b ++ natBytes 2 (crc16 b)

/-- A codeword of a lane is decoded (R519): a corrected one is counted and logged as a CE, an uncorrectable one is counted for its lane
group (R535, R634). -/
def codeword (s : State) (c : Nat × List Nat) : State :=
  let g := c.1 / 8 % 4
  match rsDecode c.2 with
  | some (_, 0) => s
  | some _ => logErr (count { s with spn := { s.spn with fecCorr := satAdd 48 s.spn.fecCorr 1 } } pSPN 0 0x3FF g) .ce .ok pSPN g
  | none => count { s with spn := { s.spn with fecUncorr := satAdd 32 s.spn.fecUncorr 1,
                                               groupUncorr := tupd s.spn.groupUncorr g (fun n => n + 1) } } pSPN 1 0x3FF g

end Sys2Proof.Machine
end

