-- ==== Sys2Proof/Machine/RegRead.lean ====
section
/-!
DEFINITION. Reads of registers: the value that every offset of a page, of a doorbell page and of a partition view page returns,
and what a read of an RC register clears (R9, R14, R43, R47, R49, R54 and the register tables).
-/
namespace Sys2Proof.Machine
open Sys2Proof

/-- Number of a Lifecycle-independent list length. -/
def ctxN (s : State) (st : CtxState) : Nat := (s.lmp.ctxs.filter (fun e => e.2.st == st)).length

/-- A log record as four words (R648). -/
def logWords (r : LogRec) : List Word :=
  [pack [(0, r.status), (8, clsCode r.cls), (11, r.page % 64), (17, r.index % 256), (25, r.part % 1024), (35, b2n r.addr.isSome), (36, b2n r.addrVa)],
   w64 (r.addr.getD 0 % 2 ^ 57), w64 r.time, w64 (r.time / 2 ^ 64)]

/-- Fields of a channel as CH_CTL. -/
def chCtl (c : Chan) : Word := pack [(0, c.part), (10, b2n c.owned), (14, c.weight), (23, c.pipes), (32, c.cap)]

/-- CH_STAT of a channel. -/
def chStat (s : State) (c : Nat) : Word :=
  let h := tget s.mov.chans c
  let d := match h.active with
    | a :: _ => a.idx
    | [] => (h.fifo.head?.map (fun x => x.next)).getD 0
  pack [(0, chanState s c), (8, (h.fifo.filter (fun f => !f.started)).length), (16, (h.active.flatMap (fun a => a.segs.filter (fun g => g.st != .wait && g.st != .done))).length), (32, d)]

/-- Registers of a mailbox at an offset from its base (R482). -/
def mbGet (s : State) (m off : Nat) : Word :=
  let b := mbox s m
  match off with
  | 0x000 => pack [(0, b2n b.held), (16, b.owner)]
  | 0x008 => mbStat s m
  | 0x018 => b.s2h.headD 0
  | 0x020 => b.h2sDb
  | 0x028 => b.h2sMask
  | 0x030 => b.s2hDb
  | 0x038 => b.s2hMask
  | 0x040 => b.vec
  | 0x048 => pack [(0, b2n b.overrun), (1, b2n b.underrun), (2, b2n b.lockErr)]
  | 0x050 => pack [(0, b2n b.h2sTo), (1, b2n b.s2hTo), (2, b.h2sCause), (4, b.s2hCause), (8, b.lost)]
  | _ => 0

/-- Unit registers of CTL. -/
def getCTL (s : State) (off : Nat) : Word :=
  match off with
  | 0x200 => bootStat s
  | 0x208 => s.boot.info
  | 0x210 => s.boot.openAt
  | 0x218 => s.boot.prevStat
  | 0x230 => pack [(0, s.boot.urPage), (8, b2n s.boot.urBusy), (16, s.boot.urStatus.code)]
  | 0x238 => w64 s.boot.bootCount
  | _ => 0

/-- Unit registers of BCN. -/
def getBCN (s : State) (off : Nat) : Word :=
  match off with
  | 0x200 => setFld s.bcn.cfg 1 0 (fld (s.bcn.cfgNext.getD s.bcn.cfg) 1 0)
  | 0x208 => s.bcn.periodNext.getD s.bcn.period
  | 0x210 => s.bcn.count
  | 0x218 => pack [(0, subCount s), (11, fld s.bcn.cfg 6 4)]
  | 0x220 => bcnStat s
  | 0x228 => w64 s.bcn.stray
  | 0x230 => w64 s.bcn.coastTotal
  | 0x238 => w64 s.bcn.wordErr
  | 0x240 => s.bcn.darkAt
  | 0x248 => s.bcn.resync
  | 0x250 => w64 s.bcn.lastPeriod
  | _ => 0

/-- Unit registers of SEC. -/
def getSEC (s : State) (off : Nat) : Word :=
  let p := s.sec.partSel
  let e := tget s.sec.layout s.sec.rangeSel
  let r := tget s.sec.reserv (fld s.sec.resSel 5 0 * 4 + fld s.sec.resSel 9 8)
  match off with
  | 0x200 => lifeWord s
  | 0x208 => w64 p
  | 0x210 => pack [(0, tget s.sec.epochs p), (32, partCode (part s p).st), (35, b2n (isSealed s p)), (36, tget s.sec.sealed p),
                   (42, (s.sec.layout.filter (fun x => x.2.valid && x.2.part == p)).length)]
  | 0x218 => w64 s.sec.rangeSel
  | 0x220 => if e.valid then pack [(0, e.part), (10, 1), (11, b2n e.held), (22, e.base)] else 0
  | 0x228 => if e.valid then w64 e.len else 0
  | 0x230 => snuffStat s
  | 0x238 => s.sec.resSel
  | 0x240 => pack [(0, r.share), (16, r.eff), (26, b2n r.broken)]
  | 0x248 => s.sec.resCfg
  | 0x250 => w64 s.sec.brokenTotal
  | 0x258 => w64 s.sec.snuffTotal
  | 0x260 => w64 s.sec.attestTotal
  | 0x268 => w64 (tget s.sec.latEt p)
  | _ => 0

/-- Unit registers of MBX. -/
def getMBX (s : State) (off : Nat) : Word :=
  if 0x1000 ≤ off ∧ off < 0x9400 then
    let m := (off - 0x1000) / 0x200
    let o := (off - 0x1000) % 0x200
    if m ≠ 0 ∧ m ≠ 65 ∧ (o = 0x018 ∨ o = 0x020 ∨ o = 0x030 ∨ o = 0x038) then 0 else mbGet s m o
  else match off with
  | 0x200 => s.mbx.cfg
  | 0x208 => pack [(0, (s.mbx.boxes.filter (fun b => b.2.held)).length), (16, (s.mbx.boxes.filter (fun b => b.2.h2sTo || b.2.s2hTo)).length)]
  | 0x210 => s.mbx.toMapLo
  | 0x218 => s.mbx.toMapHi
  | _ => 0

/-- Unit registers of CNT. -/
def getCNT (s : State) (off : Nat) : Word :=
  if off = 0x200 then w64 (b2n s.cnt.freeze)
  else if off = 0x208 then s.cnt.ovf
  else if 0x400 ≤ off ∧ off < 0x600 then w64 (tget s.cnt.vals ((off - 0x400) / 8))
  else if 0x600 ≤ off ∧ off < 0x800 then tget s.cnt.cfgs ((off - 0x600) / 8) else 0

/-- Unit registers of RAS. -/
def getRAS (s : State) (off : Nat) : Word :=
  let r := s.ras
  match off with
  | 0x200 => r.cfg
  | 0x208 => pack [(0, r.worst), (3, b2n (!r.rebal.isEmpty)), (4, r.rebal.headD 0), (8, min 255 r.log.length)]
  | 0x210 => disLo s
  | 0x218 => disHi s
  | 0x228 => w64 r.logSel
  | 0x230 => (logWords r.logShown).getD 0 0
  | 0x238 => (logWords r.logShown).getD 1 0
  | 0x240 => (logWords r.logShown).getD 2 0
  | 0x248 => (logWords r.logShown).getD 3 0
  | 0x250 => w64 r.logLost
  | 0x258 => w64 r.ceTotal
  | 0x260 => w64 r.ueTotal
  | 0x268 => w64 r.protoTotal
  | 0x270 => w64 r.fatalTotal
  | _ => 0

/-- Unit registers of CAS. -/
def getCAS (s : State) (off : Nat) : Word :=
  let c := s.cas
  let r := tget c.ranges c.memSel
  match off with
  | 0x200 => pack [(0, c.pos), (3, b2n c.master), (4, c.sizeM1)]
  | 0x208 =>
    let reach := (List.range 8).foldl (fun w n => if n = c.pos ∨ (tget c.routes n).testBit 3 then setBit w (8 + n) true else w) 0
    let up := (List.range 4).foldl (fun w p => if ((tget c.peers p).map (fun q => q.up)) = some true then setBit w (16 + p) true else w) 0
    pack [(0, c.st), (4, c.err)] ||| reach ||| up
  | 0x210 => c.nodeId
  | 0x218 => pack ((List.range 8).map (fun n => (4 * n, tget c.routes n % 16)))
  | 0x220 => pack ((List.range 4).map (fun p => (16 * p, match tget c.peers p with
      | some q => (if q.up then 2 else 0) + 4 * q.pos + 32 * b2n q.master
      | none => 0)))
  | 0x228 => w64 c.memSel
  | 0x230 => r.base
  | 0x238 => r.ctl
  | 0x240 => r.pbase
  | 0x248 => w64 c.fwdBytes
  | _ => 0

/-- Unit registers of DET. The comparator's registers read 0 where it is not built (R621). -/
def getDET (s : State) (off : Nat) : Word :=
  let d := s.det
  let fp := fun (i : Nat) => w64 (bytesNat (((tget d.fps (min d.fpSel 64)).drop (8 * i)).take 8))
  if 0x260 ≤ off ∧ off ≤ 0x2A8 ∧ !hasLockstep s then 0
  else match off with
  | 0x200 => d.mode
  | 0x208 => detStat s
  | 0x210 => d.kindleAt
  | 0x218 => d.kindlePart
  | 0x220 => d.kindleCfg
  | 0x228 => w64 d.fpSel
  | 0x230 => fp 0
  | 0x238 => fp 1
  | 0x240 => fp 2
  | 0x248 => fp 3
  | 0x250 => fp 4
  | 0x258 => fp 5
  | 0x260 => d.lsCfg
  | 0x268 => d.lsPeer
  | 0x270 => d.lsRing
  | 0x278 => d.div.atK
  | 0x280 => pack [(0, d.div.kind), (4, d.div.station)]
  | 0x288 => w64 d.div.mine
  | 0x290 => w64 (d.div.mine / 2 ^ 64)
  | 0x298 => w64 d.div.peer
  | 0x2A0 => w64 (d.div.peer / 2 ^ 64)
  | 0x2A8 => w64 d.divTotal
  | 0x2B0 => w64 d.uncWin
  | _ => 0

/-- Unit registers of LAN. -/
def getLAN (s : State) (off : Nat) : Word :=
  let l := s.lan
  let sp := tget l.spaces l.spaceSel
  let s2 := tget l.s2 l.partSel
  match off with
  | 0x200 => l.cfg
  | 0x208 => pack [(0, (tsome l.walks).length), (16, l.misses.length)]
  | 0x210 => w64 l.spaceSel
  | 0x218 => pack [(0, b2n sp.valid), (15, sp.root / 2 ^ 15)]
  | 0x220 => pack [(0, sp.part), (16, sp.bound), (32, sp.sizes)]
  | 0x228 => w64 sp.epoch
  | 0x230 => w64 l.partSel
  | 0x238 => pack [(0, b2n s2.en), (15, s2.root / 2 ^ 15)]
  | 0x240 => w64 s2.epoch
  | 0x248 => l.wdCtl
  | 0x250 => l.wdBase
  | 0x258 => l.wdLen
  | 0x260 => pack [(0, l.wdStatus.code), (8, b2n l.wdBusy), (9, b2n l.wdDone)]
  | 0x268 => w64 l.missTotal
  | 0x270 => w64 l.runFallback
  | _ => 0

/-- Unit registers of HOM. -/
def getHOM (s : State) (off : Nat) : Word :=
  let h := s.hom
  if 0x400 ≤ off ∧ off < 0x800 then
    let w := tget h.windows ((off - 0x400) / 16)
    if off % 16 = 0 then w.w0 else w.w1
  else match off with
  | 0x200 => h.cfg
  | 0x208 => h.wickCfg
  | 0x210 => h.snoopCfg
  | 0x218 => w64 h.stashSel
  | 0x220 => tget h.stashMask h.stashSel
  | 0x228 => w64 h.dir.length
  | 0x230 =>
    let most := fun (f : Nat → Nat) => (List.range 8).foldl (fun n sl => max n (f sl)) 0
    pack [(0, most (fun sl => (inTrackers s (8 * s.cas.pos + sl)).length)), (16, most (fun sl => (h.wbuf.filter (fun l => sliceOf s l == sl)).length))]
  | 0x238 => w64 h.backinvTotal
  | 0x240 => w64 h.wickDelays
  | 0x248 => w64 h.stashTotal
  | 0x250 => w64 h.stashDropped
  | 0x258 => w64 h.snoopTimeout
  | 0x260 => w64 h.protoErr
  | 0x800 => h.winDrain.foldl (fun w n => setBit w n.1 true) 0
  | 0x808 => w64 h.remoteUncached
  | _ => 0

/-- Unit registers of MOV. -/
def getMOV (s : State) (off : Nat) : Word :=
  let m := s.mov
  match off with
  | 0x200 => w64 m.chSel
  | 0x208 => chCtl (tget m.chans m.chSel)
  | 0x210 => chStat s m.chSel
  | 0x218 => w64 (tget m.chans m.chSel).bytes
  | 0x220 => m.chHalf
  | 0x228 => m.chFull
  | 0x230 => m.chErr
  | 0x238 => w64 m.slotSel
  | 0x240 => w64 (tget m.slots m.slotSel)
  | 0x248 => w64 (stageUsed s)
  | 0x250 => w64 m.segTotal
  | 0x258 => w64 m.stashPartial
  | 0x260 => w64 m.poisonOut
  | _ => 0

/-- The 32 words of a program slot (R359). -/
def progSlot (s : State) (n : Nat) : List Word := (List.range 32).map (fun i => tget s.xfm.store (n * 32 + i))

/-- Unit registers of XFM. -/
def getXFM (s : State) (off : Nat) : Word :=
  let x := s.xfm
  let n := x.progSel
  let p := progSlot s n
  match off with
  | 0x200 => w64 n
  | 0x208 => tget x.own n
  | 0x210 =>
    let latched := s.mov.chans.foldl (fun k e => k + (e.2.active.filter (fun a => a.slot == some n)).length) 0
    pack [(0, progLen p), (5, b2n (progLen p != 0 && progFieldsOk p)), (6, b2n (progSr p)), (16, latched)]
  | 0x218 => w64 ((List.range 256).filter (fun i => fld (tget x.store (i * 32)) 4 0 != 0)).length
  | 0x220 => w64 x.srElems
  | 0x228 => w64 x.satTotal
  | 0x230 => w64 x.nanLost
  | 0x238 => w64 x.progRefused
  | _ => 0

/-- Frames that are FREE in the near pool (R402). -/
def freeFrames (s : State) : Nat := (s.tir.frames.filter (fun e => e.2.st == .free)).length

/-- Units of the far pool that hold the ember table (R372). -/
def tableUnits (s : State) : Nat := cdiv (s.tir.farUnits.toNat * 32) 524288

/-- Units that no ember holds, the table's own and the held ones apart. -/
def freeUnits (s : State) : Nat :=
  s.tir.farUnits.toNat - tableUnits s - s.sec.heldUnits.length -
  (s.tir.embers.filter (fun e => e.2.st != .untracked)).foldl (fun n e => n + e.2.units) 0

/-- Unit registers of TIR. -/
def getTIR (s : State) (off : Nat) : Word :=
  let t := s.tir
  match off with
  | 0x200 => t.cfg
  | 0x208 => t.win
  | 0x210 => t.thresh
  | 0x218 => t.nearBase
  | 0x220 => t.nearPages
  | 0x228 => t.farBase
  | 0x230 => t.farUnits
  | 0x238 => t.decodeBase
  | 0x240 => pack [(0, (tsome t.moves).length), (8, ((tsome t.moves).filter (fun e => e.2.step == .waitDrain)).length), (32, freeFrames s)]
  | 0x248 => pack [(0, freeUnits s), (32, 65536 - (t.embers.filter (fun e => e.2.st == .emberMx)).length)]
  | 0x250 => w64 t.demoteTotal
  | 0x258 => w64 t.promoteTotal
  | 0x260 => w64 t.lossyTotal
  | 0x268 => w64 t.abandoned
  | 0x270 => w64 t.decodeReads
  | _ => 0

/-- Unit registers of LMP. -/
def getLMP (s : State) (off : Nat) : Word :=
  let l := s.lmp
  let q := queue s l.qSel
  let p := part s l.partSel
  match off with
  | 0x200 => l.cfg
  | 0x208 => pack [(0, (l.queues.filter (fun e => e.2.enable)).length), (16, ctxN s .live), (32, (l.cmds.filter (fun c => c.st != .taking)).length)]
  | 0x210 => w64 l.qSel
  | 0x218 => q.base
  | 0x220 => q.cbase
  | 0x228 => pack [(0, b2n q.enable), (1, b2n q.priv), (2, q.log2), (16, q.ctx)]
  | 0x230 => pack [(0, min 127 (qInFlight s l.qSel)), (8, b2n q.stalled)]
  | 0x238 => w64 l.ctxSel
  | 0x240 => ctxCtl s l.ctxSel
  | 0x248 => (tget l.ctxs l.ctxSel).step
  | 0x250 => w64 l.partSel
  | 0x258 => p.objTbl
  | 0x260 => p.relBase
  | 0x268 => p.relCtl
  | 0x270 => w64 l.cmdTotal
  | 0x278 => w64 l.lostTotal
  | 0x280 => w64 l.refRefused
  | _ => 0

/-- Unit registers of FNC. -/
def getFNC (s : State) (off : Nat) : Word :=
  let f := s.fnc
  match off with
  | 0x200 => f.cfg
  | 0x208 => watchStat s
  | 0x210 => pack [(0, (tsome f.bars).length), (32, regsUsed s)]
  | 0x218 => w64 f.watchFull
  | 0x220 => w64 f.advTotal
  | 0x228 => w64 f.regressTotal
  | 0x230 => w64 f.sigDropped
  | 0x238 => w64 f.abandonTotal
  | 0x240 => w64 f.barRefused
  | _ => 0

/-- Link registers at 0x0300 of ENG, HST0 and HST1. -/
def getLink (s : State) (p off : Nat) : Word :=
  let l := linkOf s p
  match off with
  | 0x300 => l.cfg
  | 0x308 => pack [(0, l.st), (8, l.fdi)]
  | 0x310 => l.creditTx
  | 0x318 => l.creditRx
  | 0x320 => w64 (snpOut s p)
  | 0x328 => w64 l.snoopTimeout
  | 0x330 => w64 l.protoErr
  | 0x338 => l.protoLog
  | _ => 0

/-- Unit registers of ENG. -/
def getENG (s : State) (off : Nat) : Word :=
  let e := s.eng
  match off with
  | 0x200 => e.streamCfg
  | 0x208 => e.demandCfg
  | 0x210 => pack [(0, (e.slots.filter (fun x => x.2.bound)).length), (8, ((tsome e.reqs).filter (fun x => x.2.bursts.any (fun b => b.st == .held))).length),
                   (18, (e.tokens.filter (fun x => x.2.st != .free)).length), (32, e.hold.length)]
  | 0x218 => w64 e.pfIssued
  | 0x220 => w64 e.pfDrop
  | 0x228 => w64 e.pfUsed
  | 0x230 => w64 e.demandTotal
  | 0x238 => w64 e.faultDropped
  | 0x240 => w64 e.streamRefused
  | _ => if 0x300 ≤ off then getLink s pENG off else 0

/-- Unit registers of a memory port. -/
def getMP (s : State) (i off : Nat) : Word :=
  let m := tget s.mps i
  match off with
  | 0x200 => m.cfg
  | 0x208 => pack [(0, b2n m.present), (1, b2n m.en), (2, b2n m.ready), (8, m.cmdCr), (16, m.lineCr), (32, m.reads.length)]
  | 0x210 => w64 m.poisonRd
  | 0x218 => w64 m.lines
  | _ => 0

/-- Unit registers of SPN. -/
def getSPN (s : State) (off : Nat) : Word :=
  let n := s.spn
  match off with
  | 0x200 => n.cfg
  | 0x208 => spnStat s
  | 0x210 => w64 n.lanes
  | 0x218 => n.timers
  | 0x220 => n.remoteCfg
  | 0x228 => n.faultCfg
  | 0x230 => n.hostileCfg
  | 0x240 => w64 n.bcnCal
  | 0x248 => n.bcnAsym
  | 0x250 => n.remoteEn
  | 0x258 => w64 n.routeSel
  | 0x260 => w64 (tget n.routes n.routeSel)
  | 0x268 => n.ingressCfg
  | 0x270 => w64 n.fecCorr
  | 0x278 => w64 n.fecUncorr
  | 0x280 => w64 n.replayTotal
  | 0x288 => w64 n.malformed
  | 0x290 => w64 n.lateRsp
  | 0x298 => w64 n.deadlineExp
  | _ => 0

/-- Unit registers of a page by offset. -/
def unitGet (s : State) (p off : Nat) : Word :=
  match p with
  | 0x00 => getCTL s off
  | 0x01 => getBCN s off
  | 0x02 => getSEC s off
  | 0x03 => getMBX s off
  | 0x04 => getCNT s off
  | 0x05 => getRAS s off
  | 0x06 => getCAS s off
  | 0x07 => getDET s off
  | 0x08 => getLAN s off
  | 0x09 => getHOM s off
  | 0x0A => getMOV s off
  | 0x0B => getXFM s off
  | 0x0C => getTIR s off
  | 0x0D => getLMP s off
  | 0x0E => getFNC s off
  | 0x10 => getENG s off
  | 0x11 => if 0x300 ≤ off then getLink s 0x11 off else 0
  | 0x12 => if 0x300 ≤ off then getLink s 0x12 off else 0
  | 0x14 => getMP s 0 off
  | 0x15 => getMP s 1 off
  | 0x16 => getMP s 2 off
  | 0x17 => getMP s 3 off
  | 0x18 => getSPN s off
  | _ => 0

/-- Header registers of a page by offset (R54); DP_WIN is read through the data port. -/
def headGet (s : State) (p off : Nat) : Word :=
  let q := page s p
  match off with
  | 0x00 => pgId p
  | 0x08 => pgCap s p
  | 0x10 => pgCtl s p
  | 0x18 => pgStat s p
  | 0x20 => q.irqRaw
  | 0x28 => q.irqEn
  | 0x30 => irqPend q
  | 0x38 => q.irqVec
  | 0x40 => q.dpAddr
  | 0x48 => setFld q.dpCtl 1 0 q.dpMode
  | 0x50 => dpStat q
  | _ => 0

/-- The value of a register of a 64 KiB page: a reserved index reads 0 (R47), and an absent unit reads 0 but for PG_ID and
PG_CAP (R14). -/
def regGet (s : State) (p off : Nat) : Word :=
  if !isPage p then 0
  else if !present s p then (if off = 0 then pgId p else if off = 8 then pgCap s p else 0)
  else if off < 0x200 then headGet s p off else unitGet s p off

/-! ## What a read clears -/

/-- A state after a read of an RC register, or of an RC field of PG_STAT or DP_STAT (R9). The mailbox FIFO is popped. -/
def regClear (s : State) (p off : Nat) : State :=
  if !isPage p || !present s p then s else
  match p, off with
  | _, 0x18 => updPage s p (fun q => { q with accErr := false })
  | _, 0x50 => updPage s p (fun q => { q with dpUnderrun := false, dpConflict := false })
  | 0x01, 0x228 => updBcn s (fun b => { b with stray := 0 })
  | 0x01, 0x230 => updBcn s (fun b => { b with coastTotal := 0 })
  | 0x01, 0x238 => updBcn s (fun b => { b with wordErr := 0 })
  | 0x02, 0x250 => { s with sec := { s.sec with brokenTotal := 0 } }
  | 0x02, 0x258 => { s with sec := { s.sec with snuffTotal := 0 } }
  | 0x02, 0x260 => { s with sec := { s.sec with attestTotal := 0 } }
  | 0x05, 0x250 => { s with ras := { s.ras with logLost := 0 } }
  | 0x05, 0x258 => { s with ras := { s.ras with ceTotal := 0 } }
  | 0x05, 0x260 => { s with ras := { s.ras with ueTotal := 0 } }
  | 0x05, 0x268 => { s with ras := { s.ras with protoTotal := 0 } }
  | 0x05, 0x270 => { s with ras := { s.ras with fatalTotal := 0 } }
  | 0x06, 0x248 => { s with cas := { s.cas with fwdBytes := 0 } }
  | 0x07, 0x2A8 => { s with det := { s.det with divTotal := 0 } }
  | 0x07, 0x2B0 => { s with det := { s.det with uncWin := 0 } }
  | 0x08, 0x268 => { s with lan := { s.lan with missTotal := 0 } }
  | 0x08, 0x270 => { s with lan := { s.lan with runFallback := 0 } }
  | 0x09, 0x238 => { s with hom := { s.hom with backinvTotal := 0 } }
  | 0x09, 0x240 => { s with hom := { s.hom with wickDelays := 0 } }
  | 0x09, 0x248 => { s with hom := { s.hom with stashTotal := 0 } }
  | 0x09, 0x250 => { s with hom := { s.hom with stashDropped := 0 } }
  | 0x09, 0x258 => { s with hom := { s.hom with snoopTimeout := 0 } }
  | 0x09, 0x260 => { s with hom := { s.hom with protoErr := 0 } }
  | 0x09, 0x808 => { s with hom := { s.hom with remoteUncached := 0 } }
  | 0x0A, 0x218 => updChan s s.mov.chSel (fun c => { c with bytes := 0 })
  | 0x0A, 0x250 => { s with mov := { s.mov with segTotal := 0 } }
  | 0x0A, 0x258 => { s with mov := { s.mov with stashPartial := 0 } }
  | 0x0A, 0x260 => { s with mov := { s.mov with poisonOut := 0 } }
  | 0x0B, 0x220 => { s with xfm := { s.xfm with srElems := 0 } }
  | 0x0B, 0x228 => { s with xfm := { s.xfm with satTotal := 0 } }
  | 0x0B, 0x230 => { s with xfm := { s.xfm with nanLost := 0 } }
  | 0x0B, 0x238 => { s with xfm := { s.xfm with progRefused := 0 } }
  | 0x0C, 0x250 => { s with tir := { s.tir with demoteTotal := 0 } }
  | 0x0C, 0x258 => { s with tir := { s.tir with promoteTotal := 0 } }
  | 0x0C, 0x260 => { s with tir := { s.tir with lossyTotal := 0 } }
  | 0x0C, 0x268 => { s with tir := { s.tir with abandoned := 0 } }
  | 0x0C, 0x270 => { s with tir := { s.tir with decodeReads := 0 } }
  | 0x0D, 0x270 => { s with lmp := { s.lmp with cmdTotal := 0 } }
  | 0x0D, 0x278 => { s with lmp := { s.lmp with lostTotal := 0 } }
  | 0x0D, 0x280 => { s with lmp := { s.lmp with refRefused := 0 } }
  | 0x0E, 0x218 => { s with fnc := { s.fnc with watchFull := 0 } }
  | 0x0E, 0x220 => { s with fnc := { s.fnc with advTotal := 0 } }
  | 0x0E, 0x228 => { s with fnc := { s.fnc with regressTotal := 0 } }
  | 0x0E, 0x230 => { s with fnc := { s.fnc with sigDropped := 0 } }
  | 0x0E, 0x238 => { s with fnc := { s.fnc with abandonTotal := 0 } }
  | 0x0E, 0x240 => { s with fnc := { s.fnc with barRefused := 0 } }
  | 0x10, 0x218 => { s with eng := { s.eng with pfIssued := 0 } }
  | 0x10, 0x220 => { s with eng := { s.eng with pfDrop := 0 } }
  | 0x10, 0x228 => { s with eng := { s.eng with pfUsed := 0 } }
  | 0x10, 0x230 => { s with eng := { s.eng with demandTotal := 0 } }
  | 0x10, 0x238 => { s with eng := { s.eng with faultDropped := 0 } }
  | 0x10, 0x240 => { s with eng := { s.eng with streamRefused := 0 } }
  | 0x10, 0x328 => { s with eng := { s.eng with link := { s.eng.link with snoopTimeout := 0 } } }
  | 0x10, 0x330 => { s with eng := { s.eng with link := { s.eng.link with protoErr := 0 } } }
  | 0x11, 0x328 => { s with hst := tupd s.hst 0 (fun l => { l with snoopTimeout := 0 }) }
  | 0x11, 0x330 => { s with hst := tupd s.hst 0 (fun l => { l with protoErr := 0 }) }
  | 0x12, 0x328 => { s with hst := tupd s.hst 1 (fun l => { l with snoopTimeout := 0 }) }
  | 0x12, 0x330 => { s with hst := tupd s.hst 1 (fun l => { l with protoErr := 0 }) }
  | 0x18, 0x270 => { s with spn := { s.spn with fecCorr := 0 } }
  | 0x18, 0x278 => { s with spn := { s.spn with fecUncorr := 0 } }
  | 0x18, 0x280 => { s with spn := { s.spn with replayTotal := 0 } }
  | 0x18, 0x288 => { s with spn := { s.spn with malformed := 0 } }
  | 0x18, 0x290 => { s with spn := { s.spn with lateRsp := 0 } }
  | 0x18, 0x298 => { s with spn := { s.spn with deadlineExp := 0 } }
  | p, 0x210 => if 0x14 ≤ p ∧ p ≤ 0x17 then updMp s (p - 0x14) (fun m => { m with poisonRd := 0 }) else s
  | p, 0x218 => if 0x14 ≤ p ∧ p ≤ 0x17 then updMp s (p - 0x14) (fun m => { m with lines := 0 }) else s
  | _, _ => s

/-- What a read of a mailbox register clears (R482): the popped word, MB_ERR and MB_TIMEOUT. -/
def mbClear (s : State) (m off : Nat) : State :=
  match off with
  | 0x018 => (popS2h s m).1
  | 0x048 => updMb s m (fun b => { b with overrun := false, underrun := false, lockErr := false })
  | 0x050 => updMb s m (fun b => { b with h2sTo := false, s2hTo := false, h2sCause := 0, s2hCause := 0, lost := 0 })
  | _ => s

/-- A register of the doorbell page of a queue (R417 to R443). -/
def dbGet (s : State) (q off : Nat) : Word :=
  let k := queue s q
  match off with
  | 0x000 => w64 k.tail
  | 0x008 => w64 k.head
  | 0x010 => w64 k.done
  | 0x018 => dbStat s q
  | 0x020 => pack [(0, b2n k.badTail), (1, b2n k.objRefused), (2, b2n k.accErr)]
  | 0x030 => pack [(0, k.objStatus.code), (8, b2n k.objPend.isSome), (32, k.objCount)]
  | _ => 0

/-- DB_ERR is RC. -/
def dbClear (s : State) (q off : Nat) : State :=
  if off = 0x020 then updQ s q (fun k => { k with badTail := false, objRefused := false, accErr := false }) else s

/-- A register of the partition view page (R49, R630). -/
def pvGet (s : State) (p off : Nat) : Word :=
  let q := part s p
  if 0x800 ≤ off ∧ off < 0xC00 then (if off - 0x800 < 0x0F8 then mbGet s p (off - 0x800) else 0)
  else if 0x400 ≤ off ∧ off < 0x440 then w64 (tget q.tc ((off - 0x400) / 8)).src
  else if 0x440 ≤ off ∧ off < 0x480 then w64 (tget q.tc ((off - 0x440) / 8)).val
  else match off with
  | 0x000 => pack [(0, p), (24, 1), (16, 0xB0)]
  | 0x008 => pvCap s
  | 0x010 => pvStat s p
  | 0x018 => pvBuild s
  | 0x020 => w64 (b2n q.accErr)
  | 0x480 => q.tcPub
  | 0x488 => w64 q.tcBin
  | _ => 0

/-- PV_ERR and the RC registers of the mailbox. -/
def pvClear (s : State) (p off : Nat) : State :=
  if 0x800 ≤ off ∧ off < 0xC00 then mbClear s p (off - 0x800)
  else if off = 0x020 then updPart s p (fun q => { q with accErr := false }) else s

end Sys2Proof.Machine
end

