-- ==== Sys2Proof/Machine/Access.lean ====
section
/-!
DEFINITION. Who may reach a register, what a refused access leaves, expert control and the record of overridden fields (R46 to
R53, R74 to R82).
-/
namespace Sys2Proof.Machine
open Sys2Proof

/-- The root partition is open (R680). -/
def rootOpen (s : State) : Bool := s.boot.stage == 9

/-- A host station serves register accesses: its link is active, or the root partition has not opened since reset release, when
firmware already reaches the CTL page and the mailbox of partition 0 through it (R668, log entry 23). Station 16 * (n + 1) + h stands
for host station h of block n of the cascade, whose accesses come forwarded (R46). -/
def accUp (s : State) (h : Nat) : Bool :=
  decide (16 ≤ h) || hostUp s h || (decide (h < 2) && decide (2 ≤ s.boot.stage) && s.boot.stage != 9 && !fenced s (pHST0 + h))

/-- REG_RSP to a host station; the access itself is consumed (R239). What a block forwarded is answered to it (R46). -/
def regRsp (s : State) (st : Nat) (status : Status) (data : List Word) : State :=
  if 16 ≤ st then
    casSend s { src := s.cas.pos, dst := st / 16 - 1, cls := 5, bytes := 16 + 8 * data.length, load := .regRsp (st % 16) status data }
  else if hostUp s st then emit (consume s (pHST0 + st) 5) (.reg st status data) else emits s [.reg st status data]

/-- An access that its partition may not make: it changes nothing, returns 0 on a read, and is logged (R48). -/
def refusedAcc (s : State) (a : Acc) (data : List Word) : State :=
  regRsp (logProto s .permission (pHST0 + a.st % 16) (a.st % 16) a.part) a.st .permission data

/-- The regions of the block register space (R43). -/
inductive RegPlace where
  | page (p off : Nat)
  | doorbell (q off : Nat)
  | view (p off : Nat)
  | reserved
deriving DecidableEq, Repr

/-- Where an offset of the block register space lies (R43). -/
def regPlace (off : Nat) : RegPlace :=
  if off < 0x400000 then .page (off / 0x10000) (off % 0x10000)
  else if off < 0x800000 then .doorbell ((off - 0x400000) / 0x1000) (off % 0x1000)
  else if off < 0x840000 then .view ((off - 0x800000) / 0x1000) (off % 0x1000)
  else .reserved

/-- The partition may reach the region (the table of R48); before the root partition opens, only partition 0 reaches the CTL page
and its own view page (R668). -/
def mayReach (s : State) (part : Nat) : RegPlace → Bool
  | .page p _ => part == 0 && (rootOpen s || p == pCTL)
  | .doorbell q _ => rootOpen s && (part == 0 || (queue s q).part == part)
  | .view p _ => if rootOpen s then part == 0 || part == p else part == 0 && p == 0
  | .reserved => rootOpen s

/-- The size and alignment are accepted (R51): 8 bytes anywhere, 16 to 64 bytes inside DP_WIN. -/
def sizeOk (w : RegPlace) (off size : Nat) : Bool :=
  (size == 8 && off % 8 == 0) || (match w with
    | .page _ o => (size == 16 || size == 32 || size == 64) && off % size == 0 && decide (0x100 ≤ o) && decide (o + size ≤ 0x200)
    | _ => false)

/-- The record of an access of a wrong size or alignment (R52). -/
def badSize (s : State) : RegPlace → State
  | .page p _ => if isPage p && present s p then updPage s p (fun q => { q with accErr := true }) else s
  | .doorbell q _ => updQ s q (fun k => { k with accErr := true })
  | .view p _ => updPart s p (fun q => { q with accErr := true })
  | .reserved => s

/-- An offset of a page at or above 0x200 that a register table defines; the others are reserved (R47). -/
def regDefined (p off : Nat) : Bool :=
  let upTo := fun (hi : Nat) => decide (0x200 ≤ off) && decide (off ≤ hi)
  match p with
  | 0x00 => upTo 0x238 | 0x01 => upTo 0x250 | 0x02 => upTo 0x268
  | 0x03 => upTo 0x218 || (decide (0x1000 ≤ off) && decide (off < 0x9400))
  | 0x04 => off == 0x200 || off == 0x208 || (decide (0x400 ≤ off) && decide (off < 0x800))
  | 0x05 => upTo 0x270 | 0x06 => upTo 0x248 | 0x07 => upTo 0x2B0 | 0x08 => upTo 0x270
  | 0x09 => upTo 0x260 || off == 0x800 || off == 0x808 || (decide (0x400 ≤ off) && decide (off < 0x800))
  | 0x0A => upTo 0x260 | 0x0B => upTo 0x238 | 0x0C => upTo 0x270 | 0x0D => upTo 0x280 | 0x0E => upTo 0x240
  | 0x10 => upTo 0x240 || (decide (0x300 ≤ off) && decide (off ≤ 0x338))
  | 0x11 => decide (0x300 ≤ off) && decide (off ≤ 0x338)
  | 0x12 => decide (0x300 ≤ off) && decide (off ≤ 0x338)
  | 0x18 => upTo 0x298
  | _ => decide (0x14 ≤ p) && decide (p ≤ 0x17) && upTo 0x218

/-- Registers that the root partition may write at every value of EXPERT (R76). -/
def openReg (p off : Nat) : Bool :=
  match p with
  | 0x02 => off == 0x208 || off == 0x218 || off == 0x238
  | 0x03 => off == 0x210 || off == 0x218 || decide (0x1000 ≤ off)
  | 0x04 => off == 0x208
  | 0x05 => off == 0x228
  | 0x06 => off == 0x228
  | 0x07 => off == 0x228
  | 0x08 => off == 0x210 || off == 0x230
  | 0x09 => off == 0x218
  | 0x0A => off == 0x200 || off == 0x238 || off == 0x220 || off == 0x228 || off == 0x230
  | 0x0B => off == 0x200
  | 0x0D => off == 0x210 || off == 0x238 || off == 0x250
  | 0x18 => off == 0x258
  | _ => false

/-- Fields of a register as (lowest bit, width), for the record of overrides (R80). -/
def regFields (p off : Nat) : List (Nat × Nat) :=
  match p, off with
  | 0x01, 0x200 => [(0, 2), (2, 1), (4, 3), (16, 8)]
  | 0x01, 0x208 => [(0, 20), (20, 16)]
  | 0x06, 0x210 => [(0, 16), (16, 1)]
  | 0x06, 0x238 => [(0, 24), (24, 2), (26, 3), (29, 1), (30, 1)]
  | 0x08, 0x218 => [(0, 1), (15, 37)]
  | 0x08, 0x220 => [(0, 10)]
  | 0x08, 0x238 => [(0, 1), (15, 31)]
  | 0x0A, 0x208 => [(0, 10), (10, 1), (14, 4), (23, 8), (32, 12)]
  | 0x0A, 0x240 => [(0, 10), (10, 1)]
  | 0x0C, 0x200 => [(0, 1), (4, 4), (8, 4), (12, 4), (16, 9), (25, 4)]
  | 0x0C, 0x210 => [(0, 8), (8, 8), (16, 16), (32, 16)]
  | 0x0D, 0x228 => [(0, 1), (1, 1), (2, 5), (16, 16)]
  | 0x0D, 0x240 => [(0, 10), (16, 12)]
  | 0x0D, 0x258 => [(0, 5), (12, 40)]
  | 0x0D, 0x268 => [(0, 5), (8, 24), (32, 32)]
  | 0x10, 0x300 => [(0, 1)]
  | 0x11, 0x300 => [(8, 4), (12, 1)]
  | 0x12, 0x300 => [(8, 4), (12, 1)]
  | _, _ => [(0, 64)]

/-- Record that a select register names, for the registers that show it. -/
def selOf (s : State) (p off : Nat) : Nat :=
  match p with
  | 0x06 => if off = 0x230 ∨ off = 0x238 ∨ off = 0x240 then s.cas.memSel else 0
  | 0x08 => if off = 0x218 ∨ off = 0x220 then s.lan.spaceSel else if off = 0x238 then s.lan.partSel else 0
  | 0x0A => if off = 0x208 then s.mov.chSel else if off = 0x240 then s.mov.slotSel else 0
  | 0x0D => if off = 0x218 ∨ off = 0x220 ∨ off = 0x228 then s.lmp.qSel else if off = 0x240 then s.lmp.ctxSel
            else if 0x258 ≤ off ∧ off ≤ 0x268 then s.lmp.partSel else 0
  | _ => 0

/-- Key of a register in the record of what Sudric last set. -/
def basicKey (off sel : Nat) : Nat := off + 65536 * sel

/-- Sudric sets a register of a page through a service: the value is its basic setting (R80). -/
def noteBasic (s : State) (p off sel : Nat) (v : Word) : State :=
  updPage s p (fun q => { q with basic := tset q.basic (basicKey off sel) (some v) })

/-- A state with the select register that names a record set, for the registers that show one of many. -/
def withSel (s : State) (p off sel : Nat) : State :=
  match p with
  | 0x06 => if off = 0x230 ∨ off = 0x238 ∨ off = 0x240 then { s with cas := { s.cas with memSel := sel } } else s
  | 0x08 => if off = 0x238 then { s with lan := { s.lan with partSel := sel } } else { s with lan := { s.lan with spaceSel := sel } }
  | 0x0A => if off = 0x240 then { s with mov := { s.mov with slotSel := sel } } else { s with mov := { s.mov with chSel := sel } }
  | 0x0D => if off = 0x240 then { s with lmp := { s.lmp with ctxSel := sel } }
            else if 0x258 ≤ off then { s with lmp := { s.lmp with partSel := sel } } else { s with lmp := { s.lmp with qSel := sel } }
  | _ => s

/-- A register that Sudric has just set is its basic setting (R80). -/
def noteReg (s : State) (p off : Nat) : State := noteBasic s p off (selOf s p off) (regGet s p off)

/-- A register of a selected record that Sudric has just set is its basic setting (R80). -/
def noteSel (s : State) (p off sel : Nat) : State := noteBasic s p off sel (regGet (withSel s p off sel) p off)

/-- Several registers are noted. -/
def noteRegs (s : State) (p : Nat) (offs : List Nat) : State := offs.foldl (fun t o => noteReg t p o) s

/-- Several registers of a selected record are noted. -/
def noteSels (s : State) (p sel : Nat) (offs : List Nat) : State := offs.foldl (fun t o => noteSel t p o sel) s

/-- A field of a page is overridden (R80, R499): logged once, the oldest of 64 entries giving way. -/
def noteOverride (s : State) (p off sel : Nat) (f : Nat × Nat) (basic : Word) : State :=
  let e : Override := { off := off, lsb := f.1, width := f.2, st := 0, value := w64 (fld basic (f.1 + f.2 - 1) f.1), sel := sel }
  let q := page s p
  let known := q.log.any (fun x => x.off == off && x.lsb == f.1 && x.sel == sel && x.st == 0)
  let t := if known then s else updPage s p (fun q => { q with log := (e :: q.log).take 64 })
  let t := if q.log.isEmpty then tellEvent t 0 else t
  let t := updPage t p (fun q => { q with override := true })
  if q.override then t else raise t p 61

/-- The fields of a register that an expert write changed and whose value Sudric last set are overridden (R80). -/
def afterExpert (old new : State) (p off : Nat) : State :=
  match tget (page old p).basic (basicKey off (selOf old p off)) with
  | none => new
  | some b =>
    (regFields p off).foldl (fun t f =>
      let g := fun (w : Word) => fld w (f.1 + f.2 - 1) f.1
      if g (regGet old p off) = g (regGet new p off) then t else noteOverride t p off (selOf old p off) f b) new

/-- A host write of a unit register (R48, R14, R47, R75, R80): refused for every partition but root, UNIT_ABSENT for a unit that is
not built, ignored at a reserved offset, PERMISSION in LAST while EXPERT is 0, else the register's own effect, which may set LAST
again. The response to a write that EXPERT refuses is OK: the spec gives no STATUS for it (DESIGN CHOICE, log entry 24). -/
def unitWrite (s : State) (a : Acc) (p off : Nat) (f : State → State) : State :=
  if !accUp s a.st then s
  else if !mayReach s a.part (.page p off) then refusedAcc s a []
  else if !present s p then regRsp s a.st .unitAbsent []
  else if !regDefined p off then regRsp s a.st .ok []
  else if !(page s p).expert && !openReg p off then regRsp (setLast s p .permission) a.st .ok []
  else regRsp (afterExpert s (f (setLast s p .ok)) p off) a.st .ok []

/-- A host write of a header register of a page (R48, R14, R76). -/
def headWrite (s : State) (a : Acc) (p : Nat) (f : State → State) : State :=
  if !accUp s a.st then s
  else if !mayReach s a.part (.page p 0) then refusedAcc s a []
  else if !isPage p then regRsp s a.st .ok []
  else if !present s p then regRsp s a.st .unitAbsent []
  else regRsp (f s) a.st .ok []

/-- A register action of a page is refused: LAST takes the status and nothing else changes. -/
def refuseLast (s : State) (p : Nat) (st : Status) : State := setLast s p st

end Sys2Proof.Machine
end

