-- ==== Sys2Proof/Machine/Faults.lean ====
section
/-!
DEFINITION. Faults of engine and mover requests: fault records and the ring they go to, demand tokens, losses of contexts by a
fault, and the end of a pause (R173 to R186, R721).
-/
namespace Sys2Proof.Machine
open Sys2Proof

/-- What a fault record says of a fault (R181). -/
structure FaultInfo where
  cause : Nat := 0
  lvl : Nat := 0
  stage : Nat := 0
  acc : Access := .read
  ctx : Nat := 0
  part : Nat := 0
  space : Nat := 0
  va : Nat := 0
  /-- a mover channel is the source -/
  mover : Bool := false
  /-- port or channel -/
  src : Nat := 0
  /-- the request belonged to a stream slot: STREAM_ID, TILE, ROW and COL -/
  stream : Option (Nat × Nat × Nat × Nat) := none
  /-- bytes held for replay -/
  held : Nat := 0
deriving DecidableEq, Repr, Inhabited

/-- Code of an access class in a fault record (R181). -/
def accCode : Access → Nat
  | .read => 0 | .write => 1 | .atomic => 2

/-- LEVEL of a fault record: none with a fault that belongs to no level (R181). -/
def lvlCode (f : FaultInfo) : Nat :=
  if f.cause = 0xB ∨ f.cause = 0xA ∨ (f.cause = 7 ∧ f.lvl = 0) then 0 else f.lvl + 1

/-- The eight words of a fault record (R181). -/
def faultWords (s : State) (f : FaultInfo) (st : Status) (token attempt : Nat) : List Word :=
  let (id, tile, row, col) := f.stream.getD (0, 0, 0, 0)
  let demand := token != 0
  [pack [(0, st.code), (8, f.cause), (12, lvlCode f), (14, f.stage), (16, accCode f.acc), (18, b2n demand), (19, b2n f.stream.isSome),
         (20, min 15 attempt), (24, b2n f.mover), (25, f.src % 128), (32, token)],
   pack [(0, f.ctx), (16, f.part), (32, f.space)], w64 f.va, pack [(0, id), (32, tile % 2 ^ 32)],
   pack [(0, row % 2 ^ 32), (32, col % 2 ^ 20)], w64 (if demand then f.held % 2 ^ 40 else 0),
   w64 (timestamp s), w64 (timestamp s / 2 ^ 64)]

/-! ## Rings -/

/-- What an attempt to write to a ring meets (R180, R721). -/
inductive RingRes where
  /-- NPA of the header and of the slot -/
  | ok (hdr slot : Nat)
  | full
  | bad (st : Status)
deriving DecidableEq, Repr, Inhabited

/-- An address that a ring write needs: its NPA, or the status that forbids the write (R721). -/
def ringAddr (s : State) (p gpa : Nat) : Except Status Nat :=
  let (st, a, node) := gpaLookup s p gpa
  if node.isSome then .error .unmapped else if st == .ok then .ok a
  else if st == .permission then .error .permission else if st == .poison then .error .poison else .error .unmapped

/-- The next slot of the fault ring of a partition (R179, R180, R721). -/
def faultSlot (s : State) (p : Nat) : RingRes :=
  let q := part s p
  match q.faultObj with
  | none => .bad .unmapped
  | some o => match objRange s p o with
    | none => .bad .unmapped
    | some (g, _) => match ringAddr s p g with
      | .error st => .bad st
      | .ok h =>
        if bytesPois s (h + 8) 8 then .bad .poison
        else if 2 ^ q.faultLog ≤ (w64 q.faultProduce - rdWord s (h + 8)).toNat then .full
        else match ringAddr s p (g + 64 + q.faultProduce % 2 ^ q.faultLog * 64) with
          | .error st => .bad st
          | .ok a => .ok h a

/-- A fault record was written: one that pauses counts as a demand record (R200). -/
def faultNoted (s : State) (p : Nat) (w : List Word) : State :=
  if bitOf (w.getD 0 0) 18 then count { s with eng := { s.eng with demandTotal := satAdd 32 s.eng.demandTotal 1 } } pENG 3 p else s

/-- A fault record is written: the slot and PRODUCE, and once these are performed the ring's fence and the interrupt: DEMAND for a record
that pauses, LOST for one that loses its context (R179, R200, R268). -/
def faultPut (s : State) (p hdr slot : Nat) (w : List Word) : State :=
  let q := part s p
  let t := ownPuts s p (wordsAt slot w ++ [(hdr, w64 (q.faultProduce + 1))])
  let t := updPart t p (fun q => { q with faultProduce := q.faultProduce + 1, ringFail := false })
  announce (faultNoted t p w) { part := p, sig := some (q.faultFObj, q.faultFIdx, w64 (q.faultProduce + 1)),
                                irq := some (pENG, if bitOf (w.getD 0 0) 18 then 0 else 3), lines := [slot / 128, hdr / 128] }

/-- The first failed attempt after a successful write is logged (R721). -/
def faultFailed (s : State) (p : Nat) (st : Status) : State :=
  if (part s p).ringFail then s
  else updPart (logProto s st pENG 0 p) p (fun q => { q with ringFail := true })

/-- A record is held for later, or discarded when the store of 256 is full (R180). -/
def faultHold (s : State) (p : Nat) (w : List Word) : State :=
  if 256 ≤ poolHeld s uHold s.eng.hold.length then
    let t := count { s with eng := { s.eng with faultDropped := satAdd 32 s.eng.faultDropped 1 } } pENG 4 p
    if s.eng.faultDropped = 0 then raise t pENG 2 else t
  else
    let t := { s with eng := { s.eng with hold := s.eng.hold ++ [(p, w)] } }
    if s.eng.hold.isEmpty then raise { t with eng := { t.eng with holdNext := s.bcn.count + 16 } } pENG 1 else t

/-- The header line of a ring that shows no room is asked for, where a cache may hold CONSUME newer than memory (R36, R180). -/
def ringAsk (s : State) (k p gpa : Nat) : State :=
  match ringAddr s p gpa with
  | .ok h => ownAsk s k (h / 128)
  | .error _ => s

/-- GPA of the fault ring of a partition, when one is registered. -/
def faultGpa (s : State) (p : Nat) : Option Nat := ((part s p).faultObj.bind (objRange s p)).map (fun r => r.1)

/-- A record waits for room: the ring's CONSUME word is asked for. -/
def faultWait (s : State) (p : Nat) : State :=
  match faultGpa s p with
  | some g => ringAsk s (kRing p) p g
  | none => s

/-- A record of the partition can be written now: none is held before it and its ring has room. -/
def faultRoom (s : State) (p : Nat) : RingRes :=
  if s.eng.hold.any (fun e => e.1 == p) then .full else faultSlot s p

/-- A fault record goes to its ring or to the hold store (R179, R180, R721). -/
def faultRecord (s : State) (p : Nat) (w : List Word) : State :=
  match faultRoom s p with
  | .ok h a => faultPut s p h a w
  | .full => faultWait (faultHold s p w) p
  | .bad st => faultHold (faultFailed s p st) p w

/-- The held records are tried in order; those of a partition keep their order (R180, R721). -/
def faultRetry (s : State) : State :=
  let l := s.eng.hold
  let t := (l.map (fun e => kRing e.1)).dedup.foldl ownDone { s with eng := { s.eng with hold := [] } }
  let t := l.foldl (fun u e =>
    match faultRoom u e.1 with
    | .ok h a => faultPut u e.1 h a e.2
    | .full => faultWait { u with eng := { u.eng with hold := u.eng.hold ++ [e] } } e.1
    | .bad st =>
      let v := faultFailed u e.1 st
      { v with eng := { v.eng with hold := v.eng.hold ++ [e] } }) t
  { t with eng := { t.eng with holdNext := t.bcn.count + 16 } }

/-! ## Losses and pauses -/

/-- A fault loses its context (R173, R182): a record where a ring is registered, else an error record, and the loss itself at
rank 3 (R413). -/
def faultLose (s : State) (f : FaultInfo) (st : Status) : State :=
  let t := if (part s f.part).faultObj.isSome then faultRecord s f.part (faultWords s f st 0 0)
    else logErr s .protocol st (if f.mover then pMOV else pENG) f.src f.part (some f.va) true
  doom t f.ctx st

/-- The token that a space's granule holds (R177). -/
def tokenOf (s : State) (space page : Nat) : Option (Nat × Token) :=
  s.eng.tokens.find? (fun e => e.2.st != .free && e.2.space == space && e.2.page == page)

/-- A state with a token changed. -/
def updToken (s : State) (k : Nat) (f : Token → Token) : State := { s with eng := { s.eng with tokens := tupd s.eng.tokens k f } }

/-- DEMAND_CFG[DEADLINE] in bt; 0 acts as 1. -/
def demandLen (s : State) : Nat := max 1 (fld s.eng.demandCfg 31 0)

/-- A demand record goes to its ring or to the hold store (R179). -/
def demandRecord (s : State) (f : FaultInfo) (k attempt : Nat) : State :=
  faultRecord s f.part (faultWords s f .demandPending k attempt)

/-- The hold store has no room for the record of a further demand fault (R180). -/
def demandFull (s : State) (p : Nat) : Bool :=
  (match faultRoom s p with
  | .ok _ _ => false
  | _ => true) && decide (256 ≤ poolHeld s uHold s.eng.hold.length)

/-- A fault with cause S1_DEMAND from an engine port or mover channel (R173, R177, R178, R180, R183): the token under which its
bytes are held, or none when the context is lost. A token that is paused again takes a new record, and loses its context where that
finds the store full (R180). -/
def demandFault (s : State) (f : FaultInfo) : State × Option Nat :=
  let page := f.va / 2 ^ 22
  if (part s f.part).faultObj.isNone then (faultLose s f .unmapped, none)
  else match tokenOf s f.space page with
    | some (k, t) =>
      if t.st == .paused then
        (updToken s k (fun t => { t with ctxs := setIns t.ctxs f.ctx }), some k)
      else if demandFull s f.part then (faultLose s f .quota, none)
      else
        let u := updToken s k (fun t => { t with st := .paused, ctxs := setIns t.ctxs f.ctx, attempt := min 15 (t.attempt + 1),
                                                 due := s.bcn.count + w64 (demandLen s) })
        (demandRecord u f k (min 15 (t.attempt + 1)), some k)
    | none =>
      if demandFull s f.part then (faultLose s f .quota, none)
      else match ((List.range 1024).map (fun i => i + 1)).find? (fun k => (tget s.eng.tokens k).st == .free && unitOpen s uToken k) with
        | none => (faultLose s f .quota, none)
        | some k =>
          let u := updToken (takeUnit s uToken k) k (fun _ => { st := .paused, part := f.part, ctxs := [f.ctx], space := f.space, page := page,
                                                                due := s.bcn.count + w64 (demandLen s), attempt := 0 })
          (demandRecord u f k 0, some k)

/-- Bytes are held under a token: bursts of engine requests, or segments of mover channels. -/
def tokenHeld (s : State) (k : Nat) : Bool :=
  (tsome s.eng.reqs).any (fun e => e.2.bursts.any (fun b => b.token == k)) ||
  s.mov.chans.any (fun e => e.2.paused.contains k)

/-- A token whose bytes have all issued or gone is freed (R183, R186). -/
def tokenSettle (s : State) (k : Nat) : State := if k = 0 ∨ tokenHeld s k then s else updToken s k (fun _ => {})

/-- A burst of an engine request ends without reaching memory: its reads return POISON and its writes are dropped (R176, R186). -/
def burstFail (s : State) (n b : Nat) (st : Status) : State :=
  match tget s.eng.reqs n with
  | none => s
  | some r =>
    let x := r.bursts.getD b {}
    let st' := if asksData r.op then .poison else st
    let req : HomeReq := { op := r.op, agent := 16 + s.cas.pos, origin := .eng n b, tag := r.tag, part := r.part }
    let t := { s with eng := { s.eng with reqs := tset s.eng.reqs n (some { r with bursts := lmod r.bursts b (fun y => { y with token := 0 }) }) } }
    tokenSettle ((List.range x.left).foldl (fun u _ => refuseReq u req st') t) x.token

/-- Every burst that satisfies a test ends without reaching memory. -/
def burstsFail (s : State) (f : EngReq → Burst → Bool) (st : Status) : State :=
  (tsome s.eng.reqs).foldl (fun t e =>
    (List.range e.2.bursts.length).foldl (fun u b =>
      let x := e.2.bursts.getD b {}
      if f e.2 x && x.st != .done && x.st != .issued then burstFail u e.1 b st else u) t) s

/-- RETRY: the held bytes of a token are walked again (R183). -/
def tokenRetry (s : State) (k : Nat) : State :=
  let free := fun (r : EngReq) => { r with bursts := r.bursts.map (fun b => if b.token == k then { b with st := .waiting } else b) }
  let t := updToken s k (fun t => { t with st := .retrying })
  let t := { t with
    eng := { t.eng with reqs := t.eng.reqs.map (fun e => (e.1, e.2.map free)) } }
  tokenSettle t k

/-- A pause ends with the loss of its contexts (R183, R184, R186). -/
def tokenAbort (s : State) (k : Nat) (st : Status) : State :=
  let cs := (tget s.eng.tokens k).ctxs
  let t := cs.foldl (fun u c => doom u c st) s
  let t := burstsFail t (fun _ b => b.token == k) st
  let z := fun (x : Nat) => if x = k then 2048 else x
  let t := { t with mov := { t.mov with chans := t.mov.chans.map (fun e => (e.1, { e.2 with
    paused := e.2.paused.filter (fun x => x != k)
    descTok := z e.2.descTok
    descRetry := z e.2.descRetry
    active := e.2.active.map (fun a => { a with segs := a.segs.map (fun g => { g with
      held := g.held.map z, retry := g.retry.map z, reads := g.reads.map (fun l => { l with token := z l.token }) }) }) })) } }
  updToken t k (fun _ => {})

end Sys2Proof.Machine
end

