-- ==== Sys2Proof/Machine/Engine.lean ====
section
/-!
DEFINITION. The engine station: requests and their bursts, stream slots and translation ahead of demand, misses and walks, and
the issue of bursts to the homes (R31 to R33, R139 to R154, R159 to R176, R225, R719, R720).
-/
namespace Sys2Proof.Machine
open Sys2Proof

/-! ## Requests -/

/-- Access class of an engine request (R123): ownership is asked for a write (log entry 21). -/
def opAccess : HomeOp → Access
  | .rdShared => .read
  | .rdOnce => .read
  | .atomic _ => .atomic
  | _ => .write

/-- The request class that the engine station issues under a combined ATTR (R225). -/
def attrOp (attr : Nat) (op : HomeOp) : HomeOp :=
  if attr = 0 then op
  else match op with
    | .rdShared | .rdOwn | .upgrade | .rdOnce => .rdOnce
    | .wrFull | .wrStash => .wrFull
    | .wrPart => .wrPart
    | .atomic a => .atomic a

/-- The bursts of lines from a VA on: runs within one 16 KiB-aligned block (R169). -/
def cutBursts : Nat → Nat → Nat → Nat → List Burst
  | 0, _, _, _ => []
  | n + 1, va, line0, lines =>
    if lines = 0 then []
    else
      let k := min lines ((16384 - va % 16384) / 128)
      { va := va, line0 := line0, lines := k, left := k } :: cutBursts n (va + k * 128) (line0 + k) (lines - k)

/-- A request in its port. -/
def req (s : State) (n : Nat) : EngReq := (tget s.eng.reqs n).getD {}

/-- A state with a burst changed. -/
def updBurst (s : State) (n b : Nat) (f : Burst → Burst) : State :=
  { s with eng := { s.eng with reqs := tupd s.eng.reqs n (fun r => r.map (fun r => { r with bursts := lmod r.bursts b f })) } }

/-- A burst of a request. -/
def burst (s : State) (n b : Nat) : Burst := (req s n).bursts.getD b {}

/-! ## Stream descriptors -/

/-- Access class of a stream (R159). -/
def dirAccess (d : List Word) : Access := match dDir d with
  | 0 => .read
  | 1 => .write
  | _ => .atomic

/-- A descriptor is not bound (R161). -/
def descRefused (s : State) (p c : Nat) (d : List Word) : Bool :=
  let w := fun i => d.getD i (0 : Word)
  let (lo, hi) := tileRange d 0
  let running := tget (part s p).dispRun (fld (w 5) 43 32)
  dRowBytes d == 0 || dDir d == 3 || fld (w 0) 63 59 != 0 || fld (w 1) 63 60 != 0 || fld (w 2) 63 40 != 0 || fld (w 3) 63 48 != 0 ||
  fld (w 4) 63 48 != 0 || fld (w 5) 63 45 != 0 ||
  (!bitOf (w 5) 44 && !(running.1 == c && running.2 != 0)) || decide (lo < 0) || decide ((2 ^ 57 : Nat) < hi)

/-! ## Stream slots -/

/-- The stream slot of a port that a context and STREAM_ID name (R162). -/
def slotFind (s : State) (port c id : Nat) : Option Nat :=
  ((List.range 4).map (fun i => port * 4 + i)).find? (fun k =>
    let x := tget s.eng.slots k
    x.bound && x.ctx == c && dStream x.desc == id)

/-- A stream slot. -/
def slotOf (s : State) (k : Nat) : Slot := tget s.eng.slots k

/-- A state with a stream slot set. -/
def setSlot (s : State) (k : Nat) (x : Slot) : State := { s with eng := { s.eng with slots := tset s.eng.slots k x } }

/-- The slot that an open takes (R162): its own again, the lowest free one, or that whose latest request is the oldest. -/
def slotFor (s : State) (port c id : Nat) : Nat :=
  match slotFind s port c id with
  | some k => k
  | none =>
    let l := (List.range 4).map (fun i => port * 4 + i)
    match l.find? (fun k => !(slotOf s k).bound) with
    | some k => k
    | none => l.foldl (fun a k => if (slotOf s k).tick < (slotOf s a).tick then k else a) (port * 4)

/-- STREAM_OPEN binds a descriptor, or refuses it (R161, R162). The descriptor's STREAM_ID names the stream; the one that the request's
header carries beside it is not read (DESIGN CHOICE, log entry 70). An older binding of a stream that is opened anew and refused is
released, so that its requests are served as plain ones. -/
def openStream (s : State) (port c : Nat) (d : List Word) : State :=
  if descRefused s (ctxOf s c).part c d then
    let t := match slotFind s port c (dStream d) with
      | some k => releaseSlot s k
      | none => s
    count { t with eng := { t.eng with streamRefused := satAdd 32 t.eng.streamRefused 1 } } pENG 5 (ctxOf s c).part port
  else
    let k := slotFor s port c (dStream d)
    let t := setSlot (dropPref s k) k { bound := true, ctx := c, desc := d, tick := s.eng.nextReq, bindNo := s.eng.nextBind }
    { t with eng := { t.eng with nextReq := s.eng.nextReq + 1, nextBind := s.eng.nextBind + 1 } }

/-! ## Prefetch -/

/-- Fields of STREAM_CFG with their limits. -/
def pfMaxDepth (s : State) : Nat := clamp 1 8 (fld s.eng.streamCfg 3 0)
def pfLead (s : State) : Nat := fld s.eng.streamCfg 23 8
def pfBudget (s : State) : Nat := fld s.eng.streamCfg 31 24
def pfWalks (s : State) : Nat := min 64 (fld s.eng.streamCfg 38 32)

/-- The depth D (R164): LEAD over the mean interval of the last four starts, newest first; MAX_DEPTH under FIXED_DEPTH (R608). For starts
in one cycle, whose mean interval is 0, the source states no quotient: the depth is MAX_DEPTH (DESIGN CHOICE, log entry 70). -/
def pfDepth (s : State) (starts : List Nat) : Nat :=
  if bitOf s.det.mode 2 then pfMaxDepth s else match starts with
  | [] => 2
  | [_] => 2
  | a :: t =>
    let span := a - t.getLastD a
    if span = 0 then pfMaxDepth s else clamp 1 (pfMaxDepth s) (cdiv (pfLead s * t.length) span)

/-- Probes of one tile ahead in ascending granules (R165): the misses it starts. -/
def pfProbe (s : State) (port k space : Nat) (acc : Access) (first : Option Nat) : Nat → Nat → Nat → List Miss
  | 0, _, _ => []
  | n + 1, va, stop =>
    if stop ≤ va then []
    else match lanternFind s false space va with
      | some e => pfProbe s port k space acc first n ((e.pn + 1) * pageBytes e.x.size) stop
      | none =>
        { port := port, req := k, space := space, va := va, acc := acc, pref := true,
          first := first.any (fun a => a / 2 ^ 22 == va / 2 ^ 22), tick := s.clk.et } ::
        pfProbe s port k space acc first n ((va / 2 ^ 22 + 1) * 2 ^ 22) stop

/-- Firefly of a port. -/
def firefly (s : State) (port : Nat) : List TlbEntry := tget s.eng.fireflies port

/-- A state with the Firefly of a port set. -/
def setFirefly (s : State) (port : Nat) (l : List TlbEntry) : State :=
  { s with eng := { s.eng with fireflies := tset s.eng.fireflies port l } }

/-- A stream slot of the port protects an entry: it holds the first byte of the slot's current or next tile (R140). -/
def protects (s : State) (port : Nat) (e : TlbEntry) : Bool :=
  (List.range 4).any (fun i =>
    let x := slotOf s (port * 4 + i)
    x.bound && x.prot.any (fun a => tlbHits e false (ctxOf s x.ctx).space a))

/-- A prefetch of the slot for a granule joins one that waits already, or waits itself (R165, R166). -/
def pfJoin (l : List Miss) (m : Miss) : List Miss :=
  let same := fun (x : Miss) => x.pref && x.req == m.req && x.space == m.space && x.va / 2 ^ 22 == m.va / 2 ^ 22
  if l.any same then l.map (fun x => if same x then { x with first := x.first || m.first } else x) else l ++ [m]

/-- The translation of the first byte of the next tile, where the Lantern holds it already, fills a Firefly entry (R166): the source names
the fill of a walk, and the model reads that the slot protects its next tile whether or not a walk was needed (DEDUCED, log entry 70). -/
def pfFirst (s : State) (port space va : Nat) : State :=
  match lanternFind s false space va with
  | some e => setFirefly s port (tlbFill s (firefly s port) e (protects s port))
  | none => s

/-- Prefetch for one tile ahead (R165, R166). -/
def pfTile (s : State) (port k : Nat) (t : Nat) (next : Bool) : State :=
  let x := slotOf s k
  let cnt := dTileCount x.desc
  if cnt ≠ 0 ∧ cnt ≤ t then s
  else
    let (lo, hi) := tileRange x.desc t
    let a := tileStart x.desc t
    let sp := (ctxOf s x.ctx).space
    let ms := if lo < 0 then [] else
      (pfProbe s port k sp (dirAccess x.desc) (if next then some a.toNat else none) (pfBudget s) lo.toNat (min hi.toNat (2 ^ 57))).map
        (fun m => { m with pfw := pfWalks s })
    let u := setSlot { s with lan := { s.lan with misses := ms.foldl pfJoin s.lan.misses } } k { x with prefed := t :: x.prefed }
    if next && decide (0 ≤ a) then pfFirst u port sp a.toNat else u

/-- Tile t starts (R164): its start is noted, the first bytes of it and of the next tile are protected (R140), and the tiles
ahead are prefetched. -/
def startTile (s : State) (port k t : Nat) : State :=
  let x := slotOf s k
  let st := (s.clk.cyc :: x.starts).take 4
  let x := { x with tile := some t, starts := st, started := setIns x.started t, prefed := [], prot := [(tileStart x.desc t).toNat, (tileStart x.desc (t + 1)).toNat] }
  let u := setSlot s k x
  if pfBudget s = 0 then u
  else (List.range (pfDepth s st)).foldl (fun u i => pfTile u port k (t + 1 + i) (i == 0)) u

/-- A request of a bound stream uses its slot; the first request of a tile index starts that tile (R719). -/
def slotUse (s : State) (port k t : Nat) : State :=
  let x := { slotOf s k with tick := s.eng.nextReq }
  let s := setSlot s k x
  if x.started.contains t then s else startTile s port k t

/-! ## Translation of bursts -/

/-- A fill of a port's Firefly (R140). -/
def fireflyFill (s : State) (port : Nat) (e : TlbEntry) : State := setFirefly s port (tlbFill s (firefly s port) e (protects s port))

/-- A demand hit on a prefetched fill counts (R201). -/
def pfHit (s : State) (e : TlbEntry) : State :=
  if e.pref then count { s with eng := { s.eng with pfUsed := satAdd 32 s.eng.pfUsed 1 } } pENG 2 else s

/-- Misses that a port has outstanding. -/
def portMisses (s : State) (port : Nat) : Nat :=
  (s.lan.misses.filter (fun m => !m.pref && m.port == port)).length + ((tsome s.lan.walks).filter (fun w => !w.2.miss.pref && w.2.miss.port == port)).length

/-- A burst misses and waits for a walk, when the port has room for a miss (R151). -/
def burstMiss (s : State) (n b : Nat) : State :=
  let r := req s n
  if 8 ≤ portMisses s r.port then updBurst s n b (fun x => { x with st := .waiting })
  else
    let m : Miss := { port := r.port, req := n, burst := b, space := r.space, va := (burst s n b).va, acc := opAccess r.op, tick := s.clk.et }
    let t := updBurst s n b (fun x => { x with st := .missed })
    { t with lan := { t.lan with misses := t.lan.misses ++ [m] } }

/-- A burst looks for its translation in the Firefly and then in the Lantern (R139, R143). -/
def burstProbe (s : State) (n b : Nat) : State :=
  let r := req s n
  let va := (burst s n b).va
  match tlbFind (firefly s r.port) false r.space va with
  | some e => updBurst (pfHit (setFirefly s r.port (tlbTouch (firefly s r.port) e)) e) n b (fun x => { x with st := .ready })
  | none => match lanternFind s false r.space va with
    | some e => updBurst (fireflyFill (pfHit (lanternTouch s e) e) r.port e) n b (fun x => { x with st := .ready })
    | none => burstMiss s n b

/-- What a fault record says of a burst's fault (R181). -/
def burstInfo (s : State) (n b cause lvl stage : Nat) : FaultInfo :=
  let r := req s n
  let x := burst s n b
  let (va, row, col) := if r.slot.isSome then firstInTile r.desc r.tile x.va (x.lines * 128) else (x.va, 0, 0)
  { cause := cause, lvl := lvl, stage := stage, acc := opAccess r.op, ctx := r.ctx, part := r.part, space := r.space, va := va,
    src := r.port, stream := r.slot.map (fun _ => (dStream r.desc, r.tile, row, col)),
    held := if r.slot.isSome then tileBytesIn r.desc r.tile (x.va / 2 ^ 22)
            else (r.bursts.filter (fun y => y.va / 2 ^ 22 == x.va / 2 ^ 22)).foldl (fun k y => k + y.lines * 128) 0 }

/-- What a request counts as among the paused: its tile, by slot, binding and index, or itself (R178). -/
def pauseKey (n : Nat) (r : EngReq) : Nat × Nat × Nat × Nat :=
  match r.slot with
  | some k => (1, k, r.bindNo, r.tile)
  | none => (0, n, 0, 0)

/-- Paused tiles and requests of a port: those with bytes under a token (R178). -/
def portPaused (s : State) (port : Nat) : List (Nat × Nat × Nat × Nat) :=
  (((tsome s.eng.reqs).filter (fun e => e.2.port == port && e.2.bursts.any (fun b => b.st == .held))).map (fun e => pauseKey e.1 e.2)).dedup

/-- The translation of a burst faults (R173 to R178). -/
def burstFault (s : State) (n b cause lvl stage : Nat) : State :=
  let f := burstInfo s n b cause lvl stage
  if (tget s.eng.reqs n).isNone then s
  else if cause = 2 then
    if 8 ≤ (portPaused s f.src).length ∧ !(portPaused s f.src).contains (pauseKey n (req s n)) then
      updBurst s n b (fun x => { x with st := .waiting, parked := true })
    else match demandFault s f with
      | (t, some k) => updBurst t n b (fun x => { x with st := .held, token := k })
      | (t, none) => burstFail t n b (if (part s f.part).faultObj.isNone then .unmapped else .quota)
  else burstFail (faultLose s f (causeStatus cause)) n b (causeStatus cause)

/-- A later tile of a stream waits while bytes of an earlier one are held (R175). -/
def tileHeld (s : State) (r : EngReq) : Bool :=
  match r.slot with
  | none => false
  | some k => (tsome s.eng.reqs).any (fun e => e.2.slot == some k && e.2.bindNo == r.bindNo && decide (e.2.tile < r.tile) && e.2.bursts.any (fun b => b.st == .held))

/-! ## Issue -/

/-- The request of one line of a burst, at its home, stamped with the count at its issue (R301). -/
def lineReq (s : State) (n b i : Nat) (x : Burst) : HomeReq :=
  let r := req s n
  { op := attrOp x.x.attr r.op, agent := 16 + s.cas.pos, origin := .eng n b, tag := r.tag, part := r.part,
    line := xAddr x.x (x.va + 128 * i) / 128
    data := match r.op with
      | .atomic a => stampCtx a (r.data.getD (x.line0 + i) 0) (r.masks.getD (x.line0 + i) 0) (some r.ctx)
      | _ => r.data.getD (x.line0 + i) 0
    mask := r.masks.getD (x.line0 + i) 0, poison := r.poisons.getD (x.line0 + i) 0, et := s.clk.et, va := x.va + 128 * i, stash := r.stash, prio := r.prio, ctx := some r.ctx,
    contrib := tget s.hom.binds ((ctxIdx s r.ctx).getD 0), stamp := s.bcn.count }

/-- A RED_ORD whose contributor name belongs to another node than the line's is refused at its origin (R308, R511). -/
def wrongNode (r : HomeReq) (node : Nat) : Bool :=
  match r.op with
  | .atomic a => aopOp a == 0xB && (match r.contrib with
    | some (m, _, _) => m != node
    | none => true)
  | _ => false

/-- A barrier operation with NOSLOT at 0 names a slot that is no running ENG_DISPATCH of its context (R467). -/
def barSlotBad (s : State) (r : HomeReq) : Bool :=
  match r.op with
  | .atomic a =>
    aopOp a == 0xE && (elems r.mask 8).any (fun p =>
      let w := w64 (elemAt r.data 8 p)
      let (c, seq1) := tget (part s r.part).dispRun (fld w 34 23)
      p % 64 == 8 && !bitOf w 22 && (seq1 == 0 || some c != r.ctx))
  | _ => false

/-- A request of the block's own goes to the home of its line, here or in another package (R33, R34, R467, R541). -/
def routeReq (s : State) (r : HomeReq) (x : Xlat) : State :=
  let x := localX s x
  if barSlotBad s r then refuseReq s r .permission
  else if x.glob then
    if !present s pSPN then refuseReq s r .unitAbsent
    else if !bitOf s.spn.remoteEn r.part || wrongNode r x.node then refuseReq s r .permission
    else remRoute s x.node r
  else if wrongNode r (fld s.cas.nodeId 15 0) then refuseReq s r .permission
  else place s r

/-- A burst issues: every line of it goes to its home under the one translation checked now (R170, R171). -/
def issue (s : State) (n b : Nat) (e : TlbEntry) : State :=
  let old := burst s n b
  let x := { old with st := .issued, x := e.x, token := 0 }
  let t := updBurst s n b (fun _ => x)
  let t := setFirefly t (req t n).port (tlbTouch (firefly t (req t n).port) e)
  let rs := (List.range x.lines).map (fun i => lineReq t n b i x)
  tokenSettle (rs.foldl (fun u r => routeReq u r e.x) t) old.token

/-- An entry is dropped from a Firefly and the Lantern for one fresh walk (R154). -/
def dropEntry (s : State) (port : Nat) (e : TlbEntry) : State :=
  let same := fun (x : TlbEntry) => x.stage2 == e.stage2 && x.id == e.id && x.pn == e.pn && x.x.size == e.x.size
  let t := setFirefly s port ((firefly s port).filter (fun x => !same x))
  { t with lan := { t.lan with lantern := t.lan.lantern.filter (fun x => !same x) } }

/-- The NPAs of a run of lines under a translation lie in the partition's layout, or in another package (R129): a page that a walk
installed may reach past the layout that held the address walked. -/
def inLayoutRun (s : State) (p va n : Nat) (x : Xlat) : Bool :=
  x.glob || (List.range n).all (fun i => inLayout s p (xAddr x (va + 128 * i)))

/-- The check of a burst at its issue (R129, R154, R170): it issues, walks once more, or faults. -/
def tryIssue (s : State) (n b : Nat) : State :=
  let r := req s n
  let x := burst s n b
  match tlbFind (firefly s r.port) false r.space x.va with
  | none => burstProbe s n b
  | some e =>
    let sp := tget s.lan.spaces r.space
    if e.epoch ≠ sp.epoch ∨ e.epoch2 ≠ (tget s.lan.s2 sp.part).epoch then burstMiss (dropEntry s r.port e) n b
    else if permits e.x (opAccess r.op) then
      (if inLayoutRun s sp.part x.va x.lines (localX s e.x) then issue s n b e else burstFault s n b 7 0 2)
    else if bitOf s.lan.cfg 0 && !x.redo then burstMiss (dropEntry (updBurst s n b (fun y => { y with redo := true })) r.port e) n b
    else burstFault s n b 4 0 1

/-- An engine request is answered CONTEXT_LOST and logged (R720). -/
def engLost (s : State) (port tag c : Nat) : State :=
  let t := emit s (.ans { origin := .eng s.eng.nextReq 0, agent := 16 + s.cas.pos, tag := tag, kind := .comp, status := .contextLost })
  if (ctxOf s c).st == .lost then t else logProto t .contextLost pENG port (ctxOf s c).part

/-- A new request while the station's ENABLE is 0 completes with PERMISSION (R58). -/
def engClosed (s : State) (tag : Nat) : State :=
  emit s (.ans { origin := .eng s.eng.nextReq 0, agent := 16 + s.cas.pos, tag := tag, kind := .comp, status := .permission })

/-- An engine request enters its port (R31, R169, R719). -/
def engAccept (s : State) (port : Nat) (r : EngOp) : State :=
  let c := ctxOf s r.ctx
  let slot := match r.stream with
    | some (id, _) => slotFind s port r.ctx id
    | none => none
  let tile := match r.stream with
    | some (_, t) => t
    | none => 0
  let lines := r.lenM1 + 1
  let va := r.va / 128 * 128
  let q : EngReq := { port := port, tag := r.tag, ctx := r.ctx, part := c.part, space := c.space, op := r.op, va := r.va, nlines := lines,
                      data := r.data, masks := r.masks, poisons := r.poisons, stash := r.stash, prio := r.prio, slot := slot,
                      tile := if slot.isSome then tile else 0,
                      desc := (slot.map (fun k => (slotOf s k).desc)).getD [], bindNo := (slot.map (fun k => (slotOf s k).bindNo)).getD 0, bursts := cutBursts 3 va 0 lines, et := s.clk.et }
  let n := s.eng.nextReq
  let t := match slot with
    | some k => slotUse s port k tile
    | none => s
  let t := { t with eng := { t.eng with reqs := tset t.eng.reqs n (some q), nextReq := n + 1 } }
  (List.range q.bursts.length).foldl (fun u b => burstProbe u n b) t

/-- The engine port takes requests: its link is active, and its FDI instance is not tied off (R687). -/
def portOpen (s : State) (port : Nat) : Bool := s.eng.link.st == 2 && decide (port < s.build.ports) && !s.build.engTied.contains (port / 4)

/-- A request on a fenced port or of a context that is not LIVE is answered CONTEXT_LOST (R642, R720). -/
def portRefuses (s : State) (port c : Nat) : Bool := cellFenced s port || fenced s pENG || !ctxLive s c

/-- A request of the accelerator die has reached its port: its credit, and those of its data messages, one for each line that it brings, go
back to the die (R239, R244). -/
def engTaken (s : State) (dats : Nat) : State := if dats = 0 then consume s pENG 0 else consume (consume s pENG 0) pENG 4 dats

/-- ENGINE_REQUEST (R31, R244). -/
def execEngineRequest (port : Nat) (r : EngOp) (s : State) : Host.Outcome State Fault Refusal :=
  .next (if !portOpen s port then s
    else
      let t := engTaken s r.data.length
      if portRefuses s port r.ctx then engLost t port r.tag r.ctx
      else if !enabled s pENG then engClosed t r.tag
      else engAccept t port r)

/-- STREAM_OPEN (R161, R162). -/
def execStreamOpen (port : Nat) (ctx : ReqHead) (desc : List Word) (s : State) : Host.Outcome State Fault Refusal :=
  .next (if !portOpen s port then s
    else
      let t := engTaken s 0
      if portRefuses s port ctx.ctx then engLost t port ctx.tag ctx.ctx
      else if !enabled s pENG then engClosed t ctx.tag
      else openStream t port ctx.ctx desc)

/-- The engine closes a stream (R163). -/
def closeStream (s : State) (port c id : Nat) : State :=
  match slotFind s port c id with
  | some k => releaseSlot s k
  | none => s

/-- STREAM_CLOSE (R163, R720). -/
def execStreamClose (port : Nat) (ctx : ReqHead) (streamId : Nat) (s : State) : Host.Outcome State Fault Refusal :=
  .next (if !portOpen s port then s
    else
      let t := engTaken s 0
      if portRefuses s port ctx.ctx then engLost t port ctx.tag ctx.ctx else closeStream t port ctx.ctx streamId)

/-- A burst waits for a hold of its port to end (R178). -/
def burstParked (s : State) (r : EngReq) (x : Burst) : Bool := x.parked && decide (8 ≤ (portPaused s r.port).length)

/-- Two runs of lines share a line. -/
def runsMeet (a n b m : Nat) : Bool := decide (a < b + m * 128) && decide (b < a + n * 128)

/-- A burst waits for an earlier request of the same context at its port that has bytes of one of its lines still to issue: requests of
one observer to one line are placed in the order in which they were issued (R256). The model takes the requests of a context at a port as
one observer's, and compares virtual addresses (log entry 21). -/
def burstBehind (s : State) (n : Nat) (r : EngReq) (x : Burst) : Bool :=
  (tsome s.eng.reqs).any (fun e => decide (e.1 < n) && e.2.port == r.port && e.2.ctx == r.ctx &&
    e.2.bursts.any (fun y => y.st != .issued && y.st != .done && runsMeet y.va y.lines x.va x.lines))

/-- BURST_ISSUE (R170, R256). -/
def execBurstIssue (req burst : Nat) (s : State) : Host.Outcome State Fault Refusal :=
  .next (match tget s.eng.reqs req with
    | none => s
    | some r =>
      let x := r.bursts.getD burst { st := .done }
      if tileHeld s r || burstParked s r x || burstBehind s req r x then s
      else match x.st with
        | .waiting => tryIssue (updBurst s req burst (fun y => { y with parked := false })) req burst
        | .ready => tryIssue s req burst
        | _ => s)

end Sys2Proof.Machine
end

