-- ==== Sys2Proof/Machine/Withdraw.lean ====
section
/-!
DEFINITION. Withdrawals of translations, from their acceptance to their completion, the writes of the registers that shape
translation, and the filter of host requests (R131 to R136, R147, R156, R187 to R199, R718).
-/
namespace Sys2Proof.Machine
open Sys2Proof

/-! ## Acceptance -/

/-- The withdrawal names a space, else a partition. -/
def wdSpace (kind : Nat) : Bool := kind == 0 || kind == 2

/-- The withdrawn range reaches past the address form (R193). -/
def wdBeyond (kind base len : Nat) : Bool :=
  (kind == 0 && decide (2 ^ 57 < base + len * 2 ^ 22)) || (kind == 1 && decide (2 ^ 52 < base + len * 2 ^ 22))

/-- A range withdrawal of no granule (R193). -/
def wdEmpty (kind len : Nat) : Bool := (kind == 0 || kind == 1) && len == 0

/-- The withdrawals that drain (R193). -/
def wdDrains (s : State) : List Nat := (s.lan.wds.filter (fun w => !wdEmpty w.kind w.len)).map (fun w => w.id)

/-- Of the 16 drains those that are not free for a withdrawal of this event tick (R194, R656). -/
def wdDraining (s : State) : Nat := unitsHeld s uDrain (wdDrains s)

/-- Requests issued that have not reached their point of coherence: they wait for a tracker of a slice or of the span (R172). -/
def notCoherent (s : State) : List HomeReq := s.hom.setWait ++ s.spn.remWait.map (fun x => x.2)

/-- What names a line of a request among those that a withdrawal tags. -/
def wdTag (r : HomeReq) : Origin × Nat × Nat := (r.origin, r.tag, r.line)

/-- A host request of a partition (R189). -/
def ofHost (p : Nat) (r : HomeReq) : Bool :=
  r.part == p && (match r.origin with
  | .host _ => true
  | _ => false)

/-- A request was issued in an earlier event tick under a translation that a withdrawal takes out of use (R195). -/
def wdTags (s : State) (kind target base len : Nat) (r : HomeReq) : Bool :=
  match r.ctx with
  | none => false
  | some c =>
    let k := ctxOf s c
    decide (r.et < s.clk.et) && (match kind with
      | 0 => k.space == target && overlap r.va 128 base (len * 2 ^ 22)
      | 2 => k.space == target
      | _ => k.part == target)

/-- The removal of a range of the layout waits for the host requests that passed the check under the old layout too (R189). -/
def wdTagsHost (src : WdFrom) (target : Nat) (r : HomeReq) : Bool :=
  match src with
  | .layout _ => ofHost target r
  | _ => false

/-- The block accepts a withdrawal: it drops translations, raises the epoch and tags bursts (R147, R195). -/
def wdAccept (s : State) (kind target base len : Nat) (src : WdFrom) (p : Nat) : State :=
  let empty := wdEmpty kind len
  let tags := if empty then [] else
    ((notCoherent s).filter (fun r => wdTags s kind target base len r || wdTagsHost src target r)).map wdTag
  let w : Withdrawal := { id := s.lan.wdNext, kind := kind, target := target, base := base, len := len, tags := tags, src := src, atEt := s.clk.et, part := p }
  let t := if empty then s else wdDrop s kind target base len
  { t with lan := { t.lan with wds := t.lan.wds ++ [w], wdNext := t.lan.wdNext + 1 } }

/-- A withdrawal that Sudric or the tiering engine asks for: accepted now, or when one of the 16 drains ends (R194, R718). -/
def wdAsk (s : State) (kind target base len : Nat) (src : WdFrom) (p : Nat) : State :=
  if s.lan.wdWait.isEmpty && decide (wdDraining s < 16) then wdAccept s kind target base len src p
  else { s with lan := { s.lan with wdWait := s.lan.wdWait ++ [{ kind := kind, target := target, base := base, len := len, src := src, part := p }] } }

/-- A drain is free: the withdrawal that waits longest takes it. -/
def wdNextAsk (s : State) : State :=
  match s.lan.wdWait with
  | [] => s
  | w :: t => if wdDraining s < 16 then wdAccept { s with lan := { s.lan with wdWait := t } } w.kind w.target w.base w.len w.src w.part else s

/-- A change of the layout that withdraws nothing completes once the host requests of a partition that passed the check before it have
reached their point of coherence: at once when there are none (R189). -/
def layoutWait (s : State) (p m seq svc : Nat) : State :=
  let l := (notCoherent s).filter (ofHost p)
  if l.isEmpty then reply s m seq svc .ok
  else { s with lan := { s.lan with wdNext := s.lan.wdNext + 1, wds := s.lan.wds ++
    [{ id := s.lan.wdNext, kind := 1, target := 2 ^ 12 + s.lan.wdNext, tags := l.map wdTag, src := .assign m seq, atEt := s.clk.et, part := p }] } }

/-! ## Completion -/

/-- An earlier withdrawal of the same space or partition still drains (R199). -/
def wdBehind (s : State) (w : Withdrawal) : Bool :=
  s.lan.wds.any (fun x => decide (x.id < w.id) && wdSpace x.kind == wdSpace w.kind && x.target == w.target)

/-- The withdrawal may complete: a tick has passed, its tagged bursts have drained and none of its kind is before it (R196, R199). -/
def wdReady (s : State) (w : Withdrawal) : Bool :=
  decide (w.atEt < s.clk.et) && !wdBehind s w && !((notCoherent s).any (fun r => w.tags.contains (wdTag r)))

/-- The fence that a MAP_WITHDRAW names (R191). -/
def wdFence (c : Cmd) : List (Nat × Nat × Word) :=
  let w := c.words.getD 5 0
  if bitOf w 24 then [(fld w 23 0, fld w 63 32, c.words.getD 6 0)] else []

/-- Service code of SPACE_PUT (R500). -/
def svcSpacePut : Nat := 0x0033

/-- Service code of LAYOUT_SET (R500). -/
def svcLayoutSet : Nat := 0x0023

/-- What the completion of a withdrawal does for who issued it (R189, R197, R718). -/
def wdFinish (s : State) (w : Withdrawal) (st : Status) : State :=
  match w.src with
  | .reg => raise { s with lan := { s.lan with wdStatus := st, wdBusy := false, wdDone := true } } pLAN 0
  | .cmd q seq => endCmd (updCmd s q seq (fun c => { c with fences := c.fences ++ wdFence c })) q seq st
  | .tier slot => { s with tir := { s.tir with moves := tupd s.tir.moves slot (fun m => m.map (fun m => { m with wd := none })) } }
  | .space id mb seq =>
    reply (noteSel { s with lan := { s.lan with spaces := tupd s.lan.spaces id (fun x => { x with valid := false, taken := false, putMb := none }) } }
      pLAN 0x218 id) mb seq svcSpacePut .ok
  | .assign mb seq => reply s mb seq svcLayoutSet .ok
  | .layout e => { s with sec := { s.sec with layout := tupd s.sec.layout e (fun x => { x with removing := if x.removing = 1 then 2 else x.removing }) } }
  | .internal => s

/-- A withdrawal completes when it is ready, and another takes its drain. -/
def wdComplete (s : State) (id : Nat) : State :=
  match s.lan.wds.find? (fun w => w.id == id) with
  | none => s
  | some w =>
    if !wdReady s w then s
    else wdNextAsk (wdFinish { s with lan := { s.lan with wds := s.lan.wds.filter (fun x => x.id != id) } } w .ok)

/-! ## Registers -/

/-- A write of WD_CTL (R156, R192 to R194). -/
def wdCtlSet (s : State) (v : Word) : State :=
  let kind := fld v 1 0
  let target := fld v 27 16
  let keepW := v &&& w64 0xFFF0003
  if !bitOf v 2 then { s with lan := { s.lan with wdCtl := keepW } }
  else if s.lan.wdBusy || decide (16 ≤ wdDraining s) then refuseLast s pLAN .permission
  else
    let base := fld s.lan.wdBase 56 22 * 2 ^ 22
    let len := fld s.lan.wdLen 34 0
    let t := { s with lan := { s.lan with wdCtl := keepW, wdBusy := true, wdDone := false } }
    if wdBeyond kind base len then wdFinish t { kind := kind, src := .reg } .unmapped
    else wdAccept t kind target base len .reg 0

/-- WD_GO_WRITE (R156). -/
def execWdGoWrite (a : Acc) (v : Word) (s : State) : Host.Outcome State Fault Refusal :=
  .next (unitWrite s a pLAN 0x248 (fun t => wdCtlSet t v))

/-- A write of SPACE_ROOT or SPACE_CTL of the selected space (R132). -/
def spaceSet (s : State) (off : Nat) (v : Word) : State :=
  let i := s.lan.spaceSel
  if (tget s.lan.spaces i).bound ≠ 0 then refuseLast s pLAN .permission
  else { s with lan := { s.lan with spaces := tupd s.lan.spaces i (fun x =>
    if off = 0x218 then { x with valid := bitOf v 0, root := fld v 51 15 * 2 ^ 15 } else { x with part := fld v 9 0 }) } }

/-- SPACE_REGISTER_WRITE (R132). -/
def execSpaceRegisterWrite (a : Acc) (off : Nat) (v : Word) (s : State) : Host.Outcome State Fault Refusal :=
  .next (if off = 0x218 ∨ off = 0x220 then unitWrite s a pLAN off (fun t => spaceSet t off v) else s)

/-- A write of S2_ROOT of the selected partition (R128, R156). -/
def s2RootSet (s : State) (v : Word) : State :=
  let p := s.lan.partSel
  if !bitOf v 0 && p != 0 then refuseLast s pLAN .permission
  else { s with lan := { s.lan with s2 := tupd s.lan.s2 p (fun x => { x with en := bitOf v 0, root := fld v 45 15 * 2 ^ 15 }) } }

/-- S2_ROOT_WRITE (R156). -/
def execS2RootWrite (a : Acc) (v : Word) (s : State) : Host.Outcome State Fault Refusal :=
  .next (unitWrite s a pLAN 0x238 (fun t => s2RootSet t v))

/-! ## Host requests -/

/-- A refused host request: it reaches no home and is logged (R188). -/
def hostRefuse (s : State) (st : Nat) (r : HomeReq) (why : Status) : State :=
  refuseReq (logProto s why (pHST0 + st) st r.part (some (r.line * 128))) r why

/-- The request as its station passes it on: the station's agent where it names one (R204), and no engine context. -/
def hostReq (s : State) (st : Nat) (op : HomeOp) (r : HomeReq) : HomeReq :=
  let cfg := (hst s st).cfg
  { r with op := op, agent := if bitOf cfg 12 then fld cfg 11 8 else 32 + s.cas.pos, origin := .host st, ctx := none, slot := none,
           contrib := none, node := none, stamp := s.bcn.count, et := s.clk.et, va := 0 }

/-- A request to another node in a build without a span station (the table of R41): a read returns POISON, a write is dropped, and RAS
logs it against the host station. -/
def hostNoSpan (s : State) (st : Nat) (r : HomeReq) : State :=
  refuseReq (logProto s .unitAbsent (pHST0 + st) st r.part (some (r.line * 128))) r (if asksData r.op then .poison else .unitAbsent)

/-- A plain NPA that no memory range, pool or aperture holds: the layout filter lets it pass, and it completes with UNMAPPED (R30,
R41, R516). -/
def outOfRange (s : State) (line : Nat) : Bool := (portOf s line).isNone && !inPool s (line * 128)

/-- HOST_REQUEST: the layout filter and the route (R33, R187, R188, R243, R541); a station whose ENABLE is 0 takes no new request (R58),
and a partition that is not OPEN is refused (R408). The package's own node is NODE_ID[NODE] whatever NODE_ID[VALID] holds: the spec does
not say which global addresses are the package's own while VALID is 0 (DESIGN CHOICE, log entry 69). -/
def hostRequest (s : State) (st : Nat) (op : HomeOp) (r : HomeReq) (node : Option Nat) : State :=
  let q := hostReq s st op r
  let s := if hostUp s st then latOpen s st q else s
  let node := node.map (fun n => n % 2 ^ 16)
  let own := node.isNone || node == some (fld s.cas.nodeId 15 0)
  let u := reqConsumed s q
  if !hostUp s st then s
  else if !enabled s (pHST0 + st) then refuseReq u q .permission
  else if q.part ≥ 64 || (part s q.part).st != .open_ then hostRefuse u st q .permission
  else if own then
    (if inLayout s q.part (q.line * 128) || outOfRange s q.line then place s q else hostRefuse u st q .permission)
  else if !present s pSPN then hostNoSpan u st q
  else if !bitOf s.spn.remoteEn q.part || wrongNode q (node.getD 0) then hostRefuse u st q .permission
  else remRoute u (node.getD 0) q

/-- HOST_REQUEST (R187). -/
def execHostRequest (st : Nat) (op : HomeOp) (r : HomeReq) (node : Option Nat) (s : State) : Host.Outcome State Fault Refusal :=
  .next (hostRequest s st op r node)

end Sys2Proof.Machine
end

