-- ==== Sys2Proof/Machine/Span.lean ====
section
/-!
DEFINITION. The span station: training, flits, the Cricket, beacon and calibration, partner conditions, remote requests, windows'
ingress and the snoops of remote homes (R518 to R544, R550).
-/
namespace Sys2Proof.Machine
open Sys2Proof

/-- A state with the span station's record changed. -/
def updSpn (s : State) (f : Spn → Spn) : State := { s with spn := f s.spn }

/-! ## Span routes -/

/-- This block's own station as the others know it: 0 not ACTIVE, 1 quarantined, 2 serving. -/
def ownStation (s : State) : Nat :=
  if s.spn.st != .active || fenced s pSPN || !present s pSPN then 0 else if s.spn.quar then 1 else 2

/-- Positions of the stations that are ACTIVE and not quarantined, in their order (R540). -/
def servingAt (s : State) : List Nat := (List.range 8).filter (fun b => (if b = s.cas.pos then ownStation s else tget s.spn.stations b) == 2)

/-- Entry e of the table: the stations that serve take the entries in turn (R540). -/
def routeOf (l : List Nat) (e : Nat) : Nat := if l.isEmpty then 0 else l.getD (e % l.length) 0 + 8

/-- A route entry is in use by requests sent under it. -/
def routeBusy (s : State) (e : Nat) : Bool := (tsome s.spn.remotes).any (fun x => x.2.entry == e && x.2.sent)

/-- Requests of an entry that hold a tracker and could not leave are sent (R540). -/
def resendUnsent (s : State) (e : Nat) : State :=
  (tsome s.spn.remotes).foldl (fun t x =>
    if x.2.entry == e && !x.2.sent && (tget t.spn.routes e).testBit 3 then
      toNode (updSpn t (fun n => { n with remotes := tset n.remotes x.1 (some { x.2 with sent := true, pos := tget n.routes e % 8 }) }))
        x.2.node (.req x.2.node x.1 x.2.req)
    else t) s

/-- An entry takes its new value; what waited for it leaves (R540). -/
def routeApply (s : State) (e v : Nat) : State :=
  remDrain (resendUnsent (updSpn s (fun n => { n with routes := tset n.routes e v, routesNew := tset n.routesNew e none })) e)

/-- An entry is to change to a value: at once, or when the requests under the old value have ended (R540). -/
def routeTo (s : State) (v : Nat) (e : Nat) : State :=
  if tget s.spn.routes e = v then updSpn s (fun n => { n with routesNew := tset n.routesNew e none })
  else if routeBusy s e then updSpn s (fun n => { n with routesNew := tset n.routesNew e (some v) })
  else routeApply s e v

/-- Sudric fills the route table from the stations that serve (R540, R553). -/
def tableFill (s : State) : State :=
  let l := servingAt s
  let changed := (List.range 256).any (fun e => tget s.spn.routes e != routeOf l e)
  let t := (List.range 256).foldl (fun u e => routeTo u (routeOf l e) e) s
  if changed then raise t pCAS 3 else t

/-- The own station has changed: the table is filled again, here and on every other block (R540). -/
def routesFill (s : State) (gone : Option Status := none) : State := casAll (tableFill s) (.station (ownStation s) gone)

/-- SPAN_ROUTE_SWITCH (R540). -/
def execSpanRouteSwitch (entry : Nat) (s : State) : Host.Outcome State Fault Refusal :=
  .next (match tget s.spn.routesNew entry with
    | some v => if routeBusy s entry then s else routeApply s entry v
    | none => s)

/-! ## Training states -/

/-- The station may train (R506, R527, R558, R564, R642). -/
def mayTrain (s : State) : Bool :=
  present s pSPN && !fenced s pSPN && enabled s pSPN && bitOf s.spn.cfg 0 && bitOf s.cas.nodeId 16 && s.sec.chainOk &&
  s.fuses.lifecycle == .secured && s.spn.maxWidth != 0

/-- A state of training begins and is bounded in bt. -/
def spnEnter (s : State) (st : SpnState) (bound : Nat) : State :=
  updSpn s (fun n => { n with st := st, stateEnd := s.bcn.count + w64 bound })

/-- The link goes DOWN, or to LOCK when it may train (R527). -/
def spnStart (s : State) : State :=
  let t := updSpn s (fun n => { n with width := 0, lanes := 0, locked := 0, chainOk := false, keyxSeen := false, calT1 := none })
  if mayTrain t then spnEnter t .lock 1000 else updSpn t (fun n => { n with st := .down })

/-- An ACTIVE link ends: the interrupt and the routes follow (R555, R540). -/
def spnLeave (s : State) (st : SpnState) : State :=
  let wasUp := s.spn.st == .active
  let t := updSpn s (fun n => { n with st := st })
  if wasUp then routesFill (raise t pSPN 1) else t

/-- The link waits DOWN, and trains when it may. -/
def spnPoll (s : State) : State := if s.spn.st == .down && mayTrain s then spnStart s else s

/-- The link is taken DOWN. -/
def spnDown (s : State) : State := updSpn (spnLeave s .down) (fun n => { n with width := 0, lanes := 0, locked := 0, calT1 := none })

/-- An attempt fails outside AUTH: a back-off follows, which doubles up to 1,048,576 bt (R529). -/
def spnFail (s : State) : State :=
  let b := if s.spn.backoff = 0 then 1024 else s.spn.backoff
  let t := spnEnter (spnLeave s .backoff) .backoff b
  updSpn t (fun n => { n with backoff := min (2 * b) 1048576, width := 0, lanes := 0, locked := 0, calT1 := none })

/-- Lane groups that a training may use, lowest first. -/
def groupsLeft (s : State) : List Nat := (List.range 4).filter (fun g => !s.spn.groupsOut.contains g && !cellFenced s (52 + g))

/-- The group with the most uncorrectable codewords (R535). -/
def worstGroup (s : State) : List Nat → Option Nat
  | [] => none
  | g :: r => match worstGroup s r with
    | some h => if tget s.spn.groupUncorr h ≤ tget s.spn.groupUncorr g then some g else some h
    | none => some g

/-- The next training leaves out the worst lane group and is 8 lanes narrower (R535). -/
def dropGroup (s : State) : State :=
  match worstGroup s (groupsLeft s) with
  | some g => updSpn s (fun n => { n with groupsOut := setIns n.groupsOut g, maxWidth := n.maxWidth - 8, retrains := [] })
  | none => s

/-- FAULT_CFG and HOSTILE_CFG fields. -/
def faultWin (s : State) : Nat := max 1 (fld s.spn.faultCfg 31 16)
def malWin (s : State) : Nat := max 1 (fld s.spn.hostileCfg 31 16)

/-- The link retrains; RETRAIN_MAX retrains within 16 windows cost a lane group (R535). Counts are compared modulo 2^64 (R94). -/
def spnRetrain (s : State) : State :=
  let w := w64 (bt s / faultWin s * faultWin s)
  let l := (w :: s.spn.retrains).filter (fun x => decide ((w - x).toNat < 16 * faultWin s))
  let t := updSpn (spnLeave s .lock) (fun n => { n with retrains := l })
  let m := fld s.spn.faultCfg 39 32
  spnStart (if m ≠ 0 ∧ m ≤ l.length then dropGroup t else t)

/-- Remote requests that were routed through the station at a position end with a status (R538, R642). -/
def remotesEnd (s : State) (pos : Nat) (st : Status) : State :=
  (tsome s.spn.remotes).foldl (fun t x =>
    if x.2.sent && x.2.pos == pos then refuseReq (updSpn t (fun n => { n with remotes := tset n.remotes x.1 none })) x.2.req st else t) s

/-- The link is quarantined (R537, R538). -/
def quarantine (s : State) (cause : Nat) : State :=
  if s.spn.quar then s
  else
    let t := raise (updSpn s (fun n => { n with quar := true, qcause := cause })) pSPN 3
    let t := remotesEnd (spanLocal t 0x30 []) t.cas.pos .partnerQuarantined
    routesFill (updSpn t (fun n => { n with waiting := [], replay := [] })) (some .partnerQuarantined)

/-- Lanes that a set of groups holds. -/
def groupLanes (l : List Nat) : Nat := l.foldl (fun n g => n + 255 * 2 ^ (8 * g)) 0

/-- A group whose eight lanes are locked. -/
def groupLocked (s : State) (g : Nat) : Bool := s.spn.locked / 2 ^ (8 * g) % 256 == 255

/-- Lock ends with the groups that are locked: HELLO at their width, or a back-off (R518, R520). -/
def lockEnd (s : State) : State :=
  let gs := ((groupsLeft s).filter (groupLocked s)).take (s.spn.maxWidth / 8)
  if gs.isEmpty then spnFail s
  else
    let t := spnEnter (updSpn s (fun n => { n with lanes := groupLanes gs, width := 8 * gs.length })) .hello 100
    spanLocal t 0x00 [1, 1, w64 (fld s.cas.nodeId 15 0), 1, w64 (8 * gs.length)]

/-- LANE_LOCK: lanes lock and are deskewed, or the bound of LOCK passes (R520). -/
def laneLock (s : State) (lanes : Nat) (timeout : Bool) : State :=
  if s.spn.st != .lock then s
  else
    let t := updSpn s (fun n => { n with locked := n.locked ||| lanes % 2 ^ 32 })
    let want := (groupsLeft t).take (t.spn.maxWidth / 8)
    if (!want.isEmpty && want.all (groupLocked t)) || (timeout && btDue t t.spn.stateEnd.toNat) then lockEnd t else t

/-- LANE_LOCK (R520). -/
def execLaneLock (lanes : Nat) (timeout : Bool) (s : State) : Host.Outcome State Fault Refusal := .next (laneLock s lanes timeout)

/-- MARKER_RECEIVE: a marker whose epoch is not 0 unlocks its lane, and the link retrains (R523). -/
def marker (s : State) (lane : Nat) (m : Marker) : State :=
  if s.spn.st == .down || s.spn.st == .backoff || m.epoch == 0 then s
  else
    let t := updSpn s (fun n => { n with locked := n.locked &&& (2 ^ 32 - 1 - 2 ^ (lane % 32)) })
    if t.spn.st == .lock then t else spnRetrain t

/-- MARKER_RECEIVE (R523). -/
def execMarkerReceive (lane : Nat) (m : Marker) (s : State) : Host.Outcome State Fault Refusal := .next (marker s lane m)

/-- HELLO (R527): G1 supports version 1. -/
def hello (s : State) (h : Hello) : State :=
  if s.spn.st != .hello then s
  else if !(decide (h.lo ≤ 1) && decide (1 ≤ h.hi)) then spnFail (updSpn s (fun n => { n with nover := true }))
  else
    let w := min s.spn.width (h.width / 8 * 8)
    if w = 0 then spnFail s
    else
      let gs := ((List.range 4).filter (fun g => (s.spn.lanes / 2 ^ (8 * g)) % 2 == 1)).take (w / 8)
      let t := updSpn s (fun n => { n with nover := false, version := 1, partner := h.node % 65536, width := w, lanes := groupLanes gs,
                                           chainOk := false, keyxSeen := false })
      spanLocal (spanLocal (spnEnter t .auth 20000) 0x01 []) 0x02 []

/-- HELLO (R527). -/
def execHello (h : Hello) (s : State) : Host.Outcome State Fault Refusal := .next (hello s h)

/-- CERT: the partner's chain is accepted, or authentication fails (R537, R563). -/
def execCert (chain : List Cert) (s : State) : Host.Outcome State Fault Refusal :=
  .next (if s.spn.st != .auth || s.spn.quar then s
    else if chainOk s.fuses chain then updSpn s (fun n => { n with chainOk := true }) else quarantine s 1)

/-- The direction keys that a partner's nonce and ephemeral key give (R528): this side's own ephemeral key and nonce are random. -/
def keysOf (s : State) (nonce point : List Byte) : List Byte :=
  linkKeys (ecScalar (Config.ephemeralKey s.free)) (padTo 48 0 (Config.linkNonce s.free)) (padTo 48 0 nonce) (fld s.cas.nodeId 15 0) s.spn.partner point

/-- KEYX: the nonce and the ephemeral key of the partner, x then y, from which the direction keys derive (R528). -/
def execKeyx (nonce point : List Byte) (s : State) : Host.Outcome State Fault Refusal :=
  .next (if s.spn.st != .auth || s.spn.quar then s
    else spanLocal { s with free := s.free + 1, spn := { s.spn with keyxSeen := true, keys := keysOf s nonce point } } 0x03 [])

/-- FINISH: the signature over the transcript verifies and new keys and sequences start, or authentication fails (R524, R528,
R537). -/
def finish (s : State) (sigOk : Bool) : State :=
  if s.spn.st != .auth || s.spn.quar then s
  else if s.spn.chainOk && s.spn.keyxSeen && sigOk then
    spnEnter (updSpn s (fun n => { n with txSeq := 0, rxSeq := 0, ackedTo := 0, discard := false })) .cal 100
  else quarantine s 1

/-- FINISH (R528). -/
def execFinish (sigOk : Bool) (s : State) : Host.Outcome State Fault Refusal := .next (finish s sigOk)

/-! ## Timers of the link -/

/-- SPN_TIMERS fields; 0 acts as 1. -/
def cricketBt (s : State) : Nat := max 1 (fld s.spn.timers 7 0)
def cricketMax (s : State) : Nat := max 1 (fld s.spn.timers 11 8)
def calBt (s : State) : Nat := max 1 (fld s.spn.timers 31 16)

/-- The link is ACTIVE: unacknowledged messages are sent first, in their order, as credits come (R526, R529, R530). -/
def spnActive (s : State) : State :=
  let t := updSpn s (fun n => { n with
    st := .active, backoff := 0, waiting := n.replay.map (fun x => x.2) ++ n.waiting, replay := [], credits := [], lastWidth := n.width
    cricketSeen := false, cricketMiss := 0, cricketNext := s.bcn.count + w64 (cricketBt s), calNext := s.bcn.count + w64 (calBt s) })
  let t := raise t pSPN 0
  let t := if s.spn.width < s.spn.lastWidth then raise t pSPN 2 else t
  spanRelease (routesFill t)

/-- The link carries flits of its keys. -/
def spnLinked (s : State) : Bool := s.spn.st == .active || s.spn.st == .cal

/-- CAL_REQ is answered with the hold time (R532). -/
def calReq (s : State) (hold : Nat) : State := if spnLinked s && !s.spn.quar then spanLocal s 0x23 [w64 hold] else s

/-- CAL_REQ (R532). -/
def execCalReq (hold : Nat) (s : State) : Host.Outcome State Fault Refusal := .next (calReq s hold)

/-- CAL_TIMER: a calibration request leaves at local time t1 (R532). -/
def execCalTimer (t1 : Nat) (s : State) : Host.Outcome State Fault Refusal :=
  .next (if s.spn.quar then s
    else if s.spn.st == .cal then (if s.spn.calT1.isSome then s else spanLocal (updSpn s (fun n => { n with calT1 := some t1 })) 0x22 [])
    else if s.spn.st == .active && btDue s s.spn.calNext.toNat then
      spanLocal (updSpn s (fun n => { n with calT1 := some t1, calNext := s.bcn.count + w64 (calBt s) })) 0x22 []
    else s)

/-- BCN_ASYM as a signed number of 1/16 ns. -/
def bcnAsym (s : State) : Int := if bitOf s.spn.bcnAsym 15 then (fld s.spn.bcnAsym 15 0 : Int) - 65536 else fld s.spn.bcnAsym 15 0

/-- CAL_RSP: the one-way delay (R532); in CAL it makes the link ACTIVE (R529). -/
def calRsp (s : State) (hold t4 : Nat) : State :=
  match s.spn.calT1 with
  | none => s
  | some t1 =>
    if !spnLinked s || s.spn.quar then s
    else
      let d : Int := ((t4 : Int) - t1 - hold) / 2 + bcnAsym s
      let t := raise (updSpn s (fun n => { n with bcnCal := (d % 2 ^ 32).toNat, calT1 := none })) pSPN 5
      if t.spn.st == .cal then spnActive t else t

/-- CAL_RSP (R532). -/
def execCalRsp (hold t4 : Nat) (s : State) : Host.Outcome State Fault Refusal := .next (calRsp s hold t4)

/-- TRAINING_TIMEOUT: a state passes its bound; AUTH quarantines and the others back off (R529, R537). -/
def execTrainingTimeout (s : State) : Host.Outcome State Fault Refusal :=
  .next (if !btDue s s.spn.stateEnd.toNat || s.spn.quar then s
    else match s.spn.st with
      | .lock => lockEnd s
      | .hello => spnFail s
      | .auth => quarantine s 1
      | .cal => spnFail s
      | _ => s)

/-- BACKOFF_EXPIRE: training retries from LOCK (R529). -/
def execBackoffExpire (s : State) : Host.Outcome State Fault Refusal :=
  .next (if s.spn.st == .backoff && btDue s s.spn.stateEnd.toNat then spnStart s else s)

/-- TRAIN_EN_WRITE (R535): DOWN while it is 0; a write of 0 and then 1 restores the width. -/
def trainEnSet (s : State) (v : Word) : State :=
  let old := bitOf s.spn.cfg 0
  let t := updSpn s (fun n => { n with cfg := v &&& 1 })
  if bitOf v 0 then
    if old then t else spnPoll (updSpn t (fun n => { n with maxWidth := 32, groupsOut := [], retrains := [] }))
  else spnDown t

/-- TRAIN_EN_WRITE (R535). -/
def execTrainEnWrite (a : Acc) (v : Word) (s : State) : Host.Outcome State Fault Refusal :=
  .next (unitWrite s a pSPN 0x200 (fun t => trainEnSet t v))

/-- QUAR_RELEASE (R539, R554): the link retrains from LOCK. -/
def execQuarRelease (a : Acc) (v : Word) (s : State) : Host.Outcome State Fault Refusal :=
  .next (unitWrite s a pSPN 0x238 (fun t =>
    if t.spn.quar && bitOf v 0 then spnStart (spnLeave (updSpn t (fun n => { n with quar := false, qcause := 0 })) .lock) else t))

/-! ## The Cricket -/

/-- CRICKET: the partner's protocol logic is alive (R531). -/
def cricket (s : State) (cnt : Word) : State :=
  if spnLinked s then updSpn s (fun n => { n with cricketSeen := true, cricketMiss := 0, cricketCount := cnt }) else s

/-- CRICKET (R531). -/
def execCricket (count : Word) (flit : Nat) (s : State) : Host.Outcome State Fault Refusal :=
  .next (if s.spn.txSeq < flit then s else cricket s count)

/-- CRICKET_TIMER: a Cricket leaves, and the period is judged (R531). -/
def execCricketTimer (s : State) : Host.Outcome State Fault Refusal :=
  .next (if s.spn.st == .active && btDue s s.spn.cricketNext.toNat then
      spanLocal (updSpn s (fun n => { n with cricketMiss := if n.cricketSeen then 0 else n.cricketMiss + 1, cricketSeen := false,
                                             cricketNext := s.bcn.count + w64 (cricketBt s) })) 0x20 [s.bcn.count, w64 s.spn.rxSeq]
    else s)

/-- CRICKET_LOSS: the link is down and retrains (R531). -/
def execCricketLoss (s : State) : Host.Outcome State Fault Refusal :=
  .next (if s.spn.st == .active && decide (cricketMax s ≤ s.spn.cricketMiss) then spnRetrain s else s)

/-! ## Beacon over the span -/

/-- BEACON: the sender's tick is reconstructed and the next pulse that falls at least 64 cyc ahead is scheduled (R533). Times are
in 1/16 ns; a cycle is counted as P / PERIOD_NOM of them (log entry 34). -/
def beaconMsg (s : State) (w : BcnWordOp) (txOff arrival : Nat) : State :=
  if s.spn.st != .active || s.spn.quar then s
  else
    let tn := arrival - s.spn.bcnCal - txOff
    let t := updSpn s (fun n => { n with bcnTicks := (tn :: n.bcnTicks).take 2 })
    match s.spn.bcnTicks with
    | [] => t
    | t0 :: _ =>
      let p := max 1 (tn - t0)
      let nom := max 1 (periodNom s)
      let lead := arrival + 64 * p / nom - tn
      let m := max 1 (cdiv lead p)
      let at_ := s.clk.cyc + (tn + m * p - arrival) * nom / p
      updSpn t (fun n => { n with bcnOut := some (w.next + w64 (m - 1), w.uncertain, at_) })

/-- BEACON (R533). -/
def execBeacon (w : BcnWordOp) (txOff arrival : Nat) (s : State) : Host.Outcome State Fault Refusal := .next (beaconMsg s w txOff arrival)

/-! ## Faults of the partner -/

/-- A replay is counted; too many in one window retrain the link (R535). -/
def replayed (s : State) : State :=
  let fresh := btDue s s.spn.replayEnd.toNat
  let k := (if fresh then 0 else s.spn.replayWin) + 1
  let t := count (updSpn s (fun n => { n with
    replayTotal := satAdd 32 n.replayTotal 1, replayWin := k
    replayEnd := if fresh then w64 ((bt s / faultWin s + 1) * faultWin s) else n.replayEnd })) pSPN 2
  if fld s.spn.faultCfg 15 0 < k then spnRetrain (updSpn t (fun n => { n with replayWin := 0 })) else t

/-- A malformed message is discarded and counted; too many in one window quarantine the link (R536, R537, R634). -/
def malformedMsg (s : State) : State :=
  let fresh := btDue s s.spn.malEnd.toNat
  let k := (if fresh then 0 else s.spn.malWin) + 1
  let t := count (updSpn s (fun n => { n with
    malformed := satAdd 32 n.malformed 1, malWin := k
    malEnd := if fresh then w64 ((bt s / malWin s + 1) * malWin s) else n.malEnd })) pSPN 3
  let t := logErr t .protocol .ok pSPN
  if fld s.spn.hostileCfg 15 0 < k then quarantine t 3 else t

/-- ACK frees flits of the replay buffer (R524); one for a flit not yet sent is malformed (R536). -/
def spanAck (s : State) (flit : Nat) : State :=
  if !spnLinked s then s
  else if s.spn.txSeq ≤ flit then malformedMsg s
  else spanRelease (updSpn s (fun n => { n with ackedTo := max n.ackedTo (flit + 1), replay := n.replay.filter (fun x => decide (flit < x.1)) }))

/-- SPAN_ACK (R524). -/
def execSpanAck (flit : Nat) (s : State) : Host.Outcome State Fault Refusal := .next (spanAck s flit)

/-- NAK makes the transmitter replay from the named flit (R524); one for a flit not yet sent is malformed (R536). -/
def spanNak (s : State) (flit : Nat) : State :=
  if !spnLinked s then s
  else if s.spn.txSeq ≤ flit then malformedMsg s
  else
    let l := s.spn.replay.filter (fun x => decide (flit ≤ x.1))
    replayed (l.foldl (fun t x => emit t (.span x.2)) s)

/-- SPAN_NAK (R524). -/
def execSpanNak (flit : Nat) (s : State) : Host.Outcome State Fault Refusal := .next (spanNak s flit)

/-- CREDIT returns credits, 8 bits per class (R526). -/
def spanCredit (s : State) (credits : Word) : State :=
  if s.spn.st != .active || s.spn.quar then s
  else spanRelease (updSpn s (fun n => { n with
    credits := (List.range 6).foldl (fun t c => tupd t c (fun k => k + fld credits (8 * c + 7) (8 * c))) n.credits }))

/-- SPAN_CREDIT (R526). -/
def execSpanCredit (credits : Word) (s : State) : Host.Outcome State Fault Refusal := .next (spanCredit s credits)

/-- QUAR_NOTICE: the partner has quarantined the link; it discards what this block sends until its root releases it, and no
register of this block changes (R538). -/
def execQuarNotice (s : State) : Host.Outcome State Fault Refusal := .next s

/-! ## Requests of other nodes -/

/-- The window grants an access class (R544). -/
def windowGrants (w : Window) : Access → Bool
  | .read => bitOf w.w0 2
  | .write => bitOf w.w0 3
  | .atomic => bitOf w.w0 4

/-- A window covers the line, lists the requester, and grants the access (R544). -/
def windowAdmits (s : State) (line node p : Nat) (acc : Access) : Bool :=
  s.hom.windows.any (fun e =>
    let w := e.2.w0
    bitOf w 0 && (bitOf w 26 || fld w 42 27 == node) && (bitOf w 25 || fld w 24 15 == p) &&
    decide (fld e.2.w1 47 24 * 32768 ≤ line) && decide (line < (fld e.2.w1 47 24 + fld e.2.w1 23 0) * 32768) && windowGrants e.2 acc)

/-- The write is one of the lockstep peer to the ring of the pairing (R616): from PEER_NODE and partition 0, to a line of RING. -/
def lsTakes (s : State) (m : RemoteReq) : Bool :=
  let base := fld s.det.lsRing 45 14 * 128
  s.det.ls != 0 && m.node == fld s.det.lsPeer 15 0 && m.part == 0 && (m.op == .wrFull || m.op == .wrPart) && decide (base ≤ m.line) &&
  decide (m.line < base + 128)

/-- The peer's write goes to the comparator's buffer, or nowhere for lines 1 to 63, and is answered with COMP (R616). -/
def lsDeliver (s : State) (m : RemoteReq) : State :=
  let i := m.line - fld s.det.lsRing 45 14 * 128
  let ws := (List.range 16).map (fun j => m.data.extractLsb' (64 * j) 64)
  let t := if i = 0 ∨ 64 ≤ i then { s with det := { s.det with lsBuf := tset s.det.lsBuf i ws } } else s
  toNode t m.node (.ans m.node m.pos m.tag .comp .ok 0 0)

/-- A write from another node whose station has an earlier write of the same partition without a place (R273): one that waits here, for a
tracker, or on its way to another block. -/
def spanUnplaced (s : State) (r : HomeReq) : Bool :=
  let f := fun (x : HomeReq) => (match x.origin with | .span _ => true | _ => false) && x.node == r.node && x.part == r.part && opAccess x.op != .read
  s.spn.ingWait.any f || s.hom.setWait.any f || (tsome s.cas.outst).any (fun e => f e.2)

/-- A request from another node goes to its home, a write in its turn (R273). -/
def ingressIssue (s : State) (r : HomeReq) : State :=
  if opAccess r.op != .read && spanUnplaced s r then updSpn s (fun n => { n with ingWait := n.ingWait ++ [r] }) else place s r

/-- Writes that waited for the place of the one before are issued, in their order. -/
def ingressDrain (s : State) : State := s.spn.ingWait.foldl ingressIssue (updSpn s (fun n => { n with ingWait := [] }))

/-- A request from the span becomes one of the station's home relay, or is refused and logged (R512, R544); a record of the lockstep
peer goes to the comparator (R616). -/
def ingress (s : State) (m : RemoteReq) : State :=
  if s.spn.st != .active || s.spn.quar then s
  else if lsTakes s m then lsDeliver s m
  else
    let k := (List.range (s.spn.ingress.length + 1)).find? (fun i => (tget s.spn.ingress i).isNone)
    let k := k.getD s.spn.ingress.length
    let t := updSpn s (fun n => { n with ingress := tset n.ingress k (some { node := m.node, part := m.part, tag := m.tag, pos := m.pos }) })
    let r : HomeReq := { op := m.op, agent := 32 + s.cas.pos, origin := .span k, tag := m.tag, part := m.part, line := m.line, data := m.data,
                         mask := m.mask, poison := m.poison, stash := m.stash, contrib := m.contrib, stamp := m.stamp, node := some m.node }
    if windowAdmits s m.line m.node m.part (opAccess m.op) then ingressIssue t r
    else refuseReq (logProto t .permission pSPN 0 0x3FF (some (m.line * 128))) r .permission

/-- SPAN_INGRESS_REQUEST (R544). -/
def execSpanIngressRequest (m : RemoteReq) (s : State) : Host.Outcome State Fault Refusal := .next (ingress s m)

/-! ## Answers to requests of this package -/

/-- Statuses by code (R12). A code outside R12's table, which only a partner of another generation could send, is read as OK: the spec
states no meaning for it (DESIGN CHOICE, log entry 70). -/
def statusOf (n : Nat) : Status :=
  ([Status.ok, .partly, .demandPending, .selfHeld, .contextLost, .objectGone, .permission, .unmapped, .poison, .barrierAbandoned, .timeout,
    .regressive, .quota, .reservationBroken, .partnerAbsent, .partnerQuarantined, .unitAbsent].find? (fun x => x.code == n)).getD .ok

/-- An answer over the span completes its remote request; one whose tracker is free came after its deadline, and one that names
no tracker is malformed (R259, R536, R543). -/
def remoteRsp (s : State) (tracker : Nat) (k : AnsKind) (status : Nat) (d : LineData) (pois : Nat) : State :=
  if remTrackers ≤ tracker then malformedMsg s
  else match tget s.spn.remotes tracker with
    | none => count (updSpn s (fun n => { n with lateRsp := satAdd 32 n.lateRsp 1 })) pSPN 4
    | some x =>
      let t := updSpn s (fun n => { n with remotes := tset n.remotes tracker none })
      remDrain (deliverAll t [ansOf x.req k (statusOf status) d pois])

/-- REMOTE_RESPONSE (R259). -/
def execRemoteResponse (tracker : Nat) (kind : AnsKind) (status : Nat) (data : LineData) (poison : Nat) (s : State) :
    Host.Outcome State Fault Refusal := .next (if live s then remoteRsp s tracker kind status data poison else s)

/-- A remote request's deadline passes (R543). -/
def remoteDue (s : State) (tracker : Nat) : State :=
  match tget s.spn.remotes tracker with
  | none => s
  | some x =>
    if !btDue s x.due.toNat then s
    else
      let t := updSpn s (fun n => { n with remotes := tset n.remotes tracker none, deadlineExp := satAdd 32 n.deadlineExp 1 })
      let t := count t pSPN 5
      let t := if s.spn.deadlineExp = 0 then raise t pSPN 4 else t
      remDrain (refuseReq t x.req .partnerAbsent)

/-- REMOTE_DEADLINE (R543). -/
def execRemoteDeadline (tracker : Nat) (s : State) : Host.Outcome State Fault Refusal := .next (remoteDue s tracker)

/-! ## Snoops of remote homes -/

/-- Caching agents of the cascade that a snoop of a remote home reaches (R550). -/
def snoopAgents (s : State) : List Nat := (List.range 32).filter (isCaching s)

/-- The combined answer leaves when every agent has answered (R550). -/
def remSnpDone (s : State) (r : RemSnp) : State :=
  if r.left.isEmpty then
    toNode (updSpn s (fun n => { n with remSnps := n.remSnps.filter (fun x => !(x.node == r.node && x.line == r.line)) })) r.node
      (.snpRsp r.node r.line r.had r.data)
  else updSpn s (fun n => { n with remSnps := n.remSnps.filter (fun x => !(x.node == r.node && x.line == r.line)) ++ [r] })

/-- A snoop of a remote home is sent to every caching agent of the cascade (R550). -/
def remoteSnoop (s : State) (node line : Nat) (op : SnpOp) : State :=
  if s.spn.st != .active || s.spn.quar then s
  else
    let l := snoopAgents s
    remSnpDone (l.foldl (fun t a => sendSnoop t line (a, op) (32 + s.cas.pos) 0) s) { node := node, line := line, left := l }

/-- REMOTE_SNOOP (R550). -/
def execRemoteSnoop (node line : Nat) (op : SnpOp) (s : State) : Host.Outcome State Fault Refusal := .next (remoteSnoop s node line op)

/-- An agent's answer to a snoop of a remote home. -/
def remSnpTake (s : State) (a line : Nat) (had : Bool) (d : Option (LineData × Nat)) : State :=
  match s.spn.remSnps.find? (fun r => r.line == line && r.left.contains a) with
  | none => s
  | some r => match r.via with
    | some b => casTo (updSpn s (fun n => { n with remSnps := n.remSnps.filter (fun x => x != r) })) b (if d.isSome then 4 else 3) line 16 (match d with
        | some x => .snpData a line x.1 x.2 { dirty := true }
        | none => .snpRsp a line had false {})
    | none => remSnpDone s { r with left := r.left.filter (fun x => x != a), had := r.had || had, data := if d.isSome then d else r.data }

/-- A home of this package awaits an agent on a line. -/
def homeAwaits (s : State) (a line : Nat) : Bool :=
  match txnOf s line with
  | none => false
  | some t => t.await.any (fun x => x.1 == a) || t.need.contains a

/-- A snoop of a remote home awaits an agent on a line, and no home of this block does (R550). -/
def remAwaits (s : State) (a line : Nat) : Bool :=
  !homeAwaits s a line && s.spn.remSnps.any (fun r => r.line == line && r.left.contains a)

/-- SNP_RSP: an agent's answer to a snoop (R210, R215, R216), or to one of a remote home (R550). A dirty holder's data follows. -/
def execSnpRsp (agent line : Nat) (hadCopy wbPending : Bool) (dirty : SnpBits) (s : State) : Host.Outcome State Fault Refusal :=
  .next (if remAwaits s agent line then (let t := agentConsumed s agent 3
                                         if dirty.dirty then t else remSnpTake t agent line hadCopy none)
    else fromAgent s agent 3 line 16 (.snpRsp agent line hadCopy wbPending dirty) (fun t =>
      if homeAwaits t agent line then snoopAnswer t agent line hadCopy wbPending dirty.dirty (statusOf dirty.status) else t))

/-- SNP_DATA: data a holder supplies for a snoop (R212, R227), or for one of a remote home (R550). -/
def execSnpData (agent line : Nat) (data : LineData) (poison : Nat) (dirty : SnpBits) (s : State) :
    Host.Outcome State Fault Refusal :=
  .next (if remAwaits s agent line then remSnpTake (agentConsumed s agent 4) agent line true (if dirty.dirty then some (data, poison) else none)
    else fromAgent s agent 4 line 144 (.snpData agent line data poison dirty) (fun t =>
      if homeAwaits t agent line then snoopData t agent line data poison dirty.dirty (statusOf dirty.status) else t))

/-- The answer of a remote node to a snoop of a home of this package, which another block of the cascade may hold (R512, R547, R550). -/
def remoteSnpRsp (s : State) (node line : Nat) (had : Bool) (d : Option (LineData × Nat)) : State :=
  let a := nodeAgent node
  if !homeHere s line then
    let t := casTo s (homeOf s line).1 3 line 16 (.snpRsp a line had false { dirty := d.isSome })
    match d with
    | some x => casTo t (homeOf s line).1 4 line 144 (.snpData a line x.1 x.2 { dirty := true })
    | none => t
  else if !homeAwaits s a line then malformedMsg s
  else
    let t := snoopAnswer s a line had false d.isSome .ok
    match d with
    | some x => snoopData t a line x.1 x.2 true .ok
    | none => t

/-! ## Flits -/

/-- The answer to a request of this package, which another block of the cascade may hold (R512, R525). -/
def spanAnswer (s : State) (pos tracker : Nat) (k : AnsKind) (status : Nat) (d : LineData) (p : Nat) : State :=
  if pos = s.cas.pos ∨ blocks s ≤ pos then remoteRsp s tracker k status d p
  else casSend s { src := s.cas.pos, dst := pos, span := true, cls := ansClass k, bytes := 160, load := .span s.spn.partner (.rsp pos tracker k status d p) }

/-- The ACK of a remote holder for a grant of a home of this package, which another block of the cascade may hold (R512). -/
def remoteAck (s : State) (tag line : Nat) : State :=
  if homeHere s line then ackGrant s (32 + s.cas.pos) tag line
  else casTo s (homeOf s line).1 3 line 16 (.ack (32 + s.cas.pos) tag line)

/-- A message of an accepted flit takes effect (R525, R526, R538). -/
def spanTake (s : State) : SpanMsg → State
  | .ingress r => if s.spn.quar then s else ingress s r
  | .rsp b k a st d p => if s.spn.quar then s else spanAnswer s b k a st d p
  | .snp n l op => if s.spn.quar then s else remoteSnoop s n l op
  | .snpRsp n l had d => if s.spn.quar then s else remoteSnpRsp s n l had d
  | .ack _ tag l => if s.spn.quar then s else remoteAck s tag l
  | .link 0x10 b => spanAck s (b.headD 0).toNat
  | .link 0x11 b => spanNak s (b.headD 0).toNat
  | .link 0x12 b => spanCredit s (b.headD 0)
  | .link 0x20 b => cricket s (b.headD 0)
  | .link 0x30 _ => s
  | .link 0x22 b => calReq s (b.headD 0).toNat
  | .link _ _ => if s.spn.quar then s else malformedMsg s
  | .req _ _ _ => if s.spn.quar then s else malformedMsg s
  | .ans _ _ _ _ _ _ _ => if s.spn.quar then s else malformedMsg s
  | .malformed => if s.spn.quar then s else malformedMsg s
  | .filler => s

/-- A flit arrives: a bad one asks for a replay, a false tag quarantines, and the others take effect (R522, R524). While a replay is awaited,
a flit whose tag fails under the awaited sequence is a later one and is discarded (log entry 35). -/
def flit (s : State) (f : List Byte) (msgs : List SpanMsg) : State :=
  if !spnLinked s then s
  else if !flitCrcOk f then
    replayed (spanLocal (updSpn s (fun n => { n with discard := true })) 0x11 [w64 s.spn.rxSeq])
  else if !flitTagOk s f then (if s.spn.discard then s else quarantine s 2)
  else
    let t := updSpn s (fun n => { n with rxSeq := n.rxSeq + 1, discard := false })
    let t := if t.spn.rxSeq % 256 = 0 then spanLocal t 0x10 [w64 s.spn.rxSeq] else t
    msgs.foldl spanTake t

/-- FLIT_RECEIVE (R519 to R522): the codewords that were decoded since the flit before, each with its lane, the 256 bytes of the flit
that the stream of their payloads gives, and the messages that end in it (log entries 20, 51). -/
def execFlitReceive (words : List (Nat × List Nat)) (flit : List Byte) (msgs : List SpanMsg) (s : State) : Host.Outcome State Fault Refusal :=
  .next (Sys2Proof.Machine.flit (if s.spn.st == .down || s.spn.st == .backoff then s else words.foldl codeword s) flit msgs)

end Sys2Proof.Machine
end

