-- ==== Sys2Proof/Machine/Cascade.lean ====
section
/-!
DEFINITION. The cascade: formation, routes, forwarding, the loss of a port, the node ID and the memory ranges (R503 to R517,
R552, R553), and the stages of start-up that wait for it (R667 to R681).
-/
namespace Sys2Proof.Machine
open Sys2Proof

/-! ## Stages of start-up -/

/-- Pages of the station links and of the memory ports. -/
def stationPages : List Nat := [pENG, pHST0, pHST1]
def memPages : List Nat := [pNMP0, pNMP0 + 1, pNMP0 + 2, pNMP0 + 3]

/-- The block halts: its stations, memory ports and span station stay disabled, and the interrupt is raised (R681, R686). -/
def halt (s : State) (err info : Nat) : State :=
  let t := { s with boot := { s.boot with stage := 0xF, err := err, info := setFld s.boot.info 7 0 info, running := false } }
  let t := (stationPages ++ memPages ++ [pSPN]).foldl (fun u p => updPage u p (fun q => { q with enable := false })) t
  let t := { t with mps := t.mps.map (fun e => (e.1, { e.2 with en := false, ready := false })) }
  raise (spnDown t) pCTL 1

/-- A station or memory port that still gates the start (R675, R676). -/
def gatePending (s : State) : Bool :=
  stationPages.any (fun p => !s.boot.ungated.contains p && !fenced s p && !linkUp s p) ||
  memPages.any (fun p => present s p && (tget s.mps (p - pNMP0)).present && !s.boot.ungated.contains p && !fenced s p && !linkUp s p)

/-- BOOT_STAT[STAGE] between step 6 and the opening: BRING_UP while a link or port is awaited, JOIN while the cascade is not formed,
then ATTEST (R674). -/
def bootAdvance (s : State) : State :=
  if s.boot.running && decide (5 ≤ s.boot.stage) && decide (s.boot.stage ≤ 8) then
    let st := if gatePending s then 6 else if s.cas.st != 2 then 7 else 8
    { s with boot := { s.boot with stage := st } }
  else s

/-! ## Formation -/

/-- Cascade ports that are up, with what stands behind them. -/
def casPeers (s : State) : List (Nat × CasPeer) := (tsome s.cas.peers).filter (fun e => e.2.up && !cellFenced s (48 + e.1))

/-- Positions that have reached this block, directly or through one other block (R504). -/
def casSeen (s : State) : List Nat :=
  (casPeers s).foldl (fun l e => e.2.reaches.foldl setIns (setIns l e.2.pos)) [s.cas.pos]

/-- The field of CAS_ROUTE of a position: the lowest port with a direct link, else the lowest whose neighbour has one (R508). -/
def casRoute (s : State) (n : Nat) : Nat :=
  if n = s.cas.pos ∨ s.cas.sizeM1 < n then 0
  else match (casPeers s).find? (fun e => e.2.pos == n) with
    | some e => 8 + e.1
    | none => match (casPeers s).find? (fun e => e.2.reaches.contains n) with
      | some e => 12 + e.1
      | none => 0

/-- All routes. -/
def casRoutes (s : State) : Tbl Nat := (List.range 8).foldl (fun t n => tset t n (casRoute s n)) []

/-- Two positions are at most two links apart, as far as this block knows the links. -/
def casNear (s : State) (a b : Nat) : Bool :=
  let link := fun (x y : Nat) =>
    (casPeers s).any (fun e => (e.2.pos == x && (y == s.cas.pos || e.2.reaches.contains y)) || (e.2.pos == y && (x == s.cas.pos || e.2.reaches.contains x)))
  a == b || link a b || (List.range 8).any (fun k => link a k && link k b)

/-- A condition of R505 that this block detects, in the order of its table. -/
def joinErr (s : State) : Option Nat :=
  let l := casPeers s
  let B := s.cas.sizeM1 + 1
  let seen := casSeen s
  if l.any (fun e => e.2.pos == s.cas.pos) ||
     l.any (fun e => l.any (fun f => e.1 != f.1 && e.2.pos == f.2.pos && (e.2.master != f.2.master || e.2.reaches != f.2.reaches))) then some 1
  else if (s.cas.master && l.any (fun e => e.2.master)) || l.any (fun e => l.any (fun f => e.2.pos != f.2.pos && e.2.master && f.2.master)) then some 2
  else if !s.cas.master && !l.any (fun e => e.2.master) && (List.range B).all (fun n => n == s.cas.pos || l.any (fun e => e.2.pos == n)) then some 3
  else if l.any (fun e => e.2.sizeM1 != s.cas.sizeM1) then some 4
  else if s.cas.master && ((List.range B).any (fun n => !seen.contains n) || seen.any (fun n => decide (B ≤ n))) then some 5
  else if s.cas.master && (List.range B).any (fun a => (List.range B).any (fun b => !casNear s a b)) then some 6
  else if l.any (fun e => e.2.gen != 1 || e.2.step != 0xB0) then some 7
  else none

/-! ## Memory ranges -/

/-- Two ranges overlap. -/
def rangesOverlap (a b : MemRange) : Bool :=
  rangeMode a != 0 && rangeMode b != 0 && overlap (rangeBase a) (rangeLines a) (rangeBase b) (rangeLines b)

/-- A range satisfies R516 as far as this block can judge. -/
def rangeOk (s : State) (i : Nat) (r : MemRange) : Bool :=
  !s.cas.ranges.any (fun e => e.1 != i && rangesOverlap r e.2) &&
  (match rangeMode r with
    | 0 => true
    | 1 => decide (fld r.ctl 28 26 ≤ s.cas.sizeM1) && (fld r.ctl 28 26 != s.cas.pos || !bitOf r.ctl 30 || s.build.fmp)
    | 2 => rangeLines r % (8 * blocks s) == 0
    | _ => s.build.fmp && rangeLines r % (8 * blocks s) == 0)

/-- Every range and the pools pass their conditions at formation (R371, R516). -/
def rangesOk (s : State) : Bool := s.cas.ranges.all (fun e => rangeOk s e.1 e.2)

/-- A write of MEM_BASE, MEM_CTL or MEM_PBASE of the selected range (R516, R552). -/
def memRangeSet (s : State) (off : Nat) (v : Word) : State :=
  let i := s.cas.memSel
  let r := tget s.cas.ranges i
  let put := fun (r : MemRange) => { s with cas := { s.cas with ranges := tset s.cas.ranges i r } }
  if s.cas.st = 2 then refuseLast s pCAS .permission
  else match off with
    | 0x230 => put { r with base := v &&& mask 45 22 }
    | 0x238 =>
      let n := { r with ctl := v &&& mask 30 0 }
      if rangeOk s i n then put n else refuseLast s pCAS .permission
    | _ => put { r with pbase := v &&& mask 38 0 }

/-- MEM_RANGE_WRITE (R516). -/
def execMemRangeWrite (a : Acc) (off : Nat) (v : Word) (s : State) : Host.Outcome State Fault Refusal :=
  .next (if off = 0x230 ∨ off = 0x238 ∨ off = 0x240 then unitWrite s a pCAS off (fun t => memRangeSet t off v) else s)

/-! ## Node ID -/

/-- NODE_ID takes a value; a station that waits for VALID trains (R506). -/
def nodeIdPut (s : State) (v : Word) : State := spnPoll { s with cas := { s.cas with nodeId := v &&& mask 16 0 } }

/-- A write of NODE_ID (R506): the master passes it to every block of the cascade. -/
def nodeIdSet (s : State) (v : Word) : State :=
  if !s.cas.master || s.spn.st == .active || s.spn.stations.any (fun e => e.2 != 0) then refuseLast s pCAS .permission
  else casAll (nodeIdPut s v) (.nodeId v)

/-- NODE_ID_WRITE (R506). -/
def execNodeIdWrite (a : Acc) (v : Word) (s : State) : Host.Outcome State Fault Refusal :=
  .next (unitWrite s a pCAS 0x210 (fun t => nodeIdSet t v))

/-! ## Commands of formation -/

/-- CASCADE_LINK_INIT: what a LINK_INIT tells is kept, and the port has its credits (R504, R510, R598). -/
def casLinkInit (s : State) (port : Nat) (peer : Straps) (gen step : Nat) (reaches : List Nat) (lat : Nat) : State :=
  if 4 ≤ port ∨ s.boot.stage < 2 then s
  else
    let p : CasPeer := { pos := peer.pos % 8, master := peer.master, sizeM1 := peer.sizeM1 % 8, gen := gen, step := step, reaches := reaches.map (fun n => n % 8),
                         up := true, lat := lat }
    casRelease { s with cas := { s.cas with
      peers := tset s.cas.peers port (some p)
      credits := (List.range 24).foldl (fun t i => tset t (port * 24 + i) 8) s.cas.credits
      st := if s.cas.st = 0 then 1 else s.cas.st } }

/-- CASCADE_LINK_INIT (R504). -/
def execCascadeLinkInit (port : Nat) (peer : Straps) (gen step : Nat) (reaches : List Nat) (lat : Nat) (s : State) :
    Host.Outcome State Fault Refusal := .next (casLinkInit s port peer gen step reaches lat)

/-- The cascade latency: the largest measured, rounded up to 8 cyc (R598). -/
def casLatOf (s : State) : Nat := cdiv ((casPeers s).foldl (fun n e => max n e.2.lat) 0) 8 * 8

/-- CASCADE_FORMED: routes are set, ranges judged, and span stations may train (R504, R508, R516, R598, R678). -/
def casFormed (s : State) : State :=
  if !s.boot.running || s.boot.stage < 5 || s.boot.stage = 0xF || s.cas.st = 2 || s.cas.st = 3 || (joinErr s).isSome then s
  else if !rangesOk s then halt s 0x06 s.cas.pos
  else
    let t := { s with cas := { s.cas with st := 2, err := 0, routes := casRoutes s }, det := { s.det with casLat := casLatOf s } }
    let t := if t.cas.master then casAll (casAll (casAll t (.ranges (t.cas.ranges.map (fun e => (e.1, e.2.base, e.2.ctl, e.2.pbase))))) (.nodeId t.cas.nodeId)) (.beaconNs t.boot.beaconNs) else t
    let t := raise t pCAS 0
    let t := if t.boot.spanTrain && present t pSPN then
        spnPoll (noteReg (updSpn (updPage t pSPN (fun q => { q with enable := true })) (fun n => { n with cfg := n.cfg ||| 1 })) pSPN 0x200)
      else t
    bootAdvance t

/-- CASCADE_FORMED (R504). -/
def execCascadeFormed (s : State) : Host.Outcome State Fault Refusal := .next (casFormed s)

/-- JOIN_DEADLINE: an unformed cascade records why at 50,000 bt after reset release (R505); a block that detects nothing takes
INCOMPLETE from the master. -/
def execJoinDeadline (s : State) : Host.Outcome State Fault Refusal :=
  .next (if s.cas.st = 2 || s.cas.st = 3 || !btDue s 50000 || s.boot.stage < 2 then s
    else
      let t := { s with cas := { s.cas with st := 3, err := (joinErr s).getD 5 } }
      let t := if t.boot.stage = 0xF then t else { t with boot := { t.boot with err := 0x07, info := setFld t.boot.info 7 0 t.cas.pos } }
      tellEvent (raise t pCAS 1) 64)

/-! ## Lost ports -/

/-- What another block tells of its span station: the route table follows, and the requests routed through a station that serves no more
end (R538, R540, R642). -/
def stationHere (s : State) (src st : Nat) (gone : Option Status) : State :=
  let t := updSpn s (fun n => { n with stations := tset n.stations src st })
  tableFill (match gone with
    | some g => remotesEnd t src g
    | none => t)

/-- Blocks that no route of at most two links reaches count as fenced, their span stations with them (R513, R643). -/
def dropLost (s : State) : State :=
  ((List.range (blocks s)).filter (fun n => n != s.cas.pos && !(tget s.cas.routes n).testBit 3)).foldl (fun t n => stationHere (blockLose t n) n 0 (some .partnerAbsent)) s

/-- The routes are computed again after a cascade port is lost (R513, R553). -/
def casReroute (s : State) : State :=
  let r := casRoutes s
  let changed := decide (r ≠ s.cas.routes)
  let t := dropLost { s with cas := { s.cas with routes := r } }
  casRelease (if changed then raise t pCAS 3 else t)

/-- A cascade port is lost (R513): the messages on its link are lost, and the requests that went out through it end as those of a lost
link do (R250). -/
def casPortLost (s : State) (port : Nat) : State :=
  match tget s.cas.peers port with
  | none => s
  | some p =>
    if !p.up then s
    else
      let t := { s with cas := { s.cas with peers := tset s.cas.peers port (some { p with up := false }),
                                            pools := s.cas.pools.filter (fun m => casPort s m.dst != some port) } }
      let t := casEnd (raise t pCAS 2) (fun b => casPort s b == some port) .partnerAbsent
      if t.cas.st = 2 then casReroute t else t

/-- CASCADE_PORT_DOWN (R513). -/
def execCascadePortDown (port : Nat) (s : State) : Host.Outcome State Fault Refusal := .next (casPortLost s port)

end Sys2Proof.Machine
end

