-- ==== Sys2Proof/Machine/DataPort.lean ====
section
/-!
DEFINITION. The data port of a page: its arrays, reads, writes, commits and every condition that stops a transfer (R63 to R71,
R712 to R715, and the array layouts of R158, R235, R359, R402, R594 and R629).
-/
namespace Sys2Proof.Machine
open Sys2Proof

/-! ## Arrays -/

/-- An array of the data port (R63). -/
structure DpArray where
  /-- bytes -/
  size : Nat
  read : Bool := true
  write : Bool := false
  /-- a write needs EXPERT -/
  expert : Bool := false
  /-- captured when MODE changes to read -/
  snap : Bool := false
  /-- node memory by NPA -/
  mem : Bool := false
  /-- stored inside its unit, which a fence closes (R714) -/
  inside : Bool := false
deriving DecidableEq, Repr

/-- The table of R63. The report array has room for the longest report (log entry 25). -/
def dpArray (s : State) (p arr : Nat) : Option DpArray :=
  match p, arr with
  | 0x00, 1 => some { size := 0x200000, read := false, write := true }
  | 0x00, 2 => some { size := 2 ^ 46, write := true, expert := true, mem := true }
  | 0x02, 1 => some { size := 5400, snap := true }
  | 0x04, 1 => some { size := 768, snap := true, inside := true }
  | 0x08, 1 => some { size := 32 * s.build.lantern }
  | 0x08, 2 => some { size := 2 ^ 46, write := true, expert := true, mem := true }
  | 0x09, 1 => some { size := 32 * 1048576 * s.build.dirMi }
  | 0x0B, 1 => some { size := 65536, write := true, expert := true, inside := true }
  | 0x0C, 1 => some { size := 32 * min 65536 s.tir.nearPages.toNat, inside := true }
  | _, _ => none

/-- Array select in force. -/
def dpSel (q : Page) : Nat := fld q.dpAddr 63 56

/-- The array of the running transfer. -/
def dpNow (s : State) (p : Nat) : Option DpArray := dpArray s p (dpSel (page s p))

/-- Words of a report or of any byte list, padded with zeros. -/
def bytesWords (l : List Byte) (n : Nat) : List Word := (List.range n).map (fun i => w64 (bytesNat ((l.drop (8 * i)).take 8)))

/-- The counter snapshot (R629). -/
def cntSnapshot (s : State) : List Word :=
  (List.range 64).map (fun i => w64 (tget s.cnt.vals i)) ++ [s.cnt.ovf, w64 (timestamp s), w64 (timestamp s / 2 ^ 64)] ++ List.replicate 29 0

/-- Code of a page size. -/
def tlbWords (e : TlbEntry) (rank : Nat) : List Word :=
  [pack [(0, 1), (1, b2n e.stage2), (2, e.x.size), (4, e.id), (16, e.pn)],
   pack [(0, b2n e.x.r), (1, b2n e.x.w), (2, b2n e.x.atom), (3, e.x.attr), (5, b2n e.x.glob), (6, e.x.node), (22, e.x.out / 2 ^ 22)],
   pack [(0, e.epoch), (32, if e.stage2 then 0 else e.epoch2)], pack [(0, rank), (3, b2n e.pref)]]

/-- Entry n of the Lantern array, in order of slice, set and way (R158), its RANK its place in the set's order of use. The entries of
a fenced slice read as zero words (R714). A way with VALID 0 reads as four zero words: the spec does not say what its other fields
hold (DESIGN CHOICE, log entry 25). -/
def lanternWords (s : State) (n : Nat) : List Word :=
  let sets := s.build.lantern / 64
  let slice := n / (8 * sets)
  if cellFenced s (32 + slice) then [0, 0, 0, 0]
  else match (s.lan.lantern.filter (fun e => e.idx == slice + 8 * (n / 8 % sets))).zipIdx.find? (fun e => e.1.way == n % 8) with
    | some e => tlbWords e.1 e.2
    | none => [0, 0, 0, 0]

/-- State code, agent and vector of a directory state (R235). -/
def dirCode : DirState → Nat × Nat × Nat
  | .unc => (0, 0, 0)
  | .shared v => (1, 0, v.toNat)
  | .fwd f v => (2, f, v.toNat)
  | .owned o => (3, o, 0)

/-- Entry n of the directory array, in order of slice, set and way (R235), its RANK its place in the set's order of use. A way with
VALID 0 reads as four zero words (DESIGN CHOICE, log entry 25). -/
def dirWords (s : State) (n : Nat) : List Word :=
  let sets := s.build.dirMi * 8192
  let slice := n / (16 * sets)
  if cellFenced s (32 + slice) then [0, 0, 0, 0]
  else match (s.hom.dirLru.filter (fun l => dirSet s l == (8 * s.cas.pos + slice, n / 16 % sets))).zipIdx.find?
      (fun x => tget s.hom.dirWay x.1 == n % 16 + 1) with
    | none => [0, 0, 0, 0]
    | some (l, rank) =>
      let e := tget s.hom.dir l
      let (c, a, v) := dirCode e.st
      [pack [(0, 1), (1, c), (3, b2n (txnOf s l).isSome), (4, b2n (decide (s.clk.cyc < (tget s.hom.wick l).2))), (5, a), (16, v)],
       pack [(0, l), (39, min 4 e.remote.length), (42, b2n e.runcached)],
       pack ((List.range 4).map (fun i => (16 * i, e.remote.getD i 0))), w64 rank]

/-- Code of STATE of a heat entry (R402). -/
def heatCode : HeatState → Nat
  | .untracked => 0 | .resident => 1 | .out => 2 | .inn => 3 | .free => 4 | .ember => 5 | .emberMx => 6

/-- The four words of a heat entry or ember record (R402). -/
def heatWords (h : Heat) : List Word :=
  [pack [(0, heatCode h.st), (3, b2n h.auto), (4, b2n h.lossyOk), (5, h.srcFmt), (9, h.mxFmt), (15, h.part), (25, h.obj)],
   pack [(0, h.leaf / 8 * 8), (46, h.perm), (49, h.attr)],
   pack [(0, h.heat), (8, h.wcount), (24, b2n h.wrote), (25, h.quiet)], w64 h.moves]

/-- n entries of four words from entry k on. -/
def entryWords (f : Nat → List Word) (k n : Nat) : List Word := (List.range n).flatMap (fun i => f (k + i))

/-- The 256 bytes of node memory at an offset, with poisoned words read as 0, and whether any was poisoned (R71). -/
def memBlock (s : State) (off : Nat) : List Word × Bool :=
  let l := (List.range 32).map (fun i => let a := off + 8 * i
                                         if s.memPois.contains (a / 16) || memStatus s (a / 128) == .poison then (w64 0, true) else (rdWord s a, false))
  (l.map (fun x => x.1), l.any (fun x => x.2))

/-- The block of an array at an offset (R64), and whether a word of it was poisoned. -/
def dpBlock (s : State) (p : Nat) (off : Nat) : List Word × Bool :=
  match p, dpSel (page s p) with
  | 0x02, 1 => ((List.range 32).map (fun i => (page s p).dpSnap.getD (off / 8 + i) 0), false)
  | 0x04, 1 => ((List.range 32).map (fun i => (page s p).dpSnap.getD (off / 8 + i) 0), false)
  | 0x08, 1 => (entryWords (lanternWords s) (off / 32) 8, false)
  | 0x09, 1 => (entryWords (dirWords s) (off / 32) 8, false)
  | 0x0B, 1 => ((List.range 32).map (fun i => tget s.xfm.store (off / 8 + i)), false)
  | 0x0C, 1 => (entryWords (fun i => heatWords (tget s.tir.frames i)) (off / 32) 8, false)
  | _, _ => memBlock s off

/-- What the root partition may not reach stops a block of node memory (R65): another partition's lines, and lines that no connected
memory port serves. -/
def dpRefused (s : State) (off : Nat) : Option Status :=
  if !(inLayout s 0 off && inLayout s 0 (off + 128)) then some .permission
  else if memStatus s (off / 128) == .unmapped || memStatus s (off / 128 + 1) == .unmapped then some .unmapped else none

/-! ## Starting and ending -/

/-- The port returns to idle (R69, R70). A block committed before is still on its way to its array (R71). -/
def dpIdle (s : State) (p : Nat) : State :=
  updPage s p (fun q => { q with dpMode := 0, dpClaim := none, dpReady := false, dpValid := [], dpSnap := [], dpPois := false, dpEnding := false,
                                 dpOld := q.dpOld || q.dpCommitting })

/-- A transfer stops on an error (R70, R71). -/
def dpFail (s : State) (p : Nat) (st : Status) : State :=
  raise (updPage (dpIdle s p) p (fun q => { q with dpStatus := st, dpErr := true, dpDone := false })) p 62

/-- No commit is on its way any more: it has landed, or it was refused or lost. -/
def dpLanded (s : State) (p : Nat) : State :=
  updPage s p (fun q => { q with dpCommit := [], dpCommitting := false, dpOld := false, dpLeft := 0, dpSent := false })

/-- A burst ends with OK (R70). -/
def dpDoneOk (s : State) (p : Nat) : State :=
  raise (updPage (dpIdle s p) p (fun q => { q with dpStatus := .ok, dpErr := false, dpDone := true })) p 63

/-- A transfer starts with MODE 1 or 2, or stops at once (R63, R64, R71, R714). -/
def dpStart (s : State) (st p mode : Nat) (v : Word) : State :=
  let off := fld (page s p).dpAddr 55 8 * 256
  let t := updPage s p (fun q => { q with dpMode := mode, dpClaim := some st, dpOff := off, dpStatus := .ok, dpReady := false, dpDone := false,
                                          dpErr := false, dpRemain := fld v 47 32, dpValid := [], dpWin := [], dpPois := false, dpEnding := false })
  match dpNow s p with
  | none => dpFail t p .unmapped
  | some a =>
    if a.inside && fenced s p then dpFail t p .unitAbsent
    else if (mode == 1 && !a.read) || (mode == 2 && !a.write) then dpFail t p .permission
    else if mode == 2 && a.expert && !(page s p).expert then dpFail t p .permission
    else if a.size ≤ off then dpFail t p .unmapped
    else
    let t := if a.mem then ownDone t (kArray p) else t
    if mode == 1 && a.snap then
      updPage t p (fun q => { q with dpSnap := if p = pCNT then cntSnapshot s else bytesWords s.sec.report 675 })
    else t

/-- STRIDE in bytes: its low 8 bits count as 0, and 0 means 256 (R712). -/
def dpStride (q : Page) : Nat := if fld q.dpCtl 31 16 = 0 then 256 else fld q.dpCtl 31 16 * 256

/-- A transfer moves on by one block: OFFSET gains STRIDE, and REMAIN falls (R68). -/
def dpAdvance (q : Page) : Page :=
  let o := (q.dpOff + dpStride q) % 2 ^ 56
  { q with dpOff := o, dpAddr := setFld q.dpAddr 55 8 (o / 256), dpRemain := q.dpRemain - 1 }

/-- BURST bounds the transfer. -/
def dpBounded (q : Page) : Bool := fld q.dpCtl 47 32 != 0

/-- The block in the window is written: its valid words leave for the array (R67, R68). A flush does not advance. -/
def dpCommitOut (s : State) (p : Nat) (flush : Bool) : State :=
  let q := page s p
  match dpNow s p with
  | none => s
  | some a =>
    if a.expert && !q.expert then dpFail s p .permission
    else
      let ws := q.dpValid.map (fun i => (q.dpOff + 8 * i, tget q.dpWin i))
      updPage s p (fun q =>
        let q := { q with dpCommit := ws, dpCommitArr := dpSel q, dpCommitting := true, dpValid := [], dpOld := false, dpLeft := 0, dpSent := false }
        if flush then q
        else if !bitOf q.dpCtl 2 then { q with dpEnding := true }
        else
          let r := dpAdvance q
          { r with dpEnding := dpBounded q && r.dpRemain == 0 })

/-! ## Registers of the port -/

/-- An access to DP_ADDR, DP_CTL or DP_WIN by a station that has not claimed the claimed port (R69). -/
def dpForeign (s : State) (a : Acc) (p : Nat) : Bool := (page s p).dpClaim.any (fun c => c != a.st)

/-- The conflict is recorded (R69). -/
def dpConflictSet (s : State) (p : Nat) : State := updPage s p (fun q => { q with dpConflict := true })

/-- A write that the running transfer ignores (R71, last row). -/
def dpIgnored (s : State) (p : Nat) : State := updPage s p (fun q => { q with dpStatus := .permission })

/-- DP_CTL fields that are stored: INC, STRIDE and BURST; MODE stands apart and FLUSH is WO. -/
def dpCtlKeep (v : Word) : Word := v &&& (w64 4 ||| mask 47 8)

/-- A write of DP_CTL (R68, R70, R71, R713). -/
def dpCtlSet (s : State) (st p : Nat) (v : Word) : State :=
  let q := page s p
  let mode := fld v 1 0
  if q.dpMode ≠ 0 then
    if bitOf v 3 then (if q.dpMode = 2 then dpCommitOut s p true else dpIgnored s p)
    else if mode = 0 then updPage (dpIdle s p) p (fun q => { q with dpStatus := .ok })
    else dpIgnored s p
  else
    let t := updPage s p (fun q => { q with dpCtl := dpCtlKeep v })
    if mode = 0 then t
    else if mode = 3 then raise (updPage t p (fun q => { q with dpStatus := .permission, dpErr := true, dpDone := false })) p 62
    else dpStart t st p mode v

/-- A write of DP_ADDR (R71, R712). -/
def dpAddrSet (s : State) (p : Nat) (v : Word) : State :=
  updPage s p (fun q => if q.dpMode ≠ 0 then { q with dpStatus := .permission } else { q with dpAddr := v })

/-! ## Blocks -/

/-- The next block of a read enters the window, or the transfer stops (R65, R66, R71). Node memory is read by coherent reads at its
homes: a block one of whose lines a cache holds waits for the answer (R36, R64). -/
def dpFetch (s : State) (p : Nat) : State :=
  let q := page s p
  if q.dpMode ≠ 1 ∨ q.dpReady then s
  else match dpNow s p with
    | none => s
    | some a =>
      if a.size ≤ q.dpOff then dpFail s p .unmapped
      else match (if a.mem then dpRefused s q.dpOff else none) with
        | some st => dpFail s p st
        | none =>
          let (ok, t) := if a.mem then ownLines s (kArray p) [q.dpOff / 128, q.dpOff / 128 + 1] else (true, s)
          if !ok then t else
          let (ws, bad) := dpBlock t p q.dpOff
          let win := ws.zipIdx.foldl (fun t e => tset t e.2 e.1) ([] : Tbl Word)
          updPage t p (fun q => { q with dpWin := win, dpReady := true, dpPois := bad })

/-- DP_BLOCK_FETCHED (R66). -/
def execDpBlockFetched (page : Nat) (s : State) : Host.Outcome State Fault Refusal := .next (dpFetch s page)

/-- The word at 0x01F8 was read: the block ends (section Read transfers). -/
def dpBlockRead (s : State) (p : Nat) : State :=
  let q := page s p
  if q.dpPois then dpFail s p .poison
  else if !bitOf q.dpCtl 2 then dpDoneOk s p
  else
    let t := updPage s p (fun q => { dpAdvance q with dpReady := false })
    if dpBounded q && q.dpRemain == 1 then dpDoneOk t p else t

/-- Words of the window from an offset on. -/
def dpWords (q : Page) (off size : Nat) : List Word := (List.range (size / 8)).map (fun i => tget q.dpWin ((off - 0x100) / 8 + i))

/-- Zero words of an access size. -/
def zeroWords (size : Nat) : List Word := List.replicate (size / 8) 0

/-- A read of the window (R66, R69, R715). -/
def dpRead (s : State) (a : Acc) (p off size : Nat) : State :=
  let q := page s p
  if dpForeign s a p then regRsp (dpConflictSet s p) a.st .ok (zeroWords size)
  else if !q.dpReady then regRsp (updPage s p (fun q => { q with dpUnderrun := true })) a.st .ok (zeroWords size)
  else
    let t := if off + size = 0x200 then dpBlockRead s p else s
    regRsp t a.st .ok (dpWords q off size)

/-- A write of the window (R67, R68, R69, R715). -/
def dpWrite (s : State) (p off size : Nat) (data : List Word) : State :=
  if (page s p).dpMode ≠ 2 then s
  else
    let idx := (List.range (size / 8)).map (fun i => (off - 0x100) / 8 + i)
    let t := updPage s p (fun q => { q with
      dpWin := (idx.zip data).foldl (fun w e => tset w e.1 e.2) q.dpWin
      dpValid := idx.foldl setIns q.dpValid })
    if off + size = 0x200 then dpCommitOut t p false else t

/-! ## Accesses of the port -/

/-- The access commits a block: a write of the word at 0x01F8, or a flush. -/
def dpCommits (x : DpAcc) : Bool :=
  match x.kind with
  | .win => x.off + x.size == 0x200
  | .ctl => bitOf (x.data.headD 0) 3
  | _ => false

/-- The access would reach a block that is not committed yet (section Write transfers). -/
def dpBlocks (q : Page) (x : DpAcc) : Bool := q.dpMode == 2 && q.dpCommitting && q.dpClaim == some x.acc.st && dpCommits x

/-- The access stays in its station's request queue: it would reach a block that is not committed yet, or it stands behind one that
does (R53, section Write transfers). -/
def dpMustWait (q : Page) (x : DpAcc) : Bool := q.dpWait.any (fun y => y.acc.st == x.acc.st) || dpBlocks q x

/-- An access takes effect at its port, and is answered (R66, R67, R69). -/
def dpDo (s : State) (p : Nat) (x : DpAcc) : State :=
  let a := x.acc
  let put := fun (f : State → State) => regRsp (if dpForeign s a p then dpConflictSet s p else f s) a.st .ok []
  match x.kind with
  | .addr => put (fun t => dpAddrSet t p (x.data.headD 0))
  | .ctl => put (fun t => dpCtlSet t a.st p (x.data.headD 0))
  | .win => put (fun t => dpWrite t p x.off x.size x.data)
  | .rd =>
    if 0x100 ≤ x.off then dpRead s a p x.off x.size
    else if dpForeign s a p then regRsp (dpConflictSet s p) a.st .ok [0]
    else regRsp s a.st .ok [regGet s p x.off]

/-- A host access of DP_ADDR, DP_CTL or DP_WIN (R14, R47, R48, R51, R52, R69, R715). The response to an access of a wrong size or
alignment is OK: the spec gives no STATUS for it (DESIGN CHOICE, log entry 24). -/
def dpAccess (s : State) (p : Nat) (x : DpAcc) : State :=
  let a := x.acc
  let zeros := if x.kind = .rd then zeroWords x.size else []
  if !accUp s a.st then s
  else if !mayReach s a.part (.page p x.off) then refusedAcc s a zeros
  else if !isPage p then regRsp s a.st .ok zeros
  else if !present s p then regRsp s a.st .unitAbsent zeros
  else if !sizeOk (.page p x.off) x.off x.size then regRsp (badSize s (.page p x.off)) a.st .ok zeros
  else if dpMustWait (page s p) x then updPage s p (fun q => { q with dpWait := q.dpWait ++ [x] })
  else dpDo s p x

/-- After a commit landed or was lost, the accesses that waited for it take effect in their order (section Write transfers). -/
def dpSettle : Nat → State → Nat → State
  | 0, s, _ => s
  | n + 1, s, p =>
    match (page s p).dpWait with
    | [] => s
    | x :: t =>
      if dpBlocks (page s p) x then s
      else dpSettle n (dpDo (updPage s p (fun q => { q with dpWait := t })) p x) p

/-- All that can of what waits. -/
def dpSettleAll (s : State) (p : Nat) : State := dpSettle (page s p).dpWait.length s p

/-- The unit of a page is fenced while its port moves an array stored inside it (R71). -/
def dpFenced (s : State) (p : Nat) : State :=
  if (page s p).dpMode != 0 && (dpNow s p).any (fun a => a.inside) then dpSettleAll (dpLanded (dpFail s p .contextLost) p) p
  else if (page s p).dpCommitting && (dpArray s p (page s p).dpCommitArr).any (fun a => a.inside) then dpSettleAll (dpLanded s p) p else s

/-- A write of DP_CTL. -/
def dpCtlAcc (a : Acc) (v : Word) : DpAcc := { acc := a, kind := .ctl, off := 0x48, data := [v] }

/-- DP_ADDR_WRITE (R69, R71, R712). -/
def execDpAddrWrite (a : Acc) (page : Nat) (v : Word) (s : State) : Host.Outcome State Fault Refusal :=
  .next (dpAccess s page { acc := a, kind := .addr, off := 0x40, data := [v] })

/-- DP_START_READ: DP_CTL with MODE 0b01 (R64). -/
def execDpStartRead (a : Acc) (page : Nat) (v : Word) (s : State) : Host.Outcome State Fault Refusal :=
  .next (if fld v 1 0 = 1 then dpAccess s page (dpCtlAcc a v) else s)

/-- DP_START_WRITE: DP_CTL with MODE 0b10 (R67). -/
def execDpStartWrite (a : Acc) (page : Nat) (v : Word) (s : State) : Host.Outcome State Fault Refusal :=
  .next (if fld v 1 0 = 2 then dpAccess s page (dpCtlAcc a v) else s)

/-- DP_MODE_RESERVED: DP_CTL with MODE 0b11 (R713). -/
def execDpModeReserved (a : Acc) (page : Nat) (v : Word) (s : State) : Host.Outcome State Fault Refusal :=
  .next (if fld v 1 0 = 3 then dpAccess s page (dpCtlAcc a v) else s)

/-- DP_ABANDON: DP_CTL with MODE 0b00 and FLUSH at 0 (R71). -/
def execDpAbandon (a : Acc) (page : Nat) (v : Word) (s : State) : Host.Outcome State Fault Refusal :=
  .next (if fld v 1 0 = 0 ∧ !bitOf v 3 then dpAccess s page (dpCtlAcc a v) else s)

/-- DP_FLUSH: DP_CTL with FLUSH at 1 (R68). -/
def execDpFlush (a : Acc) (page : Nat) (v : Word) (s : State) : Host.Outcome State Fault Refusal :=
  .next (if bitOf v 3 then dpAccess s page (dpCtlAcc a v) else s)

/-- DP_WIN_READ (R51, R52, R66). -/
def execDpWinRead (a : Acc) (page : Nat) (off size : Nat) (s : State) : Host.Outcome State Fault Refusal :=
  .next (if off < 0x100 ∨ 0x200 ≤ off then s else dpAccess s page { acc := a, kind := .rd, off := off, size := size })

/-- DP_WIN_WRITE (R51, R52, R68). -/
def execDpWinWrite (a : Acc) (page : Nat) (off size : Nat) (data : List Word) (s : State) : Host.Outcome State Fault Refusal :=
  .next (if off < 0x100 ∨ 0x200 ≤ off then s else dpAccess s page { acc := a, kind := .win, off := off, size := size, data := data })

/-! ## Commits -/

/-- A commit to the staging array (R63). -/
def stagePut (s : State) (l : List (Nat × Word)) : State :=
  { s with boot := { s.boot with staging := l.foldl (fun t e =>
      (wordBytes e.2).zipIdx.foldl (fun t b => tset t (e.1 + b.2) b.1) t) s.boot.staging } }

/-- The lines of a commit to node memory. -/
def commitLines (l : List (Nat × Word)) : List Nat := l.foldl (fun k e => setIns k (e.1 / 128)) []

/-- A commit to node memory: one partial write per line at its home, as the root partition (R65, section Registers of LAN). -/
def memCommit (s : State) (p : Nat) (l : List (Nat × Word)) : State :=
  let t := updPage s p (fun q => { q with dpLeft := (commitLines l).length, dpSent := true })
  (commitLines l).foldl (fun t n =>
    let es := l.filter (fun e => e.1 / 128 == n)
    let val := es.foldl (fun k e => k + e.2.toNat * 2 ^ (8 * (e.1 % 128))) 0
    let msk := es.foldl (fun k e => k + 0xFF * 2 ^ (e.1 % 128)) 0
    place t { op := .wrPart, agent := 32 + s.cas.pos, origin := .dp p, part := 0, line := n, data := BitVec.ofNat 1024 val, mask := BitVec.ofNat 128 msk }) t

/-- A commit to the program store changes an input of the fingerprints (R611). -/
def xfmCommit (s : State) (l : List (Nat × Word)) : State :=
  { s with xfm := { s.xfm with store := l.foldl (fun t e => tset t (e.1 / 8) e.2) s.xfm.store }, det := { s.det with fpStale := true } }

/-- Every line write of a commit to node memory has reached it: it has been performed at its home, and it waits for no credit of its
memory port (R70, R692). -/
def commitStored (s : State) (p : Nat) : Bool :=
  (page s p).dpLeft == 0 &&
  !s.mps.any (fun e => e.2.queue.any (fun x => x.1 && (commitLines (page s p).dpCommit).contains x.2))

/-- A commit has reached its array: a burst that it ends is done, and a transfer whose next block lies beyond the array stops (R70,
R71). -/
def dpAfterCommit (s : State) (p : Nat) : State :=
  let q := page s p
  let u := dpLanded s p
  dpSettleAll (
    if q.dpMode ≠ 2 ∨ q.dpOld then u
    else if q.dpEnding then dpDoneOk u p
    else if (dpNow u p).any (fun a => decide (a.size ≤ q.dpOff)) then dpFail u p .unmapped else u) p

/-- A commit reaches its array (R67, R70, R71). A commit to node memory has reached it when all its line writes have. -/
def dpCommitLand (s : State) (p : Nat) : State :=
  let q := page s p
  let l := q.dpCommit
  let stored := fun (t : State) => if commitStored t p then dpAfterCommit t p else t
  if !q.dpCommitting then s
  else match p, q.dpCommitArr with
    | 0x00, 1 => dpAfterCommit (stagePut s l) p
    | 0x0B, 1 => dpAfterCommit (xfmCommit s l) p
    | _, _ =>
      match l with
      | [] => dpAfterCommit s p
      | e :: _ =>
        if q.dpSent then stored s
        else match dpRefused s (e.1 / 256 * 256) with
        | some st => dpSettleAll (dpLanded (if q.dpMode = 2 ∧ !q.dpOld then dpFail s p st else s) p) p
        | none => stored (memCommit s p l)

/-- DP_COMMIT_DONE (R70). -/
def execDpCommitDone (page : Nat) (s : State) : Host.Outcome State Fault Refusal := .next (dpCommitLand s page)

end Sys2Proof.Machine
end

