-- ==== Sys2Proof/Machine/Mover.lean ====
section
/-!
DEFINITION. The data movers' descriptors and segments: what a descriptor is and when it is refused, how rows are cut, packed,
converted and written (R321 to R337, R341, R346 to R367).
-/
namespace Sys2Proof.Machine
open Sys2Proof

/-! ## Descriptor fields (R321) -/

/-- Word i of a descriptor. -/
def dw (d : Desc) (i : Nat) : Word := d.words.getD i 0

/-- Width in bits and group of a width code (the width table). -/
def widthBits (c : Nat) : Nat := [1, 2, 4, 6, 8, 16, 32, 64].getD c 64
def widthGroup (c : Nat) : Nat := [8, 4, 2, 4, 1, 1, 1, 1].getD c 1

def dSrcVa (d : Desc) : Nat := fld (dw d 0) 56 0
def dDstVa (d : Desc) : Nat := fld (dw d 1) 56 0
def dElems (d : Desc) : Nat := fld (dw d 4) 31 0
def dRows (d : Desc) : Nat := fld (dw d 4) 63 32
def dWs (d : Desc) : Nat := widthBits (fld (dw d 5) 2 0)
def dWd (d : Desc) : Nat := widthBits (fld (dw d 5) 5 3)
def dConv (d : Desc) : Bool := bitOf (dw d 5) 6
def dRnd (d : Desc) : Nat := fld (dw d 5) 10 9
def dSrcFmt (d : Desc) : Nat := fld (dw d 5) 18 11
def dDstFmt (d : Desc) : Nat := fld (dw d 5) 26 19
def dProg (d : Desc) : Nat := fld (dw d 5) 55 48
def dStash (d : Desc) : Nat := fld (dw d 6) 5 0
def dRed (d : Desc) : Nat := fld (dw d 6) 8 6
def dRedFmt (d : Desc) : Nat := fld (dw d 6) 12 9
def dOrder (d : Desc) : Bool := bitOf (dw d 6) 13
def dSrc2 (d : Desc) : Bool := bitOf (dw d 6) 18

/-- The MX side of a descriptor. -/
def dMxSrc (d : Desc) : Bool := dConv d && isMx (dSrcFmt d)
def dMxDst (d : Desc) : Bool := dConv d && isMx (dDstFmt d)

/-- G (R321). -/
def descGroup (d : Desc) : Nat :=
  if dMxSrc d || dMxDst d then 32 else max (widthGroup (fld (dw d 5) 2 0)) (widthGroup (fld (dw d 5) 5 3))

/-- Address of a row of an array with a signed pitch. -/
def rowAddr (va : Nat) (pitch : Word) (row : Nat) : Nat := (((va : Int) + toSigned 48 (fld pitch 47 0) * row) % 2 ^ 57).toNat

/-- Bits of the words of a descriptor that are no field (R321). -/
def descMasks : List Word :=
  [mask 56 0, mask 56 0, mask 47 0, mask 47 0, mask 63 0, mask 26 0 ||| mask 55 48, mask 18 0, mask 43 0, mask 23 0 ||| mask 63 32, mask 63 0,
   mask 63 0, mask 56 0, mask 47 0, mask 56 0, mask 47 0, mask 63 0]

/-- A pair of format codes that CONV 1 accepts (R347). -/
def pairOk (a b : Nat) : Bool :=
  let f := fun (x : Nat) => x == 0x08 || x == 0x09 || x == 0x0A
  (decide (a ≤ 0x13) && decide (b ≤ 0x13)) || (isMx a && f b) || (isMx b && f a)

/-- The refusals of R322, for a command that is a MOVE_XFM or not and the contributor name that its context holds. -/
def descBad (d : Desc) (xfm : Bool) (name : Option (Nat × Nat × Nat)) : Bool :=
  let red := dRed d
  (List.range 16).any (fun i => dw d i &&& ~~~ (descMasks.getD i 0) != 0) || dRnd d == 3 || decide (5 ≤ red) ||
  decide (24 < dStash d) || (red != 0 && decide (0xC < dRedFmt d)) ||
  dElems d == 0 || dRows d == 0 || dElems d % descGroup d != 0 ||
  (dConv d && (fmtWidth (dSrcFmt d) != dWs d || fmtWidth (dDstFmt d) != dWd d || !pairOk (dSrcFmt d) (dDstFmt d))) ||
  (!dConv d && dRnd d != 0) || (!xfm && (dProg d != 0 || dSrc2 d)) || (red != 0 && dStash d != 0) ||
  (red != 0 && (dDstVa d % 128 != 0 || dElems d * dWd d % 1024 != 0 || fld (dw d 3) 6 0 != 0)) ||
  (red != 0 && fmtBytes (dRedFmt d) * 8 != dWd d) ||
  (red == 4 && name != some (fld (dw d 7) 15 0, fld (dw d 7) 23 16, fld (dw d 7) 43 24))

/-! ## Segments -/

/-- S, the elements of a full segment (R325). -/
def segLen (d : Desc) : Nat := 131072 / max (dWs d) (dWd d) / descGroup d * descGroup d

/-- The segments of a descriptor, row by row (R325). -/
def cutSegs (d : Desc) : List Seg :=
  let L := segLen d
  (List.range (dRows d)).flatMap (fun r =>
    (List.range (cdiv (dElems d) L)).map (fun k => { row := r, el0 := k * L, n := min L (dElems d - k * L) }))

/-- Byte ranges of a segment as (first byte VA, bytes): source, second source, source scales. -/
def srcRange (d : Desc) (g : Seg) : Nat × Nat := (rowAddr (dSrcVa d) (dw d 2) g.row + g.el0 * dWs d / 8, g.n * dWs d / 8)
def src2Range (d : Desc) (g : Seg) : Nat × Nat := (rowAddr (fld (dw d 13) 56 0) (dw d 14) g.row + g.el0 * dWs d / 8, g.n * dWs d / 8)
def scaleRange (d : Desc) (g : Seg) : Nat × Nat := (rowAddr (fld (dw d 11) 56 0) (dw d 12) g.row + g.el0 / 32, g.n / 32)
/-- Byte range of a segment's destination. -/
def dstRange (d : Desc) (g : Seg) : Nat × Nat := (rowAddr (dDstVa d) (dw d 3) g.row + g.el0 * dWd d / 8, g.n * dWd d / 8)

/-- The lines that a range touches. -/
def rangeTouch (r : Nat × Nat) : List Nat :=
  if r.2 = 0 then [] else (List.range ((r.1 + r.2 - 1) / 128 - r.1 / 128 + 1)).map (fun i => r.1 / 128 + i)

/-- The lines a segment reads. -/
def segLines (d : Desc) (g : Seg) : List Nat :=
  (rangeTouch (srcRange d g) ++ (if dSrc2 d then rangeTouch (src2Range d g) else []) ++
    (if dMxSrc d then rangeTouch (scaleRange d g) else [])).dedup

/-- Staging bytes of a segment (R326, R364). -/
def segStage (d : Desc) (g : Seg) : Nat :=
  128 * ((rangeTouch (srcRange d g)).length + (rangeTouch (dstRange d g)).length + (if dSrc2 d then (rangeTouch (src2Range d g)).length else 0))

/-- A byte that a segment read, and whether its chunk was poisoned. -/
def segByte (g : Seg) (va : Nat) : Byte × Bool :=
  match g.reads.find? (fun l => l.va == va / 128) with
  | some l => (lineByte l.data (va % 128), l.pois.testBit (va % 128 / 16))
  | none => (0, false)

/-- Element i of a dense run of width w that begins at a byte, and whether a byte of it is poisoned (R332). -/
def segElem (g : Seg) (va w i : Nat) : Nat × Bool :=
  let b0 := va + i * w / 8
  let k := (i * w % 8 + w + 7) / 8
  let bs := (List.range k).map (fun j => segByte g (b0 + j))
  (bytesNat (bs.map (fun x => x.1)) / 2 ^ (i * w % 8) % 2 ^ w, bs.any (fun x => x.2))

/-- A byte that a segment should have read stands in a line whose home answered with a status other than OK and no poison (R341). -/
def byteLost (g : Seg) (va : Nat) : Bool := (g.reads.find? (fun l => l.va == va / 128)).any (fun l => l.bad)

/-- A byte of element i of a dense run was not read (R341). -/
def elemLost (g : Seg) (va w i : Nat) : Bool := (List.range ((i * w % 8 + w + 7) / 8)).any (fun j => byteLost g (va + i * w / 8 + j))

/-- What element i of a segment is computed from was not read: of a source, or of the source's scales (R341). -/
def srcLost (d : Desc) (g : Seg) (i : Nat) : Bool :=
  elemLost g (srcRange d g).1 (dWs d) i || (dSrc2 d && elemLost g (src2Range d g).1 (dWs d) i) ||
  (dMxSrc d && byteLost g ((scaleRange d g).1 + i / 32))

/-- Element i of a segment's destination cannot be computed: one of an MX block shares the fate of its block (R341, R356). -/
def dstLost (d : Desc) (g : Seg) (i : Nat) : Bool :=
  if dMxDst d then (List.range 32).any (fun j => srcLost d g (i / 32 * 32 + j)) else srcLost d g i

/-- Destination lines that are not written, since an element in them was computed from a line that was not read (R341): elements' lines,
and lines of the destination's scales. -/
def lostLines (d : Desc) (g : Seg) : List Nat × List Nat :=
  if !g.reads.any (fun l => l.bad) then ([], [])
  else
    let bad := (List.range g.n).filter (dstLost d g)
    (bad.flatMap (fun i => rangeTouch ((dstRange d g).1 + i * dWd d / 8, (i * dWd d % 8 + dWd d + 7) / 8)),
     if dMxDst d then bad.map (fun i => ((scaleRange d g).1 + i / 32) / 128) else [])

/-! ## Conversion -/

/-- A raw width change (R334). -/
def rawConv (ws wd : Nat) (ext sat : Bool) (x : Nat) : Nat :=
  if wd = ws then x
  else if ws < wd then (if ext ∧ 2 ^ (ws - 1) ≤ x then x + (2 ^ wd - 2 ^ ws) else x)
  else if !sat then x % 2 ^ wd
  else if !ext then min x (2 ^ wd - 1)
  else
    let v := toSigned ws x
    let c := max (-(2 ^ (wd - 1) : Int)) (min (2 ^ (wd - 1) - 1) v)
    (c % 2 ^ wd).toNat

/-- What a segment writes: elements with their poison, and scales with theirs. -/
structure SegOut where
  elems : List (Nat × Bool) := []
  scales : List (Nat × Bool) := []
  cnt : CvCount := {}
deriving Inhabited

/-- The value of a source element. -/
def srcValue (d : Desc) (g : Seg) (va i : Nat) : FVal × Bool :=
  let (x, p) := segElem g va (dWs d) i
  if dMxSrc d then
    let (sc, sp) := segByte g ((scaleRange d g).1 + i / 32)
    (mxDecode (dSrcFmt d) sc.toNat x, p || sp)
  else (valOf (dSrcFmt d) x, p)

/-- The value of element i before the last conversion: the source, or register OUT of the program (R362). U gives the random
number of an element and site. -/
def elemValue (d : Desc) (prog : List Word) (g : Seg) (u : Nat → Nat → Nat) (i : Nat) : FVal × Bool × CvCount :=
  let (v, p) := srcValue d g (srcRange d g).1 i
  if prog.isEmpty then (v, p, {})
  else
    let (w, q) := if dSrc2 d then srcValue d g (src2Range d g).1 i else (.fin false 0 0, false)
    let (o, k) := runProg prog v w (g.el0 + i) g.row (u i)
    (o, p || q, k)

/-- Counts of two conversions together. -/
def cntPlus (a b : CvCount) : CvCount := { sat := a.sat + b.sat, nan := a.nan + b.nan, sr := a.sr + b.sr }

/-- The conversion of a segment (R334, R335, R348, R356, R362). -/
def convertSeg (d : Desc) (prog : List Word) (g : Seg) (u : Nat → Nat → Nat) : SegOut :=
  let is := List.range g.n
  if !dConv d then
    { elems := is.map (fun i =>
        let (x, p) := segElem g (srcRange d g).1 (dWs d) i
        (rawConv (dWs d) (dWd d) (bitOf (dw d 5) 7) (bitOf (dw d 5) 8) x, p)) }
  else
    let vs := is.map (elemValue d prog g u)
    let k0 := vs.foldl (fun k v => cntPlus k v.2.2) {}
    if dMxDst d then
      let blocks := (List.range (g.n / 32)).map (fun b =>
        let vb := (vs.drop (b * 32)).take 32
        let e := mxEncode (dDstFmt d) ((List.range 32).map (fun j => ((vb.getD j (.nan, false, {})).1, rndOf (dRnd d) (u (b * 32 + j) 16))))
        (e, vb.any (fun v => v.2.1)))
      { elems := blocks.flatMap (fun b => b.1.2.map (fun c => (c.code, b.2)))
        scales := blocks.map (fun b => (b.1.1, b.2))
        cnt := blocks.foldl (fun k b => b.1.2.foldl (fun k c => k.add c) k) k0 }
    else
      let cs := (List.range g.n).map (fun i =>
        let v := vs.getD i (.nan, false, {})
        (cvt (dDstFmt d) (rndOf (dRnd d) (u i 16)) v.1, v.2.1))
      { elems := cs.map (fun c => (c.1.code, c.2)), cnt := cs.foldl (fun k c => k.add c.1) k0 }

/-- Elements of width w packed from a byte VA on, into lines: line VA, data, mask and poison (R332, R336, R341). -/
def packLines (va w : Nat) (es : List (Nat × Bool)) : List (Nat × LineData × LineMask × Nat) :=
  let all := (List.range es.length).foldl (fun n i => n + (es.getD i (0, false)).1 % 2 ^ w * 2 ^ (i * w)) 0
  let len := es.length * w / 8
  (rangeTouch (va, len)).map (fun l =>
    let base := l * 128
    let lo := max base va
    let hi := min (base + 128) (va + len)
    let data := all / 2 ^ (8 * (lo - va)) % 2 ^ (8 * (hi - lo)) * 2 ^ (8 * (lo - base))
    let m := (2 ^ (hi - lo) - 1) * 2 ^ (lo - base)
    let pois := (List.range es.length).foldl (fun p i =>
      if (es.getD i (0, false)).2 then
        let b0 := va + i * w / 8
        let b1 := va + (i * w + w - 1) / 8
        (List.range 8).foldl (fun p c => if b0 < base + 16 * c + 16 ∧ base + 16 * c ≤ b1 ∧ !p.testBit c then p + 2 ^ c else p) p
      else p) 0
    (l, BitVec.ofNat 1024 data, BitVec.ofNat 128 m, pois))

end Sys2Proof.Machine
end

