-- ==== Sys2Proof/Machine/MoverLook.lean ====
section
/-!
DEFINITION. How the mover pipes translate: the lookup in a pipe's buffer and the Lantern, misses that the walker serves, and what a
fault of a channel's read or write leaves held (R129, R141, R151, R154, R169, R170, R173 to R183).
-/
namespace Sys2Proof.Machine
open Sys2Proof

/-! ## Lookup -/

/-- How a lookup through a pipe ends: a translation that may issue now, a miss that waits for the walker, or a fault. -/
inductive PipeRes where
  | ok (x : Xlat)
  | wait
  | fault (cause lvl stage : Nat)
deriving DecidableEq, Repr, Inhabited

/-- Buffer of a pipe. -/
def pipeBuf (s : State) (pipe : Nat) : List TlbEntry := tget s.mov.buffers pipe

/-- A state with the buffer of a pipe set. -/
def setPipeBuf (s : State) (pipe : Nat) (l : List TlbEntry) : State :=
  { s with mov := { s.mov with buffers := tset s.mov.buffers pipe l } }

/-- A fill of a pipe's buffer: as that of a Firefly, with no stream slot to protect an entry (R140, R141). -/
def pipeFill (s : State) (pipe : Nat) (e : TlbEntry) : State := setPipeBuf s pipe (tlbFill s (pipeBuf s pipe) e (fun _ => false))

/-- The block of 16 KiB of a VA: bursts do not cross it (R169). -/
def burstBlock (va : Nat) : Nat := va / 16384

/-- A burst of a channel waits for a walk, or for the one it waits for already (R151). -/
def pipeMiss (s : State) (pipe sid va : Nat) (acc : Access) (who : MoveFor) : State :=
  let same := fun (m : Miss) => m.move == some who && burstBlock m.va == burstBlock va
  if s.lan.misses.any same || (tsome s.lan.walks).any (fun w => same w.2.miss) then s
  else { s with lan := { s.lan with
    misses := s.lan.misses ++ [{ port := 32 + pipe, space := sid, va := va, acc := acc, move := some who, tick := s.clk.et }] } }

/-- An entry is dropped from a pipe's buffer and the Lantern for one fresh walk (R154). -/
def pipeDrop (s : State) (pipe : Nat) (e : TlbEntry) : State :=
  let same := fun (x : TlbEntry) => x.stage2 == e.stage2 && x.id == e.id && x.pn == e.pn && x.x.size == e.x.size
  let t := setPipeBuf s pipe ((pipeBuf s pipe).filter (fun x => !same x))
  { t with lan := { t.lan with lantern := t.lan.lantern.filter (fun x => !same x) } }

/-- The check of a burst of n lines under the entry that its pipe's buffer holds (R129, R154, R170). -/
def pipeCheck (s : State) (pipe sid va n : Nat) (acc : Access) (who : MoveFor) (e : TlbEntry) : State × PipeRes :=
  let sp := tget s.lan.spaces sid
  if e.epoch ≠ sp.epoch ∨ e.epoch2 ≠ (tget s.lan.s2 sp.part).epoch then (pipeMiss (pipeDrop s pipe e) pipe sid va acc who, .wait)
  else if permits e.x acc then
    (if inLayoutRun s sp.part va n (localX s e.x) then (setPipeBuf s pipe (tlbTouch (pipeBuf s pipe) e), .ok (localX s e.x)) else (s, .fault 7 0 2))
  else if bitOf s.lan.cfg 0 then (pipeMiss (pipeDrop s pipe e) pipe sid va acc who, .wait)
  else (s, .fault 4 0 1)

/-- The lookup of a burst of n lines in a pipe's buffer of 32 entries and then in the Lantern (R139, R141, R143). -/
def pipeLook (s : State) (pipe sid va n : Nat) (acc : Access) (who : MoveFor) : State × PipeRes :=
  match tlbFind (pipeBuf s pipe) false sid va with
  | some e => pipeCheck s pipe sid va n acc who e
  | none => match lanternFind s false sid va with
    | some e =>
      let t := pipeFill (pfHit (lanternTouch s e) e) pipe e
      match tlbFind (pipeBuf t pipe) false sid va with
      | some e => pipeCheck t pipe sid va n acc who e
      | none => (t, .wait)
    | none => (pipeMiss s pipe sid va acc who, .wait)

/-! ## Faults -/

/-- The token of bytes whose context is lost: no verdict names it. -/
def deadTok : Nat := 2048

/-- A segment holds bytes under a demand token; token 0 stands for a fault that waits for one of the channel's pauses to end. -/
def segPaused (g : Seg) : Bool := g.held.any (fun k => k != 0) || g.reads.any (fun l => l.st == 3 && l.token != 0)

/-- What of a channel is paused: the read of its next descriptor and its segments, each counting as one request (R178; log
entry 22). -/
def chanPaused (h : Chan) : Nat :=
  (if h.descTok = 0 then 0 else 1) + (h.active.foldl (fun n a => n + (a.segs.filter segPaused).length) 0)

/-- Tokens under which something of a channel is held or walked again. -/
def liveTokens (h : Chan) : List Nat :=
  h.active.flatMap (fun a => a.segs.flatMap (fun g => g.held ++ g.retry ++ (g.reads.filter (fun l => l.st == 3 || l.st == 0)).map (fun l => l.token))) ++
    [h.descTok, h.descRetry]

/-- A pause of the channel ended: what waited for one of its 8 pauses is walked again (R178). -/
def chanUnpark (h : Chan) : Chan :=
  if 8 ≤ chanPaused h then h
  else { h with
    descPark := false
    active := h.active.map (fun a => { a with segs := a.segs.map (fun g => { g with
      held := g.held.filter (fun k => k != 0)
      reads := g.reads.map (fun l => if l.st == 3 && l.token == 0 then { l with st := 0 } else l) }) }) }

/-- A channel lets go of the tokens under which nothing of it stands any more; one that nothing holds is freed, and
what waited for a pause to end is walked again (R178, R183, R186). -/
def chanSettle (s : State) (ch : Nat) : State :=
  let h := chan s ch
  let gone := h.paused.filter (fun k => !(liveTokens h).contains k)
  gone.foldl tokenSettle (updChan s ch (fun h => chanUnpark { h with paused := h.paused.filter (fun k => (liveTokens h).contains k) }))

/-- How a channel's fault goes: bytes held under a token, left until a pause ends, or the context lost (R173 to R178). -/
inductive MoverFault where
  | held (k : Nat)
  | later
  | lost
deriving DecidableEq, Repr, Inhabited

/-- What a fault record says of a fault of a channel (R181). -/
def moverInfo (s : State) (ch c va cause lvl stage held : Nat) (acc : Access) : FaultInfo :=
  let x := ctxOf s c
  { cause := cause, lvl := lvl, stage := stage, acc := acc, ctx := c, part := x.part, space := x.space, va := va, mover := true, src := ch,
    held := held }

/-- A translation of a channel faults; mine says that the same request of it is paused already (R173, R175, R178). -/
def moverFault (s : State) (ch c va cause lvl stage held : Nat) (acc : Access) (mine : Bool) : State × MoverFault :=
  let f := moverInfo s ch c va cause lvl stage held acc
  if cause = 2 then
    if !mine && decide (8 ≤ chanPaused (chan s ch)) then (s, .later)
    else match demandFault s f with
      | (t, some k) => (updChan t ch (fun h => { h with paused := setIns h.paused k }), .held k)
      | (t, none) => (t, .lost)
  else (faultLose s f (causeStatus cause), .lost)

/-- Bytes of ranges that lie in a 4 MiB granule (R175, R181). -/
def rangesIn (rs : List (Nat × Nat)) (page : Nat) : Nat :=
  rs.foldl (fun n r => n + (min (r.1 + r.2) ((page + 1) * 2 ^ 22) - max r.1 (page * 2 ^ 22))) 0

/-- The first byte, in the order of the ranges, that lies in a 16 KiB block; the block's address where none does. -/
def firstByte (rs : List (Nat × Nat)) (va : Nat) : Nat :=
  match rs.find? (fun r => decide (r.1 / 16384 ≤ burstBlock va) && decide (burstBlock va ≤ (r.1 + r.2 - 1) / 16384)) with
  | some r => max r.1 (burstBlock va * 16384)
  | none => va

/-- The ranges that a segment reads, and those that it writes. -/
def srcRanges (d : Desc) (g : Seg) : List (Nat × Nat) :=
  [srcRange d g] ++ (if dSrc2 d then [src2Range d g] else []) ++ (if dMxSrc d then [scaleRange d g] else [])
def dstRanges (d : Desc) (g : Seg) : List (Nat × Nat) := [dstRange d g] ++ (if dMxDst d then [scaleRange d g] else [])

/-- The running descriptor of a number, with its command. -/
def activeOf (s : State) (ch k : Nat) : Option (Active × ChanCmd) :=
  match (chan s ch).active.find? (fun a => a.key == k) with
  | none => none
  | some a => ((chan s ch).fifo.find? (fun f => (f.q, f.seq) == a.cmd)).map (fun f => (a, f))

/-- The next command of a channel that has a descriptor to start, behind none that has (R317). -/
def nextMove (h : Chan) : Option ChanCmd := h.fifo.find? (fun f => !f.stop && decide (f.next < f.count))

/-- The read of a channel's next descriptor faults. -/
def descFault (s : State) (ch va c l g : Nat) : State :=
  match nextMove (chan s ch) with
  | none => s
  | some f =>
    match moverFault s ch f.ctx va c l g 128 .read ((chan s ch).descTok != 0) with
    | (t, .held k) => chanSettle (updChan t ch (fun h => { h with descTok := k, descRetry := 0, descPark := false })) ch
    | (t, .later) => updChan t ch (fun h => { h with descPark := true })
    | (t, .lost) => chanSettle (updChan t ch (fun h => { h with descTok := deadTok, descRetry := 0, descPark := false })) ch

/-- A burst of a segment's source faults: its lines that have not issued are held, left, or given up (R175, R176, R326). -/
def srcFault (s : State) (ch k seg va c l g : Nat) : State :=
  match activeOf s ch k with
  | none => s
  | some (a, f) =>
    match a.segs[seg]? with
    | none => s
    | some q =>
      let rs := srcRanges a.desc q
      let mark := fun (t : State) (h : SegRead → SegRead) => chanSettle (updSeg t ch k seg (fun q => { q with reads := q.reads.map (fun x =>
        if x.st == 0 && burstBlock (x.va * 128) == burstBlock va then h x else x) })) ch
      match moverFault s ch f.ctx (firstByte rs va) c l g (rangesIn rs (va / 2 ^ 22)) .read (segPaused q) with
      | (t, .held n) => mark t (fun x => { x with st := 3, token := n })
      | (t, .later) => mark t (fun x => { x with st := 3, token := 0 })
      | (t, .lost) => mark t (fun x => { x with st := 2, pois := 0xFF, token := 0 })

/-- A burst of a segment's destination faults: the segment waits for its token, for a pause to end, or for the loss of its context
(R175, R176, R341). -/
def dstFault (s : State) (ch k seg va c l g : Nat) (acc : Access) : State :=
  match activeOf s ch k with
  | none => s
  | some (a, f) =>
    match a.segs[seg]? with
    | none => s
    | some q =>
      let rs := dstRanges a.desc q
      let hold := fun (t : State) (n : Nat) =>
        chanSettle (updSeg t ch k seg (fun q => { q with held := setIns q.held n, retry := q.retry.filter (fun x => x != n) })) ch
      match moverFault s ch f.ctx (firstByte rs va) c l g (rangesIn rs (va / 2 ^ 22)) acc (segPaused q) with
      | (t, .held n) => hold t n
      | (t, .later) => hold t 0
      | (t, .lost) => hold t deadTok

/-- The fault of a burst of a channel. -/
def moveFault (s : State) (who : MoveFor) (va c l g : Nat) (acc : Access) : State :=
  match who with
  | .desc ch => descFault s ch va c l g
  | .src ch k seg => srcFault s ch k seg va c l g
  | .dst ch k seg => dstFault s ch k seg va c l g acc

end Sys2Proof.Machine
end

