-- ==== Sys2Proof/Machine/Release.lean ====
section
/-!
DEFINITION. The release of memory objects: what an object set GONE leaves, and the release ring with its hold store (R377, R441,
R446, R471, R721).
-/
namespace Sys2Proof.Machine
open Sys2Proof

/-! ## The release ring -/

/-- LOG2 of the release ring; 0 when none is registered. -/
def relLog (q : Part) : Nat := fld q.relCtl 4 0

/-- The next slot of the release ring of a partition (R441, as R179 and R721). -/
def relSlot (s : State) (p : Nat) : RingRes :=
  let q := part s p
  if relLog q < 6 then .bad .unmapped
  else
    let g := fld q.relBase 51 6 * 64
    match ringAddr s p g with
    | .error st => .bad st
    | .ok h =>
      if bytesPois s (h + 8) 8 then .bad .poison
      else if 2 ^ relLog q ≤ (w64 q.relProduce - rdWord s (h + 8)).toNat then .full
      else match ringAddr s p (g + 64 + q.relProduce % 2 ^ relLog q * 8) with
        | .error st => .bad st
        | .ok a => .ok h a

/-- An entry is written: the slot and PRODUCE, and once these are performed the ring's fence and the interrupt (R268, R441). -/
def relPut (s : State) (p hdr slot id : Nat) : State :=
  let q := part s p
  let n := w64 (q.relProduce + 1)
  let t := ownPuts s p [(slot, w64 (id % 2 ^ 24)), (hdr, n)]
  let t := updPart t p (fun q => { q with relProduce := q.relProduce + 1, relFail := false })
  announce t { part := p, sig := some (fld q.relCtl 31 8, fld q.relCtl 63 32, n), irq := some (pLMP, 2), lines := [slot / 128, hdr / 128] }

/-- The first failed attempt after a successful write is logged (R721). -/
def relFailed (s : State) (p : Nat) (st : Status) : State :=
  if (part s p).relFail then s else updPart (logProto s st pLMP 0 p) p (fun q => { q with relFail := true })

/-- Entries in the hold store of the release rings, 256 per block (R180, R441). -/
def relHeld (s : State) : Nat := s.parts.foldl (fun n e => n + e.2.relHold.length) 0

/-- An entry is held, or the object stays GONE with no entry until the table is scanned (R441). -/
def relHoldId (s : State) (p id : Nat) : State :=
  if 256 ≤ poolHeld s uRelHold (relHeld s) then raise (updPart s p (fun q => { q with goneLate := q.goneLate ++ [id] })) pLMP 3
  else
    let t := updPart s p (fun q => { q with relHold := q.relHold ++ [id] })
    if s.eng.hold.isEmpty && relHeld s == 0 then { t with eng := { t.eng with holdNext := s.bcn.count + 16 } } else t

/-- The ring of a partition can take an entry now: none is held before it and there is room. -/
def relRoom (s : State) (p : Nat) : RingRes := if (part s p).relHold.isEmpty then relSlot s p else .full

/-- An entry waits for room: the ring's CONSUME word is asked for (R36, R180). -/
def relWait (s : State) (p : Nat) : State := if relLog (part s p) < 6 then s else ringAsk s (kRel p) p (fld (part s p).relBase 51 6 * 64)

/-- An object's ID goes to the release ring or to the hold store (R441). -/
def relAppend (s : State) (p id : Nat) : State :=
  match relRoom s p with
  | .ok h a => relPut s p h a id
  | .full => relWait (relHoldId s p id) p
  | .bad st => relHoldId (relFailed s p st) p id

/-- Entries of a list are written in order, as far as the ring has room: the state and those left. -/
def relWrite (s : State) (p : Nat) : List Nat → State × List Nat
  | [] => (s, [])
  | id :: t =>
    match relSlot s p with
    | .ok h a => relWrite (relPut s p h a id) p t
    | .full => (relWait s p, id :: t)
    | .bad st => (relFailed s p st, id :: t)

/-- The held entries of every partition are tried in order (R180, R441). -/
def relRetry (s : State) : State :=
  (List.range 64).foldl (fun u p =>
    let l := (part u p).relHold
    if l.isEmpty then u
    else
      let (v, rest) := relWrite (ownDone u (kRel p)) p l
      updPart v p (fun q => { q with relHold := rest })) s

/-! ## What an object leaves -/

/-- A page of the object is in a move of the tiering engine (R377). -/
def objMoving (s : State) (p id : Nat) : Bool :=
  (tsome s.tir.moves).any (fun e =>
    let h := if e.2.fromFar then tget s.tir.embers e.2.src else tget s.tir.frames e.2.src
    h.part == p && h.obj == id)

/-- Tiered pages of the object go back: frames to UNTRACKED, ember units to free (R377). -/
def objUntier (s : State) (p id : Nat) : State :=
  let own := fun (h : Heat) => tracked h.st && h.part == p && h.obj == id
  { s with tir := { s.tir with frames := s.tir.frames.filter (fun e => !own e.2), embers := s.tir.embers.filter (fun e => !own e.2) } }

/-- The record of a bound barrier lies in the object (R471). -/
def barIn (s : State) (p id : Nat) (b : Bar) : Bool :=
  b.part == p && (match b.obj with
    | some o => o == id
    | none => objHolds s p id b.npa)

/-- Every barrier whose record lies in the object is freed, with nothing written back, and the contexts registered there are
lost (R471). -/
def objBars (s : State) (p id : Nat) : State :=
  ((tsome s.fnc.bars).filter (fun e => barIn s p id e.2)).foldl (fun t e =>
    (e.2.regs.map (fun r => r.ctx)).dedup.foldl (fun u c => doom u c .objectGone) (setBar t e.1 none)) s

/-- The watches on the object's fence records end (R441). -/
def objWatches (s : State) (p id : Nat) : State :=
  let own := fun (w : Watch) => w.part == p && w.obj == id
  let ws := (tsome s.fnc.watches).filter (fun e => own e.2)
  let t := { s with fnc := { s.fnc with watches := s.fnc.watches.filter (fun e => !e.2.any own) } }
  ws.foldl (fun u e =>
    let u := match e.2.cmd with
      | some (q, n) => endCmd u q n .objectGone
      | none => u
    match e.2.host with
    | some b => ringReply u p b
    | none => u) t

/-- The release of an object set GONE (R377, R441, R471): it waits for the moves of its pages. -/
def objRelease (s : State) (p id : Nat) : State :=
  if !(part s p).goneTodo.contains id || objMoving s p id then s
  else
    let t := updPart s p (fun q => { q with goneTodo := q.goneTodo.erase id })
    relAppend (objBars (objWatches (objUntier t p id) p id) p id) p id

/-- OBJECT_RELEASE (R441). -/
def execObjectRelease (part obj : Nat) (s : State) : Host.Outcome State Fault Refusal := .next (objRelease s part obj)

/-- Sudric scans a partition's table and appends what the ring and the hold store had no room for, at least every 4,096 bt
(R441). -/
def relScan (s : State) (p : Nat) : State :=
  if !s.boot.running || !btDue s (part s p).scanAt.toNat then s
  else
    let t := updPart s p (fun q => { q with scanAt := s.bcn.count + 4096 })
    if !(part t p).relHold.isEmpty then t
    else
      let (u, rest) := relWrite t p (part t p).goneLate
      updPart u p (fun q => { q with goneLate := rest })

/-- RELEASE_RING_SCAN (R441). -/
def execReleaseRingScan (part : Nat) (s : State) : Host.Outcome State Fault Refusal := .next (relScan s part)

end Sys2Proof.Machine
end

