-- ==== Sys2Proof/Machine/Walker.lean ====
section
/-!
DEFINITION. The walker at work: walks start for waiting misses, end, restart on an epoch change, install what they found or
fault; and the events of demand faults that time brings (R149 to R155, R166 to R168, R180, R184).
-/
namespace Sys2Proof.Machine
open Sys2Proof

/-- LAN_CFG[WALK_LIMIT] with its limits. -/
def walkLimit (s : State) : Nat := clamp 1 64 (fld s.lan.cfg 14 8)

/-- Partition of a miss: the owner of its space. -/
def missPart (s : State) (m : Miss) : Nat := (tget s.lan.spaces m.space).part

/-- Walk slots that a partition holds. -/
def partWalks (s : State) (p : Nat) : Nat := ((tsome s.lan.walks).filter (fun w => missPart s w.2.miss == p)).length

/-- A walk of the miss's space and granule is under way, which the miss shares whatever its access class (R151). -/
def sharesWalk (s : State) (m : Miss) : Bool :=
  (tsome s.lan.walks).any (fun w => w.2.miss.space == m.space && w.2.miss.va / 2 ^ 22 == m.va / 2 ^ 22)

/-- The lowest free walk slot of 64 (R152). -/
def freeWalk (s : State) : Option Nat := (List.range 64).find? (fun i => (tget s.lan.walks i).isNone && unitOpen s uWalk i)

/-- Prefetch walks that run in the block. -/
def prefWalks (s : State) : Nat := ((tsome s.lan.walks).filter (fun w => w.2.miss.pref)).length

/-- A miss may start its walk now: a prefetch only below the PF_WALKS of the start that made it (R168, R201). -/
def mayStart (s : State) (pref : Bool) (p : Nat) (m : Miss) : Bool :=
  m.pref == pref && (!pref || decide (prefWalks s < m.pfw)) && missPart s m == p && !sharesWalk s m && decide (partWalks s p < walkLimit s)

/-- Of the misses of a partition that may start, the one of the earliest tick and then the lowest source (R152). -/
def pickMiss (s : State) (pref : Bool) (p : Nat) : Option Miss :=
  (s.lan.misses.filter (mayStart s pref p)).foldl (fun b m => match b with
    | none => some m
    | some x => if m.tick < x.tick ∨ (m.tick = x.tick ∧ m.port < x.port) then some m else some x) none

/-- Partitions in round-robin order from a pointer (R152). -/
def rrOrder (p : Nat) : List Nat := (List.range 64).map (fun i => (p + i) % 64)

/-- A walk begins in a slot for a miss (R146, R152). -/
def beginWalk (s : State) (i : Nat) (m : Miss) : State :=
  let sp := tget s.lan.spaces m.space
  let w : Walk := { miss := m, epoch := sp.epoch, epoch2 := (tget s.lan.s2 sp.part).epoch }
  count { takeUnit s uWalk i with lan := { s.lan with
    misses := s.lan.misses.erase m
    walks := tset s.lan.walks i (some w)
    missTotal := satAdd 32 s.lan.missTotal 1 } } pLAN 0 (missPart s m)

/-- WALK_START (R151, R152). -/
def execWalkStart (s : State) : Host.Outcome State Fault Refusal :=
  .next (match freeWalk s with
    | none => s
    | some i => match (rrOrder s.lan.rrPart).findSome? (fun p => (pickMiss s false p).map (fun m => (p, m))) with
      | none => s
      | some (p, m) =>
        let t := beginWalk s i m
        { t with lan := { t.lan with rrPart := (p + 1) % 64 } })

/-- PREFETCH_WALK_START (R168): in round-robin order over the partitions, as demand misses start (R152). -/
def execPrefetchWalkStart (s : State) : Host.Outcome State Fault Refusal :=
  .next (if s.lan.misses.any (fun m => !m.pref && !sharesWalk s m) then s
    else match freeWalk s with
      | none => s
      | some i => match (rrOrder s.lan.rrPart).findSome? (fun p => (pickMiss s true p).map (fun m => (p, m))) with
        | none => s
        | some (p, m) =>
          let t := beginWalk s i m
          count { t with eng := { t.eng with pfIssued := satAdd 32 t.eng.pfIssued 1 }, lan := { t.lan with rrPart := (p + 1) % 64 } } pENG 0)

/-- A translation reaches a miss inside its page: it fills the Firefly or pipe buffer of the miss (R140, R141, R151, R166). -/
def missFill (s : State) (e : TlbEntry) (m : Miss) : State :=
  if m.move.isSome then pipeFill s (m.port - 32) { e with pref := false }
  else if m.pref then (if m.first then fireflyFill s m.port e else s)
  else updBurst (fireflyFill s m.port { e with pref := false }) m.req m.burst (fun x => if x.st == .missed then { x with st := .ready } else x)

/-- The misses that a walk of a translation serves: those inside its page, in ascending order of ports and then pipes (R151). -/
def servedBy (s : State) (e : TlbEntry) : List Miss :=
  (List.range 40).flatMap (fun p => s.lan.misses.filter (fun m => m.port == p && tlbHits e false m.space m.va))

/-- A walk ended with a translation (R144, R151, R166). -/
def walkOk (s : State) (w : Walk) (x : Xlat) : State :=
  let e := walkEntry s w.miss.space w.miss.va x w.epoch w.epoch2 w.miss.pref
  let ms := servedBy s e
  let t := installX { s with lan := { s.lan with misses := s.lan.misses.filter (fun m => !ms.contains m) } } w.miss.space e
  ms.foldl (fun u m => missFill u e m) (missFill t e w.miss)

/-- The fault of a walk reaches a miss that waited for it (R173). -/
def missFault (s : State) (m : Miss) (c lvl stage : Nat) : State :=
  match m.move with
  | some who => moveFault s who m.va c lvl stage m.acc
  | none => if (burst s m.req m.burst).st == .missed then burstFault s m.req m.burst c lvl stage else s

/-- A walk ended with a fault: it reaches every demand miss that shared the walk, in ascending source key (R155, R167, R173, R179). A
denial reaches those of its own access class. -/
def walkFault (s : State) (w : Walk) (c lvl stage : Nat) : State :=
  if w.miss.pref then count { s with eng := { s.eng with pfDrop := satAdd 32 s.eng.pfDrop 1 } } pENG 1
  else
    let same := fun (m : Miss) => !m.pref && m.space == w.miss.space && m.va / 2 ^ 22 == w.miss.va / 2 ^ 22 &&
      ((c != 4 && c != 5) || m.acc == w.miss.acc)
    let ms := s.lan.misses.filter same
    let t := { s with lan := { s.lan with misses := s.lan.misses.filter (fun m => !same m) } }
    ((List.range 40).flatMap (fun p => (w.miss :: ms).filter (fun m => m.port == p))).foldl (fun u m => missFault u m c lvl stage) t

/-- A walk in a slot ends, or restarts when an epoch changed under it (R149, R153). It waits for a table's line that a cache may hold
newer than memory (R130). -/
def walkEnd (s : State) (i : Nat) : State :=
  match tget s.lan.walks i with
  | none => s
  | some w =>
    let sp := tget s.lan.spaces w.miss.space
    let ep2 := (tget s.lan.s2 sp.part).epoch
    if w.epoch ≠ sp.epoch ∨ w.epoch2 ≠ ep2 then
      { s with lan := { s.lan with walks := tset s.lan.walks i (some { w with epoch := sp.epoch, epoch2 := ep2 }) } }
    else
      let t := { s with lan := { s.lan with walks := tset s.lan.walks i none } }
      match walk t (some (kWalk i)) w.miss.space w.miss.va w.miss.acc with
      | (u, .ok x) => walkOk (ownDone u (kWalk i)) w x
      | (u, .fault c l st) => walkFault (ownDone u (kWalk i)) w c l st
      | (_, .ask line) => ownAsk s (kWalk i) line

/-- WALK_COMPLETE (R155). -/
def execWalkComplete (slot : Nat) (s : State) : Host.Outcome State Fault Refusal := .next (walkEnd s slot)

/-- FAULT_RING_RETRY: the hold stores of the fault and release rings are tried every 16 bt (R180, R441, R721). -/
def execFaultRingRetry (s : State) : Host.Outcome State Fault Refusal :=
  .next (if (s.eng.hold.isEmpty && relHeld s == 0) || !btDue s s.eng.holdNext.toNat then s else relRetry (faultRetry s))

/-- A pause that no verdict ended in time loses its contexts with TIMEOUT (R184). -/
def demandExpire (s : State) (token : Nat) : State :=
  let k := tget s.eng.tokens token
  if k.st == .paused && btDue s k.due.toNat then tokenAbort s token .timeout else s

/-- DEMAND_TIMEOUT (R184). -/
def execDemandTimeout (token : Nat) (s : State) : Host.Outcome State Fault Refusal := .next (demandExpire s token)

end Sys2Proof.Machine
end

