-- ==== Sys2Proof/Machine/Lamp.lean ====
section
/-!
DEFINITION. The Lamplighter: the block's own accesses through a space, the fetch and the checks of commands, their pins, dispatch
and retirement, and the registers of queues and contexts (R15 to R18, R416 to R446).
-/
namespace Sys2Proof.Machine
open Sys2Proof

/-! ## The block's own accesses through a space -/

/-- How the translation of an access that the block makes for itself ends: a fault, a status that no translation gives, an NPA,
or an address in another package. -/
inductive VaRes where
  | fault (cause lvl stage : Nat)
  | stop (st : Status)
  | here (npa : Nat)
  | there (node npa : Nat)
  /-- a line that must be asked for first: a cache may hold it newer than memory -/
  | ask (line : Nat)
deriving DecidableEq, Repr, Inhabited

/-- A translation of a space for an access, from the Lantern or a walk that fills it (R143, R144, R154). -/
def spaceLookup (s : State) (sid va : Nat) (acc : Access) : State × WalkRes :=
  let go := fun (s : State) =>
    match walk s (some kLamp) sid va acc with
    | (t, .ok x) =>
      let sp := tget t.lan.spaces sid
      (installX t sid (walkEntry t sid va x sp.epoch (tget t.lan.s2 sp.part).epoch false), .ok x)
    | r => r
  match lanternFind s false sid va with
  | some e =>
    if permits e.x acc then (lanternTouch s e, .ok e.x)
    else if bitOf s.lan.cfg 0 then go { s with lan := { s.lan with lantern := s.lan.lantern.filter (fun x => x != e) } }
    else (s, .fault 4 0 1)
  | none => go (count { s with lan := { s.lan with missTotal := satAdd 32 s.lan.missTotal 1 } } pLAN 0 (tget s.lan.spaces sid).part)

/-- Where a translation sends an access of a partition (R30, R541). -/
def vaPlace (s : State) (p va : Nat) (x : Xlat) : VaRes :=
  let a := xAddr x va
  if x.glob then
    if !present s pSPN then .stop .unitAbsent else if !bitOf s.spn.remoteEn p then .stop .permission else .there x.node a
  else match memStatus s (a / 128) with
    | .ok => .here a
    | st => .stop st

/-- Translation and place of an access of the Lamplighter in a space (R129): what it reads is read coherently (R36). -/
def ownLook (s : State) (sid p va : Nat) (acc : Access) : State × VaRes :=
  match spaceLookup s sid va acc with
  | (t, .fault c l g) => (t, .fault c l g)
  | (t, .ask l) => (t, .ask l)
  | (t, .ok x) =>
    let x := localX t x
    if !x.glob && !inLayout t p (xAddr x va) then (t, .fault 7 0 2)
    else match vaPlace t p va x with
      | .here a => (t, if acc == .read && !lineCurrent t kLamp (a / 128) then .ask (a / 128) else .here a)
      | r => (t, r)

/-- n free words: what the memory of another package holds is no state of this block (log entry 3). -/
def drawWords : Nat → State → State × List Word
  | 0, s => (s, [])
  | n + 1, s =>
    let (w, t) := drawWord s
    let (u, l) := drawWords n t
    (u, w :: l)

/-- A fault of the Lamplighter's own access (R421): the record names port 0 of the ports. One with cause S1_DEMAND is no demand fault
and loses its context with UNMAPPED (R173). -/
def lampFault (s : State) (c p sid va cause lvl stage : Nat) (acc : Access) : State :=
  faultLose s { cause := cause, lvl := lvl, stage := stage, acc := acc, ctx := c, part := p, space := sid, va := va }
    (if cause = 2 then .unmapped else causeStatus cause)

/-- The request with which the block writes bytes within one line at an NPA for a command (R36, R268). -/
def relayReq (s : State) (q seq p npa : Nat) (bs : List Byte) : HomeReq :=
  let off := npa % 128
  { op := .wrPart, agent := 32 + s.cas.pos, origin := .cmd q seq, part := p, line := npa / 128,
    data := lineOf ((List.range 128).map (fun i => if off ≤ i && i < off + bs.length then bs.getD (i - off) 0 else 0)),
    mask := BitVec.ofNat 128 ((2 ^ bs.length - 1) * 2 ^ off) }

/-- The block writes bytes within one line at an NPA through the line's home, for a command (R36, R268). -/
def relayPut (s : State) (q seq p npa : Nat) (bs : List Byte) (node : Option Nat) : State :=
  match node with
  | some n => toPackage s n (relayReq s q seq p npa bs)
  | none => place s (relayReq s q seq p npa bs)

/-! ## Commands -/

/-- Word i of a command. -/
def cw (c : Cmd) (i : Nat) : Word := c.words.getD i 0

/-- OPCODE, NPIN and TAG of the header (R425). -/
def cOp (c : Cmd) : Nat := fld (cw c 0) 7 0
def cNpin (c : Cmd) : Nat := fld (cw c 0) 10 8
def cTag (c : Cmd) : Nat := fld (cw c 0) 31 16

/-- PIN i of the header (R425). -/
def cPin (c : Cmd) (i : Nat) : Nat := ((cw c 0).toNat + (cw c 1).toNat * 2 ^ 64) >>> (32 + 24 * i) % 2 ^ 24

/-- The pins that a command uses. -/
def cPins (c : Cmd) : List Nat := (List.range (cNpin c)).map (cPin c)

/-- The opcodes of R15. -/
def opcodes : List Nat := [0x00, 0x01, 0x02, 0x08, 0x10, 0x11, 0x18, 0x19, 0x20, 0x28, 0x30, 0x38]

/-- Pages of the units an opcode needs (R15, R17). -/
def opPages : Nat → List Nat
  | 0x01 => [pMOV]
  | 0x02 => [pMOV, pXFM]
  | 0x08 => [pENG]
  | 0x28 => [pTIR]
  | _ => []

/-- Commands that act as though SERIAL were set (R429, R452, R468). -/
def opSerial (o : Nat) : Bool := [0x10, 0x18, 0x19, 0x38].contains o

/-- Bits of words 2 to 7 that an opcode's operands may use (R191, R314, R384, R428, R429, R452, R453, R468). -/
def opMasks : Nat → List Word
  | 0x01 | 0x02 => [mask 56 0, mask 15 0 ||| mask 37 32, 0, 0, 0, 0]
  | 0x08 => List.replicate 6 (BitVec.allOnes 64)
  | 0x10 => [mask 23 0 ||| mask 63 32, BitVec.allOnes 64, 0, 0, 0, 0]
  | 0x11 => [mask 23 0 ||| mask 63 32, BitVec.allOnes 64, mask 32 0, 0, 0, 0]
  | 0x18 | 0x19 => [mask 23 0 ||| mask 63 32, mask 20 0, 0, 0, 0, 0]
  | 0x20 => [BitVec.allOnes 64, 0, 0, 0, 0, 0]
  | 0x28 => [mask 56 22, mask 33 0, 0, mask 24 0 ||| mask 63 32, BitVec.allOnes 64, 0]
  | 0x30 => [mask 1 0 ||| mask 27 16, mask 56 22, mask 34 0, mask 24 0 ||| mask 63 32, BitVec.allOnes 64, 0]
  | 0x38 => [mask 56 6, mask 1 0, 0, 0, 0, 0]
  | _ => List.replicate 6 0

/-- A reserved operand bit is set (R426). -/
def opReserved (c : Cmd) : Bool :=
  (List.range 6).any (fun i => cw c (i + 2) &&& ~~~ ((opMasks (cOp c)).getD i 0) != 0)

/-- The objects that a command's operands name (R426). -/
def opObjects (c : Cmd) : List Nat :=
  let o := cOp c
  if o = 0x10 ∨ o = 0x11 ∨ o = 0x18 ∨ o = 0x19 then [fld (cw c 2) 23 0]
  else if (o = 0x28 ∨ o = 0x30) ∧ bitOf (cw c 5) 24 then [fld (cw c 5) 23 0] else []

/-- Channel that a MOVE names (R314). -/
def cChan (c : Cmd) : Nat := fld (cw c 3) 37 32

/-- A MAP_WITHDRAW that its issuer may not make (R192). -/
def wdRefused (s : State) (c : Cmd) : Bool :=
  let k := fld (cw c 2) 1 0
  if k = 0 ∨ k = 2 then (tget s.lan.spaces (fld (cw c 2) 27 16)).part != c.part else c.part != 0

/-- The operand checks of the opcode's own chapter (R192, R315, R429, R432). -/
def opRefused (s : State) (c : Cmd) : Bool :=
  match cOp c with
  | 0x01 | 0x02 =>
    let h := tget s.mov.chans (cChan c)
    !h.owned || h.part != c.part || fld (cw c 2) 6 0 != 0
  | 0x08 => (part s c.part).dispObj.isNone
  | 0x30 => wdRefused s c
  | 0x38 => decide (2 ≤ fld (cw c 3) 1 0)
  | _ => false

/-- The checks of R426 before the pins, in their order: the status of the first that fails. -/
def cmdCheck (s : State) (priv : Bool) (c : Cmd) : Option Status :=
  let o := cOp c
  if !opcodes.contains o then some .permission
  else if (opPages o).any (fun p => !present s p || fenced s p) then some .unitAbsent
  else if o == 0x30 && !priv then some .permission
  else if fld (cw c 0) 15 13 ≠ 0 ∨ 4 < cNpin c ∨ (List.range 4).any (fun i => decide (cNpin c ≤ i) && cPin c i != 0) then some .permission
  else if (opObjects c).any (fun x => !(cPins c).contains x) then some .permission
  else if opReserved c || opRefused s c || (opPages o).any (fun p => !enabled s p) then some .permission
  else none

/-! ## Fetch and pins -/

/-- LMP_CFG[INFLIGHT] (LMP page). -/
def inflight (s : State) : Nat := clamp 1 64 (fld s.lmp.cfg 6 0)

/-- A slot of this event tick that is left for a partition's work: four slots of 2 cyc, each for one fetch (R584). -/
def lampSlot (s : State) (p : Nat) : Option Nat :=
  (List.range 4).find? (fun k => !s.lmp.slotsUsed.contains k && slotOpen s p (4 * frameTick s + k))

/-- The Lamplighter may fetch the next command of a queue (R420, R422, R424, R584, R602). -/
def fetchable (s : State) (q : Nat) : Bool :=
  let k := queue s q
  let x := ctxOf s k.ctx
  k.enable && k.bound && k.head != k.tail && decide (qInFlight s q < inflight s) && !k.stalled && x.st != .free && x.doomed.isNone &&
    !bitOf s.det.gate x.part && (lampSlot s x.part).isSome

/-- Queues that may fetch, of a partition. -/
def fetchableOf (s : State) (p : Nat) : List Nat :=
  (s.lmp.queues.map (fun e => e.1)).filter (fun q => fetchable s q && (ctxOf s (queue s q).ctx).part == p)

/-- The queue that fetches next of those of some partitions: round robin over the partitions, then over the queues of one (R420). -/
def turnOf (s : State) (ok : Nat → Bool) : Option (Nat × Nat) :=
  (rrOrder s.lmp.rrPart).findSome? (fun p =>
    let l := if ok p then fetchableOf s p else []
    let r := tget s.lmp.rrQueue p
    ((l.filter (fun q => decide (r ≤ q))) ++ l.filter (fun q => decide (q < r))).head?.map (fun q => (p, q)))

/-- Contexts that had a command fetched in the window of the present count. -/
def lampServed (s : State) : List Nat := if winOver s then s.lmp.servedNext else s.lmp.served

/-- A queue of a LIVE context without a unit in the window, of a partition that is not below its share (R589, R591). -/
def lampStarved (s : State) : Option (Nat × Nat) :=
  (s.lmp.queues.find? (fun e => fetchable s e.1 && ctxLive s e.2.ctx && !belowShare s 3 (ctxOf s e.2.ctx).part && !(lampServed s).contains e.2.ctx)).map
    (fun e => ((ctxOf s e.2.ctx).part, e.1))

/-- The queue that fetches next (R420, R588, R591): the partitions below their shares come first, but for a context in the last bt of the
window that has had no unit in it. -/
def nextQueue (s : State) : Option (Nat × Nat) :=
  match turnOf s (belowShare s 3) with
  | none => turnOf s (fun _ => true)
  | some x => if lastBt s then some ((lampStarved s).getD x) else some x

/-- A fetch for a queue of a partition, from s to t, takes its slot, moves the round-robin pointers on, and counts for its context and for
the share of its partition, or of the one whose turn it took (R420, R588, R591). -/
def lampTook (s t : State) (p q : Nat) : State :=
  let t := if belowShare s 3 p then useShare t 3 p 1 0 else match turnOf s (belowShare s 3) with
    | some x => useShare t 3 x.1 0 1
    | none => t
  let c := (queue s q).ctx
  { t with lmp := { t.lmp with
    rrPart := (p + 1) % 64, rrQueue := tset t.lmp.rrQueue p (q + 1)
    slotsUsed := t.lmp.slotsUsed ++ (lampSlot s p).toList
    served := if winOver s then t.lmp.served else setIns t.lmp.served c
    servedNext := if winOver s then setIns t.lmp.servedNext c else t.lmp.servedNext } }

/-- A TAKE or DROP that did not answer OK counts in REF_REFUSED. -/
def refCount (s : State) (p : Nat) (st : Status) : State :=
  if st == .ok then s else count { s with lmp := { s.lmp with refRefused := satAdd 32 s.lmp.refRefused 1 } } pLMP 2 p

/-- TAKE on each pin of a command, in order, with the answers (R439). -/
def takePins (s : State) (p : Nat) : List Nat → State × List Status
  | [] => (s, [])
  | i :: t =>
    let (u, st, _) := objOp s p i true
    let (v, l) := takePins (refCount u p st) p t
    (v, st :: l)

/-- A command enters with its words: it is checked and its pins are taken, or it ends (R414, R426, R439). -/
def enterCmd (s : State) (q : Nat) (ws : List Word) (bad : Option Status) : State :=
  let k := queue s q
  let x := ctxOf s k.ctx
  let c : Cmd := { q := q, seq := k.head, ctx := k.ctx, part := x.part, words := ws }
  let s := updQ s q (fun k => { k with head := (k.head + 1) % 2 ^ 64 })
  let fail := if x.st != .live then some .contextLost else if bad.isSome then bad else cmdCheck s k.priv c
  match fail with
  | some st => { s with lmp := { s.lmp with cmds := s.lmp.cmds ++ [{ c with st := .retire, status := st }] } }
  | none =>
    let (t, l) := takePins s x.part (cPins c)
    { t with lmp := { t.lmp with cmds := t.lmp.cmds ++ [{ c with takes := l }] } }

/-- Pins that the fetched words name: the records that the fetch will change. -/
def pinLines (s : State) (q : Nat) (ws : List Word) : List Nat :=
  let c : Cmd := { q := q, words := ws }
  objLines s (ctxOf s (queue s q).ctx).part (cPins c)

/-- The fetch of the next command of a queue (R420, R421): a fault loses the context and fetches nothing, unless it is lost
already; poison and an unserved line end the command (R30, R637). None while a line it reads or a record it takes is asked for: the
second is the state with what was asked. -/
def fetchCmd (s : State) (q : Nat) : Option State × State :=
  let k := queue s q
  let x := ctxOf s k.ctx
  let va := fld k.base 56 6 * 64 + k.head % 2 ^ k.log2 * 64
  match ownLook s x.space x.part va .read with
  | (t, .here a) =>
    match recAsk t kLamp (pinLines t q (rdWords t a 8)) with
    | some u => (none, u)
    | none => (some (enterCmd (ownDone t kLamp) q (rdWords t a 8) (if bytesPois t a 64 then some .poison else none)), s)
  | (t, .ask l) => (none, ownAsk t kLamp l)
  | (t, .there _ _) => let (u, l) := drawWords 8 t
                       (some (enterCmd u q l none), s)
  | (t, .stop st) => let (u, l) := drawWords 8 t
                     (some (enterCmd u q l (some st)), s)
  | (t, .fault c l g) =>
    if x.st == .live then (some (lampFault t k.ctx x.part x.space va c l g .read), s)
    else let (u, ws) := drawWords 8 t
         (some (enterCmd u q ws none), s)

/-- COMMAND_FETCH (R420, R426). -/
def execCommandFetch (s : State) : Host.Outcome State Fault Refusal :=
  .next (match nextQueue s with
    | none => s
    | some (p, q) => match fetchCmd s q with
      | (none, t) => t
      | (some t, _) => lampTook s t p q)

/-- A MAP_WITHDRAW waits for one of the 16 drains, unless it names no granule (R193, R194). -/
def wdMustWait (s : State) (c : Cmd) : Bool :=
  cOp c == 0x30 && !wdEmpty (fld (cw c 2) 1 0) (fld (cw c 4) 34 0) && decide (16 ≤ wdDraining s)

/-- The first pin that did not answer OK, or did answer a status. -/
def firstPin (f : Status → Bool) (l : List Status) : Nat := (l.findIdx f)

/-- Every pin TAKE has answered (R415, R439): the command is accepted, or ends with the failing pin's status. -/
def acceptCmd (s : State) (c : Cmd) : State :=
  let live := ctxLive s c.ctx
  if c.takes.all (fun x => x == .ok) then
    if !live then endCmd (updCmd s c.q c.seq (fun c => { c with pinned := true })) c.q c.seq .contextLost
    else if wdMustWait s c then s
    else updCmd s c.q c.seq (fun c => { c with st := .accepted, pinned := true })
  else
    let good := ((cPins c).zip c.takes).filter (fun x => x.2 == .ok)
    let t := good.foldl (fun u x => dropRef u c.part x.1) s
    let gone := c.takes.contains .objectGone
    let i := if gone then firstPin (fun x => x == .objectGone) c.takes else firstPin (fun x => x != .ok) c.takes
    let st := c.takes.getD i .ok
    if !live then endCmd t c.q c.seq .contextLost
    else endCmd (if gone then doom t c.ctx .objectGone else t) c.q c.seq st (w64 i)

/-- COMMAND_ACCEPT (R439). -/
def execCommandAccept (q seq : Nat) (s : State) : Host.Outcome State Fault Refusal :=
  .next (match cmdOf s q seq with
    | some c => if c.st == .taking then acceptCmd s c else s
    | none => s)

/-! ## Dispatch -/

/-- A command has been handed to its unit, or has ended. -/
def cmdBegun (c : Cmd) : Bool := c.st == .running || c.st == .retire

/-- The channel has started a MOVE, so that it samples the step counter (R353, R412). -/
def moveStarted (s : State) (c : Cmd) : Bool :=
  if c.st == .running && (cOp c == 0x01 || cOp c == 0x02) then
    !((tget s.mov.chans (cChan c)).fifo.any (fun f => f.q == c.q && f.seq == c.seq && !f.started))
  else true

/-- The next free slot of a partition's dispatch ring, in dispatch order (R430). -/
def freeDispatch (s : State) (p : Nat) : Option Nat :=
  let q := part s p
  if q.dispLog < 4 then none
  else if (tget q.dispRun (q.dispNext % 2 ^ q.dispLog)).2 = 0 then some (q.dispNext % 2 ^ q.dispLog) else none

/-- What names each command in a channel's FIFO. -/
def fifoNames (s : State) (ch : Nat) : List Nat :=
  ((tget s.mov.chans ch).fifo.filter (fun f => !f.started)).map (fun f => (ch * 2 ^ 16 + f.q) * 2 ^ 64 + f.seq)

/-- The unit of a command has no room for it (R316, R422, R656). -/
def unitFull (s : State) (c : Cmd) : Bool :=
  match cOp c with
  | 0x01 | 0x02 => decide (16 ≤ unitsHeld s uFifo (fifoNames s (cChan c)))
  | 0x08 => (part s c.part).dispObj.isSome && (freeDispatch s c.part).isNone
  | _ => false

/-- The order of dispatch lets a command go (R412, R423). -/
def mayDispatch (s : State) (c : Cmd) : Bool :=
  let before := s.lmp.cmds.filter (fun x => x.q == c.q && decide (x.seq < c.seq))
  before.all (fun x => cmdBegun x && cOp x != 0x11 && !(cOp x == 0x20 && x.st != .retire)) &&
  (!(bitOf (cw c 0) 12 || opSerial (cOp c)) || before.isEmpty) &&
  (cOp c != 0x20 || before.all (moveStarted s))

/-- A command is dispatched, or its queue waits alone for its unit (R422, R423). -/
def dispatchCmd (s : State) (c : Cmd) : State :=
  if !mayDispatch s c then s
  else if unitFull s c then updQ s c.q (fun k => { k with stalled := true })
  else updCmd (updQ s c.q (fun k => { k with stalled := false })) c.q c.seq (fun c => { c with st := .dispatched })

/-- COMMAND_DISPATCH (R423). -/
def execCommandDispatch (q seq : Nat) (s : State) : Host.Outcome State Fault Refusal :=
  .next (match cmdOf s q seq with
    | some c => if c.st == .accepted then dispatchCmd s c else s
    | none => s)

/-! ## Retirement -/

/-- The completion record of a command (R427). -/
def recordWords (s : State) (c : Cmd) : List Word :=
  [pack [(0, c.status.code), (8, cOp c), (16, cTag c), (32, c.ctx)], w64 c.seq, c.result, s.bcn.count]

/-- The command has a completion record (R427). -/
def needsRecord (c : Cmd) : Bool := c.status != .ok || bitOf (cw c 0) 11

/-- The completion record is written through the context's translation; a fault of it loses the context (R173, R427). -/
def writeRecord (s : State) (c : Cmd) : State :=
  let k := queue s c.q
  let x := ctxOf s c.ctx
  let va := fld k.cbase 56 5 * 32 + c.seq % 2 ^ k.log2 * 32
  let bs := (recordWords s c).flatMap wordBytes
  let mark := fun (n : Nat) (t : State) => updCmd t c.q c.seq (fun c => { c with recorded := n })
  match ownLook s x.space c.part va .write with
  | (t, .here a) => relayPut (mark 1 t) c.q c.seq c.part a bs none
  | (t, .there n a) => relayPut (mark 1 t) c.q c.seq c.part a bs (some n)
  | (t, .stop _) => mark 2 t
  | (t, .ask l) => ownAsk t kLamp l
  | (t, .fault f l g) => mark 2 (if x.st == .live then lampFault t c.ctx c.part x.space va f l g .write else t)

/-- SEQs retired without a gap (R417). -/
def advanceDone : Nat → Nat → List Nat → Nat × List Nat
  | 0, d, l => (d, l)
  | n + 1, d, l => if l.contains d then advanceDone n ((d + 1) % 2 ^ 64) (l.erase d) else (d, l)

/-- Service code of QUEUE_DESTROY (R500). -/
def svcQueueDestroy : Nat := 0x0035

/-- A destroyed queue whose last command has retired is free, and its destroy is answered (R424, R500). -/
def queueDrained (s : State) (q : Nat) : State :=
  match (queue s q).killMb with
  | some (mb, n) =>
    if qInFlight s q = 0 then reply (noteSels (updQ s q (fun _ => {})) pLMP q [0x218, 0x220, 0x228]) mb n svcQueueDestroy .ok else s
  | none => s

/-- A command leaves: fences, pins, counts (R427, R440). -/
def retireCmd (s : State) (c : Cmd) : State :=
  let t := c.fences.foldl (fun u f => signalRef u c.part f.1 f.2.1 f.2.2) s
  let t := if c.pinned then (cPins c).foldl (fun u i => dropRef u c.part i) t else t
  let t := { t with lmp := { t.lmp with cmds := t.lmp.cmds.filter (fun x => !(x.q == c.q && x.seq == c.seq)), cmdTotal := satAdd 32 t.lmp.cmdTotal 1 } }
  let t := updQ t c.q (fun k =>
    let r := advanceDone (k.retired.length + 1) k.done (c.seq :: k.retired)
    { k with done := r.1, retired := r.2 })
  queueDrained (tenant (count t pLMP 0 c.part) c.part 1) c.q

/-- A command of a lost context waits for the earlier ones that ended with it (R414). -/
def retireOrder (s : State) (c : Cmd) : Bool :=
  c.status == .contextLost &&
    s.lmp.cmds.any (fun x => x.q == c.q && decide (x.seq < c.seq) && x.st == .retire && x.status == .contextLost)

/-- A command that ended retires: its record is performed first, then its fences and the drops of its pins follow (R268, R440). -/
def retire (s : State) (q seq : Nat) : State :=
  match cmdOf s q seq with
  | none => s
  | some c =>
    if c.st != .retire || retireOrder s c || c.recorded == 1 then s
    else
      let t := if needsRecord c && c.recorded == 0 then writeRecord s c else s
      match cmdOf t q seq with
      | none => t
      | some d =>
        if d.recorded == 1 || (needsRecord d && d.recorded == 0) then t
        else match recAsk t kObj (if d.pinned then objLines t d.part (cPins d) else []) with
          | some u => u
          | none => retireCmd (ownDone t kObj) d

/-- A withdrawal completes; the record and the fence of a MAP_WITHDRAW follow in the same event tick (R196, R197). -/
def wdEnd (s : State) (id : Nat) : State :=
  let t := wdComplete s id
  match s.lan.wds.find? (fun w => w.id == id) with
  | none => t
  | some w => match w.src with
    | .cmd q seq => retire t q seq
    | _ => t

/-- WITHDRAWAL_COMPLETE (R196). -/
def execWithdrawalComplete (id : Nat) (s : State) : Host.Outcome State Fault Refusal := .next (wdEnd s id)

/-- COMMAND_RETIRE (R440). -/
def execCommandRetire (q seq : Nat) (s : State) : Host.Outcome State Fault Refusal := .next (retire s q seq)

/-! ## Doorbell pages -/

/-- A host write to a doorbell page (R48, R408). -/
def doorbellWrite (s : State) (a : Acc) (q : Nat) (f : State → State) : State :=
  let ps := (part s (queue s q).part).st
  if !accUp s a.st || decide (1024 ≤ q) then s
  else if !mayReach s a.part (.doorbell q 0) then refusedAcc s a []
  else if ps == .closing || ps == .scrub then refusedAcc s a []
  else regRsp (f s) a.st .ok []

/-- A write of DB_TAIL (R418). -/
def tailSet (s : State) (q : Nat) (v : Word) : State :=
  let k := queue s q
  if !k.enable || v == w64 k.tail then s
  else if (v - w64 k.tail).toNat < 2 ^ 63 ∧ (v - w64 k.done).toNat ≤ 2 ^ k.log2 then updQ s q (fun k => { k with tail := v.toNat })
  else
    let t := updQ s q (fun k => { k with badTail := true })
    if k.badTail then t else raise t pLMP 1

/-- DB_TAIL_WRITE (R418). -/
def execDbTailWrite (a : Acc) (q : Nat) (v : Word) (s : State) : Host.Outcome State Fault Refusal :=
  .next (doorbellWrite s a q (fun t => tailSet t q v))

/-- The operation that OBJ_OP asks of an object's record is tried (R437, R438): while a cache holds the record's line it is asked for and
the operation stays busy, to be tried again in every event tick (R36); else its result stands in OBJ_STAT. -/
def objTry (s : State) (q : Nat) (v : Word) : State :=
  let k := queue s q
  match recAsk s kObj (objLines s k.part [fld v 23 0]) with
  | some u => updQ u q (fun k => { k with objPend := some v })
  | none =>
    let (t, st, n) := objOp (ownDone s kObj) k.part (fld v 23 0) (fld v 25 24 == 1)
    updQ (refCount t k.part st) q (fun k => { k with objPend := none, objStatus := st, objCount := n })

/-- A write of OBJ_OP (R437, R438): refused while one is busy, on a queue that is not privileged, and with a reserved OP. -/
def objOpSet (s : State) (q : Nat) (v : Word) : State :=
  let k := queue s q
  let o := fld v 25 24
  if k.objPend.isSome || !k.priv || (o != 1 && o != 2) then updQ s q (fun k => { k with objRefused := true }) else objTry s q v

/-- Every operation that OBJ_OP left busy is tried again. -/
def objTries (s : State) : State :=
  s.lmp.queues.foldl (fun t e => match e.2.objPend with
    | some v => objTry t e.1 v
    | none => t) s

/-- OBJ_OP_TAKE (R437). -/
def execObjOpTake (a : Acc) (q : Nat) (v : Word) (s : State) : Host.Outcome State Fault Refusal :=
  .next (doorbellWrite s a q (fun t => objOpSet t q (setFld v 25 24 1)))

/-- OBJ_OP_DROP (R437). -/
def execObjOpDrop (a : Acc) (q : Nat) (v : Word) (s : State) : Host.Outcome State Fault Refusal :=
  .next (doorbellWrite s a q (fun t => objOpSet t q (setFld v 25 24 2)))

/-! ## Registers of queues, contexts and object tables -/

/-- A queue is live: enabled, or with commands not retired (R443). -/
def queueLive (s : State) (q : Nat) : Bool := (queue s q).enable || qInFlight s q != 0

/-- A base is aligned to a ring of 2^n entries of a size (R416). -/
def ringAligned (base n size : Nat) : Bool := base % (2 ^ n * size) == 0

/-- The context may be bound to the queue: LIVE, of this block, and of the queue's owner (R443). -/
def mayBind (s : State) (k : Queue) (c : Nat) : Bool := ctxLive s c && (ctxOf s c).part == k.part

/-- The queue may be enabled with a control word (R443). -/
def mayEnable (s : State) (k : Queue) (v : Word) : Bool :=
  let n := fld v 6 2
  decide (4 ≤ n) && decide (n ≤ 16) && ringAligned (fld k.base 56 6 * 64) n 64 && ringAligned (fld k.cbase 56 5 * 32) n 32 &&
    mayBind s k (fld v 31 16)

/-- A write of the selected queue's control (R443). -/
def qCtlSet (s : State) (q : Nat) (v : Word) : State :=
  let k := queue s q
  let same := bitOf v 1 == k.priv && fld v 6 2 == k.log2 && fld v 31 16 == k.ctx
  if queueLive s q && !same then refuseLast s pLMP .permission
  else if bitOf v 0 && !mayEnable s k v then refuseLast s pLMP .permission
  else updQ s q (fun k => { k with enable := bitOf v 0, priv := bitOf v 1, log2 := fld v 6 2, ctx := fld v 31 16,
                                   bound := if bitOf v 0 then true else k.bound })

/-- A write of the selected queue's ring bases or control (R443). -/
def queueRegSet (s : State) (off : Nat) (v : Word) : State :=
  let q := s.lmp.qSel
  if off = 0x228 then qCtlSet s q v
  else if queueLive s q then refuseLast s pLMP .permission
  else updQ s q (fun k => if off = 0x218 then { k with base := v &&& mask 56 6 } else { k with cbase := v &&& mask 56 5 })

/-- Q_CTL_WRITE (R443). -/
def execQCtlWrite (a : Acc) (off : Nat) (v : Word) (s : State) : Host.Outcome State Fault Refusal :=
  .next (if off = 0x218 ∨ off = 0x220 ∨ off = 0x228 then unitWrite s a pLMP off (fun t => queueRegSet t off v) else s)

/-- A write of the selected context's binding (R444). -/
def ctxCtlSet (s : State) (v : Word) : State :=
  let i := s.lmp.ctxSel
  if (tget s.lmp.ctxs i).st != .free then refuseLast s pLMP .permission
  else { s with lmp := { s.lmp with ctxs := tupd s.lmp.ctxs i (fun x => { x with part := fld v 9 0, space := fld v 27 16 }) } }

/-- CTX_CTL_WRITE (R444). -/
def execCtxCtlWrite (a : Acc) (v : Word) (s : State) : Host.Outcome State Fault Refusal :=
  .next (unitWrite s a pLMP 0x240 (fun t => ctxCtlSet t v))

/-- A context of the partition is LIVE or DRAINING (R445). -/
def partCtxBusy (s : State) (p : Nat) : Bool := s.lmp.ctxs.any (fun e => e.2.part == p && (e.2.st == .live || e.2.st == .killing))

/-- A write of the selected partition's object table or release ring (R445). -/
def objTblSet (s : State) (off : Nat) (v : Word) : State :=
  let p := s.lmp.partSel
  if (part s p).st == .open_ && partCtxBusy s p then refuseLast s pLMP .permission
  else updPart s p (fun q =>
    if off = 0x258 then { q with objTbl := v &&& (mask 4 0 ||| mask 51 12) }
    else if off = 0x260 then { q with relBase := v &&& mask 51 6 } else { q with relCtl := v &&& (mask 4 0 ||| mask 31 8 ||| mask 63 32) })

/-- OBJ_TBL_WRITE (R445). -/
def execObjTblWrite (a : Acc) (off : Nat) (v : Word) (s : State) : Host.Outcome State Fault Refusal :=
  .next (if off = 0x258 ∨ off = 0x260 ∨ off = 0x268 then unitWrite s a pLMP off (fun t => objTblSet t off v) else s)

end Sys2Proof.Machine
end

