-- ==== Sys2Proof/Machine/FenceCmds.lean ====
section
/-!
DEFINITION. The commands that the Lamplighter and the homes carry out, and the waits and barriers they use: NOP, STEP_ADVANCE,
REPORT, ENG_DISPATCH, MAP_WITHDRAW, fence signals and waits, barrier operations and their ends (R191 to R197, R428 to R432,
R447 to R480).
-/
namespace Sys2Proof.Machine
open Sys2Proof

/-- A command that was dispatched and whose unit has not begun it begins. -/
def beginCmd (s : State) (q seq op : Nat) (f : State → Cmd → State) : State :=
  match cmdOf s q seq with
  | some c => if c.st == .dispatched && cOp c == op then f (updCmd s q seq (fun c => { c with st := .running })) c else s
  | none => s

/-- NOP (R428). -/
def execNop (q seq : Nat) (s : State) : Host.Outcome State Fault Refusal :=
  .next (beginCmd s q seq 0x00 (fun t _ => endCmd t q seq .ok))

/-- STEP_ADVANCE (R412, R428): RESULT is the counter after the advance. -/
def stepAdvance (s : State) (c : Cmd) : State :=
  let inc := if cw c 2 = 0 then 1 else cw c 2
  let v := (ctxOf s c.ctx).step + inc
  endCmd (updCtx s c.ctx (fun x => { x with step := v })) c.q c.seq .ok v

/-- STEP_ADVANCE (R412). -/
def execStepAdvance (q seq : Nat) (s : State) : Host.Outcome State Fault Refusal := .next (beginCmd s q seq 0x20 stepAdvance)

/-- The record of a REPORT (R429). -/
def reportWords (s : State) (c : Cmd) : List Word :=
  let ts := timestamp s
  let x := ctxOf s c.ctx
  if fld (cw c 3) 1 0 = 0 then [w64 ts, w64 (ts / 2 ^ 64), x.step, w64 (queue s c.q).done, w64 (ctxCode x.st), 0, 0, 0]
  else [w64 ts, w64 (ts / 2 ^ 64), 0, 0, 0, 0, 0, 0]

/-- REPORT writes its record through the context's translation (R173, R429). -/
def reportCmd (s : State) (c : Cmd) : State :=
  let x := ctxOf s c.ctx
  let va := fld (cw c 2) 56 6 * 64
  let bs := (reportWords s c).flatMap wordBytes
  match ownLook s x.space c.part va .write with
  | (t, .here a) => relayPut t c.q c.seq c.part a bs none
  | (t, .there n a) => relayPut t c.q c.seq c.part a bs (some n)
  | (t, .stop st) => endCmd t c.q c.seq st
  | (t, .ask l) => ownAsk (updCmd t c.q c.seq (fun c => { c with st := .dispatched })) kLamp l
  | (t, .fault f l g) => endCmd (lampFault t c.ctx c.part x.space va f l g .write) c.q c.seq .contextLost

/-- REPORT (R429). -/
def execReport (q seq : Nat) (s : State) : Host.Outcome State Fault Refusal := .next (beginCmd s q seq 0x38 reportCmd)

/-! ## ENG_DISPATCH -/

/-- The 64 bytes that go to a dispatch slot (R430). -/
def dispatchWords (c : Cmd) : List Word :=
  [pack [(0, c.ctx), (16, cTag c)] ||| w64 (c.seq % 2 ^ 32 * 2 ^ 32), w64 (c.seq / 2 ^ 32)] ++ (c.words.drop 2)

/-- ENG_DISPATCH is forwarded to its slot, and the accelerator die is told by a CTL INTR through the engine station, which a link that is
not active does not carry (R28, R37, R430). It waits while a cache holds the slot's line (R36). -/
def engDispatch (s : State) (c : Cmd) : State :=
  let q := part s c.part
  match q.dispObj, freeDispatch s c.part with
  | some o, some i =>
    match objRange s c.part o with
    | none => endCmd s c.q c.seq .permission
    | some (g, _) =>
      match gpaLookup s c.part (g + i * 128) with
      | (.ok, a, none) => match recAsk s kObj [a / 128] with
        | some u => updCmd u c.q c.seq (fun c => { c with st := .dispatched })
        | none =>
        let t := ownPut (ownDone s kObj) c.part a (dispatchWords c)
        let t := updPart t c.part (fun q => { q with dispNext := (i + 1) % 2 ^ q.dispLog, dispRun := tset q.dispRun i (c.ctx, c.seq + 1),
                                                     dispQ := tset q.dispQ i c.q, dispOf := tset q.dispOf i o })
        emit t (.dispatch c.part i (dispatchWords c))
      | (.ok, _, some _) => endCmd s c.q c.seq .permission
      | (st, _, _) => endCmd s c.q c.seq st
  | none, _ => endCmd s c.q c.seq .permission
  | _, none => updCmd s c.q c.seq (fun c => { c with st := .dispatched })

/-- ENG_DISPATCH (R430). -/
def execEngDispatch (q seq : Nat) (s : State) : Host.Outcome State Fault Refusal := .next (beginCmd s q seq 0x08 engDispatch)

/-! ## MAP_WITHDRAW -/

/-- MAP_WITHDRAW is accepted as a withdrawal, waits for one of the 16 drains, or ends with UNMAPPED (R193 to R195). -/
def mapWithdraw (s : State) (c : Cmd) : State :=
  let k := fld (cw c 2) 1 0
  let base := fld (cw c 3) 56 22 * 2 ^ 22
  let len := fld (cw c 4) 34 0
  if wdBeyond k base len then endCmd s c.q c.seq .unmapped
  else if wdMustWait s c then updCmd s c.q c.seq (fun c => { c with st := .dispatched })
  else wdAccept s k (fld (cw c 2) 27 16) base len (.cmd c.q c.seq) c.part

/-- MAP_WITHDRAW (R191). -/
def execMapWithdraw (q seq : Nat) (s : State) : Host.Outcome State Fault Refusal := .next (beginCmd s q seq 0x30 mapWithdraw)

/-! ## Signals and barrier operations -/

/-- A command on a fence or barrier record goes on when a cache holds neither the object's record nor the record (R36); until then it
waits. A command that only reads the object's record waits for that alone. -/
def fenceAsk (s : State) (c : Cmd) (writes : Bool) (f : State → Cmd → State) : State :=
  let obj := fld (cw c 2) 23 0
  match linesAsk s kObj (objLines s c.part [obj]) (if writes then fenceLine s c.part obj (fld (cw c 2) 63 32) else []) with
  | some u => updCmd u c.q c.seq (fun c => { c with st := .dispatched })
  | none => f (ownDone s kObj) c

/-- FENCE_SIGNAL on lines that are ready (R449, R452). -/
def fenceSignalNow (s : State) (c : Cmd) : State :=
  match fenceCheck s c.part (fld (cw c 2) 23 0) (fld (cw c 2) 63 32) with
  | none => endCmd s c.q c.seq .permission
  | some g =>
    match gpaLookup s c.part g with
    | (.ok, a, none) =>
      let (t, st) := signalRec s a (cw c 3) c.part
      endCmd t c.q c.seq st
    | (.ok, a, some n) =>
      let r : HomeReq := { op := .atomic 0xE7, agent := 32 + s.cas.pos, origin := .cmd c.q c.seq, part := c.part, line := a / 128,
                           data := BitVec.ofNat 1024 ((cw c 3).toNat <<< (8 * (a % 128))), mask := BitVec.ofNat 128 (0xFF <<< (a % 128)) }
      toPackage s n r
    | (st, _, _) => endCmd s c.q c.seq st

/-- FENCE_SIGNAL (R449, R452). -/
def fenceSignal (s : State) (c : Cmd) : State := fenceAsk s c true fenceSignalNow

/-- FENCE_SIGNAL (R452). -/
def execFenceSignal (q seq : Nat) (s : State) : Host.Outcome State Fault Refusal := .next (beginCmd s q seq 0x10 fenceSignal)

/-- The operand of a barrier command (R466, R468). -/
def barOperand (c : Cmd) (drop : Bool) : Word := pack [(0, fld (cw c 3) 20 0), (21, b2n drop), (22, 1), (48, c.ctx)]

/-- BAR_ARRIVE and BAR_DROP on lines that are ready: the home relay issues the operation with NOSLOT at 1 (R468, R469). -/
def barCmdNow (drop : Bool) (s : State) (c : Cmd) : State :=
  match fenceCheck s c.part (fld (cw c 2) 23 0) (fld (cw c 2) 63 32) with
  | none => endCmd s c.q c.seq .permission
  | some g =>
    match gpaLookup s c.part g with
    | (.ok, a, none) =>
      let (t, st) := barOp s a (barOperand c drop) false c.part
      endCmd t c.q c.seq st
    | (.ok, _, some _) => endCmd s c.q c.seq .permission
    | (st, _, _) => endCmd s c.q c.seq st

/-- BAR_ARRIVE and BAR_DROP (R468, R469). -/
def barCmd (drop : Bool) (s : State) (c : Cmd) : State := fenceAsk s c true (barCmdNow drop)

/-- BAR_ARRIVE (R468). -/
def execBarArrive (q seq : Nat) (s : State) : Host.Outcome State Fault Refusal := .next (beginCmd s q seq 0x18 (barCmd false))

/-- BAR_DROP (R468). -/
def execBarDrop (q seq : Nat) (s : State) : Host.Outcome State Fault Refusal := .next (beginCmd s q seq 0x19 (barCmd true))

/-! ## Waits -/

/-- A watch slot or polling wait. -/
def watchOf (s : State) (i : Nat) : Option Watch := tget s.fnc.watches i

/-- A state with a watch set or freed. -/
def setWatch (s : State) (i : Nat) (w : Option Watch) : State := { s with fnc := { s.fnc with watches := tset s.fnc.watches i w } }

/-- FNC_CFG[POLL_BT] and [WATCH_CAP] with their limits. -/
def pollBt (s : State) : Nat := max 1 (fld s.fnc.cfg 7 0)
def watchCap (s : State) : Nat := clamp 1 8192 (fld s.fnc.cfg 29 16)

/-- Watch slots that a partition holds. -/
def watchesOf (s : State) (p : Nat) : Nat := ((tsome s.fnc.watches).filter (fun e => !e.2.poll && e.2.part == p)).length

/-- The watch slot that a wait of a partition may take (R460). -/
def freeWatch (s : State) (p : Nat) : Option Nat :=
  if p ≠ 0 ∧ watchCap s ≤ watchesOf s p then none else (List.range 8192).find? (fun i => (watchOf s i).isNone && unitOpen s uWatch i)

/-- The lowest unused number of a polling wait. -/
def freePoll (s : State) : Nat := 8192 + ((tsome s.fnc.watches).filter (fun e => decide (8192 ≤ e.1))).foldl (fun n e => max n (e.1 - 8191)) 0

/-- The FETCH_AND by which the block clears its bit of a record's WATCH_MASK at the record's home (R36, R459). -/
def maskClear (s : State) (npa : Nat) : HomeReq :=
  { op := .atomic 0x57, agent := 32 + s.cas.pos, part := (layoutOwner s npa).getD 0, line := npa / 128,
    data := BitVec.ofNat 1024 ((2 ^ 64 - 1 - 2 ^ s.cas.pos) <<< (8 * ((npa + 48) % 128))), mask := BitVec.ofNat 128 (0xFF <<< ((npa + 48) % 128)) }

/-- The block's bit of WATCH_MASK is cleared when its last armed slot on the record is gone (R459). -/
def watchDisarm (s : State) (npa : Nat) : State :=
  if (tsome s.fnc.watches).any (fun e => e.2.armed && e.2.npa == npa) then s
  else
    let w := rdWord s (npa + 48)
    if !lineIdle s (npa / 128) then relayLater s (maskClear s npa)
    else if bitOf w s.cas.pos then wrWord s (npa + 48) (setBit w s.cas.pos false) else s

/-- A wait ends with a status: its command retires, or its host is told and the pin dropped (R455, R457, R458, R463). -/
def watchEnd (s : State) (i : Nat) (st : Status) : State :=
  match watchOf s i with
  | none => s
  | some w =>
    let t := setWatch s i none
    let t := if w.armed then watchDisarm t w.npa else t
    let t := match w.cmd with
      | some (q, n) => endCmd t q n st
      | none => t
    match w.host with
    | some b => dropRef (ringReply t w.part b) w.part w.obj
    | none => t

/-- A poll of a record (R456, R460, R461), which waits while a cache owns its line (R36): what another package's record holds is free (log entry 3). -/
def watchPoll (s : State) (i : Nat) : State :=
  match watchOf s i with
  | none => s
  | some w =>
    if !w.remote && !lineCurrent s kObj (w.npa / 128) then ownAsk s kObj (w.npa / 128) else
    let s := ownDone (setWatch s i (some { w with nextPoll := s.bcn.count + w64 (pollBt s) })) kObj
    let (v, kind, t) :=
      if w.remote then
        let (a, t) := drawWord s
        let (b, u) := drawWord t
        (a, fld b 3 0, u)
      else (recValue s w.npa, recKind s w.npa, s)
    if kind ≠ 0 then watchEnd t i .permission
    else if satisfied v w.target then watchEnd t i .ok else t

/-- A wait that finds no slot is counted (R460). -/
def watchFullNote (s : State) (p : Nat) : State := count { s with fnc := { s.fnc with watchFull := satAdd 32 s.fnc.watchFull 1 } } pFNC 0 p

/-- A wait starts to poll under a number (R460, R461): WATCH_FULL is raised when it is the first that does (R480). -/
def pollStart (s : State) (i : Nat) (w : Watch) : State :=
  watchPoll (setWatch (if (tsome s.fnc.watches).any (fun e => e.2.poll) then s else raise s pFNC 0) i (some { w with poll := true })) i

/-- A wait starts: it takes a watch slot, or polls (R455, R460, R461). -/
def watchStart (s : State) (w : Watch) : State :=
  if w.remote then pollStart s (freePoll s) w
  else match freeWatch s w.part with
    | some i => setWatch (takeUnit s uWatch i) i (some w)
    | none => pollStart (watchFullNote s w.part) (freePoll s) w

/-- FENCE_WAIT once the object's record is ready (R453, R455, R456). -/
def fenceWaitNow (s : State) (c : Cmd) : State :=
  let obj := fld (cw c 2) 23 0
  let idx := fld (cw c 2) 63 32
  match fenceCheck s c.part obj idx with
  | none => endCmd s c.q c.seq .permission
  | some g =>
    match gpaLookup s c.part g with
    | (.ok, a, node) =>
      let d := fld (cw c 4) 31 0
      watchStart s { cmd := some (c.q, c.seq), part := c.part, obj := obj, idx := idx, npa := a, node := node.getD 0,
                     remote := node.isSome, target := cw c 3, due := if d = 0 then none else some (s.bcn.count + w64 d),
                     lose := bitOf (cw c 4) 32, ctx := c.ctx }
    | (st, _, _) => endCmd s c.q c.seq st

/-- FENCE_WAIT (R453, R455, R456). -/
def fenceWait (s : State) (c : Cmd) : State := fenceAsk s c false fenceWaitNow

/-- FENCE_WAIT (R455). -/
def execFenceWait (q seq : Nat) (s : State) : Host.Outcome State Fault Refusal := .next (beginCmd s q seq 0x11 fenceWait)

/-- The ARM of a watch slot takes its place at the record: it returns VALUE and KIND, and sets the block's watch bit when KIND is
that of a fence record (R455, R456). -/
def watchArm (s : State) (i : Nat) : State :=
  match watchOf s i with
  | none => s
  | some w =>
    if w.armed || w.poll || w.armVal.isSome then s
    else
      let k := recKind s w.npa
      let t := if k = 0 then wrWord s (w.npa + 48) (setBit (rdWord s (w.npa + 48)) s.cas.pos true) else s
      setWatch t i (some { w with armed := k == 0, armVal := some (recValue s w.npa, k) })

/-- The line of a watched record of this package, while its ARM is to come. -/
def armLine (s : State) (i : Nat) : List Nat :=
  match watchOf s i with
  | none => []
  | some w => if w.armed || w.poll || w.armVal.isSome then [] else [w.npa / 128]

/-- FENCE_ARM (R455): it takes its place at the record when no cache holds the record's line (R36). -/
def execFenceArm (slot : Nat) (s : State) : Host.Outcome State Fault Refusal :=
  .next (match recAsk s kObj (armLine s slot) with
    | some u => later u (.fenceArm slot)
    | none => watchArm s slot)

/-- The answer of an ARM: the wait ends at once or its slot holds it (R455, R456). -/
def watchJudge (s : State) (i : Nat) : State :=
  match watchOf s i with
  | none => s
  | some w =>
    match w.armVal with
    | none => s
    | some (v, k) =>
      if k ≠ 0 then watchEnd s i .permission
      else if satisfied v w.target then watchEnd s i .ok
      else setWatch s i (some { w with armVal := none })

/-- FENCE_ARM_RESULT (R455). -/
def execFenceArmResult (slot : Nat) (s : State) : Host.Outcome State Fault Refusal := .next (watchJudge s slot)

/-- A notification is sampled: slots on the record whose targets the value satisfies end with OK (R457, R459). -/
def noteTake (s : State) (a : Nat) (v : Word) : State :=
  ((tsome s.fnc.watches).filter (fun e => e.2.armed && e.2.npa == a && satisfied v e.2.target)).foldl (fun t e => watchEnd t e.1 .ok) s

/-- FENCE_NOTIFICATION: the oldest notification is sampled (R457). -/
def execFenceNotification (s : State) : Host.Outcome State Fault Refusal :=
  .next (match s.fnc.notes with
    | [] => s
    | n :: t => noteTake { s with fnc := { s.fnc with notes := t } } n.1 n.2)

/-- FENCE_POLL (R460). -/
def execFencePoll (slot : Nat) (s : State) : Host.Outcome State Fault Refusal :=
  .next (match watchOf s slot with
    | some w => if w.poll && btDue s w.nextPoll.toNat then watchPoll s slot else s
    | none => s)

/-- The deadline of a wait (R102, R458): a wait that an ARM in hand satisfies does not expire. -/
def watchExpire (s : State) (i : Nat) : State :=
  match watchOf s i with
  | none => s
  | some w =>
    match w.due with
    | none => s
    | some d =>
      if !btDue s d.toNat || w.armVal.any (fun x => x.2 == 0 && satisfied x.1 w.target) ||
          (w.armed && s.fnc.notes.any (fun n => n.1 == w.npa && satisfied n.2 w.target)) then s
      else
        let t := watchEnd s i .timeout
        if w.lose && w.cmd.isSome then doom t w.ctx .timeout else t

/-- FENCE_WAIT_TIMEOUT (R458). -/
def execFenceWaitTimeout (slot : Nat) (s : State) : Host.Outcome State Fault Refusal := .next (watchExpire s slot)

/-! ## Ends of barriers and registrations -/

/-- A generation's deadline passed with lanes awaited: abandonment (R476). -/
def barExpire (s : State) (i : Nat) : State :=
  match tget s.fnc.bars i with
  | none => s
  | some b => if b.due.any (fun d => btDue s d.toNat) && b.pending != 0 then barAbandon s i b else s

/-- The line of a bound barrier's record. -/
def barLine (s : State) (i : Nat) : List Nat := (tget s.fnc.bars i).toList.map (fun b => b.npa / 128)

/-- The deadline of a barrier comes up: it takes effect when the lines it changes are the block's to change, and else in the next event
tick (R36, R476). -/
def barDeadline (s : State) (slot : Nat) : State :=
  match recAsk s kObj (barLine s slot) with
  | some u => later u (.barrierDeadline slot)
  | none => barExpire s slot

/-- BARRIER_DEADLINE (R476): the write-back of the record waits while a cache holds its line (R36). -/
def execBarrierDeadline (slot : Nat) (s : State) : Host.Outcome State Fault Refusal := .next (barDeadline s slot)

/-- The registrations of one owner drop; the loss of a context abandons a barrier that says so (R474, R475). -/
def dropOwner (s : State) (o : Nat × Option Nat) : State :=
  let own := fun (r : Reg) => r.ctx == o.1 && (o.2.isNone || r.slot == o.2)
  (tsome s.fnc.bars).foldl (fun t e =>
    match tget t.fnc.bars e.1 with
    | none => t
    | some b =>
      if o.2.isNone && b.lossAb && b.regs.any own then barAbandon t e.1 b else barDropOwner t e.1 own) s

/-- Lines of the records of barriers that the owners about to drop are registered on. -/
def dropLines (s : State) : List Nat :=
  ((tsome s.fnc.bars).filter (fun e => e.2.regs.any (fun r => s.fnc.drops.any (fun o => r.ctx == o.1 && (o.2.isNone || r.slot == o.2))))).map
    (fun e => e.2.npa / 128)

/-- REGISTRATION_DROP: the owners that ended in the last event tick (R474, R475); it waits while a cache holds the line of a record that
it writes back (R36). -/
def execRegistrationDrop (s : State) : Host.Outcome State Fault Refusal :=
  .next (match recAsk s kObj (dropLines s) with
    | some u => later u .registrationDrop
    | none => s.fnc.drops.foldl dropOwner { s with fnc := { s.fnc with drops := [] } })

end Sys2Proof.Machine
end

