-- ==== Sys2Proof/Machine/MoverCmds.lean ====
section
/-!
DEFINITION. The mover channels at work: commands taken, descriptors started, staging granted, segments run on pipes, the HALF and
FULL points, losses and resumed pauses, and the writes of their registers (R313 to R345, R365, R366, R588 to R591).
-/
namespace Sys2Proof.Machine
open Sys2Proof

/-! ## Commands -/

/-- A channel takes a MOVE or MOVE_XFM (R314 to R316). -/
def moveCmd (xfm : Bool) (s : State) (c : Cmd) : State :=
  let n := fld (cw c 3) 15 0
  if n = 0 then endCmd s c.q c.seq .ok
  else if unitFull s c then updCmd (updQ s c.q (fun k => { k with stalled := true })) c.q c.seq (fun c => { c with st := .dispatched })
  else updChan s (cChan c) (fun h => { h with fifo := h.fifo ++ [{ q := c.q, seq := c.seq, xfm := xfm, ctx := c.ctx, part := c.part,
                                                                   descVa := fld (cw c 2) 56 0, count := n }] })

/-- MOVE (R314). -/
def execMove (q seq : Nat) (s : State) : Host.Outcome State Fault Refusal := .next (beginCmd s q seq 0x01 (moveCmd false))

/-- MOVE_XFM (R314). -/
def execMoveXfm (q seq : Nat) (s : State) : Host.Outcome State Fault Refusal := .next (beginCmd s q seq 0x02 (moveCmd true))

/-! ## Translation -/

/-- Pipes that a channel may use: those of its mask that are not fenced, or every unfenced one when the mask names only fenced
pipes (R330). -/
def pipesOf (s : State) (h : Chan) : List Nat :=
  let m := if h.pipes = 0 then 0xFF else h.pipes
  let up := (List.range 8).filter (fun p => !cellFenced s (40 + p))
  let l := up.filter (fun p => m.testBit p)
  if l.isEmpty then up else l

/-! ## Descriptors -/

/-- The slot passes the latch for a partition (R366). -/
def progOk (s : State) (n p : Nat) : Bool :=
  let o := tget s.xfm.own n
  (fld o 9 0 == p || bitOf o 10) && progLen (progSlot s n) != 0 && progFieldsOk (progSlot s n)

/-- Statuses that refuse a descriptor at its start (R322, R324, R366, R58, R642), worst first; none when it runs. -/
def descStops (s : State) (f : ChanCmd) (d : Desc) : List Status :=
  let name := tget s.hom.binds ((ctxIdx s f.ctx).getD 4096)
  let xfm := f.xfm || dRnd d == 2
  (if descBad d f.xfm name then [.permission] else []) ++
  (if xfm && (!present s pXFM || fenced s pXFM) then [.unitAbsent] else if xfm && !enabled s pXFM then [.permission] else []) ++
  (if f.xfm && !progOk s (dProg d) f.part then [.permission] else [])

/-- An earlier descriptor of the command ended, or will end, with a status that is not OK (R342). -/
def moveFailed (h : Chan) (f : ChanCmd) : Bool := f.status != .ok || h.active.any (fun a => a.cmd == (f.q, f.seq) && a.status != .ok)

/-- A command of a channel changed. -/
def updMove (s : State) (ch q seq : Nat) (g : ChanCmd → ChanCmd) : State :=
  updChan s ch (fun h => { h with fifo := h.fifo.map (fun f => if f.q == q && f.seq == seq then g f else f) })

/-- A descriptor that was read starts, or is refused and moves nothing (R317, R322 to R325, R353, R365). -/
def descEnter (s : State) (ch : Nat) (f : ChanCmd) (d : Desc) (bad : Option Status) : State :=
  let stops := match bad with
    | some st => [st]
    | none => descStops s f d
  let latch := f.xfm && bad.isNone
  let refusedProg := latch && !progOk s (dProg d) f.part && present s pXFM && !fenced s pXFM
  let k := (chan s ch).nextKey
  let a : Active := { key := k, idx := f.next, cmd := (f.q, f.seq), desc := d, arr := s.mov.nextArr
                      prog := if latch && stops.isEmpty then progSlot s (dProg d) else []
                      slot := if latch && stops.isEmpty then some (dProg d) else none
                      segs := if stops.isEmpty then cutSegs d else []
                      status := stops.foldl maxStatus .ok }
  let t := updMove s ch f.q f.seq (fun f => { f with next := f.next + 1, step := if f.started then f.step else (ctxOf s f.ctx).step, started := true,
                                                     stop := f.stop || !stops.isEmpty })
  let t := updChan t ch (fun h => { h with active := h.active ++ [a], nextKey := k + 1, descRetry := 0 })
  let t := chanSettle { t with mov := { t.mov with nextArr := s.mov.nextArr + 1 } } ch
  if !refusedProg then t
  else
    let u := count { t with xfm := { t.xfm with progRefused := satAdd 32 t.xfm.progRefused 1 } } pXFM 3 f.part
    if t.xfm.progRefused = 0 then raise u pXFM 0 else u

/-- A channel reads its next descriptor through a pipe buffer, coherently, and starts it (R36, R317, R318). One whose line is poisoned has no
known fields (log entry 31). -/
def descStart (s : State) (ch : Nat) : State :=
  let h := chan s ch
  match nextMove h, pipesOf s h with
  | some f, p :: _ =>
    if 16 ≤ h.active.length ∨ h.descTok ≠ 0 ∨ h.descPark ∨ moveFailed h f ∨ !ctxLive s f.ctx then s
    else
      let x := ctxOf s f.ctx
      let va := (f.descVa + 128 * f.next) % 2 ^ 57
      match pipeLook s p x.space va 1 .read (.desc ch) with
      | (t, .fault c l g) => descFault t ch va c l g
      | (t, .wait) => t
      | (t, .ok x) =>
        match vaPlace t f.part va x with
        | .here a =>
          match ownLines t (kChan ch) [a / 128] with
          | (false, u) => u
          | (true, u) => if bytesPois u a 128 then descEnter u ch f {} (some .poison) else descEnter u ch f { words := rdWords u a 16 } none
        | .there _ _ => let (u, l) := drawWords 16 t
                        descEnter u ch f { words := l } none
        | .stop st => descEnter t ch f {} (some st)
        | _ => t
  | _, _ => s

/-- DESCRIPTOR_START (R317). -/
def execDescriptorStart (chan : Nat) (s : State) : Host.Outcome State Fault Refusal := .next (descStart s chan)

/-! ## Staging and source reads -/

/-- Bytes of the staging buffer (R328, the architecture's 4 MiB) and each owned channel's own part. -/
def stageTotal : Nat := 2 ^ 22
def stageOwn : Nat := 32768

/-- Staging bytes a channel uses, and those of them taken from the shared space. -/
def chanStage (h : Chan) : Nat := (h.active.flatMap (fun a => a.segs)).foldl (fun n g => n + g.stage) 0
def chanShared (h : Chan) : Nat := (h.active.flatMap (fun a => a.segs)).foldl (fun n g => n + g.shared) 0

/-- Shared space of the staging buffer, and what of it is used. -/
def sharedTotal (s : State) : Nat := stageTotal - stageOwn * (s.mov.chans.filter (fun e => e.2.owned)).length
def sharedUsed (s : State) : Nat := s.mov.chans.foldl (fun n e => n + chanShared e.2) 0

/-- Space for a segment: none, or the part of it that comes from the shared space (R328). -/
def stageFor (s : State) (ch size : Nat) : Option Nat :=
  let h := chan s ch
  if chanStage h - chanShared h + size ≤ stageOwn then some 0
  else if chanStage h + size ≤ 1024 * max 32 h.cap ∧ sharedUsed s + size ≤ sharedTotal s then some size
  else none

/-- A segment of the channel asked for staging before this one (R328). -/
def stageBehind (h : Chan) (k seg : Nat) : Bool :=
  h.active.any (fun a => decide (a.key < k) && a.segs.any (fun g => g.st == .wait)) ||
  h.active.any (fun a => a.key == k && (a.segs.take seg).any (fun g => g.st == .wait))

/-- The first segment of a channel that waits for staging space, with its descriptor. -/
def stageNext (h : Chan) : Option (Active × Seg) := h.active.findSome? (fun a => (a.segs.find? (fun g => g.st == .wait)).map (fun g => (a, g)))

/-- A channel's next segment, of a descriptor that started before the one numbered arr, waits for shared space that its STAGE_CAP allows it
(R317, R328). -/
def sharedWaits (h : Chan) (arr : Nat) (live : Nat → Bool) : Bool :=
  match stageNext h with
  | none => false
  | some (a, g) =>
    let size := segStage a.desc g
    decide (a.arr < arr) && (!dOrder a.desc || h.active.head?.map (fun x => x.key) == some a.key) &&
    (h.fifo.find? (fun f => (f.q, f.seq) == a.cmd)).any (fun f => live f.ctx) &&
    decide (stageOwn < chanStage h - chanShared h + size) && decide (chanStage h + size ≤ 1024 * max 32 h.cap)

/-- A grant of sh bytes of shared space has to wait: a segment of another channel that arrived earlier waits for the shared space (R328). -/
def sharedBehind (s : State) (ch arr sh : Nat) : Bool := sh != 0 && s.mov.chans.any (fun e => e.1 != ch && sharedWaits e.2 arr (ctxLive s))

/-- The read of one source line of a segment (R326). -/
def srcReq (s : State) (ch k seg i : Nat) (f : ChanCmd) (va : Nat) (e : Xlat) : HomeReq :=
  { op := .rdOnce, agent := 32 + s.cas.pos, origin := .mover ch k seg, tag := 2 * i, part := f.part, line := xAddr e (va * 128) / 128,
    ctx := some f.ctx, stamp := s.bcn.count, et := s.clk.et, va := va * 128 }

/-- The lines of a run of a segment's source are read under one translation, or given to a status (R175, R326). -/
def readLines (s : State) (ch k seg : Nat) (f : ChanCmd) (e : Xlat) (l : List (Nat × Nat)) : State :=
  l.foldl (fun t x =>
    let u := updSeg t ch k seg (fun q => { q with reads := lmod q.reads x.1 (fun r => { r with st := 1, token := 0 }) })
    routeReq u (srcReq u ch k seg x.1 f x.2 e) e) s

/-- A burst of a segment's source, its unissued lines with their indexes, is translated and read, held, or given up (R169, R170, R176,
R318, R326). -/
def readBurst (s : State) (ch k seg : Nat) (f : ChanCmd) (pipe : Nat) (l : List (Nat × Nat)) : State :=
  match l with
  | [] => s
  | (_, va) :: _ =>
    match pipeLook s pipe (ctxOf s f.ctx).space (va * 128) l.length .read (.src ch k seg) with
    | (t, .ok e) => readLines t ch k seg f e l
    | (t, .wait) => t
    | (t, .fault c lv g) => srcFault t ch k seg (va * 128) c lv g

/-- Lines with their indexes in bursts: runs of consecutive lines in one 16 KiB block (R169). -/
def lineBursts : List (Nat × Nat) → List (List (Nat × Nat))
  | [] => []
  | x :: t => match lineBursts t with
    | (y :: b) :: r => if y.2 = x.2 + 1 ∧ burstBlock (y.2 * 128) = burstBlock (x.2 * 128) then (x :: y :: b) :: r else [x] :: (y :: b) :: r
    | r => [x] :: r

/-- The source lines of a segment that have not issued are read (R326). -/
def readSeg (s : State) (ch k seg : Nat) (f : ChanCmd) (g : Seg) : State :=
  match pipesOf s (chan s ch) with
  | [] => s
  | p :: _ =>
    let l := ((List.range g.reads.length).filter (fun i => (g.reads.getD i {}).st == 0)).map (fun i => (i, (g.reads.getD i {}).va))
    chanSettle ((lineBursts l).foldl (fun t b => readBurst t ch k seg f p b) s) ch

/-- Staging space is granted to a segment and its source is read; a segment whose reads wait for a hold to end reads on (R317,
R326, R328). -/
def stageGrant (s : State) (ch k seg : Nat) : State :=
  match activeOf s ch k with
  | none => s
  | some (a, f) =>
    match a.segs[seg]? with
    | none => s
    | some g =>
      let first := (chan s ch).active.head?.map (fun x => x.key) == some k
      if !ctxLive s f.ctx then s
      else if g.st == .wait then
        if (dOrder a.desc && !first) || stageBehind (chan s ch) k seg then s
        else match stageFor s ch (segStage a.desc g) with
          | none => s
          | some sh =>
            if sharedBehind s ch a.arr sh then s else
            let g' := { g with st := .staged, stage := segStage a.desc g, shared := sh, reads := (segLines a.desc g).map (fun l => { va := l }) }
            readSeg (updSeg s ch k seg (fun _ => g')) ch k seg f g'
      else if g.st == .staged then readSeg s ch k seg f g
      else s

/-- SEGMENT_STAGE_GRANT (R328). -/
def execSegmentStageGrant (chan desc seg : Nat) (s : State) : Host.Outcome State Fault Refusal := .next (stageGrant s chan desc seg)

/-! ## Segments on a pipe -/

/-- A destination line with where it goes: issued under a translation, or dropped with the loss of its context (R176). -/
abbrev DstLine := (Nat × LineData × LineMask × Nat)

/-- The bursts of a segment's destination are translated in order: the translations found, or none when one of them waits or faults
(R169, R170, R175, R176). -/
def dstLook (s : State) (ch k seg : Nat) (f : ChanCmd) (pipe : Nat) (acc : Access) : List (List (Nat × Nat)) → State × Option (List (Nat × Xlat))
  | [] => (s, some [])
  | b :: t =>
    let va := (b.headD (0, 0)).2
    match pipeLook s pipe (ctxOf s f.ctx).space (va * 128) b.length acc (.dst ch k seg) with
    | (u, .ok x) =>
      let (v, xs) := dstLook u ch k seg f pipe acc t
      (v, xs.map (fun l => b.map (fun e => (e.2, x)) ++ l))
    | (u, .wait) => ((dstLook u ch k seg f pipe acc t).1, none)
    | (u, .fault c lv g) => ((dstLook (dstFault u ch k seg (va * 128) c lv g acc) ch k seg f pipe acc t).1, none)

/-- The request of one destination line (R336, R337). -/
def dstReq (s : State) (ch k seg j : Nat) (f : ChanCmd) (d : Desc) (isScale : Bool) (x : Xlat) (l : DstLine) : HomeReq :=
  let full := l.2.2.1 == BitVec.allOnes 128
  let red := dRed d
  let op : HomeOp := if red ≠ 0 ∧ !isScale then .atomic ((7 + red) * 16 + dRedFmt d)
    else if full then (if dStash d ≠ 0 ∧ !isScale then .wrStash else .wrFull) else .wrPart
  { op := attrOp x.attr op, agent := 32 + s.cas.pos, origin := .mover ch k seg, tag := 2 * j + 1, part := f.part,
    line := xAddr x (l.1 * 128) / 128, data := l.2.1, mask := l.2.2.1, poison := l.2.2.2, stash := if isScale then 0 else dStash d,
    ctx := some f.ctx, stamp := s.bcn.count, et := s.clk.et, va := l.1 * 128,
    contrib := if red = 4 then some (fld (dw d 7) 15 0, fld (dw d 7) 23 16, fld (dw d 7) 43 24) else none }

/-- The number U of an element and a site, from the translation of the element's destination (R352, R354). -/
def elemU (s : State) (d : Desc) (f : ChanCmd) (g : Seg) (xs : List (Nat × Xlat)) (i site : Nat) : Nat :=
  let bit := (dstRange d g).1 * 8 + i * dWd d
  match xs.find? (fun e => e.1 == bit / 1024) with
  | none => 0
  | some (_, x) => keyedU (dw d 15) f.step (if x.glob then x.node else fld s.cas.nodeId 15 0) (xAddr x (bit / 8) * 8 + bit % 8) site

/-- Elements of a MOVE_XFM under CONV 0, for which no format says what the program reads: free values (log entry 30). -/
def freeElems (s : State) (d : Desc) (g : Seg) : SegOut :=
  { elems := (List.range g.n).map (fun i => ((Config.freeWord (s.free + i)).toNat % 2 ^ dWd d, (segElem g (srcRange d g).1 (dWs d) i).2)) }

/-- Chunks that a poison mask names. -/
def chunks (p : Nat) : Nat := ((List.range 8).filter (fun i => p.testBit i)).length

/-- Destination chunks written with POISON count (R341, R345). -/
def poisonOut (s : State) (p n : Nat) : State :=
  if n = 0 then s
  else
    let t := count { s with mov := { s.mov with poisonOut := satAdd 32 s.mov.poisonOut n } } pMOV 3 p 0xFFF n
    if s.mov.poisonOut = 0 then raise t pMOV 3 else t

/-- Partial lines of a descriptor with a stash target count (R336). -/
def stashPartial (s : State) (p n : Nat) : State :=
  if n = 0 then s else count { s with mov := { s.mov with stashPartial := satAdd 32 s.mov.stashPartial n } } pMOV 2 p 0xFFF n

/-- A segment whose source has arrived is converted and written, but for lines that an answer without data leaves without a value (R326,
R332 to R337, R341, R354). -/
def runSeg (s : State) (ch k seg pipe : Nat) : State :=
  match activeOf s ch k with
  | none => s
  | some (a, f) =>
    match a.segs[seg]? with
    | none => s
    | some g =>
      let d := a.desc
      let dr := dstRange d g
      let acc := if dRed d ≠ 0 then Access.atomic else .write
      let sr := (scaleRange d g)
      let lines := (rangeTouch dr ++ if dMxDst d then rangeTouch sr else []).dedup
      match dstLook s ch k seg f pipe acc (lineBursts (lines.map (fun l => (0, l)))) with
      | (t, none) => t
      | (t, some xs) =>
        let o := if f.xfm && !dConv d then freeElems t d g else convertSeg d a.prog g (elemU t d f g xs)
        let t := if f.xfm && !dConv d then { t with free := t.free + g.n } else countCv t o.cnt
        let (lost, lostSc) := lostLines d g
        let data := (packLines dr.1 (dWd d) o.elems).filter (fun l => !lost.contains l.1)
        let all := data.map (fun l => (false, l)) ++ ((packLines sr.1 8 o.scales).filter (fun l => !lostSc.contains l.1)).map (fun l => (true, l))
        let rs := (List.range all.length).filterMap (fun j =>
          let e := all.getD j (false, (0, 0, 0, 0))
          (xs.find? (fun y => y.1 == e.2.1)).map (fun y => (dstReq t ch k seg j f d e.1 y.2 e.2, y.2)))
        let part := (data.filter (fun l => dStash d != 0 && l.2.2.1 != BitVec.allOnes 128)).length
        let t := updSeg t ch k seg (fun q => { q with st := .written, pipe := pipe, held := [], retry := [], out := rs.map (fun r => r.1.tag) })
        let t := chanSettle t ch
        let t := stashPartial (poisonOut t f.part ((all.map (fun e => chunks e.2.2.2.2)).foldl (fun n m => n + m) 0)) f.part part
        rs.foldl (fun u r => routeReq u r.1 r.2) (tenant t f.part 6 data.length)

/-- A segment is ready for a pipe: its source has arrived and nothing holds it. -/
def segReady (g : Seg) : Bool := g.st == .staged && g.reads.all (fun l => l.st == 2) && g.held.isEmpty

/-- The oldest ready segment of a channel: descriptor number and segment. -/
def readySeg (h : Chan) : Option (Nat × Nat) :=
  h.active.findSome? (fun a => ((List.range a.segs.length).find? (fun i => (a.segs[i]?).any segReady)).map (fun i => (a.key, i)))

/-- Context of a channel's oldest ready segment. -/
def readyCtx (h : Chan) : Option Nat :=
  match readySeg h with
  | none => none
  | some (k, _) => (h.active.find? (fun a => a.key == k)).bind (fun a =>
      (h.fifo.find? (fun f => (f.q, f.seq) == a.cmd)).map (fun f => f.ctx))

/-- Channels with a ready segment that may run on a pipe, in round-robin order from the pipe's pointer. -/
def readyChans (s : State) (pipe : Nat) : List Nat :=
  ((List.range 64).map (fun i => (tget s.mov.rr pipe + i) % 64)).filter (fun c =>
    let h := chan s c
    (readySeg h).isSome && (pipesOf s h).contains pipe)

/-- Contexts that started a segment in the window of the present count. -/
def servedNow (s : State) : List Nat := if winOver s then s.mov.servedNext else s.mov.served

/-- A context starts a segment. -/
def noteServed (s : State) (x : Nat) : State :=
  { s with mov := if winOver s then { s.mov with servedNext := setIns s.mov.servedNext x } else { s.mov with served := setIns s.mov.served x } }

/-- Class 3 (R329): the first ready channel with credit left, after new credit for all when none has any. -/
def pickWeighted (s : State) (l : List Nat) : State × Option Nat :=
  match l.find? (fun c => (chan s c).credit != 0) with
  | some c => (updChan s c (fun h => { h with credit := h.credit - 1 }), some c)
  | none =>
    match l with
    | [] => (s, none)
    | c :: _ =>
      let t := l.foldl (fun u x => updChan u x (fun h => { h with credit := max 1 h.weight })) s
      (updChan t c (fun h => { h with credit := h.credit - 1 }), some c)

/-- The numbers below n, from k on and round again. -/
def rotFrom (k n : Nat) : List Nat := (List.range n).map (fun i => (k + i) % n)

/-- The next channel of a partition, in round robin, of those that are ready for a pipe (R329). -/
def nextOf (s : State) (pipe p : Nat) (l : List Nat) : Option Nat :=
  (rotFrom (tget s.mov.rrChan (pipe * 64 + p)) 64).find? (fun c => l.contains c && (chan s c).part == p)

/-- A pipe serves a channel of a partition: the pointer over that partition's channels moves on. -/
def tookChan (s : State) (pipe p c : Nat) : State := { s with mov := { s.mov with rrChan := tset s.mov.rrChan (pipe * 64 + p) ((c + 1) % 64) } }

/-- The partition below its share whose turn it is at a pipe, with its next channel, and the pointers moved on (R329, R588). -/
def nextBelow (s : State) (pipe : Nat) (l : List Nat) : State × Option Nat :=
  match (rotFrom (tget s.mov.rrPart pipe) 64).find? (fun p => belowShare s 1 p && l.any (fun c => (chan s c).part == p)) with
  | none => (s, none)
  | some p => match nextOf s pipe p l with
    | none => (s, none)
    | some c => (tookChan { s with mov := { s.mov with rrPart := tset s.mov.rrPart pipe ((p + 1) % 64) } } pipe p c, some c)

/-- Class 2 (R329, R588, R591): the partitions below their shares in round robin, then their channels; in the last bt of the window a
context that has had no unit, at the cost of that share. -/
def pickReserved (s : State) (pipe : Nat) (l : List Nat) : State × Option Nat :=
  match nextBelow s pipe l with
  | (_, none) => (s, none)
  | (t, some c) =>
    let p := (chan s c).part
    let starved := l.find? (fun x => !belowShare s 1 (chan s x).part && !(readyCtx (chan s x)).any (fun y => (servedNow s).contains y))
    match starved with
    | some x =>
      if lastBt s then (useShare s 1 p 0 1, some x) else (useShare t 1 p 1 0, some c)
    | none => (useShare t 1 p 1 0, some c)

/-- The unsealed slot of a pipe's frame admits work under THROTTLE (R706). -/
def slotAdmits (s : State) (pipe i : Nat) : Bool :=
  (throttled s ((List.range 64).filter (fun k => !(tget s.mov.slotsNow (pipe * 64 + k)).testBit 10))).contains i

/-- The channel that a slot of a pipe serves (R329, R584, R706). -/
def pickChan (s : State) (pipe : Nat) : State × Option Nat :=
  let i := tget s.mov.frame pipe
  let w := tget s.mov.slotsNow (pipe * 64 + i)
  let l := readyChans s pipe
  if w.testBit 10 then (match nextOf s pipe (w % 1024) l with
    | some c => (tookChan s pipe (w % 1024) c, some c)
    | none => (s, none))
  else if !slotAdmits s pipe i then (s, none)
  else
    let l := l.filter (fun c => !isSealed s (chan s c).part)
    match pickReserved s pipe l with
    | (t, some c) => (t, some c)
    | (t, none) => pickWeighted t l

/-- The next slot of a pipe's frame; the slot table applies anew at the start of a frame (R344). -/
def nextSlot (s : State) (pipe : Nat) : State :=
  let i := (tget s.mov.frame pipe + 1) % 64
  let now := if i = 0 then (List.range 64).foldl (fun t k => tset t (pipe * 64 + k) (tget s.mov.slots (pipe * 64 + k))) s.mov.slotsNow
             else s.mov.slotsNow
  { s with mov := { s.mov with frame := tset s.mov.frame pipe i, slotsNow := now } }

/-- Elements per cycle of a width (the width table). -/
def widthRate (w : Nat) : Nat := min 128 (1024 / max 8 w)

/-- Cycles that a pipe needs for a segment (R331, R368). -/
def segCycles (a : Active) (g : Seg) : Nat :=
  let d := a.desc
  let n := if dSrc2 d then g.n * 2 else g.n
  if !dConv d && dWs d == dWd d then cdiv (g.n * dWs d / 8) 128
  else max (max (cdiv n (widthRate (dWs d))) (cdiv g.n (widthRate (dWd d)))) (cdiv (g.n * cdiv (progLen a.prog) 4) 32)

/-- A pipe has started a segment: it takes the slots that its cycles fill (R329). -/
def pipeTakes (s : State) (pipe ch k seg : Nat) : State :=
  match activeOf s ch k with
  | none => s
  | some (a, _) => match a.segs[seg]? with
    | none => s
    | some g => if g.st == .written then { s with mov := { s.mov with busy := tset s.mov.busy pipe (cdiv (segCycles a g) 128 - 1) } } else s

/-- One slot of a pipe; a segment that outlasts its slot goes on in the next ones, and the next choice is made when it has finished (R329). -/
def pipeSlot (s : State) (pipe : Nat) : State :=
  if 8 ≤ pipe ∨ cellFenced s (40 + pipe) ∨ fenced s pMOV then s
  else if tget s.mov.busy pipe ≠ 0 then nextSlot { s with mov := { s.mov with busy := tset s.mov.busy pipe (tget s.mov.busy pipe - 1) } } pipe
  else
    match pickChan s pipe with
    | (t, none) => nextSlot t pipe
    | (t, some c) =>
      match readySeg (chan t c) with
      | none => nextSlot t pipe
      | some (k, seg) =>
        let t := match readyCtx (chan t c) with
          | some x => noteServed t x
          | none => t
        let t := { t with mov := { t.mov with rr := tset t.mov.rr pipe ((c + 1) % 64) } }
        nextSlot (pipeTakes (runSeg t c k seg pipe) pipe c k seg) pipe

/-- PIPE_SLOT (R329). -/
def execPipeSlot (pipe : Nat) (s : State) : Host.Outcome State Fault Refusal :=
  .next (if live s then pipeSlot s pipe else s)

/-- A segment whose writes are all performed is complete; its staging space is free (R327, R328). -/
def segComplete (s : State) (ch k seg : Nat) : State :=
  match activeOf s ch k with
  | none => s
  | some (a, f) =>
    match a.segs[seg]? with
    | none => s
    | some g =>
      if g.st != .written || !g.out.isEmpty then s
      else
        let n := (dstRange a.desc g).2
        let t := updSeg s ch k seg (fun q => { q with st := .done, stage := 0, shared := 0, reads := [] })
        let t := updChan t ch (fun h => { h with bytes := satAdd 48 h.bytes n })
        count (count { t with mov := { t.mov with segTotal := satAdd 32 t.mov.segTotal 1 } } pMOV 1 f.part ch) pMOV 0 f.part ch n

/-- SEGMENT_COMPLETE (R338). -/
def execSegmentComplete (chan desc seg : Nat) (s : State) : Host.Outcome State Fault Refusal := .next (segComplete s chan desc seg)

/-! ## HALF and FULL -/

/-- Every segment of the first rows of a descriptor is complete (R338). -/
def rowsDone (a : Active) (rows : Nat) : Bool := a.segs.all (fun g => decide (rows ≤ g.row) || g.st == .done)

/-- A bit of CH_HALF, CH_FULL or CH_ERR is set, and the interrupt raised when it was 0 (R345). -/
def chBit (s : State) (old : Word) (ch irq : Nat) (f : Mov → Mov) : State :=
  let t := { s with mov := f s.mov }
  if bitOf old ch then t else raise t pMOV irq

/-- The HALF actions (R339). -/
def halfActs (s : State) (ch : Nat) (a : Active) (p : Nat) : State :=
  let d := a.desc
  let t := if bitOf (dw d 6) 14 then signalRef s p (fld (dw d 8) 23 0) (fld (dw d 8) 63 32) (dw d 9) else s
  if bitOf (dw d 6) 16 then chBit t t.mov.chHalf ch 0 (fun m => { m with chHalf := setBit m.chHalf ch true }) else t

/-- The FULL actions (R339). -/
def fullActs (s : State) (ch : Nat) (a : Active) (p : Nat) : State :=
  let d := a.desc
  let t := if bitOf (dw d 6) 15 then signalRef s p (fld (dw d 8) 23 0) (fld (dw d 8) 63 32) (dw d 10) else s
  if bitOf (dw d 6) 17 then chBit t t.mov.chFull ch 1 (fun m => { m with chFull := setBit m.chFull ch true }) else t

/-- The oldest descriptor of a channel reaches its HALF point (R338 to R340). -/
def halfPoint (s : State) (ch : Nat) : State :=
  match (chan s ch).active with
  | [] => s
  | a :: _ =>
    match activeOf s ch a.key with
    | none => s
    | some (_, f) =>
      if a.half || !rowsDone a (cdiv (dRows a.desc) 2) then s
      else
        let t := updActive s ch a.key (fun a => { a with half := true })
        if ctxLive s f.ctx then halfActs t ch a f.part else t

/-- HALF_POINT (R338). -/
def execHalfPoint (chan : Nat) (s : State) : Host.Outcome State Fault Refusal := .next (halfPoint s chan)

/-- A command of a channel whose descriptors are all done completes (R319, R341, R342, R415). -/
def moveDone (s : State) (ch : Nat) (f : ChanCmd) : State :=
  let h := chan s ch
  if (decide (f.next < f.count) && !f.stop) || h.active.any (fun a => a.cmd == (f.q, f.seq)) then s
  else
    let t := updChan s ch (fun h => { h with fifo := h.fifo.filter (fun x => !(x.q == f.q && x.seq == f.seq)) })
    if ctxLive s f.ctx then endCmd t f.q f.seq f.status (w64 f.bad) else endCmd t f.q f.seq .contextLost (w64 f.bad)

/-- The oldest descriptor of a channel reaches its FULL point, after its HALF point, and leaves (R338 to R342). -/
def fullPoint (s : State) (ch : Nat) : State :=
  match (chan s ch).active with
  | [] => s
  | a :: _ =>
    match activeOf s ch a.key with
    | none => s
    | some (_, f) =>
      if !a.segs.all (fun g => g.st == .done) then s
      else
        let s := halfPoint s ch
        let t := if ctxLive s f.ctx then fullActs s ch a f.part else s
        let t := updChan t ch (fun h => { h with active := h.active.filter (fun x => x.key != a.key) })
        let t := if a.status == .ok then t else chBit t t.mov.chErr ch 2 (fun m => { m with chErr := setBit m.chErr ch true })
        let g := fun (f : ChanCmd) => if f.status == .ok && a.status != .ok then { f with status := a.status, bad := a.idx, stop := true } else f
        moveDone (updMove t ch f.q f.seq g) ch (g f)

/-- FULL_POINT (R338). -/
def execFullPoint (chan : Nat) (s : State) : Host.Outcome State Fault Refusal := .next (fullPoint s chan)

/-! ## Losses, resumed pauses, fenced units -/

/-- A segment that has not issued its writes is discarded with its staging space (R414). -/
def segDrop (g : Seg) : Seg := if g.st == .written then g else { g with st := .done, stage := 0, shared := 0, reads := [], held := [], retry := [] }

/-- What is left of a channel when a context is lost (R343 and the answer after it, R414): unissued segments and queued commands
go, issued writes complete. -/
def chanLose (s : State) (ch c : Nat) : State :=
  let h := chan s ch
  let mine := h.fifo.filter (fun f => f.ctx == c)
  if mine.isEmpty then s
  else
    let own := fun (a : Active) => mine.any (fun f => (f.q, f.seq) == a.cmd)
    let head := (nextMove h).any (fun f => f.ctx == c)
    let t := updChan s ch (fun h => { h with active := h.active.map (fun a => if own a then { a with segs := a.segs.map segDrop } else a)
                                             fifo := h.fifo.map (fun f => if f.ctx == c then { f with stop := true } else f)
                                             descTok := if head then 0 else h.descTok, descRetry := if head then 0 else h.descRetry,
                                             descPark := h.descPark && !head })
    mine.foldl (fun u f => moveDone u ch { f with stop := true }) (chanSettle t ch)

/-- RETRY of a token: the bytes that it holds in the channels are walked again, and it is freed when all have issued (R183). -/
def moverRetry (s : State) (k : Nat) : State :=
  (List.range 64).foldl (fun t ch =>
    if !(chan t ch).paused.contains k then t
    else
      let t := updChan t ch (fun h => { h with
        descTok := if h.descTok = k then 0 else h.descTok
        descRetry := if h.descTok = k then k else h.descRetry
        active := h.active.map (fun a => { a with segs := a.segs.map (fun g => { g with
          held := g.held.filter (fun x => x != k)
          retry := if g.held.contains k then setIns g.retry k else g.retry
          reads := g.reads.map (fun l => if l.st = 3 ∧ l.token = k then { l with st := 0 } else l) }) }) })
      (chan t ch).active.foldl (fun u a =>
        match activeOf u ch a.key with
        | none => u
        | some (b, f) => (List.range b.segs.length).foldl (fun v i =>
            match b.segs[i]? with
            | some g => if g.st == .staged then readSeg v ch a.key i f g else v
            | none => v) u) t) s

/-- XFM is fenced: descriptors that need it end with UNIT_ABSENT; lines already written stay (R642). -/
def moverXfmGone (s : State) : State :=
  { s with mov := { s.mov with chans := s.mov.chans.map (fun e => (e.1, { e.2 with active := e.2.active.map (fun a =>
      if !a.prog.isEmpty || dRnd a.desc == 2 then descStatus { a with segs := a.segs.map segDrop } .unitAbsent else a) })) } }

/-- A pipe is fenced: its buffer is dropped, segments without RED run again, segments with RED end with PARTIAL (R642). -/
def moverPipeGone (s : State) (pipe : Nat) : State :=
  let t := { s with mov := { s.mov with buffers := tset s.mov.buffers pipe [], busy := tset s.mov.busy pipe 0 } }
  { t with mov := { t.mov with chans := t.mov.chans.map (fun e => (e.1, { e.2 with active := e.2.active.map (fun a =>
      let hit := fun (g : Seg) => g.st == .written && g.pipe == pipe && !g.out.isEmpty
      if !a.segs.any hit then a
      else if dRed a.desc = 0 then { a with segs := a.segs.map (fun g => if hit g then { g with st := .staged, out := [] } else g) }
      else descStatus { a with segs := a.segs.map (fun g => if hit g then { g with st := .done, out := [], stage := 0, shared := 0 } else g) } .partly) })) } }

/-! ## Registers -/

/-- A channel has work that fixes its owner (R320). -/
def chanBusy (h : Chan) : Bool := !h.fifo.isEmpty || !h.active.isEmpty || !h.paused.isEmpty

/-- CH_CTL of a channel is set, or refused (R320). -/
def chCtlPut (s : State) (ch : Nat) (v : Word) : State × Status :=
  let h := chan s ch
  if chanBusy h && (fld v 9 0 != h.part || bitOf v 10 != h.owned) then (s, .permission)
  else (updChan s ch (fun h => { h with part := fld v 9 0, owned := bitOf v 10, weight := fld v 17 14, pipes := fld v 30 23, cap := fld v 43 32 }), .ok)

/-- CH_CTL_WRITE (R320). -/
def execChCtlWrite (a : Acc) (v : Word) (s : State) : Host.Outcome State Fault Refusal :=
  .next (unitWrite s a pMOV 0x208 (fun t => match chCtlPut t t.mov.chSel v with
    | (u, .ok) => u
    | (u, st) => refuseLast u pMOV st))

/-- Sealed slots of a pipe (R330, R344). -/
def sealedSlots (t : Tbl Nat) (pipe : Nat) : Nat := ((List.range 64).filter (fun i => (tget t (pipe * 64 + i)).testBit 10)).length

/-- A write of the selected entry of the slot table (R344). -/
def slotCtlSet (s : State) (v : Word) : State :=
  let t := tset s.mov.slots s.mov.slotSel (fld v 10 0)
  if 48 < sealedSlots t (s.mov.slotSel / 64) then refuseLast s pMOV .quota else { s with mov := { s.mov with slots := t } }

/-- SLOT_CTL_WRITE (R344). -/
def execSlotCtlWrite (a : Acc) (v : Word) (s : State) : Host.Outcome State Fault Refusal :=
  .next (unitWrite s a pMOV 0x240 (fun t => slotCtlSet t v))

end Sys2Proof.Machine
end

