-- ==== Sys2Proof/Machine/Tiering.lean ====
section
/-!
DEFINITION. The tiering engine: heat, the choice of moves, TIER_MOVE, lossless and compressed moves and the pool registers
(R371 to R403).
-/
namespace Sys2Proof.Machine
open Sys2Proof

/-! ## Heat -/

/-- DECAY and SHIFT in force (TIR_CFG). -/
def tirDecay (s : State) : Nat := clamp 1 8 (fld s.tir.cfgNow 7 4)
def tirShift (s : State) : Nat := fld s.tir.cfgNow 11 8

/-- A heat entry at the end of a window (R379). -/
def heatStep (decay shift : Nat) (h : Heat) : Heat :=
  { h with
    heat := min 255 (h.heat - h.heat / 2 ^ decay + min (h.wcount / 2 ^ shift) 255)
    quiet := if h.wrote then 0 else min 0xFFFF (h.quiet + 1)
    wcount := h.wnext
    wrote := h.wroteNext
    wnext := 0
    wroteNext := false }

/-- Every tracked entry of a table at the end of a window. -/
def heatAll (decay shift : Nat) (t : Tbl Heat) : Tbl Heat :=
  t.map (fun e => if tracked e.2.st then (e.1, heatStep decay shift e.2) else e)

/-- LOW_FREE and the two heat thresholds in force (TIR_THRESH). -/
def lowFree (s : State) : Nat := fld s.tir.threshNow 31 16
def demoteHeat (s : State) : Nat := fld s.tir.threshNow 7 0
def promoteHeat (s : State) : Nat := fld s.tir.threshNow 15 8

/-- Entries of a table in ascending order of a key, equal keys in ascending index. -/
def byKey (f : Heat → Nat) (l : List (Nat × Heat)) : List (Nat × Heat) :=
  l.foldr (fun x acc => acc.takeWhile (fun y => decide (f y.2 < f x.2)) ++ x :: acc.dropWhile (fun y => decide (f y.2 < f x.2))) []

/-- Frames that an automatic demotion may choose (R380). -/
def demotable (s : State) : List (Nat × Heat) :=
  s.tir.frames.filter (fun e => e.2.st == .resident && e.2.auto && decide (e.2.heat ≤ demoteHeat s))

/-- Embers that an automatic promotion may choose (R380, R383). -/
def promotable (s : State) : List (Nat × Heat) :=
  if promoteHeat s ≤ demoteHeat s then []
  else s.tir.embers.filter (fun e => (e.2.st == .ember || e.2.st == .emberMx) && e.2.auto && decide (promoteHeat s ≤ e.2.heat))

/-- The reserve of FREE frames has run low and nothing can be demoted (R403). -/
def lowFreeNote (s : State) : State :=
  if freeFrames s < lowFree s ∧ (demotable s).isEmpty then raise s pTIR 1 else s

/-- The heat update (R379, R401). -/
def heatUpdate (s : State) : State :=
  if !heatDue s then s
  else
    let t := { s with tir := { s.tir with cfgNow := s.tir.cfg, winNow := s.tir.win, threshNow := s.tir.thresh, heatAt := s.bcn.count } }
    let d := tirDecay t
    let k := tirShift t
    lowFreeNote { t with tir := { t.tir with frames := heatAll d k t.tir.frames, embers := heatAll d k t.tir.embers, autoQ := [],
                                             autoDue := bitOf t.tir.cfgNow 0 && !bitOf t.det.mode 3 } }

/-- HEAT_UPDATE (R379). -/
def execHeatUpdate (s : State) : Host.Outcome State Fault Refusal := .next (heatUpdate s)

/-- The automatic moves chosen after a heat update (R380, R400). -/
def autoChoice (s : State) : State :=
  if !s.tir.autoDue then s
  else
    let t := { s with tir := { s.tir with autoDue := false } }
    if !enabled s pTIR || fenced s pTIR then t
    else
      let free := freeFrames s
      let down := if free < lowFree s then (byKey (fun h => h.heat) (demotable s)).map (fun e => (false, e.1)) else []
      let up := ((byKey (fun h => 255 - h.heat) (promotable s)).take (free - lowFree s)).map (fun e => (true, e.1))
      { t with tir := { t.tir with autoQ := down ++ up } }

/-- AUTO_MOVE_CHOICE (R380). -/
def execAutoMoveChoice (s : State) : Host.Outcome State Fault Refusal := .next (autoChoice s)

/-! ## Places of a page -/

/-- First line of a frame, and of a far unit. -/
def frameLine (s : State) (f : Nat) : Nat := s.tir.nearBase.toNat / 128 + f * 32768
def unitLine (s : State) (u : Nat) : Nat := s.tir.farBase.toNat / 128 + u * 4096

/-- The page of a heat entry or ember record is in a move: its frame, or its ember by first unit. -/
def inMove (s : State) (far : Bool) (i : Nat) : Bool :=
  (tsome s.tir.moves).any (fun e => (e.2.fromFar == far && e.2.src == i) || (e.2.fromFar != far && e.2.dst == i))

/-- A far unit can be taken: no unit of the ember table, of an ember or held by a Snuff (R372, R580). -/
def unitFree (s : State) (u : Nat) : Bool :=
  decide (tableUnits s ≤ u) && decide (u < s.tir.farUnits.toNat) && !s.sec.heldUnits.contains u && (emberOf s u).isNone && unitOpen s uFar u

/-- The lowest run of n free units; a lossless ember starts where a leaf can point, at a multiple of 4 MiB. -/
def takeUnits (s : State) (n : Nat) (aligned : Bool) : Option Nat :=
  (List.range (s.tir.farUnits.toNat)).find? (fun u =>
    (!aligned || (s.tir.farBase.toNat + u * 2 ^ 19) % 2 ^ 22 == 0) && (List.range n).all (fun i => unitFree s (u + i)))

/-- The lowest FREE frame. -/
def takeFrame (s : State) : Option Nat := (s.tir.frames.find? (fun e => e.2.st == .free && unitOpen s uFrame e.1)).map (fun e => e.1)

/-- An aperture slot is taken by an ember or by a move. -/
def slotTaken (s : State) (k : Nat) : Bool :=
  (emberOfSlot s k).isSome || (tsome s.tir.moves).any (fun e => e.2.lossy && !e.2.fromFar && e.2.slot == k)

/-- The lowest free aperture slot (R393). -/
def takeSlot (s : State) : Option Nat := (List.range 65536).find? (fun k => !slotTaken s k && unitOpen s uSlot k)

/-- Units of a compressed ember (R395). -/
def emberUnits (src mx : Nat) : Nat :=
  let n := 2 ^ 25 / max 1 (fmtWidth src)
  cdiv (n * fmtWidth mx / 8 + n / 32) (2 ^ 19)

/-! ## Ends of moves and of TIER_MOVE -/

/-- A state with a move changed. -/
def updTierMove (s : State) (i : Nat) (f : TierMove → TierMove) : State :=
  { s with tir := { s.tir with moves := tupd s.tir.moves i (fun m => m.map f) } }

/-- A state with a running TIER_MOVE changed. -/
def updTierCmd (s : State) (q seq : Nat) (f : TierCmd → TierCmd) : State :=
  { s with tir := { s.tir with cmds := s.tir.cmds.map (fun x => if x.q == q && x.seq == seq then f x else x) } }

/-- A TIER_MOVE whose pages are judged and whose moves have ended completes (R386, R414). -/
def closeTier (s : State) (q seq : Nat) : State :=
  match s.tir.cmds.find? (fun c => c.q == q && c.seq == seq) with
  | none => s
  | some c =>
    if c.rest ≠ 0 ∨ c.moving ≠ 0 then s
    else
      let t := { s with tir := { s.tir with cmds := s.tir.cmds.filter (fun x => !(x.q == q && x.seq == seq)) } }
      let st := if c.lost then .contextLost else if c.good = c.pages then .ok else .partly
      endCmd (updCmd t q seq (fun x => { x with fences := x.fences ++ wdFence x })) q seq st (w64 c.good)

/-- A move ends and leaves its slot; its command counts it. -/
def moveEnd (s : State) (i : Nat) (good : Bool) : State :=
  match tget s.tir.moves i with
  | none => s
  | some m =>
    let t := { s with tir := { s.tir with moves := tset s.tir.moves i none } }
    match m.cmd with
    | none => t
    | some (q, seq) =>
      closeTier (updTierCmd t q seq (fun c => { c with moving := c.moving - 1, good := c.good + b2n good })) q seq

/-- The entry that owns the page of a move: of the frame or the ember it moves from. -/
def moveEntry (s : State) (m : TierMove) : Heat := if m.fromFar then tget s.tir.embers m.src else tget s.tir.frames m.src

/-- The page of a move is now where the move leads: the entry moves there and the old place is FREE or free (R390, R393, R398). -/
def moveSettle (s : State) (m : TierMove) : State :=
  let h := moveEntry s m
  let n := { h with moves := satAdd 32 h.moves 1 }
  if m.fromFar then
    { s with tir := { s.tir with frames := tset s.tir.frames m.dst { n with st := .resident, units := 0, slot := 0 }
                                 embers := tset s.tir.embers m.src default } }
  else
    { s with tir := { s.tir with embers := tset s.tir.embers m.dst { n with st := if m.lossy then .emberMx else .ember, units := m.units, slot := m.slot }
                                 frames := tset s.tir.frames m.src { (default : Heat) with st := .free } } }

/-- The page of a move stays where it was and its destination is freed (R389). -/
def moveUnsettle (s : State) (m : TierMove) : State :=
  if m.fromFar then { s with tir := { s.tir with frames := tset s.tir.frames m.dst { (default : Heat) with st := .free } } }
  else { s with tir := { s.tir with embers := tset s.tir.embers m.dst default, frames := tupd s.tir.frames m.src (fun h => { h with st := .resident }) } }

/-- The leaf already names the destination of a move. -/
def leafMoved (m : TierMove) : Bool := m.step == .withdraw || m.step == .shown

/-- A move is abandoned: the page stays in the location that its leaf names (R389, R399, R403). -/
def abandon (s : State) (i : Nat) (m : TierMove) : State :=
  let t := if leafMoved m then moveSettle s m else moveUnsettle s m
  let t := raise (count { t with tir := { t.tir with abandoned := satAdd 32 t.tir.abandoned 1 } } pTIR 3) pTIR 0
  retry (moveEnd t i false)

/-- The page of an abandoned move leaves the engine's hands: its leaf was written by another (R390). -/
def unenrolPage (s : State) (m : TierMove) : State :=
  if m.fromFar then { s with tir := { s.tir with embers := tset s.tir.embers m.src default } }
  else { s with tir := { s.tir with frames := tset s.tir.frames m.src default } }

/-- A move has carried its page over: it is counted, by kind (TIR page). -/
def moveOk (s : State) (i : Nat) (m : TierMove) : State :=
  let t := moveSettle s m
  let t := if m.fromFar then count { t with tir := { t.tir with promoteTotal := satAdd 32 t.tir.promoteTotal 1 } } pTIR 1
    else
      let u := count { t with tir := { t.tir with demoteTotal := satAdd 32 t.tir.demoteTotal 1 } } pTIR 0
      if m.lossy then count { u with tir := { u.tir with lossyTotal := satAdd 32 u.tir.lossyTotal 1 } } pTIR 2 else u
  retry (moveEnd t i true)

/-! ## The leaf -/

/-- A stage-2 leaf of a tiered page: address, R, W and ATOM, ATTR and EMBER (R121, R390). -/
def tierLeaf (npa perm attr : Nat) (ember : Bool) : Word :=
  w64 (3 + perm * 2 ^ 3 + attr * 2 ^ 8 + b2n ember * 2 ^ 10 + npa / 2 ^ 22 * 2 ^ 22)

/-- Address of the first byte of where a move leads: a frame, units of the far pool, or an aperture slot. -/
def moveDest (s : State) (m : TierMove) : Nat :=
  if m.fromFar then frameLine s m.dst * 128
  else if m.lossy then s.tir.decodeBase.toNat + m.slot * 2 ^ 22
  else unitLine s m.dst * 128

/-- The leaf that shows the page at its destination (R390, R393, R398). -/
def shownLeaf (s : State) (m : TierMove) (h : Heat) : Word :=
  if m.lossy && !m.fromFar then tierLeaf (moveDest s m) 1 1 true
  else tierLeaf (moveDest s m) h.perm h.attr (!m.fromFar)

/-- The leaf of the page with W and ATOM cleared (R393). -/
def clampedLeaf (h : Heat) : Word := h.leafVal &&& ~~~(w64 0x30)

/-- The entry of a move's page keeps the leaf value that the engine wrote. -/
def keepLeaf (s : State) (m : TierMove) (v : Word) : State :=
  if m.fromFar then { s with tir := { s.tir with embers := tupd s.tir.embers m.src (fun h => { h with leafVal := v }) } }
  else { s with tir := { s.tir with frames := tupd s.tir.frames m.src (fun h => { h with leafVal := v }) } }

/-- The leaf is checked and rewritten and its page withdrawn, or waits for a drain or for its line to leave the caches (R36); a leaf
that another wrote abandons the move and unenrols the page (R390). -/
def rewriteLeaf (s : State) (i : Nat) (m : TierMove) (v : Word) (wait done : MoveStep) : State :=
  let h := moveEntry s m
  match recAsk s kTier [h.leaf / 128] with
  | some u => updTierMove u i (fun m => { m with step := wait })
  | none =>
  let s := ownDone s kTier
  if rdWord s h.leaf != h.leafVal then unenrolPage (abandon s i m) m
  else if 16 ≤ wdDraining s then updTierMove s i (fun m => { m with step := wait })
  else
    let t := keepLeaf (mpWrite (wrWord s h.leaf v) (h.leaf / 128) (oldLine s (h.leaf / 128))) m v
    let t := updTierMove t i (fun m => { m with step := done, wd := some s.lan.wdNext })
    wdAccept t 1 h.part h.gpa 1 (.tier i) h.part

/-! ## Copying -/

/-- A line is copied with its poison (R388, R399). -/
def copyLine (s : State) (src dst : Nat) : State := storeLine s dst (rdLine s src) (linePois s src)

/-- First line of where a lossless move leads from and to. -/
def moveFrom (s : State) (m : TierMove) : Nat := if m.fromFar then unitLine s m.src else frameLine s m.src
def moveTo (s : State) (m : TierMove) : Nat := if m.fromFar then frameLine s m.dst else unitLine s m.dst

/-- Lines of a page are copied. -/
def copyNow (s : State) (m : TierMove) (l : List Nat) : State := l.foldl (fun t k => copyLine t (moveFrom s m + k) (moveTo s m + k)) s

/-- Lines of the page are copied and their bits of the dirty map cleared (R389). Those whose data a cache holds are asked for, and
follow (R36). -/
def copyLines (s : State) (i : Nat) (m : TierMove) (l : List Nat) : State :=
  let cur := fun (k : Nat) => lineCurrent s kTier (moveFrom s m + k)
  let t := (l.filter (fun k => !cur k)).foldl (fun t k => ownAsk t kTier (moveFrom s m + k)) (copyNow s m (l.filter cur))
  updTierMove t i (fun m => { m with dirty := [], late := l.filter (fun k => !cur k) })

/-- The lines of the pass whose data had to be asked for are copied once it has come: none when no line is left (R36, R389). -/
def copyLate (s : State) (i : Nat) (m : TierMove) : Option State :=
  if m.late.isEmpty then none
  else
    let cur := fun (k : Nat) => lineCurrent s kTier (moveFrom s m + k)
    let t := (m.late.filter (fun k => !cur k)).foldl (fun t k => ownAsk t kTier (moveFrom s m + k)) (copyNow s m (m.late.filter cur))
    some (updTierMove t i (fun m => { m with late := m.late.filter (fun k => !cur k) }))

/-- Lines of the frame that a compressed demotion reads, which caches may still hold (R36). -/
def encodeLines (s : State) (m : TierMove) : List Nat := if m.step == .clamp then (List.range 32768).map (fun k => frameLine s m.src + k) else []

/-- The elements of block b of a page, with the poison of the block. -/
def pageBlock (s : State) (npa w b : Nat) : List Nat × Bool :=
  ((List.range 32).map (fun j => memBits s ((npa * 8) + (b * 32 + j) * w) w), bytesPois s (npa + b * 4 * w) (4 * w))

/-- A page encoded as a compressed ember: elements, scale bytes and counts (R356, R393). -/
def encodePage (s : State) (npa : Nat) (h : Heat) : List (Nat × Bool) × List (Nat × Bool) × CvCount :=
  let w := fmtWidth h.srcFmt
  let bs := (List.range (2 ^ 20 / max 1 w)).map (fun b =>
    let (es, p) := pageBlock s npa w b
    (mxEncode h.mxFmt (es.map (fun x => (valOf h.srcFmt x, Rnd.rne))), p))
  (bs.flatMap (fun b => b.1.2.map (fun c => (c.code, b.2))), bs.map (fun b => (b.1.1, b.2)),
   bs.foldl (fun k b => b.1.2.foldl (fun k c => k.add c) k) {})

/-- Packed lines are written to memory. -/
def putLines (s : State) (l : List (Nat × LineData × LineMask × Nat)) : State :=
  l.foldl (fun t x => mpWrite (wrLineMasked t x.1 x.2.1 x.2.2.1 x.2.2.2) x.1 (oldLine t x.1)) s

/-- The ember of a compressed demotion is written to its units (R393, R395). -/
def writeEmber (s : State) (m : TierMove) : State :=
  let h := moveEntry s m
  let (es, ss, k) := encodePage s (frameLine s m.src * 128) h
  let base := unitLine s m.dst * 128
  countCv (putLines (putLines s (packLines base (fmtWidth h.mxFmt) es)) (packLines (base + es.length * fmtWidth h.mxFmt / 8) 8 ss)) k

/-- A compressed ember is decoded into a frame (R398). -/
def decodePage (s : State) (m : TierMove) : State :=
  (List.range 32768).foldl (fun t i =>
    let (d, p) := emberLine s m.src (tget s.tir.embers m.src) i
    storeLine t (frameLine s m.dst + i) d p) s

/-! ## Starting a move -/

/-- A free move slot; automatic moves hold at most 8 (R382). -/
def moveSlot (s : State) (auto : Bool) : Option Nat :=
  if auto ∧ 8 ≤ ((tsome s.tir.moves).filter (fun e => e.2.cmd.isNone)).length then none
  else (List.range 16).find? (fun i => (tget s.tir.moves i).isNone && unitOpen s uMove i)

/-- A new move with the limits it starts with (R401). -/
def newMove (s : State) (far : Bool) (src dst : Nat) (cmd : Option (Nat × Nat)) : TierMove :=
  { fromFar := far, src := src, dst := dst, cmd := cmd, passes := clamp 1 8 (fld s.tir.cfgNow 15 12),
    switchLines := max 1 (fld s.tir.cfgNow 24 16) }

/-- A demotion takes its units and starts: compressed when asked for and possible, else lossless (R381, R388, R393, R397). -/
def startDown (s : State) (i f : Nat) (lossy : Bool) (cmd : Option (Nat × Nat)) : Option State :=
  let h := tget s.tir.frames f
  let n := emberUnits h.srcFmt h.mxFmt
  let m := newMove s false f 0 cmd
  let small := if lossy && h.lossyOk then (takeUnits s n false).bind (fun u => (takeSlot s).map (fun k => (u, k))) else none
  let put := fun (m : TierMove) =>
    { takeUnit s uMove i with tir := { s.tir with moves := tset s.tir.moves i (some m), frames := tset s.tir.frames f { h with st := .out }
                                                  embers := tset s.tir.embers m.dst { h with st := .out, units := m.units } } }
  if freeUnits s < 8 then none
  else match small with
    | some (u, k) =>
      let m := { m with dst := u, units := n, lossy := true, slot := k, step := .clampWait }
      some (rewriteLeaf (put m) i m (clampedLeaf h) .clampWait .clamp)
    | none => (takeUnits s 8 true).map (fun u =>
        let m := { m with dst := u }
        copyLines (put m) i m (List.range 32768))

/-- A promotion takes its frame and starts (R388, R398). -/
def startUp (s : State) (i k : Nat) (cmd : Option (Nat × Nat)) : Option State :=
  let h := tget s.tir.embers k
  (takeFrame s).map (fun f =>
    let m := { newMove s true k f cmd with lossy := h.st == .emberMx, units := h.units }
    let t := { takeUnit s uMove i with tir := { s.tir with moves := tset s.tir.moves i (some m)
                                                           frames := tset s.tir.frames f { h with st := .inn, units := 0, slot := 0 } } }
    if m.lossy then rewriteLeaf (decodePage t m) i m (shownLeaf t m h) .shownWait .shown
    else copyLines t i m (List.range 32768))

/-- A move starts in a slot; none and its interrupt when it finds no destination (R388, R403), and none for a partition that closes. -/
def startMove (s : State) (i : Nat) (far : Bool) (k : Nat) (lossy : Bool) (cmd : Option (Nat × Nat)) : State × Bool :=
  let p := (if far then tget s.tir.embers k else tget s.tir.frames k).part
  if (part s p).st == .closing || (part s p).st == .scrub then (s, false)
  else if far then
    match startUp s i k cmd with
    | some t => (if freeFrames s < lowFree s then lowFreeNote t else t, true)
    | none => (raise s pTIR 1, false)
  else
    match startDown s i k lossy cmd with
    | some t => (t, true)
    | none => (raise s pTIR 2, false)

/-! ## TIER_MOVE -/

/-- What a page of a TIER_MOVE asks for (R385, R387). -/
inductive PageWork where
  | skip (good : Bool)
  | wait
  | ask
  | go (far : Bool) (i : Nat)
deriving DecidableEq, Repr

/-- The place that an NPA names among the frames and embers: far, index and entry. -/
def tierPlace (s : State) (npa : Nat) : Option (Bool × Nat × Heat) :=
  match nearFrame s npa with
  | some f => some (false, f, tget s.tir.frames f)
  | none => match farUnit s npa with
    | some u => (emberOf s u).map (fun e => (true, e.1, e.2))
    | none => match apertureSlot s npa with
      | some k => (emberOfSlot s k).map (fun e => (true, e.1, e.2))
      | none => none

/-- A page is judged against a command (R385, R387). -/
def judgePage (s : State) (c : TierCmd) : State × PageWork :=
  if 2 ^ 35 ≤ c.next then (s, .skip false)
  else match walk s (some kTier) (ctxOf s c.ctx).space (c.next * 2 ^ 22) .read with
    | (t, .ask l) => (ownAsk t kTier l, .ask)
    | (t, .fault _ _ _) => (ownDone t kTier, .skip false)
    | (t, .ok x) =>
      let t := ownDone t kTier
      if (localX t x).glob then (t, .skip false)
      else match tierPlace t (xAddr x (c.next * 2 ^ 22)) with
        | none => (t, .skip false)
        | some (far, i, h) =>
          if inMove t far i then (t, .wait)
          else if !tracked h.st then (t, .skip false)
          else if far != c.promote then (t, .skip true)
          else (t, .go far i)

/-- A command has judged its next page: it ended there, or its move is about to start. -/
def pageNext (s : State) (c : TierCmd) (good moving : Bool) : State :=
  updTierCmd s c.q c.seq (fun x => { x with next := x.next + 1, rest := x.rest - 1, good := x.good + b2n good, moving := x.moving + b2n moving })

/-- The next page of the first command that has one to judge, in order of acceptance (R382, R386). -/
def tierNext (s : State) (i : Nat) : List TierCmd → Option State
  | [] => none
  | c :: r =>
    if c.rest = 0 then tierNext s i r
    else match judgePage s c with
      | (_, .wait) => tierNext s i r
      | (t, .ask) => some t
      | (t, .skip g) => some (closeTier (pageNext t c g false) c.q c.seq)
      | (t, .go far k) =>
        match startMove (pageNext t c false true) i far k c.lossy (some (c.q, c.seq)) with
        | (u, true) => some u
        | (u, false) => some (closeTier (updTierCmd u c.q c.seq (fun x => { x with moving := x.moving - 1 })) c.q c.seq)

/-- An automatic choice still holds for its entry, and its page is in no move (R387). -/
def autoFits (s : State) (far : Bool) (i : Nat) : Bool :=
  !inMove s far i && (if far then (tget s.tir.embers i).st == .ember || (tget s.tir.embers i).st == .emberMx else (tget s.tir.frames i).st == .resident)

/-- TIER_MOVE_START: the next move takes a free slot, commanded moves before automatic ones (R382, R388, R400). -/
def tierStart (s : State) : State :=
  if fenced s pTIR || !s.build.tir then s
  else
    let cmd := (moveSlot s false).bind (fun i => tierNext s i s.tir.cmds)
    match cmd with
    | some t => t
    | none =>
      if !enabled s pTIR then s
      else match moveSlot s true, s.tir.autoQ.find? (fun e => autoFits s e.1 e.2) with
        | some i, some (far, k) =>
          let t := { s with tir := { s.tir with autoQ := s.tir.autoQ.erase (far, k) } }
          (startMove t i far k (decide (fld s.tir.threshNow 47 32 ≤ (tget s.tir.frames k).quiet)) none).1
        | _, _ => s

/-- TIER_MOVE_START (R388). -/
def execTierMoveStart (s : State) : Host.Outcome State Fault Refusal := .next (tierStart s)

/-- TIER_MOVE begins (R384, R386). -/
def tierBegin (s : State) (c : Cmd) : State :=
  let n := fld (cw c 3) 31 0
  closeTier { s with tir := { s.tir with cmds := s.tir.cmds ++ [
    { q := c.q, seq := c.seq, part := c.part, ctx := c.ctx, promote := bitOf (cw c 3) 32, lossy := bitOf (cw c 3) 33,
      next := fld (cw c 2) 56 22, rest := n, pages := n }] } } c.q c.seq

/-- TIER_MOVE (R386). -/
def execTierMove (q seq : Nat) (s : State) : Host.Outcome State Fault Refusal := .next (beginCmd s q seq 0x28 tierBegin)

/-! ## The steps of a move -/

/-- A copy pass ends: the move switches, copies again, or is abandoned (R389, R390). -/
def passEnd (s : State) (i : Nat) (m : TierMove) : State :=
  let switch := fun (s : State) => rewriteLeaf s i m (shownLeaf s m (moveEntry s m)) .waitDrain .withdraw
  if m.step = .waitDrain then switch s
  else if m.dirty.length ≤ m.switchLines then switch s
  else if m.passes ≤ m.pass + 1 then abandon s i m
  else updTierMove (copyLines s i m m.dirty) i (fun m => { m with pass := m.pass + 1 })

/-- COPY_PASS_END (R389). -/
def execCopyPassEnd (slot : Nat) (s : State) : Host.Outcome State Fault Refusal :=
  .next (match tget s.tir.moves slot with
    | none => s
    | some m =>
      if m.lossy || !(m.step == .copy || m.step == .waitDrain) then s
      else if m.broken then abandon s slot m
      else match copyLate s slot m with
        | some u => later u (.copyPassEnd slot)
        | none => passEnd s slot m)

/-- SWITCH_FINAL_COPY (R390): the withdrawal has completed; the lines still dirty are copied and the old location is freed. -/
def execSwitchFinalCopy (slot : Nat) (s : State) : Host.Outcome State Fault Refusal :=
  .next (match tget s.tir.moves slot with
    | none => s
    | some m =>
      if m.step != .withdraw || m.wd.isSome then s
      else if m.broken then abandon s slot m
      else if m.dirty.isEmpty && m.late.isEmpty then moveOk s slot m
      else later ((copyLate s slot m).getD (copyLines s slot m m.dirty)) (.switchFinalCopy slot))

/-- The next step of a compressed demotion or promotion (R393, R398). -/
def compressStep (s : State) (i : Nat) (m : TierMove) : State :=
  let h := moveEntry s m
  match m.step with
  | .clampWait => rewriteLeaf s i m (clampedLeaf h) .clampWait .clamp
  | .clamp =>
    let t := writeEmber s m
    let t := { t with tir := { t.tir with embers := tupd t.tir.embers m.dst (fun e => { e with st := .emberMx, slot := m.slot }) } }
    rewriteLeaf t i m (shownLeaf t m h) .shownWait .shown
  | .shownWait => rewriteLeaf s i m (shownLeaf s m h) .shownWait .shown
  | .shown => moveOk s i m
  | _ => s

/-- COMPRESS_STEP (R393). -/
def execCompressStep (slot : Nat) (s : State) : Host.Outcome State Fault Refusal :=
  .next (match tget s.tir.moves slot with
    | none => s
    | some m =>
      if !m.lossy || m.wd.isSome then s
      else if m.broken then abandon s slot m
      else match linesAsk s kTier (encodeLines s m) [] with
        | some u => later u (.compressStep slot)
        | none => compressStep s slot m)

/-! ## Pool registers -/

/-- A pool register's new value, with its reserved bits zero (TIR page). -/
def poolPut (t : Tir) (off : Nat) (v : Word) : Tir :=
  match off with
  | 0x218 => { t with nearBase := v &&& mask 45 22 }
  | 0x220 => { t with nearPages := v &&& mask 16 0 }
  | 0x228 => { t with farBase := v &&& mask 45 19 }
  | 0x230 => { t with farUnits := v &&& mask 23 0 }
  | 0x238 => { t with decodeBase := v &&& mask 45 38 }
  | _ => t

/-- Some page is enrolled. -/
def anyEnrolled (s : State) : Bool :=
  s.tir.frames.any (fun e => tracked e.2.st) || s.tir.embers.any (fun e => tracked e.2.st)

/-- A write of a pool register (R371). -/
def poolSet (s : State) (off : Nat) (v : Word) : State :=
  if enabled s pTIR || anyEnrolled s then refuseLast s pTIR .permission else { s with tir := poolPut s.tir off v }

/-- POOL_REGISTER_WRITE (R371). -/
def execPoolRegisterWrite (a : Acc) (off : Nat) (v : Word) (s : State) : Host.Outcome State Fault Refusal :=
  .next (if 0x218 ≤ off ∧ off ≤ 0x238 ∧ off % 8 = 0 then unitWrite s a pTIR off (fun t => poolSet t off v) else s)

end Sys2Proof.Machine
end

