-- ==== Sys2Proof/Machine/Loss.lean ====
section
/-!
DEFINITION. The loss of a context and the end of one that is destroyed (R411, R413 to R415).
-/
namespace Sys2Proof.Machine
open Sys2Proof

/-- A dispatch ring's running instances of a context leave their slots (R414, R430). -/
def dispatchLose (q : Part) (c : Nat) : Part :=
  let l := q.dispRun.filter (fun e => e.2.1 == c && e.2.2 != 0)
  { q with dispRun := l.foldl (fun t e => tset t e.1 (0, 0)) q.dispRun, dispQ := l.foldl (fun t e => tset t e.1 0) q.dispQ,
           dispOf := l.foldl (fun t e => tset t e.1 0) q.dispOf }

/-- A command of a lost context that the table of R414 ends at once: accepted and not begun, or an ENG_DISPATCH that runs. -/
def endsAtLoss (c : Cmd) : Bool :=
  c.st == .accepted || c.st == .dispatched || (c.st == .running && cOp c == 0x08)

/-- The waits of a context on fences end (R414, R459). -/
def watchesLose (s : State) (c : Nat) : State :=
  (tsome s.fnc.watches).foldl (fun t e => if e.2.cmd.isSome && e.2.ctx == c then watchEnd t e.1 .contextLost else t) s

/-- The work of a lost context ends (R414). -/
def loseWork (s : State) (c : Nat) : State :=
  let t := { s with lmp := { s.lmp with cmds := s.lmp.cmds.map (fun x =>
    if x.ctx == c && endsAtLoss x then { x with st := .retire, status := .contextLost, result := 0 } else x) } }
  let t := updPart t (ctxOf s c).part (fun q => dispatchLose q c)
  let t := watchesLose t c
  let t := (t.tir.cmds.filter (fun x => x.ctx == c)).foldl (fun u x =>
    closeTier (updTierCmd u x.q x.seq (fun y => { y with rest := 0, lost := true })) x.q x.seq) t
  let t := (List.range 64).foldl (fun u ch => chanLose u ch c) t
  let t := burstsFail t (fun r _ => r.ctx == c) .contextLost
  let t := releaseSlotsOf t (fun x => x.bound && x.ctx == c)
  { t with fnc := { t.fnc with drops := t.fnc.drops ++ [(c, none)] } }

/-- A context whose loss was sampled is lost: LOST, or DRAINING when it is being destroyed (R411, R413). -/
def ctxLose (s : State) (c : Nat) : State :=
  let x := ctxOf s c
  match x.doomed with
  | none => s
  | some st =>
    let t := updCtx s c (fun x => { x with st := if x.killMb.isSome then .killing else .lost, cause := st, doomed := none })
    let t := { t with lmp := { t.lmp with lostTotal := satAdd 32 t.lmp.lostTotal 1 } }
    loseWork (raise (tenant (count t pLMP 1 x.part) x.part 9) pLMP 0) c

/-- CONTEXT_LOSS (R413). -/
def execContextLoss (ctx : Nat) (s : State) : Host.Outcome State Fault Refusal := .next (ctxLose s ctx)

/-- Service code of CTX_DESTROY (R500). -/
def svcCtxDestroy : Nat := 0x0031

/-- A DRAINING context has nothing more to retire: no command of it, and none to fetch (R411, R414). -/
def ctxEmpty (s : State) (c : Nat) : Bool :=
  !s.lmp.cmds.any (fun x => x.ctx == c) &&
  !s.lmp.queues.any (fun e => e.2.bound && e.2.enable && e.2.ctx == c && e.2.head != e.2.tail)

/-- A DRAINING context whose commands have all retired is FREE, and its destroy is answered (R411). -/
def ctxDrained (s : State) (c : Nat) : State :=
  let x := ctxOf s c
  if x.st != .killing || !ctxEmpty s c then s
  else
    let t := { s with
      lan := { s.lan with spaces := tupd s.lan.spaces x.space (fun y => { y with bound := y.bound - 1 }) }
      lmp := { s.lmp with queues := s.lmp.queues.map (fun e => if e.2.bound && e.2.ctx == c then (e.1, { e.2 with bound := false }) else e) } }
    let t := updCtx t c (fun _ => {})
    let t := (ctxIdx t c).elim t (fun i => noteSel t pLMP 0x240 i)
    match x.killMb with
    | some (mb, n) => reply t mb n svcCtxDestroy .ok
    | none => t

/-- CONTEXT_DRAINED (R411). -/
def execContextDrained (ctx : Nat) (s : State) : Host.Outcome State Fault Refusal := .next (ctxDrained s ctx)

end Sys2Proof.Machine
end

