-- ==== Sys2Proof/Machine/Fencing.lean ====
section
/-!
DEFINITION. Links that fail and units and cells that are fenced: what becomes of the work in flight, the rebalancing of homes and
the thresholds of RAS (R223, R250, R513, R634 to R652, R690 to R695).
-/
namespace Sys2Proof.Machine
open Sys2Proof

/-! ## A station that is gone (R250) -/

/-- Agents that a station of this block carries. -/
def stationAgents (s : State) (p : Nat) : List Nat :=
  if p = pENG then [16 + s.cas.pos] else if bitOf (linkOf s p).cfg 12 then [fld (linkOf s p).cfg 11 8] else []

/-- The request came through a station. -/
def fromStation (p : Nat) (r : HomeReq) : Bool :=
  match r.origin with
  | .host h => p == pHST0 + h
  | .eng _ _ => p == pENG
  | _ => false

/-- An interrupt message that waited for credits of a link that goes down is held back as one that the link could not carry (R29). -/
def irqKeep (s : State) : OutMsg → State
  | .intr h v p =>
    let t := updPage s p (fun q => if q.irqVec = v then { q with irqHeld := setIns q.irqHeld h } else q)
    if p = pMBX then { t with mbx := { t.mbx with boxes := t.mbx.boxes.map (fun e =>
      (e.1, if e.2.vec = v then { e.2 with irqHeld := setIns e.2.irqHeld h } else e.2)) } } else t
  | _ => s

/-- A station's link goes down, or the station is fenced (R250). -/
def stationLost (s : State) (p : Nat) : State :=
  if (linkOf s p).st = 0 then s
  else
    let t := (linkOf s p).waiting.foldl (fun u m => irqKeep u m) s
    let t := updLink t p (fun l => { l with st := 0, fdi := 0, creditTx := 0, held := [], waiting := [], owed := [], lat := [] })
    let t := if p = pENG then t else { t with pages := t.pages.map (fun e => (e.1, { e.2 with dpWait := e.2.dpWait.filter (fun x => x.acc.st + pHST0 != p) })) }
    let t := answersLose t (fromStation p) (fun o => fromStation p { origin := o })
    let t := (stationAgents t p).foldl agentLose t
    let t := reqsLose t (fromStation p) .partnerAbsent
    let t := if p = pENG then burstsFail t (fun _ _ => true) .partnerAbsent else t
    raise t p (if p = pENG then 9 else 1)

/-! ## Fences -/

/-- Sudric must compute the fingerprints again (R611). -/
def fpDirty (s : State) : State := { s with det := { s.det with fpStale := true } }

/-- An engine port is fenced (R642). -/
def portGone (s : State) (port : Nat) : State :=
  let cs := ((tsome s.eng.reqs).filter (fun e => e.2.port == port)).map (fun e => e.2.ctx)
  let t := { s with eng := { s.eng with fireflies := tset s.eng.fireflies port [], slots := s.eng.slots.filter (fun e => e.1 / 4 != port) } }
  let t := cs.foldl (fun u c => doom u c .contextLost) t
  burstsFail t (fun r b => r.port == port && b.token != 0) .contextLost

/-- A line that the homes of a slice of this block serve, those of fenced slices before it among them (R643). -/
def inSlice (s : State) (sl line : Nat) : Bool := homeOf s line == (s.cas.pos, sl)

/-- Caching agents of the cascade (R646). -/
def allCaching (s : State) : List Nat := (List.range 24).filter (isCaching s)

/-- Windows that are valid and cover a line (R646). -/
def windowsOver (s : State) (line : Nat) : List Word :=
  (s.hom.windows.filter (fun e => bitOf e.2.w0 0 && decide (fld e.2.w1 47 24 * 32768 ≤ line) &&
    decide (line < (fld e.2.w1 47 24 + fld e.2.w1 23 0) * 32768))).map (fun e => e.2.w0)

/-- The snoops of step 3 of R644 for an entry: its holders, or, for a word that cannot be read, all that it may have named (R646). -/
def rebalSnoops (s : State) (line : Nat) : List (Nat × SnpOp) :=
  let e := dirOf s line
  let bad := (s.ras.badDir.filter (fun x => x.1 == line)).map (fun x => x.2)
  let near := if bad.contains .state then allCaching s else (holders { e with remote := [] }).filter (fun a => decide (a < 64))
  let far := if bad.contains .remote then ((windowsOver s line).map (fun w => nodeAgent (fld w 42 27))).dedup else e.remote.map nodeAgent
  (near ++ far).map (fun a => (a, .backinv))

/-- Step 3 of R644 for a line: what its entry names is back-invalidated. An entry whose tag cannot be read names no line: it goes
without a snoop, as a FATAL with the slice and the set (R646). -/
def rebalLine (s : State) (line : Nat) : State :=
  if s.ras.badDir.contains (line, .tag) then
    logErr { setDir s line {} with ras := { s.ras with badDir := s.ras.badDir.filter (fun x => x.1 != line) } }
      .fatal .ok pHOM (sliceOf s line) 0x3FF (some (dirSet s line).2)
  else
    let (t, aw, later) := sendSnoops s line (32 + s.cas.pos) 0 (rebalSnoops s line)
    settle (setTxn t line (some { kind := .backinv, await := aw, later := later, old := (dirOf s line).st })) line

/-- Step 3 of R644 for every valid entry of a slice that no transaction blocks. -/
def rebalLines (s : State) (sl : Nat) : State :=
  (s.hom.dir.filter (fun e => inSlice s sl e.1 && (txnOf s e.1).isNone)).foldl (fun u e => rebalLine u e.1) s

/-- Steps 1 to 3 of R644 for a slice: requests end with POISON, the ordered reduction store is discarded, and the holders of every
valid directory entry are back-invalidated. -/
def rebalStart (s : State) (sl : Nat) : State :=
  let mine := inSlice s sl
  if 8 ≤ sl then s else
  let t := { s with ras := { s.ras with cells := setIns s.ras.cells (32 + sl), rebal := if s.ras.rebal.contains sl then s.ras.rebal else s.ras.rebal ++ [sl] } }
  let t := reqsLose t (fun r => mine r.line) .poison
  let t := (t.hom.redLines.filter (fun r => mine r.line)).foldl (fun u r =>
    updWin u r.sess r.win (fun w => { w with short := w.short + 1, last := .partly })) t
  let t := { t with hom := { t.hom with redLines := t.hom.redLines.filter (fun r => !mine r.line) } }
  let t := (t.hom.aluLines.filter mine).foldl aluBack t
  rebalLines t sl

/-- A cell is fenced (R642); a slice waits for a running rebalance (R652). -/
def fenceCell (s : State) (c : Nat) : State :=
  if cellFenced s c || (32 ≤ c && c < 40 && s.ras.rebal.contains (c - 32)) then s
  else if 32 ≤ c ∧ c < 40 then
    let t := raise s pRAS 2
    if s.ras.rebal.isEmpty then rebalStart t (c - 32) else { t with ras := { t.ras with rebal := t.ras.rebal ++ [c - 32] } }
  else
    let t := raise { s with ras := { s.ras with cells := setIns s.ras.cells c } } pRAS 2
    let t := { t with tir := { t.tir with moves := t.tir.moves.map (fun e => (e.1, e.2.map (fun m =>
      if 40 ≤ c ∧ c < 48 ∧ m.step == .copy then { m with broken := true } else m))) } }
    let t := if c < 32 then portGone t c
      else if c < 48 then moverPipeGone t (c - 40)
      else if c < 52 then casPortLost t (c - 48)
      else
        let u := updSpn t (fun n => { n with maxWidth := n.maxWidth - 8 })
        if u.spn.st == .active then spnRetrain u else u
    fpDirty t

/-- Reads outstanding at a fenced memory port return POISON, and the writes that wait for credits are not performed (R642). -/
def memPortGone (s : State) (i : Nat) : State :=
  let m := tget s.mps i
  let t := updMp (putBackAll s m.unwritten) i (fun q => { q with reads := [], queue := [], unwritten := [], en := false, ready := false })
  let t := { t with hom := { t.hom with wbuf := t.hom.wbuf.filter (fun l => !m.queue.contains (true, l)) } }
  let bad := fun (a : Answer) => match a.kind with
    | .comp => if a.status == .ok then { a with status := .poison } else a
    | _ => { a with status := if a.status == .ok then .poison else a.status, poison := 0xFF }
  m.reads.foldl (fun u r => deliverAll u (r.ans.map bad)) t

/-- The tiering engine is fenced: moves are abandoned at their next step and running TIER_MOVE commands judge no further page. -/
def tirGone (s : State) : State :=
  let t := { s with tir := { s.tir with moves := s.tir.moves.map (fun e => (e.1, e.2.map (fun m => { m with broken := true }))), autoQ := [],
                                        cmds := s.tir.cmds.map (fun c => { c with rest := 0 }) } }
  s.tir.cmds.foldl (fun u c => closeTier u c.q c.seq) t

/-- The movers are fenced: running descriptors end with UNIT_ABSENT, as those of a fenced XFM do. -/
def movGone (s : State) : State :=
  { s with mov := { s.mov with chans := s.mov.chans.map (fun e => (e.1, { e.2 with active := e.2.active.map (fun a =>
      descStatus { a with segs := a.segs.map segDrop } .unitAbsent) })) } }

/-- A unit is fenced (R59, R640, R642). -/
def fencePage (s : State) (p : Nat) : State :=
  if unfenceable p || fenced s p || !present s p then s
  else
    let t := raise (raise (dpFenced (updPage s p (fun q => { q with fence := true })) p) p 60) pRAS 2
    let t := if p = pENG then stationLost ((List.range 32).foldl portGone t) p
      else if p = pHST0 ∨ p = pHST1 then stationLost t p
      else if pNMP0 ≤ p ∧ p ≤ pNMP0 + 3 then memPortGone t (p - pNMP0)
      else if p = pSPN then routesFill (spnDown (remotesEnd t t.cas.pos .partnerAbsent)) (some .partnerAbsent)
      else if p = pXFM then moverXfmGone t
      else if p = pTIR then tirGone t
      else if p = pMOV then movGone t
      else t
    bootAdvance (fpDirty t)

/-! ## Thresholds of RAS -/

/-- RAS_CFG fields (R651). -/
def stoMax (s : State) : Nat := max 1 (fld s.ras.cfg 15 8)
def ceMax (s : State) : Nat := max 1 (fld s.ras.cfg 31 16)
def ceWinBt (s : State) : Nat := max 1 (fld s.ras.cfg 47 32)

/-- A new periodic window of CE_WIN has begun: its counts start at 0 (R105, R638, R639). -/
def rasWindow (s : State) : State :=
  if btDue s s.ras.winEnd.toNat then
    { s with ras := { s.ras with ceWin := [], stoWin := [], winEnd := w64 ((bt s / ceWinBt s + 1) * ceWinBt s) } }
  else s

/-- A station's agent let a snoop time out: too many in a window fence it (R638). -/
def stationTimeout (s : State) (p : Nat) : State :=
  let t := rasWindow s
  let k := tget t.ras.stoWin p + 1
  let t := { t with ras := { t.ras with stoWin := tset t.ras.stoWin p k } }
  if stoMax t < k ∧ !fenced t p then fencePage (logErr t .ueUnit .ok p) p else t

/-- Cells and memory ports that AUTO_FENCE may fence: engine ports, slices and mover pipes by their bit, memory ports from 64 on. -/
def ceFence (s : State) (k page : Nat) : State := if k < 48 then fenceCell s k else if 64 ≤ k then fencePage s page else s

/-- A corrected error of a cell or memory port (R639). -/
def ceReport (s : State) (page k : Nat) : State :=
  let t := rasWindow s
  let n := tget t.ras.ceWin k + 1
  let t := { t with ras := { t.ras with ceWin := tset t.ras.ceWin k n } }
  if n = ceMax t + 1 then
    let u := logErr t .ueUnit .ok page (if k < 64 then k else k - 64)
    if bitOf u.ras.cfg 0 then ceFence u k page else u
  else if ceMax t < n ∧ bitOf t.ras.cfg 0 then ceFence t k page
  else t

/-- A word that the scrub found in error (R634, R635, R639, R641). -/
def scrubErr (s : State) (e : ScrubErr) : State :=
  let idx := e.cell.getD 0
  let key := match e.cell with
    | some c => some c
    | none => if pNMP0 ≤ e.page ∧ e.page ≤ pNMP0 + 3 then some (64 + e.page - pNMP0) else none
  if !e.uncorr then
    let t := logErr s .ce .ok e.page idx
    match key with
    | some k => if k < 48 ∨ 64 ≤ k then ceReport t e.page k else t
    | none => t
  else match e.data with
    | some (line, chunks) =>
      logErr { s with memPois := setPois s.memPois line chunks 0xFF } .ueData .ok e.page idx ((layoutOwner s (line * 128)).getD 0) (some (line * 128))
    | none => match e.cell with
      | some c => fenceCell (logErr { s with ras := { s.ras with badDir := s.ras.badDir ++ e.dir.toList } } .ueUnit .ok e.page idx) c
      | none => if unfenceable e.page then logErr s .fatal .ok e.page else fencePage (logErr s .ueUnit .ok e.page) e.page

/-- PATROL_SCRUB (R635). -/
def execPatrolScrub (errs : List ScrubErr) (s : State) : Host.Outcome State Fault Refusal :=
  .next (if live s then errs.foldl scrubErr s else s)

/-- Cells of a kind, and the first bit of the kind in the disabled-unit map (R647, R652). -/
def cellKind (s : State) : Nat → Option (Nat × Nat)
  | 0 => some (0, s.build.ports)
  | 1 => some (32, 8)
  | 2 => some (40, 8)
  | 3 => some (48, 4)
  | 4 => some (52, if s.build.spn then 4 else 0)
  | _ => none

/-- A write of FENCE_CELL (R652). -/
def fenceCellSet (s : State) (v : Word) : State :=
  match cellKind s (fld v 2 0) with
  | some (b, n) => if fld v 12 8 < n then fenceCell s (b + fld v 12 8) else refuseLast s pRAS .permission
  | none => refuseLast s pRAS .permission

/-- FENCE_CELL_WRITE (R652). -/
def execFenceCellWrite (a : Acc) (v : Word) (s : State) : Host.Outcome State Fault Refusal :=
  .next (unitWrite s a pRAS 0x220 (fun t => fenceCellSet t v))

/-- The last answer of a rebalance is in: no line of the slice has an entry or an open transaction (R644). The slices of a block that is
gone are out of reach, and nothing of them is awaited. -/
def rebalDone (s : State) (sl : Nat) : Bool :=
  decide (8 ≤ sl) || !s.hom.dir.any (fun e => inSlice s sl e.1) && !(tsome s.hom.txns).any (fun e => inSlice s sl e.1)

/-- A line inside a window with ANY_NODE, whose remote word could not be read, is written poisoned, and its new home keeps RUNCACHED
set for it (R646). -/
def anyNodeLine (s : State) (line : Nat) : State :=
  if (windowsOver s line).any (fun w => bitOf w 26) then
    let t := storeLine s line (rdLine s line) 0xFF
    { t with ras := { t.ras with rebalKeep := setIns t.ras.rebalKeep line } }
  else s

/-- The new homes of these lines keep RUNCACHED set: those of this block, and those of others, which are told (R646). -/
def keepUncached (s : State) : State :=
  s.ras.rebalKeep.foldl (fun t l =>
    if homeHere t l then setDir t l { st := .shared 0, runcached := true } else casTo t (homeOf t l).1 5 l 16 (.runcached l))
    { s with ras := { s.ras with rebalKeep := [] } }

/-- The homes of a slice or of a lost block move to their successors: every other block of the cascade hears of a slice (R644). -/
def homesMove (s : State) (sl : Nat) : State :=
  if 8 ≤ sl then { s with ras := { s.ras with remFenced := (List.range 8).foldl (fun l i => setIns l (i * blocks s + (sl - 8))) s.ras.remFenced } }
  else ((List.range (blocks s)).filter (fun n => n != s.cas.pos)).foldl (fun t n =>
    casSend t { src := t.cas.pos, dst := n, cls := 5, load := .sliceGone (sl * blocks s + s.cas.pos) }) s

/-- Step 4 of R644, and the rebalance of the next slice that waits (R652). -/
def rebalEnd (s : State) : State :=
  match s.ras.rebal with
  | [] => s
  | sl :: rest =>
    if !rebalDone s sl then rebalLines s sl
    else
      let t := ((s.ras.badDir.filter (fun x => x.2 == .remote && inSlice s sl x.1)).map (fun x => x.1)).foldl anyNodeLine s
      let t := raise (fpDirty { t with ras := { t.ras with rebal := rest, badDir := t.ras.badDir.filter (fun x => !inSlice s sl x.1) } }) pRAS 3
      let t := keepUncached (homesMove t sl)
      let t := match rest with
        | n :: _ => rebalStart t n
        | [] => t
      retry t

/-- REBALANCE_COMPLETE (R644). -/
def execRebalanceComplete (s : State) : Host.Outcome State Fault Refusal := .next (rebalEnd s)

/-- LOG_SEL_WRITE: the record as the ring stands at the write (R649). -/
def execLogSelWrite (a : Acc) (v : Word) (s : State) : Host.Outcome State Fault Refusal :=
  .next (unitWrite s a pRAS 0x228 (fun t =>
    { t with ras := { t.ras with logSel := fld v 7 0, logShown := t.ras.log.getD (fld v 7 0) {} } }))

/-! ## Snoops that are not answered -/

/-- A snoop passes its deadline (R223): the clock moves to it (log entry 7). -/
def snoopExpire (s : State) (a line : Nat) : State :=
  match txnOf s line with
  | none => s
  | some t =>
    match t.await.find? (fun x => x.1 == a) with
    | none => s
    | some (_, _, c) =>
      let u := snoopGone (timeoutCount (advanceToTick s c) a line) a line
      match agentPage u a with
      | none => u
      | some p => stationTimeout u p

/-- SNOOP_TIMEOUT (R223). -/
def execSnoopTimeout (agent line : Nat) (s : State) : Host.Outcome State Fault Refusal := .next (snoopExpire s agent line)

/-! ## Station links -/

/-- A page or mailbox interrupt that was held back for a station is delivered if it is still pending and its vector still names the
station (R29, R486). -/
def heldIrqs (s : State) (h : Nat) : State :=
  let t := (s.pages.filter (fun e => e.2.irqHeld.contains h)).foldl (fun u e =>
    let v := updPage u e.1 (fun q => { q with irqHeld := setDel q.irqHeld h })
    if irqPend (page v e.1) ≠ 0 ∧ (vecStations (page v e.1).irqVec).contains h then emit v (.intr h (page v e.1).irqVec e.1) else v) s
  (t.mbx.boxes.filter (fun e => e.2.irqHeld.contains h)).foldl (fun u e =>
    let v := updMb u e.1 (fun q => { q with irqHeld := setDel q.irqHeld h })
    if (mbox v e.1).s2hDb &&& (mbox v e.1).s2hMask ≠ 0 ∧ (vecStations (mbox v e.1).vec).contains h then emit v (.intr h (mbox v e.1).vec pMBX) else v) t

/-- The page is one of a station link. -/
def isStation (p : Nat) : Bool := p == pENG || p == pHST0 || p == pHST1

/-- Engine FDI instances that are wired: one for four ports, without those that the integrator tied off (R687). -/
def engInstances (s : State) : Nat := ((List.range (cdiv s.build.ports 4)).filter (fun i => !s.build.engTied.contains i)).length

/-- Credits that the block advertises: 8 of each class (R239). -/
def ownCredits : Word := w64 0x080808080808

/-- STATION_LINK_UP: the adapter is up; the block sends its LINK_INIT (R236, R239). -/
def execStationLinkUp (page : Nat) (s : State) : Host.Outcome State Fault Refusal :=
  .next (if isStation page && enabled s page && !fenced s page && (linkOf s page).st == 0 then
      emit (updLink s page (fun l => { l with st := 1, fdi := if page = pENG then engInstances s else 0, creditRx := ownCredits })) (.linkInit page ownCredits)
    else s)

/-- Credits by class of a credit word, 8 bits each. -/
def creditTbl (t : Tbl Nat) (base : Nat) (v : Word) : Tbl Nat :=
  (List.range 6).foldl (fun t c => tupd t (base + c) (fun k => k + fld v (8 * c + 7) (8 * c))) t

/-- LINK_INIT of the partner: the link is active, its credits are held, and interrupts that wait for it leave (R29, R239, R249). -/
def linkInit (s : State) (p : Nat) (credits : Word) : State :=
  if !isStation p || !enabled s p || fenced s p || (linkOf s p).st != 1 then s
  else
    let t := updLink s p (fun l => { l with st := 2, creditTx := credits, held := creditTbl [] 0 credits })
    let t := raise t p (if p = pENG then 8 else 0)
    bootAdvance (if p = pENG then t else heldIrqs t (p - pHST0))

/-- LINK_INIT (R239). -/
def execLinkInit (page : Nat) (credits : Word) (s : State) : Host.Outcome State Fault Refusal := .next (linkInit s page credits)

/-- STATION_LINK_DOWN (R250). -/
def execStationLinkDown (page : Nat) (s : State) : Host.Outcome State Fault Refusal :=
  .next (if isStation page then stationLost s page else s)

/-- Header operations that the package protocol defines, by class (R238, R244). -/
def headKnown (cls op : Nat) : Bool :=
  match cls with
  | 0 => decide (op ≤ 7) || op == 0x10 || op == 0x11
  | 1 => decide (op ≤ 1)
  | 2 => decide (op ≤ 5)
  | 3 => decide (op ≤ 4)
  | 4 => decide (op ≤ 6)
  | 5 => decide (op ≤ 4)
  | _ => false

/-- A header whose CLASS or OP is reserved: the message is discarded, counted and recorded, and the station's interrupt is raised
(R238, R249). -/
def badHead (s : State) (p fdi : Nat) (h : Nat × Nat) : State :=
  if headKnown (h.1 % 8) (h.2 % 32) then s
  else
    let t := updLink s p (fun l => { l with protoErr := satAdd 32 l.protoErr 1, protoLog := pack [(0, h.1 % 8), (3, h.2 % 32), (8, fdi % 256)] })
    raise t p (if p = pENG then 11 else 3)

/-- FLIT_CREDIT_RETURN: credits of a station link, or of a port and pool of the cascade (R239, R510). A flit of a station's partner may
carry headers that the protocol reserves: port is then its FDI instance (R238). -/
def execFlitCreditReturn (page : Nat) (port : Nat) (credits : FlitHead) (s : State) : Host.Outcome State Fault Refusal :=
  .next (if isStation page then
      if (linkOf s page).st = 2 then
        credits.heads.foldl (fun t h => badHead t page port h) (linkRelease (updLink s page (fun l => { l with held := creditTbl l.held 0 credits.credits })) page)
      else s
    else if page = pCAS ∧ port < 16 then
      casRelease { s with cas := { s.cas with credits := creditTbl s.cas.credits (port % 4 * 24 + port / 4 * 6) credits.credits } }
    else s)

/-! ## Memory ports -/

/-- Requests that wait at a memory port leave as far as the credits go (R690). -/
def mpRelease (s : State) (i : Nat) : Nat → State
  | 0 => s
  | n + 1 =>
    let m := tget s.mps i
    match m.queue with
    | [] => s
    | (wr, x) :: r =>
      if m.cmdCr = 0 ∨ m.lineCr = 0 then s
      else
        let line := if wr then x else ((m.reads.find? (fun d => d.tag == x)).map (fun d => d.line)).getD 0
        let t := if wr then updMp { s with hom := { s.hom with wbuf := s.hom.wbuf.erase x } } i (fun q =>
          { q with unwritten := q.unwritten.eraseP (fun o => o.line == x) }) else s
        mpRelease (emit (updMp t i (fun q => { q with queue := r, cmdCr := q.cmdCr - 1, lineCr := q.lineCr - 1 })) (.mem i wr (if wr then 0 else x) line)) i n

/-- Lanes of a memory port: W (R690). -/
def mpLanes (i : Nat) : Nat := if i < 2 then 8 else 1

/-- MP_CREDIT_RETURN (R690). -/
def execMpCreditReturn (port cmds lines : Nat) (s : State) : Host.Outcome State Fault Refusal :=
  .next (if port < 4 && (tget s.mps port).en then
      let t := updMp s port (fun q => { q with cmdCr := q.cmdCr + min cmds 15, lineCr := q.lineCr + min lines (mpLanes port) })
      mpRelease t port (tget t.mps port).queue.length
    else s)

/-- Read data comes back with its poison, and what waits for it is answered (R637, R691, R694). -/
def memResponse (s : State) (i tag pois : Nat) : State :=
  let m := tget s.mps i
  match m.reads.find? (fun d => d.tag == tag) with
  | none => s
  | some d =>
    if m.queue.contains (false, tag) then s
    else
      let t := updMp s i (fun q => { q with reads := q.reads.erase d })
      let bad := fun (a : Answer) => match a.kind with
        | .comp => a
        | _ => { a with status := if a.status == .ok then .poison else a.status, poison := a.poison ||| pois % 256 }
      if (pois % 256) ||| d.pois = 0 then deliverAll t d.ans
      else
        let t := count (updMp t i (fun q => { q with poisonRd := satAdd 32 q.poisonRd 1 })) (pNMP0 + i) 0
        let t := if m.poisonRd = 0 then raise t (pNMP0 + i) 2 else t
        let t := logErr t .ueData .poison (pNMP0 + i) i ((layoutOwner t (d.line * 128)).getD 0) (some (d.line * 128))
        deliverAll t (if pois % 256 = 0 then d.ans else d.ans.map bad)

/-- MEMORY_RESPONSE (R691). -/
def execMemoryResponse (port tag : Nat) (poison : Nat) (s : State) : Host.Outcome State Fault Refusal :=
  .next (if port < 4 then memResponse s port tag poison else s)

/-- MP_CFG[TIMEOUT] with its limit. -/
def mpTimeout (s : State) (i : Nat) : Nat := max 4096 (fld (tget s.mps i).cfg 23 0)

/-- MEMORY_READ_TIMEOUT: the port is fenced as a UE_UNIT (R693); the clock moves to the deadline (log entry 7). -/
def execMemoryReadTimeout (port tag : Nat) (s : State) : Host.Outcome State Fault Refusal :=
  .next (match (tget s.mps port).reads.find? (fun d => d.tag == tag) with
    | some d =>
      if 4 ≤ port || (tget s.mps port).queue.contains (false, tag) then s
      else
        let t := raise (advanceToTick s (d.cyc + mpTimeout s port)) (pNMP0 + port) 1
        fencePage (logErr t .ueUnit .ok (pNMP0 + port) port) (pNMP0 + port)
    | none => s)

/-- MP_READY_RISE: the port may carry requests (R676, R695, R696). -/
def execMpReadyRise (port : Nat) (s : State) : Host.Outcome State Fault Refusal :=
  .next (let m := tget s.mps port
    if 4 ≤ port || !m.present || !m.en || m.ready || fenced s (pNMP0 + port) then s
    else bootAdvance (retry (raise (updMp s port (fun q => { q with ready := true })) (pNMP0 + port) 0)))

/-- MP_READY_FALL: the port is fenced (R695). -/
def execMpReadyFall (port : Nat) (s : State) : Host.Outcome State Fault Refusal :=
  .next (let m := tget s.mps port
    if 4 ≤ port || !m.en || !m.ready then s else fencePage (logErr s .ueUnit .ok (pNMP0 + port) port) (pNMP0 + port))

/-- MEM_WAIT_EXPIRE: memory ports whose controllers are not ready are fenced and gate the start no more (R676). -/
def execMemWaitExpire (s : State) : Host.Outcome State Fault Refusal :=
  .next (if !s.boot.running || s.boot.memWait = 0 || s.boot.stage < 5 || 9 ≤ s.boot.stage || !btDue s (s.boot.step6Count + w64 s.boot.memWait).toNat then s
    else
      let late := memPages.filter (fun p => present s p && (tget s.mps (p - pNMP0)).present && !fenced s p && !linkUp s p)
      bootAdvance (late.foldl (fun t p => fencePage { t with boot := { t.boot with ungated := setIns t.boot.ungated p } } p) s))

/-- STATION_BRINGUP_TIMEOUT: a station whose link is not active within 40,000,000 cyc of step 6 gates the start no more (R675). -/
def execStationBringupTimeout (page : Nat) (s : State) : Host.Outcome State Fault Refusal :=
  .next (if !s.boot.running || !isStation page || linkUp s page || s.boot.stage < 5 || 9 ≤ s.boot.stage then s
    else bootAdvance (advanceTo { s with boot := { s.boot with ungated := setIns s.boot.ungated page } } (s.boot.step6Cyc + 40000000)))

end Sys2Proof.Machine
end

