-- ==== Sys2Proof/Machine/BcnCmds.lean ====
section
/-!
DEFINITION. Writes of the BCN registers (R89, R115, R116).
-/
namespace Sys2Proof.Machine
open Sys2Proof

/-- BCN_CFG is set, or refused with a status (R115). A change of SRC waits for the next counted tick (R116). -/
def bcnCfgSet (s : State) (v : Word) : State × Status :=
  let src := fld v 1 0
  if src = 1 ∧ !present s pSPN then (s, .unitAbsent)
  else if src = 1 ∧ !s.cas.master then (s, .permission)
  else if 2 ≤ src ∨ 5 < fld v 6 4 then (s, .permission)
  else
    let w := v &&& w64 0xFF0077
    (updBcn s (fun b => { b with cfg := setFld w 1 0 (fld b.cfg 1 0), cfgNext := if src = fld b.cfg 1 0 then none else some w }), .ok)

/-- BCN_PERIOD is set from the next counted tick, or refused (R89, R116). -/
def bcnPeriodSet (s : State) (v : Word) : State × Status :=
  let p := fld v 19 0
  let w := fld v 35 20
  if p < 300 ∨ 35200 < p ∨ p / 4 < w then (s, .permission)
  else (updBcn s (fun b => { b with periodNext := some (v &&& mask 35 0) }), .ok)

/-- A register action with a status of its own: LAST takes it (PG_STAT[LAST]). -/
def withLast (p : Nat) (r : State × Status) : State := setLast r.1 p r.2

/-- BCN_CFG_WRITE (R75, R115). -/
def execBcnCfgWrite (a : Acc) (v : Word) (s : State) : Host.Outcome State Fault Refusal :=
  .next (unitWrite s a pBCN 0x200 (fun t => withLast pBCN (bcnCfgSet t v)))

/-- BCN_PERIOD_WRITE (R75, R89). -/
def execBcnPeriodWrite (a : Acc) (v : Word) (s : State) : Host.Outcome State Fault Refusal :=
  .next (unitWrite s a pBCN 0x208 (fun t => withLast pBCN (bcnPeriodSet t v)))

end Sys2Proof.Machine
end

