-- ==== Sys2Proof/Machine/Tick.lean ====
section
/-!
DEFINITION. The passing of an event tick (R97): what happens at every tick whatever is commanded. General counters and raw
tenant counts add the tick's events at rank 7 (R625, R631), and settings that apply from the next event tick take hold
(R626, R628, R632).
-/
namespace Sys2Proof.Machine
open Sys2Proof

/-- Events of a tick that a general counter configured by a word adds (R625). -/
def cntAdds (cfg : Word) (l : List CntEvent) : Nat :=
  (l.filter (fun e =>
    e.page != 64 && decide (e.page * 64 + e.ev = fld cfg 11 0) &&
    (!bitOf cfg 14 || e.inst == fld cfg 39 32) && (!bitOf cfg 13 || e.part == fld cfg 25 16))).foldl (fun n e => n + e.n) 0

/-- The additions of rank 7 to one general counter, with its wrap (R625, R627). -/
def cntAdd (s : State) (i : Nat) (l : List CntEvent) : State :=
  let cfg := tget s.cnt.cfgsNow i
  if !bitOf cfg 12 then s else
  let n := tget s.cnt.vals i + cntAdds cfg l
  let t := { s with cnt := { s.cnt with vals := tset s.cnt.vals i (n % 2 ^ 48) } }
  if n < 2 ^ 48 then t
  else
    let had := bitOf t.cnt.ovf i
    let t := { t with cnt := { t.cnt with ovf := setBit t.cnt.ovf i true } }
    if had then t else raise t pCNT 0

/-- The raw counts of a partition gain the tick's events of their sources (R631). -/
def tenAdd (p : Nat) (q : Part) (l : List CntEvent) : Part :=
  { q with tc := q.tc.map (fun e =>
      let n := (l.filter (fun x => x.page == 64 && x.part == p && x.ev == e.2.srcNow && e.2.srcNow != 0)).foldl (fun n x => n + x.n) 0
      (e.1, { e.2 with raw := (e.2.raw + n) % 2 ^ 64, srcNow := e.2.src })) }

/-- Throttle bin of a level (R582, R706). -/
def throttleBin (l : Nat) : Nat := if l = 0 then 0 else if l ≤ 2 then 1 else if l ≤ 4 then 2 else 3

/-- TC_VAL, TC_PUB and TC_THROTTLE of a partition at a publication (R631): sealed slots are kept at every level (R706). -/
def publishPart (s : State) (p : Nat) : State :=
  updPart s p (fun q => { q with
    tc := q.tc.map (fun e => (e.1, { e.2 with val := e.2.raw / 1024 * 1024 }))
    tcPub := s.bcn.count
    tcBin := if isSealed s p then 0 else throttleBin s.clk.throttleMax })

/-- A window of 4,096 bt has ended and is not published yet (R105, R582). -/
def pubDue (s : State) : Bool := bt s / 4096 != (part s 0).tcPub.toNat / 4096

/-- The publication of the window that has ended: of the raw counts before the additions of the event tick (R106, R582, R631). -/
def publish (s : State) : State :=
  if !pubDue s then s
  else
    let t := (List.range 64).foldl publishPart (count s pCNT 3)
    { t with clk := { t.clk with throttleMax := t.clk.throttle } }

/-- The release of an armed Kindle ends the event tick in progress in its cycle (R605). -/
def cutAt (s : State) : Option Nat :=
  if s.det.kindle = 1 then (releaseAt s).filter (fun r => decide (s.clk.tickStart < r) && decide (s.clk.cyc ≤ r) && decide (r < s.clk.tickStart + Config.tickCyc))
  else none

/-- Event ticks that pass: one, or as many as the commands before moved the clock over. -/
def ticksPassed (s : State) : Nat := (max s.clk.cyc (s.clk.tickStart + Config.tickCyc) - s.clk.tickStart) / Config.tickCyc

/-- Cycles of the event ticks that pass (R597, R605). -/
def cycPassed (s : State) : Nat := match cutAt s with
  | some r => r - s.clk.tickStart
  | none => ticksPassed s * Config.tickCyc

/-- Numbers of the entries of a table that satisfy a test, as units of a kind. -/
def unitsOf {α : Type} (kind : Nat) (t : Tbl α) (f : α → Bool) : List (Nat × Nat) := (t.filter (fun e => f e.2)).map (fun e => (kind, e.1))

/-- The aperture slots that embers and moves have taken. -/
def slotsTaken (s : State) : List (Nat × Nat) :=
  (s.tir.embers.filterMap (fun e => if e.2.st == .emberMx then some (uSlot, e.2.slot) else none)) ++
  ((tsome s.tir.moves).filter (fun e => e.2.lossy && !e.2.fromFar)).map (fun e => (uSlot, e.2.slot))

/-- The lines that the ordered reduction stores of the slices hold. -/
def redPools (s : State) : List (Nat × Nat) :=
  ((s.hom.redLines.map (fun l => sliceOf s l.line)).dedup).map (fun sl => (uRed + sl, redUsed s sl))

/-- The pooled units in use (R656). -/
def unitsInUse (s : State) : List (Nat × Nat) :=
  unitsOf uWatch s.fnc.watches Option.isSome ++ unitsOf uCtx s.lmp.ctxs (fun x => x.st != .free) ++
  unitsOf uQueue s.lmp.queues (fun q => q.enable || q.bound) ++ s.lmp.cmds.map (fun c => (uQueue, c.q)) ++ unitsOf uSpace s.lan.spaces (fun x => x.taken || x.valid || x.bound != 0) ++
  unitsOf uSession s.hom.sessions Option.isSome ++ unitsOf uWalk s.lan.walks Option.isSome ++ unitsOf uRemote s.spn.remotes Option.isSome ++
  unitsOf uToken s.eng.tokens (fun t => t.st != .free) ++ unitsOf uBar s.fnc.bars Option.isSome ++ unitsOf uMove s.tir.moves Option.isSome ++
  unitsOf uFrame s.tir.frames (fun h => h.st == .resident || h.st == .out || h.st == .inn) ++
  (s.tir.embers.filter (fun e => e.2.st != .untracked)).flatMap (fun e => (List.range e.2.units).map (fun i => (uFar, e.1 + i))) ++
  slotsTaken s ++ unitsOf uLayout s.sec.layout (fun e => e.valid) ++ (wdDrains s).map (fun i => (uDrain, i)) ++
  (regNames s).map (fun i => (uReg, i)) ++ s.mov.chans.flatMap (fun e => (fifoNames s e.1).map (fun i => (uFifo, i))) ++
  [(uHold, s.eng.hold.length), (uRelHold, relHeld s)] ++ redPools s

/-- Event ticks pass (R97): the events of the commands since the last tick are sampled, and the clock stands at the next tick. A window
that has ended is published before the tick's events are added (R106). -/
def tickPass (s : State) : State :=
  if s.clk.stopped then s else
  let s := publish s
  let n := ticksPassed s
  let l := s.cnt.events ++ [{ page := pCNT, ev := 0, part := 0x3FF, inst := 0xFFF, n := cycPassed s },
                            { page := pCNT, ev := 1, part := 0x3FF, inst := 0xFFF, n := n }]
  let t := { s with cnt := { s.cnt with events := [] } }
  let t := if enabled s pCNT && !fenced s pCNT && !s.cnt.freezeNow then (List.range 64).foldl (fun u i => cntAdd u i l) t else t
  let t := [pENG, pHST0, pHST1].foldl returnCredits t
  { t with
    inUse := unitsInUse t
    lmp := { t.lmp with slotsUsed := [] }
    parts := t.parts.map (fun e => (e.1, tenAdd e.1 e.2 l))
    cnt := { t.cnt with freezeNow := t.cnt.freeze, cfgsNow := t.cnt.cfgs, clr := false }
    clk := { t.clk with cyc := max t.clk.cyc (t.clk.tickStart + cycPassed s), tickStart := t.clk.tickStart + cycPassed s,
                        et := t.clk.et + n } }

end Sys2Proof.Machine
end

