-- ==== Sys2Proof/Machine/Counters.lean ====
section
/-!
DEFINITION. Commands on general counters, tenant counters and the publication of tenant counters (R623 to R633, R582).
-/
namespace Sys2Proof.Machine
open Sys2Proof

/-- CNT_VAL_WRITE: the value, before the additions of the event tick (R626). -/
def execCntValWrite (a : Acc) (idx : Nat) (v : Word) (s : State) : Host.Outcome State Fault Refusal :=
  let i := idx % 64
  .next (unitWrite s a pCNT (0x400 + 8 * i) (fun t => { t with cnt := { t.cnt with vals := tset t.cnt.vals i (fld v 47 0) } }))

/-- Reserved bits of CNT_CFG read 0. -/
def cntCfgMask : Word := w64 0xFF03FF7FFF

/-- CNT_CFG_WRITE: from the next event tick; refused with UNIT_ABSENT when it enables no source (R626, R651). -/
def execCntCfgWrite (a : Acc) (idx : Nat) (v : Word) (s : State) : Host.Outcome State Fault Refusal :=
  let i := idx % 64
  .next (unitWrite s a pCNT (0x600 + 8 * i) (fun t =>
    if bitOf v 12 && !isSource t (fld v 11 0) then refuseLast t pCNT .unitAbsent
    else { t with cnt := { t.cnt with cfgs := tset t.cnt.cfgs i (v &&& cntCfgMask) } }))

/-- A write of CNT_CTL (R628): FREEZE from the next event tick, CLEAR in this one. -/
def cntCtlSet (s : State) (v : Word) : State :=
  let t := { s with cnt := { s.cnt with freeze := bitOf v 0 } }
  if bitOf v 1 then { t with cnt := { t.cnt with vals := [], ovf := 0, clr := true } } else t

/-- CNT_FREEZE: a write of CNT_CTL that sets or clears FREEZE (R628). -/
def execCntFreeze (a : Acc) (v : Word) (s : State) : Host.Outcome State Fault Refusal :=
  .next (unitWrite s a pCNT 0x200 (fun t => cntCtlSet t v))

/-- CNT_CLEAR: a write of CNT_CTL with CLEAR at 1 (R628). -/
def execCntClear (a : Acc) (v : Word) (s : State) : Host.Outcome State Fault Refusal :=
  .next (unitWrite s a pCNT 0x200 (fun t => cntCtlSet t v))

/-- A host write to a partition view page (R48, R49). -/
def viewWrite (s : State) (a : Acc) (p : Nat) (f : State → State) : State :=
  if !accUp s a.st then s
  else if 64 ≤ p then regRsp s a.st .ok []
  else if !mayReach s a.part (.view p 0) then refusedAcc s a []
  else regRsp (f s) a.st .ok []

/-- The source of a tenant counter is selected (R630, R632). -/
def tcCfgSet (s : State) (p i : Nat) (v : Word) : State :=
  let n := fld v 7 0
  if 0x0A < n ∨ (tget (part s p).tc i).src = n then s
  else updPart s p (fun q => { q with tc := tset q.tc i { src := n, srcNow := 0, raw := 0, val := 0 } })

/-- TC_CFG_WRITE on the view page of a partition (R630, R632). -/
def execTcCfgWrite (a : Acc) (view idx : Nat) (v : Word) (s : State) : Host.Outcome State Fault Refusal :=
  .next (viewWrite s a view (fun t => tcCfgSet t view (idx % 8) v))

/-- TENANT_PUBLICATION: at rank 7 of the first event tick of the end of a window of 4,096 bt (R106, R582, R631). -/
def execTenantPublication (s : State) : Host.Outcome State Fault Refusal :=
  .next (publish s)

end Sys2Proof.Machine
end

