-- ==== Sys2Proof/Machine/MbxCmds.lean ====
section
/-!
DEFINITION. Accesses to mailbox registers, the pushes of replies and the expirations of mailbox timers (R481 to R498).
-/
namespace Sys2Proof.Machine
open Sys2Proof

/-- How an access to a mailbox register is taken (R481, R483, R48). -/
inductive MbReach where
  | ok
  | inert
  | refused (a : Acc)
  | none
deriving DecidableEq, Repr

/-- The register operates only for mailboxes 0 and 65 through the MBX page when restricted is set (R483). -/
def mbReach (s : State) (w : MbAcc) (restricted : Bool) : MbReach :=
  match w.via with
  | .view a => if !accUp s a.st || decide (64 ≤ w.mb) then .none else if !mayReach s a.part (.view w.mb 0x800) then .refused a else .ok
  | .page a => if !accUp s a.st || decide (66 ≤ w.mb) then .none else if !mayReach s a.part (.page pMBX 0x1000) then .refused a
               else if restricted && w.mb != 0 && w.mb != 65 then .inert else .ok
  | .i3c => if w.mb = 64 then .ok else .none

/-- The answer to an access, with the words of a read. -/
def mbRsp (s : State) (w : MbAcc) (data : List Word) : State :=
  match w.via with
  | .view a => regRsp s a.st .ok data
  | .page a => regRsp s a.st .ok data
  | .i3c => if data.isEmpty then s else emit s (.i3c (data.headD 0))

/-- A write of a mailbox register. -/
def mbWrite (s : State) (w : MbAcc) (restricted : Bool) (f : State → State) : State :=
  match mbReach s w restricted with
  | .ok => mbRsp (f s) w []
  | .inert => mbRsp s w []
  | .refused a => refusedAcc s a []
  | .none => s

/-- H2S_PUSH (R484). -/
def execH2sPush (w : MbAcc) (v : Word) (s : State) : Host.Outcome State Fault Refusal :=
  .next (mbWrite s w true (fun t => pushH2s t w.mb v))

/-- S2H_POP: a read that pops (R484). -/
def execS2hPop (w : MbAcc) (s : State) : Host.Outcome State Fault Refusal :=
  .next (match mbReach s w true with
    | .ok => let (t, v) := popS2h s w.mb
             mbRsp t w [v]
    | .inert => mbRsp s w [0]
    | .refused a => refusedAcc s a [0]
    | .none => s)

/-- MB_LOCK_WRITE (R487). -/
def execMbLockWrite (w : MbAcc) (v : Word) (s : State) : Host.Outcome State Fault Refusal :=
  .next (mbWrite s w true (fun t => updMb t w.mb (fun b => lockWrite b v)))

/-- H2S_DB_WRITE: only REQUEST can be set (R485). -/
def execH2sDbWrite (w : MbAcc) (v : Word) (s : State) : Host.Outcome State Fault Refusal :=
  .next (mbWrite s w true (fun t => armH2s (updMb t w.mb (fun b => { b with h2sDb := b.h2sDb ||| (v &&& 1) })) w.mb false))

/-- S2H_DB_CLEAR: bits written 1 clear, and a message is sent when enabled bits stay (R486). -/
def execS2hDbClear (w : MbAcc) (v : Word) (s : State) : Host.Outcome State Fault Refusal :=
  .next (mbWrite s w true (fun t => afterMbWrite (armS2h (updMb t w.mb (fun b => { b with s2hDb := b.s2hDb &&& ~~~ v })) w.mb false) w.mb))

/-- S2H_MASK_WRITE: 32 bits, and a message is sent when enabled bits stand (R486). -/
def execS2hMaskWrite (w : MbAcc) (v : Word) (s : State) : Host.Outcome State Fault Refusal :=
  .next (mbWrite s w true (fun t => afterMbWrite (updMb t w.mb (fun b => { b with s2hMask := v &&& (mask 31 8 ||| mask 1 0) })) w.mb))

/-- A write of MB_CTL through the MBX page by the root partition (R483). -/
def mbCtl (s : State) (a : Acc) (mb : Nat) (f : State → State) : State := mbWrite s { mb := mb, via := .page a } false f

/-- FORCE_UNLOCK (R488). -/
def execForceUnlock (a : Acc) (mb : Nat) (s : State) : Host.Outcome State Fault Refusal :=
  .next (mbCtl s a mb (fun t => updMb t mb (fun b => { b with held := false, owner := 0 })))

/-- FLUSH_H2S (R498). -/
def execFlushH2s (a : Acc) (mb : Nat) (s : State) : Host.Outcome State Fault Refusal :=
  .next (mbCtl s a mb (fun t => flushToSudric t mb))

/-- FLUSH_S2H (R498). -/
def execFlushS2h (a : Acc) (mb : Nat) (s : State) : Host.Outcome State Fault Refusal :=
  .next (mbCtl s a mb (fun t => flushToHost t mb))

/-- REPLY_PUSH: Sudric pushes the oldest complete reply of a mailbox once it has room (R491). -/
def execReplyPush (mb : Nat) (s : State) : Host.Outcome State Fault Refusal :=
  .next (if sudricServes s mb then pushReply s mb else s)

/-- H2S_TIMEOUT (R495, R496). -/
def execH2sTimeout (mb : Nat) (s : State) : Host.Outcome State Fault Refusal := .next (h2sExpire s mb)

/-- S2H_TIMEOUT (R495, R497). -/
def execS2hTimeout (mb : Nat) (s : State) : Host.Outcome State Fault Refusal := .next (s2hExpire s mb)

end Sys2Proof.Machine
end

