-- ==== Sys2Proof/Machine/Registers.lean ====
section
/-!
DEFINITION. Writes of registers that have no row of their own, reads with their clearing effect, the interrupt block, PG_CTL, the
override check, I3C accesses and deadlines (R9, R46 to R62, R74 to R82, R102, R708).
-/
namespace Sys2Proof.Machine
open Sys2Proof

/-! ## Registers with a row of their own -/

/-- Offset inside a mailbox of the MBX page, when it lies in one: mailbox and offset (R482). -/
def mbPlace (off : Nat) : Option (Nat × Nat) :=
  if 0x1000 ≤ off ∧ off < 0x9400 then some ((off - 0x1000) / 0x200, (off - 0x1000) % 0x200) else none

/-- Registers of a mailbox whose accesses are commands of their own. -/
def mbOwn (o : Nat) : Bool := [0x000, 0x010, 0x020, 0x030, 0x038, 0x0F8].contains o

/-- Registers of a page whose writes are commands of their own (REGISTER_WRITE is for those with no row). -/
def ownRow (p off : Nat) : Bool :=
  if off < 0x200 then [0x10, 0x20, 0x28, 0x40, 0x48].contains off || decide (0x100 ≤ off)
  else match p with
    | 0x00 => off == 0x220 || off == 0x228
    | 0x01 => off == 0x200 || off == 0x208
    | 0x03 => (mbPlace off).any (fun x => mbOwn x.2)
    | 0x04 => off == 0x200 || (decide (0x400 ≤ off) && decide (off < 0x800))
    | 0x05 => off == 0x220 || off == 0x228
    | 0x06 => off == 0x210 || off == 0x230 || off == 0x238 || off == 0x240
    | 0x07 => off == 0x200
    | 0x08 => off == 0x218 || off == 0x220 || off == 0x238 || off == 0x248
    | 0x0A => off == 0x208 || off == 0x240
    | 0x0C => decide (0x218 ≤ off) && decide (off ≤ 0x238)
    | 0x0D => off == 0x218 || off == 0x220 || off == 0x228 || off == 0x240 || off == 0x258 || off == 0x260 || off == 0x268
    | 0x18 => off == 0x200 || off == 0x238
    | _ => false

/-! ## Plain registers -/

/-- LINK_CFG of a station (R248). -/
def linkCfgSet (s : State) (p : Nat) (v : Word) : State :=
  if (linkOf s p).st = 2 then refuseLast s p .permission
  else updLink s p (fun l => { l with cfg := v &&& (if p = pENG then 1 else mask 12 8) })

/-- The lockstep comparator or a Kindle holds its settings (R621). -/
def detHeld (s : State) : Bool := (decide (1 ≤ s.det.ls) && decide (s.det.ls ≤ 3)) || s.det.kindle == 1

/-- A write of a DET register other than DET_MODE (R621). -/
def detSet (s : State) (off : Nat) (v : Word) : State :=
  if 0x260 ≤ off ∧ off ≤ 0x2A8 ∧ !hasLockstep s then refuseLast s pDET .unitAbsent
  else if off = 0x228 then { s with det := { s.det with fpSel := fld v 6 0 } }
  else if off = 0x220 then (if detHeld s then refuseLast s pDET .permission else { s with det := { s.det with kindleCfg := v &&& mask 4 0 } })
  else if off = 0x260 then
    (if detHeld s then refuseLast s pDET .permission else { s with det := { s.det with lsCfg := v &&& (mask 6 0 ||| mask 12 8) } })
  else s

/-- A write of a SPN register (R554). -/
def spnSet (n : Spn) (off : Nat) (v : Word) : Spn :=
  match off with
  | 0x218 => { n with timers := v &&& (mask 11 0 ||| mask 31 16) }
  | 0x220 => { n with remoteCfg := v &&& mask 39 0 }
  | 0x228 => { n with faultCfg := v &&& mask 39 0 }
  | 0x230 => { n with hostileCfg := v &&& mask 31 0 }
  | 0x248 => { n with bcnAsym := v &&& mask 15 0 }
  | 0x250 => { n with remoteEn := v }
  | 0x258 => { n with routeSel := fld v 7 0 }
  | 0x268 => { n with ingressCfg := v &&& mask 9 0 }
  | _ => n

/-- A write of a register of the movers that has no row: selects and W1C maps. -/
def movSet (m : Mov) (off : Nat) (v : Word) : Mov :=
  match off with
  | 0x200 => { m with chSel := fld v 5 0 }
  | 0x220 => { m with chHalf := m.chHalf &&& ~~~ v }
  | 0x228 => { m with chFull := m.chFull &&& ~~~ v }
  | 0x230 => { m with chErr := m.chErr &&& ~~~ v }
  | 0x238 => { m with slotSel := fld v 8 0 }
  | _ => m

/-- A write of a register of the homes. -/
def homSet (h : Hom) (off : Nat) (v : Word) : Hom :=
  match off with
  | 0x200 => { h with cfg := v &&& mask 1 0 }
  | 0x208 => { h with wickCfg := v &&& mask 12 0 }
  | 0x210 => { h with snoopCfg := v &&& mask 19 0 }
  | 0x218 => { h with stashSel := fld v 5 0 }
  | 0x220 => { h with stashMask := tset h.stashMask h.stashSel (v &&& mask 31 0) }
  | _ => h

/-- A write of a register of LAN that has no row. -/
def lanSet (l : Lan) (off : Nat) (v : Word) : Lan :=
  match off with
  | 0x200 => { l with cfg := v &&& (mask 0 0 ||| mask 14 8) }
  | 0x210 => { l with spaceSel := fld v 11 0 }
  | 0x230 => { l with partSel := fld v 5 0 }
  | 0x250 => { l with wdBase := v &&& mask 56 22 }
  | 0x258 => { l with wdLen := v &&& mask 34 0 }
  | _ => l

/-- A write of a register of MBX that has no row (R483, R502). -/
def mbxSet (s : State) (off : Nat) (v : Word) : State :=
  match mbPlace off with
  | some (m, 0x040) => updMb s m (fun b => { b with vec := v &&& (mask 1 0 ||| mask 47 16) })
  | some _ => s
  | none =>
    { s with mbx := (match off with
      | 0x200 => { s.mbx with cfg := v &&& mask 47 0 }
      | 0x210 => { s.mbx with toMapLo := s.mbx.toMapLo &&& ~~~ v }
      | 0x218 => { s.mbx with toMapHi := s.mbx.toMapHi &&& ~~~ v }
      | _ => s.mbx) }

/-- A write of a register of SEC: selects and RES_CFG (R594). -/
def secSet (c : Sec) (off : Nat) (v : Word) : Sec :=
  match off with
  | 0x208 => { c with partSel := fld v 5 0 }
  | 0x218 => { c with rangeSel := fld v 9 0 }
  | 0x238 => { c with resSel := v &&& (mask 5 0 ||| mask 9 8) }
  | 0x248 => { c with resCfg := v &&& mask 15 0 }
  | _ => c

/-- A write of a register of TIR that has no row (R401). -/
def tirSet (t : Tir) (off : Nat) (v : Word) : Tir :=
  match off with
  | 0x200 => { t with cfg := v &&& (mask 0 0 ||| mask 28 4) }
  | 0x208 => { t with win := v &&& mask 31 0 }
  | 0x210 => { t with thresh := v &&& mask 47 0 }
  | _ => t

/-- A write of a register of LMP that has no row. -/
def lmpSet (l : Lmp) (off : Nat) (v : Word) : Lmp :=
  match off with
  | 0x200 => { l with cfg := v &&& mask 6 0 }
  | 0x210 => { l with qSel := fld v 9 0 }
  | 0x238 => { l with ctxSel := fld v 11 0 }
  | 0x250 => { l with partSel := fld v 5 0 }
  | _ => l

/-- A write of MP_CFG (R696). -/
def mpCfgSet (s : State) (p : Nat) (v : Word) : State :=
  if (tget s.mps (p - pNMP0)).ready then refuseLast s p .permission else updMp s (p - pNMP0) (fun m => { m with cfg := v &&& mask 23 0 })

/-- A write of XFM: PROG_SEL, or the owner of the selected slot, which is an input of the fingerprints (R369, R611). -/
def xfmSet (s : State) (off : Nat) (v : Word) : State :=
  match off with
  | 0x200 => { s with xfm := { s.xfm with progSel := fld v 7 0 } }
  | 0x208 => fpDirty { s with xfm := { s.xfm with own := tset s.xfm.own s.xfm.progSel (v &&& mask 11 0) } }
  | _ => s

/-- The effect of a write to a unit register with no row of its own; a write to a register that software cannot write is ignored
(R9). -/
def plainSet (s : State) (p off : Nat) (v : Word) : State :=
  match p with
  | 0x02 => { s with sec := secSet s.sec off v }
  | 0x03 => mbxSet s off v
  | 0x04 => if off = 0x208 then { s with cnt := { s.cnt with ovf := s.cnt.ovf &&& ~~~ v } } else s
  | 0x05 => if off = 0x200 then { s with ras := { s.ras with cfg := v &&& (mask 0 0 ||| mask 63 8) } } else s
  | 0x06 => if off = 0x228 then { s with cas := { s.cas with memSel := fld v 3 0 } } else s
  | 0x07 => detSet s off v
  | 0x08 => { s with lan := lanSet s.lan off v }
  | 0x09 => { s with hom := homSet s.hom off v }
  | 0x0A => { s with mov := movSet s.mov off v }
  | 0x0B => xfmSet s off v
  | 0x0C => { s with tir := tirSet s.tir off v }
  | 0x0D => { s with lmp := lmpSet s.lmp off v }
  | 0x0E => if off = 0x200 then { s with fnc := { s.fnc with cfg := v &&& (mask 7 0 ||| mask 29 16) } } else s
  | 0x10 =>
    match off with
    | 0x200 => { s with eng := { s.eng with streamCfg := v &&& (mask 3 0 ||| mask 31 8 ||| mask 38 32) } }
    | 0x208 => { s with eng := { s.eng with demandCfg := v &&& mask 31 0 } }
    | 0x300 => linkCfgSet s p v
    | _ => s
  | 0x11 => if off = 0x300 then linkCfgSet s p v else s
  | 0x12 => if off = 0x300 then linkCfgSet s p v else s
  | 0x18 => updSpn s (fun n => spnSet n off v)
  | _ => if 0x14 ≤ p ∧ p ≤ 0x17 ∧ off = 0x200 then mpCfgSet s p v else s

/-! ## REGISTER_WRITE -/

/-- An access of a block slot of the cascade that is not this block (R46): forwarded to the block that stands there with its
partition, size and data, where its route begins or in wait for one; the access of a slot that holds no block is dropped and
logged. -/
def otherSlot (s : State) (a : Acc) (n off size : Nat) (write : Bool) (data zeros : List Word) : State :=
  if n < blocks s then
    casSend (if hostUp s a.st then consume s (pHST0 + a.st) 5 else s)
      { src := s.cas.pos, dst := n, cls := 5, bytes := 16 + 8 * data.length, load := .reg write a (off % 2 ^ 24) size data }
  else regRsp (logProto s .unitAbsent (pHST0 + a.st) a.st a.part) a.st .unitAbsent zeros

/-- The place is a page whose unit the build lacks (R14). -/
def absentPlace (s : State) : RegPlace → Bool
  | .page p _ => isPage p && !present s p
  | _ => false

/-- A write to this block's register space (R43 to R53, R75). The response to an access of a wrong size or alignment is OK: the spec
gives no STATUS for it (DESIGN CHOICE, log entry 24). -/
def blockWrite (s : State) (a : Acc) (off size : Nat) (data : List Word) : State :=
  let w := regPlace off
  let v := data.headD 0
  if !mayReach s a.part w then refusedAcc s a []
  else if absentPlace s w then regRsp s a.st .unitAbsent []
  else if !sizeOk w off size then regRsp (badSize s w) a.st .ok []
  else match w with
    | .reserved => regRsp s a.st .ok []
    | .page p o =>
      if !isPage p then regRsp s a.st .ok []
      else if ownRow p o then s
      else if o < 0x200 then
        headWrite s a p (fun t => if o = 0x38 then updPage t p (fun q => { q with irqVec := v &&& (mask 1 0 ||| mask 47 16) }) else t)
      else unitWrite s a p o (fun t => plainSet t p o v)
    | .doorbell q o => if o = 0x000 ∨ o = 0x028 then s else doorbellWrite s a q id
    | .view p o => if (0x400 ≤ o ∧ o < 0x440) ∨ (0x800 ≤ o ∧ mbOwn (o - 0x800)) then s else viewWrite s a p id

/-- REGISTER_WRITE (R75). -/
def execRegisterWrite (a : Acc) (off size : Nat) (data : List Word) (s : State) : Host.Outcome State Fault Refusal :=
  .next (
    if !accUp s a.st then s
    else if off / 2 ^ 24 ≠ s.cas.pos then otherSlot s a (off / 2 ^ 24) off size true data []
    else blockWrite s a (off % 2 ^ 24) size data)

/-! ## READ_CLEAR -/

/-- A register of a 64 KiB page is read (R9, R14). -/
def pageRead (s : State) (a : Acc) (p o : Nat) : State :=
  let v := regGet s p o
  let t := match (if p = pMBX then mbPlace o else none) with
    | some (m, k) => mbClear s m k
    | none => regClear s p o
  regRsp t a.st (if present s p || !isPage p || o = 0 || o = 8 then .ok else .unitAbsent) [v]

/-- A read of this block's register space (R43 to R53). The response to a read of a wrong size or alignment is OK: the spec gives no
STATUS for it (DESIGN CHOICE, log entry 24). -/
def blockRead (s : State) (a : Acc) (off size : Nat) : State :=
  let w := regPlace off
  if !mayReach s a.part w then refusedAcc s a (zeroWords size)
  else if absentPlace s w && !sizeOk w off size then regRsp s a.st .unitAbsent (zeroWords size)
  else if !sizeOk w off size then regRsp (badSize s w) a.st .ok (zeroWords size)
  else match w with
    | .reserved => regRsp s a.st .ok [0]
    | .page p o =>
      if (0x100 ≤ o ∧ o < 0x200) ∨ (p = pMBX ∧ (mbPlace o).any (fun x => x.2 == 0x018)) then s
      else if o = 0x40 ∨ o = 0x48 then (if present s p then dpAccess s p { acc := a, kind := .rd, off := o } else pageRead s a p o)
      else pageRead s a p o
    | .doorbell q o => regRsp (dbClear s q o) a.st .ok [dbGet s q o]
    | .view p o => if o = 0x818 then s else regRsp (pvClear s p o) a.st .ok [pvGet s p o]

/-- READ_CLEAR: a read returns the value, and an RC register is cleared in the same access (R9, R11). -/
def execReadClear (a : Acc) (off size : Nat) (s : State) : Host.Outcome State Fault Refusal :=
  .next (
    if !accUp s a.st then s
    else if off / 2 ^ 24 ≠ s.cas.pos then otherSlot s a (off / 2 ^ 24) off size false [] (zeroWords size)
    else blockRead s a (off % 2 ^ 24) size)

/-! ## The interrupt block -/

/-- Bits of IRQ_RAW and IRQ_EN that a page defines: its unit interrupts, and FENCED, OVERRIDE, DP_ERR and DP_DONE. -/
def irqMask (p : Nat) : Word := ((irqBits p) ++ [60, 61, 62, 63]).foldl (fun w b => setBit w b true) 0

/-- A write of the interrupt block that leaves IRQ_PEND non-zero sends one more message (R60). -/
def irqAfter (s : State) (p : Nat) : State := if irqPend (page s p) = 0 then s else sendIrq s p

/-- IRQ_RAW_CLEAR (R60, R62). -/
def execIrqRawClear (a : Acc) (page : Nat) (v : Word) (s : State) : Host.Outcome State Fault Refusal :=
  .next (headWrite s a page (fun t => irqAfter (updPage t page (fun q => { q with irqRaw := q.irqRaw &&& ~~~ v })) page))

/-- IRQ_EN_WRITE (R60). -/
def execIrqEnWrite (a : Acc) (page : Nat) (v : Word) (s : State) : Host.Outcome State Fault Refusal :=
  .next (headWrite s a page (fun t => irqAfter (updPage t page (fun q => { q with irqEn := v &&& irqMask page })) page))

/-! ## PG_CTL -/

/-- PG_CTL[ENABLE] is RW (R57). -/
def enableRw (p : Nat) : Bool := p == pENG || p == pHST0 || p == pHST1 || (decide (pNMP0 ≤ p) && decide (p ≤ pSPN)) || p == pMOV || p == pXFM || p == pTIR || p == pCNT

/-- A write of PG_CTL (R57, R59, R74, R81, R82, R641). -/
def pgCtlSet (s : State) (p : Nat) (v : Word) : State :=
  let t := updPage s p (fun q => { q with
    enable := if enableRw p then bitOf v 0 else q.enable
    expert := bitOf v 1
    checking := if bitOf v 1 then false else q.checking || q.expert
    last := if bitOf v 2 && unfenceable p then .permission else .ok })
  if bitOf v 2 then fencePage t p else t

/-- PG_CTL_WRITE (R74). -/
def execPgCtlWrite (a : Acc) (page : Nat) (v : Word) (s : State) : Host.Outcome State Fault Refusal :=
  .next (headWrite s a page (fun t => pgCtlSet t page v))

/-! ## The override check -/

/-- A value between two limits. -/
def within (lo hi n : Nat) : Bool := decide (lo ≤ n) && decide (n ≤ hi)

/-- A GPA of the partition's own memory: stage 2 maps it inside the layout (R129). -/
def gpaInLayout (s : State) (p gpa : Nat) : Bool :=
  match (s2Translate s none p gpa).2 with
  | .ok x => !(localX s x).glob && inLayout s p (xAddr x gpa)
  | _ => false

/-- Every page of a GPA range lies inside the partition's layout. -/
def rangeInLayout (s : State) (p gpa n : Nat) : Bool :=
  let g := gpa / 2 ^ 22
  (List.range ((gpa + n - 1) / 2 ^ 22 - g + 1)).all (fun i => gpaInLayout s p ((g + i) * 2 ^ 22))

/-- An object table of OBJ_TABLE_SET: its size, and its place in the layout (R433). -/
def objTblFits (s : State) (p : Nat) (a1 : Word) : Bool :=
  within 6 24 (fld a1 4 0) && rangeInLayout s p (fld a1 51 12 * 4096) (2 ^ fld a1 4 0 * 64)

/-- A release ring of OBJ_TABLE_SET: its size, and its place in the layout (R433). -/
def relRingFits (s : State) (p : Nat) (a2 a3 : Word) : Bool :=
  within 6 16 (fld a3 4 0) && rangeInLayout s p (fld a2 51 6 * 64) (64 + 2 ^ fld a3 4 0 * 8)

/-- The object table and release ring of OBJ_TABLE_SET are acceptable (R433). -/
def objTableOk (s : State) (p : Nat) (a1 a2 a3 : Word) : Bool := objTblFits s p a1 && relRingFits s p a2 a3

/-- A space that a partition holds: handed out or set up for it, and not being put back (R131). -/
def ownSpace (s : State) (m id : Nat) : Bool :=
  let x := tget s.lan.spaces id
  x.valid && x.part == m && x.putMb.isNone

/-- PERIOD_NOM in cyc stands for a period of 0.25 to 16 µs at the fclk of the start parameters (R89). -/
def periodSafe (s : State) (n : Nat) : Bool :=
  within 300 35200 n && (s.boot.fclkKhz == 0 || (decide (250 * s.boot.fclkKhz ≤ n * 1000000) && decide (n * 1000000 ≤ 16000 * s.boot.fclkKhz)))

/-- A field of the selected queue's registers is one that QUEUE_CREATE would accept (R416, R443). -/
def queueSafe (s : State) (off lsb : Nat) (v : Word) : Bool :=
  let k := queue s s.lmp.qSel
  if off = 0x218 then ringAligned (fld v 56 6 * 64) k.log2 64
  else if off = 0x220 then ringAligned (fld v 56 5 * 32) k.log2 32
  else match lsb with
    | 0 => !bitOf v 0 || mayEnable s k v
    | 1 => !bitOf v 1 || k.part == 0
    | 2 => within 4 16 (fld v 6 2) && ringAligned (fld k.base 56 6 * 64) (fld v 6 2) 64 && ringAligned (fld k.cbase 56 5 * 32) (fld v 6 2) 32
    | _ => mayBind s k (fld v 31 16)

/-- A field of a register stands inside its safe limits: the range that its table states, without the values that only act as
another value, and the refusals of the service that sets it, judged against the other fields (R81). -/
def fieldSafe (s : State) (p off lsb : Nat) (v : Word) : Bool :=
  let f := fun (hi lo : Nat) => fld v hi lo
  match p, off, lsb with
  | 0x01, 0x200, 0 => decide (f 1 0 < 2) && (f 1 0 == 0 || (present s pSPN && s.cas.master))
  | 0x01, 0x200, 4 => decide (f 6 4 ≤ 5)
  | 0x01, 0x200, 16 => decide (1 ≤ f 23 16)
  | 0x01, 0x208, 0 => periodSafe s (f 19 0)
  | 0x01, 0x208, 20 => decide (f 35 20 ≤ f 19 0 / 4)
  | 0x0A, 0x208, 14 => decide (1 ≤ f 17 14)
  | 0x0A, 0x208, 23 => decide (1 ≤ f 30 23)
  | 0x0A, 0x208, 32 => decide (32 ≤ f 43 32)
  | 0x0C, 0x200, 4 => within 1 8 (f 7 4)
  | 0x0C, 0x200, 12 => within 1 8 (f 15 12)
  | 0x0C, 0x200, 16 => decide (1 ≤ f 24 16)
  | 0x0C, 0x200, 25 => decide (1 ≤ f 28 25)
  | 0x0C, 0x208, _ => decide (1 ≤ f 31 0)
  | 0x0C, 0x210, 0 => decide (f 7 0 < f 15 8)
  | 0x0C, 0x210, 8 => decide (f 7 0 < f 15 8)
  | 0x06, 0x230, _ => rangeOk s s.cas.memSel (tget s.cas.ranges s.cas.memSel)
  | 0x06, 0x238, _ => rangeOk s s.cas.memSel (tget s.cas.ranges s.cas.memSel)
  | 0x08, 0x220, _ => partExists s (f 9 0)
  | 0x0A, 0x240, _ => decide (sealedSlots s.mov.slots (s.mov.slotSel / 64) ≤ 48)
  | 0x0D, 0x218, _ => queueSafe s off lsb v
  | 0x0D, 0x220, _ => queueSafe s off lsb v
  | 0x0D, 0x228, _ => queueSafe s off lsb v
  | 0x0D, 0x240, _ => partExists s (f 9 0) && ownSpace s (f 9 0) (f 27 16)
  | 0x0D, 0x258, _ => objTblFits s s.lmp.partSel v
  | 0x0D, 0x260, _ => relRingFits s s.lmp.partSel v (part s s.lmp.partSel).relCtl
  | 0x0D, 0x268, 0 => relRingFits s s.lmp.partSel (part s s.lmp.partSel).relBase v
  | _, _, _ => true

/-- Sudric sets a register of a selected record: the action of the register, whoever writes it. -/
def ownSet (s : State) (p off : Nat) (v : Word) : State :=
  match p, off with
  | 0x01, 0x200 => (bcnCfgSet s v).1
  | 0x01, 0x208 => (bcnPeriodSet s v).1
  | 0x06, 0x210 => nodeIdSet s v
  | 0x06, _ => memRangeSet s off v
  | 0x08, 0x238 => s2RootSet s v
  | 0x08, _ => spaceSet s off v
  | 0x0A, 0x208 => (chCtlPut s s.mov.chSel v).1
  | 0x0A, 0x240 => slotCtlSet s v
  | 0x0C, _ => if 0x218 ≤ off then poolSet s off v else plainSet s p off v
  | 0x0D, 0x240 => ctxCtlSet s v
  | 0x0D, _ => if 0x258 ≤ off then objTblSet s off v else queueRegSet s off v
  | 0x18, 0x200 => trainEnSet s v
  | _, _ => plainSet s p off v

/-- One overridden field is checked: adopted inside its limits, else restored, and logged either way (R81, R499). -/
def overrideOne (s : State) (p : Nat) (e : Override) : State :=
  if e.st ≠ 0 then s
  else
    let key := basicKey e.off e.sel
    let home := selOf s p e.off
    let t := withSel s p e.off e.sel
    let cur := regGet t p e.off
    let put := fun (u : State) (k : Nat) => updPage u p (fun q => { q with
      log := q.log.map (fun x => if x == e then { x with st := k } else x) })
    let hi := e.lsb + e.width - 1
    if fieldSafe t p e.off e.lsb cur then
      let u := updPage s p (fun q => { q with basic := tset q.basic key ((tget q.basic key).map (fun b => setFld b hi e.lsb (fld cur hi e.lsb))) })
      put u 1
    else put (withSel (ownSet t p e.off (setFld cur hi e.lsb e.value.toNat)) p e.off home) 2

/-- Sudric's check after EXPERT fell (R81). -/
def overrideCheck (s : State) (p : Nat) : State :=
  if !(page s p).checking then s
  else
    let last := (page s p).last
    let t := (page s p).log.foldl (fun u e => overrideOne u p e) s
    updPage t p (fun q => { q with checking := false, override := false, last := last })

/-- OVERRIDE_CHECK (R81). -/
def execOverrideCheck (page : Nat) (s : State) : Host.Outcome State Fault Refusal := .next (overrideCheck s page)

/-! ## I3C -/

/-- What an I3C read returns (R670, R708). Offsets 0x0120 to 0x0158 and 0x0100 answer from step 2 on; the others need the fabric. -/
def i3cGet (s : State) (off : Nat) : Word :=
  if off % 8 ≠ 0 then 0
  else if 0x120 ≤ off ∧ off ≤ 0x158 then
    (if s.boot.stage = 0 ∨ off = 0x140 ∨ off = 0x148 then 0 else unitGet s pCTL (off - 0x120 + 0x200))
  else if off = 0x100 then (if s.boot.stage = 0 then 0 else pgId pCTL)
  else if s.boot.stage < 2 then 0
  else if off < 0x0F8 then mbGet s 64 off
  else match off with
    | 0x108 => pgCap s pCTL
    | 0x110 => pgCtl s pCTL
    | 0x118 => pgStat s pCTL
    | 0x160 => w64 s.clk.pwrRpt
    | 0x168 => disLo s
    | 0x170 => disHi s
    | _ => 0

/-- A write of a register of mailbox 64 over I3C (R482, R708). -/
def i3cMbSet (s : State) (off : Nat) (v : Word) : State :=
  match off with
  | 0x000 => updMb s 64 (fun b => lockWrite b v)
  | 0x010 => pushH2s s 64 v
  | 0x020 => armH2s (updMb s 64 (fun b => { b with h2sDb := b.h2sDb ||| (v &&& 1) })) 64 false
  | 0x030 => afterMbWrite (armS2h (updMb s 64 (fun b => { b with s2hDb := b.s2hDb &&& ~~~ v })) 64 false) 64
  | 0x038 => afterMbWrite (updMb s 64 (fun b => { b with s2hMask := v &&& (mask 31 8 ||| mask 1 0) })) 64
  | _ => s

/-- I3C_ACCESS (R708, R709). -/
def execI3cAccess (write : Bool) (off : Nat) (v : Word) (s : State) : Host.Outcome State Fault Refusal :=
  .next (
    if write then (if off % 8 = 0 ∧ 2 ≤ s.boot.stage then i3cMbSet s off v else s)
    else
      if s.clk.stopped then s else
      let t := if off % 8 = 0 ∧ off < 0x0F8 ∧ 2 ≤ s.boot.stage then mbClear s 64 off else s
      emits t [.i3c (i3cGet s off)])

/-! ## Deadlines -/

/-- DEADLINE_EXPIRE: the deadline that a handle names, by kind (handle mod 8) and number, expires if its count has come: timers of a
mailbox, the deadline of a demand token, of a barrier, of a wait and of a remote request (R102). -/
def deadlineExpire (s : State) (h : Nat) : State :=
  let n := h / 8
  match h % 8 with
  | 0 => h2sExpire s n
  | 1 => s2hExpire s n
  | 2 => demandExpire s n
  | 3 => barDeadline s n
  | 4 => watchExpire s n
  | 5 => remoteDue s n
  | _ => s

/-- DEADLINE_EXPIRE (R102). -/
def execDeadlineExpire (handle : Nat) (s : State) : Host.Outcome State Fault Refusal := .next (deadlineExpire s handle)

end Sys2Proof.Machine
end

