-- ==== Sys2Proof/Machine/Gate.lean ====
section
/-!
DEFINITION. What Sudric checks of a request before it runs the service: the boot stage, the caller, the arguments, the partition's
state, the unit and its expert control (R58, R79, R82, R408, R492, R560, R669, R681).
-/
namespace Sys2Proof.Machine
open Sys2Proof

/-- Callers and mailboxes that the catalogue allows a service (R500). -/
inductive Who where
  /-- any mailbox -/
  | any
  /-- root; 0 -/
  | root0
  /-- root; 0, 65 -/
  | root
  /-- the software of a partition through its own mailbox -/
  | driver
  /-- root or BMC; 0, 64 -/
  | start
  /-- any; 0 to 64 -/
  | attest
  /-- BMC; 64 -/
  | bmc
  /-- root; 65 -/
  | cascade
deriving DecidableEq, Repr

/-- The catalogue allows a service to a mailbox (R500). -/
def Who.ok (w : Who) (m : Nat) : Bool :=
  match w with
  | .any => true
  | .root0 => m == 0
  | .root => m == 0 || m == 65
  | .driver => decide (m < 64)
  | .start => m == 0 || m == 64
  | .attest => decide (m ≤ 64)
  | .bmc => m == 64
  | .cascade => m == 65

/-- A service of the catalogue: its code, its callers, the bits each argument word may use, and the pages of the unit it needs and of
the registers it writes. -/
structure Svc where
  code : Nat
  who : Who
  masks : List Word
  /-- a unit that must be present, unfenced and enabled (R14, R58, R492) -/
  unit : Option Nat := none
  /-- a page whose registers the service writes (R79, R82) -/
  page : Option Nat := none

/-- Service codes that a stage of start-up answers (R560, R669, R681). -/
def bootAllows (s : State) (m svc : Nat) : Bool :=
  if s.fuses.lifecycle == .retired then m == 64 && (svc == 0x0001 || svc == 0x00B0)
  else if s.boot.stage = 0xF then svc == 0x0001 || svc == 0x00B0
  else if s.boot.stage = 9 then true
  else svc == 0x0001 || svc == 0x00A0 || svc == 0x00B0 || (svc == 0x0003 && s.boot.running)

/-- Argument i of a request; 0 when it has none. -/
def argOf (l : List Word) (i : Nat) : Word := l.getD i 0

/-- The arguments have the catalogue's count and set no reserved bit (R492). -/
def argsOk (masks args : List Word) : Bool :=
  args.length == masks.length && (args.zip masks).all (fun x => x.1 &&& ~~~ x.2 == 0)

/-- The partition of a mailbox takes services: it is not closing (R408), and a driver's partition exists. -/
def partServes (s : State) (w : Who) (m : Nat) : Bool :=
  decide (64 ≤ m) || ((part s m).st != .closing && (part s m).st != .scrub && (w != .driver || partExists s m))

/-- Sudric takes requests of a mailbox now. -/
def mbServed (s : State) (m : Nat) : Bool := decide (m < 66) && sudricServes s m && (m != 65 || s.cas.master)

/-- The status that refuses a request before it runs, and whether it is the override refusal of R79. -/
def gateStatus (s : State) (m : Nat) (v : Svc) (args : List Word) : Option (Status × Bool) :=
  if !bootAllows s m v.code || !v.who.ok m || !argsOk v.masks args || !partServes s v.who m then some (.permission, false)
  else if v.unit.any (fun p => !present s p || fenced s p) then some (.unitAbsent, false)
  else if v.unit.any (fun p => !enabled s p) then some (.permission, false)
  else if v.page.any (fun p => (page s p).expert) then some (.permission, true)
  else none

/-- Services of cascade scope (R501): partition, context, space, object-table, fault-ring, dispatch-ring, reduction and tiering
services. -/
def cascadeScope (code : Nat) : Bool :=
  [0x20, 0x21, 0x22, 0x23, 0x30, 0x31, 0x32, 0x33, 0x36, 0x37, 0x38, 0x60, 0x61, 0x62, 0x63, 0x70, 0x71, 0x72].contains code

/-- Position of the master: a direct neighbour that is it, or the block whose messages told it. -/
def masterPos (s : State) : Option Nat :=
  match (tsome s.cas.peers).find? (fun e => e.2.up && e.2.master) with
  | some e => some e.2.pos
  | none => s.cas.masterAt

/-- Sudric relays a request to the master (R501). One that no route takes there is answered PARTNER_ABSENT: the spec states no status
for it (DESIGN CHOICE, log entry 71). -/
def relaySvc (s : State) (m seq : Nat) (v : Svc) (args : List Word) : State :=
  match (masterPos s).filter (fun b => (casPort s b).isSome) with
  | some b => casSend s { src := s.cas.pos, dst := b, cls := 5, bytes := 16 + 8 * args.length, load := .svc m (seq % 256) v.code args }
  | none => reply s m seq v.code .partnerAbsent

/-- Services on contexts, which the block holds whose queues they serve (R409, R416). -/
def ctxScope (code : Nat) : Bool := code == 0x30 || code == 0x31

/-- Sudric runs a request, after a check of R81 on the page that it writes has ended (R82). A service of cascade scope, but for those on contexts,
runs on every block: the master tells the others (R501; log entry 71). -/
def runSvc (s : State) (m seq : Nat) (v : Svc) (args : List Word) (f : State → State) : State :=
  let t := match v.page with
    | some p => overrideCheck s p
    | none => s
  f (if s.cas.master && cascadeScope v.code && !ctxScope v.code then casAll t (.svc m (silent seq) v.code args) else t)

/-- A request that Sudric popped: it is relayed to the master, refused with a reply, or it runs (R82, R501, R573). The
master passes a service on a context back to the block that relayed it. -/
def gate (s : State) (m seq : Nat) (v : Svc) (args : List Word) (f : State → State) : State :=
  if seq < 256 ∧ !mbServed s m then s
  else
    let t := oweReply s m seq v.code
    if 2 ^ 16 ≤ seq then runSvc t m seq v args f
    else if !s.cas.master && seq < 256 && (cascadeScope v.code || v.code == 0x80) then
      (if !bootAllows t m v.code then reply t m seq v.code .permission else relaySvc t m seq v args)
    else match gateStatus t m v args with
      | some (st, o) => reply t m seq v.code st [] o
      | none =>
        if 256 ≤ seq ∧ ctxScope v.code then
          casSend t { src := t.cas.pos, dst := seq / 256 - 1, cls := 5, bytes := 16 + 8 * args.length, load := .svc m (passedBack seq) v.code args }
        else runSvc t m seq v args f

end Sys2Proof.Machine
end

