-- ==== Sys2Proof/Machine/Services.lean ====
section
/-!
DEFINITION. The general services of the catalogue and those of a driver: versions, the override log, replies, the beacon, contexts,
spaces, queues, tables and rings, resumes, watches, channels and transform programs (R500).
-/
namespace Sys2Proof.Machine
open Sys2Proof

/-! ## VERSION, OVERRIDE_LOG, LAST_REPLY -/

/-- Lowest and highest interface version of a G1 block, and its generation (R658). -/
def verLow : Nat := 1
def verHigh : Nat := 1
def blockGen : Nat := 1

/-- R1 of VERSION (R658). -/
def versionWord (agreed : Nat) : Word := pack [(0, agreed), (8, verLow), (16, verHigh), (24, blockGen)]

/-- VERSION (R658, R659). -/
def svcVersion (s : State) (m seq : Nat) (args : List Word) : State :=
  gate s m seq { code := 0x0001, who := .any, masks := [mask 15 0] } args (fun t =>
    let high := fld (argOf args 0) 7 0
    let low := max 1 (fld (argOf args 0) 15 8)
    let v := min high verHigh
    if high = 0 ∨ v < max low verLow then reply t m seq 0x0001 .permission [versionWord 0]
    else reply (updMb t m (fun b => { b with version := v })) m seq 0x0001 .ok [versionWord v])

/-- VERSION (R658). -/
def execVersion (mb seq : Nat) (args : List Word) (s : State) : Host.Outcome State Fault Refusal := .next (svcVersion s mb seq args)

/-- The two words of an override log entry (R499). -/
def overrideWords (p : Nat) (e : Override) : List Word :=
  [pack [(0, p % 256), (8, e.off % 65536), (24, e.lsb % 64), (30, (e.width - 1) % 64), (36, e.st % 4)], e.value]

/-- OVERRIDE_LOG: the newest 7 entries of a page (R499). -/
def svcOverrideLog (s : State) (m seq : Nat) (args : List Word) : State :=
  gate s m seq { code := 0x0002, who := .root0, masks := [mask 7 0] } args (fun t =>
    let p := fld (argOf args 0) 7 0
    if !isPage p then reply t m seq 0x0002 .permission
    else if !present t p then reply t m seq 0x0002 .unitAbsent
    else reply t m seq 0x0002 .ok (((page t p).log.take 7).flatMap (overrideWords p)))

/-- OVERRIDE_LOG (R499). -/
def execOverrideLog (mb seq : Nat) (args : List Word) (s : State) : Host.Outcome State Fault Refusal :=
  .next (svcOverrideLog s mb seq args)

/-- LAST_REPLY (R500): the header of the newest of the last 16 requests with a SEQ, or TIMEOUT. -/
def svcLastReply (s : State) (m seq : Nat) (args : List Word) : State :=
  gate s m seq { code := 0x0003, who := .any, masks := [mask 7 0] } args (fun t =>
    match (mbox t m).recent.find? (fun h => fld h 31 24 == fld (argOf args 0) 7 0) with
    | some h => reply t m seq 0x0003 .ok [h]
    | none => reply t m seq 0x0003 .timeout)

/-- LAST_REPLY (R500). -/
def execLastReply (mb seq : Nat) (args : List Word) (s : State) : Host.Outcome State Fault Refusal :=
  .next (svcLastReply s mb seq args)

/-! ## BCN_SET -/

/-- PERIOD_NOM of a period in ns at the fclk of the start parameters, rounded to the nearest cycle. -/
def periodOf (s : State) (ns : Nat) : Nat := (ns * s.boot.fclkKhz + 500000) / 1000000

/-- Sudric's WIN: a thirty-second of PERIOD_NOM, rounded up to a multiple of 8 cyc. -/
def winOf (p : Nat) : Nat := cdiv p 256 * 8

/-- SUB_SHIFT: the smallest from 0 to 5 under which PERIOD_NOM + WIN fits in 11 bits (R95). -/
def shiftOf (p w : Nat) : Nat := ((List.range 6).find? (fun k => decide ((p + w) >>> k ≤ 0x7FF))).getD 5

/-- BCN_CFG and BCN_PERIOD for a period in ns, SRC and RESYNC_N, OUT_EN as it stands. -/
def bcnWords (s : State) (ns src n : Nat) : Word × Word :=
  let p := periodOf s ns
  let w := winOf p
  (pack [(0, src), (2, b2n (bitOf s.bcn.cfg 2)), (4, shiftOf p w), (16, n)], pack [(0, p), (20, w)])

/-- SRC and the beacon period of the start parameters are set as BCN_SET would set them (R673): a SRC that the block cannot take leaves SRC as
it is, and a period that is not known yet leaves the reset value. -/
def beaconSet (s : State) (src : Nat) : State :=
  let (c, p) := if s.boot.beaconNs = 0 then (setFld s.bcn.cfg 1 0 src, s.bcn.periodNext.getD s.bcn.period) else bcnWords s s.boot.beaconNs src (fld s.bcn.cfg 23 16)
  let c := if (bcnCfgSet s c).2 = .ok then c else setFld c 1 0 (fld s.bcn.cfg 1 0)
  let t := (bcnPeriodSet (bcnCfgSet s c).1 p).1
  noteBasic (noteBasic t pBCN 0x200 0 c) pBCN 0x208 0 p

/-- BCN_SET (R89, R500): both registers as one group (R78). -/
def svcBcnSet (s : State) (m seq : Nat) (args : List Word) : State :=
  gate s m seq { code := 0x0010, who := .root, masks := [mask 23 0, mask 1 0 ||| mask 23 16], page := some pBCN } args (fun t =>
    let ns := fld (argOf args 0) 23 0
    let (c, p) := bcnWords t ns (fld (argOf args 1) 1 0) (fld (argOf args 1) 23 16)
    if ns < 250 ∨ 16000 < ns then reply t m seq 0x0010 .permission
    else match bcnCfgSet t c with
      | (u, .ok) => match bcnPeriodSet u p with
        | (v, .ok) => reply (noteBasic (noteBasic v pBCN 0x200 0 c) pBCN 0x208 0 p) m seq 0x0010 .ok
        | (_, st) => reply t m seq 0x0010 st
      | (_, st) => reply t m seq 0x0010 st)

/-- BCN_SET (R89). -/
def execBcnSet (mb seq : Nat) (args : List Word) (s : State) : Host.Outcome State Fault Refusal := .next (svcBcnSet s mb seq args)

/-! ## Contexts -/

/-- The lowest FREE context. -/
def freeCtx (s : State) : Option Nat := (List.range 4096).find? (fun i => (tget s.lmp.ctxs i).st == .free && unitOpen s uCtx i)

/-- Number of a context of this block (R409). -/
def ctxNum (s : State) (i : Nat) : Nat := i + 4096 * s.cas.pos

/-- CTX_CREATE (R410, R500). -/
def svcCtxCreate (s : State) (m seq : Nat) (args : List Word) : State :=
  gate s m seq { code := 0x0030, who := .driver, masks := [mask 11 0], page := some pLMP } args (fun t =>
    let sp := fld (argOf args 0) 11 0
    if !ownSpace t m sp then reply t m seq 0x0030 .permission
    else match freeCtx t with
      | none => reply t m seq 0x0030 .quota
      | some i =>
        let u := { takeUnit t uCtx i with
          lan := { t.lan with spaces := tupd t.lan.spaces sp (fun x => { x with bound := x.bound + 1 }) }
          lmp := { t.lmp with ctxs := tset t.lmp.ctxs i { part := m, space := sp, st := .live } } }
        reply (noteSel u pLMP 0x240 i) m seq 0x0030 .ok [w64 (ctxNum t i)])

/-- CTX_CREATE (R410). -/
def execCtxCreate (mb seq : Nat) (args : List Word) (s : State) : Host.Outcome State Fault Refusal :=
  .next (svcCtxCreate s mb seq args)

/-- CTX_DESTROY (R411, R500): the reply comes when the context is FREE. -/
def svcCtxDestroy_ (s : State) (m seq : Nat) (args : List Word) : State :=
  gate s m seq { code := svcCtxDestroy, who := .driver, masks := [mask 15 0], page := some pLMP } args (fun t =>
    let c := fld (argOf args 0) 15 0
    let x := ctxOf t c
    if (ctxIdx t c).isNone then reply t m seq svcCtxDestroy .permission
    else if x.st == .free then reply t m seq svcCtxDestroy .ok
    else if x.part != m then reply t m seq svcCtxDestroy .permission
    else if x.st == .killing || x.killMb.isSome then reply t m seq svcCtxDestroy .ok
    else
      let u := updCtx t c (fun x => { x with killMb := some (m, seq), st := if x.st == .lost then .killing else x.st })
      doom u c .contextLost)

/-- CTX_DESTROY (R411). -/
def execCtxDestroy (mb seq : Nat) (args : List Word) (s : State) : Host.Outcome State Fault Refusal :=
  .next (svcCtxDestroy_ s mb seq args)

/-! ## Spaces -/

/-- The lowest free space: handed to nobody, bound to nothing and with no root (R718). -/
def freeSpace (s : State) : Option Nat :=
  (List.range 4096).find? (fun i => let x := tget s.lan.spaces i
                                    !x.taken && !x.valid && x.bound == 0 && unitOpen s uSpace i)

/-- SPACE_GET (R131, R500). -/
def svcSpaceGet (s : State) (m seq : Nat) (args : List Word) : State :=
  gate s m seq { code := 0x0032, who := .driver, masks := [mask 51 15], page := some pLAN } args (fun t =>
    match freeSpace t with
    | none => reply t m seq 0x0032 .quota
    | some i =>
      let u := { takeUnit t uSpace i with lan := { t.lan with spaces := tupd t.lan.spaces i (fun x =>
        { x with valid := true, root := fld (argOf args 0) 51 15 * 2 ^ 15, part := m, taken := true, sizes := 0 }) } }
      reply (noteSels u pLAN i [0x218, 0x220]) m seq 0x0032 .ok [w64 i])

/-- SPACE_GET (R131). -/
def execSpaceGet (mb seq : Nat) (args : List Word) (s : State) : Host.Outcome State Fault Refusal :=
  .next (svcSpaceGet s mb seq args)

/-- SPACE_PUT (R132, R718): the reply comes with the completion of its withdrawal. -/
def svcSpacePut_ (s : State) (m seq : Nat) (args : List Word) : State :=
  gate s m seq { code := svcSpacePut, who := .driver, masks := [mask 11 0], page := some pLAN } args (fun t =>
    let i := fld (argOf args 0) 11 0
    let x := tget t.lan.spaces i
    if x.bound ≠ 0 ∨ x.part ≠ m ∨ x.putMb.isSome then reply t m seq svcSpacePut .permission
    else
      let u := { t with lan := { t.lan with spaces := tupd t.lan.spaces i (fun x => { x with putMb := some (m, seq) }) } }
      wdAsk u 2 i 0 0 (.space i m seq) m)

/-- SPACE_PUT (R718). -/
def execSpacePut (mb seq : Nat) (args : List Word) (s : State) : Host.Outcome State Fault Refusal :=
  .next (svcSpacePut_ s mb seq args)

/-! ## Queues -/

/-- A queue is free (R655). -/
def queueFree (s : State) (q : Nat) : Bool :=
  let k := queue s q
  !k.enable && !k.bound && qInFlight s q == 0 && k.killMb.isNone

/-- The lowest free queue. -/
def freeQueue (s : State) : Option Nat := (List.range 1024).find? (fun q => queueFree s q && unitOpen s uQueue q)

/-- Q_CTL of a QUEUE_CREATE: ENABLE, PRIV, LOG2, CONTEXT. -/
def queueCtl (a3 : Word) : Word := pack [(0, 1), (1, b2n (bitOf a3 32)), (2, fld a3 4 0), (16, fld a3 31 16)]

/-- The queue that a QUEUE_CREATE of a partition describes. -/
def newQueue (p : Nat) (a1 a2 a3 : Word) : Queue :=
  { base := a1 &&& mask 56 6, cbase := a2 &&& mask 56 5, enable := true, priv := bitOf a3 32, log2 := fld a3 4 0, ctx := fld a3 31 16,
    bound := true, part := p }

/-- QUEUE_CREATE (R416, R443, R655). -/
def svcQueueCreate (s : State) (m seq : Nat) (args : List Word) : State :=
  gate s m seq { code := 0x0034, who := .driver, masks := [mask 56 6, mask 56 5, mask 4 0 ||| mask 32 16], page := some pLMP } args (fun t =>
    let a3 := argOf args 2
    let k := newQueue m (argOf args 0) (argOf args 1) a3
    if bitOf a3 32 && m != 0 then reply t m seq 0x0034 .permission
    else if !mayEnable t k (queueCtl a3) then reply t m seq 0x0034 .permission
    else match freeQueue t with
      | none => reply t m seq 0x0034 .quota
      | some q => reply (noteSels (updQ (takeUnit t uQueue q) q (fun _ => k)) pLMP q [0x218, 0x220, 0x228]) m seq 0x0034 .ok [w64 q])

/-- QUEUE_CREATE (R416). -/
def execQueueCreate (mb seq : Nat) (args : List Word) (s : State) : Host.Outcome State Fault Refusal :=
  .next (svcQueueCreate s mb seq args)

/-- QUEUE_DESTROY (R424, R500): the reply follows the last retirement. -/
def svcQueueDestroy_ (s : State) (m seq : Nat) (args : List Word) : State :=
  gate s m seq { code := svcQueueDestroy, who := .driver, masks := [mask 9 0], page := some pLMP } args (fun t =>
    let q := fld (argOf args 0) 9 0
    let k := queue t q
    if queueFree t q || k.part != m || k.killMb.isSome then reply t m seq svcQueueDestroy .permission
    else queueDrained (noteSel (updQ t q (fun k => { k with enable := false, killMb := some (m, seq) })) pLMP 0x228 q) q)

/-- QUEUE_DESTROY (R424). -/
def execQueueDestroy (mb seq : Nat) (args : List Word) (s : State) : Host.Outcome State Fault Refusal :=
  .next (svcQueueDestroy_ s mb seq args)

/-! ## Tables and rings -/

/-- OBJ_TABLE_SET (R433, R445). -/
def svcObjTableSet (s : State) (m seq : Nat) (args : List Word) : State :=
  gate s m seq { code := 0x0036, who := .driver, masks := [mask 4 0 ||| mask 51 12, mask 51 6, mask 4 0 ||| mask 31 8 ||| mask 63 32],
                 page := some pLMP } args (fun t =>
    let (a1, a2, a3) := (argOf args 0, argOf args 1, argOf args 2)
    if partCtxBusy t m || !objTableOk t m a1 a2 a3 then reply t m seq 0x0036 .permission
    else
      let u := updPart t m (fun q => { q with objTbl := a1, relBase := a2, relCtl := a3, relProduce := 0, relHold := [], relFail := false })
      reply (noteSels u pLMP m [0x258, 0x260, 0x268]) m seq 0x0036 .ok)

/-- OBJ_TABLE_SET (R433). -/
def execObjTableSet (mb seq : Nat) (args : List Word) (s : State) : Host.Outcome State Fault Refusal :=
  .next (svcObjTableSet s mb seq args)

/-- The block runs a service for the master, which took and gave the references that it names (R501; log entry 71). -/
def isSilent (seq : Nat) : Bool := decide (2 ^ 16 ≤ seq)

/-- Sudric takes a request of a service when the lines that it reads or changes are ready for it: until then it asks for them, and takes the
request in the next event tick (R36). A request that is not taken here, or goes to the master, asks for none. -/
def sudricReads (s : State) (i : Instr) (m seq code : Nat) (reads recs : List Nat) (f : State → State) : State :=
  if seq < 256 ∧ (!mbServed s m ∨ (!s.cas.master ∧ cascadeScope code)) then f s
  else match linesAsk s kSudric (if isSilent seq then reads ++ recs else reads) (if isSilent seq then [] else recs) with
    | some u => later u i
    | none => f (ownDone s kSudric)

/-- An object of the partition as a ring registration checks it (R722): FENCE required or not, and bytes it must hold. -/
def ringObjOk (s : State) (p id : Nat) (fence : Bool) (bytes : Nat) : Bool :=
  let (st, a) := objWhere s p id
  st == .ok && objWord0Ok (rdWord s a) p id && (!fence || bitOf (rdWord s a) 2) && decide (bytes ≤ fld (rdWord s (a + 24)) 31 0 * 2 ^ 22)

/-- A registration takes a reference on each object it names; one that fails gives back those taken before it. -/
def takeAll (s : State) (p : Nat) : List Nat → List Nat → State × Status
  | _, [] => (s, .ok)
  | got, id :: t =>
    let (u, st, _) := objOp s p id true
    if st == .ok then takeAll u p (id :: got) t
    else (got.foldl (fun v i => dropRef v p i) (refCount u p st), st)

/-- References of the fault ring that is registered. -/
def faultRefs (q : Part) : List Nat := match q.faultObj with
  | some o => [o, q.faultFObj]
  | none => []

/-- FAULT_RING_SET (R179, R722). -/
def svcFaultRingSet (s : State) (m seq : Nat) (args : List Word) : State :=
  gate s m seq { code := 0x0037, who := .driver, masks := [mask 23 0, mask 4 0, mask 23 0 ||| mask 63 32] } args (fun t =>
    let o := fld (argOf args 0) 23 0
    let n := fld (argOf args 1) 4 0
    let f := fld (argOf args 2) 23 0
    let i := fld (argOf args 2) 63 32
    if n < 6 ∨ 16 < n ∨ !ringObjOk t m o false (64 + 2 ^ n * 64) ∨ !ringObjOk t m f true ((i + 1) * 64) then reply t m seq 0x0037 .permission
    else
      let old := faultRefs (part t m)
      match (if isSilent seq then (t, .ok) else takeAll t m [] [o, f]) with
      | (u, .ok) =>
        let v := updPart u m (fun q => { q with faultObj := some o, faultLog := n, faultFObj := f, faultFIdx := i, faultProduce := 0, ringFail := false })
        reply (if isSilent seq then v else old.foldl (fun v i => dropRef v m i) v) m seq 0x0037 .ok
      | (u, st) => reply u m seq 0x0037 st)

/-- FAULT_RING_SET, once the records that it reads and changes are ready (R36, R722). -/
def takeFaultRingSet (s : State) (mb seq : Nat) (args : List Word) : State :=
  sudricReads s (.faultRingSet mb seq args) mb seq 0x0037 []
    (objLines s mb ([fld (argOf args 0) 23 0, fld (argOf args 2) 23 0] ++ faultRefs (part s mb))) (fun t => svcFaultRingSet t mb seq args)

/-- FAULT_RING_SET (R722). -/
def execFaultRingSet (mb seq : Nat) (args : List Word) (s : State) : Host.Outcome State Fault Refusal :=
  .next (takeFaultRingSet s mb seq args)

/-- DISPATCH_RING_SET (R430, R722). -/
def svcDispatchRingSet (s : State) (m seq : Nat) (args : List Word) : State :=
  gate s m seq { code := 0x0038, who := .driver, masks := [mask 23 0, mask 3 0] } args (fun t =>
    let o := fld (argOf args 0) 23 0
    let n := fld (argOf args 1) 3 0
    if n < 4 ∨ 12 < n ∨ !ringObjOk t m o true (2 ^ n * 128) then reply t m seq 0x0038 .permission
    else
      let old := (part t m).dispObj
      match (if isSilent seq then (t, .ok) else takeAll t m [] [o]) with
      | (u, .ok) =>
        let v := updPart u m (fun q => { q with dispObj := some o, dispLog := n, dispNext := 0 })
        reply (if isSilent seq then v else old.toList.foldl (fun v i => dropRef v m i) v) m seq 0x0038 .ok
      | (u, st) => reply u m seq 0x0038 st)

/-- DISPATCH_RING_SET, once the records that it reads and changes are ready (R36, R722). -/
def takeDispatchRingSet (s : State) (mb seq : Nat) (args : List Word) : State :=
  sudricReads s (.dispatchRingSet mb seq args) mb seq 0x0038 [] (objLines s mb ([fld (argOf args 0) 23 0] ++ (part s mb).dispObj.toList))
    (fun t => svcDispatchRingSet t mb seq args)

/-- DISPATCH_RING_SET (R722). -/
def execDispatchRingSet (mb seq : Nat) (args : List Word) (s : State) : Host.Outcome State Fault Refusal :=
  .next (takeDispatchRingSet s mb seq args)

/-! ## RESUME -/

/-- RESUME: the verdict on a paused token (R183 to R185). -/
def svcResume (s : State) (m seq : Nat) (args : List Word) : State :=
  gate s m seq { code := 0x0039, who := .driver, masks := [mask 16 0] } args (fun t =>
    let k := fld (argOf args 0) 15 0
    let x := tget t.eng.tokens k
    if k = 0 ∨ 1024 < k ∨ x.st == .free then reply t m seq 0x0039 .timeout
    else if x.part != m then reply t m seq 0x0039 .permission
    else if x.st != .paused then reply t m seq 0x0039 .timeout
    else reply (if bitOf (argOf args 0) 16 then tokenAbort t k .unmapped else moverRetry (tokenRetry t k) k) m seq 0x0039 .ok)

/-- RESUME_RETRY: RESUME with the verdict 0, RETRY (R183). -/
def execResumeRetry (mb seq : Nat) (args : List Word) (s : State) : Host.Outcome State Fault Refusal :=
  .next (svcResume s mb seq (lmod args 0 (fun a => setBit a 16 false)))

/-- RESUME_ABORT: RESUME with the verdict 1, ABORT (R183). -/
def execResumeAbort (mb seq : Nat) (args : List Word) (s : State) : Host.Outcome State Fault Refusal :=
  .next (svcResume s mb seq (lmod args 0 (fun a => setBit a 16 true)))

/-! ## Watches of a host -/

/-- FENCE_WATCH (R463). -/
def svcFenceWatch (s : State) (m seq : Nat) (args : List Word) : State :=
  gate s m seq { code := 0x0040, who := .driver, masks := [mask 23 0 ||| mask 63 32, BitVec.allOnes 64, mask 36 0] } args (fun t =>
    let obj := fld (argOf args 0) 23 0
    let idx := fld (argOf args 0) 63 32
    let d := fld (argOf args 2) 31 0
    let bit := fld (argOf args 2) 36 32
    match fenceCheck t m obj idx with
    | none => reply t m seq 0x0040 .permission
    | some g =>
      match gpaLookup t m g with
      | (.ok, a, node) =>
        if bit < 8 ∨ (node.isNone ∧ recKind t a ≠ 0) then reply t m seq 0x0040 .permission
        else match freeWatch t m with
          | none => reply t m seq 0x0040 .quota
          | some i =>
            let (u, st, _) := objOp t m obj true
            if st != .ok then reply (refCount u m st) m seq 0x0040 st
            else
              let w : Watch := { host := some bit, part := m, obj := obj, idx := idx, npa := a, node := node.getD 0, remote := node.isSome,
                                 target := argOf args 1, due := if d = 0 then none else some (t.bcn.count + w64 d) }
              let v := takeUnit u uWatch i
              reply (if w.remote then pollStart v i w else setWatch v i (some w)) m seq 0x0040 .ok [w64 i]
      | (st, _, _) => reply t m seq 0x0040 st)

/-- FENCE_WATCH, once the records that it reads and changes are ready (R36, R463). -/
def takeFenceWatch (s : State) (mb seq : Nat) (args : List Word) : State :=
  sudricReads s (.fenceWatch mb seq args) mb seq 0x0040 (fenceLine s mb (fld (argOf args 0) 23 0) (fld (argOf args 0) 63 32))
    (objLines s mb [fld (argOf args 0) 23 0]) (fun t => svcFenceWatch t mb seq args)

/-- FENCE_WATCH (R463). -/
def execFenceWatch (mb seq : Nat) (args : List Word) (s : State) : Host.Outcome State Fault Refusal := .next (takeFenceWatch s mb seq args)

/-- FENCE_UNWATCH (R463): the doorbell bit is set and the pin dropped. -/
def svcFenceUnwatch (s : State) (m seq : Nat) (args : List Word) : State :=
  gate s m seq { code := 0x0041, who := .driver, masks := [mask 12 0] } args (fun t =>
    let i := fld (argOf args 0) 12 0
    match watchOf t i with
    | some w => if w.host.isSome && w.part == m then reply (watchEnd t i .ok) m seq 0x0041 .ok else reply t m seq 0x0041 .permission
    | none => reply t m seq 0x0041 .permission)

/-- FENCE_UNWATCH (R463). -/
def execFenceUnwatch (mb seq : Nat) (args : List Word) (s : State) : Host.Outcome State Fault Refusal :=
  .next (svcFenceUnwatch s mb seq args)

/-! ## Channels and transform programs -/

/-- Bits of CH_CTL that software sets (R344). -/
def chCtlMask : Word := mask 10 0 ||| mask 17 14 ||| mask 30 23 ||| mask 43 32

/-- CHAN_ASSIGN (R313, R320). -/
def svcChanAssign (s : State) (m seq : Nat) (args : List Word) : State :=
  gate s m seq { code := 0x0050, who := .root0, masks := [mask 5 0, chCtlMask], unit := some pMOV, page := some pMOV } args (fun t =>
    let ch := fld (argOf args 0) 5 0
    match chCtlPut t ch (argOf args 1) with
    | (u, .ok) => reply (noteSel u pMOV 0x208 ch) m seq 0x0050 .ok
    | (_, st) => reply t m seq 0x0050 st)

/-- CHAN_ASSIGN (R313). -/
def execChanAssign (mb seq : Nat) (args : List Word) (s : State) : Host.Outcome State Fault Refusal :=
  .next (svcChanAssign s mb seq args)

/-- The 256 bytes of an image at a GPA of the partition: its words, or the status that forbids the read. -/
def gpaImage (s : State) (p gpa : Nat) : Except Status (List Word) :=
  match gpaLookup s p gpa with
  | (.ok, a, none) => if bytesPois s a 256 then .error .poison else .ok (rdWords s a 32)
  | (.ok, _, some _) => .error .permission
  | (st, _, _) => .error st

/-- XFM_LOAD (R366, R367). -/
def svcXfmLoad (s : State) (m seq : Nat) (args : List Word) : State :=
  gate s m seq { code := 0x0051, who := .driver, masks := [mask 7 0, mask 51 8], unit := some pXFM } args (fun t =>
    let sl := fld (argOf args 0) 7 0
    let own := tget t.xfm.own sl
    if fld own 9 0 ≠ m ∨ bitOf own 11 then reply t m seq 0x0051 .permission
    else match gpaImage t m (fld (argOf args 1) 51 8 * 256) with
      | .error st => reply t m seq 0x0051 st
      | .ok p =>
        if !progFieldsOk p then reply t m seq 0x0051 .permission
        else
          let x := (List.range 32).foldl (fun y i => tset y (32 * sl + i) (p.getD i 0)) t.xfm.store
          reply (fpDirty { t with xfm := { t.xfm with store := x } }) m seq 0x0051 .ok)

/-- Lines of n bytes at a GPA of a partition, when they lie in this package. -/
def gpaLines (s : State) (p gpa n : Nat) : List Nat :=
  match gpaLookup s p gpa with
  | (.ok, a, none) => linesOf a n
  | _ => []

/-- XFM_LOAD, once the lines of its image are ready (R36, R367). -/
def takeXfmLoad (s : State) (mb seq : Nat) (args : List Word) : State :=
  sudricReads s (.xfmLoad mb seq args) mb seq 0x0051 (gpaLines s mb (fld (argOf args 1) 51 8 * 256) 256) [] (fun t => svcXfmLoad t mb seq args)

/-- XFM_LOAD (R367). -/
def execXfmLoad (mb seq : Nat) (args : List Word) (s : State) : Host.Outcome State Fault Refusal := .next (takeXfmLoad s mb seq args)

end Sys2Proof.Machine
end

