-- ==== Sys2Proof/Machine/Windows.lean ====
section
/-!
DEFINITION. Services over ranges of memory: coherent windows, ordered reduction sessions and the enrolment of objects for tiering
(R299, R300, R374 to R377, R383, R545, R546).
-/
namespace Sys2Proof.Machine
open Sys2Proof

/-! ## Ranges of a layout, in 4 MiB granules -/

/-- The pools and the decode aperture, as granule ranges (R371, R568). -/
def poolRanges (s : State) : List (Nat × Nat) :=
  let t := s.tir
  if !s.build.tir then []
  else [(t.nearBase.toNat / 2 ^ 22, min 65536 t.nearPages.toNat), (t.farBase.toNat / 2 ^ 22, cdiv (t.farUnits.toNat) 8)] ++
    (if t.decodeBase = 0 then [] else [(t.decodeBase.toNat / 2 ^ 22, 65536)])

/-- The end of the memory range that serves a granule; none when no range serves it. -/
def servedTo (s : State) (g : Nat) : Option Nat := (rangeOf s (g * 32768)).map (fun r => fld r.base 45 22 + fld r.ctl 23 0)

/-- Every granule from g to e is served by a memory range: n ranges at most. -/
def servedAll (s : State) : Nat → Nat → Nat → Bool
  | 0, g, e => decide (e ≤ g)
  | n + 1, g, e => decide (e ≤ g) || (match servedTo s g with
    | some x => servedAll s n x e
    | none => false)

/-- Granules lie wholly in partition 0's layout (R568): served, in no entry and in no pool or aperture. -/
def rootOwns (s : State) (g n : Nat) : Bool :=
  decide (g + n ≤ 2 ^ 24) && servedAll s 17 g (g + n) &&
  !s.sec.layout.any (fun e => e.2.valid && overlap e.2.base e.2.len g n) &&
  !(poolRanges s).any (fun r => overlap r.1 r.2 g n)

/-- The end of the layout entry of a partition that covers a granule. -/
def entryTo (s : State) (p g : Nat) : Option Nat :=
  (s.sec.layout.find? (fun e => e.2.valid && !e.2.held && e.2.removing == 0 && e.2.part == p && decide (e.2.base ≤ g) && decide (g < e.2.base + e.2.len))).map
    (fun e => e.2.base + e.2.len)

/-- Every granule from g to e is covered by entries of a partition. -/
def entryAll (s : State) (p : Nat) : Nat → Nat → Nat → Bool
  | 0, g, e => decide (e ≤ g)
  | n + 1, g, e => decide (e ≤ g) || (match entryTo s p g with
    | some x => entryAll s p n x e
    | none => false)

/-- Granules lie wholly in a partition's layout (R568). -/
def partOwns (s : State) (p g n : Nat) : Bool := if p = 0 then rootOwns s g n else entryAll s p 1025 g (g + n)

/-- Lines lie wholly in a partition's layout. -/
def partOwnsLines (s : State) (p line n : Nat) : Bool :=
  let g := line / 32768
  partOwns s p g ((line + n + 32767) / 32768 - g)

/-! ## Coherent windows -/

/-- Base and length of a window in granules. -/
def winBase (w : Window) : Nat := fld w.w1 47 24
def winSize (w : Window) : Nat := fld w.w1 23 0

/-- Two windows admit a common peer (R544, R545). -/
def peersMeet (a b : Window) : Bool :=
  (bitOf a.w0 26 || bitOf b.w0 26 || fld a.w0 42 27 == fld b.w0 42 27) && (bitOf a.w0 25 || bitOf b.w0 25 || fld a.w0 24 15 == fld b.w0 24 15)

/-- A line lies in a window. -/
def inWin (w : Window) (line : Nat) : Bool := decide (winBase w * 32768 ≤ line) && decide (line < (winBase w + winSize w) * 32768)

/-- A node is a peer of a window. -/
def winPeer (w : Window) (n : Nat) : Bool := bitOf w.w0 26 || fld w.w0 42 27 == n

/-- Lines of a window with a copy in a peer's package. -/
def winCopies (s : State) (w : Window) : List Nat :=
  (s.hom.dir.filter (fun e => inWin w e.1 && e.2.remote.any (winPeer w))).map (fun e => e.1)

/-- A window stops admitting requests and its remote copies are back-invalidated (R546). -/
def winClear (s : State) (i : Nat) (new : Window) : State :=
  let old := tget s.hom.windows i
  let t := { s with hom := { s.hom with windows := tset s.hom.windows i new } }
  if !bitOf old.w0 0 then t
  else
    let l := winCopies t old
    if l.isEmpty then t
    else
      let t := { t with hom := { t.hom with winDrain := tset t.hom.winDrain i old } }
      (l.filter (fun x => (txnOf t x).isNone)).foldl (fun u x => openRemoteInv u x (winPeer old)) t

/-- WINDOW_DRAIN_DONE: the last remote copy of a cleared window is gone (R546); copies that a transaction kept blocked are
back-invalidated in their turn. -/
def winDrained (s : State) (i : Nat) : State :=
  let w := tget s.hom.winDrain i
  if w = {} then s
  else
    let l := winCopies s w
    if l.isEmpty && !(tsome s.hom.txns).any (fun e => inWin w e.1 && e.2.kind == .remoteInv) then
      { s with hom := { s.hom with winDrain := tset s.hom.winDrain i {} } }
    else (l.filter (fun x => (txnOf s x).isNone)).foldl (fun u x => openRemoteInv u x (winPeer w)) s

/-- WINDOW_DRAIN_DONE (R546). -/
def execWindowDrainDone (w : Nat) (s : State) : Host.Outcome State Fault Refusal := .next (winDrained s w)

/-- The status that refuses to open a window (R545, R546). -/
def winRefused (s : State) (i : Nat) (w : Window) : Option Status :=
  if bitOf w.w0 1 && !s.build.cwin then some .unitAbsent
  else if bitOf (tget s.hom.windows i).w0 0 || tget s.hom.winDrain i != {} then some .permission
  else if !partOwns s (fld w.w0 14 5) (winBase w) (winSize w) then some .permission
  else if s.hom.windows.any (fun e => e.1 != i && bitOf e.2.w0 0 && peersMeet w e.2 && overlap (winBase w) (winSize w) (winBase e.2) (winSize e.2)) then
    some .permission
  else none

/-- CWIN_SET (R545, R546): VALID 0 clears the window. -/
def svcCwinSet (s : State) (m seq : Nat) (args : List Word) : State :=
  gate s m seq { code := 0x0068, who := .root, masks := [mask 5 0, mask 42 0, mask 47 0], page := some pHOM } args (fun t =>
    let i := fld (argOf args 0) 5 0
    let w : Window := { w0 := argOf args 1, w1 := argOf args 2 }
    if !bitOf w.w0 0 then reply (winClear t i w) m seq 0x0068 .ok
    else match winRefused t i w with
      | some st => reply t m seq 0x0068 st
      | none => reply { t with hom := { t.hom with windows := tset t.hom.windows i w } } m seq 0x0068 .ok)

/-- CWIN_SET (R545). -/
def execCwinSet (mb seq : Nat) (args : List Word) (s : State) : Host.Outcome State Fault Refusal := .next (svcCwinSet s mb seq args)

/-! ## Ordered reduction sessions -/

/-- The session that a record describes (R299). -/
def sessionOf (ws : List Word) (p npa : Nat) : Session :=
  let w := fun (i : Nat) => ws.getD i 0
  { fmt := fld (w 0) 3 0, rop := fld (w 0) 5 4, acc := bitOf (w 0) 6, init := bitOf (w 0) 7, n := fld (w 0) 27 8 + 1,
    target := fld (w 1) 45 7, lines := fld (w 2) 31 0, winLen := fld (w 2) 47 32, grace := fld (w 2) 55 48,
    fObj := fld (w 3) 23 0, fEn := bitOf (w 3) 24, fIdx := fld (w 3) 63 32, part := p, recNpa := npa }

/-- A record that RED_OPEN accepts (R299, R300): no reserved bit or value, an accumulation that its format has, and a target in the
opener's layout. -/
def sessionOk (s : State) (ws : List Word) (q : Session) : Bool :=
  let w := fun (i : Nat) => ws.getD i 0
  fld (w 0) 63 28 == 0 && fld (w 1) 63 46 == 0 && fld (w 1) 6 0 == 0 && fld (w 2) 63 56 == 0 && w 7 == 0 &&
  q.rop != 3 && fmtBytes q.fmt != 0 && !(q.acc && (fmtFloat q.fmt).isNone) && q.lines != 0 && q.winLen != 0 && q.grace != 0 &&
  partOwnsLines s q.part q.target q.lines

/-- The lowest session number not in use. -/
def freeSession (s : State) : Option Nat := (List.range 256).find? (fun i => (tget s.hom.sessions i).isNone && unitOpen s uSession i)

/-- RED_OPEN (R299, R300). -/
def svcRedOpen (s : State) (m seq : Nat) (args : List Word) : State :=
  gate s m seq { code := 0x0060, who := .driver, masks := [mask 51 6] } args (fun t =>
    match gpaLookup t m (fld (argOf args 0) 51 6 * 64) with
    | (.ok, a, none) =>
      let q := sessionOf (rdWords t a 8) m a
      if bytesPois t a 64 then reply t m seq 0x0060 .poison
      else if !sessionOk t (rdWords t a 8) q then reply t m seq 0x0060 .permission
      else match freeSession t with
        | none => reply t m seq 0x0060 .quota
        | some i => reply { takeUnit t uSession i with hom := { t.hom with sessions := tset t.hom.sessions i (some q) } } m seq 0x0060 .ok [w64 i]
    | (.ok, _, some _) => reply t m seq 0x0060 .permission
    | (st, _, _) => reply t m seq 0x0060 st)

/-- RED_OPEN, once the line of its record is ready (R36, R300). -/
def takeRedOpen (s : State) (mb seq : Nat) (args : List Word) : State :=
  sudricReads s (.redOpen mb seq args) mb seq 0x0060 (gpaLines s mb (fld (argOf args 0) 51 6 * 64) 64) [] (fun t => svcRedOpen t mb seq args)

/-- RED_OPEN (R300). -/
def execRedOpen (mb seq : Nat) (args : List Word) (s : State) : Host.Outcome State Fault Refusal := .next (takeRedOpen s mb seq args)

/-- A session that a driver opened; the root partition acts on every session. -/
def ownSession (s : State) (m k : Nat) : Option Session := (tget s.hom.sessions k).filter (fun q => m == 0 || q.part == m)

/-- A context that a driver may bind: LIVE and its own; the root partition may bind every context. -/
def ownCtx (s : State) (m c : Nat) : Bool := (ctxIdx s c).isSome && (ctxOf s c).st != .free && (m == 0 || (ctxOf s c).part == m)

/-- RED_BIND (R300): a later bind takes the place of an earlier one. -/
def svcRedBind (s : State) (m seq : Nat) (args : List Word) : State :=
  gate s m seq { code := 0x0061, who := .driver, masks := [mask 7 0, mask 35 0] } args (fun t =>
    let k := fld (argOf args 0) 7 0
    let c := fld (argOf args 1) 15 0
    let i := fld (argOf args 1) 35 16
    match ownSession t m k with
    | none => reply t m seq 0x0061 .permission
    | some q =>
      if !ownCtx t m c || decide (q.n ≤ i) then reply t m seq 0x0061 .permission
      else reply { t with hom := { t.hom with binds := tset t.hom.binds (c % 4096) (some (fld t.cas.nodeId 15 0, k, i)) } } m seq 0x0061 .ok)

/-- RED_BIND (R300). -/
def execRedBind (mb seq : Nat) (args : List Word) (s : State) : Host.Outcome State Fault Refusal := .next (svcRedBind s mb seq args)

/-- RED_UNBIND (R300). -/
def svcRedUnbind (s : State) (m seq : Nat) (args : List Word) : State :=
  gate s m seq { code := 0x0062, who := .driver, masks := [mask 15 0] } args (fun t =>
    let c := fld (argOf args 0) 15 0
    if !ownCtx t m c then reply t m seq 0x0062 .permission
    else reply { t with hom := { t.hom with binds := tset t.hom.binds (c % 4096) none } } m seq 0x0062 .ok)

/-- RED_UNBIND (R300). -/
def execRedUnbind (mb seq : Nat) (args : List Word) (s : State) : Host.Outcome State Fault Refusal := .next (svcRedUnbind s mb seq args)

/-- A session ends: what its store and its windows hold is discarded. -/
def closeSession (s : State) (k : Nat) : State :=
  { s with hom := { s.hom with sessions := tset s.hom.sessions k none
                               redLines := s.hom.redLines.filter (fun r => r.sess != k)
                               redWins := s.hom.redWins.filter (fun w => w.sess != k) } }

/-- RED_CLOSE (R300). -/
def svcRedClose (s : State) (m seq : Nat) (args : List Word) : State :=
  gate s m seq { code := 0x0063, who := .driver, masks := [mask 7 0] } args (fun t =>
    let k := fld (argOf args 0) 7 0
    if (ownSession t m k).isNone then reply t m seq 0x0063 .permission else reply (closeSession t k) m seq 0x0063 .ok)

/-- RED_CLOSE (R300). -/
def execRedClose (mb seq : Nat) (args : List Word) (s : State) : Host.Outcome State Fault Refusal := .next (svcRedClose s mb seq args)

/-! ## Enrolment for tiering -/

/-- The entry of one stage-2 level for a GPA, when it is valid and well formed. -/
def s2Entry (s : State) (tbl lvl gpa : Nat) : Option (Nat × Word) :=
  let a := tbl + lvlIndex lvl gpa true * 8
  let (c, e) := tableRead s a (keyOf s 0)
  if c ≠ 0 ∨ !bitOf e 0 ∨ malformed e lvl true then none else some (a, e)

/-- The level-C leaf that stage 2 reaches for a GPA: its NPA and value (R374). -/
def s2LeafOf (s : State) (p gpa : Nat) : Option (Nat × Word) :=
  let r := tget s.lan.s2 p
  if !r.en then none
  else (s2Entry s r.root 0 gpa).bind (fun a =>
    (s2Entry s (entryAddr a.2 true) 1 gpa).bind (fun b =>
      if bitOf b.2 1 then none else (s2Entry s (entryAddr b.2 true) 2 gpa).filter (fun c => bitOf c.2 1)))

/-- The leaf of a page that may be enrolled, with its near frame (R374). -/
def enrolPlace (s : State) (p gpa : Nat) : Option (Nat × Word × Nat) :=
  (s2LeafOf s p gpa).bind (fun x =>
    if bitOf x.2 2 || bitOf x.2 7 || bitOf x.2 10 then none
    else (nearFrame s (entryAddr x.2 true)).bind (fun f =>
      if (tget s.tir.frames f).st == .untracked && !s.sec.heldFrames.contains f then some (x.1, x.2, f) else none))

/-- Compressed demotion of an object is possible with the formats that its record names (R375). -/
def lossyWorks (w0 : Word) : Bool :=
  [0x08, 0x09, 0x0A].contains (fld w0 8 5) && decide (0x20 ≤ fld w0 14 9) && decide (fld w0 14 9 ≤ 0x25)

/-- One page is enrolled (R374, R390, R402). -/
def enrolPage (s : State) (p obj gpa : Nat) (w0 : Word) : Option State :=
  (enrolPlace s p gpa).map (fun x =>
    let (a, v, f) := x
    let h : Heat := { st := .resident, auto := true, lossyOk := bitOf w0 4 && lossyWorks w0, srcFmt := fld w0 8 5, mxFmt := fld w0 14 9,
                      part := p, obj := obj, leaf := a, leafVal := v, perm := fld v 5 3, attr := fld v 9 8, gpa := gpa }
    { s with tir := { s.tir with frames := tset s.tir.frames f h } })

/-- n pages of an object from a GPA up: the state, and the pages enrolled. -/
def enrolPages (s : State) (p obj gpa : Nat) (w0 : Word) : Nat → State × Nat
  | 0 => (s, 0)
  | n + 1 =>
    let (t, k) := enrolPages s p obj gpa w0 n
    match enrolPage t p obj (gpa + n * 2 ^ 22) w0 with
    | some u => (u, k + 1)
    | none => (t, k)

/-- The record of an object that a tiering service names: its NPA, or the status that refuses the service. -/
def tierObj (s : State) (p id : Nat) : Except Status Nat :=
  let (st, a) := objWhere s p id
  if st != .ok then .error st
  else if !objWord0Ok (rdWord s a) p id then .error .objectGone
  else if !bitOf (rdWord s a) 3 then .error .permission
  else .ok a

/-- TIER_ENROL (R374, R375). -/
def svcTierEnrol (s : State) (m seq : Nat) (args : List Word) : State :=
  gate s m seq { code := 0x0070, who := .driver, masks := [mask 23 0], unit := some pTIR } args (fun t =>
    let id := fld (argOf args 0) 23 0
    match tierObj t m id with
    | .error st => reply t m seq 0x0070 st
    | .ok a =>
      let w0 := rdWord t a
      let n := fld (rdWord t (a + 24)) 31 0
      let (u, k) := enrolPages t m id (fld (rdWord t (a + 16)) 51 22 * 2 ^ 22) w0 n
      reply u m seq 0x0070 (if bitOf w0 4 && !lossyWorks w0 then .partly else .ok) [pack [(0, k % 2 ^ 32), (32, n - k)]])

/-- Lines of the stage-2 entries on the way to the leaf of a GPA. -/
def s2Lines (s : State) (p gpa : Nat) : List Nat :=
  let r := tget s.lan.s2 p
  let at_ := fun (tbl lvl : Nat) => tbl + lvlIndex lvl gpa true * 8
  if !r.en then []
  else match s2Entry s r.root 0 gpa with
    | none => [at_ r.root 0 / 128]
    | some (a, e) => match s2Entry s (entryAddr e true) 1 gpa with
      | none => [a / 128, at_ (entryAddr e true) 1 / 128]
      | some (b, f) => [a / 128, b / 128] ++ (if bitOf f 1 then [] else [at_ (entryAddr f true) 2 / 128])

/-- Lines that an enrolment of an object reads: its record, and the stage-2 entries of its pages. -/
def enrolLines (s : State) (p id : Nat) : List Nat :=
  let pages := match objRange s p id with
    | some (g, n) => (List.range n).flatMap (fun i => s2Lines s p (g + i * 2 ^ 22))
    | none => []
  (objLines s p [id] ++ pages.filter (fun l => memStatus s l == .ok)).dedup

/-- TIER_ENROL, once the lines that it reads are ready (R36, R374). -/
def takeTierEnrol (s : State) (mb seq : Nat) (args : List Word) : State :=
  sudricReads s (.tierEnrol mb seq args) mb seq 0x0070 (enrolLines s mb (fld (argOf args 0) 23 0)) [] (fun t => svcTierEnrol t mb seq args)

/-- TIER_ENROL (R374). -/
def execTierEnrol (mb seq : Nat) (args : List Word) (s : State) : Host.Outcome State Fault Refusal := .next (takeTierEnrol s mb seq args)

/-- Frames of an object go back to UNTRACKED and its pages to the hypervisor (R376). -/
def unenrolFrames (s : State) (p id : Nat) : State :=
  { s with tir := { s.tir with frames := s.tir.frames.filter (fun e => !(e.2.st == .resident && e.2.part == p && e.2.obj == id)) } }

/-- A page of the object is in the far pool or in a move. -/
def objAway (s : State) (p id : Nat) : Bool :=
  let own := fun (h : Heat) => tracked h.st && h.part == p && h.obj == id
  s.tir.embers.any (fun e => own e.2) || s.tir.frames.any (fun e => own e.2 && e.2.st != .resident)

/-- TIER_UNENROL (R376): the leaves of resident pages return to the hypervisor; pages that are embers or in a move stay enrolled,
and the reply is PARTIAL. -/
def svcTierUnenrol (s : State) (m seq : Nat) (args : List Word) : State :=
  gate s m seq { code := 0x0071, who := .driver, masks := [mask 23 0], unit := some pTIR } args (fun t =>
    let id := fld (argOf args 0) 23 0
    let u := unenrolFrames t m id
    reply u m seq 0x0071 (if objAway u m id then .partly else .ok))

/-- TIER_UNENROL (R376). -/
def execTierUnenrol (mb seq : Nat) (args : List Word) (s : State) : Host.Outcome State Fault Refusal :=
  .next (svcTierUnenrol s mb seq args)

/-- TIER_POLICY (R383, R401): the three registers as one group (R78). -/
def svcTierPolicy (s : State) (m seq : Nat) (args : List Word) : State :=
  gate s m seq { code := 0x0072, who := .root0, masks := [mask 0 0 ||| mask 28 4, mask 47 0, mask 31 0], unit := some pTIR, page := some pTIR } args (fun t =>
    let th := argOf args 1
    if fld th 15 8 ≤ fld th 7 0 then reply t m seq 0x0072 .permission
    else
      let u := { t with tir := { t.tir with cfg := argOf args 0, thresh := th, win := argOf args 2 } }
      reply (noteRegs u pTIR [0x200, 0x208, 0x210]) m seq 0x0072 .ok)

/-- TIER_POLICY (R383). -/
def execTierPolicy (mb seq : Nat) (args : List Word) (s : State) : Host.Outcome State Fault Refusal :=
  .next (svcTierPolicy s mb seq args)

end Sys2Proof.Machine
end

