-- ==== Sys2Proof/Machine/Partitions.lean ====
section
/-!
DEFINITION. Partitions: open, seal and close, the end of a close, the phases of Snuff, and the layout services with the removal of
a range (R404 to R408, R568 to R571, R576 to R583).
-/
namespace Sys2Proof.Machine
open Sys2Proof

/-- Service code of PART_CLOSE (R500). -/
def svcPartClose : Nat := 0x0022

/-! ## PART_OPEN -/

/-- PART_OPEN (R576): partition 0 or one that is not FREE is refused, and one whose epoch is the last. -/
def svcPartOpen (s : State) (m seq : Nat) (args : List Word) : State :=
  gate s m seq { code := 0x0020, who := .root, masks := [mask 5 0] } args (fun t =>
    let p := fld (argOf args 0) 5 0
    let k := tget t.sec.epochs p
    if p = 0 ∨ (part t p).st ≠ .free then reply t m seq 0x0020 .permission
    else if 0xFFFFFFFF ≤ k then reply t m seq 0x0020 .quota
    else reply (updPart t p (fun q => { q with st := .open_ })) m seq 0x0020 .ok [w64 k])

/-- PART_OPEN (R576). -/
def execPartOpen (mb seq : Nat) (args : List Word) (s : State) : Host.Outcome State Fault Refusal := .next (svcPartOpen s mb seq args)

/-! ## PART_SEAL -/

/-- The slot table without the sealed slots of a partition. -/
def unsealSlots (t : Tbl Nat) (p : Nat) : Tbl Nat := t.filter (fun e => e.2 != p + 1024)

/-- Frame positions that no pipe has sealed (R583: the same positions on every resource). -/
def openSlots (t : Tbl Nat) : List Nat := (List.range 64).filter (fun i => (List.range 8).all (fun pipe => !(tget t (pipe * 64 + i)).testBit 10))

/-- Slots at given frame positions of every pipe are a partition's. -/
def sealAt (t : Tbl Nat) (p : Nat) (l : List Nat) : Tbl Nat :=
  l.foldl (fun t i => (List.range 8).foldl (fun t pipe => tset t (pipe * 64 + i) (p + 1024)) t) t

/-- Sealed slots of all partitions (R583). -/
def sealTotal (t : Tbl Nat) : Nat := t.foldl (fun n e => n + e.2) 0

/-- A partition has a LIVE context (R583). -/
def hasLive (s : State) (p : Nat) : Bool := s.lmp.ctxs.any (fun e => e.2.part == p && e.2.st == .live)

/-- PART_SEAL (R583): SLOTS 0 unseals. The slots take the lowest positions free on every pipe. -/
def svcPartSeal (s : State) (m seq : Nat) (args : List Word) : State :=
  gate s m seq { code := 0x0021, who := .root, masks := [mask 13 0 &&& ~~~ (mask 7 6)], page := some pMOV } args (fun t =>
    let p := fld (argOf args 0) 5 0
    let n := fld (argOf args 0) 13 8
    let map := tset t.sec.sealed p n
    let free := unsealSlots t.mov.slots p
    let l := (openSlots free).take n
    if p = 0 ∨ hasLive t p ∨ (part t p).st = .closing ∨ (part t p).st = .scrub then reply t m seq 0x0021 .permission
    else if 48 < sealTotal map ∨ 8 < map.length ∨ l.length < n ∨ (List.range 8).any (fun i => decide (48 < sealedSlots (sealAt free p l) i)) then
      reply t m seq 0x0021 .quota
    else
      let u := { t with sec := { t.sec with sealed := map, frame := l.foldl (fun f i => tset f i (p + 1024)) (unsealSlots t.sec.frame p) }, mov := { t.mov with slots := sealAt free p l } }
      let u := (List.range 512).foldl (fun v i => if tget u.mov.slots i = tget t.mov.slots i then v else noteSel v pMOV 0x240 i) u
      reply u m seq 0x0021 .ok)

/-- PART_SEAL (R583). -/
def execPartSeal (mb seq : Nat) (args : List Word) (s : State) : Host.Outcome State Fault Refusal := .next (svcPartSeal s mb seq args)

/-! ## PART_CLOSE -/

/-- Indices of the contexts of a partition in a state. -/
def ctxsOf (s : State) (p : Nat) : List Nat := (s.lmp.ctxs.filter (fun e => e.2.part == p && e.2.st != .free)).map (fun e => e.1)

/-- Every LIVE context of a partition is lost at once with CONTEXT_LOST (R407). -/
def loseAll (s : State) (p : Nat) : State :=
  (ctxsOf s p).foldl (fun u i =>
    let c := ctxNum s i
    if (ctxOf u c).st == .live then ctxLose (doom u c .contextLost) c else u) s

/-- PART_CLOSE (R407, R576): the reply comes when the partition is FREE. -/
def svcPartClose_ (s : State) (m seq : Nat) (args : List Word) : State :=
  gate s m seq { code := svcPartClose, who := .root, masks := [mask 5 0], page := some pLMP } args (fun t =>
    let p := fld (argOf args 0) 5 0
    if p = 0 ∨ (part t p).st ≠ .open_ then reply t m seq svcPartClose .permission
    else loseAll (updPart t p (fun q => { q with st := .closing, closeMb := m, closeSeq := seq })) p)

/-- PART_CLOSE (R407). -/
def execPartClose (mb seq : Nat) (args : List Word) (s : State) : Host.Outcome State Fault Refusal := .next (svcPartClose_ s mb seq args)

/-! ## The end of a close -/

/-- A page move of a partition's page runs. -/
def partMoves (s : State) (p : Nat) : Bool := (tsome s.tir.moves).any (fun e => (moveEntry s e.2).part == p)

/-- Step 2 of R407 is over: no context is LIVE, every command has retired, every withdrawal is complete and every page move ended. -/
def closeReady (s : State) (p : Nat) : Bool :=
  (ctxsOf s p).all (fun i => (tget s.lmp.ctxs i).st != .live && ctxEmpty s (ctxNum s i)) &&
  !(s.lan.wds ++ s.lan.wdWait).any (fun w => w.part == p && p != 0) && !partMoves s p

/-- A queue bound to a context that a close destroys: disabled and bound to none; a destroy that waits is answered. -/
def closeQueue (s : State) (q : Nat) : State :=
  let k := queue s q
  let t := noteSel (updQ s q (fun k => { k with enable := false, bound := false, killMb := none })) pLMP 0x228 q
  match k.killMb with
  | some (mb, n) => reply t mb n svcQueueDestroy .ok
  | none => t

/-- One context is destroyed with its queues (R407 step 3); a destroy that waits is answered. -/
def closeCtx (s : State) (i : Nat) : State :=
  let c := ctxNum s i
  let x := tget s.lmp.ctxs i
  let qs := (s.lmp.queues.filter (fun e => e.2.bound && e.2.ctx == c)).map (fun e => e.1)
  let t := qs.foldl closeQueue s
  let t := { t with
    lan := { t.lan with spaces := tupd t.lan.spaces x.space (fun y => { y with bound := y.bound - 1 }) }
    lmp := { t.lmp with ctxs := tset t.lmp.ctxs i {} }
    hom := { t.hom with binds := tset t.hom.binds i none } }
  let t := noteSel t pLMP 0x240 i
  match x.killMb with
  | some (mb, n) => reply t mb n svcCtxDestroy .ok
  | none => t

/-- The registrations of a partition are discarded without release records or dropped references (R407, R408). -/
def closeRegs (s : State) (p : Nat) : State :=
  let t := updPart s p (fun q => { q with objTbl := 0, relBase := 0, relCtl := 0, relProduce := 0, relHold := [], relFail := false, goneTodo := [],
                                          goneLate := [], faultObj := none, faultLog := 0, faultFObj := 0, faultFIdx := 0, faultProduce := 0,
                                          ringFail := false, dispObj := none, dispLog := 0, dispNext := 0, dispRun := [], dispQ := [],
                                          dispOf := [] })
  let t := noteSels t pLMP p [0x258, 0x260, 0x268]
  let t := { t with
    eng := { t.eng with hold := t.eng.hold.filter (fun e => e.1 != p) }
    fnc := { t.fnc with watches := t.fnc.watches.filter (fun e => !(e.2.any (fun w => w.host.isSome && w.part == p)))
                        bars := t.fnc.bars.filter (fun e => !(e.2.any (fun b => b.part == p))) } }
  (tsome t.hom.sessions).foldl (fun u e => if e.2.part = p then closeSession u e.1 else u) t

/-! ## Snuff -/

/-- A line is one of a partition's (R577): of its layout entries, its pool frames or its ember units. -/
def lineOfPart (s : State) (p line : Nat) : Bool :=
  let g := line / 32768
  s.sec.layout.any (fun e => e.2.valid && !e.2.held && e.2.part == p && decide (e.2.base ≤ g) && decide (g < e.2.base + e.2.len)) ||
  (nearFrame s (line * 128)).any (fun f => tracked (tget s.tir.frames f).st && (tget s.tir.frames f).part == p) ||
  (farUnit s (line * 128)).any (fun u => (emberOf s u).any (fun e => e.2.part == p))

/-- Lines that the directory or a transaction knows. -/
def knownLines (s : State) : List Nat := (s.hom.dir.map (fun e => e.1) ++ (tsome s.hom.txns).map (fun e => e.1)).foldl setIns []

/-- Phase 1 begins: the epoch rises and the partition's windows are cleared (R577). -/
def snuffStart (s : State) (p : Nat) : State :=
  let k := satAdd 32 (tget s.sec.epochs p) 1
  let q := part s p
  let t := { s with sec := { s.sec with epochs := tset s.sec.epochs p k, snuffPart := p, snuffPhase := 1, snuffEnd := s.clk.cyc + 8,
                                        snuffMb := q.closeMb, snuffSeq := q.closeSeq, snuffHeld := false } }
  let t := if k = 0xFFFFFFFF then raise t pSEC 3 else t
  (t.hom.windows.filter (fun e => bitOf e.2.w0 0 && fld e.2.w0 14 5 == p)).foldl (fun u e => winClear u e.1 {}) t

/-- CLOSE_DRAIN_DONE: step 3 of R407, and Snuff begins. One Snuff runs at a time. -/
def closeDrained (s : State) (p : Nat) : State :=
  if 64 ≤ p ∨ (part s p).st ≠ .closing ∨ s.sec.snuffPhase ≠ 0 ∨ !closeReady s p then s
  else
    let t := closeRegs ((ctxsOf s p).foldl closeCtx s) p
    snuffStart (updPart t p (fun q => { q with st := .scrub })) p

/-- CLOSE_DRAIN_DONE (R407). -/
def execCloseDrainDone (part : Nat) (s : State) : Host.Outcome State Fault Refusal := .next (closeDrained s part)

/-- Phase 2 begins: every cached copy of a line is invalidated and dirty data discarded (R571, R577). -/
def purgeLines (s : State) (mine : Nat → Bool) : State :=
  ((s.hom.dir.map (fun e => e.1)).filter (fun l => mine l && (txnOf s l).isNone)).foldl openPurge s

/-- What a transaction leaves on a line at the end of phase 2: agents that have not answered count as silent (R223), the line has no
holder, and a request still in its place there is refused (R578). -/
def purgeEnd (s : State) (line : Nat) : State :=
  let t := match txnOf s line with
    | some x => x.await.foldl (fun u a => snoopExpire u a.1 line) s
    | none => s
  let cut := match txnOf t line with
    | some x => if x.kind == .serve && x.ackFrom.isNone then x.req.toList else []
    | none => []
  let w := cut ++ tget t.hom.waiters line
  let t := setTxn (setDir t line {}) line none
  let t := { t with hom := { t.hom with waiters := tset t.hom.waiters line [] } }
  w.foldl (fun u r => refuseReq u r .permission) t

/-- Ports that serve a memory range: one, or every port of its kind of the cascade (R515). -/
def rangePorts (s : State) (r : MemRange) : List (Nat × Nat) :=
  if rangeMode r = 1 then [(fld r.ctl 28 26, fld r.ctl 29 29 + 2 * fld r.ctl 30 30)]
  else (List.range (blocks s)).flatMap (fun b => [(b, if rangeMode r = 3 then 2 else 0), (b, if rangeMode r = 3 then 3 else 1)])

/-- A fenced port serves part of n granules from g on (R571, R580). -/
def someFenced (s : State) (g n : Nat) : Bool :=
  s.cas.ranges.any (fun e => rangeMode e.2 != 0 && overlap (fld e.2.base 45 22) (fld e.2.ctl 23 0) g n && (rangePorts s e.2).any (portFenced s))

/-- Lines in front of working ports are written with zeros, the others stay as they are and nobody reaches any of them (R580). -/
def scrubPart (s : State) (base n : Nat) : State :=
  let gone := fun (line : Nat) => decide (base ≤ line) && decide (line < base + n) && !(portOf s line).any (portFenced s)
  { s with mem := s.mem.filter (fun e => !gone (e.1 / 128)), memPois := s.memPois.filter (fun c => !gone (c / 8)) }

/-- One layout entry is overwritten under a partition's key, or becomes held (R577, R580). -/
def scrubEntry (s : State) (i : Nat) (e : Layout) (p : Nat) : State :=
  if someFenced s e.base e.len then
    let t := scrubPart s (e.base * 32768) (e.len * 32768)
    let t := { t with sec := { t.sec with layout := tupd t.sec.layout i (fun e => { e with held := true, removing := 0 }), snuffHeld := true } }
    if e.removing = 0 then t else reply t e.rmMb e.rmSeq svcLayoutSet .partly
  else scrubLines s (e.base * 32768) (e.len * 32768) p

/-- Lines of a pool are overwritten; whether a fenced port left some unwritten is answered beside the state. -/
def scrubPool (s : State) (line n p : Nat) : State × Bool :=
  let g := line / 32768
  if someFenced s g ((line + n + 32767) / 32768 - g) then (scrubPart s line n, true) else (scrubLines s line n p, false)

/-- A pool frame of the partition is overwritten, or held. -/
def scrubFrame (s : State) (f p : Nat) : State :=
  match scrubPool s (frameLine s f) 32768 p with
  | (t, false) => t
  | (t, true) => { t with sec := { t.sec with heldFrames := setIns t.sec.heldFrames f, snuffHeld := true } }

/-- The units of an ember are overwritten, or held. -/
def scrubEmber (s : State) (u n p : Nat) : State :=
  match scrubPool s (unitLine s u) (n * 4096) p with
  | (t, false) => t
  | (t, true) => { t with sec := { t.sec with heldUnits := (List.range n).foldl (fun l i => setIns l (u + i)) t.sec.heldUnits, snuffHeld := true } }

/-- Phase 3 of Snuff: every line of the partition is written with zeros under its new epoch (R577). -/
def snuffWrite (s : State) (p : Nat) : State :=
  let es := s.sec.layout.filter (fun e => e.2.valid && !e.2.held && e.2.part == p)
  let fs := (s.tir.frames.filter (fun e => tracked e.2.st && e.2.part == p)).map (fun e => e.1)
  let us := (s.tir.embers.filter (fun e => tracked e.2.st && e.2.part == p)).map (fun e => (e.1, e.2.units))
  let t := es.foldl (fun u e => scrubEntry u e.1 e.2 p) s
  let t := fs.foldl (fun u f => scrubFrame u f p) t
  us.foldl (fun u e => scrubEmber u e.1 e.2 p) t

/-- A removal of a layout entry that ends with the entry: its waiting reply. -/
def removalReply (s : State) (e : Layout) : State :=
  if e.removing = 0 then s else reply s e.rmMb e.rmSeq svcLayoutSet .ok

/-- A Snuff or range scrub has ended (R595). -/
def scrubDone (s : State) (held : Bool) : State :=
  let t := if held then raise s pSEC 1 else s
  raise (count { t with sec := { t.sec with snuffTotal := satAdd 32 t.sec.snuffTotal 1 } } pSEC 1) pSEC 0

/-- Phase 4 of Snuff: entries are cleared, frames become FREE and units free, and the partition is FREE (R407, R498, R577). -/
def snuffRelease (s : State) (p : Nat) : State :=
  let gone := s.sec.layout.filter (fun e => e.2.valid && !e.2.held && e.2.part == p)
  let t := { s with
    sec := { s.sec with layout := s.sec.layout.filter (fun e => !(e.2.valid && !e.2.held && e.2.part == p)), snuffPhase := 0 }
    tir := { s.tir with frames := s.tir.frames.filterMap (fun e =>
                          if tracked e.2.st && e.2.part == p then (if s.sec.heldFrames.contains e.1 then none else some (e.1, { st := .free })) else some e)
                        embers := s.tir.embers.filter (fun e => !(tracked e.2.st && e.2.part == p)) } }
  let t := gone.foldl (fun u e => removalReply u e.2) t
  let t := updPart t p (fun q => { q with st := .free, closeMb := 0, closeSeq := 0 })
  let t := fpDirty (scrubDone t s.sec.snuffHeld)
  reply (mbReset t p) s.sec.snuffMb s.sec.snuffSeq svcPartClose .ok

/-- Length of phase 2 in cyc (R577). -/
def phase2Len (s : State) : Nat := 65536 + max (snoopDeadline s) (if s.build.spn then fld s.spn.remoteCfg 39 16 else 0)

/-- The running phase of Snuff ends and the next begins (R577). -/
def snuffNext (s : State) : State :=
  let p := s.sec.snuffPart
  let t := advanceTo s s.sec.snuffEnd
  let go := fun (u : State) (ph n : Nat) => { u with sec := { u.sec with snuffPhase := ph, snuffEnd := s.sec.snuffEnd + n } }
  match s.sec.snuffPhase with
  | 1 => purgeLines (go t 2 (phase2Len s)) (lineOfPart s p)
  | 2 => go (((knownLines t).filter (lineOfPart s p)).foldl purgeEnd t) 3 (snuffLines s p)
  | 3 => go (snuffWrite t p) 4 8
  | _ => snuffRelease t p

/-! ## Range scrubs -/

/-- The first layout entry whose removal has drained its withdrawal. -/
def scrubbing (s : State) : Option (Nat × Layout) := s.sec.layout.find? (fun e => e.2.valid && decide (2 ≤ e.2.removing))

/-- A line lies in an entry's range. -/
def inEntry (e : Layout) (line : Nat) : Bool := decide (e.base * 32768 ≤ line) && decide (line < (e.base + e.len) * 32768)

/-- Steps 3 and 4 of a removal: the range is written under partition 0's key and the entry cleared, or left held (R571). -/
def removalEnd (s : State) (i : Nat) (e : Layout) : State :=
  if someFenced s e.base e.len then
    let t := scrubPart s (e.base * 32768) (e.len * 32768)
    let t := { t with sec := { t.sec with layout := tset t.sec.layout i { e with held := true, removing := 0, rmMb := 0, rmSeq := 0 } } }
    reply (fpDirty (scrubDone t true)) e.rmMb e.rmSeq svcLayoutSet .partly
  else
    let t := scrubLines s (e.base * 32768) (e.len * 32768) 0
    let t := { t with sec := { t.sec with layout := tset t.sec.layout i {} } }
    reply (fpDirty (scrubDone t false)) e.rmMb e.rmSeq svcLayoutSet .ok

/-- A removal moves on: cached copies are invalidated, and once none is left the range is scrubbed (R571). -/
def removalNext (s : State) : State :=
  match scrubbing s with
  | none => s
  | some (i, e) =>
    let left := (knownLines s).filter (inEntry e)
    if left.isEmpty then removalEnd s i e
    else purgeLines { s with sec := { s.sec with layout := tset s.sec.layout i { e with removing := 3 } } } (inEntry e)

/-- SNUFF_PHASE_END (R571, R577): the running phase of Snuff ends; with no Snuff, the removal of a range moves on. -/
def execSnuffPhaseEnd (s : State) : Host.Outcome State Fault Refusal := .next (if s.sec.snuffPhase = 0 then removalNext s else snuffNext s)

/-! ## LAYOUT_SET -/

/-- A LAYOUT_SET that assigns a range to a partition is refused (R569). -/
def assignRefused (s : State) (i p base len : Nat) : Bool :=
  (tget s.sec.layout i).valid || !unitOpen s uLayout i || p == 0 || (part s p).st != .open_ || len == 0 || !rootOwns s base len

/-- A LAYOUT_SET that removes an entry is refused (R569): not valid, of another partition, in removal already, or held behind a
fenced port. -/
def removeRefused (s : State) (i p : Nat) : Bool :=
  let e := tget s.sec.layout i
  !e.valid || e.part != p || e.removing != 0 || (e.held && someFenced s e.base e.len)

/-- A removal begins: with a withdrawal of the partition, or for a held entry with the scrub (R571). -/
def removeStart (s : State) (m seq i : Nat) : State :=
  let e := tget s.sec.layout i
  let put := fun (k : Nat) => { s with sec := { s.sec with layout := tset s.sec.layout i { e with removing := k, rmMb := m, rmSeq := seq } } }
  if e.held then put 2 else wdAsk (put 1) 3 e.part 0 0 (.layout i) 0

/-- LAYOUT_SET (R569 to R571). -/
def svcLayoutSet_ (s : State) (m seq : Nat) (args : List Word) : State :=
  gate s m seq { code := svcLayoutSet, who := .root, masks := [mask 9 0 ||| mask 21 16 ||| mask 25 24, mask 45 22, mask 23 0] } args (fun t =>
    let i := fld (argOf args 0) 9 0
    let p := fld (argOf args 0) 21 16
    let base := fld (argOf args 1) 45 22
    let len := fld (argOf args 2) 23 0
    match fld (argOf args 0) 25 24 with
    | 1 =>
      if assignRefused t i p base len then reply t m seq svcLayoutSet .permission
      else
        let e : Layout := { part := p, valid := true, base := base, len := len }
        layoutWait (fpDirty { t with sec := { t.sec with layout := tset t.sec.layout i e } }) p m seq svcLayoutSet
    | 2 => if removeRefused t i p then reply t m seq svcLayoutSet .permission else removeStart t m seq i
    | _ => reply t m seq svcLayoutSet .permission)

/-- A request's first argument with its OP field set. -/
def withOp (args : List Word) (hi lo v : Nat) : List Word := lmod args 0 (fun a => setFld a hi lo v)

/-- LAYOUT_ASSIGN: LAYOUT_SET with OP 0b01 (R569). -/
def execLayoutAssign (mb seq : Nat) (args : List Word) (s : State) : Host.Outcome State Fault Refusal :=
  .next (svcLayoutSet_ s mb seq (withOp args 25 24 1))

/-- LAYOUT_REMOVE: LAYOUT_SET with OP 0b10 (R569, R571). -/
def execLayoutRemove (mb seq : Nat) (args : List Word) (s : State) : Host.Outcome State Fault Refusal :=
  .next (svcLayoutSet_ s mb seq (withOp args 25 24 2))

end Sys2Proof.Machine
end

