-- ==== Sys2Proof/Machine/Attest.lean ====
section
/-!
DEFINITION. What Sudric tells of the block: block sections, fingerprints and attestation reports, reservations and their windows,
and HEALTH (R572 to R575, R586 to R594, R609 to R611, R650).
-/
namespace Sys2Proof.Machine
open Sys2Proof

/-- A list of bytes kept at n, padded with zeros. -/
def bytesN (n : Nat) (l : List Byte) : List Byte := padTo n 0 l

/-! ## Sections and fingerprints -/

/-- The disabled-unit map of this block, 16 bytes (R574, R647). -/
def disBytes (s : State) : List Byte := wordBytes (disLo s) ++ wordBytes (disHi s)

/-- The block's own section (R574). -/
def ownSection (s : State) : List Byte :=
  natBytes 1 s.cas.pos ++ natBytes 1 (lifeCode s.fuses.lifecycle) ++ natBytes 1 blockGen ++ natBytes 1 0xB0 ++ natBytes 4 0 ++
  bytesN 48 s.build.romDigest ++ bytesN 48 s.boot.sudricDigest ++ bytesN 48 s.build.configDigest ++ disBytes s ++
  bytesN 48 (deviceKeyId s.fuses) ++ natBytes 40 0

/-- The section of a position: the block's own as it stands, another block's as it sent it (R573, R679). -/
def blockSection (s : State) (pos : Nat) : List Byte := if pos = s.cas.pos then ownSection s else bytesN 256 (tget s.sec.sections pos)

/-- Insertion of an entry in a list by ascending base. -/
def insEntry (e : Layout) : List Layout → List Layout
  | [] => [e]
  | x :: t => if e.base ≤ x.base then e :: x :: t else x :: insEntry e t

/-- The valid layout entries that a selector covers, by ascending base. -/
def entriesOf (s : State) (all : Bool) (p : Nat) : List Layout :=
  ((s.sec.layout.filter (fun e => e.2.valid && (all || e.2.part == p))).map (fun e => e.2)).foldr insEntry []

/-- A slot of the program store as bytes. -/
def slotBytes (s : State) (i : Nat) : List Byte := (List.range 32).flatMap (fun j => wordBytes (tget s.xfm.store (32 * i + j)))

/-- The fingerprint of a selector: a partition, or 64 for the package (R609). -/
def fingerprintOf (s : State) (sel : Nat) : List Byte :=
  let head := [0x48, 0x58, 0x46, 0x50] ++ natBytes 2 1 ++ natBytes 1 (blocks s) ++ wordBytes s.det.mode
  let secs := (List.range (blocks s)).flatMap (fun pos => let x := blockSection s pos
                                                          (x.drop 0x08).take 48 ++ (x.drop 0x38).take 48 ++ (x.drop 0x68).take 48 ++ (x.drop 0x98).take 16)
  let lay := (entriesOf s (sel == 64) sel).flatMap (fun e => natBytes 8 (e.base * 2 ^ 22) ++ natBytes 8 (e.len * 2 ^ 22) ++ natBytes 2 e.part)
  let own := fun (i : Nat) => let w := tget s.xfm.own i
                              sel == 64 || fld w 9 0 == sel || bitOf w 10
  let prg := ((List.range 256).filter own).flatMap (fun i => natBytes 1 i ++ slotBytes s i)
  sha384 (head ++ secs ++ lay ++ prg)

/-- The fingerprint registers' value of a selector, 48 bytes. -/
def fpOf (s : State) (sel : Nat) : List Byte := bytesN 48 (tget s.det.fps sel)

/-! ## Reports -/

/-- The block's certificate chain as a report carries it (R564, R574, R679). -/
def certOf (s : State) : List Byte := if s.sec.chainOk then bytesN ((s.boot.cert.length + 7) / 8 * 8) s.boot.cert else []

/-- Bytes of pages that a partition has enrolled (R574): a page in a move counts where it comes from. -/
def tierBytes (s : State) (p : Nat) : Nat :=
  ((s.tir.frames.filter (fun e => (e.2.st == .resident || e.2.st == .out) && e.2.part == p)).length +
   (s.tir.embers.filter (fun e => (e.2.st == .ember || e.2.st == .emberMx) && e.2.part == p)).length) * 2 ^ 22

/-- The signed bytes of a report from a mailbox with a nonce (R573, R574): mailbox 64 describes the package. -/
def reportBody (s : State) (m : Nat) (nonce : List Byte) : List Byte :=
  let whole := decide (64 ≤ m)
  let es := if whole then [] else (entriesOf s false m).filter (fun e => !e.held)
  let cert := certOf s
  let secs := (List.range (blocks s)).flatMap (blockSection s)
  let total := 0xC0 + 256 * blocks s + cert.length + 96
  natBytes 4 0x52415848 ++ natBytes 2 1 ++ natBytes 1 (blocks s) ++
  natBytes 1 (b2n s.bcn.uncertain + 2 * b2n (!whole && isSealed s m) + 4 * b2n (s.fuses.lifecycle != .secured)) ++
  natBytes 4 total ++ natBytes 4 cert.length ++ bytesN 32 nonce ++ natBytes 16 (timestamp s) ++
  natBytes 2 (fld s.cas.nodeId 15 0) ++ natBytes 2 (if whole then 0xFFFF else m) ++ natBytes 4 (if whole then 0 else tget s.sec.epochs m) ++
  natBytes 8 (es.foldl (fun n e => n + e.len * 2 ^ 22) 0) ++ natBytes 8 (if whole then 0 else tierBytes s m) ++
  (if whole then natBytes 48 0 else sha384 (es.flatMap (fun e => natBytes 8 (e.base * 2 ^ 22) ++ natBytes 8 (e.len * 2 ^ 22)))) ++
  fpOf s m ++ natBytes 8 0 ++ secs ++ cert

/-- A whole report, with its signature when the block is SECURED (R574, R575). -/
def reportOf (s : State) (m : Nat) (nonce : List Byte) : List Byte :=
  let b := reportBody s m nonce
  b ++ (if s.fuses.lifecycle == .secured then bytesN 96 (deviceSign s.fuses (sha384 b)) else natBytes 96 0)

/-- One report more was signed or captured (ATTEST_TOTAL). -/
def attestCount (s : State) : State := count { s with sec := { s.sec with attestTotal := satAdd 32 s.sec.attestTotal 1 } } pSEC 2

/-- Bytes are written at a GPA of a partition through their homes, line by line from the l-th line on. -/
def putGpa (s : State) (p gpa : Nat) (bs : List Byte) : Nat → State
  | 0 => s
  | n + 1 =>
    let t := putGpa s p gpa bs n
    let g := gpa / 128 * 128 + n * 128
    let lo := if g < gpa then gpa - g else 0
    let part := (bs.drop (g + lo - gpa)).take (128 - lo)
    match gpaLookup t p g with
    | (.ok, a, none) =>
      relayWrite t p (a / 128) (BitVec.ofNat 1024 (bytesNat part <<< (8 * lo))) (BitVec.ofNat 128 ((2 ^ part.length - 1) * 2 ^ lo)) 0
    | _ => t

/-- The NONCE of a request (R572). -/
def nonceOf (args : List Word) : List Byte := ((args.drop 2).take 4).flatMap wordBytes

/-- ATTEST once the fingerprints are current (R572, R573). -/
def attestRun (s : State) (m seq : Nat) (args : List Word) : State :=
  let r := reportOf s m (nonceOf args)
  let gpa := fld (argOf args 1) 51 6 * 64
  match fld (argOf args 0) 1 0 with
  | 0 =>
    if 64 ≤ m ∨ !rangeInLayout s m gpa r.length then reply s m seq 0x0080 .permission
    else
      let t := putGpa s m gpa r ((gpa % 128 + r.length + 127) / 128)
      reply (if s.fuses.lifecycle == .secured then attestCount t else t) m seq 0x0080 .ok [w64 r.length]
  | 1 =>
    if m ≠ 0 ∧ m ≠ 64 then reply s m seq 0x0080 .permission
    else reply (attestCount { s with sec := { s.sec with report := r, pieces := tset s.sec.pieces m r } }) m seq 0x0080 .ok [w64 r.length]
  | 2 =>
    let c := tget s.sec.pieces m
    if (m ≠ 0 ∧ m ≠ 64) ∨ c = [] then reply s m seq 0x0080 .permission
    else
      let b := bytesN 112 (c.drop (112 * fld (argOf args 0) 31 16))
      reply s m seq 0x0080 .ok (w64 c.length :: (List.range 14).map (fun i => w64 (bytesNat ((b.drop (8 * i)).take 8))))
  | _ => reply s m seq 0x0080 .permission

/-- ATTEST (R572, R573, R611): while the fingerprints are stale it waits for the next value. -/
def svcAttest (s : State) (m seq : Nat) (args : List Word) : State :=
  gate s m seq { code := 0x0080, who := .attest, masks := [mask 1 0 ||| mask 31 16, mask 51 6] ++ List.replicate 4 (BitVec.allOnes 64) } args (fun t =>
    if t.det.fpStale && fld (argOf args 0) 1 0 != 2 then { t with det := { t.det with fpWait := t.det.fpWait ++ [(m, seq, 0x0080, args)] } }
    else attestRun t m seq args)

/-- ATTEST_WRITE: ATTEST with DEST 0b00 (R572). -/
def execAttestWrite (mb seq : Nat) (args : List Word) (s : State) : Host.Outcome State Fault Refusal :=
  .next (svcAttest s mb seq (withOp args 1 0 0))

/-- ATTEST_CAPTURE: ATTEST with DEST 0b01 (R572). -/
def execAttestCapture (mb seq : Nat) (args : List Word) (s : State) : Host.Outcome State Fault Refusal :=
  .next (svcAttest s mb seq (withOp args 1 0 1))

/-- ATTEST_PIECE: ATTEST with DEST 0b10 (R572). -/
def execAttestPiece (mb seq : Nat) (args : List Word) (s : State) : Host.Outcome State Fault Refusal :=
  .next (svcAttest s mb seq (withOp args 1 0 2))

/-! ## FINGERPRINT -/

/-- FINGERPRINT once the values are current: the digest in R1 to R6 (R610). -/
def fingerprintRun (s : State) (m seq : Nat) (args : List Word) : State :=
  let f := fpOf s (fld (argOf args 0) 6 0)
  reply s m seq 0x0092 .ok ((List.range 6).map (fun i => w64 (bytesNat ((f.drop (8 * i)).take 8))))

/-- FINGERPRINT (R610, R611). -/
def svcFingerprint (s : State) (m seq : Nat) (args : List Word) : State :=
  gate s m seq { code := 0x0092, who := .root, masks := [mask 6 0] } args (fun t =>
    if 64 < fld (argOf args 0) 6 0 then reply t m seq 0x0092 .permission
    else if t.det.fpStale then { t with det := { t.det with fpWait := t.det.fpWait ++ [(m, seq, 0x0092, args)] } }
    else fingerprintRun t m seq args)

/-- FINGERPRINT (R610). -/
def execFingerprint (mb seq : Nat) (args : List Word) (s : State) : Host.Outcome State Fault Refusal := .next (svcFingerprint s mb seq args)

/-- Every fingerprint is computed (R609, R611). -/
def fpCompute (s : State) : State :=
  { s with det := { s.det with fps := (List.range 65).foldl (fun t i => tset t i (fingerprintOf s i)) s.det.fps, fpStale := false } }

/-- The recomputation after a change of an input is complete: requests that waited are answered (R611). -/
def fpRecompute (s : State) : State :=
  if !s.det.fpStale then s
  else
    let t := fpCompute { s with det := { s.det with fpWait := [] } }
    let t := if s.det.fps != [] && t.det.fps != s.det.fps then raise t pDET 3 else t
    s.det.fpWait.foldl (fun u x => if x.2.2.1 = 0x0080 then attestRun u x.1 x.2.1 x.2.2.2 else fingerprintRun u x.1 x.2.1 x.2.2.2) t

/-- FINGERPRINT_RECOMPUTE (R611). -/
def execFingerprintRecompute (s : State) : Host.Outcome State Fault Refusal := .next (fpRecompute s)

/-! ## Reservations -/

/-- The shares of a resource over all partitions, with one replaced (R586). -/
def sharesWith (s : State) (p res share : Nat) : Nat :=
  (List.range 64).foldl (fun n i => n + if i = p then share else (tget s.sec.reserv (i * 4 + res)).share) 0

/-- RESERVE (R586). -/
def svcReserve (s : State) (m seq : Nat) (args : List Word) : State :=
  gate s m seq { code := 0x0081, who := .root, masks := [mask 5 0 ||| mask 9 8 ||| mask 25 16, mask 15 0] } args (fun t =>
    let p := fld (argOf args 0) 5 0
    let res := fld (argOf args 0) 9 8
    let share := fld (argOf args 0) 25 16
    if 768 < sharesWith t p res share + 16 * sealTotal t.sec.sealed then reply t m seq 0x0081 .quota
    else
      reply { t with sec := { t.sec with reserv := tupd t.sec.reserv (p * 4 + res) (fun r => { r with share := share })
                                         latEt := tset t.sec.latEt p (fld (argOf args 1) 15 0) } } m seq 0x0081 .ok)

/-- RESERVE (R586). -/
def execReserve (mb seq : Nat) (args : List Word) (s : State) : Host.Outcome State Fault Refusal := .next (svcReserve s mb seq args)

/-- Header of the RESERVATION_BROKEN message (R593). -/
def brokenHdr : Word := pack [(0, 0x19), (16, 2), (32, 0xFFFF)]

/-- The message of a resource already waits. -/
def isBroken (res : Nat) (r : List Word) : Bool := r.headD 0 == brokenHdr && fld (r.getD 2 0) 1 0 == res

/-- RESERVATION_BROKEN to a partition: merged into a message of the resource that waits for room, else queued between replies and
counted (R593, R595). -/
def tellBroken (s : State) (p res : Nat) (fin : Word) (eff : Nat) : State :=
  let msg := [brokenHdr, fin, pack [(0, res), (16, eff)]]
  let b := mbox s p
  if b.replies.any (isBroken res) then
    updMb s p (fun b => { b with replies := b.replies.map (fun r => if isBroken res r then msg else r) })
  else
    let ready := b.replies.takeWhile (fun r => !owed r)
    let t := updMb s p (fun b => { b with replies := ready ++ [msg] ++ b.replies.drop ready.length })
    let t := count { t with sec := { t.sec with brokenTotal := satAdd 32 t.sec.brokenTotal 1 } } pSEC 0
    pushReply (if s.sec.brokenTotal = 0 then raise t pSEC 2 else t) p

/-- Slices of this block that no fence closes (R592). -/
def openSlices (s : State) : Nat := ((List.range 8).filter (fun i => !cellFenced s (32 + i))).length

/-- One partition's reservation of one resource at the end of a window (R591, R592). -/
def closeReserv (s : State) (fin : Word) (p res : Nat) : State :=
  let r := tget s.sec.reserv (p * 4 + res)
  let full := if res = 0 then r.share * s.sec.slices / 8 else r.share
  let broken := r.share != 0 && (r.cut != 0 || (res == 0 && s.sec.sliceMsg))
  let t := { s with sec := { s.sec with reserv := tset s.sec.reserv (p * 4 + res)
                                          { used := r.usedNext, cut := r.cutNext, share := r.share, eff := full - r.cut, broken := broken } } }
  if broken then tellBroken t p res fin (full - r.cut) else t

/-- The window that ends: shares reset, broken reservations are reported, and RES_CFG takes effect (R588, R591, R592, R594). -/
def windowEnd (s : State) : State :=
  if !btDue s s.sec.resEnd.toNat then s
  else
    let t := (List.range 256).foldl (fun u i => closeReserv u s.sec.resEnd (i / 4) (i % 4)) s
    let l := fld t.sec.resCfg 15 0
    let n := openSlices t
    { t with sec := { t.sec with resWin := l, resEnd := w64 ((bt t / max 1 l + 1) * max 1 l), slices := n, sliceMsg := decide (n < t.sec.slices) }
             mov := { t.mov with served := t.mov.servedNext, servedNext := [] }
             lmp := { t.lmp with served := t.lmp.servedNext, servedNext := [] }
             hom := { t.hom with admitted := t.hom.admittedNext, admittedNext := [] } }

/-- RESERVATION_WINDOW_END (R588, R591). -/
def execReservationWindowEnd (s : State) : Host.Outcome State Fault Refusal := .next (windowEnd s)

/-! ## HEALTH -/

/-- Set bits of a word. -/
def bitsSet (w : Word) : Nat := ((List.range 64).filter (bitOf w)).length

/-- HEALTH (R650). -/
def svcHealth (s : State) (m seq : Nat) (args : List Word) : State :=
  gate s m seq { code := 0x00B0, who := .bmc, masks := [] } args (fun t =>
    let lo := disLo t
    let hi := disHi t
    reply { t with ras := { t.ras with worstHealth := 0, sinceHealth := 0 } } m seq 0x00B0 .ok
      [pack [(0, t.ras.worstHealth), (8, t.ras.sinceHealth), (16, bitsSet lo + bitsSet hi)], lo, hi, pack [(0, t.ras.ceTotal), (32, t.ras.ueTotal)]])

/-- HEALTH (R650). -/
def execHealth (mb seq : Nat) (args : List Word) (s : State) : Host.Outcome State Fault Refusal := .next (svcHealth s mb seq args)

end Sys2Proof.Machine
end

