-- ==== Sys2Proof/Machine/Det.lean ====
section
/-!
DEFINITION. The Kindle barrier, lockstep pairings and DET_MODE (R601 to R608, R613 to R622).
-/
namespace Sys2Proof.Machine
open Sys2Proof

/-! ## Kindle -/

/-- A count has not passed another one: modulo 2^64 with the half-range window (R94). -/
def countGe (a b : Word) : Bool := decide ((a - b).toNat < 2 ^ 63)

/-- The status that refuses an arm (R601, R620). -/
def armRefused (s : State) (k : Word) : Option Status :=
  if s.det.kindle = 1 ∨ s.bcn.uncertain ∨ (fromSpan s ∧ s.spn.st ≠ .active) then some .permission
  else if !countGe k (s.bcn.count + 16) then some .timeout
  else none

/-- A cancel comes too late: the event tick contains R_K or is later (R607). -/
def kindleGone (s : State) : Bool :=
  s.det.kindle == 2 || (s.det.kindle == 1 && (releaseAt s).any (fun r => decide (r < tickOf s + Config.tickCyc)))

/-- A Kindle is armed: the gate of its partitions closes (R602). The mailbox is named where its reply is owed. -/
def kindlePut (s : State) (k parts : Word) (mb : Option Nat) : State :=
  { s with det := { s.det with kindle := 1, kindleAt := k, kindlePart := parts, gate := s.det.gate ||| parts, kindlePulse := none, kindleMb := mb } }

/-- A Kindle of another block's mailbox is armed here, or cancelled: a cancel opens the gate (R602, R607). -/
def kindleHere (s : State) (armed : Bool) (k parts : Word) : State :=
  if armed then kindlePut s k parts none
  else if kindleGone s then s
  else
    let u := kindleAbort s
    { u with det := { u.det with gate := 0 } }

/-- KINDLE (R601, R602, R607): the reply to an arm comes with the release or its end. -/
def svcKindle (s : State) (m seq : Nat) (args : List Word) : State :=
  gate s m seq { code := 0x0090, who := .cascade, masks := [mask 0 0, BitVec.allOnes 64, BitVec.allOnes 64] } args (fun t =>
    if bitOf (argOf args 0) 0 then
      match armRefused t (argOf args 1) with
      | some st => reply t m seq 0x0090 st
      | none => casAll (kindlePut t (argOf args 1) (argOf args 2) (some seq)) (.kindle true (argOf args 1) (argOf args 2))
    else if kindleGone t then reply t m seq 0x0090 .permission
    else
      let u := kindleAbort t
      casAll (reply { u with det := { u.det with gate := 0 } } m seq 0x0090 .ok) (.kindle false 0 0))

/-- KINDLE_ARM: KINDLE with OP 1 (R601). -/
def execKindleArm (mb seq : Nat) (args : List Word) (s : State) : Host.Outcome State Fault Refusal :=
  .next (svcKindle s mb seq (lmod args 0 (fun a => setBit a 0 true)))

/-- KINDLE_CANCEL: KINDLE with OP 0 (R607). -/
def execKindleCancel (mb seq : Nat) (args : List Word) (s : State) : Host.Outcome State Fault Refusal :=
  .next (svcKindle s mb seq (lmod args 0 (fun a => setBit a 0 false)))

/-- FIXED_ARB: pointers and credits of the walker, the Lamplighter and the pipes return to reset, frames start at slot 0 (R605). -/
def arbReset (s : State) : State :=
  { s with lan := { s.lan with rrPart := 0 }
           lmp := { s.lmp with rrPart := 0, rrQueue := [] }
           clk := { s.clk with frameEt := s.clk.et }
           mov := { s.mov with rr := [], rrPart := [], rrChan := [], frame := [], slotsNow := s.mov.slots, chans := s.mov.chans.map (fun e => (e.1, { e.2 with credit := 0 })) } }

/-- The release at R_K (R605): a new event tick begins, the gate opens and the arm is answered. -/
def kindleRelease (s : State) : State :=
  match s.det.kindle, releaseAt s with
  | 1, some r =>
    let t := advanceTo s r
    let t := if t.clk.tickStart = t.clk.cyc then t
             else { t with clk := { t.clk with tickStart := t.clk.cyc, et := t.clk.et + 1 }, lmp := { t.lmp with slotsUsed := [] } }
    let t := if bitOf t.det.mode 1 then arbReset t else t
    let d := t.det
    let t := { t with det := { d with gate := 0, kindle := 2, kindlePulse := none, kindleMb := none,
                                      ls := if d.ls = 1 then 2 else d.ls, lsStart := if d.ls = 1 then some r else d.lsStart } }
    let t := raise t pDET 0
    match s.det.kindleMb with
    | some q => reply t 65 q 0x0090 .ok [s.det.kindleAt]
    | none => t
  | _, _ => s

/-- KINDLE_RELEASE (R603, R605). -/
def execKindleRelease (s : State) : Host.Outcome State Fault Refusal := .next (kindleRelease s)

/-! ## Lockstep -/

/-- MASK and LAG of LS_CFG; LAG below 2 acts as 2. -/
def lsMask (s : State) : Nat := fld s.det.lsCfg 6 0
def lsLag (s : State) : Nat := max 2 (fld s.det.lsCfg 12 8)

/-- The header of a pairing (R615). -/
def lsHeader (s : State) : List Word :=
  let f := fpOf s 64
  (List.range 6).map (fun i => w64 (bytesNat ((f.drop (8 * i)).take 8))) ++
  [s.det.lsK, pack [(0, lsMask s), (8, lsLag s), (13, periodNom s)]] ++ List.replicate 8 0

/-- The digest of a station's units (R614). -/
def stationDigest (st : Nat) (units : List Nat) : Nat :=
  let h := 2 ^ 64 + (0x9E3779B97F4A7C15 + st) % 2 ^ 64
  units.foldl (fun d u => gfMul (d ^^^ (u % 2 ^ 128)) h) 0

/-- The digests of stations 0 to 6, zeros for those not in MASK (R614, R615). -/
def digestsOf (s : State) (units : List (Nat × List Nat)) : List Nat :=
  (List.range 7).map (fun st => if (lsMask s).testBit st then stationDigest st ((units.filter (fun e => e.1 == st)).flatMap (fun e => e.2)) else 0)

/-- The record of a window (R615). -/
def lsRecord (label : Word) (unc : Bool) (ds : List Nat) : List Word :=
  [label, w64 (b2n unc)] ++ ds.flatMap (fun d => [w64 d, w64 (d / 2 ^ 64)])

/-- The WR_FULL of partition 0 that puts 16 words into a line of PEER_RING (R615). -/
def lsReq (s : State) (i : Nat) (o : Origin) (ws : List Word) : HomeReq :=
  { op := .wrFull, agent := 32 + s.cas.pos, origin := o, part := 0, line := fld s.det.lsPeerRing 45 14 * 128 + i,
    data := lineOf (ws.flatMap wordBytes), mask := BitVec.allOnes 128 }

/-- 16 words go to a line of PEER_RING (R615). -/
def lsSend (s : State) (i : Nat) (o : Origin) (ws : List Word) : State := toPackage s (fld s.det.lsPeer 15 0) (lsReq s i o ws)

/-- The pairing's registers and buffers are empty again (R619). -/
def lsClear (d : Det) : Det :=
  { d with ls := 0, lsPeer := 0, lsRing := 0, lsPeerRing := 0, lsK := 0, lsWin := 0, lsStart := none, lsMine := [], lsMineUnc := [], lsBuf := [],
           lsFail := [], div := {} }

/-- LOCKSTEP_PAIR is refused (R613). -/
def pairRefused (s : State) (a1 a2 a4 : Word) : Option Status :=
  if !lockstepOn s then some .unitAbsent
  else if s.det.ls ≠ 0 ∨ fld a1 23 8 = fld s.cas.nodeId 15 0 ∨ !partOwnsLines s 0 (fld a2 45 14 * 128) 128 ∨
    s.det.kindle ≠ 1 ∨ s.det.kindleAt ≠ a4 ∨ s.bcn.uncertain then some .permission
  else none

/-- LOCKSTEP_PAIR (R613, R615, R619). -/
def svcLockstepPair (s : State) (m seq : Nat) (args : List Word) : State :=
  gate s m seq { code := 0x0091, who := .root, masks := [mask 0 0 ||| mask 23 8, mask 45 14, mask 45 14, BitVec.allOnes 64] } args (fun t =>
    let (a1, a2, a3, a4) := (argOf args 0, argOf args 1, argOf args 2, argOf args 3)
    if !bitOf a1 0 then
      (if !lockstepOn t then reply t m seq 0x0091 .unitAbsent else reply { t with det := lsClear t.det } m seq 0x0091 .ok)
    else match pairRefused t a1 a2 a4 with
      | some st => reply t m seq 0x0091 st
      | none =>
        let u := { t with det := { lsClear t.det with ls := 1, lsPeer := pack [(0, fld a1 23 8), (16, 1)], lsRing := a2, lsPeerRing := a3, lsK := a4 } }
        reply (lsSend u 0 .relay (lsHeader u)) m seq 0x0091 .ok)

/-- LOCKSTEP_PAIR: OP 1 (R613). -/
def execLockstepPair (mb seq : Nat) (args : List Word) (s : State) : Host.Outcome State Fault Refusal :=
  .next (svcLockstepPair s mb seq (lmod args 0 (fun a => setBit a 0 true)))

/-- LOCKSTEP_UNPAIR: OP 0 (R619). -/
def execLockstepUnpair (mb seq : Nat) (args : List Word) (s : State) : Host.Outcome State Fault Refusal :=
  .next (svcLockstepPair s mb seq (lmod args 0 (fun a => setBit a 0 false)))

/-- Digest st of a record. -/
def recDigest (ws : List Word) (st : Nat) : Nat := (ws.getD (2 + 2 * st) 0).toNat + (ws.getD (3 + 2 * st) 0).toNat * 2 ^ 64

/-- The lowest masked station whose digests differ (R617, R618). -/
def digestDiff (s : State) (mine : List Nat) (peer : List Word) : Option Nat :=
  if peer = [] then none else (List.range 7).find? (fun st => (lsMask s).testBit st && mine.getD st 0 != recDigest peer st)

/-- The divergences of window j against a record: kind, station and both digests, in the order of precedence (R617, R618). -/
def lsKinds (s : State) (j : Nat) : List (Nat × Nat × Nat × Nat) :=
  let peer := tget s.det.lsBuf (64 + j % 64)
  let mine := tget s.det.lsMine j
  let here := peer != [] && peer.headD 0 == s.det.lsK + w64 j
  let unc := s.det.lsMineUnc.contains j || (here && bitOf (peer.getD 1 0) 0)
  (match digestDiff s mine peer with
    | some st => [(1, st, mine.getD st 0, recDigest peer st)]
    | none => []) ++
  (if here then [] else [(2, 0, 0, 0)]) ++ (if unc then [(4, 0, 0, 0)] else []) ++ (if s.det.lsFail.contains j then [(5, 0, 0, 0)] else [])

/-- The comparison of window j (R617, R618). -/
def lsCompare (s : State) (j : Nat) : State :=
  let label := s.det.lsK + w64 j
  let cfg := j == 0 && tget s.det.lsBuf 0 != lsHeader s
  let ks := lsKinds s j
  let t := if cfg then lsBroken s label 3
    else
      let t := match ks with
        | (k, st, a, b) :: _ => lsFirst s label k st a b
        | [] => s
      let t := if ks.isEmpty then t else { t with det := { t.det with ls := if t.det.ls = 2 then 3 else t.det.ls } }
      if ks.any (fun x => x.1 == 4) then lsBroken t label 4 else t
  { t with det := { t.det with divTotal := if cfg || !ks.isEmpty then satAdd 32 t.det.divTotal 1 else t.det.divTotal
                               lsMine := tset t.det.lsMine j [], lsMineUnc := setDel t.det.lsMineUnc j, lsFail := setDel t.det.lsFail j } }

/-- The end of lockstep window j: its record goes to the peer, and window j - 1 - LAG is compared (R614, R615, R617). -/
def lsWindow (s : State) (units : List (Nat × List Nat)) : State :=
  match s.det.lsStart with
  | none => s
  | some r =>
    let j := s.det.lsWin
    let t := advanceTo s (r + (j + 1) * periodNom s)
    let label := t.det.lsK + w64 j
    let ds := digestsOf t units
    let u := lsSend t (64 + j % 64) (.det j) (lsRecord label t.bcn.uncertain ds)
    let u := { u with det := { u.det with lsWin := j + 1, lsMine := if u.det.ls = 4 then [] else tset u.det.lsMine j ds
                                          lsMineUnc := if t.bcn.uncertain then setIns u.det.lsMineUnc j else u.det.lsMineUnc } }
    if (u.det.ls = 2 ∨ u.det.ls = 3) ∧ 1 + lsLag u ≤ j then
      let before := u.det.divTotal
      let v := lsCompare u (j - 1 - lsLag u)
      if v.det.divTotal = before then v else count v pDET 0
    else u

/-- LOCKSTEP_WINDOW_END (R615, R617). -/
def execLockstepWindowEnd (units : List (Nat × List Nat)) (s : State) : Host.Outcome State Fault Refusal := .next (lsWindow s units)

/-- LOCKSTEP_RECORD_INGRESS (R616): a write that is not the peer's to RING takes the path of SPAN_INGRESS_REQUEST. -/
def execLockstepRecordIngress (m : RemoteReq) (s : State) : Host.Outcome State Fault Refusal := .next (ingress s m)

/-! ## DET_MODE -/

/-- DET_MODE takes a new value, which an input of the fingerprints is (R608). -/
def detModePut (s : State) (w : Word) : State := fpDirty { s with det := { s.det with mode := w } }

/-- A write of DET_MODE (R608): the master passes a new value to every block of the cascade. -/
def detModeSet (s : State) (v : Word) : State :=
  if !s.cas.master then refuseLast s pDET .permission
  else
    let w := v &&& mask 3 0
    if w = s.det.mode then s else casAll (detModePut s w) (.detMode w)

/-- DET_MODE_WRITE (R608). -/
def execDetModeWrite (a : Acc) (v : Word) (s : State) : Host.Outcome State Fault Refusal :=
  .next (unitWrite s a pDET 0x200 (fun t => detModeSet t v))

end Sys2Proof.Machine
end

