-- ==== Sys2Proof/Machine/StartUp.lean ====
section
/-!
DEFINITION. Start-up: resets and their stages, the signed image and the start parameters, attestation readiness and the opening of the
root partition; unit resets, throttle and power report, fuses and test access (R557 to R564, R663 to R686, R702 to R711).
-/
namespace Sys2Proof.Machine
open Sys2Proof

/-! ## Resets -/

/-- The lifecycle state that the fuses give (R557): RETIRED before DEBUG before SECURED; a fuse array that fails its check makes the block
RETIRED for this reset. -/
def lifeOf (rows : Tbl Word) (fuseOk : Bool) : Lifecycle :=
  let w := tget rows rowLife
  if !fuseOk || bitOf w 2 then .retired else if bitOf w 1 then .debug else if bitOf w 0 then .secured else .blank

/-- The fuse load: rows, lifecycle and straps as this start reads them (R557, R702 to R704); stage RELEASE follows. -/
def fuseLoad (s : State) (straps : Straps) (fuseOk : Bool) : State :=
  { s with
    fuses := { s.fuses with fuseBad := !fuseOk, lifecycle := lifeOf s.fuses.rows fuseOk, loaded := s.fuses.rows }
    cas := { s.cas with pos := straps.pos % 8, master := straps.master, sizeM1 := straps.sizeM1 % 8 }
    boot := { s.boot with stage := 1, err := if fuseOk then 0 else 0x01 } }

/-- What no reset touches: the build, the fuse array, the queue of commands, the record of what was sent and the count of free values. -/
def afresh (s : State) : State :=
  { build := s.build, fuses := { rows := s.fuses.rows }, pending := s.pending, out := s.out, free := s.free,
    mps := s.mps.map (fun e => (e.1, { present := e.2.present })) }

/-- POWER_ON_RESET (R663, R664): everything is reset, and the memory behind the ports did not keep its contents. -/
def execPowerOnReset (straps : Straps) (fuseOk : Bool) (s : State) : Host.Outcome State Fault Refusal := .next (fuseLoad (afresh s) straps fuseOk)

/-- Partitions that are not FREE. -/
def openParts (s : State) : List Nat := (List.range 64).filter (fun p => (part s p).st != .free)

/-- A block reset keeps the always-on state and the memory behind the ports (R663, R665). -/
def blockReset (s : State) (straps : Straps) (fuseOk : Bool) : State :=
  let t := afresh s
  fuseLoad { t with
    mem := s.mem, memPois := s.memPois, memKey := s.memKey, memScrub := s.memScrub
    sec := { t.sec with epochs := s.sec.epochs }
    boot := { t.boot with bootCount := satAdd 32 s.boot.bootCount 1, rstCause := if s.clk.rstReq then 2 else 1, prevStat := bootStat s
                          wasOpen := (openParts s).foldl setIns s.boot.wasOpen, restarted := true } } straps fuseOk

/-- BLOCK_RESET (R663, R665, R685). -/
def execBlockReset (straps : Straps) (fuseOk : Bool) (s : State) : Host.Outcome State Fault Refusal := .next (blockReset s straps fuseOk)

/-- RESET_RELEASE (R597): the event-tick counter starts at the release, and the ROM stage begins. -/
def execResetRelease (s : State) : Host.Outcome State Fault Refusal :=
  .next (if s.boot.stage ≠ 1 ∨ s.clk.stopped then s
    else { s with boot := { s.boot with stage := 2 }, clk := { s.clk with cyc := 0, tickStart := 0, et := 0 } })

/-- ROM_STAGE_END (R647, R681): what failed the memory BIST is fenced, or the block halts; then it waits for an image. -/
def romEnd (s : State) (badPages badCells : List Nat) : State :=
  if s.boot.stage ≠ 2 then s
  else match badPages.find? unfenceable with
    | some p => halt s 0x02 p
    | none =>
      let t := (badPages.filter (present s)).foldl (fun u p => updPage u p (fun q => { q with fence := true })) s
      { t with ras := { t.ras with cells := (badCells.filter (fun c => decide (c < 56))).foldl setIns t.ras.cells }, boot := { t.boot with stage := 3 } }

/-- ROM_STAGE_END (R681). -/
def execRomStageEnd (badPages badCells : List Nat) (s : State) : Host.Outcome State Fault Refusal := .next (romEnd s badPages badCells)

/-! ## The image and the start parameters -/

/-- n bytes of the staging array. -/
def staged (s : State) (a n : Nat) : List Byte := (List.range n).map (fun i => tget s.boot.staging (a + i))

/-- A number of n bytes in the staging array. -/
def stagedNat (s : State) (a n : Nat) : Nat := bytesNat (staged s a n)

/-- n bytes of the staging array are zero. -/
def stagedZero (s : State) (a n : Nat) : Bool := (s.boot.staging).all (fun e => decide (e.1 < a) || decide (a + n ≤ e.1))

/-- IMAGE_LEN. -/
def imageLen (s : State) : Nat := stagedNat s 0x008 4

/-- R672 item 1: the header is as R671 states. -/
def headerOk (s : State) : Bool :=
  stagedNat s 0 4 == 0x43524453 && stagedNat s 4 2 == 1 && stagedNat s 0x10 1 == 1 && decide (stagedNat s 0x11 1 ≤ 0xB0) &&
  imageLen s % 256 == 0 && decide (608 ≤ imageLen s) && decide (imageLen s ≤ 0x1FF000) && stagedZero s 6 2 && stagedZero s 0x12 14 && stagedZero s 0x80 384

/-- The signed bytes. -/
def signedBytes (s : State) : List Byte := staged s 0 (imageLen s - 96)

/-- The value of the minimum-SVN fuse: its blown bits (R703). -/
def minSvn (s : State) : Nat := bitsSet (tget s.fuses.loaded rowSvn)

/-- Why the ROM stage refuses the image, in the order of R672: the code of BOOT_STAT[ERR]. -/
def imageErr (s : State) : Option Nat :=
  if !headerOk s then some 0x03
  else if sha384 (staged s 0x20 96) ≠ bytesN 48 s.build.imageKeyDigest then some 0x04
  else if !ecdsaValid (staged s 0x20 96) (sha384 (signedBytes s)) (staged s (imageLen s - 96) 96) then some 0x04
  else if stagedNat s 0x00C 4 < minSvn s then some 0x05
  else none

/-- Offset of the start parameter block (R671). -/
def pb : Nat := 0x1FF000

/-- Memory range i of the parameters. -/
def paramRange (s : State) (i : Nat) : MemRange :=
  { base := w64 (stagedNat s (pb + 0x20 + 24 * i) 8), ctl := w64 (stagedNat s (pb + 0x28 + 24 * i) 8), pbase := w64 (stagedNat s (pb + 0x30 + 24 * i) 8) }

/-- Pool register i of the parameters, NEAR_BASE to DECODE_BASE. -/
def paramPool (s : State) (i : Nat) : Word := w64 (stagedNat s (pb + 0x1A0 + 8 * i) 8)

/-- Bits that the pool registers have (R401). -/
def poolMask (i : Nat) : Word :=
  match i with
  | 0 => mask 45 22 | 1 => mask 16 0 | 2 => mask 45 19 | 3 => mask 23 0 | _ => mask 45 38

/-- The parameter block has its MAGIC, values in their ranges and no reserved field set; a block that is not the master does not look at the
fields that hold for the whole cascade (R673, R674). -/
def paramsOk (s : State) : Bool :=
  let n := fun (a k : Nat) => stagedNat s (pb + a) k
  let z := fun (a k : Nat) => stagedZero s (pb + a) k
  n 0 4 == 0x4D525053 && decide (1200000 ≤ n 4 4) && decide (n 4 4 ≤ 2200000) &&
  decide (n 0xC 1 < 8) && decide (n 0xC 1 % 4 < 2) && z 0xD 1 && n 0x10 1 / 16 % 8 == 0 && n 0x11 1 / 16 % 8 == 0 && decide (n 0x12 1 < 2) &&
  z 0x18 8 && z 0x1C8 568 && decide (n 0x400 2 ≤ 3064) && z 0x402 6 &&
  (!s.cas.master || (decide (250 ≤ n 8 4) && decide (n 8 4 ≤ 16000) && decide (n 0x13 1 < 2) &&
    (List.range 16).all (fun i => let r := paramRange s i
                                  r.base &&& ~~~ (mask 45 22) == 0 && r.ctl &&& ~~~ (mask 30 0) == 0 && r.pbase &&& ~~~ (mask 38 0) == 0))) &&
  (List.range 5).all (fun i => paramPool s i &&& ~~~ (poolMask i) == 0)

/-- LINK_CFG of a station from the parameters (R202, R248, R675). -/
def paramLink (s : State) (p : Nat) : Word :=
  if p = pENG then w64 (stagedNat s (pb + 0x12) 1 % 2)
  else
    let b := stagedNat s (pb + 0x10 + (p - pHST0)) 1
    pack [(8, b % 16), (12, b / 128 % 2)]

/-- The pools of this block and its decode aperture satisfy R371 as far as the block can judge. -/
def poolsOk (s : State) : Bool :=
  match poolRanges s with
  | a :: b :: rest => !overlap a.1 a.2 b.1 b.2 && rest.all (fun d =>
      !s.cas.ranges.any (fun e => rangeMode e.2 != 0 && overlap (fld e.2.base 45 22) (fld e.2.ctl 23 0) d.1 d.2))
  | _ => true

/-- Pages whose ENABLE step 6 sets when they are present and not fenced (R57, R675, R676). -/
def initPages : List Nat := stationPages ++ memPages ++ [pMOV, pXFM, pTIR, pCNT]

/-- A unit is brought up as step 6 would: ENABLE, LINK_CFG of a station, MP_EN of a connected memory port (R57, R675, R676). -/
def unitUp (s : State) (p : Nat) : State :=
  if !present s p || fenced s p then s
  else
    let t := if initPages.contains p then updPage s p (fun q => { q with enable := true }) else s
    if stationPages.contains p then noteReg (updLink t p (fun l => { l with cfg := paramLink t p })) p 0x300
    else if memPages.contains p then updMp t (p - pNMP0) (fun q => { q with en := q.present })
    else t

/-- The beacon settings of the parameters (R89, R673): a SRC that the block cannot take leaves SRC as it is, and the period is the master's,
which a block that is not the master has from it. -/
def paramBeacon (s : State) : State :=
  let s := if s.cas.master then { s with boot := { s.boot with beaconNs := stagedNat s (pb + 8) 4 } } else s
  beaconSet s (stagedNat s (pb + 0xC) 1 % 4)

/-- Ranges and the node ID of the parameters, which the master takes for the whole cascade (R506, R552, R673). -/
def paramCascade (s : State) : State :=
  if !s.cas.master then s
  else
    let t := { s with cas := { s.cas with ranges := (List.range 16).foldl (fun u i => tset u i (paramRange s i)) []
                                          nodeId := pack [(0, stagedNat s (pb + 0xE) 2), (16, stagedNat s (pb + 0x13) 1 % 2)] } }
    (List.range 16).foldl (fun u i => noteSels u pCAS i [0x230, 0x238, 0x240]) (noteReg t pCAS 0x210)

/-- Ranges, the node ID and the pools of the parameters (R506, R552, R673). -/
def paramMemory (s : State) : State :=
  let t := paramCascade s
  let t := if t.build.tir then { t with tir := (List.range 5).foldl (fun u i => poolPut u (0x218 + 8 * i) (paramPool s i)) t.tir } else t
  if t.build.tir then noteRegs t pTIR [0x218, 0x220, 0x228, 0x230, 0x238] else t

/-- Key epochs at the image stage after a block reset: those of partitions that were not FREE rise (R665, R666). -/
def raiseEpochs (s : State) : State :=
  let t := s.boot.wasOpen.foldl (fun u p =>
    let k := satAdd 32 (tget u.sec.epochs p) 1
    let v := { u with sec := { u.sec with epochs := tset u.sec.epochs p k } }
    if k = 0xFFFFFFFF then raise v pSEC 3 else v) s
  { t with boot := { t.boot with wasOpen := [] } }

/-- Step 6: epochs, parameters, and every unit that comes up (R57, R665, R666, R673, R675, R676). -/
def initStage (s : State) : State :=
  if s.boot.restarted ∧ tget s.sec.epochs 0 = 0xFFFFFFFF then halt s 0x09 s.cas.pos
  else
    let t := raiseEpochs s
    let svn := stagedNat s 0x00C 4
    let t := { t with boot := { t.boot with
      stage := 6, err := 0, running := true, restarted := false, info := setFld t.boot.info 47 16 svn
      sudricDigest := sha384 (signedBytes s), memWait := stagedNat s (pb + 0x14) 4, fclkKhz := stagedNat s (pb + 4) 4
      spanTrain := (stagedNat s (pb + 0xC) 1).testBit 2, cert := staged s (pb + 0x408) (stagedNat s (pb + 0x400) 2)
      step6Cyc := t.clk.cyc, step6Count := t.bcn.count, ungated := [], attReady := [] } }
    let t := paramMemory (paramBeacon t)
    if !rangesOk t || !poolsOk t then halt t 0x06 t.cas.pos else bootAdvance (initPages.foldl unitUp t)

/-- IMAGE_START (R672 to R674). -/
def svcImageStart (s : State) (m seq : Nat) (args : List Word) : State :=
  gate s m seq { code := 0x00A0, who := .start, masks := [] } args (fun t =>
    let no := fun (e : Nat) => reply { t with boot := { t.boot with err := e } } m seq 0x00A0 .permission
    if t.boot.running ∨ t.boot.stage ≠ 3 then reply t m seq 0x00A0 .permission
    else match imageErr t with
      | some e => no e
      | none =>
        if !paramsOk t then no 0x06
        else
          let u := initStage t
          reply u m seq 0x00A0 (if u.boot.running then .ok else .permission))

/-- IMAGE_START (R674). -/
def execImageStart (mb seq : Nat) (args : List Word) (s : State) : Host.Outcome State Fault Refusal := .next (svcImageStart s mb seq args)

/-! ## Readiness and opening -/

/-- ATTESTATION_READY: this block has judged its chain by the public key that its leaf carries and computed its fingerprints, or the
section of another block has come (R564, R679). -/
def attReadyAt (s : State) (pos : Nat) (leaf sect : List Byte) : State :=
  let put := fun (t : State) => { t with boot := { t.boot with attReady := setIns t.boot.attReady pos } }
  if pos = s.cas.pos then
    (if s.boot.stage ≠ 8 then s else fpCompute (put { s with sec := { s.sec with chainOk := leaf == devicePublic s.fuses && !s.boot.cert.isEmpty } }))
  else if s.cas.master ∧ pos < blocks s ∧ s.boot.running then
    put { s with sec := { s.sec with sections := tset s.sec.sections pos (bytesN 256 sect) } }
  else s

/-- ATTESTATION_READY (R679). -/
def execAttestationReady (pos : Nat) (leaf sect : List Byte) (s : State) : Host.Outcome State Fault Refusal :=
  .next (attReadyAt s pos leaf sect)

/-- A position whose section shows it RETIRED (R560, R680). -/
def retiredAt (s : State) : Option Nat := (List.range (blocks s)).find? (fun p => ((blockSection s p).getD 1 0).toNat == 3)

/-- Every condition of R680 that this block can see holds: formed, brought up, and every block attestation-ready. -/
def mayOpen (s : State) : Bool :=
  s.boot.running && s.boot.stage == 8 && s.cas.st == 2 && !gatePending s &&
  (if s.cas.master then (List.range (blocks s)).all (fun p => s.boot.attReady.contains p) else s.boot.attReady.contains s.cas.pos)

/-- Partition 0 opens in this block (R405, R680). -/
def openHere (s : State) : State :=
  let t := updPart s 0 (fun q => { q with st := .open_ })
  raise { t with boot := { t.boot with stage := 9, openAt := t.bcn.count }, sec := { t.sec with slices := openSlices t } } pCTL 0

/-- Partition 0 opens (R680): the master tells every block of the cascade. -/
def openRoot (s : State) : State :=
  if !mayOpen s then s
  else match retiredAt s with
    | some p => { s with boot := { s.boot with err := 0x08, info := setFld s.boot.info 7 0 p } }
    | none => if s.cas.master then casAll (openHere s) .rootOpen else openHere s

/-- ROOT_PARTITION_OPEN (R680). -/
def execRootPartitionOpen (s : State) : Host.Outcome State Fault Refusal := .next (openRoot s)

/-! ## RST_CTL and unit reset -/

/-- RST_CTL_WRITE (R685). -/
def execRstCtlWrite (a : Acc) (v : Word) (s : State) : Host.Outcome State Fault Refusal :=
  .next (unitWrite s a pCTL 0x220 (fun t => if bitOf v 0 && fld v 15 8 == 0x5A then { t with clk := { t.clk with rstReq := true } } else t))

/-- Pages that a unit reset may name (R682). -/
def resettable : List Nat := stationPages ++ memPages ++ [pSPN, pMOV, pXFM, pTIR, pCNT, pDET]

/-- The unit's registers return to their reset values (R683). Frames, embers, pools and programs are no registers of their pages'
banks and stay. -/
def unitClear (s : State) (p : Nat) : State :=
  let t := updPage s p (fun q => { fence := true, expert := q.expert })
  if p = pENG then { t with eng := {} }
  else if p = pHST0 ∨ p = pHST1 then { t with hst := tset t.hst (p - pHST0) {} }
  else if memPages.contains p then updMp t (p - pNMP0) (fun q => { present := q.present })
  else if p = pSPN then routesFill { t with spn := { stations := t.spn.stations } }
  else if p = pMOV then { t with mov := {} }
  else if p = pXFM then fpDirty { t with xfm := { store := t.xfm.store } }
  else if p = pTIR then
    { t with tir := { frames := t.tir.frames, embers := t.tir.embers, nearBase := t.tir.nearBase, nearPages := t.tir.nearPages,
                      farBase := t.tir.farBase, farUnits := t.tir.farUnits, decodeBase := t.tir.decodeBase } }
  else if p = pCNT then { t with cnt := {} }
  else if p = pDET then fpDirty { kindleAbort t with det := { casLat := t.det.casLat, fpWait := t.det.fpWait } }
  else t

/-- A write of UNIT_RST (R682, R683): the unit is fenced while its reset runs. -/
def unitRst (s : State) (v : Word) : State :=
  let p := fld v 7 0
  let idle := !(page s p).enable && pgBusy s p == false
  if !bitOf v 8 || s.boot.urBusy || !resettable.contains p || !present s p || !(fenced s p || (enableRw p && idle)) then refuseLast s pCTL .permission
  else
    let t := unitClear (if fenced s p then s else fencePage s p) p
    { t with boot := { t.boot with urPage := p, urBusy := true, urStatus := .ok } }

/-- UNIT_RST_WRITE (R682). -/
def execUnitRstWrite (a : Acc) (v : Word) (s : State) : Host.Outcome State Fault Refusal :=
  .next (unitWrite s a pCTL 0x228 (fun t => unitRst t v))

/-- UNIT_RESET_DONE (R683): the unit leaves its fence and comes up, or stays fenced with POISON. -/
def unitRstDone (s : State) (bistOk : Bool) : State :=
  if !s.boot.urBusy then s
  else
    let p := s.boot.urPage
    let t := { s with boot := { s.boot with urBusy := false, urStatus := if bistOk then .ok else .poison } }
    let t := if !bistOk then t
      else
        let u := unitUp (fpDirty (updPage t p (fun q => { q with fence := false, expert := false }))) p
        let u := if p = pTIR ∧ !fenced u p then noteRegs u pTIR [0x218, 0x220, 0x228, 0x230, 0x238] else u
        if p = pSPN ∧ u.boot.spanTrain ∧ u.cas.st = 2 ∧ !fenced u p then
          spnPoll (noteReg (updSpn (updPage u p (fun q => { q with enable := true })) (fun n => { n with cfg := n.cfg ||| 1 })) pSPN 0x200)
        else u
    raise t pCTL 2

/-- UNIT_RESET_DONE (R683). -/
def execUnitResetDone (bistOk : Bool) (s : State) : Host.Outcome State Fault Refusal := .next (unitRstDone s bistOk)

/-! ## Power, fuses and test access -/

/-- THROTTLE_CHANGE: a level sampled equal in two consecutive event ticks takes effect (R705). -/
def execThrottleChange (level : Nat) (s : State) : Host.Outcome State Fault Refusal :=
  .next (if s.boot.stage < 2 then s
    else { s with clk := { s.clk with throttle := level % 8, throttleMax := max s.clk.throttleMax (level % 8) } })

/-- POWER_REPORT: PWR_RPT in units of 1/64 W (R707). -/
def execPowerReport (units : Nat) (s : State) : Host.Outcome State Fault Refusal :=
  .next (if s.boot.stage < 2 then s else { s with clk := { s.clk with pwrRpt := units % 65536 } })

/-- The fuse instrument refuses a bit (R704): key and seed rows once SECURED is blown, and everything but RETIRED in RETIRED. -/
def fuseRefused (s : State) (row bit : Nat) : Bool :=
  let w := tget s.fuses.rows rowLife
  decide (4096 ≤ row) || decide (64 ≤ bit) || (decide (row ≤ 9) && bitOf w 0) ||
  (s.fuses.lifecycle == .retired && !(row == rowLife && bit == 2))

/-- FUSE_PROGRAM (R704): a blown bit takes effect at the next fuse load. -/
def execFuseProgram (row bit : Nat) (s : State) : Host.Outcome State Fault Refusal :=
  .next (if fuseRefused s row bit then s
    else { s with fuses := { s.fuses with rows := tset s.fuses.rows row (setBit (tget s.fuses.rows row) bit true) } })

/-- TEST_SCAN_ENTRY (R710): outside DEBUG every register and SRAM word is cleared, and no function runs until a block reset. -/
def execTestScanEntry (s : State) : Host.Outcome State Fault Refusal :=
  .next (if s.fuses.lifecycle = .debug then s
    else
      let t := afresh s
      { t with fuses := s.fuses, cas := { t.cas with pos := s.cas.pos, master := s.cas.master, sizeM1 := s.cas.sizeM1 }
               mem := s.mem, memPois := s.memPois, memKey := s.memKey, memScrub := s.memScrub
               clk := { t.clk with stopped := true } })

/-- MEMORY_BIST_RUN (R711): the instrument runs while the unit is fenced or in the ROM stage, and refuses otherwise; neither leaves a
trace in a register. -/
def execMemoryBistRun (_page : Nat) (s : State) : Host.Outcome State Fault Refusal := .next s

end Sys2Proof.Machine
end

