-- ==== Sys2Proof/Machine/Relay.lean ====
section
/-!
DEFINITION. What a cascade port brings: messages for another block, which pass on, and messages for this one, which are the requests,
answers, snoops, register accesses and services that other blocks of the cascade send here (R36, R46, R203, R501, R506 to R512).
-/
namespace Sys2Proof.Machine
open Sys2Proof

/-- The state after an outcome; a fault or a refusal leaves the state as it was. -/
def nextOr (s : State) (o : Host.Outcome State Fault Refusal) : State :=
  match o with
  | .next t => t
  | _ => s

/-! ## Register accesses that another block forwards -/

/-- A write to a register of a page whose writes are commands of their own. -/
def pageWriteHere (s : State) (a : Acc) (p o size : Nat) (data : List Word) : State :=
  let v := data.headD 0
  nextOr s (
    if 0x100 ≤ o ∧ o < 0x200 then execDpWinWrite a p o size data s
    else match p, o with
    | _, 0x10 => execPgCtlWrite a p v s
    | _, 0x20 => execIrqRawClear a p v s
    | _, 0x28 => execIrqEnWrite a p v s
    | _, 0x40 => execDpAddrWrite a p v s
    | _, 0x48 => .next (dpAccess s p (dpCtlAcc a v))
    | 0x00, 0x220 => execRstCtlWrite a v s
    | 0x00, 0x228 => execUnitRstWrite a v s
    | 0x01, 0x200 => execBcnCfgWrite a v s
    | 0x01, 0x208 => execBcnPeriodWrite a v s
    | 0x04, 0x200 => execCntFreeze a v s
    | 0x05, 0x220 => execFenceCellWrite a v s
    | 0x05, 0x228 => execLogSelWrite a v s
    | 0x06, 0x210 => execNodeIdWrite a v s
    | 0x07, 0x200 => execDetModeWrite a v s
    | 0x08, 0x238 => execS2RootWrite a v s
    | 0x08, 0x248 => execWdGoWrite a v s
    | 0x0A, 0x208 => execChCtlWrite a v s
    | 0x0A, 0x240 => execSlotCtlWrite a v s
    | 0x0D, 0x240 => execCtxCtlWrite a v s
    | 0x18, 0x200 => execTrainEnWrite a v s
    | 0x18, 0x238 => execQuarRelease a v s
    | 0x04, _ => if o < 0x600 then execCntValWrite a ((o - 0x400) / 8) v s else execCntCfgWrite a ((o - 0x600) / 8) v s
    | 0x06, _ => execMemRangeWrite a o v s
    | 0x08, _ => execSpaceRegisterWrite a o v s
    | 0x0C, _ => execPoolRegisterWrite a o v s
    | 0x0D, _ => if o < 0x258 then execQCtlWrite a o v s else execObjTblWrite a o v s
    | _, _ => .next s)

/-- A write to a register of a mailbox that is a command of its own (R482). -/
def mailboxWriteHere (s : State) (w : MbAcc) (o : Nat) (v : Word) : State :=
  nextOr s (match o, w.via with
    | 0x000, _ => execMbLockWrite w v s
    | 0x010, _ => execH2sPush w v s
    | 0x020, _ => execH2sDbWrite w v s
    | 0x030, _ => execS2hDbClear w v s
    | 0x038, _ => execS2hMaskWrite w v s
    | 0x0F8, .page a =>
      .next (mbCtl s a w.mb (fun t =>
        let t := if bitOf v 0 then updMb t w.mb (fun b => { b with held := false, owner := 0 }) else t
        let t := if bitOf v 1 then flushToSudric t w.mb else t
        if bitOf v 2 then flushToHost t w.mb else t))
    | _, _ => .next s)

/-- A write of OBJ_OP (R437). -/
def objOpHere (s : State) (a : Acc) (q : Nat) (v : Word) : State :=
  nextOr s (match fld v 25 24 with
    | 1 => execObjOpTake a q v s
    | 2 => execObjOpDrop a q v s
    | _ => .next (doorbellWrite s a q (fun t => objOpSet t q v)))

/-- A write at a place of this block's register space (R43). -/
def placeWriteHere (s : State) (a : Acc) (off size : Nat) (data : List Word) : State :=
  let v := data.headD 0
  match regPlace off with
  | .page p o =>
    if !isPage p || !ownRow p o then blockWrite s a off size data
    else match (if p = pMBX then mbPlace o else none) with
      | some (m, k) => mailboxWriteHere s { mb := m, via := .page a } k v
      | none => pageWriteHere s a p o size data
  | .doorbell q o =>
    if o = 0x000 then nextOr s (execDbTailWrite a q v s) else if o = 0x028 then objOpHere s a q v else blockWrite s a off size data
  | .view p o =>
    if 0x400 ≤ o ∧ o < 0x440 then nextOr s (execTcCfgWrite a p ((o - 0x400) / 8) v s)
    else if 0x800 ≤ o ∧ mbOwn (o - 0x800) then mailboxWriteHere s { mb := p, via := .view a } (o - 0x800) v
    else blockWrite s a off size data
  | .reserved => blockWrite s a off size data

/-- A read at a place of this block's register space (R43). -/
def placeReadHere (s : State) (a : Acc) (off size : Nat) : State :=
  match regPlace off with
  | .page p o =>
    if 0x100 ≤ o ∧ o < 0x200 then nextOr s (execDpWinRead a p o size s)
    else match (if p = pMBX then mbPlace o else none) with
      | some (m, 0x018) => nextOr s (execS2hPop { mb := m, via := .page a } s)
      | _ => blockRead s a off size
  | .view p o => if o = 0x818 then nextOr s (execS2hPop { mb := p, via := .view a } s) else blockRead s a off size
  | _ => blockRead s a off size

/-- A register access that block src forwards for one of its host stations (R46): it is taken as that station's own would be, and
answered to that block. -/
def regHere (s : State) (src : Nat) (write : Bool) (a : Acc) (off size : Nat) (data : List Word) : State :=
  let a := { a with st := 16 * (src + 1) + a.st % 16 }
  let w := regPlace off
  if mayReach s a.part w && !absentPlace s w && sizeOk w off size then
    (if write then placeWriteHere s a off size data else placeReadHere s a off size)
  else if write then blockWrite s a off size data else blockRead s a off size

/-- The answer to a forwarded access goes to the host station that made it, whose credit went back when it was forwarded. -/
def regBack (s : State) (st : Nat) (status : Status) (data : List Word) : State :=
  if hostUp s st then emit s (.reg st status data) else emits s [.reg st status data]

/-! ## Services that another block relays -/

/-- Sudric runs a service that another block of the cascade sent, under its number (R501, R573). -/
def svcHere (s : State) (m seq code : Nat) (args : List Word) : State :=
  match code with
  | 0x20 => svcPartOpen s m seq args
  | 0x21 => svcPartSeal s m seq args
  | 0x22 => svcPartClose_ s m seq args
  | 0x23 => svcLayoutSet_ s m seq args
  | 0x30 => svcCtxCreate s m seq args
  | 0x31 => svcCtxDestroy_ s m seq args
  | 0x32 => svcSpaceGet s m seq args
  | 0x33 => svcSpacePut_ s m seq args
  | 0x36 => svcObjTableSet s m seq args
  | 0x37 => takeFaultRingSet s m seq args
  | 0x38 => takeDispatchRingSet s m seq args
  | 0x60 => takeRedOpen s m seq args
  | 0x61 => svcRedBind s m seq args
  | 0x62 => svcRedUnbind s m seq args
  | 0x63 => svcRedClose s m seq args
  | 0x70 => takeTierEnrol s m seq args
  | 0x71 => svcTierUnenrol s m seq args
  | 0x72 => svcTierPolicy s m seq args
  | 0x80 => svcAttest s m seq args
  | _ => s

/-! ## Messages for this block -/

/-- A request of another block is placed at its home here; the block of a host agent that asks is remembered (R203). -/
def reqHere (s : State) (src num : Nat) (r : HomeReq) : State :=
  let t := if r.agent < 16 ∧ r.node.isNone ∧ !s.cas.hostAt.contains (r.agent, src) then
      { s with cas := { s.cas with hostAt := (r.agent, src) :: s.cas.hostAt } } else s
  place t { r with origin := .block src num }

/-- A snoop from another block goes to its agent. The answer to one that no home of this cascade sent goes back to that block, whose
station took it from the span (R550). -/
def snpHere (s : State) (src agent : Nat) (op : SnpOp) (line dest tag : Nat) : State :=
  let t := if (homeOf s line).1 = src then s
    else updSpn s (fun n => { n with remSnps := n.remSnps ++ [{ line := line, left := [agent], via := some src }] })
  emit t (.snp agent op line dest tag)

/-- What a message that has reached its block does there. -/
def loadHere (s : State) (src : Nat) : CasLoad → State
  | .raw _ => s
  | .req num r => reqHere s src num r
  | .ans num k st d p last => casAns s num k st d p last
  | .snp agent op line dest tag => snpHere s src agent op line dest tag
  | .stash agent line d p => emit s (.stash agent line d p)
  | .wbComp agent tag => emit s (.wbComp agent tag)
  | .snpRsp a line had wb d =>
    if remAwaits s a line then (if d.dirty then s else remSnpTake s a line had none)
    else if homeAwaits s a line then snoopAnswer s a line had wb d.dirty (statusOf d.status) else s
  | .snpData a line d p x =>
    if remAwaits s a line then remSnpTake s a line true (if x.dirty then some (d, p) else none)
    else if homeAwaits s a line then snoopData s a line d p x.dirty (statusOf x.status) else s
  | .ack a tag line => ackGrant s a tag line
  | .evict a tag line d => evict s a tag line d
  | .stashAns a line accept => if accept then stashAccept s a line else stashDecline s a line
  | .reg write a off size data => regHere s src write a off size data
  | .regRsp st status data => regBack s (st % 2) status data
  | .svc m seq code args => svcHere s m (if 256 ≤ seq then seq else relayed src seq) code args
  | .svcRsp m seq code st res o => reply s m (seq % 256) code st res o
  | .nodeId v => nodeIdPut { s with cas := { s.cas with masterAt := some src } } v
  | .detMode v => detModePut s v
  | .kindle armed k parts => kindleHere s armed k parts
  | .ranges l =>
    let t := { s with cas := { s.cas with masterAt := some src, ranges := l.foldl (fun t e => tset t e.1 { base := e.2.1, ctl := e.2.2.1, pbase := e.2.2.2 }) [] } }
    (List.range 16).foldl (fun u i => noteSels u pCAS i [0x230, 0x238, 0x240]) t
  | .rootOpen => if s.boot.running && s.boot.stage != 9 then openHere s else s
  | .beaconNs ns =>
    let t := { s with boot := { s.boot with beaconNs := ns } }
    if t.boot.running then beaconSet t (fld (t.bcn.cfgNext.getD t.bcn.cfg) 1 0) else t
  | .span _ (.rsp pos k a st d p) => spanAnswer s pos k a st d p
  | .span node m => toNode s node m
  | .note npa v => { s with fnc := { s.fnc with notes := s.fnc.notes ++ [(npa, v)] } }
  | .sliceGone k => retry { s with ras := { s.ras with remFenced := setIns s.ras.remFenced k } }
  | .station st gone => stationHere s src st gone
  | .runcached line => setDir s line { st := .shared 0, runcached := true }

/-- CASCADE_FORWARD: a message for another block passes from its first-hop pool to the second-hop pool of its kind (R509, R510); one for
this block takes effect. -/
def casForward (s : State) (port : Nat) (m : CasMsg) : State :=
  if s.boot.stage < 2 ∨ 4 ≤ port then s
  else if m.dst = s.cas.pos then loadHere s m.src m.load
  else if s.cas.st ≠ 2 ∨ m.hop2 then s
  else
    let t := { s with cas := { s.cas with fwdBytes := satAdd 48 s.cas.fwdBytes m.bytes } }
    casSend (count t pCAS 0 0x3FF port m.bytes) { m with hop2 := true }

/-- CASCADE_FORWARD (R510). -/
def execCascadeForward (port : Nat) (m : CasMsg) (s : State) : Host.Outcome State Fault Refusal := .next (casForward s port m)

end Sys2Proof.Machine
end

