-- ==== Sys2Proof/Machine/Requests.lean ====
section
/-!
DEFINITION. How Sudric takes REQUEST: it pops the requests of a mailbox and runs each by its service code (R489 to R493, R500).
-/
namespace Sys2Proof.Machine
open Sys2Proof

/-- Reserved bits of a request header (R489). -/
def reqReserved : Word := mask 23 20 ||| mask 63 32

/-- A request that Sudric answers with PERMISSION whatever it asks (R490, R492). -/
def refuseRequest (s : State) (m seq svc : Nat) : State := reply (oweReply s m seq svc) m seq svc .permission

/-- The service that a code names runs (R500); a code outside the catalogue is refused (R492). -/
def runService (s : State) (m seq svc : Nat) (args : List Word) : State :=
  match svc with
  | 0x0001 => svcVersion s m seq args
  | 0x0002 => svcOverrideLog s m seq args
  | 0x0003 => svcLastReply s m seq args
  | 0x0010 => svcBcnSet s m seq args
  | 0x0020 => svcPartOpen s m seq args
  | 0x0021 => svcPartSeal s m seq args
  | 0x0022 => svcPartClose_ s m seq args
  | 0x0023 => svcLayoutSet_ s m seq args
  | 0x0030 => svcCtxCreate s m seq args
  | 0x0031 => svcCtxDestroy_ s m seq args
  | 0x0032 => svcSpaceGet s m seq args
  | 0x0033 => svcSpacePut_ s m seq args
  | 0x0034 => svcQueueCreate s m seq args
  | 0x0035 => svcQueueDestroy_ s m seq args
  | 0x0036 => svcObjTableSet s m seq args
  | 0x0037 => takeFaultRingSet s m seq args
  | 0x0038 => takeDispatchRingSet s m seq args
  | 0x0039 => svcResume s m seq args
  | 0x0040 => takeFenceWatch s m seq args
  | 0x0041 => svcFenceUnwatch s m seq args
  | 0x0050 => svcChanAssign s m seq args
  | 0x0051 => takeXfmLoad s m seq args
  | 0x0060 => takeRedOpen s m seq args
  | 0x0061 => svcRedBind s m seq args
  | 0x0062 => svcRedUnbind s m seq args
  | 0x0063 => svcRedClose s m seq args
  | 0x0068 => svcCwinSet s m seq args
  | 0x0070 => takeTierEnrol s m seq args
  | 0x0071 => svcTierUnenrol s m seq args
  | 0x0072 => svcTierPolicy s m seq args
  | 0x0080 => svcAttest s m seq args
  | 0x0081 => svcReserve s m seq args
  | 0x0090 => svcKindle s m seq args
  | 0x0091 => svcLockstepPair s m seq args
  | 0x0092 => svcFingerprint s m seq args
  | 0x00A0 => svcImageStart s m seq args
  | 0x00B0 => svcHealth s m seq args
  | _ => refuseRequest s m seq svc

/-- Popped words are run as requests, one after another: n at most (R490). A header that announces more words than remain ends the pops
with a refusal. -/
def runWords : Nat → State → Nat → List Word → State
  | 0, s, _, _ => s
  | _ + 1, s, _, [] => s
  | n + 1, s, m, h :: rest =>
    let (svc, k, seq) := (fld h 15 0, fld h 19 16, fld h 31 24)
    if rest.length < k then refuseRequest s m seq svc
    else if h &&& reqReserved ≠ 0 then runWords n (refuseRequest s m seq svc) m (rest.drop k)
    else runWords n (runService s m seq svc (rest.take k)) m (rest.drop k)

/-- Sudric takes REQUEST of a mailbox: the bit is cleared, the FIFO is popped empty, and the timer follows (R490, R495). -/
def takeRequest (s : State) (m : Nat) : State :=
  if !mbServed s m || !bitOf (mbox s m).h2sDb 0 then s
  else
    let ws := (mbox s m).h2s
    let t := armH2s (updMb s m (fun b => { b with h2s := [], h2sDb := setBit b.h2sDb 0 false })) m true
    runWords ws.length t m ws

/-- REQUEST_TAKE (R490). -/
def execRequestTake (mb : Nat) (s : State) : Host.Outcome State Fault Refusal := .next (takeRequest s mb)

end Sys2Proof.Machine
end

