-- ==== Sys2Proof/Machine/Dispatch.lean ====
section
/-!
DEFINITION. The dispatch: one arm per command of the opcode table, each a direct call of that command's meaning.
-/
namespace Sys2Proof.Machine
open Sys2Proof

/-- The effect of one command on everything but the queue of waiting commands. -/
def exec (i : Instr) (s : State) : Host.Outcome State Fault Refusal :=
  match i with
  | .powerOnReset straps fuseOk => Sys2Proof.Machine.execPowerOnReset straps fuseOk s
  | .blockReset straps fuseOk => Sys2Proof.Machine.execBlockReset straps fuseOk s
  | .resetRelease => Sys2Proof.Machine.execResetRelease s
  | .romStageEnd badPages badCells => Sys2Proof.Machine.execRomStageEnd badPages badCells s
  | .imageStart mb seq args => Sys2Proof.Machine.execImageStart mb seq args s
  | .cascadeLinkInit port peer gen step reaches lat => Sys2Proof.Machine.execCascadeLinkInit port peer gen step reaches lat s
  | .cascadeFormed => Sys2Proof.Machine.execCascadeFormed s
  | .joinDeadline => Sys2Proof.Machine.execJoinDeadline s
  | .stationBringupTimeout page => Sys2Proof.Machine.execStationBringupTimeout page s
  | .mpReadyRise port => Sys2Proof.Machine.execMpReadyRise port s
  | .mpReadyFall port => Sys2Proof.Machine.execMpReadyFall port s
  | .memWaitExpire => Sys2Proof.Machine.execMemWaitExpire s
  | .attestationReady pos leaf sect => Sys2Proof.Machine.execAttestationReady pos leaf sect s
  | .rootPartitionOpen => Sys2Proof.Machine.execRootPartitionOpen s
  | .rstCtlWrite a v => Sys2Proof.Machine.execRstCtlWrite a v s
  | .unitRstWrite a v => Sys2Proof.Machine.execUnitRstWrite a v s
  | .unitResetDone bistOk => Sys2Proof.Machine.execUnitResetDone bistOk s
  | .throttleChange level => Sys2Proof.Machine.execThrottleChange level s
  | .powerReport units => Sys2Proof.Machine.execPowerReport units s
  | .fuseProgram row bit => Sys2Proof.Machine.execFuseProgram row bit s
  | .testScanEntry => Sys2Proof.Machine.execTestScanEntry s
  | .memoryBistRun page => Sys2Proof.Machine.execMemoryBistRun page s
  | .i3cAccess write off v => Sys2Proof.Machine.execI3cAccess write off v s
  | .registerWrite a off size data => Sys2Proof.Machine.execRegisterWrite a off size data s
  | .readClear a off size => Sys2Proof.Machine.execReadClear a off size s
  | .pgCtlWrite a page v => Sys2Proof.Machine.execPgCtlWrite a page v s
  | .overrideCheck page => Sys2Proof.Machine.execOverrideCheck page s
  | .irqRawClear a page v => Sys2Proof.Machine.execIrqRawClear a page v s
  | .irqEnWrite a page v => Sys2Proof.Machine.execIrqEnWrite a page v s
  | .dpAddrWrite a page v => Sys2Proof.Machine.execDpAddrWrite a page v s
  | .dpStartRead a page v => Sys2Proof.Machine.execDpStartRead a page v s
  | .dpStartWrite a page v => Sys2Proof.Machine.execDpStartWrite a page v s
  | .dpModeReserved a page v => Sys2Proof.Machine.execDpModeReserved a page v s
  | .dpAbandon a page v => Sys2Proof.Machine.execDpAbandon a page v s
  | .dpFlush a page v => Sys2Proof.Machine.execDpFlush a page v s
  | .dpBlockFetched page => Sys2Proof.Machine.execDpBlockFetched page s
  | .dpWinRead a page off size => Sys2Proof.Machine.execDpWinRead a page off size s
  | .dpWinWrite a page off size data => Sys2Proof.Machine.execDpWinWrite a page off size data s
  | .dpCommitDone page => Sys2Proof.Machine.execDpCommitDone page s
  | .beaconPulse span at_ => Sys2Proof.Machine.execBeaconPulse span at_ s
  | .beaconWord span bytes => Sys2Proof.Machine.execBeaconWord span bytes s
  | .resyncInterrupts => Sys2Proof.Machine.execResyncInterrupts s
  | .beaconCoast => Sys2Proof.Machine.execBeaconCoast s
  | .beaconDarkEntry => Sys2Proof.Machine.execBeaconDarkEntry s
  | .beaconFreeRunTick => Sys2Proof.Machine.execBeaconFreeRunTick s
  | .bcnCfgWrite a v => Sys2Proof.Machine.execBcnCfgWrite a v s
  | .bcnPeriodWrite a v => Sys2Proof.Machine.execBcnPeriodWrite a v s
  | .deadlineExpire handle => Sys2Proof.Machine.execDeadlineExpire handle s
  | .engineRequest port r => Sys2Proof.Machine.execEngineRequest port r s
  | .streamOpen port ctx desc => Sys2Proof.Machine.execStreamOpen port ctx desc s
  | .streamClose port ctx streamId => Sys2Proof.Machine.execStreamClose port ctx streamId s
  | .prefetchWalkStart => Sys2Proof.Machine.execPrefetchWalkStart s
  | .walkStart => Sys2Proof.Machine.execWalkStart s
  | .walkComplete slot => Sys2Proof.Machine.execWalkComplete slot s
  | .faultRingRetry => Sys2Proof.Machine.execFaultRingRetry s
  | .demandTimeout token => Sys2Proof.Machine.execDemandTimeout token s
  | .burstIssue req burst => Sys2Proof.Machine.execBurstIssue req burst s
  | .hostRequest st op r node => Sys2Proof.Machine.execHostRequest st op r node s
  | .contextLoss ctx => Sys2Proof.Machine.execContextLoss ctx s
  | .rdShared r => Sys2Proof.Machine.execRdShared r s
  | .rdOwn r => Sys2Proof.Machine.execRdOwn r s
  | .upgrade r => Sys2Proof.Machine.execUpgrade r s
  | .rdOnce r => Sys2Proof.Machine.execRdOnce r s
  | .wrFull r => Sys2Proof.Machine.execWrFull r s
  | .wrPart r => Sys2Proof.Machine.execWrPart r s
  | .wrStash r => Sys2Proof.Machine.execWrStash r s
  | .apertureRead r => Sys2Proof.Machine.execApertureRead r s
  | .swap r fmt => Sys2Proof.Machine.execSwap r fmt s
  | .cas r fmt => Sys2Proof.Machine.execCas r fmt s
  | .fetchAdd r fmt => Sys2Proof.Machine.execFetchAdd r fmt s
  | .fetchMin r fmt => Sys2Proof.Machine.execFetchMin r fmt s
  | .fetchMax r fmt => Sys2Proof.Machine.execFetchMax r fmt s
  | .fetchAnd r fmt => Sys2Proof.Machine.execFetchAnd r fmt s
  | .fetchOr r fmt => Sys2Proof.Machine.execFetchOr r fmt s
  | .fetchXor r fmt => Sys2Proof.Machine.execFetchXor r fmt s
  | .redAdd r fmt => Sys2Proof.Machine.execRedAdd r fmt s
  | .redMin r fmt => Sys2Proof.Machine.execRedMin r fmt s
  | .redMax r fmt => Sys2Proof.Machine.execRedMax r fmt s
  | .redOrd r fmt => Sys2Proof.Machine.execRedOrd r fmt s
  | .lockAcq r fmt => Sys2Proof.Machine.execLockAcq r fmt s
  | .lockRel r fmt => Sys2Proof.Machine.execLockRel r fmt s
  | .fenceSig r fmt => Sys2Proof.Machine.execFenceSig r fmt s
  | .barrierArrival r => Sys2Proof.Machine.execBarrierArrival r s
  | .barrierLaneDrop r => Sys2Proof.Machine.execBarrierLaneDrop r s
  | .registrationDrop => Sys2Proof.Machine.execRegistrationDrop s
  | .barrierDeadline slot => Sys2Proof.Machine.execBarrierDeadline slot s
  | .fenceArm slot => Sys2Proof.Machine.execFenceArm slot s
  | .fenceArmResult slot => Sys2Proof.Machine.execFenceArmResult slot s
  | .fenceNotification => Sys2Proof.Machine.execFenceNotification s
  | .fencePoll slot => Sys2Proof.Machine.execFencePoll slot s
  | .fenceWaitTimeout slot => Sys2Proof.Machine.execFenceWaitTimeout slot s
  | .ack agent tag line => Sys2Proof.Machine.execAck agent tag line s
  | .wickHoldEnd line => Sys2Proof.Machine.execWickHoldEnd line s
  | .snpRsp agent line hadCopy wbPending dirty => Sys2Proof.Machine.execSnpRsp agent line hadCopy wbPending dirty s
  | .snpData agent line data poison dirty => Sys2Proof.Machine.execSnpData agent line data poison dirty s
  | .snoopTimeout agent line => Sys2Proof.Machine.execSnoopTimeout agent line s
  | .evictClean agent tag line => Sys2Proof.Machine.execEvictClean agent tag line s
  | .evictDirty agent tag line data poison => Sys2Proof.Machine.execEvictDirty agent tag line data poison s
  | .stashAccept agent line => Sys2Proof.Machine.execStashAccept agent line s
  | .stashDecline agent line => Sys2Proof.Machine.execStashDecline agent line s
  | .linkInit page credits => Sys2Proof.Machine.execLinkInit page credits s
  | .stationLinkUp page => Sys2Proof.Machine.execStationLinkUp page s
  | .stationLinkDown page => Sys2Proof.Machine.execStationLinkDown page s
  | .memoryResponse port tag poison => Sys2Proof.Machine.execMemoryResponse port tag poison s
  | .memoryReadTimeout port tag => Sys2Proof.Machine.execMemoryReadTimeout port tag s
  | .cascadeForward port m => Sys2Proof.Machine.execCascadeForward port m s
  | .cascadePortDown port => Sys2Proof.Machine.execCascadePortDown port s
  | .commandFetch => Sys2Proof.Machine.execCommandFetch s
  | .commandAccept q seq => Sys2Proof.Machine.execCommandAccept q seq s
  | .commandDispatch q seq => Sys2Proof.Machine.execCommandDispatch q seq s
  | .commandRetire q seq => Sys2Proof.Machine.execCommandRetire q seq s
  | .nop q seq => Sys2Proof.Machine.execNop q seq s
  | .move q seq => Sys2Proof.Machine.execMove q seq s
  | .moveXfm q seq => Sys2Proof.Machine.execMoveXfm q seq s
  | .engDispatch q seq => Sys2Proof.Machine.execEngDispatch q seq s
  | .fenceSignal q seq => Sys2Proof.Machine.execFenceSignal q seq s
  | .fenceWait q seq => Sys2Proof.Machine.execFenceWait q seq s
  | .barArrive q seq => Sys2Proof.Machine.execBarArrive q seq s
  | .barDrop q seq => Sys2Proof.Machine.execBarDrop q seq s
  | .stepAdvance q seq => Sys2Proof.Machine.execStepAdvance q seq s
  | .tierMove q seq => Sys2Proof.Machine.execTierMove q seq s
  | .mapWithdraw q seq => Sys2Proof.Machine.execMapWithdraw q seq s
  | .report q seq => Sys2Proof.Machine.execReport q seq s
  | .wdGoWrite a v => Sys2Proof.Machine.execWdGoWrite a v s
  | .withdrawalComplete id => Sys2Proof.Machine.execWithdrawalComplete id s
  | .spaceRegisterWrite a off v => Sys2Proof.Machine.execSpaceRegisterWrite a off v s
  | .s2RootWrite a v => Sys2Proof.Machine.execS2RootWrite a v s
  | .dbTailWrite a q v => Sys2Proof.Machine.execDbTailWrite a q v s
  | .objOpTake a q v => Sys2Proof.Machine.execObjOpTake a q v s
  | .objOpDrop a q v => Sys2Proof.Machine.execObjOpDrop a q v s
  | .objectRelease part obj => Sys2Proof.Machine.execObjectRelease part obj s
  | .releaseRingScan part => Sys2Proof.Machine.execReleaseRingScan part s
  | .qCtlWrite a off v => Sys2Proof.Machine.execQCtlWrite a off v s
  | .ctxCtlWrite a v => Sys2Proof.Machine.execCtxCtlWrite a v s
  | .objTblWrite a off v => Sys2Proof.Machine.execObjTblWrite a off v s
  | .contextDrained ctx => Sys2Proof.Machine.execContextDrained ctx s
  | .descriptorStart chan => Sys2Proof.Machine.execDescriptorStart chan s
  | .segmentStageGrant chan desc seg => Sys2Proof.Machine.execSegmentStageGrant chan desc seg s
  | .pipeSlot pipe => Sys2Proof.Machine.execPipeSlot pipe s
  | .segmentComplete chan desc seg => Sys2Proof.Machine.execSegmentComplete chan desc seg s
  | .halfPoint chan => Sys2Proof.Machine.execHalfPoint chan s
  | .fullPoint chan => Sys2Proof.Machine.execFullPoint chan s
  | .chCtlWrite a v => Sys2Proof.Machine.execChCtlWrite a v s
  | .slotCtlWrite a v => Sys2Proof.Machine.execSlotCtlWrite a v s
  | .reductionGraceExpire sess line win => Sys2Proof.Machine.execReductionGraceExpire sess line win s
  | .reductionWindowDone sess win => Sys2Proof.Machine.execReductionWindowDone sess win s
  | .heatUpdate => Sys2Proof.Machine.execHeatUpdate s
  | .autoMoveChoice => Sys2Proof.Machine.execAutoMoveChoice s
  | .tierMoveStart => Sys2Proof.Machine.execTierMoveStart s
  | .copyPassEnd slot => Sys2Proof.Machine.execCopyPassEnd slot s
  | .switchFinalCopy slot => Sys2Proof.Machine.execSwitchFinalCopy slot s
  | .compressStep slot => Sys2Proof.Machine.execCompressStep slot s
  | .poolRegisterWrite a off v => Sys2Proof.Machine.execPoolRegisterWrite a off v s
  | .h2sPush w v => Sys2Proof.Machine.execH2sPush w v s
  | .s2hPop w => Sys2Proof.Machine.execS2hPop w s
  | .mbLockWrite w v => Sys2Proof.Machine.execMbLockWrite w v s
  | .h2sDbWrite w v => Sys2Proof.Machine.execH2sDbWrite w v s
  | .s2hDbClear w v => Sys2Proof.Machine.execS2hDbClear w v s
  | .s2hMaskWrite w v => Sys2Proof.Machine.execS2hMaskWrite w v s
  | .forceUnlock a mb => Sys2Proof.Machine.execForceUnlock a mb s
  | .flushH2s a mb => Sys2Proof.Machine.execFlushH2s a mb s
  | .flushS2h a mb => Sys2Proof.Machine.execFlushS2h a mb s
  | .requestTake mb => Sys2Proof.Machine.execRequestTake mb s
  | .replyPush mb => Sys2Proof.Machine.execReplyPush mb s
  | .h2sTimeout mb => Sys2Proof.Machine.execH2sTimeout mb s
  | .s2hTimeout mb => Sys2Proof.Machine.execS2hTimeout mb s
  | .version mb seq args => Sys2Proof.Machine.execVersion mb seq args s
  | .overrideLog mb seq args => Sys2Proof.Machine.execOverrideLog mb seq args s
  | .lastReply mb seq args => Sys2Proof.Machine.execLastReply mb seq args s
  | .bcnSet mb seq args => Sys2Proof.Machine.execBcnSet mb seq args s
  | .partOpen mb seq args => Sys2Proof.Machine.execPartOpen mb seq args s
  | .partSeal mb seq args => Sys2Proof.Machine.execPartSeal mb seq args s
  | .partClose mb seq args => Sys2Proof.Machine.execPartClose mb seq args s
  | .closeDrainDone part => Sys2Proof.Machine.execCloseDrainDone part s
  | .snuffPhaseEnd => Sys2Proof.Machine.execSnuffPhaseEnd s
  | .layoutAssign mb seq args => Sys2Proof.Machine.execLayoutAssign mb seq args s
  | .layoutRemove mb seq args => Sys2Proof.Machine.execLayoutRemove mb seq args s
  | .ctxCreate mb seq args => Sys2Proof.Machine.execCtxCreate mb seq args s
  | .ctxDestroy mb seq args => Sys2Proof.Machine.execCtxDestroy mb seq args s
  | .spaceGet mb seq args => Sys2Proof.Machine.execSpaceGet mb seq args s
  | .spacePut mb seq args => Sys2Proof.Machine.execSpacePut mb seq args s
  | .queueCreate mb seq args => Sys2Proof.Machine.execQueueCreate mb seq args s
  | .queueDestroy mb seq args => Sys2Proof.Machine.execQueueDestroy mb seq args s
  | .objTableSet mb seq args => Sys2Proof.Machine.execObjTableSet mb seq args s
  | .faultRingSet mb seq args => Sys2Proof.Machine.execFaultRingSet mb seq args s
  | .dispatchRingSet mb seq args => Sys2Proof.Machine.execDispatchRingSet mb seq args s
  | .resumeRetry mb seq args => Sys2Proof.Machine.execResumeRetry mb seq args s
  | .resumeAbort mb seq args => Sys2Proof.Machine.execResumeAbort mb seq args s
  | .fenceWatch mb seq args => Sys2Proof.Machine.execFenceWatch mb seq args s
  | .fenceUnwatch mb seq args => Sys2Proof.Machine.execFenceUnwatch mb seq args s
  | .chanAssign mb seq args => Sys2Proof.Machine.execChanAssign mb seq args s
  | .xfmLoad mb seq args => Sys2Proof.Machine.execXfmLoad mb seq args s
  | .redOpen mb seq args => Sys2Proof.Machine.execRedOpen mb seq args s
  | .redBind mb seq args => Sys2Proof.Machine.execRedBind mb seq args s
  | .redUnbind mb seq args => Sys2Proof.Machine.execRedUnbind mb seq args s
  | .redClose mb seq args => Sys2Proof.Machine.execRedClose mb seq args s
  | .cwinSet mb seq args => Sys2Proof.Machine.execCwinSet mb seq args s
  | .windowDrainDone w => Sys2Proof.Machine.execWindowDrainDone w s
  | .tierEnrol mb seq args => Sys2Proof.Machine.execTierEnrol mb seq args s
  | .tierUnenrol mb seq args => Sys2Proof.Machine.execTierUnenrol mb seq args s
  | .tierPolicy mb seq args => Sys2Proof.Machine.execTierPolicy mb seq args s
  | .attestWrite mb seq args => Sys2Proof.Machine.execAttestWrite mb seq args s
  | .attestCapture mb seq args => Sys2Proof.Machine.execAttestCapture mb seq args s
  | .attestPiece mb seq args => Sys2Proof.Machine.execAttestPiece mb seq args s
  | .reserve mb seq args => Sys2Proof.Machine.execReserve mb seq args s
  | .kindleArm mb seq args => Sys2Proof.Machine.execKindleArm mb seq args s
  | .kindleCancel mb seq args => Sys2Proof.Machine.execKindleCancel mb seq args s
  | .kindleRelease => Sys2Proof.Machine.execKindleRelease s
  | .lockstepPair mb seq args => Sys2Proof.Machine.execLockstepPair mb seq args s
  | .lockstepUnpair mb seq args => Sys2Proof.Machine.execLockstepUnpair mb seq args s
  | .lockstepWindowEnd units => Sys2Proof.Machine.execLockstepWindowEnd units s
  | .lockstepRecordIngress m => Sys2Proof.Machine.execLockstepRecordIngress m s
  | .fingerprint mb seq args => Sys2Proof.Machine.execFingerprint mb seq args s
  | .fingerprintRecompute => Sys2Proof.Machine.execFingerprintRecompute s
  | .detModeWrite a v => Sys2Proof.Machine.execDetModeWrite a v s
  | .health mb seq args => Sys2Proof.Machine.execHealth mb seq args s
  | .nodeIdWrite a v => Sys2Proof.Machine.execNodeIdWrite a v s
  | .memRangeWrite a off v => Sys2Proof.Machine.execMemRangeWrite a off v s
  | .spanRouteSwitch entry => Sys2Proof.Machine.execSpanRouteSwitch entry s
  | .laneLock lanes timeout => Sys2Proof.Machine.execLaneLock lanes timeout s
  | .markerReceive lane m => Sys2Proof.Machine.execMarkerReceive lane m s
  | .hello h => Sys2Proof.Machine.execHello h s
  | .cert chain => Sys2Proof.Machine.execCert chain s
  | .keyx nonce point => Sys2Proof.Machine.execKeyx nonce point s
  | .finish sigOk => Sys2Proof.Machine.execFinish sigOk s
  | .calReq hold => Sys2Proof.Machine.execCalReq hold s
  | .calRsp hold t4 => Sys2Proof.Machine.execCalRsp hold t4 s
  | .calTimer t1 => Sys2Proof.Machine.execCalTimer t1 s
  | .trainingTimeout => Sys2Proof.Machine.execTrainingTimeout s
  | .backoffExpire => Sys2Proof.Machine.execBackoffExpire s
  | .flitReceive words flit msgs => Sys2Proof.Machine.execFlitReceive words flit msgs s
  | .spanAck flit => Sys2Proof.Machine.execSpanAck flit s
  | .spanNak flit => Sys2Proof.Machine.execSpanNak flit s
  | .spanCredit credits => Sys2Proof.Machine.execSpanCredit credits s
  | .cricket count flit => Sys2Proof.Machine.execCricket count flit s
  | .cricketTimer => Sys2Proof.Machine.execCricketTimer s
  | .cricketLoss => Sys2Proof.Machine.execCricketLoss s
  | .beacon w txOff arrival => Sys2Proof.Machine.execBeacon w txOff arrival s
  | .quarNotice => Sys2Proof.Machine.execQuarNotice s
  | .quarRelease a v => Sys2Proof.Machine.execQuarRelease a v s
  | .trainEnWrite a v => Sys2Proof.Machine.execTrainEnWrite a v s
  | .spanIngressRequest m => Sys2Proof.Machine.execSpanIngressRequest m s
  | .remoteResponse tracker kind status data poison => Sys2Proof.Machine.execRemoteResponse tracker kind status data poison s
  | .remoteDeadline tracker => Sys2Proof.Machine.execRemoteDeadline tracker s
  | .remoteSnoop node line op => Sys2Proof.Machine.execRemoteSnoop node line op s
  | .reservationWindowEnd => Sys2Proof.Machine.execReservationWindowEnd s
  | .tenantPublication => Sys2Proof.Machine.execTenantPublication s
  | .tcCfgWrite a view idx v => Sys2Proof.Machine.execTcCfgWrite a view idx v s
  | .cntValWrite a idx v => Sys2Proof.Machine.execCntValWrite a idx v s
  | .cntCfgWrite a idx v => Sys2Proof.Machine.execCntCfgWrite a idx v s
  | .cntFreeze a v => Sys2Proof.Machine.execCntFreeze a v s
  | .cntClear a v => Sys2Proof.Machine.execCntClear a v s
  | .patrolScrub errs => Sys2Proof.Machine.execPatrolScrub errs s
  | .fenceCellWrite a v => Sys2Proof.Machine.execFenceCellWrite a v s
  | .rebalanceComplete => Sys2Proof.Machine.execRebalanceComplete s
  | .logSelWrite a v => Sys2Proof.Machine.execLogSelWrite a v s
  | .resyncWindowClose => Sys2Proof.Machine.execResyncWindowClose s
  | .mpCreditReturn port cmds lines => Sys2Proof.Machine.execMpCreditReturn port cmds lines s
  | .flitCreditReturn page port credits => Sys2Proof.Machine.execFlitCreditReturn page port credits s

end Sys2Proof.Machine
end

