-- ==== Sys2Proof/Machine/Order.lean ====
section
/-!
DEFINITION. The order of one event tick (R97 to R106, R717): the class of every command, its source key, the events that fall due by
themselves, and the batch of commands that a tick puts in the queue.
-/
namespace Sys2Proof.Machine
open Sys2Proof

/-! ## Classes -/

/-- Rank of a command's event (R97). Rank 0 is the advance of the count, which comes before every class (R98). The rules that name a
rank for an event of the table give it; log entry 1 says which ranks are the model's reading of the classes. -/
def rankOf (i : Instr) : Nat :=
  match i with
  | .pgCtlWrite _ _ v => if bitOf v 2 then 1 else 4
  | .beaconPulse _ _ | .beaconCoast | .beaconDarkEntry | .beaconFreeRunTick | .kindleRelease => 0
  | .powerOnReset _ _ | .blockReset _ _ | .resetRelease | .romStageEnd _ _ | .mpReadyFall _ | .memWaitExpire | .unitRstWrite _ _
  | .unitResetDone _ | .throttleChange _ | .testScanEntry | .memoryReadTimeout _ _ | .forceUnlock _ _ | .fenceCellWrite _ _ => 1
  | .layoutAssign _ _ _ | .layoutRemove _ _ _ | .quarNotice => 2
  | .walkComplete _ | .contextLoss _ | .patrolScrub _ => 3
  | .imageStart _ _ _ | .cascadeLinkInit _ _ _ _ _ _ | .cascadeFormed | .mpReadyRise _ | .attestationReady _ _ _ | .rootPartitionOpen
  | .rstCtlWrite _ _ | .fuseProgram _ _ | .memoryBistRun _ | .i3cAccess _ _ _ | .registerWrite _ _ _ _ | .readClear _ _ _
  | .overrideCheck _ | .irqRawClear _ _ _ | .irqEnWrite _ _ _ | .dpAddrWrite _ _ _ | .dpStartRead _ _ _ | .dpStartWrite _ _ _
  | .dpModeReserved _ _ _ | .dpAbandon _ _ _ | .dpFlush _ _ _ | .dpBlockFetched _ | .dpWinRead _ _ _ _ | .dpWinWrite _ _ _ _ _
  | .dpCommitDone _ | .beaconWord _ _ | .resyncInterrupts | .bcnCfgWrite _ _ | .bcnPeriodWrite _ _ | .engineRequest _ _
  | .streamOpen _ _ _ | .streamClose _ _ _ | .prefetchWalkStart | .walkStart | .burstIssue _ _ | .hostRequest _ _ _ _ | .rdShared _
  | .rdOwn _ | .upgrade _ | .rdOnce _ | .wrFull _ | .wrPart _ | .wrStash _ | .apertureRead _ | .swap _ _ | .cas _ _ | .fetchAdd _ _
  | .fetchMin _ _ | .fetchMax _ _ | .fetchAnd _ _ | .fetchOr _ _ | .fetchXor _ _ | .redAdd _ _ | .redMin _ _ | .redMax _ _ | .redOrd _ _
  | .lockAcq _ _ | .lockRel _ _ | .barrierArrival _ | .barrierLaneDrop _ | .registrationDrop | .fenceArm _ | .fenceArmResult _
  | .fenceNotification | .fencePoll _ | .ack _ _ _ | .snpRsp _ _ _ _ _ | .snpData _ _ _ _ _ | .evictClean _ _ _ | .evictDirty _ _ _ _ _
  | .stashAccept _ _ | .stashDecline _ _ | .linkInit _ _ | .stationLinkUp _ | .stationLinkDown _ | .memoryResponse _ _ _
  | .cascadeForward _ _ | .cascadePortDown _ | .commandFetch | .commandAccept _ _ | .commandDispatch _ _ | .commandRetire _ _ | .nop _ _
  | .move _ _ | .moveXfm _ _ | .engDispatch _ _ | .fenceSignal _ _ | .fenceWait _ _ | .barArrive _ _ | .barDrop _ _ | .stepAdvance _ _
  | .tierMove _ _ | .mapWithdraw _ _ | .report _ _ | .wdGoWrite _ _ | .withdrawalComplete _ | .spaceRegisterWrite _ _ _
  | .s2RootWrite _ _ | .objOpTake _ _ _ | .objOpDrop _ _ _ | .objectRelease _ _ | .releaseRingScan _ | .qCtlWrite _ _ _
  | .ctxCtlWrite _ _ | .objTblWrite _ _ _ | .contextDrained _ | .descriptorStart _ | .segmentStageGrant _ _ _ | .pipeSlot _
  | .segmentComplete _ _ _ | .chCtlWrite _ _ | .slotCtlWrite _ _ | .reductionWindowDone _ _ | .autoMoveChoice | .tierMoveStart
  | .copyPassEnd _ | .switchFinalCopy _ | .compressStep _ | .poolRegisterWrite _ _ _ | .h2sPush _ _ | .s2hPop _ | .mbLockWrite _ _
  | .s2hDbClear _ _ | .s2hMaskWrite _ _ | .flushH2s _ _ | .flushS2h _ _ | .requestTake _ | .replyPush _ | .version _ _ _
  | .overrideLog _ _ _ | .lastReply _ _ _ | .bcnSet _ _ _ | .partOpen _ _ _ | .partSeal _ _ _ | .partClose _ _ _ | .closeDrainDone _
  | .ctxCreate _ _ _ | .ctxDestroy _ _ _ | .spaceGet _ _ _ | .spacePut _ _ _ | .queueCreate _ _ _ | .queueDestroy _ _ _
  | .objTableSet _ _ _ | .faultRingSet _ _ _ | .dispatchRingSet _ _ _ | .resumeRetry _ _ _ | .resumeAbort _ _ _ | .fenceWatch _ _ _
  | .fenceUnwatch _ _ _ | .chanAssign _ _ _ | .xfmLoad _ _ _ | .redOpen _ _ _ | .redBind _ _ _ | .redUnbind _ _ _ | .redClose _ _ _
  | .cwinSet _ _ _ | .windowDrainDone _ | .tierEnrol _ _ _ | .tierUnenrol _ _ _ | .tierPolicy _ _ _ | .attestWrite _ _ _
  | .attestCapture _ _ _ | .attestPiece _ _ _ | .reserve _ _ _ | .kindleArm _ _ _ | .kindleCancel _ _ _ | .lockstepPair _ _ _
  | .lockstepUnpair _ _ _ | .lockstepRecordIngress _ | .fingerprint _ _ _ | .fingerprintRecompute | .detModeWrite _ _ | .health _ _ _
  | .nodeIdWrite _ _ | .memRangeWrite _ _ _ | .spanRouteSwitch _ | .laneLock _ _ | .markerReceive _ _ | .hello _ | .cert _ | .keyx _ _
  | .finish _ | .calReq _ | .calRsp _ _ | .flitReceive _ _ _ | .spanAck _ | .spanNak _ | .spanCredit _ | .cricket _ _ | .beacon _ _ _
  | .quarRelease _ _ | .trainEnWrite _ _ | .spanIngressRequest _ | .remoteResponse _ _ _ _ _ | .remoteSnoop _ _ _ | .tcCfgWrite _ _ _ _
  | .cntValWrite _ _ _ | .cntCfgWrite _ _ _ | .cntFreeze _ _ | .cntClear _ _ | .rebalanceComplete | .logSelWrite _ _
  | .mpCreditReturn _ _ _ | .flitCreditReturn _ _ _ => 4
  | .fenceSig _ _ | .dbTailWrite _ _ _ | .halfPoint _ | .fullPoint _ | .h2sDbWrite _ _ => 5
  | .joinDeadline | .stationBringupTimeout _ | .deadlineExpire _ | .faultRingRetry | .demandTimeout _ | .barrierDeadline _
  | .fenceWaitTimeout _ | .wickHoldEnd _ | .snoopTimeout _ _ | .reductionGraceExpire _ _ _ | .h2sTimeout _ | .s2hTimeout _
  | .snuffPhaseEnd | .calTimer _ | .trainingTimeout | .backoffExpire | .cricketTimer | .cricketLoss | .remoteDeadline _
  | .reservationWindowEnd | .resyncWindowClose => 6
  | .powerReport _ | .heatUpdate | .lockstepWindowEnd _ | .tenantPublication => 7

/-! ## Source keys -/

/-- Key of a host station's access: HST0 before HST1; one that another block forwards comes through a cascade port. -/
def hostKey (a : Acc) : List Nat := if a.st < 2 then [pHST0 + a.st] else [pCAS, a.st]

/-- Key of an access to a mailbox: I3C comes last (R488). -/
def mbKey (w : MbAcc) : List Nat :=
  match w.via with
  | .view a => hostKey a
  | .page a => hostKey a
  | .i3c => [64]

/-- Key of a request that Sudric runs for a mailbox. -/
def mbxKey (mb : Nat) : List Nat := [pMBX, mb]

/-- Key of an agent's message: host agents 0 to 15, then the engine ports. -/
def agentKey (agent : Nat) : List Nat := if agent < 16 then [pHST0, agent] else [pENG, agent]

/-- Key of a request at a slice: the unit that sends it (R207). -/
def reqKey (r : HomeReq) : List Nat :=
  match r.origin with
  | .host st => [pHST0 + st, r.agent]
  | .eng req burst => [pENG, r.agent, req, burst]
  | .mover chan desc seg => [pMOV, chan, desc, seg]
  | .cmd q seq => [pLMP, q, seq]
  | .cascade port => [pCAS, port]
  | .block pos num => [pCAS, pos, num]
  | .span tracker => [pSPN, tracker]
  | .dp page => [page]
  | .det win => [pDET, win]
  | .own k => [pHOM, k]
  | .relay => [pHOM]

/-- Source key of a command's event, most significant part first: the page of the source unit, its instance, the cell, the lane or port
(R101). Every event of the queue is sampled by this block, so its cascade position, which would come first, is the same in all. -/
def sourceKey (i : Instr) : List Nat :=
  match i with
  | .powerOnReset _ _ | .blockReset _ _ | .resetRelease | .romStageEnd _ _ | .memWaitExpire | .rootPartitionOpen | .unitResetDone _
  | .throttleChange _ | .powerReport _ | .testScanEntry => [pCTL]
  | .imageStart mb _ _ | .version mb _ _ | .overrideLog mb _ _ | .lastReply mb _ _ | .bcnSet mb _ _ | .partOpen mb _ _ | .partSeal mb _ _
  | .partClose mb _ _ | .layoutAssign mb _ _ | .layoutRemove mb _ _ | .ctxCreate mb _ _ | .ctxDestroy mb _ _ | .spaceGet mb _ _
  | .spacePut mb _ _ | .queueCreate mb _ _ | .queueDestroy mb _ _ | .objTableSet mb _ _ | .faultRingSet mb _ _ | .dispatchRingSet mb _ _
  | .resumeRetry mb _ _ | .resumeAbort mb _ _ | .fenceWatch mb _ _ | .fenceUnwatch mb _ _ | .chanAssign mb _ _ | .xfmLoad mb _ _
  | .redOpen mb _ _ | .redBind mb _ _ | .redUnbind mb _ _ | .redClose mb _ _ | .cwinSet mb _ _ | .tierEnrol mb _ _ | .tierUnenrol mb _ _
  | .tierPolicy mb _ _ | .attestWrite mb _ _ | .attestCapture mb _ _ | .attestPiece mb _ _ | .reserve mb _ _ | .kindleArm mb _ _
  | .kindleCancel mb _ _ | .lockstepPair mb _ _ | .lockstepUnpair mb _ _ | .fingerprint mb _ _ | .health mb _ _ => mbxKey mb
  | .cascadeLinkInit port _ _ _ _ _ | .cascadeForward port _ | .cascadePortDown port => [pCAS, port]
  | .cascadeFormed | .joinDeadline => [pCAS]
  | .stationBringupTimeout page | .memoryBistRun page | .overrideCheck page | .dpBlockFetched page | .dpCommitDone page
  | .linkInit page _ | .stationLinkUp page | .stationLinkDown page => [page]
  | .mpReadyRise port | .mpReadyFall port | .mpCreditReturn port _ _ => [pNMP0 + port]
  | .attestationReady pos _ _ => [pSEC, pos]
  | .rstCtlWrite a _ | .unitRstWrite a _ | .registerWrite a _ _ _ | .readClear a _ _ | .pgCtlWrite a _ _ | .irqRawClear a _ _
  | .irqEnWrite a _ _ | .dpAddrWrite a _ _ | .dpStartRead a _ _ | .dpStartWrite a _ _ | .dpModeReserved a _ _ | .dpAbandon a _ _
  | .dpFlush a _ _ | .dpWinRead a _ _ _ | .dpWinWrite a _ _ _ _ | .bcnCfgWrite a _ | .bcnPeriodWrite a _ | .wdGoWrite a _
  | .spaceRegisterWrite a _ _ | .s2RootWrite a _ | .dbTailWrite a _ _ | .objOpTake a _ _ | .objOpDrop a _ _ | .qCtlWrite a _ _
  | .ctxCtlWrite a _ | .objTblWrite a _ _ | .chCtlWrite a _ | .slotCtlWrite a _ | .poolRegisterWrite a _ _ | .forceUnlock a _
  | .flushH2s a _ | .flushS2h a _ | .detModeWrite a _ | .nodeIdWrite a _ | .memRangeWrite a _ _ | .quarRelease a _ | .trainEnWrite a _
  | .tcCfgWrite a _ _ _ | .cntValWrite a _ _ | .cntCfgWrite a _ _ | .cntFreeze a _ | .cntClear a _ | .fenceCellWrite a _
  | .logSelWrite a _ => hostKey a
  | .fuseProgram row bit => [pSEC, row, bit]
  | .i3cAccess _ _ _ => [pMBX, 65]
  | .beaconPulse _ _ | .beaconWord _ _ | .resyncInterrupts | .beaconCoast | .beaconDarkEntry | .beaconFreeRunTick | .resyncWindowClose => [pBCN]
  | .deadlineExpire handle => [pFNC, handle]
  | .engineRequest port _ | .streamOpen port _ _ | .streamClose port _ _ => [pENG, port]
  | .prefetchWalkStart | .walkStart => [pLAN]
  | .walkComplete slot => [pLAN, slot]
  | .faultRingRetry => [pENG]
  | .demandTimeout token => [pENG, token]
  | .burstIssue req burst => [pENG, req, burst]
  | .hostRequest st _ _ _ => [pHST0 + st]
  | .contextLoss ctx | .contextDrained ctx => [pLMP, ctx]
  | .rdShared r | .rdOwn r | .upgrade r | .rdOnce r | .wrFull r | .wrPart r | .wrStash r | .apertureRead r | .swap r _ | .cas r _
  | .fetchAdd r _ | .fetchMin r _ | .fetchMax r _ | .fetchAnd r _ | .fetchOr r _ | .fetchXor r _ | .redAdd r _ | .redMin r _
  | .redMax r _ | .redOrd r _ | .lockAcq r _ | .lockRel r _ | .fenceSig r _ | .barrierArrival r | .barrierLaneDrop r => reqKey r
  | .registrationDrop | .fenceNotification => [pFNC]
  | .barrierDeadline slot | .fenceArm slot | .fenceArmResult slot | .fencePoll slot | .fenceWaitTimeout slot => [pFNC, slot]
  | .ack agent _ _ | .snpRsp agent _ _ _ _ | .snpData agent _ _ _ _ | .snoopTimeout agent _ | .evictClean agent _ _
  | .evictDirty agent _ _ _ _ | .stashAccept agent _ | .stashDecline agent _ => agentKey agent
  | .wickHoldEnd line => [pHOM, line]
  | .memoryResponse port tag _ | .memoryReadTimeout port tag => [pNMP0 + port, tag]
  | .commandFetch => [pLMP]
  | .commandAccept q seq | .commandDispatch q seq | .commandRetire q seq | .nop q seq | .move q seq | .moveXfm q seq | .engDispatch q seq
  | .fenceSignal q seq | .fenceWait q seq | .barArrive q seq | .barDrop q seq | .stepAdvance q seq | .tierMove q seq | .mapWithdraw q seq
  | .report q seq => [pLMP, q, seq]
  | .withdrawalComplete id => [pLAN, id]
  | .objectRelease part _ | .releaseRingScan part => [pLMP, part]
  | .descriptorStart chan => [65, chan]
  | .segmentStageGrant chan desc seg | .segmentComplete chan desc seg => [pMOV, chan, desc, seg]
  | .pipeSlot pipe => [pMOV, pipe]
  | .halfPoint chan | .fullPoint chan => [pMOV, chan]
  | .reductionGraceExpire sess line win => [pHOM, sess, line, win]
  | .reductionWindowDone sess win => [pHOM, sess, win]
  | .heatUpdate | .autoMoveChoice | .tierMoveStart => [pTIR]
  | .copyPassEnd slot | .switchFinalCopy slot | .compressStep slot => [pTIR, slot]
  | .h2sPush w _ | .s2hPop w | .mbLockWrite w _ | .h2sDbWrite w _ | .s2hDbClear w _ | .s2hMaskWrite w _ => mbKey w
  | .requestTake mb | .h2sTimeout mb | .s2hTimeout mb => [pMBX, mb]
  | .replyPush mb => [65, mb]
  | .closeDrainDone part => [pSEC, part]
  | .snuffPhaseEnd | .fingerprintRecompute | .reservationWindowEnd => [pSEC]
  | .windowDrainDone w => [pSPN, w]
  | .kindleRelease | .lockstepWindowEnd _ => [pDET]
  | .lockstepRecordIngress _ | .hello _ | .cert _ | .keyx _ _ | .finish _ | .calReq _ | .calRsp _ _ | .calTimer _ | .trainingTimeout
  | .backoffExpire | .flitReceive _ _ _ | .spanAck _ | .spanNak _ | .spanCredit _ | .cricket _ _ | .cricketTimer | .cricketLoss
  | .beacon _ _ _ | .quarNotice | .spanIngressRequest _ => [pSPN]
  | .spanRouteSwitch entry => [pSPN, entry]
  | .laneLock lanes _ => [pSPN, lanes]
  | .markerReceive lane _ => [pSPN, lane]
  | .remoteResponse tracker _ _ _ _ | .remoteDeadline tracker => [pSPN, tracker]
  | .remoteSnoop node _ _ => [pSPN, node]
  | .tenantPublication => [pCNT]
  | .patrolScrub _ | .rebalanceComplete => [pRAS]
  | .flitCreditReturn page port _ => [page, port]

/-! ## The order -/

/-- A key comes before another, or is the same. -/
def keyLe : List Nat → List Nat → Bool
  | [], _ => true
  | _ :: _, [] => false
  | a :: l, b :: m => decide (a < b) || (a == b && keyLe l m)

/-- A command takes effect before another of the same tick, or in no order with it (R97, R101). -/
def eventLe (x y : Instr) : Bool := keyLe (rankOf x :: sourceKey x) (rankOf y :: sourceKey y)

/-- A command put among ordered ones: after those that come before it or are level with it. -/
def insertEvent (x : Instr) : List Instr → List Instr
  | [] => [x]
  | y :: l => if eventLe x y then x :: y :: l else y :: insertEvent x l

/-- The events of one tick in the order in which they take effect: by rank, then by source key, and where both are level in the order in
which they were sampled (R97, R101). -/
def eventOrder (l : List Instr) : List Instr := l.foldr insertEvent []

/-! ## What falls due by itself -/

/-- A command for every entry of a table that satisfies a test. -/
def dueOf {α : Type} (t : Tbl α) (f : Nat → α → Bool) (c : Nat → Instr) : List Instr := (t.filter (fun e => f e.1 e.2)).map (fun e => c e.1)

/-- An absolute count of an optional deadline is reached (R102). -/
def someDue (s : State) (d : Option Word) : Bool := d.any (fun w => btDue s w.toNat)

/-- Beacon events that come without a pulse (R92, R107, R108, R112): the block advances the count by itself when their cycle has come. -/
def beaconDue (s : State) : List Instr :=
  let b := s.bcn
  let c := s.clk.cyc
  if !live s then []
  else if b.mode != .dark && decide (darkAt s ≤ c) then [.beaconDarkEntry]
  else match b.mode, b.phaseRef with
    | .dark, _ => if b.expected + periodNom s ≤ c then [.beaconFreeRunTick] else []
    | .resync, none => if b.expected + periodNom s ≤ c then [.beaconFreeRunTick] else []
    | .resync, some _ => []
    | _, _ => if b.expected + periodNom s + bcnWin s ≤ c then [.beaconCoast] else []

/-- The release of an armed Kindle, once its cycle has come (R605). -/
def kindleDue (s : State) : List Instr :=
  if s.det.kindle == 1 && (releaseAt s).any (fun r => decide (r ≤ s.clk.cyc)) then [.kindleRelease] else []

/-- What falls due at the start of an event tick and advances the count or restarts the tick. -/
def advanceDue (s : State) : List Instr := kindleDue s ++ beaconDue s

/-- Deadlines and windows of counted time that have been reached (R102, R104, R106). -/
def countDue (s : State) : List Instr :=
  dueOf s.fnc.bars (fun _ b => b.any (fun x => someDue s x.due && x.pending != 0)) .barrierDeadline ++
  dueOf s.fnc.watches (fun _ w => w.any (fun x => someDue s x.due)) .fenceWaitTimeout ++
  dueOf s.fnc.watches (fun _ w => w.any (fun x => x.poll && btDue s x.nextPoll.toNat)) .fencePoll ++
  dueOf s.eng.tokens (fun _ k => k.st == .paused && btDue s k.due.toNat) .demandTimeout ++
  dueOf s.mbx.boxes (fun _ m => someDue s m.h2sTimer) .h2sTimeout ++
  dueOf s.mbx.boxes (fun _ m => someDue s m.s2hTimer) .s2hTimeout ++
  dueOf s.spn.remotes (fun _ x => x.any (fun r => btDue s r.due.toNat)) .remoteDeadline ++
  (s.hom.redLines.filter (fun l => !l.done && (tget s.hom.sessions l.sess).any (fun q => btDue s (l.win + q.grace)))).map
    (fun l => .reductionGraceExpire l.sess l.line l.win) ++
  (if heatDue s then [.heatUpdate] else []) ++ (if winOver s then [.reservationWindowEnd] else []) ++
  (if pubDue s then [.tenantPublication] else []) ++
  (if (!s.eng.hold.isEmpty || relHeld s != 0) && btDue s s.eng.holdNext.toNat then [.faultRingRetry] else []) ++
  dueOf s.parts (fun _ q => s.boot.running && !q.goneLate.isEmpty && btDue s q.scanAt.toNat) .releaseRingScan ++
  (if s.cas.st < 2 && btDue s 50000 then [.joinDeadline] else []) ++
  (if s.boot.running && s.boot.memWait != 0 && decide (5 ≤ s.boot.stage) && decide (s.boot.stage ≤ 8) &&
      btDue s (s.boot.step6Count + w64 s.boot.memWait).toNat then [.memWaitExpire] else []) ++
  (if s.spn.st == .active && btDue s s.spn.cricketNext.toNat then [.cricketTimer] else []) ++
  (if s.spn.st == .active && decide (cricketMax s ≤ s.spn.cricketMiss) then [.cricketLoss] else []) ++
  (if s.spn.st == .backoff && btDue s s.spn.stateEnd.toNat then [.backoffExpire] else []) ++
  (if (s.spn.st == .lock || s.spn.st == .hello || s.spn.st == .auth || s.spn.st == .cal) && btDue s s.spn.stateEnd.toNat then [.trainingTimeout] else [])

/-- Deadlines in fabric cycles that the event tick begins at or after (R103). -/
def cycleDue (s : State) : List Instr :=
  let c := s.clk.cyc
  (s.hom.txns.flatMap (fun e => match e.2 with
    | some t => (t.await.filter (fun x => decide (x.2.2 ≤ c))).map (fun x => .snoopTimeout x.1 e.1)
    | none => [])) ++
  dueOf s.hom.wick (fun _ w => w.1 != 0 && decide (w.2 ≤ c)) .wickHoldEnd ++
  (s.mps.flatMap (fun e => (e.2.reads.filter (fun d => decide (d.cyc + mpTimeout s e.1 ≤ c) && !e.2.queue.contains (false, d.tag))).map
    (fun d => .memoryReadTimeout e.1 d.tag))) ++
  (if s.sec.snuffPhase != 0 && decide (s.sec.snuffEnd ≤ c) then [.snuffPhaseEnd] else []) ++
  (if s.boot.running && decide (5 ≤ s.boot.stage) && decide (s.boot.stage ≤ 8) && decide (s.boot.step6Cyc + 40000000 ≤ c) then
    (stationPages.filter (fun p => !linkUp s p && !s.boot.ungated.contains p)).map .stationBringupTimeout else []) ++
  (match s.bcn.mode, s.bcn.phaseRef with
    | .resync, some r => if r + periodNom s + bcnWin s ≤ c then [.resyncWindowClose] else []
    | _, _ => [])

/-- Events that the resolution of an earlier tick caused and that take effect in this one (R117, R380, R413, R441, R474, R540, R717), and the opening
of partition 0 once every condition holds (R680). -/
def causedDue (s : State) : List Instr :=
  dueOf s.lmp.ctxs (fun _ c => c.doomed.isSome) .contextLoss ++
  s.parts.flatMap (fun e => (e.2.goneTodo.filter (fun i => !objMoving s e.1 i)).map (.objectRelease e.1)) ++
  dueOf s.spn.routesNew (fun e v => v.isSome && !routeBusy s e) .spanRouteSwitch ++
  (if s.fnc.drops.isEmpty then [] else [.registrationDrop]) ++
  (if s.bcn.irqStep != 0 && decide (s.bcn.irqAt < etNow s) then [.resyncInterrupts] else []) ++
  (if s.tir.autoDue then [.autoMoveChoice] else []) ++ (if s.cas.master && mayOpen s then [.rootPartitionOpen] else [])

/-- Every event that falls due by itself in the event tick. -/
def dueEvents (s : State) : List Instr := countDue s ++ cycleDue s ++ causedDue s

/-! ## An empty queue -/

/-- The block's own requests that waited for the tick are placed, the events whose records they wrote are announced, and the object
operations and the span's writes that waited are tried again, and so are withdrawals that wait for a drain and requests that a slice has
not admitted (R194, R268, R273, R438, R584). -/
def placeOwn (s : State) : State :=
  let t := s.lan.wdWait.foldl (fun u _ => wdNextAsk u) s
  let t := ingressDrain (objTries (announceAll t.hom.notices.length (t.hom.relayQ.foldl place { t with hom := { t.hom with relayQ := [] } })))
  if t.hom.setWait.isEmpty then t else retry t

/-- The advance of the count in an event tick, of what is sampled and of what falls due (R98): a pulse that was sampled takes the place of
an advance without one. -/
def advanceEvents (s : State) : List Instr :=
  let l := s.sampled.filter (fun i => rankOf i == 0)
  if l.isEmpty then advanceDue s else kindleDue s ++ l

/-- The tick's other events: what was sampled, and what falls due under the count that the tick has reached, in the order of R97. -/
def classEvents (s : State) : State :=
  { s with pending := eventOrder (s.sampled ++ dueEvents s), sampled := [], clk := { s.clk with advancing := false } }

/-- The queue is empty: a new event tick begins. When the count advances in it, the advance is put in the queue and the tick's classes
follow it (R98); else they are put in the queue at once. -/
def nextTick (s : State) : State :=
  if s.clk.stopped then s
  else if s.clk.advancing then classEvents s
  else
    let t := placeOwn (tickPass s)
    let l := advanceEvents t
    if l.isEmpty then classEvents t
    else { t with pending := eventOrder l, sampled := t.sampled.filter (fun i => rankOf i != 0), clk := { t.clk with advancing := true } }

end Sys2Proof.Machine
end

