-- ==== Sys2Proof/Safety.lean ====
section
/-!
DEFINITION. What a safe run of the block is, and the terms in which claims are stated: a command that completes with a property
of the next state, the components of a state and what a command may change of them, and the last answer of a register access.
-/
namespace Sys2Proof
open Sys2Proof.Machine

/-- The memory of a state is in canonical form (R118). -/
def MemOk (s : State) : Prop := memWf s.mem = true

/-- A step answers a next state. -/
def StepsOn (s : State) : Prop := ∃ t, step s = .next t

/-- A run of n steps that never stops. -/
def SafeRun (n : Nat) (s : State) : Prop := ∃ t, core.run n s = .next t

/-- The command completes: it answers a next state, and that state has the property. -/
def Ends (c : Instr) (s : State) (P : State → Prop) : Prop := ∃ t, exec c s = .next t ∧ P t

/-- The components of a state, one for each of its top fields. -/
inductive Comp where
  | build | clk | free | pages | boot | fuses | bcn | sec | mbx | cnt
  | parts | ras | cas | det | lan | eng | hst | hom | mov | xfm
  | tir | lmp | fnc | spn | mps | mem | memPois | memKey | memScrub | out
  | inUse | sampled | pending
deriving DecidableEq, Repr

/-- A component is the same in two states. -/
def Comp.same (s t : State) : Comp → Prop
  | .build => t.build = s.build
  | .clk => t.clk = s.clk
  | .free => t.free = s.free
  | .pages => t.pages = s.pages
  | .boot => t.boot = s.boot
  | .fuses => t.fuses = s.fuses
  | .bcn => t.bcn = s.bcn
  | .sec => t.sec = s.sec
  | .mbx => t.mbx = s.mbx
  | .cnt => t.cnt = s.cnt
  | .parts => t.parts = s.parts
  | .ras => t.ras = s.ras
  | .cas => t.cas = s.cas
  | .det => t.det = s.det
  | .lan => t.lan = s.lan
  | .eng => t.eng = s.eng
  | .hst => t.hst = s.hst
  | .hom => t.hom = s.hom
  | .mov => t.mov = s.mov
  | .xfm => t.xfm = s.xfm
  | .tir => t.tir = s.tir
  | .lmp => t.lmp = s.lmp
  | .fnc => t.fnc = s.fnc
  | .spn => t.spn = s.spn
  | .mps => t.mps = s.mps
  | .mem => t.mem = s.mem
  | .memPois => t.memPois = s.memPois
  | .memKey => t.memKey = s.memKey
  | .memScrub => t.memScrub = s.memScrub
  | .out => t.out = s.out
  | .inUse => t.inUse = s.inUse
  | .sampled => t.sampled = s.sampled
  | .pending => t.pending = s.pending

/-- Nothing but the listed components differs. -/
def Frame (l : List Comp) (s t : State) : Prop := ∀ c, c ∉ l → c.same s t

/-- The last message that a host station took or holds back is a REG_RSP with this status and these words. -/
def Answered (t : State) (st : Nat) (status : Status) (data : List Word) : Prop :=
  t.out.getLast? = some (.reg st status data) ∨ (hst t st).waiting.getLast? = some (.reg st status data)

/-- The last message that left the block, or that a link holds back. -/
def Sent (t : State) (m : OutMsg) : Prop :=
  t.out.getLast? = some m ∨ t.eng.link.waiting.getLast? = some m ∨ ∃ h, (hst t h).waiting.getLast? = some m

/-- A write of a unit register is admitted: a host station of this block serves it, the partition reaches the page, the unit is built, and its
registers are under expert control or open to the root partition (R48, R57, R75, R76). -/
def UnitAdmits (s : State) (a : Acc) (p off : Nat) : Prop :=
  a.st < 2 ∧ accUp s a.st = true ∧ mayReach s a.part (.page p off) = true ∧ present s p = true ∧
  ((page s p).expert = true ∨ openReg p off = true)

/-- A write of a header register is admitted (R48, R76). -/
def HeadAdmits (s : State) (a : Acc) (p : Nat) : Prop :=
  a.st < 2 ∧ accUp s a.st = true ∧ mayReach s a.part (.page p 0) = true ∧ isPage p = true ∧ present s p = true

end Sys2Proof
end

