-- ==== Sys2Proof/Certificates/Slice0/Obligations.lean ====
section
/-!
DEFINITION. The statements for the provers, family by family. A statement over several commands is the conjunction of the parts that
precede it under Claim.
-/
open Sys2Proof Sys2Proof.Machine

/-! ## The whole machine -/

/-- A step runs the command at the front of the queue on the state with the queue's rest. -/
def Obligations.StepRunsFront : Prop :=
  ∀ (c : Instr) (rest : List Instr) (s : State), step { s with pending := c :: rest } = exec c { s with pending := rest }

/-- Nothing that an earlier tick left waits for the next one: no request of the block, no notice, no withdrawal, no write of the span and
no object operation. -/
def NothingWaits (s : State) : Prop :=
  s.hom.relayQ = [] ∧ s.hom.notices = [] ∧ s.hom.setWait = [] ∧ s.lan.wdWait = [] ∧ s.spn.ingWait = [] ∧ ∀ e, e ∈ s.lmp.queues → e.2.objPend = none

/-- On an empty queue an event tick passes, or as many as the commands before moved the clock over (the model's choice, log entry 2), here
with nothing that an earlier tick left to be placed:
the clock moves on to the next tick and the counts of the tick are taken. What was sampled for the tick, with what falls due in it, is put
in the queue in the order of the classes; an advance of the count is put there first, and the classes follow it when the queue is empty
again. The release of an armed Kindle ends the tick in progress in its cycle and is one of the events that follow. A block that runs no
function stays as it is. -/
def Claim.EmptyQueueTick : Prop :=
  ∀ s : State, s.pending = [] →
    (s.clk.stopped = true → step s = .next s) ∧
    (s.clk.stopped = false → s.clk.advancing = true → ∃ t, step s = .next t ∧
      t.pending = eventOrder (s.sampled ++ dueEvents s) ∧ t.sampled = [] ∧ t.clk = { s.clk with advancing := false } ∧
      Frame [.clk, .sampled, .pending] s t) ∧
    (s.clk.stopped = false → s.clk.advancing = false → NothingWaits s → s.det.kindle ≠ 1 → ∃ t, step s = .next t ∧
      t.clk.cyc = max s.clk.cyc (s.clk.tickStart + 8) ∧ t.clk.et = s.clk.et + (t.clk.cyc - s.clk.tickStart) / 8 ∧
      t.clk.tickStart = s.clk.tickStart + (t.clk.cyc - s.clk.tickStart) / 8 * 8 ∧
      t.cnt.freezeNow = s.cnt.freeze ∧ t.cnt.cfgsNow = s.cnt.cfgs ∧ t.bcn = s.bcn ∧ t.lmp = { s.lmp with slotsUsed := [] } ∧
      (advanceEvents (tickPass s) = [] → t.pending = eventOrder (s.sampled ++ dueEvents (tickPass s)) ∧ t.sampled = []) ∧
      (advanceEvents (tickPass s) ≠ [] → t.pending = eventOrder (advanceEvents (tickPass s)) ∧ t.clk.advancing = true ∧
        t.sampled = s.sampled.filter (fun i => rankOf i != 0)) ∧
      Frame [.clk, .pages, .cnt, .parts, .eng, .hst, .lmp, .out, .inUse, .sampled, .pending] s t) ∧
    (∀ r, s.clk.stopped = false → s.clk.advancing = false → NothingWaits s → s.det.kindle = 1 → releaseAt s = some r →
      s.clk.tickStart < r → s.clk.cyc ≤ r → r < s.clk.tickStart + 8 → ∃ t, step s = .next t ∧
        t.clk.cyc = r ∧ t.clk.tickStart = r ∧ t.clk.et = s.clk.et + 1 ∧ .kindleRelease ∈ advanceEvents (tickPass s))

/-- The order of one event tick: nothing sampled is lost or made up, a lower rank comes before a higher one and within a rank a smaller
source key before a greater one, and what is level in both keeps the order in which it was sampled. -/
def Claim.EventOrdering : Prop :=
  ∀ l : List Instr, (eventOrder l).Perm l ∧ (eventOrder l).Pairwise (fun x y => eventLe x y = true) ∧
    ∀ (n : Nat) (k : List Nat), (eventOrder l).filter (fun i => rankOf i == n && sourceKey i == k) = l.filter (fun i => rankOf i == n && sourceKey i == k)

/-- The lines of the node physical address space: 46 bits of address, 128 bytes a line. -/
def npaLines : Nat := 2 ^ 39

/-- The request that a command brings to a home, if it is one. -/
def homeReqOf : Instr → Option HomeReq
  | .rdShared r => some r | .rdOwn r => some r | .upgrade r => some r | .rdOnce r => some r
  | .wrFull r => some r | .wrPart r => some r | .wrStash r => some r | .apertureRead r => some r
  | .swap r _ => some r | .cas r _ => some r | .fetchAdd r _ => some r | .fetchMin r _ => some r
  | .fetchMax r _ => some r | .fetchAnd r _ => some r | .fetchOr r _ => some r | .fetchXor r _ => some r
  | .redAdd r _ => some r | .redMin r _ => some r | .redMax r _ => some r | .redOrd r _ => some r
  | .lockAcq r _ => some r | .lockRel r _ => some r | .fenceSig r _ => some r
  | .barrierArrival r => some r | .barrierLaneDrop r => some r
  | _ => none

/-- No command is refused, and a command stops in a fault exactly when it brings a line outside the node physical address space to
a home. -/
def Obligations.OnlyFault : Prop :=
  ∀ (c : Instr) (s : State),
    (∀ r, homeReqOf c = some r → npaLines ≤ r.line → exec c s = .fault .noSuchAddress) ∧
    ((∀ r, homeReqOf c = some r → r.line < npaLines) → ∃ t, exec c s = .next t)

/-- Memory keeps its canonical form in every step. -/
def Obligations.MemoryCanonical : Prop :=
  ∀ s t : State, MemOk s → step s = .next t → MemOk t

/-- The memory after reset is in canonical form, and every byte of it reads as nothing written. -/
def Obligations.ResetMemory : Prop := MemOk State.reset ∧ ∀ a, memByte State.reset a = 0

/-- A command changes nothing of the queue that waits behind it. -/
def Obligations.QueueUntouched : Prop :=
  ∀ (c : Instr) (s t : State), exec c s = .next t → t.pending = s.pending

/-! ## Registers -/

/-- Registers that a REGISTER_WRITE sets without an action of their own, and the bits they keep: page, offset, mask. -/
def rwRegs : List (Nat × Nat × Word) :=
  [(0x02, 0x248, mask 15 0), (0x03, 0x200, mask 47 0), (0x05, 0x200, mask 0 0 ||| mask 63 8), (0x09, 0x200, mask 1 0),
   (0x09, 0x208, mask 12 0), (0x09, 0x210, mask 19 0), (0x08, 0x200, mask 0 0 ||| mask 14 8), (0x08, 0x250, mask 56 22),
   (0x08, 0x258, mask 34 0), (0x0C, 0x208, mask 31 0), (0x0D, 0x200, mask 6 0), (0x0E, 0x200, mask 7 0 ||| mask 29 16),
   (0x10, 0x208, mask 31 0), (0x18, 0x230, mask 31 0), (0x18, 0x268, mask 9 0)]

/-- An admitted write of such a register leaves what was written in it, without its reserved bits, and is answered OK. -/
def Obligations.RegisterWriteHolds : Prop :=
  ∀ (s : State) (a : Acc) (p off : Nat) (m v : Word),
    (p, off, m) ∈ rwRegs → UnitAdmits s a p off →
    Ends (.registerWrite a (s.cas.pos * 2 ^ 24 + p * 65536 + off) 8 [v]) s (fun t =>
      regGet t p off = v &&& m ∧ (page t p).last = .ok ∧ Answered t a.st .ok [] ∧
      Frame [.pages, .sec, .mbx, .cnt, .ras, .lan, .eng, .hst, .hom, .tir, .lmp, .fnc, .spn, .out] s t)

/-- A register access that its partition may not make changes no register of a unit, is answered PERMISSION, and leaves a PROTOCOL
record of the station in the error log. -/
def Claim.RefusedAccess : Prop :=
  ∀ (s : State) (a : Acc) (off : Nat) (v : Word),
    a.st < 2 → accUp s a.st = true → off < 2 ^ 24 → mayReach s a.part (regPlace off) = false →
    Ends (.registerWrite a (s.cas.pos * 2 ^ 24 + off) 8 [v]) s (fun t =>
      Answered t a.st .permission [] ∧
      (∃ r, t.ras.log.head? = some r ∧ r.status = Status.permission.code ∧ r.cls = .protocol ∧ r.page = pHST0 + a.st ∧ r.part = a.part) ∧
      Frame [.pages, .cnt, .ras, .hst, .out] s t) ∧
    Ends (.readClear a (s.cas.pos * 2 ^ 24 + off) 8) s (fun t =>
      Answered t a.st .permission [0] ∧ Frame [.pages, .cnt, .ras, .hst, .out] s t)

/-- A register of a unit is written while EXPERT is 0: nothing changes but LAST, which reads PERMISSION; a write of a reserved offset is
ignored; a read returns the register as it stands (a pop of a mailbox is a command of its own). -/
def Obligations.ExpertGate : Prop :=
  ∀ (s : State) (a : Acc) (p off : Nat) (v : Word),
    a.st < 2 → accUp s a.st = true → a.part = 0 → rootOpen s = true → p < 64 → isPage p = true → present s p = true → 0x200 ≤ off → off < 65536 →
    off % 8 = 0 → ownRow p off = false → (page s p).expert = false → openReg p off = false →
    (regDefined p off = true → Ends (.registerWrite a (s.cas.pos * 2 ^ 24 + p * 65536 + off) 8 [v]) s (fun t =>
      page t p = { page s p with last := .permission } ∧ (∀ q, q ≠ p → page t q = page s q) ∧ Answered t a.st .ok [] ∧
      Frame [.pages, .hst, .out] s t)) ∧
    (regDefined p off = false → Ends (.registerWrite a (s.cas.pos * 2 ^ 24 + p * 65536 + off) 8 [v]) s (fun t =>
      Answered t a.st .ok [] ∧ Frame [.hst, .out] s t)) ∧
    (¬ (p = pMBX ∧ (mbPlace off).any (fun x => x.2 == 0x018) = true) → Ends (.readClear a (s.cas.pos * 2 ^ 24 + p * 65536 + off) 8) s (fun t =>
      Answered t a.st .ok [regGet s p off]))

/-- A read returns the register as it stands and clears it in the same access where it is RC: here the counts of the beacon, of
RAS, of the homes and of the movers, and the access error of a page. -/
def Claim.ReadClears : Prop :=
  ∀ (s : State) (a : Acc) (p off : Nat),
    (p, off) ∈ [(0x01, 0x228), (0x01, 0x230), (0x01, 0x238), (0x05, 0x250), (0x05, 0x258), (0x05, 0x260), (0x05, 0x268), (0x05, 0x270),
                (0x09, 0x238), (0x09, 0x240), (0x09, 0x248), (0x09, 0x250), (0x0A, 0x250), (0x0A, 0x258), (0x0A, 0x260)] →
    a.st < 2 → accUp s a.st = true → mayReach s a.part (.page p off) = true →
    Ends (.readClear a (s.cas.pos * 2 ^ 24 + p * 65536 + off) 8) s (fun t =>
      Answered t a.st .ok [regGet s p off] ∧ regGet t p off = 0 ∧ Frame [.bcn, .ras, .hom, .mov, .hst, .out] s t)

/-- The interrupt block: a W1C write of IRQ_RAW clears the bits written 1, and a write of IRQ_EN sets the bits that the page
defines. Of the page only these and the messages held back change, and no other page does. -/
def Claim.InterruptBlock : Prop :=
  ∀ (s : State) (a : Acc) (p : Nat) (v : Word), HeadAdmits s a p →
    Ends (.irqRawClear a p v) s (fun t =>
      page t p = { page s p with irqRaw := (page s p).irqRaw &&& ~~~ v, irqHeld := (page t p).irqHeld } ∧
      (∀ q, q ≠ p → page t q = page s q) ∧ Answered t a.st .ok [] ∧ Frame [.pages, .hst, .out] s t) ∧
    Ends (.irqEnWrite a p v) s (fun t =>
      page t p = { page s p with irqEn := v &&& irqMask p, irqHeld := (page t p).irqHeld } ∧
      (∀ q, q ≠ p → page t q = page s q) ∧ Answered t a.st .ok [] ∧ Frame [.pages, .hst, .out] s t)

/-- A write of PG_CTL: without FENCE it sets ENABLE where that is RW and EXPERT, and LAST reads OK; FENCE on a unit that cannot be
fenced is refused with PERMISSION in LAST. -/
def Claim.PageControl : Prop :=
  ∀ (s : State) (a : Acc) (p : Nat) (v : Word), HeadAdmits s a p →
    (bitOf v 2 = false → Ends (.pgCtlWrite a p v) s (fun t =>
      page t p = { page s p with enable := if enableRw p then bitOf v 0 else (page s p).enable, expert := bitOf v 1, last := .ok,
                                 checking := !bitOf v 1 && ((page s p).checking || (page s p).expert) } ∧
      (∀ q, q ≠ p → page t q = page s q) ∧ Answered t a.st .ok [] ∧ Frame [.pages, .hst, .out] s t)) ∧
    (bitOf v 2 = true → unfenceable p = true → Ends (.pgCtlWrite a p v) s (fun t =>
      (page t p).last = .permission ∧ (page t p).fence = (page s p).fence ∧ Answered t a.st .ok [] ∧ Frame [.pages, .hst, .out] s t))

/-- A write of PG_CTL with FENCE fences a unit that can be fenced. -/
def Claim.FenceByRegister : Prop :=
  ∀ (s : State) (a : Acc) (p : Nat) (v : Word), HeadAdmits s a p → bitOf v 2 = true → unfenceable p = false →
    Ends (.pgCtlWrite a p v) s (fun t => fenced t p = true)

/-- The check that Sudric runs after EXPERT fell: the page is checked no longer and no field counts as overridden. -/
def Claim.OverrideChecked : Prop :=
  ∀ (s : State) (p : Nat), (page s p).checking = true →
    Ends (.overrideCheck p) s (fun t => (page t p).checking = false ∧ (page t p).override = false ∧ (page t p).last = (page s p).last)

/-- Accesses over I3C: a word pushed toward Sudric by the board management controller stands last in the FIFO of mailbox 64, and a
read of the FIFO's state is sent back without an answer of a host station. -/
def Claim.I3cAccess : Prop :=
  ∀ (s : State) (v : Word), 2 ≤ s.boot.stage →
    ((mbox s 64).h2s.length < 16 → Ends (.i3cAccess true 0x010 v) s (fun t =>
      (mbox t 64).h2s = (mbox s 64).h2s ++ [v] ∧ (∀ m, m ≠ 64 → mbox t m = mbox s m) ∧ t.out = s.out ∧ Frame [.mbx] s t)) ∧
    (s.clk.stopped = false → Ends (.i3cAccess false 0x008 v) s (fun t =>
      t.out = s.out ++ [.i3c (mbGet s 64 0x008)] ∧ Frame [.out] s t))

/-! ## The data port -/

/-- DP_ADDR and the conditions of DP_CTL: an idle port takes an address, a transfer ignores it with PERMISSION, and the access of a
station that has not claimed the port is dropped and recorded. -/
def Claim.DataPortAddress : Prop :=
  ∀ (s : State) (a : Acc) (p : Nat) (v : Word), HeadAdmits s a p → (page s p).dpWait = [] →
    ((page s p).dpMode = 0 → dpForeign s a p = false → Ends (.dpAddrWrite a p v) s (fun t =>
      page t p = { page s p with dpAddr := v } ∧ (∀ q, q ≠ p → page t q = page s q) ∧ Answered t a.st .ok [] ∧ Frame [.pages, .hst, .out] s t)) ∧
    ((page s p).dpMode ≠ 0 → dpForeign s a p = false → Ends (.dpAddrWrite a p v) s (fun t =>
      page t p = { page s p with dpStatus := .permission } ∧ Frame [.pages, .hst, .out] s t)) ∧
    (dpForeign s a p = true → Ends (.dpAddrWrite a p v) s (fun t =>
      page t p = { page s p with dpConflict := true } ∧ Frame [.pages, .hst, .out] s t))

/-- The array that DP_ADDR selects may be moved by a transfer of this mode (R63, R64, R71). -/
def dpStartOk (s : State) (p mode : Nat) : Prop :=
  ∃ r, dpArray s p (dpSel (page s p)) = some r ∧ (r.inside = true → fenced s p = false) ∧
    (if mode = 1 then r.read = true else r.write = true ∧ (r.expert = true → (page s p).expert = true)) ∧
    fld (page s p).dpAddr 55 8 * 256 < r.size

/-- Starting a transfer: MODE, the claim of the station and BURST are taken, the offset is that of DP_ADDR, and the port's status is
clear; a reserved MODE starts nothing and reads PERMISSION. -/
def Claim.DataPortStart : Prop :=
  ∀ (s : State) (a : Acc) (p : Nat) (v : Word), HeadAdmits s a p → (page s p).dpWait = [] → (page s p).dpMode = 0 →
    dpForeign s a p = false →
    (fld v 1 0 = 1 → dpStartOk s p 1 → Ends (.dpStartRead a p v) s (fun t =>
      (page t p).dpMode = 1 ∧ (page t p).dpClaim = some a.st ∧ (page t p).dpOff = fld (page s p).dpAddr 55 8 * 256 ∧
      (page t p).dpRemain = fld v 47 32 ∧ (page t p).dpStatus = .ok ∧ (page t p).dpReady = false ∧ (page t p).dpErr = false ∧
      (page t p).dpDone = false ∧ (page t p).dpCtl = dpCtlKeep v ∧ (∀ q, q ≠ p → page t q = page s q) ∧ Answered t a.st .ok [] ∧
      Frame [.pages, .hst, .hom, .out] s t)) ∧
    (fld v 1 0 = 2 → dpStartOk s p 2 → Ends (.dpStartWrite a p v) s (fun t =>
      (page t p).dpMode = 2 ∧ (page t p).dpClaim = some a.st ∧ (page t p).dpOff = fld (page s p).dpAddr 55 8 * 256 ∧
      (page t p).dpRemain = fld v 47 32 ∧ (page t p).dpStatus = .ok ∧ (page t p).dpValid = [] ∧ (page t p).dpCtl = dpCtlKeep v ∧
      (∀ q, q ≠ p → page t q = page s q) ∧ Answered t a.st .ok [] ∧ Frame [.pages, .hst, .hom, .out] s t)) ∧
    (fld v 1 0 = 3 → Ends (.dpModeReserved a p v) s (fun t =>
      (page t p).dpMode = 0 ∧ (page t p).dpStatus = .permission ∧ (page t p).dpErr = true ∧ (page t p).dpClaim = (page s p).dpClaim ∧
      Frame [.pages, .cnt, .hst, .out] s t))

/-- Ending a transfer: MODE 0 abandons it and the port is idle and unclaimed; FLUSH of a write sends the valid words of the block on
their way without moving the offset. -/
def Claim.DataPortEnd : Prop :=
  ∀ (s : State) (a : Acc) (p : Nat) (v : Word), HeadAdmits s a p → (page s p).dpWait = [] → dpForeign s a p = false →
    ((page s p).dpMode ≠ 0 → fld v 1 0 = 0 → bitOf v 3 = false → Ends (.dpAbandon a p v) s (fun t =>
      (page t p).dpMode = 0 ∧ (page t p).dpClaim = none ∧ (page t p).dpStatus = .ok ∧ (page t p).dpReady = false ∧
      (page t p).dpOff = (page s p).dpOff ∧ (∀ q, q ≠ p → page t q = page s q) ∧ Answered t a.st .ok [] ∧ Frame [.pages, .hst, .out] s t)) ∧
    ((page s p).dpMode = 2 → (page s p).dpCommitting = false → bitOf v 3 = true →
      (∃ r, dpNow s p = some r ∧ (r.expert = true → (page s p).expert = true)) → Ends (.dpFlush a p v) s (fun t =>
      page t p = { page s p with dpCommit := (page s p).dpValid.map (fun i => ((page s p).dpOff + 8 * i, tget (page s p).dpWin i)),
                                 dpCommitArr := dpSel (page s p), dpCommitting := true, dpValid := [], dpOld := false, dpLeft := 0,
                                 dpSent := false } ∧
      (∀ q, q ≠ p → page t q = page s q) ∧ Answered t a.st .ok [] ∧ Frame [.pages, .hst, .out] s t))

/-- Blocks through the window: the next block of a read enters it, a read of it returns its words or, before READY, zeros with
UNDERRUN, and a write of it places its words and marks them valid. A read of the last word of a block moves on by STRIDE, and a write of
it sends the valid words of the block on their way. -/
def Claim.DataPortWindow : Prop :=
  (∀ (s : State) (p : Nat) (r : DpArray), (page s p).dpMode = 1 → (page s p).dpReady = false → dpNow s p = some r →
    (page s p).dpOff < r.size → (r.mem = true → dpRefused s (page s p).dpOff = none ∧
      lineCurrent s (kArray p) ((page s p).dpOff / 128) = true ∧ lineCurrent s (kArray p) ((page s p).dpOff / 128 + 1) = true) →
    Ends (.dpBlockFetched p) s (fun t =>
      (page t p).dpReady = true ∧ (page t p).dpOff = (page s p).dpOff ∧
      (∀ i, i < (dpBlock s p (page s p).dpOff).1.length → tget (page t p).dpWin i = (dpBlock s p (page s p).dpOff).1.getD i 0) ∧
      (∀ q, q ≠ p → page t q = page s q) ∧ Frame [.pages, .hom] s t)) ∧
  (∀ (s : State) (a : Acc) (p off size : Nat), HeadAdmits s a p → 0x100 ≤ off → off + size < 0x200 →
    sizeOk (.page p off) off size = true → (page s p).dpWait = [] → dpForeign s a p = false →
    ((page s p).dpReady = true → Ends (.dpWinRead a p off size) s (fun t =>
      Answered t a.st .ok (dpWords (page s p) off size) ∧ Frame [.hst, .out] s t)) ∧
    ((page s p).dpReady = false → Ends (.dpWinRead a p off size) s (fun t =>
      Answered t a.st .ok (zeroWords size) ∧ page t p = { page s p with dpUnderrun := true } ∧ Frame [.pages, .hst, .out] s t))) ∧
  (∀ (s : State) (a : Acc) (p : Nat), HeadAdmits s a p → (page s p).dpWait = [] → dpForeign s a p = false → (page s p).dpReady = true →
    (page s p).dpPois = false → bitOf (page s p).dpCtl 2 = true → fld (page s p).dpCtl 47 32 = 0 →
    Ends (.dpWinRead a p 0x1F8 8) s (fun t =>
      Answered t a.st .ok [tget (page s p).dpWin 31] ∧ (page t p).dpReady = false ∧ (page t p).dpMode = (page s p).dpMode ∧
      (page t p).dpOff = ((page s p).dpOff + (if fld (page s p).dpCtl 31 16 = 0 then 256 else fld (page s p).dpCtl 31 16 * 256)) % 2 ^ 56 ∧
      (∀ q, q ≠ p → page t q = page s q) ∧ Frame [.pages, .hst, .out] s t)) ∧
  (∀ (s : State) (a : Acc) (p : Nat) (w : Word), HeadAdmits s a p → (page s p).dpWait = [] → dpForeign s a p = false →
    (page s p).dpMode = 2 → (page s p).dpCommitting = false → (page s p).dpValid = [] →
    (∃ r, dpNow s p = some r ∧ (r.expert = true → (page s p).expert = true)) →
    Ends (.dpWinWrite a p 0x1F8 8 [w]) s (fun t =>
      (page t p).dpCommitting = true ∧ (page t p).dpCommit = [((page s p).dpOff + 248, w)] ∧ (page t p).dpCommitArr = dpSel (page s p) ∧
      (page t p).dpValid = [] ∧ Answered t a.st .ok [] ∧ (∀ q, q ≠ p → page t q = page s q) ∧ Frame [.pages, .hst, .out] s t)) ∧
  (∀ (s : State) (a : Acc) (p off : Nat) (w : Word), HeadAdmits s a p → 0x100 ≤ off → off + 8 < 0x200 → off % 8 = 0 →
    (page s p).dpWait = [] → dpForeign s a p = false → (page s p).dpMode = 2 →
    Ends (.dpWinWrite a p off 8 [w]) s (fun t =>
      tget (page t p).dpWin ((off - 0x100) / 8) = w ∧ (off - 0x100) / 8 ∈ (page t p).dpValid ∧ Answered t a.st .ok [] ∧
      (∀ q, q ≠ p → page t q = page s q) ∧ Frame [.pages, .hst, .out] s t))

/-- A commit reaches its array: a word committed to the program store stands in it and the fingerprints are stale, and a word
committed to the staging array stands there byte by byte. -/
def Claim.DataPortCommit : Prop :=
  ∀ (s : State) (k : Nat) (w : Word),
    ((page s pXFM).dpWait = [] → (page s pXFM).dpCommitting = true → (page s pXFM).dpCommitArr = 1 → (page s pXFM).dpCommit = [(8 * k, w)] →
      Ends (.dpCommitDone pXFM) s (fun t =>
        tget t.xfm.store k = w ∧ (∀ j, j ≠ k → tget t.xfm.store j = tget s.xfm.store j) ∧ t.det.fpStale = true ∧
        (page t pXFM).dpCommitting = false ∧ Frame [.pages, .cnt, .hst, .xfm, .det, .out] s t)) ∧
    ((page s pCTL).dpWait = [] → (page s pCTL).dpCommitting = true → (page s pCTL).dpCommitArr = 1 → (page s pCTL).dpCommit = [(8 * k, w)] →
      Ends (.dpCommitDone pCTL) s (fun t =>
        (∀ i, i < 8 → tget t.boot.staging (8 * k + i) = (wordBytes w).getD i 0) ∧ (page t pCTL).dpCommitting = false ∧
        Frame [.pages, .cnt, .hst, .boot, .out] s t))

/-! ## Interrupt messages -/

/-- One more interrupt message of a page went to every host station that its vector names, or waits for a station that is down. -/
def IrqSent (s t : State) (p : Nat) : Prop :=
  ∀ h, h ∈ vecStations (page s p).irqVec →
    (hostUp s h = true →
      t.out.count (.intr h (page s p).irqVec p) + (hst t h).waiting.count (.intr h (page s p).irqVec p) =
        s.out.count (.intr h (page s p).irqVec p) + (hst s h).waiting.count (.intr h (page s p).irqVec p) + 1) ∧
    (hostUp s h = false → h ∈ (page t p).irqHeld)

/-- An interrupt message leaves when IRQ_PEND of a page changes from zero to non-zero, and one more after every write of IRQ_RAW or
IRQ_EN that leaves it non-zero. -/
def Obligations.InterruptMessages : Prop :=
  (∀ (s : State) (p b : Nat), irqPend (page s p) = 0 → irqPend (page (raise s p b) p) ≠ 0 → IrqSent s (raise s p b) p) ∧
  (∀ (s : State) (a : Acc) (p : Nat) (v : Word), HeadAdmits s a p →
    ((page s p).irqRaw &&& ~~~ v &&& (page s p).irqEn ≠ 0 → Ends (.irqRawClear a p v) s (fun t => IrqSent s t p)) ∧
    ((page s p).irqRaw &&& (v &&& irqMask p) ≠ 0 → Ends (.irqEnWrite a p v) s (fun t => IrqSent s t p)))

/-! ## The beacon -/

/-- A pulse of the source in force, while the block is locked or coasts: inside the window it advances the count by one and the
block is locked, and the word that announced it is used up; outside it is a stray pulse, and only that is counted. A word that announced
another count is counted, and the third one in a row loses the lock. -/
def Claim.BeaconPulseLocked : Prop :=
  ∀ (s : State) (c : Nat), live s = true → fromSpan s = false → s.bcn.mode = .locked ∨ s.bcn.mode = .coast → s.clk.cyc ≤ c →
    (missBy c (s.bcn.expected + periodNom s) ≤ bcnWin s → s.bcn.cfgNext = none →
      (∀ w, s.bcn.word = some w → w.next = s.bcn.count + 1) →
      Ends (.beaconPulse false c) s (fun t =>
        t.bcn.count = s.bcn.count + 1 ∧ t.bcn.mode = .locked ∧ t.bcn.coasted = false ∧ t.bcn.expected = c ∧ t.bcn.lastPulse = c ∧
        t.bcn.word = none ∧ t.bcn.stray = s.bcn.stray ∧ t.bcn.coastTotal = s.bcn.coastTotal ∧ t.clk.cyc = c ∧
        Frame [.clk, .free, .pages, .bcn, .cnt, .det, .hst, .out] s t)) ∧
    (∀ w, missBy c (s.bcn.expected + periodNom s) ≤ bcnWin s → s.bcn.cfgNext = none → s.bcn.word = some w → w.next ≠ s.bcn.count + 1 →
      Ends (.beaconPulse false c) s (fun t =>
        t.bcn.count = s.bcn.count + 1 ∧ t.bcn.wordErr = satAdd 32 s.bcn.wordErr 1 ∧ t.bcn.word = none ∧
        bitOf (page t pBCN).irqRaw 5 = true ∧
        (s.bcn.missRow < 2 → t.bcn.mode = .locked ∧ t.bcn.missRow = s.bcn.missRow + 1) ∧
        (2 ≤ s.bcn.missRow → t.bcn.mode = .resync ∧ t.bcn.uncertain = true ∧ t.bcn.phaseRef = none))) ∧
    (bcnWin s < missBy c (s.bcn.expected + periodNom s) → Ends (.beaconPulse false c) s (fun t =>
      t.bcn = { s.bcn with stray := satAdd 32 s.bcn.stray 1 } ∧ bitOf (page t pBCN).irqRaw 4 = true ∧ t.clk.cyc = c ∧
      Frame [.clk, .pages, .bcn, .cnt, .hst, .out] s t))

/-- The first pulse sampled in dark mode is the phase reference of resync mode, and the count does not move. -/
def Claim.BeaconPulseDark : Prop :=
  ∀ (s : State) (c : Nat), live s = true → fromSpan s = false → s.bcn.mode = .dark → s.clk.cyc ≤ c →
    Ends (.beaconPulse false c) s (fun t =>
      t.bcn.mode = .resync ∧ t.bcn.phaseRef = some c ∧ t.bcn.lastPulse = c ∧ t.bcn.goodRun = 0 ∧ t.bcn.uncertain = true ∧
      t.bcn.count = s.bcn.count ∧ t.clk = { s.clk with cyc := c } ∧ Frame [.clk, .bcn] s t)

/-- Beacon words: a complete word with a good CRC announces the next pulse, any other is discarded and counted. -/
def Claim.BeaconWords : Prop :=
  ∀ (s : State) (bs : List Byte), live s = true → fromSpan s = false →
    (∀ w, beaconWordOf bs = some w → Ends (.beaconWord false bs) s (fun t =>
      t.bcn.word = some w ∧ t.bcn.count = s.bcn.count ∧ t.bcn.mode = s.bcn.mode ∧ t.bcn.wordErr = s.bcn.wordErr ∧
      (w.uncertain = true → s.bcn.mode = .locked ∨ s.bcn.mode = .coast → t.bcn.uncertain = true ∧ t.bcn.srcUncertain = true) ∧
      Frame [.pages, .bcn, .cnt, .hst, .out] s t)) ∧
    (beaconWordOf bs = none → Ends (.beaconWord false bs) s (fun t =>
      t.bcn = { s.bcn with word := none, wordErr := satAdd 32 s.bcn.wordErr 1 } ∧ bitOf (page t pBCN).irqRaw 5 = true ∧
      Frame [.pages, .bcn, .cnt, .hst, .out] s t))

/-- The count goes on without pulses: at the end of the window of an expected pulse the block coasts, and in dark mode, and in resync mode
before the phase reference, the count advances by one every PERIOD_NOM. -/
def Claim.BeaconCoasts : Prop :=
  ∀ s : State, live s = true →
    (s.bcn.mode = .locked ∨ s.bcn.mode = .coast → s.bcn.expected + periodNom s + bcnWin s < darkAt s → s.bcn.cfgNext = none →
      Ends .beaconCoast s (fun t =>
        t.bcn.count = s.bcn.count + 1 ∧ t.bcn.mode = .coast ∧ t.bcn.coasted = true ∧ t.bcn.coastTotal = satAdd 32 s.bcn.coastTotal 1 ∧
        t.bcn.expected = s.bcn.expected + periodNom s ∧ bitOf (page t pBCN).irqRaw 3 = true ∧
        t.clk = (advanceToTick s (s.bcn.expected + periodNom s + bcnWin s)).clk ∧
        Frame [.clk, .pages, .bcn, .mbx, .cnt, .det, .hst, .out] s t)) ∧
    (s.bcn.mode = .dark ∨ (s.bcn.mode = .resync ∧ s.bcn.phaseRef = none ∧ s.bcn.expected + periodNom s < darkAt s) → s.bcn.cfgNext = none →
      Ends .beaconFreeRunTick s (fun t =>
      t.bcn.count = s.bcn.count + 1 ∧ t.bcn.mode = s.bcn.mode ∧ t.bcn.expected = s.bcn.expected + periodNom s ∧
      t.bcn.lastPulse = s.bcn.lastPulse ∧ Frame [.clk, .pages, .bcn, .mbx, .cnt, .det, .hst, .out] s t))

/-- Dark entry and the loss of a run: 4 x PERIOD_NOM after the last pulse the block is dark and uncertain and an armed Kindle is
cancelled, and a window around the phase reference that closes without a pulse ends the run of good pulses. -/
def Claim.BeaconLoss : Prop :=
  ∀ s : State, live s = true →
    (s.bcn.mode ≠ .dark → s.bcn.cfgNext = none → Ends .beaconDarkEntry s (fun t =>
      t.bcn.mode = .dark ∧ t.bcn.uncertain = true ∧ t.bcn.phaseRef = none ∧ t.bcn.count = s.bcn.count + 1 ∧
      t.bcn.darkAt = s.bcn.count + 1 ∧ t.det.kindle ≠ 1 ∧ bitOf (page t pBCN).irqRaw 0 = true ∧
      t.clk = (advanceToTick s (s.bcn.lastPulse + 4 * periodNom s)).clk ∧
      Frame [.clk, .pages, .bcn, .mbx, .cnt, .det, .hst, .out] s t)) ∧
    (∀ r, s.bcn.mode = .resync → s.bcn.phaseRef = some r → Ends .resyncWindowClose s (fun t =>
      t.bcn = { s.bcn with phaseRef := some (r + periodNom s), word := none, goodRun := 0, runNext := none, runDone := false } ∧
      Frame [.clk, .bcn] s t))

/-- A return to lock raises RESYNC, and STEP with it after a step of more than one count: in a later event tick than that of the step, and
once only. -/
def Claim.ResyncInterrupts : Prop :=
  ∀ s : State, s.bcn.irqStep ≠ 0 → (etNow s ≤ s.bcn.irqAt → Ends .resyncInterrupts s (fun t => t = s)) ∧
    (s.bcn.irqAt < etNow s → Ends .resyncInterrupts s (fun t =>
    bitOf (page t pBCN).irqRaw 1 = true ∧ (s.bcn.irqStep ≠ 1 → bitOf (page t pBCN).irqRaw 2 = true) ∧
    t.bcn = { s.bcn with irqStep := 0 } ∧ Frame [.pages, .bcn, .cnt, .hst, .out] s t))

/-- The registers of the beacon: a change of SRC and a new period wait for the next counted tick, the other settings of BCN_CFG are taken
at once, and what the block refuses leaves the registers as they were and the reason in LAST. -/
def Claim.BeaconRegisters : Prop :=
  ∀ (s : State) (a : Acc) (v : Word), UnitAdmits s a pBCN 0x200 →
    (fld v 1 0 = 0 ∨ (fld v 1 0 = 1 ∧ present s pSPN = true ∧ s.cas.master = true) → fld v 6 4 ≤ 5 → Ends (.bcnCfgWrite a v) s (fun t =>
      fld t.bcn.cfg 23 16 = fld v 23 16 ∧ fld t.bcn.cfg 6 4 = fld v 6 4 ∧ bitOf t.bcn.cfg 2 = bitOf v 2 ∧
      fld t.bcn.cfg 1 0 = fld s.bcn.cfg 1 0 ∧ (fld s.bcn.cfg 1 0 = fld v 1 0 → t.bcn.cfgNext = none) ∧
      (fld s.bcn.cfg 1 0 ≠ fld v 1 0 → ∃ w, t.bcn.cfgNext = some w ∧ fld w 1 0 = fld v 1 0) ∧ (page t pBCN).last = .ok ∧
      t.bcn.count = s.bcn.count ∧ Answered t a.st .ok [] ∧ Frame [.pages, .bcn, .mbx, .cnt, .hst, .out] s t)) ∧
    (fld v 1 0 = 1 → present s pSPN = false → Ends (.bcnCfgWrite a v) s (fun t =>
      t.bcn = s.bcn ∧ (page t pBCN).last = .unitAbsent ∧ Frame [.pages, .mbx, .cnt, .hst, .out] s t)) ∧
    (fld v 1 0 = 1 → present s pSPN = true → s.cas.master = false → Ends (.bcnCfgWrite a v) s (fun t =>
      t.bcn = s.bcn ∧ (page t pBCN).last = .permission ∧ Frame [.pages, .mbx, .cnt, .hst, .out] s t)) ∧
    (fld v 1 0 ≠ 1 → 2 ≤ fld v 1 0 ∨ 5 < fld v 6 4 → Ends (.bcnCfgWrite a v) s (fun t =>
      t.bcn = s.bcn ∧ (page t pBCN).last = .permission ∧ Frame [.pages, .mbx, .cnt, .hst, .out] s t)) ∧
    (300 ≤ fld v 19 0 → fld v 19 0 ≤ 35200 → fld v 35 20 ≤ fld v 19 0 / 4 → Ends (.bcnPeriodWrite a v) s (fun t =>
      t.bcn = { s.bcn with periodNext := some (v &&& mask 35 0) } ∧ (page t pBCN).last = .ok ∧
      Frame [.pages, .bcn, .mbx, .cnt, .hst, .out] s t)) ∧
    (fld v 19 0 < 300 ∨ 35200 < fld v 19 0 ∨ fld v 19 0 / 4 < fld v 35 20 → Ends (.bcnPeriodWrite a v) s (fun t =>
      t.bcn = s.bcn ∧ (page t pBCN).last = .permission ∧ Frame [.pages, .mbx, .cnt, .hst, .out] s t))

/-! ## Counters -/

/-- The general counters: a write of a value holds its 48 bits and of no other counter, a write of a setting takes hold at the next
event tick, FREEZE likewise, and CLEAR clears every value and OVF at once. -/
def Claim.CounterRegisters : Prop :=
  ∀ (s : State) (a : Acc) (i : Nat) (v : Word), UnitAdmits s a pCNT 0x200 → i < 64 →
    Ends (.cntValWrite a i v) s (fun t =>
      tget t.cnt.vals i = fld v 47 0 ∧ (∀ j, j ≠ i → tget t.cnt.vals j = tget s.cnt.vals j) ∧ t.cnt.cfgs = s.cnt.cfgs ∧
      t.cnt.ovf = s.cnt.ovf ∧ Answered t a.st .ok [] ∧ Frame [.pages, .mbx, .cnt, .hst, .out] s t) ∧
    (bitOf v 12 = false ∨ isSource s (fld v 11 0) = true → Ends (.cntCfgWrite a i v) s (fun t =>
      tget t.cnt.cfgs i = v &&& cntCfgMask ∧ t.cnt.cfgsNow = s.cnt.cfgsNow ∧ t.cnt.vals = s.cnt.vals ∧ (page t pCNT).last = .ok ∧
      Frame [.pages, .mbx, .cnt, .hst, .out] s t)) ∧
    (bitOf v 12 = true → isSource s (fld v 11 0) = false → Ends (.cntCfgWrite a i v) s (fun t =>
      t.cnt.cfgs = s.cnt.cfgs ∧ (page t pCNT).last = .unitAbsent)) ∧
    (bitOf v 1 = false → Ends (.cntFreeze a v) s (fun t =>
      t.cnt.freeze = bitOf v 0 ∧ t.cnt.freezeNow = s.cnt.freezeNow ∧ t.cnt.vals = s.cnt.vals ∧ t.cnt.ovf = s.cnt.ovf ∧
      Answered t a.st .ok [] ∧ Frame [.pages, .mbx, .cnt, .hst, .out] s t)) ∧
    (bitOf v 1 = true → Ends (.cntClear a v) s (fun t =>
      t.cnt.vals = [] ∧ t.cnt.ovf = 0 ∧ t.cnt.freeze = bitOf v 0 ∧ t.cnt.cfgs = s.cnt.cfgs ∧ Answered t a.st .ok [] ∧
      Frame [.pages, .mbx, .cnt, .hst, .out] s t))

/-- A partition's counters: it selects a source that exists, and the counter starts at 0; a reserved source changes nothing. At a
publication TC_VAL shows the raw count rounded down to 1,024, with the count of the beacon, for every partition. -/
def Claim.TenantCounters : Prop :=
  (∀ (s : State) (a : Acc) (p i : Nat) (v : Word), a.st < 2 → accUp s a.st = true → p < 64 → mayReach s a.part (.view p 0) = true → i < 8 →
    (fld v 7 0 ≤ 10 → (tget (part s p).tc i).src ≠ fld v 7 0 → Ends (.tcCfgWrite a p i v) s (fun t =>
      tget (part t p).tc i = { src := fld v 7 0, srcNow := 0, raw := 0, val := 0 } ∧
      (∀ j, j ≠ i → tget (part t p).tc j = tget (part s p).tc j) ∧ (∀ q, q ≠ p → part t q = part s q) ∧
      Answered t a.st .ok [] ∧ Frame [.parts, .hst, .out] s t)) ∧
    (10 < fld v 7 0 → Ends (.tcCfgWrite a p i v) s (fun t => part t p = part s p ∧ Frame [.hst, .out] s t))) ∧
  (∀ s : State, bt s / 4096 ≠ (part s 0).tcPub.toNat / 4096 → Ends .tenantPublication s (fun t =>
    (∀ p, p < 64 → (part t p).tcPub = s.bcn.count ∧
      ∀ i, (tget (part t p).tc i).val = (tget (part s p).tc i).raw / 1024 * 1024 ∧
           (tget (part t p).tc i).raw = (tget (part s p).tc i).raw ∧ (tget (part t p).tc i).src = (tget (part s p).tc i).src) ∧
    t.clk.throttleMax = s.clk.throttle ∧ Frame [.clk, .cnt, .parts] s t))

/-! ## Mailboxes -/

/-- The access comes from a station of this block, or over I3C. -/
def ViaOwn : MbVia → Prop
  | .view a => a.st < 2
  | .page a => a.st < 2
  | .i3c => True

/-- A register of a mailbox is reached: over the view page of its partition, the MBX page by the root partition, or I3C (R483). -/
def MbAdmits (s : State) (w : MbAcc) : Prop := mbReach s w true = .ok ∧ ViaOwn w.via

/-- Words and doorbells of the host: a push stands last in the FIFO of 16, or is dropped with OVERRUN when it is full; a pop takes
the oldest word, or 0 with UNDERRUN; only REQUEST can be set. Every other mailbox stays as it was. -/
def Claim.MailboxWords : Prop :=
  ∀ (s : State) (w : MbAcc) (v : Word), MbAdmits s w →
    ((mbox s w.mb).h2s.length < 16 → Ends (.h2sPush w v) s (fun t =>
      (mbox t w.mb).h2s = (mbox s w.mb).h2s ++ [v] ∧ (mbox t w.mb).overrun = (mbox s w.mb).overrun ∧ (mbox t w.mb).h2sTimer ≠ none ∧
      (∀ m, m ≠ w.mb → mbox t m = mbox s m) ∧ Frame [.mbx, .hst, .out] s t)) ∧
    (16 ≤ (mbox s w.mb).h2s.length → Ends (.h2sPush w v) s (fun t =>
      mbox t w.mb = { mbox s w.mb with overrun := true } ∧ (∀ m, m ≠ w.mb → mbox t m = mbox s m) ∧ Frame [.mbx, .hst, .out] s t)) ∧
    (∀ x l, (mbox s w.mb).s2h = x :: l → Ends (.s2hPop w) s (fun t =>
      (mbox t w.mb).s2h = l ∧ (mbox t w.mb).underrun = (mbox s w.mb).underrun ∧ (mbox t w.mb).s2hDb = (mbox s w.mb).s2hDb ∧
      (∀ a, w.via = .view a ∨ w.via = .page a → Answered t a.st .ok [x]) ∧
      (∀ m, m ≠ w.mb → mbox t m = mbox s m) ∧ Frame [.mbx, .hst, .out] s t)) ∧
    ((mbox s w.mb).s2h = [] → Ends (.s2hPop w) s (fun t =>
      mbox t w.mb = { mbox s w.mb with underrun := true } ∧ (∀ a, w.via = .view a ∨ w.via = .page a → Answered t a.st .ok [0]) ∧
      Frame [.mbx, .hst, .out] s t)) ∧
    Ends (.h2sDbWrite w v) s (fun t =>
      (mbox t w.mb).h2sDb = (mbox s w.mb).h2sDb ||| (v &&& 1) ∧ (mbox t w.mb).h2s = (mbox s w.mb).h2s ∧
      (∀ m, m ≠ w.mb → mbox t m = mbox s m) ∧ Frame [.mbx, .hst, .out] s t)

/-- The doorbell toward the host and its mask: bits written 1 clear, and the mask takes its 32 bits. -/
def Claim.MailboxDoorbells : Prop :=
  ∀ (s : State) (w : MbAcc) (v : Word), MbAdmits s w →
    Ends (.s2hDbClear w v) s (fun t =>
      (mbox t w.mb).s2hDb = (mbox s w.mb).s2hDb &&& ~~~ v ∧ (mbox t w.mb).s2h = (mbox s w.mb).s2h ∧
      (mbox t w.mb).s2hMask = (mbox s w.mb).s2hMask ∧ (∀ m, m ≠ w.mb → mbox t m = mbox s m) ∧ Frame [.mbx, .hst, .out] s t) ∧
    Ends (.s2hMaskWrite w v) s (fun t =>
      mbox t w.mb = { mbox s w.mb with s2hMask := v &&& (mask 31 8 ||| mask 1 0), irqHeld := (mbox t w.mb).irqHeld } ∧
      (∀ m, m ≠ w.mb → mbox t m = mbox s m) ∧ Frame [.mbx, .hst, .out] s t)

/-- The lock of a mailbox: a write with ACQ 1 takes a free lock with its tag and has no effect on a held one; a write with ACQ 0 and the
tag of the owner frees it, and any other has no effect but LOCK_ERR. -/
def Obligations.MailboxLock : Prop :=
  ∀ (s : State) (w : MbAcc) (v : Word), MbAdmits s w → Ends (.mbLockWrite w v) s (fun t =>
    mbox t w.mb = (if bitOf v 0 = true then
        (if (mbox s w.mb).held = true then mbox s w.mb else { mbox s w.mb with held := true, owner := fld v 31 16 })
      else if fld v 31 16 = (mbox s w.mb).owner then { mbox s w.mb with held := false, owner := 0 }
      else { mbox s w.mb with lockErr := true }) ∧
    (∀ m, m ≠ w.mb → mbox t m = mbox s m) ∧ Frame [.mbx, .hst, .out] s t)

/-- MB_CTL of the root partition breaks a mailbox's lock and flushes the FIFO of one direction. -/
def Claim.MailboxFlush : Prop :=
  ∀ (s : State) (a : Acc) (m : Nat), a.st < 2 → accUp s a.st = true → m < 66 → mayReach s a.part (.page pMBX 0x1000) = true →
    Ends (.forceUnlock a m) s (fun t => mbox t m = { mbox s m with held := false, owner := 0 } ∧
      (∀ n, n ≠ m → mbox t n = mbox s n) ∧ Answered t a.st .ok [] ∧ Frame [.mbx, .hst, .out] s t) ∧
    Ends (.flushH2s a m) s (fun t => (mbox t m).h2s = [] ∧ (mbox t m).h2sDb = (mbox s m).h2sDb ∧ (mbox t m).s2h = (mbox s m).s2h ∧
      (∀ n, n ≠ m → mbox t n = mbox s n) ∧ Answered t a.st .ok [] ∧ Frame [.mbx, .hst, .out] s t) ∧
    Ends (.flushS2h a m) s (fun t => (mbox t m).s2h = [] ∧ (mbox t m).replies = (mbox s m).replies ∧ (mbox t m).h2s = (mbox s m).h2s ∧
      (∀ n, n ≠ m → mbox t n = mbox s n) ∧ Answered t a.st .ok [] ∧ Frame [.mbx, .hst, .out] s t)

/-- Replies and timers: the oldest complete reply goes to the FIFO when it has room for the whole of it, and REPLY is set; a timer
that has come discards what waited, sets its flag and the state of the receiver, and marks the mailbox in the map. -/
def Claim.MailboxReplies : Prop :=
  (∀ (s : State) (m : Nat) (r : List Word) (l : List (List Word)), sudricServes s m = true → (mbox s m).replies = r :: l →
    owed r = false → (mbox s m).s2h.length + r.length ≤ 16 → fld (r.headD 0) 47 32 ≠ 0xFFFF →
    Ends (.replyPush m) s (fun t =>
      (mbox t m).s2h = (mbox s m).s2h ++ r ∧ (mbox t m).replies = l ∧ bitOf (mbox t m).s2hDb dbReply = true ∧
      (∀ n, n ≠ m → mbox t n = mbox s n) ∧ Frame [.mbx, .hst, .out] s t)) ∧
  (∀ (s : State) (m : Nat) (d : Word), m < 66 → (mbox s m).h2sTimer = some d → btDue s d.toNat = true →
    Ends (.h2sTimeout m) s (fun t =>
      mbox t m = { mbox s m with h2sTo := true, h2sCause := h2sRx s m, h2s := [], h2sDb := 0, h2sTimer := none } ∧
      (if m < 64 then bitOf t.mbx.toMapLo m = true else bitOf t.mbx.toMapHi (m - 64) = true) ∧
      (∀ n, n ≠ m → mbox t n = mbox s n) ∧ Frame [.pages, .mbx, .cnt, .hst, .out] s t)) ∧
  (∀ (s : State) (m : Nat) (d : Word), m < 66 → (mbox s m).s2hTimer = some d → btDue s d.toNat = true →
    Ends (.s2hTimeout m) s (fun t =>
      (mbox t m).s2h = [] ∧ (mbox t m).s2hTo = true ∧ (mbox t m).s2hCause = s2hRx s m ∧ bitOf (mbox t m).s2hDb dbReply = false ∧
      (mbox t m).lost = satAdd 8 (mbox s m).lost (mbox s m).fifoMsgs.length ∧ (mbox t m).replies = (mbox s m).replies ∧
      (if m < 64 then bitOf t.mbx.toMapLo m = true else bitOf t.mbx.toMapHi (m - 64) = true) ∧
      (∀ n, n ≠ m → mbox t n = mbox s n) ∧ Frame [.pages, .mbx, .cnt, .hst, .out] s t))

/-- DEADLINE_EXPIRE acts on the deadline that its handle names when the count has reached or passed it, and on nothing before:
here the timers of the mailboxes. -/
def Claim.Deadlines : Prop :=
  ∀ (s : State) (m : Nat) (d : Word), (mbox s m).h2sTimer = some d →
    (btDue s d.toNat = true → Ends (.deadlineExpire (8 * m)) s (fun t => (mbox t m).h2sTo = true ∧ (mbox t m).h2s = [] ∧
      (mbox t m).h2sTimer = none)) ∧
    (btDue s d.toNat = false → Ends (.deadlineExpire (8 * m)) s (fun t => t = s))

/-! ## Services -/

/-- Sudric's reply to a request stands in the mailbox with its status and results, and is the latest that LAST_REPLY would show. -/
def Replied (t : State) (m seq svc : Nat) (st : Status) (res : List Word) : Prop :=
  (replyHdr st false res.length seq svc :: res) ∈ (mbox t m).replies ∧
  (mbox t m).recent.head? = some (replyHdr st false res.length seq svc)

/-- Sudric runs the request: it takes requests of the mailbox, nothing in the catalogue, the arguments, the partition, the unit or its
expert control refuses it, and no check of R81 is due first (R48, R79, R82, R408, R492, R560, R669). A service of cascade scope, and ATTEST,
runs on the master, which tells the other blocks (R501; Claim.ServiceRelay). -/
def SvcRuns (s : State) (m seq : Nat) (v : Svc) (args : List Word) : Prop :=
  seq < 256 ∧ (cascadeScope v.code = true ∨ v.code = 0x80 → s.cas.master = true) ∧
  mbServed s m = true ∧ gateStatus s m v args = none ∧ v.page.all (fun p => !(page s p).checking) = true

/-! ## Resets and start-up -/

/-- A power-on reset leaves every register at its reset value: what stays is what was built and burnt, the connected memory ports, the
straps, and (outside the machine) the queue of commands and the record of sent messages. Memory is not kept. -/
def Claim.PowerOnReset : Prop :=
  ∀ (s : State) (x : Straps) (ok : Bool), Ends (.powerOnReset x ok) s (fun t =>
    t = { State.reset with
      build := s.build, pending := s.pending, out := s.out, free := s.free
      fuses := { State.reset.fuses with rows := s.fuses.rows, loaded := s.fuses.rows, fuseBad := !ok, lifecycle := lifeOf s.fuses.rows ok }
      cas := { State.reset.cas with pos := x.pos % 8, master := x.master, sizeM1 := x.sizeM1 % 8 }
      boot := { State.reset.boot with stage := 1, err := if ok then 0 else 1 }
      mps := s.mps.map (fun e => (e.1, { present := e.2.present })) })

/-- The lifecycle state that the fuses give: RETIRED before DEBUG before SECURED, and RETIRED when the fuse check fails. -/
def Obligations.LifecycleOfFuses : Prop :=
  ∀ (rows : Tbl Word), lifeOf rows false = .retired ∧
    (bitOf (tget rows rowLife) 2 = true → lifeOf rows true = .retired) ∧
    (bitOf (tget rows rowLife) 2 = false → bitOf (tget rows rowLife) 1 = true → lifeOf rows true = .debug) ∧
    (bitOf (tget rows rowLife) 2 = false → bitOf (tget rows rowLife) 1 = false → bitOf (tget rows rowLife) 0 = true → lifeOf rows true = .secured) ∧
    (bitOf (tget rows rowLife) 2 = false → bitOf (tget rows rowLife) 1 = false → bitOf (tget rows rowLife) 0 = false → lifeOf rows true = .blank)

/-- A block reset keeps the always-on state (the boot count, which it raises, the cause, the previous BOOT_STAT and the key epochs, with the
partitions whose epoch rises at the next start) and the memory behind the ports, and resets the rest. -/
def Claim.BlockReset : Prop :=
  ∀ (s : State) (x : Straps) (ok : Bool), Ends (.blockReset x ok) s (fun t =>
    t = { State.reset with
      build := s.build, pending := s.pending, out := s.out, free := s.free
      mem := s.mem, memPois := s.memPois, memKey := s.memKey, memScrub := s.memScrub
      sec := { State.reset.sec with epochs := s.sec.epochs }
      fuses := { State.reset.fuses with rows := s.fuses.rows, loaded := s.fuses.rows, fuseBad := !ok, lifecycle := lifeOf s.fuses.rows ok }
      cas := { State.reset.cas with pos := x.pos % 8, master := x.master, sizeM1 := x.sizeM1 % 8 }
      boot := { State.reset.boot with
        stage := 1, err := if ok then 0 else 1, bootCount := satAdd 32 s.boot.bootCount 1, rstCause := if s.clk.rstReq then 2 else 1
        prevStat := bootStat s, wasOpen := t.boot.wasOpen, restarted := true }
      mps := s.mps.map (fun e => (e.1, { present := e.2.present })) } ∧
    ∀ p, p ∈ t.boot.wasOpen ↔ p ∈ s.boot.wasOpen ∨ (p < 64 ∧ (part s p).st ≠ .free))

/-- Release and the ROM stage: the event ticks count from the release, and at its end the units and cells that failed their memory test
are fenced and the block waits for an image, or it halts when one of them cannot be fenced. -/
def Claim.RomStage : Prop :=
  (∀ s : State, s.boot.stage = 1 → s.clk.stopped = false → Ends .resetRelease s (fun t =>
    t = { s with boot := { s.boot with stage := 2 }, clk := { s.clk with cyc := 0, tickStart := 0, et := 0 } })) ∧
  (∀ (s : State) (ps cs : List Nat), s.boot.stage = 2 → ps.find? unfenceable = none → Ends (.romStageEnd ps cs) s (fun t =>
    t.boot = { s.boot with stage := 3 } ∧ (∀ p, p ∈ ps → present s p = true → fenced t p = true) ∧
    (∀ p, p ∉ ps → page t p = page s p) ∧ (∀ c, c ∈ cs → c < 56 → cellFenced t c = true) ∧ Frame [.pages, .boot, .ras] s t)) ∧
  (∀ (s : State) (ps cs : List Nat) (p : Nat), s.boot.stage = 2 → ps.find? unfenceable = some p → Ends (.romStageEnd ps cs) s (fun t =>
    t.boot.stage = 0xF ∧ t.boot.err = 2 ∧ t.boot.running = false ∧ bitOf (page t pCTL).irqRaw 1 = true))

/-- IMAGE_START with an image that passes every check and parameters in their ranges: the firmware runs, its SVN and digest are kept,
the block goes through steps 6 to 8, and the reply is OK. An image that fails is answered PERMISSION, with the reason in
BOOT_STAT[ERR], and the block stays where it was. -/
def Claim.ImageStart : Prop :=
  ∀ (s : State) (m seq : Nat), SvcRuns s m seq { code := 0x00A0, who := .start, masks := [] } [] → s.boot.stage = 3 → s.boot.running = false →
    (imageErr s = none → paramsOk s = true → rangesOk (paramMemory s) = true → poolsOk (paramMemory s) = true →
      (s.boot.restarted = true → tget s.sec.epochs 0 ≠ 0xFFFFFFFF) → Ends (.imageStart m seq []) s (fun t =>
        Replied t m seq 0x00A0 .ok [] ∧ t.boot.running = true ∧ t.boot.err = 0 ∧ 6 ≤ t.boot.stage ∧ t.boot.stage ≤ 8 ∧
        fld t.boot.info 47 16 = stagedNat s 0x00C 4 ∧ t.boot.sudricDigest = sha384 (signedBytes s) ∧
        t.boot.memWait = stagedNat s (pb + 0x14) 4 ∧ t.boot.restarted = false)) ∧
    (∀ e, imageErr s = some e → Ends (.imageStart m seq []) s (fun t =>
      Replied t m seq 0x00A0 .permission [] ∧ t.boot = { s.boot with err := e } ∧ Frame [.boot, .mbx] s t))

/-- Formation of the cascade: a LINK_INIT tells what stands behind a port, a cascade in which nothing is wrong forms with its routes
and its latency, and one that has not formed in time records why and says so to mailbox 64. -/
def Claim.CascadeFormation : Prop :=
  (∀ (s : State) (port : Nat) (x : Straps) (gen step : Nat) (re : List Nat) (lat : Nat), port < 4 → 2 ≤ s.boot.stage →
    Ends (.cascadeLinkInit port x gen step re lat) s (fun t =>
      tget t.cas.peers port = some { pos := x.pos % 8, master := x.master, sizeM1 := x.sizeM1 % 8, gen := gen, step := step,
                                     reaches := re.map (fun n => n % 8), up := true, lat := lat } ∧
      (∀ q, q ≠ port → tget t.cas.peers q = tget s.cas.peers q) ∧ t.cas.st ≠ 0 ∧ Frame [.cas, .out] s t)) ∧
  (∀ s : State, s.boot.running = true → 5 ≤ s.boot.stage → s.boot.stage ≠ 0xF → s.cas.st ≤ 1 → joinErr s = none → rangesOk s = true →
    Ends .cascadeFormed s (fun t =>
      t.cas.st = 2 ∧ t.cas.err = 0 ∧ t.cas.routes = casRoutes s ∧ t.det.casLat = casLatOf s ∧ bitOf (page t pCAS).irqRaw 0 = true ∧
      Frame [.pages, .boot, .cnt, .cas, .det, .hst, .spn, .out] s t)) ∧
  (∀ s : State, s.cas.st ≠ 2 → s.cas.st ≠ 3 → btDue s 50000 = true → 2 ≤ s.boot.stage → Ends .joinDeadline s (fun t =>
    t.cas = { s.cas with st := 3, err := (joinErr s).getD 5 } ∧ (s.boot.stage ≠ 0xF → t.boot.err = 7) ∧
    bitOf (page t pCAS).irqRaw 1 = true ∧ bitOf (mbox t 64).s2hDb dbEvent = true ∧ Frame [.pages, .boot, .mbx, .cnt, .cas, .hst, .out] s t))

/-- Station links come up: the adapter's event sends this block's LINK_INIT, and the partner's makes the link active with its credits. -/
def Claim.StationLinkUp : Prop :=
  ∀ (s : State) (p : Nat) (v : Word), isStation p = true → enabled s p = true → fenced s p = false →
    ((linkOf s p).st = 0 → Ends (.stationLinkUp p) s (fun t =>
      (linkOf t p).st = 1 ∧ t.out = s.out ++ [.linkInit p ownCredits] ∧ Frame [.eng, .hst, .out] s t)) ∧
    ((linkOf s p).st = 1 → Ends (.linkInit p v) s (fun t =>
      (linkOf t p).st = 2 ∧ (linkOf t p).creditTx = v ∧ (∀ c, c < 5 → tget (linkOf t p).held c = fld v (8 * c + 7) (8 * c)) ∧
      Frame [.pages, .boot, .mbx, .cnt, .eng, .hst, .out] s t))

/-- Nothing is in flight at the homes and the engine ports of this block. -/
def Idle (s : State) : Prop :=
  s.hom.waiters = [] ∧ s.hom.setWait = [] ∧ s.hom.txns = [] ∧ s.hom.dir = [] ∧ s.eng.reqs = []

/-- A station link goes down while nothing is in flight: the link is down with no credits, and the loss is raised on its page. -/
def Claim.StationLinkDown : Prop :=
  ∀ (s : State) (p : Nat), isStation p = true → (linkOf s p).st ≠ 0 → Idle s →
    Ends (.stationLinkDown p) s (fun t =>
      (linkOf t p).st = 0 ∧ (linkOf t p).held = [] ∧ (linkOf t p).waiting = [] ∧
      bitOf (page t p).irqRaw (if p = pENG then 9 else 1) = true ∧ t.mem = s.mem)

/-- Memory ports: READY connects the port and is raised; its fall fences the port as a unit error (here with no read outstanding). -/
def Claim.MemoryPortReady : Prop :=
  ∀ (s : State) (i : Nat), i < 4 → (tget s.mps i).present = true → (tget s.mps i).en = true → fenced s (pNMP0 + i) = false →
    present s (pNMP0 + i) = true →
    ((tget s.mps i).ready = false → s.hom.waiters = [] → s.hom.setWait = [] → Ends (.mpReadyRise i) s (fun t =>
      tget t.mps i = { tget s.mps i with ready := true } ∧ bitOf (page t (pNMP0 + i)).irqRaw 0 = true ∧
      Frame [.pages, .boot, .cnt, .hom, .hst, .mps, .out] s t)) ∧
    ((tget s.mps i).ready = true → (tget s.mps i).reads = [] → Ends (.mpReadyFall i) s (fun t =>
      fenced t (pNMP0 + i) = true ∧ (tget t.mps i).en = false ∧ (tget t.mps i).ready = false ∧ (tget t.mps i).queue = [] ∧
      (∃ r, t.ras.log.head? = some r ∧ r.cls = .ueUnit ∧ r.page = pNMP0 + i ∧ r.index = i) ∧ t.mem = (putBackAll s (tget s.mps i).unwritten).mem))

/-- The waits of start-up end: a station without a link, and a connected memory port that is not ready, gate the opening no more; the
memory port is fenced (here with no read outstanding). -/
def Claim.StartWaits : Prop :=
  ∀ s : State, s.boot.running = true → 5 ≤ s.boot.stage → s.boot.stage < 9 →
    (∀ p, isStation p = true → linkUp s p = false → Ends (.stationBringupTimeout p) s (fun t =>
      p ∈ t.boot.ungated ∧ t.clk.cyc = max s.clk.cyc (s.boot.step6Cyc + 40000000) ∧ Frame [.clk, .boot] s t)) ∧
    (s.boot.memWait ≠ 0 → btDue s (s.boot.step6Count + w64 s.boot.memWait).toNat = true → (∀ i, i < 4 → (tget s.mps i).reads = []) →
      Ends .memWaitExpire s (fun t => ∀ i, i < 4 → present s (pNMP0 + i) = true → (tget s.mps i).present = true → fenced s (pNMP0 + i) = false →
        linkUp s (pNMP0 + i) = false → pNMP0 + i ∈ t.boot.ungated ∧ fenced t (pNMP0 + i) = true))

/-- Attestation readiness and the opening of the root partition: partition 0 is open, and the count of the opening is kept; a block of
the cascade that is RETIRED stops the opening. -/
def Claim.RootOpens : Prop :=
  (∀ (s : State) (k x : List Byte), s.boot.stage = 8 → Ends (.attestationReady s.cas.pos k x) s (fun t =>
    s.cas.pos ∈ t.boot.attReady ∧ t.sec.chainOk = (k == devicePublic s.fuses && !s.boot.cert.isEmpty) ∧ t.det.fpStale = false ∧ Frame [.boot, .sec, .det] s t)) ∧
  (∀ (s : State) (p : Nat) (k x : List Byte), p ≠ s.cas.pos → s.cas.master = true → p < blocks s → s.boot.running = true →
    Ends (.attestationReady p k x) s (fun t =>
      p ∈ t.boot.attReady ∧ tget t.sec.sections p = bytesN 256 x ∧ Frame [.boot, .sec] s t)) ∧
  (∀ s : State, mayOpen s = true →
    (retiredAt s = none → Ends .rootPartitionOpen s (fun t =>
      rootOpen t = true ∧ part t 0 = { part s 0 with st := .open_ } ∧ t.boot.openAt = s.bcn.count ∧ bitOf (page t pCTL).irqRaw 0 = true ∧
      (∀ p, p ≠ 0 → part t p = part s p) ∧ Frame [.pages, .boot, .sec, .cnt, .parts, .cas, .hst, .out] s t)) ∧
    (∀ p, retiredAt s = some p → Ends .rootPartitionOpen s (fun t =>
      t.boot.err = 8 ∧ t.boot.stage = s.boot.stage ∧ Frame [.boot] s t)))

/-- Requests for a reset: RST_CTL asks for a block reset with its key only, and UNIT_RST of a fenced unit clears the unit's registers and
keeps it fenced until its test is over; then it leaves the fence, or stays with POISON. UNIT_RST without GO, while a reset runs, of a unit
that no reset names or that is absent, or of one that is neither fenced nor idle, is refused. -/
def Claim.UnitReset : Prop :=
  (∀ (s : State) (a : Acc) (v : Word), UnitAdmits s a pCTL 0x220 → Ends (.rstCtlWrite a v) s (fun t =>
    t.clk = { s.clk with rstReq := s.clk.rstReq || (bitOf v 0 && fld v 15 8 == 0x5A) } ∧ Answered t a.st .ok [] ∧
    Frame [.clk, .pages, .mbx, .cnt, .hst, .out] s t)) ∧
  (∀ (s : State) (a : Acc) (v : Word), UnitAdmits s a pCTL 0x228 → bitOf v 8 = true → s.boot.urBusy = false →
    resettable.contains (fld v 7 0) = true → present s (fld v 7 0) = true → fenced s (fld v 7 0) = true →
    Ends (.unitRstWrite a v) s (fun t =>
      t.boot.urBusy = true ∧ t.boot.urPage = fld v 7 0 ∧ t.boot.urStatus = .ok ∧ (page t (fld v 7 0)).fence = true ∧
      (page t (fld v 7 0)).enable = false ∧ (fld v 7 0 = pMOV → t.mov = {}) ∧ (fld v 7 0 = pXFM → t.xfm = { store := s.xfm.store }) ∧
      t.mem = s.mem)) ∧
  (∀ (s : State) (a : Acc) (v : Word), UnitAdmits s a pCTL 0x228 →
    bitOf v 8 = false ∨ s.boot.urBusy = true ∨ resettable.contains (fld v 7 0) = false ∨ present s (fld v 7 0) = false ∨
      (fenced s (fld v 7 0) = false ∧ ((page s (fld v 7 0)).enable = true ∨ pgBusy s (fld v 7 0) = true)) →
    Ends (.unitRstWrite a v) s (fun t =>
      (page t pCTL).last = .permission ∧ t.boot = s.boot ∧ Answered t a.st .ok [] ∧ Frame [.pages, .mbx, .cnt, .hst, .out] s t)) ∧
  (∀ s : State, s.boot.urBusy = true → resettable.contains s.boot.urPage = true →
    Ends (.unitResetDone true) s (fun t => t.boot.urBusy = false ∧ t.boot.urStatus = .ok ∧ (page t s.boot.urPage).fence = false ∧
      bitOf (page t pCTL).irqRaw 2 = true) ∧
    Ends (.unitResetDone false) s (fun t => t.boot = { s.boot with urBusy := false, urStatus := .poison } ∧
      (page t s.boot.urPage).fence = (page s s.boot.urPage).fence ∧ bitOf (page t pCTL).irqRaw 2 = true))

/-- Power and test: the throttle level and the power report are kept, a fuse bit that is not refused is blown for the next load and
changes nothing now, scan entry outside DEBUG clears the block and stops it, and the memory test instrument leaves no trace. -/
def Claim.PowerAndTest : Prop :=
  ∀ s : State,
    (∀ l, 2 ≤ s.boot.stage → Ends (.throttleChange l) s (fun t =>
      t = { s with clk := { s.clk with throttle := l % 8, throttleMax := max s.clk.throttleMax (l % 8) } })) ∧
    (∀ u, 2 ≤ s.boot.stage → Ends (.powerReport u) s (fun t => t = { s with clk := { s.clk with pwrRpt := u % 65536 } })) ∧
    (∀ r b, fuseRefused s r b = false → Ends (.fuseProgram r b) s (fun t =>
      bitOf (tget t.fuses.rows r) b = true ∧ (∀ q, q ≠ r → tget t.fuses.rows q = tget s.fuses.rows q) ∧
      t.fuses.loaded = s.fuses.loaded ∧ t.fuses.lifecycle = s.fuses.lifecycle ∧ Frame [.fuses] s t)) ∧
    (∀ r b, fuseRefused s r b = true → Ends (.fuseProgram r b) s (fun t => t = s)) ∧
    (s.fuses.lifecycle ≠ .debug → Ends .testScanEntry s (fun t =>
      t.clk.stopped = true ∧ t.fuses = s.fuses ∧ t.boot = State.reset.boot ∧ t.parts = [] ∧ t.sec = State.reset.sec ∧ t.hom = State.reset.hom ∧
      t.lmp = State.reset.lmp ∧ t.mbx = State.reset.mbx ∧ t.xfm = State.reset.xfm ∧ t.mem = s.mem)) ∧
    (s.fuses.lifecycle = .debug → Ends .testScanEntry s (fun t => t = s)) ∧
    (∀ p, Ends (.memoryBistRun p) s (fun t => t = s))

/-! ## Homes -/

/-- A request reaches a quiet home of this block: nothing waits or is in flight there, no move holds its line and no slice is being
rebalanced, the line's home is of this block, a tracker is free, and a connected port of this block serves the line, which the decode
aperture does not cover. -/
def HomeQuiet (s : State) (r : HomeReq) (p : Nat) : Prop :=
  live s = true ∧ r.line < npaLines ∧ s.hom.waiters = [] ∧ s.hom.setWait = [] ∧ s.hom.txns = [] ∧ s.ras.rebal = [] ∧
  (∀ e, e ∈ tsome s.tir.moves → e.2.step ≠ .withdraw) ∧ memStatus s r.line = .ok ∧ trackerFree s r = true ∧
  apertureSlot s (r.line * 128) = none ∧ portOf s r.line = some (s.cas.pos, p) ∧ homeHere s r.line = true

/-- A message to a host station left the block or waits for a credit of its link. -/
def OutTo (t : State) (h : Nat) (m : OutMsg) : Prop := m ∈ t.out ∨ m ∈ (hst t h).waiting

/-- The read of a line that carries an answer is outstanding at a memory port of this block. -/
def ReadFor (t : State) (p line : Nat) (a : Answer) : Prop := ∃ d, d ∈ (tget t.mps p).reads ∧ d.line = line ∧ d.ans = [a]

/-- The line is Blocked under a grant to the requester, whose ACK is awaited. -/
def Granted (t : State) (r : HomeReq) (g : DirState) : Prop :=
  ∃ x, txnOf t r.line = some x ∧ x.grant = g ∧ x.ackFrom = some (r.agent, r.tag)

/-- What a request at a quiet home may change when it writes no memory. -/
def homeReadComps : List Comp := [.pages, .cnt, .ras, .cas, .det, .lan, .eng, .hst, .hom, .mov, .tir, .lmp, .spn, .mps, .out]

/-- Reads of an Uncached line: the data of memory goes to the requester, without a copy for RD_ONCE, and in CE, with the line Blocked
until its ACK, for RD_SHARED and RD_OWN of a caching agent. A sole sharer's UPGRADE needs no data. Memory stays as it was. -/
def Claim.HomeReads : Prop :=
  ∀ (s : State) (r : HomeReq) (p : Nat), HomeQuiet s r p →
    (dirOf s r.line = {} → r.line ∉ s.hom.aluLines → Ends (.rdOnce r) s (fun t =>
      ReadFor t p r.line (dataAns r .dataOnce (rdLine s r.line) (linePois s r.line)) ∧ (∀ l, txnOf t l = none) ∧
      (∀ l, dirOf t l = dirOf s l) ∧ Frame homeReadComps s t)) ∧
    (dirOf s r.line = {} → r.line ∉ s.hom.aluLines → r.node = none → isCaching s r.agent = true → roomFor s r = .ok →
      Ends (.rdShared r) s (fun t =>
        ReadFor t p r.line (dataAns r .dataCE (rdLine s r.line) (linePois s r.line)) ∧ Granted t r (.owned r.agent) ∧
        (∀ l, dirOf t l = dirOf s l) ∧ Frame homeReadComps s t) ∧
      Ends (.rdOwn r) s (fun t =>
        ReadFor t p r.line (dataAns r .dataCE (rdLine s r.line) (linePois s r.line)) ∧ Granted t r (.owned r.agent) ∧
        (∀ l, dirOf t l = dirOf s l) ∧ Frame homeReadComps s t)) ∧
    (dirOf s r.line = { st := .shared (agentsVec [r.agent]) } → r.agent < 24 → r.node = none → isCaching s r.agent = true →
      Ends (.upgrade r) s (fun t =>
        Granted t r (.owned r.agent) ∧ (∀ h, r.origin = .host h → hostUp s h = true → OutTo t h (.ans (ansOf r .comp .ok 0 0))) ∧
        Frame homeReadComps s t))

/-- A read of the decode aperture by an agent, an engine, a mover or another package returns the line as it decodes from the ember that the
slot shows, and is counted. -/
def Claim.ApertureReads : Prop :=
  ∀ (s : State) (r : HomeReq) (sl k : Nat) (e : Heat), live s = true → r.line < npaLines → s.hom.waiters = [] → s.hom.setWait = [] →
    s.hom.txns = [] → s.ras.rebal = [] → (∀ e, e ∈ tsome s.tir.moves → e.2.step ≠ .withdraw) → trackerFree s r = true → homeHere s r.line = true →
    (∀ k, r.origin ≠ .own k) → apertureSlot s (r.line * 128) = some sl → fenced s pTIR = false → emberOfSlot s sl = some (k, e) →
    Ends (.apertureRead r) s (fun t =>
      t.tir.decodeReads = satAdd 48 s.tir.decodeReads 1 ∧
      (∀ h, r.origin = .host h → hostUp s h = true →
        OutTo t h (.ans (dataAns r .dataOnce (emberLine s k e (r.line % 32768)).1 (emberLine s k e (r.line % 32768)).2))) ∧
      Frame homeReadComps s t)

/-- Memory changed in one line only: its data and poison are these, and every other byte reads as before. -/
def LineStored (s t : State) (line : Nat) (d : LineData) (pois : Nat) : Prop :=
  rdLine t line = d ∧ linePois t line = pois ∧ (∀ a, a / 128 ≠ line → memByte t a = memByte s a)

/-- What a request that writes memory may change. -/
def homeWriteComps : List Comp := [.mem, .memPois, .memKey, .pages, .cnt, .ras, .cas, .det, .lan, .eng, .hst, .hom, .mov, .tir, .lmp, .spn, .mps, .out]

/-- Writes of an Uncached line: a full write stores its data, a partial one the bytes that its mask enables, and WR_STASH its data with
an offer to a target that is honoured and finds a directory way, or a count of the one that is not. No other byte of memory changes. -/
def Obligations.HomeWrites : Prop :=
  ∀ (s : State) (r : HomeReq) (p : Nat), HomeQuiet s r p → dirOf s r.line = {} →
    Ends (.wrFull r) s (fun t => LineStored s t r.line r.data (r.poison % 256) ∧ dirOf t r.line = {} ∧ txnOf t r.line = none ∧
      (∀ h, r.origin = .host h → hostUp s h = true → OutTo t h (.ans (ansOf r .comp .ok 0 0))) ∧ Frame homeWriteComps s t) ∧
    Ends (.wrPart r) s (fun t =>
      LineStored s t r.line (mergeLine (rdLine s r.line) r.data r.mask) (mergePois (linePois s r.line) r.poison r.mask) ∧
      dirOf t r.line = {} ∧ txnOf t r.line = none ∧ Frame homeWriteComps s t) ∧
    (stashAgent s r = none ∨ stashAllowed s r = false → Ends (.wrStash r) s (fun t =>
      LineStored s t r.line r.data (r.poison % 256) ∧ txnOf t r.line = none ∧ t.hom.stashDropped = satAdd 32 s.hom.stashDropped 1 ∧
      Frame homeWriteComps s t)) ∧
    (∀ a, stashAgent s r = some a → stashAllowed s r = true → roomFor s r = .ok → Ends (.wrStash r) s (fun t =>
      LineStored s t r.line r.data (r.poison % 256) ∧ (∃ x, txnOf t r.line = some x ∧ x.kind = .stash a) ∧
      t.hom.stashDropped = s.hom.stashDropped ∧ Frame homeWriteComps s t))

/-- The requests, operations and formats of the atomic commands that work on elements independently. -/
def elemAtomic : Instr → Option (HomeReq × Nat × Nat)
  | .swap r f => some (r, 0, f % 16) | .cas r f => some (r, 1, f % 16) | .fetchAdd r f => some (r, 2, f % 16)
  | .fetchMin r f => some (r, 3, f % 16) | .fetchMax r f => some (r, 4, f % 16) | .fetchAnd r f => some (r, 5, f % 16)
  | .fetchOr r f => some (r, 6, f % 16) | .fetchXor r f => some (r, 7, f % 16) | .redAdd r f => some (r, 8, f % 16)
  | .redMin r f => some (r, 9, f % 16) | .redMax r f => some (r, 10, f % 16)
  | _ => none

/-- Atomics on an Uncached line that nothing refuses: every enabled element takes the value of the operation, no other byte changes,
and an operation that returns the prior values answers with the enabled bytes as they were. -/
def Claim.HomeAtomics : Prop :=
  ∀ (c : Instr) (s : State) (r : HomeReq) (op fmt p : Nat), elemAtomic c = some (r, op, fmt) → HomeQuiet s r p → dirOf s r.line = {} →
    aopRefused (16 * op + fmt) r.mask (linePois s r.line) = none → strictRefused s (16 * op + fmt) = false →
    Ends c s (fun t =>
      LineStored s t r.line (elemsOp op fmt (rdLine s r.line) r.data r.mask) (mergePois (linePois s r.line) r.poison r.mask) ∧
      dirOf t r.line = {} ∧ txnOf t r.line = none ∧
      (∀ h, r.origin = .host h → hostUp s h = true →
        (op ≤ 7 → OutTo t h (.ans (ansOf r .dataOnce .ok (maskedLine (rdLine s r.line) r.mask) 0))) ∧
        OutTo t h (.ans (ansOf r .comp .ok 0 0))) ∧
      Frame homeWriteComps s t)

/-- The value of one element: SWAP, CAS and the bitwise operations on any format, and sums, minima and maxima of the integer formats:
two's complement for the even ones, unsigned for the odd ones, sums modulo the width. -/
def Claim.AtomicValues : Prop :=
  ∀ (fmt a b c : Nat), fmt < 8 → a < 2 ^ (8 * fmtBytes fmt) → b < 2 ^ (8 * fmtBytes fmt) →
    elemOp 0 fmt a b c = b ∧ elemOp 1 fmt a b c = (if a = c then b else a) ∧ elemOp 5 fmt a b c = a &&& b ∧ elemOp 6 fmt a b c = a ||| b ∧
    elemOp 7 fmt a b c = a ^^^ b ∧ elemOp 2 fmt a b c = (a + b) % 2 ^ (8 * fmtBytes fmt) ∧ elemOp 8 fmt a b c = (a + b) % 2 ^ (8 * fmtBytes fmt) ∧
    (fmt % 2 = 1 → elemOp 3 fmt a b c = min a b ∧ elemOp 4 fmt a b c = max a b ∧ elemOp 9 fmt a b c = min a b ∧ elemOp 10 fmt a b c = max a b) ∧
    (fmt % 2 = 0 →
      elemOp 3 fmt a b c = (if toSigned (8 * fmtBytes fmt) a < toSigned (8 * fmtBytes fmt) b then a else b) ∧
      elemOp 4 fmt a b c = (if toSigned (8 * fmtBytes fmt) a < toSigned (8 * fmtBytes fmt) b then b else a))

/-- Locks: LOCK_ACQ and LOCK_REL of one UINT64 element leave in it the word that the rules of the lock give, change no other byte,
and answer the prior word with the status of the rules. -/
def Claim.HomeLocks : Prop :=
  ∀ (s : State) (r : HomeReq) (p e : Nat), HomeQuiet s r p → dirOf s r.line = {} → elems r.mask 8 = [e] →
    (aopRefused 0xC7 r.mask (linePois s r.line) = none → Ends (.lockAcq r 7) s (fun t =>
      LineStored s t r.line (setElem (rdLine s r.line) 8 e (lockOp true (elemAt (rdLine s r.line) 8 e) (elemAt r.data 8 e)).2)
        (linePois s r.line) ∧ txnOf t r.line = none ∧
      (∀ h, r.origin = .host h → hostUp s h = true →
        let st := (lockOp true (elemAt (rdLine s r.line) 8 e) (elemAt r.data 8 e)).1
        OutTo t h (.ans (ansOf r .dataOnce st (maskedLine (rdLine s r.line) r.mask) 0)) ∧ OutTo t h (.ans (ansOf r .comp st 0 0))) ∧
      Frame homeWriteComps s t)) ∧
    (aopRefused 0xD7 r.mask (linePois s r.line) = none → Ends (.lockRel r 7) s (fun t =>
      LineStored s t r.line (setElem (rdLine s r.line) 8 e (lockOp false (elemAt (rdLine s r.line) 8 e) (elemAt r.data 8 e)).2)
        (linePois s r.line) ∧ txnOf t r.line = none ∧
      (∀ h, r.origin = .host h → hostUp s h = true →
        let st := (lockOp false (elemAt (rdLine s r.line) 8 e) (elemAt r.data 8 e)).1
        OutTo t h (.ans (ansOf r .dataOnce st (maskedLine (rdLine s r.line) r.mask) 0)) ∧ OutTo t h (.ans (ansOf r .comp st 0 0))) ∧
      Frame homeWriteComps s t))

/-- The rules of a lock word: a free lock is taken with the tag of the requester, a held one is left to its owner (who is told so),
release by the owner frees it, and a word with reserved bits set, or a release by another, is refused and left alone. -/
def Claim.LockRules : Prop :=
  ∀ (prior opnd : Nat), prior < 2 ^ 64 → opnd < 2 ^ 64 →
    (prior / 2 % 2 ^ 15 ≠ 0 → ∀ acq, lockOp acq prior opnd = (.permission, prior)) ∧
    (prior / 2 % 2 ^ 15 = 0 → prior % 2 = 0 → lockOp true prior opnd = (.ok, 1 + opnd / 2 ^ 16 * 2 ^ 16)) ∧
    (prior / 2 % 2 ^ 15 = 0 → prior % 2 = 1 → prior / 2 ^ 16 = opnd / 2 ^ 16 → lockOp true prior opnd = (.selfHeld, prior)) ∧
    (prior / 2 % 2 ^ 15 = 0 → prior % 2 = 1 → prior / 2 ^ 16 ≠ opnd / 2 ^ 16 → lockOp true prior opnd = (.ok, prior)) ∧
    (prior / 2 % 2 ^ 15 = 0 → prior % 2 = 1 → prior / 2 ^ 16 = opnd / 2 ^ 16 → lockOp false prior opnd = (.ok, 0)) ∧
    (prior / 2 % 2 ^ 15 = 0 → prior % 2 = 0 ∨ prior / 2 ^ 16 ≠ opnd / 2 ^ 16 → lockOp false prior opnd = (.permission, prior))

/-- A read of a line after a write of it gives what was written, and every other line reads as before. -/
def Obligations.ReadAfterWrite : Prop :=
  ∀ (s : State) (line l : Nat) (d : LineData) (pois : Nat),
    rdLine (wrLine s line d pois) line = d ∧ linePois (wrLine s line d pois) line = pois % 256 ∧
    (l ≠ line → rdLine (wrLine s line d pois) l = rdLine s l ∧ linePois (wrLine s line d pois) l = linePois s l) ∧
    (MemOk s → MemOk (wrLine s line d pois))

/-- A fence record at a quiet home, with nothing poisoned: a signal ahead of VALUE becomes the new VALUE, one behind it leaves VALUE and
is answered REGRESSIVE, and an equal one changes nothing. -/
def Claim.FenceSignals : Prop :=
  ∀ (s : State) (r : HomeReq) (p e : Nat), HomeQuiet s r p → dirOf s r.line = {} → elems r.mask 8 = [e] → e % 64 = 0 →
    aopRefused 0xE7 r.mask (linePois s r.line) = none → bytesPois s (r.line * 128 + e) 16 = false → recKind s (r.line * 128 + e) = 0 →
    let a := r.line * 128 + e
    let v := w64 (elemAt r.data 8 e)
    (0 < (v - recValue s a).toNat → (v - recValue s a).toNat < 2 ^ 63 → Ends (.fenceSig r 7) s (fun t =>
      recValue t a = v ∧ t.fnc.advTotal = satAdd 48 s.fnc.advTotal 1 ∧ (∀ b, b / 128 ≠ r.line → memByte t b = memByte s b))) ∧
    (2 ^ 63 ≤ (v - recValue s a).toNat → Ends (.fenceSig r 7) s (fun t =>
      recValue t a = recValue s a ∧ t.fnc.regressTotal = satAdd 32 s.fnc.regressTotal 1 ∧
      (∀ h, r.origin = .host h → hostUp s h = true → OutTo t h (.ans (ansOf r .comp .regressive 0 0))) ∧
      (∀ b, b / 128 ≠ r.line → memByte t b = memByte s b))) ∧
    (v = recValue s a → Ends (.fenceSig r 7) s (fun t => recValue t a = v ∧ t.fnc = s.fnc ∧ t.mem = s.mem))

/-- The operand word of a barrier operation, with its DROP bit as the command says. -/
def barWord (r : HomeReq) (drop : Bool) (e : Nat) : Word := w64 (elemAt (barrierReq r drop).data 8 e)

/-- Barrier operations on a bound record at a quiet home: an arrival or a drop of lanes that the barrier takes leaves it as the
pseudocode gives it, and when no lane is pending any more it is released: the generation advances and PENDING is LIVE again. -/
def Claim.Barriers : Prop :=
  ∀ (s : State) (r : HomeReq) (p e i : Nat) (b b' : Bar) (drop : Bool), HomeQuiet s r p → dirOf s r.line = {} → elems r.mask 8 = [e] →
    e % 64 = 8 → aopRefused 0xE7 r.mask (linePois s r.line) = none → r.ctx.isSome = true →
    let a := r.line * 128 + e / 64 * 64
    let w := barWord r drop e
    bytesPois s a 64 = false → fld w 20 0 ≠ 0 → fld w 47 35 = 0 → bitOf (rdWord s a) 0 = true → recKind s a = 1 → barAt s a = some (i, b) →
    barApply s b (fld w 20 0) drop (fld w 63 48) (if bitOf w 22 then none else some (fld w 34 23)) = .ok b' → b'.relEn = false →
    Ends (if drop then .barrierLaneDrop r else .barrierArrival r) s (fun t =>
      (b'.pending ≠ 0 → tget t.fnc.bars i = some b') ∧
      (b'.pending = 0 → b'.live ≠ 0 → ∃ x, tget t.fnc.bars i = some x ∧ x.gen = b'.gen + 1 ∧ x.pending = b'.live ∧ x.live = b'.live ∧
        x.due = none) ∧
      (b'.pending = 0 → b'.live = 0 → tget t.fnc.bars i = none))

/-- Ordered reductions: a contribution in time to a session stands in the store of its line and window and changes no memory, one with no
byte enabled changes nothing at all, and one that comes after the combine began is late, as the session's record then shows; at the
end of the grace a line that is short is combined into memory; and when a window is done its count goes up. -/
def Claim.OrderedReductions : Prop :=
  (∀ (s : State) (r : HomeReq) (fmt nd k i : Nat) (q : Session), live s = true → r.line < npaLines → s.ras.rebal = [] →
    homeHere s r.line = true → r.contrib = some (nd, k, i) → tget s.hom.sessions k = some q → fmt % 16 = q.fmt → elemMask (fmtBytes q.fmt) (elems r.mask (fmtBytes q.fmt)) = r.mask →
    i < q.n → 1 < q.n → q.target ≤ r.line → r.line < q.target + q.lines → s.hom.redLines = [] → (∀ u, u ∈ s.inUse → u.1 < uRed) →
    elems r.mask (fmtBytes q.fmt) ≠ [] → btDue s (winEndOf q.winLen r.stamp + q.grace) = false → Ends (.redOrd r fmt) s (fun t =>
      ∃ l, redLineOf t k r.line (winEndOf q.winLen r.stamp) = some l ∧ l.contrib = [(i, r.data, r.mask)] ∧ l.done = false ∧ t.mem = s.mem ∧
        (∀ h, r.origin = .host h → hostUp s h = true → OutTo t h (.ans (ansOf r .comp .ok 0 0))))) ∧
  (∀ (s : State) (r : HomeReq) (fmt nd k i : Nat) (q : Session), live s = true → r.line < npaLines → s.ras.rebal = [] →
    homeHere s r.line = true → r.contrib = some (nd, k, i) → tget s.hom.sessions k = some q → fmt % 16 = q.fmt →
    elemMask (fmtBytes q.fmt) (elems r.mask (fmtBytes q.fmt)) = r.mask → i < q.n → q.target ≤ r.line → r.line < q.target + q.lines →
    (elems r.mask (fmtBytes q.fmt) = [] → Ends (.redOrd r fmt) s (fun t => t.hom.redLines = s.hom.redLines ∧ t.hom.sessions = s.hom.sessions ∧
      t.mem = s.mem ∧ (∀ h, r.origin = .host h → hostUp s h = true → OutTo t h (.ans (ansOf r .comp .ok 0 0))))) ∧
    (∀ l, elems r.mask (fmtBytes q.fmt) ≠ [] → redLineOf s k r.line (winEndOf q.winLen r.stamp) = some l → l.done = true → q.recNpa % 64 = 0 →
      Ends (.redOrd r fmt) s (fun t => t.hom.redLines = s.hom.redLines ∧ tget t.hom.sessions k = some { q with late := satAdd 32 q.late 1 } ∧
        (lineIdle s (q.recNpa / 128) = true → rdWord t (q.recNpa + 48) = pack [(0, satAdd 32 q.late 1), (32, q.refused)]) ∧
        (∀ h, r.origin = .host h → hostUp s h = true → OutTo t h (.ans (ansOf r .comp .timeout 0 0)))))) ∧
  (∀ (s : State) (k line e : Nat) (l : RedLine) (q : Session) (p : Nat), HomeQuiet s { line := line } p → dirOf s line = {} →
    s.hom.redLines = [l] → l.sess = k → l.line = line → l.win = e → l.done = false → l.perf = false → tget s.hom.sessions k = some q →
    btDue s (e + q.grace) = true → Ends (.reductionGraceExpire k line e) s (fun t =>
      rdLine t line = combineLine q (rdLine s line) l.contrib ∧ (∀ a, a / 128 ≠ line → memByte t a = memByte s a))) ∧
  (∀ (s : State) (k e : Nat) (q : Session), tget s.hom.sessions k = some q → winReady s k e = true → q.recNpa % 64 = 0 → q.fEn = false →
    Ends (.reductionWindowDone k e) s (fun t =>
      tget t.hom.sessions k = some { q with combinedWin := q.combinedWin + 1 } ∧ (∀ w, w ∈ t.hom.redWins → ¬ (w.sess = k ∧ w.win = e)) ∧
      (lineIdle s (q.recNpa / 128) = true → rdWord t (q.recNpa + 32) = w64 (q.combinedWin + 1)) ∧
      (lineIdle s (q.recNpa / 128) = false → t.mem = s.mem) ∧ t.out = s.out))

/-- The end of a grant and of what holds a line: the ACK sets the entry that was granted and frees the line, a win starts a Wick hold,
and a hold that ends leaves nothing behind. -/
def Claim.GrantsEnd : Prop :=
  ∀ (s : State) (line : Nat), live s = true → homeHere s line = true → s.hom.waiters = [] → s.hom.setWait = [] →
    (∀ x r a tag, txnOf s line = some x → grantSent s a tag line = true → x.ackFrom = some (a, tag) → x.req = some r → x.grant ≠ .unc → Ends (.ack a tag line) s (fun t =>
      dirOf t line = grantEntry (dirOf s line) x.grant r ∧ txnOf t line = none ∧ (x.win = true → wickOn t line (holderNo r) = true) ∧
      (∀ l, l ≠ line → dirOf t l = dirOf s l ∧ txnOf t l = txnOf s l) ∧ Frame [.eng, .hst, .hom] s t)) ∧
    (∀ x a tag, txnOf s line = some x → x.ackFrom ≠ some (a, tag) ∨ grantSent s a tag line = false → Ends (.ack a tag line) s (fun t =>
      t.hom = { s.hom with protoErr := satAdd 32 s.hom.protoErr 1 } ∧ bitOf (page t pHOM).irqRaw 1 = true)) ∧
    (∀ w e, tget s.hom.wick line = (w, e) → w ≠ 0 → txnOf s line = none → Ends (.wickHoldEnd line) s (fun t =>
      tget t.hom.wick line = (0, 0) ∧ t.clk.cyc = max s.clk.cyc e ∧ Frame [.clk, .hom] s t)) ∧
    (∀ a, stashOffered s a line = true → Ends (.stashAccept a line) s (fun t =>
      dirOf t line = { st := .owned a } ∧ txnOf t line = none ∧ wickOn t line a = true ∧ t.hom.stashTotal = satAdd 32 s.hom.stashTotal 1 ∧
      Frame [.cnt, .eng, .hst, .hom] s t)) ∧
    (∀ a, stashOffered s a line = true → Ends (.stashDecline a line) s (fun t =>
      dirOf t line = {} ∧ txnOf t line = none ∧ t.hom.stashDropped = satAdd 32 s.hom.stashDropped 1 ∧
      Frame [.pages, .cnt, .eng, .hst, .hom, .out] s t))

/-- Evictions of a listed holder while the line is not Blocked: it is listed no more, its COMP leaves, and the data of a dirty one is in
memory. One that no entry lists is a protocol error and writes nothing. -/
def Claim.Evictions : Prop :=
  ∀ (s : State) (a tag line : Nat) (d : LineData) (pois : Nat), live s = true → homeHere s line = true →
    s.hom.waiters = [] → s.hom.setWait = [] → txnOf s line = none →
    ((holders (dirOf s line)).contains a = true →
      Ends (.evictClean a tag line) s (fun t =>
        dirOf t line = (if (dropHolder (dirOf s line) a).st = .unc then {} else dropHolder (dirOf s line) a) ∧
        (∀ l, l ≠ line → dirOf t l = dirOf s l) ∧ t.mem = s.mem ∧ Frame [.cas, .eng, .hst, .hom, .out] s t) ∧
      Ends (.evictDirty a tag line d pois) s (fun t =>
        dirOf t line = (if (dropHolder (dirOf s line) a).st = .unc then {} else dropHolder (dirOf s line) a) ∧
        LineStored s t line d (pois % 256) ∧ Frame [.mem, .memPois, .memKey, .cnt, .cas, .eng, .hst, .hom, .mps, .out] s t)) ∧
    ((holders (dirOf s line)).contains a = false →
      Ends (.evictDirty a tag line d pois) s (fun t => t.mem = s.mem ∧ t.hom = { s.hom with protoErr := satAdd 32 s.hom.protoErr 1 }))

/-- Answers to snoops: one answer of several is noted, data that comes with a dirty answer is kept, the last answer lets a full write
reach memory, and an agent that never answers is treated as holding nothing, with the line it owned poisoned. -/
def Claim.SnoopAnswers : Prop :=
  ∀ (s : State) (line a : Nat) (x : Txn), live s = true → homeHere s line = true → s.hom.waiters = [] → s.hom.setWait = [] →
    txnOf s line = some x → x.kind ≠ .lost → x.status = .ok → (∃ y, y ∈ x.await ∧ y.1 = a) →
    (∀ b, b ∈ x.await → b.1 = a → b.2.1 = .inv) →
    (x.await.filter (fun y => y.1 != a) ≠ [] → Ends (.snpRsp a line true false {}) s (fun t =>
      txnOf t line = some { x with await := x.await.filter (fun y => y.1 != a) } ∧ Frame [.eng, .hst, .hom] s t)) ∧
    (∀ r, x.await.filter (fun y => y.1 != a) = [] → x.later = [] → x.need = [] → x.ackFrom = none → x.kind = .serve → x.req = some r →
      r.op = .wrFull → Ends (.snpRsp a line true false {}) s (fun t =>
        LineStored s t line r.data (r.poison % 256) ∧ dirOf t line = {} ∧ txnOf t line = none)) ∧
    (∀ d pois r, x.req = some r → r.op ≠ .rdShared → Ends (.snpData a line d pois { dirty := true }) s (fun t =>
      txnOf t line = some { x with data := some d, dirty := true, poison := pois, need := x.need.filter (fun y => y != a), got := x.got ++ [a] } ∧
      t.mem = s.mem ∧ Frame [.eng, .hst, .hom] s t)) ∧
    (x.await.filter (fun y => y.1 != a) ≠ [] → agentPage s a = none → x.kind = .serve → x.old = .owned a → a < 64 → (dirOf s line).remote = [] → Ends (.snoopTimeout a line) s (fun t =>
      linePois t line = 0xFF ∧ t.hom.snoopTimeout = satAdd 32 s.hom.snoopTimeout 1 ∧ bitOf (page t pHOM).irqRaw 0 = true ∧
      (∃ y, txnOf t line = some y ∧ y.await = x.await.filter (fun z => z.1 != a) ∧ y.old = .unc)))

/-! ## Waits and barriers -/

/-- The command of a queue has ended with a status. -/
def EndedAs (t : State) (q seq : Nat) (st : Status) : Prop := ∃ c, cmdOf t q seq = some c ∧ c.st = .retire ∧ c.status = st

/-- A wait is over: its slot is free, and a command that waited has ended with the status. -/
def WaitOver (s t : State) (i : Nat) (w : Watch) (st : Status) : Prop :=
  watchOf t i = none ∧
  ∀ q n c, w.cmd = some (q, n) → w.host = none → cmdOf s q n = some c → c.st ≠ .retire → EndedAs t q n st

/-- The ARM of a watch slot takes VALUE and KIND of its record and sets the block's bit in WATCH_MASK, when no cache holds the record; until
then it is taken again in the next event tick (the model's choice, log entry 28). Its answer ends a wait whose target is met, and arms one
whose target is not. -/
def Claim.FenceArms : Prop :=
  (∀ (s : State) (i : Nat) (w : Watch), watchOf s i = some w → w.armed = false → w.poll = false → w.armVal = none → w.npa % 64 = 0 →
    s.cas.pos < 8 → recKind s w.npa = 0 → recReady s kObj (w.npa / 128) = true → Ends (.fenceArm i) s (fun t =>
      watchOf t i = some { w with armed := true, armVal := some (recValue s w.npa, 0) } ∧ bitOf (rdWord t (w.npa + 48)) s.cas.pos = true ∧
      recValue t w.npa = recValue s w.npa ∧ (∀ j, j ≠ i → watchOf t j = watchOf s j) ∧ Frame [.fnc, .mem, .memPois, .memKey] s t)) ∧
  (∀ (s : State) (i : Nat) (w : Watch), watchOf s i = some w → w.armed = false → w.poll = false → w.armVal = none →
    recReady s kObj (w.npa / 128) = false → Ends (.fenceArm i) s (fun t => .fenceArm i ∈ t.sampled)) ∧
  (∀ (s : State) (i : Nat) (w : Watch) (v : Word) (k : Nat), watchOf s i = some w → w.armVal = some (v, k) →
    (k = 0 → satisfied v w.target = true → Ends (.fenceArmResult i) s (fun t => WaitOver s t i w .ok)) ∧
    (k = 0 → satisfied v w.target = false → Ends (.fenceArmResult i) s (fun t =>
      watchOf t i = some { w with armVal := none } ∧ Frame [.fnc] s t)) ∧
    (k ≠ 0 → Ends (.fenceArmResult i) s (fun t => WaitOver s t i w .permission)))

/-- Notifications, polls and deadlines of waits: a notification ends every armed wait on its record whose target it meets; a poll ends
a wait whose target VALUE meets, and else names the next poll, or first asks for a record that a cache owns (the model's choice, log entry
28); a deadline that has come ends the wait with TIMEOUT. -/
def Claim.FenceWaits : Prop :=
  (∀ (s : State) (a : Nat) (v : Word) (l : List (Nat × Word)), s.fnc.notes = (a, v) :: l → Ends .fenceNotification s (fun t =>
    t.fnc.notes = l ∧ ∀ i w, (i, w) ∈ tsome s.fnc.watches → w.armed = true → w.npa = a → satisfied v w.target = true → watchOf t i = none)) ∧
  (∀ (s : State) (i : Nat) (w : Watch), watchOf s i = some w → w.poll = true → w.remote = false → btDue s w.nextPoll.toNat = true →
    recKind s w.npa = 0 → lineCurrent s kObj (w.npa / 128) = true →
    (satisfied (recValue s w.npa) w.target = true → Ends (.fencePoll i) s (fun t => watchOf t i = none)) ∧
    (satisfied (recValue s w.npa) w.target = false → Ends (.fencePoll i) s (fun t =>
      watchOf t i = some { w with nextPoll := s.bcn.count + w64 (pollBt s) } ∧ Frame [.fnc, .hom] s t))) ∧
  (∀ (s : State) (i : Nat) (w : Watch), watchOf s i = some w → w.poll = true → w.remote = false → btDue s w.nextPoll.toNat = true →
    lineCurrent s kObj (w.npa / 128) = false → Ends (.fencePoll i) s (fun t => t = ownAsk s kObj (w.npa / 128))) ∧
  (∀ (s : State) (i : Nat) (w : Watch) (d : Word), watchOf s i = some w → w.due = some d → btDue s d.toNat = true → w.armVal = none →
    s.fnc.notes = [] → Ends (.fenceWaitTimeout i) s (fun t => watchOf t i = none ∧ (w.lose = false → WaitOver s t i w .timeout)))

/-- Ends of barriers: a generation whose deadline passes with lanes pending is abandoned and unbound, and the registrations of an owner
that ended are dropped with the lanes that had not arrived. Both wait while a cache holds the record (the model's choice, log entry 28). -/
def Claim.BarrierEnds : Prop :=
  (∀ (s : State) (i : Nat) (b : Bar) (d : Word), tget s.fnc.bars i = some b → b.due = some d → btDue s d.toNat = true → b.pending ≠ 0 →
    recReady s kObj (b.npa / 128) = true → Ends (.barrierDeadline i) s (fun t => tget t.fnc.bars i = none ∧ (∀ j, j ≠ i → tget t.fnc.bars j = tget s.fnc.bars j) ∧
      t.fnc.abandonTotal = satAdd 32 s.fnc.abandonTotal 1 ∧ bitOf (page t pFNC).irqRaw 1 = true)) ∧
  (∀ (s : State) (i c : Nat) (b : Bar) (r : Reg), s.fnc.drops = [(c, none)] → s.fnc.bars = [(i, some b)] → b.lossAb = false → b.regs = [r] →
    r.ctx = c → sub21 b.pending (sub21 r.reg r.arr) ≠ 0 → recReady s kObj (b.npa / 128) = true → Ends .registrationDrop s (fun t =>
      t.fnc.drops = [] ∧
      tget t.fnc.bars i = some { b with pending := sub21 b.pending (sub21 r.reg r.arr), live := sub21 b.live r.reg, regs := [] } ∧
      Frame [.fnc] s t)) ∧
  (∀ (s : State) (i : Nat) (b : Bar), tget s.fnc.bars i = some b → recReady s kObj (b.npa / 128) = false →
    Ends (.barrierDeadline i) s (fun t => .barrierDeadline i ∈ t.sampled))

/-! ## Cascade and span -/

/-- The block once a cascade port is down. -/
def portOff (s : State) (port : Nat) (x : CasPeer) : State := { s with cas := { s.cas with peers := tset s.cas.peers port (some { x with up := false }) } }

/-- Messages of other blocks and lost ports: a message for another position goes on toward it with its bytes counted, one for this block
takes effect here, and a port that goes down serves no route. Credits that come back to a station are held. -/
def Claim.CascadePorts : Prop :=
  (∀ (s : State) (port : Nat) (m : CasMsg), s.cas.st = 2 → 2 ≤ s.boot.stage → m.dst ≠ s.cas.pos → m.hop2 = false → port < 4 →
    Ends (.cascadeForward port m) s (fun t =>
      t.cas.fwdBytes = satAdd 48 s.cas.fwdBytes m.bytes ∧ t.cas.routes = s.cas.routes ∧
      (∀ q, casPort s m.dst = some q → .cas q { m with hop2 := true } ∈ t.out ∨ { m with hop2 := true } ∈ t.cas.pools) ∧
      Frame [.cnt, .cas, .out] s t)) ∧
  (∀ (s : State) (port : Nat) (m : CasMsg), 2 ≤ s.boot.stage → m.dst = s.cas.pos → port < 4 →
    Ends (.cascadeForward port m) s (fun t => t = loadHere s m.src m.load ∧
      (∀ a tag, m.load = .wbComp a tag → t = emit s (.wbComp a tag)) ∧
      (∀ node x, m.load = .span node x → (∀ b k a st d p, x ≠ .rsp b k a st d p) → t = toNode s node x) ∧
      (∀ v, m.load = .detMode v → t = detModePut s v))) ∧
  (∀ (s : State) (port : Nat) (x : CasPeer), tget s.cas.peers port = some x → x.up = true → s.cas.outst = [] →
    (∀ n, n < blocks s → n ≠ s.cas.pos → (casRoute (portOff s port x) n).testBit 3 = true) → Ends (.cascadePortDown port) s (fun t =>
    tget t.cas.peers port = some { x with up := false } ∧ (s.cas.st = 2 → t.cas.routes = casRoutes t) ∧ bitOf (page t pCAS).irqRaw 2 = true ∧
    Frame [.pages, .cnt, .cas, .hst, .out] s t)) ∧
  (∀ (s : State) (p : Nat) (v : Word), isStation p = true → (linkOf s p).st = 2 → (linkOf s p).waiting = [] →
    Ends (.flitCreditReturn p 0 { credits := v }) s (fun t =>
      (∀ c, c < 6 → tget (linkOf t p).held c = tget (linkOf s p).held c + fld v (8 * c + 7) (8 * c)) ∧ t.out = s.out ∧ Frame [.eng, .hst] s t))

/-- NODE_ID and the memory ranges: the node ID is taken by the master while no span of the cascade is active, and a range while the cascade is not
formed, if its conditions hold; else nothing changes and LAST reads PERMISSION. -/
def Claim.CascadeRegisters : Prop :=
  (∀ (s : State) (a : Acc) (v : Word), UnitAdmits s a pCAS 0x210 →
    (s.cas.master = true → s.spn.st ≠ .active → s.spn.stations = [] → Ends (.nodeIdWrite a v) s (fun t =>
      t.cas.nodeId = v &&& mask 16 0 ∧ ((∀ b, b < blocks s → b = s.cas.pos) → t.cas = { s.cas with nodeId := v &&& mask 16 0 }) ∧ (page t pCAS).last = .ok ∧ Frame [.pages, .mbx, .cnt, .cas, .hst, .spn, .out] s t)) ∧
    (s.cas.master = false → Ends (.nodeIdWrite a v) s (fun t =>
      t.cas = s.cas ∧ (page t pCAS).last = .permission ∧ Frame [.pages, .mbx, .cnt, .hst, .out] s t))) ∧
  (∀ (s : State) (a : Acc) (v : Word), UnitAdmits s a pCAS 0x230 →
    (s.cas.st ≠ 2 → Ends (.memRangeWrite a 0x230 v) s (fun t =>
      t.cas = { s.cas with ranges := tset s.cas.ranges s.cas.memSel { tget s.cas.ranges s.cas.memSel with base := v &&& mask 45 22 } } ∧
      Answered t a.st .ok [] ∧ Frame [.pages, .mbx, .cnt, .cas, .hst, .out] s t)) ∧
    (s.cas.st = 2 → Ends (.memRangeWrite a 0x230 v) s (fun t => t.cas = s.cas ∧ (page t pCAS).last = .permission)))

/-- The first steps of training: the lanes of every usable group lock and HELLO is sent at their width; a HELLO of a supported version
brings AUTH with the partner's node and the smaller width; a good certificate is noted, and a bad one quarantines the link. -/
def Claim.SpanTraining : Prop :=
  (∀ (s : State) (lanes : Nat), s.spn.st = .lock → (groupsLeft s).take (s.spn.maxWidth / 8) ≠ [] →
    ((groupsLeft s).take (s.spn.maxWidth / 8)).all (groupLocked (updSpn s (fun n => { n with locked := n.locked ||| lanes % 2 ^ 32 }))) = true →
    Ends (.laneLock lanes false) s (fun t =>
      t.spn.st = .hello ∧ t.spn.width ≠ 0 ∧ t.spn.stateEnd = s.bcn.count + 100 ∧ Frame [.spn, .out] s t)) ∧
  (∀ (s : State) (lane : Nat) (m : Marker), m.epoch ≠ 0 → s.spn.st = .lock → Ends (.markerReceive lane m) s (fun t =>
    t.spn = { s.spn with locked := s.spn.locked &&& (2 ^ 32 - 1 - 2 ^ (lane % 32)) } ∧ Frame [.spn] s t)) ∧
  (∀ (s : State) (h : Hello), s.spn.st = .hello →
    (h.lo ≤ 1 → 1 ≤ h.hi → min s.spn.width (h.width / 8 * 8) ≠ 0 → Ends (.hello h) s (fun t =>
      t.spn.st = .auth ∧ t.spn.version = 1 ∧ t.spn.partner = h.node % 65536 ∧ t.spn.width = min s.spn.width (h.width / 8 * 8) ∧
      t.spn.chainOk = false ∧ t.spn.keyxSeen = false ∧ t.spn.stateEnd = s.bcn.count + 20000 ∧ Frame [.spn, .out] s t)) ∧
    (h.hi < 1 → Ends (.hello h) s (fun t => t.spn.st = .backoff ∧ t.spn.nover = true ∧ Frame [.spn] s t))) ∧
  (∀ (s : State) (v : List Cert), s.spn.st = .auth → s.spn.quar = false →
    (chainOk s.fuses v = true → Ends (.cert v) s (fun t => t.spn = { s.spn with chainOk := true } ∧ Frame [.spn] s t)) ∧
    (chainOk s.fuses v = false → Ends (.cert v) s (fun t => t.spn.quar = true ∧ t.spn.qcause = 1)))

/-- The rest of training: KEYX is kept and answered with FINISH, a good FINISH starts new sequences in CAL, calibration requests are
answered with their hold time and made in turn, and bounds that pass lead to a back-off, after which training starts again from LOCK. -/
def Claim.SpanKeys : Prop :=
  ∀ s : State, s.spn.quar = false →
    (∀ a b, s.spn.st = .auth → Ends (.keyx a b) s (fun t =>
      t.spn = { s.spn with keyxSeen := true, keys := keysOf s a b } ∧ t.out = s.out ++ [.span (.link 0x03 [])] ∧ Frame [.free, .spn, .out] s t)) ∧
    (s.spn.st = .auth → s.spn.chainOk = true → s.spn.keyxSeen = true → Ends (.finish true) s (fun t =>
      t.spn.st = .cal ∧ t.spn.txSeq = 0 ∧ t.spn.rxSeq = 0 ∧ t.spn.stateEnd = s.bcn.count + 100 ∧ Frame [.spn] s t)) ∧
    (s.spn.st = .auth → Ends (.finish false) s (fun t => t.spn.quar = true ∧ t.spn.qcause = 1)) ∧
    (∀ h, s.spn.st = .cal ∨ s.spn.st = .active → Ends (.calReq h) s (fun t =>
      t = { s with out := s.out ++ [.span (.link 0x23 [w64 h])] })) ∧
    (∀ x, s.spn.st = .cal → s.spn.calT1 = none → Ends (.calTimer x) s (fun t =>
      t.spn = { s.spn with calT1 := some x } ∧ t.out = s.out ++ [.span (.link 0x22 [])] ∧ Frame [.spn, .out] s t)) ∧
    (∀ h t4 t1, s.spn.st = .active → s.spn.calT1 = some t1 → Ends (.calRsp h t4) s (fun t =>
      t.spn = { s.spn with bcnCal := ((((t4 : Int) - t1 - h) / 2 + bcnAsym s) % 2 ^ 32).toNat, calT1 := none } ∧
      bitOf (page t pSPN).irqRaw 5 = true ∧ Frame [.pages, .cnt, .hst, .spn, .out] s t)) ∧
    (∀ h t4 t1, s.spn.st = .cal → s.spn.calT1 = some t1 → Ends (.calRsp h t4) s (fun t => t.spn.st = .active ∧ t.spn.backoff = 0)) ∧
    (s.spn.st = .hello → btDue s s.spn.stateEnd.toNat = true → Ends .trainingTimeout s (fun t =>
      t.spn.st = .backoff ∧ t.spn.width = 0 ∧
      t.spn.stateEnd = s.bcn.count + w64 (if s.spn.backoff = 0 then 1024 else s.spn.backoff) ∧
      t.spn.backoff = min (2 * (if s.spn.backoff = 0 then 1024 else s.spn.backoff)) 1048576 ∧ Frame [.spn] s t)) ∧
    (s.spn.st = .auth → btDue s s.spn.stateEnd.toNat = true → Ends .trainingTimeout s (fun t => t.spn.quar = true ∧ t.spn.qcause = 1)) ∧
    (s.spn.st = .backoff → btDue s s.spn.stateEnd.toNat = true → mayTrain s = true → Ends .backoffExpire s (fun t =>
      t.spn.st = .lock ∧ t.spn.stateEnd = s.bcn.count + 1000 ∧ t.spn.width = 0 ∧ Frame [.spn] s t))

/-- Flits: a good one moves the receive sequence on, a bad one asks for a replay, until which others are
discarded, and a false tag quarantines the link. A codeword that
was corrected or that cannot be is counted. An ACK frees what it names, a NAK sends it again, and CREDIT gives credits by class. -/
def Claim.SpanFlits : Prop :=
  ∀ s : State, s.spn.st = .active → s.spn.quar = false →
    (∀ f, flitCrcOk f = true → flitTagOk s f = true → (s.spn.rxSeq + 1) % 256 ≠ 0 →
      Ends (.flitReceive [] f []) s (fun t =>
        t.spn = { s.spn with rxSeq := s.spn.rxSeq + 1, discard := false } ∧ Frame [.spn] s t) ∧
      (∀ c, rsDecode c.2 = none → Ends (.flitReceive [c] f []) s (fun t =>
        t.spn.fecUncorr = satAdd 32 s.spn.fecUncorr 1 ∧
        tget t.spn.groupUncorr (c.1 / 8 % 4) = tget s.spn.groupUncorr (c.1 / 8 % 4) + 1 ∧ t.spn.fecCorr = s.spn.fecCorr ∧ Frame [.spn, .cnt] s t)) ∧
      (∀ c d n, rsDecode c.2 = some (d, n + 1) → Ends (.flitReceive [c] f []) s (fun t =>
        t.spn.fecCorr = satAdd 48 s.spn.fecCorr 1 ∧ t.spn.fecUncorr = s.spn.fecUncorr ∧
        (∃ r, t.ras.log.head? = some r ∧ r.cls = .ce ∧ r.page = pSPN)))) ∧
    (∀ f l, flitCrcOk f = false → fld s.spn.faultCfg 15 0 = 65535 → s.spn.replayWin < 65535 →
      Ends (.flitReceive [] f l) s (fun t =>
      t.spn.discard = true ∧ t.spn.rxSeq = s.spn.rxSeq ∧ t.spn.replayTotal = satAdd 32 s.spn.replayTotal 1 ∧
      t.out = s.out ++ [.span (.link 0x11 [w64 s.spn.rxSeq])] ∧ Frame [.spn, .cnt, .out] s t)) ∧
    (∀ f l, flitCrcOk f = true → flitTagOk s f = false →
      (s.spn.discard = false → Ends (.flitReceive [] f l) s (fun t => t.spn.quar = true ∧ t.spn.qcause = 2)) ∧
      (s.spn.discard = true → Ends (.flitReceive [] f l) s (fun t => t = s))) ∧
    (∀ n, n < s.spn.txSeq → s.spn.waiting = [] → Ends (.spanAck n) s (fun t =>
      t.spn.ackedTo = max s.spn.ackedTo (n + 1) ∧ t.spn.replay = s.spn.replay.filter (fun x => decide (n < x.1)) ∧ Frame [.spn] s t)) ∧
    (∀ n, n < s.spn.txSeq → fld s.spn.faultCfg 15 0 = 65535 → s.spn.replayWin < 65535 → Ends (.spanNak n) s (fun t =>
      t.out = s.out ++ (s.spn.replay.filter (fun x => decide (n ≤ x.1))).map (fun x => .span x.2) ∧
      t.spn.replayTotal = satAdd 32 s.spn.replayTotal 1 ∧ t.spn.replay = s.spn.replay ∧ Frame [.spn, .cnt, .out] s t)) ∧
    (∀ v, s.spn.waiting = [] → Ends (.spanCredit v) s (fun t =>
      (∀ c, c < 6 → tget t.spn.credits c = tget s.spn.credits c + fld v (8 * c + 7) (8 * c)) ∧ t.spn.replay = s.spn.replay ∧ Frame [.spn] s t))

/-- The Cricket and the beacon of an active link: a Cricket clears the missed periods, its timer sends one and judges the period, enough
missed periods retrain the link, and a beacon message after another schedules a pulse. A quarantine notice changes no register. -/
def Claim.SpanAlive : Prop :=
  ∀ s : State, s.spn.st = .active →
    (∀ c n, n ≤ s.spn.txSeq → Ends (.cricket c n) s (fun t =>
      t.spn = { s.spn with cricketSeen := true, cricketMiss := 0, cricketCount := c } ∧ Frame [.spn] s t)) ∧
    (btDue s s.spn.cricketNext.toNat = true → Ends .cricketTimer s (fun t =>
      t.spn.cricketMiss = (if s.spn.cricketSeen = true then 0 else s.spn.cricketMiss + 1) ∧ t.spn.cricketSeen = false ∧
      t.spn.cricketNext = s.bcn.count + w64 (cricketBt s) ∧ t.out = s.out ++ [.span (.link 0x20 [s.bcn.count, w64 s.spn.rxSeq])] ∧
      Frame [.spn, .out] s t)) ∧
    (cricketMax s ≤ s.spn.cricketMiss → Ends .cricketLoss s (fun t =>
      t.spn.st ≠ .active ∧ bitOf (page t pSPN).irqRaw 1 = true)) ∧
    (s.spn.cricketMiss < cricketMax s → Ends .cricketLoss s (fun t => t = s)) ∧
    (∀ w a b t0 l, s.spn.quar = false → s.spn.bcnTicks = t0 :: l → Ends (.beacon w a b) s (fun t =>
      t.spn.bcnTicks.head? = some (b - s.spn.bcnCal - a) ∧
      (∃ k y, t.spn.bcnOut = some (w.next + w64 k, w.uncertain, y) ∧ s.clk.cyc ≤ y) ∧ Frame [.spn] s t)) ∧
    Ends .quarNotice s (fun t => t = s)

/-- The registers of the span station: TRAIN_EN at 0 takes the link DOWN, QUAR_RELEASE lets a quarantined link train again, and a route
entry whose old requests have ended takes its new value. -/
def Claim.SpanRegisters : Prop :=
  (∀ (s : State) (a : Acc) (v : Word), UnitAdmits s a pSPN 0x200 →
    (bitOf v 0 = false → Ends (.trainEnWrite a v) s (fun t =>
      bitOf t.spn.cfg 0 = false ∧ t.spn.st = .down ∧ t.spn.width = 0 ∧ t.mem = s.mem)) ∧
    (bitOf v 0 = true → bitOf s.spn.cfg 0 = true → Ends (.trainEnWrite a v) s (fun t =>
      t.spn = { s.spn with cfg := v &&& 1 } ∧ Answered t a.st .ok [] ∧ Frame [.pages, .mbx, .cnt, .hst, .spn, .out] s t))) ∧
  (∀ (s : State) (a : Acc) (v : Word), UnitAdmits s a pSPN 0x238 → s.spn.quar = true → bitOf v 0 = true →
    Ends (.quarRelease a v) s (fun t => t.spn.quar = false ∧ t.spn.qcause = 0 ∧ t.spn.st ≠ .active)) ∧
  (∀ (s : State) (e v : Nat), tget s.spn.routesNew e = some v → routeBusy s e = false → s.spn.remotes = [] → s.spn.remWait = [] →
    Ends (.spanRouteSwitch e) s (fun t =>
      tget t.spn.routes e = v ∧ tget t.spn.routesNew e = none ∧ (∀ f, f ≠ e → tget t.spn.routes f = tget s.spn.routes f) ∧ Frame [.spn] s t))

/-- Requests between packages: one that no window admits is answered PERMISSION and logged and writes nothing; an answer frees the
tracker of its request, one that comes too late is counted, and a deadline ends its request with PARTNER_ABSENT; a snoop of a remote
home goes to every caching agent. -/
def Claim.SpanRequests : Prop :=
  (∀ (s : State) (m : RemoteReq), s.spn.st = .active → s.spn.quar = false → lsTakes s m = false →
    windowAdmits s m.line m.node m.part (opAccess m.op) = false → Ends (.spanIngressRequest m) s (fun t =>
      (∃ r, t.ras.log.head? = some r ∧ r.status = Status.permission.code ∧ r.cls = .protocol ∧ r.page = pSPN) ∧ t.hom = s.hom ∧ t.mem = s.mem)) ∧
  (∀ (s : State) (k : Nat) (a : AnsKind) (st : Nat) (d : LineData) (p : Nat), live s = true → k < remTrackers →
    (∀ x, tget s.spn.remotes k = some x → s.spn.remWait = [] → x.req.origin = .relay → Ends (.remoteResponse k a st d p) s (fun t =>
      tget t.spn.remotes k = none ∧ (∀ j, j ≠ k → tget t.spn.remotes j = tget s.spn.remotes j) ∧ Frame [.spn] s t)) ∧
    (tget s.spn.remotes k = none → Ends (.remoteResponse k a st d p) s (fun t =>
      t.spn = { s.spn with lateRsp := satAdd 32 s.spn.lateRsp 1 } ∧ Frame [.spn, .cnt] s t))) ∧
  (∀ (s : State) (k : Nat) (x : Remote), tget s.spn.remotes k = some x → btDue s x.due.toNat = true → s.spn.remWait = [] →
    Ends (.remoteDeadline k) s (fun t =>
      tget t.spn.remotes k = none ∧ t.spn.deadlineExp = satAdd 32 s.spn.deadlineExp 1 ∧
      (∀ h, x.req.origin = .host h → x.req.op = .wrFull → hostUp s h = true → OutTo t h (.ans (ansOf x.req .comp .partnerAbsent 0 0))))) ∧
  (∀ (s : State) (n line : Nat) (op : SnpOp), s.spn.st = .active → s.spn.quar = false → snoopAgents s ≠ [] →
    Ends (.remoteSnoop n line op) s (fun t =>
      (∃ r, r ∈ t.spn.remSnps ∧ r.node = n ∧ r.line = line ∧ r.left = snoopAgents s ∧ r.had = false) ∧ Frame [.cas, .eng, .hst, .spn, .out] s t))

/-! ## The engine station and translation -/

/-- An answer without data left to the accelerator die, or waits for a credit of its link. -/
def EngAnswered (s t : State) (tag : Nat) (st : Status) : Prop :=
  let m := OutMsg.ans { origin := .eng s.eng.nextReq 0, agent := 16 + s.cas.pos, tag := tag, kind := .comp, status := st }
  m ∈ t.out ∨ m ∈ t.eng.link.waiting

/-- Requests of an accelerator die: one that its port takes stands there in bursts of at most one 16 KiB block, with the slot and the tile
of its stream where the port has one; one of a context that is not LIVE, or on a fenced port, is answered CONTEXT_LOST, and one while
ENABLE is 0 PERMISSION, and neither makes a request. -/
def Claim.EngineRequests : Prop :=
  ∀ (s : State) (port : Nat) (r : EngOp), portOpen s port = true →
    (portRefuses s port r.ctx = false → enabled s pENG = true → r.stream = none → Ends (.engineRequest port r) s (fun t =>
      t.eng.nextReq = s.eng.nextReq + 1 ∧
      (∃ q, tget t.eng.reqs s.eng.nextReq = some q ∧ q.port = port ∧ q.tag = r.tag ∧ q.ctx = r.ctx ∧ q.op = r.op ∧ q.nlines = r.lenM1 + 1 ∧
        q.part = (ctxOf s r.ctx).part ∧ q.space = (ctxOf s r.ctx).space ∧
        q.bursts.map (fun b => (b.va, b.lines)) = (cutBursts 3 (r.va / 128 * 128) 0 (r.lenM1 + 1)).map (fun b => (b.va, b.lines))) ∧
      (∀ n, n ≠ s.eng.nextReq → tget t.eng.reqs n = tget s.eng.reqs n) ∧ Frame [.cnt, .lan, .eng] s t)) ∧
    (∀ id tile k, portRefuses s port r.ctx = false → enabled s pENG = true → r.stream = some (id, tile) → slotFind s port r.ctx id = some k →
      Ends (.engineRequest port r) s (fun t =>
        t.eng.nextReq = s.eng.nextReq + 1 ∧ (∃ q, tget t.eng.reqs s.eng.nextReq = some q ∧ q.slot = some k ∧ q.tile = tile) ∧
        (tget t.eng.slots k).started.contains tile = true ∧ (tget t.eng.slots k).desc = (tget s.eng.slots k).desc ∧ Frame [.cnt, .lan, .eng] s t)) ∧
    (portRefuses s port r.ctx = true → Ends (.engineRequest port r) s (fun t =>
      t.eng.reqs = s.eng.reqs ∧ EngAnswered s t r.tag .contextLost ∧ Frame [.pages, .cnt, .ras, .eng, .hst, .out] s t)) ∧
    (portRefuses s port r.ctx = false → enabled s pENG = false → Ends (.engineRequest port r) s (fun t =>
      t.eng.reqs = s.eng.reqs ∧ EngAnswered s t r.tag .permission ∧ Frame [.eng, .out] s t))

/-- Stream slots: an open binds its descriptor to one slot of its port, a malformed descriptor binds nothing, is counted and ends an older
binding of its stream, and a close releases the slot and the prefetches that wait for it. Both of a context that is not LIVE are answered
CONTEXT_LOST and change no slot, as an open while ENABLE is 0 is answered PERMISSION. -/
def Claim.Streams : Prop :=
  ∀ (s : State) (port tag c : Nat) (d : List Word), portOpen s port = true →
    (portRefuses s port c = false → enabled s pENG = true → descRefused s (ctxOf s c).part c d = false → Ends (.streamOpen port { ctx := c, tag := tag } d) s (fun t =>
      (∃ k, k / 4 = port ∧ tget t.eng.slots k = { bound := true, ctx := c, desc := d, tick := s.eng.nextReq, bindNo := s.eng.nextBind } ∧
        (∀ j, j ≠ k → tget t.eng.slots j = tget s.eng.slots j)) ∧ Frame [.lan, .eng] s t)) ∧
    (portRefuses s port c = false → enabled s pENG = true → descRefused s (ctxOf s c).part c d = true → Ends (.streamOpen port { ctx := c, tag := tag } d) s (fun t =>
      t.eng.streamRefused = satAdd 32 s.eng.streamRefused 1 ∧ (slotFind s port c (dStream d) = none → t.eng.slots = s.eng.slots) ∧
      (∀ k, slotFind s port c (dStream d) = some k → tget t.eng.slots k = {} ∧ ∀ j, j ≠ k → tget t.eng.slots j = tget s.eng.slots j) ∧
      t.eng.reqs = s.eng.reqs ∧ Frame [.cnt, .lan, .eng] s t)) ∧
    (∀ i k, portRefuses s port c = false → slotFind s port c i = some k → Ends (.streamClose port { ctx := c, tag := tag } i) s (fun t =>
      tget t.eng.slots k = {} ∧ (∀ j, j ≠ k → tget t.eng.slots j = tget s.eng.slots j) ∧
      (∀ m, m ∈ t.lan.misses → ¬ (m.pref = true ∧ m.req = k)) ∧ Frame [.lan, .eng] s t)) ∧
    (∀ i, portRefuses s port c = false → slotFind s port c i = none → Ends (.streamClose port { ctx := c, tag := tag } i) s (fun t =>
      t.eng.slots = s.eng.slots ∧ t.lan = s.lan ∧ Frame [.eng] s t)) ∧
    (∀ i, portRefuses s port c = true →
      Ends (.streamOpen port { ctx := c, tag := tag } d) s (fun t => EngAnswered s t tag .contextLost ∧ t.eng.slots = s.eng.slots ∧ Frame [.pages, .cnt, .ras, .eng, .hst, .out] s t) ∧
      Ends (.streamClose port { ctx := c, tag := tag } i) s (fun t => EngAnswered s t tag .contextLost ∧ t.eng.slots = s.eng.slots ∧ Frame [.pages, .cnt, .ras, .eng, .hst, .out] s t)) ∧
    (portRefuses s port c = false → enabled s pENG = false → Ends (.streamOpen port { ctx := c, tag := tag } d) s (fun t =>
      EngAnswered s t tag .permission ∧ t.eng.slots = s.eng.slots ∧ Frame [.eng, .out] s t))

/-- The request of the only line of a burst under a translation. -/
def burstLine (s : State) (n b : Nat) (e : TlbEntry) : HomeReq :=
  lineReq s n b 0 { burst s n b with st := .issued, x := e.x, token := 0 }

/-- A burst that no earlier request of its observer has to precede issues under the one translation that its port holds: its line is read at a quiet home, under the epochs, permissions and layout
checked now. -/
def Claim.BurstIssues : Prop :=
  ∀ (s : State) (n b p : Nat) (r : EngReq) (e : TlbEntry), tget s.eng.reqs n = some r → b < r.bursts.length → r.slot = none → r.op = .rdOnce →
    (burst s n b).st = .ready → (burst s n b).lines = 1 → (burst s n b).token = 0 → (burst s n b).parked = false → burstBehind s n r (burst s n b) = false → tlbFind (firefly s r.port) false r.space (burst s n b).va = some e →
    e.epoch = (tget s.lan.spaces r.space).epoch → e.epoch2 = (tget s.lan.s2 (tget s.lan.spaces r.space).part).epoch → e.x.r = true → e.x.glob = false →
    inLayoutRun s (tget s.lan.spaces r.space).part (burst s n b).va 1 e.x = true → HomeQuiet s (burstLine s n b e) p → dirOf s (burstLine s n b e).line = {} → (burstLine s n b e).line ∉ s.hom.aluLines →
    Ends (.burstIssue n b) s (fun t =>
      (burst t n b).st = .issued ∧ (burst t n b).x = e.x ∧
      ReadFor t p (burstLine s n b e).line
        (dataAns (burstLine s n b e) .dataOnce (rdLine s (burstLine s n b e).line) (linePois s (burstLine s n b e).line)) ∧ t.mem = s.mem)

/-- Walks: a miss of demand takes a walk slot, a prefetch only while every miss of demand has one, and both take the epochs as they
stand. A walk that ends with a translation makes the burst that waited ready, one that needs a line which a cache may hold newer asks for it, and one under whose feet an epoch changed starts again. -/
def Claim.Walks : Prop :=
  (∀ (s : State) (i : Nat), freeWalk s = some i →
    (∃ m, m ∈ s.lan.misses ∧ m.pref = false ∧ sharesWalk s m = false ∧ missPart s m < 64 ∧ partWalks s (missPart s m) < walkLimit s) →
    Ends .walkStart s (fun t => ∃ m, m ∈ s.lan.misses ∧ m.pref = false ∧ t.lan.misses = s.lan.misses.erase m ∧
      tget t.lan.walks i = some { miss := m, epoch := (tget s.lan.spaces m.space).epoch, epoch2 := (tget s.lan.s2 (missPart s m)).epoch } ∧
      (∀ j, j ≠ i → tget t.lan.walks j = tget s.lan.walks j) ∧ t.lan.missTotal = satAdd 32 s.lan.missTotal 1 ∧ Frame [.cnt, .lan, .inUse] s t)) ∧
  (∀ (s : State) (i : Nat), freeWalk s = some i → (∀ m, m ∈ s.lan.misses → m.pref = true ∨ sharesWalk s m = true) →
    (∃ m, m ∈ s.lan.misses ∧ m.pref = true ∧ prefWalks s < m.pfw ∧ sharesWalk s m = false ∧ missPart s m < 64 ∧ partWalks s (missPart s m) < walkLimit s) →
    Ends .prefetchWalkStart s (fun t => ∃ m, m ∈ s.lan.misses ∧ m.pref = true ∧ t.lan.misses = s.lan.misses.erase m ∧
      tget t.lan.walks i = some { miss := m, epoch := (tget s.lan.spaces m.space).epoch, epoch2 := (tget s.lan.s2 (missPart s m)).epoch } ∧
      t.eng.pfIssued = satAdd 32 s.eng.pfIssued 1 ∧ Frame [.cnt, .lan, .eng, .inUse] s t)) ∧
  (∀ (s : State) (i : Nat) (w : Walk), tget s.lan.walks i = some w →
    (w.epoch = (tget s.lan.spaces w.miss.space).epoch → w.epoch2 = (tget s.lan.s2 (tget s.lan.spaces w.miss.space).part).epoch →
      (∃ u x, walk { s with lan := { s.lan with walks := tset s.lan.walks i none } } (some (kWalk i)) w.miss.space w.miss.va w.miss.acc = (u, .ok x)) →
      w.miss.pref = false → w.miss.move = none → (∃ r, tget s.eng.reqs w.miss.req = some r ∧ w.miss.burst < r.bursts.length) →
      (burst s w.miss.req w.miss.burst).st = .missed → Ends (.walkComplete i) s (fun t =>
        tget t.lan.walks i = none ∧ (burst t w.miss.req w.miss.burst).st = .ready ∧ t.mem = s.mem ∧
        t.hom = { s.hom with fresh := s.hom.fresh.filter (fun x => x.1 != kWalk i) })) ∧
    (∀ u l, w.epoch = (tget s.lan.spaces w.miss.space).epoch → w.epoch2 = (tget s.lan.s2 (tget s.lan.spaces w.miss.space).part).epoch →
      walk { s with lan := { s.lan with walks := tset s.lan.walks i none } } (some (kWalk i)) w.miss.space w.miss.va w.miss.acc = (u, .ask l) →
      Ends (.walkComplete i) s (fun t => t = ownAsk s (kWalk i) l)) ∧
    (w.epoch ≠ (tget s.lan.spaces w.miss.space).epoch → Ends (.walkComplete i) s (fun t =>
      tget t.lan.walks i = some { w with epoch := (tget s.lan.spaces w.miss.space).epoch,
                                         epoch2 := (tget s.lan.s2 (tget s.lan.spaces w.miss.space).part).epoch } ∧ Frame [.lan] s t)))

/-- No cache holds the header line of a partition's fault ring, where its address can be used. -/
def RingIdle (s : State) (p : Nat) : Prop := ∀ g h, faultGpa s p = some g → ringAddr s p g = .ok h → lineIdle s (h / 128) = true

/-- Faults that wait: a held fault record enters its ring as soon as there is room, stays held while there is none or while its ring cannot
be used, and nothing is tried before its time; a demand pause whose deadline passes frees its token and loses the live contexts that
waited, and one that has time left stays. -/
def Claim.FaultWaits : Prop :=
  (∀ (s : State) (p h a : Nat) (w : List Word), s.eng.hold = [(p, w)] → btDue s s.eng.holdNext.toNat = true → faultSlot s p = .ok h a →
    Ends .faultRingRetry s (fun t => t.eng.hold = [] ∧ (part t p).faultProduce = (part s p).faultProduce + 1 ∧ (part t p).ringFail = false ∧
      t.eng.holdNext = s.bcn.count + 16)) ∧
  (∀ (s : State) (p : Nat) (w : List Word), s.eng.hold = [(p, w)] → relHeld s = 0 → btDue s s.eng.holdNext.toNat = true →
    (faultSlot s p = .full → RingIdle s p → Ends .faultRingRetry s (fun t =>
      t.eng = { s.eng with holdNext := s.bcn.count + 16 } ∧ Frame [.eng, .hom] s t)) ∧
    (∀ st, faultSlot s p = .bad st → Ends .faultRingRetry s (fun t =>
      t.eng = { s.eng with holdNext := s.bcn.count + 16 } ∧ (part t p).ringFail = true ∧ t.mem = s.mem))) ∧
  (∀ s : State, (s.eng.hold = [] ∧ relHeld s = 0) ∨ btDue s s.eng.holdNext.toNat = false → Ends .faultRingRetry s (fun t => t = s)) ∧
  (∀ (s : State) (k : Nat), (tget s.eng.tokens k).st ≠ .paused ∨ btDue s (tget s.eng.tokens k).due.toNat = false →
    Ends (.demandTimeout k) s (fun t => t = s)) ∧
  (∀ (s : State) (k : Nat), (tget s.eng.tokens k).st = .paused → btDue s (tget s.eng.tokens k).due.toNat = true →
    Ends (.demandTimeout k) s (fun t => tget t.eng.tokens k = {} ∧ (∀ e, e ∈ t.mov.chans → k ∉ e.2.paused) ∧
      ∀ c, c ∈ (tget s.eng.tokens k).ctxs → ctxLive s c = true → (ctxOf t c).doomed.isSome = true))

/-- The loss of a context: it is LOST with its cause, or DRAINING when it is being destroyed, the loss is counted and raised, and its stream
slots go. A DRAINING context of which nothing is left is FREE, and its destroy is answered; one that has work left stays. -/
def Claim.ContextLoss : Prop :=
  (∀ (s : State) (c : Nat) (st : Status), (ctxOf s c).doomed = some st → Ends (.contextLoss c) s (fun t =>
    (ctxOf t c).st = (if (ctxOf s c).killMb.isSome then .killing else .lost) ∧ (ctxOf t c).cause = st ∧ (ctxOf t c).doomed = none ∧ t.lmp.lostTotal = satAdd 32 s.lmp.lostTotal 1 ∧
    bitOf (page t pLMP).irqRaw 0 = true ∧ (∀ k, ¬ ((tget t.eng.slots k).bound = true ∧ (tget t.eng.slots k).ctx = c)))) ∧
  (∀ (s : State) (c i m n : Nat), ctxIdx s c = some i → (ctxOf s c).st = .killing → ctxEmpty s c = true → (ctxOf s c).killMb = some (m, n) → n < 256 →
    Ends (.contextDrained c) s (fun t =>
      ctxOf t c = {} ∧ (tget t.lan.spaces (ctxOf s c).space).bound = (tget s.lan.spaces (ctxOf s c).space).bound - 1 ∧
      Replied t m n 0x31 .ok [] ∧ Frame [.pages, .mbx, .lan, .lmp] s t)) ∧
  (∀ (s : State) (c : Nat), (ctxOf s c).doomed = none → Ends (.contextLoss c) s (fun t => t = s)) ∧
  (∀ (s : State) (c : Nat), (ctxOf s c).st ≠ .killing ∨ ctxEmpty s c = false → Ends (.contextDrained c) s (fun t => t = s))

/-- A withdrawal that the block accepts drops every cached translation that it hits and is busy; one that is ready completes, and the
registers show it done. -/
def Claim.Withdrawals : Prop :=
  (∀ (s : State) (a : Acc) (v : Word), UnitAdmits s a pLAN 0x248 → bitOf v 2 = true → s.lan.wdBusy = false → wdDraining s < 16 →
    let len := fld s.lan.wdLen 34 0
    let base := fld s.lan.wdBase 56 22 * 2 ^ 22
    wdBeyond (fld v 1 0) base len = false → wdEmpty (fld v 1 0) len = false → Ends (.wdGoWrite a v) s (fun t =>
      t.lan.wdBusy = true ∧ t.lan.wdDone = false ∧ t.lan.wdNext = s.lan.wdNext + 1 ∧
      (∃ w, t.lan.wds = s.lan.wds ++ [w] ∧ w.id = s.lan.wdNext ∧ w.kind = fld v 1 0 ∧ w.target = fld v 27 16 ∧ w.base = base ∧ w.len = len ∧ w.src = .reg) ∧
      (∀ e, e ∈ t.lan.lantern → wdHits s (fld v 1 0) (fld v 27 16) base len e = false) ∧
      (∀ q e, e ∈ tget t.eng.fireflies q → wdHits s (fld v 1 0) (fld v 27 16) base len e = false) ∧
      Frame [.pages, .mbx, .cnt, .lan, .eng, .mov, .hst, .out] s t)) ∧
  (∀ (s : State) (w : Withdrawal), s.lan.wds.find? (fun x => x.id == w.id) = some w → wdReady s w = true → w.src = .reg → s.lan.wdWait = [] →
    Ends (.withdrawalComplete w.id) s (fun t =>
      t.lan = { s.lan with wds := s.lan.wds.filter (fun x => x.id != w.id), wdStatus := .ok, wdBusy := false, wdDone := true } ∧
      bitOf (page t pLAN).irqRaw 0 = true ∧ Frame [.pages, .cnt, .lan, .hst, .out] s t)) ∧
  (∀ (s : State) (w : Withdrawal), s.lan.wds.find? (fun x => x.id == w.id) = some w → wdReady s w = false →
    Ends (.withdrawalComplete w.id) s (fun t => t = s))

/-- The roots of translation: a space that no context is bound to takes its root, VALID and owner, a bound one keeps them and LAST reads
PERMISSION; and stage 2 of a partition other than 0 cannot be switched off. -/
def Claim.TranslationRoots : Prop :=
  (∀ (s : State) (a : Acc) (v : Word), UnitAdmits s a pLAN 0x218 →
    ((tget s.lan.spaces s.lan.spaceSel).bound = 0 →
      Ends (.spaceRegisterWrite a 0x218 v) s (fun t =>
        tget t.lan.spaces s.lan.spaceSel = { tget s.lan.spaces s.lan.spaceSel with valid := bitOf v 0, root := fld v 51 15 * 2 ^ 15 } ∧
        (∀ i, i ≠ s.lan.spaceSel → tget t.lan.spaces i = tget s.lan.spaces i) ∧ (page t pLAN).last = .ok ∧
        Frame [.pages, .mbx, .cnt, .lan, .hst, .out] s t)) ∧
    ((tget s.lan.spaces s.lan.spaceSel).bound ≠ 0 →
      Ends (.spaceRegisterWrite a 0x218 v) s (fun t => t.lan = s.lan ∧ (page t pLAN).last = .permission))) ∧
  (∀ (s : State) (a : Acc) (v : Word), UnitAdmits s a pLAN 0x220 → (tget s.lan.spaces s.lan.spaceSel).bound = 0 →
    Ends (.spaceRegisterWrite a 0x220 v) s (fun t =>
      tget t.lan.spaces s.lan.spaceSel = { tget s.lan.spaces s.lan.spaceSel with part := fld v 9 0 } ∧ (page t pLAN).last = .ok ∧
      Frame [.pages, .mbx, .cnt, .lan, .hst, .out] s t)) ∧
  (∀ (s : State) (a : Acc) (v : Word), UnitAdmits s a pLAN 0x238 →
    (bitOf v 0 = true ∨ s.lan.partSel = 0 → Ends (.s2RootWrite a v) s (fun t =>
      tget t.lan.s2 s.lan.partSel = { tget s.lan.s2 s.lan.partSel with en := bitOf v 0, root := fld v 45 15 * 2 ^ 15 } ∧
      (∀ p, p ≠ s.lan.partSel → tget t.lan.s2 p = tget s.lan.s2 p) ∧ (page t pLAN).last = .ok ∧
      Frame [.pages, .mbx, .cnt, .lan, .hst, .out] s t)) ∧
    (bitOf v 0 = false → s.lan.partSel ≠ 0 → Ends (.s2RootWrite a v) s (fun t => t.lan = s.lan ∧ (page t pLAN).last = .permission)))

/-- Host requests: one that the layout allows reaches its quiet home (here a full write, which stores its data), and one outside the
layout is answered PERMISSION and logged and changes no memory. -/
def Claim.HostRequests : Prop :=
  ∀ (s : State) (st p : Nat) (r : HomeReq), hostUp s st = true → enabled s (pHST0 + st) = true → r.part < 64 → (part s r.part).st = .open_ → r.line < npaLines →
    (inLayout s r.part (r.line * 128) = true → HomeQuiet s (hostReq s st .wrFull r) p → dirOf s r.line = {} →
      Ends (.hostRequest st .wrFull r none) s (fun t => LineStored s t r.line r.data (r.poison % 256) ∧
        OutTo t st (.ans (ansOf (hostReq s st .wrFull r) .comp .ok 0 0)))) ∧
    (inLayout s r.part (r.line * 128) = false → outOfRange s r.line = false → Ends (.hostRequest st .wrFull r none) s (fun t =>
      (∃ x, t.ras.log.head? = some x ∧ x.status = Status.permission.code ∧ x.cls = .protocol ∧ x.page = pHST0 + st ∧ x.part = r.part) ∧
      OutTo t st (.ans (ansOf (hostReq s st .wrFull r) .comp .permission 0 0)) ∧ t.hom = s.hom ∧ t.mem = s.mem))

/-! ## The Lamplighter -/

/-- The way of a command: the fetch of the next queue places it with its words, checked; an accepted one has every pin; dispatch hands it
to its unit, or its queue waits while the unit is full; and a command that ended without a record leaves and counts. -/
def Claim.CommandFlow : Prop :=
  (∀ (s u : State) (p q a : Nat), nextQueue s = some (p, q) →
    let k := queue s q
    let x := ctxOf s k.ctx
    let c : Cmd := { q := q, seq := k.head, ctx := k.ctx, part := x.part, words := rdWords s a 8 }
    x.st = .live → ownLook s x.space x.part (fld k.base 56 6 * 64 + k.head % 2 ^ k.log2 * 64) .read = (u, .here a) → bytesPois s a 64 = false →
    recAsk u kLamp (pinLines u q (rdWords s a 8)) = none →
    (∀ st, cmdCheck s k.priv c = some st → Ends .commandFetch s (fun t =>
      t.lmp.cmds = s.lmp.cmds ++ [{ c with st := .retire, status := st }] ∧ (queue t q).head = (k.head + 1) % 2 ^ 64)) ∧
    (cmdCheck s k.priv c = none → Ends .commandFetch s (fun t =>
      (∃ l, l.length = (cPins c).length ∧ t.lmp.cmds = s.lmp.cmds ++ [{ c with takes := l }]) ∧ (cPins c = [] → t.lmp.cmds = s.lmp.cmds ++ [c]) ∧ (queue t q).head = (k.head + 1) % 2 ^ 64 ∧ t.lmp.rrPart = (p + 1) % 64))) ∧
  (∀ (s : State) (q n : Nat) (c : Cmd), cmdOf s q n = some c → c.st = .taking → ctxLive s c.ctx = true →
    (c.takes.all (fun x => x == .ok) = true → wdMustWait s c = false → Ends (.commandAccept q n) s (fun t =>
      cmdOf t q n = some { c with st := .accepted, pinned := true } ∧ Frame [.lmp] s t)) ∧
    (∀ st, c.takes = [st] → st ≠ .ok → st ≠ .objectGone → Ends (.commandAccept q n) s (fun t => EndedAs t q n st ∧ Frame [.lmp] s t))) ∧
  (∀ (s : State) (q n : Nat) (c : Cmd), cmdOf s q n = some c → c.st = .accepted → mayDispatch s c = true →
    (unitFull s c = false → Ends (.commandDispatch q n) s (fun t =>
      cmdOf t q n = some { c with st := .dispatched } ∧ (queue t q).stalled = false ∧ Frame [.lmp] s t)) ∧
    (unitFull s c = true → Ends (.commandDispatch q n) s (fun t => cmdOf t q n = some c ∧ (queue t q).stalled = true ∧ Frame [.lmp] s t))) ∧
  (∀ (s : State) (q n : Nat) (c : Cmd), cmdOf s q n = some c → c.st = .retire → needsRecord c = false → c.recorded = 0 → c.fences = [] → cPins c = [] →
    (queue s q).killMb = none → Ends (.commandRetire q n) s (fun t =>
      cmdOf t q n = none ∧ t.lmp.cmdTotal = satAdd 32 s.lmp.cmdTotal 1 ∧
      ((queue s q).retired = [] → n = (queue s q).done → (queue t q).done = (n + 1) % 2 ^ 64) ∧ Frame [.cnt, .hom, .lmp] s t))

/-- A command that needs a completion record has it in memory, with its status, tag, SEQ and RESULT, before it leaves. -/
def Claim.CompletionRecords : Prop :=
  ∀ (s u : State) (q n a p : Nat) (c : Cmd), cmdOf s q n = some c → c.st = .retire → needsRecord c = true → c.recorded = 0 → c.status ≠ .contextLost →
    c.fences = [] → cPins c = [] → (queue s q).killMb = none →
    ownLook s (ctxOf s c.ctx).space c.part (fld (queue s q).cbase 56 5 * 32 + n % 2 ^ (queue s q).log2 * 32) .write = (u, .here a) → a % 32 = 0 →
    HomeQuiet u (relayReq u q n c.part a ((recordWords s c).flatMap wordBytes)) p → dirOf u (a / 128) = {} →
    Ends (.commandRetire q n) s (fun t => rdWords t a 4 = recordWords s c ∧ cmdOf t q n = none ∧ t.lmp.cmdTotal = satAdd 32 s.lmp.cmdTotal 1)

/-- The command stands dispatched with its opcode. -/
def Ready (s : State) (q n op : Nat) (c : Cmd) : Prop := cmdOf s q n = some c ∧ c.q = q ∧ c.seq = n ∧ c.st = .dispatched ∧ cOp c = op

/-- The state in which the unit has begun the command. -/
def begun (s : State) (q n : Nat) : State := updCmd s q n (fun c => { c with st := .running })

/-- NOP, STEP_ADVANCE, REPORT and ENG_DISPATCH: the first does nothing but end, the second advances the step counter, the third leaves its
record in memory, and the fourth its 64 bytes in a free dispatch slot and tells the accelerator die, where the link of its station is active. -/
def Claim.PlainCommands : Prop :=
  ∀ (s : State) (q n : Nat) (c : Cmd),
    (Ready s q n 0x00 c → Ends (.nop q n) s (fun t => EndedAs t q n .ok ∧ Frame [.lmp] s t)) ∧
    (Ready s q n 0x20 c → (ctxIdx s c.ctx).isSome = true → Ends (.stepAdvance q n) s (fun t =>
      let v := (ctxOf s c.ctx).step + (if cw c 2 = 0 then 1 else cw c 2)
      (ctxOf t c.ctx).step = v ∧ cmdOf t q n = some { c with st := .retire, status := .ok, result := v } ∧ Frame [.lmp] s t)) ∧
    (∀ u a p, Ready s q n 0x38 c → ownLook (begun s q n) (ctxOf s c.ctx).space c.part (fld (cw c 2) 56 6 * 64) .write = (u, .here a) → a % 64 = 0 →
      HomeQuiet u (relayReq u q n c.part a ((reportWords s c).flatMap wordBytes)) p → dirOf u (a / 128) = {} → Ends (.report q n) s (fun t =>
        rdWords t a 8 = reportWords s c ∧ EndedAs t q n .ok)) ∧
    (∀ o i g m a, Ready s q n 0x08 c → (part s c.part).dispObj = some o → freeDispatch s c.part = some i → objRange s c.part o = some (g, m) →
      gpaLookup s c.part (g + i * 128) = (.ok, a, none) → a % 8 = 0 → lineIdle s (a / 128) = true → c.words.length = 8 → Ends (.engDispatch q n) s (fun t =>
        rdWords t a 8 = dispatchWords c ∧ tget (part t c.part).dispRun i = (c.ctx, n + 1) ∧ tget (part t c.part).dispQ i = q ∧ tget (part t c.part).dispOf i = o ∧
        (s.eng.link.st = 2 → OutMsg.dispatch c.part i (dispatchWords c) ∈ t.out ∨ OutMsg.dispatch c.part i (dispatchWords c) ∈ t.eng.link.waiting) ∧
        (s.eng.link.st ≠ 2 → t.out = s.out) ∧ cmdOf t q n = some { c with st := .running } ∧
        Frame [.mem, .memPois, .memKey, .parts, .eng, .hom, .lmp, .out] s t))

/-- MAP_WITHDRAW: a range beyond the address form ends with UNMAPPED, and any other is accepted as a withdrawal of the command's, which
drops the translations that it hits, once one of the 16 drains is free for it. -/
def Claim.MapWithdraw : Prop :=
  ∀ (s : State) (q n : Nat) (c : Cmd), Ready s q n 0x30 c →
    let k := fld (cw c 2) 1 0
    let base := fld (cw c 3) 56 22 * 2 ^ 22
    let len := fld (cw c 4) 34 0
    (wdBeyond k base len = true → Ends (.mapWithdraw q n) s (fun t => EndedAs t q n .unmapped ∧ Frame [.lmp] s t)) ∧
    (wdBeyond k base len = false → wdMustWait s c = true → Ends (.mapWithdraw q n) s (fun t => cmdOf t q n = some c ∧ Frame [.lmp] s t)) ∧
    (wdBeyond k base len = false → wdEmpty k len = false → wdMustWait s c = false → Ends (.mapWithdraw q n) s (fun t =>
      (∃ w, t.lan.wds = s.lan.wds ++ [w] ∧ w.kind = k ∧ w.target = fld (cw c 2) 27 16 ∧ w.base = base ∧ w.len = len ∧ w.src = .cmd q n) ∧
      (∀ e, e ∈ t.lan.lantern → wdHits s k (fld (cw c 2) 27 16) base len e = false) ∧
      cmdOf t q n = some { c with st := .running } ∧ Frame [.lan, .eng, .mov, .lmp] s t))

/-- FENCE_SIGNAL, FENCE_WAIT, BAR_ARRIVE and BAR_DROP on a record of this package that passes the check of its reference and that no cache
holds. -/
def Claim.FenceCommands : Prop :=
  ∀ (s : State) (q n g a : Nat) (c : Cmd), fenceCheck s c.part (fld (cw c 2) 23 0) (fld (cw c 2) 63 32) = some g → gpaLookup s c.part g = (.ok, a, none) →
    a % 64 = 0 → (∀ l, l ∈ objLines s c.part [fld (cw c 2) 23 0] → lineCurrent s kObj l = true) →
    (Ready s q n 0x10 c → lineIdle s (a / 128) = true → bytesPois s a 16 = false → recKind s a = 0 → 0 < (cw c 3 - recValue s a).toNat → (cw c 3 - recValue s a).toNat < 2 ^ 63 →
      Ends (.fenceSignal q n) s (fun t => recValue t a = cw c 3 ∧ EndedAs t q n .ok ∧ t.fnc.advTotal = satAdd 48 s.fnc.advTotal 1)) ∧
    (∀ i, Ready s q n 0x11 c → freeWatch s c.part = some i → Ends (.fenceWait q n) s (fun t =>
      (∃ w, watchOf t i = some w ∧ w.cmd = some (q, n) ∧ w.npa = a ∧ w.part = c.part ∧ w.target = cw c 3 ∧ w.armed = false ∧ w.poll = false ∧
        w.due = (if fld (cw c 4) 31 0 = 0 then none else some (s.bcn.count + w64 (fld (cw c 4) 31 0)))) ∧
      (∀ j, j ≠ i → watchOf t j = watchOf s j) ∧ Frame [.hom, .fnc, .lmp, .inUse] s t)) ∧
    (∀ drop i b b', Ready s q n (if drop then 0x19 else 0x18) c → lineIdle s (a / 128) = true → bytesPois s a 64 = false → bitOf (rdWord s a) 0 = true → recKind s a = 1 →
      fld (barOperand c drop) 20 0 ≠ 0 → fld (barOperand c drop) 47 35 = 0 → barAt s a = some (i, b) →
      barApply s b (fld (barOperand c drop) 20 0) drop (fld (barOperand c drop) 63 48) none = .ok b' → b'.pending ≠ 0 →
      Ends (if drop then .barDrop q n else .barArrive q n) s (fun t =>
        tget t.fnc.bars i = some b' ∧ EndedAs t q n .ok ∧ Frame [.hom, .fnc, .lmp] s t))

/-- A fence or barrier command whose reference does not pass its check ends with PERMISSION; one whose records a cache holds asks for them and
stays dispatched (the model's choice, log entry 28). -/
def Claim.FenceReferences : Prop :=
  ∀ (s : State) (q n op : Nat) (c : Cmd) (i : Instr), (op, i) ∈ [(0x10, Instr.fenceSignal q n), (0x11, .fenceWait q n), (0x18, .barArrive q n), (0x19, .barDrop q n)] →
    Ready s q n op c →
    (fenceCheck s c.part (fld (cw c 2) 23 0) (fld (cw c 2) 63 32) = none → (∀ l, l ∈ objLines s c.part [fld (cw c 2) 23 0] → lineCurrent s kObj l = true) →
      Ends i s (fun t => EndedAs t q n .permission ∧ Frame [.hom, .lmp] s t)) ∧
    (∀ u, linesAsk (begun s q n) kObj (objLines s c.part [fld (cw c 2) 23 0])
        (if op = 0x11 then [] else fenceLine s c.part (fld (cw c 2) 23 0) (fld (cw c 2) 63 32)) = some u →
      Ends i s (fun t => t = updCmd u q n (fun c => { c with st := .dispatched })))

/-- A doorbell page is reached (R48, R408). -/
def BellAdmits (s : State) (a : Acc) (q : Nat) : Prop :=
  a.st < 2 ∧ accUp s a.st = true ∧ q < 1024 ∧ mayReach s a.part (.doorbell q 0) = true ∧
  (part s (queue s q).part).st ≠ .closing ∧ (part s (queue s q).part).st ≠ .scrub

/-- The doorbell page of a queue: a tail that the ring holds is taken and a bad one only noted, and OBJ_OP takes or drops a reference of an
object of the queue's partition, whose count and words in memory follow; the last reference leaves the object GONE. OBJ_OP on a record
that a cache holds stays busy until its line is given up, and one that comes while another is busy is refused. -/
def Claim.DoorbellPages : Prop :=
  (∀ (s : State) (a : Acc) (q : Nat) (v : Word), BellAdmits s a q → (queue s q).enable = true → v ≠ w64 (queue s q).tail →
    ((v - w64 (queue s q).tail).toNat < 2 ^ 63 → (v - w64 (queue s q).done).toNat ≤ 2 ^ (queue s q).log2 → Ends (.dbTailWrite a q v) s (fun t =>
      queue t q = { queue s q with tail := v.toNat } ∧ (∀ r, r ≠ q → queue t r = queue s r) ∧ Answered t a.st .ok [] ∧ Frame [.lmp, .hst, .out] s t)) ∧
    (2 ^ 63 ≤ (v - w64 (queue s q).tail).toNat ∨ 2 ^ (queue s q).log2 < (v - w64 (queue s q).done).toNat → Ends (.dbTailWrite a q v) s (fun t =>
      queue t q = { queue s q with badTail := true } ∧ Frame [.pages, .cnt, .lmp, .hst, .out] s t))) ∧
  (∀ (s : State) (a : Acc) (q x : Nat) (v : Word), BellAdmits s a q →
    let p := (queue s q).part
    let id := fld v 23 0
    let cnt := fld (rdWord s (x + 8)) 31 0
    ((queue s q).objPend = none → (queue s q).priv = true → objWhere s p id = (.ok, x) → lineIdle s (x / 128) = true → x % 64 = 0 → objWord0Ok (rdWord s x) p id = true → 0 < cnt →
      (cnt < 0xFFFFFF00 → Ends (.objOpTake a q v) s (fun t =>
        fld (rdWord t (x + 8)) 31 0 = cnt + 1 ∧ fld (rdWord t (x + 8)) 63 32 = fld (rdWord s (x + 8)) 63 32 ∧ rdWord t x = rdWord s x ∧
        (queue t q).objStatus = .ok ∧ (queue t q).objCount = cnt + 1 ∧ Answered t a.st .ok [] ∧
        Frame [.mem, .memPois, .memKey, .hom, .lmp, .hst, .out] s t)) ∧
      (1 < cnt → Ends (.objOpDrop a q v) s (fun t =>
        fld (rdWord t (x + 8)) 31 0 = cnt - 1 ∧ rdWord t x = rdWord s x ∧ (queue t q).objStatus = .ok ∧ (queue t q).objCount = cnt - 1 ∧
        Frame [.mem, .memPois, .memKey, .hom, .lmp, .hst, .out] s t)) ∧
      (cnt = 1 → Ends (.objOpDrop a q v) s (fun t =>
        fld (rdWord t (x + 8)) 31 0 = 0 ∧ bitOf (rdWord t x) 1 = true ∧ (queue t q).objCount = 0 ∧ id ∈ (part t p).goneTodo ∧
        Frame [.mem, .memPois, .memKey, .parts, .hom, .lmp, .hst, .out] s t))) ∧
    ((queue s q).objPend = none → (queue s q).priv = true → objWhere s p id = (.ok, x) → recReady s kObj (x / 128) = false →
      Ends (.objOpTake a q v) s (fun t => queue t q = { queue s q with objPend := some (setFld v 25 24 1) } ∧ bitOf (dbGet t q 0x030) 8 = true) ∧
      Ends (.objOpDrop a q v) s (fun t => queue t q = { queue s q with objPend := some (setFld v 25 24 2) })) ∧
    ((queue s q).objPend.isSome = true → Ends (.objOpDrop a q v) s (fun t => queue t q = { queue s q with objRefused := true } ∧ t.mem = s.mem)) ∧
    ((queue s q).priv = false → Ends (.objOpTake a q v) s (fun t =>
      queue t q = { queue s q with objRefused := true } ∧ Frame [.hom, .lmp, .hst, .out] s t)))

/-- The release of objects that are GONE: one without watches, barriers or tiered pages goes to the release ring of its partition, and the
scan appends what the ring had no room for. -/
def Claim.ObjectRelease : Prop :=
  (∀ (s : State) (p id h a : Nat), id ∈ (part s p).goneTodo → s.tir.moves = [] → s.tir.frames = [] → s.tir.embers = [] → s.fnc.watches = [] →
    s.fnc.bars = [] → relRoom s p = .ok h a → s.hom.notices = [] → lineIdle s (h / 128) = true → lineIdle s (a / 128) = true → Ends (.objectRelease p id) s (fun t =>
      (part t p).goneTodo = (part s p).goneTodo.erase id ∧ (part t p).relProduce = (part s p).relProduce + 1 ∧ (part t p).relFail = false ∧
      bitOf (page t pLMP).irqRaw 2 = true)) ∧
  (∀ (s : State) (p id h a : Nat), s.boot.running = true → btDue s (part s p).scanAt.toNat = true → (part s p).relHold = [] → (part s p).goneLate = [id] →
    relSlot s p = .ok h a → Ends (.releaseRingScan p) s (fun t =>
      (part t p).goneLate = [] ∧ (part t p).relProduce = (part s p).relProduce + 1 ∧ (part t p).scanAt = s.bcn.count + 4096))

/-- The registers of queues, contexts and object tables: each is taken while what it shapes is idle, and otherwise nothing changes and LAST
reads PERMISSION. -/
def Claim.LampRegisters : Prop :=
  (∀ (s : State) (a : Acc) (v : Word), UnitAdmits s a pLMP 0x218 → queueLive s s.lmp.qSel = false →
    Ends (.qCtlWrite a 0x218 v) s (fun t => queue t s.lmp.qSel = { queue s s.lmp.qSel with base := v &&& mask 56 6 } ∧
      (∀ r, r ≠ s.lmp.qSel → queue t r = queue s r) ∧ (page t pLMP).last = .ok ∧ Frame [.pages, .mbx, .cnt, .lmp, .hst, .out] s t)) ∧
  (∀ (s : State) (a : Acc) (v : Word), UnitAdmits s a pLMP 0x228 →
    (queueLive s s.lmp.qSel = false → bitOf v 0 = true → mayEnable s (queue s s.lmp.qSel) v = true → Ends (.qCtlWrite a 0x228 v) s (fun t =>
      queue t s.lmp.qSel = { queue s s.lmp.qSel with enable := true, priv := bitOf v 1, log2 := fld v 6 2, ctx := fld v 31 16, bound := true } ∧
      (page t pLMP).last = .ok ∧ Frame [.pages, .mbx, .cnt, .lmp, .hst, .out] s t)) ∧
    (queueLive s s.lmp.qSel = true → bitOf v 1 ≠ (queue s s.lmp.qSel).priv → Ends (.qCtlWrite a 0x228 v) s (fun t =>
      t.lmp = s.lmp ∧ (page t pLMP).last = .permission)) ∧
    (bitOf v 0 = true → mayEnable s (queue s s.lmp.qSel) v = false → Ends (.qCtlWrite a 0x228 v) s (fun t =>
      t.lmp = s.lmp ∧ (page t pLMP).last = .permission))) ∧
  (∀ (s : State) (a : Acc) (v : Word), UnitAdmits s a pLMP 0x240 →
    ((tget s.lmp.ctxs s.lmp.ctxSel).st = .free → Ends (.ctxCtlWrite a v) s (fun t =>
      tget t.lmp.ctxs s.lmp.ctxSel = { tget s.lmp.ctxs s.lmp.ctxSel with part := fld v 9 0, space := fld v 27 16 } ∧ (page t pLMP).last = .ok ∧
      Frame [.pages, .mbx, .cnt, .lmp, .hst, .out] s t)) ∧
    ((tget s.lmp.ctxs s.lmp.ctxSel).st ≠ .free → Ends (.ctxCtlWrite a v) s (fun t => t.lmp = s.lmp ∧ (page t pLMP).last = .permission))) ∧
  (∀ (s : State) (a : Acc) (v : Word), UnitAdmits s a pLMP 0x258 →
    (partCtxBusy s s.lmp.partSel = false → Ends (.objTblWrite a 0x258 v) s (fun t =>
      part t s.lmp.partSel = { part s s.lmp.partSel with objTbl := v &&& (mask 4 0 ||| mask 51 12) } ∧
      (∀ p, p ≠ s.lmp.partSel → part t p = part s p) ∧ (page t pLMP).last = .ok ∧ Frame [.pages, .mbx, .cnt, .parts, .hst, .out] s t)) ∧
    ((part s s.lmp.partSel).st = .open_ → partCtxBusy s s.lmp.partSel = true → Ends (.objTblWrite a 0x258 v) s (fun t =>
      t.parts = s.parts ∧ (page t pLMP).last = .permission)))

/-! ## The data movers -/

/-- MOVE and MOVE_XFM: a count of 0 ends with OK, any other waits in the FIFO of its channel while that has room, and one that finds the FIFO
full stays dispatched while its queue waits. -/
def Claim.MoveCommands : Prop :=
  ∀ (s : State) (q n : Nat) (c : Cmd) (xfm : Bool), Ready s q n (if xfm then 0x02 else 0x01) c →
    (fld (cw c 3) 15 0 = 0 → Ends (if xfm then .moveXfm q n else .move q n) s (fun t => EndedAs t q n .ok ∧ Frame [.lmp] s t)) ∧
    (fld (cw c 3) 15 0 ≠ 0 → unitFull s c = false → Ends (if xfm then .moveXfm q n else .move q n) s (fun t =>
      (let e : ChanCmd := { q := q, seq := n, xfm := xfm, ctx := c.ctx, part := c.part, descVa := fld (cw c 2) 56 0, count := fld (cw c 3) 15 0 }
       (chan t (cChan c)).fifo = (chan s (cChan c)).fifo ++ [e]) ∧
      (∀ h, h ≠ cChan c → chan t h = chan s h) ∧ cmdOf t q n = some { c with st := .running } ∧ Frame [.mov, .lmp] s t)) ∧
    (fld (cw c 3) 15 0 ≠ 0 → unitFull s c = true → Ends (if xfm then .moveXfm q n else .move q n) s (fun t =>
      cmdOf t q n = some c ∧ queue t q = { queue s q with stalled := true } ∧ Frame [.lmp] s t))

/-- The start of a descriptor that a channel reads at an address of this package: one that nothing refuses runs in its segments, and one
that a rule refuses moves nothing and carries the worst of its statuses. -/
def Claim.DescriptorStarts : Prop :=
  ∀ (s t : State) (ch p a : Nat) (f : ChanCmd) (l : List Nat) (x : Xlat),
    let h := chan s ch
    let d : Desc := { words := rdWords s a 16 }
    nextMove h = some f → pipesOf s h = p :: l → h.active.length < 16 → h.descTok = 0 → h.descPark = false → moveFailed h f = false → ctxLive s f.ctx = true →
    pipeLook s p (ctxOf s f.ctx).space ((f.descVa + 128 * f.next) % 2 ^ 57) 1 .read (.desc ch) = (t, .ok x) →
    vaPlace t f.part ((f.descVa + 128 * f.next) % 2 ^ 57) x = .here a → lineCurrent t (kChan ch) (a / 128) = true → bytesPois s a 128 = false →
    Ends (.descriptorStart ch) s (fun u =>
      (∃ A r, (chan u ch).active = r ++ [A] ∧ r.map (fun b => b.key) = h.active.map (fun b => b.key) ∧ A.key = h.nextKey ∧ A.idx = f.next ∧ A.cmd = (f.q, f.seq) ∧ A.desc = d ∧
        (descStops t f d = [] → A.status = .ok ∧ A.segs = cutSegs d) ∧ (descStops t f d ≠ [] → A.segs = [] ∧ A.status ∈ descStops t f d)) ∧
      (chan u ch).nextKey = h.nextKey + 1 ∧ (∀ c, c ≠ ch → chan u c = chan s c) ∧ u.mem = s.mem)

/-- A segment of one source line takes its staging space, in order, and reads the line at a quiet home. -/
def Claim.SegmentStages : Prop :=
  ∀ (s t : State) (ch k i p l sh port : Nat) (r : List Nat) (a : Active) (f : ChanCmd) (g : Seg) (x : Xlat),
    activeOf s ch k = some (a, f) → a.segs[i]? = some g → g.st = .wait → g.held = [] → ctxLive s f.ctx = true → dOrder a.desc = false →
    stageBehind (chan s ch) k i = false → stageFor s ch (segStage a.desc g) = some sh → sharedBehind s ch a.arr sh = false → segLines a.desc g = [l] → pipesOf s (chan s ch) = p :: r →
    let g' := { g with st := .staged, stage := segStage a.desc g, shared := sh, reads := [{ va := l }] }
    let s1 := updSeg s ch k i (fun _ => g')
    pipeLook s1 p (ctxOf s f.ctx).space (l * 128) 1 .read (.src ch k i) = (t, .ok x) → x.glob = false →
    HomeQuiet t (srcReq s ch k i 0 f l x) port → dirOf t (srcReq s ch k i 0 f l x).line = {} → (srcReq s ch k i 0 f l x).line ∉ t.hom.aluLines →
    Ends (.segmentStageGrant ch k i) s (fun u =>
      (∃ A, activeOf u ch k = some (A, f) ∧ A.segs[i]? = some { g' with reads := [{ va := l, st := 1 }] }) ∧
      ReadFor u port (srcReq s ch k i 0 f l x).line
        (dataAns (srcReq s ch k i 0 f l x) .dataOnce (rdLine s (srcReq s ch k i 0 f l x).line) (linePois s (srcReq s ch k i 0 f l x).line)) ∧
      u.mem = s.mem)

/-- A slot of a pipe: a segment that outlasts its slot goes on in it; with nothing to run, the frame moves on; a ready segment of a plain MOVE whose destination is one line of a quiet
home is converted and written there, and no other byte of memory changes. -/
def Claim.PipeSlots : Prop :=
  ∀ (s s1 : State) (pipe : Nat), live s = true → pipe < 8 → cellFenced s (40 + pipe) = false → fenced s pMOV = false →
    (tget s.mov.busy pipe ≠ 0 → Ends (.pipeSlot pipe) s (fun t =>
      tget t.mov.frame pipe = (tget s.mov.frame pipe + 1) % 64 ∧ tget t.mov.busy pipe = tget s.mov.busy pipe - 1 ∧ t.mov.chans = s.mov.chans ∧ Frame [.mov] s t)) ∧
    (tget s.mov.busy pipe = 0 → pickChan s pipe = (s1, none) → Ends (.pipeSlot pipe) s (fun t =>
      tget t.mov.frame pipe = (tget s1.mov.frame pipe + 1) % 64 ∧ t.mov.chans = s1.mov.chans ∧ t.mem = s.mem)) ∧
    (∀ c k i a f g x port l e, tget s.mov.busy pipe = 0 → (∀ y, y ∈ g.reads → y.bad = false) → pickChan s pipe = (s1, some c) → readySeg (chan s1 c) = some (k, i) → activeOf s1 c k = some (a, f) →
      a.segs[i]? = some g → f.xfm = false → dConv a.desc = false → dRed a.desc = 0 → dStash a.desc = 0 →
      (rangeTouch (dstRange a.desc g)).dedup = [l] → (pipeLook s1 pipe (ctxOf s f.ctx).space (l * 128) 1 .write (.dst c k i)).2 = .ok x → x.glob = false → x.attr = 0 →
      packLines (dstRange a.desc g).1 (dWd a.desc) (convertSeg a.desc a.prog g (fun _ _ => 0)).elems = [e] → e.1 = l →
      HomeQuiet s (dstReq s c k i 0 f a.desc false x e) port → dirOf s (dstReq s c k i 0 f a.desc false x e).line = {} →
      Ends (.pipeSlot pipe) s (fun t =>
        let n := (dstReq s c k i 0 f a.desc false x e).line
        rdLine t n = mergeLine (rdLine s n) e.2.1 e.2.2.1 ∧ (∀ b, b / 128 ≠ n → memByte t b = memByte s b) ∧
        (∃ A F, activeOf t c k = some (A, F) ∧ ∃ G, A.segs[i]? = some G ∧ G.st = .written ∧ G.out = [])))

/-- The ends of segments and descriptors: a segment whose writes are performed is complete, its space free and its bytes counted; HALF is
reached once and FULL after it, with their doorbell bits; and the last descriptor of a command ends it. -/
def Claim.MoverEnds : Prop :=
  (∀ (s : State) (ch k i : Nat) (a : Active) (f : ChanCmd) (g : Seg), activeOf s ch k = some (a, f) → a.segs[i]? = some g → g.st = .written → g.out = [] →
    Ends (.segmentComplete ch k i) s (fun t =>
      (∃ A F, activeOf t ch k = some (A, F) ∧ A.segs[i]? = some { g with st := .done, stage := 0, shared := 0, reads := [] }) ∧
      (chan t ch).bytes = satAdd 48 (chan s ch).bytes (dstRange a.desc g).2 ∧ t.mov.segTotal = satAdd 32 s.mov.segTotal 1 ∧ Frame [.cnt, .mov] s t)) ∧
  (∀ (s : State) (ch : Nat) (a : Active) (l : List Active) (f : ChanCmd), (chan s ch).active = a :: l → activeOf s ch a.key = some (a, f) →
    a.half = false → rowsDone a (cdiv (dRows a.desc) 2) = true → ctxLive s f.ctx = true → bitOf (dw a.desc 6) 14 = false →
    ch < 64 → bitOf (dw a.desc 6) 16 = true → Ends (.halfPoint ch) s (fun t =>
      (∃ A r, (chan t ch).active = A :: r ∧ A = { a with half := true }) ∧ bitOf t.mov.chHalf ch = true ∧
      (bitOf s.mov.chHalf ch = false → bitOf (page t pMOV).irqRaw 0 = true) ∧ Frame [.pages, .cnt, .mov, .hst, .out] s t)) ∧
  (∀ (s : State) (ch : Nat) (a : Active) (l : List Active) (f : ChanCmd) (c : Cmd), (chan s ch).active = a :: l → activeOf s ch a.key = some (a, f) →
    a.half = true → a.segs.all (fun g => g.st == .done) = true → a.status = .ok → ctxLive s f.ctx = true → bitOf (dw a.desc 6) 15 = false →
    ch < 64 → bitOf (dw a.desc 6) 17 = true → f.next = f.count → (∀ b, b ∈ l → b.cmd ≠ a.cmd) → cmdOf s f.q f.seq = some c → c.st ≠ .retire →
    Ends (.fullPoint ch) s (fun t =>
      (∀ b, b ∈ (chan t ch).active → b.key ≠ a.key) ∧ bitOf t.mov.chFull ch = true ∧ t.mov.chErr = s.mov.chErr ∧
      (∀ y, y ∈ (chan t ch).fifo → ¬ (y.q = f.q ∧ y.seq = f.seq)) ∧ EndedAs t f.q f.seq f.status ∧
      Frame [.pages, .cnt, .mov, .lmp, .hst, .out] s t))

/-- The registers of the channels and of the slot table: a busy channel keeps its owner, and a pipe keeps slots that no partition seals. -/
def Claim.MoverRegisters : Prop :=
  (∀ (s : State) (a : Acc) (v : Word), UnitAdmits s a pMOV 0x208 →
    (chanBusy (chan s s.mov.chSel) = false ∨ (fld v 9 0 = (chan s s.mov.chSel).part ∧ bitOf v 10 = (chan s s.mov.chSel).owned) → Ends (.chCtlWrite a v) s (fun t =>
      chan t s.mov.chSel = { chan s s.mov.chSel with part := fld v 9 0, owned := bitOf v 10, weight := fld v 17 14, pipes := fld v 30 23, cap := fld v 43 32 } ∧
      (∀ c, c ≠ s.mov.chSel → chan t c = chan s c) ∧ (page t pMOV).last = .ok ∧ Frame [.pages, .mbx, .cnt, .mov, .hst, .out] s t)) ∧
    (chanBusy (chan s s.mov.chSel) = true → (fld v 9 0 ≠ (chan s s.mov.chSel).part ∨ bitOf v 10 ≠ (chan s s.mov.chSel).owned) → Ends (.chCtlWrite a v) s (fun t =>
      t.mov = s.mov ∧ (page t pMOV).last = .permission))) ∧
  (∀ (s : State) (a : Acc) (v : Word), UnitAdmits s a pMOV 0x240 →
    (sealedSlots (tset s.mov.slots s.mov.slotSel (fld v 10 0)) (s.mov.slotSel / 64) ≤ 48 → Ends (.slotCtlWrite a v) s (fun t =>
      tget t.mov.slots s.mov.slotSel = fld v 10 0 ∧ (∀ k, k ≠ s.mov.slotSel → tget t.mov.slots k = tget s.mov.slots k) ∧
      t.mov.slotsNow = s.mov.slotsNow ∧ (page t pMOV).last = .ok ∧ Frame [.pages, .mbx, .cnt, .mov, .hst, .out] s t)) ∧
    (48 < sealedSlots (tset s.mov.slots s.mov.slotSel (fld v 10 0)) (s.mov.slotSel / 64) → Ends (.slotCtlWrite a v) s (fun t =>
      t.mov = s.mov ∧ (page t pMOV).last = .quota)))

/-! ## The tiering engine -/

/-- Heat: at the end of a window every tracked entry takes its new heat under the settings that begin to hold, and the automatic choices
that follow name demotions only while frames run low, and only entries that the rules allow. -/
def Claim.TierHeat : Prop :=
  (∀ s : State, heatDue s = true → Ends .heatUpdate s (fun t =>
    (∀ k, tget t.tir.frames k = (let h := tget s.tir.frames k
      if tracked h.st = true then heatStep (clamp 1 8 (fld s.tir.cfg 7 4)) (fld s.tir.cfg 11 8) h else h)) ∧
    (∀ k, tget t.tir.embers k = (let h := tget s.tir.embers k
      if tracked h.st = true then heatStep (clamp 1 8 (fld s.tir.cfg 7 4)) (fld s.tir.cfg 11 8) h else h)) ∧
    t.tir.cfgNow = s.tir.cfg ∧ t.tir.threshNow = s.tir.thresh ∧ t.tir.winNow = s.tir.win ∧ t.tir.heatAt = s.bcn.count ∧
    Frame [.pages, .cnt, .tir, .hst, .out] s t)) ∧
  (∀ s : State, s.tir.autoDue = true → enabled s pTIR = true → fenced s pTIR = false → Ends .autoMoveChoice s (fun t =>
    t.tir.autoDue = false ∧ (∀ k, (false, k) ∈ t.tir.autoQ ↔ freeFrames s < lowFree s ∧ ∃ e, (k, e) ∈ demotable s) ∧
    (∀ k, (true, k) ∈ t.tir.autoQ → ∃ e, (k, e) ∈ promotable s) ∧ t.tir.moves = s.tir.moves ∧ Frame [.tir] s t))

/-- Moves of pages: a TIER_MOVE of no page ends with OK and another waits for its pages; an automatic promotion takes a free frame and copies
the page there line by line; a copy pass that left few lines dirty shows the page at its destination and withdraws it; and the end of a move
leaves the page there and the old place free. -/
def Obligations.TierMoves : Prop :=
  (∀ (s : State) (q n : Nat) (c : Cmd), Ready s q n 0x28 c → s.tir.cmds.find? (fun x => x.q == q && x.seq == n) = none →
    (fld (cw c 3) 31 0 = 0 → Ends (.tierMove q n) s (fun t => EndedAs t q n .ok ∧ t.tir.cmds = s.tir.cmds)) ∧
    (fld (cw c 3) 31 0 ≠ 0 → Ends (.tierMove q n) s (fun t =>
      (∃ x, t.tir.cmds = s.tir.cmds ++ [x] ∧ x.q = q ∧ x.seq = n ∧ x.promote = bitOf (cw c 3) 32 ∧ x.lossy = bitOf (cw c 3) 33 ∧
        x.next = fld (cw c 2) 56 22 ∧ x.rest = fld (cw c 3) 31 0 ∧ x.pages = fld (cw c 3) 31 0) ∧
      cmdOf t q n = some { c with st := .running } ∧ Frame [.tir, .lmp] s t))) ∧
  (∀ (s : State) (i k f : Nat), fenced s pTIR = false → s.build.tir = true → s.tir.cmds = [] → enabled s pTIR = true → moveSlot s true = some i →
    s.tir.autoQ.find? (fun e => autoFits s e.1 e.2) = some (true, k) → (tget s.tir.embers k).st = .ember →
    (part s (tget s.tir.embers k).part).st ≠ .closing → (part s (tget s.tir.embers k).part).st ≠ .scrub → takeFrame s = some f → s.tir.nearBase.toNat % 128 = 0 →
    (∀ l, l < 32768 → lineCurrent s kTier (unitLine s k + l) = true) →
    unitLine s k + 32768 ≤ frameLine s f ∨ frameLine s f + 32768 ≤ unitLine s k →
    Ends .tierMoveStart s (fun t =>
      tget t.tir.moves i = some { newMove s true k f none with units := (tget s.tir.embers k).units } ∧ (tget t.tir.frames f).st = .inn ∧
      t.tir.autoQ = s.tir.autoQ.erase (true, k) ∧ (∀ l, l < 32768 → rdLine t (frameLine s f + l) = rdLine s (unitLine s k + l)) ∧
      (∀ a, a / 128 < frameLine s f ∨ frameLine s f + 32768 ≤ a / 128 → memByte t a = memByte s a))) ∧
  (∀ (s : State) (i : Nat) (m : TierMove), tget s.tir.moves i = some m → m.lossy = false → m.step = .copy → m.broken = false → m.late = [] → recReady s kTier ((moveEntry s m).leaf / 128) = true →
    m.dirty.length ≤ m.switchLines → wdDraining s < 16 → rdWord s (moveEntry s m).leaf = (moveEntry s m).leafVal → (moveEntry s m).leaf % 8 = 0 →
    Ends (.copyPassEnd i) s (fun t =>
      rdWord t (moveEntry s m).leaf = shownLeaf s m (moveEntry s m) ∧
      tget t.tir.moves i = some { m with step := .withdraw, wd := some s.lan.wdNext } ∧
      (∃ w, t.lan.wds = s.lan.wds ++ [w] ∧ w.id = s.lan.wdNext ∧ w.kind = 1 ∧ w.target = (moveEntry s m).part ∧ w.base = (moveEntry s m).gpa ∧
        w.len = 1 ∧ w.src = .tier i))) ∧
  (∀ (s : State) (i : Nat) (m : TierMove), tget s.tir.moves i = some m → m.broken = false → m.wd = none → m.dirty = [] → m.late = [] → m.cmd = none →
    s.hom.waiters = [] → s.hom.setWait = [] →
    (m.lossy = false → m.step = .withdraw → m.fromFar = true → Ends (.switchFinalCopy i) s (fun t =>
      tget t.tir.moves i = none ∧
      tget t.tir.frames m.dst = { tget s.tir.embers m.src with moves := satAdd 32 (tget s.tir.embers m.src).moves 1, st := .resident, units := 0, slot := 0 } ∧
      tget t.tir.embers m.src = {} ∧ t.tir.promoteTotal = satAdd 32 s.tir.promoteTotal 1 ∧ t.mem = s.mem)) ∧
    (m.lossy = true → m.step = .shown → m.fromFar = false → Ends (.compressStep i) s (fun t =>
      tget t.tir.moves i = none ∧ (tget t.tir.embers m.dst).st = .emberMx ∧ (tget t.tir.embers m.dst).slot = m.slot ∧
      (tget t.tir.frames m.src).st = .free ∧ t.tir.demoteTotal = satAdd 32 s.tir.demoteTotal 1 ∧ t.tir.lossyTotal = satAdd 32 s.tir.lossyTotal 1 ∧
      t.mem = s.mem)))

/-- The pool registers are written only while tiering is off and no page is enrolled. -/
def Claim.PoolRegisters : Prop :=
  ∀ (s : State) (a : Acc) (off : Nat) (v : Word), off ∈ [0x218, 0x220, 0x228, 0x230, 0x238] → UnitAdmits s a pTIR off →
    (enabled s pTIR = false → anyEnrolled s = false → Ends (.poolRegisterWrite a off v) s (fun t =>
      t.tir = poolPut s.tir off v ∧ (page t pTIR).last = .ok ∧ Answered t a.st .ok [] ∧ Frame [.pages, .mbx, .cnt, .tir, .hst, .out] s t)) ∧
    (enabled s pTIR = true ∨ anyEnrolled s = true → Ends (.poolRegisterWrite a off v) s (fun t => t.tir = s.tir ∧ (page t pTIR).last = .permission))

/-! ## Memory ports and RAS -/

/-- A memory port: read data answers who waits for it, poison with it, fresh or stored, is counted, logged and passed on, a read that the controller never
answers fences the port, leaves the writes that wait unwritten and returns POISON, and credits that come back let what waits leave in its
order. -/
def Claim.MemoryPorts : Prop :=
  (∀ (s : State) (i tag h pois : Nat) (d : MemRead) (a : Answer), i < 4 → (tget s.mps i).reads.find? (fun x => x.tag == tag) = some d →
    d.ans = [a] → a.origin = .host h → hostUp s h = true → (hst s h).lat = [] → (false, tag) ∉ (tget s.mps i).queue →
    (pois % 256 = 0 → d.pois = 0 → Ends (.memoryResponse i tag pois) s (fun t =>
      OutTo t h (.ans a) ∧ (tget t.mps i).reads = (tget s.mps i).reads.erase d ∧ Frame [.hst, .mps, .out] s t)) ∧
    (pois % 256 = 0 → d.pois ≠ 0 → Ends (.memoryResponse i tag pois) s (fun t =>
      OutTo t h (.ans a) ∧ (tget t.mps i).poisonRd = satAdd 32 (tget s.mps i).poisonRd 1 ∧
      (∃ r, t.ras.log.head? = some r ∧ r.cls = .ueData ∧ r.page = pNMP0 + i ∧ r.addr = some (d.line * 128)) ∧
      Frame [.pages, .cnt, .ras, .hst, .mps, .out] s t)) ∧
    (pois % 256 ≠ 0 → a.kind ≠ .comp → a.status = .ok → Ends (.memoryResponse i tag pois) s (fun t =>
      OutTo t h (.ans { a with status := .poison, poison := a.poison ||| pois % 256 }) ∧ (tget t.mps i).poisonRd = satAdd 32 (tget s.mps i).poisonRd 1 ∧
      (∃ r, t.ras.log.head? = some r ∧ r.cls = .ueData ∧ r.page = pNMP0 + i ∧ r.addr = some (d.line * 128)) ∧
      Frame [.pages, .cnt, .ras, .hst, .mps, .out] s t)) ∧
    (present s (pNMP0 + i) = true → fenced s (pNMP0 + i) = false → (tget s.mps i).reads = [d] → a.kind ≠ .comp → a.status = .ok →
      Ends (.memoryReadTimeout i tag) s (fun t =>
        fenced t (pNMP0 + i) = true ∧ OutTo t h (.ans { a with status := .poison, poison := 0xFF }) ∧ (tget t.mps i).reads = [] ∧
        (∃ r, t.ras.log.head? = some r ∧ r.cls = .ueUnit ∧ r.page = pNMP0 + i ∧ r.index = i) ∧
        t.clk.cyc = max s.clk.cyc (max (d.cyc + mpTimeout s i) (tickCeil s (d.cyc + mpTimeout s i))) ∧
        t.mem = (putBackAll s (tget s.mps i).unwritten).mem))) ∧
  (∀ (s : State) (i c l : Nat), i < 4 → (tget s.mps i).en = true →
    ((tget s.mps i).queue = [] → Ends (.mpCreditReturn i c l) s (fun t =>
      (tget t.mps i).cmdCr = (tget s.mps i).cmdCr + min c 15 ∧ (tget t.mps i).lineCr = (tget s.mps i).lineCr + min l (mpLanes i) ∧ Frame [.mps] s t)) ∧
    (∀ n, (tget s.mps i).queue = [(true, n)] → 0 < (tget s.mps i).cmdCr + min c 15 → 0 < (tget s.mps i).lineCr + min l (mpLanes i) →
      Ends (.mpCreditReturn i c l) s (fun t =>
        t.out = s.out ++ [.mem i true 0 n] ∧ (tget t.mps i).queue = [] ∧ (tget t.mps i).cmdCr = (tget s.mps i).cmdCr + min c 15 - 1 ∧
        (tget t.mps i).lineCr = (tget s.mps i).lineCr + min l (mpLanes i) - 1 ∧ t.hom = { s.hom with wbuf := s.hom.wbuf.erase n } ∧
        Frame [.mps, .hom, .out] s t)))

/-- The patrol scrub: a corrected word is logged and counted and changes nothing else, an uncorrectable word of data leaves its chunks
poisoned, one of a unit that cannot be fenced is a FATAL, and the words of one pass are taken one after the other. -/
def Claim.PatrolScrub : Prop :=
  ∀ (s : State) (e : ScrubErr), live s = true →
    (e.uncorr = false → e.cell = none → e.page < pNMP0 → Ends (.patrolScrub [e]) s (fun t =>
      (∃ r, t.ras.log.head? = some r ∧ r.cls = .ce ∧ r.page = e.page) ∧ t.ras.ceTotal = satAdd 32 s.ras.ceTotal 1 ∧
      Frame [.pages, .cnt, .ras, .hst, .out] s t)) ∧
    (∀ line ch, e.uncorr = true → e.data = some (line, ch) → Ends (.patrolScrub [e]) s (fun t =>
      (∀ i, i < 8 → ch.testBit i = true → (linePois t line).testBit i = true) ∧ (∃ r, t.ras.log.head? = some r ∧ r.cls = .ueData ∧ r.page = e.page) ∧
      t.mem = s.mem ∧ Frame [.memPois, .pages, .cnt, .ras, .hst, .out] s t)) ∧
    (e.uncorr = true → e.data = none → e.cell = none → unfenceable e.page = true → Ends (.patrolScrub [e]) s (fun t =>
      (∃ r, t.ras.log.head? = some r ∧ r.cls = .fatal ∧ r.page = e.page) ∧ Frame [.pages, .mbx, .cnt, .ras, .hst, .out] s t)) ∧
    (∀ es t, exec (.patrolScrub [e]) s = .next t → live t = true → exec (.patrolScrub (e :: es)) s = exec (.patrolScrub es) t)

/-- Fencing a cell: a cell of the map is fenced and the interrupt raised (here with nothing in flight), one that the map does not have is
refused with PERMISSION; and a rebalance whose answers are all in ends. -/
def Claim.CellFences : Prop :=
  (∀ (s : State) (a : Acc) (v : Word), UnitAdmits s a pRAS 0x220 →
    (∀ b n, cellKind s (fld v 2 0) = some (b, n) → fld v 12 8 < n → cellFenced s (b + fld v 12 8) = false → s.ras.rebal = [] → Idle s →
      Ends (.fenceCellWrite a v) s (fun t =>
        cellFenced t (b + fld v 12 8) = true ∧ bitOf (page t pRAS).irqRaw 2 = true ∧ t.mem = s.mem)) ∧
    ((∀ b n, cellKind s (fld v 2 0) = some (b, n) → n ≤ fld v 12 8) → Ends (.fenceCellWrite a v) s (fun t =>
      t.ras = s.ras ∧ (page t pRAS).last = .permission ∧ Frame [.pages, .mbx, .cnt, .hst, .out] s t))) ∧
  (∀ (s : State) (sl : Nat), s.ras.rebal = [sl] → rebalDone s sl = true → s.ras.badDir = [] → s.ras.rebalKeep = [] → s.hom.waiters = [] → s.hom.setWait = [] →
    Ends .rebalanceComplete s (fun t => t.ras.rebal = [] ∧ bitOf (page t pRAS).irqRaw 3 = true ∧ t.det.fpStale = true ∧
      Frame [.pages, .cnt, .ras, .cas, .det, .hst, .out] s t)) ∧
  (∀ (s : State) (a : Acc) (v : Word), UnitAdmits s a pRAS 0x228 → Ends (.logSelWrite a v) s (fun t =>
    t.ras = { s.ras with logSel := fld v 7 0, logShown := s.ras.log.getD (fld v 7 0) {} } ∧ (page t pRAS).last = .ok ∧
    Frame [.pages, .mbx, .cnt, .ras, .hst, .out] s t))

/-! ## Services of Sudric -/

/-- REQUEST of a mailbox is taken: the words are gone, the bit is clear, and the service that the header names runs with the words that
follow; a request that sets a reserved bit, names no service or announces more words than there are is answered PERMISSION. -/
def Claim.RequestsTaken : Prop :=
  ∀ (s : State) (m : Nat) (h : Word) (args : List Word), mbServed s m = true → bitOf (mbox s m).h2sDb 0 = true → (mbox s m).h2s = h :: args →
    (fld h 19 16 = args.length → h &&& reqReserved = 0 → Ends (.requestTake m) s (fun t =>
      t = runService (armH2s (updMb s m (fun b => { b with h2s := [], h2sDb := setBit b.h2sDb 0 false })) m true) m (fld h 31 24) (fld h 15 0) args)) ∧
    ((args.length < fld h 19 16 ∨ (args.length = fld h 19 16 ∧ (h &&& reqReserved ≠ 0 ∨ 0xB0 < fld h 15 0))) → Ends (.requestTake m) s (fun t =>
      Replied t m (fld h 31 24) (fld h 15 0) .permission [] ∧ (mbox t m).h2s = [] ∧ bitOf (mbox t m).h2sDb 0 = false ∧ Frame [.mbx] s t))

/-- VERSION, LAST_REPLY, OVERRIDE_LOG and HEALTH answer what their registers and records hold. -/
def Claim.GeneralServices : Prop :=
  ∀ (s : State) (m seq : Nat) (a : Word),
    (SvcRuns s m seq { code := 0x0001, who := .any, masks := [mask 15 0] } [a] →
      (fld a 7 0 ≠ 0 → fld a 15 8 ≤ 1 → Ends (.version m seq [a]) s (fun t =>
        Replied t m seq 0x0001 .ok [versionWord 1] ∧ (mbox t m).version = 1 ∧ Frame [.mbx] s t)) ∧
      ((fld a 7 0 = 0 ∨ 1 < fld a 15 8) → Ends (.version m seq [a]) s (fun t =>
        Replied t m seq 0x0001 .permission [versionWord 0] ∧ (mbox t m).version = (mbox s m).version ∧ Frame [.mbx] s t))) ∧
    (SvcRuns s m seq { code := 0x0003, who := .any, masks := [mask 7 0] } [a] →
      (∀ h, (mbox s m).recent.find? (fun x => fld x 31 24 == fld a 7 0) = some h → Ends (.lastReply m seq [a]) s (fun t =>
        Replied t m seq 0x0003 .ok [h] ∧ Frame [.mbx] s t)) ∧
      ((mbox s m).recent.find? (fun x => fld x 31 24 == fld a 7 0) = none → Ends (.lastReply m seq [a]) s (fun t =>
        Replied t m seq 0x0003 .timeout [] ∧ Frame [.mbx] s t))) ∧
    (SvcRuns s m seq { code := 0x0002, who := .root0, masks := [mask 7 0] } [a] →
      (isPage (fld a 7 0) = true → present s (fld a 7 0) = true → Ends (.overrideLog m seq [a]) s (fun t =>
        Replied t m seq 0x0002 .ok (((page s (fld a 7 0)).log.take 7).flatMap (overrideWords (fld a 7 0))) ∧ Frame [.mbx] s t)) ∧
      (isPage (fld a 7 0) = true → present s (fld a 7 0) = false → Ends (.overrideLog m seq [a]) s (fun t =>
        Replied t m seq 0x0002 .unitAbsent [] ∧ Frame [.mbx] s t)) ∧
      (isPage (fld a 7 0) = false → Ends (.overrideLog m seq [a]) s (fun t => Replied t m seq 0x0002 .permission [] ∧ Frame [.mbx] s t))) ∧
    (SvcRuns s m seq { code := 0x00B0, who := .bmc, masks := [] } [] → Ends (.health m seq []) s (fun t =>
      Replied t m seq 0x00B0 .ok [pack [(0, s.ras.worstHealth), (8, s.ras.sinceHealth), (16, bitsSet (disLo s) + bitsSet (disHi s))], disLo s, disHi s,
        pack [(0, s.ras.ceTotal), (32, s.ras.ueTotal)]] ∧
      t.ras = { s.ras with worstHealth := 0, sinceHealth := 0 } ∧ Frame [.ras, .mbx] s t))

/-- BCN_SET sets the period and the source in force from the next counted tick on; a period out of range is refused. -/
def Claim.BeaconService : Prop :=
  ∀ (s : State) (m seq : Nat) (a b : Word),
    SvcRuns s m seq { code := 0x0010, who := .root, masks := [mask 23 0, mask 1 0 ||| mask 23 16], page := some pBCN } [a, b] →
    (250 ≤ fld a 23 0 → fld a 23 0 ≤ 16000 → fld b 1 0 = 0 → 300 ≤ periodOf s (fld a 23 0) → periodOf s (fld a 23 0) ≤ 35200 →
      Ends (.bcnSet m seq [a, b]) s (fun t =>
        Replied t m seq 0x0010 .ok [] ∧
        t.bcn.periodNext = some (pack [(0, periodOf s (fld a 23 0)), (20, winOf (periodOf s (fld a 23 0)))]) ∧
        fld t.bcn.cfg 23 16 = fld b 23 16 ∧ fld t.bcn.cfg 6 4 = shiftOf (periodOf s (fld a 23 0)) (winOf (periodOf s (fld a 23 0))) ∧
        bitOf t.bcn.cfg 2 = bitOf s.bcn.cfg 2 ∧ Frame [.pages, .bcn, .mbx] s t)) ∧
    ((fld a 23 0 < 250 ∨ 16000 < fld a 23 0) → Ends (.bcnSet m seq [a, b]) s (fun t => Replied t m seq 0x0010 .permission [] ∧ Frame [.mbx] s t))

/-- PART_OPEN opens a FREE partition under its key epoch, PART_SEAL gives a partition its slots in every pipe, and both refuse what the
rules refuse. -/
def Claim.OpenAndSeal : Prop :=
  (∀ (s : State) (m seq : Nat) (a : Word), SvcRuns s m seq { code := 0x0020, who := .root, masks := [mask 5 0] } [a] →
    (fld a 5 0 ≠ 0 → (part s (fld a 5 0)).st = .free → tget s.sec.epochs (fld a 5 0) < 0xFFFFFFFF → Ends (.partOpen m seq [a]) s (fun t =>
      Replied t m seq 0x0020 .ok [w64 (tget s.sec.epochs (fld a 5 0))] ∧ part t (fld a 5 0) = { part s (fld a 5 0) with st := .open_ } ∧
      (∀ q, q ≠ fld a 5 0 → part t q = part s q) ∧ Frame [.parts, .mbx, .cas, .out] s t)) ∧
    ((fld a 5 0 = 0 ∨ (part s (fld a 5 0)).st ≠ .free) → Ends (.partOpen m seq [a]) s (fun t =>
      Replied t m seq 0x0020 .permission [] ∧ Frame [.mbx, .cas, .out] s t)) ∧
    (fld a 5 0 ≠ 0 → (part s (fld a 5 0)).st = .free → 0xFFFFFFFF ≤ tget s.sec.epochs (fld a 5 0) → Ends (.partOpen m seq [a]) s (fun t =>
      Replied t m seq 0x0020 .quota [] ∧ Frame [.mbx, .cas, .out] s t))) ∧
  (∀ (s : State) (m seq : Nat) (a : Word),
    SvcRuns s m seq { code := 0x0021, who := .root, masks := [mask 13 0 &&& ~~~ (mask 7 6)], page := some pMOV } [a] →
    let p := fld a 5 0
    let n := fld a 13 8
    let map := tset s.sec.sealed p n
    let l := (openSlots (unsealSlots s.mov.slots p)).take n
    (p ≠ 0 → hasLive s p = false → (part s p).st ≠ .closing → (part s p).st ≠ .scrub → sealTotal map ≤ 48 → map.length ≤ 8 → l.length = n →
      (∀ i, i < 8 → sealedSlots (sealAt (unsealSlots s.mov.slots p) p l) i ≤ 48) → Ends (.partSeal m seq [a]) s (fun t =>
        Replied t m seq 0x0021 .ok [] ∧ t.sec = { s.sec with sealed := map, frame := l.foldl (fun f i => tset f i (p + 1024)) (unsealSlots s.sec.frame p) } ∧
        (∀ i pipe, i ∈ l → pipe < 8 → tget t.mov.slots (pipe * 64 + i) = p + 1024) ∧
        (∀ k, k ∉ l.flatMap (fun i => (List.range 8).map (fun pipe => pipe * 64 + i)) →
          tget t.mov.slots k = tget (unsealSlots s.mov.slots p) k) ∧
        Frame [.pages, .sec, .mov, .mbx, .cas, .out] s t)) ∧
    ((p = 0 ∨ hasLive s p = true ∨ (part s p).st = .closing ∨ (part s p).st = .scrub) → Ends (.partSeal m seq [a]) s (fun t =>
      Replied t m seq 0x0021 .permission [] ∧ Frame [.mbx, .cas, .out] s t)) ∧
    (p ≠ 0 → hasLive s p = false → (part s p).st ≠ .closing → (part s p).st ≠ .scrub → 48 < sealTotal map → Ends (.partSeal m seq [a]) s (fun t =>
      Replied t m seq 0x0021 .quota [] ∧ Frame [.mbx, .cas, .out] s t)))

/-- PART_CLOSE: an open partition is closing from then on and its reply is owed; once nothing of it is left its registrations are gone,
its key epoch has risen and Snuff runs. -/
def Claim.PartitionCloses : Prop :=
  (∀ (s : State) (m seq : Nat) (a : Word), SvcRuns s m seq { code := 0x0022, who := .root, masks := [mask 5 0], page := some pLMP } [a] →
    (fld a 5 0 ≠ 0 → (part s (fld a 5 0)).st = .open_ → Ends (.partClose m seq [a]) s (fun t =>
      (part t (fld a 5 0)).st = .closing ∧ (part t (fld a 5 0)).closeMb = m ∧ (part t (fld a 5 0)).closeSeq = seq ∧
      (ctxsOf s (fld a 5 0) = [] → (∀ q, q ≠ fld a 5 0 → part t q = part s q) ∧ Frame [.parts, .mbx, .cas, .out] s t))) ∧
    ((fld a 5 0 = 0 ∨ (part s (fld a 5 0)).st ≠ .open_) → Ends (.partClose m seq [a]) s (fun t =>
      Replied t m seq 0x0022 .permission [] ∧ Frame [.mbx, .cas, .out] s t))) ∧
  (∀ (s : State) (p : Nat), p < 64 → (part s p).st = .closing → s.sec.snuffPhase = 0 →
    (closeReady s p = true → ctxsOf s p = [] → s.hom.windows = [] → Ends (.closeDrainDone p) s (fun t =>
      (part t p).st = .scrub ∧ (part t p).objTbl = 0 ∧ (part t p).faultObj = none ∧ (part t p).dispObj = none ∧
      t.sec.snuffPart = p ∧ t.sec.snuffPhase = 1 ∧ t.sec.snuffEnd = s.clk.cyc + 8 ∧ t.sec.snuffMb = (part s p).closeMb ∧
      t.sec.snuffSeq = (part s p).closeSeq ∧ tget t.sec.epochs p = satAdd 32 (tget s.sec.epochs p) 1 ∧
      (∀ q, q ≠ p → tget t.sec.epochs q = tget s.sec.epochs q) ∧ Frame [.pages, .sec, .cnt, .parts, .eng, .hst, .hom, .fnc, .out] s t)) ∧
    (closeReady s p = false → Ends (.closeDrainDone p) s (fun t => t = s)))

/-- The phases of Snuff, here with no cached line of the partition: invalidation, writing, release. Every byte of the partition's ranges
becomes zero, every other byte stays, and at the end the partition is FREE, its entries are gone, its mailbox is reset and the close is
answered. -/
def Claim.Snuff : Prop :=
  ∀ (s : State), (knownLines s).all (fun l => !lineOfPart s s.sec.snuffPart l) = true →
    let p := s.sec.snuffPart
    (s.sec.snuffPhase = 1 → Ends .snuffPhaseEnd s (fun t =>
      t.sec = { s.sec with snuffPhase := 2, snuffEnd := s.sec.snuffEnd + phase2Len s } ∧ Frame [.clk, .sec] s t)) ∧
    (s.sec.snuffPhase = 2 → Ends .snuffPhaseEnd s (fun t =>
      t.sec = { s.sec with snuffPhase := 3, snuffEnd := s.sec.snuffEnd + snuffLines s p } ∧ Frame [.clk, .sec] s t)) ∧
    (s.sec.snuffPhase = 3 → (∀ e, e ∈ s.sec.layout → someFenced s e.2.base e.2.len = false) →
      (∀ e, e ∈ s.tir.frames ++ s.tir.embers → tracked e.2.st = false ∨ e.2.part ≠ p) → Ends .snuffPhaseEnd s (fun t =>
        t.sec = { s.sec with snuffPhase := 4, snuffEnd := s.sec.snuffEnd + 8 } ∧
        (∀ a, s.sec.layout.any (fun e => e.2.valid && !e.2.held && e.2.part == p && inEntry e.2 (a / 128)) = true → tget t.mem a = 0) ∧
        (∀ a, lineOfPart s p (a / 128) = false → tget t.mem a = tget s.mem a) ∧ Frame [.clk, .sec, .mem, .memPois, .memKey, .memScrub] s t)) ∧
    (s.sec.snuffPhase = 4 → Ends .snuffPhaseEnd s (fun t =>
      Replied t s.sec.snuffMb s.sec.snuffSeq 0x0022 .ok [] ∧ (part t p).st = .free ∧ (∀ q, q ≠ p → part t q = part s q) ∧
      (∀ e, e ∈ t.sec.layout → ¬ (e.2.valid = true ∧ e.2.held = false ∧ e.2.part = p)) ∧ (p ≠ s.sec.snuffMb → mbox t p = {}) ∧
      t.sec.snuffPhase = 0 ∧ t.sec.snuffTotal = satAdd 32 s.sec.snuffTotal 1 ∧ bitOf (page t pSEC).irqRaw 0 = true ∧ t.det.fpStale = true ∧
      Frame [.clk, .pages, .sec, .mbx, .cnt, .parts, .det, .hst, .tir, .out] s t))

/-- LAYOUT_SET: an assignment gives a range to a partition and is answered when no host request of the partition is on its way to its home any more, a
removal withdraws its translations first, when one of the 16 drains is free, and at its end every byte of the
range is zero, the entry is gone and the reply comes. -/
def Claim.LayoutServices : Prop :=
  (∀ (s : State) (m seq : Nat) (args : List Word),
    let v : Svc := { code := 0x0023, who := .root, masks := [mask 9 0 ||| mask 21 16 ||| mask 25 24, mask 45 22, mask 23 0] }
    let i := fld (argOf args 0) 9 0
    let p := fld (argOf args 0) 21 16
    let base := fld (argOf args 1) 45 22
    let len := fld (argOf args 2) 23 0
    (SvcRuns s m seq v (withOp args 25 24 1) →
      (assignRefused s i p base len = false → Ends (.layoutAssign m seq args) s (fun t =>
        tget t.sec.layout i = { part := p, valid := true, base := base, len := len } ∧
        (∀ j, j ≠ i → tget t.sec.layout j = tget s.sec.layout j) ∧ t.det = { s.det with fpStale := true } ∧
        ((notCoherent s).filter (ofHost p) = [] → Replied t m seq 0x0023 .ok [] ∧ t.lan = s.lan) ∧
        ((notCoherent s).filter (ofHost p) ≠ [] → ∃ w, t.lan.wds = s.lan.wds ++ [w] ∧ w.src = .assign m seq ∧
          w.tags = ((notCoherent s).filter (ofHost p)).map wdTag) ∧
        Frame [.sec, .det, .mbx, .lan, .cas, .out] s t)) ∧
      (assignRefused s i p base len = true → Ends (.layoutAssign m seq args) s (fun t => Replied t m seq 0x0023 .permission [] ∧ Frame [.mbx, .cas, .out] s t))) ∧
    (SvcRuns s m seq v (withOp args 25 24 2) →
      (removeRefused s i p = false → (tget s.sec.layout i).held = false → s.lan.wdWait = [] → wdDraining s < 16 → Ends (.layoutRemove m seq args) s (fun t =>
        tget t.sec.layout i = { tget s.sec.layout i with removing := 1, rmMb := m, rmSeq := seq } ∧
        (∃ w, t.lan.wds = s.lan.wds ++ [w] ∧ w.kind = 3 ∧ w.target = p ∧ w.src = .layout i) ∧ Frame [.sec, .mbx, .lan, .eng, .mov, .cas, .out] s t)) ∧
      (removeRefused s i p = false → (tget s.sec.layout i).held = false → s.lan.wdWait ≠ [] ∨ 16 ≤ wdDraining s → Ends (.layoutRemove m seq args) s (fun t =>
        tget t.sec.layout i = { tget s.sec.layout i with removing := 1, rmMb := m, rmSeq := seq } ∧
        (∃ w, t.lan.wdWait = s.lan.wdWait ++ [w] ∧ w.kind = 3 ∧ w.target = p ∧ w.src = .layout i) ∧ Frame [.sec, .mbx, .lan, .cas, .out] s t)) ∧
      (removeRefused s i p = true → Ends (.layoutRemove m seq args) s (fun t => Replied t m seq 0x0023 .permission [] ∧ Frame [.mbx, .cas, .out] s t)))) ∧
  (∀ (s : State) (i : Nat) (e : Layout), s.sec.snuffPhase = 0 → scrubbing s = some (i, e) → (knownLines s).all (fun l => !inEntry e l) = true →
    someFenced s e.base e.len = false → Ends .snuffPhaseEnd s (fun t =>
      Replied t e.rmMb e.rmSeq 0x0023 .ok [] ∧ tget t.sec.layout i = {} ∧ (∀ a, inEntry e (a / 128) = true → tget t.mem a = 0) ∧
      (∀ a, inEntry e (a / 128) = false → tget t.mem a = tget s.mem a) ∧ bitOf (page t pSEC).irqRaw 0 = true ∧
      Frame [.pages, .sec, .mbx, .cnt, .det, .hst, .mem, .memPois, .memKey, .memScrub, .out] s t))

/-- Contexts and spaces: the lowest free one is given and its number answered; a context that is destroyed is lost first, and a space that
is put back is withdrawn first, so their replies are owed. -/
def Claim.ContextServices : Prop :=
  ∀ (s : State) (m seq : Nat) (a : Word),
    (SvcRuns s m seq { code := 0x0030, who := .driver, masks := [mask 11 0], page := some pLMP } [a] →
      (∀ i, ownSpace s m (fld a 11 0) = true → freeCtx s = some i → Ends (.ctxCreate m seq [a]) s (fun t =>
        Replied t m seq 0x0030 .ok [w64 (ctxNum s i)] ∧ tget t.lmp.ctxs i = { part := m, space := fld a 11 0, st := .live } ∧
        (∀ j, j ≠ i → tget t.lmp.ctxs j = tget s.lmp.ctxs j) ∧
        tget t.lan.spaces (fld a 11 0) = { tget s.lan.spaces (fld a 11 0) with bound := (tget s.lan.spaces (fld a 11 0)).bound + 1 } ∧
        (∀ j, j ≠ fld a 11 0 → tget t.lan.spaces j = tget s.lan.spaces j) ∧ t.inUse = (uCtx, i) :: s.inUse ∧
        Frame [.pages, .lan, .lmp, .mbx, .inUse] s t)) ∧
      (ownSpace s m (fld a 11 0) = true → freeCtx s = none → Ends (.ctxCreate m seq [a]) s (fun t =>
        Replied t m seq 0x0030 .quota [] ∧ Frame [.mbx] s t)) ∧
      (ownSpace s m (fld a 11 0) = false → Ends (.ctxCreate m seq [a]) s (fun t => Replied t m seq 0x0030 .permission [] ∧ Frame [.mbx] s t))) ∧
    (SvcRuns s m seq { code := 0x0031, who := .driver, masks := [mask 15 0], page := some pLMP } [a] →
      let c := fld a 15 0
      (∀ i, ctxIdx s c = some i → (ctxOf s c).part = m → (ctxOf s c).killMb = none →
        ((ctxOf s c).st = .live → Ends (.ctxDestroy m seq [a]) s (fun t =>
          ctxOf t c = { ctxOf s c with killMb := some (m, seq), doomed := some ((ctxOf s c).doomed.getD .contextLost) } ∧ Frame [.lmp, .mbx] s t)) ∧
        ((ctxOf s c).st = .lost → Ends (.ctxDestroy m seq [a]) s (fun t =>
          ctxOf t c = { ctxOf s c with killMb := some (m, seq), st := .killing } ∧ Frame [.lmp, .mbx] s t))) ∧
      (ctxIdx s c = none ∨ ((ctxOf s c).st ≠ .free ∧ (ctxOf s c).part ≠ m) → Ends (.ctxDestroy m seq [a]) s (fun t =>
        Replied t m seq 0x0031 .permission [] ∧ Frame [.mbx] s t))) ∧
    (SvcRuns s m seq { code := 0x0032, who := .driver, masks := [mask 51 15], page := some pLAN } [a] →
      (∀ i, freeSpace s = some i → Ends (.spaceGet m seq [a]) s (fun t =>
        Replied t m seq 0x0032 .ok [w64 i] ∧
        tget t.lan.spaces i = { tget s.lan.spaces i with valid := true, root := fld a 51 15 * 2 ^ 15, part := m, taken := true, sizes := 0 } ∧
        (∀ j, j ≠ i → tget t.lan.spaces j = tget s.lan.spaces j) ∧ t.inUse = (uSpace, i) :: s.inUse ∧
        Frame [.pages, .lan, .mbx, .inUse, .cas, .out] s t)) ∧
      (freeSpace s = none → Ends (.spaceGet m seq [a]) s (fun t => Replied t m seq 0x0032 .quota [] ∧ Frame [.mbx, .cas, .out] s t))) ∧
    (SvcRuns s m seq { code := 0x0033, who := .driver, masks := [mask 11 0], page := some pLAN } [a] →
      ((tget s.lan.spaces (fld a 11 0)).bound = 0 → (tget s.lan.spaces (fld a 11 0)).part = m → (tget s.lan.spaces (fld a 11 0)).putMb = none →
        s.lan.wdWait = [] → wdDraining s < 16 → Ends (.spacePut m seq [a]) s (fun t =>
        (tget t.lan.spaces (fld a 11 0)).putMb = some (m, seq) ∧
        (∃ w, t.lan.wds = s.lan.wds ++ [w] ∧ w.kind = 2 ∧ w.target = fld a 11 0 ∧ w.src = .space (fld a 11 0) m seq) ∧
        Frame [.lan, .eng, .mov, .mbx, .cas, .out] s t)) ∧
      ((tget s.lan.spaces (fld a 11 0)).bound ≠ 0 ∨ (tget s.lan.spaces (fld a 11 0)).part ≠ m → Ends (.spacePut m seq [a]) s (fun t =>
        Replied t m seq 0x0033 .permission [] ∧ Frame [.mbx, .cas, .out] s t)))

/-- Queues: QUEUE_CREATE enables the lowest free queue with its rings, PRIV is for partition 0 only, and QUEUE_DESTROY disables a queue and
answers when its last command has retired. -/
def Claim.QueueServices : Prop :=
  (∀ (s : State) (m seq : Nat) (a b c : Word),
    SvcRuns s m seq { code := 0x0034, who := .driver, masks := [mask 56 6, mask 56 5, mask 4 0 ||| mask 32 16], page := some pLMP } [a, b, c] →
    (∀ q, (bitOf c 32 = true → m = 0) → mayEnable s (newQueue m a b c) (queueCtl c) = true → freeQueue s = some q →
      Ends (.queueCreate m seq [a, b, c]) s (fun t =>
        Replied t m seq 0x0034 .ok [w64 q] ∧ queue t q = newQueue m a b c ∧ (∀ r, r ≠ q → queue t r = queue s r) ∧
        t.inUse = (uQueue, q) :: s.inUse ∧ Frame [.pages, .lmp, .mbx, .inUse] s t)) ∧
    ((bitOf c 32 = true ∧ m ≠ 0) ∨ mayEnable s (newQueue m a b c) (queueCtl c) = false → Ends (.queueCreate m seq [a, b, c]) s (fun t =>
      Replied t m seq 0x0034 .permission [] ∧ Frame [.mbx] s t))) ∧
  (∀ (s : State) (m seq : Nat) (a : Word), SvcRuns s m seq { code := 0x0035, who := .driver, masks := [mask 9 0], page := some pLMP } [a] →
    let q := fld a 9 0
    (queueFree s q = false → (queue s q).part = m → (queue s q).killMb = none →
      (qInFlight s q = 0 → Ends (.queueDestroy m seq [a]) s (fun t =>
        Replied t m seq 0x0035 .ok [] ∧ queue t q = {} ∧ (∀ r, r ≠ q → queue t r = queue s r) ∧ Frame [.pages, .lmp, .mbx] s t)) ∧
      (qInFlight s q ≠ 0 → Ends (.queueDestroy m seq [a]) s (fun t =>
        queue t q = { queue s q with enable := false, killMb := some (m, seq) } ∧ (∀ r, r ≠ q → queue t r = queue s r) ∧ Frame [.pages, .lmp, .mbx] s t))) ∧
    ((queue s q).part ≠ m → Ends (.queueDestroy m seq [a]) s (fun t => Replied t m seq 0x0035 .permission [] ∧ Frame [.mbx] s t)))

/-- Tables and rings of a partition: they are registered while the rules admit them, and a registration takes the references of its
objects. -/
def Claim.RingServices : Prop :=
  (∀ (s : State) (m seq : Nat) (a b c : Word),
    SvcRuns s m seq { code := 0x0036, who := .driver, masks := [mask 4 0 ||| mask 51 12, mask 51 6, mask 4 0 ||| mask 31 8 ||| mask 63 32], page := some pLMP }
      [a, b, c] →
    (partCtxBusy s m = false → objTableOk s m a b c = true → Ends (.objTableSet m seq [a, b, c]) s (fun t =>
      Replied t m seq 0x0036 .ok [] ∧
      part t m = { part s m with objTbl := a, relBase := b, relCtl := c, relProduce := 0, relHold := [], relFail := false } ∧
      (∀ q, q ≠ m → part t q = part s q) ∧ Frame [.pages, .parts, .mbx, .cas, .out] s t)) ∧
    ((partCtxBusy s m = true ∨ objTableOk s m a b c = false) → Ends (.objTableSet m seq [a, b, c]) s (fun t =>
      Replied t m seq 0x0036 .permission [] ∧ Frame [.mbx, .cas, .out] s t))) ∧
  (∀ (s : State) (m seq : Nat) (a b c : Word),
    SvcRuns s m seq { code := 0x0037, who := .driver, masks := [mask 23 0, mask 4 0, mask 23 0 ||| mask 63 32] } [a, b, c] →
    let o := fld a 23 0
    let n := fld b 4 0
    let f := fld c 23 0
    let i := fld c 63 32
    linesAsk s kSudric [] (objLines s m ([o, f] ++ faultRefs (part s m))) = none →
    (∀ u, 6 ≤ n → n ≤ 16 → ringObjOk s m o false (64 + 2 ^ n * 64) = true → ringObjOk s m f true ((i + 1) * 64) = true →
      takeAll s m [] [o, f] = (u, .ok) → Ends (.faultRingSet m seq [a, b, c]) s (fun t =>
        let x := { part s m with faultObj := some o, faultLog := n, faultFObj := f, faultFIdx := i, faultProduce := 0, ringFail := false }
        Replied t m seq 0x0037 .ok [] ∧ part t m = { x with goneTodo := (part t m).goneTodo } ∧ (∀ q, q ≠ m → part t q = part s q) ∧
        ((part s m).faultObj = none → t.mem = u.mem ∧ part t m = x ∧ Frame [.parts, .mbx, .hom, .mem, .memPois, .memKey, .cas, .out] s t))) ∧
    (n < 6 ∨ 16 < n ∨ ringObjOk s m o false (64 + 2 ^ n * 64) = false → Ends (.faultRingSet m seq [a, b, c]) s (fun t =>
      Replied t m seq 0x0037 .permission [] ∧ Frame [.mbx, .hom, .cas, .out] s t))) ∧
  (∀ (s : State) (m seq : Nat) (a b : Word), SvcRuns s m seq { code := 0x0038, who := .driver, masks := [mask 23 0, mask 3 0] } [a, b] →
    let o := fld a 23 0
    let n := fld b 3 0
    linesAsk s kSudric [] (objLines s m ([o] ++ (part s m).dispObj.toList)) = none →
    (∀ u, 4 ≤ n → n ≤ 12 → ringObjOk s m o true (2 ^ n * 128) = true → takeAll s m [] [o] = (u, .ok) → Ends (.dispatchRingSet m seq [a, b]) s (fun t =>
        let x := { part s m with dispObj := some o, dispLog := n, dispNext := 0 }
        Replied t m seq 0x0038 .ok [] ∧ part t m = { x with goneTodo := (part t m).goneTodo } ∧ (∀ q, q ≠ m → part t q = part s q) ∧
        ((part s m).dispObj = none → t.mem = u.mem ∧ part t m = x ∧ Frame [.parts, .mbx, .hom, .mem, .memPois, .memKey, .cas, .out] s t))) ∧
    (n < 4 ∨ 12 < n ∨ ringObjOk s m o true (2 ^ n * 128) = false → Ends (.dispatchRingSet m seq [a, b]) s (fun t =>
      Replied t m seq 0x0038 .permission [] ∧ Frame [.mbx, .hom, .cas, .out] s t)))

/-- RESUME: RETRY lets the held bytes walk again, ABORT ends the pause with UNMAPPED and loses its contexts, and a token that is not
paused is answered TIMEOUT. -/
def Claim.Resumes : Prop :=
  ∀ (s : State) (m seq : Nat) (args : List Word) (v : Bool),
    let l := lmod args 0 (fun a => setBit a 16 v)
    let k := fld (argOf l 0) 15 0
    let c : Instr := if v then .resumeAbort m seq args else .resumeRetry m seq args
    SvcRuns s m seq { code := 0x0039, who := .driver, masks := [mask 16 0] } l →
    (1 ≤ k → k ≤ 1024 → (tget s.eng.tokens k).st = .paused → (tget s.eng.tokens k).part = m →
      (v = false → tokenHeld s k = true → (∀ ch, (chan s ch).paused.contains k = false) → Ends c s (fun t =>
        Replied t m seq 0x0039 .ok [] ∧ (tget t.eng.tokens k).st = .retrying ∧
        (∀ n r, tget t.eng.reqs n = some r → ∀ b, b ∈ r.bursts → b.token = k → b.st = .waiting) ∧ Frame [.eng, .mbx] s t)) ∧
      (v = true → Ends c s (fun t =>
        Replied t m seq 0x0039 .ok [] ∧ tget t.eng.tokens k = {} ∧
        (∀ x, x ∈ (tget s.eng.tokens k).ctxs → ctxLive s x = true → (ctxOf t x).doomed ≠ none) ∧
        (∀ ch, (chan t ch).paused.contains k = false) ∧ t.mem = s.mem))) ∧
    ((k = 0 ∨ 1024 < k ∨ (tget s.eng.tokens k).st = .free) → Ends c s (fun t => Replied t m seq 0x0039 .timeout [] ∧ Frame [.mbx] s t)) ∧
    (1 ≤ k → k ≤ 1024 → (tget s.eng.tokens k).st = .paused → (tget s.eng.tokens k).part ≠ m → Ends c s (fun t =>
      Replied t m seq 0x0039 .permission [] ∧ Frame [.mbx] s t))

/-- Watches of a host: a watch of a record that the partition may name holds the record's object and tells its number; an unwatch sets the
watch's doorbell bit and frees it. -/
def Claim.HostWatches : Prop :=
  (∀ (s : State) (m seq : Nat) (a b c : Word),
    SvcRuns s m seq { code := 0x0040, who := .driver, masks := [mask 23 0 ||| mask 63 32, BitVec.allOnes 64, mask 36 0] } [a, b, c] →
    linesAsk s kSudric (fenceLine s m (fld a 23 0) (fld a 63 32)) (objLines s m [fld a 23 0]) = none →
    (∀ g x i u r, fenceCheck s m (fld a 23 0) (fld a 63 32) = some g → gpaLookup s m g = (.ok, x, none) → recKind s x = 0 → 8 ≤ fld c 36 32 →
      freeWatch s m = some i → objOp s m (fld a 23 0) true = (u, .ok, r) → Ends (.fenceWatch m seq [a, b, c]) s (fun t =>
        Replied t m seq 0x0040 .ok [w64 i] ∧
        watchOf t i = some { host := some (fld c 36 32), part := m, obj := fld a 23 0, idx := fld a 63 32, npa := x, target := b,
                             due := if fld c 31 0 = 0 then none else some (s.bcn.count + w64 (fld c 31 0)) } ∧
        (∀ j, j ≠ i → watchOf t j = watchOf s j) ∧ t.mem = u.mem ∧ Frame [.fnc, .mbx, .hom, .inUse, .mem, .memPois, .memKey] s t)) ∧
    (fenceCheck s m (fld a 23 0) (fld a 63 32) = none → Ends (.fenceWatch m seq [a, b, c]) s (fun t =>
      Replied t m seq 0x0040 .permission [] ∧ Frame [.mbx, .hom] s t))) ∧
  (∀ (s : State) (m seq : Nat) (a : Word), SvcRuns s m seq { code := 0x0041, who := .driver, masks := [mask 12 0] } [a] →
    (∀ w b, watchOf s (fld a 12 0) = some w → w.host = some b → w.part = m → b < 32 → Ends (.fenceUnwatch m seq [a]) s (fun t =>
      Replied t m seq 0x0041 .ok [] ∧ watchOf t (fld a 12 0) = none ∧ (∀ j, j ≠ fld a 12 0 → watchOf t j = watchOf s j) ∧
      bitOf (mbox t m).s2hDb b = true)) ∧
    (watchOf s (fld a 12 0) = none → Ends (.fenceUnwatch m seq [a]) s (fun t => Replied t m seq 0x0041 .permission [] ∧ Frame [.mbx] s t)))

/-- CHAN_ASSIGN sets a channel's owner, weight, pipes and cap, XFM_LOAD loads a program into a slot of the caller's own, and a slot of
another partition is refused. -/
def Claim.UnitServices : Prop :=
  (∀ (s : State) (m seq : Nat) (a v : Word),
    SvcRuns s m seq { code := 0x0050, who := .root0, masks := [mask 5 0, chCtlMask], unit := some pMOV, page := some pMOV } [a, v] →
    (chanBusy (chan s (fld a 5 0)) = false ∨ (fld v 9 0 = (chan s (fld a 5 0)).part ∧ bitOf v 10 = (chan s (fld a 5 0)).owned) → Ends (.chanAssign m seq [a, v]) s (fun t =>
      Replied t m seq 0x0050 .ok [] ∧
      chan t (fld a 5 0) = { chan s (fld a 5 0) with part := fld v 9 0, owned := bitOf v 10, weight := fld v 17 14, pipes := fld v 30 23,
                                                      cap := fld v 43 32 } ∧
      (∀ c, c ≠ fld a 5 0 → chan t c = chan s c) ∧ Frame [.pages, .mov, .mbx] s t)) ∧
    (chanBusy (chan s (fld a 5 0)) = true → fld v 9 0 ≠ (chan s (fld a 5 0)).part ∨ bitOf v 10 ≠ (chan s (fld a 5 0)).owned → Ends (.chanAssign m seq [a, v]) s (fun t =>
      Replied t m seq 0x0050 .permission [] ∧ Frame [.mbx] s t))) ∧
  (∀ (s : State) (m seq : Nat) (a b : Word), SvcRuns s m seq { code := 0x0051, who := .driver, masks := [mask 7 0, mask 51 8], unit := some pXFM } [a, b] →
    linesAsk s kSudric (gpaLines s m (fld b 51 8 * 256) 256) [] = none →
    (∀ p, fld (tget s.xfm.own (fld a 7 0)) 9 0 = m → bitOf (tget s.xfm.own (fld a 7 0)) 11 = false →
      gpaImage s m (fld b 51 8 * 256) = .ok p → progFieldsOk p = true → Ends (.xfmLoad m seq [a, b]) s (fun t =>
        Replied t m seq 0x0051 .ok [] ∧ (∀ i, i < 32 → tget t.xfm.store (32 * fld a 7 0 + i) = p.getD i 0) ∧
        (∀ j, j / 32 ≠ fld a 7 0 → tget t.xfm.store j = tget s.xfm.store j) ∧ t.det = { s.det with fpStale := true } ∧
        Frame [.xfm, .det, .mbx, .hom] s t)) ∧
    (fld (tget s.xfm.own (fld a 7 0)) 9 0 ≠ m → Ends (.xfmLoad m seq [a, b]) s (fun t => Replied t m seq 0x0051 .permission [] ∧ Frame [.mbx, .hom] s t)))

/-- Coherent windows: CWIN_SET opens a window that the rules admit and clears one at once; a cleared window is drained when its last remote
copy is gone. -/
def Claim.WindowServices : Prop :=
  (∀ (s : State) (m seq : Nat) (a b c : Word),
    SvcRuns s m seq { code := 0x0068, who := .root, masks := [mask 5 0, mask 42 0, mask 47 0], page := some pHOM } [a, b, c] →
    let i := fld a 5 0
    (bitOf b 0 = true → winRefused s i { w0 := b, w1 := c } = none → Ends (.cwinSet m seq [a, b, c]) s (fun t =>
      Replied t m seq 0x0068 .ok [] ∧ tget t.hom.windows i = { w0 := b, w1 := c } ∧
      (∀ j, j ≠ i → tget t.hom.windows j = tget s.hom.windows j) ∧ Frame [.hom, .mbx] s t)) ∧
    (∀ st, bitOf b 0 = true → winRefused s i { w0 := b, w1 := c } = some st → Ends (.cwinSet m seq [a, b, c]) s (fun t =>
      Replied t m seq 0x0068 st [] ∧ Frame [.mbx] s t)) ∧
    (bitOf b 0 = false → Ends (.cwinSet m seq [a, b, c]) s (fun t =>
      Replied t m seq 0x0068 .ok [] ∧ tget t.hom.windows i = { w0 := b, w1 := c } ∧
      (∀ j, j ≠ i → tget t.hom.windows j = tget s.hom.windows j) ∧
      (winCopies s (tget s.hom.windows i) = [] → Frame [.hom, .mbx] s t)))) ∧
  (∀ (s : State) (i : Nat), winCopies s (tget s.hom.winDrain i) = [] → s.hom.txns = [] → Ends (.windowDrainDone i) s (fun t =>
    tget t.hom.winDrain i = {} ∧ (∀ j, j ≠ i → tget t.hom.winDrain j = tget s.hom.winDrain j) ∧ t.hom.windows = s.hom.windows ∧ Frame [.hom] s t))

/-- Ordered reduction sessions: RED_OPEN takes the record that it names, RED_BIND and RED_UNBIND give and take a context's place as a
contributor, and RED_CLOSE ends the session. -/
def Claim.ReductionServices : Prop :=
  (∀ (s : State) (m seq : Nat) (a : Word), SvcRuns s m seq { code := 0x0060, who := .driver, masks := [mask 51 6] } [a] →
    linesAsk s kSudric (gpaLines s m (fld a 51 6 * 64) 64) [] = none →
    (∀ x i, gpaLookup s m (fld a 51 6 * 64) = (.ok, x, none) → bytesPois s x 64 = false →
      sessionOk s (rdWords s x 8) (sessionOf (rdWords s x 8) m x) = true → freeSession s = some i → Ends (.redOpen m seq [a]) s (fun t =>
        Replied t m seq 0x0060 .ok [w64 i] ∧ tget t.hom.sessions i = some (sessionOf (rdWords s x 8) m x) ∧
        (∀ j, j ≠ i → tget t.hom.sessions j = tget s.hom.sessions j) ∧ Frame [.hom, .mbx, .inUse, .cas, .out] s t)) ∧
    (∀ x, gpaLookup s m (fld a 51 6 * 64) = (.ok, x, none) → bytesPois s x 64 = false →
      sessionOk s (rdWords s x 8) (sessionOf (rdWords s x 8) m x) = false → Ends (.redOpen m seq [a]) s (fun t =>
        Replied t m seq 0x0060 .permission [] ∧ Frame [.mbx, .hom, .cas, .out] s t))) ∧
  (∀ (s : State) (m seq : Nat) (a b : Word), SvcRuns s m seq { code := 0x0061, who := .driver, masks := [mask 7 0, mask 35 0] } [a, b] →
    (∀ q, ownSession s m (fld a 7 0) = some q → ownCtx s m (fld b 15 0) = true → fld b 35 16 < q.n → Ends (.redBind m seq [a, b]) s (fun t =>
      Replied t m seq 0x0061 .ok [] ∧ tget t.hom.binds (fld b 15 0 % 4096) = some (fld s.cas.nodeId 15 0, fld a 7 0, fld b 35 16) ∧
      (∀ j, j ≠ fld b 15 0 % 4096 → tget t.hom.binds j = tget s.hom.binds j) ∧ Frame [.hom, .mbx, .cas, .out] s t)) ∧
    (ownSession s m (fld a 7 0) = none → Ends (.redBind m seq [a, b]) s (fun t => Replied t m seq 0x0061 .permission [] ∧ Frame [.mbx, .cas, .out] s t))) ∧
  (∀ (s : State) (m seq : Nat) (a : Word),
    (SvcRuns s m seq { code := 0x0062, who := .driver, masks := [mask 15 0] } [a] →
      (ownCtx s m (fld a 15 0) = true → Ends (.redUnbind m seq [a]) s (fun t =>
        Replied t m seq 0x0062 .ok [] ∧ tget t.hom.binds (fld a 15 0 % 4096) = none ∧
        (∀ j, j ≠ fld a 15 0 % 4096 → tget t.hom.binds j = tget s.hom.binds j) ∧ Frame [.hom, .mbx, .cas, .out] s t)) ∧
      (ownCtx s m (fld a 15 0) = false → Ends (.redUnbind m seq [a]) s (fun t => Replied t m seq 0x0062 .permission [] ∧ Frame [.mbx, .cas, .out] s t))) ∧
    (SvcRuns s m seq { code := 0x0063, who := .driver, masks := [mask 7 0] } [a] →
      (∀ q, ownSession s m (fld a 7 0) = some q → Ends (.redClose m seq [a]) s (fun t =>
        Replied t m seq 0x0063 .ok [] ∧ tget t.hom.sessions (fld a 7 0) = none ∧ (∀ j, j ≠ fld a 7 0 → tget t.hom.sessions j = tget s.hom.sessions j) ∧
        (∀ r, r ∈ t.hom.redLines → r.sess ≠ fld a 7 0) ∧ (∀ w, w ∈ t.hom.redWins → w.sess ≠ fld a 7 0) ∧ Frame [.hom, .mbx, .cas, .out] s t)) ∧
      (ownSession s m (fld a 7 0) = none → Ends (.redClose m seq [a]) s (fun t => Replied t m seq 0x0063 .permission [] ∧ Frame [.mbx, .cas, .out] s t))))

/-- Tiering: TIER_ENROL enrols the pages of an object that may be tiered and answers how many were and were not, TIER_UNENROL gives the
resident ones back, and TIER_POLICY sets the three registers when the thresholds rise. -/
def Claim.TierServices : Prop :=
  (∀ (s : State) (m seq : Nat) (a : Word),
    (SvcRuns s m seq { code := 0x0070, who := .driver, masks := [mask 23 0], unit := some pTIR } [a] →
      let id := fld a 23 0
      linesAsk s kSudric (enrolLines s m id) [] = none →
      (∀ x, tierObj s m id = .ok x → fld (rdWord s (x + 24)) 31 0 = 1 → bitOf (rdWord s x) 4 = false →
        let g := fld (rdWord s (x + 16)) 51 22 * 2 ^ 22
        (∀ l v f, enrolPlace s m g = some (l, v, f) → Ends (.tierEnrol m seq [a]) s (fun t =>
          Replied t m seq 0x0070 .ok [pack [(0, 1), (32, 0)]] ∧
          (let h := tget t.tir.frames f
           h.st = .resident ∧ h.auto = true ∧ h.lossyOk = false ∧ h.part = m ∧ h.obj = id ∧ h.leaf = l ∧ h.leafVal = v ∧ h.gpa = g) ∧
          (∀ j, j ≠ f → tget t.tir.frames j = tget s.tir.frames j) ∧ Frame [.tir, .mbx, .hom, .cas, .out] s t)) ∧
        (enrolPlace s m g = none → Ends (.tierEnrol m seq [a]) s (fun t =>
          Replied t m seq 0x0070 .ok [pack [(0, 0), (32, 1)]] ∧ Frame [.mbx, .hom, .cas, .out] s t))) ∧
      (∀ st, tierObj s m id = .error st → Ends (.tierEnrol m seq [a]) s (fun t => Replied t m seq 0x0070 st [] ∧ Frame [.mbx, .hom, .cas, .out] s t))) ∧
    (SvcRuns s m seq { code := 0x0071, who := .driver, masks := [mask 23 0], unit := some pTIR } [a] → Ends (.tierUnenrol m seq [a]) s (fun t =>
      Replied t m seq 0x0071 (if objAway s m (fld a 23 0) then .partly else .ok) [] ∧
      t.tir.frames = s.tir.frames.filter (fun e => !(e.2.st == .resident && e.2.part == m && e.2.obj == fld a 23 0)) ∧ t.tir.embers = s.tir.embers ∧
      Frame [.tir, .mbx, .cas, .out] s t))) ∧
  (∀ (s : State) (m seq : Nat) (a b c : Word),
    SvcRuns s m seq { code := 0x0072, who := .root0, masks := [mask 0 0 ||| mask 28 4, mask 47 0, mask 31 0], unit := some pTIR, page := some pTIR } [a, b, c] →
    (fld b 7 0 < fld b 15 8 → Ends (.tierPolicy m seq [a, b, c]) s (fun t =>
      Replied t m seq 0x0072 .ok [] ∧ t.tir = { s.tir with cfg := a, thresh := b, win := c } ∧ Frame [.pages, .tir, .mbx, .cas, .out] s t)) ∧
    (fld b 15 8 ≤ fld b 7 0 → Ends (.tierPolicy m seq [a, b, c]) s (fun t => Replied t m seq 0x0072 .permission [] ∧ Frame [.mbx, .cas, .out] s t)))

/-- Attestation with current fingerprints: a report goes to the caller's memory or into the buffer of its mailbox, and its pieces are read
out; while the fingerprints are stale the request waits. -/
def Claim.Attestation : Prop :=
  ∀ (s : State) (m seq : Nat) (args : List Word),
    let v : Svc := { code := 0x0080, who := .attest, masks := [mask 1 0 ||| mask 31 16, mask 51 6] ++ List.replicate 4 (BitVec.allOnes 64) }
    let r := reportOf s m (nonceOf args)
    (SvcRuns s m seq v (withOp args 1 0 0) → s.det.fpStale = false →
      (m < 64 → rangeInLayout s m (fld (argOf args 1) 51 6 * 64) r.length = true → Ends (.attestWrite m seq args) s (fun t =>
        Replied t m seq 0x0080 .ok [w64 r.length] ∧
        t.sec = (if s.fuses.lifecycle = .secured then { s.sec with attestTotal := satAdd 32 s.sec.attestTotal 1 } else s.sec))) ∧
      ((64 ≤ m ∨ rangeInLayout s m (fld (argOf args 1) 51 6 * 64) r.length = false) → Ends (.attestWrite m seq args) s (fun t =>
        Replied t m seq 0x0080 .permission [] ∧ Frame [.mbx] s t))) ∧
    (SvcRuns s m seq v (withOp args 1 0 0) → s.det.fpStale = true → Ends (.attestWrite m seq args) s (fun t =>
      t.det = { s.det with fpWait := s.det.fpWait ++ [(m, seq, 0x0080, withOp args 1 0 0)] } ∧ Frame [.det, .mbx] s t)) ∧
    (SvcRuns s m seq v (withOp args 1 0 1) → s.det.fpStale = false → (m = 0 ∨ m = 64) → Ends (.attestCapture m seq args) s (fun t =>
      Replied t m seq 0x0080 .ok [w64 r.length] ∧ t.sec.report = r ∧ tget t.sec.pieces m = r ∧ t.sec.attestTotal = satAdd 32 s.sec.attestTotal 1 ∧
      Frame [.sec, .cnt, .mbx] s t)) ∧
    (SvcRuns s m seq v (withOp args 1 0 2) → (m = 0 ∨ m = 64) → tget s.sec.pieces m ≠ [] → Ends (.attestPiece m seq args) s (fun t =>
      (∃ ws, ws.length = 14 ∧ Replied t m seq 0x0080 .ok (w64 (tget s.sec.pieces m).length :: ws) ∧
        ∀ i, i < 14 → ws.getD i 0 =
          w64 (bytesNat ((bytesN 112 ((tget s.sec.pieces m).drop (112 * fld (argOf args 0) 31 16))).drop (8 * i) |>.take 8))) ∧
      Frame [.mbx] s t)) ∧
    (SvcRuns s m seq v (withOp args 1 0 2) → tget s.sec.pieces m = [] → Ends (.attestPiece m seq args) s (fun t =>
      Replied t m seq 0x0080 .permission [] ∧ Frame [.mbx] s t))

/-- Fingerprints: a current one is answered in six words, a stale one waits, and the recomputation makes all of them current. DET_MODE is
the master's to write, and a change makes the fingerprints stale. -/
def Claim.Fingerprints : Prop :=
  (∀ (s : State) (m seq : Nat) (a : Word), SvcRuns s m seq { code := 0x0092, who := .root, masks := [mask 6 0] } [a] →
    (fld a 6 0 ≤ 64 → s.det.fpStale = false → Ends (.fingerprint m seq [a]) s (fun t =>
      Replied t m seq 0x0092 .ok ((List.range 6).map (fun i => w64 (bytesNat (((fpOf s (fld a 6 0)).drop (8 * i)).take 8)))) ∧ Frame [.mbx] s t)) ∧
    (fld a 6 0 ≤ 64 → s.det.fpStale = true → Ends (.fingerprint m seq [a]) s (fun t =>
      t.det = { s.det with fpWait := s.det.fpWait ++ [(m, seq, 0x0092, [a])] } ∧ Frame [.det, .mbx] s t)) ∧
    (64 < fld a 6 0 → Ends (.fingerprint m seq [a]) s (fun t => Replied t m seq 0x0092 .permission [] ∧ Frame [.mbx] s t))) ∧
  (∀ s : State, (s.det.fpStale = true → s.det.fpWait = [] → Ends .fingerprintRecompute s (fun t =>
      (∀ i, i < 65 → tget t.det.fps i = fingerprintOf s i) ∧ t.det.fpStale = false ∧ Frame [.pages, .cnt, .det, .hst, .out] s t)) ∧
    (s.det.fpStale = false → Ends .fingerprintRecompute s (fun t => t = s))) ∧
  (∀ (s : State) (a : Acc) (v : Word), UnitAdmits s a pDET 0x200 →
    (s.cas.master = true → v &&& mask 3 0 ≠ s.det.mode → Ends (.detModeWrite a v) s (fun t =>
      t.det = { s.det with mode := v &&& mask 3 0, fpStale := true } ∧ Answered t a.st .ok [] ∧ Frame [.pages, .mbx, .cnt, .det, .hst, .cas, .out] s t)) ∧
    (s.cas.master = false → Ends (.detModeWrite a v) s (fun t => t.det = s.det ∧ (page t pDET).last = .permission)))

/-- Reservations: RESERVE gives a partition a share while the shares and the sealed slots leave room, and the end of a window judges every
share, tells of a broken one, and opens the next window. -/
def Claim.Reservations : Prop :=
  (∀ (s : State) (m seq : Nat) (a b : Word),
    SvcRuns s m seq { code := 0x0081, who := .root, masks := [mask 5 0 ||| mask 9 8 ||| mask 25 16, mask 15 0] } [a, b] →
    let p := fld a 5 0
    let res := fld a 9 8
    let n := sharesWith s p res (fld a 25 16) + 16 * sealTotal s.sec.sealed
    (n ≤ 768 → Ends (.reserve m seq [a, b]) s (fun t =>
      Replied t m seq 0x0081 .ok [] ∧ tget t.sec.reserv (p * 4 + res) = { tget s.sec.reserv (p * 4 + res) with share := fld a 25 16 } ∧
      (∀ k, k ≠ p * 4 + res → tget t.sec.reserv k = tget s.sec.reserv k) ∧ tget t.sec.latEt p = fld b 15 0 ∧ Frame [.sec, .mbx] s t)) ∧
    (768 < n → Ends (.reserve m seq [a, b]) s (fun t => Replied t m seq 0x0081 .quota [] ∧ Frame [.mbx] s t))) ∧
  (∀ s : State,
    (btDue s s.sec.resEnd.toNat = true → Ends .reservationWindowEnd s (fun t =>
      (∀ p res, p < 64 → res < 4 →
        let r := tget s.sec.reserv (p * 4 + res)
        tget t.sec.reserv (p * 4 + res) = { used := r.usedNext, cut := r.cutNext, share := r.share, eff := (if res = 0 then r.share * s.sec.slices / 8 else r.share) - r.cut,
                                            broken := r.share != 0 && (r.cut != 0 || (res == 0 && s.sec.sliceMsg)) }) ∧
      t.sec.resWin = fld s.sec.resCfg 15 0 ∧ t.sec.resEnd = w64 ((bt s / max 1 t.sec.resWin + 1) * max 1 t.sec.resWin) ∧
      t.sec.slices = openSlices s ∧ t.mov = { s.mov with served := s.mov.servedNext, servedNext := [] } ∧
      t.lmp = { s.lmp with served := s.lmp.servedNext, servedNext := [] } ∧ t.hom = { s.hom with admitted := s.hom.admittedNext, admittedNext := [] } ∧
      Frame [.pages, .sec, .mbx, .cnt, .hst, .mov, .lmp, .hom, .out] s t)) ∧
    (btDue s s.sec.resEnd.toNat = false → Ends .reservationWindowEnd s (fun t => t = s)))

/-- Kindle: an arm closes the gate of its partitions and owes its reply, a refused arm leaves them alone, a cancel opens them, and the
release opens them in a new event tick. -/
def Claim.Kindle : Prop :=
  (∀ (s : State) (m seq : Nat) (args : List Word),
    let v : Svc := { code := 0x0090, who := .cascade, masks := [mask 0 0, BitVec.allOnes 64, BitVec.allOnes 64] }
    (SvcRuns s m seq v (lmod args 0 (fun a => setBit a 0 true)) →
      (armRefused s (argOf args 1) = none → Ends (.kindleArm m seq args) s (fun t =>
        t.det = { s.det with kindle := 1, kindleAt := argOf args 1, kindlePart := argOf args 2, gate := s.det.gate ||| argOf args 2,
                             kindlePulse := none, kindleMb := some seq } ∧ Frame [.det, .mbx, .cas, .out] s t)) ∧
      (∀ st, armRefused s (argOf args 1) = some st → Ends (.kindleArm m seq args) s (fun t => Replied t m seq 0x0090 st [] ∧ Frame [.mbx] s t))) ∧
    (SvcRuns s m seq v (lmod args 0 (fun a => setBit a 0 false)) →
      (kindleGone s = false → Ends (.kindleCancel m seq args) s (fun t =>
        Replied t m seq 0x0090 .ok [] ∧ t.det.gate = 0 ∧ (s.det.kindle = 1 → t.det.kindle = 3) ∧
        (∀ q, s.det.kindle = 1 → s.det.kindleMb = some q → [replyHdr .timeout false 1 q 0x0090, 0] ∈ (mbox t 65).replies) ∧
        Frame [.pages, .cnt, .det, .hst, .mbx, .cas, .out] s t)) ∧
      (kindleGone s = true → Ends (.kindleCancel m seq args) s (fun t => Replied t m seq 0x0090 .permission [] ∧ Frame [.mbx] s t)))) ∧
  (∀ s : State,
    (∀ r, s.det.kindle = 1 → releaseAt s = some r → Ends .kindleRelease s (fun t =>
      t.det.kindle = 2 ∧ t.det.gate = 0 ∧ t.clk.cyc = max s.clk.cyc r ∧ t.clk.tickStart = t.clk.cyc ∧
      t.clk.et = (if s.clk.tickStart = max s.clk.cyc r then s.clk.et else s.clk.et + 1) ∧
      t.det.ls = (if s.det.ls = 1 then 2 else s.det.ls) ∧ bitOf (page t pDET).irqRaw 0 = true ∧
      (∀ q, s.det.kindleMb = some q → Replied t 65 q 0x0090 .ok [s.det.kindleAt]) ∧
      Frame [.clk, .pages, .mbx, .cnt, .det, .hst, .lan, .lmp, .mov, .out] s t)) ∧
    (s.det.kindle ≠ 1 → Ends .kindleRelease s (fun t => t = s)))

/-- A request is on its way to another node: it holds a remote tracker, or waits for one. -/
def OnItsWay (t : State) (node : Nat) (r : HomeReq) : Prop :=
  (∃ i m, tget t.spn.remotes i = some m ∧ m.node = node ∧ m.req = r) ∨ (node, r) ∈ t.spn.remWait

/-- Lockstep: a pairing takes its registers and sends its header, its end clears them, the end of a window keeps the window's digests and
sends its record, and a record of the peer goes to the comparator. -/
def Claim.Lockstep : Prop :=
  (∀ (s : State) (m seq : Nat) (args : List Word),
    let v : Svc := { code := 0x0091, who := .root, masks := [mask 0 0 ||| mask 23 8, mask 45 14, mask 45 14, BitVec.allOnes 64] }
    (SvcRuns s m seq v (lmod args 0 (fun a => setBit a 0 true)) →
      (pairRefused s (argOf args 0) (argOf args 1) (argOf args 3) = none → Ends (.lockstepPair m seq args) s (fun t =>
        Replied t m seq 0x0091 .ok [] ∧
        t.det = { lsClear s.det with ls := 1, lsPeer := pack [(0, fld (argOf args 0) 23 8), (16, 1)], lsRing := argOf args 1,
                                     lsPeerRing := argOf args 2, lsK := argOf args 3 } ∧
        OnItsWay t (fld (argOf args 0) 23 8) (lsReq t 0 .relay (lsHeader t)) ∧ Frame [.det, .spn, .cas, .mbx, .inUse, .out] s t)) ∧
      (∀ st, pairRefused s (argOf args 0) (argOf args 1) (argOf args 3) = some st → Ends (.lockstepPair m seq args) s (fun t =>
        Replied t m seq 0x0091 st [] ∧ Frame [.mbx] s t))) ∧
    (SvcRuns s m seq v (lmod args 0 (fun a => setBit a 0 false)) → lockstepOn s = true → Ends (.lockstepUnpair m seq args) s (fun t =>
      Replied t m seq 0x0091 .ok [] ∧ t.det = lsClear s.det ∧ Frame [.det, .mbx] s t))) ∧
  (∀ (s : State) (units : List (Nat × List Nat)),
    (∀ r, s.det.lsStart = some r → s.det.ls = 2 → s.det.lsWin ≤ lsLag s → fld s.det.lsPeer 15 0 ≠ fld s.cas.nodeId 15 0 → Ends (.lockstepWindowEnd units) s (fun t =>
      t.det.lsWin = s.det.lsWin + 1 ∧ tget t.det.lsMine s.det.lsWin = digestsOf s units ∧
      (∀ j, j ≠ s.det.lsWin → tget t.det.lsMine j = tget s.det.lsMine j) ∧ t.clk.cyc = max s.clk.cyc (r + (s.det.lsWin + 1) * periodNom s) ∧
      OnItsWay t (fld s.det.lsPeer 15 0) (lsReq s (64 + s.det.lsWin % 64) (.det s.det.lsWin)
        (lsRecord (s.det.lsK + w64 s.det.lsWin) s.bcn.uncertain (digestsOf s units))) ∧
      Frame [.clk, .det, .spn, .cas, .inUse, .out] s t)) ∧
    (s.det.lsStart = none → Ends (.lockstepWindowEnd units) s (fun t => t = s))) ∧
  (∀ (s : State) (q : RemoteReq), s.spn.st = .active → s.spn.quar = false → lsTakes s q = true →
    let i := q.line - fld s.det.lsRing 45 14 * 128
    Ends (.lockstepRecordIngress q) s (fun t =>
      ((i = 0 ∨ 64 ≤ i) → tget t.det.lsBuf i = (List.range 16).map (fun j => q.data.extractLsb' (64 * j) 64)) ∧
      (∀ j, j ≠ i → tget t.det.lsBuf j = tget s.det.lsBuf j) ∧ Frame [.det, .spn, .cas, .inUse, .out] s t))

/-- The services that a block of a cascade relays to the master: the mailbox and number of the request, its code and its words. -/
def relayOf : Instr → Option (Nat × Nat × Nat × List Word)
  | .partOpen m q a => some (m, q, 0x20, a) | .partSeal m q a => some (m, q, 0x21, a) | .partClose m q a => some (m, q, 0x22, a)
  | .layoutAssign m q a => some (m, q, 0x23, withOp a 25 24 1) | .layoutRemove m q a => some (m, q, 0x23, withOp a 25 24 2)
  | .ctxCreate m q a => some (m, q, 0x30, a) | .ctxDestroy m q a => some (m, q, 0x31, a)
  | .spaceGet m q a => some (m, q, 0x32, a) | .spacePut m q a => some (m, q, 0x33, a)
  | .objTableSet m q a => some (m, q, 0x36, a) | .faultRingSet m q a => some (m, q, 0x37, a) | .dispatchRingSet m q a => some (m, q, 0x38, a)
  | .redOpen m q a => some (m, q, 0x60, a) | .redBind m q a => some (m, q, 0x61, a)
  | .redUnbind m q a => some (m, q, 0x62, a) | .redClose m q a => some (m, q, 0x63, a)
  | .tierEnrol m q a => some (m, q, 0x70, a) | .tierUnenrol m q a => some (m, q, 0x71, a) | .tierPolicy m q a => some (m, q, 0x72, a)
  | .attestWrite m q a => some (m, q, 0x80, withOp a 1 0 0) | .attestCapture m q a => some (m, q, 0x80, withOp a 1 0 1)
  | .attestPiece m q a => some (m, q, 0x80, withOp a 1 0 2)
  | _ => none

/-- Services of cascade scope, and ATTEST, on a block that is not the master: the request goes to the master and its reply is owed, and where no
route leads there it is answered PARTNER_ABSENT (the model's choice, log entry 71). On the master a service of cascade scope, but for those on
contexts, is told to every other block before it runs. -/
def Claim.ServiceRelay : Prop :=
  (∀ (c : Instr) (s : State) (m seq code : Nat) (args : List Word), relayOf c = some (m, seq, code, args) → seq < 256 → mbServed s m = true →
    s.cas.master = false → bootAllows s m code = true →
    (∀ b p, masterPos s = some b → casPort s b = some p → Ends c s (fun t =>
      (let x : CasMsg := { src := s.cas.pos, dst := b, cls := 5, bytes := 16 + 8 * args.length, load := .svc m seq code args }
       OutMsg.cas p x ∈ t.out ∨ x ∈ t.cas.pools) ∧
      (mbox t m).replies.length = (mbox s m).replies.length + 1 ∧ Frame [.mbx, .cas, .out] s t)) ∧
    ((∀ b, masterPos s = some b → casPort s b = none) → Ends c s (fun t => Replied t m seq code .partnerAbsent [] ∧ Frame [.mbx] s t))) ∧
  (∀ (s : State) (m seq : Nat) (v : Svc) (args : List Word) (f : State → State), s.cas.master = true → cascadeScope v.code = true →
    ctxScope v.code = false → v.page.all (fun p => !(page s p).checking) = true →
    runSvc s m seq v args f = f (casAll s (.svc m (silent seq) v.code args)))

/-- The services that read or change records in memory: the mailbox and number of the request, its code, and the lines read and changed. -/
def svcLines (s : State) : Instr → Option (Nat × Nat × Nat × List Nat × List Nat)
  | .faultRingSet m q a => some (m, q, 0x37, [], objLines s m ([fld (argOf a 0) 23 0, fld (argOf a 2) 23 0] ++ faultRefs (part s m)))
  | .dispatchRingSet m q a => some (m, q, 0x38, [], objLines s m ([fld (argOf a 0) 23 0] ++ (part s m).dispObj.toList))
  | .fenceWatch m q a => some (m, q, 0x40, fenceLine s m (fld (argOf a 0) 23 0) (fld (argOf a 0) 63 32), objLines s m [fld (argOf a 0) 23 0])
  | .xfmLoad m q a => some (m, q, 0x51, gpaLines s m (fld (argOf a 1) 51 8 * 256) 256, [])
  | .redOpen m q a => some (m, q, 0x60, gpaLines s m (fld (argOf a 0) 51 6 * 64) 64, [])
  | .tierEnrol m q a => some (m, q, 0x70, enrolLines s m (fld (argOf a 0) 23 0), [])
  | _ => none

/-- A service whose records lie on lines that caches or other blocks hold is not run on what memory holds: the lines are asked for, and the request
is taken again in the next event tick. -/
def Claim.ServiceLines : Prop :=
  ∀ (c : Instr) (s u : State) (m seq code : Nat) (rd rc : List Nat), svcLines s c = some (m, seq, code, rd, rc) → seq < 256 → mbServed s m = true →
    (s.cas.master = true ∨ cascadeScope code = false) → linesAsk s kSudric rd rc = some u →
    Ends c s (fun t => t = later u c)

/-! ## The statements that join several of the above -/

/-- On an empty queue one event tick passes (log entry 2), and its events stand in the order of the classes. -/
def Obligations.EmptyQueueTick : Prop := Claim.EmptyQueueTick ∧ Claim.EventOrdering

/-- Refused accesses change no register, reads clear what is RC, and I3C reaches the management mailbox. -/
def Obligations.RegisterAccesses : Prop := Claim.RefusedAccess ∧ Claim.ReadClears ∧ Claim.I3cAccess

/-- The interrupt block, PG_CTL with ENABLE, EXPERT and FENCE, and the override check. -/
def Obligations.PageHeader : Prop := Claim.InterruptBlock ∧ Claim.PageControl ∧ Claim.FenceByRegister ∧ Claim.OverrideChecked

/-- The data port: its address, the start of a transfer, its abandonment and flush. -/
def Obligations.DataPortTransfers : Prop := Claim.DataPortAddress ∧ Claim.DataPortStart ∧ Claim.DataPortEnd

/-- The data port: blocks through the window and commits to the arrays. -/
def Obligations.DataPortBlocks : Prop := Claim.DataPortWindow ∧ Claim.DataPortCommit

/-- Pulses and words of the beacon: accepted, stray, the first one in dark mode, good and bad words. -/
def Obligations.BeaconPulses : Prop := Claim.BeaconPulseLocked ∧ Claim.BeaconPulseDark ∧ Claim.BeaconWords

/-- The count without pulses: coasting, dark mode, the loss of a run and the interrupts of a resync. -/
def Obligations.BeaconWithoutPulses : Prop := Claim.BeaconCoasts ∧ Claim.BeaconLoss ∧ Claim.ResyncInterrupts

/-- BCN_CFG, BCN_PERIOD and BCN_SET take effect at the next counted tick, or are refused. -/
def Obligations.BeaconSettings : Prop := Claim.BeaconRegisters ∧ Claim.BeaconService

/-- General and tenant counters: values, settings, FREEZE, CLEAR and the publication. -/
def Obligations.CounterValues : Prop := Claim.CounterRegisters ∧ Claim.TenantCounters

/-- What a host does to a mailbox: words, doorbells, forced unlock and flushes. -/
def Obligations.MailboxHostSide : Prop := Claim.MailboxWords ∧ Claim.MailboxDoorbells ∧ Claim.MailboxFlush

/-- Replies go to the host in order, and the timers of the mailboxes discard what waits. -/
def Obligations.MailboxTimers : Prop := Claim.MailboxReplies ∧ Claim.Deadlines

/-- What a power-on reset and a block reset leave. -/
def Obligations.Resets : Prop := Claim.PowerOnReset ∧ Claim.BlockReset

/-- Reset release, the ROM stage and the image stage. -/
def Obligations.StartUpStages : Prop := Claim.RomStage ∧ Claim.ImageStart

/-- The cascade forms or says why not, its ports carry messages, and its registers shape it. -/
def Obligations.CascadeLinks : Prop := Claim.CascadeFormation ∧ Claim.CascadePorts ∧ Claim.CascadeRegisters

/-- A station link comes up with its credits and goes down with none. -/
def Obligations.StationLinks : Prop := Claim.StationLinkUp ∧ Claim.StationLinkDown

/-- Memory ports become ready, the waits of start-up end, and the root partition opens. -/
def Obligations.StartUpEnds : Prop := Claim.MemoryPortReady ∧ Claim.StartWaits ∧ Claim.RootOpens

/-- Unit resets, requests for a block reset, fuses, power reports and test access. -/
def Obligations.UnitResetAndTest : Prop := Claim.UnitReset ∧ Claim.PowerAndTest

/-- Reads of an Uncached line, an upgrade, and reads of the decode aperture. -/
def Obligations.HomeReads : Prop := Claim.HomeReads ∧ Claim.ApertureReads

/-- Atomics at the home work on every enabled element and on nothing else. -/
def Obligations.ElementAtomics : Prop := Claim.HomeAtomics ∧ Claim.AtomicValues

/-- The lock operations leave the word and answer the status of the table of R296. -/
def Obligations.OwnerTaggedLocks : Prop := Claim.LockRules ∧ Claim.HomeLocks

/-- Signals of a fence record, and barriers from arrival to release and abandonment. -/
def Obligations.FenceRecords : Prop := Claim.FenceSignals ∧ Claim.Barriers ∧ Claim.BarrierEnds

/-- Ordered reductions: contributions, windows and the services of their sessions. -/
def Obligations.OrderedReductions : Prop := Claim.OrderedReductions ∧ Claim.ReductionServices

/-- ACKs, evictions, snoop answers and deadlines at a home. -/
def Obligations.SnoopsAndEvictions : Prop := Claim.GrantsEnd ∧ Claim.Evictions ∧ Claim.SnoopAnswers

/-- Armed waits on a fence record: placed, satisfied, timed out, dropped. -/
def Obligations.FenceWatches : Prop := Claim.FenceArms ∧ Claim.FenceWaits

/-- The span link trains, authenticates, calibrates and renews its keys. -/
def Obligations.SpanSessions : Prop := Claim.SpanTraining ∧ Claim.SpanKeys

/-- Flits, acknowledgements, replays, credits and the signs of life of an active span link. -/
def Obligations.SpanTraffic : Prop := Claim.SpanFlits ∧ Claim.SpanAlive

/-- Registers of the span station, and requests, answers and snoops between packages. -/
def Obligations.SpanRemote : Prop := Claim.SpanRegisters ∧ Claim.SpanRequests

/-- Requests and stream slots of the accelerator dies. -/
def Obligations.EngineStation : Prop := Claim.EngineRequests ∧ Claim.Streams

/-- Bursts issue under one translation, and walks start and complete under one epoch. -/
def Obligations.BurstsAndWalks : Prop := Claim.BurstIssues ∧ Claim.Walks

/-- Held fault records, pauses and their verdicts, and the loss of a context. -/
def Obligations.FaultsAndLosses : Prop := Claim.FaultWaits ∧ Claim.ContextLoss ∧ Claim.Resumes

/-- Withdrawals, the roots of translation, and the layout filter of host requests. -/
def Obligations.WithdrawalsAndFilters : Prop := Claim.Withdrawals ∧ Claim.TranslationRoots ∧ Claim.HostRequests

/-- A command is fetched, accepted, dispatched and retired with its completion record. -/
def Obligations.CommandsRetire : Prop := Claim.CommandFlow ∧ Claim.CompletionRecords

/-- NOP, STEP_ADVANCE, REPORT, ENG_DISPATCH and MAP_WITHDRAW. -/
def Obligations.CommandsOfTheLamplighter : Prop := Claim.PlainCommands ∧ Claim.MapWithdraw

/-- Fence and barrier commands, their references, and the watches of a host. -/
def Obligations.CommandsOnFences : Prop := Claim.FenceCommands ∧ Claim.FenceReferences ∧ Claim.HostWatches

/-- Doorbell pages, queue, context and object registers, and object references with the release ring. -/
def Obligations.QueuesAndObjects : Prop := Claim.DoorbellPages ∧ Claim.LampRegisters ∧ Claim.ObjectRelease

/-- Move commands, the start of a descriptor and the staging of a segment. -/
def Obligations.MovesStart : Prop := Claim.MoveCommands ∧ Claim.DescriptorStarts ∧ Claim.SegmentStages

/-- Pipe slots, the ends of segments, HALF and FULL, and the registers of the movers. -/
def Obligations.MovesEnd : Prop := Claim.PipeSlots ∧ Claim.MoverEnds ∧ Claim.MoverRegisters

/-- Heat, pools and the services that enrol objects and set the policy. -/
def Obligations.TieringState : Prop := Claim.TierHeat ∧ Claim.PoolRegisters ∧ Claim.TierServices

/-- Memory-port traffic, the patrol scrub, and the fencing of cells with its rebalance. -/
def Obligations.MemoryAndCells : Prop := Claim.MemoryPorts ∧ Claim.PatrolScrub ∧ Claim.CellFences

/-- REQUEST runs the service its words name, here or at the master; VERSION, LAST_REPLY, OVERRIDE_LOG and HEALTH answer. -/
def Obligations.MailboxRequests : Prop := Claim.RequestsTaken ∧ Claim.GeneralServices ∧ Claim.ServiceRelay ∧ Claim.ServiceLines

/-- PART_OPEN, PART_SEAL and PART_CLOSE up to the start of Snuff. -/
def Obligations.PartitionLifetime : Prop := Claim.OpenAndSeal ∧ Claim.PartitionCloses

/-- Snuff and the removal of a range leave only zeros, and LAYOUT_SET assigns and removes ranges. -/
def Obligations.SnuffAndLayout : Prop := Claim.Snuff ∧ Claim.LayoutServices

/-- Contexts, spaces, queues, object tables and rings of a driver. -/
def Obligations.DriverServices : Prop := Claim.ContextServices ∧ Claim.QueueServices ∧ Claim.RingServices

/-- CHAN_ASSIGN, XFM_LOAD and coherent windows. -/
def Obligations.UnitsAndWindows : Prop := Claim.UnitServices ∧ Claim.WindowServices

/-- Attestation reports and their pieces, fingerprints, and DET_MODE. -/
def Obligations.AttestationReports : Prop := Claim.Attestation ∧ Claim.Fingerprints

/-- Reservations and their windows, the Kindle barrier, and lockstep pairings. -/
def Obligations.TimeGuarantees : Prop := Claim.Reservations ∧ Claim.Kindle ∧ Claim.Lockstep
end

