-- ==== Sys2Proof/Laws/Bytes.lean ====
section
/-!
SUPPORT. How long the byte strings of Sudric are: numbers, words, padded strings, digests, sections and reports.
-/
namespace Sys2Proof.Machine
open Sys2Proof

@[simp] theorem natBytes_length (n v : Nat) : (natBytes n v).length = n := by
  induction n generalizing v with
  | zero => rfl
  | succ n ih => simp [natBytes, ih]

@[simp] theorem wordBytes_length (w : Word) : (wordBytes w).length = 8 := by simp [wordBytes]

@[simp] theorem beBytes_length (w : Word) : (beBytes w).length = 8 := by simp [beBytes]

@[simp] theorem bytesN_length (n : Nat) (l : List Byte) : (bytesN n l).length = n := by simp [bytesN, padTo]; omega

@[simp] theorem sha384_length (l : List Byte) : (sha384 l).length = 48 := by simp [sha384]

@[simp] theorem ownSection_length (s : State) : (ownSection s).length = 256 := by simp [ownSection, disBytes]

@[simp] theorem blockSection_length (s : State) (p : Nat) : (blockSection s p).length = 256 := by
  unfold blockSection
  split <;> simp

/-- The sections of all blocks, 256 bytes each (R574). -/
theorem sections_length (s : State) (l : List Nat) : (l.flatMap (blockSection s)).length = 256 * l.length := by
  induction l with
  | nil => rfl
  | cons a t ih => simp [List.flatMap_cons, ih]; omega

/-- A report has its header of 192 bytes, the sections, the chain and 96 bytes of signature (R574). -/
theorem reportOf_length (s : State) (m : Nat) (nonce : List Byte) :
    (reportOf s m nonce).length = 192 + 256 * blocks s + (certOf s).length + 96 := by
  have h : (reportBody s m nonce).length = 192 + 256 * blocks s + (certOf s).length := by
    have hs : ∀ (b : Bool) (x y : List Byte), x.length = 48 → y.length = 48 → (if b = true then x else y).length = 48 := by
      intro b x y hx hy; cases b <;> assumption
    simp only [reportBody, fpOf, List.length_append, natBytes_length, bytesN_length, sections_length, List.length_range]
    rw [hs _ _ _ (natBytes_length 48 0) (sha384_length _)]
  unfold reportOf
  split <;> simp [h]

end Sys2Proof.Machine
end

