-- ==== Sys2Proof/Laws/State.lean ====
section
/-!
SUPPORT. Each update of the state leaves the other components as they were: one lemma for each component.
-/
namespace Sys2Proof.Machine
open Sys2Proof

@[simp] theorem updPage_build (s : State) (p : Nat) (f : Page → Page) : (updPage s p f).build = s.build := rfl
@[simp] theorem updPage_clk (s : State) (p : Nat) (f : Page → Page) : (updPage s p f).clk = s.clk := rfl
@[simp] theorem updPage_free (s : State) (p : Nat) (f : Page → Page) : (updPage s p f).free = s.free := rfl
@[simp] theorem updPage_boot (s : State) (p : Nat) (f : Page → Page) : (updPage s p f).boot = s.boot := rfl
@[simp] theorem updPage_fuses (s : State) (p : Nat) (f : Page → Page) : (updPage s p f).fuses = s.fuses := rfl
@[simp] theorem updPage_bcn (s : State) (p : Nat) (f : Page → Page) : (updPage s p f).bcn = s.bcn := rfl
@[simp] theorem updPage_sec (s : State) (p : Nat) (f : Page → Page) : (updPage s p f).sec = s.sec := rfl
@[simp] theorem updPage_mbx (s : State) (p : Nat) (f : Page → Page) : (updPage s p f).mbx = s.mbx := rfl
@[simp] theorem updPage_cnt (s : State) (p : Nat) (f : Page → Page) : (updPage s p f).cnt = s.cnt := rfl
@[simp] theorem updPage_parts (s : State) (p : Nat) (f : Page → Page) : (updPage s p f).parts = s.parts := rfl
@[simp] theorem updPage_ras (s : State) (p : Nat) (f : Page → Page) : (updPage s p f).ras = s.ras := rfl
@[simp] theorem updPage_cas (s : State) (p : Nat) (f : Page → Page) : (updPage s p f).cas = s.cas := rfl
@[simp] theorem updPage_det (s : State) (p : Nat) (f : Page → Page) : (updPage s p f).det = s.det := rfl
@[simp] theorem updPage_lan (s : State) (p : Nat) (f : Page → Page) : (updPage s p f).lan = s.lan := rfl
@[simp] theorem updPage_eng (s : State) (p : Nat) (f : Page → Page) : (updPage s p f).eng = s.eng := rfl
@[simp] theorem updPage_hst (s : State) (p : Nat) (f : Page → Page) : (updPage s p f).hst = s.hst := rfl
@[simp] theorem updPage_hom (s : State) (p : Nat) (f : Page → Page) : (updPage s p f).hom = s.hom := rfl
@[simp] theorem updPage_mov (s : State) (p : Nat) (f : Page → Page) : (updPage s p f).mov = s.mov := rfl
@[simp] theorem updPage_xfm (s : State) (p : Nat) (f : Page → Page) : (updPage s p f).xfm = s.xfm := rfl
@[simp] theorem updPage_tir (s : State) (p : Nat) (f : Page → Page) : (updPage s p f).tir = s.tir := rfl
@[simp] theorem updPage_lmp (s : State) (p : Nat) (f : Page → Page) : (updPage s p f).lmp = s.lmp := rfl
@[simp] theorem updPage_fnc (s : State) (p : Nat) (f : Page → Page) : (updPage s p f).fnc = s.fnc := rfl
@[simp] theorem updPage_spn (s : State) (p : Nat) (f : Page → Page) : (updPage s p f).spn = s.spn := rfl
@[simp] theorem updPage_mps (s : State) (p : Nat) (f : Page → Page) : (updPage s p f).mps = s.mps := rfl
@[simp] theorem updPage_mem (s : State) (p : Nat) (f : Page → Page) : (updPage s p f).mem = s.mem := rfl
@[simp] theorem updPage_memPois (s : State) (p : Nat) (f : Page → Page) : (updPage s p f).memPois = s.memPois := rfl
@[simp] theorem updPage_memKey (s : State) (p : Nat) (f : Page → Page) : (updPage s p f).memKey = s.memKey := rfl
@[simp] theorem updPage_memScrub (s : State) (p : Nat) (f : Page → Page) : (updPage s p f).memScrub = s.memScrub := rfl
@[simp] theorem updPage_out (s : State) (p : Nat) (f : Page → Page) : (updPage s p f).out = s.out := rfl
@[simp] theorem updPage_pending (s : State) (p : Nat) (f : Page → Page) : (updPage s p f).pending = s.pending := rfl

@[simp] theorem updPart_build (s : State) (p : Nat) (f : Part → Part) : (updPart s p f).build = s.build := rfl
@[simp] theorem updPart_clk (s : State) (p : Nat) (f : Part → Part) : (updPart s p f).clk = s.clk := rfl
@[simp] theorem updPart_free (s : State) (p : Nat) (f : Part → Part) : (updPart s p f).free = s.free := rfl
@[simp] theorem updPart_pages (s : State) (p : Nat) (f : Part → Part) : (updPart s p f).pages = s.pages := rfl
@[simp] theorem updPart_boot (s : State) (p : Nat) (f : Part → Part) : (updPart s p f).boot = s.boot := rfl
@[simp] theorem updPart_fuses (s : State) (p : Nat) (f : Part → Part) : (updPart s p f).fuses = s.fuses := rfl
@[simp] theorem updPart_bcn (s : State) (p : Nat) (f : Part → Part) : (updPart s p f).bcn = s.bcn := rfl
@[simp] theorem updPart_sec (s : State) (p : Nat) (f : Part → Part) : (updPart s p f).sec = s.sec := rfl
@[simp] theorem updPart_mbx (s : State) (p : Nat) (f : Part → Part) : (updPart s p f).mbx = s.mbx := rfl
@[simp] theorem updPart_cnt (s : State) (p : Nat) (f : Part → Part) : (updPart s p f).cnt = s.cnt := rfl
@[simp] theorem updPart_ras (s : State) (p : Nat) (f : Part → Part) : (updPart s p f).ras = s.ras := rfl
@[simp] theorem updPart_cas (s : State) (p : Nat) (f : Part → Part) : (updPart s p f).cas = s.cas := rfl
@[simp] theorem updPart_det (s : State) (p : Nat) (f : Part → Part) : (updPart s p f).det = s.det := rfl
@[simp] theorem updPart_lan (s : State) (p : Nat) (f : Part → Part) : (updPart s p f).lan = s.lan := rfl
@[simp] theorem updPart_eng (s : State) (p : Nat) (f : Part → Part) : (updPart s p f).eng = s.eng := rfl
@[simp] theorem updPart_hst (s : State) (p : Nat) (f : Part → Part) : (updPart s p f).hst = s.hst := rfl
@[simp] theorem updPart_hom (s : State) (p : Nat) (f : Part → Part) : (updPart s p f).hom = s.hom := rfl
@[simp] theorem updPart_mov (s : State) (p : Nat) (f : Part → Part) : (updPart s p f).mov = s.mov := rfl
@[simp] theorem updPart_xfm (s : State) (p : Nat) (f : Part → Part) : (updPart s p f).xfm = s.xfm := rfl
@[simp] theorem updPart_tir (s : State) (p : Nat) (f : Part → Part) : (updPart s p f).tir = s.tir := rfl
@[simp] theorem updPart_lmp (s : State) (p : Nat) (f : Part → Part) : (updPart s p f).lmp = s.lmp := rfl
@[simp] theorem updPart_fnc (s : State) (p : Nat) (f : Part → Part) : (updPart s p f).fnc = s.fnc := rfl
@[simp] theorem updPart_spn (s : State) (p : Nat) (f : Part → Part) : (updPart s p f).spn = s.spn := rfl
@[simp] theorem updPart_mps (s : State) (p : Nat) (f : Part → Part) : (updPart s p f).mps = s.mps := rfl
@[simp] theorem updPart_mem (s : State) (p : Nat) (f : Part → Part) : (updPart s p f).mem = s.mem := rfl
@[simp] theorem updPart_memPois (s : State) (p : Nat) (f : Part → Part) : (updPart s p f).memPois = s.memPois := rfl
@[simp] theorem updPart_memKey (s : State) (p : Nat) (f : Part → Part) : (updPart s p f).memKey = s.memKey := rfl
@[simp] theorem updPart_memScrub (s : State) (p : Nat) (f : Part → Part) : (updPart s p f).memScrub = s.memScrub := rfl
@[simp] theorem updPart_out (s : State) (p : Nat) (f : Part → Part) : (updPart s p f).out = s.out := rfl
@[simp] theorem updPart_pending (s : State) (p : Nat) (f : Part → Part) : (updPart s p f).pending = s.pending := rfl

@[simp] theorem updLink_build (s : State) (p : Nat) (f : Link → Link) : (updLink s p f).build = s.build := by unfold updLink; split <;> rfl
@[simp] theorem updLink_clk (s : State) (p : Nat) (f : Link → Link) : (updLink s p f).clk = s.clk := by unfold updLink; split <;> rfl
@[simp] theorem updLink_free (s : State) (p : Nat) (f : Link → Link) : (updLink s p f).free = s.free := by unfold updLink; split <;> rfl
@[simp] theorem updLink_pages (s : State) (p : Nat) (f : Link → Link) : (updLink s p f).pages = s.pages := by unfold updLink; split <;> rfl
@[simp] theorem updLink_boot (s : State) (p : Nat) (f : Link → Link) : (updLink s p f).boot = s.boot := by unfold updLink; split <;> rfl
@[simp] theorem updLink_fuses (s : State) (p : Nat) (f : Link → Link) : (updLink s p f).fuses = s.fuses := by unfold updLink; split <;> rfl
@[simp] theorem updLink_bcn (s : State) (p : Nat) (f : Link → Link) : (updLink s p f).bcn = s.bcn := by unfold updLink; split <;> rfl
@[simp] theorem updLink_sec (s : State) (p : Nat) (f : Link → Link) : (updLink s p f).sec = s.sec := by unfold updLink; split <;> rfl
@[simp] theorem updLink_mbx (s : State) (p : Nat) (f : Link → Link) : (updLink s p f).mbx = s.mbx := by unfold updLink; split <;> rfl
@[simp] theorem updLink_cnt (s : State) (p : Nat) (f : Link → Link) : (updLink s p f).cnt = s.cnt := by unfold updLink; split <;> rfl
@[simp] theorem updLink_parts (s : State) (p : Nat) (f : Link → Link) : (updLink s p f).parts = s.parts := by unfold updLink; split <;> rfl
@[simp] theorem updLink_ras (s : State) (p : Nat) (f : Link → Link) : (updLink s p f).ras = s.ras := by unfold updLink; split <;> rfl
@[simp] theorem updLink_cas (s : State) (p : Nat) (f : Link → Link) : (updLink s p f).cas = s.cas := by unfold updLink; split <;> rfl
@[simp] theorem updLink_det (s : State) (p : Nat) (f : Link → Link) : (updLink s p f).det = s.det := by unfold updLink; split <;> rfl
@[simp] theorem updLink_lan (s : State) (p : Nat) (f : Link → Link) : (updLink s p f).lan = s.lan := by unfold updLink; split <;> rfl
@[simp] theorem updLink_hom (s : State) (p : Nat) (f : Link → Link) : (updLink s p f).hom = s.hom := by unfold updLink; split <;> rfl
@[simp] theorem updLink_mov (s : State) (p : Nat) (f : Link → Link) : (updLink s p f).mov = s.mov := by unfold updLink; split <;> rfl
@[simp] theorem updLink_xfm (s : State) (p : Nat) (f : Link → Link) : (updLink s p f).xfm = s.xfm := by unfold updLink; split <;> rfl
@[simp] theorem updLink_tir (s : State) (p : Nat) (f : Link → Link) : (updLink s p f).tir = s.tir := by unfold updLink; split <;> rfl
@[simp] theorem updLink_lmp (s : State) (p : Nat) (f : Link → Link) : (updLink s p f).lmp = s.lmp := by unfold updLink; split <;> rfl
@[simp] theorem updLink_fnc (s : State) (p : Nat) (f : Link → Link) : (updLink s p f).fnc = s.fnc := by unfold updLink; split <;> rfl
@[simp] theorem updLink_spn (s : State) (p : Nat) (f : Link → Link) : (updLink s p f).spn = s.spn := by unfold updLink; split <;> rfl
@[simp] theorem updLink_mps (s : State) (p : Nat) (f : Link → Link) : (updLink s p f).mps = s.mps := by unfold updLink; split <;> rfl
@[simp] theorem updLink_mem (s : State) (p : Nat) (f : Link → Link) : (updLink s p f).mem = s.mem := by unfold updLink; split <;> rfl
@[simp] theorem updLink_memPois (s : State) (p : Nat) (f : Link → Link) : (updLink s p f).memPois = s.memPois := by unfold updLink; split <;> rfl
@[simp] theorem updLink_memKey (s : State) (p : Nat) (f : Link → Link) : (updLink s p f).memKey = s.memKey := by unfold updLink; split <;> rfl
@[simp] theorem updLink_memScrub (s : State) (p : Nat) (f : Link → Link) : (updLink s p f).memScrub = s.memScrub := by unfold updLink; split <;> rfl
@[simp] theorem updLink_out (s : State) (p : Nat) (f : Link → Link) : (updLink s p f).out = s.out := by unfold updLink; split <;> rfl
@[simp] theorem updLink_pending (s : State) (p : Nat) (f : Link → Link) : (updLink s p f).pending = s.pending := by unfold updLink; split <;> rfl

@[simp] theorem updMb_build (s : State) (m : Nat) (f : Mailbox → Mailbox) : (updMb s m f).build = s.build := rfl
@[simp] theorem updMb_clk (s : State) (m : Nat) (f : Mailbox → Mailbox) : (updMb s m f).clk = s.clk := rfl
@[simp] theorem updMb_free (s : State) (m : Nat) (f : Mailbox → Mailbox) : (updMb s m f).free = s.free := rfl
@[simp] theorem updMb_pages (s : State) (m : Nat) (f : Mailbox → Mailbox) : (updMb s m f).pages = s.pages := rfl
@[simp] theorem updMb_boot (s : State) (m : Nat) (f : Mailbox → Mailbox) : (updMb s m f).boot = s.boot := rfl
@[simp] theorem updMb_fuses (s : State) (m : Nat) (f : Mailbox → Mailbox) : (updMb s m f).fuses = s.fuses := rfl
@[simp] theorem updMb_bcn (s : State) (m : Nat) (f : Mailbox → Mailbox) : (updMb s m f).bcn = s.bcn := rfl
@[simp] theorem updMb_sec (s : State) (m : Nat) (f : Mailbox → Mailbox) : (updMb s m f).sec = s.sec := rfl
@[simp] theorem updMb_cnt (s : State) (m : Nat) (f : Mailbox → Mailbox) : (updMb s m f).cnt = s.cnt := rfl
@[simp] theorem updMb_parts (s : State) (m : Nat) (f : Mailbox → Mailbox) : (updMb s m f).parts = s.parts := rfl
@[simp] theorem updMb_ras (s : State) (m : Nat) (f : Mailbox → Mailbox) : (updMb s m f).ras = s.ras := rfl
@[simp] theorem updMb_cas (s : State) (m : Nat) (f : Mailbox → Mailbox) : (updMb s m f).cas = s.cas := rfl
@[simp] theorem updMb_det (s : State) (m : Nat) (f : Mailbox → Mailbox) : (updMb s m f).det = s.det := rfl
@[simp] theorem updMb_lan (s : State) (m : Nat) (f : Mailbox → Mailbox) : (updMb s m f).lan = s.lan := rfl
@[simp] theorem updMb_eng (s : State) (m : Nat) (f : Mailbox → Mailbox) : (updMb s m f).eng = s.eng := rfl
@[simp] theorem updMb_hst (s : State) (m : Nat) (f : Mailbox → Mailbox) : (updMb s m f).hst = s.hst := rfl
@[simp] theorem updMb_hom (s : State) (m : Nat) (f : Mailbox → Mailbox) : (updMb s m f).hom = s.hom := rfl
@[simp] theorem updMb_mov (s : State) (m : Nat) (f : Mailbox → Mailbox) : (updMb s m f).mov = s.mov := rfl
@[simp] theorem updMb_xfm (s : State) (m : Nat) (f : Mailbox → Mailbox) : (updMb s m f).xfm = s.xfm := rfl
@[simp] theorem updMb_tir (s : State) (m : Nat) (f : Mailbox → Mailbox) : (updMb s m f).tir = s.tir := rfl
@[simp] theorem updMb_lmp (s : State) (m : Nat) (f : Mailbox → Mailbox) : (updMb s m f).lmp = s.lmp := rfl
@[simp] theorem updMb_fnc (s : State) (m : Nat) (f : Mailbox → Mailbox) : (updMb s m f).fnc = s.fnc := rfl
@[simp] theorem updMb_spn (s : State) (m : Nat) (f : Mailbox → Mailbox) : (updMb s m f).spn = s.spn := rfl
@[simp] theorem updMb_mps (s : State) (m : Nat) (f : Mailbox → Mailbox) : (updMb s m f).mps = s.mps := rfl
@[simp] theorem updMb_mem (s : State) (m : Nat) (f : Mailbox → Mailbox) : (updMb s m f).mem = s.mem := rfl
@[simp] theorem updMb_memPois (s : State) (m : Nat) (f : Mailbox → Mailbox) : (updMb s m f).memPois = s.memPois := rfl
@[simp] theorem updMb_memKey (s : State) (m : Nat) (f : Mailbox → Mailbox) : (updMb s m f).memKey = s.memKey := rfl
@[simp] theorem updMb_memScrub (s : State) (m : Nat) (f : Mailbox → Mailbox) : (updMb s m f).memScrub = s.memScrub := rfl
@[simp] theorem updMb_out (s : State) (m : Nat) (f : Mailbox → Mailbox) : (updMb s m f).out = s.out := rfl
@[simp] theorem updMb_pending (s : State) (m : Nat) (f : Mailbox → Mailbox) : (updMb s m f).pending = s.pending := rfl

@[simp] theorem updMp_build (s : State) (p : Nat) (f : MemPort → MemPort) : (updMp s p f).build = s.build := rfl
@[simp] theorem updMp_clk (s : State) (p : Nat) (f : MemPort → MemPort) : (updMp s p f).clk = s.clk := rfl
@[simp] theorem updMp_free (s : State) (p : Nat) (f : MemPort → MemPort) : (updMp s p f).free = s.free := rfl
@[simp] theorem updMp_pages (s : State) (p : Nat) (f : MemPort → MemPort) : (updMp s p f).pages = s.pages := rfl
@[simp] theorem updMp_boot (s : State) (p : Nat) (f : MemPort → MemPort) : (updMp s p f).boot = s.boot := rfl
@[simp] theorem updMp_fuses (s : State) (p : Nat) (f : MemPort → MemPort) : (updMp s p f).fuses = s.fuses := rfl
@[simp] theorem updMp_bcn (s : State) (p : Nat) (f : MemPort → MemPort) : (updMp s p f).bcn = s.bcn := rfl
@[simp] theorem updMp_sec (s : State) (p : Nat) (f : MemPort → MemPort) : (updMp s p f).sec = s.sec := rfl
@[simp] theorem updMp_mbx (s : State) (p : Nat) (f : MemPort → MemPort) : (updMp s p f).mbx = s.mbx := rfl
@[simp] theorem updMp_cnt (s : State) (p : Nat) (f : MemPort → MemPort) : (updMp s p f).cnt = s.cnt := rfl
@[simp] theorem updMp_parts (s : State) (p : Nat) (f : MemPort → MemPort) : (updMp s p f).parts = s.parts := rfl
@[simp] theorem updMp_ras (s : State) (p : Nat) (f : MemPort → MemPort) : (updMp s p f).ras = s.ras := rfl
@[simp] theorem updMp_cas (s : State) (p : Nat) (f : MemPort → MemPort) : (updMp s p f).cas = s.cas := rfl
@[simp] theorem updMp_det (s : State) (p : Nat) (f : MemPort → MemPort) : (updMp s p f).det = s.det := rfl
@[simp] theorem updMp_lan (s : State) (p : Nat) (f : MemPort → MemPort) : (updMp s p f).lan = s.lan := rfl
@[simp] theorem updMp_eng (s : State) (p : Nat) (f : MemPort → MemPort) : (updMp s p f).eng = s.eng := rfl
@[simp] theorem updMp_hst (s : State) (p : Nat) (f : MemPort → MemPort) : (updMp s p f).hst = s.hst := rfl
@[simp] theorem updMp_hom (s : State) (p : Nat) (f : MemPort → MemPort) : (updMp s p f).hom = s.hom := rfl
@[simp] theorem updMp_mov (s : State) (p : Nat) (f : MemPort → MemPort) : (updMp s p f).mov = s.mov := rfl
@[simp] theorem updMp_xfm (s : State) (p : Nat) (f : MemPort → MemPort) : (updMp s p f).xfm = s.xfm := rfl
@[simp] theorem updMp_tir (s : State) (p : Nat) (f : MemPort → MemPort) : (updMp s p f).tir = s.tir := rfl
@[simp] theorem updMp_lmp (s : State) (p : Nat) (f : MemPort → MemPort) : (updMp s p f).lmp = s.lmp := rfl
@[simp] theorem updMp_fnc (s : State) (p : Nat) (f : MemPort → MemPort) : (updMp s p f).fnc = s.fnc := rfl
@[simp] theorem updMp_spn (s : State) (p : Nat) (f : MemPort → MemPort) : (updMp s p f).spn = s.spn := rfl
@[simp] theorem updMp_mem (s : State) (p : Nat) (f : MemPort → MemPort) : (updMp s p f).mem = s.mem := rfl
@[simp] theorem updMp_memPois (s : State) (p : Nat) (f : MemPort → MemPort) : (updMp s p f).memPois = s.memPois := rfl
@[simp] theorem updMp_memKey (s : State) (p : Nat) (f : MemPort → MemPort) : (updMp s p f).memKey = s.memKey := rfl
@[simp] theorem updMp_memScrub (s : State) (p : Nat) (f : MemPort → MemPort) : (updMp s p f).memScrub = s.memScrub := rfl
@[simp] theorem updMp_out (s : State) (p : Nat) (f : MemPort → MemPort) : (updMp s p f).out = s.out := rfl
@[simp] theorem updMp_pending (s : State) (p : Nat) (f : MemPort → MemPort) : (updMp s p f).pending = s.pending := rfl

@[simp] theorem updBcn_build (s : State) (f : Bcn → Bcn) : (updBcn s f).build = s.build := rfl
@[simp] theorem updBcn_clk (s : State) (f : Bcn → Bcn) : (updBcn s f).clk = s.clk := rfl
@[simp] theorem updBcn_free (s : State) (f : Bcn → Bcn) : (updBcn s f).free = s.free := rfl
@[simp] theorem updBcn_pages (s : State) (f : Bcn → Bcn) : (updBcn s f).pages = s.pages := rfl
@[simp] theorem updBcn_boot (s : State) (f : Bcn → Bcn) : (updBcn s f).boot = s.boot := rfl
@[simp] theorem updBcn_fuses (s : State) (f : Bcn → Bcn) : (updBcn s f).fuses = s.fuses := rfl
@[simp] theorem updBcn_sec (s : State) (f : Bcn → Bcn) : (updBcn s f).sec = s.sec := rfl
@[simp] theorem updBcn_mbx (s : State) (f : Bcn → Bcn) : (updBcn s f).mbx = s.mbx := rfl
@[simp] theorem updBcn_cnt (s : State) (f : Bcn → Bcn) : (updBcn s f).cnt = s.cnt := rfl
@[simp] theorem updBcn_parts (s : State) (f : Bcn → Bcn) : (updBcn s f).parts = s.parts := rfl
@[simp] theorem updBcn_ras (s : State) (f : Bcn → Bcn) : (updBcn s f).ras = s.ras := rfl
@[simp] theorem updBcn_cas (s : State) (f : Bcn → Bcn) : (updBcn s f).cas = s.cas := rfl
@[simp] theorem updBcn_det (s : State) (f : Bcn → Bcn) : (updBcn s f).det = s.det := rfl
@[simp] theorem updBcn_lan (s : State) (f : Bcn → Bcn) : (updBcn s f).lan = s.lan := rfl
@[simp] theorem updBcn_eng (s : State) (f : Bcn → Bcn) : (updBcn s f).eng = s.eng := rfl
@[simp] theorem updBcn_hst (s : State) (f : Bcn → Bcn) : (updBcn s f).hst = s.hst := rfl
@[simp] theorem updBcn_hom (s : State) (f : Bcn → Bcn) : (updBcn s f).hom = s.hom := rfl
@[simp] theorem updBcn_mov (s : State) (f : Bcn → Bcn) : (updBcn s f).mov = s.mov := rfl
@[simp] theorem updBcn_xfm (s : State) (f : Bcn → Bcn) : (updBcn s f).xfm = s.xfm := rfl
@[simp] theorem updBcn_tir (s : State) (f : Bcn → Bcn) : (updBcn s f).tir = s.tir := rfl
@[simp] theorem updBcn_lmp (s : State) (f : Bcn → Bcn) : (updBcn s f).lmp = s.lmp := rfl
@[simp] theorem updBcn_fnc (s : State) (f : Bcn → Bcn) : (updBcn s f).fnc = s.fnc := rfl
@[simp] theorem updBcn_spn (s : State) (f : Bcn → Bcn) : (updBcn s f).spn = s.spn := rfl
@[simp] theorem updBcn_mps (s : State) (f : Bcn → Bcn) : (updBcn s f).mps = s.mps := rfl
@[simp] theorem updBcn_mem (s : State) (f : Bcn → Bcn) : (updBcn s f).mem = s.mem := rfl
@[simp] theorem updBcn_memPois (s : State) (f : Bcn → Bcn) : (updBcn s f).memPois = s.memPois := rfl
@[simp] theorem updBcn_memKey (s : State) (f : Bcn → Bcn) : (updBcn s f).memKey = s.memKey := rfl
@[simp] theorem updBcn_memScrub (s : State) (f : Bcn → Bcn) : (updBcn s f).memScrub = s.memScrub := rfl
@[simp] theorem updBcn_out (s : State) (f : Bcn → Bcn) : (updBcn s f).out = s.out := rfl
@[simp] theorem updBcn_pending (s : State) (f : Bcn → Bcn) : (updBcn s f).pending = s.pending := rfl

@[simp] theorem updSpn_build (s : State) (f : Spn → Spn) : (updSpn s f).build = s.build := rfl
@[simp] theorem updSpn_clk (s : State) (f : Spn → Spn) : (updSpn s f).clk = s.clk := rfl
@[simp] theorem updSpn_free (s : State) (f : Spn → Spn) : (updSpn s f).free = s.free := rfl
@[simp] theorem updSpn_pages (s : State) (f : Spn → Spn) : (updSpn s f).pages = s.pages := rfl
@[simp] theorem updSpn_boot (s : State) (f : Spn → Spn) : (updSpn s f).boot = s.boot := rfl
@[simp] theorem updSpn_fuses (s : State) (f : Spn → Spn) : (updSpn s f).fuses = s.fuses := rfl
@[simp] theorem updSpn_bcn (s : State) (f : Spn → Spn) : (updSpn s f).bcn = s.bcn := rfl
@[simp] theorem updSpn_sec (s : State) (f : Spn → Spn) : (updSpn s f).sec = s.sec := rfl
@[simp] theorem updSpn_mbx (s : State) (f : Spn → Spn) : (updSpn s f).mbx = s.mbx := rfl
@[simp] theorem updSpn_cnt (s : State) (f : Spn → Spn) : (updSpn s f).cnt = s.cnt := rfl
@[simp] theorem updSpn_parts (s : State) (f : Spn → Spn) : (updSpn s f).parts = s.parts := rfl
@[simp] theorem updSpn_ras (s : State) (f : Spn → Spn) : (updSpn s f).ras = s.ras := rfl
@[simp] theorem updSpn_cas (s : State) (f : Spn → Spn) : (updSpn s f).cas = s.cas := rfl
@[simp] theorem updSpn_det (s : State) (f : Spn → Spn) : (updSpn s f).det = s.det := rfl
@[simp] theorem updSpn_lan (s : State) (f : Spn → Spn) : (updSpn s f).lan = s.lan := rfl
@[simp] theorem updSpn_eng (s : State) (f : Spn → Spn) : (updSpn s f).eng = s.eng := rfl
@[simp] theorem updSpn_hst (s : State) (f : Spn → Spn) : (updSpn s f).hst = s.hst := rfl
@[simp] theorem updSpn_hom (s : State) (f : Spn → Spn) : (updSpn s f).hom = s.hom := rfl
@[simp] theorem updSpn_mov (s : State) (f : Spn → Spn) : (updSpn s f).mov = s.mov := rfl
@[simp] theorem updSpn_xfm (s : State) (f : Spn → Spn) : (updSpn s f).xfm = s.xfm := rfl
@[simp] theorem updSpn_tir (s : State) (f : Spn → Spn) : (updSpn s f).tir = s.tir := rfl
@[simp] theorem updSpn_lmp (s : State) (f : Spn → Spn) : (updSpn s f).lmp = s.lmp := rfl
@[simp] theorem updSpn_fnc (s : State) (f : Spn → Spn) : (updSpn s f).fnc = s.fnc := rfl
@[simp] theorem updSpn_mps (s : State) (f : Spn → Spn) : (updSpn s f).mps = s.mps := rfl
@[simp] theorem updSpn_mem (s : State) (f : Spn → Spn) : (updSpn s f).mem = s.mem := rfl
@[simp] theorem updSpn_memPois (s : State) (f : Spn → Spn) : (updSpn s f).memPois = s.memPois := rfl
@[simp] theorem updSpn_memKey (s : State) (f : Spn → Spn) : (updSpn s f).memKey = s.memKey := rfl
@[simp] theorem updSpn_memScrub (s : State) (f : Spn → Spn) : (updSpn s f).memScrub = s.memScrub := rfl
@[simp] theorem updSpn_out (s : State) (f : Spn → Spn) : (updSpn s f).out = s.out := rfl
@[simp] theorem updSpn_pending (s : State) (f : Spn → Spn) : (updSpn s f).pending = s.pending := rfl

@[simp] theorem updChan_build (s : State) (c : Nat) (f : Chan → Chan) : (updChan s c f).build = s.build := rfl
@[simp] theorem updChan_clk (s : State) (c : Nat) (f : Chan → Chan) : (updChan s c f).clk = s.clk := rfl
@[simp] theorem updChan_free (s : State) (c : Nat) (f : Chan → Chan) : (updChan s c f).free = s.free := rfl
@[simp] theorem updChan_pages (s : State) (c : Nat) (f : Chan → Chan) : (updChan s c f).pages = s.pages := rfl
@[simp] theorem updChan_boot (s : State) (c : Nat) (f : Chan → Chan) : (updChan s c f).boot = s.boot := rfl
@[simp] theorem updChan_fuses (s : State) (c : Nat) (f : Chan → Chan) : (updChan s c f).fuses = s.fuses := rfl
@[simp] theorem updChan_bcn (s : State) (c : Nat) (f : Chan → Chan) : (updChan s c f).bcn = s.bcn := rfl
@[simp] theorem updChan_sec (s : State) (c : Nat) (f : Chan → Chan) : (updChan s c f).sec = s.sec := rfl
@[simp] theorem updChan_mbx (s : State) (c : Nat) (f : Chan → Chan) : (updChan s c f).mbx = s.mbx := rfl
@[simp] theorem updChan_cnt (s : State) (c : Nat) (f : Chan → Chan) : (updChan s c f).cnt = s.cnt := rfl
@[simp] theorem updChan_parts (s : State) (c : Nat) (f : Chan → Chan) : (updChan s c f).parts = s.parts := rfl
@[simp] theorem updChan_ras (s : State) (c : Nat) (f : Chan → Chan) : (updChan s c f).ras = s.ras := rfl
@[simp] theorem updChan_cas (s : State) (c : Nat) (f : Chan → Chan) : (updChan s c f).cas = s.cas := rfl
@[simp] theorem updChan_det (s : State) (c : Nat) (f : Chan → Chan) : (updChan s c f).det = s.det := rfl
@[simp] theorem updChan_lan (s : State) (c : Nat) (f : Chan → Chan) : (updChan s c f).lan = s.lan := rfl
@[simp] theorem updChan_eng (s : State) (c : Nat) (f : Chan → Chan) : (updChan s c f).eng = s.eng := rfl
@[simp] theorem updChan_hst (s : State) (c : Nat) (f : Chan → Chan) : (updChan s c f).hst = s.hst := rfl
@[simp] theorem updChan_hom (s : State) (c : Nat) (f : Chan → Chan) : (updChan s c f).hom = s.hom := rfl
@[simp] theorem updChan_xfm (s : State) (c : Nat) (f : Chan → Chan) : (updChan s c f).xfm = s.xfm := rfl
@[simp] theorem updChan_tir (s : State) (c : Nat) (f : Chan → Chan) : (updChan s c f).tir = s.tir := rfl
@[simp] theorem updChan_lmp (s : State) (c : Nat) (f : Chan → Chan) : (updChan s c f).lmp = s.lmp := rfl
@[simp] theorem updChan_fnc (s : State) (c : Nat) (f : Chan → Chan) : (updChan s c f).fnc = s.fnc := rfl
@[simp] theorem updChan_spn (s : State) (c : Nat) (f : Chan → Chan) : (updChan s c f).spn = s.spn := rfl
@[simp] theorem updChan_mps (s : State) (c : Nat) (f : Chan → Chan) : (updChan s c f).mps = s.mps := rfl
@[simp] theorem updChan_mem (s : State) (c : Nat) (f : Chan → Chan) : (updChan s c f).mem = s.mem := rfl
@[simp] theorem updChan_memPois (s : State) (c : Nat) (f : Chan → Chan) : (updChan s c f).memPois = s.memPois := rfl
@[simp] theorem updChan_memKey (s : State) (c : Nat) (f : Chan → Chan) : (updChan s c f).memKey = s.memKey := rfl
@[simp] theorem updChan_memScrub (s : State) (c : Nat) (f : Chan → Chan) : (updChan s c f).memScrub = s.memScrub := rfl
@[simp] theorem updChan_out (s : State) (c : Nat) (f : Chan → Chan) : (updChan s c f).out = s.out := rfl
@[simp] theorem updChan_pending (s : State) (c : Nat) (f : Chan → Chan) : (updChan s c f).pending = s.pending := rfl

@[simp] theorem updActive_build (s : State) (c k : Nat) (f : Active → Active) : (updActive s c k f).build = s.build := rfl
@[simp] theorem updActive_clk (s : State) (c k : Nat) (f : Active → Active) : (updActive s c k f).clk = s.clk := rfl
@[simp] theorem updActive_free (s : State) (c k : Nat) (f : Active → Active) : (updActive s c k f).free = s.free := rfl
@[simp] theorem updActive_pages (s : State) (c k : Nat) (f : Active → Active) : (updActive s c k f).pages = s.pages := rfl
@[simp] theorem updActive_boot (s : State) (c k : Nat) (f : Active → Active) : (updActive s c k f).boot = s.boot := rfl
@[simp] theorem updActive_fuses (s : State) (c k : Nat) (f : Active → Active) : (updActive s c k f).fuses = s.fuses := rfl
@[simp] theorem updActive_bcn (s : State) (c k : Nat) (f : Active → Active) : (updActive s c k f).bcn = s.bcn := rfl
@[simp] theorem updActive_sec (s : State) (c k : Nat) (f : Active → Active) : (updActive s c k f).sec = s.sec := rfl
@[simp] theorem updActive_mbx (s : State) (c k : Nat) (f : Active → Active) : (updActive s c k f).mbx = s.mbx := rfl
@[simp] theorem updActive_cnt (s : State) (c k : Nat) (f : Active → Active) : (updActive s c k f).cnt = s.cnt := rfl
@[simp] theorem updActive_parts (s : State) (c k : Nat) (f : Active → Active) : (updActive s c k f).parts = s.parts := rfl
@[simp] theorem updActive_ras (s : State) (c k : Nat) (f : Active → Active) : (updActive s c k f).ras = s.ras := rfl
@[simp] theorem updActive_cas (s : State) (c k : Nat) (f : Active → Active) : (updActive s c k f).cas = s.cas := rfl
@[simp] theorem updActive_det (s : State) (c k : Nat) (f : Active → Active) : (updActive s c k f).det = s.det := rfl
@[simp] theorem updActive_lan (s : State) (c k : Nat) (f : Active → Active) : (updActive s c k f).lan = s.lan := rfl
@[simp] theorem updActive_eng (s : State) (c k : Nat) (f : Active → Active) : (updActive s c k f).eng = s.eng := rfl
@[simp] theorem updActive_hst (s : State) (c k : Nat) (f : Active → Active) : (updActive s c k f).hst = s.hst := rfl
@[simp] theorem updActive_hom (s : State) (c k : Nat) (f : Active → Active) : (updActive s c k f).hom = s.hom := rfl
@[simp] theorem updActive_xfm (s : State) (c k : Nat) (f : Active → Active) : (updActive s c k f).xfm = s.xfm := rfl
@[simp] theorem updActive_tir (s : State) (c k : Nat) (f : Active → Active) : (updActive s c k f).tir = s.tir := rfl
@[simp] theorem updActive_lmp (s : State) (c k : Nat) (f : Active → Active) : (updActive s c k f).lmp = s.lmp := rfl
@[simp] theorem updActive_fnc (s : State) (c k : Nat) (f : Active → Active) : (updActive s c k f).fnc = s.fnc := rfl
@[simp] theorem updActive_spn (s : State) (c k : Nat) (f : Active → Active) : (updActive s c k f).spn = s.spn := rfl
@[simp] theorem updActive_mps (s : State) (c k : Nat) (f : Active → Active) : (updActive s c k f).mps = s.mps := rfl
@[simp] theorem updActive_mem (s : State) (c k : Nat) (f : Active → Active) : (updActive s c k f).mem = s.mem := rfl
@[simp] theorem updActive_memPois (s : State) (c k : Nat) (f : Active → Active) : (updActive s c k f).memPois = s.memPois := rfl
@[simp] theorem updActive_memKey (s : State) (c k : Nat) (f : Active → Active) : (updActive s c k f).memKey = s.memKey := rfl
@[simp] theorem updActive_memScrub (s : State) (c k : Nat) (f : Active → Active) : (updActive s c k f).memScrub = s.memScrub := rfl
@[simp] theorem updActive_out (s : State) (c k : Nat) (f : Active → Active) : (updActive s c k f).out = s.out := rfl
@[simp] theorem updActive_pending (s : State) (c k : Nat) (f : Active → Active) : (updActive s c k f).pending = s.pending := rfl

@[simp] theorem updSeg_build (s : State) (c k g : Nat) (f : Seg → Seg) : (updSeg s c k g f).build = s.build := rfl
@[simp] theorem updSeg_clk (s : State) (c k g : Nat) (f : Seg → Seg) : (updSeg s c k g f).clk = s.clk := rfl
@[simp] theorem updSeg_free (s : State) (c k g : Nat) (f : Seg → Seg) : (updSeg s c k g f).free = s.free := rfl
@[simp] theorem updSeg_pages (s : State) (c k g : Nat) (f : Seg → Seg) : (updSeg s c k g f).pages = s.pages := rfl
@[simp] theorem updSeg_boot (s : State) (c k g : Nat) (f : Seg → Seg) : (updSeg s c k g f).boot = s.boot := rfl
@[simp] theorem updSeg_fuses (s : State) (c k g : Nat) (f : Seg → Seg) : (updSeg s c k g f).fuses = s.fuses := rfl
@[simp] theorem updSeg_bcn (s : State) (c k g : Nat) (f : Seg → Seg) : (updSeg s c k g f).bcn = s.bcn := rfl
@[simp] theorem updSeg_sec (s : State) (c k g : Nat) (f : Seg → Seg) : (updSeg s c k g f).sec = s.sec := rfl
@[simp] theorem updSeg_mbx (s : State) (c k g : Nat) (f : Seg → Seg) : (updSeg s c k g f).mbx = s.mbx := rfl
@[simp] theorem updSeg_cnt (s : State) (c k g : Nat) (f : Seg → Seg) : (updSeg s c k g f).cnt = s.cnt := rfl
@[simp] theorem updSeg_parts (s : State) (c k g : Nat) (f : Seg → Seg) : (updSeg s c k g f).parts = s.parts := rfl
@[simp] theorem updSeg_ras (s : State) (c k g : Nat) (f : Seg → Seg) : (updSeg s c k g f).ras = s.ras := rfl
@[simp] theorem updSeg_cas (s : State) (c k g : Nat) (f : Seg → Seg) : (updSeg s c k g f).cas = s.cas := rfl
@[simp] theorem updSeg_det (s : State) (c k g : Nat) (f : Seg → Seg) : (updSeg s c k g f).det = s.det := rfl
@[simp] theorem updSeg_lan (s : State) (c k g : Nat) (f : Seg → Seg) : (updSeg s c k g f).lan = s.lan := rfl
@[simp] theorem updSeg_eng (s : State) (c k g : Nat) (f : Seg → Seg) : (updSeg s c k g f).eng = s.eng := rfl
@[simp] theorem updSeg_hst (s : State) (c k g : Nat) (f : Seg → Seg) : (updSeg s c k g f).hst = s.hst := rfl
@[simp] theorem updSeg_hom (s : State) (c k g : Nat) (f : Seg → Seg) : (updSeg s c k g f).hom = s.hom := rfl
@[simp] theorem updSeg_xfm (s : State) (c k g : Nat) (f : Seg → Seg) : (updSeg s c k g f).xfm = s.xfm := rfl
@[simp] theorem updSeg_tir (s : State) (c k g : Nat) (f : Seg → Seg) : (updSeg s c k g f).tir = s.tir := rfl
@[simp] theorem updSeg_lmp (s : State) (c k g : Nat) (f : Seg → Seg) : (updSeg s c k g f).lmp = s.lmp := rfl
@[simp] theorem updSeg_fnc (s : State) (c k g : Nat) (f : Seg → Seg) : (updSeg s c k g f).fnc = s.fnc := rfl
@[simp] theorem updSeg_spn (s : State) (c k g : Nat) (f : Seg → Seg) : (updSeg s c k g f).spn = s.spn := rfl
@[simp] theorem updSeg_mps (s : State) (c k g : Nat) (f : Seg → Seg) : (updSeg s c k g f).mps = s.mps := rfl
@[simp] theorem updSeg_mem (s : State) (c k g : Nat) (f : Seg → Seg) : (updSeg s c k g f).mem = s.mem := rfl
@[simp] theorem updSeg_memPois (s : State) (c k g : Nat) (f : Seg → Seg) : (updSeg s c k g f).memPois = s.memPois := rfl
@[simp] theorem updSeg_memKey (s : State) (c k g : Nat) (f : Seg → Seg) : (updSeg s c k g f).memKey = s.memKey := rfl
@[simp] theorem updSeg_memScrub (s : State) (c k g : Nat) (f : Seg → Seg) : (updSeg s c k g f).memScrub = s.memScrub := rfl
@[simp] theorem updSeg_out (s : State) (c k g : Nat) (f : Seg → Seg) : (updSeg s c k g f).out = s.out := rfl
@[simp] theorem updSeg_pending (s : State) (c k g : Nat) (f : Seg → Seg) : (updSeg s c k g f).pending = s.pending := rfl

@[simp] theorem updMove_build (s : State) (ch q seq : Nat) (g : ChanCmd → ChanCmd) : (updMove s ch q seq g).build = s.build := rfl
@[simp] theorem updMove_clk (s : State) (ch q seq : Nat) (g : ChanCmd → ChanCmd) : (updMove s ch q seq g).clk = s.clk := rfl
@[simp] theorem updMove_free (s : State) (ch q seq : Nat) (g : ChanCmd → ChanCmd) : (updMove s ch q seq g).free = s.free := rfl
@[simp] theorem updMove_pages (s : State) (ch q seq : Nat) (g : ChanCmd → ChanCmd) : (updMove s ch q seq g).pages = s.pages := rfl
@[simp] theorem updMove_boot (s : State) (ch q seq : Nat) (g : ChanCmd → ChanCmd) : (updMove s ch q seq g).boot = s.boot := rfl
@[simp] theorem updMove_fuses (s : State) (ch q seq : Nat) (g : ChanCmd → ChanCmd) : (updMove s ch q seq g).fuses = s.fuses := rfl
@[simp] theorem updMove_bcn (s : State) (ch q seq : Nat) (g : ChanCmd → ChanCmd) : (updMove s ch q seq g).bcn = s.bcn := rfl
@[simp] theorem updMove_sec (s : State) (ch q seq : Nat) (g : ChanCmd → ChanCmd) : (updMove s ch q seq g).sec = s.sec := rfl
@[simp] theorem updMove_mbx (s : State) (ch q seq : Nat) (g : ChanCmd → ChanCmd) : (updMove s ch q seq g).mbx = s.mbx := rfl
@[simp] theorem updMove_cnt (s : State) (ch q seq : Nat) (g : ChanCmd → ChanCmd) : (updMove s ch q seq g).cnt = s.cnt := rfl
@[simp] theorem updMove_parts (s : State) (ch q seq : Nat) (g : ChanCmd → ChanCmd) : (updMove s ch q seq g).parts = s.parts := rfl
@[simp] theorem updMove_ras (s : State) (ch q seq : Nat) (g : ChanCmd → ChanCmd) : (updMove s ch q seq g).ras = s.ras := rfl
@[simp] theorem updMove_cas (s : State) (ch q seq : Nat) (g : ChanCmd → ChanCmd) : (updMove s ch q seq g).cas = s.cas := rfl
@[simp] theorem updMove_det (s : State) (ch q seq : Nat) (g : ChanCmd → ChanCmd) : (updMove s ch q seq g).det = s.det := rfl
@[simp] theorem updMove_lan (s : State) (ch q seq : Nat) (g : ChanCmd → ChanCmd) : (updMove s ch q seq g).lan = s.lan := rfl
@[simp] theorem updMove_eng (s : State) (ch q seq : Nat) (g : ChanCmd → ChanCmd) : (updMove s ch q seq g).eng = s.eng := rfl
@[simp] theorem updMove_hst (s : State) (ch q seq : Nat) (g : ChanCmd → ChanCmd) : (updMove s ch q seq g).hst = s.hst := rfl
@[simp] theorem updMove_hom (s : State) (ch q seq : Nat) (g : ChanCmd → ChanCmd) : (updMove s ch q seq g).hom = s.hom := rfl
@[simp] theorem updMove_xfm (s : State) (ch q seq : Nat) (g : ChanCmd → ChanCmd) : (updMove s ch q seq g).xfm = s.xfm := rfl
@[simp] theorem updMove_tir (s : State) (ch q seq : Nat) (g : ChanCmd → ChanCmd) : (updMove s ch q seq g).tir = s.tir := rfl
@[simp] theorem updMove_lmp (s : State) (ch q seq : Nat) (g : ChanCmd → ChanCmd) : (updMove s ch q seq g).lmp = s.lmp := rfl
@[simp] theorem updMove_fnc (s : State) (ch q seq : Nat) (g : ChanCmd → ChanCmd) : (updMove s ch q seq g).fnc = s.fnc := rfl
@[simp] theorem updMove_spn (s : State) (ch q seq : Nat) (g : ChanCmd → ChanCmd) : (updMove s ch q seq g).spn = s.spn := rfl
@[simp] theorem updMove_mps (s : State) (ch q seq : Nat) (g : ChanCmd → ChanCmd) : (updMove s ch q seq g).mps = s.mps := rfl
@[simp] theorem updMove_mem (s : State) (ch q seq : Nat) (g : ChanCmd → ChanCmd) : (updMove s ch q seq g).mem = s.mem := rfl
@[simp] theorem updMove_memPois (s : State) (ch q seq : Nat) (g : ChanCmd → ChanCmd) : (updMove s ch q seq g).memPois = s.memPois := rfl
@[simp] theorem updMove_memKey (s : State) (ch q seq : Nat) (g : ChanCmd → ChanCmd) : (updMove s ch q seq g).memKey = s.memKey := rfl
@[simp] theorem updMove_memScrub (s : State) (ch q seq : Nat) (g : ChanCmd → ChanCmd) : (updMove s ch q seq g).memScrub = s.memScrub := rfl
@[simp] theorem updMove_out (s : State) (ch q seq : Nat) (g : ChanCmd → ChanCmd) : (updMove s ch q seq g).out = s.out := rfl
@[simp] theorem updMove_pending (s : State) (ch q seq : Nat) (g : ChanCmd → ChanCmd) : (updMove s ch q seq g).pending = s.pending := rfl

@[simp] theorem updBurst_build (s : State) (n b : Nat) (f : Burst → Burst) : (updBurst s n b f).build = s.build := rfl
@[simp] theorem updBurst_clk (s : State) (n b : Nat) (f : Burst → Burst) : (updBurst s n b f).clk = s.clk := rfl
@[simp] theorem updBurst_free (s : State) (n b : Nat) (f : Burst → Burst) : (updBurst s n b f).free = s.free := rfl
@[simp] theorem updBurst_pages (s : State) (n b : Nat) (f : Burst → Burst) : (updBurst s n b f).pages = s.pages := rfl
@[simp] theorem updBurst_boot (s : State) (n b : Nat) (f : Burst → Burst) : (updBurst s n b f).boot = s.boot := rfl
@[simp] theorem updBurst_fuses (s : State) (n b : Nat) (f : Burst → Burst) : (updBurst s n b f).fuses = s.fuses := rfl
@[simp] theorem updBurst_bcn (s : State) (n b : Nat) (f : Burst → Burst) : (updBurst s n b f).bcn = s.bcn := rfl
@[simp] theorem updBurst_sec (s : State) (n b : Nat) (f : Burst → Burst) : (updBurst s n b f).sec = s.sec := rfl
@[simp] theorem updBurst_mbx (s : State) (n b : Nat) (f : Burst → Burst) : (updBurst s n b f).mbx = s.mbx := rfl
@[simp] theorem updBurst_cnt (s : State) (n b : Nat) (f : Burst → Burst) : (updBurst s n b f).cnt = s.cnt := rfl
@[simp] theorem updBurst_parts (s : State) (n b : Nat) (f : Burst → Burst) : (updBurst s n b f).parts = s.parts := rfl
@[simp] theorem updBurst_ras (s : State) (n b : Nat) (f : Burst → Burst) : (updBurst s n b f).ras = s.ras := rfl
@[simp] theorem updBurst_cas (s : State) (n b : Nat) (f : Burst → Burst) : (updBurst s n b f).cas = s.cas := rfl
@[simp] theorem updBurst_det (s : State) (n b : Nat) (f : Burst → Burst) : (updBurst s n b f).det = s.det := rfl
@[simp] theorem updBurst_lan (s : State) (n b : Nat) (f : Burst → Burst) : (updBurst s n b f).lan = s.lan := rfl
@[simp] theorem updBurst_hst (s : State) (n b : Nat) (f : Burst → Burst) : (updBurst s n b f).hst = s.hst := rfl
@[simp] theorem updBurst_hom (s : State) (n b : Nat) (f : Burst → Burst) : (updBurst s n b f).hom = s.hom := rfl
@[simp] theorem updBurst_mov (s : State) (n b : Nat) (f : Burst → Burst) : (updBurst s n b f).mov = s.mov := rfl
@[simp] theorem updBurst_xfm (s : State) (n b : Nat) (f : Burst → Burst) : (updBurst s n b f).xfm = s.xfm := rfl
@[simp] theorem updBurst_tir (s : State) (n b : Nat) (f : Burst → Burst) : (updBurst s n b f).tir = s.tir := rfl
@[simp] theorem updBurst_lmp (s : State) (n b : Nat) (f : Burst → Burst) : (updBurst s n b f).lmp = s.lmp := rfl
@[simp] theorem updBurst_fnc (s : State) (n b : Nat) (f : Burst → Burst) : (updBurst s n b f).fnc = s.fnc := rfl
@[simp] theorem updBurst_spn (s : State) (n b : Nat) (f : Burst → Burst) : (updBurst s n b f).spn = s.spn := rfl
@[simp] theorem updBurst_mps (s : State) (n b : Nat) (f : Burst → Burst) : (updBurst s n b f).mps = s.mps := rfl
@[simp] theorem updBurst_mem (s : State) (n b : Nat) (f : Burst → Burst) : (updBurst s n b f).mem = s.mem := rfl
@[simp] theorem updBurst_memPois (s : State) (n b : Nat) (f : Burst → Burst) : (updBurst s n b f).memPois = s.memPois := rfl
@[simp] theorem updBurst_memKey (s : State) (n b : Nat) (f : Burst → Burst) : (updBurst s n b f).memKey = s.memKey := rfl
@[simp] theorem updBurst_memScrub (s : State) (n b : Nat) (f : Burst → Burst) : (updBurst s n b f).memScrub = s.memScrub := rfl
@[simp] theorem updBurst_out (s : State) (n b : Nat) (f : Burst → Burst) : (updBurst s n b f).out = s.out := rfl
@[simp] theorem updBurst_pending (s : State) (n b : Nat) (f : Burst → Burst) : (updBurst s n b f).pending = s.pending := rfl

@[simp] theorem setSlot_build (s : State) (k : Nat) (x : Slot) : (setSlot s k x).build = s.build := rfl
@[simp] theorem setSlot_clk (s : State) (k : Nat) (x : Slot) : (setSlot s k x).clk = s.clk := rfl
@[simp] theorem setSlot_free (s : State) (k : Nat) (x : Slot) : (setSlot s k x).free = s.free := rfl
@[simp] theorem setSlot_pages (s : State) (k : Nat) (x : Slot) : (setSlot s k x).pages = s.pages := rfl
@[simp] theorem setSlot_boot (s : State) (k : Nat) (x : Slot) : (setSlot s k x).boot = s.boot := rfl
@[simp] theorem setSlot_fuses (s : State) (k : Nat) (x : Slot) : (setSlot s k x).fuses = s.fuses := rfl
@[simp] theorem setSlot_bcn (s : State) (k : Nat) (x : Slot) : (setSlot s k x).bcn = s.bcn := rfl
@[simp] theorem setSlot_sec (s : State) (k : Nat) (x : Slot) : (setSlot s k x).sec = s.sec := rfl
@[simp] theorem setSlot_mbx (s : State) (k : Nat) (x : Slot) : (setSlot s k x).mbx = s.mbx := rfl
@[simp] theorem setSlot_cnt (s : State) (k : Nat) (x : Slot) : (setSlot s k x).cnt = s.cnt := rfl
@[simp] theorem setSlot_parts (s : State) (k : Nat) (x : Slot) : (setSlot s k x).parts = s.parts := rfl
@[simp] theorem setSlot_ras (s : State) (k : Nat) (x : Slot) : (setSlot s k x).ras = s.ras := rfl
@[simp] theorem setSlot_cas (s : State) (k : Nat) (x : Slot) : (setSlot s k x).cas = s.cas := rfl
@[simp] theorem setSlot_det (s : State) (k : Nat) (x : Slot) : (setSlot s k x).det = s.det := rfl
@[simp] theorem setSlot_lan (s : State) (k : Nat) (x : Slot) : (setSlot s k x).lan = s.lan := rfl
@[simp] theorem setSlot_hst (s : State) (k : Nat) (x : Slot) : (setSlot s k x).hst = s.hst := rfl
@[simp] theorem setSlot_hom (s : State) (k : Nat) (x : Slot) : (setSlot s k x).hom = s.hom := rfl
@[simp] theorem setSlot_mov (s : State) (k : Nat) (x : Slot) : (setSlot s k x).mov = s.mov := rfl
@[simp] theorem setSlot_xfm (s : State) (k : Nat) (x : Slot) : (setSlot s k x).xfm = s.xfm := rfl
@[simp] theorem setSlot_tir (s : State) (k : Nat) (x : Slot) : (setSlot s k x).tir = s.tir := rfl
@[simp] theorem setSlot_lmp (s : State) (k : Nat) (x : Slot) : (setSlot s k x).lmp = s.lmp := rfl
@[simp] theorem setSlot_fnc (s : State) (k : Nat) (x : Slot) : (setSlot s k x).fnc = s.fnc := rfl
@[simp] theorem setSlot_spn (s : State) (k : Nat) (x : Slot) : (setSlot s k x).spn = s.spn := rfl
@[simp] theorem setSlot_mps (s : State) (k : Nat) (x : Slot) : (setSlot s k x).mps = s.mps := rfl
@[simp] theorem setSlot_mem (s : State) (k : Nat) (x : Slot) : (setSlot s k x).mem = s.mem := rfl
@[simp] theorem setSlot_memPois (s : State) (k : Nat) (x : Slot) : (setSlot s k x).memPois = s.memPois := rfl
@[simp] theorem setSlot_memKey (s : State) (k : Nat) (x : Slot) : (setSlot s k x).memKey = s.memKey := rfl
@[simp] theorem setSlot_memScrub (s : State) (k : Nat) (x : Slot) : (setSlot s k x).memScrub = s.memScrub := rfl
@[simp] theorem setSlot_out (s : State) (k : Nat) (x : Slot) : (setSlot s k x).out = s.out := rfl
@[simp] theorem setSlot_pending (s : State) (k : Nat) (x : Slot) : (setSlot s k x).pending = s.pending := rfl

@[simp] theorem setFirefly_build (s : State) (port : Nat) (l : List TlbEntry) : (setFirefly s port l).build = s.build := rfl
@[simp] theorem setFirefly_clk (s : State) (port : Nat) (l : List TlbEntry) : (setFirefly s port l).clk = s.clk := rfl
@[simp] theorem setFirefly_free (s : State) (port : Nat) (l : List TlbEntry) : (setFirefly s port l).free = s.free := rfl
@[simp] theorem setFirefly_pages (s : State) (port : Nat) (l : List TlbEntry) : (setFirefly s port l).pages = s.pages := rfl
@[simp] theorem setFirefly_boot (s : State) (port : Nat) (l : List TlbEntry) : (setFirefly s port l).boot = s.boot := rfl
@[simp] theorem setFirefly_fuses (s : State) (port : Nat) (l : List TlbEntry) : (setFirefly s port l).fuses = s.fuses := rfl
@[simp] theorem setFirefly_bcn (s : State) (port : Nat) (l : List TlbEntry) : (setFirefly s port l).bcn = s.bcn := rfl
@[simp] theorem setFirefly_sec (s : State) (port : Nat) (l : List TlbEntry) : (setFirefly s port l).sec = s.sec := rfl
@[simp] theorem setFirefly_mbx (s : State) (port : Nat) (l : List TlbEntry) : (setFirefly s port l).mbx = s.mbx := rfl
@[simp] theorem setFirefly_cnt (s : State) (port : Nat) (l : List TlbEntry) : (setFirefly s port l).cnt = s.cnt := rfl
@[simp] theorem setFirefly_parts (s : State) (port : Nat) (l : List TlbEntry) : (setFirefly s port l).parts = s.parts := rfl
@[simp] theorem setFirefly_ras (s : State) (port : Nat) (l : List TlbEntry) : (setFirefly s port l).ras = s.ras := rfl
@[simp] theorem setFirefly_cas (s : State) (port : Nat) (l : List TlbEntry) : (setFirefly s port l).cas = s.cas := rfl
@[simp] theorem setFirefly_det (s : State) (port : Nat) (l : List TlbEntry) : (setFirefly s port l).det = s.det := rfl
@[simp] theorem setFirefly_lan (s : State) (port : Nat) (l : List TlbEntry) : (setFirefly s port l).lan = s.lan := rfl
@[simp] theorem setFirefly_hst (s : State) (port : Nat) (l : List TlbEntry) : (setFirefly s port l).hst = s.hst := rfl
@[simp] theorem setFirefly_hom (s : State) (port : Nat) (l : List TlbEntry) : (setFirefly s port l).hom = s.hom := rfl
@[simp] theorem setFirefly_mov (s : State) (port : Nat) (l : List TlbEntry) : (setFirefly s port l).mov = s.mov := rfl
@[simp] theorem setFirefly_xfm (s : State) (port : Nat) (l : List TlbEntry) : (setFirefly s port l).xfm = s.xfm := rfl
@[simp] theorem setFirefly_tir (s : State) (port : Nat) (l : List TlbEntry) : (setFirefly s port l).tir = s.tir := rfl
@[simp] theorem setFirefly_lmp (s : State) (port : Nat) (l : List TlbEntry) : (setFirefly s port l).lmp = s.lmp := rfl
@[simp] theorem setFirefly_fnc (s : State) (port : Nat) (l : List TlbEntry) : (setFirefly s port l).fnc = s.fnc := rfl
@[simp] theorem setFirefly_spn (s : State) (port : Nat) (l : List TlbEntry) : (setFirefly s port l).spn = s.spn := rfl
@[simp] theorem setFirefly_mps (s : State) (port : Nat) (l : List TlbEntry) : (setFirefly s port l).mps = s.mps := rfl
@[simp] theorem setFirefly_mem (s : State) (port : Nat) (l : List TlbEntry) : (setFirefly s port l).mem = s.mem := rfl
@[simp] theorem setFirefly_memPois (s : State) (port : Nat) (l : List TlbEntry) : (setFirefly s port l).memPois = s.memPois := rfl
@[simp] theorem setFirefly_memKey (s : State) (port : Nat) (l : List TlbEntry) : (setFirefly s port l).memKey = s.memKey := rfl
@[simp] theorem setFirefly_memScrub (s : State) (port : Nat) (l : List TlbEntry) : (setFirefly s port l).memScrub = s.memScrub := rfl
@[simp] theorem setFirefly_out (s : State) (port : Nat) (l : List TlbEntry) : (setFirefly s port l).out = s.out := rfl
@[simp] theorem setFirefly_pending (s : State) (port : Nat) (l : List TlbEntry) : (setFirefly s port l).pending = s.pending := rfl

@[simp] theorem updToken_build (s : State) (k : Nat) (f : Token → Token) : (updToken s k f).build = s.build := rfl
@[simp] theorem updToken_clk (s : State) (k : Nat) (f : Token → Token) : (updToken s k f).clk = s.clk := rfl
@[simp] theorem updToken_free (s : State) (k : Nat) (f : Token → Token) : (updToken s k f).free = s.free := rfl
@[simp] theorem updToken_pages (s : State) (k : Nat) (f : Token → Token) : (updToken s k f).pages = s.pages := rfl
@[simp] theorem updToken_boot (s : State) (k : Nat) (f : Token → Token) : (updToken s k f).boot = s.boot := rfl
@[simp] theorem updToken_fuses (s : State) (k : Nat) (f : Token → Token) : (updToken s k f).fuses = s.fuses := rfl
@[simp] theorem updToken_bcn (s : State) (k : Nat) (f : Token → Token) : (updToken s k f).bcn = s.bcn := rfl
@[simp] theorem updToken_sec (s : State) (k : Nat) (f : Token → Token) : (updToken s k f).sec = s.sec := rfl
@[simp] theorem updToken_mbx (s : State) (k : Nat) (f : Token → Token) : (updToken s k f).mbx = s.mbx := rfl
@[simp] theorem updToken_cnt (s : State) (k : Nat) (f : Token → Token) : (updToken s k f).cnt = s.cnt := rfl
@[simp] theorem updToken_parts (s : State) (k : Nat) (f : Token → Token) : (updToken s k f).parts = s.parts := rfl
@[simp] theorem updToken_ras (s : State) (k : Nat) (f : Token → Token) : (updToken s k f).ras = s.ras := rfl
@[simp] theorem updToken_cas (s : State) (k : Nat) (f : Token → Token) : (updToken s k f).cas = s.cas := rfl
@[simp] theorem updToken_det (s : State) (k : Nat) (f : Token → Token) : (updToken s k f).det = s.det := rfl
@[simp] theorem updToken_lan (s : State) (k : Nat) (f : Token → Token) : (updToken s k f).lan = s.lan := rfl
@[simp] theorem updToken_hst (s : State) (k : Nat) (f : Token → Token) : (updToken s k f).hst = s.hst := rfl
@[simp] theorem updToken_hom (s : State) (k : Nat) (f : Token → Token) : (updToken s k f).hom = s.hom := rfl
@[simp] theorem updToken_mov (s : State) (k : Nat) (f : Token → Token) : (updToken s k f).mov = s.mov := rfl
@[simp] theorem updToken_xfm (s : State) (k : Nat) (f : Token → Token) : (updToken s k f).xfm = s.xfm := rfl
@[simp] theorem updToken_tir (s : State) (k : Nat) (f : Token → Token) : (updToken s k f).tir = s.tir := rfl
@[simp] theorem updToken_lmp (s : State) (k : Nat) (f : Token → Token) : (updToken s k f).lmp = s.lmp := rfl
@[simp] theorem updToken_fnc (s : State) (k : Nat) (f : Token → Token) : (updToken s k f).fnc = s.fnc := rfl
@[simp] theorem updToken_spn (s : State) (k : Nat) (f : Token → Token) : (updToken s k f).spn = s.spn := rfl
@[simp] theorem updToken_mps (s : State) (k : Nat) (f : Token → Token) : (updToken s k f).mps = s.mps := rfl
@[simp] theorem updToken_mem (s : State) (k : Nat) (f : Token → Token) : (updToken s k f).mem = s.mem := rfl
@[simp] theorem updToken_memPois (s : State) (k : Nat) (f : Token → Token) : (updToken s k f).memPois = s.memPois := rfl
@[simp] theorem updToken_memKey (s : State) (k : Nat) (f : Token → Token) : (updToken s k f).memKey = s.memKey := rfl
@[simp] theorem updToken_memScrub (s : State) (k : Nat) (f : Token → Token) : (updToken s k f).memScrub = s.memScrub := rfl
@[simp] theorem updToken_out (s : State) (k : Nat) (f : Token → Token) : (updToken s k f).out = s.out := rfl
@[simp] theorem updToken_pending (s : State) (k : Nat) (f : Token → Token) : (updToken s k f).pending = s.pending := rfl

@[simp] theorem setBar_build (s : State) (i : Nat) (b : Option Bar) : (setBar s i b).build = s.build := rfl
@[simp] theorem setBar_clk (s : State) (i : Nat) (b : Option Bar) : (setBar s i b).clk = s.clk := rfl
@[simp] theorem setBar_free (s : State) (i : Nat) (b : Option Bar) : (setBar s i b).free = s.free := rfl
@[simp] theorem setBar_pages (s : State) (i : Nat) (b : Option Bar) : (setBar s i b).pages = s.pages := rfl
@[simp] theorem setBar_boot (s : State) (i : Nat) (b : Option Bar) : (setBar s i b).boot = s.boot := rfl
@[simp] theorem setBar_fuses (s : State) (i : Nat) (b : Option Bar) : (setBar s i b).fuses = s.fuses := rfl
@[simp] theorem setBar_bcn (s : State) (i : Nat) (b : Option Bar) : (setBar s i b).bcn = s.bcn := rfl
@[simp] theorem setBar_sec (s : State) (i : Nat) (b : Option Bar) : (setBar s i b).sec = s.sec := rfl
@[simp] theorem setBar_mbx (s : State) (i : Nat) (b : Option Bar) : (setBar s i b).mbx = s.mbx := rfl
@[simp] theorem setBar_cnt (s : State) (i : Nat) (b : Option Bar) : (setBar s i b).cnt = s.cnt := rfl
@[simp] theorem setBar_parts (s : State) (i : Nat) (b : Option Bar) : (setBar s i b).parts = s.parts := rfl
@[simp] theorem setBar_ras (s : State) (i : Nat) (b : Option Bar) : (setBar s i b).ras = s.ras := rfl
@[simp] theorem setBar_cas (s : State) (i : Nat) (b : Option Bar) : (setBar s i b).cas = s.cas := rfl
@[simp] theorem setBar_det (s : State) (i : Nat) (b : Option Bar) : (setBar s i b).det = s.det := rfl
@[simp] theorem setBar_lan (s : State) (i : Nat) (b : Option Bar) : (setBar s i b).lan = s.lan := rfl
@[simp] theorem setBar_eng (s : State) (i : Nat) (b : Option Bar) : (setBar s i b).eng = s.eng := rfl
@[simp] theorem setBar_hst (s : State) (i : Nat) (b : Option Bar) : (setBar s i b).hst = s.hst := rfl
@[simp] theorem setBar_hom (s : State) (i : Nat) (b : Option Bar) : (setBar s i b).hom = s.hom := rfl
@[simp] theorem setBar_mov (s : State) (i : Nat) (b : Option Bar) : (setBar s i b).mov = s.mov := rfl
@[simp] theorem setBar_xfm (s : State) (i : Nat) (b : Option Bar) : (setBar s i b).xfm = s.xfm := rfl
@[simp] theorem setBar_tir (s : State) (i : Nat) (b : Option Bar) : (setBar s i b).tir = s.tir := rfl
@[simp] theorem setBar_lmp (s : State) (i : Nat) (b : Option Bar) : (setBar s i b).lmp = s.lmp := rfl
@[simp] theorem setBar_spn (s : State) (i : Nat) (b : Option Bar) : (setBar s i b).spn = s.spn := rfl
@[simp] theorem setBar_mps (s : State) (i : Nat) (b : Option Bar) : (setBar s i b).mps = s.mps := rfl
@[simp] theorem setBar_mem (s : State) (i : Nat) (b : Option Bar) : (setBar s i b).mem = s.mem := rfl
@[simp] theorem setBar_memPois (s : State) (i : Nat) (b : Option Bar) : (setBar s i b).memPois = s.memPois := rfl
@[simp] theorem setBar_memKey (s : State) (i : Nat) (b : Option Bar) : (setBar s i b).memKey = s.memKey := rfl
@[simp] theorem setBar_memScrub (s : State) (i : Nat) (b : Option Bar) : (setBar s i b).memScrub = s.memScrub := rfl
@[simp] theorem setBar_out (s : State) (i : Nat) (b : Option Bar) : (setBar s i b).out = s.out := rfl
@[simp] theorem setBar_pending (s : State) (i : Nat) (b : Option Bar) : (setBar s i b).pending = s.pending := rfl

@[simp] theorem setWatch_build (s : State) (i : Nat) (w : Option Watch) : (setWatch s i w).build = s.build := rfl
@[simp] theorem setWatch_clk (s : State) (i : Nat) (w : Option Watch) : (setWatch s i w).clk = s.clk := rfl
@[simp] theorem setWatch_free (s : State) (i : Nat) (w : Option Watch) : (setWatch s i w).free = s.free := rfl
@[simp] theorem setWatch_pages (s : State) (i : Nat) (w : Option Watch) : (setWatch s i w).pages = s.pages := rfl
@[simp] theorem setWatch_boot (s : State) (i : Nat) (w : Option Watch) : (setWatch s i w).boot = s.boot := rfl
@[simp] theorem setWatch_fuses (s : State) (i : Nat) (w : Option Watch) : (setWatch s i w).fuses = s.fuses := rfl
@[simp] theorem setWatch_bcn (s : State) (i : Nat) (w : Option Watch) : (setWatch s i w).bcn = s.bcn := rfl
@[simp] theorem setWatch_sec (s : State) (i : Nat) (w : Option Watch) : (setWatch s i w).sec = s.sec := rfl
@[simp] theorem setWatch_mbx (s : State) (i : Nat) (w : Option Watch) : (setWatch s i w).mbx = s.mbx := rfl
@[simp] theorem setWatch_cnt (s : State) (i : Nat) (w : Option Watch) : (setWatch s i w).cnt = s.cnt := rfl
@[simp] theorem setWatch_parts (s : State) (i : Nat) (w : Option Watch) : (setWatch s i w).parts = s.parts := rfl
@[simp] theorem setWatch_ras (s : State) (i : Nat) (w : Option Watch) : (setWatch s i w).ras = s.ras := rfl
@[simp] theorem setWatch_cas (s : State) (i : Nat) (w : Option Watch) : (setWatch s i w).cas = s.cas := rfl
@[simp] theorem setWatch_det (s : State) (i : Nat) (w : Option Watch) : (setWatch s i w).det = s.det := rfl
@[simp] theorem setWatch_lan (s : State) (i : Nat) (w : Option Watch) : (setWatch s i w).lan = s.lan := rfl
@[simp] theorem setWatch_eng (s : State) (i : Nat) (w : Option Watch) : (setWatch s i w).eng = s.eng := rfl
@[simp] theorem setWatch_hst (s : State) (i : Nat) (w : Option Watch) : (setWatch s i w).hst = s.hst := rfl
@[simp] theorem setWatch_hom (s : State) (i : Nat) (w : Option Watch) : (setWatch s i w).hom = s.hom := rfl
@[simp] theorem setWatch_mov (s : State) (i : Nat) (w : Option Watch) : (setWatch s i w).mov = s.mov := rfl
@[simp] theorem setWatch_xfm (s : State) (i : Nat) (w : Option Watch) : (setWatch s i w).xfm = s.xfm := rfl
@[simp] theorem setWatch_tir (s : State) (i : Nat) (w : Option Watch) : (setWatch s i w).tir = s.tir := rfl
@[simp] theorem setWatch_lmp (s : State) (i : Nat) (w : Option Watch) : (setWatch s i w).lmp = s.lmp := rfl
@[simp] theorem setWatch_spn (s : State) (i : Nat) (w : Option Watch) : (setWatch s i w).spn = s.spn := rfl
@[simp] theorem setWatch_mps (s : State) (i : Nat) (w : Option Watch) : (setWatch s i w).mps = s.mps := rfl
@[simp] theorem setWatch_mem (s : State) (i : Nat) (w : Option Watch) : (setWatch s i w).mem = s.mem := rfl
@[simp] theorem setWatch_memPois (s : State) (i : Nat) (w : Option Watch) : (setWatch s i w).memPois = s.memPois := rfl
@[simp] theorem setWatch_memKey (s : State) (i : Nat) (w : Option Watch) : (setWatch s i w).memKey = s.memKey := rfl
@[simp] theorem setWatch_memScrub (s : State) (i : Nat) (w : Option Watch) : (setWatch s i w).memScrub = s.memScrub := rfl
@[simp] theorem setWatch_out (s : State) (i : Nat) (w : Option Watch) : (setWatch s i w).out = s.out := rfl
@[simp] theorem setWatch_pending (s : State) (i : Nat) (w : Option Watch) : (setWatch s i w).pending = s.pending := rfl

@[simp] theorem setDir_build (s : State) (line : Nat) (e : DirEntry) : (setDir s line e).build = s.build := rfl
@[simp] theorem setDir_clk (s : State) (line : Nat) (e : DirEntry) : (setDir s line e).clk = s.clk := rfl
@[simp] theorem setDir_free (s : State) (line : Nat) (e : DirEntry) : (setDir s line e).free = s.free := rfl
@[simp] theorem setDir_pages (s : State) (line : Nat) (e : DirEntry) : (setDir s line e).pages = s.pages := rfl
@[simp] theorem setDir_boot (s : State) (line : Nat) (e : DirEntry) : (setDir s line e).boot = s.boot := rfl
@[simp] theorem setDir_fuses (s : State) (line : Nat) (e : DirEntry) : (setDir s line e).fuses = s.fuses := rfl
@[simp] theorem setDir_bcn (s : State) (line : Nat) (e : DirEntry) : (setDir s line e).bcn = s.bcn := rfl
@[simp] theorem setDir_sec (s : State) (line : Nat) (e : DirEntry) : (setDir s line e).sec = s.sec := rfl
@[simp] theorem setDir_mbx (s : State) (line : Nat) (e : DirEntry) : (setDir s line e).mbx = s.mbx := rfl
@[simp] theorem setDir_cnt (s : State) (line : Nat) (e : DirEntry) : (setDir s line e).cnt = s.cnt := rfl
@[simp] theorem setDir_parts (s : State) (line : Nat) (e : DirEntry) : (setDir s line e).parts = s.parts := rfl
@[simp] theorem setDir_ras (s : State) (line : Nat) (e : DirEntry) : (setDir s line e).ras = s.ras := rfl
@[simp] theorem setDir_cas (s : State) (line : Nat) (e : DirEntry) : (setDir s line e).cas = s.cas := rfl
@[simp] theorem setDir_det (s : State) (line : Nat) (e : DirEntry) : (setDir s line e).det = s.det := rfl
@[simp] theorem setDir_lan (s : State) (line : Nat) (e : DirEntry) : (setDir s line e).lan = s.lan := rfl
@[simp] theorem setDir_eng (s : State) (line : Nat) (e : DirEntry) : (setDir s line e).eng = s.eng := rfl
@[simp] theorem setDir_hst (s : State) (line : Nat) (e : DirEntry) : (setDir s line e).hst = s.hst := rfl
@[simp] theorem setDir_mov (s : State) (line : Nat) (e : DirEntry) : (setDir s line e).mov = s.mov := rfl
@[simp] theorem setDir_xfm (s : State) (line : Nat) (e : DirEntry) : (setDir s line e).xfm = s.xfm := rfl
@[simp] theorem setDir_tir (s : State) (line : Nat) (e : DirEntry) : (setDir s line e).tir = s.tir := rfl
@[simp] theorem setDir_lmp (s : State) (line : Nat) (e : DirEntry) : (setDir s line e).lmp = s.lmp := rfl
@[simp] theorem setDir_fnc (s : State) (line : Nat) (e : DirEntry) : (setDir s line e).fnc = s.fnc := rfl
@[simp] theorem setDir_spn (s : State) (line : Nat) (e : DirEntry) : (setDir s line e).spn = s.spn := rfl
@[simp] theorem setDir_mps (s : State) (line : Nat) (e : DirEntry) : (setDir s line e).mps = s.mps := rfl
@[simp] theorem setDir_mem (s : State) (line : Nat) (e : DirEntry) : (setDir s line e).mem = s.mem := rfl
@[simp] theorem setDir_memPois (s : State) (line : Nat) (e : DirEntry) : (setDir s line e).memPois = s.memPois := rfl
@[simp] theorem setDir_memKey (s : State) (line : Nat) (e : DirEntry) : (setDir s line e).memKey = s.memKey := rfl
@[simp] theorem setDir_memScrub (s : State) (line : Nat) (e : DirEntry) : (setDir s line e).memScrub = s.memScrub := rfl
@[simp] theorem setDir_out (s : State) (line : Nat) (e : DirEntry) : (setDir s line e).out = s.out := rfl
@[simp] theorem setDir_pending (s : State) (line : Nat) (e : DirEntry) : (setDir s line e).pending = s.pending := rfl

@[simp] theorem setTxn_build (s : State) (line : Nat) (t : Option Txn) : (setTxn s line t).build = s.build := rfl
@[simp] theorem setTxn_clk (s : State) (line : Nat) (t : Option Txn) : (setTxn s line t).clk = s.clk := rfl
@[simp] theorem setTxn_free (s : State) (line : Nat) (t : Option Txn) : (setTxn s line t).free = s.free := rfl
@[simp] theorem setTxn_pages (s : State) (line : Nat) (t : Option Txn) : (setTxn s line t).pages = s.pages := rfl
@[simp] theorem setTxn_boot (s : State) (line : Nat) (t : Option Txn) : (setTxn s line t).boot = s.boot := rfl
@[simp] theorem setTxn_fuses (s : State) (line : Nat) (t : Option Txn) : (setTxn s line t).fuses = s.fuses := rfl
@[simp] theorem setTxn_bcn (s : State) (line : Nat) (t : Option Txn) : (setTxn s line t).bcn = s.bcn := rfl
@[simp] theorem setTxn_sec (s : State) (line : Nat) (t : Option Txn) : (setTxn s line t).sec = s.sec := rfl
@[simp] theorem setTxn_mbx (s : State) (line : Nat) (t : Option Txn) : (setTxn s line t).mbx = s.mbx := rfl
@[simp] theorem setTxn_cnt (s : State) (line : Nat) (t : Option Txn) : (setTxn s line t).cnt = s.cnt := rfl
@[simp] theorem setTxn_parts (s : State) (line : Nat) (t : Option Txn) : (setTxn s line t).parts = s.parts := rfl
@[simp] theorem setTxn_ras (s : State) (line : Nat) (t : Option Txn) : (setTxn s line t).ras = s.ras := rfl
@[simp] theorem setTxn_cas (s : State) (line : Nat) (t : Option Txn) : (setTxn s line t).cas = s.cas := rfl
@[simp] theorem setTxn_det (s : State) (line : Nat) (t : Option Txn) : (setTxn s line t).det = s.det := rfl
@[simp] theorem setTxn_lan (s : State) (line : Nat) (t : Option Txn) : (setTxn s line t).lan = s.lan := rfl
@[simp] theorem setTxn_eng (s : State) (line : Nat) (t : Option Txn) : (setTxn s line t).eng = s.eng := rfl
@[simp] theorem setTxn_hst (s : State) (line : Nat) (t : Option Txn) : (setTxn s line t).hst = s.hst := rfl
@[simp] theorem setTxn_mov (s : State) (line : Nat) (t : Option Txn) : (setTxn s line t).mov = s.mov := rfl
@[simp] theorem setTxn_xfm (s : State) (line : Nat) (t : Option Txn) : (setTxn s line t).xfm = s.xfm := rfl
@[simp] theorem setTxn_tir (s : State) (line : Nat) (t : Option Txn) : (setTxn s line t).tir = s.tir := rfl
@[simp] theorem setTxn_lmp (s : State) (line : Nat) (t : Option Txn) : (setTxn s line t).lmp = s.lmp := rfl
@[simp] theorem setTxn_fnc (s : State) (line : Nat) (t : Option Txn) : (setTxn s line t).fnc = s.fnc := rfl
@[simp] theorem setTxn_spn (s : State) (line : Nat) (t : Option Txn) : (setTxn s line t).spn = s.spn := rfl
@[simp] theorem setTxn_mps (s : State) (line : Nat) (t : Option Txn) : (setTxn s line t).mps = s.mps := rfl
@[simp] theorem setTxn_mem (s : State) (line : Nat) (t : Option Txn) : (setTxn s line t).mem = s.mem := rfl
@[simp] theorem setTxn_memPois (s : State) (line : Nat) (t : Option Txn) : (setTxn s line t).memPois = s.memPois := rfl
@[simp] theorem setTxn_memKey (s : State) (line : Nat) (t : Option Txn) : (setTxn s line t).memKey = s.memKey := rfl
@[simp] theorem setTxn_memScrub (s : State) (line : Nat) (t : Option Txn) : (setTxn s line t).memScrub = s.memScrub := rfl
@[simp] theorem setTxn_out (s : State) (line : Nat) (t : Option Txn) : (setTxn s line t).out = s.out := rfl
@[simp] theorem setTxn_pending (s : State) (line : Nat) (t : Option Txn) : (setTxn s line t).pending = s.pending := rfl

@[simp] theorem updWin_build (s : State) (k e : Nat) (f : RedWin → RedWin) : (updWin s k e f).build = s.build := rfl
@[simp] theorem updWin_clk (s : State) (k e : Nat) (f : RedWin → RedWin) : (updWin s k e f).clk = s.clk := rfl
@[simp] theorem updWin_free (s : State) (k e : Nat) (f : RedWin → RedWin) : (updWin s k e f).free = s.free := rfl
@[simp] theorem updWin_pages (s : State) (k e : Nat) (f : RedWin → RedWin) : (updWin s k e f).pages = s.pages := rfl
@[simp] theorem updWin_boot (s : State) (k e : Nat) (f : RedWin → RedWin) : (updWin s k e f).boot = s.boot := rfl
@[simp] theorem updWin_fuses (s : State) (k e : Nat) (f : RedWin → RedWin) : (updWin s k e f).fuses = s.fuses := rfl
@[simp] theorem updWin_bcn (s : State) (k e : Nat) (f : RedWin → RedWin) : (updWin s k e f).bcn = s.bcn := rfl
@[simp] theorem updWin_sec (s : State) (k e : Nat) (f : RedWin → RedWin) : (updWin s k e f).sec = s.sec := rfl
@[simp] theorem updWin_mbx (s : State) (k e : Nat) (f : RedWin → RedWin) : (updWin s k e f).mbx = s.mbx := rfl
@[simp] theorem updWin_cnt (s : State) (k e : Nat) (f : RedWin → RedWin) : (updWin s k e f).cnt = s.cnt := rfl
@[simp] theorem updWin_parts (s : State) (k e : Nat) (f : RedWin → RedWin) : (updWin s k e f).parts = s.parts := rfl
@[simp] theorem updWin_ras (s : State) (k e : Nat) (f : RedWin → RedWin) : (updWin s k e f).ras = s.ras := rfl
@[simp] theorem updWin_cas (s : State) (k e : Nat) (f : RedWin → RedWin) : (updWin s k e f).cas = s.cas := rfl
@[simp] theorem updWin_det (s : State) (k e : Nat) (f : RedWin → RedWin) : (updWin s k e f).det = s.det := rfl
@[simp] theorem updWin_lan (s : State) (k e : Nat) (f : RedWin → RedWin) : (updWin s k e f).lan = s.lan := rfl
@[simp] theorem updWin_eng (s : State) (k e : Nat) (f : RedWin → RedWin) : (updWin s k e f).eng = s.eng := rfl
@[simp] theorem updWin_hst (s : State) (k e : Nat) (f : RedWin → RedWin) : (updWin s k e f).hst = s.hst := rfl
@[simp] theorem updWin_mov (s : State) (k e : Nat) (f : RedWin → RedWin) : (updWin s k e f).mov = s.mov := rfl
@[simp] theorem updWin_xfm (s : State) (k e : Nat) (f : RedWin → RedWin) : (updWin s k e f).xfm = s.xfm := rfl
@[simp] theorem updWin_tir (s : State) (k e : Nat) (f : RedWin → RedWin) : (updWin s k e f).tir = s.tir := rfl
@[simp] theorem updWin_lmp (s : State) (k e : Nat) (f : RedWin → RedWin) : (updWin s k e f).lmp = s.lmp := rfl
@[simp] theorem updWin_fnc (s : State) (k e : Nat) (f : RedWin → RedWin) : (updWin s k e f).fnc = s.fnc := rfl
@[simp] theorem updWin_spn (s : State) (k e : Nat) (f : RedWin → RedWin) : (updWin s k e f).spn = s.spn := rfl
@[simp] theorem updWin_mps (s : State) (k e : Nat) (f : RedWin → RedWin) : (updWin s k e f).mps = s.mps := rfl
@[simp] theorem updWin_mem (s : State) (k e : Nat) (f : RedWin → RedWin) : (updWin s k e f).mem = s.mem := rfl
@[simp] theorem updWin_memPois (s : State) (k e : Nat) (f : RedWin → RedWin) : (updWin s k e f).memPois = s.memPois := rfl
@[simp] theorem updWin_memKey (s : State) (k e : Nat) (f : RedWin → RedWin) : (updWin s k e f).memKey = s.memKey := rfl
@[simp] theorem updWin_memScrub (s : State) (k e : Nat) (f : RedWin → RedWin) : (updWin s k e f).memScrub = s.memScrub := rfl
@[simp] theorem updWin_out (s : State) (k e : Nat) (f : RedWin → RedWin) : (updWin s k e f).out = s.out := rfl
@[simp] theorem updWin_pending (s : State) (k e : Nat) (f : RedWin → RedWin) : (updWin s k e f).pending = s.pending := rfl

@[simp] theorem setRedLine_build (s : State) (r : RedLine) : (setRedLine s r).build = s.build := rfl
@[simp] theorem setRedLine_clk (s : State) (r : RedLine) : (setRedLine s r).clk = s.clk := rfl
@[simp] theorem setRedLine_free (s : State) (r : RedLine) : (setRedLine s r).free = s.free := rfl
@[simp] theorem setRedLine_pages (s : State) (r : RedLine) : (setRedLine s r).pages = s.pages := rfl
@[simp] theorem setRedLine_boot (s : State) (r : RedLine) : (setRedLine s r).boot = s.boot := rfl
@[simp] theorem setRedLine_fuses (s : State) (r : RedLine) : (setRedLine s r).fuses = s.fuses := rfl
@[simp] theorem setRedLine_bcn (s : State) (r : RedLine) : (setRedLine s r).bcn = s.bcn := rfl
@[simp] theorem setRedLine_sec (s : State) (r : RedLine) : (setRedLine s r).sec = s.sec := rfl
@[simp] theorem setRedLine_mbx (s : State) (r : RedLine) : (setRedLine s r).mbx = s.mbx := rfl
@[simp] theorem setRedLine_cnt (s : State) (r : RedLine) : (setRedLine s r).cnt = s.cnt := rfl
@[simp] theorem setRedLine_parts (s : State) (r : RedLine) : (setRedLine s r).parts = s.parts := rfl
@[simp] theorem setRedLine_ras (s : State) (r : RedLine) : (setRedLine s r).ras = s.ras := rfl
@[simp] theorem setRedLine_cas (s : State) (r : RedLine) : (setRedLine s r).cas = s.cas := rfl
@[simp] theorem setRedLine_det (s : State) (r : RedLine) : (setRedLine s r).det = s.det := rfl
@[simp] theorem setRedLine_lan (s : State) (r : RedLine) : (setRedLine s r).lan = s.lan := rfl
@[simp] theorem setRedLine_eng (s : State) (r : RedLine) : (setRedLine s r).eng = s.eng := rfl
@[simp] theorem setRedLine_hst (s : State) (r : RedLine) : (setRedLine s r).hst = s.hst := rfl
@[simp] theorem setRedLine_mov (s : State) (r : RedLine) : (setRedLine s r).mov = s.mov := rfl
@[simp] theorem setRedLine_xfm (s : State) (r : RedLine) : (setRedLine s r).xfm = s.xfm := rfl
@[simp] theorem setRedLine_tir (s : State) (r : RedLine) : (setRedLine s r).tir = s.tir := rfl
@[simp] theorem setRedLine_lmp (s : State) (r : RedLine) : (setRedLine s r).lmp = s.lmp := rfl
@[simp] theorem setRedLine_fnc (s : State) (r : RedLine) : (setRedLine s r).fnc = s.fnc := rfl
@[simp] theorem setRedLine_spn (s : State) (r : RedLine) : (setRedLine s r).spn = s.spn := rfl
@[simp] theorem setRedLine_mps (s : State) (r : RedLine) : (setRedLine s r).mps = s.mps := rfl
@[simp] theorem setRedLine_mem (s : State) (r : RedLine) : (setRedLine s r).mem = s.mem := rfl
@[simp] theorem setRedLine_memPois (s : State) (r : RedLine) : (setRedLine s r).memPois = s.memPois := rfl
@[simp] theorem setRedLine_memKey (s : State) (r : RedLine) : (setRedLine s r).memKey = s.memKey := rfl
@[simp] theorem setRedLine_memScrub (s : State) (r : RedLine) : (setRedLine s r).memScrub = s.memScrub := rfl
@[simp] theorem setRedLine_out (s : State) (r : RedLine) : (setRedLine s r).out = s.out := rfl
@[simp] theorem setRedLine_pending (s : State) (r : RedLine) : (setRedLine s r).pending = s.pending := rfl

@[simp] theorem updCtx_build (s : State) (c : Nat) (f : Ctx → Ctx) : (updCtx s c f).build = s.build := by unfold updCtx; split <;> rfl
@[simp] theorem updCtx_clk (s : State) (c : Nat) (f : Ctx → Ctx) : (updCtx s c f).clk = s.clk := by unfold updCtx; split <;> rfl
@[simp] theorem updCtx_free (s : State) (c : Nat) (f : Ctx → Ctx) : (updCtx s c f).free = s.free := by unfold updCtx; split <;> rfl
@[simp] theorem updCtx_pages (s : State) (c : Nat) (f : Ctx → Ctx) : (updCtx s c f).pages = s.pages := by unfold updCtx; split <;> rfl
@[simp] theorem updCtx_boot (s : State) (c : Nat) (f : Ctx → Ctx) : (updCtx s c f).boot = s.boot := by unfold updCtx; split <;> rfl
@[simp] theorem updCtx_fuses (s : State) (c : Nat) (f : Ctx → Ctx) : (updCtx s c f).fuses = s.fuses := by unfold updCtx; split <;> rfl
@[simp] theorem updCtx_bcn (s : State) (c : Nat) (f : Ctx → Ctx) : (updCtx s c f).bcn = s.bcn := by unfold updCtx; split <;> rfl
@[simp] theorem updCtx_sec (s : State) (c : Nat) (f : Ctx → Ctx) : (updCtx s c f).sec = s.sec := by unfold updCtx; split <;> rfl
@[simp] theorem updCtx_mbx (s : State) (c : Nat) (f : Ctx → Ctx) : (updCtx s c f).mbx = s.mbx := by unfold updCtx; split <;> rfl
@[simp] theorem updCtx_cnt (s : State) (c : Nat) (f : Ctx → Ctx) : (updCtx s c f).cnt = s.cnt := by unfold updCtx; split <;> rfl
@[simp] theorem updCtx_parts (s : State) (c : Nat) (f : Ctx → Ctx) : (updCtx s c f).parts = s.parts := by unfold updCtx; split <;> rfl
@[simp] theorem updCtx_ras (s : State) (c : Nat) (f : Ctx → Ctx) : (updCtx s c f).ras = s.ras := by unfold updCtx; split <;> rfl
@[simp] theorem updCtx_cas (s : State) (c : Nat) (f : Ctx → Ctx) : (updCtx s c f).cas = s.cas := by unfold updCtx; split <;> rfl
@[simp] theorem updCtx_det (s : State) (c : Nat) (f : Ctx → Ctx) : (updCtx s c f).det = s.det := by unfold updCtx; split <;> rfl
@[simp] theorem updCtx_lan (s : State) (c : Nat) (f : Ctx → Ctx) : (updCtx s c f).lan = s.lan := by unfold updCtx; split <;> rfl
@[simp] theorem updCtx_eng (s : State) (c : Nat) (f : Ctx → Ctx) : (updCtx s c f).eng = s.eng := by unfold updCtx; split <;> rfl
@[simp] theorem updCtx_hst (s : State) (c : Nat) (f : Ctx → Ctx) : (updCtx s c f).hst = s.hst := by unfold updCtx; split <;> rfl
@[simp] theorem updCtx_hom (s : State) (c : Nat) (f : Ctx → Ctx) : (updCtx s c f).hom = s.hom := by unfold updCtx; split <;> rfl
@[simp] theorem updCtx_mov (s : State) (c : Nat) (f : Ctx → Ctx) : (updCtx s c f).mov = s.mov := by unfold updCtx; split <;> rfl
@[simp] theorem updCtx_xfm (s : State) (c : Nat) (f : Ctx → Ctx) : (updCtx s c f).xfm = s.xfm := by unfold updCtx; split <;> rfl
@[simp] theorem updCtx_tir (s : State) (c : Nat) (f : Ctx → Ctx) : (updCtx s c f).tir = s.tir := by unfold updCtx; split <;> rfl
@[simp] theorem updCtx_fnc (s : State) (c : Nat) (f : Ctx → Ctx) : (updCtx s c f).fnc = s.fnc := by unfold updCtx; split <;> rfl
@[simp] theorem updCtx_spn (s : State) (c : Nat) (f : Ctx → Ctx) : (updCtx s c f).spn = s.spn := by unfold updCtx; split <;> rfl
@[simp] theorem updCtx_mps (s : State) (c : Nat) (f : Ctx → Ctx) : (updCtx s c f).mps = s.mps := by unfold updCtx; split <;> rfl
@[simp] theorem updCtx_mem (s : State) (c : Nat) (f : Ctx → Ctx) : (updCtx s c f).mem = s.mem := by unfold updCtx; split <;> rfl
@[simp] theorem updCtx_memPois (s : State) (c : Nat) (f : Ctx → Ctx) : (updCtx s c f).memPois = s.memPois := by unfold updCtx; split <;> rfl
@[simp] theorem updCtx_memKey (s : State) (c : Nat) (f : Ctx → Ctx) : (updCtx s c f).memKey = s.memKey := by unfold updCtx; split <;> rfl
@[simp] theorem updCtx_memScrub (s : State) (c : Nat) (f : Ctx → Ctx) : (updCtx s c f).memScrub = s.memScrub := by unfold updCtx; split <;> rfl
@[simp] theorem updCtx_out (s : State) (c : Nat) (f : Ctx → Ctx) : (updCtx s c f).out = s.out := by unfold updCtx; split <;> rfl
@[simp] theorem updCtx_pending (s : State) (c : Nat) (f : Ctx → Ctx) : (updCtx s c f).pending = s.pending := by unfold updCtx; split <;> rfl

@[simp] theorem updQ_build (s : State) (q : Nat) (f : Queue → Queue) : (updQ s q f).build = s.build := rfl
@[simp] theorem updQ_clk (s : State) (q : Nat) (f : Queue → Queue) : (updQ s q f).clk = s.clk := rfl
@[simp] theorem updQ_free (s : State) (q : Nat) (f : Queue → Queue) : (updQ s q f).free = s.free := rfl
@[simp] theorem updQ_pages (s : State) (q : Nat) (f : Queue → Queue) : (updQ s q f).pages = s.pages := rfl
@[simp] theorem updQ_boot (s : State) (q : Nat) (f : Queue → Queue) : (updQ s q f).boot = s.boot := rfl
@[simp] theorem updQ_fuses (s : State) (q : Nat) (f : Queue → Queue) : (updQ s q f).fuses = s.fuses := rfl
@[simp] theorem updQ_bcn (s : State) (q : Nat) (f : Queue → Queue) : (updQ s q f).bcn = s.bcn := rfl
@[simp] theorem updQ_sec (s : State) (q : Nat) (f : Queue → Queue) : (updQ s q f).sec = s.sec := rfl
@[simp] theorem updQ_mbx (s : State) (q : Nat) (f : Queue → Queue) : (updQ s q f).mbx = s.mbx := rfl
@[simp] theorem updQ_cnt (s : State) (q : Nat) (f : Queue → Queue) : (updQ s q f).cnt = s.cnt := rfl
@[simp] theorem updQ_parts (s : State) (q : Nat) (f : Queue → Queue) : (updQ s q f).parts = s.parts := rfl
@[simp] theorem updQ_ras (s : State) (q : Nat) (f : Queue → Queue) : (updQ s q f).ras = s.ras := rfl
@[simp] theorem updQ_cas (s : State) (q : Nat) (f : Queue → Queue) : (updQ s q f).cas = s.cas := rfl
@[simp] theorem updQ_det (s : State) (q : Nat) (f : Queue → Queue) : (updQ s q f).det = s.det := rfl
@[simp] theorem updQ_lan (s : State) (q : Nat) (f : Queue → Queue) : (updQ s q f).lan = s.lan := rfl
@[simp] theorem updQ_eng (s : State) (q : Nat) (f : Queue → Queue) : (updQ s q f).eng = s.eng := rfl
@[simp] theorem updQ_hst (s : State) (q : Nat) (f : Queue → Queue) : (updQ s q f).hst = s.hst := rfl
@[simp] theorem updQ_hom (s : State) (q : Nat) (f : Queue → Queue) : (updQ s q f).hom = s.hom := rfl
@[simp] theorem updQ_mov (s : State) (q : Nat) (f : Queue → Queue) : (updQ s q f).mov = s.mov := rfl
@[simp] theorem updQ_xfm (s : State) (q : Nat) (f : Queue → Queue) : (updQ s q f).xfm = s.xfm := rfl
@[simp] theorem updQ_tir (s : State) (q : Nat) (f : Queue → Queue) : (updQ s q f).tir = s.tir := rfl
@[simp] theorem updQ_fnc (s : State) (q : Nat) (f : Queue → Queue) : (updQ s q f).fnc = s.fnc := rfl
@[simp] theorem updQ_spn (s : State) (q : Nat) (f : Queue → Queue) : (updQ s q f).spn = s.spn := rfl
@[simp] theorem updQ_mps (s : State) (q : Nat) (f : Queue → Queue) : (updQ s q f).mps = s.mps := rfl
@[simp] theorem updQ_mem (s : State) (q : Nat) (f : Queue → Queue) : (updQ s q f).mem = s.mem := rfl
@[simp] theorem updQ_memPois (s : State) (q : Nat) (f : Queue → Queue) : (updQ s q f).memPois = s.memPois := rfl
@[simp] theorem updQ_memKey (s : State) (q : Nat) (f : Queue → Queue) : (updQ s q f).memKey = s.memKey := rfl
@[simp] theorem updQ_memScrub (s : State) (q : Nat) (f : Queue → Queue) : (updQ s q f).memScrub = s.memScrub := rfl
@[simp] theorem updQ_out (s : State) (q : Nat) (f : Queue → Queue) : (updQ s q f).out = s.out := rfl
@[simp] theorem updQ_pending (s : State) (q : Nat) (f : Queue → Queue) : (updQ s q f).pending = s.pending := rfl

@[simp] theorem updCmd_build (s : State) (q seq : Nat) (f : Cmd → Cmd) : (updCmd s q seq f).build = s.build := rfl
@[simp] theorem updCmd_clk (s : State) (q seq : Nat) (f : Cmd → Cmd) : (updCmd s q seq f).clk = s.clk := rfl
@[simp] theorem updCmd_free (s : State) (q seq : Nat) (f : Cmd → Cmd) : (updCmd s q seq f).free = s.free := rfl
@[simp] theorem updCmd_pages (s : State) (q seq : Nat) (f : Cmd → Cmd) : (updCmd s q seq f).pages = s.pages := rfl
@[simp] theorem updCmd_boot (s : State) (q seq : Nat) (f : Cmd → Cmd) : (updCmd s q seq f).boot = s.boot := rfl
@[simp] theorem updCmd_fuses (s : State) (q seq : Nat) (f : Cmd → Cmd) : (updCmd s q seq f).fuses = s.fuses := rfl
@[simp] theorem updCmd_bcn (s : State) (q seq : Nat) (f : Cmd → Cmd) : (updCmd s q seq f).bcn = s.bcn := rfl
@[simp] theorem updCmd_sec (s : State) (q seq : Nat) (f : Cmd → Cmd) : (updCmd s q seq f).sec = s.sec := rfl
@[simp] theorem updCmd_mbx (s : State) (q seq : Nat) (f : Cmd → Cmd) : (updCmd s q seq f).mbx = s.mbx := rfl
@[simp] theorem updCmd_cnt (s : State) (q seq : Nat) (f : Cmd → Cmd) : (updCmd s q seq f).cnt = s.cnt := rfl
@[simp] theorem updCmd_parts (s : State) (q seq : Nat) (f : Cmd → Cmd) : (updCmd s q seq f).parts = s.parts := rfl
@[simp] theorem updCmd_ras (s : State) (q seq : Nat) (f : Cmd → Cmd) : (updCmd s q seq f).ras = s.ras := rfl
@[simp] theorem updCmd_cas (s : State) (q seq : Nat) (f : Cmd → Cmd) : (updCmd s q seq f).cas = s.cas := rfl
@[simp] theorem updCmd_det (s : State) (q seq : Nat) (f : Cmd → Cmd) : (updCmd s q seq f).det = s.det := rfl
@[simp] theorem updCmd_lan (s : State) (q seq : Nat) (f : Cmd → Cmd) : (updCmd s q seq f).lan = s.lan := rfl
@[simp] theorem updCmd_eng (s : State) (q seq : Nat) (f : Cmd → Cmd) : (updCmd s q seq f).eng = s.eng := rfl
@[simp] theorem updCmd_hst (s : State) (q seq : Nat) (f : Cmd → Cmd) : (updCmd s q seq f).hst = s.hst := rfl
@[simp] theorem updCmd_hom (s : State) (q seq : Nat) (f : Cmd → Cmd) : (updCmd s q seq f).hom = s.hom := rfl
@[simp] theorem updCmd_mov (s : State) (q seq : Nat) (f : Cmd → Cmd) : (updCmd s q seq f).mov = s.mov := rfl
@[simp] theorem updCmd_xfm (s : State) (q seq : Nat) (f : Cmd → Cmd) : (updCmd s q seq f).xfm = s.xfm := rfl
@[simp] theorem updCmd_tir (s : State) (q seq : Nat) (f : Cmd → Cmd) : (updCmd s q seq f).tir = s.tir := rfl
@[simp] theorem updCmd_fnc (s : State) (q seq : Nat) (f : Cmd → Cmd) : (updCmd s q seq f).fnc = s.fnc := rfl
@[simp] theorem updCmd_spn (s : State) (q seq : Nat) (f : Cmd → Cmd) : (updCmd s q seq f).spn = s.spn := rfl
@[simp] theorem updCmd_mps (s : State) (q seq : Nat) (f : Cmd → Cmd) : (updCmd s q seq f).mps = s.mps := rfl
@[simp] theorem updCmd_mem (s : State) (q seq : Nat) (f : Cmd → Cmd) : (updCmd s q seq f).mem = s.mem := rfl
@[simp] theorem updCmd_memPois (s : State) (q seq : Nat) (f : Cmd → Cmd) : (updCmd s q seq f).memPois = s.memPois := rfl
@[simp] theorem updCmd_memKey (s : State) (q seq : Nat) (f : Cmd → Cmd) : (updCmd s q seq f).memKey = s.memKey := rfl
@[simp] theorem updCmd_memScrub (s : State) (q seq : Nat) (f : Cmd → Cmd) : (updCmd s q seq f).memScrub = s.memScrub := rfl
@[simp] theorem updCmd_out (s : State) (q seq : Nat) (f : Cmd → Cmd) : (updCmd s q seq f).out = s.out := rfl
@[simp] theorem updCmd_pending (s : State) (q seq : Nat) (f : Cmd → Cmd) : (updCmd s q seq f).pending = s.pending := rfl

@[simp] theorem updTierMove_build (s : State) (i : Nat) (f : TierMove → TierMove) : (updTierMove s i f).build = s.build := rfl
@[simp] theorem updTierMove_clk (s : State) (i : Nat) (f : TierMove → TierMove) : (updTierMove s i f).clk = s.clk := rfl
@[simp] theorem updTierMove_free (s : State) (i : Nat) (f : TierMove → TierMove) : (updTierMove s i f).free = s.free := rfl
@[simp] theorem updTierMove_pages (s : State) (i : Nat) (f : TierMove → TierMove) : (updTierMove s i f).pages = s.pages := rfl
@[simp] theorem updTierMove_boot (s : State) (i : Nat) (f : TierMove → TierMove) : (updTierMove s i f).boot = s.boot := rfl
@[simp] theorem updTierMove_fuses (s : State) (i : Nat) (f : TierMove → TierMove) : (updTierMove s i f).fuses = s.fuses := rfl
@[simp] theorem updTierMove_bcn (s : State) (i : Nat) (f : TierMove → TierMove) : (updTierMove s i f).bcn = s.bcn := rfl
@[simp] theorem updTierMove_sec (s : State) (i : Nat) (f : TierMove → TierMove) : (updTierMove s i f).sec = s.sec := rfl
@[simp] theorem updTierMove_mbx (s : State) (i : Nat) (f : TierMove → TierMove) : (updTierMove s i f).mbx = s.mbx := rfl
@[simp] theorem updTierMove_cnt (s : State) (i : Nat) (f : TierMove → TierMove) : (updTierMove s i f).cnt = s.cnt := rfl
@[simp] theorem updTierMove_parts (s : State) (i : Nat) (f : TierMove → TierMove) : (updTierMove s i f).parts = s.parts := rfl
@[simp] theorem updTierMove_ras (s : State) (i : Nat) (f : TierMove → TierMove) : (updTierMove s i f).ras = s.ras := rfl
@[simp] theorem updTierMove_cas (s : State) (i : Nat) (f : TierMove → TierMove) : (updTierMove s i f).cas = s.cas := rfl
@[simp] theorem updTierMove_det (s : State) (i : Nat) (f : TierMove → TierMove) : (updTierMove s i f).det = s.det := rfl
@[simp] theorem updTierMove_lan (s : State) (i : Nat) (f : TierMove → TierMove) : (updTierMove s i f).lan = s.lan := rfl
@[simp] theorem updTierMove_eng (s : State) (i : Nat) (f : TierMove → TierMove) : (updTierMove s i f).eng = s.eng := rfl
@[simp] theorem updTierMove_hst (s : State) (i : Nat) (f : TierMove → TierMove) : (updTierMove s i f).hst = s.hst := rfl
@[simp] theorem updTierMove_hom (s : State) (i : Nat) (f : TierMove → TierMove) : (updTierMove s i f).hom = s.hom := rfl
@[simp] theorem updTierMove_mov (s : State) (i : Nat) (f : TierMove → TierMove) : (updTierMove s i f).mov = s.mov := rfl
@[simp] theorem updTierMove_xfm (s : State) (i : Nat) (f : TierMove → TierMove) : (updTierMove s i f).xfm = s.xfm := rfl
@[simp] theorem updTierMove_lmp (s : State) (i : Nat) (f : TierMove → TierMove) : (updTierMove s i f).lmp = s.lmp := rfl
@[simp] theorem updTierMove_fnc (s : State) (i : Nat) (f : TierMove → TierMove) : (updTierMove s i f).fnc = s.fnc := rfl
@[simp] theorem updTierMove_spn (s : State) (i : Nat) (f : TierMove → TierMove) : (updTierMove s i f).spn = s.spn := rfl
@[simp] theorem updTierMove_mps (s : State) (i : Nat) (f : TierMove → TierMove) : (updTierMove s i f).mps = s.mps := rfl
@[simp] theorem updTierMove_mem (s : State) (i : Nat) (f : TierMove → TierMove) : (updTierMove s i f).mem = s.mem := rfl
@[simp] theorem updTierMove_memPois (s : State) (i : Nat) (f : TierMove → TierMove) : (updTierMove s i f).memPois = s.memPois := rfl
@[simp] theorem updTierMove_memKey (s : State) (i : Nat) (f : TierMove → TierMove) : (updTierMove s i f).memKey = s.memKey := rfl
@[simp] theorem updTierMove_memScrub (s : State) (i : Nat) (f : TierMove → TierMove) : (updTierMove s i f).memScrub = s.memScrub := rfl
@[simp] theorem updTierMove_out (s : State) (i : Nat) (f : TierMove → TierMove) : (updTierMove s i f).out = s.out := rfl
@[simp] theorem updTierMove_pending (s : State) (i : Nat) (f : TierMove → TierMove) : (updTierMove s i f).pending = s.pending := rfl

@[simp] theorem updTierCmd_build (s : State) (q seq : Nat) (f : TierCmd → TierCmd) : (updTierCmd s q seq f).build = s.build := rfl
@[simp] theorem updTierCmd_clk (s : State) (q seq : Nat) (f : TierCmd → TierCmd) : (updTierCmd s q seq f).clk = s.clk := rfl
@[simp] theorem updTierCmd_free (s : State) (q seq : Nat) (f : TierCmd → TierCmd) : (updTierCmd s q seq f).free = s.free := rfl
@[simp] theorem updTierCmd_pages (s : State) (q seq : Nat) (f : TierCmd → TierCmd) : (updTierCmd s q seq f).pages = s.pages := rfl
@[simp] theorem updTierCmd_boot (s : State) (q seq : Nat) (f : TierCmd → TierCmd) : (updTierCmd s q seq f).boot = s.boot := rfl
@[simp] theorem updTierCmd_fuses (s : State) (q seq : Nat) (f : TierCmd → TierCmd) : (updTierCmd s q seq f).fuses = s.fuses := rfl
@[simp] theorem updTierCmd_bcn (s : State) (q seq : Nat) (f : TierCmd → TierCmd) : (updTierCmd s q seq f).bcn = s.bcn := rfl
@[simp] theorem updTierCmd_sec (s : State) (q seq : Nat) (f : TierCmd → TierCmd) : (updTierCmd s q seq f).sec = s.sec := rfl
@[simp] theorem updTierCmd_mbx (s : State) (q seq : Nat) (f : TierCmd → TierCmd) : (updTierCmd s q seq f).mbx = s.mbx := rfl
@[simp] theorem updTierCmd_cnt (s : State) (q seq : Nat) (f : TierCmd → TierCmd) : (updTierCmd s q seq f).cnt = s.cnt := rfl
@[simp] theorem updTierCmd_parts (s : State) (q seq : Nat) (f : TierCmd → TierCmd) : (updTierCmd s q seq f).parts = s.parts := rfl
@[simp] theorem updTierCmd_ras (s : State) (q seq : Nat) (f : TierCmd → TierCmd) : (updTierCmd s q seq f).ras = s.ras := rfl
@[simp] theorem updTierCmd_cas (s : State) (q seq : Nat) (f : TierCmd → TierCmd) : (updTierCmd s q seq f).cas = s.cas := rfl
@[simp] theorem updTierCmd_det (s : State) (q seq : Nat) (f : TierCmd → TierCmd) : (updTierCmd s q seq f).det = s.det := rfl
@[simp] theorem updTierCmd_lan (s : State) (q seq : Nat) (f : TierCmd → TierCmd) : (updTierCmd s q seq f).lan = s.lan := rfl
@[simp] theorem updTierCmd_eng (s : State) (q seq : Nat) (f : TierCmd → TierCmd) : (updTierCmd s q seq f).eng = s.eng := rfl
@[simp] theorem updTierCmd_hst (s : State) (q seq : Nat) (f : TierCmd → TierCmd) : (updTierCmd s q seq f).hst = s.hst := rfl
@[simp] theorem updTierCmd_hom (s : State) (q seq : Nat) (f : TierCmd → TierCmd) : (updTierCmd s q seq f).hom = s.hom := rfl
@[simp] theorem updTierCmd_mov (s : State) (q seq : Nat) (f : TierCmd → TierCmd) : (updTierCmd s q seq f).mov = s.mov := rfl
@[simp] theorem updTierCmd_xfm (s : State) (q seq : Nat) (f : TierCmd → TierCmd) : (updTierCmd s q seq f).xfm = s.xfm := rfl
@[simp] theorem updTierCmd_lmp (s : State) (q seq : Nat) (f : TierCmd → TierCmd) : (updTierCmd s q seq f).lmp = s.lmp := rfl
@[simp] theorem updTierCmd_fnc (s : State) (q seq : Nat) (f : TierCmd → TierCmd) : (updTierCmd s q seq f).fnc = s.fnc := rfl
@[simp] theorem updTierCmd_spn (s : State) (q seq : Nat) (f : TierCmd → TierCmd) : (updTierCmd s q seq f).spn = s.spn := rfl
@[simp] theorem updTierCmd_mps (s : State) (q seq : Nat) (f : TierCmd → TierCmd) : (updTierCmd s q seq f).mps = s.mps := rfl
@[simp] theorem updTierCmd_mem (s : State) (q seq : Nat) (f : TierCmd → TierCmd) : (updTierCmd s q seq f).mem = s.mem := rfl
@[simp] theorem updTierCmd_memPois (s : State) (q seq : Nat) (f : TierCmd → TierCmd) : (updTierCmd s q seq f).memPois = s.memPois := rfl
@[simp] theorem updTierCmd_memKey (s : State) (q seq : Nat) (f : TierCmd → TierCmd) : (updTierCmd s q seq f).memKey = s.memKey := rfl
@[simp] theorem updTierCmd_memScrub (s : State) (q seq : Nat) (f : TierCmd → TierCmd) : (updTierCmd s q seq f).memScrub = s.memScrub := rfl
@[simp] theorem updTierCmd_out (s : State) (q seq : Nat) (f : TierCmd → TierCmd) : (updTierCmd s q seq f).out = s.out := rfl
@[simp] theorem updTierCmd_pending (s : State) (q seq : Nat) (f : TierCmd → TierCmd) : (updTierCmd s q seq f).pending = s.pending := rfl

@[simp] theorem setMemByte_build (s : State) (a : Nat) (b : Byte) : (setMemByte s a b).build = s.build := rfl
@[simp] theorem setMemByte_clk (s : State) (a : Nat) (b : Byte) : (setMemByte s a b).clk = s.clk := rfl
@[simp] theorem setMemByte_free (s : State) (a : Nat) (b : Byte) : (setMemByte s a b).free = s.free := rfl
@[simp] theorem setMemByte_pages (s : State) (a : Nat) (b : Byte) : (setMemByte s a b).pages = s.pages := rfl
@[simp] theorem setMemByte_boot (s : State) (a : Nat) (b : Byte) : (setMemByte s a b).boot = s.boot := rfl
@[simp] theorem setMemByte_fuses (s : State) (a : Nat) (b : Byte) : (setMemByte s a b).fuses = s.fuses := rfl
@[simp] theorem setMemByte_bcn (s : State) (a : Nat) (b : Byte) : (setMemByte s a b).bcn = s.bcn := rfl
@[simp] theorem setMemByte_sec (s : State) (a : Nat) (b : Byte) : (setMemByte s a b).sec = s.sec := rfl
@[simp] theorem setMemByte_mbx (s : State) (a : Nat) (b : Byte) : (setMemByte s a b).mbx = s.mbx := rfl
@[simp] theorem setMemByte_cnt (s : State) (a : Nat) (b : Byte) : (setMemByte s a b).cnt = s.cnt := rfl
@[simp] theorem setMemByte_parts (s : State) (a : Nat) (b : Byte) : (setMemByte s a b).parts = s.parts := rfl
@[simp] theorem setMemByte_ras (s : State) (a : Nat) (b : Byte) : (setMemByte s a b).ras = s.ras := rfl
@[simp] theorem setMemByte_cas (s : State) (a : Nat) (b : Byte) : (setMemByte s a b).cas = s.cas := rfl
@[simp] theorem setMemByte_det (s : State) (a : Nat) (b : Byte) : (setMemByte s a b).det = s.det := rfl
@[simp] theorem setMemByte_lan (s : State) (a : Nat) (b : Byte) : (setMemByte s a b).lan = s.lan := rfl
@[simp] theorem setMemByte_eng (s : State) (a : Nat) (b : Byte) : (setMemByte s a b).eng = s.eng := rfl
@[simp] theorem setMemByte_hst (s : State) (a : Nat) (b : Byte) : (setMemByte s a b).hst = s.hst := rfl
@[simp] theorem setMemByte_hom (s : State) (a : Nat) (b : Byte) : (setMemByte s a b).hom = s.hom := rfl
@[simp] theorem setMemByte_mov (s : State) (a : Nat) (b : Byte) : (setMemByte s a b).mov = s.mov := rfl
@[simp] theorem setMemByte_xfm (s : State) (a : Nat) (b : Byte) : (setMemByte s a b).xfm = s.xfm := rfl
@[simp] theorem setMemByte_tir (s : State) (a : Nat) (b : Byte) : (setMemByte s a b).tir = s.tir := rfl
@[simp] theorem setMemByte_lmp (s : State) (a : Nat) (b : Byte) : (setMemByte s a b).lmp = s.lmp := rfl
@[simp] theorem setMemByte_fnc (s : State) (a : Nat) (b : Byte) : (setMemByte s a b).fnc = s.fnc := rfl
@[simp] theorem setMemByte_spn (s : State) (a : Nat) (b : Byte) : (setMemByte s a b).spn = s.spn := rfl
@[simp] theorem setMemByte_mps (s : State) (a : Nat) (b : Byte) : (setMemByte s a b).mps = s.mps := rfl
@[simp] theorem setMemByte_memPois (s : State) (a : Nat) (b : Byte) : (setMemByte s a b).memPois = s.memPois := rfl
@[simp] theorem setMemByte_memKey (s : State) (a : Nat) (b : Byte) : (setMemByte s a b).memKey = s.memKey := rfl
@[simp] theorem setMemByte_memScrub (s : State) (a : Nat) (b : Byte) : (setMemByte s a b).memScrub = s.memScrub := rfl
@[simp] theorem setMemByte_out (s : State) (a : Nat) (b : Byte) : (setMemByte s a b).out = s.out := rfl
@[simp] theorem setMemByte_pending (s : State) (a : Nat) (b : Byte) : (setMemByte s a b).pending = s.pending := rfl

@[simp] theorem setLast_build (s : State) (p : Nat) (st : Status) : (setLast s p st).build = s.build := rfl
@[simp] theorem setLast_clk (s : State) (p : Nat) (st : Status) : (setLast s p st).clk = s.clk := rfl
@[simp] theorem setLast_free (s : State) (p : Nat) (st : Status) : (setLast s p st).free = s.free := rfl
@[simp] theorem setLast_boot (s : State) (p : Nat) (st : Status) : (setLast s p st).boot = s.boot := rfl
@[simp] theorem setLast_fuses (s : State) (p : Nat) (st : Status) : (setLast s p st).fuses = s.fuses := rfl
@[simp] theorem setLast_bcn (s : State) (p : Nat) (st : Status) : (setLast s p st).bcn = s.bcn := rfl
@[simp] theorem setLast_sec (s : State) (p : Nat) (st : Status) : (setLast s p st).sec = s.sec := rfl
@[simp] theorem setLast_mbx (s : State) (p : Nat) (st : Status) : (setLast s p st).mbx = s.mbx := rfl
@[simp] theorem setLast_cnt (s : State) (p : Nat) (st : Status) : (setLast s p st).cnt = s.cnt := rfl
@[simp] theorem setLast_parts (s : State) (p : Nat) (st : Status) : (setLast s p st).parts = s.parts := rfl
@[simp] theorem setLast_ras (s : State) (p : Nat) (st : Status) : (setLast s p st).ras = s.ras := rfl
@[simp] theorem setLast_cas (s : State) (p : Nat) (st : Status) : (setLast s p st).cas = s.cas := rfl
@[simp] theorem setLast_det (s : State) (p : Nat) (st : Status) : (setLast s p st).det = s.det := rfl
@[simp] theorem setLast_lan (s : State) (p : Nat) (st : Status) : (setLast s p st).lan = s.lan := rfl
@[simp] theorem setLast_eng (s : State) (p : Nat) (st : Status) : (setLast s p st).eng = s.eng := rfl
@[simp] theorem setLast_hst (s : State) (p : Nat) (st : Status) : (setLast s p st).hst = s.hst := rfl
@[simp] theorem setLast_hom (s : State) (p : Nat) (st : Status) : (setLast s p st).hom = s.hom := rfl
@[simp] theorem setLast_mov (s : State) (p : Nat) (st : Status) : (setLast s p st).mov = s.mov := rfl
@[simp] theorem setLast_xfm (s : State) (p : Nat) (st : Status) : (setLast s p st).xfm = s.xfm := rfl
@[simp] theorem setLast_tir (s : State) (p : Nat) (st : Status) : (setLast s p st).tir = s.tir := rfl
@[simp] theorem setLast_lmp (s : State) (p : Nat) (st : Status) : (setLast s p st).lmp = s.lmp := rfl
@[simp] theorem setLast_fnc (s : State) (p : Nat) (st : Status) : (setLast s p st).fnc = s.fnc := rfl
@[simp] theorem setLast_spn (s : State) (p : Nat) (st : Status) : (setLast s p st).spn = s.spn := rfl
@[simp] theorem setLast_mps (s : State) (p : Nat) (st : Status) : (setLast s p st).mps = s.mps := rfl
@[simp] theorem setLast_mem (s : State) (p : Nat) (st : Status) : (setLast s p st).mem = s.mem := rfl
@[simp] theorem setLast_memPois (s : State) (p : Nat) (st : Status) : (setLast s p st).memPois = s.memPois := rfl
@[simp] theorem setLast_memKey (s : State) (p : Nat) (st : Status) : (setLast s p st).memKey = s.memKey := rfl
@[simp] theorem setLast_memScrub (s : State) (p : Nat) (st : Status) : (setLast s p st).memScrub = s.memScrub := rfl
@[simp] theorem setLast_out (s : State) (p : Nat) (st : Status) : (setLast s p st).out = s.out := rfl
@[simp] theorem setLast_pending (s : State) (p : Nat) (st : Status) : (setLast s p st).pending = s.pending := rfl

@[simp] theorem emits_build (s : State) (ms : List OutMsg) : (emits s ms).build = s.build := rfl
@[simp] theorem emits_clk (s : State) (ms : List OutMsg) : (emits s ms).clk = s.clk := rfl
@[simp] theorem emits_free (s : State) (ms : List OutMsg) : (emits s ms).free = s.free := rfl
@[simp] theorem emits_pages (s : State) (ms : List OutMsg) : (emits s ms).pages = s.pages := rfl
@[simp] theorem emits_boot (s : State) (ms : List OutMsg) : (emits s ms).boot = s.boot := rfl
@[simp] theorem emits_fuses (s : State) (ms : List OutMsg) : (emits s ms).fuses = s.fuses := rfl
@[simp] theorem emits_bcn (s : State) (ms : List OutMsg) : (emits s ms).bcn = s.bcn := rfl
@[simp] theorem emits_sec (s : State) (ms : List OutMsg) : (emits s ms).sec = s.sec := rfl
@[simp] theorem emits_mbx (s : State) (ms : List OutMsg) : (emits s ms).mbx = s.mbx := rfl
@[simp] theorem emits_cnt (s : State) (ms : List OutMsg) : (emits s ms).cnt = s.cnt := rfl
@[simp] theorem emits_parts (s : State) (ms : List OutMsg) : (emits s ms).parts = s.parts := rfl
@[simp] theorem emits_ras (s : State) (ms : List OutMsg) : (emits s ms).ras = s.ras := rfl
@[simp] theorem emits_cas (s : State) (ms : List OutMsg) : (emits s ms).cas = s.cas := rfl
@[simp] theorem emits_det (s : State) (ms : List OutMsg) : (emits s ms).det = s.det := rfl
@[simp] theorem emits_lan (s : State) (ms : List OutMsg) : (emits s ms).lan = s.lan := rfl
@[simp] theorem emits_eng (s : State) (ms : List OutMsg) : (emits s ms).eng = s.eng := rfl
@[simp] theorem emits_hst (s : State) (ms : List OutMsg) : (emits s ms).hst = s.hst := rfl
@[simp] theorem emits_hom (s : State) (ms : List OutMsg) : (emits s ms).hom = s.hom := rfl
@[simp] theorem emits_mov (s : State) (ms : List OutMsg) : (emits s ms).mov = s.mov := rfl
@[simp] theorem emits_xfm (s : State) (ms : List OutMsg) : (emits s ms).xfm = s.xfm := rfl
@[simp] theorem emits_tir (s : State) (ms : List OutMsg) : (emits s ms).tir = s.tir := rfl
@[simp] theorem emits_lmp (s : State) (ms : List OutMsg) : (emits s ms).lmp = s.lmp := rfl
@[simp] theorem emits_fnc (s : State) (ms : List OutMsg) : (emits s ms).fnc = s.fnc := rfl
@[simp] theorem emits_spn (s : State) (ms : List OutMsg) : (emits s ms).spn = s.spn := rfl
@[simp] theorem emits_mps (s : State) (ms : List OutMsg) : (emits s ms).mps = s.mps := rfl
@[simp] theorem emits_mem (s : State) (ms : List OutMsg) : (emits s ms).mem = s.mem := rfl
@[simp] theorem emits_memPois (s : State) (ms : List OutMsg) : (emits s ms).memPois = s.memPois := rfl
@[simp] theorem emits_memKey (s : State) (ms : List OutMsg) : (emits s ms).memKey = s.memKey := rfl
@[simp] theorem emits_memScrub (s : State) (ms : List OutMsg) : (emits s ms).memScrub = s.memScrub := rfl
@[simp] theorem emits_pending (s : State) (ms : List OutMsg) : (emits s ms).pending = s.pending := rfl

@[simp] theorem advanceTo_build (s : State) (c : Nat) : (advanceTo s c).build = s.build := rfl
@[simp] theorem advanceTo_free (s : State) (c : Nat) : (advanceTo s c).free = s.free := rfl
@[simp] theorem advanceTo_pages (s : State) (c : Nat) : (advanceTo s c).pages = s.pages := rfl
@[simp] theorem advanceTo_boot (s : State) (c : Nat) : (advanceTo s c).boot = s.boot := rfl
@[simp] theorem advanceTo_fuses (s : State) (c : Nat) : (advanceTo s c).fuses = s.fuses := rfl
@[simp] theorem advanceTo_bcn (s : State) (c : Nat) : (advanceTo s c).bcn = s.bcn := rfl
@[simp] theorem advanceTo_sec (s : State) (c : Nat) : (advanceTo s c).sec = s.sec := rfl
@[simp] theorem advanceTo_mbx (s : State) (c : Nat) : (advanceTo s c).mbx = s.mbx := rfl
@[simp] theorem advanceTo_cnt (s : State) (c : Nat) : (advanceTo s c).cnt = s.cnt := rfl
@[simp] theorem advanceTo_parts (s : State) (c : Nat) : (advanceTo s c).parts = s.parts := rfl
@[simp] theorem advanceTo_ras (s : State) (c : Nat) : (advanceTo s c).ras = s.ras := rfl
@[simp] theorem advanceTo_cas (s : State) (c : Nat) : (advanceTo s c).cas = s.cas := rfl
@[simp] theorem advanceTo_det (s : State) (c : Nat) : (advanceTo s c).det = s.det := rfl
@[simp] theorem advanceTo_lan (s : State) (c : Nat) : (advanceTo s c).lan = s.lan := rfl
@[simp] theorem advanceTo_eng (s : State) (c : Nat) : (advanceTo s c).eng = s.eng := rfl
@[simp] theorem advanceTo_hst (s : State) (c : Nat) : (advanceTo s c).hst = s.hst := rfl
@[simp] theorem advanceTo_hom (s : State) (c : Nat) : (advanceTo s c).hom = s.hom := rfl
@[simp] theorem advanceTo_mov (s : State) (c : Nat) : (advanceTo s c).mov = s.mov := rfl
@[simp] theorem advanceTo_xfm (s : State) (c : Nat) : (advanceTo s c).xfm = s.xfm := rfl
@[simp] theorem advanceTo_tir (s : State) (c : Nat) : (advanceTo s c).tir = s.tir := rfl
@[simp] theorem advanceTo_lmp (s : State) (c : Nat) : (advanceTo s c).lmp = s.lmp := rfl
@[simp] theorem advanceTo_fnc (s : State) (c : Nat) : (advanceTo s c).fnc = s.fnc := rfl
@[simp] theorem advanceTo_spn (s : State) (c : Nat) : (advanceTo s c).spn = s.spn := rfl
@[simp] theorem advanceTo_mps (s : State) (c : Nat) : (advanceTo s c).mps = s.mps := rfl
@[simp] theorem advanceTo_mem (s : State) (c : Nat) : (advanceTo s c).mem = s.mem := rfl
@[simp] theorem advanceTo_memPois (s : State) (c : Nat) : (advanceTo s c).memPois = s.memPois := rfl
@[simp] theorem advanceTo_memKey (s : State) (c : Nat) : (advanceTo s c).memKey = s.memKey := rfl
@[simp] theorem advanceTo_memScrub (s : State) (c : Nat) : (advanceTo s c).memScrub = s.memScrub := rfl
@[simp] theorem advanceTo_out (s : State) (c : Nat) : (advanceTo s c).out = s.out := rfl
@[simp] theorem advanceTo_pending (s : State) (c : Nat) : (advanceTo s c).pending = s.pending := rfl

@[simp] theorem count_build (s : State) (page ev : Nat) (part : Nat) (inst : Nat) (n : Nat) : (count s page ev part inst n).build = s.build := rfl
@[simp] theorem count_clk (s : State) (page ev : Nat) (part : Nat) (inst : Nat) (n : Nat) : (count s page ev part inst n).clk = s.clk := rfl
@[simp] theorem count_free (s : State) (page ev : Nat) (part : Nat) (inst : Nat) (n : Nat) : (count s page ev part inst n).free = s.free := rfl
@[simp] theorem count_pages (s : State) (page ev : Nat) (part : Nat) (inst : Nat) (n : Nat) : (count s page ev part inst n).pages = s.pages := rfl
@[simp] theorem count_boot (s : State) (page ev : Nat) (part : Nat) (inst : Nat) (n : Nat) : (count s page ev part inst n).boot = s.boot := rfl
@[simp] theorem count_fuses (s : State) (page ev : Nat) (part : Nat) (inst : Nat) (n : Nat) : (count s page ev part inst n).fuses = s.fuses := rfl
@[simp] theorem count_bcn (s : State) (page ev : Nat) (part : Nat) (inst : Nat) (n : Nat) : (count s page ev part inst n).bcn = s.bcn := rfl
@[simp] theorem count_sec (s : State) (page ev : Nat) (part : Nat) (inst : Nat) (n : Nat) : (count s page ev part inst n).sec = s.sec := rfl
@[simp] theorem count_mbx (s : State) (page ev : Nat) (part : Nat) (inst : Nat) (n : Nat) : (count s page ev part inst n).mbx = s.mbx := rfl
@[simp] theorem count_parts (s : State) (page ev : Nat) (part : Nat) (inst : Nat) (n : Nat) : (count s page ev part inst n).parts = s.parts := rfl
@[simp] theorem count_ras (s : State) (page ev : Nat) (part : Nat) (inst : Nat) (n : Nat) : (count s page ev part inst n).ras = s.ras := rfl
@[simp] theorem count_cas (s : State) (page ev : Nat) (part : Nat) (inst : Nat) (n : Nat) : (count s page ev part inst n).cas = s.cas := rfl
@[simp] theorem count_det (s : State) (page ev : Nat) (part : Nat) (inst : Nat) (n : Nat) : (count s page ev part inst n).det = s.det := rfl
@[simp] theorem count_lan (s : State) (page ev : Nat) (part : Nat) (inst : Nat) (n : Nat) : (count s page ev part inst n).lan = s.lan := rfl
@[simp] theorem count_eng (s : State) (page ev : Nat) (part : Nat) (inst : Nat) (n : Nat) : (count s page ev part inst n).eng = s.eng := rfl
@[simp] theorem count_hst (s : State) (page ev : Nat) (part : Nat) (inst : Nat) (n : Nat) : (count s page ev part inst n).hst = s.hst := rfl
@[simp] theorem count_hom (s : State) (page ev : Nat) (part : Nat) (inst : Nat) (n : Nat) : (count s page ev part inst n).hom = s.hom := rfl
@[simp] theorem count_mov (s : State) (page ev : Nat) (part : Nat) (inst : Nat) (n : Nat) : (count s page ev part inst n).mov = s.mov := rfl
@[simp] theorem count_xfm (s : State) (page ev : Nat) (part : Nat) (inst : Nat) (n : Nat) : (count s page ev part inst n).xfm = s.xfm := rfl
@[simp] theorem count_tir (s : State) (page ev : Nat) (part : Nat) (inst : Nat) (n : Nat) : (count s page ev part inst n).tir = s.tir := rfl
@[simp] theorem count_lmp (s : State) (page ev : Nat) (part : Nat) (inst : Nat) (n : Nat) : (count s page ev part inst n).lmp = s.lmp := rfl
@[simp] theorem count_fnc (s : State) (page ev : Nat) (part : Nat) (inst : Nat) (n : Nat) : (count s page ev part inst n).fnc = s.fnc := rfl
@[simp] theorem count_spn (s : State) (page ev : Nat) (part : Nat) (inst : Nat) (n : Nat) : (count s page ev part inst n).spn = s.spn := rfl
@[simp] theorem count_mps (s : State) (page ev : Nat) (part : Nat) (inst : Nat) (n : Nat) : (count s page ev part inst n).mps = s.mps := rfl
@[simp] theorem count_mem (s : State) (page ev : Nat) (part : Nat) (inst : Nat) (n : Nat) : (count s page ev part inst n).mem = s.mem := rfl
@[simp] theorem count_memPois (s : State) (page ev : Nat) (part : Nat) (inst : Nat) (n : Nat) : (count s page ev part inst n).memPois = s.memPois := rfl
@[simp] theorem count_memKey (s : State) (page ev : Nat) (part : Nat) (inst : Nat) (n : Nat) : (count s page ev part inst n).memKey = s.memKey := rfl
@[simp] theorem count_memScrub (s : State) (page ev : Nat) (part : Nat) (inst : Nat) (n : Nat) : (count s page ev part inst n).memScrub = s.memScrub := rfl
@[simp] theorem count_out (s : State) (page ev : Nat) (part : Nat) (inst : Nat) (n : Nat) : (count s page ev part inst n).out = s.out := rfl
@[simp] theorem count_pending (s : State) (page ev : Nat) (part : Nat) (inst : Nat) (n : Nat) : (count s page ev part inst n).pending = s.pending := rfl

@[simp] theorem tenant_build (s : State) (part src : Nat) (n : Nat) : (tenant s part src n).build = s.build := rfl
@[simp] theorem tenant_clk (s : State) (part src : Nat) (n : Nat) : (tenant s part src n).clk = s.clk := rfl
@[simp] theorem tenant_free (s : State) (part src : Nat) (n : Nat) : (tenant s part src n).free = s.free := rfl
@[simp] theorem tenant_pages (s : State) (part src : Nat) (n : Nat) : (tenant s part src n).pages = s.pages := rfl
@[simp] theorem tenant_boot (s : State) (part src : Nat) (n : Nat) : (tenant s part src n).boot = s.boot := rfl
@[simp] theorem tenant_fuses (s : State) (part src : Nat) (n : Nat) : (tenant s part src n).fuses = s.fuses := rfl
@[simp] theorem tenant_bcn (s : State) (part src : Nat) (n : Nat) : (tenant s part src n).bcn = s.bcn := rfl
@[simp] theorem tenant_sec (s : State) (part src : Nat) (n : Nat) : (tenant s part src n).sec = s.sec := rfl
@[simp] theorem tenant_mbx (s : State) (part src : Nat) (n : Nat) : (tenant s part src n).mbx = s.mbx := rfl
@[simp] theorem tenant_parts (s : State) (part src : Nat) (n : Nat) : (tenant s part src n).parts = s.parts := rfl
@[simp] theorem tenant_ras (s : State) (part src : Nat) (n : Nat) : (tenant s part src n).ras = s.ras := rfl
@[simp] theorem tenant_cas (s : State) (part src : Nat) (n : Nat) : (tenant s part src n).cas = s.cas := rfl
@[simp] theorem tenant_det (s : State) (part src : Nat) (n : Nat) : (tenant s part src n).det = s.det := rfl
@[simp] theorem tenant_lan (s : State) (part src : Nat) (n : Nat) : (tenant s part src n).lan = s.lan := rfl
@[simp] theorem tenant_eng (s : State) (part src : Nat) (n : Nat) : (tenant s part src n).eng = s.eng := rfl
@[simp] theorem tenant_hst (s : State) (part src : Nat) (n : Nat) : (tenant s part src n).hst = s.hst := rfl
@[simp] theorem tenant_hom (s : State) (part src : Nat) (n : Nat) : (tenant s part src n).hom = s.hom := rfl
@[simp] theorem tenant_mov (s : State) (part src : Nat) (n : Nat) : (tenant s part src n).mov = s.mov := rfl
@[simp] theorem tenant_xfm (s : State) (part src : Nat) (n : Nat) : (tenant s part src n).xfm = s.xfm := rfl
@[simp] theorem tenant_tir (s : State) (part src : Nat) (n : Nat) : (tenant s part src n).tir = s.tir := rfl
@[simp] theorem tenant_lmp (s : State) (part src : Nat) (n : Nat) : (tenant s part src n).lmp = s.lmp := rfl
@[simp] theorem tenant_fnc (s : State) (part src : Nat) (n : Nat) : (tenant s part src n).fnc = s.fnc := rfl
@[simp] theorem tenant_spn (s : State) (part src : Nat) (n : Nat) : (tenant s part src n).spn = s.spn := rfl
@[simp] theorem tenant_mps (s : State) (part src : Nat) (n : Nat) : (tenant s part src n).mps = s.mps := rfl
@[simp] theorem tenant_mem (s : State) (part src : Nat) (n : Nat) : (tenant s part src n).mem = s.mem := rfl
@[simp] theorem tenant_memPois (s : State) (part src : Nat) (n : Nat) : (tenant s part src n).memPois = s.memPois := rfl
@[simp] theorem tenant_memKey (s : State) (part src : Nat) (n : Nat) : (tenant s part src n).memKey = s.memKey := rfl
@[simp] theorem tenant_memScrub (s : State) (part src : Nat) (n : Nat) : (tenant s part src n).memScrub = s.memScrub := rfl
@[simp] theorem tenant_out (s : State) (part src : Nat) (n : Nat) : (tenant s part src n).out = s.out := rfl
@[simp] theorem tenant_pending (s : State) (part src : Nat) (n : Nat) : (tenant s part src n).pending = s.pending := rfl

@[simp] theorem fpDirty_build (s : State) : (fpDirty s).build = s.build := rfl
@[simp] theorem fpDirty_clk (s : State) : (fpDirty s).clk = s.clk := rfl
@[simp] theorem fpDirty_free (s : State) : (fpDirty s).free = s.free := rfl
@[simp] theorem fpDirty_pages (s : State) : (fpDirty s).pages = s.pages := rfl
@[simp] theorem fpDirty_boot (s : State) : (fpDirty s).boot = s.boot := rfl
@[simp] theorem fpDirty_fuses (s : State) : (fpDirty s).fuses = s.fuses := rfl
@[simp] theorem fpDirty_bcn (s : State) : (fpDirty s).bcn = s.bcn := rfl
@[simp] theorem fpDirty_sec (s : State) : (fpDirty s).sec = s.sec := rfl
@[simp] theorem fpDirty_mbx (s : State) : (fpDirty s).mbx = s.mbx := rfl
@[simp] theorem fpDirty_cnt (s : State) : (fpDirty s).cnt = s.cnt := rfl
@[simp] theorem fpDirty_parts (s : State) : (fpDirty s).parts = s.parts := rfl
@[simp] theorem fpDirty_ras (s : State) : (fpDirty s).ras = s.ras := rfl
@[simp] theorem fpDirty_cas (s : State) : (fpDirty s).cas = s.cas := rfl
@[simp] theorem fpDirty_lan (s : State) : (fpDirty s).lan = s.lan := rfl
@[simp] theorem fpDirty_eng (s : State) : (fpDirty s).eng = s.eng := rfl
@[simp] theorem fpDirty_hst (s : State) : (fpDirty s).hst = s.hst := rfl
@[simp] theorem fpDirty_hom (s : State) : (fpDirty s).hom = s.hom := rfl
@[simp] theorem fpDirty_mov (s : State) : (fpDirty s).mov = s.mov := rfl
@[simp] theorem fpDirty_xfm (s : State) : (fpDirty s).xfm = s.xfm := rfl
@[simp] theorem fpDirty_tir (s : State) : (fpDirty s).tir = s.tir := rfl
@[simp] theorem fpDirty_lmp (s : State) : (fpDirty s).lmp = s.lmp := rfl
@[simp] theorem fpDirty_fnc (s : State) : (fpDirty s).fnc = s.fnc := rfl
@[simp] theorem fpDirty_spn (s : State) : (fpDirty s).spn = s.spn := rfl
@[simp] theorem fpDirty_mps (s : State) : (fpDirty s).mps = s.mps := rfl
@[simp] theorem fpDirty_mem (s : State) : (fpDirty s).mem = s.mem := rfl
@[simp] theorem fpDirty_memPois (s : State) : (fpDirty s).memPois = s.memPois := rfl
@[simp] theorem fpDirty_memKey (s : State) : (fpDirty s).memKey = s.memKey := rfl
@[simp] theorem fpDirty_memScrub (s : State) : (fpDirty s).memScrub = s.memScrub := rfl
@[simp] theorem fpDirty_out (s : State) : (fpDirty s).out = s.out := rfl
@[simp] theorem fpDirty_pending (s : State) : (fpDirty s).pending = s.pending := rfl

end Sys2Proof.Machine
end

