-- ==== Sys2Proof/Laws/Tables.lean ====
section
/-!
SUPPORT. Tables: what an entry reads as after a table changed, that every change keeps the canonical form, and what the records of a
state read as after their updates.
-/
namespace Sys2Proof.Machine
open Sys2Proof

variable {α : Type} [Inhabited α] [DecidableEq α]

omit [DecidableEq α] in
theorem tget_tput_self (t : Tbl α) (k : Nat) (v : α) (h : ∀ e ∈ t, e.1 ≠ k) : tget (tput t k v) k = v := by
  induction t with
  | nil => simp [tput, tget]
  | cons x t ih =>
    obtain ⟨k', v'⟩ := x
    have hk : k' ≠ k := h (k', v') (by simp)
    simp only [tput]
    split
    · simp [tget]
    · simp [tget, hk, ih (fun e he => h e (by simp [he]))]

omit [DecidableEq α] in
theorem tget_tput_ne (t : Tbl α) (k j : Nat) (v : α) (h : j ≠ k) : tget (tput t k v) j = tget t j := by
  induction t with
  | nil => simp [tput, tget, Ne.symm h]
  | cons x t ih =>
    obtain ⟨k', v'⟩ := x
    simp only [tput]
    split
    · simp [tget, Ne.symm h]
    · simp [tget, ih]

omit [DecidableEq α] in
/-- An entry reads as before when the entries of other numbers leave a table. -/
theorem tget_filter (t : Tbl α) (f : Nat × α → Bool) (k : Nat) (h : ∀ e ∈ t, e.1 = k → f e = true) : tget (t.filter f) k = tget t k := by
  induction t with
  | nil => rfl
  | cons x t ih =>
    obtain ⟨k', v'⟩ := x
    have ih := ih (fun e he => h e (by simp [he]))
    by_cases hk : k' = k
    · have hf := h (k', v') (by simp) hk
      rw [List.filter_cons_of_pos hf]
      simp [tget, hk]
    · by_cases hf : f (k', v') = true
      · rw [List.filter_cons_of_pos hf]
        simp [tget, hk, ih]
      · rw [List.filter_cons_of_neg hf]
        simp [tget, hk, ih]

omit [DecidableEq α] in
/-- A number that no entry of a table has reads as the default. -/
theorem tget_absent (t : Tbl α) (k : Nat) (h : ∀ e ∈ t, e.1 ≠ k) : tget t k = default := by
  induction t with
  | nil => rfl
  | cons x t ih =>
    obtain ⟨k', v'⟩ := x
    have hk : k' ≠ k := h (k', v') (by simp)
    simp [tget, hk, ih (fun e he => h e (by simp [he]))]

@[simp] theorem tget_tset_self (t : Tbl α) (k : Nat) (v : α) : tget (tset t k v) k = v := by
  have hne : ∀ e ∈ t.filter (fun e => e.1 != k), e.1 ≠ k := by simp
  simp only [tset]
  split
  · rename_i h
    rw [tget_absent _ _ hne, h]
  · exact tget_tput_self _ _ _ hne

theorem tget_tset_ne (t : Tbl α) (k j : Nat) (v : α) (h : j ≠ k) : tget (tset t k v) j = tget t j := by
  have hf : tget (t.filter (fun e => e.1 != k)) j = tget t j := tget_filter _ _ _ (by intro e _ he; simp [he, h])
  simp only [tset]
  split
  · exact hf
  · rw [tget_tput_ne _ _ _ _ h, hf]

theorem tget_tset (t : Tbl α) (k j : Nat) (v : α) : tget (tset t k v) j = if j = k then v else tget t j := by
  split
  · rename_i h; rw [h, tget_tset_self]
  · rename_i h; rw [tget_tset_ne _ _ _ _ h]

@[simp] theorem tget_tupd_self (t : Tbl α) (k : Nat) (f : α → α) : tget (tupd t k f) k = f (tget t k) := by simp [tupd]

theorem tget_tupd_ne (t : Tbl α) (k j : Nat) (f : α → α) (h : j ≠ k) : tget (tupd t k f) j = tget t j := by simp [tupd, tget_tset_ne _ _ _ _ h]

/-! ## The canonical form -/

/-- The canonical form, by its head: the first number is below every other, its value is not the default. -/
theorem tblWf_cons (k : Nat) (v : α) (t : Tbl α) : tblWf ((k, v) :: t) = true ↔ v ≠ default ∧ (∀ e ∈ t, k < e.1) ∧ tblWf t = true := by
  induction t generalizing k v with
  | nil => simp [tblWf]
  | cons x t ih =>
    obtain ⟨k', v'⟩ := x
    simp only [tblWf, Bool.and_eq_true, decide_eq_true_eq, List.mem_cons, forall_eq_or_imp]
    constructor
    · rintro ⟨⟨hv, hk⟩, hr⟩
      exact ⟨hv, ⟨hk, fun e he => Nat.lt_trans hk (((ih k' v').1 hr).2.1 e he)⟩, hr⟩
    · rintro ⟨hv, ⟨hk, _⟩, hr⟩
      exact ⟨⟨hv, hk⟩, hr⟩

theorem tblWf_filter (t : Tbl α) (f : Nat × α → Bool) (h : tblWf t = true) : tblWf (t.filter f) = true := by
  induction t with
  | nil => rfl
  | cons x t ih =>
    obtain ⟨k, v⟩ := x
    obtain ⟨hv, hk, hr⟩ := (tblWf_cons k v t).1 h
    by_cases hf : f (k, v) = true
    · rw [List.filter_cons_of_pos hf, tblWf_cons]
      exact ⟨hv, fun e he => hk e (List.mem_of_mem_filter he), ih hr⟩
    · rw [List.filter_cons_of_neg hf]
      exact ih hr

omit [Inhabited α] [DecidableEq α] in
theorem mem_tput (t : Tbl α) (k : Nat) (v : α) (e : Nat × α) : e ∈ tput t k v ↔ e = (k, v) ∨ e ∈ t := by
  induction t with
  | nil => simp [tput]
  | cons x t ih =>
    obtain ⟨k', v'⟩ := x
    simp only [tput]
    split
    · simp
    · simp only [List.mem_cons, ih]
      tauto

theorem tblWf_tput (t : Tbl α) (k : Nat) (v : α) (hv : v ≠ default) (hk : ∀ e ∈ t, e.1 ≠ k) (h : tblWf t = true) : tblWf (tput t k v) = true := by
  induction t with
  | nil => simp [tput, tblWf, hv]
  | cons x t ih =>
    obtain ⟨k', v'⟩ := x
    obtain ⟨hv', hk', hr⟩ := (tblWf_cons k' v' t).1 h
    simp only [tput]
    split
    · rename_i hlt
      rw [tblWf_cons]
      refine ⟨hv, ?_, h⟩
      rintro e he
      rcases List.mem_cons.1 he with rfl | he
      · exact hlt
      · exact Nat.lt_trans hlt (hk' e he)
    · rename_i hlt
      rw [tblWf_cons]
      refine ⟨hv', ?_, ih (fun e he => hk e (by simp [he])) hr⟩
      intro e he
      rcases (mem_tput t k v e).1 he with rfl | he
      · have := hk (k', v') (by simp)
        simp only at this ⊢
        omega
      · exact hk' e he

theorem tblWf_tset (t : Tbl α) (k : Nat) (v : α) (h : tblWf t = true) : tblWf (tset t k v) = true := by
  have hf := tblWf_filter t (fun e => e.1 != k) h
  simp only [tset]
  split
  · exact hf
  · rename_i hv
    exact tblWf_tput _ _ _ hv (by simp) hf

theorem tblWf_tupd (t : Tbl α) (k : Nat) (f : α → α) (h : tblWf t = true) : tblWf (tupd t k f) = true := tblWf_tset _ _ _ h

/-! ## Records of a state after their updates -/

@[simp] theorem page_updPage_self (s : State) (p : Nat) (f : Page → Page) : page (updPage s p f) p = f (page s p) := by simp [page, updPage]

theorem page_updPage_ne (s : State) (p q : Nat) (f : Page → Page) (h : q ≠ p) : page (updPage s p f) q = page s q := by
  simp [page, updPage, tget_tupd_ne _ _ _ _ h]

@[simp] theorem part_updPart_self (s : State) (p : Nat) (f : Part → Part) : part (updPart s p f) p = f (part s p) := by simp [part, updPart]

theorem part_updPart_ne (s : State) (p q : Nat) (f : Part → Part) (h : q ≠ p) : part (updPart s p f) q = part s q := by
  simp [part, updPart, tget_tupd_ne _ _ _ _ h]

@[simp] theorem mbox_updMb_self (s : State) (m : Nat) (f : Mailbox → Mailbox) : mbox (updMb s m f) m = f (mbox s m) := by simp [mbox, updMb]

theorem mbox_updMb_ne (s : State) (m n : Nat) (f : Mailbox → Mailbox) (h : n ≠ m) : mbox (updMb s m f) n = mbox s n := by
  simp [mbox, updMb, tget_tupd_ne _ _ _ _ h]

@[simp] theorem chan_updChan_self (s : State) (c : Nat) (f : Chan → Chan) : chan (updChan s c f) c = f (chan s c) := by simp [chan, updChan]

theorem chan_updChan_ne (s : State) (c d : Nat) (f : Chan → Chan) (h : d ≠ c) : chan (updChan s c f) d = chan s d := by
  simp [chan, updChan, tget_tupd_ne _ _ _ _ h]

@[simp] theorem queue_updQ_self (s : State) (q : Nat) (f : Queue → Queue) : queue (updQ s q f) q = f (queue s q) := by simp [queue, updQ]

theorem queue_updQ_ne (s : State) (q r : Nat) (f : Queue → Queue) (h : r ≠ q) : queue (updQ s q f) r = queue s r := by
  simp [queue, updQ, tget_tupd_ne _ _ _ _ h]

@[simp] theorem watchOf_setWatch_self (s : State) (i : Nat) (w : Option Watch) : watchOf (setWatch s i w) i = w := by simp [watchOf, setWatch]

theorem watchOf_setWatch_ne (s : State) (i j : Nat) (w : Option Watch) (h : j ≠ i) : watchOf (setWatch s i w) j = watchOf s j := by
  simp [watchOf, setWatch, tget_tset_ne _ _ _ _ h]

@[simp] theorem txnOf_setTxn_self (s : State) (l : Nat) (t : Option Txn) : txnOf (setTxn s l t) l = t := by simp [txnOf, setTxn]

theorem txnOf_setTxn_ne (s : State) (l k : Nat) (t : Option Txn) (h : k ≠ l) : txnOf (setTxn s l t) k = txnOf s k := by
  simp [txnOf, setTxn, tget_tset_ne _ _ _ _ h]

@[simp] theorem setDir_txns (s : State) (l : Nat) (e : DirEntry) : (setDir s l e).hom.txns = s.hom.txns := rfl

@[simp] theorem dirOf_setDir_self (s : State) (l : Nat) (e : DirEntry) : dirOf (setDir s l e) l = if e.st = .unc then {} else e := by
  simp [dirOf, setDir]

theorem dirOf_setDir_ne (s : State) (l k : Nat) (e : DirEntry) (h : k ≠ l) : dirOf (setDir s l e) k = dirOf s k := by
  simp [dirOf, setDir, tget_tset_ne _ _ _ _ h]

end Sys2Proof.Machine
end

