-- ==== Sys2Proof/Laws/Memory.lean ====
section
/-!
SUPPORT. Memory: every operation on it keeps the canonical form, and what a byte reads as after bytes were written or a range scrubbed.
-/
namespace Sys2Proof.Machine
open Sys2Proof

/-- Memory after reset is in canonical form. -/
theorem memWf_nil : memWf [] = true := rfl

theorem memWf_tset (m : List Host.Cell) (a : Nat) (b : Byte) (h : memWf m = true) : memWf (tset m a b) = true := tblWf_tset m a b h

theorem memWf_filter (m : List Host.Cell) (f : Host.Cell → Bool) (h : memWf m = true) : memWf (m.filter f) = true := tblWf_filter m f h

theorem memWf_memPut (m : List Host.Cell) (a : Nat) (bs : List Byte) (h : memWf m = true) : memWf (memPut m a bs) = true := by
  induction bs generalizing m a with
  | nil => exact h
  | cons b t ih => exact ih _ _ (memWf_tset m a b h)

/-- A byte after bytes were written from an address up. -/
theorem tget_memPut (m : List Host.Cell) (a k : Nat) (bs : List Byte) :
    tget (memPut m a bs) k = if a ≤ k ∧ k < a + bs.length then bs.getD (k - a) 0 else tget m k := by
  induction bs generalizing m a with
  | nil => simp [memPut]
  | cons b t ih =>
    rw [memPut, ih, tget_tset]
    simp only [List.length_cons]
    by_cases h : k = a
    · subst h; simp
    · by_cases h1 : a + 1 ≤ k ∧ k < a + 1 + t.length
      · have h2 : a ≤ k ∧ k < a + (t.length + 1) := by omega
        rw [if_pos h1, if_pos h2]
        obtain ⟨d, hd⟩ : ∃ d, k - a = d + 1 := ⟨k - a - 1, by omega⟩
        have : k - (a + 1) = d := by omega
        simp [hd, this]
      · have h2 : ¬ (a ≤ k ∧ k < a + (t.length + 1)) := by omega
        rw [if_neg h1, if_neg h2, if_neg h]

/-- A store of one byte keeps the canonical form. -/
theorem MemOk_setMemByte (s : State) (a : Nat) (b : Byte) (h : MemOk s) : MemOk (setMemByte s a b) := memWf_tset _ _ _ h

/-- A store of a line keeps the canonical form. -/
theorem MemOk_wrLine (s : State) (l : Nat) (d : LineData) (p : Nat) (h : MemOk s) : MemOk (wrLine s l d p) := memWf_memPut _ _ _ h

/-- So does taking back a write that was not performed. -/
theorem MemOk_putBack (s : State) (o : OldLine) (h : MemOk s) : MemOk (putBack s o) := memWf_memPut _ _ _ h

theorem MemOk_wrLineMasked (s : State) (l : Nat) (d : LineData) (m : LineMask) (p : Nat) (h : MemOk s) : MemOk (wrLineMasked s l d m p) :=
  MemOk_wrLine _ _ _ _ h

theorem MemOk_wrBytesLine (s : State) (a : Nat) (bs : List Byte) (h : MemOk s) : MemOk (wrBytesLine s a bs) := MemOk_wrLine _ _ _ _ h

theorem MemOk_wrWord (s : State) (a : Nat) (w : Word) (h : MemOk s) : MemOk (wrWord s a w) := MemOk_wrBytesLine _ _ _ h

theorem MemOk_wrWords (s : State) (a : Nat) (ws : List Word) (h : MemOk s) : MemOk (wrWords s a ws) := by
  induction ws generalizing s a with
  | nil => exact h
  | cons w t ih => exact ih _ _ (MemOk_wrWord s a w h)

/-- A scrub of a range keeps the canonical form. -/
theorem MemOk_scrubLines (s : State) (base n p : Nat) (h : MemOk s) : MemOk (scrubLines s base n p) := by
  unfold scrubLines
  split
  · exact h
  · exact memWf_filter _ _ h

/-- A scrub that leaves the lines of fenced ports keeps the canonical form. -/
theorem MemOk_scrubPart (s : State) (base n : Nat) (h : MemOk s) : MemOk (scrubPart s base n) := memWf_filter _ _ h

/-- A scrub writes zeros to its range and nothing else. -/
theorem memByte_scrubLines (s : State) (base n p a : Nat) :
    memByte (scrubLines s base n p) a = if base ≤ a / 128 ∧ a / 128 < base + n then 0 else memByte s a := by
  unfold scrubLines memByte
  by_cases h0 : n = 0
  · rw [if_pos h0, if_neg (by omega)]
  · rw [if_neg h0]
    by_cases h : base ≤ a / 128 ∧ a / 128 < base + n
    · rw [if_pos h]
      refine tget_absent _ _ (fun e he ha => ?_)
      have := (List.mem_filter.1 he).2
      rw [ha] at this
      simp [h.1, h.2] at this
    · rw [if_neg h]
      refine tget_filter _ _ _ (fun e _ ha => ?_)
      rw [ha]
      simp only [Bool.not_eq_true', Bool.and_eq_false_iff, decide_eq_false_iff_not]
      omega

/-- A store of a line changes no byte of another line. -/
theorem memByte_wrLine_ne (s : State) (l : Nat) (d : LineData) (p a : Nat) (h : a / 128 ≠ l) : memByte (wrLine s l d p) a = memByte s a := by
  have hl : (lineBytes d).length = 128 := by simp [lineBytes]
  show tget (memPut s.mem (l * 128) (lineBytes d)) a = _
  rw [tget_memPut, if_neg (by rw [hl]; omega)]
  rfl

end Sys2Proof.Machine
end

