-- ==== Sys2Proof/Laws/Ops.lean ====
section
/-!
SUPPORT. Frames: how they compose, and what each shared operation of the model may change.
-/
namespace Sys2Proof
open Sys2Proof.Machine

/-- Every component, as one reads it, is one of the list of all. -/
theorem Comp.same_refl (s : State) (c : Comp) : c.same s s := by cases c <;> rfl

theorem Comp.same_trans (s t u : State) (c : Comp) (h : c.same s t) (g : c.same t u) : c.same s u := by
  cases c <;> exact Eq.trans g h

theorem Frame.refl (l : List Comp) (s : State) : Frame l s s := fun c _ => Comp.same_refl s c

theorem Frame.mono {l m : List Comp} {s t : State} (h : Frame l s t) (hs : ∀ c ∈ l, c ∈ m) : Frame m s t :=
  fun c hc => h c (fun hl => hc (hs c hl))

theorem Frame.trans {l m n : List Comp} {s t u : State} (h : Frame l s t) (g : Frame m t u) (hl : ∀ c ∈ l, c ∈ n) (hm : ∀ c ∈ m, c ∈ n) :
    Frame n s u :=
  fun c hc => Comp.same_trans s t u c (h c (fun x => hc (hl c x))) (g c (fun x => hc (hm c x)))

/-- A fold stays in the frame that each of its steps stays in. -/
theorem Frame.foldl {α : Type} (l : List Comp) (f : State → α → State) (xs : List α) (s : State) (h : ∀ t x, Frame l t (f t x)) :
    Frame l s (xs.foldl f s) := by
  induction xs generalizing s with
  | nil => exact Frame.refl l s
  | cons x xs ih => exact Frame.trans (h s x) (ih (f s x)) (fun _ => id) (fun _ => id)

/-- A command that completes answers a next state. -/
theorem Ends.next {c : Instr} {s : State} {P : State → Prop} (h : Ends c s P) : ∃ t, exec c s = .next t := let ⟨t, ht, _⟩ := h; ⟨t, ht⟩

theorem Ends.mono {c : Instr} {s : State} {P Q : State → Prop} (h : Ends c s P) (hq : ∀ t, P t → Q t) : Ends c s Q :=
  let ⟨t, ht, hp⟩ := h; ⟨t, ht, hq t hp⟩

namespace Machine

theorem updPage_frame (s : State) (p : Nat) (f : Page → Page) : Frame [.pages] s (updPage s p f) := by
  intro c hc; cases c <;> first | rfl | simp at hc

theorem updPart_frame (s : State) (p : Nat) (f : Part → Part) : Frame [.parts] s (updPart s p f) := by
  intro c hc; cases c <;> first | rfl | simp at hc

theorem updMb_frame (s : State) (m : Nat) (f : Mailbox → Mailbox) : Frame [.mbx] s (updMb s m f) := by
  intro c hc; cases c <;> first | rfl | simp at hc

theorem updMp_frame (s : State) (p : Nat) (f : MemPort → MemPort) : Frame [.mps] s (updMp s p f) := by
  intro c hc; cases c <;> first | rfl | simp at hc

theorem updBcn_frame (s : State) (f : Bcn → Bcn) : Frame [.bcn] s (updBcn s f) := by
  intro c hc; cases c <;> first | rfl | simp at hc

theorem updSpn_frame (s : State) (f : Spn → Spn) : Frame [.spn] s (updSpn s f) := by
  intro c hc; cases c <;> first | rfl | simp at hc

theorem updChan_frame (s : State) (n : Nat) (f : Chan → Chan) : Frame [.mov] s (updChan s n f) := by
  intro c hc; cases c <;> first | rfl | simp at hc

theorem updQ_frame (s : State) (q : Nat) (f : Queue → Queue) : Frame [.lmp] s (updQ s q f) := by
  intro c hc; cases c <;> first | rfl | simp at hc

theorem updCmd_frame (s : State) (q n : Nat) (f : Cmd → Cmd) : Frame [.lmp] s (updCmd s q n f) := by
  intro c hc; cases c <;> first | rfl | simp at hc

theorem updCtx_frame (s : State) (n : Nat) (f : Ctx → Ctx) : Frame [.lmp] s (updCtx s n f) := by
  unfold updCtx; split <;> (intro c hc; cases c <;> first | rfl | simp at hc)

theorem setDir_frame (s : State) (l : Nat) (e : DirEntry) : Frame [.hom] s (setDir s l e) := by
  intro c hc; cases c <;> first | rfl | simp at hc

theorem setTxn_frame (s : State) (l : Nat) (x : Option Txn) : Frame [.hom] s (setTxn s l x) := by
  intro c hc; cases c <;> first | rfl | simp at hc

theorem setWatch_frame (s : State) (i : Nat) (w : Option Watch) : Frame [.fnc] s (setWatch s i w) := by
  intro c hc; cases c <;> first | rfl | simp at hc

theorem setBar_frame (s : State) (i : Nat) (b : Option Bar) : Frame [.fnc] s (setBar s i b) := by
  intro c hc; cases c <;> first | rfl | simp at hc

theorem advanceTo_frame (s : State) (n : Nat) : Frame [.clk] s (advanceTo s n) := by
  intro c hc; cases c <;> first | rfl | simp at hc

theorem fpDirty_frame (s : State) : Frame [.det] s (fpDirty s) := by
  intro c hc; cases c <;> first | rfl | simp at hc

theorem emits_frame (s : State) (ms : List OutMsg) : Frame [.out] s (emits s ms) := by
  intro c hc; cases c <;> first | rfl | simp at hc

theorem count_frame (s : State) (p e q i n : Nat) : Frame [.cnt] s (count s p e q i n) := by
  intro c hc; cases c <;> first | rfl | simp at hc

theorem tenant_frame (s : State) (p e n : Nat) : Frame [.cnt] s (tenant s p e n) := count_frame _ _ _ _ _ _

theorem setLast_frame (s : State) (p : Nat) (st : Status) : Frame [.pages] s (setLast s p st) := updPage_frame _ _ _

theorem updLink_frame (s : State) (p : Nat) (f : Link → Link) : Frame [.eng, .hst] s (updLink s p f) := by
  unfold updLink; split <;> (intro c hc; cases c <;> first | rfl | simp at hc)

theorem out_frame (s : State) (l : List OutMsg) : Frame [.out] s { s with out := l } := by
  intro c hc; cases c <;> first | rfl | simp at hc

/-- A message leaves or waits at its link: nothing but the record of messages and the links changes. -/
theorem emit_frame (s : State) (m : OutMsg) : Frame [.eng, .hst, .out] s (emit s m) := by
  unfold emit
  split
  · intro c hc; cases c <;> first | rfl | simp at hc
  · dsimp only
    split
    · exact Frame.refl _ _
    · split
      · exact Frame.trans (updLink_frame s _ _) (out_frame _ _) (by decide) (by decide)
      · exact (updLink_frame s _ _).mono (by decide)

theorem sendIrq_frame (s : State) (p : Nat) : Frame [.pages, .eng, .hst, .out] s (sendIrq s p) := by
  refine Frame.foldl _ _ _ _ (fun t h => ?_)
  split
  · exact (emit_frame t _).mono (by decide)
  · exact (updPage_frame t _ _).mono (by decide)

/-- An interrupt bit is raised: the page's record, the counts, and the messages. -/
theorem raise_frame (s : State) (p b : Nat) : Frame [.pages, .cnt, .eng, .hst, .out] s (raise s p b) := by
  have h1 := updPage_frame s p (fun q => { q with irqRaw := setBit q.irqRaw b true })
  have key : ∀ (t : State) (c : Prop) [Decidable c], Frame [.pages, .cnt, .eng, .hst, .out] s t →
      Frame [.pages, .cnt, .eng, .hst, .out] s (if c then sendIrq t p else t) := by
    intro t c _ h
    split
    · exact Frame.trans h (sendIrq_frame t p) (fun _ => id) (by decide)
    · exact h
  refine key _ _ ?_
  split
  · exact Frame.trans h1 (count_frame _ _ _ _ _ _) (by decide) (by decide)
  · exact h1.mono (by decide)

theorem mbIrq_frame (s : State) (m : Nat) : Frame [.mbx, .eng, .hst, .out] s (mbIrq s m) := by
  unfold mbIrq
  split
  · exact (emit_frame s _).mono (by decide)
  · refine Frame.foldl _ _ _ _ (fun t h => ?_)
    split
    · exact (emit_frame t _).mono (by decide)
    · exact (updMb_frame t _ _).mono (by decide)

theorem ringS2h_frame (s : State) (m b : Nat) : Frame [.mbx, .eng, .hst, .out] s (ringS2h s m b) := by
  have h1 := updMb_frame s m (fun q => { q with s2hDb := setBit q.s2hDb b true })
  unfold ringS2h
  dsimp only
  split
  · exact Frame.trans h1 (mbIrq_frame _ _) (by decide) (fun _ => id)
  · exact h1.mono (by decide)

/-- Sudric's reply to a request of this block changes the mailbox alone. -/
theorem reply_frame (s : State) (m q v : Nat) (st : Status) (r : List Word) (o : Bool) (h : q < 256) : Frame [.mbx] s (reply s m q v st r o) := by
  unfold reply
  rw [if_neg (by omega), if_neg (by omega)]
  exact updMb_frame _ _ _

theorem oweReply_frame (s : State) (m q v : Nat) : Frame [.mbx] s (oweReply s m q v) := by
  unfold oweReply
  split
  · exact Frame.refl _ _
  · exact updMb_frame _ _ _

/-- A store of a line changes memory, its poison and its key. -/
theorem wrLine_frame (s : State) (l : Nat) (d : LineData) (p : Nat) : Frame [.mem, .memPois, .memKey] s (wrLine s l d p) := by
  intro c hc; cases c <;> first | rfl | simp at hc

theorem wrWord_frame (s : State) (a : Nat) (w : Word) : Frame [.mem, .memPois, .memKey] s (wrWord s a w) := wrLine_frame _ _ _ _

theorem wrWords_frame (s : State) (a : Nat) (ws : List Word) : Frame [.mem, .memPois, .memKey] s (wrWords s a ws) := by
  induction ws generalizing s a with
  | nil => exact Frame.refl _ _
  | cons w t ih => exact Frame.trans (wrWord_frame s a w) (ih _ _) (fun _ => id) (fun _ => id)

theorem scrubLines_frame (s : State) (b n p : Nat) : Frame [.mem, .memPois, .memKey, .memScrub] s (scrubLines s b n p) := by
  unfold scrubLines; dsimp only
  split <;> (intro c hc; cases c <;> first | rfl | simp at hc)

/-- A step runs the command at the front on the state with the queue's rest. -/
theorem step_cons (s : State) (c : Instr) (l : List Instr) (h : s.pending = c :: l) : step s = exec c { s with pending := l } := by
  unfold step; rw [h]

end Machine
end Sys2Proof
end

