-- ==== Sys2Proof/Laws/Errors.lean ====
section
/-!
SUPPORT. What a record of the error log and a store through a memory port may change, and what they leave.
-/
namespace Sys2Proof.Machine
open Sys2Proof

theorem ras_frame (s : State) (x : Ras) : Frame [.ras] s { s with ras := x } := by
  intro c hc; cases c <;> first | rfl | simp at hc

/-- A count and an interrupt after a frame that allows them. -/
theorem frame_count_raise {l : List Comp} {s t : State} (h : Frame l s t) (hl : ∀ c ∈ [Comp.pages, .cnt, .eng, .hst, .out], c ∈ l) (p e b : Nat)
    (P : Prop) [Decidable P] : Frame l s (if P then raise (count t p e) p b else count t p e) := by
  have hc : Frame l s (count t p e) :=
    Frame.trans h (count_frame t p e _ _ _) (fun _ => id) (fun c hc => hl c (by rw [List.mem_singleton.1 hc]; decide))
  split
  · exact Frame.trans hc (raise_frame _ p b) (fun _ => id) hl
  · exact hc

theorem rasTotal_frame (s : State) (c : ErrClass) : Frame [.pages, .mbx, .cnt, .ras, .eng, .hst, .out] s (rasTotal s c) := by
  have one : ∀ x : Ras, Frame [.pages, .mbx, .cnt, .ras, .eng, .hst, .out] s { s with ras := x } := fun x => (ras_frame s x).mono (by decide)
  have cnt : ∀ (x : Ras) (e : Nat), Frame [.pages, .mbx, .cnt, .ras, .eng, .hst, .out] s (count { s with ras := x } pRAS e) :=
    fun x e => Frame.trans (one x) (count_frame _ _ _ _ _ _) (fun _ => id) (by decide)
  have irq : ∀ (x : Ras) (e b : Nat), Frame [.pages, .mbx, .cnt, .ras, .eng, .hst, .out] s (raise (count { s with ras := x } pRAS e) pRAS b) :=
    fun x e b => Frame.trans (cnt x e) (raise_frame _ _ _) (fun _ => id) (by decide)
  cases c with
  | none => exact Frame.refl _ _
  | ce => exact frame_count_raise (one _) (by decide) pRAS 1 0 _
  | ueData => exact irq _ _ _
  | ueUnit => exact irq _ _ _
  | protocol => exact cnt _ _
  | fatal => exact Frame.trans (irq _ _ _) (ringS2h_frame _ _ _) (fun _ => id) (by decide)

/-- A record of the error log changes the log, its totals and counts, and what they tell. -/
theorem logErr_frame (s : State) (c : ErrClass) (st : Status) (page index part : Nat) (addr : Option Nat) (va : Bool) :
    Frame [.pages, .mbx, .cnt, .ras, .eng, .hst, .out] s (logErr s c st page index part addr va) := by
  have step : ∀ (t : State) (P Q : Prop) [Decidable P] [Decidable Q] (g : State → Ras),
      Frame [.pages, .mbx, .cnt, .ras, .eng, .hst, .out] s t → Frame [.pages, .mbx, .cnt, .ras, .eng, .hst, .out] s
        (if P then (if Q then raise (count { t with ras := g t } pRAS 0) pRAS 5 else count { t with ras := g t } pRAS 0) else t) := by
    intro t P Q _ _ g h
    split
    · exact frame_count_raise (Frame.trans h (ras_frame t (g t)) (fun _ => id) (by decide)) (by decide) pRAS 0 5 Q
    · exact h
  refine Frame.trans (step _ _ _ (fun t => { t.ras with logLost := satAdd 32 t.ras.logLost 1 }) ?_) (rasTotal_frame _ c) (fun _ => id) (fun _ => id)
  exact (ras_frame s _).mono (by decide)

theorem logProto_frame (s : State) (st : Status) (page index part : Nat) (addr : Option Nat) :
    Frame [.pages, .mbx, .cnt, .ras, .eng, .hst, .out] s (logProto s st page index part addr) := logErr_frame _ _ _ _ _ _ _ _

/-- A line write that leaves through its port changes the port, its counts and the messages, and no byte of memory. -/
theorem mpWrite_frame (s : State) (line : Nat) (o : OldLine) : Frame [.mps, .cnt, .eng, .hst, .out] s (mpWrite s line o) := by
  have h1 : ∀ p, Frame [.mps, .cnt, .eng, .hst, .out] s (mpLine s p) := fun p =>
    Frame.trans (updMp_frame s p _) (count_frame _ _ _ _ _ _) (by decide) (by decide)
  have h2 : ∀ p f, Frame [.mps, .cnt, .eng, .hst, .out] s (updMp (mpLine s p) p f) := fun p f =>
    Frame.trans (h1 p) (updMp_frame _ p f) (fun _ => id) (by decide)
  unfold mpWrite
  split
  · split
    · dsimp only
      split
      · exact Frame.trans (h2 _ _) (emit_frame _ _) (fun _ => id) (by decide)
      · exact h2 _ _
    · exact Frame.refl _ _
  · exact Frame.refl _ _

/-- A line stored through its port. -/
theorem storeLine_frame (s : State) (l : Nat) (d : LineData) (p : Nat) :
    Frame [.mem, .memPois, .memKey, .mps, .cnt, .eng, .hst, .out] s (storeLine s l d p) :=
  Frame.trans (wrLine_frame s l d p) (mpWrite_frame _ l _) (by decide) (by decide)

theorem MemOk_storeLine (s : State) (l : Nat) (d : LineData) (p : Nat) (h : MemOk s) : MemOk (storeLine s l d p) := by
  have hm : (storeLine s l d p).mem = (wrLine s l d p).mem := mpWrite_frame (wrLine s l d p) l (oldLine s l) .mem (by decide)
  show memWf (storeLine s l d p).mem = true
  rw [hm]
  exact MemOk_wrLine s l d p h

end Sys2Proof.Machine
end

