-- ==== Sys2Proof/Laws/Services.lean ====
section
/-!
SUPPORT. What an admitted register write and a request that nothing refuses do: the register's or the service's own effect, between the
steps that every one of them takes.
-/
namespace Sys2Proof.Machine
open Sys2Proof

theorem consume_frame (s : State) (p c n : Nat) : Frame [.eng, .hst] s (consume s p c n) := by
  unfold consume
  split
  · exact Frame.refl _ _
  · exact updLink_frame s _ _

/-- The answer of a register access changes the station's link and the record of messages. -/
theorem regRsp_frame (s : State) (h : Nat) (st : Status) (d : List Word) (hh : h < 16) : Frame [.eng, .hst, .out] s (regRsp s h st d) := by
  unfold regRsp
  rw [if_neg (by omega)]
  split
  · exact Frame.trans (consume_frame s _ _ _) (emit_frame _ _) (by decide) (fun _ => id)
  · exact (emits_frame s _).mono (by decide)

/-- The stage of a link stays while credits are consumed. -/
theorem consume_link_st (s : State) (p c n q : Nat) : (linkOf (consume s p c n) q).st = (linkOf s q).st := by
  unfold consume
  split
  · rfl
  · by_cases hp : p = pENG <;> by_cases hq : q = pENG <;> simp [updLink, linkOf, hst, hp, hq]
    by_cases h : q - pHST0 = p - pHST0
    · rw [h]; simp
    · rw [tget_tupd_ne _ _ _ _ h]

theorem linkOf_host (s : State) (h : Nat) : linkOf s (pHST0 + h) = hst s h := by
  have : pHST0 + h ≠ pENG := by show 0x11 + h ≠ 0x10; omega
  simp [linkOf, this]

theorem answered_ite {h : Nat} {st : Status} {d : List Word} (P : Prop) [Decidable P] (t u : State) (ht : Answered t h st d) (hu : Answered u h st d) :
    Answered (if P then t else u) h st d := by split <;> assumption

/-- The answer of a register access is the last message of its station. -/
theorem regRsp_answered (s : State) (h : Nat) (st : Status) (d : List Word) (hh : h < 16) : Answered (regRsp s h st d) h st d := by
  have hne : pHST0 + h ≠ pENG := by show 0x11 + h ≠ 0x10; omega
  unfold regRsp
  rw [if_neg (by omega)]
  split
  · rename_i hu
    have h2 : (linkOf (consume s (pHST0 + h) 5) (pHST0 + h)).st = 2 := by
      rw [consume_link_st, linkOf_host]; simp only [hostUp, Bool.and_eq_true, beq_iff_eq] at hu; exact hu.1
    generalize consume s (pHST0 + h) 5 = u at h2
    have hm : msgLink u (.reg h st d) = some (pHST0 + h, 5) := rfl
    unfold emit
    rw [hm]
    simp only [h2, ne_eq, not_true_eq_false, if_false]
    refine answered_ite _ _ _ ?_ ?_
    · left; simp
    · right; simp [hst, updLink, hne]
  · left; simp [emits]

/-- A unit register's write that is admitted has the register's own effect, and is answered OK. -/
theorem unitWrite_admitted (s : State) (a : Acc) (p off : Nat) (f : State → State) (h : UnitAdmits s a p off) (hd : regDefined p off = true) :
    unitWrite s a p off f = regRsp (afterExpert s (f (setLast s p .ok)) p off) a.st .ok [] := by
  obtain ⟨-, h1, h2, h3, h4⟩ := h
  unfold unitWrite
  rcases h4 with h4 | h4 <;> simp only [h1, h2, h3, h4, hd, Bool.not_true, Bool.false_eq_true, if_false, Bool.false_and, Bool.and_false]

/-- A header register's write that is admitted has the register's own effect, and is answered OK. -/
theorem headWrite_admitted (s : State) (a : Acc) (p : Nat) (f : State → State) (h : HeadAdmits s a p) :
    headWrite s a p f = regRsp (f s) a.st .ok [] := by
  obtain ⟨-, h1, h2, h3, h4⟩ := h
  simp only [headWrite, h1, h2, h3, h4, Bool.not_true, Bool.false_eq_true, if_false]

theorem tellEvent_frame (s : State) (m : Nat) : Frame [.mbx, .eng, .hst, .out] s (tellEvent s m) := by
  unfold tellEvent ringReply armS2h
  exact Frame.trans (ringS2h_frame s m _) (updMb_frame _ _ _) (fun _ => id) (by decide)

theorem noteOverride_frame (s : State) (p off sel : Nat) (f : Nat × Nat) (b : Word) :
    Frame [.pages, .mbx, .cnt, .eng, .hst, .out] s (noteOverride s p off sel f b) := by
  have log : ∀ (P : Prop) [Decidable P] (g : Page → Page), Frame [.pages, .mbx, .cnt, .eng, .hst, .out] s (if P then s else updPage s p g) := by
    intro P _ g
    split
    · exact Frame.refl _ _
    · exact (updPage_frame _ _ _).mono (by decide)
  have tell : ∀ (u : State) (P : Prop) [Decidable P], Frame [.pages, .mbx, .cnt, .eng, .hst, .out] s u →
      Frame [.pages, .mbx, .cnt, .eng, .hst, .out] s (if P then tellEvent u 0 else u) := by
    intro u P _ h
    split
    · exact Frame.trans h (tellEvent_frame u 0) (fun _ => id) (by decide)
    · exact h
  have mark : ∀ (u : State) (g : Page → Page), Frame [.pages, .mbx, .cnt, .eng, .hst, .out] s u →
      Frame [.pages, .mbx, .cnt, .eng, .hst, .out] s (updPage u p g) :=
    fun u g h => Frame.trans h (updPage_frame u p g) (fun _ => id) (by decide)
  have irq : ∀ (u : State) (P : Prop) [Decidable P], Frame [.pages, .mbx, .cnt, .eng, .hst, .out] s u →
      Frame [.pages, .mbx, .cnt, .eng, .hst, .out] s (if P then u else raise u p 61) := by
    intro u P _ h
    split
    · exact h
    · exact Frame.trans h (raise_frame u p 61) (fun _ => id) (by decide)
  exact irq _ _ (mark _ _ (tell _ _ (log _ _)))

/-- What an expert write adds to a register's own effect: the override log, its interrupts and its messages. -/
theorem afterExpert_frame (s t : State) (p off : Nat) : Frame [.pages, .mbx, .cnt, .eng, .hst, .out] t (afterExpert s t p off) := by
  unfold afterExpert
  split
  · exact Frame.refl _ _
  · refine Frame.foldl _ _ _ _ (fun u f => ?_)
    dsimp only
    split
    · exact Frame.refl _ _
    · exact noteOverride_frame _ _ _ _ _ _

/-! ## Requests -/

theorem overrideCheck_idle (s : State) (p : Nat) (h : (page s p).checking = false) : overrideCheck s p = s := by simp [overrideCheck, h]

/-- Sudric answers a request on this block: it is the master, or the request is not of cascade scope (R501). -/
theorem gate_open (s : State) (m q : Nat) (v : Svc) (args : List Word) (f : State → State) (hq : q < 256) (h1 : mbServed s m = true)
    (h4 : s.cas.master = true ∨ (cascadeScope v.code = false ∧ v.code ≠ 0x80)) :
    gate s m q v args f = match gateStatus s m v args with
      | some (st, o) => reply (oweReply s m q v.code) m q v.code st [] o
      | none => runSvc (oweReply s m q v.code) m q v args f := by
  have h5 : (!s.cas.master && decide (q < 256) && (cascadeScope v.code || v.code == 0x80)) = false := by
    rcases h4 with h | ⟨h, g⟩ <;> simp [h]
    intro _ _; exact g
  have h6 : gateStatus (oweReply s m q v.code) m v args = gateStatus s m v args := by unfold oweReply; split <;> rfl
  have h7 : (oweReply s m q v.code).cas = s.cas := by unfold oweReply; split <;> rfl
  unfold gate
  simp only [h1, h6, h5, h7, Bool.not_true, Bool.false_eq_true, and_false, if_false, show ¬ 2 ^ 16 ≤ q by omega, show ¬ 256 ≤ q by omega, false_and] <;>
    rfl

/-- A request that nothing refuses runs its service on the state that owes its reply, which the master first tells the other blocks of. -/
theorem gate_runs (s : State) (m q : Nat) (v : Svc) (args : List Word) (f : State → State) (hq : q < 256) (h1 : mbServed s m = true)
    (h2 : gateStatus s m v args = none) (h4 : s.cas.master = true ∨ (cascadeScope v.code = false ∧ v.code ≠ 0x80)) :
    gate s m q v args f = runSvc (oweReply s m q v.code) m q v args f := by
  rw [gate_open s m q v args f hq h1 h4, h2]

/-- A service that stays on its block runs at once when no check of the page that it writes is open (R82). -/
theorem runSvc_here (s : State) (m q : Nat) (v : Svc) (args : List Word) (f : State → State)
    (h : v.page.all (fun p => !(page s p).checking) = true) (h4 : cascadeScope v.code = false ∨ ctxScope v.code = true) :
    runSvc s m q v args f = f s := by
  have h5 : (s.cas.master && cascadeScope v.code && !ctxScope v.code) = false := by rcases h4 with g | g <;> simp [g]
  unfold runSvc
  simp only [h5, Bool.false_eq_true, if_false]
  cases hp : v.page with
  | none => rfl
  | some p =>
    simp only
    rw [overrideCheck_idle _ _ (by simpa [hp] using h)]

/-- A request that is refused is answered with the status, and nothing else changes. -/
theorem gate_refuses (s : State) (m q : Nat) (v : Svc) (args : List Word) (f : State → State) (st : Status) (o : Bool) (hq : q < 256)
    (h1 : mbServed s m = true) (h2 : gateStatus s m v args = some (st, o))
    (h4 : s.cas.master = true ∨ (cascadeScope v.code = false ∧ v.code ≠ 0x80)) :
    gate s m q v args f = reply (oweReply s m q v.code) m q v.code st [] o := by
  rw [gate_open s m q v args f hq h1 h4, h2]

theorem mem_fillOwed (q v : Nat) (r : List Word) (l : List (List Word)) : r ∈ fillOwed q v r l := by
  induction l with
  | nil => simp [fillOwed]
  | cons x t ih =>
    simp only [fillOwed]
    split <;> simp [ih]

/-- A reply stands in its mailbox. -/
theorem reply_mem (s : State) (m q v : Nat) (st : Status) (r : List Word) (o : Bool) (h : q < 256) :
    (replyHdr st o r.length q v :: r) ∈ (mbox (reply s m q v st r o) m).replies := by
  unfold reply
  rw [if_neg (by omega), if_neg (by omega)]
  simp [mem_fillOwed]

/-- The header of a reply is the newest of its mailbox. -/
theorem reply_recent (s : State) (m q v : Nat) (st : Status) (r : List Word) (o : Bool) (h : q < 256) :
    (mbox (reply s m q v st r o) m).recent.head? = some (replyHdr st o r.length q v) := by
  unfold reply
  rw [if_neg (by omega), if_neg (by omega)]
  simp

end Sys2Proof.Machine
end

