-- ==== Sys2Proof/WellFormed.lean ====
section
/-!
DEFINITION. Well-formed commands: every operand fits the field that carries it at the boundary of the block.
-/
namespace Sys2Proof

/-- Straps fit their pins (R503). -/
def Straps.wf (x : Straps) : Bool := x.pos < 8 && x.sizeM1 < 8

/-- A register access names a host station and a 10-bit partition (R243). -/
def Acc.wf (a : Acc) : Bool := a.st < 2 && a.part < 1024

/-- A mailbox number is one of 66 (R481). -/
def MbAcc.wf (w : MbAcc) : Bool := w.mb < 66 && (match w.via with
  | .view a => a.wf
  | .page a => a.wf
  | .i3c => true)

/-- A request's fields fit its header (R244). -/
def HomeReq.wf (r : HomeReq) : Bool :=
  r.agent < 64 && r.tag < 4096 && r.part < 1024 && r.line < 2 ^ 39 && r.poison < 256 && r.stash < 64 && r.prio < 4 &&
  (match r.op with
  | .atomic a => a < 256
  | _ => true)

/-- An engine request's fields fit its header and extension slot (R244). -/
def EngOp.wf (r : EngOp) : Bool :=
  r.tag < 4096 && r.ctx < 65536 && r.va < 2 ^ 57 && r.lenM1 < 128 && r.stash < 64 && r.prio < 4 && r.poisons.all (fun p => p < 256)

/-- A register page index. -/
def pageWf (p : Nat) : Bool := p < 64

/-- A command is well formed. -/
def Instr.wf : Instr → Bool
  | .powerOnReset st _ => st.wf
  | .blockReset st _ => st.wf
  | .cascadeLinkInit p peer _ _ _ _ => p < 4 && peer.wf
  | .mpReadyRise p => p < 4
  | .mpReadyFall p => p < 4
  | .mpCreditReturn p _ _ => p < 4
  | .memoryResponse p tag pois => p < 4 && tag < 4096 && pois < 256
  | .memoryReadTimeout p tag => p < 4 && tag < 4096
  | .registerWrite a off _ data => a.wf && off < 2 ^ 27 && data.length ≤ 8
  | .readClear a off _ => a.wf && off < 2 ^ 27
  | .pgCtlWrite a p _ => a.wf && pageWf p
  | .engineRequest port r => port < 32 && r.wf
  | .streamOpen port h desc => port < 32 && h.tag < 4096 && h.ctx < 65536 && desc.length == 6
  | .streamClose port h id => port < 32 && h.tag < 4096 && h.ctx < 65536 && id < 256
  | .hostRequest st _ r node => st < 2 && r.wf && node.all (fun n => n < 65536)
  | .rdShared r => r.wf
  | .rdOwn r => r.wf
  | .upgrade r => r.wf
  | .rdOnce r => r.wf
  | .wrFull r => r.wf
  | .wrPart r => r.wf
  | .wrStash r => r.wf
  | .apertureRead r => r.wf
  | .barrierArrival r => r.wf
  | .barrierLaneDrop r => r.wf
  | .swap r f | .cas r f | .fetchAdd r f | .fetchMin r f | .fetchMax r f | .fetchAnd r f | .fetchOr r f | .fetchXor r f
  | .redAdd r f | .redMin r f | .redMax r f | .redOrd r f | .lockAcq r f | .lockRel r f | .fenceSig r f => r.wf && f < 16
  | .ack a tag line => a < 64 && tag < 4096 && line < 2 ^ 39
  | .snpRsp a line _ _ d => a < 2 ^ 17 && line < 2 ^ 39 && d.status < 256
  | .snpData a line _ pois d => a < 2 ^ 17 && line < 2 ^ 39 && pois < 256 && d.status < 256
  | .evictClean a tag line => a < 64 && tag < 4096 && line < 2 ^ 39
  | .evictDirty a tag line _ pois => a < 64 && tag < 4096 && line < 2 ^ 39 && pois < 256
  | .h2sPush w _ => w.wf
  | .s2hPop w => w.wf
  | .mbLockWrite w _ => w.wf
  | .h2sDbWrite w _ => w.wf
  | .s2hDbClear w _ => w.wf
  | .s2hMaskWrite w _ => w.wf
  | .throttleChange l => l < 8
  | .fuseProgram row bit => row < 4096 && bit < 64
  | .markerReceive lane _ => lane < 32
  | _ => true

end Sys2Proof
end

