-- ==== Sys2Proof/Tests/Slice0.lean ====
section
/-!
SUPPORT. Tests of the model: what WellFormed refuses, worked examples of the manual, one step of commands on small states, and for
every statement states and operands that meet its hypotheses (test_met_ and the name of the statement).
-/
namespace Sys2Proof.Tests
open Sys2Proof Sys2Proof.Machine

set_option Elab.async false

/-! ## Well-formed commands -/

theorem test_wf_strap_position : (Instr.powerOnReset { pos := 8 } true).wf = false := by decide
theorem test_wf_strap_size : (Instr.blockReset { sizeM1 := 8 } true).wf = false := by decide
theorem test_wf_cascade_port : (Instr.cascadeLinkInit 4 {} 1 0xB0 [] 0).wf = false := by decide
theorem test_wf_ready_rise : (Instr.mpReadyRise 4).wf = false := by decide
theorem test_wf_ready_fall : (Instr.mpReadyFall 4).wf = false := by decide
theorem test_wf_credit_return : (Instr.mpCreditReturn 4 1 1).wf = false := by decide
theorem test_wf_memory_tag : (Instr.memoryResponse 0 4096 0).wf = false := by decide
theorem test_wf_memory_poison : (Instr.memoryResponse 0 0 256).wf = false := by decide
theorem test_wf_timeout_port : (Instr.memoryReadTimeout 4 0).wf = false := by decide
theorem test_wf_write_station : (Instr.registerWrite { st := 2 } 0 8 [0]).wf = false := by decide
theorem test_wf_write_offset : (Instr.registerWrite {} (2 ^ 27) 8 [0]).wf = false := by decide
theorem test_wf_write_words : (Instr.registerWrite {} 0 8 [0, 0, 0, 0, 0, 0, 0, 0, 0]).wf = false := by decide
theorem test_wf_read_partition : (Instr.readClear { part := 1024 } 0 8).wf = false := by decide
theorem test_wf_page : (Instr.pgCtlWrite {} 64 0).wf = false := by decide
theorem test_wf_engine_port : (Instr.engineRequest 32 {}).wf = false := by decide
theorem test_wf_engine_length : (Instr.engineRequest 0 { lenM1 := 128 }).wf = false := by decide
theorem test_wf_engine_address : (Instr.engineRequest 0 { va := 2 ^ 57 }).wf = false := by decide
theorem test_wf_descriptor : (Instr.streamOpen 0 {} [0, 0, 0, 0, 0]).wf = false := by decide
theorem test_wf_stream : (Instr.streamClose 0 {} 256).wf = false := by decide
theorem test_wf_stream_tag : (Instr.streamClose 0 { tag := 4096 } 0).wf = false := by decide
theorem test_wf_engine_poison : (Instr.engineRequest 0 { poisons := [0, 256] }).wf = false := by decide
theorem test_wf_host_node : (Instr.hostRequest 0 .rdOnce {} (some 65536)).wf = false := by decide
theorem test_wf_host_station : (Instr.hostRequest 2 .rdOnce {} none).wf = false := by decide
theorem test_wf_agent : (Instr.rdShared { agent := 64 }).wf = false := by decide
theorem test_wf_line : (Instr.wrFull { line := 2 ^ 39 }).wf = false := by decide
theorem test_wf_home_poison : (Instr.wrPart { poison := 256 }).wf = false := by decide
theorem test_wf_stash : (Instr.wrStash { stash := 64 }).wf = false := by decide
theorem test_wf_aop : (Instr.hostRequest 0 .rdOnce { op := .atomic 256 } none).wf = false := by decide
theorem test_wf_format : (Instr.redAdd {} 16).wf = false := by decide
theorem test_wf_lock_format : (Instr.lockAcq {} 16).wf = false := by decide
theorem test_wf_ack : (Instr.ack 64 0 0).wf = false := by decide
theorem test_wf_snoop_answer : (Instr.snpRsp (2 ^ 17) 0 true false {}).wf = false := by decide
theorem test_wf_snoop_data : (Instr.snpData 0 0 0 256 {}).wf = false := by decide
theorem test_wf_snoop_status : (Instr.snpRsp 0 0 true false { status := 256 }).wf = false := by decide
theorem test_wf_evict_clean : (Instr.evictClean 0 4096 0).wf = false := by decide
theorem test_wf_evict_dirty : (Instr.evictDirty 0 0 (2 ^ 39) 0 0).wf = false := by decide
theorem test_wf_mailbox : (Instr.h2sPush { mb := 66 } 0).wf = false := by decide
theorem test_wf_mailbox_way : (Instr.mbLockWrite { via := .page { st := 2 } } 0).wf = false := by decide
theorem test_wf_throttle : (Instr.throttleChange 8).wf = false := by decide
theorem test_wf_fuse_row : (Instr.fuseProgram 4096 0).wf = false := by decide
theorem test_wf_fuse_bit : (Instr.fuseProgram 0 64).wf = false := by decide
theorem test_wf_lane : (Instr.markerReceive 32 {}).wf = false := by decide
theorem test_wf_accepts : (Instr.wrFull { line := 2 ^ 39 - 1, agent := 63, tag := 4095, part := 1023, poison := 255, stash := 63, prio := 3 }).wf = true := by decide

/-! ## Small states -/

/-- An open block of a cascade of one: 16 pages of memory behind port 0 belong to the root partition, host station 0 is up, the
engine port is up, and every page with an ENABLE is enabled. -/
def base : State :=
  { boot := { stage := 9, running := true }
    cas := { st := 2, ranges := [(0, { ctl := 0x1000010 })] }
    mps := [(0, { en := true, ready := true, cmdCr := 8, lineCr := 8 })]
    hst := [(0, { st := 2, cfg := 0x1000, held := [(0, 8), (1, 8), (2, 8), (3, 8), (4, 8)] })]
    eng := { link := { st := 2, cfg := 1, held := [(0, 8), (1, 8), (2, 8), (3, 8), (4, 8)] } }
    parts := [(0, { st := .open_ })]
    pages := [(10, { enable := true }), (11, { enable := true }), (12, { enable := true }), (14, { enable := true }), (16, { enable := true }),
              (17, { enable := true }), (20, { enable := true }), (24, { enable := true })] }

/-- The same with one page otherwise. -/
def withPage (p : Nat) (x : Page) : State := { base with pages := tset base.pages p x }

/-- Host station 0, root partition. -/
def root : Acc := {}

/-- The page under expert control. -/
def expert (p : Nat) : State := withPage p { enable := true, expert := true }

/-! ## Hypotheses of the statements: registers -/

theorem test_met_EmptyQueueTick : State.reset.pending = [] ∧ State.reset.clk.stopped = false ∧ State.reset.clk.advancing = false ∧
    State.reset.hom.relayQ = [] ∧ State.reset.hom.notices = [] ∧ State.reset.hom.setWait = [] ∧ State.reset.lan.wdWait = [] ∧
    State.reset.spn.ingWait = [] ∧ State.reset.lmp.queues = [] ∧ State.reset.det.kindle ≠ 1 ∧
    (let s : State := { base with det := { kindle := 1, kindlePulse := some 0 }, clk := { cyc := 11, tickStart := 11 } }
     s.clk.stopped = false ∧ s.clk.advancing = false ∧ s.hom.relayQ = [] ∧ s.hom.notices = [] ∧ s.hom.setWait = [] ∧ s.lan.wdWait = [] ∧ s.spn.ingWait = [] ∧
     s.lmp.queues.all (fun e => e.2.objPend.isNone) = true ∧ s.det.kindle = 1 ∧ releaseAt s = some 16 ∧ s.clk.tickStart < 16 ∧ s.clk.cyc ≤ 16 ∧ 16 < s.clk.tickStart + 8) ∧
    ({ clk := { advancing := true } } : State).clk.advancing = true ∧ ({ clk := { stopped := true } } : State).clk.stopped = true ∧
    advanceEvents (tickPass base) = [] ∧ advanceEvents (tickPass { base with clk := { cyc := 2000 } }) ≠ [] := by decide +kernel
theorem test_met_OnlyFault : homeReqOf (.rdOnce { line := npaLines }) = some { line := npaLines } ∧ npaLines ≤ 2 ^ 39 ∧
    homeReqOf (.wrFull { line := npaLines - 1 }) = some { line := npaLines - 1 } ∧ npaLines - 1 < npaLines := by decide +kernel
theorem test_met_MemoryCanonical : MemOk base ∧ step base = .next (tickPass base) :=
  ⟨by unfold MemOk; decide +kernel, by unfold step; rfl⟩
theorem test_met_QueueUntouched : ∃ t, exec (.throttleChange 3) base = .next t :=
  ⟨_, by unfold exec Machine.execThrottleChange; rfl⟩
theorem test_met_RegisterWriteHolds : (0x0E, 0x200, mask 7 0 ||| mask 29 16) ∈ rwRegs ∧ UnitAdmits (expert 0x0E) root 0x0E 0x200 := by
  unfold UnitAdmits; decide +kernel
theorem test_met_RefusedAccess : accUp base root.st = true ∧ 0x8F0000 < 2 ^ 24 ∧ mayReach base 1 (regPlace 0x010200) = false ∧ root.st < 2 ∧
    0x010200 < 2 ^ 24 := by decide +kernel
theorem test_met_ExpertGate : accUp base 0 = true ∧ root.part = 0 ∧ rootOpen base = true ∧ 2 < 64 ∧ isPage 2 = true ∧ present base 2 = true ∧
    0x200 ≤ 0x248 ∧ 0x248 % 8 = 0 ∧ ownRow 2 0x248 = false ∧ (page base 2).expert = false ∧ openReg 2 0x248 = false ∧
    root.st < 2 ∧ regDefined 2 0x248 = true ∧ regDefined 2 0x8000 = false ∧ ownRow 2 0x8000 = false ∧ openReg 2 0x8000 = false ∧
    ¬ (2 = pMBX ∧ (mbPlace 0x248).any (fun x => x.2 == 0x018) = true) := by decide +kernel
theorem test_met_ReadClears : accUp base root.st = true ∧ root.st < 2 ∧ mayReach base root.part (.page 0x0A 0x260) = true := by decide +kernel
theorem test_met_InterruptBlock : HeadAdmits base root 24 := by unfold HeadAdmits; decide +kernel
theorem test_met_PageControl : HeadAdmits base root 1 ∧ bitOf 3 2 = false ∧ bitOf 4 2 = true ∧ unfenceable 1 = true := by
  unfold HeadAdmits; decide +kernel
theorem test_met_FenceByRegister : HeadAdmits base root 12 ∧ bitOf 4 2 = true ∧ unfenceable 12 = false := by unfold HeadAdmits; decide +kernel
theorem test_met_OverrideChecked : (page (withPage 2 { checking := true }) 2).checking = true := by decide +kernel
theorem test_met_I3cAccess : 2 ≤ base.boot.stage ∧ (mbox base 64).h2s.length < 16 ∧ base.clk.stopped = false := by decide +kernel

/-! ## The data port -/

theorem test_met_DataPortAddress : HeadAdmits base root 11 ∧ (page base 11).dpWait = [] ∧ (page base 11).dpMode = 0 ∧ dpForeign base root 11 = false ∧
    (page (withPage 11 { dpMode := 2, dpClaim := some 0 }) 11).dpMode ≠ 0 ∧ dpForeign (withPage 11 { dpMode := 2, dpClaim := some 0 }) root 11 = false ∧
    HeadAdmits (withPage 11 { dpMode := 1, dpClaim := some 1 }) root 11 ∧ dpForeign (withPage 11 { dpMode := 1, dpClaim := some 1 }) root 11 = true ∧
    (page (withPage 11 { dpMode := 1, dpClaim := some 1 }) 11).dpWait = [] := by
  unfold HeadAdmits; decide +kernel
/-- The program store selected, idle, under expert control. -/
def storePort : Page := { enable := true, expert := true, dpAddr := 0x0100000000000000 }
theorem test_met_DataPortStart : HeadAdmits (withPage 11 storePort) root 11 ∧ (page (withPage 11 storePort) 11).dpWait = [] ∧ (page (withPage 11 storePort) 11).dpMode = 0 ∧
    dpForeign (withPage 11 storePort) root 11 = false ∧ fld (0x4000000001 : Word) 1 0 = 1 ∧ fld (2 : Word) 1 0 = 2 ∧ fld (3 : Word) 1 0 = 3 := by
  unfold HeadAdmits; decide +kernel
theorem test_met_DataPortStart_array : dpStartOk (withPage 11 storePort) 11 1 ∧ dpStartOk (withPage 11 storePort) 11 2 :=
  ⟨⟨{ size := 65536, write := true, expert := true, inside := true }, by decide +kernel⟩,
   ⟨{ size := 65536, write := true, expert := true, inside := true }, by decide +kernel⟩⟩
theorem test_met_DataPortEnd : HeadAdmits (withPage 11 { storePort with dpMode := 2, dpClaim := some 0, dpValid := [0] }) root 11 ∧
    (page (withPage 11 { storePort with dpMode := 2, dpClaim := some 0, dpValid := [0] }) 11).dpWait = [] ∧
    dpForeign (withPage 11 { storePort with dpMode := 2, dpClaim := some 0, dpValid := [0] }) root 11 = false ∧ fld (0 : Word) 1 0 = 0 ∧
    bitOf (0 : Word) 3 = false ∧ bitOf (8 : Word) 3 = true ∧
    (page (withPage 11 { storePort with dpMode := 2, dpClaim := some 0, dpValid := [0] }) 11).dpCommitting = false ∧
    dpNow (withPage 11 { storePort with dpMode := 2, dpClaim := some 0, dpValid := [0] }) 11 =
      some { size := 65536, write := true, expert := true, inside := true } := by
  unfold HeadAdmits; decide +kernel
theorem test_met_DataPortWindow_read : (page (withPage 11 { storePort with dpMode := 1 }) 11).dpReady = false ∧
    dpNow (withPage 11 { storePort with dpMode := 1 }) 11 = some { size := 65536, write := true, expert := true, inside := true } ∧
    (page (withPage 11 { storePort with dpMode := 1 }) 11).dpOff < 65536 ∧
    (let s := withPage pCTL { expert := true, dpAddr := 0x0200000000000000, dpMode := 1 }
     dpNow s pCTL = some { size := 2 ^ 46, write := true, mem := true, expert := true } ∧ (page s pCTL).dpOff < 2 ^ 46 ∧ dpRefused s 0 = none ∧
     lineCurrent s (kArray pCTL) 0 = true ∧ lineCurrent s (kArray pCTL) 1 = true) := by decide +kernel
theorem test_met_DataPortWindow_access : HeadAdmits base root 11 ∧ 0x1C0 + 32 < 0x200 ∧ sizeOk (.page 11 0x1C0) 0x1C0 32 = true ∧
    dpForeign base root 11 = false ∧ (page (withPage 11 { storePort with dpMode := 1, dpReady := true }) 11).dpReady = true ∧
    0x1F0 + 8 < 0x200 ∧ 0x1F0 % 8 = 0 ∧ (page (withPage 11 { storePort with dpMode := 2 }) 11).dpMode = 2 ∧ (page base 11).dpWait = [] := by
  unfold HeadAdmits; decide +kernel
theorem test_met_DataPortWindow_last :
    (let s := withPage 11 { storePort with dpMode := 1, dpReady := true, dpClaim := some 0, dpCtl := 0x2000D }
     HeadAdmits s root 11 ∧ (page s 11).dpWait = [] ∧ dpForeign s root 11 = false ∧ (page s 11).dpReady = true ∧ (page s 11).dpPois = false ∧
     bitOf (page s 11).dpCtl 2 = true ∧ fld (page s 11).dpCtl 47 32 = 0) ∧
    (let s := withPage 11 { storePort with dpMode := 2, dpClaim := some 0 }
     HeadAdmits s root 11 ∧ (page s 11).dpWait = [] ∧ dpForeign s root 11 = false ∧ (page s 11).dpMode = 2 ∧ (page s 11).dpCommitting = false ∧
     (page s 11).dpValid = [] ∧ dpNow s 11 = some { size := 65536, write := true, expert := true, inside := true } ∧ (page s 11).expert = true) := by
  unfold HeadAdmits; decide +kernel
theorem test_met_DataPortCommit : (page (withPage pXFM { dpCommitting := true, dpCommitArr := 1, dpCommit := [(8 * 8191, 7)] }) pXFM).dpWait = [] ∧
    (page (withPage pXFM { dpCommitting := true, dpCommitArr := 1, dpCommit := [(8 * 8191, 7)] }) pXFM).dpCommit = [(8 * 8191, 7)] ∧
    (page (withPage pCTL { dpCommitting := true, dpCommitArr := 1, dpCommit := [(0, 7)] }) pCTL).dpCommitting = true := by decide +kernel
theorem test_met_InterruptMessages : irqPend (page (withPage 24 { irqEn := 2, irqVec := 0x100 }) 24) = 0 ∧
    irqPend (page (raise (withPage 24 { irqEn := 2, irqVec := 0x100 }) 24 1) 24) ≠ 0 ∧
    (page (withPage 24 { irqEn := 3, irqRaw := 3 }) 24).irqRaw &&& ~~~ (1 : Word) &&& 3 ≠ 0 ∧ (3 : Word) &&& (3 &&& irqMask 24) ≠ 0 := by decide +kernel

/-! ## The beacon -/

/-- The base with this beacon. -/
def withBcn (b : Bcn) : State := { base with bcn := b }
theorem test_met_BeaconPulseLocked : live (withBcn { mode := .locked }) = true ∧ fromSpan (withBcn { mode := .locked }) = false ∧
    missBy 2064 (periodNom (withBcn { mode := .locked })) ≤ bcnWin (withBcn { mode := .locked }) ∧
    (let s := withBcn { mode := .locked, word := some { next := 9 }, missRow := 2 }
     s.bcn.word = some { next := 9 } ∧ (9 : Word) ≠ s.bcn.count + 1 ∧ 2 ≤ s.bcn.missRow ∧ s.clk.cyc ≤ 2064 ∧ s.bcn.expected + periodNom s = periodNom s) ∧
    (let s := withBcn { mode := .locked, word := some { next := 1 } }
     s.bcn.word = some { next := 1 } ∧ (1 : Word) = s.bcn.count + 1 ∧ s.bcn.missRow < 2) ∧
    bcnWin (withBcn { mode := .coast }) < missBy 2065 (periodNom (withBcn { mode := .coast })) ∧ (withBcn { mode := .locked }).bcn.cfgNext = none := by
  decide +kernel
theorem test_met_BeaconPulseDark : live base = true ∧ fromSpan base = false ∧ base.bcn.mode = .dark ∧ base.clk.cyc ≤ 0 := by decide +kernel
theorem test_met_BeaconWords : beaconWordOf [1, 2, 3] = none ∧
    beaconWordOf [1, 0, 0, 0, 0, 0, 0, 0, 0, 0, 0, 0] = none ∧ live base = true ∧ fromSpan base = false := by decide +kernel
theorem test_met_BeaconCoasts : (withBcn { mode := .locked }).bcn.expected + periodNom (withBcn { mode := .locked }) + bcnWin (withBcn { mode := .locked }) <
    darkAt (withBcn { mode := .locked }) ∧ live (withBcn { mode := .locked }) = true ∧ base.bcn.mode = .dark ∧ base.bcn.cfgNext = none := by decide +kernel
theorem test_met_BeaconLoss : live base = true ∧ (withBcn { mode := .coast }).bcn.mode ≠ .dark ∧ (withBcn { mode := .resync, phaseRef := some 5 }).bcn.phaseRef = some 5 := by
  decide +kernel
theorem test_met_ResyncInterrupts : (withBcn { irqStep := 2 }).bcn.irqStep ≠ 0 ∧ (withBcn { irqStep := 2 }).bcn.irqStep ≠ 1 ∧
    etNow (withBcn { irqStep := 2 }) ≤ (withBcn { irqStep := 2 }).bcn.irqAt ∧
    (let s : State := { withBcn { irqStep := 2 } with clk := { cyc := 8 } }
     s.bcn.irqStep ≠ 0 ∧ s.bcn.irqAt < etNow s) := by decide +kernel
theorem test_met_BeaconRegisters : UnitAdmits (expert pBCN) root pBCN 0x200 ∧ fld (0x50 : Word) 1 0 = 0 ∧ fld (0x50 : Word) 6 4 ≤ 5 ∧ 2 ≤ fld (2 : Word) 1 0 ∧
    300 ≤ fld (300 : Word) 19 0 ∧ fld (35200 : Word) 19 0 ≤ 35200 ∧ fld (0x4B0012C : Word) 35 20 ≤ fld (0x4B0012C : Word) 19 0 / 4 ∧
    fld (0x4C0012C : Word) 19 0 / 4 < fld (0x4C0012C : Word) 35 20 ∧ fld (299 : Word) 19 0 < 300 ∧ 35200 < fld (35201 : Word) 19 0 := by
  unfold UnitAdmits; decide +kernel

/-! ## Counters and mailboxes -/

theorem test_met_CounterRegisters : UnitAdmits (expert pCNT) root pCNT 0x200 ∧ 63 < 64 ∧ bitOf (0x1000 : Word) 12 = true ∧
    isSource (expert pCNT) (fld (0x1FFF : Word) 11 0) = false ∧ isSource (expert pCNT) (fld (0x1180 : Word) 11 0) = true ∧ bitOf (1 : Word) 1 = false ∧
    bitOf (2 : Word) 1 = true := by unfold UnitAdmits; decide +kernel
theorem test_met_TenantCounters : root.st < 2 ∧ accUp base 0 = true ∧ mayReach base 0 (.view 63 0) = true ∧ 7 < 8 ∧ fld (10 : Word) 7 0 ≤ 10 ∧
    (tget (part base 63).tc 7).src ≠ fld (10 : Word) 7 0 ∧ 10 < fld (11 : Word) 7 0 ∧
    bt (withBcn { count := 4096 }) / 4096 ≠ (part (withBcn { count := 4096 }) 0).tcPub.toNat / 4096 := by decide +kernel
/-- The base with one mailbox. -/
def withBox (m : Nat) (b : Mailbox) : State := { base with mbx := { boxes := [(m, b)] } }
theorem test_met_MailboxWords : MbAdmits base { mb := 63, via := .view {} } ∧ MbAdmits base { mb := 65, via := .page {} } ∧ MbAdmits base { mb := 64, via := .i3c } ∧
    (mbox (withBox 0 { h2s := List.replicate 15 0 }) 0).h2s.length < 16 ∧ 16 ≤ (mbox (withBox 0 { h2s := List.replicate 16 0 }) 0).h2s.length ∧
    MbAdmits (withBox 0 { h2s := List.replicate 16 0, s2h := [5, 6] }) { mb := 0, via := .page {} } ∧
    (mbox (withBox 0 { s2h := [5, 6] }) 0).s2h = [5, 6] ∧ (mbox base 0).s2h = [] := by unfold MbAdmits ViaOwn; decide +kernel
theorem test_met_MailboxDoorbells : MbAdmits (withBox 0 { s2hDb := 3 }) { mb := 0, via := .view {} } := by unfold MbAdmits ViaOwn; decide +kernel
theorem test_met_MailboxLock : MbAdmits (withBox 0 { held := true, owner := 7 }) { mb := 0, via := .view {} } ∧
    MbAdmits (withBox 65 { held := true, owner := 65535 }) { mb := 65, via := .page {} } := by unfold MbAdmits ViaOwn; decide +kernel
theorem test_met_MailboxFlush : root.st < 2 ∧ accUp base 0 = true ∧ 65 < 66 ∧ mayReach base 0 (.page pMBX 0x1000) = true := by decide +kernel
/-- A mailbox with a complete reply of 2 words behind a FIFO of 14. -/
def fullBox : Mailbox := { s2h := List.replicate 14 0, replies := [[0x200010001, 9]], h2s := [1], h2sTimer := some 0, s2hTimer := some 0 }
theorem test_met_MailboxReplies : sudricServes (withBox 0 fullBox) 0 = true ∧ (mbox (withBox 0 fullBox) 0).replies = [[0x200010001, 9]] ∧
    owed [0x200010001, 9] = false ∧ (mbox (withBox 0 fullBox) 0).s2h.length + 2 ≤ 16 ∧ fld (0x200010001 : Word) 47 32 ≠ 0xFFFF ∧
    (mbox (withBox 65 fullBox) 65).h2sTimer = some 0 ∧ (mbox (withBox 65 fullBox) 65).s2hTimer = some 0 ∧ btDue (withBox 65 fullBox) (0 : Word).toNat = true := by
  decide +kernel
theorem test_met_Deadlines : (mbox (withBox 3 fullBox) 3).h2sTimer = some 0 ∧ btDue (withBox 3 fullBox) (0 : Word).toNat = true ∧
    (mbox (withBox 3 { h2sTimer := some 1 }) 3).h2sTimer = some 1 ∧ btDue (withBox 3 { h2sTimer := some 1 }) (1 : Word).toNat = false := by decide +kernel

/-! ## Start-up -/

theorem test_met_LifecycleOfFuses : bitOf (tget ([(rowLife, 4)] : Tbl Word) rowLife) 2 = true ∧ bitOf (tget ([(rowLife, 2)] : Tbl Word) rowLife) 1 = true ∧
    bitOf (tget ([(rowLife, 2)] : Tbl Word) rowLife) 2 = false ∧ bitOf (tget ([(rowLife, 1)] : Tbl Word) rowLife) 0 = true ∧
    bitOf (tget ([(rowLife, 1)] : Tbl Word) rowLife) 1 = false ∧ bitOf (tget ([] : Tbl Word) rowLife) 0 = false := by decide +kernel
/-- The block at a stage of its start. -/
def atStage (n : Nat) : State := { base with boot := { stage := n, running := decide (4 ≤ n), memWait := 1 } }
theorem test_met_RomStage : (atStage 1).boot.stage = 1 ∧ (atStage 1).clk.stopped = false ∧ (atStage 2).boot.stage = 2 ∧
    [pMOV].find? unfenceable = none ∧ present (atStage 2) pMOV = true ∧ 55 < 56 ∧ [pMOV, pCTL].find? unfenceable = some pCTL := by decide +kernel

theorem test_met_CascadeFormation : 2 ≤ (atStage 2).boot.stage ∧ 3 < 4 ∧
    (let s : State := { atStage 5 with cas := { st := 0 } }
     s.boot.running = true ∧ 5 ≤ s.boot.stage ∧ s.boot.stage ≠ 0xF ∧ s.cas.st ≤ 1 ∧ joinErr s = none ∧ rangesOk s = true) ∧
    (let s : State := { atStage 5 with cas := { st := 1 }, bcn := { count := 50000 } }
     s.cas.st ≠ 2 ∧ s.cas.st ≠ 3 ∧ btDue s 50000 = true ∧ 2 ≤ s.boot.stage ∧ s.boot.stage ≠ 0xF) := by decide +kernel
theorem test_met_StationLinkUp : isStation pENG = true ∧ enabled base pENG = true ∧ fenced base pENG = false ∧
    (linkOf { base with eng := {} } pENG).st = 0 ∧ (linkOf { base with eng := { link := { st := 1 } } } pENG).st = 1 := by decide +kernel
theorem test_met_StationLinkDown : isStation pHST0 = true ∧ (linkOf base pHST0).st ≠ 0 ∧ Idle base := by unfold Idle; decide +kernel
theorem test_met_MemoryPortReady : (tget base.mps 0).present = true ∧ (tget base.mps 0).en = true ∧ fenced base (pNMP0 + 0) = false ∧
    present base (pNMP0 + 0) = true ∧ (tget base.mps 0).ready = true ∧ (tget base.mps 0).reads = [] ∧
    (let s : State := { base with mps := [(3, { en := true })] }
     (tget s.mps 3).present = true ∧ (tget s.mps 3).en = true ∧ fenced s (pNMP0 + 3) = false ∧ present s (pNMP0 + 3) = true ∧
     (tget s.mps 3).ready = false ∧ s.hom.waiters = [] ∧ s.hom.setWait = []) := by decide +kernel
theorem test_met_StartWaits : (atStage 8).boot.running = true ∧ 5 ≤ (atStage 8).boot.stage ∧ (atStage 8).boot.stage < 9 ∧ isStation pHST1 = true ∧
    linkUp (atStage 8) pHST1 = false ∧ (atStage 8).boot.memWait ≠ 0 ∧
    (let s : State := { atStage 5 with bcn := { count := 1 } }
     btDue s (s.boot.step6Count + w64 s.boot.memWait).toNat = true ∧ (∀ i, i < 4 → (tget s.mps i).reads = []) ∧
     present s (pNMP0 + 1) = true ∧ (tget s.mps 1).present = true ∧ fenced s (pNMP0 + 1) = false ∧ linkUp s (pNMP0 + 1) = false) := by decide +kernel
/-- The block waits for nothing but its opening. -/
def ready : State := { base with boot := { stage := 8, running := true, attReady := [0], ungated := [16, 17, 18, 21, 22, 23] } }
theorem test_met_RootOpens : (atStage 8).boot.stage = 8 ∧ 1 ≠ ({ base with cas := { sizeM1 := 1 } } : State).cas.pos ∧
    1 < blocks { base with cas := { sizeM1 := 1 } } ∧ ({ base with cas := { sizeM1 := 1 } } : State).cas.master = true ∧ base.boot.running = true ∧ mayOpen ready = true ∧ retiredAt ready = none ∧
    mayOpen { ready with fuses := { lifecycle := .retired } } = true ∧ retiredAt { ready with fuses := { lifecycle := .retired } } = some 0 := by decide +kernel
theorem test_met_UnitReset : UnitAdmits (expert pCTL) root pCTL 0x220 ∧ UnitAdmits (expert pCTL) root pCTL 0x228 ∧
    (let s : State := { expert pCTL with pages := tset (expert pCTL).pages pMOV { fence := true, enable := true } }
     let v : Word := w64 (256 + pMOV)
     UnitAdmits s root pCTL 0x228 ∧ bitOf v 8 = true ∧ s.boot.urBusy = false ∧ resettable.contains (fld v 7 0) = true ∧ present s (fld v 7 0) = true ∧
     fenced s (fld v 7 0) = true) ∧
    (let s : State := { base with boot := { base.boot with urBusy := true, urPage := pXFM } }
     s.boot.urBusy = true ∧ resettable.contains s.boot.urPage = true) := by unfold UnitAdmits; decide +kernel
theorem test_met_PowerAndTest : 2 ≤ base.boot.stage ∧ fuseRefused base rowLife 0 = false ∧
    fuseRefused { base with fuses := { lifecycle := .retired } } rowLife 0 = true ∧ base.fuses.lifecycle ≠ .debug ∧
    ({ base with fuses := { lifecycle := .debug } } : State).fuses.lifecycle = .debug := by decide +kernel

/-! ## Homes -/

/-- A request of host station 0 to the last line of the first range. -/
def hreq : HomeReq := { op := .rdOnce, agent := 0, origin := .host 0, line := 16 * 32768 - 1 }
/-- The base with this directory entry and transaction of the line. -/
def withLine (d : DirEntry) (x : Option Txn) : State := { base with hom := { dir := [(hreq.line, d)], txns := [(hreq.line, x)] } }
theorem test_met_HomeReads : HomeQuiet base hreq 0 ∧ dirOf base hreq.line = {} ∧ hreq.line ∉ base.hom.aluLines ∧ isCaching base 0 = true ∧ roomFor base hreq = .ok ∧
    hreq.node = none := by
  unfold HomeQuiet; decide +kernel
theorem test_met_HomeReads_upgrade :
    (let s : State := { base with hom := { dir := [(hreq.line, { st := .shared (agentsVec [0]) })] } }
     HomeQuiet s hreq 0 ∧ dirOf s hreq.line = { st := .shared (agentsVec [hreq.agent]) } ∧ hreq.agent < 24 ∧ hreq.node = none ∧ isCaching s 0 = true) := by
  unfold HomeQuiet; decide +kernel
/-- A decode aperture, with slot 0 taken by an ember. -/
def aperture : State :=
  { base with tir := { decodeBase := 0x4000000000, farBase := 0x800000, farUnits := 8, embers := [(0, { st := .emberMx, units := 2, slot := 0 })] } }
theorem test_met_ApertureReads : live aperture = true ∧ homeHere aperture (0x4000000000 / 128) = true ∧ hreq.origin = .host 0 ∧ 0x4000000000 / 128 < npaLines ∧ trackerFree aperture { hreq with line := 0x4000000000 / 128 } = true ∧
    apertureSlot aperture (0x4000000000 / 128 * 128) = some 0 ∧ fenced aperture pTIR = false ∧
    emberOfSlot aperture 0 = some (0, { st := .emberMx, units := 2, slot := 0 }) ∧ (∀ e, e ∈ tsome aperture.tir.moves → e.2.step ≠ .withdraw) := by decide +kernel
theorem test_met_HomeWrites : HomeQuiet base { hreq with op := .wrFull } 0 ∧ dirOf base hreq.line = {} ∧ stashAgent base { hreq with stash := 25 } = none ∧
    (let s : State := { base with hom := { stashMask := [(0, 0x10000)] } }
     HomeQuiet s { hreq with stash := 17 } 0 ∧ stashAgent s { hreq with stash := 17 } = some 16 ∧ stashAllowed s { hreq with stash := 17 } = true ∧
     roomFor s { hreq with stash := 17 } = .ok ∧ stashAllowed base { hreq with stash := 17 } = false) := by unfold HomeQuiet; decide +kernel
/-- An atomic on the last element of 8 bytes. -/
def areq : HomeReq := { hreq with op := .atomic 0x27, mask := 0xFF000000000000000000000000000000, data := 5 <<< 960 }
theorem test_met_HomeAtomics : elemAtomic (.fetchAdd areq 7) = some (areq, 2, 7) ∧ HomeQuiet base areq 0 ∧ dirOf base areq.line = {} ∧
    aopRefused (16 * 2 + 7) areq.mask (linePois base areq.line) = none ∧ strictRefused base (16 * 2 + 7) = false := by unfold HomeQuiet; decide +kernel
theorem test_met_AtomicValues : 7 < 8 ∧ 2 ^ 64 - 1 < 2 ^ (8 * fmtBytes 7) ∧ 127 < 2 ^ (8 * fmtBytes 0) ∧ 6 % 2 = 0 := by decide +kernel
theorem test_met_HomeLocks : HomeQuiet base areq 0 ∧ elems areq.mask 8 = [120] ∧ aopRefused 0xC7 areq.mask (linePois base areq.line) = none ∧
    aopRefused 0xD7 areq.mask (linePois base areq.line) = none := by unfold HomeQuiet; decide +kernel
theorem test_met_LockRules : 2 / 2 % 2 ^ 15 ≠ 0 ∧ 1 / 2 % 2 ^ 15 = 0 ∧ 1 % 2 = 1 ∧ 1 / 2 ^ 16 = 65535 / 2 ^ 16 ∧ (2 ^ 64 - 65535) % 2 = 1 ∧
    (2 ^ 64 - 65535) / 2 ^ 16 ≠ 65536 / 2 ^ 16 := by decide
/-- A signal to the record at the start of the line, and a barrier operation on it. -/
def sreq (v : Nat) : HomeReq := { hreq with op := .atomic 0xE7, mask := 0xFF, data := BitVec.ofNat 1024 v }
def breq (v : Nat) : HomeReq := { hreq with op := .atomic 0xE7, mask := 0xFF00, data := BitVec.ofNat 1024 (v * 2 ^ 64), ctx := some 3 }
theorem test_met_FenceSignals : HomeQuiet base (sreq 1) 0 ∧ elems (sreq 1).mask 8 = [0] ∧ 0 % 64 = 0 ∧ aopRefused 0xE7 (sreq 1).mask (linePois base (sreq 1).line) = none ∧
    bytesPois base ((sreq 1).line * 128 + 0) 16 = false ∧ recKind base ((sreq 1).line * 128 + 0) = 0 ∧
    (let a := (sreq 1).line * 128 + 0
     0 < (w64 (elemAt (sreq (2 ^ 63 - 1)).data 8 0) - recValue base a).toNat ∧ (w64 (elemAt (sreq (2 ^ 63 - 1)).data 8 0) - recValue base a).toNat < 2 ^ 63 ∧
     2 ^ 63 ≤ (w64 (elemAt (sreq (2 ^ 63)).data 8 0) - recValue base a).toNat ∧ w64 (elemAt (sreq 0).data 8 0) = recValue base a) := by
  unfold HomeQuiet; decide +kernel
/-- A bound barrier of 8 lanes on the record of that line. -/
def bar8 : Bar := { npa := hreq.line * 128, live := 8, pending := 8, regs := [{ ctx := 3, reg := 8 }] }
def barrier : State := wrWord (wrWord { base with fnc := { bars := [(0, some bar8)] } } (hreq.line * 128) 1) (hreq.line * 128 + 56) 1
theorem test_met_Barriers : HomeQuiet barrier (breq (8 + 3 * 2 ^ 48 + 2 ^ 22)) 0 ∧ dirOf barrier hreq.line = {} ∧ elems (breq 8).mask 8 = [8] ∧ 8 % 64 = 8 ∧
    aopRefused 0xE7 (breq 8).mask (linePois barrier hreq.line) = none ∧ (breq 8).ctx.isSome = true ∧ bytesPois barrier (hreq.line * 128) 64 = false ∧
    (let w := barWord (breq (8 + 3 * 2 ^ 48 + 2 ^ 22)) false 8
     fld w 20 0 ≠ 0 ∧ fld w 47 35 = 0 ∧ bitOf (rdWord barrier (hreq.line * 128 + 8 / 64 * 64)) 0 = true ∧ recKind barrier (hreq.line * 128 + 8 / 64 * 64) = 1 ∧
     barAt barrier (hreq.line * 128 + 8 / 64 * 64) = some (0, bar8) ∧ (if bitOf w 22 then none else some (fld w 34 23)) = (none : Option Nat)) := by
  unfold HomeQuiet; decide +kernel
theorem test_met_Barriers_apply : barApply barrier bar8 8 false 3 none = .ok { bar8 with pending := 0, regs := [{ ctx := 3, reg := 16, arr := 8 }] } ∧
    barApply barrier bar8 8 true 3 none = .ok { bar8 with pending := 0, live := 0 } ∧ barApply barrier bar8 7 true 3 none = .ok { bar8 with pending := 1, live := 1 } := by
  decide +kernel
/-- A session of two contributors, 16 counts a window and a grace of 8. -/
def sess : Session := { fmt := 5, n := 2, target := 100, lines := 2, winLen := 16, grace := 8, recNpa := 64 }
/-- The base with this session and these lines of its store. -/
def withSess (l : List RedLine) (count : Word) : State := { base with hom := { sessions := [(255, some sess)], redLines := l }, bcn := { count := count } }
theorem test_met_OrderedReductions :
    (let s := withSess [] 23
     let r : HomeReq := { hreq with line := 101, contrib := some (0, 255, 1), stamp := 15, mask := 0xF }
     live s = true ∧ homeHere s r.line = true ∧ r.line < npaLines ∧ s.ras.rebal = [] ∧ tget s.hom.sessions 255 = some sess ∧ 5 % 16 = sess.fmt ∧
     elemMask (fmtBytes sess.fmt) (elems r.mask (fmtBytes sess.fmt)) = r.mask ∧ 1 < sess.n ∧ sess.target ≤ r.line ∧ r.line < sess.target + sess.lines ∧
     s.hom.redLines = [] ∧ btDue s (winEndOf sess.winLen r.stamp + sess.grace) = false ∧ elems r.mask (fmtBytes sess.fmt) ≠ []) := by decide +kernel
/-- A line of that session whose combine has begun. -/
def redBegun : RedLine := { sess := 255, line := 101, win := 16, done := true }
theorem test_met_OrderedReductions_late :
    (let s := withSess [redBegun] 23
     let r : HomeReq := { hreq with line := 101, contrib := some (0, 255, 1), stamp := 15, mask := 0xF }
     live s = true ∧ homeHere s r.line = true ∧ r.line < npaLines ∧ s.ras.rebal = [] ∧ tget s.hom.sessions 255 = some sess ∧ 5 % 16 = sess.fmt ∧
     elemMask (fmtBytes sess.fmt) (elems r.mask (fmtBytes sess.fmt)) = r.mask ∧ 1 < sess.n ∧ sess.target ≤ r.line ∧ r.line < sess.target + sess.lines ∧
     redLineOf s 255 r.line (winEndOf sess.winLen r.stamp) = some redBegun ∧ elems r.mask (fmtBytes sess.fmt) ≠ [] ∧ sess.recNpa % 64 = 0 ∧
     elems 0 (fmtBytes sess.fmt) = [] ∧ elemMask (fmtBytes sess.fmt) (elems 0 (fmtBytes sess.fmt)) = 0) := by decide +kernel
theorem test_met_OrderedReductions_grace :
    (let l : RedLine := { sess := 255, line := 101, win := 16, contrib := [(1, 0, 0xF)] }
     let s := withSess [l] 24
     HomeQuiet s { line := 101 } 0 ∧ dirOf s 101 = {} ∧ s.hom.redLines = [l] ∧ l.done = false ∧ l.perf = false ∧ btDue s (16 + sess.grace) = true) := by
  unfold HomeQuiet; decide +kernel
theorem test_met_OrderedReductions_window :
    (let s := { withSess [] 24 with hom := { sessions := [(255, some sess)], redWins := [{ sess := 255, win := 16 }] } }
     winReady s 255 16 = true ∧ sess.recNpa % 64 = 0 ∧ sess.fEn = false) := by decide +kernel
theorem test_met_GrantsEnd :
    (let x : Txn := { req := some hreq, grant := .owned 0, ackFrom := some (0, 5), win := true }
     let s := withLine {} (some x)
     live s = true ∧ s.hom.waiters = [] ∧ s.hom.setWait = [] ∧ txnOf s hreq.line = some x ∧ x.grant ≠ .unc ∧ x.ackFrom = some (0, 5) ∧ x.ackFrom ≠ some (0, 6) ∧ homeHere s hreq.line = true ∧ grantSent s 0 5 hreq.line = true) ∧
    (let s : State := { base with hom := { wick := [(7, (1, 96))] } }
     tget s.hom.wick 7 = (1, 96) ∧ 1 ≠ 0 ∧ txnOf s 7 = none) ∧
    (let s : State := { base with mps := [(0, { en := true, ready := true, reads := [{ line := hreq.line, ans := [ansOf { hreq with tag := 6 } .dataCE .ok 0 0] }] })],
                                  hom := { txns := [(hreq.line, some { ackFrom := some (0, 6) })] } }
     txnOf s hreq.line = some { ackFrom := some (0, 6) } ∧ grantSent s 0 6 hreq.line = false) ∧
    stashOffered (withLine {} (some { kind := .stash 16 })) 16 hreq.line = true := by decide +kernel
theorem test_met_Evictions :
    (let s := withLine { st := .owned 16 } none
     live s = true ∧ homeHere s hreq.line = true ∧ s.hom.waiters = [] ∧ s.hom.setWait = [] ∧ txnOf s hreq.line = none ∧ (holders (dirOf s hreq.line)).contains 16 = true ∧ (holders (dirOf s hreq.line)).contains 0 = false) := by decide +kernel
theorem test_met_SnoopAnswers :
    (let x : Txn := { req := some { hreq with op := .wrFull }, await := [(16, .inv, 0), (1, .inv, 1)], old := .owned 16 }
     let s := withLine { st := .owned 16 } (some x)
     txnOf s hreq.line = some x ∧ (16, .inv, 0) ∈ x.await ∧ (∀ b, b ∈ x.await → b.1 = 16 → b.2.1 = .inv) ∧ x.await.filter (fun y => y.1 != 16) ≠ [] ∧
     x.status = .ok ∧ x.kind ≠ .lost ∧ live s = true ∧ homeHere s hreq.line = true ∧ (dirOf s hreq.line).remote = []) ∧
    (let x : Txn := { req := some { hreq with op := .wrFull }, await := [(5, .inv, 0), (1, .inv, 1)], old := .owned 5 }
     let s := withLine { st := .owned 5 } (some x)
     txnOf s hreq.line = some x ∧ (5, .inv, 0) ∈ x.await ∧ (∀ b, b ∈ x.await → b.1 = 5 → b.2.1 = .inv) ∧ x.await.filter (fun y => y.1 != 5) ≠ [] ∧
     agentPage s 5 = none ∧ x.kind = .serve ∧ x.old = .owned 5 ∧ (dirOf s hreq.line).remote = []) ∧
    (let x : Txn := { req := some { hreq with op := .wrFull }, await := [(1, .inv, 1)] }
     x.await.filter (fun y => y.1 != 1) = [] ∧ x.later = [] ∧ x.need = [] ∧ x.ackFrom = none ∧ x.kind = .serve) := by decide +kernel

/-! ## Waits -/

/-- The base with a watch in the last slot. -/
def withWatch (w : Watch) : State := { base with fnc := { watches := [(4095, some w)], notes := [] } }
theorem test_met_FenceArms :
    (let w : Watch := { cmd := some (0, 0), npa := 128, target := 1 }
     watchOf (withWatch w) 4095 = some w ∧ w.armed = false ∧ w.poll = false ∧ w.armVal = none ∧ w.npa % 64 = 0 ∧ (withWatch w).cas.pos < 8 ∧
     recKind (withWatch w) w.npa = 0 ∧ recReady (withWatch w) kObj (w.npa / 128) = true ∧
     recReady { withWatch w with hom := { dir := [(1, { st := .owned 0 })] } } kObj (w.npa / 128) = false) ∧
    (let w : Watch := { cmd := some (0, 0), npa := 128, target := 1, armed := true, armVal := some (1, 0) }
     watchOf (withWatch w) 4095 = some w ∧ satisfied 1 w.target = true ∧ satisfied 0 w.target = false) ∧
    watchOf (withWatch { armVal := some (0, 1) }) 4095 = some { armVal := some (0, 1) } := by decide +kernel
theorem test_met_FenceWaits :
    (let w : Watch := { npa := 128, target := 1, armed := true }
     let s := { withWatch w with fnc := { watches := [(4095, some w)], notes := [(128, 1)] } }
     s.fnc.notes = [(128, 1)] ∧ (4095, w) ∈ tsome s.fnc.watches ∧ satisfied 1 w.target = true) ∧
    (let w : Watch := { npa := 128, target := 0, poll := true, due := some 0, lose := true }
     watchOf (withWatch w) 4095 = some w ∧ btDue (withWatch w) w.nextPoll.toNat = true ∧ recKind (withWatch w) w.npa = 0 ∧
     satisfied (recValue (withWatch w) w.npa) w.target = true ∧ satisfied (recValue (withWatch w) w.npa) 1 = false ∧ btDue (withWatch w) (0 : Word).toNat = true ∧
     w.armVal = none ∧ (withWatch w).fnc.notes = [] ∧ w.remote = false ∧ lineCurrent (withWatch w) kObj (w.npa / 128) = true ∧
     lineCurrent { withWatch w with hom := { dir := [(1, { st := .owned 0 })] } } kObj (w.npa / 128) = false) := by decide +kernel
theorem test_met_BarrierEnds :
    (let b : Bar := { bar8 with due := some 0 }
     let s : State := { base with fnc := { bars := [(1023, some b)] } }
     tget s.fnc.bars 1023 = some b ∧ btDue s (0 : Word).toNat = true ∧ b.pending ≠ 0 ∧ recReady s kObj (b.npa / 128) = true ∧
     recReady { s with hom := { dir := [(b.npa / 128, { st := .owned 0 })] } } kObj (b.npa / 128) = false) ∧
    (let b : Bar := { bar8 with regs := [{ ctx := 3, reg := 4, arr := 1 }] }
     let s : State := { base with fnc := { bars := [(0, some b)], drops := [(3, none)] } }
     s.fnc.drops = [(3, none)] ∧ b.lossAb = false ∧ sub21 b.pending (sub21 4 1) ≠ 0 ∧ recReady s kObj (b.npa / 128) = true) := by decide +kernel

/-! ## Cascade and span -/

theorem test_met_CascadePorts : base.cas.st = 2 ∧ 2 ≤ base.boot.stage ∧ ({ dst := 0, load := .wbComp 3 4 } : CasMsg).dst = base.cas.pos ∧
    (let s : State := { base with cas := { st := 2, sizeM1 := 1, peers := [(2, some { pos := 1, sizeM1 := 1, up := true }), (3, some { pos := 1, up := true })], routes := [(1, 11)] } }
     tget s.cas.peers 3 = some { pos := 1, up := true } ∧ s.cas.outst = [] ∧ (∀ n, n < blocks s → n ≠ s.cas.pos → (casRoute (portOff s 3 { pos := 1, up := true }) n).testBit 3 = true)) ∧
    ({ dst := 1 } : CasMsg).dst ≠ base.cas.pos ∧ ({ dst := 1 } : CasMsg).hop2 = false ∧ 3 < 4 ∧
    casPort { base with cas := { st := 2, sizeM1 := 1, peers := [(3, some { pos := 1 })], routes := [(1, 11)] } } 1 = some 3 ∧
    isStation pHST0 = true ∧ (linkOf base pHST0).st = 2 ∧ (linkOf base pHST0).waiting = [] := by decide +kernel
theorem test_met_CascadeRegisters : UnitAdmits (expert pCAS) root pCAS 0x210 ∧ UnitAdmits (expert pCAS) root pCAS 0x230 ∧ (expert pCAS).cas.master = true ∧
    (expert pCAS).spn.st ≠ .active ∧ (expert pCAS).spn.stations = [] ∧ (∀ b, b < blocks (expert pCAS) → b = (expert pCAS).cas.pos) ∧ UnitAdmits { expert pCAS with cas := { master := false } } root pCAS 0x210 ∧ (expert pCAS).cas.st = 2 ∧ UnitAdmits { expert pCAS with cas := { st := 1, master := false } } root pCAS 0x230 := by
  unfold UnitAdmits; decide +kernel
/-- The base with this span link. -/
def withSpan (n : Spn) : State := { base with spn := n }
theorem test_met_SpanTraining :
    (let s := withSpan { st := .lock }
     (groupsLeft s).take (s.spn.maxWidth / 8) ≠ [] ∧
     ((groupsLeft s).take (s.spn.maxWidth / 8)).all (groupLocked (updSpn s (fun n => { n with locked := n.locked ||| 0xFFFFFFFF % 2 ^ 32 }))) = true) ∧
    (withSpan { st := .lock }).spn.st = .lock ∧
    (let s := withSpan { st := .hello, width := 32 }
     let h : Hello := { width := 8, hi := 7 }
     h.lo ≤ 1 ∧ 1 ≤ h.hi ∧ min s.spn.width (h.width / 8 * 8) ≠ 0 ∧ ({ hi := 0 } : Hello).hi < 1) ∧ ({ epoch := 1 } : Marker).epoch ≠ 0 ∧
    (withSpan { st := .auth }).spn.quar = false ∧
    (let f : Fuses := { loaded := [(12, 0x3896AC51A760B038), (13, 0x6AE3B1B17E32D94C), (14, 0x4307BE1411B7FD21), (15, 0xDAE1F663BFC70C4C),
                                   (16, 0xFB656FE7BFDE4E27), (17, 0x5BB99848F1D21AD5), (36, 1)] }
     chainOk f [{}] = true ∧ chainOk f [] = false) := by decide +kernel
theorem test_met_SpanKeys : (withSpan { st := .auth, chainOk := true, keyxSeen := true }).spn.keyxSeen = true ∧
    (withSpan { st := .active, calT1 := some 5 }).spn.calT1 = some 5 ∧ btDue (withSpan { st := .hello }) (withSpan { st := .hello }).spn.stateEnd.toNat = true ∧
    (let s := { withSpan { st := .backoff, cfg := 1 } with fuses := { lifecycle := .secured }, sec := { chainOk := true }, cas := { nodeId := 0x10000 } }
     s.spn.quar = false ∧ btDue s s.spn.stateEnd.toNat = true ∧ mayTrain s = true) := by decide +kernel
/-! ### Codewords and flits -/

theorem rsMul_zero (a : Nat) : rsMul 0 a = 0 := by
  have h : ∀ n b, rsMulBits n 0 b = 0 := by
    intro n
    induction n with
    | zero => intro b; rfl
    | succ n ih => intro b; have hd : rsDouble 0 = 0 := by decide
                   simp [rsMulBits, hd, ih]
  exact h 10 a
theorem rsSyndromes_last (n c : Nat) : rsSyndromes (List.replicate n 0 ++ [c]) = List.replicate 30 c := by
  have h : ∀ a, (List.replicate n 0).foldl (fun v c => rsMul v a ^^^ c) 0 = 0 := by
    intro a
    induction n with
    | zero => rfl
    | succ n ih => simp [List.replicate_succ, rsMul_zero, ih]
  simp only [rsSyndromes, List.foldl_append, List.foldl_cons, List.foldl_nil, h, rsMul_zero]
  simp [rsLen, rsData, List.map_const']
/-- A codeword of zeros with one wrong symbol. -/
def wrong : List Nat := List.replicate 543 0 ++ [5]
theorem roots_wrong : rsRoots [1, 1] rsLen 0 1 = [0] := by decide +kernel
theorem test_met_SpanFlits_codeword : rsDecode wrong = some (List.replicate 544 0, 1) := by
  have hl : (rsLocate (List.replicate 30 5) 30 0 [1] 0 [1] 1 1) = ([1, 1], 1) := by decide +kernel
  have hf : (wrong.zipIdx.map (fun e => if [0].contains (rsLen - 1 - e.2) then e.1 ^^^ rsError (List.replicate 30 5) [1, 1] (rsLen - 1 - e.2) else e.1))
    = List.replicate 543 0 ++ [0] := by decide +kernel
  unfold rsDecode
  rw [if_neg (by decide +kernel)]
  rw [show rsSyndromes wrong = List.replicate 30 5 from rsSyndromes_last 543 5]
  simp only [show rsLen - rsData = 30 from rfl, hl, roots_wrong, hf, rsSyndromes_last]
  decide +kernel

theorem crc16_lt (l : List Byte) : crc16 l < 2 ^ 16 := by
  have hb : ∀ c b, crcBit c b < 2 ^ 16 := by
    intro c b
    have h : c * 2 % 65536 < 2 ^ 16 := Nat.mod_lt _ (by decide)
    unfold crcBit
    dsimp only
    split
    · exact Nat.xor_lt_two_pow h (by decide)
    · exact h
  have h8 : ∀ (x : Byte) (is : List Nat) (c : Nat), c < 2 ^ 16 → is.foldl (fun c i => crcBit c (x.getLsbD (7 - i))) c < 2 ^ 16 := by
    intro x is
    induction is with
    | nil => intro c h; exact h
    | cons i is ih => intro c _; exact ih _ (hb _ _)
  have h : ∀ (l : List Byte) (c : Nat), c < 2 ^ 16 → l.foldl (fun c b => (List.range 8).foldl (fun c i => crcBit c (b.getLsbD (7 - i))) c) c < 2 ^ 16 := by
    intro l
    induction l with
    | nil => intro c h; exact h
    | cons x l ih => intro c h; exact ih _ (h8 x _ c h)
  exact h l 65535 (by decide)
theorem bytesNat_two (v : Nat) (h : v < 2 ^ 16) : bytesNat (natBytes 2 v) = v := by
  simp [natBytes, bytesNat]; omega
/-- A flit with any 12 bytes in the place of its tag, and a good CRC. -/
def flitWith (payload tag : List Byte) : List Byte := (payload ++ tag) ++ natBytes 2 (crc16 (payload ++ tag))
theorem flitWith_crc (p t : List Byte) (hp : p.length = 242) (ht : t.length = 12) : flitCrcOk (flitWith p t) = true := by
  have hl : (p ++ t).length = 254 := by simp [hp, ht]
  unfold flitCrcOk flitWith flitCrc
  rw [List.take_left' hl, List.drop_left' hl]
  rw [List.take_of_length_le (by simp), bytesNat_two _ (crc16_lt _)]
  simp [hp, ht]
theorem flitWith_tag (s : State) (p t : List Byte) (hp : p.length = 242) (ht : t.length = 12) :
    flitTagOk s (flitWith p t) = (t == gcmTag (flitKey s.spn.keys (rxDir s)) (flitIv s.spn.rxSeq (rxDir s)) p) := by
  unfold flitTagOk flitTag flitPayload flitWith
  simp [List.append_assoc, List.take_left' hp, List.drop_left' hp, List.take_left' ht]
theorem gcmTag_length (k i x : List Byte) : (gcmTag k i x).length = 12 := by simp [gcmTag, beBytesN]
/-- In any state some flit is good, and one with a good CRC has a false tag. -/
theorem test_met_SpanFlits_flits (s : State) : (∃ f, flitCrcOk f = true ∧ flitTagOk s f = true) ∧ (∃ f, flitCrcOk f = true ∧ flitTagOk s f = false) := by
  obtain ⟨p, hp⟩ : ∃ p : List Byte, p.length = 242 := ⟨List.replicate 242 0, List.length_replicate⟩
  generalize hgg : gcmTag (flitKey s.spn.keys (rxDir s)) (flitIv s.spn.rxSeq (rxDir s)) p = g
  have hg : g.length = 12 := hgg ▸ gcmTag_length _ _ _
  have hm : (g.map (fun b => b + 1)).length = 12 := by simp [hg]
  refine ⟨⟨flitWith p g, flitWith_crc p g hp hg, ?_⟩, ⟨flitWith p (g.map (fun b => b + 1)), flitWith_crc p _ hp hm, ?_⟩⟩
  · rw [flitWith_tag s p g hp hg, hgg]; simp
  · rw [flitWith_tag s p _ hp hm, hgg]
    cases h : g with
    | nil => rw [h] at hg; cases hg
    | cons a l => simp
theorem test_met_SpanFlits_bad : flitCrcOk [] = false ∧ rsDecode [] = none := by decide
theorem test_met_SpanFlits :
    (let s := withSpan { st := .active, txSeq := 5, faultCfg := 0x40400FFFF, rxSeq := 254 }
     s.spn.st = .active ∧ s.spn.quar = false ∧ (s.spn.rxSeq + 1) % 256 ≠ 0 ∧ s.spn.discard = false ∧ fld s.spn.faultCfg 15 0 = 65535 ∧ s.spn.replayWin < 65535 ∧ 4 < s.spn.txSeq ∧
     s.spn.waiting = [] ∧ (withSpan { st := .active, discard := true }).spn.discard = true) := by decide +kernel
theorem test_met_SpanAlive :
    (let s := withSpan { st := .active, cricketMiss := 4, bcnTicks := [9] }
     btDue s s.spn.cricketNext.toNat = true ∧ cricketMax s ≤ s.spn.cricketMiss ∧ s.spn.quar = false ∧ s.spn.bcnTicks = [9] ∧ 0 ≤ s.spn.txSeq) ∧
    (withSpan { st := .active, cricketMiss := 3 }).spn.cricketMiss < cricketMax (withSpan { st := .active, cricketMiss := 3 }) := by decide +kernel
theorem test_met_SpanRegisters : UnitAdmits (expert pSPN) root pSPN 0x200 ∧ UnitAdmits { expert pSPN with spn := { quar := true } } root pSPN 0x238 ∧
    bitOf (0 : Word) 0 = false ∧ bitOf ({ expert pSPN with spn := { cfg := 1 } } : State).spn.cfg 0 = true ∧
    (let s := withSpan { routesNew := [(1023, some 7)] }
     tget s.spn.routesNew 1023 = some 7 ∧ routeBusy s 1023 = false ∧ s.spn.remotes = [] ∧ s.spn.remWait = []) := by unfold UnitAdmits; decide +kernel
theorem test_met_SpanRequests :
    (let s := withSpan { st := .active, remotes := [(4095, some { req := { op := .wrFull, origin := .host 0 } }), (0, some { })] }
     lsTakes s { line := 5 } = false ∧ windowAdmits s 5 0 0 .read = false ∧ live s = true ∧ 4095 < remTrackers ∧
     tget s.spn.remotes 4095 = some { req := { op := .wrFull, origin := .host 0 } } ∧ tget s.spn.remotes 0 = some { } ∧
     ({ } : Remote).req.origin = .relay ∧ tget s.spn.remotes 1 = none ∧ btDue s (0 : Word).toNat = true ∧ hostUp s 0 = true ∧ snoopAgents s ≠ []) := by decide +kernel

/-! ## Engines and translation -/

/-- A translation of the first 16 GiB to the same addresses. -/
def ident : Xlat := { size := 2, r := true, w := true, atom := true }
/-- Context 3 of the root partition, live in space 5, with that translation cached everywhere. -/
def run : State :=
  { base with
    lmp := { ctxs := [(3, { space := 5, st := .live })] }
    lan := { spaces := [(5, { valid := true, bound := 1 })], lantern := [{ id := 5, x := ident }] }
    mov := { buffers := [(0, [{ id := 5, x := ident }])] }
    eng := { base.eng with fireflies := [(0, [{ id := 5, x := ident }])] } }
theorem test_met_EngineRequests : portOpen run 31 = true ∧ portRefuses run 31 3 = false ∧ portRefuses run 31 4 = true ∧ portRefuses run 31 32768 = true ∧ enabled run pENG = true ∧
    enabled { run with pages := tset run.pages pENG {} } pENG = false ∧ portRefuses { run with pages := tset run.pages pENG {} } 31 3 = false ∧
    portOpen { run with pages := tset run.pages pENG {} } 31 = true := by decide +kernel
/-- A descriptor of one tile of 128 bytes that stays open. -/
def streamDesc : List Word := [0, 128, 0, 0, 0, 2 ^ 44]
theorem test_met_Streams : portOpen run 0 = true ∧ portRefuses run 0 3 = false ∧ descRefused run (ctxOf run 3).part 3 streamDesc = false ∧
    descRefused run (ctxOf run 3).part 3 [0, 0, 0, 0, 0, 0] = true ∧ enabled run pENG = true ∧ slotFind run 0 3 7 = none ∧ portRefuses run 0 4 = true ∧
    (let s : State := { run with eng := { run.eng with slots := [(127, { bound := true, ctx := 3, desc := [0, 0, 0, 0, 0, 0] })] } }
     slotFind s 31 3 (dStream [0, 0, 0, 0, 0, 0]) = some 127 ∧ portOpen s 31 = true ∧ portRefuses s 31 3 = false ∧ enabled s pENG = true) := by decide +kernel
/-- A request of one line that waits for its turn, or missed. -/
def withReq (b : BurstState) (w : Tbl (Option Walk)) (m : List Miss) : State :=
  { run with
    eng := { run.eng with reqs := [(0, some { ctx := 3, space := 5, bursts := [{ va := 0x1000, lines := 1, st := b }] })], nextReq := 1 }
    lan := { run.lan with walks := w, misses := m } }
theorem test_met_BurstIssues :
    (let s := withReq .ready [] []
     let e : TlbEntry := { id := 5, x := ident }
     tget s.eng.reqs 0 = some { ctx := 3, space := 5, bursts := [{ va := 0x1000, lines := 1, st := .ready }] } ∧ (burst s 0 0).parked = false ∧
     burstBehind s 0 { ctx := 3, space := 5, bursts := [{ va := 0x1000, lines := 1, st := .ready }] } (burst s 0 0) = false ∧
     inLayoutRun s (tget s.lan.spaces 5).part (burst s 0 0).va 1 e.x = true ∧ (burst s 0 0).st = .ready ∧ (burst s 0 0).lines = 1 ∧ (burst s 0 0).token = 0 ∧ tlbFind (firefly s 0) false 5 (burst s 0 0).va = some e ∧
     e.epoch = (tget s.lan.spaces 5).epoch ∧ e.epoch2 = (tget s.lan.s2 (tget s.lan.spaces 5).part).epoch ∧ e.x.r = true ∧ e.x.glob = false ∧
     HomeQuiet s (burstLine s 0 0 e) 0 ∧ dirOf s (burstLine s 0 0 e).line = {} ∧ (burstLine s 0 0 e).line ∉ s.hom.aluLines) := by
  unfold HomeQuiet; decide +kernel
theorem test_met_Walks :
    (let m : Miss := { space := 5, va := 0x1000 }
     let s := withReq .missed [] [m]
     freeWalk s = some 0 ∧ m ∈ s.lan.misses ∧ m.pref = false ∧ sharesWalk s m = false ∧ missPart s m < 64 ∧ partWalks s (missPart s m) < walkLimit s) ∧
    (let m : Miss := { space := 5, va := 0x1000, pref := true, pfw := 8 }
     let s := withReq .missed [] [m]
     freeWalk s = some 0 ∧ (∀ m, m ∈ s.lan.misses → m.pref = true ∨ sharesWalk s m = true) ∧
     m ∈ s.lan.misses ∧ m.pref = true ∧ prefWalks s < m.pfw ∧ sharesWalk s m = false ∧ missPart s m < 64 ∧
     partWalks s (missPart s m) < walkLimit s) ∧
    (let w : Walk := { miss := { space := 5, va := 0x1000 }, epoch := 1 }
     let s := withReq .missed [(63, some w)] []
     tget s.lan.walks 63 = some w ∧ w.epoch ≠ (tget s.lan.spaces w.miss.space).epoch) := by decide +kernel
/-- Tables of the space at 32 and 64 KiB that map the first 16 GiB to the same addresses. -/
def walked : State :=
  wrWord (wrWord { withReq .missed [(63, some { miss := { space := 5, va := 0x1000 } })] [] with
    lan := { spaces := [(5, { valid := true, bound := 1, root := 0x8000 })], walks := [(63, some { miss := { space := 5, va := 0x1000 } })] } } 0x8000 0x10001) 0x10000 59
/-- The same, while a cache owns the line of the first table. -/
def asking : State := { walked with hom := { dir := [(0x100, { st := .owned 0 })] } }
theorem test_met_Walks_complete : tget walked.lan.walks 63 = some { miss := { space := 5, va := 0x1000 } } ∧ (burst walked 0 0).st = .missed ∧
    0 < (req walked 0).bursts.length ∧
    (match (walk { walked with lan := { walked.lan with walks := tset walked.lan.walks 63 none } } (some (kWalk 63)) 5 0x1000 .read).2 with
     | .ok _ => true
     | _ => false) = true ∧
    (match (walk { asking with lan := { asking.lan with walks := tset asking.lan.walks 63 none } } (some (kWalk 63)) 5 0x1000 .read).2 with
     | .ask l => l == 0x100
     | _ => false) = true := by decide +kernel

/-! ## Objects, faults and losses -/

/-- Objects of the root partition: the table of 64 at 1 MiB, and object 1, a fence object of one page at 4 MiB with one reference,
which also holds the fault ring and the dispatch ring; the release ring stands at 2 MiB. -/
def objects : State :=
  let s := { run with parts := [(0, { st := .open_, objTbl := 0x100006, faultObj := some 1, faultLog := 6, dispObj := some 1, dispLog := 4,
                                      relBase := 0x200000, relCtl := 6, goneTodo := [1], goneLate := [1] })] }
  wrWord (wrWord (wrWord (wrWord s 0x100040 0x10005) 0x100048 1) 0x100050 0x400000) 0x100058 1
/-- The same ring, full. -/
def fullRing : State := { objects with parts := [(0, { part objects 0 with faultProduce := 64 })] }
theorem test_met_FaultWaits_held : (match faultSlot fullRing 0 with
    | .full => true
    | _ => false) = true ∧ faultGpa fullRing 0 = some 0x400000 ∧ ringAddr fullRing 0 0x400000 = .ok 0x400000 ∧
    (match ringAddr fullRing 0 0x400000 with
     | .ok h => lineIdle fullRing (h / 128)
     | _ => true) = true ∧ relHeld fullRing = 0 ∧ btDue fullRing fullRing.eng.holdNext.toNat = true ∧
    (match faultSlot { objects with parts := [(0, { part objects 0 with faultObj := none })] } 0 with
     | .bad _ => true
     | _ => false) = true ∧ btDue base 5 = false ∧ (tget base.eng.tokens 7).st ≠ .paused := by decide +kernel
theorem test_met_FaultWaits : (match faultSlot objects 0 with
    | .ok h a => h == 0x400000 && a == 0x400040
    | _ => false) = true ∧ btDue objects objects.eng.holdNext.toNat = true ∧
    (let s : State := { run with eng := { tokens := [(1024, { st := .paused, ctxs := [3] })] } }
     (tget s.eng.tokens 1024).st = .paused ∧ btDue s (tget s.eng.tokens 1024).due.toNat = true ∧ ctxLive s 3 = true) := by decide +kernel
theorem test_met_ContextLoss :
    (let s : State := { run with lmp := { ctxs := [(4095, { st := .live, doomed := some .timeout })] } }
     (ctxOf s 4095).doomed = some .timeout ∧ (ctxOf s 4095).killMb = none) ∧
    (let s : State := { run with lmp := { ctxs := [(4095, { st := .killing, space := 5, killMb := some (0, 9) })] } }
     ctxIdx s 4095 = some 4095 ∧ (ctxOf s 4095).st = .killing ∧ ctxEmpty s 4095 = true ∧ (ctxOf s 4095).killMb = some (0, 9) ∧ 9 < 256) := by decide +kernel
theorem test_met_Withdrawals :
    (let s : State := { run with pages := tset run.pages pLAN { expert := true }, lan := { run.lan with wdLen := 1 } }
     UnitAdmits s root pLAN 0x248 ∧ bitOf (0x50004 : Word) 2 = true ∧ s.lan.wdBusy = false ∧ wdDraining s < 16 ∧
     wdBeyond (fld (0x50004 : Word) 1 0) (fld s.lan.wdBase 56 22 * 2 ^ 22) (fld s.lan.wdLen 34 0) = false ∧
     wdEmpty (fld (0x50004 : Word) 1 0) (fld s.lan.wdLen 34 0) = false) ∧
    (let w : Withdrawal := { id := 7, kind := 2, target := 5 }
     let s : State := { run with clk := { et := 1 }, lan := { run.lan with wds := [w] } }
     s.lan.wds.find? (fun x => x.id == w.id) = some w ∧ wdReady s w = true ∧ w.src = .reg ∧ s.lan.wdWait = []) ∧
    (let w : Withdrawal := { id := 7, kind := 2, target := 5 }
     wdReady { run with lan := { run.lan with wds := [w] } } w = false) := by unfold UnitAdmits; decide +kernel
theorem test_met_TranslationRoots :
    (let s : State := { run with pages := tset run.pages pLAN { expert := true }, lan := { run.lan with spaceSel := 5, partSel := 63 } }
     UnitAdmits s root pLAN 0x218 ∧ UnitAdmits s root pLAN 0x220 ∧ UnitAdmits s root pLAN 0x238 ∧ (tget s.lan.spaces s.lan.spaceSel).bound ≠ 0 ∧
     (tget s.lan.spaces 0).bound = 0 ∧ bitOf (1 : Word) 0 = true ∧ bitOf (0 : Word) 0 = false ∧ s.lan.partSel ≠ 0) := by unfold UnitAdmits; decide +kernel
theorem test_met_HostRequests : hostUp base 0 = true ∧ (part base 0).st = .open_ ∧ hreq.line < npaLines ∧ inLayout base 0 (hreq.line * 128) = true ∧
    HomeQuiet base (hostReq base 0 .wrFull hreq) 0 ∧ dirOf base hreq.line = {} ∧ enabled base (pHST0 + 0) = true ∧
    (let s : State := { base with parts := [(5, { st := .open_ })] }
     hostUp s 0 = true ∧ enabled s (pHST0 + 0) = true ∧ (part s 5).st = .open_ ∧ inLayout s 5 (hreq.line * 128) = false ∧ outOfRange s hreq.line = false) := by
  unfold HomeQuiet; decide +kernel

/-! ## The Lamplighter -/

/-- Queue 1 of context 3 with two commands at 64 KiB: a NOP and one with an opcode that does not exist. -/
def fetching (h : Nat) : State :=
  wrWord { run with lmp := { run.lmp with queues := [(1, { enable := true, log2 := 4, ctx := 3, bound := true, base := 0x10000, tail := 2, head := h })] } } 0x10040 0xFF
theorem test_met_CommandFlow_fetch : nextQueue (fetching 1) = some (0, 1) ∧ (ctxOf (fetching 1) (queue (fetching 1) 1).ctx).st = .live ∧
    (match (ownLook (fetching 1) 5 0 0x10040 .read).2 with
     | .here a => a == 0x10040
     | _ => false) = true ∧ bytesPois (fetching 1) 0x10040 64 = false ∧
    recAsk (ownLook (fetching 1) 5 0 0x10040 .read).1 kLamp (pinLines (ownLook (fetching 1) 5 0 0x10040 .read).1 1 (rdWords (fetching 1) 0x10040 8)) = none ∧
    cmdCheck (fetching 1) false { q := 1, seq := 1, ctx := 3, words := rdWords (fetching 1) 0x10040 8 } = some .permission ∧
    nextQueue (fetching 0) = some (0, 1) ∧ cmdCheck (fetching 0) false { q := 1, seq := 0, ctx := 3, words := rdWords (fetching 0) 0x10000 8 } = none ∧
    cPins { q := 1, seq := 0, ctx := 3, words := rdWords (fetching 0) 0x10000 8 } = [] := by decide +kernel
/-- The base with this command of queue 1 and context 3. -/
def withCmd (c : Cmd) : State := { objects with lmp := { run.lmp with queues := (fetching 0).lmp.queues, cmds := [c] } }
/-- A command of these words, dispatched. -/
def cmdW (ws : List Word) : Cmd := { q := 1, ctx := 3, words := ws, st := .dispatched }
theorem test_met_CommandFlow :
    (let c : Cmd := { cmdW [0] with st := .taking, takes := [.ok] }
     cmdOf (withCmd c) 1 0 = some c ∧ ctxLive (withCmd c) c.ctx = true ∧ c.takes.all (fun x => x == .ok) = true ∧ wdMustWait (withCmd c) c = false) ∧
    (let c : Cmd := { cmdW [0] with st := .taking, takes := [.permission] }
     cmdOf (withCmd c) 1 0 = some c ∧ c.takes = [.permission]) ∧
    (let c : Cmd := { cmdW [0] with st := .accepted }
     cmdOf (withCmd c) 1 0 = some c ∧ mayDispatch (withCmd c) c = true ∧ unitFull (withCmd c) c = false) ∧
    (let c : Cmd := { cmdW [1] with st := .accepted }
     let s := { withCmd c with mov := { chans := [(0, { fifo := List.replicate 16 {} })] } }
     mayDispatch s c = true ∧ unitFull s c = true) ∧
    (let c : Cmd := { cmdW [0] with st := .retire }
     cmdOf (withCmd c) 1 0 = some c ∧ needsRecord c = false ∧ c.recorded = 0 ∧ c.fences = [] ∧ cPins c = [] ∧ (queue (withCmd c) 1).killMb = none ∧
     (queue (withCmd c) 1).retired = [] ∧ 0 = (queue (withCmd c) 1).done) := by decide +kernel
/-- The address that a look-up of the block's own gives. -/
def lookAt (s : State) (va : Nat) (acc : Access) : Option Nat :=
  match (ownLook s 5 0 va acc).2 with
  | .here a => some a
  | _ => none
theorem test_met_CompletionRecords :
    (let c : Cmd := { cmdW [0x800] with st := .retire }
     let s := withCmd c
     let u := (ownLook s 5 0 0 .write).1
     cmdOf s 1 0 = some c ∧ needsRecord c = true ∧ c.status ≠ .contextLost ∧ cPins c = [] ∧ lookAt s 0 .write = some 0 ∧
     fld (queue s 1).cbase 56 5 * 32 + 0 % 2 ^ (queue s 1).log2 * 32 = 0 ∧ HomeQuiet u (relayReq u 1 0 c.part 0 ((recordWords s c).flatMap wordBytes)) 0 ∧
     dirOf u 0 = {}) := by unfold HomeQuiet; decide +kernel
theorem test_met_PlainCommands : Ready (withCmd (cmdW [0])) 1 0 0x00 (cmdW [0]) ∧ Ready (withCmd (cmdW [0x20])) 1 0 0x20 (cmdW [0x20]) ∧
    (ctxIdx (withCmd (cmdW [0x20])) 3).isSome = true ∧
    (let c := cmdW [0x38, 0, 0x20040]
     let u := (ownLook (begun (withCmd c) 1 0) 5 0 0x20040 .write).1
     Ready (withCmd c) 1 0 0x38 c ∧ lookAt (begun (withCmd c) 1 0) 0x20040 .write = some 0x20040 ∧ fld (cw c 2) 56 6 * 64 = 0x20040 ∧
     HomeQuiet u (relayReq u 1 0 c.part 0x20040 ((reportWords (withCmd c) c).flatMap wordBytes)) 0 ∧ dirOf u (0x20040 / 128) = {}) ∧
    (let c := cmdW [0x08, 0, 1, 2, 3, 4, 5, 6]
     Ready (withCmd c) 1 0 0x08 c ∧ (part (withCmd c) 0).dispObj = some 1 ∧ freeDispatch (withCmd c) 0 = some 0 ∧
     objRange (withCmd c) 0 1 = some (0x400000, 1) ∧ lineIdle (withCmd c) (0x400000 / 128) = true ∧ 0x400000 % 8 = 0 ∧ (withCmd c).eng.link.st = 2 ∧ gpaLookup (withCmd c) 0 (0x400000 + 0 * 128) = (.ok, 0x400000, none) ∧ c.words.length = 8) := by
  unfold HomeQuiet Ready; decide +kernel
theorem test_met_MapWithdraw :
    (let c := cmdW [0x30, 0, 0, 0xFFFFFFFFFFFFFFFF, 0x7FFFFFFFF]
     Ready (withCmd c) 1 0 0x30 c ∧ wdBeyond (fld (cw c 2) 1 0) (fld (cw c 3) 56 22 * 2 ^ 22) (fld (cw c 4) 34 0) = true) ∧
    (let c := cmdW [0x30, 0, 0x50000, 0, 1]
     Ready (withCmd c) 1 0 0x30 c ∧ wdBeyond (fld (cw c 2) 1 0) (fld (cw c 3) 56 22 * 2 ^ 22) (fld (cw c 4) 34 0) = false ∧
     wdEmpty (fld (cw c 2) 1 0) (fld (cw c 4) 34 0) = false ∧ wdMustWait (withCmd c) c = false ∧
     wdMustWait { withCmd c with lan := { run.lan with wds := List.replicate 16 { kind := 2 } } } c = true) := by unfold Ready; decide +kernel
theorem test_met_FenceCommands :
    (let c := cmdW [0x10, 0, 0xFFFF00000001, 0x7FFFFFFFFFFFFFFF]
     let s := withCmd c
     fenceCheck s c.part (fld (cw c 2) 23 0) (fld (cw c 2) 63 32) = some 0x7FFFC0 ∧ gpaLookup s c.part 0x7FFFC0 = (.ok, 0x7FFFC0, none) ∧ 0x7FFFC0 % 64 = 0 ∧
     (∀ l, l ∈ objLines s c.part [fld (cw c 2) 23 0] → lineCurrent s kObj l = true) ∧ lineIdle s (0x7FFFC0 / 128) = true ∧
     Ready s 1 0 0x10 c ∧ bytesPois s 0x7FFFC0 16 = false ∧ recKind s 0x7FFFC0 = 0 ∧ 0 < (cw c 3 - recValue s 0x7FFFC0).toNat ∧
     (cw c 3 - recValue s 0x7FFFC0).toNat < 2 ^ 63) ∧
    (let c := cmdW [0x11, 0, 1, 5]
     Ready (withCmd c) 1 0 0x11 c ∧ fenceCheck (withCmd c) 0 1 0 = some 0x400000 ∧ gpaLookup (withCmd c) 0 0x400000 = (.ok, 0x400000, none) ∧
     (∀ l, l ∈ objLines (withCmd c) c.part [fld (cw c 2) 23 0] → lineCurrent (withCmd c) kObj l = true) ∧ freeWatch (withCmd c) c.part = some 0) ∧
    (let c := cmdW [0x19, 0, 1, 7]
     let s := { wrWord (wrWord (withCmd c) 0x400000 1) 0x400038 1 with fnc := { bars := [(0, some { bar8 with npa := 0x400000 })] } }
     Ready s 1 0 0x19 c ∧ lineIdle s (0x400000 / 128) = true ∧ (∀ l, l ∈ objLines s c.part [fld (cw c 2) 23 0] → lineCurrent s kObj l = true) ∧ bytesPois s 0x400000 64 = false ∧ bitOf (rdWord s 0x400000) 0 = true ∧ recKind s 0x400000 = 1 ∧
     fld (barOperand c true) 20 0 = 7 ∧ fld (barOperand c true) 47 35 = 0 ∧ barAt s 0x400000 = some (0, { bar8 with npa := 0x400000 }) ∧
     barApply s { bar8 with npa := 0x400000 } 7 true (fld (barOperand c true) 63 48) none = .ok { bar8 with npa := 0x400000, live := 1, pending := 1 } ∧
     barApply s { bar8 with npa := 0x400000 } 7 false (fld (barOperand c false) 63 48) none =
       .ok { bar8 with npa := 0x400000, pending := 1, regs := [{ ctx := 3, reg := 15, arr := 7 }] }) := by unfold Ready; decide +kernel
theorem test_met_FenceReferences :
    (let c := cmdW [0x10, 0, 0x1000000000001]
     Ready (withCmd c) 1 0 0x10 c ∧ fenceCheck (withCmd c) c.part (fld (cw c 2) 23 0) (fld (cw c 2) 63 32) = none ∧
     (∀ l, l ∈ objLines (withCmd c) c.part [fld (cw c 2) 23 0] → lineCurrent (withCmd c) kObj l = true) ∧
     (linesAsk (begun { withCmd c with hom := { dir := [(0x100040 / 128, { st := .owned 0 })] } } 1 0) kObj
       (objLines { withCmd c with hom := { dir := [(0x100040 / 128, { st := .owned 0 })] } } c.part [fld (cw c 2) 23 0])
       (fenceLine { withCmd c with hom := { dir := [(0x100040 / 128, { st := .owned 0 })] } } c.part (fld (cw c 2) 23 0) (fld (cw c 2) 63 32))).isSome = true) := by unfold Ready; decide +kernel
theorem test_met_DoorbellPages : BellAdmits (fetching 0) root 1 ∧ (queue (fetching 0) 1).enable = true ∧ (16 : Word) ≠ w64 (queue (fetching 0) 1).tail ∧
    ((16 : Word) - w64 (queue (fetching 0) 1).tail).toNat < 2 ^ 63 ∧ ((16 : Word) - w64 (queue (fetching 0) 1).done).toNat ≤ 2 ^ (queue (fetching 0) 1).log2 ∧
    2 ^ (queue (fetching 0) 1).log2 < ((17 : Word) - w64 (queue (fetching 0) 1).done).toNat ∧ (queue (fetching 0) 1).priv = false ∧
    (let s : State := { objects with lmp := { queues := [(1023, { priv := true })] } }
     BellAdmits s root 1023 ∧ (queue s 1023).priv = true ∧ (queue s 1023).objPend = none ∧ (queue (objTry { s with hom := { dir := [(0x100040 / 128, { st := .owned 0 })] } } 1023 (setFld 1 25 24 2)) 1023).objPend.isSome = true ∧ objWhere s 0 1 = (.ok, 0x100040) ∧ lineIdle s (0x100040 / 128) = true ∧
     recReady { s with hom := { dir := [(0x100040 / 128, { st := .owned 0 })] } } kObj (0x100040 / 128) = false ∧ 0x100040 % 64 = 0 ∧ objWord0Ok (rdWord s 0x100040) 0 1 = true ∧
     fld (rdWord s (0x100040 + 8)) 31 0 = 1 ∧ fld (rdWord (wrWord s 0x100048 0xFFFFFEFF) (0x100040 + 8)) 31 0 < 0xFFFFFF00) := by unfold BellAdmits; decide +kernel
theorem test_met_ObjectRelease : 1 ∈ (part objects 0).goneTodo ∧ objects.tir.moves = [] ∧ objects.tir.frames = [] ∧ objects.tir.embers = [] ∧
    objects.fnc.watches = [] ∧ objects.fnc.bars = [] ∧ objects.hom.notices = [] ∧ lineIdle objects (0x200000 / 128) = true ∧
    lineIdle objects (0x200040 / 128) = true ∧
    (match relRoom objects 0 with
     | .ok h a => h == 0x200000 && a == 0x200040
     | _ => false) = true ∧ objects.boot.running = true ∧ btDue objects (part objects 0).scanAt.toNat = true ∧ (part objects 0).relHold = [] ∧
    (part objects 0).goneLate = [1] := by decide +kernel
theorem test_met_LampRegisters :
    (let s : State := { fetching 0 with pages := tset base.pages pLMP { expert := true } }
     let t : State := { s with lmp := { s.lmp with qSel := 1, ctxSel := 3 } }
     UnitAdmits s root pLMP 0x218 ∧ UnitAdmits s root pLMP 0x228 ∧ UnitAdmits s root pLMP 0x240 ∧ UnitAdmits s root pLMP 0x258 ∧
     queueLive s s.lmp.qSel = false ∧ queueLive t t.lmp.qSel = true ∧ bitOf (2 : Word) 1 ≠ (queue t t.lmp.qSel).priv ∧
     bitOf (0x30011 : Word) 0 = true ∧ mayEnable s (queue s s.lmp.qSel) 0x30011 = true ∧ mayEnable s (queue s s.lmp.qSel) 0x3000D = false ∧
     (tget s.lmp.ctxs s.lmp.ctxSel).st = .free ∧ (tget t.lmp.ctxs t.lmp.ctxSel).st ≠ .free ∧ partCtxBusy s 63 = false ∧
     (part s s.lmp.partSel).st = .open_ ∧ partCtxBusy s s.lmp.partSel = true) := by unfold UnitAdmits; decide +kernel

/-! ## The movers -/

/-- A descriptor that copies 128 bytes from 256 KiB to 320 KiB. -/
def copyDesc : List Word := [0x40000, 0x50000, 0, 0, 0x100000080, 36, 0x30000]
/-- The command that channel 0 runs. -/
def chCmd : ChanCmd := { q := 1, ctx := 3, descVa := 0x30000, count := 1 }
/-- The base with channel 0 in this state. -/
def withChan (h : Chan) : State := { withCmd { cmdW [1, 0, 0x30000, 1] with st := .running } with mov := { run.mov with chans := [(0, h)] } }
theorem test_met_MoveCommands :
    (let c := cmdW [1, 0, 0x30000, 0]
     Ready (withCmd c) 1 0 0x01 c ∧ fld (cw c 3) 15 0 = 0) ∧
    (let c := cmdW [2, 0, 0x30000, 0x100000001]
     Ready (withCmd c) 1 0 0x02 c ∧ fld (cw c 3) 15 0 ≠ 0 ∧ unitFull (withCmd c) c = false ∧
     unitFull { withCmd c with mov := { chans := [(cChan c, { fifo := List.replicate 16 {} })] } } c = true) := by unfold Ready; decide +kernel
theorem test_met_DescriptorStarts :
    (let h : Chan := { fifo := [chCmd] }
     let s := (List.range 7).foldl (fun t i => wrWord t (0x30000 + 8 * i) (copyDesc.getD i 0)) (withChan h)
     let t := (pipeLook s 0 5 0x30000 1 .read (.desc 0)).1
     nextMove h = some chCmd ∧ pipesOf s h = [0, 1, 2, 3, 4, 5, 6, 7] ∧ h.active.length < 16 ∧ h.descTok = 0 ∧ h.descPark = false ∧ moveFailed h chCmd = false ∧
     ctxLive s chCmd.ctx = true ∧ (match (pipeLook s 0 5 0x30000 1 .read (.desc 0)).2 with
       | .ok x => x == ident
       | _ => false) = true ∧
     (match vaPlace t 0 0x30000 ident with
       | .here a => a == 0x30000
       | _ => false) = true ∧ lineCurrent t (kChan 0) (0x30000 / 128) = true ∧ bytesPois s 0x30000 128 = false ∧ descStops t chCmd { words := rdWords s 0x30000 16 } = [] ∧
     descStops t chCmd { words := rdWords s 0x60000 16 } = [.permission]) := by decide +kernel
/-- The descriptor at work, with one segment in this state. -/
def working (g : Seg) : Active := { cmd := (1, 0), desc := { words := copyDesc }, segs := [g] }
/-- Its segment before it is staged, and with its source line there. -/
def seg0 : Seg := { n := 128 }
def seg1 : Seg := { seg0 with st := .staged, stage := 256, reads := [{ va := 0x800, st := 2, data := 7 }] }
theorem test_met_SegmentStages :
    (let h : Chan := { fifo := [chCmd], active := [working seg0], nextKey := 1 }
     let s := withChan h
     let g' := { seg0 with st := .staged, stage := segStage { words := copyDesc } seg0, shared := 0, reads := [{ va := 0x800 }] }
     let s1 := updSeg s 0 0 0 (fun _ => g')
     let t := (pipeLook s1 0 5 0x40000 1 .read (.src 0 0 0)).1
     activeOf s 0 0 = some (working seg0, chCmd) ∧ cutSegs { words := copyDesc } = [seg0] ∧ seg0.st = .wait ∧ seg0.held = [] ∧ dOrder { words := copyDesc } = false ∧
     stageBehind (chan s 0) 0 0 = false ∧ stageFor s 0 (segStage { words := copyDesc } seg0) = some 0 ∧ segLines { words := copyDesc } seg0 = [0x800] ∧
     (match (pipeLook s1 0 5 0x40000 1 .read (.src 0 0 0)).2 with
       | .ok x => x == ident
       | _ => false) = true ∧ ident.glob = false ∧ HomeQuiet t (srcReq s 0 0 0 0 chCmd 0x800 ident) 0 ∧
     dirOf t (srcReq s 0 0 0 0 chCmd 0x800 ident).line = {} ∧ (srcReq s 0 0 0 0 chCmd 0x800 ident).line ∉ t.hom.aluLines) := by
  unfold HomeQuiet; decide +kernel
theorem test_met_PipeSlots_idle : live base = true ∧ cellFenced base 47 = false ∧ fenced base pMOV = false ∧ (pickChan base 7).2 = none := by decide +kernel
theorem test_met_PipeSlots :
    (let h : Chan := { fifo := [chCmd], active := [working seg1], nextKey := 1 }
     let s := withChan h
     let s1 := (pickChan s 0).1
     let e := (packLines 0x50000 8 (convertSeg { words := copyDesc } [] seg1 (fun _ _ => 0)).elems).getD 0 (0, 0, 0, 0)
     live s = true ∧ cellFenced s 40 = false ∧ fenced s pMOV = false ∧ (pickChan s 0).2 = some 0 ∧ readySeg (chan s1 0) = some (0, 0) ∧
     activeOf s1 0 0 = some (working seg1, chCmd) ∧ chCmd.xfm = false ∧ dConv { words := copyDesc } = false ∧ dRed { words := copyDesc } = 0 ∧
     dStash { words := copyDesc } = 0 ∧ (rangeTouch (dstRange { words := copyDesc } seg1)).dedup = [0xA00] ∧
     (match (pipeLook s1 0 5 0x50000 1 .write (.dst 0 0 0)).2 with
       | .ok x => x == ident
       | _ => false) = true ∧ ident.attr = 0 ∧ e.1 = 0xA00 ∧ HomeQuiet s (dstReq s 0 0 0 0 chCmd { words := copyDesc } false ident e) 0 ∧
     dirOf s (dstReq s 0 0 0 0 chCmd { words := copyDesc } false ident e).line = {}) := by unfold HomeQuiet; decide +kernel
theorem test_met_MoverEnds :
    (let g : Seg := { seg1 with st := .written }
     let s := withChan { fifo := [chCmd], active := [working g], nextKey := 1 }
     activeOf s 0 0 = some (working g, chCmd) ∧ (working g).segs[0]? = some g ∧ g.out = []) ∧
    (let a := working { seg1 with st := .done }
     let s := withChan { fifo := [chCmd], active := [a], nextKey := 1 }
     activeOf s 0 a.key = some (a, chCmd) ∧ a.half = false ∧ rowsDone a (cdiv (dRows a.desc) 2) = true ∧ ctxLive s 3 = true ∧ bitOf (dw a.desc 6) 14 = false ∧
     bitOf (dw a.desc 6) 16 = true ∧ bitOf s.mov.chHalf 0 = false) ∧
    (let a : Active := { working { seg1 with st := .done } with half := true }
     let f : ChanCmd := { chCmd with next := 1 }
     let s := withChan { fifo := [f], active := [a], nextKey := 1 }
     activeOf s 0 a.key = some (a, f) ∧ a.half = true ∧ a.segs.all (fun g => g.st == .done) = true ∧ a.status = .ok ∧ bitOf (dw a.desc 6) 15 = false ∧
     bitOf (dw a.desc 6) 17 = true ∧ f.next = f.count ∧ (cmdOf s 1 0).isSome = true ∧ (cmdOf s 1 0).map (fun c => c.st) ≠ some .retire) := by decide +kernel
theorem test_met_MoverRegisters :
    (let s : State := { withChan { part := 0, fifo := [chCmd] } with pages := tset base.pages pMOV { enable := true, expert := true } }
     UnitAdmits s root pMOV 0x208 ∧ UnitAdmits s root pMOV 0x240 ∧ chanBusy (chan s s.mov.chSel) = true ∧ fld (1 : Word) 9 0 ≠ (chan s s.mov.chSel).part ∧
     chanBusy (chan s 63) = false) ∧
    (let t : Tbl Nat := (List.range 48).map (fun i => (i, 0x401))
     sealedSlots (tset t 47 0) 0 ≤ 48 ∧ 48 < sealedSlots (tset t 48 0x401) 0) := by unfold UnitAdmits; decide +kernel

/-! ## Tiering -/

/-- Pools of two near frames at 4 MiB and 24 far units at 16 MiB. -/
def pools (fr em : Tbl Heat) : State :=
  { base with tir := { nearBase := 0x400000, nearPages := 2, farBase := 0x1000000, farUnits := 24, frames := fr, embers := em, cfg := 0x8003121, cfgNow := 0x8003121 } }
theorem test_met_TierHeat :
    (let s := { pools [(0, { st := .resident, auto := true })] [] with bcn := { count := 0x10000 } }
     heatDue s = true ∧ tracked (tget s.tir.frames 0).st = true) ∧
    (let s := pools [(0, { st := .resident, auto := true })] [(8, { st := .ember, auto := true, heat := 64, units := 8 })]
     let t := { s with tir := { s.tir with autoDue := true } }
     t.tir.autoDue = true ∧ enabled t pTIR = true ∧ fenced t pTIR = false ∧ demotable t ≠ [] ∧ promotable t ≠ [] ∧ freeFrames t < lowFree t) := by decide +kernel
theorem test_met_TierMoves_command :
    (let c := cmdW [0x28, 0, 0, 0]
     Ready (withCmd c) 1 0 0x28 c ∧ fld (cw c 3) 31 0 = 0 ∧ (withCmd c).tir.cmds.find? (fun x => x.q == 1 && x.seq == 0) = none) ∧
    (let c := cmdW [0x28, 0, 0x400000, 0x100000001]
     Ready (withCmd c) 1 0 0x28 c ∧ fld (cw c 3) 31 0 ≠ 0) := by unfold Ready; decide +kernel
/-- An automatic promotion that waits. -/
def promoting : State :=
  let s := pools [(0, { st := .free })] [(8, { st := .ember, auto := true, units := 8 })]
  { s with tir := { s.tir with autoQ := [(true, 8)] } }
theorem test_met_TierMoves_start :
    (let t := promoting
     fenced t pTIR = false ∧ t.build.tir = true ∧ t.tir.cmds = [] ∧ enabled t pTIR = true ∧ moveSlot t true = some 0 ∧
     t.tir.autoQ.find? (fun e => autoFits t e.1 e.2) = some (true, 8) ∧ (tget t.tir.embers 8).st = .ember ∧ (part t (tget t.tir.embers 8).part).st ≠ .closing ∧
     (part t (tget t.tir.embers 8).part).st ≠ .scrub ∧ takeFrame t = some 0 ∧ t.tir.nearBase.toNat % 128 = 0 ∧
     frameLine t 0 + 32768 ≤ unitLine t 8) := by decide +kernel
/-- Every line is current in a block alone that has no directory entry, no transaction and no request of its own. -/
theorem lineCurrent_quiet (s : State) (k l : Nat) (h1 : homeHere s l = true) (h2 : s.hom.txns = []) (h3 : s.hom.relayQ = []) (h4 : s.hom.dir = []) :
    lineCurrent s k l = true := by
  simp [lineCurrent, h1, h2, h3, h4, tget]
  exact Or.inr ⟨rfl, rfl⟩
theorem homeHere_alone (s : State) (l : Nat) (h : s.cas.sizeM1 = 0) (hp : s.cas.pos = 0) : homeHere s l = true := by
  simp [homeHere, homeOf, blocks, h, hp, Nat.mod_one]
theorem test_met_TierMoves_lines : ∀ l, l < 32768 → lineCurrent promoting kTier (unitLine promoting 8 + l) = true :=
  fun _ _ => lineCurrent_quiet _ _ _ (homeHere_alone _ _ rfl rfl) rfl rfl rfl
theorem test_met_TierMoves_copy :
    (let h : Heat := { st := .out, leaf := 0x200000, leafVal := 0x40003B, units := 0 }
     let m : TierMove := { src := 0, dst := 8, dirty := List.range 256 }
     let s := wrWord { pools [(0, h)] [(8, { st := .inn, units := 8 })] with
       tir := { (pools [(0, h)] [(8, { st := .inn, units := 8 })]).tir with moves := [(15, some m)] } } 0x200000 0x40003B
     m.late = [] ∧ recReady s kTier ((moveEntry s m).leaf / 128) = true ∧
     tget s.tir.moves 15 = some m ∧ m.lossy = false ∧ m.step = .copy ∧ m.broken = false ∧ m.dirty.length ≤ m.switchLines ∧ wdDraining s < 16 ∧
     rdWord s (moveEntry s m).leaf = (moveEntry s m).leafVal ∧ (moveEntry s m).leaf % 8 = 0) := by decide +kernel
theorem test_met_TierMoves_end :
    (let m : TierMove := { fromFar := true, src := 8, dst := 0, step := .withdraw }
     let s := { pools [(0, { st := .inn })] [(8, { st := .out, units := 8 })] with tir := { (pools [(0, { st := .inn })] [(8, { st := .out, units := 8 })]).tir with moves := [(0, some m)] } }
     tget s.tir.moves 0 = some m ∧ m.broken = false ∧ m.wd = none ∧ m.dirty = [] ∧ m.late = [] ∧ m.cmd = none ∧ m.lossy = false ∧ s.hom.waiters = [] ∧ s.hom.setWait = []) ∧
    (let m : TierMove := { src := 0, dst := 8, lossy := true, step := .shown, units := 3, slot := 65535 }
     let s := { pools [(0, { st := .out })] [(8, { st := .inn, units := 3 })] with tir := { (pools [(0, { st := .out })] [(8, { st := .inn, units := 3 })]).tir with moves := [(0, some m)] } }
     tget s.tir.moves 0 = some m ∧ m.lossy = true ∧ m.step = .shown ∧ m.fromFar = false ∧ m.wd = none ∧ m.late = [] ∧ m.dirty = [] ∧ m.cmd = none ∧ m.broken = false) := by decide +kernel
theorem test_met_PoolRegisters :
    (let s : State := { base with pages := tset base.pages pTIR { expert := true } }
     0x238 ∈ [0x218, 0x220, 0x228, 0x230, 0x238] ∧ UnitAdmits s root pTIR 0x238 ∧ enabled s pTIR = false ∧ anyEnrolled s = false) ∧
    UnitAdmits (expert pTIR) root pTIR 0x218 ∧ enabled (expert pTIR) pTIR = true := by unfold UnitAdmits; decide +kernel

/-! ## Memory ports and RAS -/

/-- The base with these reads and writes at port 0. -/
def withPort (q : MemPort) : State := { base with mps := [(0, { q with en := true, ready := true })] }
/-- A read whose data answers host station 0. -/
def read0 : MemRead := { tag := 4095, line := 9, ans := [{ origin := .host 0, kind := .dataOnce }] }
theorem test_met_MemoryPorts :
    (let s := withPort { reads := [read0] }
     read0.pois = 0 ∧ ({ read0 with pois := 3 } : MemRead).pois ≠ 0 ∧ read0.ans.map (fun a => a.status) = [.ok] ∧
     (tget s.mps 0).reads.find? (fun x => x.tag == 4095) = some read0 ∧ read0.ans = [{ origin := .host 0, kind := .dataOnce }] ∧ hostUp s 0 = true ∧
     (false, 4095) ∉ (tget s.mps 0).queue ∧ 256 % 256 = 0 ∧ 255 % 256 ≠ 0 ∧ present s (pNMP0 + 0) = true ∧ fenced s (pNMP0 + 0) = false ∧
     (tget s.mps 0).reads = [read0] ∧ AnsKind.dataOnce ≠ .comp) ∧
    (let s := withPort { queue := [(true, 3)] }
     (tget s.mps 0).en = true ∧ (tget s.mps 0).queue = [(true, 3)] ∧ 0 < (tget s.mps 0).cmdCr + min 1 15 ∧ 0 < (tget s.mps 0).lineCr + min 1 (mpLanes 0)) := by
  decide +kernel
theorem test_met_PatrolScrub : live base = true ∧ ({ page := 19 } : ScrubErr).uncorr = false ∧ ({ page := 19 } : ScrubErr).cell = none ∧
    ({ page := 19 } : ScrubErr).page < pNMP0 ∧ ({ uncorr := true, data := some (5, 128) } : ScrubErr).data = some (5, 128) ∧
    ({ uncorr := true } : ScrubErr).data = none ∧ unfenceable ({ uncorr := true } : ScrubErr).page = true := by decide +kernel
theorem test_met_CellFences :
    (let s : State := { base with pages := tset base.pages pRAS { expert := true } }
     UnitAdmits s root pRAS 0x220 ∧ UnitAdmits s root pRAS 0x228 ∧ cellKind s (fld (0x300 : Word) 2 0) = some (0, 32) ∧ fld (0x1F00 : Word) 12 8 < 32 ∧
     cellFenced s (0 + fld (0x1F00 : Word) 12 8) = false ∧ s.ras.rebal = [] ∧ Idle s ∧ cellKind s (fld (7 : Word) 2 0) = none) ∧
    (let s : State := { base with ras := { rebal := [5] } }
     s.ras.rebal = [5] ∧ rebalDone s 5 = true ∧ s.ras.badDir = [] ∧ s.ras.rebalKeep = [] ∧ s.hom.waiters = [] ∧ s.hom.setWait = []) := by unfold UnitAdmits Idle; decide +kernel

/-! ## Services -/

/-- The base with what drivers use: objects, context 3, queue 1. -/
def served : State := { objects with lmp := { (fetching 0).lmp with cmds := [] } }
theorem test_met_RequestsTaken :
    (let s := withBox 65 { h2sDb := 1, h2s := [0x5020010, 1000, 0] }
     mbServed s 65 = true ∧ bitOf (mbox s 65).h2sDb 0 = true ∧ (mbox s 65).h2s = [0x5020010, 1000, 0] ∧
     fld (0x5020010 : Word) 19 16 = 2 ∧ (0x5020010 : Word) &&& reqReserved = 0 ∧ 2 < fld (0x5030010 : Word) 19 16 ∧
     (0x8000000005020010 : Word) &&& reqReserved ≠ 0 ∧ 0xB0 < fld (0x200B1 : Word) 15 0) := by decide +kernel
theorem test_met_GeneralServices : SvcRuns base 65 0 { code := 0x0001, who := .any, masks := [mask 15 0] } [0x101] ∧ fld (0x101 : Word) 7 0 ≠ 0 ∧ fld (0x101 : Word) 15 8 ≤ 1 ∧
    1 < fld (0x201 : Word) 15 8 ∧ fld (0x100 : Word) 7 0 = 0 ∧
    SvcRuns (withBox 0 { recent := [0x7000003] }) 0 0 { code := 0x0003, who := .any, masks := [mask 7 0] } [7] ∧
    (mbox (withBox 0 { recent := [0x7000003] }) 0).recent.find? (fun x => fld x 31 24 == fld (7 : Word) 7 0) = some 0x7000003 ∧
    (mbox base 0).recent.find? (fun x => fld x 31 24 == fld (7 : Word) 7 0) = none ∧
    SvcRuns base 0 0 { code := 0x0002, who := .root0, masks := [mask 7 0] } [24] ∧ isPage (fld (24 : Word) 7 0) = true ∧ isPage (fld (0x0F : Word) 7 0) = false ∧
    present { base with build := { spn := false } } 24 = false ∧ SvcRuns base 64 0 { code := 0x00B0, who := .bmc, masks := [] } [] := by unfold SvcRuns; decide +kernel
theorem test_met_BeaconService :
    SvcRuns base 65 0 { code := 0x0010, who := .root, masks := [mask 23 0, mask 1 0 ||| mask 23 16], page := some pBCN } [16000, 0] ∧ fld (16000 : Word) 23 0 ≤ 16000 ∧
    fld (0 : Word) 1 0 = 0 ∧ 300 ≤ periodOf { base with boot := { base.boot with fclkKhz := 1200000 } } 250 ∧
    periodOf { base with boot := { base.boot with fclkKhz := 2200000 } } 16000 ≤ 35200 ∧ 16000 < fld (16001 : Word) 23 0 ∧ fld (249 : Word) 23 0 < 250 := by
  unfold SvcRuns; decide +kernel
theorem test_met_OpenAndSeal : SvcRuns base 65 0 { code := 0x0020, who := .root, masks := [mask 5 0] } [63] ∧ (part base (fld (63 : Word) 5 0)).st = .free ∧
    tget base.sec.epochs (fld (63 : Word) 5 0) < 0xFFFFFFFF ∧ fld (0 : Word) 5 0 = 0 ∧
    0xFFFFFFFF ≤ tget ({ base with sec := { epochs := [(63, 0xFFFFFFFF)] } } : State).sec.epochs 63 := by unfold SvcRuns; decide +kernel
theorem test_met_OpenAndSeal_seal :
    (let a : Word := 0x205
     let map := tset base.sec.sealed 5 2
     SvcRuns base 0 0 { code := 0x0021, who := .root, masks := [mask 13 0 &&& ~~~ (mask 7 6)], page := some pMOV } [a] ∧ fld a 5 0 = 5 ∧ fld a 13 8 = 2 ∧
     hasLive base 5 = false ∧ (part base 5).st ≠ .closing ∧ (part base 5).st ≠ .scrub ∧ sealTotal map ≤ 48 ∧ map.length ≤ 8 ∧
     ((openSlots (unsealSlots base.mov.slots 5)).take 2).length = 2 ∧
     (∀ i, i < 8 → sealedSlots (sealAt (unsealSlots base.mov.slots 5) 5 ((openSlots (unsealSlots base.mov.slots 5)).take 2)) i ≤ 48)) ∧
    hasLive run 0 = true ∧ 48 < sealTotal (tset base.sec.sealed 5 49) := by unfold SvcRuns; decide +kernel
/-- Partition 7 at a point of its life, with a range of one page at the end of the memory. -/
def partition7 (st : PartState) (phase : Nat) : State :=
  { base with
    parts := [(0, { st := .open_ }), (7, { st := st, closeSeq := 3 })]
    sec := { layout := [(1023, { part := 7, valid := true, base := 15, len := 1 })], snuffPart := 7, snuffPhase := phase } }
theorem test_met_PartitionCloses : SvcRuns (partition7 .open_ 0) 0 0 { code := 0x0022, who := .root, masks := [mask 5 0], page := some pLMP } [7] ∧ (part (partition7 .open_ 0) 7).st = .open_ ∧
    ctxsOf (partition7 .open_ 0) 7 = [] ∧ (part (partition7 .open_ 0) 8).st ≠ .open_ ∧ (part (partition7 .closing 0) 7).st = .closing ∧
    (partition7 .closing 0).sec.snuffPhase = 0 ∧ closeReady (partition7 .closing 0) 7 = true ∧ (partition7 .closing 0).hom.windows = [] ∧
    (let s : State := { partition7 .closing 0 with lan := { wds := [{ part := 7 }] } }
     (part s 7).st = .closing ∧ closeReady s 7 = false) := by unfold SvcRuns; decide +kernel
theorem test_met_Snuff : (knownLines (partition7 .scrub 3)).all (fun l => !lineOfPart (partition7 .scrub 3) 7 l) = true ∧
    (∀ e, e ∈ (partition7 .scrub 3).sec.layout → someFenced (partition7 .scrub 3) e.2.base e.2.len = false) ∧
    (∀ e, e ∈ (partition7 .scrub 3).tir.frames ++ (partition7 .scrub 3).tir.embers → tracked e.2.st = false ∨ e.2.part ≠ 7) ∧
    (partition7 .scrub 4).sec.snuffPhase = 4 ∧ 7 ≠ (partition7 .scrub 4).sec.snuffMb := by decide +kernel
theorem test_met_LayoutServices :
    (let s := { base with parts := [(0, { st := .open_ }), (7, { st := .open_ })] }
     let v : Svc := { code := 0x0023, who := .root, masks := [mask 9 0 ||| mask 21 16 ||| mask 25 24, mask 45 22, mask 23 0] }
     (notCoherent s).filter (ofHost 7) = [] ∧
     (notCoherent { s with hom := { setWait := [{ hreq with part := 7 }] } }).filter (ofHost 7) ≠ [] ∧
     SvcRuns { s with hom := { setWait := [{ hreq with part := 7 }] } } 0 0 v (withOp [0x703FF, 0x3C00000, 1] 25 24 1) ∧
     SvcRuns s 0 0 v (withOp [0x703FF, 0x3C00000, 1] 25 24 1) ∧ assignRefused s 1023 7 (fld (0x3C00000 : Word) 45 22) 1 = false ∧ assignRefused s 1023 0 15 1 = true) ∧
    (let s := partition7 .open_ 0
     let v : Svc := { code := 0x0023, who := .root, masks := [mask 9 0 ||| mask 21 16 ||| mask 25 24, mask 45 22, mask 23 0] }
     SvcRuns s 0 0 v (withOp [0x703FF, 0, 0] 25 24 2) ∧ removeRefused s 1023 7 = false ∧ (tget s.sec.layout 1023).held = false ∧ removeRefused s 1022 7 = true ∧
     s.lan.wdWait = [] ∧ wdDraining s < 16 ∧ 16 ≤ wdDraining { s with lan := { wds := List.replicate 16 { kind := 2 } } } ∧
     SvcRuns { s with lan := { wds := List.replicate 16 { kind := 2 } } } 0 0 v (withOp [0x703FF, 0, 0] 25 24 2) ∧
     removeRefused { s with lan := { wds := List.replicate 16 { kind := 2 } } } 1023 7 = false) ∧
    (let e : Layout := { part := 7, valid := true, base := 15, len := 1, removing := 2 }
     let s : State := { base with sec := { layout := [(1023, e)] } }
     s.sec.snuffPhase = 0 ∧ scrubbing s = some (1023, e) ∧ (knownLines s).all (fun l => !inEntry e l) = true ∧ someFenced s e.base e.len = false) := by
  unfold SvcRuns; decide +kernel
theorem test_met_ContextServices : SvcRuns served 0 0 { code := 0x0030, who := .driver, masks := [mask 11 0], page := some pLMP } [5] ∧ ownSpace served 0 5 = true ∧
    freeCtx served = some 0 ∧ ownSpace served 0 4095 = false ∧
    SvcRuns served 0 0 { code := 0x0031, who := .driver, masks := [mask 15 0], page := some pLMP } [3] ∧ ctxIdx served 3 = some 3 ∧ (ctxOf served 3).part = 0 ∧
    (ctxOf served 3).killMb = none ∧ (ctxOf served 3).st = .live ∧ ctxIdx served 4096 = none ∧
    (ctxOf { served with lmp := { ctxs := [(3, { st := .lost })] } } 3).st = .lost ∧ (ctxOf { served with lmp := { ctxs := [(3, { st := .live, part := 9 })] } } 3).part ≠ 0 ∧
    SvcRuns served 0 0 { code := 0x0032, who := .driver, masks := [mask 51 15], page := some pLAN } [0x8000] ∧ freeSpace served = some 0 ∧
    SvcRuns served 0 0 { code := 0x0033, who := .driver, masks := [mask 11 0], page := some pLAN } [5] ∧ (tget served.lan.spaces 5).bound ≠ 0 ∧
    (let s : State := { served with lan := { spaces := [(4095, { valid := true, taken := true })] } }
     SvcRuns s 0 0 { code := 0x0033, who := .driver, masks := [mask 11 0], page := some pLAN } [4095] ∧ (tget s.lan.spaces 4095).part = 0 ∧
     (tget s.lan.spaces 4095).putMb = none ∧ s.lan.wdWait = [] ∧ wdDraining s < 16 ∧
     (tget s.lan.spaces 4095).bound = 0 ∧ ownSpace s 0 4095 = true) := by unfold SvcRuns; decide +kernel
theorem tget_map_range {α : Type} [Inhabited α] (x : α) (l : List Nat) (k : Nat) (h : k ∈ l) : tget (l.map (fun i => (i, x))) k = x := by
  induction l with
  | nil => cases h
  | cons a t ih =>
    simp only [List.map_cons, tget]
    split
    · rfl
    · next hne =>
      rcases List.mem_cons.mp h with rfl | ht
      · exact absurd rfl hne
      · exact ih ht
theorem test_met_ContextServices_full :
    freeSpace { base with lan := { spaces := (List.range 4096).map (fun i => (i, { taken := true })) } } = none ∧
    freeCtx { served with lmp := { ctxs := (List.range 4096).map (fun i => (i, { st := .lost })) } } = none ∧
    ownSpace { served with lmp := { ctxs := (List.range 4096).map (fun i => (i, { st := .lost })) } } 0 5 = true := by
  refine ⟨?_, ?_, by decide +kernel⟩ <;>
  · simp only [freeSpace, freeCtx]
    rw [List.find?_eq_none]
    intro i hi
    simp [tget_map_range _ _ _ hi]
theorem test_met_QueueServices :
    SvcRuns served 0 0 { code := 0x0034, who := .driver, masks := [mask 56 6, mask 56 5, mask 4 0 ||| mask 32 16], page := some pLMP } [0x10000, 0x20000, 0x100030004] ∧
    mayEnable served (newQueue 0 0x10000 0x20000 0x100030004) (queueCtl 0x100030004) = true ∧ freeQueue served = some 0 ∧
    mayEnable served (newQueue 0 0x10040 0x20000 0x30004) (queueCtl 0x30004) = false ∧
    SvcRuns served 0 0 { code := 0x0035, who := .driver, masks := [mask 9 0], page := some pLMP } [1] ∧ queueFree served 1 = false ∧ (queue served 1).part = 0 ∧
    (queue served 1).killMb = none ∧ qInFlight served 1 = 0 ∧ qInFlight (withCmd (cmdW [0])) 1 ≠ 0 ∧
    (queue { base with lmp := { queues := [(1, { part := 9 })] } } 1).part ≠ 0 := by unfold SvcRuns; decide +kernel
theorem test_met_RingServices :
    SvcRuns base 0 0 { code := 0x0036, who := .driver, masks := [mask 4 0 ||| mask 51 12, mask 51 6, mask 4 0 ||| mask 31 8 ||| mask 63 32], page := some pLMP }
      [0x100006, 0x200000, 6] ∧ partCtxBusy base 0 = false ∧ objTableOk base 0 0x100006 0x200000 6 = true ∧ objTableOk base 0 0x100005 0x200000 6 = false ∧
    partCtxBusy served 0 = true ∧
    (let s := updPart objects 0 (fun p => { p with faultObj := none, dispObj := none })
     SvcRuns s 0 0 { code := 0x0037, who := .driver, masks := [mask 23 0, mask 4 0, mask 23 0 ||| mask 63 32] } [1, 16, 0xFFFF00000001] ∧
     linesAsk s kSudric [] (objLines s 0 ([1, 1] ++ faultRefs (part s 0))) = none ∧ linesAsk s kSudric [] (objLines s 0 ([1] ++ (part s 0).dispObj.toList)) = none ∧
     ringObjOk s 0 1 false (64 + 2 ^ 15 * 64) = true ∧ ringObjOk s 0 1 true ((0xFFFF + 1) * 64) = true ∧ (part s 0).faultObj = none ∧
     (takeAll s 0 [] [1, 1]).2 = .ok ∧ ringObjOk s 0 1 false (64 + 2 ^ 16 * 64) = false ∧
     SvcRuns s 0 0 { code := 0x0038, who := .driver, masks := [mask 23 0, mask 3 0] } [1, 12] ∧ ringObjOk s 0 1 true (2 ^ 12 * 128) = true ∧
     (part s 0).dispObj = none ∧ (takeAll s 0 [] [1]).2 = .ok ∧ ringObjOk s 0 2 true (2 ^ 4 * 128) = false) := by unfold SvcRuns; decide +kernel
/-- The base with a paused token, and one line of engine work held by it. -/
def paused : State :=
  { run with eng := { run.eng with tokens := [(1024, { st := .paused, ctxs := [3], space := 5 })]
                                   reqs := [(0, some { ctx := 3, space := 5, bursts := [{ va := 0x1000, lines := 1, st := .held, token := 1024 }] })] } }
theorem test_met_Resumes : SvcRuns paused 0 0 { code := 0x0039, who := .driver, masks := [mask 16 0] } (lmod [1024] 0 (fun a => setBit a 16 false)) ∧
    SvcRuns paused 0 0 { code := 0x0039, who := .driver, masks := [mask 16 0] } (lmod [1024] 0 (fun a => setBit a 16 true)) ∧
    (tget paused.eng.tokens 1024).st = .paused ∧ (tget paused.eng.tokens 1024).part = 0 ∧ tokenHeld paused 1024 = true ∧ paused.mov.chans = [] ∧
    (tget paused.eng.tokens 1).st = .free ∧ (tget ({ paused with eng := { tokens := [(1, { st := .paused, part := 9 })] } } : State).eng.tokens 1).part ≠ 0 := by
  unfold SvcRuns; decide +kernel
theorem test_met_HostWatches :
    SvcRuns objects 0 0 { code := 0x0040, who := .driver, masks := [mask 23 0 ||| mask 63 32, BitVec.allOnes 64, mask 36 0] } [1, 5, 0x800000000] ∧
    linesAsk objects kSudric (fenceLine objects 0 1 0) (objLines objects 0 [1]) = none ∧ linesAsk objects kSudric (fenceLine objects 0 2 0) (objLines objects 0 [2]) = none ∧
    fenceCheck objects 0 1 0 = some 0x400000 ∧ gpaLookup objects 0 0x400000 = (.ok, 0x400000, none) ∧ recKind objects 0x400000 = 0 ∧ 8 ≤ fld (0x800000000 : Word) 36 32 ∧
    freeWatch objects 0 = some 0 ∧ (objOp objects 0 1 true).2 = (.ok, 2) ∧ fenceCheck objects 0 2 0 = none ∧
    (let s : State := { base with fnc := { watches := [(4095, some { host := some 31 })] } }
     SvcRuns s 0 0 { code := 0x0041, who := .driver, masks := [mask 12 0] } [4095] ∧ watchOf s 4095 = some { host := some 31 } ∧ 31 < 32 ∧ watchOf s 0 = none) := by
  unfold SvcRuns; decide +kernel
theorem test_met_UnitServices :
    SvcRuns base 0 0 { code := 0x0050, who := .root0, masks := [mask 5 0, chCtlMask], unit := some pMOV, page := some pMOV } [63, 7] ∧ chanBusy (chan base 63) = false ∧
    (let s := withChan { fifo := [chCmd] }
     chanBusy (chan s 0) = true ∧ fld (7 : Word) 9 0 ≠ (chan s 0).part) ∧
    (let s := wrWord base 0x40000 0x100
     SvcRuns s 0 0 { code := 0x0051, who := .driver, masks := [mask 7 0, mask 51 8], unit := some pXFM } [255, 0x40000] ∧ fld (tget s.xfm.own 255) 9 0 = 0 ∧
     linesAsk s kSudric (gpaLines s 0 (0x400 * 256) 256) [] = none ∧ bitOf (tget s.xfm.own 255) 11 = false ∧
     (match gpaImage s 0 0x40000 with
      | .ok p => p == 0x100 :: List.replicate 31 0 && progFieldsOk p
      | _ => false) = true) ∧
    fld (tget ({ base with xfm := { own := [(255, 9)] } } : State).xfm.own 255) 9 0 ≠ 0 := by unfold SvcRuns; decide +kernel
theorem test_met_WindowServices :
    (let b : Word := 0x4000003
     let c : Word := 0xE000002
     SvcRuns base 65 0 { code := 0x0068, who := .root, masks := [mask 5 0, mask 42 0, mask 47 0], page := some pHOM } [63, b, c] ∧ bitOf b 0 = true ∧
     winRefused base 63 { w0 := b, w1 := c } = none ∧ winRefused base 63 { w0 := b, w1 := 0xF000002 } = some .permission ∧ bitOf (0 : Word) 0 = false) ∧
    (let s : State := { base with hom := { winDrain := [(63, { w0 := 3, w1 := 2 })] } }
     winCopies s (tget s.hom.winDrain 63) = [] ∧ s.hom.txns = []) ∧ winCopies base (tget base.hom.windows 63) = [] := by unfold SvcRuns; decide +kernel
theorem test_met_ReductionServices :
    (let s := wrWord (wrWord (wrWord base 0x400000 0x105) 0x400008 0x3000) 0x400010 0x8001000000002
     SvcRuns s 0 0 { code := 0x0060, who := .driver, masks := [mask 51 6] } [0x400000] ∧ gpaLookup s 0 (fld (0x400000 : Word) 51 6 * 64) = (.ok, 0x400000, none) ∧
     linesAsk s kSudric (gpaLines s 0 0x400000 64) [] = none ∧ linesAsk s kSudric (gpaLines s 0 0x500000 64) [] = none ∧
     bytesPois s 0x400000 64 = false ∧ sessionOk s (rdWords s 0x400000 8) (sessionOf (rdWords s 0x400000 8) 0 0x400000) = true ∧ freeSession s = some 0 ∧
     sessionOk s (rdWords s 0x500000 8) (sessionOf (rdWords s 0x500000 8) 0 0x500000) = false) ∧
    (let s := { run with hom := { sessions := [(255, some sess)] } }
     SvcRuns s 0 0 { code := 0x0061, who := .driver, masks := [mask 7 0, mask 35 0] } [255, 0x10003] ∧ ownSession s 0 255 = some sess ∧ ownCtx s 0 3 = true ∧
     fld (0x10003 : Word) 35 16 < sess.n ∧ ownSession s 0 0 = none ∧ SvcRuns s 0 0 { code := 0x0062, who := .driver, masks := [mask 15 0] } [3] ∧
     ownCtx s 0 4096 = false ∧ SvcRuns s 0 0 { code := 0x0063, who := .driver, masks := [mask 7 0] } [255]) := by unfold SvcRuns; decide +kernel
/-- Object 1 may be tiered; stage 2 of partition 0 maps its page to near frame 0, which lies at 4 MiB. -/
def tiered : State :=
  let s : State := { objects with lan := { objects.lan with s2 := [(0, { en := true, root := 0x8000 })] }
                                  tir := { nearBase := 0x400000, nearPages := 1 } }
  wrWord (wrWord (wrWord (wrWord (wrWord s 0x100040 0x1000D) 0x8000 0x10001) 0x10000 0x18001) 0x18000 0x3B) 0x18008 0x40003B
theorem test_met_TierServices : linesAsk tiered kSudric (enrolLines tiered 0 1) [] = none ∧ linesAsk tiered kSudric (enrolLines tiered 0 64) [] = none ∧
    SvcRuns tiered 0 0 { code := 0x0070, who := .driver, masks := [mask 23 0], unit := some pTIR } [1] ∧
    (match tierObj tiered 0 1 with
     | .ok x => x == 0x100040
     | _ => false) = true ∧ fld (rdWord tiered (0x100040 + 24)) 31 0 = 1 ∧ bitOf (rdWord tiered 0x100040) 4 = false ∧
    fld (rdWord tiered (0x100040 + 16)) 51 22 * 2 ^ 22 = 0x400000 ∧ enrolPlace tiered 0 0x400000 = some (0x18008, 0x40003B, 0) ∧
    enrolPlace { tiered with tir := {} } 0 0x400000 = none ∧
    (match tierObj tiered 0 64 with
     | .error st => st == .permission
     | _ => false) = true ∧
    SvcRuns tiered 0 0 { code := 0x0071, who := .driver, masks := [mask 23 0], unit := some pTIR } [1] ∧
    SvcRuns tiered 0 0 { code := 0x0072, who := .root0, masks := [mask 0 0 ||| mask 28 4, mask 47 0, mask 31 0], unit := some pTIR, page := some pTIR } [0, 0x100, 0] ∧
    fld (0x100 : Word) 7 0 < fld (0x100 : Word) 15 8 ∧ fld (0x101 : Word) 15 8 ≤ fld (0x101 : Word) 7 0 := by unfold SvcRuns; decide +kernel
theorem test_met_Attestation :
    (let v : Svc := { code := 0x0080, who := .attest, masks := [mask 1 0 ||| mask 31 16, mask 51 6] ++ List.replicate 4 (BitVec.allOnes 64) }
     SvcRuns base 0 0 v (withOp [0, 0x400000, 1, 2, 3, 4] 1 0 0) ∧ base.det.fpStale = false ∧ ({ base with det := { fpStale := true } } : State).det.fpStale = true ∧
     SvcRuns base 64 0 v (withOp [0, 0x400000, 1, 2, 3, 4] 1 0 1) ∧
     (let s : State := { base with sec := { pieces := [(64, [1, 2, 3])] } }
      SvcRuns s 64 0 v (withOp [0x10000, 0, 0, 0, 0, 0] 1 0 2) ∧ tget s.sec.pieces 64 ≠ []) ∧ tget base.sec.pieces 64 = []) := by unfold SvcRuns; decide +kernel
theorem test_met_Attestation_range (n : List Byte) : rangeInLayout base 0 (fld (0x400000 : Word) 51 6 * 64) (reportOf base 0 n).length = true ∧
    rangeInLayout base 0 (fld (0x4000000 : Word) 51 6 * 64) (reportOf base 0 n).length = false := by
  rw [reportOf_length]; decide +kernel
theorem test_met_Fingerprints : SvcRuns base 65 0 { code := 0x0092, who := .root, masks := [mask 6 0] } [64] ∧ fld (64 : Word) 6 0 ≤ 64 ∧ 64 < fld (65 : Word) 6 0 ∧
    base.det.fpStale = false ∧ base.det.fpWait = [] ∧ UnitAdmits (expert pDET) root pDET 0x200 ∧ (expert pDET).cas.master = true ∧
    (8 : Word) &&& mask 3 0 ≠ (expert pDET).det.mode := by unfold SvcRuns UnitAdmits; decide +kernel
theorem test_met_Reservations :
    SvcRuns base 65 0 { code := 0x0081, who := .root, masks := [mask 5 0 ||| mask 9 8 ||| mask 25 16, mask 15 0] } [0x300033F, 100] ∧
    sharesWith base 63 3 768 + 16 * sealTotal base.sec.sealed ≤ 768 ∧ 768 < sharesWith base 63 3 769 + 16 * sealTotal base.sec.sealed ∧
    btDue (withBcn { count := 64 }) (withBcn { count := 64 }).sec.resEnd.toNat = true ∧ btDue (withBcn { count := 63 }) (withBcn { count := 63 }).sec.resEnd.toNat = false := by
  unfold SvcRuns; decide +kernel
theorem test_met_Kindle :
    (let s := withBcn { mode := .locked, uncertain := false }
     let v : Svc := { code := 0x0090, who := .cascade, masks := [mask 0 0, BitVec.allOnes 64, BitVec.allOnes 64] }
     SvcRuns s 65 0 v (lmod [1, 16, 3] 0 (fun a => setBit a 0 true)) ∧ armRefused s 16 = none ∧ armRefused s 15 = some .timeout ∧ armRefused base 16 = some .permission ∧
     SvcRuns s 65 0 v (lmod [0, 16, 3] 0 (fun a => setBit a 0 false)) ∧ kindleGone s = false ∧ kindleGone { s with det := { kindle := 2 } } = true ∧ s.det.kindle ≠ 1) ∧
    (let s : State := { base with det := { kindle := 1, kindlePulse := some 100 } }
     s.det.kindle = 1 ∧ releaseAt s = some 116) := by unfold SvcRuns; decide +kernel
theorem test_met_Lockstep :
    (let s := { withBcn { mode := .locked, uncertain := false } with det := { kindle := 1, kindleAt := 16 } }
     let v : Svc := { code := 0x0091, who := .root, masks := [mask 0 0 ||| mask 23 8, mask 45 14, mask 45 14, BitVec.allOnes 64] }
     let l : List Word := [0x101, 0x8000, 0x8000, 16]
     SvcRuns s 65 0 v (lmod l 0 (fun a => setBit a 0 true)) ∧ pairRefused s (argOf l 0) (argOf l 1) (argOf l 3) = none ∧
     pairRefused s (argOf l 0) (argOf l 1) 17 = some .permission ∧ SvcRuns s 65 0 v (lmod l 0 (fun a => setBit a 0 false)) ∧ lockstepOn s = true) ∧
    (let s := { withSpan { st := .active } with det := { ls := 2, lsStart := some 5, lsWin := 4, lsPeer := 0x10001, lsRing := 0x8000 } }
     s.det.lsStart = some 5 ∧ s.det.ls = 2 ∧ s.det.lsWin ≤ lsLag s ∧ fld s.det.lsPeer 15 0 ≠ fld s.cas.nodeId 15 0 ∧ lsTakes s { node := 1, op := .wrFull, line := 0x8000 / 128 } = true ∧
     lsTakes s { node := 1, op := .wrFull, line := 0x8000 / 128 + 127 } = true) := by unfold SvcRuns; decide +kernel
/-- A block of a cascade of two at position 1, with the master behind port 3; and the same with no route. -/
def second : State :=
  { base with cas := { base.cas with pos := 1, master := false, sizeM1 := 1, peers := [(3, some { master := true, sizeM1 := 1, up := true })], routes := [(0, 11)] } }
def alone : State := { second with cas := { second.cas with routes := [] } }
theorem test_met_ServiceRelay : relayOf (.redClose 63 255 [3]) = some (63, 255, 0x63, [3]) ∧ mbServed second 63 = true ∧ second.cas.master = false ∧
    bootAllows second 63 0x63 = true ∧ masterPos second = some 0 ∧ casPort second 0 = some 3 ∧
    (masterPos alone).all (fun b => (casPort alone b).isNone) = true ∧ mbServed alone 63 = true ∧ bootAllows alone 63 0x63 = true ∧
    base.cas.master = true ∧ cascadeScope 0x63 = true ∧ ctxScope 0x63 = false := by decide +kernel
/-- The record of object 1 stands in a line that a cache owns. -/
def elsewhere : State := { objects with hom := { dir := [(0x100040 / 128, { st := .owned 0 })] } }
theorem test_met_ServiceLines : svcLines elsewhere (.dispatchRingSet 0 9 [1, 4]) = some (0, 9, 0x38, [], objLines elsewhere 0 ([1] ++ (part elsewhere 0).dispObj.toList)) ∧
    mbServed elsewhere 0 = true ∧ elsewhere.cas.master = true ∧
    (linesAsk elsewhere kSudric [] (objLines elsewhere 0 ([1] ++ (part elsewhere 0).dispObj.toList))).isSome = true := by decide +kernel

/-! ## Worked examples of the manual -/

/-- E4M3 460 rounds to 448 as an ordinary rounding (the example of R349); 470 lies beyond and saturates. -/
theorem test_e4m3_460 : cvt 0x0B .rne (.fin false 460 0) = { code := 0x7E } := by decide +kernel
theorem test_e4m3_470 : cvt 0x0B .rne (.fin false 470 0) = { code := 0x7E, sat := true } := by decide +kernel
/-- "One block into MXFP6 E3M2": the values 5.25, -0.400390625 and 0.010009765625 among zeros. -/
theorem test_mxfp6_block :
    let e := mxEncode 0x22 (([0x40A8, 0xBECD, 0x3C24] ++ List.replicate 29 0).map (fun c => (valOf 0x09 c, Rnd.rne)))
    e.1 = 0x7D ∧ (e.2.take 4).map Cv.code = [0x1D, 0x2E, 0x01, 0x00] := by decide +kernel
/-- The same block under keyed rounding: the second value becomes -1.75 for U below 6,815,744 and only then. -/
theorem test_mxfp6_keyed :
    mxPut 0x22 (.keyed 6815743) (scaleV (valOf 0x09 0xBECD) 2) = { code := 0x2F, sr := true } ∧
    mxPut 0x22 (.keyed 6815744) (scaleV (valOf 0x09 0xBECD) 2) = { code := 0x2E, sr := true } := by decide +kernel
/-- "Four INT8 values to 6 bits". -/
theorem test_raw_int8_to_6 :
    ((packLines 0 6 ([5, 0xFD, 40, 0xD8].map (fun x => (rawConv 8 6 true true x, false)))).map (fun l => (l.1, l.2.1.toNat, l.2.2.1.toNat))) =
      [(0, 0x81FF45, 7)] := by decide +kernel
/-- The program of "A scaled residual quantized to E4M3". -/
def residual : List Word := [0x142] ++ List.replicate 7 0 ++ [0xC0084, 0x94448C] ++ List.replicate 14 0 ++ [0xC37000003E000000, 0x43700000] ++ List.replicate 6 0
theorem test_program_checks : progFieldsOk residual = true ∧ progLen residual = 2 ∧ progOut residual = 2 := by decide +kernel
/-- Its result for 3.0 and 13,421,773 x 2^-24: 9,856,614 x 2^-23 in FP32, then 0x3A for U below 6,710,880, else 0x39. -/
theorem test_program_value :
    let v := (runProg residual (.fin false 3 0) (.fin false 13421773 (-24)) 0 0 (fun _ => 0)).1
    toF32 v = toF32 (.fin false 9856614 (-23)) ∧ cvt 0x0B (.keyed 6710879) v = { code := 0x3A, sr := true } ∧
    cvt 0x0B (.keyed 6710880) v = { code := 0x39, sr := true } := by decide +kernel
/-- "Order decides the bits": the fold in index order gives 258 with and without an FP32 accumulator. -/
theorem test_ordered_fold :
    let c := fun (i v : Nat) => (i, (BitVec.ofNat 1024 v : LineData), (BitVec.ofNat 128 3 : LineMask))
    foldElem 0 9 2 0 false none [c 0 0x3F80, c 1 0x3F80, c 2 0x4380] = some 0x4381 ∧
    foldElem 0 9 2 0 true none [c 0 0x3F80, c 1 0x3F80, c 2 0x4380] = some 0x4381 ∧
    foldElem 0 9 2 0 false none [c 0 0x4380, c 1 0x3F80, c 2 0x3F80] = some 0x4380 := by decide +kernel
/-- "One line in Atdaolo": four blocks, the near tier of 1 TiB interleaved from NPA 0. -/
def atdaolo : State := { base with cas := { sizeM1 := 3, ranges := [(0, { base := 0, ctl := w64 (0x2000000 + 262144) })] } }
theorem test_home_of_line : homeOf atdaolo (0x1234567880 / 128) = (3, 0) ∧ portOf atdaolo (0x1234567880 / 128) = some (3, 0) := by decide +kernel
/-- "A release in Atdaolo": A_K + 16 - PIN_DLY for blocks sampling 5 and 8 cyc after P_K, and 16 on the master. -/
def armed (m : Bool) (p d : Nat) : State := { base with cas := { master := m }, det := { kindlePulse := some p, kindleCfg := w64 d } }
theorem test_kindle_release : releaseAt (armed true 0 0) = some 16 ∧ releaseAt (armed false 5 5) = some 16 ∧ releaseAt (armed false 8 7) = some 17 := by
  decide +kernel
/-- "Throttling an Atdaolo block with one sealed tenant": 16 sealed and 12 unsealed slots of 64 admitted at level 6. -/
theorem test_throttled_slots :
    let s : State := { base with clk := { throttle := 6 }, mov := { slotsNow := (List.range 16).map (fun k => (4 * k, 0x401)) } }
    ((List.range 64).filter (slotAdmits s 0)).length = 12 := by decide +kernel
/-- The empty message of the AES-256-GCM examples of NIST: a key of zeros and an IV of zeros. -/
theorem test_gcm_tag : gcmTag (List.replicate 32 0) (List.replicate 12 0) [] =
    [0x53, 0x0F, 0x8A, 0xFB, 0xC7, 0x45, 0x36, 0xB9, 0xA9, 0x63, 0xB4, 0xF1] := by decide +kernel
/-- R97, R101: the advance, then the classes in order, and within one class HST0 before HST1. -/
theorem test_event_order :
    eventOrder [.heatUpdate, .wickHoldEnd 5, .cntClear { st := 1 } 2, .cntClear {} 0, .throttleChange 2, .beaconCoast] =
      [.beaconCoast, .throttleChange 2, .cntClear {} 0, .cntClear { st := 1 } 2, .wickHoldEnd 5, .heatUpdate] := by decide +kernel

/-! ## Keys and encryption: expected bytes from OpenSSL's AES-256 and HMAC-SHA-384 -/

/-- Bytes 0 to 31 as a root key, partition 3 and epoch 5. -/
def aRoot : List Byte := (List.range 32).map (BitVec.ofNat 8)
theorem test_mem_key : bytesNat ((Sys2Proof.Machine.memKey aRoot 3 5).take 8).reverse = 0xEC0CAB9179CFE20A := by decide +kernel
/-- FIPS 197, C.3. -/
theorem test_aes256 :
    aesEnc (aesKeys (List.range 32)) ((List.range 16).map (fun i => 17 * i)) =
      [0x8E, 0xA2, 0xB7, 0xCA, 0x51, 0x67, 0x45, 0xBF, 0xEA, 0xFC, 0x49, 0x90, 0x4B, 0x49, 0x60, 0x89] := by decide +kernel
theorem test_xts_line :
    ((xtsEncrypt (memXts aRoot 3 5) 0x12345 ((List.range 128).map (fun i => BitVec.ofNat 8 (7 * i + 1)))).map BitVec.toNat).drop 112 =
      [0x9B, 0xA8, 0xBE, 0x19, 0x9C, 0x12, 0x46, 0x37, 0x21, 0x45, 0x5E, 0xA5, 0x7B, 0xF7, 0xD6, 0xF3] := by decide +kernel

/-- Bytes placed at an offset of the staging array. -/
def stagedAt (a n v : Nat) : Tbl Byte := (((List.range n).map (fun i => a + i)).zip (natBytes n v)).filter (fun e => e.2 != 0)

/-- A signed image of 768 bytes with SVN 3, made outside the model with a key of its own, and start parameters. -/
def imageTable : Tbl Byte :=
  stagedAt 0 32 0x100000003000003000000000143524453 ++
  stagedAt 0x20 48 0xbb09e99f6e0f5321ec4eda92d794c3dff4b29ad462a9ccb65f29a5d2a05b2daa4ac6367bf1466f5b489516fbba68cef7 ++
  stagedAt 0x50 48 0x29483dc3e8d3b2ee9b7eb956b653a6376852a7095ef629ef5bac25972ad3d8dbc5bb5213eb345cef1dbb038c4f9b38fd ++
  stagedAt 672 48 0xf52f8019d6810393b29317f261473a96d95220e7c724460053aa4b32efd81bde2eb3b48ec3c60c04d1e65c7f0cd0ebe9 ++
  stagedAt 720 48 0x4a5a6973e24ebc6e74fe111f9f265e4875e17a34331b59d7ec883730941c38c4717f441e7028b2e8ddead3be74ceb4aa ++
  stagedAt 0x1FF000 24 0x3e8001e84804d525053

/-- A block that waits for this image, with the digest of its key in ROM. -/
def waiting : State :=
  { boot := { stage := 3, staging := imageTable }
    cas := { master := true }
    build := { imageKeyDigest := natBytes 48 0x3725df45dd355e75d1412c1c695569e9c3deca39d4b05e01d9ec87678f1444f5bcfc9d6359daf271585e6a2c73aa9ec5 } }

theorem test_image_accepted : imageErr waiting = none := by decide +kernel
theorem test_signature_changed : ecVerify 0xf7ce68bafb1695485b6f46f17b36c64aaa2d5ba0d2a5295fb6cca962d49ab2f4dfc394d792da4eec21530f6e9fe909bb 0xfd389b4f8c03bb1def5c34eb1352bbc5dbd8d32a9725ac5bef29f65e09a7526837a653b656b97e9beeb2d3e8c33d4829 0xdb73cd02e9d362c1c85efb40b885a492c1a286595c63093ccdf0bf0d7b40985486e4eabb4279f341bce200f3fad7866e
    0xe9ebd00c7f5ce6d1040cc6c38eb4b32ede1bd8ef324baa53004624c7e72052d9963a4761f21793b2930381d619802ff5 0xaab4ce74bed3eadde8b228701e447f71c4381c94303788ecd7591b33347ae175485e269f1f11fe746ebc4ee273695a4b = false := by decide +kernel
theorem test_met_ImageStart : SvcRuns waiting 64 0 { code := 0x00A0, who := .start, masks := [] } [] ∧ waiting.boot.stage = 3 ∧ waiting.boot.running = false ∧
    paramsOk waiting = true ∧ rangesOk (paramMemory waiting) = true ∧ poolsOk (paramMemory waiting) = true ∧ waiting.boot.restarted = false ∧
    imageErr { boot := { stage := 3 } } = some 3 ∧ SvcRuns { boot := { stage := 3 } } 0 0 { code := 0x00A0, who := .start, masks := [] } [] := by
  unfold SvcRuns; decide +kernel

end Sys2Proof.Tests
end

section
/-!
# Messages at a station link

What a message that leaves the block changes: which messages of a station have left or wait, and what of the state stays (R60, R239).
-/
namespace Sys2Proof.Machine
open Sys2Proof

/-! ## The link record of a host station -/

/-- One credit of a class is spent. -/
def spendCredit (c : Nat) (l : Link) : Link := { l with held := tupd l.held c (fun n => n - 1) }

/-- A message waits at a link for credits. -/
def holdBack (m : OutMsg) (l : Link) : Link := { l with waiting := l.waiting ++ [m] }

theorem hst_updLink (s : State) (p h : Nat) (f : Link → Link) :
    hst (updLink s p f) h = if p ≠ pENG ∧ h = p - pHST0 then f (hst s h) else hst s h := by
  by_cases hp : p = pENG
  · simp [updLink, hst, hp]
  · by_cases hh : h = p - pHST0 <;> simp [updLink, hst, hp, hh, tget_tupd_ne]

theorem updLink_eng_of_ne (s : State) (p : Nat) (f : Link → Link) (hp : p ≠ pENG) : (updLink s p f).eng = s.eng := by
  simp [updLink, hp]

theorem stationPage_ne_engine (h : Nat) : pHST0 + h ≠ pENG := by show 0x11 + h ≠ 0x10; omega

theorem linkSt_of_hostUp {s : State} {h : Nat} (hup : hostUp s h = true) : (linkOf s (pHST0 + h)).st = 2 := by
  rw [linkOf_host]
  simp only [hostUp, Bool.and_eq_true, beq_iff_eq] at hup
  exact hup.1

/-- What the sending of a message that a station link carries can do (R239, R240): nothing while the link is down, else the message
leaves against a credit or is held back. -/
theorem emit_cases {s : State} {m : OutMsg} {p c : Nat} (hm : msgLink s m = some (p, c)) :
    ((linkOf s p).st ≠ 2 ∧ emit s m = s) ∨
    ((linkOf s p).st = 2 ∧ (emit s m = { updLink s p (spendCredit c) with out := s.out ++ [m] } ∨ emit s m = updLink s p (holdBack m))) := by
  by_cases hst2 : (linkOf s p).st = 2
  · refine .inr ⟨hst2, ?_⟩
    simp only [emit, hm, hst2, ne_eq, not_true_eq_false, if_false]
    split
    · exact .inl rfl
    · exact .inr rfl
  · exact .inl ⟨hst2, by simp [emit, hm, hst2]⟩

theorem emit_eng {s : State} {m : OutMsg} {p c : Nat} (hm : msgLink s m = some (p, c)) (hp : p ≠ pENG) : (emit s m).eng = s.eng := by
  rcases emit_cases hm with ⟨-, h⟩ | ⟨-, h | h⟩ <;> rw [h]
  · exact updLink_eng_of_ne _ _ _ hp
  · exact updLink_eng_of_ne _ _ _ hp

theorem consume_eng (s : State) (p c n : Nat) (hp : p ≠ pENG) : (consume s p c n).eng = s.eng := by
  unfold consume
  split
  · rfl
  · exact updLink_eng_of_ne _ _ _ hp

/-- A component that stays the same leaves the list of what may differ. -/
theorem frame_drop {c : Comp} {l : List Comp} {s t : State} (h : Frame (c :: l) s t) (hc : c.same s t) : Frame l s t := by
  intro d hd
  by_cases hdc : d = c
  · exact hdc ▸ hc
  · exact h d (by simp [hdc, hd])

/-- A register access of a host station is answered without the engine station. -/
theorem regRsp_hostFrame (s : State) (h : Nat) (st : Status) (d : List Word) (hh : h < 16) : Frame [.hst, .out] s (regRsp s h st d) := by
  refine frame_drop (regRsp_frame s h st d hh) ?_
  show (regRsp s h st d).eng = s.eng
  have hne := stationPage_ne_engine h
  unfold regRsp
  rw [if_neg (by omega)]
  split
  · rw [emit_eng (p := pHST0 + h) (c := 5) rfl hne, consume_eng _ _ _ _ hne]
  · rfl

theorem page_of_frame {l : List Comp} {s t : State} (h : Frame l s t) (hl : Comp.pages ∉ l) (p : Nat) : page t p = page s p := by
  have hp : t.pages = s.pages := h .pages hl
  rw [page, page, hp]

/-! ## Messages that have left or wait -/

/-- How often a message has left the block or waits at the link of a host station. -/
def sentOrHeld (s : State) (h : Nat) (m : OutMsg) : Nat := s.out.count m + (hst s h).waiting.count m

theorem sentOrHeld_congr {s t : State} {h : Nat} {m : OutMsg} (ho : t.out = s.out) (hw : (hst t h).waiting = (hst s h).waiting) :
    sentOrHeld t h m = sentOrHeld s h m := by rw [sentOrHeld, sentOrHeld, ho, hw]

theorem sentOrHeld_updLink (s : State) (p h : Nat) (f : Link → Link) (m : OutMsg) (hf : ∀ l, (f l).waiting = l.waiting) :
    sentOrHeld (updLink s p f) h m = sentOrHeld s h m := by
  refine sentOrHeld_congr (updLink_out s p f) ?_
  rw [hst_updLink]
  split
  · exact hf _
  · rfl

theorem sentOrHeld_append (t : State) (h : Nat) (m x : OutMsg) :
    sentOrHeld { t with out := t.out ++ [x] } h m = sentOrHeld t h m + [x].count m := by
  simp only [sentOrHeld, hst, List.count_append]
  omega

theorem sentOrHeld_holdBack (s : State) (p h : Nat) (m x : OutMsg) :
    sentOrHeld (updLink s p (holdBack x)) h m = sentOrHeld s h m + if p ≠ pENG ∧ h = p - pHST0 then [x].count m else 0 := by
  rw [sentOrHeld, hst_updLink, updLink_out]
  split
  · simp only [holdBack, List.count_append, sentOrHeld]; omega
  · simp only [sentOrHeld]; omega

theorem sentOrHeld_spend (s : State) (p c h : Nat) (m x : OutMsg) :
    sentOrHeld { updLink s p (spendCredit c) with out := s.out ++ [x] } h m = sentOrHeld s h m + [x].count m := by
  rw [← updLink_out s p (spendCredit c), sentOrHeld_append, sentOrHeld_updLink s p h (spendCredit c) m (fun _ => rfl)]

/-- A message that leaves over a link does not count for another message. -/
theorem sentOrHeld_emit_ne {s : State} {x m : OutMsg} {p c : Nat} (h : Nat) (hx : msgLink s x = some (p, c)) (hne : x ≠ m) :
    sentOrHeld (emit s x) h m = sentOrHeld s h m := by
  have h0 : [x].count m = 0 := List.count_eq_zero.mpr (by simpa using hne.symm)
  rcases emit_cases hx with ⟨-, he⟩ | ⟨-, he | he⟩ <;> rw [he]
  · rw [sentOrHeld_spend, h0]; rfl
  · rw [sentOrHeld_holdBack, h0, ite_self]; rfl

/-- A message of an active host station has left it once more, or waits there once more. -/
theorem sentOrHeld_emit_self {s : State} {m : OutMsg} {h c : Nat} (hm : msgLink s m = some (pHST0 + h, c)) (hup : hostUp s h = true) :
    sentOrHeld (emit s m) h m = sentOrHeld s h m + 1 := by
  rcases emit_cases hm with ⟨hdown, -⟩ | ⟨-, he | he⟩
  · exact absurd (linkSt_of_hostUp hup) hdown
  · rw [he, sentOrHeld_spend, List.count_singleton_self]
  · rw [he, sentOrHeld_holdBack, if_pos ⟨stationPage_ne_engine h, by simp⟩, List.count_singleton_self]

/-- The answer of a register access adds no interrupt message. -/
theorem sentOrHeld_regRsp (s : State) (st h : Nat) (status : Status) (d : List Word) (m : OutMsg) (hst16 : st < 16)
    (hne : OutMsg.reg st status d ≠ m) : sentOrHeld (regRsp s st status d) h m = sentOrHeld s h m := by
  unfold regRsp
  rw [if_neg (by omega)]
  split
  · rw [sentOrHeld_emit_ne h rfl hne]
    unfold consume
    split
    · rfl
    · exact sentOrHeld_updLink _ _ _ _ _ (fun _ => rfl)
  · rw [emits, sentOrHeld_append, List.count_eq_zero.mpr (by simpa using hne.symm)]; rfl

/-! ## Stations that are up -/

theorem hostUp_congr {s t : State} {h : Nat} (hl : (hst t h).st = (hst s h).st) (hf : fenced t (pHST0 + h) = fenced s (pHST0 + h)) :
    hostUp t h = hostUp s h := by rw [hostUp, hostUp, hl, hf]

theorem fenced_updPage (s : State) (p q : Nat) (f : Page → Page) (hf : ∀ x, (f x).fence = x.fence) : fenced (updPage s p f) q = fenced s q := by
  have hq : (page (updPage s p f) q).fence = (page s q).fence := by
    by_cases h : q = p
    · rw [h, page_updPage_self, hf]
    · rw [page_updPage_ne s p q f h]
  exact congrArg (fusedOff s q || ·) hq

theorem hostUp_updPage (s : State) (p h : Nat) (f : Page → Page) (hf : ∀ x, (f x).fence = x.fence) : hostUp (updPage s p f) h = hostUp s h :=
  hostUp_congr rfl (fenced_updPage s p _ f hf)

theorem hst_st_updLink (s : State) (p h : Nat) (f : Link → Link) (hf : ∀ l, (f l).st = l.st) : (hst (updLink s p f) h).st = (hst s h).st := by
  rw [hst_updLink]
  split
  · exact hf _
  · rfl

theorem hst_st_emit {s : State} {m : OutMsg} {p c : Nat} (h : Nat) (hm : msgLink s m = some (p, c)) : (hst (emit s m) h).st = (hst s h).st := by
  rcases emit_cases hm with ⟨-, he⟩ | ⟨-, he | he⟩ <;> rw [he]
  · exact hst_st_updLink s p h _ (fun _ => rfl)
  · exact hst_st_updLink s p h _ (fun _ => rfl)

theorem hostUp_emit {s : State} {m : OutMsg} {p c : Nat} (h : Nat) (hm : msgLink s m = some (p, c)) : hostUp (emit s m) h = hostUp s h := by
  refine hostUp_congr (hst_st_emit h hm) ?_
  have hp : (emit s m).pages = s.pages := emit_frame s m .pages (by decide)
  have hf : (emit s m).fuses = s.fuses := emit_frame s m .fuses (by decide)
  simp only [fenced, fusedOff, hp, hf]

end Sys2Proof.Machine
end

section
/-!
# Interrupt messages (R60)

The message of a page goes to each station of its vector in turn; a station's turn leaves the messages of the others, the vector and the
links as they are.
-/
namespace Sys2Proof.Machine
open Sys2Proof

/-- A message of a page to one station of its vector, or its wait for a station that is down: one turn of `sendIrq`. -/
def sendIrqTo (p : Nat) (s : State) (h : Nat) : State :=
  if hostUp s h then emit s (.intr h (page s p).irqVec p) else updPage s p (fun q => { q with irqHeld := setIns q.irqHeld h })

theorem sendIrq_eq (s : State) (p : Nat) : sendIrq s p = (vecStations (page s p).irqVec).foldl (sendIrqTo p) s := rfl

theorem mem_setIns {l : List Nat} {k j : Nat} : j ∈ setIns l k ↔ j = k ∨ j ∈ l := by
  induction l with
  | nil => simp [setIns]
  | cons a l ih =>
    simp only [setIns]
    split
    · simp
    · split
      · next hk => simp [hk]
      · simp only [List.mem_cons, ih]; tauto

theorem vecStations_nodup (v : Word) : (vecStations v).Nodup := by
  unfold vecStations
  split <;> decide

section
variable (p : Nat) (s : State) (h : Nat)

theorem sendIrqTo_irqVec : (page (sendIrqTo p s h) p).irqVec = (page s p).irqVec := by
  unfold sendIrqTo
  split
  · rw [page_of_frame (emit_frame s _) (by decide)]
  · rw [page_updPage_self]

theorem sendIrqTo_hostUp (k : Nat) : hostUp (sendIrqTo p s h) k = hostUp s k := by
  unfold sendIrqTo
  split
  · exact hostUp_emit k rfl
  · exact hostUp_updPage s p k _ (fun _ => rfl)

theorem sendIrqTo_irqHeld {k : Nat} (hk : k ∈ (page s p).irqHeld) : k ∈ (page (sendIrqTo p s h) p).irqHeld := by
  unfold sendIrqTo
  split
  · rwa [page_of_frame (emit_frame s _) (by decide)]
  · rw [page_updPage_self]; exact mem_setIns.mpr (.inr hk)

theorem sendIrqTo_other {k : Nat} (v : Word) (hk : h ≠ k) : sentOrHeld (sendIrqTo p s h) k (.intr k v p) = sentOrHeld s k (.intr k v p) := by
  unfold sendIrqTo
  split
  · exact sentOrHeld_emit_ne k rfl (by simp [hk])
  · rfl

end

/-- One more interrupt message of a page with a vector word has reached a host station or waits at it, or is owed to it while it is down. -/
def IrqSentTo (s t : State) (p : Nat) (v : Word) (h : Nat) : Prop :=
  (hostUp s h = true → sentOrHeld t h (.intr h v p) = sentOrHeld s h (.intr h v p) + 1) ∧
  (hostUp s h = false → h ∈ (page t p).irqHeld)

theorem irqSent_iff (s t : State) (p : Nat) : IrqSent s t p ↔ ∀ h ∈ vecStations (page s p).irqVec, IrqSentTo s t p (page s p).irqVec h := Iff.rfl

theorem irqSentTo_sendIrqTo (p : Nat) (s : State) (h : Nat) : IrqSentTo s (sendIrqTo p s h) p (page s p).irqVec h := by
  constructor <;> intro hup <;> simp only [sendIrqTo, hup, if_true, Bool.false_eq_true, if_false]
  · exact sentOrHeld_emit_self rfl hup
  · rw [page_updPage_self]; exact mem_setIns.mpr (.inl rfl)

/-- The turns of other stations leave what has been sent to a station. -/
theorem irqSentTo_foldl {s t : State} {p h : Nat} {v : Word} {l : List Nat} (hl : h ∉ l) (hs : IrqSentTo s t p v h) :
    IrqSentTo s (l.foldl (sendIrqTo p) t) p v h := by
  induction l generalizing t with
  | nil => exact hs
  | cons k l ih =>
    obtain ⟨hne, hl⟩ := List.ne_and_not_mem_of_not_mem_cons hl
    refine ih hl ⟨fun hup => ?_, fun hdown => sendIrqTo_irqHeld p t k (hs.2 hdown)⟩
    rw [sendIrqTo_other p t k v (Ne.symm hne)]
    exact hs.1 hup

/-- A message counts from the same point when nothing of a station's own has changed before. -/
theorem IrqSentTo.of_same {s u t : State} {p h : Nat} {v : Word} (hu : hostUp u h = hostUp s h)
    (hc : sentOrHeld u h (.intr h v p) = sentOrHeld s h (.intr h v p)) (hs : IrqSentTo u t p v h) : IrqSentTo s t p v h := by
  obtain ⟨hup, hdown⟩ := hs
  exact ⟨fun h2 => hc ▸ hup (hu.trans h2), fun h2 => hdown (hu.trans h2)⟩

theorem irqSentTo_foldl_mem {s : State} {p : Nat} {l : List Nat} (hl : l.Nodup) :
    ∀ h ∈ l, IrqSentTo s (l.foldl (sendIrqTo p) s) p (page s p).irqVec h := by
  induction l generalizing s with
  | nil => simp
  | cons k l ih =>
    obtain ⟨hk, hl⟩ := List.nodup_cons.mp hl
    intro h hmem
    rcases List.mem_cons.mp hmem with rfl | hmem
    · exact irqSentTo_foldl (t := sendIrqTo p s h) hk (irqSentTo_sendIrqTo p s h)
    · have hne : k ≠ h := fun e => hk (e ▸ hmem)
      have hrest := ih (s := sendIrqTo p s k) hl h hmem
      rw [sendIrqTo_irqVec] at hrest
      exact hrest.of_same (sendIrqTo_hostUp p s k h) (sendIrqTo_other p s k _ hne)

/-- `INTERRUPT_MESSAGE` reaches every station of the page's vector. -/
theorem irqSent_sendIrq (s : State) (p : Nat) : IrqSent s (sendIrq s p) p := irqSentTo_foldl_mem (vecStations_nodup _)

/-- A page whose vector and fence stay, in a state that has sent nothing yet, is where the message counts from. -/
theorem irqSent_of_updPage {s u t : State} {p : Nat} (f : Page → Page) (hfence : ∀ q, (f q).fence = q.fence)
    (hvec : ∀ q, (f q).irqVec = q.irqVec) (hu : Frame [.cnt] (updPage s p f) u) (hs : IrqSent u t p) : IrqSent s t p := by
  have hpage : page u p = f (page s p) := by rw [page_of_frame hu (by decide), page_updPage_self]
  have hfuse : u.fuses = s.fuses := hu .fuses (by decide)
  have hpages : u.pages = (updPage s p f).pages := hu .pages (by decide)
  have hhst : u.hst = s.hst := hu .hst (by decide)
  have hout : u.out = s.out := hu .out (by decide)
  have hup : ∀ h, hostUp u h = hostUp s h := fun h => by
    rw [← hostUp_updPage s p h f hfence]
    simp only [hostUp, hst, fenced, fusedOff, hhst, hfuse, hpages, updPage_hst, updPage_fuses]
  rw [irqSent_iff, hpage, hvec] at hs
  exact fun h hh => (hs h hh).of_same (hup h) (sentOrHeld_congr hout (by rw [hst, hst, hhst]))

/-- The answer of a register access leaves the interrupt messages as they are. -/
theorem irqSent_regRsp {s t : State} {p : Nat} (hs : IrqSent s t p) (st : Nat) (status : Status) (d : List Word) (hst16 : st < 16) :
    IrqSent s (regRsp t st status d) p := by
  intro h hh
  obtain ⟨hup, hdown⟩ := hs h hh
  refine ⟨fun h2 => ?_, fun h2 => ?_⟩
  · exact (sentOrHeld_regRsp t st h status d (.intr h _ p) hst16 (by simp)).trans (hup h2)
  · rw [page_of_frame (regRsp_hostFrame t st status d hst16) (by decide)]
    exact hdown h2

/-- A page with a raw interrupt bit set. -/
def withIrqRaw (b : Nat) (q : Page) : Page := { q with irqRaw := setBit q.irqRaw b true }

/-- What `raise` does: the bit and its event are recorded, and the message goes out when `IRQ_PEND` leaves zero. -/
theorem raise_eq (s : State) (p b : Nat) : ∃ u, Frame [.cnt] (updPage s p (withIrqRaw b)) u ∧
    raise s p b = if irqPend (page s p) = 0 ∧ irqPend (page u p) ≠ 0 then sendIrq u p else u := by
  refine ⟨if b < 16 then count (updPage s p (withIrqRaw b)) p (48 + b) else updPage s p (withIrqRaw b), ?_, rfl⟩
  split
  · exact count_frame _ _ _ _ _ _
  · exact Frame.refl _ _

theorem irqSent_raise (s : State) (p b : Nat) (h0 : irqPend (page s p) = 0) (h1 : irqPend (page (raise s p b) p) ≠ 0) :
    IrqSent s (raise s p b) p := by
  obtain ⟨u, hu, hraise⟩ := raise_eq s p b
  rw [hraise] at h1 ⊢
  by_cases hsend : irqPend (page s p) = 0 ∧ irqPend (page u p) ≠ 0
  · rw [if_pos hsend]
    exact irqSent_of_updPage (withIrqRaw b) (fun _ => rfl) (fun _ => rfl) hu (irqSent_sendIrq u p)
  · rw [if_neg hsend] at h1
    exact absurd ⟨h0, h1⟩ hsend

/-- A write of the interrupt block that leaves `IRQ_PEND` non-zero sends one more message. -/
theorem irqSent_headWrite {s : State} {a : Acc} {p : Nat} (f : Page → Page) (ha : HeadAdmits s a p) (hfence : ∀ q, (f q).fence = q.fence)
    (hvec : ∀ q, (f q).irqVec = q.irqVec) (hpend : irqPend (f (page s p)) ≠ 0) :
    IrqSent s (headWrite s a p (fun t => irqAfter (updPage t p f) p)) p := by
  have hst16 : a.st < 16 := Nat.lt_trans ha.1 (by decide)
  rw [headWrite_admitted s a p _ ha]
  refine irqSent_regRsp ?_ _ _ _ hst16
  rw [irqAfter, page_updPage_self, if_neg hpend]
  exact irqSent_of_updPage f hfence hvec (Frame.refl _ _) (irqSent_sendIrq _ p)

/-- Settles O13: `raise` and the two writes of the interrupt block each send through `sendIrq`, whose turns reach every station of the
vector once. -/
theorem interruptMessages : Obligations.InterruptMessages := by
  unfold Obligations.InterruptMessages
  refine ⟨irqSent_raise, fun s a p v ha => ⟨fun hraw => ?_, fun hen => ?_⟩⟩
  · exact ⟨_, rfl, irqSent_headWrite _ ha (fun _ => rfl) (fun _ => rfl) hraw⟩
  · exact ⟨_, rfl, irqSent_headWrite _ ha (fun _ => rfl) (fun _ => rfl) hen⟩

end Sys2Proof.Machine
end

section
/-!
# Accesses of unit registers without expert control (R46, R47, R48, R75)

An aligned access of 8 bytes at a page of this block comes down to `unitWrite` and `pageRead`; while `EXPERT` is 0, these leave the
register alone.
-/
namespace Sys2Proof.Machine
open Sys2Proof

/-! ## From the address to the page -/

theorem regPlace_page {p off : Nat} (hp : p < 64) (ho : off < 65536) : regPlace (p * 65536 + off) = .page p off := by
  have hlt : p * 65536 + off < 0x400000 := by omega
  have hdiv : (p * 65536 + off) / 0x10000 = p := by omega
  have hmod : (p * 65536 + off) % 0x10000 = off := by omega
  rw [regPlace, if_pos hlt, hdiv, hmod]

/-- The upper bits of an address name the block of the cascade (R46). -/
theorem blockAddress (c : Nat) {p off : Nat} (hp : p < 64) (ho : off < 65536) :
    (c * 2 ^ 24 + p * 65536 + off) / 2 ^ 24 = c ∧ (c * 2 ^ 24 + p * 65536 + off) % 2 ^ 24 = p * 65536 + off := by
  omega

theorem sizeOk_aligned {p off : Nat} (w : RegPlace) (h8 : off % 8 = 0) : sizeOk w (p * 65536 + off) 8 = true := by
  have h : (p * 65536 + off) % 8 = 0 := by omega
  simp [sizeOk, h]

/-- An access of the root partition to a unit register of a built page of this block, aligned and served by a host station. -/
structure UnitAccess (s : State) (a : Acc) (p off : Nat) : Prop where
  up : accUp s a.st = true
  reach : mayReach s a.part (.page p off) = true
  isUnit : isPage p = true
  built : present s p = true
  pageLt : p < 64
  unitReg : 0x200 ≤ off
  offLt : off < 65536
  aligned : off % 8 = 0

section
variable {s : State} {a : Acc} {p off : Nat}

theorem UnitAccess.absentPlace_eq (h : UnitAccess s a p off) : absentPlace s (.page p off) = false := by
  simp [absentPlace, h.isUnit, h.built]

/-- REGISTER_WRITE of a unit register with no row of its own is `unitWrite`. -/
theorem UnitAccess.registerWrite (h : UnitAccess s a p off) (hrow : ownRow p off = false) (v : Word) :
    exec (.registerWrite a (s.cas.pos * 2 ^ 24 + p * 65536 + off) 8 [v]) s = .next (unitWrite s a p off (fun t => plainSet t p off v)) := by
  obtain ⟨hdiv, hmod⟩ := blockAddress s.cas.pos h.pageLt h.offLt
  have hunit : ¬ off < 0x200 := Nat.not_lt.mpr h.unitReg
  show execRegisterWrite a _ 8 [v] s = _
  simp only [execRegisterWrite, blockWrite, hdiv, hmod, h.up, regPlace_page h.pageLt h.offLt, h.reach, h.absentPlace_eq, sizeOk_aligned _ h.aligned,
    h.isUnit, hrow, hunit, Bool.not_true, Bool.false_eq_true, ne_eq, not_true_eq_false, if_false, List.headD_cons]

/-- READ_CLEAR of a unit register is `pageRead`, but for the pop of a mailbox, which is a command of its own. -/
theorem UnitAccess.readClear (h : UnitAccess s a p off) (hpop : ¬ (p = pMBX ∧ (mbPlace off).any (fun x => x.2 == 0x018) = true)) :
    exec (.readClear a (s.cas.pos * 2 ^ 24 + p * 65536 + off) 8) s = .next (pageRead s a p off) := by
  obtain ⟨hdiv, hmod⟩ := blockAddress s.cas.pos h.pageLt h.offLt
  have hoff : 0x200 ≤ off := h.unitReg
  have hwin : ¬ (0x100 ≤ off ∧ off < 0x200) := by omega
  have hport : ¬ (off = 0x40 ∨ off = 0x48) := by omega
  show execReadClear a _ 8 s = _
  simp only [execReadClear, blockRead, hdiv, hmod, h.up, regPlace_page h.pageLt h.offLt, h.reach, sizeOk_aligned _ h.aligned, hwin, hpop, hport,
    h.absentPlace_eq, Bool.not_true, Bool.false_and, Bool.false_eq_true, ne_eq, not_true_eq_false, or_self, if_false]

/-- A write at a reserved offset is answered and ignored (R47). -/
theorem UnitAccess.unitWrite_reserved (h : UnitAccess s a p off) (f : State → State) (hdef : regDefined p off = false) :
    unitWrite s a p off f = regRsp s a.st .ok [] := by
  simp only [unitWrite, h.up, h.reach, h.built, hdef, Bool.not_true, Bool.not_false, Bool.false_eq_true, if_false, if_true]

/-- A write that EXPERT refuses leaves PERMISSION in LAST (R75). -/
theorem UnitAccess.unitWrite_refused (h : UnitAccess s a p off) (f : State → State) (hdef : regDefined p off = true)
    (hexp : (page s p).expert = false) (hopen : openReg p off = false) :
    unitWrite s a p off f = regRsp (setLast s p .permission) a.st .ok [] := by
  simp only [unitWrite, h.up, h.reach, h.built, hdef, hexp, hopen, Bool.not_true, Bool.not_false, Bool.and_self, Bool.false_eq_true, if_false, if_true]

end

theorem pageRead_answered (s : State) (a : Acc) (p off : Nat) (hst16 : a.st < 16) (hbuilt : present s p = true) :
    Answered (pageRead s a p off) a.st .ok [regGet s p off] := by
  simp only [pageRead, hbuilt, Bool.true_or, if_true]
  exact regRsp_answered _ _ _ _ hst16

/-- Settles O8: without expert control a write of a unit register ends in `regRsp` alone, or after `setLast`, and a read in the answer of
the register's word. -/
theorem expertGate : Obligations.ExpertGate := by
  unfold Obligations.ExpertGate
  intro s a p off v hst hup hpart hroot hp hpage hbuilt hunit hoff h8 hrow hexp hopen
  have hst16 : a.st < 16 := Nat.lt_trans hst (by decide)
  have hacc : UnitAccess s a p off := ⟨hup, by simp [mayReach, hpart, hroot], hpage, hbuilt, hp, hunit, hoff, h8⟩
  have hrsp := fun t => regRsp_hostFrame t a.st .ok [] hst16
  refine ⟨fun hdef => ?refused, fun hdef => ?reserved, fun hpop => ?read⟩
  case refused =>
    refine ⟨_, hacc.registerWrite hrow v, ?_⟩
    rw [hacc.unitWrite_refused _ hdef hexp hopen]
    have hpages := page_of_frame (hrsp (setLast s p .permission)) (by decide)
    refine ⟨?_, fun q hq => ?_, regRsp_answered _ _ _ _ hst16,
      Frame.trans (setLast_frame s p .permission) (hrsp _) (by decide) (by decide)⟩
    · rw [hpages, setLast, page_updPage_self]
    · rw [hpages, setLast, page_updPage_ne _ _ _ _ hq]
  case reserved =>
    refine ⟨_, hacc.registerWrite hrow v, ?_⟩
    rw [hacc.unitWrite_reserved _ hdef]
    exact ⟨regRsp_answered _ _ _ _ hst16, hrsp s⟩
  case read => exact ⟨_, hacc.readClear hpop, pageRead_answered s a p off hst16 hbuilt⟩

end Sys2Proof.Machine
end

section
/-!
# A line of memory as it was written

A line reads under its owner's key as the data and the poison that were stored under that key, for as long as its owner stays (R565, R636).
-/
namespace Sys2Proof.Machine
open Sys2Proof

/-! ## The bytes of a line -/

theorem lineByte_toNat (d : LineData) (n : Nat) : (lineByte d n).toNat = d.toNat / 2 ^ (8 * n) % 256 := by
  rw [lineByte, BitVec.extractLsb'_toNat, Nat.shiftRight_eq_div_pow]

theorem bytesNat_lineByte (d : LineData) (k n : Nat) :
    bytesNat ((List.range' k n).map (lineByte d)) = d.toNat / 2 ^ (8 * k) % 2 ^ (8 * n) := by
  induction n generalizing k with
  | zero => simp [bytesNat, Nat.mod_one]
  | succ n ih =>
    have hdiv : d.toNat / 2 ^ (8 * (k + 1)) = d.toNat / 2 ^ (8 * k) / 256 := by
      rw [Nat.mul_succ, Nat.pow_add, ← Nat.div_div_eq_div_mul]
    have hpow : 2 ^ (8 * (n + 1)) = 256 * 2 ^ (8 * n) := by rw [Nat.mul_succ, Nat.pow_add, Nat.mul_comm]
    rw [List.range'_succ, List.map_cons, bytesNat, ih, lineByte_toNat, hdiv, hpow, Nat.mod_mul]

theorem lineOf_lineBytes (d : LineData) : lineOf (lineBytes d) = d := by
  rw [lineOf, lineBytes, List.range_eq_range', bytesNat_lineByte, Nat.mul_zero, Nat.pow_zero, Nat.div_one, Nat.mod_eq_of_lt d.isLt,
    BitVec.ofNat_toNat, BitVec.setWidth_eq]

/-! ## Poison bits -/

/-- The number whose bits below n are those of a function. -/
def bitsNat (f : Nat → Bool) (n : Nat) : Nat := (List.range n).foldl (fun p i => if f i then p + 2 ^ i else p) 0

theorem linePois_eq_bitsNat (s : State) (line : Nat) : linePois s line = bitsNat (fun i => s.memPois.contains (line * 8 + i)) 8 := rfl

theorem bitsNat_succ (f : Nat → Bool) (n : Nat) : bitsNat f (n + 1) = if f n then bitsNat f n + 2 ^ n else bitsNat f n := by
  simp only [bitsNat, List.range_succ, List.foldl_append, List.foldl_cons, List.foldl_nil]

theorem bitsNat_lt (f : Nat → Bool) (n : Nat) : bitsNat f n < 2 ^ n := by
  induction n with
  | zero => simp [bitsNat]
  | succ n ih => rw [bitsNat_succ, Nat.pow_succ]; split <;> omega

theorem linePois_lt (s : State) (line : Nat) : linePois s line < 256 := bitsNat_lt _ 8

/-- The bits of a number give the number, as far as they are taken. -/
theorem bitsNat_testBit (v n : Nat) : bitsNat v.testBit n = v % 2 ^ n := by
  induction n with
  | zero => simp [bitsNat, Nat.mod_one]
  | succ n ih =>
    have hsplit : v % 2 ^ (n + 1) = v % 2 ^ n + 2 ^ n * (v / 2 ^ n % 2) := by rw [Nat.pow_succ, Nat.mod_mul]
    rw [bitsNat_succ, ih, hsplit, Nat.testBit_eq_decide_div_mod_eq]
    rcases Nat.mod_two_eq_zero_or_one (v / 2 ^ n) with h | h <;> simp [h]

theorem bitsNat_congr {f g : Nat → Bool} {n : Nat} (h : ∀ i < n, f i = g i) : bitsNat f n = bitsNat g n := by
  induction n with
  | zero => rfl
  | succ n ih => rw [bitsNat_succ, bitsNat_succ, ih (fun i hi => h i (by omega)), h n (by omega)]

/-- The chunks of a line among the poisoned ones, once its first n chunks are set. -/
theorem mem_setPoisChunks (l : List Nat) (line pois n x : Nat) :
    x ∈ (List.range n).foldl (fun l i => if pois.testBit i then setIns l (line * 8 + i) else setDel l (line * 8 + i)) l ↔
      if line * 8 ≤ x ∧ x < line * 8 + n then pois.testBit (x - line * 8) = true else x ∈ l := by
  induction n with
  | zero => rw [if_neg (by omega)]; rfl
  | succ n ih =>
    rw [List.range_succ, List.foldl_append, List.foldl_cons, List.foldl_nil]
    by_cases hx : x = line * 8 + n
    · subst hx
      cases hb : pois.testBit n <;> simp [hb, mem_setIns, setDel]
    · have hiff : (line * 8 ≤ x ∧ x < line * 8 + (n + 1)) ↔ (line * 8 ≤ x ∧ x < line * 8 + n) := by omega
      simp only [hiff]
      split
      · rw [mem_setIns, ih]; simp [hx]
      · rw [setDel, List.mem_filter, ih]; simp [hx]

theorem mem_setPois (l : List Nat) (line pois x : Nat) :
    x ∈ setPois l line 0xFF pois ↔ if line * 8 ≤ x ∧ x < line * 8 + 8 then pois.testBit (x - line * 8) = true else x ∈ l := by
  have hall : ∀ i ∈ List.range 8, Nat.testBit 0xFF i = true := by decide
  rw [← mem_setPoisChunks l line pois 8 x, setPois]
  rw [List.foldl_ext _ _ _ (fun b i hi => if_pos (hall i hi))]

theorem linePois_wrLine (s : State) (line : Nat) (d : LineData) (pois : Nat) : linePois (wrLine s line d pois) line = pois % 256 := by
  rw [linePois_eq_bitsNat, show pois % 256 = bitsNat pois.testBit 8 from (bitsNat_testBit pois 8).symm]
  refine bitsNat_congr (fun i hi => ?_)
  have hmem := mem_setPois s.memPois line pois (line * 8 + i)
  rw [if_pos (by omega), Nat.add_sub_cancel_left] at hmem
  rw [Bool.eq_iff_iff, List.contains_iff_mem]
  exact hmem

/-! ## The key of a line -/

theorem rdLine_of_lineKey {s : State} {line : Nat} (h : tget s.memKey line = some (lineKey s line)) :
    rdLine s line = lineOf ((List.range 128).map (fun i => memByte s (line * 128 + i))) := by
  refine congrArg lineOf (List.map_congr_left (fun i hi => ?_))
  have hdiv : (line * 128 + i) / 128 = line := by rw [List.mem_range] at hi; omega
  simp only [keyedByte, writtenKey, hdiv, h, if_true]

theorem memByte_wrLine_same (s : State) (line : Nat) (d : LineData) (pois i : Nat) (hi : i < 128) :
    memByte (wrLine s line d pois) (line * 128 + i) = lineByte d i := by
  have hlen : (lineBytes d).length = 128 := by simp [lineBytes]
  show tget (memPut s.mem (line * 128) (lineBytes d)) _ = _
  rw [tget_memPut, if_pos (by omega), Nat.add_sub_cancel_left]
  simp [lineBytes, hi]

theorem lineKey_congr {s t : State} {line : Nat} (hsec : t.sec = s.sec) (hown : layoutOwner t (line * 128) = layoutOwner s (line * 128)) :
    lineKey t line = lineKey s line := by rw [lineKey, lineKey, hown, keyOf, keyOf, hsec]

theorem layoutOwner_congr {s t : State} (hsec : t.sec = s.sec) (htir : t.tir = s.tir) (a : Nat) : layoutOwner t a = layoutOwner s a := by
  simp only [layoutOwner, layoutEntry, nearFrame, farUnit, emberOf, hsec, htir]

/-- What a line reads as rests on memory, the keys, the memory ranges and the line's owner. -/
theorem rdLine_congr {l : List Comp} {s t : State} {line : Nat} (h : Frame l s t)
    (hl : ∀ c ∈ [Comp.fuses, .sec, .cas, .mem, .memKey, .memScrub], c ∉ l)
    (hown : layoutOwner t (line * 128) = layoutOwner s (line * 128)) : rdLine t line = rdLine s line := by
  have hfuses : t.fuses = s.fuses := h .fuses (hl _ (by decide))
  have hsec : t.sec = s.sec := h .sec (hl _ (by decide))
  have hcas : t.cas = s.cas := h .cas (hl _ (by decide))
  have hmem : t.mem = s.mem := h .mem (hl _ (by decide))
  have hkey : t.memKey = s.memKey := h .memKey (hl _ (by decide))
  have hscrub : t.memScrub = s.memScrub := h .memScrub (hl _ (by decide))
  simp only [rdLine, lineKey_congr hsec hown, keyedByte, writtenKey, memByte, otherKeyLine, rootKeyOf, portOf, rangeOf, homeK, blocks, hfuses, hcas,
    hmem, hkey, hscrub]

theorem linePois_congr {s t : State} (h : t.memPois = s.memPois) (line : Nat) : linePois t line = linePois s line := by rw [linePois, linePois, h]

theorem memByte_congr {s t : State} (h : t.mem = s.mem) (a : Nat) : memByte t a = memByte s a := by rw [memByte, memByte, h]

/-- A line that was stored reads as it was stored, and every other byte as before, while no later step writes memory or moves owners. -/
theorem lineStored_of_wrLine {l : List Comp} {s u t : State} {line : Nat} {d : LineData} {pois : Nat} (hu : u.mem = s.mem)
    (ht : Frame l (wrLine u line d pois) t) (hl : ∀ c ∈ [Comp.sec, .tir, .mem, .memPois, .memKey], c ∉ l) :
    LineStored s t line d (pois % 256) := by
  have hsec : t.sec = u.sec := ht .sec (hl _ (by decide))
  have htir : t.tir = u.tir := ht .tir (hl _ (by decide))
  have hmem : t.mem = (wrLine u line d pois).mem := ht .mem (hl _ (by decide))
  have hpois : t.memPois = (wrLine u line d pois).memPois := ht .memPois (hl _ (by decide))
  have hkeys : t.memKey = (wrLine u line d pois).memKey := ht .memKey (hl _ (by decide))
  have hkey : tget t.memKey line = some (lineKey t line) := by
    rw [hkeys, lineKey_congr hsec (layoutOwner_congr hsec htir _)]
    exact tget_tset_self u.memKey line (some (lineKey u line))
  refine ⟨?_, (linePois_congr hpois line).trans (linePois_wrLine u line d pois), fun a ha => ?_⟩
  · rw [rdLine_of_lineKey hkey]
    refine Eq.trans (congrArg lineOf (List.map_congr_left (fun i hi => ?_))) (lineOf_lineBytes d)
    rw [memByte_congr hmem, memByte_wrLine_same u line d pois i (List.mem_range.mp hi)]
  · rw [memByte_congr hmem, memByte_wrLine_ne u line d pois a ha, memByte_congr hu]

end Sys2Proof.Machine
end

section
/-!
# Heat counts leave the owners of lines (R378, R566)

A request at a home touches the heat record of its page and the dirty map of its move. The owner of a line rests on the places and the states
of those records, which stay.
-/
namespace Sys2Proof.Machine
open Sys2Proof

/-- Two heat records agree in what the owner of a line rests on. -/
def SameOwner (g h : Heat) : Prop := g.st = h.st ∧ g.part = h.part ∧ g.units = h.units

/-- Nothing but heat records and moves differs, and every heat record names the owner that it named. -/
structure HeatOnly (s t : State) : Prop where
  frame : Frame [.tir] s t
  near : t.tir.nearBase = s.tir.nearBase ∧ t.tir.nearPages = s.tir.nearPages
  far : t.tir.farBase = s.tir.farBase ∧ t.tir.farUnits = s.tir.farUnits
  frames : ∀ f, SameOwner (tget t.tir.frames f) (tget s.tir.frames f)
  embers : ∃ g : Nat × Heat → Heat, t.tir.embers = s.tir.embers.map (fun e => (e.1, g e)) ∧ ∀ e, SameOwner (g e) e.2

theorem tir_frame (s : State) (x : Tir) : Frame [.tir] s { s with tir := x } := by
  intro c hc; cases c <;> simp_all [Comp.same]

theorem heatBump_sameOwner (ended wr : Bool) (h : Heat) : SameOwner (heatBump ended wr h) h := by
  cases ended <;> exact ⟨rfl, rfl, rfl⟩

theorem HeatOnly.refl (s : State) : HeatOnly s s where
  frame := Frame.refl _ _
  near := ⟨rfl, rfl⟩
  far := ⟨rfl, rfl⟩
  frames _ := ⟨rfl, rfl, rfl⟩
  embers := ⟨fun e => e.2, by simp, fun _ => ⟨rfl, rfl, rfl⟩⟩

/-- The marks in the dirty maps of moves follow. -/
theorem HeatOnly.withMoves {s t : State} (h : HeatOnly s t) (m : Tbl (Option TierMove)) : HeatOnly s { t with tir := { t.tir with moves := m } } where
  frame := Frame.trans h.frame (tir_frame t _) (fun _ => id) (fun _ => id)
  near := h.near
  far := h.far
  frames := h.frames
  embers := h.embers

theorem heatOnly_frames (s : State) (f : Nat) (g : Heat → Heat) (hg : ∀ h, SameOwner (g h) h) :
    HeatOnly s { s with tir := { s.tir with frames := tupd s.tir.frames f g } } where
  frame := tir_frame s _
  near := ⟨rfl, rfl⟩
  far := ⟨rfl, rfl⟩
  frames k := by
    by_cases hk : k = f
    · subst hk
      show SameOwner (tget (tupd s.tir.frames k g) k) _
      rw [tget_tupd_self]
      exact hg _
    · show SameOwner (tget (tupd s.tir.frames f g) k) _
      rw [tget_tupd_ne _ _ _ _ hk]
      exact ⟨rfl, rfl, rfl⟩
  embers := (HeatOnly.refl s).embers

/-- The record of an ember after the one of a first unit was changed. -/
def emberAt (k : Nat) (g : Heat → Heat) (e : Nat × Heat) : Heat := if e.1 == k then g e.2 else e.2

theorem emberAt_sameOwner (k : Nat) (g : Heat → Heat) (hg : ∀ h, SameOwner (g h) h) (e : Nat × Heat) : SameOwner (emberAt k g e) e.2 := by
  unfold emberAt
  split
  · exact hg _
  · exact ⟨rfl, rfl, rfl⟩

theorem heatOnly_embers (s : State) (k : Nat) (g : Heat → Heat) (hg : ∀ h, SameOwner (g h) h) :
    HeatOnly s { s with tir := { s.tir with embers := s.tir.embers.map (fun e => if e.1 == k then (e.1, g e.2) else e) } } where
  frame := tir_frame s _
  near := ⟨rfl, rfl⟩
  far := ⟨rfl, rfl⟩
  frames _ := ⟨rfl, rfl, rfl⟩
  embers := by
    refine ⟨emberAt k g, List.map_congr_left (fun e _ => ?_), emberAt_sameOwner k g hg⟩
    unfold emberAt
    split <;> rfl

/-- A request is counted in the record of a near frame, of an ember, or of neither (R378). -/
theorem heatOnly_heatTouch (s : State) (line : Nat) (wr : Bool) : HeatOnly s (heatTouch s line wr) := by
  have hbump : ∀ h, SameOwner (heatBump (heatDue s) wr h) h := heatBump_sameOwner _ _
  unfold heatTouch
  split
  · exact HeatOnly.refl s
  · dsimp only
    split
    · next f _ =>
      have hframe : HeatOnly s (if tracked (tget s.tir.frames f).st then
          { s with tir := { s.tir with frames := tupd s.tir.frames f (heatBump (heatDue s) wr) } } else s) := by
        split
        · exact heatOnly_frames s f _ hbump
        · exact HeatOnly.refl s
      split
      · exact hframe
      · exact hframe.withMoves _
    · split
      · exact HeatOnly.refl s
      · split
        · exact HeatOnly.refl s
        · next k _ _ =>
          have hember := heatOnly_embers s k _ hbump
          split
          · exact hember
          · exact hember.withMoves _

section
variable {s t : State} (h : HeatOnly s t)
include h

/-- The partition that the ember of a far unit names stays. -/
theorem HeatOnly.emberOf_part (u : Nat) : (emberOf t u).map (fun e => e.2.part) = (emberOf s u).map (fun e => e.2.part) := by
  obtain ⟨g, hmap, hg⟩ := h.embers
  have hst : ∀ e, (g e).st = e.2.st := fun e => (hg e).1
  have hpart : ∀ e, (g e).part = e.2.part := fun e => (hg e).2.1
  have hunits : ∀ e, (g e).units = e.2.units := fun e => (hg e).2.2
  simp only [emberOf, hmap, List.find?_map, Option.map_map, Function.comp_def, hst, hpart, hunits]

theorem HeatOnly.layoutOwner_eq (a : Nat) : layoutOwner t a = layoutOwner s a := by
  have hsec : t.sec = s.sec := h.frame .sec (by decide)
  have hentry : layoutEntry t a = layoutEntry s a := by simp only [layoutEntry, hsec]
  have hnear : nearFrame t a = nearFrame s a := by simp only [nearFrame, h.near]
  have hfar : farUnit t a = farUnit s a := by simp only [farUnit, h.far]
  have hframe : ∀ f, (tget t.tir.frames f).st = (tget s.tir.frames f).st ∧ (tget t.tir.frames f).part = (tget s.tir.frames f).part :=
    fun f => ⟨(h.frames f).1, (h.frames f).2.1⟩
  simp only [layoutOwner, hentry, hnear, hfar, hsec, hframe]
  cases layoutEntry s a with
  | some e => rfl
  | none => cases nearFrame s a with
    | some f => rfl
    | none => cases farUnit s a with
      | none => rfl
      | some u =>
        have hember := h.emberOf_part u
        cases ht : emberOf t u <;> cases hs : emberOf s u <;>
          simp only [ht, hs, Option.map_none, Option.map_some, Option.some.injEq, reduceCtorEq] at hember ⊢
        rw [hember]

end

end Sys2Proof.Machine
end

section
/-!
# Answers of a home on their way to the requester (R239, R258, R297)

What the answers of a request may change, and that a host station's answers leave the block or wait at its link.
-/
namespace Sys2Proof
open Sys2Proof.Machine

theorem Frame.ite {l : List Comp} {s t u : State} (P : Prop) [Decidable P] (ht : Frame l s t) (hu : Frame l s u) : Frame l s (if P then t else u) := by
  split <;> assumption

/-- A later step stays within what may change already. -/
theorem Frame.andThen {l m : List Comp} {s t u : State} (h : Frame l s t) (g : Frame m t u) (hm : ∀ c ∈ m, c ∈ l) : Frame l s u :=
  Frame.trans h g (fun _ => id) hm

namespace Machine

theorem cas_frame (s : State) (x : Cas) : Frame [.cas] s { s with cas := x } := by
  intro c hc; cases c <;> simp_all [Comp.same]

theorem spn_frame (s : State) (x : Spn) : Frame [.spn] s { s with spn := x } := by
  intro c hc; cases c <;> simp_all [Comp.same]

theorem eng_frame (s : State) (x : Eng) : Frame [.eng] s { s with eng := x } := by
  intro c hc; cases c <;> simp_all [Comp.same]

theorem hst_frame (s : State) (x : Tbl Link) : Frame [.hst] s { s with hst := x } := by
  intro c hc; cases c <;> simp_all [Comp.same]

theorem lan_frame (s : State) (x : Lan) : Frame [.lan] s { s with lan := x } := by
  intro c hc; cases c <;> simp_all [Comp.same]

theorem det_frame (s : State) (x : Det) : Frame [.det] s { s with det := x } := by
  intro c hc; cases c <;> simp_all [Comp.same]

theorem hom_frame (s : State) (x : Hom) : Frame [.hom] s { s with hom := x } := by
  intro c hc; cases c <;> simp_all [Comp.same]

/-! ## Messages to other blocks and nodes -/

theorem casSend_frame (s : State) (m : CasMsg) : Frame [.cas, .eng, .hst, .out] s (casSend s m) := by
  unfold casSend
  split
  · exact Frame.refl _ _
  · split
    · exact Frame.trans (cas_frame s _) (emit_frame _ _) (by decide) (by decide)
    · exact (cas_frame s _).mono (by decide)

theorem spanSend_frame (s : State) (m : SpanMsg) : Frame [.spn, .eng, .hst, .out] s (spanSend s m) := by
  have hsent := fun x => Frame.trans (spn_frame s x) (emit_frame _ (.span m)) (n := [.spn, .eng, .hst, .out]) (by decide) (by decide)
  exact Frame.ite _ (Frame.refl _ _) (Frame.ite _ (hsent _) ((spn_frame s _).mono (by decide)))

theorem toNode_frame (s : State) (n : Nat) (m : SpanMsg) : Frame [.cas, .spn, .eng, .hst, .out] s (toNode s n m) := by
  unfold toNode
  dsimp only
  split
  · exact Frame.refl _ _
  · split
    · exact (spanSend_frame s m).mono (by decide)
    · exact (casSend_frame s _).mono (by decide)

/-! ## Ends of the requests of units -/

theorem latMiss_frame (s : State) (p prio et0 : Nat) : Frame [.cnt] s (latMiss s p prio et0) := by
  unfold latMiss
  dsimp only
  split
  · exact tenant_frame _ _ _ _
  · exact Frame.refl _ _

theorem latClose_frame (s : State) (h : Nat) (a : Answer) (last : Bool) : Frame [.hst, .cnt] s (latClose s h a last) := by
  unfold latClose
  split
  · exact Frame.refl _ _
  · split
    · exact Frame.refl _ _
    · exact Frame.trans (hst_frame s _) (latMiss_frame _ _ _ _) (by decide) (by decide)

theorem releaseSlot_frame (s : State) (k : Nat) : Frame [.lan, .eng] s (releaseSlot s k) :=
  Frame.trans (lan_frame s _) (eng_frame _ _) (by decide) (by decide)

theorem lastTileDone_frame (s : State) (r : EngReq) : Frame [.lan, .eng] s (lastTileDone s r) := by
  unfold lastTileDone
  split
  · exact Frame.refl _ _
  · dsimp only
    split
    · exact Frame.refl _ _
    · split
      · exact releaseSlot_frame _ _
      · exact (eng_frame s _).mono (by decide)

theorem engFinish_frame (s : State) (n : Nat) (r : EngReq) : Frame [.cnt, .lan, .eng, .hst, .out] s (engFinish s n r) := by
  have hsent : Frame [.cnt, .lan, .eng, .hst, .out] s (emit s (.eng r.port r.tag r.status [] 0)) := (emit_frame s _).mono (by decide)
  exact (((hsent.andThen (eng_frame _ _) (by decide)).andThen (lastTileDone_frame _ r) (by decide)).andThen (tenant_frame _ r.part 2 1)
    (by decide)).andThen (latMiss_frame _ _ _ _) (by decide)

theorem engLineDone_frame (s : State) (n b : Nat) (st : Status) : Frame [.cnt, .lan, .eng, .hst, .out] s (engLineDone s n b st) := by
  unfold engLineDone
  split
  · exact Frame.refl _ _
  · dsimp only
    split
    · exact Frame.trans (eng_frame s _) (engFinish_frame _ _ _) (by decide) (fun _ => id)
    · exact (eng_frame s _).mono (by decide)

theorem cmdAnswered_frame (s : State) (q n : Nat) (st : Status) : Frame [.lmp] s (cmdAnswered s q n st) := by
  unfold cmdAnswered
  split
  · exact Frame.refl _ _
  · split
    · exact updCmd_frame _ _ _ _
    · exact updCmd_frame _ _ _ _

/-! ## One answer, and all answers of a request -/

/-- What the answers of a request that carries no data for the block itself may change. -/
def answerComps : List Comp := [.pages, .cnt, .cas, .det, .lan, .eng, .hst, .hom, .mov, .lmp, .spn, .out]

/-- Answers have reached their requester: at the homes at most an operation of the block takes note of a line. -/
def Delivered (s t : State) : Prop := Frame answerComps s t ∧ ∃ l, t.hom = { s.hom with fresh := l }

theorem Delivered.of_frame {l : List Comp} {s t : State} (h : Frame l s t) (hl : ∀ c ∈ l, c ∈ answerComps) (hhom : Comp.hom ∉ l) : Delivered s t :=
  ⟨h.mono hl, s.hom.fresh, h .hom hhom⟩

theorem Delivered.refl (s : State) : Delivered s s := ⟨Frame.refl _ _, s.hom.fresh, rfl⟩

theorem Delivered.trans {s t u : State} (h : Delivered s t) (g : Delivered t u) : Delivered s u := by
  obtain ⟨hf, l, hl⟩ := h
  obtain ⟨gf, m, hm⟩ := g
  exact ⟨Frame.trans hf gf (fun _ => id) (fun _ => id), m, by rw [hm, hl]⟩

/-- A completion gives the block no data to take (R36). -/
theorem delivered_ownGot (s : State) (k : Nat) (a : Answer) (hk : a.kind = .comp) : Delivered s (ownGot s k a) := by
  simp only [ownGot, hk, beq_self_eq_true, Bool.true_or, if_true]
  exact ⟨(hom_frame s _).mono (by decide), _, rfl⟩

theorem delivered_ite {s t u : State} (P : Prop) [Decidable P] (ht : Delivered s t) (hu : Delivered s u) : Delivered s (if P then t else u) := by
  split <;> assumption

/-- One answer reaches its requester, whoever that is; the last one is a completion. -/
theorem delivered_deliver (s : State) (last : Bool) (a : Answer) (hk : last = true → a.kind = .comp) : Delivered s (deliver s last a) := by
  have hsent : Delivered s (emit s (.ans a)) := .of_frame (emit_frame s _) (by decide) (by decide)
  unfold deliver
  cases a.origin with
  | host h => exact hsent.trans (.of_frame (latClose_frame _ h a last) (by decide) (by decide))
  | cascade p => exact hsent
  | relay => exact .refl s
  | block b n => exact .of_frame (casSend_frame s _) (by decide) (by decide)
  | own k =>
    cases last with
    | true => exact delivered_ownGot s k a (hk rfl)
    | false => exact .refl s
  | dp p => exact delivered_ite _ (.of_frame (updPage_frame s p _) (by decide) (by decide)) (.refl s)
  | det w => exact delivered_ite _ (.of_frame (det_frame s _) (by decide) (by decide)) (.refl s)
  | cmd q n => exact delivered_ite _ (.of_frame (cmdAnswered_frame s q n _) (by decide) (by decide)) (.refl s)
  | eng n b => exact delivered_ite _ (hsent.trans (.of_frame (engLineDone_frame _ n b _) (by decide) (by decide))) hsent
  | mover c d g =>
    exact delivered_ite _ (.of_frame (updChan_frame s c _) (by decide) (by decide))
      (delivered_ite _ (.of_frame (updChan_frame s c _) (by decide) (by decide)) (.refl s))
  | span k =>
    dsimp only
    split
    · exact .refl s
    · next i _ =>
      have hnode : Delivered s (toNode s i.node (.ans i.node i.pos i.tag a.kind a.status a.data a.poison)) :=
        .of_frame (toNode_frame s _ _) (by decide) (by decide)
      exact delivered_ite _ (hnode.trans (.of_frame (spn_frame _ _) (by decide) (by decide))) hnode

theorem delivered_deliverAll (s : State) (as : List Answer) (hk : ∀ a ∈ as.getLast?, a.kind = .comp) : Delivered s (deliverAll s as) := by
  induction as generalizing s with
  | nil => exact .refl s
  | cons a as ih => cases as with
    | nil => exact delivered_deliver s true a (fun _ => hk a rfl)
    | cons b as => exact (delivered_deliver s false a (by simp)).trans (ih _ (by simpa using hk))

/-! ## Answers to a host station -/

theorem sentOrHeld_of_frame {l : List Comp} {s t : State} (hf : Frame l s t) (hl : Comp.out ∉ l ∧ Comp.hst ∉ l) (h : Nat) (m : OutMsg) :
    sentOrHeld t h m = sentOrHeld s h m := by
  have hout : t.out = s.out := hf .out hl.1
  have hhst : t.hst = s.hst := hf .hst hl.2
  exact sentOrHeld_congr hout (by rw [hst, hst, hhst])

theorem hostUp_of_frame {l : List Comp} {s t : State} (hf : Frame l s t) (hl : ∀ c ∈ [Comp.fuses, .pages, .hst], c ∉ l) (h : Nat) :
    hostUp t h = hostUp s h := by
  have hfuses : t.fuses = s.fuses := hf .fuses (hl _ (by decide))
  have hpages : t.pages = s.pages := hf .pages (hl _ (by decide))
  have hhst : t.hst = s.hst := hf .hst (hl _ (by decide))
  simp only [hostUp, hst, fenced, fusedOff, hhst, hpages, hfuses]

/-- A message that has left or waits at a station's link is one of those counted there. -/
theorem outTo_of_sentOrHeld {s : State} {h : Nat} {m : OutMsg} (hpos : 0 < sentOrHeld s h m) : OutTo s h m := by
  rcases Nat.add_pos_iff_pos_or_pos.mp hpos with hout | hwait
  · exact .inl (List.count_pos_iff.mp hout)
  · exact .inr (List.count_pos_iff.mp hwait)

/-- A station's record of the requests that it watches says nothing of its messages and its stage (R587). -/
theorem latRecord_links (s : State) (h k : Nat) (f : Link → Link) (hf : ∀ l, (f l).waiting = l.waiting ∧ (f l).st = l.st) :
    (hst { s with hst := tupd s.hst h f } k).waiting = (hst s k).waiting ∧ (hst { s with hst := tupd s.hst h f } k).st = (hst s k).st := by
  by_cases hk : k = h
  · subst hk; simp only [hst, tget_tupd_self, hf, and_self]
  · simp only [hst, tget_tupd_ne _ _ _ _ hk, and_self]

theorem latClose_links (s : State) (h k : Nat) (a : Answer) (last : Bool) :
    (hst (latClose s h a last) k).waiting = (hst s k).waiting ∧ (hst (latClose s h a last) k).st = (hst s k).st := by
  unfold latClose
  split
  · exact ⟨rfl, rfl⟩
  · split
    · exact ⟨rfl, rfl⟩
    · next x _ _ =>
      have hmiss := (latMiss_frame { s with hst := tupd s.hst h (fun k => { k with lat := k.lat.erase x }) } x.2.2.1 3 x.2.2.2) .hst (by decide)
      have hrec := latRecord_links s h k (fun k => { k with lat := k.lat.erase x }) (fun _ => ⟨rfl, rfl⟩)
      rwa [hst, show (latMiss _ _ _ _).hst = _ from hmiss]

theorem latClose_sentOrHeld (s : State) (h k : Nat) (a : Answer) (last : Bool) (m : OutMsg) :
    sentOrHeld (latClose s h a last) k m = sentOrHeld s k m :=
  sentOrHeld_congr ((latClose_frame s h a last) .out (by decide)) (latClose_links s h k a last).1

theorem latClose_hostUp (s : State) (h k : Nat) (a : Answer) (last : Bool) : hostUp (latClose s h a last) k = hostUp s k := by
  have hpages : (latClose s h a last).pages = s.pages := latClose_frame s h a last .pages (by decide)
  have hfuses : (latClose s h a last).fuses = s.fuses := latClose_frame s h a last .fuses (by decide)
  exact hostUp_congr (latClose_links s h k a last).2 (by simp only [fenced, fusedOff, hpages, hfuses])

section
variable {s : State} {h : Nat}

theorem msgLink_host (s : State) {a : Answer} (ho : a.origin = .host h) : msgLink s (.ans a) = some (pHST0 + h, ansClass a.kind) := by
  simp only [msgLink, ho]

theorem deliver_host (s : State) (last : Bool) {a : Answer} (ho : a.origin = .host h) : deliver s last a = latClose (emit s (.ans a)) h a last := by
  simp only [deliver, ho]

/-- An answer to an active host station leaves the block, or waits at the link, which stays active. -/
theorem deliver_host_sent (last : Bool) {a : Answer} (ho : a.origin = .host h) (hup : hostUp s h = true) (m : OutMsg) :
    sentOrHeld (deliver s last a) h m = sentOrHeld s h m + [OutMsg.ans a].count m ∧ hostUp (deliver s last a) h = true := by
  have hlink := msgLink_host s ho
  rw [deliver_host s last ho, latClose_sentOrHeld, latClose_hostUp, hostUp_emit h hlink]
  refine ⟨?_, hup⟩
  by_cases hm : OutMsg.ans a = m
  · subst hm
    rw [sentOrHeld_emit_self hlink hup, List.count_singleton_self]
  · rw [sentOrHeld_emit_ne h hlink hm, List.count_eq_zero.mpr (by simpa using Ne.symm hm), Nat.add_zero]

theorem deliverAll_cons (s : State) (a b : Answer) (as : List Answer) :
    deliverAll s (a :: b :: as) = deliverAll (deliver s false a) (b :: as) := rfl

/-- Every answer to an active host station leaves the block, or waits at the link. -/
theorem deliverAll_host_sent (as : List Answer) (ho : ∀ a ∈ as, a.origin = .host h) (hup : hostUp s h = true) (m : OutMsg) :
    sentOrHeld (deliverAll s as) h m = sentOrHeld s h m + (as.map OutMsg.ans).count m := by
  induction as generalizing s with
  | nil => rfl
  | cons a as ih => cases as with
    | nil => exact (deliver_host_sent true (ho a (by simp)) hup m).1
    | cons b as =>
      obtain ⟨hsent, hstill⟩ := deliver_host_sent false (ho a (by simp)) hup m
      rw [deliverAll_cons, ih (fun x hx => ho x (List.mem_cons_of_mem a hx)) hstill, hsent, Nat.add_assoc, ← List.count_append]
      rfl

end

end Machine
end Sys2Proof
end

section
/-!
# An atomic at a quiet home (R207 to R214, R297)

At a home where nothing waits, an atomic on an Uncached line takes its tracker and its place, is served without a snoop, executes on the
version that memory holds, and frees its line in the same step.
-/
namespace Sys2Proof.Machine
open Sys2Proof

/-! ## The atomic line buffer -/

theorem mpWrite_links (s : State) (line : Nat) (o : OldLine) : (mpWrite s line o).eng = s.eng ∧ (mpWrite s line o).hst = s.hst := by
  unfold mpWrite
  split
  · split
    · dsimp only
      split <;> exact ⟨rfl, rfl⟩
    · exact ⟨rfl, rfl⟩
  · exact ⟨rfl, rfl⟩

/-- A line write at a memory port leaves the stations' links alone. -/
theorem mpWrite_portFrame (s : State) (line : Nat) (o : OldLine) : Frame [.mps, .cnt, .out] s (mpWrite s line o) := by
  obtain ⟨heng, hhst⟩ := mpWrite_links s line o
  have hall : Frame [.eng, .hst, .mps, .cnt, .out] s (mpWrite s line o) := (mpWrite_frame s line o).mono (by decide)
  exact frame_drop (frame_drop hall heng) hhst

theorem aluBack_frame (s : State) (line : Nat) : Frame [.hom, .mps, .cnt, .out] s (aluBack s line) :=
  Frame.trans (hom_frame s _) (mpWrite_portFrame _ _ _) (by decide) (by decide)

theorem aluTouch_frame (s : State) (line : Nat) : Frame [.hom, .mps, .cnt, .out] s (aluTouch s line) := by
  unfold aluTouch
  have hline := fun x => (hom_frame s x).mono (m := [.hom, .mps, .cnt, .out]) (by decide)
  exact Frame.ite _ ((hline _).andThen (aluBack_frame _ _) (by decide)) (hline _)

theorem aluBack_hom (s : State) (line : Nat) : (aluBack s line).hom = { s.hom with aluLines := s.hom.aluLines.erase line } :=
  mpWrite_portFrame { s with hom := { s.hom with aluLines := s.hom.aluLines.erase line } } line _ .hom (by decide)

/-- The line that leaves the buffer for another one is not that line. -/
theorem getLastD_ne_head {line : Nat} {l : List Nat} (hl : l ≠ []) (hne : ∀ x ∈ l, x ≠ line) : (line :: l).getLastD line ≠ line := by
  rw [List.getLastD_cons, List.getLastD_eq_getLast?, List.getLast?_eq_some_getLast hl]
  exact hne _ (List.getLast_mem hl)

/-- The other lines of a line's slice that stand in the buffer. -/
def bufferedBeside (s : State) (line : Nat) : List Nat :=
  (s.hom.aluLines.filter (fun x => x != line)).filter (fun x => sliceOf s x == sliceOf s line)

theorem bufferedBeside_ne (s : State) (line : Nat) : ∀ x ∈ bufferedBeside s line, x ≠ line := by simp [bufferedBeside]

theorem sliceLines_eq (s : State) (line : Nat) :
    (line :: s.hom.aluLines.filter (fun x => x != line)).filter (fun x => sliceOf s x == sliceOf s line) = line :: bufferedBeside s line := by
  simp [bufferedBeside]

/-- A line that an atomic updates stands in its slice's buffer, and nothing else of the homes changes. -/
theorem aluTouch_hom (s : State) (line : Nat) : ∃ l, line ∈ l ∧ (aluTouch s line).hom = { s.hom with aluLines := l } := by
  unfold aluTouch
  dsimp only
  rw [sliceLines_eq]
  split
  · next hfull =>
    have hne : bufferedBeside s line ≠ [] := by rintro h; simp [h] at hfull
    have hvictim := getLastD_ne_head hne (bufferedBeside_ne s line)
    exact ⟨_, (List.mem_erase_of_ne hvictim.symm).mpr (List.mem_cons_self ..), aluBack_hom _ _⟩
  · exact ⟨_, List.mem_cons_self .., rfl⟩

/-! ## From the command to the place -/

/-- A request as an atomic command brings it to the home. -/
def atomicReq (r : HomeReq) (aop : Nat) : HomeReq := { r with op := .atomic aop }

/-- What the admission of a request counts (R104, R588). -/
theorem countAdmit_eq (s : State) (p : Nat) :
    ∃ a b, countAdmit s p = { s with hom := { s.hom with admitted := a, admittedNext := b } } := by
  unfold countAdmit
  split
  · exact ⟨s.hom.admitted, s.hom.admittedNext, rfl⟩
  · split
    · exact ⟨s.hom.admitted, _, rfl⟩
    · exact ⟨_, s.hom.admittedNext, rfl⟩

theorem retry_idle {s : State} (hw : s.hom.waiters = []) (hs : s.hom.setWait = []) : retry s = s := by
  have hnone : admitOrder s [] = [] := rfl
  simp only [retry, hw, hs, hnone, List.foldl_nil]

/-- The transaction of an atomic on an Uncached line: it awaits nobody. -/
def atomicTxn (r : HomeReq) (aop : Nat) : Txn := { req := some (atomicReq r aop) }

theorem moveHolds_quiet {s : State} (h : ∀ e, e ∈ tsome s.tir.moves → e.2.step ≠ .withdraw) (line : Nat) : moveHolds s line = false := by
  simp only [moveHolds, List.any_eq_false]
  intro e he
  simp [h e he]

theorem sliceDown_quiet {s : State} {line : Nat} (hr : s.ras.rebal = []) : sliceDown s line = false := by
  simp [sliceDown, hr]

theorem place_atomic {s : State} {r : HomeReq} {p aop : Nat} (hq : HomeQuiet s r p) (hop : aopOp aop ≠ 0xB) :
    place s (atomicReq r aop) = retry (admitReq s (atomicReq r aop)) := by
  obtain ⟨-, -, -, hset, -, -, -, -, htrack, -, -, hhere⟩ := hq
  have hmay : trackerMay s (atomicReq r aop) = true := by
    have hfree : trackerFree s (atomicReq r aop) = true := htrack
    simp [trackerMay, hfree, hset]
  have hhome : homeHere s (atomicReq r aop).line = true := hhere
  have hstash : ((atomicReq r aop).op == HomeOp.wrStash) = false := rfl
  simp only [place, hhome, hstash, takeTracker, hmay, Bool.not_true, Bool.false_and, Bool.false_eq_true, if_false, if_true]
  simp only [atomicReq, hop, if_false]

/-! ## Service without a snoop -/

theorem fifthPointer_atomic (s : State) (r : HomeReq) (aop : Nat) : fifthPointer s (atomicReq r aop) = false := by
  cases hn : r.node with
  | none => simp only [fifthPointer, atomicReq, hn]
  | some n => simp only [fifthPointer, atomicReq, hn]; rfl

theorem servedOp_atomic (s : State) (r : HomeReq) (aop : Nat) : servedOp s (atomicReq r aop) = .atomic aop := rfl

theorem upgradeOp_atomic (e : DirEntry) (aop req : Nat) : upgradeOp e (.atomic aop) req = .atomic aop := rfl

theorem snoopsFor_uncached (op : HomeOp) (req : Nat) (fwd : Bool) : snoopsFor op {} req fwd = [] := by cases op <;> rfl

theorem sendSnoops_none (s : State) (line dest tag : Nat) : sendSnoops s line dest tag [] = (s, [], []) := rfl

/-- The state in which an atomic on an Uncached line executes, from the one in which its turn came. -/
def openAtomic (s : State) (r : HomeReq) (aop : Nat) : State := setTxn (heatTouch s r.line true) r.line (some (atomicTxn r aop))

theorem serve_atomic {s : State} {r : HomeReq} (aop : Nat) (hd : dirOf s r.line = {}) :
    serve s (atomicReq r aop) = settle (openAtomic s r aop) r.line := by
  have hline : (atomicReq r aop).line = r.line := rfl
  simp only [serve, fifthPointer_atomic, servedOp_atomic, upgradeOp_atomic, hline, hd, snoopsFor_uncached, sendSnoops_none, Bool.false_eq_true, if_false,
    List.nil_append]
  rfl

theorem settle_atomic (s : State) (r : HomeReq) (aop : Nat) :
    settle (openAtomic s r aop) r.line = finishServe (openAtomic s r aop) r.line (atomicTxn r aop) (atomicReq r aop) := by
  have htxn : txnOf (openAtomic s r aop) r.line = some (atomicTxn r aop) := txnOf_setTxn_self _ _ _
  simp only [settle, htxn]
  rfl

theorem tryServe_atomic {s : State} {r : HomeReq} (aop : Nat) (hd : dirOf s r.line = {}) (hr : s.ras.rebal = [])
    (ha : apertureSlot s (r.line * 128) = none) (hm : memStatus s r.line = .ok) :
    tryServe s (atomicReq r aop) = some (finishServe (openAtomic s r aop) r.line (atomicTxn r aop) (atomicReq r aop)) := by
  have hline : (atomicReq r aop).line = r.line := rfl
  have hway : needsWay s (atomicReq r aop) = false := rfl
  rw [← settle_atomic, ← serve_atomic aop hd]
  simp only [tryServe, hline, sliceDown_quiet hr, ha, hm, servedOp_atomic, upgradeOp_atomic, Bool.false_eq_true, if_false, Option.isSome_none, Bool.false_and,
    bne_self_eq_false]
  exact if_neg (by simp [needsWay])

/-! ## The place on the line -/

/-- The state with the requests that stand behind a line. -/
def setWaiters (s : State) (line : Nat) (l : List HomeReq) : State := { s with hom := { s.hom with waiters := tset s.hom.waiters line l } }

/-- The last request behind a line leaves no list there. -/
theorem tset_leave (line : Nat) (r : HomeReq) : tset (tset [] line [r]) line [] = [] := by
  have hdefault : ([] : List HomeReq) = default := rfl
  simp [tset, tput, ← hdefault]

/-- The one request behind a line is served at once and leaves its place. -/
theorem drain_atomic {s : State} {r : HomeReq} (aop : Nat) (hd : dirOf s r.line = {}) (hr : s.ras.rebal = [])
    (ha : apertureSlot s (r.line * 128) = none) (hm : memStatus s r.line = .ok) (htxn : txnOf s r.line = none)
    (hmove : moveHolds s r.line = false) (hw : tget s.hom.waiters r.line = [atomicReq r aop]) :
    drain 1 s r.line = setWaiters (finishServe (openAtomic s r aop) r.line (atomicTxn r aop) (atomicReq r aop)) r.line [] := by
  simp only [drain, htxn, hmove, hw, tryServe_atomic aop hd hr ha hm]
  rfl

/-- The state in which an admitted atomic stands alone behind its line. -/
def atPlace (s : State) (r : HomeReq) (aop : Nat) : State := setWaiters (countAdmit s (homePart r)) r.line [atomicReq r aop]

theorem atPlace_eq (s : State) (r : HomeReq) (aop : Nat) : ∃ h, atPlace s r aop = { s with hom := h } ∧ h.dir = s.hom.dir ∧ h.txns = s.hom.txns ∧
    h.setWait = s.hom.setWait ∧ h.waiters = tset s.hom.waiters r.line [atomicReq r aop] := by
  obtain ⟨a, b, hadm⟩ := countAdmit_eq s (homePart r)
  rw [atPlace, hadm]
  exact ⟨_, rfl, rfl, rfl, rfl, rfl⟩

theorem countAdmit_waiters (s : State) (p : Nat) : (countAdmit s p).hom.waiters = s.hom.waiters := by
  obtain ⟨a, b, hadm⟩ := countAdmit_eq s p
  rw [hadm]

/-- The state in which an atomic at a quiet home executes: nothing of the owners of lines has changed, and the request stands alone behind
its line. -/
structure AtomicOpen (s x : State) (r : HomeReq) (aop : Nat) : Prop where
  frame : Frame [.hom, .tir] s x
  owner : ∀ a, layoutOwner x a = layoutOwner s a
  waiters : x.hom.waiters = tset [] r.line [atomicReq r aop]
  setWait : x.hom.setWait = []

theorem atomicOpen_openAtomic {s : State} {r : HomeReq} (aop : Nat) (hwait : s.hom.waiters = []) (hset : s.hom.setWait = []) :
    AtomicOpen s (openAtomic (atPlace s r aop) r aop) r aop := by
  obtain ⟨h, hplace, -, -, hsw, hw⟩ := atPlace_eq s r aop
  rw [hplace]
  have hheat := heatOnly_heatTouch { s with hom := h } r.line true
  have hhom : (heatTouch { s with hom := h } r.line true).hom = h := hheat.frame .hom (by decide)
  refine ⟨?_, fun a => ?_, ?_, ?_⟩
  · exact (Frame.trans (hom_frame s h) hheat.frame (n := [.hom, .tir]) (by decide) (by decide)).andThen (setTxn_frame _ _ _) (by decide)
  · exact (hheat.layoutOwner_eq a).trans (layoutOwner_congr (s := s) rfl rfl a)
  · exact (congrArg Hom.waiters hhom).trans (hw.trans (by rw [hwait]))
  · exact (congrArg Hom.setWait hhom).trans (hsw.trans hset)

/-- An atomic takes its place at a quiet home, is served at once, and leaves the place. -/
theorem place1_atomic {s : State} {r : HomeReq} {p : Nat} (aop : Nat) (hq : HomeQuiet s r p) (hd : dirOf s r.line = {}) :
    ∃ x, AtomicOpen s x r aop ∧ place1 (countAdmit s (homePart r)) (atomicReq r aop) =
      setWaiters (finishServe x r.line (atomicTxn r aop) (atomicReq r aop)) r.line [] := by
  obtain ⟨-, -, hwait, hset, htxns, hrebal, hmoves, hmem, -, hap, -, -⟩ := hq
  refine ⟨_, atomicOpen_openAtomic aop hwait hset, ?_⟩
  have hplace1 : place1 (countAdmit s (homePart r)) (atomicReq r aop) = drain 1 (atPlace s r aop) r.line := by
    have hline : (atomicReq r aop).line = r.line := rfl
    simp only [place1, hline, countAdmit_waiters, hwait]
    rw [atPlace, setWaiters, countAdmit_waiters, hwait]
    rfl
  obtain ⟨h, hplace, hdir, htxn, -, hw⟩ := atPlace_eq s r aop
  rw [hplace1, hplace]
  refine drain_atomic aop ?_ hrebal hap hmem ?_ (moveHolds_quiet hmoves r.line) ?_
  · exact (congrArg (tget · r.line) hdir).trans hd
  · exact congrArg (tget · r.line) (htxn.trans htxns)
  · exact (congrArg (tget · r.line) hw).trans (tget_tset_self s.hom.waiters r.line _)

end Sys2Proof.Machine
end

section
/-!
# What an executed atomic leaves (R255, R287, R297)

The state after an atomic at a quiet home that writes its line: the line as it was written, the line's place free again, and the answers on
their way to the requester.
-/
namespace Sys2Proof.Machine
open Sys2Proof

theorem consume_sentOrHeld (s : State) (p c n h : Nat) (m : OutMsg) : sentOrHeld (consume s p c n) h m = sentOrHeld s h m := by
  unfold consume
  split
  · rfl
  · exact sentOrHeld_updLink _ _ _ _ _ (fun _ => rfl)

/-- The credits of a request and of its data are owed back, and nothing else changes (R239). -/
theorem reqConsumed_frame (s : State) (r : HomeReq) : Frame [.eng, .hst] s (reqConsumed s r) := by
  unfold reqConsumed
  split
  · next h _ =>
    have hone := consume_frame s (pHST0 + h) 0 1
    exact Frame.ite _ (hone.andThen (consume_frame _ _ _ _) (fun _ => id)) hone
  · exact Frame.refl _ _

theorem reqConsumed_sentOrHeld (s : State) (r : HomeReq) (h : Nat) (m : OutMsg) : sentOrHeld (reqConsumed s r) h m = sentOrHeld s h m := by
  unfold reqConsumed
  split
  · dsimp only
    split
    · rw [consume_sentOrHeld, consume_sentOrHeld]
    · rw [consume_sentOrHeld]
  · rfl

/-- The state in which an atomic writes its line, which stands in the atomic line buffer. -/
def touched (s : State) (r : HomeReq) : State := aluTouch (tenant s (homePart r) 5) r.line

theorem touched_frame (s : State) (r : HomeReq) : Frame [.cnt, .hom, .mps, .out] s (touched s r) :=
  Frame.trans (tenant_frame s _ _ _) (aluTouch_frame _ _) (by decide) (by decide)

/-- The line is free, and its place behind it empty. -/
def freed (s : State) (line : Nat) : State := setWaiters (setTxn (setDir s line {}) line none) line []

theorem freed_frame (s : State) (line : Nat) : Frame [.hom] s (freed s line) :=
  ((setDir_frame s line {}).andThen (setTxn_frame _ _ _) (fun _ => id)).andThen (hom_frame _ _) (fun _ => id)

theorem dirOf_freed (s : State) (line : Nat) : dirOf (freed s line) line = {} := dirOf_setDir_self s line {}

theorem txnOf_freed (s : State) (line : Nat) : txnOf (freed s line) line = none := txnOf_setTxn_self _ line none

/-- The end of an atomic whose line stands in the buffer: its answers go out at once, without a read of memory. -/
theorem finishServe_atomic {s u : State} {r : HomeReq} {aop : Nat} {as : List Answer}
    (hx : execAtomic s (atomicReq r aop) aop (rdLine s r.line) (linePois s r.line) (aopReturns aop) = (u, as)) (hbuf : r.line ∈ u.hom.aluLines) :
    setWaiters (finishServe s r.line (atomicTxn r aop) (atomicReq r aop)) r.line [] = freed (deliverAll u as) r.line := by
  have hstatus : (atomicTxn r aop).status = .ok := rfl
  have hop : (atomicReq r aop).op = .atomic aop := rfl
  have hdata : (atomicTxn r aop).data = none := rfl
  have hanswer : answer u r.line (aopReturns aop) as = deliverAll u as := by
    simp only [answer, List.contains_iff_mem.mpr hbuf, Bool.not_true, Bool.and_false, Bool.false_eq_true, if_false]
  simp only [finishServe, hstatus, hop, txnLine, hdata, Option.isNone_none, Bool.and_true, hx, hanswer, ne_eq, not_true_eq_false, if_false]
  rfl

theorem AtomicOpen.rdLine_eq {s x : State} {r : HomeReq} {aop : Nat} (h : AtomicOpen s x r aop) : rdLine x r.line = rdLine s r.line :=
  rdLine_congr h.frame (by decide) (h.owner _)

theorem AtomicOpen.linePois_eq {s x : State} {r : HomeReq} {aop : Nat} (h : AtomicOpen s x r aop) : linePois x r.line = linePois s r.line :=
  linePois_congr (h.frame .memPois (by decide)) _

/-- What an atomic leaves that wrote its line and whose answers are these. -/
structure AtomicDone (s t : State) (r : HomeReq) (d : LineData) (pois : Nat) (as : List Answer) : Prop where
  stored : LineStored s t r.line d (pois % 256)
  dir : dirOf t r.line = {}
  txn : txnOf t r.line = none
  sent : ∀ h, r.origin = .host h → hostUp s h = true → ∀ a ∈ as, OutTo t h (.ans a)
  frame : Frame homeWriteComps s t

/-- The state after an atomic: its answers delivered, its line free, and its credits owed back. -/
def afterAtomic (u : State) (r : HomeReq) (aop : Nat) (as : List Answer) : State :=
  reqConsumed (freed (deliverAll u as) r.line) (atomicReq r aop)

theorem afterAtomic_hom (u : State) (r : HomeReq) (aop : Nat) (as : List Answer) :
    (afterAtomic u r aop as).hom = (freed (deliverAll u as) r.line).hom := reqConsumed_frame _ _ .hom (by decide)

theorem afterAtomic_frame (u : State) (r : HomeReq) (aop : Nat) {as : List Answer} (hlast : ∀ a ∈ as.getLast?, a.kind = .comp) :
    Frame answerComps u (afterAtomic u r aop as) :=
  ((delivered_deliverAll u as hlast).1.andThen (freed_frame _ _) (by decide)).andThen (reqConsumed_frame _ _) (by decide)

theorem afterAtomic_outTo {u : State} {r : HomeReq} {h : Nat} (aop : Nat) {as : List Answer} (ho : ∀ a ∈ as, a.origin = .host h)
    (hup : hostUp u h = true) {a : Answer} (ha : a ∈ as) : OutTo (afterAtomic u r aop as) h (.ans a) := by
  have hmem : 0 < (as.map OutMsg.ans).count (.ans a) := List.count_pos_iff.mpr (List.mem_map_of_mem ha)
  refine outTo_of_sentOrHeld ?_
  rw [afterAtomic, reqConsumed_sentOrHeld, sentOrHeld_of_frame (freed_frame _ _) (by decide), deliverAll_host_sent as ho hup]
  omega

/-- The state in which an executed atomic has written its line. -/
def written (x : State) (r : HomeReq) (d : LineData) (pois : Nat) : State := wrLine (touched x r) r.line d pois

theorem written_hom (x : State) (r : HomeReq) (d : LineData) (pois : Nat) :
    ∃ l, r.line ∈ l ∧ (written x r d pois).hom = { x.hom with aluLines := l } := aluTouch_hom (tenant x (homePart r) 5) r.line

theorem AtomicOpen.touched_frame {s x : State} {r : HomeReq} {aop : Nat} (h : AtomicOpen s x r aop) :
    Frame [.hom, .tir, .cnt, .mps, .out] s (touched x r) := (h.frame.mono (by decide)).andThen (Machine.touched_frame x r) (by decide)

theorem AtomicOpen.written_frame {s x : State} {r : HomeReq} {aop : Nat} (h : AtomicOpen s x r aop) (d : LineData) (pois : Nat) :
    Frame [.hom, .tir, .cnt, .mps, .out, .mem, .memPois, .memKey] s (written x r d pois) :=
  (h.touched_frame.mono (by decide)).andThen (wrLine_frame _ _ _ _) (by decide)

/-- Nothing waits at the home after the atomic, so that nothing is tried again. -/
theorem retry_afterAtomic {s x : State} {r : HomeReq} {aop : Nat} (hx : AtomicOpen s x r aop) (d : LineData) (pois : Nat) {as : List Answer}
    (hlast : ∀ a ∈ as.getLast?, a.kind = .comp) :
    retry (afterAtomic (written x r d pois) r aop as) = afterAtomic (written x r d pois) r aop as := by
  obtain ⟨-, fresh, hfresh⟩ := delivered_deliverAll (written x r d pois) as hlast
  obtain ⟨buf, -, hhom⟩ := written_hom x r d pois
  have hwaiters : (deliverAll (written x r d pois) as).hom.waiters = tset [] r.line [atomicReq r aop] := by rw [hfresh, hhom]; exact hx.waiters
  have hset : (deliverAll (written x r d pois) as).hom.setWait = [] := by rw [hfresh, hhom]; exact hx.setWait
  refine retry_idle ?_ ?_ <;> rw [afterAtomic_hom]
  · exact (congrArg (tset · r.line []) hwaiters).trans (tset_leave _ _)
  · exact hset

/-- An atomic is placed at a quiet home, executes, writes its line and answers, all in the one step. -/
theorem place_atomic_written {s : State} {r : HomeReq} {p aop pois : Nat} {d : LineData} {as : List Answer} (hq : HomeQuiet s r p)
    (hd : dirOf s r.line = {}) (hop : aopOp aop ≠ 0xB) (hlast : ∀ a ∈ as.getLast?, a.kind = .comp)
    (hexec : ∀ x, execAtomic x (atomicReq r aop) aop (rdLine s r.line) (linePois s r.line) (aopReturns aop) = (written x r d pois, as)) :
    ∃ x, AtomicOpen s x r aop ∧ place s (atomicReq r aop) = afterAtomic (written x r d pois) r aop as := by
  obtain ⟨x, hx, hplace1⟩ := place1_atomic aop hq hd
  obtain ⟨buf, hbuf, hhom⟩ := written_hom x r d pois
  have hmine := hexec x
  rw [← hx.rdLine_eq, ← hx.linePois_eq] at hmine
  rw [finishServe_atomic hmine (by rw [hhom]; exact hbuf)] at hplace1
  have hadmit : admitReq s (atomicReq r aop) = afterAtomic (written x r d pois) r aop as := congrArg (reqConsumed · (atomicReq r aop)) hplace1
  exact ⟨x, hx, by rw [place_atomic hq hop, hadmit, retry_afterAtomic hx d pois hlast]⟩

/-- An atomic at a quiet home, from what its execution gives: the line it writes, and its answers, the last of which is a completion. -/
theorem atomicDone_place {s : State} {r : HomeReq} {p aop pois : Nat} {d : LineData} {as : List Answer} (hq : HomeQuiet s r p)
    (hd : dirOf s r.line = {}) (hop : aopOp aop ≠ 0xB) (horigin : ∀ a ∈ as, a.origin = r.origin) (hlast : ∀ a ∈ as.getLast?, a.kind = .comp)
    (hexec : ∀ x, execAtomic x (atomicReq r aop) aop (rdLine s r.line) (linePois s r.line) (aopReturns aop) = (written x r d pois, as)) :
    AtomicDone s (place s (atomicReq r aop)) r d pois as := by
  obtain ⟨x, hx, hplace⟩ := place_atomic_written hq hd hop hlast hexec
  have hwritten := hx.written_frame d pois
  have hafter := afterAtomic_frame (written x r d pois) r aop hlast
  rw [hplace]
  refine ⟨lineStored_of_wrLine (hx.touched_frame .mem (by decide)) hafter (by decide), ?_, ?_, fun h ho hup a ha => ?_,
    (hwritten.mono (by decide)).andThen hafter (by decide)⟩
  · rw [dirOf, afterAtomic_hom]
    exact dirOf_freed _ _
  · rw [txnOf, afterAtomic_hom]
    exact txnOf_freed _ _
  · exact afterAtomic_outTo aop (fun b hb => (horigin b hb).trans ho) ((hostUp_of_frame hwritten (by decide) h).trans hup) ha

end Sys2Proof.Machine
end

section
/-!
# Owner-tagged locks (R296)
-/
namespace Sys2Proof.Machine
open Sys2Proof

theorem atHome_quiet {s : State} {r : HomeReq} {p aop : Nat} (hq : HomeQuiet s r p) :
    atHome (atomicReq r aop) s = .next (place s (atomicReq r aop)) := by
  obtain ⟨hlive, hline, -⟩ := hq
  have hspace : ¬ 2 ^ 39 ≤ (atomicReq r aop).line := Nat.not_le.mpr hline
  rw [atHome, if_neg hspace, if_pos hlive]

/-- The operation code of LOCK_ACQ or LOCK_REL on UINT64 (R284). -/
def lockCode (acq : Bool) : Nat := if acq then 0xC7 else 0xD7

/-- The answers of a lock operation: the prior word, and the completion, both with the status of the rules (R287, R296). -/
def lockAnswers (r : HomeReq) (st : Status) (base : LineData) : List Answer :=
  [ansOf r .dataOnce st (maskedLine base r.mask) 0, ansOf r .comp st 0 0]

/-- A lock operation of one element that nothing refuses writes the word of the rules and answers their status. -/
theorem execAtomic_lock (acq fromMem : Bool) (s : State) (r : HomeReq) {base : LineData} {pois e : Nat} (he : elems r.mask 8 = [e])
    (hok : aopRefused (lockCode acq) r.mask pois = none) :
    execAtomic s (atomicReq r (lockCode acq)) (lockCode acq) base pois fromMem =
      (written s r (setElem base 8 e (lockOp acq (elemAt base 8 e) (elemAt r.data 8 e)).2) pois,
        lockAnswers r (lockOp acq (elemAt base 8 e) (elemAt r.data 8 e)).1 base) := by
  have hmask : (atomicReq r (lockCode acq)).mask = r.mask := rfl
  have hdata : (atomicReq r (lockCode acq)).data = r.data := rfl
  have hstrict : strictRefused s (lockCode acq) = false := by cases acq <;> simp [strictRefused, lockCode, aopOp]
  have hop : aopOp (lockCode acq) = if acq then 0xC else 0xD := by cases acq <;> rfl
  simp only [execAtomic, hstrict, hmask, hdata, hok, he, hop]
  cases acq <;> rfl

/-- A lock word of 64 bits is taken, left, freed or refused as the table says. -/
theorem lockRules : Claim.LockRules := by
  intro prior opnd _ hopnd
  have htag : opnd / 2 ^ 16 % 2 ^ 48 = opnd / 2 ^ 16 := Nat.mod_eq_of_lt (by omega)
  simp only [lockOp, htag]
  generalize prior / 2 % 2 ^ 15 = rest
  generalize prior / 2 ^ 16 = owner
  generalize opnd / 2 ^ 16 = tag
  refine ⟨?reserved, ?free, ?own, ?other, ?release, ?refused⟩
  case reserved => intro h _; rw [if_pos h]
  case free => intro h hfree; simp [h, hfree]
  case own => intro h hheld ho; simp [h, hheld, ho]
  case other => intro h hheld ho; simp [h, hheld, ho]
  case release => intro h hheld ho; simp [h, hheld, ho]
  case refused =>
    rintro h (hfree | ho)
    · simp [h, hfree]
    · simp [h, ho]

/-- The word that a lock operation leaves in a line, and its status. -/
def lockResult (acq : Bool) (s : State) (r : HomeReq) (e : Nat) : Status × Nat := lockOp acq (elemAt (rdLine s r.line) 8 e) (elemAt r.data 8 e)

/-- What a lock operation of one element leaves and answers at a quiet home (R287, R296). -/
def LockDone (acq : Bool) (s t : State) (r : HomeReq) (e : Nat) : Prop :=
  LineStored s t r.line (setElem (rdLine s r.line) 8 e (lockResult acq s r e).2) (linePois s r.line) ∧ txnOf t r.line = none ∧
  (∀ h, r.origin = .host h → hostUp s h = true →
    OutTo t h (.ans (ansOf r .dataOnce (lockResult acq s r e).1 (maskedLine (rdLine s r.line) r.mask) 0)) ∧
    OutTo t h (.ans (ansOf r .comp (lockResult acq s r e).1 0 0))) ∧
  Frame homeWriteComps s t

/-- A command that brings a lock operation to a quiet home executes it there. -/
theorem lock_ends (acq : Bool) {c : Instr} {s : State} {r : HomeReq} {p e : Nat} (hc : exec c s = atHome (atomicReq r (lockCode acq)) s)
    (hq : HomeQuiet s r p) (hd : dirOf s r.line = {}) (he : elems r.mask 8 = [e])
    (hok : aopRefused (lockCode acq) r.mask (linePois s r.line) = none) : Ends c s (fun t => LockDone acq s t r e) := by
  refine ⟨_, hc.trans (atHome_quiet hq), ?_⟩
  have hop : aopOp (lockCode acq) ≠ 0xB := by cases acq <;> decide
  have hdone := atomicDone_place hq hd hop (by simp [lockAnswers, ansOf]) (by simp [lockAnswers, ansOf])
    (fun x => execAtomic_lock acq _ x r he hok)
  have hstored := hdone.stored
  rw [Nat.mod_eq_of_lt (linePois_lt s r.line)] at hstored
  refine ⟨hstored, hdone.txn, fun h ho hup => ⟨?_, ?_⟩, hdone.frame⟩
  · exact hdone.sent h ho hup _ (List.mem_cons_self ..)
  · exact hdone.sent h ho hup _ (List.mem_cons_of_mem _ (List.mem_cons_self ..))

/-- Settles O31: `lockOp` case by case, and both commands through the one place of an atomic at a quiet home. -/
theorem ownerTaggedLocks : Obligations.OwnerTaggedLocks := by
  unfold Obligations.OwnerTaggedLocks
  refine ⟨lockRules, fun s r p e hq hd he => ⟨fun hok => ?acquire, fun hok => ?release⟩⟩
  case acquire => exact lock_ends true rfl hq hd he hok
  case release => exact lock_ends false rfl hq hd he hok

end Sys2Proof.Machine
end

section
/-!
# Writes of mailbox registers and the lock (R48, R483, R487)

A write that reaches a mailbox has the register's own effect, and its answer leaves every mailbox alone.
-/
namespace Sys2Proof.Machine
open Sys2Proof

theorem mbox_of_frame {l : List Comp} {s t : State} (h : Frame l s t) (hl : Comp.mbx ∉ l) (m : Nat) : mbox t m = mbox s m := by
  have hmbx : t.mbx = s.mbx := h .mbx hl
  rw [mbox, mbox, hmbx]

/-- The answer to a write goes to the station that made it; over I3C there is none. -/
theorem mbRsp_write_frame (s : State) {w : MbAcc} (hw : ViaOwn w.via) : Frame [.hst, .out] s (mbRsp s w []) := by
  obtain ⟨mb, via⟩ := w
  cases via with
  | view a => exact regRsp_hostFrame s a.st .ok [] (Nat.lt_trans hw (by decide))
  | page a => exact regRsp_hostFrame s a.st .ok [] (Nat.lt_trans hw (by decide))
  | i3c => exact Frame.refl _ s

/-- A write that reaches its mailbox has the register's own effect and is answered. -/
theorem mbWrite_reached {s : State} {w : MbAcc} {restricted : Bool} (f : State → State) (h : mbReach s w restricted = .ok) :
    mbWrite s w restricted f = mbRsp (f s) w [] := by
  simp only [mbWrite, h]

/-- An admitted write whose own effect is on one mailbox leaves the others, and of the rest changes only what its answer does. -/
theorem mbWrite_updMb {s : State} {w : MbAcc} (hw : MbAdmits s w) (f : Mailbox → Mailbox) :
    mbox (mbWrite s w true (updMb · w.mb f)) w.mb = f (mbox s w.mb) ∧
    (∀ m, m ≠ w.mb → mbox (mbWrite s w true (updMb · w.mb f)) m = mbox s m) ∧
    Frame [.mbx, .hst, .out] s (mbWrite s w true (updMb · w.mb f)) := by
  obtain ⟨hreach, hvia⟩ := hw
  rw [mbWrite_reached _ hreach]
  have hrsp := mbRsp_write_frame (updMb s w.mb f) hvia
  have hbox := mbox_of_frame hrsp (by decide)
  refine ⟨?_, fun m hm => ?_, (updMb_frame s w.mb f).trans hrsp (by decide) (by decide)⟩
  · rw [hbox, mbox_updMb_self]
  · rw [hbox, mbox_updMb_ne _ _ _ _ hm]

/-- Settles O19: an admitted write of the lock has the effect of `lockWrite` on its own mailbox, and that function follows R487 case by
case. -/
theorem mailboxLock : Obligations.MailboxLock := by
  unfold Obligations.MailboxLock
  intro s w v hw
  obtain ⟨hself, hother, hframe⟩ := mbWrite_updMb hw (lockWrite · v)
  refine ⟨_, rfl, ?_, hother, hframe⟩
  rw [hself, lockWrite]

end Sys2Proof.Machine
end

section
/-!
# Every command keeps the queue behind it and the canonical form of memory (R118)

One lemma for each operation of the model, in the order of its files: from a state reached under `Keeps` the operation reaches another such
state. Each proof walks the branches of its definition and cites the lemmas of the operations that the branch calls; the few operations that
write memory cite the model's `MemOk` lemmas.
-/
namespace Sys2Proof.Machine
open Sys2Proof

/-- From one state to another the queue of commands stays, and memory that is in canonical form stays so. -/
def Keeps (s t : State) : Prop := t.pending = s.pending ∧ (MemOk s → MemOk t)

/-- Where the command completes, it keeps the queue and the form of memory. -/
def Ran (s : State) (o : Host.Outcome State Fault Refusal) : Prop := ∀ t, o = .next t → Keeps s t

variable {s t : State}

theorem Keeps.refl (s : State) : Keeps s s := ⟨rfl, id⟩

theorem Keeps.trans {u : State} (h : Keeps s t) (g : Keeps t u) : Keeps s u := ⟨g.1.trans h.1, g.2 ∘ h.2⟩

/-- A change of other components. -/
theorem keeps_of_same {u : State} (h : Keeps s t) (hp : u.pending = t.pending) (hm : u.mem = t.mem) : Keeps s u := by
  refine ⟨hp.trans h.1, fun hs => ?_⟩
  have := h.2 hs
  rwa [MemOk, hm]

theorem keeps_mk (build clk free pages boot fuses bcn sec mbx cnt parts ras cas det lan eng hst hom mov xfm tir lmp fnc spn
    mps memPois memKey memScrub out inUse sampled) :
    Keeps s ⟨build, clk, free, pages, boot, fuses, bcn, sec, mbx, cnt, parts, ras, cas, det, lan, eng, hst, hom, mov, xfm, tir, lmp, fnc, spn,
      mps, t.mem, memPois, memKey, memScrub, out, inUse, sampled, t.pending⟩ ↔ Keeps s t :=
  ⟨fun h => keeps_of_same h rfl rfl, fun h => keeps_of_same h rfl rfl⟩

theorem keeps_foldl {α : Type} (h : Keeps s t) (f : State → α → State) (l : List α) (hf : ∀ u x, Keeps s u → Keeps s (f u x)) :
    Keeps s (l.foldl f t) := by
  induction l generalizing t with
  | nil => exact h
  | cons x l ih => exact ih (hf _ x h)

/-- The state of a pair that an equation names. -/
theorem keeps_fst {α : Type} {x : State × α} {r : α} (h : Keeps s x.1) (e : x = (t, r)) : Keeps s t := by cases e; exact h

theorem keeps_snd {α : Type} {x : α × State} {r : α} (h : Keeps s x.2) (e : x = (r, t)) : Keeps s t := by cases e; exact h

theorem ran_next (h : Keeps s t) : Ran s (.next t) := fun u e => by cases e; exact h

theorem ran_fault (r : Fault) : Ran s (.fault r) := fun u e => by cases e

/-! ## Ops -/

theorem keeps_updPage (h : Keeps s t) (p f) : Keeps s (updPage t p f) := keeps_of_same h rfl rfl

theorem keeps_updPart (h : Keeps s t) (p f) : Keeps s (updPart t p f) := keeps_of_same h rfl rfl

theorem keeps_updLink (h : Keeps s t) (p f) : Keeps s (updLink t p f) := by
  unfold updLink
  repeat' with_reducible first | assumption | simp only [↓keeps_mk] | split

theorem keeps_emit (h : Keeps s t) (m) : Keeps s (emit t m) := by
  unfold emit
  repeat' with_reducible first | assumption | apply keeps_updLink | simp only [↓keeps_mk] | split

theorem keeps_consume (h : Keeps s t) (p cls n) : Keeps s (consume t p cls n) := by
  unfold consume
  repeat' with_reducible first | assumption | apply keeps_updLink | split

theorem keeps_returnCredits (h : Keeps s t) (p) : Keeps s (returnCredits t p) := by
  unfold returnCredits
  repeat' with_reducible first | assumption | intro _ | apply keeps_updLink | apply keeps_foldl | simp only [↓keeps_mk] | split

theorem keeps_linkRelease (h : Keeps s t) (p) : Keeps s (linkRelease t p) := by
  unfold linkRelease
  repeat' with_reducible first | assumption | intro _ | apply keeps_emit | apply keeps_updLink | apply keeps_foldl

theorem keeps_emits (h : Keeps s t) (ms) : Keeps s (emits t ms) := keeps_of_same h rfl rfl

theorem keeps_count (h : Keeps s t) (page ev part inst n) : Keeps s (count t page ev part inst n) := keeps_of_same h rfl rfl

theorem keeps_tenant (h : Keeps s t) (part src n) : Keeps s (tenant t part src n) := by
  unfold tenant
  repeat' with_reducible first | assumption | apply keeps_count

theorem keeps_sendIrq (h : Keeps s t) (p) : Keeps s (sendIrq t p) := by
  unfold sendIrq
  repeat' with_reducible first | assumption | intro _ | apply keeps_emit | apply keeps_updPage | apply keeps_foldl | split

theorem keeps_raise (h : Keeps s t) (p bit) : Keeps s (raise t p bit) := by
  unfold raise
  repeat' with_reducible first | assumption | apply keeps_updPage | apply keeps_count | apply keeps_sendIrq | split | dsimp only

theorem keeps_setLast (h : Keeps s t) (p st) : Keeps s (setLast t p st) := by
  unfold setLast
  repeat' with_reducible first | assumption | apply keeps_updPage

theorem keeps_advanceTo (h : Keeps s t) (c) : Keeps s (advanceTo t c) := keeps_of_same h rfl rfl

theorem keeps_advanceToTick (h : Keeps s t) (c) : Keeps s (advanceToTick t c) := by
  unfold advanceToTick
  repeat' with_reducible first | assumption | apply keeps_advanceTo

theorem keeps_drawWord (h : Keeps s t) : Keeps s (drawWord t).2 := keeps_of_same h rfl rfl

theorem keeps_takeUnit (h : Keeps s t) (kind i) : Keeps s (takeUnit t kind i) := keeps_of_same h rfl rfl

theorem keeps_updMb (h : Keeps s t) (m f) : Keeps s (updMb t m f) := keeps_of_same h rfl rfl

theorem keeps_mbIrq (h : Keeps s t) (m) : Keeps s (mbIrq t m) := by
  unfold mbIrq
  repeat' with_reducible first | assumption | intro _ | apply keeps_emit | apply keeps_updMb | apply keeps_foldl | split

theorem keeps_ringS2h (h : Keeps s t) (m bit) : Keeps s (ringS2h t m bit) := by
  unfold ringS2h
  repeat' with_reducible first | assumption | apply keeps_updMb | apply keeps_mbIrq | split | dsimp only

theorem keeps_rasTotal (h : Keeps s t) (c) : Keeps s (rasTotal t c) := by
  unfold rasTotal
  repeat' with_reducible first | assumption | apply keeps_count | apply keeps_raise | apply keeps_ringS2h | simp only [↓keeps_mk] | split

theorem keeps_logErr (h : Keeps s t) (c st page index part addr va) : Keeps s (logErr t c st page index part addr va) := by
  unfold logErr
  repeat' with_reducible first | assumption | apply keeps_count | apply keeps_raise | apply keeps_rasTotal | simp only [↓keeps_mk] | split

theorem keeps_logProto (h : Keeps s t) (st page index part addr) : Keeps s (logProto t st page index part addr) := by
  unfold logProto
  repeat' with_reducible first | assumption | apply keeps_logErr

theorem keeps_memOk {u : State} (h : Keeps s t) (hp : u.pending = t.pending) (hm : MemOk t → MemOk u) : Keeps s u :=
  ⟨hp.trans h.1, fun hs => hm (h.2 hs)⟩

theorem keeps_scrubLines (h : Keeps s t) (base n p) : Keeps s (scrubLines t base n p) :=
  keeps_memOk h (by unfold scrubLines; split <;> rfl) (MemOk_scrubLines t base n p)

theorem keeps_wrLine (h : Keeps s t) (l d p) : Keeps s (wrLine t l d p) := keeps_memOk h rfl (MemOk_wrLine t l d p)

theorem keeps_wrLineMasked (h : Keeps s t) (line d m pois) : Keeps s (wrLineMasked t line d m pois) := by
  unfold wrLineMasked
  repeat' with_reducible first | assumption | apply keeps_wrLine

theorem keeps_wrBytesLine (h : Keeps s t) (a bs) : Keeps s (wrBytesLine t a bs) := by
  unfold wrBytesLine
  repeat' with_reducible first | assumption | apply keeps_wrLine

theorem keeps_wrWord (h : Keeps s t) (a w) : Keeps s (wrWord t a w) := by
  unfold wrWord
  repeat' with_reducible first | assumption | apply keeps_wrBytesLine

theorem keeps_wrWords (h : Keeps s t) (a ws) : Keeps s (wrWords t a ws) := by
  induction ws generalizing t a with
  | nil => exact h
  | cons w l ih => exact ih (keeps_wrWord h _ _) _

theorem keeps_updMp (h : Keeps s t) (p f) : Keeps s (updMp t p f) := keeps_of_same h rfl rfl

theorem keeps_mpLine (h : Keeps s t) (p) : Keeps s (mpLine t p) := by
  unfold mpLine
  repeat' with_reducible first | assumption | apply keeps_count | apply keeps_updMp

theorem keeps_putBack (h : Keeps s t) (o) : Keeps s (putBack t o) := keeps_memOk h rfl (MemOk_putBack t o)

theorem keeps_putBackAll (h : Keeps s t) (l) : Keeps s (putBackAll t l) := by
  unfold putBackAll
  repeat' with_reducible first | assumption | intro _ | apply keeps_putBack | apply keeps_foldl

theorem keeps_mpWrite (h : Keeps s t) (line old) : Keeps s (mpWrite t line old) := by
  unfold mpWrite
  repeat' with_reducible first | assumption | apply keeps_mpLine | apply keeps_emit | apply keeps_updMp | split | dsimp only

theorem keeps_ownDone (h : Keeps s t) (k) : Keeps s (ownDone t k) := keeps_of_same h rfl rfl

theorem keeps_relayLater (h : Keeps s t) (r) : Keeps s (relayLater t r) := keeps_of_same h rfl rfl

theorem keeps_relayPuts (h : Keeps s t) (p ws) : Keeps s (relayPuts t p ws) := by
  induction ws generalizing t with
  | nil => exact h
  | cons w l ih => exact ih (keeps_relayLater h _)

theorem keeps_wrPuts (h : Keeps s t) (ws) : Keeps s (wrPuts t ws) := by
  induction ws generalizing t with
  | nil => exact h
  | cons w l ih => exact ih (keeps_wrWord h _ _)

theorem keeps_ownPuts (h : Keeps s t) (p l) : Keeps s (ownPuts t p l) := by
  unfold ownPuts
  repeat' with_reducible first | assumption | apply keeps_wrPuts | apply keeps_relayPuts | split

theorem keeps_ownPut (h : Keeps s t) (p a l) : Keeps s (ownPut t p a l) := by
  unfold ownPut
  repeat' with_reducible first | assumption | apply keeps_ownPuts

theorem keeps_useShare (h : Keeps s t) (res p used cut) : Keeps s (useShare t res p used cut) := by
  unfold useShare
  repeat' with_reducible first | assumption | simp only [↓keeps_mk]

theorem keeps_countAdmit (h : Keeps s t) (p) : Keeps s (countAdmit t p) := by
  unfold countAdmit
  repeat' with_reducible first | assumption | simp only [↓keeps_mk] | split

theorem keeps_storeLine (h : Keeps s t) (line d pois) : Keeps s (storeLine t line d pois) := by
  unfold storeLine
  repeat' with_reducible first | assumption | apply keeps_mpWrite | apply keeps_wrLine

/-! ## Translate -/

theorem keeps_lanternFill (h : Keeps s t) (e) : Keeps s (lanternFill t e) := by
  unfold lanternFill
  repeat' with_reducible first | assumption | simp only [↓keeps_mk] | split

theorem keeps_lanternTouch (h : Keeps s t) (e) : Keeps s (lanternTouch t e) := keeps_of_same h rfl rfl

theorem keeps_upTouch (h : Keeps s t) (u') : Keeps s (upTouch t u') := keeps_of_same h rfl rfl

theorem keeps_runFell (h : Keeps s t) : Keeps s (runFell t) := by
  unfold runFell
  repeat' with_reducible first | assumption | apply keeps_count | apply keeps_raise | simp only [↓keeps_mk] | split

theorem keeps_ite_fst {α : Type} {c : Prop} [Decidable c] {x y : State × α} (hx : Keeps s x.1) (hy : Keeps s y.1) :
    Keeps s (if c then x else y).1 := by split <;> assumption

theorem keeps_s2Levels (h : Keeps s t) (k p gpa n lvl tbl) : Keeps s (s2Levels t k p gpa n lvl tbl).1 := by
  induction n generalizing t lvl tbl with
  | zero => exact h
  | succ n ih =>
    unfold s2Levels
    dsimp only
    repeat' with_reducible
      first
      | assumption | apply ih | apply keeps_ite_fst | apply keeps_upTouch | apply keeps_lanternFill | apply keeps_runFell | split

theorem keeps_s2Translate (h : Keeps s t) (k p gpa) : Keeps s (s2Translate t k p gpa).1 := by
  unfold s2Translate
  repeat' with_reducible
    first
    | assumption | apply keeps_lanternTouch | apply keeps_s2Levels | apply keeps_upTouch | refine keeps_fst ?_ (by assumption) | split
    | dsimp only

theorem keeps_s1Read (h : Keeps s t) (k p gpa) : Keeps s (s1Read t k p gpa).1 := by
  unfold s1Read
  repeat' with_reducible first | assumption | apply keeps_s2Translate | refine keeps_fst ?_ (by assumption) | split

theorem keeps_walkLeaf (h : Keeps s t) (k p va acc lvl x1) : Keeps s (walkLeaf t k p va acc lvl x1).1 := by
  unfold walkLeaf
  repeat' with_reducible first | assumption | apply keeps_s2Translate | refine keeps_fst ?_ (by assumption) | split | dsimp only

theorem keeps_s1Levels (h : Keeps s t) (k sid p va acc n lvl tbl) : Keeps s (s1Levels t k sid p va acc n lvl tbl).1 := by
  induction n generalizing t lvl tbl with
  | zero => exact h
  | succ n ih =>
    unfold s1Levels
    dsimp only
    repeat' with_reducible
      first
      | assumption | apply ih | apply keeps_upTouch | apply keeps_walkLeaf | apply keeps_runFell | apply keeps_s1Read
      | refine keeps_fst ?_ (by assumption) | split

theorem keeps_walkFrom (h : Keeps s t) (k sid va acc) : Keeps s (walkFrom t k sid va acc).1 := by
  unfold walkFrom
  repeat' with_reducible
    first
    | assumption | apply keeps_s1Levels | apply keeps_upTouch | refine keeps_fst ?_ (by assumption) | split | dsimp only

theorem keeps_walk (h : Keeps s t) (k sid va acc) : Keeps s (walk t k sid va acc).1 := by
  unfold walk
  repeat' with_reducible first | assumption | apply keeps_walkFrom | apply keeps_raise | refine keeps_fst ?_ (by assumption) | split

theorem keeps_installX (h : Keeps s t) (sid e) : Keeps s (installX t sid e) := by
  unfold installX
  repeat' with_reducible first | assumption | apply keeps_lanternFill | simp only [↓keeps_mk]

theorem keeps_wdDrop (h : Keeps s t) (kind target base len) : Keeps s (wdDrop t kind target base len) := by
  unfold wdDrop
  repeat' with_reducible first | assumption | simp only [↓keeps_mk]

/-! ## Objects -/

theorem keeps_updCtx (h : Keeps s t) (c f) : Keeps s (updCtx t c f) := by
  unfold updCtx
  repeat' with_reducible first | assumption | simp only [↓keeps_mk] | split

theorem keeps_doom (h : Keeps s t) (c st) : Keeps s (doom t c st) := by
  unfold doom
  repeat' with_reducible first | assumption | apply keeps_updCtx | split

theorem keeps_updQ (h : Keeps s t) (q f) : Keeps s (updQ t q f) := keeps_of_same h rfl rfl

theorem keeps_updCmd (h : Keeps s t) (q seq f) : Keeps s (updCmd t q seq f) := by
  unfold updCmd
  repeat' with_reducible first | assumption | simp only [↓keeps_mk]

theorem keeps_endCmd (h : Keeps s t) (q seq st res) : Keeps s (endCmd t q seq st res) := by
  unfold endCmd
  repeat' with_reducible first | assumption | apply keeps_updCmd

theorem keeps_cmdAnswered (h : Keeps s t) (q seq st) : Keeps s (cmdAnswered t q seq st) := by
  unfold cmdAnswered
  repeat' with_reducible first | assumption | apply keeps_updCmd | apply keeps_endCmd | split

theorem keeps_objOp (h : Keeps s t) (p id take) : Keeps s (objOp t p id take).1 := by
  unfold objOp
  repeat' with_reducible first | assumption | apply keeps_updPart | apply keeps_ownPut | split | dsimp only

theorem keeps_dropRef (h : Keeps s t) (p id) : Keeps s (dropRef t p id) := by
  unfold dropRef
  repeat' with_reducible
    first
    | assumption | apply keeps_objOp | apply keeps_count | apply keeps_logProto | simp only [↓keeps_mk]
    | refine keeps_fst ?_ (by assumption) | split

/-! ## SpanOut -/

theorem keeps_casSend (h : Keeps s t) (m) : Keeps s (casSend t m) := by
  unfold casSend
  repeat' with_reducible first | assumption | apply keeps_emit | simp only [↓keeps_mk] | split

theorem keeps_casRelease (h : Keeps s t) : Keeps s (casRelease t) := by
  unfold casRelease
  repeat' with_reducible first | assumption | intro _ | apply keeps_casSend | apply keeps_foldl | simp only [↓keeps_mk]

theorem keeps_casAll (h : Keeps s t) (l) : Keeps s (casAll t l) := by
  unfold casAll
  repeat' with_reducible first | assumption | intro _ | apply keeps_casSend | apply keeps_foldl

theorem keeps_spanSend (h : Keeps s t) (m) : Keeps s (spanSend t m) := by
  unfold spanSend
  repeat' with_reducible first | assumption | apply keeps_emit | simp only [↓keeps_mk] | split

theorem keeps_spanRelease (h : Keeps s t) : Keeps s (spanRelease t) := by
  unfold spanRelease
  repeat' with_reducible first | assumption | intro _ | apply keeps_spanSend | apply keeps_foldl | simp only [↓keeps_mk]

theorem keeps_spanLocal (h : Keeps s t) (lop body) : Keeps s (spanLocal t lop body) := by
  unfold spanLocal
  repeat' with_reducible first | assumption | apply keeps_emit

theorem keeps_toNode (h : Keeps s t) (node m) : Keeps s (toNode t node m) := by
  unfold toNode
  repeat' with_reducible first | assumption | apply keeps_spanSend | apply keeps_casSend | split | dsimp only

theorem keeps_remTake (h : Keeps s t) (x) : Keeps s (remTake t x) := by
  unfold remTake
  repeat' with_reducible first | assumption | apply keeps_toNode | apply keeps_takeUnit | simp only [↓keeps_mk] | split

theorem keeps_remDrain (h : Keeps s t) : Keeps s (remDrain t) := by
  unfold remDrain
  repeat' with_reducible first | assumption | intro _ | apply keeps_remTake | apply keeps_foldl | simp only [↓keeps_mk]

theorem keeps_remRoute (h : Keeps s t) (node r) : Keeps s (remRoute t node r) := by
  unfold remRoute
  repeat' with_reducible first | assumption | apply keeps_remDrain | simp only [↓keeps_mk]

/-! ## Mailbox -/

theorem keeps_armH2s (h : Keeps s t) (m restart) : Keeps s (armH2s t m restart) := by
  unfold armH2s
  repeat' with_reducible first | assumption | apply keeps_updMb

theorem keeps_armS2h (h : Keeps s t) (m restart) : Keeps s (armS2h t m restart) := by
  unfold armS2h
  repeat' with_reducible first | assumption | apply keeps_updMb

theorem keeps_ringReply (h : Keeps s t) (m bit) : Keeps s (ringReply t m bit) := by
  unfold ringReply
  repeat' with_reducible first | assumption | apply keeps_armS2h | apply keeps_ringS2h

theorem keeps_pushH2s (h : Keeps s t) (m v) : Keeps s (pushH2s t m v) := by
  unfold pushH2s
  repeat' with_reducible first | assumption | apply keeps_armH2s | apply keeps_updMb | split

theorem keeps_popS2h (h : Keeps s t) (m) : Keeps s (popS2h t m).1 := by
  unfold popS2h
  repeat' with_reducible first | assumption | apply keeps_updMb | apply keeps_armS2h | split

theorem keeps_oweReply (h : Keeps s t) (m seq svc) : Keeps s (oweReply t m seq svc) := by
  unfold oweReply
  repeat' with_reducible first | assumption | apply keeps_updMb | split

theorem keeps_reply (h : Keeps s t) (m seq svc st res ovr) : Keeps s (reply t m seq svc st res ovr) := by
  unfold reply
  repeat' with_reducible first | assumption | apply keeps_casSend | apply keeps_updMb | split

theorem keeps_pushReply (h : Keeps s t) (m) : Keeps s (pushReply t m) := by
  unfold pushReply
  repeat' with_reducible first | assumption | apply keeps_updMb | apply keeps_ringReply | split | dsimp only

theorem keeps_tellEvent (h : Keeps s t) (m) : Keeps s (tellEvent t m) := by
  unfold tellEvent
  repeat' with_reducible first | assumption | apply keeps_ringReply

theorem keeps_afterMbWrite (h : Keeps s t) (m) : Keeps s (afterMbWrite t m) := by
  unfold afterMbWrite
  repeat' with_reducible first | assumption | apply keeps_mbIrq | split

theorem keeps_flushToHost (h : Keeps s t) (m) : Keeps s (flushToHost t m) := by
  unfold flushToHost
  repeat' with_reducible first | assumption | apply keeps_armS2h | apply keeps_updMb

theorem keeps_flushToSudric (h : Keeps s t) (m) : Keeps s (flushToSudric t m) := by
  unfold flushToSudric
  repeat' with_reducible first | assumption | apply keeps_armH2s | apply keeps_updMb

theorem keeps_mbTimedOut (h : Keeps s t) (m) : Keeps s (mbTimedOut t m) := by
  unfold mbTimedOut
  repeat' with_reducible first | assumption | apply keeps_raise | simp only [↓keeps_mk] | split

theorem keeps_h2sExpire (h : Keeps s t) (m) : Keeps s (h2sExpire t m) := by
  unfold h2sExpire
  repeat' with_reducible first | assumption | apply keeps_mbTimedOut | apply keeps_updMb | split

theorem keeps_s2hExpire (h : Keeps s t) (m) : Keeps s (s2hExpire t m) := by
  unfold s2hExpire
  repeat' with_reducible first | assumption | apply keeps_updMb | apply keeps_mbTimedOut | apply keeps_armS2h | split

theorem keeps_mbReset (h : Keeps s t) (m) : Keeps s (mbReset t m) := by
  unfold mbReset
  repeat' with_reducible first | assumption | apply keeps_updMb

/-! ## Beacon -/

theorem keeps_updBcn (h : Keeps s t) (f) : Keeps s (updBcn t f) := keeps_of_same h rfl rfl

theorem keeps_wordErr (h : Keeps s t) : Keeps s (wordErr t) := by
  unfold wordErr
  repeat' with_reducible first | assumption | apply keeps_raise | apply keeps_count | apply keeps_updBcn

theorem keeps_enterResync (h : Keeps s t) : Keeps s (enterResync t) := by
  unfold enterResync
  repeat' with_reducible first | assumption | apply keeps_updBcn

theorem keeps_lsFirst (h : Keeps s t) (label kind station mine peer) : Keeps s (lsFirst t label kind station mine peer) := by
  unfold lsFirst
  repeat' with_reducible first | assumption | apply keeps_raise | simp only [↓keeps_mk] | split

theorem keeps_lsBroken (h : Keeps s t) (label kind) : Keeps s (lsBroken t label kind) := by
  unfold lsBroken
  repeat' with_reducible first | assumption | apply keeps_lsFirst | apply keeps_raise | simp only [↓keeps_mk] | split

theorem keeps_kindleAbort (h : Keeps s t) : Keeps s (kindleAbort t) := by
  unfold kindleAbort
  repeat' with_reducible first | assumption | apply keeps_raise | apply keeps_reply | apply keeps_lsBroken | simp only [↓keeps_mk] | split

theorem keeps_applyBcnNext (h : Keeps s t) : Keeps s (applyBcnNext t) := by
  unfold applyBcnNext
  repeat' with_reducible first | assumption | apply keeps_updBcn | apply keeps_enterResync | split | dsimp only

theorem keeps_driveBeacon (h : Keeps s t) : Keeps s (driveBeacon t) := by
  unfold driveBeacon
  repeat' with_reducible first | assumption | apply keeps_emit | split

theorem keeps_setCount (h : Keeps s t) (n coasted) : Keeps s (setCount t n coasted) := by
  unfold setCount
  repeat' with_reducible first | assumption | apply keeps_updBcn | apply keeps_driveBeacon | apply keeps_applyBcnNext | apply keeps_count

theorem keeps_advanceCount (h : Keeps s t) (coasted pulsed) : Keeps s (advanceCount t coasted pulsed) := by
  unfold advanceCount
  repeat' with_reducible first | assumption | apply keeps_kindleAbort | apply keeps_setCount | split

theorem keeps_kindlePulse (h : Keeps s t) : Keeps s (kindlePulse t) := by
  unfold kindlePulse
  repeat' with_reducible first | assumption | simp only [↓keeps_mk] | split

theorem keeps_noteAccepted (h : Keeps s t) : Keeps s (noteAccepted t) := by
  unfold noteAccepted
  repeat' with_reducible first | assumption | apply keeps_updBcn | apply keeps_drawWord | refine keeps_snd ?_ (by assumption) | split

theorem keeps_clearSrcUnc (h : Keeps s t) (w) : Keeps s (clearSrcUnc t w) := by
  unfold clearSrcUnc
  repeat' with_reducible first | assumption | apply keeps_updBcn | split

theorem keeps_strayPulse (h : Keeps s t) : Keeps s (strayPulse t) := by
  unfold strayPulse
  repeat' with_reducible first | assumption | apply keeps_raise | apply keeps_count | apply keeps_updBcn

theorem keeps_lockedPulse (h : Keeps s t) : Keeps s (lockedPulse t) := by
  unfold lockedPulse
  repeat' with_reducible
    first
    | assumption | apply keeps_noteAccepted | apply keeps_updBcn | apply keeps_clearSrcUnc | apply keeps_kindlePulse
    | apply keeps_advanceCount | apply keeps_wordErr | apply keeps_enterResync | split | dsimp only

theorem keeps_phasePulse (h : Keeps s t) : Keeps s (phasePulse t) := by
  unfold phasePulse
  repeat' with_reducible first | assumption | apply keeps_updBcn

theorem keeps_endRun (h : Keeps s t) : Keeps s (endRun t) := by
  unfold endRun
  repeat' with_reducible first | assumption | apply keeps_updBcn

theorem keeps_lockAt (h : Keeps s t) (a c) : Keeps s (lockAt t a c) := by
  unfold lockAt
  repeat' with_reducible first | assumption | apply keeps_setCount | apply keeps_updBcn

theorem keeps_judgeWord (h : Keeps s t) (announced) : Keeps s (judgeWord t announced) := by
  unfold judgeWord
  repeat' with_reducible first | assumption | apply keeps_wordErr | split

theorem keeps_resyncPulse (h : Keeps s t) : Keeps s (resyncPulse t) := by
  unfold resyncPulse
  repeat' with_reducible
    first
    | assumption | apply keeps_clearSrcUnc | apply keeps_noteAccepted | apply keeps_updBcn | apply keeps_kindlePulse
    | apply keeps_advanceCount | apply keeps_endRun | apply keeps_lockAt | apply keeps_judgeWord | split | dsimp only

theorem keeps_takeWord (h : Keeps s t) (w) : Keeps s (takeWord t w) := by
  unfold takeWord
  repeat' with_reducible first | assumption | apply keeps_updBcn | apply keeps_raise | split

theorem keeps_spanWord (h : Keeps s t) : Keeps s (spanWord t) := by
  unfold spanWord
  repeat' with_reducible first | assumption | apply keeps_takeWord | simp only [↓keeps_mk] | split

theorem keeps_execBeaconPulse (h : Keeps s t) (span at_) : Ran s (execBeaconPulse span at_ t) := by
  unfold execBeaconPulse
  repeat' with_reducible
    first
    | apply ran_next | assumption | apply keeps_spanWord | apply keeps_advanceTo | apply keeps_phasePulse | apply keeps_strayPulse
    | apply keeps_updBcn | apply keeps_endRun | apply keeps_resyncPulse | apply keeps_lockedPulse | split | dsimp only

theorem keeps_execBeaconWord (h : Keeps s t) (span bytes) : Ran s (execBeaconWord span bytes t) := by
  unfold execBeaconWord
  repeat' with_reducible
    first
    | apply ran_next | assumption | apply keeps_wordErr | apply keeps_updBcn | apply keeps_takeWord | split | dsimp only

theorem keeps_execResyncInterrupts (h : Keeps s t) : Ran s (execResyncInterrupts t) := by
  unfold execResyncInterrupts
  repeat' with_reducible first | apply ran_next | assumption | apply keeps_updBcn | apply keeps_raise | split

theorem keeps_execBeaconCoast (h : Keeps s t) : Ran s (execBeaconCoast t) := by
  unfold execBeaconCoast
  repeat' with_reducible
    first
    | apply ran_next | assumption | apply keeps_advanceToTick | apply keeps_updBcn | apply keeps_advanceCount | apply keeps_raise
    | apply keeps_count | split | dsimp only

theorem keeps_execBeaconDarkEntry (h : Keeps s t) : Ran s (execBeaconDarkEntry t) := by
  unfold execBeaconDarkEntry
  repeat' with_reducible
    first
    | apply ran_next | assumption | apply keeps_kindleAbort | apply keeps_advanceToTick | apply keeps_updBcn | apply keeps_advanceCount
    | apply keeps_raise | split

theorem keeps_execBeaconFreeRunTick (h : Keeps s t) : Ran s (execBeaconFreeRunTick t) := by
  unfold execBeaconFreeRunTick
  repeat' with_reducible
    first
    | apply ran_next | assumption | apply keeps_advanceToTick | apply keeps_advanceCount | apply keeps_updBcn | split | dsimp only

theorem keeps_execResyncWindowClose (h : Keeps s t) : Ran s (execResyncWindowClose t) := by
  unfold execResyncWindowClose
  repeat' with_reducible first | apply ran_next | assumption | apply keeps_advanceTo | apply keeps_endRun | apply keeps_updBcn | split

/-! ## Formats -/

theorem keeps_countCv (h : Keeps s t) (k) : Keeps s (countCv t k) := by
  unfold countCv
  repeat' with_reducible first | assumption | apply keeps_count | apply keeps_raise | simp only [↓keeps_mk] | split

/-! ## Fence -/

theorem keeps_releaseSlotsOf (h : Keeps s t) (f) : Keeps s (releaseSlotsOf t f) := keeps_of_same h rfl rfl

theorem keeps_kernelEnd (h : Keeps s t) (p slot) : Keeps s (kernelEnd t p slot) := by
  unfold kernelEnd
  repeat' with_reducible
    first
    | assumption | apply keeps_updPart | apply keeps_endCmd | apply keeps_releaseSlotsOf | simp only [↓keeps_mk] | split

theorem keeps_notify (h : Keeps s t) (a v) : Keeps s (notify t a v) := by
  unfold notify
  repeat' with_reducible first | assumption | intro _ | apply keeps_casSend | apply keeps_foldl | simp only [↓keeps_mk] | split

theorem keeps_signalRec (h : Keeps s t) (a v p) : Keeps s (signalRec t a v p).1 := by
  unfold signalRec
  repeat' with_reducible
    first
    | assumption | intro _ | apply keeps_wrWords | apply keeps_wrWord | apply keeps_tenant | apply keeps_count | apply keeps_notify
    | apply keeps_kernelEnd | apply keeps_raise | apply keeps_foldl | simp only [↓keeps_mk] | split

theorem keeps_remoteSignal (h : Keeps s t) (p node a v) : Keeps s (remoteSignal t p node a v) := by
  unfold remoteSignal
  repeat' with_reducible first | assumption | apply keeps_remRoute

theorem keeps_sigDrop (h : Keeps s t) (p) : Keeps s (sigDrop t p) := by
  unfold sigDrop
  repeat' with_reducible first | assumption | apply keeps_count | apply keeps_raise | simp only [↓keeps_mk] | split

theorem keeps_signalRef (h : Keeps s t) (p obj idx v) : Keeps s (signalRef t p obj idx v) := by
  unfold signalRef
  repeat' with_reducible
    first
    | assumption | apply keeps_sigDrop | apply keeps_remoteSignal | apply keeps_signalRec | apply keeps_relayLater
    | refine keeps_fst ?_ (by assumption) | split

theorem keeps_announceNow (h : Keeps s t) (n) : Keeps s (announceNow t n) := by
  unfold announceNow
  repeat' with_reducible first | assumption | apply keeps_signalRef | apply keeps_raise | split

theorem keeps_announce (h : Keeps s t) (n) : Keeps s (announce t n) := by
  unfold announce
  repeat' with_reducible first | assumption | apply keeps_announceNow | simp only [↓keeps_mk] | split

theorem keeps_announceAll (h : Keeps s t) (k) : Keeps s (announceAll k t) := by
  induction k generalizing t with
  | zero => exact h
  | succ k ih =>
    unfold announceAll
    repeat' with_reducible first | assumption | apply ih | apply keeps_announceNow | simp only [↓keeps_mk] | split

theorem keeps_setBar (h : Keeps s t) (i b) : Keeps s (setBar t i b) := keeps_of_same h rfl rfl

theorem keeps_barWriteBack (h : Keeps s t) (b bound abandoned) : Keeps s (barWriteBack t b bound abandoned) := by
  unfold barWriteBack
  repeat' with_reducible first | assumption | apply keeps_wrWord | apply keeps_wrWords

theorem keeps_barRelease (h : Keeps s t) (i b) : Keeps s (barRelease t i b) := by
  unfold barRelease
  repeat' with_reducible first | assumption | apply keeps_barWriteBack | apply keeps_setBar | apply keeps_signalRef | split | dsimp only

theorem keeps_barSettle (h : Keeps s t) (i b) : Keeps s (barSettle t i b) := by
  unfold barSettle
  repeat' with_reducible first | assumption | apply keeps_barRelease | apply keeps_setBar | split

theorem keeps_barAbandon (h : Keeps s t) (i b) : Keeps s (barAbandon t i b) := by
  unfold barAbandon
  repeat' with_reducible
    first
    | assumption | intro _ | apply keeps_barWriteBack | apply keeps_setBar | apply keeps_raise | apply keeps_count | apply keeps_doom
    | apply keeps_foldl | simp only [↓keeps_mk]

theorem keeps_barRefuse (h : Keeps s t) (p st) : Keeps s (barRefuse t p st).1 := by
  unfold barRefuse
  repeat' with_reducible first | assumption | apply keeps_count | simp only [↓keeps_mk]

theorem keeps_barOp (h : Keeps s t) (a w fromHost p) : Keeps s (barOp t a w fromHost p).1 := by
  unfold barOp
  repeat' with_reducible
    first
    | assumption | apply keeps_barRefuse | apply keeps_doom | apply keeps_barWriteBack | apply keeps_setBar | apply keeps_takeUnit
    | apply keeps_barSettle | refine keeps_fst ?_ (by assumption) | split | dsimp only

theorem keeps_barDropOwner (h : Keeps s t) (i own) : Keeps s (barDropOwner t i own) := by
  unfold barDropOwner
  repeat' with_reducible first | assumption | intro _ | apply keeps_barSettle | apply keeps_foldl | split | dsimp only

theorem keeps_fenceSigAt (h : Keeps s t) (line pos v fromHost p) : Keeps s (fenceSigAt t line pos v fromHost p).1 := by
  unfold fenceSigAt
  repeat' with_reducible first | assumption | apply keeps_signalRec | apply keeps_barOp | refine keeps_fst ?_ (by assumption) | split

/-! ## Deliver -/

theorem keeps_homProtoErr (h : Keeps s t) (line) : Keeps s (homProtoErr t line) := by
  unfold homProtoErr
  repeat' with_reducible first | assumption | apply keeps_logErr | apply keeps_raise | apply keeps_count | simp only [↓keeps_mk]

theorem keeps_latMiss (h : Keeps s t) (p prio et0) : Keeps s (latMiss t p prio et0) := by
  unfold latMiss
  repeat' with_reducible first | assumption | apply keeps_tenant | split | dsimp only

theorem keeps_latOpen (h : Keeps s t) (h' r) : Keeps s (latOpen t h' r) := by
  unfold latOpen
  repeat' with_reducible first | assumption | simp only [↓keeps_mk] | split

theorem keeps_latClose (h : Keeps s t) (h' a last) : Keeps s (latClose t h' a last) := by
  unfold latClose
  repeat' with_reducible first | assumption | apply keeps_latMiss | simp only [↓keeps_mk] | split

theorem keeps_dropPref (h : Keeps s t) (k) : Keeps s (dropPref t k) := keeps_of_same h rfl rfl

theorem keeps_releaseSlot (h : Keeps s t) (k) : Keeps s (releaseSlot t k) := by
  unfold releaseSlot
  repeat' with_reducible first | assumption | apply keeps_dropPref | simp only [↓keeps_mk]

theorem keeps_lastTileDone (h : Keeps s t) (r) : Keeps s (lastTileDone t r) := by
  unfold lastTileDone
  repeat' with_reducible first | assumption | apply keeps_releaseSlot | simp only [↓keeps_mk] | split

theorem keeps_engFinish (h : Keeps s t) (n r) : Keeps s (engFinish t n r) := by
  unfold engFinish
  repeat' with_reducible
    first
    | assumption | apply keeps_emit | apply keeps_latMiss | apply keeps_tenant | apply keeps_lastTileDone | simp only [↓keeps_mk]

theorem keeps_engLineDone (h : Keeps s t) (n b st) : Keeps s (engLineDone t n b st) := by
  unfold engLineDone
  repeat' with_reducible first | assumption | apply keeps_engFinish | simp only [↓keeps_mk] | split

theorem keeps_updChan (h : Keeps s t) (c f) : Keeps s (updChan t c f) := keeps_of_same h rfl rfl

theorem keeps_updActive (h : Keeps s t) (c k f) : Keeps s (updActive t c k f) := by
  unfold updActive
  repeat' with_reducible first | assumption | apply keeps_updChan

theorem keeps_updSeg (h : Keeps s t) (c k g f) : Keeps s (updSeg t c k g f) := by
  unfold updSeg
  repeat' with_reducible first | assumption | apply keeps_updActive

theorem keeps_segReadDone (h : Keeps s t) (c k g i a) : Keeps s (segReadDone t c k g i a) := by
  unfold segReadDone
  repeat' with_reducible first | assumption | apply keeps_updActive

theorem keeps_segWriteDone (h : Keeps s t) (c k g tag st) : Keeps s (segWriteDone t c k g tag st) := by
  unfold segWriteDone
  repeat' with_reducible first | assumption | apply keeps_updActive

theorem keeps_ownGot (h : Keeps s t) (k a) : Keeps s (ownGot t k a) := by
  unfold ownGot
  repeat' with_reducible first | assumption | apply keeps_wrLine | simp only [↓keeps_mk] | split

theorem keeps_deliver (h : Keeps s t) (last a) : Keeps s (deliver t last a) := by
  unfold deliver
  repeat' with_reducible
    first
    | assumption | apply keeps_latClose | apply keeps_emit | apply keeps_casSend | apply keeps_ownGot | apply keeps_updPage
    | apply keeps_cmdAnswered | apply keeps_engLineDone | apply keeps_segReadDone | apply keeps_segWriteDone | apply keeps_toNode
    | simp only [↓keeps_mk] | split

theorem keeps_deliverAll (h : Keeps s t) (l) : Keeps s (deliverAll t l) := by
  induction l generalizing t with
  | nil => exact h
  | cons a l ih => cases l with
    | nil => exact keeps_deliver h _ _
    | cons b l => exact ih (keeps_deliver h _ _)

theorem keeps_viaMemory (h : Keeps s t) (line as) : Keeps s (viaMemory t line as) := by
  unfold viaMemory
  repeat' with_reducible
    first
    | assumption | apply keeps_deliverAll | apply keeps_updMp | apply keeps_mpLine | apply keeps_emit | split | dsimp only

theorem keeps_refuseReq (h : Keeps s t) (r st) : Keeps s (refuseReq t r st) := by
  unfold refuseReq
  repeat' with_reducible first | assumption | apply keeps_deliverAll | split

/-! ## Reduce -/

theorem keeps_redCount (h : Keeps s t) (k late) : Keeps s (redCount t k late) := by
  unfold redCount
  repeat' with_reducible first | assumption | apply keeps_ownPut | simp only [↓keeps_mk] | split

theorem keeps_updWin (h : Keeps s t) (k e f) : Keeps s (updWin t k e f) := by
  unfold updWin
  repeat' with_reducible first | assumption | simp only [↓keeps_mk]

theorem keeps_setRedLine (h : Keeps s t) (r) : Keeps s (setRedLine t r) := by
  unfold setRedLine
  repeat' with_reducible first | assumption | simp only [↓keeps_mk]

theorem keeps_redStore (h : Keeps s t) (r) : Keeps s (redStore t r).1 := by
  unfold redStore
  repeat' with_reducible first | assumption | apply keeps_redCount | apply keeps_setRedLine | apply keeps_updWin | split | dsimp only

theorem keeps_redBegin (h : Keeps s t) (k line e) : Keeps s (redBegin t k line e) := by
  unfold redBegin
  repeat' with_reducible first | assumption | apply keeps_setRedLine | apply keeps_updWin | split

theorem keeps_redExec (h : Keeps s t) (line base pois) : Keeps s (redExec t line base pois).1 := by
  unfold redExec
  repeat' with_reducible first | assumption | intro _ | apply keeps_setRedLine | apply keeps_foldl | split

/-! ## Aperture -/

theorem keeps_apertureData (h : Keeps s t) (line) : Keeps s (apertureData t line).1 := by
  unfold apertureData
  repeat' with_reducible first | assumption | apply keeps_count | apply keeps_raise | simp only [↓keeps_mk] | split

/-! ## Home -/

theorem keeps_setDir (h : Keeps s t) (line e) : Keeps s (setDir t line e) := by
  unfold setDir
  repeat' with_reducible first | assumption | simp only [↓keeps_mk]

theorem keeps_setTxn (h : Keeps s t) (line t') : Keeps s (setTxn t line t') := keeps_of_same h rfl rfl

theorem keeps_startWick (h : Keeps s t) (line a) : Keeps s (startWick t line a) := keeps_of_same h rfl rfl

theorem keeps_heatTouch (h : Keeps s t) (line wr) : Keeps s (heatTouch t line wr) := by
  unfold heatTouch
  repeat' with_reducible first | assumption | simp only [↓keeps_mk] | split

theorem keeps_casTo (h : Keeps s t) (dst cls line bytes l) : Keeps s (casTo t dst cls line bytes l) := by
  unfold casTo
  repeat' with_reducible first | assumption | apply keeps_casSend

theorem keeps_sendSnoop (h : Keeps s t) (line x dest tag) : Keeps s (sendSnoop t line x dest tag) := by
  unfold sendSnoop
  repeat' with_reducible first | assumption | apply keeps_toNode | apply keeps_casTo | apply keeps_emit | split

theorem keeps_sendWbComp (h : Keeps s t) (a tag line) : Keeps s (sendWbComp t a tag line) := by
  unfold sendWbComp
  repeat' with_reducible first | assumption | apply keeps_casTo | apply keeps_emit | split

theorem keeps_sendStash (h : Keeps s t) (a line d p) : Keeps s (sendStash t a line d p) := by
  unfold sendStash
  repeat' with_reducible first | assumption | apply keeps_casTo | apply keeps_emit | split

theorem keeps_sendSnoops (h : Keeps s t) (line dest tag l) : Keeps s (sendSnoops t line dest tag l).1 := by
  unfold sendSnoops
  repeat' with_reducible
    first
    | assumption | intro _ | apply keeps_sendSnoop | apply keeps_count | apply keeps_foldl | simp only [↓keeps_mk] | split

theorem keeps_logPoison (h : Keeps s t) (line pois) : Keeps s (logPoison t line pois) := by
  unfold logPoison
  repeat' with_reducible first | assumption | apply keeps_logErr | split

theorem keeps_aluBack (h : Keeps s t) (line) : Keeps s (aluBack t line) := by
  unfold aluBack
  repeat' with_reducible first | assumption | apply keeps_mpWrite | simp only [↓keeps_mk]

theorem keeps_aluTouch (h : Keeps s t) (line) : Keeps s (aluTouch t line) := by
  unfold aluTouch
  repeat' with_reducible first | assumption | apply keeps_aluBack | simp only [↓keeps_mk] | split

theorem keeps_logRead (h : Keeps s t) (line pois fromMem) : Keeps s (logRead t line pois fromMem) := by
  unfold logRead
  repeat' with_reducible first | assumption | apply keeps_logPoison | split

theorem keeps_execAtomic (h : Keeps s t) (r aop base pois fromMem) : Keeps s (execAtomic t r aop base pois fromMem).1 := by
  unfold execAtomic
  repeat' with_reducible
    first
    | assumption | apply keeps_redExec | apply keeps_storeLine | apply keeps_logRead | apply keeps_logPoison | apply keeps_aluTouch
    | apply keeps_tenant | apply keeps_wrLine | apply keeps_fenceSigAt | refine keeps_fst ?_ (by assumption) | split | dsimp only

theorem keeps_stashDrop (h : Keeps s t) (line) : Keeps s (stashDrop t line) := by
  unfold stashDrop
  repeat' with_reducible first | assumption | apply keeps_count | apply keeps_raise | simp only [↓keeps_mk] | split

theorem keeps_answer (h : Keeps s t) (line fromMem as) : Keeps s (answer t line fromMem as) := by
  unfold answer
  repeat' with_reducible first | assumption | apply keeps_viaMemory | apply keeps_deliverAll | split

theorem keeps_grantTxn (h : Keeps s t) (line t' r st win) : Keeps s (grantTxn t line t' r st win) := by
  unfold grantTxn
  repeat' with_reducible first | assumption | apply keeps_setTxn

theorem keeps_finishServe (h : Keeps s t) (line t' r) : Keeps s (finishServe t line t' r) := by
  unfold finishServe
  repeat' with_reducible
    first
    | assumption | apply keeps_setTxn | apply keeps_setDir | apply keeps_refuseReq | apply keeps_tenant | apply keeps_logRead
    | apply keeps_grantTxn | apply keeps_answer | apply keeps_storeLine | apply keeps_execAtomic | apply keeps_stashDrop
    | apply keeps_sendStash | refine keeps_fst ?_ (by assumption) | split

theorem keeps_finishBack (h : Keeps s t) (line t') : Keeps s (finishBack t line t') := by
  unfold finishBack
  repeat' with_reducible first | assumption | apply keeps_storeLine | apply keeps_setTxn | apply keeps_setDir | split

theorem keeps_finishLost (h : Keeps s t) (line t') : Keeps s (finishLost t line t') := by
  unfold finishLost
  repeat' with_reducible first | assumption | apply keeps_setTxn | apply keeps_setDir

theorem keeps_settle (h : Keeps s t) (line) : Keeps s (settle t line) := by
  unfold settle
  repeat' with_reducible
    first
    | assumption | apply keeps_finishServe | apply keeps_setTxn | apply keeps_finishLost | apply keeps_finishBack | split

theorem keeps_openBack (h : Keeps s t) (line kind op) : Keeps s (openBack t line kind op) := by
  unfold openBack
  repeat' with_reducible first | assumption | apply keeps_sendSnoops | apply keeps_settle | apply keeps_setTxn

theorem keeps_openPurge (h : Keeps s t) (line) : Keeps s (openPurge t line) := by
  unfold openPurge
  repeat' with_reducible first | assumption | apply keeps_sendSnoops | apply keeps_settle | apply keeps_setTxn

theorem keeps_openRemoteInv (h : Keeps s t) (line gone) : Keeps s (openRemoteInv t line gone) := by
  unfold openRemoteInv
  repeat' with_reducible
    first
    | assumption | intro _ | apply keeps_sendSnoops | apply keeps_setDir | apply keeps_settle | apply keeps_setTxn

theorem keeps_backInv (h : Keeps s t) (line) : Keeps s (backInv t line) := by
  unfold backInv
  repeat' with_reducible first | assumption | apply keeps_count | apply keeps_openBack | simp only [↓keeps_mk]

theorem keeps_serve (h : Keeps s t) (r) : Keeps s (serve t r) := by
  unfold serve
  repeat' with_reducible
    first
    | assumption | apply keeps_count | apply keeps_heatTouch | apply keeps_sendSnoops | apply keeps_settle | apply keeps_setTxn
    | simp only [↓keeps_mk] | refine keeps_fst ?_ (by assumption) | split

theorem keeps_tryServe {u : State} {r : HomeReq} (h : Keeps s t) (e : tryServe t r = some u) : Keeps s u := by
  unfold tryServe at e
  dsimp only at e
  repeat' split at e
  all_goals cases e
  all_goals repeat' with_reducible
    first
    | assumption | apply keeps_refuseReq | apply keeps_deliverAll | apply keeps_tenant | apply keeps_logPoison | apply keeps_apertureData
    | apply keeps_serve

theorem keeps_drain (h : Keeps s t) (n line) : Keeps s (drain n t line) := by
  induction n generalizing t with
  | zero => exact h
  | succ n ih =>
    unfold drain
    repeat' with_reducible
      first
      | assumption | apply ih | apply keeps_backInv | refine keeps_tryServe ?_ (by assumption) | simp only [↓keeps_mk] | split

theorem keeps_place1 (h : Keeps s t) (r) : Keeps s (place1 t r) := by
  unfold place1
  repeat' with_reducible first | assumption | apply keeps_drain | simp only [↓keeps_mk]

theorem keeps_reqConsumed (h : Keeps s t) (r) : Keeps s (reqConsumed t r) := by
  unfold reqConsumed
  repeat' with_reducible first | assumption | apply keeps_consume | split

theorem keeps_admitReq (h : Keeps s t) (r) : Keeps s (admitReq t r) := by
  unfold admitReq
  repeat' with_reducible first | assumption | apply keeps_reqConsumed | apply keeps_place1 | apply keeps_countAdmit

theorem keeps_retry (h : Keeps s t) : Keeps s (retry t) := by
  unfold retry
  repeat' with_reducible
    first
    | assumption | intro _ | apply keeps_drain | apply keeps_admitReq | apply keeps_foldl | simp only [↓keeps_mk] | split

theorem keeps_afterLine (h : Keeps s t) (line) : Keeps s (afterLine t line) := by
  unfold afterLine
  repeat' with_reducible first | assumption | apply keeps_retry | apply keeps_drain

theorem keeps_placeRed (h : Keeps s t) (r) : Keeps s (placeRed t r) := by
  unfold placeRed
  repeat' with_reducible
    first
    | assumption | apply keeps_redStore | apply keeps_deliverAll | apply keeps_tenant | apply keeps_place1 | apply keeps_redBegin
    | refine keeps_fst ?_ (by assumption) | split

theorem keeps_casReq (h : Keeps s t) (r) : Keeps s (casReq t r) := by
  unfold casReq
  repeat' with_reducible first | assumption | apply keeps_casTo | simp only [↓keeps_mk]

theorem keeps_casAns (h : Keeps s t) (n k st d p last) : Keeps s (casAns t n k st d p last) := by
  unfold casAns
  repeat' with_reducible first | assumption | apply keeps_deliver | simp only [↓keeps_mk] | split

theorem keeps_takeTracker (h : Keeps s t) (r) : Keeps s (takeTracker t r) := by
  unfold takeTracker
  repeat' with_reducible first | assumption | apply keeps_retry | apply keeps_admitReq | simp only [↓keeps_mk] | split

theorem keeps_place (h : Keeps s t) (r) : Keeps s (place t r) := by
  unfold place
  repeat' with_reducible
    first
    | assumption | apply keeps_reqConsumed | apply keeps_refuseReq | apply keeps_casReq | apply keeps_placeRed | apply keeps_takeTracker
    | split | dsimp only

theorem keeps_toPackage (h : Keeps s t) (node r) : Keeps s (toPackage t node r) := by
  unfold toPackage
  repeat' with_reducible first | assumption | apply keeps_place | apply keeps_remRoute | split

theorem keeps_txnDrop (h : Keeps s t) (line t' a) : Keeps s (txnDrop t line t' a).1 := by
  unfold txnDrop
  repeat' with_reducible first | assumption | simp only [↓keeps_mk]

theorem keeps_lostAnswer (h : Keeps s t) (line t' a op) : Keeps s (lostAnswer t line t' a op).1 := by
  unfold lostAnswer
  repeat' with_reducible first | assumption | apply keeps_txnDrop | refine keeps_fst ?_ (by assumption) | split

theorem keeps_snoopAnswer (h : Keeps s t) (a line had wb dirty st) : Keeps s (snoopAnswer t a line had wb dirty st) := by
  unfold snoopAnswer
  repeat' with_reducible
    first
    | assumption | apply keeps_lostAnswer | apply keeps_afterLine | apply keeps_settle | apply keeps_setTxn | apply keeps_txnDrop
    | apply keeps_homProtoErr | refine keeps_fst ?_ (by assumption) | split | dsimp only

theorem keeps_snoopData (h : Keeps s t) (a line d pois dirty st) : Keeps s (snoopData t a line d pois dirty st) := by
  unfold snoopData
  repeat' with_reducible
    first
    | assumption | apply keeps_storeLine | apply keeps_afterLine | apply keeps_settle | apply keeps_setTxn | split | dsimp only

theorem keeps_snoopGone (h : Keeps s t) (a line) : Keeps s (snoopGone t a line) := by
  unfold snoopGone
  repeat' with_reducible
    first
    | assumption | apply keeps_afterLine | apply keeps_setTxn | apply keeps_setDir | apply keeps_stashDrop | apply keeps_storeLine
    | apply keeps_txnDrop | apply keeps_settle | refine keeps_fst ?_ (by assumption) | split

theorem keeps_evictStore (h : Keeps s t) (line data) : Keeps s (evictStore t line data) := by
  unfold evictStore
  repeat' with_reducible first | assumption | apply keeps_storeLine | simp only [↓keeps_mk] | split

theorem keeps_evict (h : Keeps s t) (a tag line data) : Keeps s (evict t a tag line data) := by
  unfold evict
  repeat' with_reducible
    first
    | assumption | apply keeps_sendWbComp | apply keeps_homProtoErr | apply keeps_evictStore | apply keeps_afterLine | apply keeps_settle
    | apply keeps_setTxn | apply keeps_setDir | apply keeps_retry | split | dsimp only

theorem keeps_ackGrant (h : Keeps s t) (a tag line) : Keeps s (ackGrant t a tag line) := by
  unfold ackGrant
  repeat' with_reducible
    first
    | assumption | apply keeps_homProtoErr | apply keeps_setTxn | apply keeps_setDir | apply keeps_startWick | apply keeps_afterLine
    | split

theorem keeps_wickEnd (h : Keeps s t) (line) : Keeps s (wickEnd t line) := by
  unfold wickEnd
  repeat' with_reducible
    first
    | assumption | intro _ | apply keeps_advanceTo | apply keeps_retry | apply keeps_sendSnoop | apply keeps_afterLine
    | apply keeps_settle | apply keeps_setTxn | apply keeps_foldl | simp only [↓keeps_mk] | split

theorem keeps_ownAsk (h : Keeps s t) (k line) : Keeps s (ownAsk t k line) := by
  unfold ownAsk
  repeat' with_reducible first | assumption | apply keeps_place | split

theorem keeps_ownClear (h : Keeps s t) (k line) : Keeps s (ownClear t k line) := by
  unfold ownClear
  repeat' with_reducible first | assumption | apply keeps_place | apply keeps_ownAsk | split

theorem keeps_recAsk {u : State} {k : Nat} {ls : List Nat} (h : Keeps s t) (e : recAsk t k ls = some u) : Keeps s u := by
  unfold recAsk at e
  dsimp only at e
  split at e
  · cases e
  · cases e
    exact keeps_foldl h _ _ (fun u x hu => keeps_ownClear hu _ _)

theorem keeps_later (h : Keeps s t) (i) : Keeps s (later t i) := keeps_of_same h rfl rfl

theorem keeps_linesAsk {u : State} {k : Nat} {reads recs : List Nat} (h : Keeps s t) (e : linesAsk t k reads recs = some u) :
    Keeps s u := by
  unfold linesAsk at e
  split at e
  · exact keeps_recAsk h e
  · cases e
    exact keeps_foldl h _ _ (fun u x hu => keeps_ownAsk hu _ _)

theorem keeps_ownLines (h : Keeps s t) (k ls) : Keeps s (ownLines t k ls).2 := by
  unfold ownLines
  repeat' with_reducible first | assumption | intro _ | apply keeps_ownAsk | apply keeps_foldl | simp only [↓keeps_mk] | split

theorem keeps_relayWrite (h : Keeps s t) (p line d m pois) : Keeps s (relayWrite t p line d m pois) := by
  unfold relayWrite
  repeat' with_reducible first | assumption | apply keeps_place

/-! ## HomeCmds -/

theorem keeps_atHome (h : Keeps s t) (r) : Ran s (atHome r t) := by
  unfold atHome
  repeat' with_reducible first | apply ran_next | exact ran_fault _ | assumption | apply keeps_place | split

theorem keeps_execRdShared (h : Keeps s t) (r) : Ran s (execRdShared r t) := by
  unfold execRdShared
  repeat' with_reducible first | apply ran_next | assumption | apply keeps_atHome

theorem keeps_execRdOwn (h : Keeps s t) (r) : Ran s (execRdOwn r t) := by
  unfold execRdOwn
  repeat' with_reducible first | apply ran_next | assumption | apply keeps_atHome

theorem keeps_execUpgrade (h : Keeps s t) (r) : Ran s (execUpgrade r t) := by
  unfold execUpgrade
  repeat' with_reducible first | apply ran_next | assumption | apply keeps_atHome

theorem keeps_execRdOnce (h : Keeps s t) (r) : Ran s (execRdOnce r t) := by
  unfold execRdOnce
  repeat' with_reducible first | apply ran_next | assumption | apply keeps_atHome

theorem keeps_execWrFull (h : Keeps s t) (r) : Ran s (execWrFull r t) := by
  unfold execWrFull
  repeat' with_reducible first | apply ran_next | assumption | apply keeps_atHome

theorem keeps_execWrPart (h : Keeps s t) (r) : Ran s (execWrPart r t) := by
  unfold execWrPart
  repeat' with_reducible first | apply ran_next | assumption | apply keeps_atHome

theorem keeps_execWrStash (h : Keeps s t) (r) : Ran s (execWrStash r t) := by
  unfold execWrStash
  repeat' with_reducible first | apply ran_next | assumption | apply keeps_atHome

theorem keeps_execSwap (h : Keeps s t) (r fmt) : Ran s (execSwap r fmt t) := by
  unfold execSwap
  repeat' with_reducible first | apply ran_next | assumption | apply keeps_atHome

theorem keeps_execCas (h : Keeps s t) (r fmt) : Ran s (execCas r fmt t) := by
  unfold execCas
  repeat' with_reducible first | apply ran_next | assumption | apply keeps_atHome

theorem keeps_execFetchAdd (h : Keeps s t) (r fmt) : Ran s (execFetchAdd r fmt t) := by
  unfold execFetchAdd
  repeat' with_reducible first | apply ran_next | assumption | apply keeps_atHome

theorem keeps_execFetchMin (h : Keeps s t) (r fmt) : Ran s (execFetchMin r fmt t) := by
  unfold execFetchMin
  repeat' with_reducible first | apply ran_next | assumption | apply keeps_atHome

theorem keeps_execFetchMax (h : Keeps s t) (r fmt) : Ran s (execFetchMax r fmt t) := by
  unfold execFetchMax
  repeat' with_reducible first | apply ran_next | assumption | apply keeps_atHome

theorem keeps_execFetchAnd (h : Keeps s t) (r fmt) : Ran s (execFetchAnd r fmt t) := by
  unfold execFetchAnd
  repeat' with_reducible first | apply ran_next | assumption | apply keeps_atHome

theorem keeps_execFetchOr (h : Keeps s t) (r fmt) : Ran s (execFetchOr r fmt t) := by
  unfold execFetchOr
  repeat' with_reducible first | apply ran_next | assumption | apply keeps_atHome

theorem keeps_execFetchXor (h : Keeps s t) (r fmt) : Ran s (execFetchXor r fmt t) := by
  unfold execFetchXor
  repeat' with_reducible first | apply ran_next | assumption | apply keeps_atHome

theorem keeps_execRedAdd (h : Keeps s t) (r fmt) : Ran s (execRedAdd r fmt t) := by
  unfold execRedAdd
  repeat' with_reducible first | apply ran_next | assumption | apply keeps_atHome

theorem keeps_execRedMin (h : Keeps s t) (r fmt) : Ran s (execRedMin r fmt t) := by
  unfold execRedMin
  repeat' with_reducible first | apply ran_next | assumption | apply keeps_atHome

theorem keeps_execRedMax (h : Keeps s t) (r fmt) : Ran s (execRedMax r fmt t) := by
  unfold execRedMax
  repeat' with_reducible first | apply ran_next | assumption | apply keeps_atHome

theorem keeps_execRedOrd (h : Keeps s t) (r fmt) : Ran s (execRedOrd r fmt t) := by
  unfold execRedOrd
  repeat' with_reducible first | apply ran_next | assumption | apply keeps_atHome

theorem keeps_execLockAcq (h : Keeps s t) (r fmt) : Ran s (execLockAcq r fmt t) := by
  unfold execLockAcq
  repeat' with_reducible first | apply ran_next | assumption | apply keeps_atHome

theorem keeps_execLockRel (h : Keeps s t) (r fmt) : Ran s (execLockRel r fmt t) := by
  unfold execLockRel
  repeat' with_reducible first | apply ran_next | assumption | apply keeps_atHome

theorem keeps_execFenceSig (h : Keeps s t) (r fmt) : Ran s (execFenceSig r fmt t) := by
  unfold execFenceSig
  repeat' with_reducible first | apply ran_next | assumption | apply keeps_atHome

theorem keeps_execApertureRead (h : Keeps s t) (r) : Ran s (execApertureRead r t) := by
  unfold execApertureRead
  repeat' with_reducible first | apply ran_next | assumption | apply keeps_atHome

theorem keeps_execBarrierArrival (h : Keeps s t) (r) : Ran s (execBarrierArrival r t) := by
  unfold execBarrierArrival
  repeat' with_reducible first | apply ran_next | assumption | apply keeps_atHome

theorem keeps_execBarrierLaneDrop (h : Keeps s t) (r) : Ran s (execBarrierLaneDrop r t) := by
  unfold execBarrierLaneDrop
  repeat' with_reducible first | apply ran_next | assumption | apply keeps_atHome

theorem keeps_agentConsumed (h : Keeps s t) (agent cls) : Keeps s (agentConsumed t agent cls) := by
  unfold agentConsumed
  repeat' with_reducible first | assumption | apply keeps_consume | split

theorem keeps_fromAgent (h : Keeps s t) (agent cls line bytes l f) (hf : ∀ u, Keeps s u → Keeps s (f u)) :
    Keeps s (fromAgent t agent cls line bytes l f) := by
  unfold fromAgent
  repeat' with_reducible first | assumption | apply hf | apply keeps_agentConsumed | apply keeps_casTo | split | dsimp only

theorem keeps_execAck (h : Keeps s t) (agent tag line) : Ran s (execAck agent tag line t) := by
  unfold execAck
  repeat' with_reducible first | apply ran_next | assumption | intro _ | apply keeps_fromAgent | apply keeps_ackGrant

theorem keeps_execWickHoldEnd (h : Keeps s t) (line) : Ran s (execWickHoldEnd line t) := by
  unfold execWickHoldEnd
  repeat' with_reducible first | apply ran_next | assumption | apply keeps_wickEnd

theorem keeps_execEvictClean (h : Keeps s t) (agent tag line) : Ran s (execEvictClean agent tag line t) := by
  unfold execEvictClean
  repeat' with_reducible first | apply ran_next | assumption | intro _ | apply keeps_fromAgent | apply keeps_evict

theorem keeps_execEvictDirty (h : Keeps s t) (agent tag line data poison) : Ran s (execEvictDirty agent tag line data poison t) := by
  unfold execEvictDirty
  repeat' with_reducible first | apply ran_next | assumption | intro _ | apply keeps_fromAgent | apply keeps_evict

theorem keeps_stashAccept (h : Keeps s t) (agent line) : Keeps s (stashAccept t agent line) := by
  unfold stashAccept
  repeat' with_reducible
    first
    | assumption | apply keeps_count | apply keeps_afterLine | apply keeps_startWick | apply keeps_setTxn | apply keeps_setDir
    | simp only [↓keeps_mk] | split

theorem keeps_stashDecline (h : Keeps s t) (agent line) : Keeps s (stashDecline t agent line) := by
  unfold stashDecline
  repeat' with_reducible
    first
    | assumption | apply keeps_afterLine | apply keeps_setTxn | apply keeps_setDir | apply keeps_stashDrop | split

theorem keeps_execStashAccept (h : Keeps s t) (agent line) : Ran s (execStashAccept agent line t) := by
  unfold execStashAccept
  repeat' with_reducible first | apply ran_next | assumption | intro _ | apply keeps_fromAgent | apply keeps_stashAccept

theorem keeps_execStashDecline (h : Keeps s t) (agent line) : Ran s (execStashDecline agent line t) := by
  unfold execStashDecline
  repeat' with_reducible first | apply ran_next | assumption | intro _ | apply keeps_fromAgent | apply keeps_stashDecline

theorem keeps_execReductionGraceExpire (h : Keeps s t) (sess line win) : Ran s (execReductionGraceExpire sess line win t) := by
  unfold execReductionGraceExpire
  repeat' with_reducible first | apply ran_next | assumption | apply keeps_place1 | apply keeps_redBegin | split

theorem keeps_execReductionWindowDone (h : Keeps s t) (sess win) : Ran s (execReductionWindowDone sess win t) := by
  unfold execReductionWindowDone
  repeat' with_reducible
    first
    | apply ran_next | assumption | apply keeps_ownPut | apply keeps_count | apply keeps_announce | simp only [↓keeps_mk] | split

/-! ## Gone -/

theorem keeps_timeoutCount (h : Keeps s t) (a line) : Keeps s (timeoutCount t a line) := by
  unfold timeoutCount
  repeat' with_reducible first | assumption | apply keeps_raise | apply keeps_count | apply keeps_updLink | simp only [↓keeps_mk] | split

theorem keeps_ownedLost (h : Keeps s t) (a line) : Keeps s (ownedLost t a line) := by
  unfold ownedLost
  repeat' with_reducible first | assumption | apply keeps_timeoutCount | apply keeps_storeLine

theorem keeps_lineLose (h : Keeps s t) (a line) : Keeps s (lineLose t a line) := by
  unfold lineLose
  repeat' with_reducible first | assumption | apply keeps_ownedLost | apply keeps_setDir | split

theorem keeps_grantLose (h : Keeps s t) (a line t' r) : Keeps s (grantLose t a line t' r) := by
  unfold grantLose
  repeat' with_reducible
    first
    | assumption | apply keeps_ownedLost | apply keeps_afterLine | apply keeps_setTxn | apply keeps_setDir | split

theorem keeps_txnLose (h : Keeps s t) (a line) : Keeps s (txnLose t a line) := by
  unfold txnLose
  repeat' with_reducible
    first
    | assumption | apply keeps_snoopGone | apply keeps_grantLose | apply keeps_ownedLost | apply keeps_timeoutCount | apply keeps_txnDrop
    | apply keeps_afterLine | apply keeps_settle | apply keeps_setTxn | refine keeps_fst ?_ (by assumption) | split | dsimp only

theorem keeps_agentLose (h : Keeps s t) (a) : Keeps s (agentLose t a) := by
  unfold agentLose
  repeat' with_reducible first | assumption | intro _ | apply keeps_txnLose | apply keeps_lineLose | apply keeps_foldl

theorem keeps_lostAnswers (h : Keeps s t) (line) (x : Txn) (l : List (Nat × SnpOp)) :
    Keeps s (l.foldl (fun (x : State × Txn) y => lostAnswer x.1 line x.2 y.1 y.2) (t, x)).1 := by
  induction l generalizing t x with
  | nil => exact h
  | cons y l ih => exact ih (keeps_lostAnswer h _ _ _ _) _

theorem keeps_txnOrphan (h : Keeps s t) (line x r) : Keeps s (txnOrphan t line x r) := by
  unfold txnOrphan
  repeat' with_reducible
    first
    | assumption | apply keeps_afterLine | apply keeps_settle | apply keeps_setTxn | apply keeps_lostAnswers | apply keeps_storeLine
    | split

theorem keeps_reqsLose (h : Keeps s t) (f st) : Keeps s (reqsLose t f st) := by
  unfold reqsLose
  repeat' with_reducible
    first
    | assumption | intro _ | apply keeps_refuseReq | apply keeps_retry | apply keeps_txnOrphan | apply keeps_foldl | simp only [↓keeps_mk]
    | split

theorem keeps_answersLose (h : Keeps s t) (f g) : Keeps s (answersLose t f g) := keeps_of_same h rfl rfl

theorem keeps_casEnd (h : Keeps s t) (f st) : Keeps s (casEnd t f st) := by
  unfold casEnd
  repeat' with_reducible first | assumption | intro _ | apply keeps_refuseReq | apply keeps_foldl | simp only [↓keeps_mk] | split

theorem keeps_blockLose (h : Keeps s t) (n) : Keeps s (blockLose t n) := by
  unfold blockLose
  repeat' with_reducible
    first
    | assumption | intro _ | apply keeps_casEnd | apply keeps_agentLose | apply keeps_reqsLose | apply keeps_foldl | simp only [↓keeps_mk]
    | split

/-! ## Flit -/

theorem keeps_codeword (h : Keeps s t) (c) : Keeps s (codeword t c) := by
  unfold codeword
  repeat' with_reducible first | assumption | apply keeps_logErr | apply keeps_count | simp only [↓keeps_mk] | split

/-! ## RegRead -/

theorem keeps_regClear (h : Keeps s t) (p off) : Keeps s (regClear t p off) := by
  unfold regClear
  repeat' with_reducible
    first
    | assumption | apply keeps_updPage | apply keeps_updBcn | apply keeps_updChan | apply keeps_updMp | simp only [↓keeps_mk] | split

theorem keeps_mbClear (h : Keeps s t) (m off) : Keeps s (mbClear t m off) := by
  unfold mbClear
  repeat' with_reducible first | assumption | apply keeps_popS2h | apply keeps_updMb | refine keeps_fst ?_ (by assumption) | split

theorem keeps_dbClear (h : Keeps s t) (q off) : Keeps s (dbClear t q off) := by
  unfold dbClear
  repeat' with_reducible first | assumption | apply keeps_updQ | split

theorem keeps_pvClear (h : Keeps s t) (p off) : Keeps s (pvClear t p off) := by
  unfold pvClear
  repeat' with_reducible first | assumption | apply keeps_mbClear | apply keeps_updPart | split

/-! ## Access -/

theorem keeps_regRsp (h : Keeps s t) (st status data) : Keeps s (regRsp t st status data) := by
  unfold regRsp
  repeat' with_reducible first | assumption | apply keeps_casSend | apply keeps_emit | apply keeps_consume | apply keeps_emits | split

theorem keeps_refusedAcc (h : Keeps s t) (a data) : Keeps s (refusedAcc t a data) := by
  unfold refusedAcc
  repeat' with_reducible first | assumption | apply keeps_regRsp | apply keeps_logProto

theorem keeps_badSize (h : Keeps s t) (x1) : Keeps s (badSize t x1) := by
  unfold badSize
  repeat' with_reducible first | assumption | apply keeps_updPage | apply keeps_updQ | apply keeps_updPart | split

theorem keeps_noteBasic (h : Keeps s t) (p off sel v) : Keeps s (noteBasic t p off sel v) := by
  unfold noteBasic
  repeat' with_reducible first | assumption | apply keeps_updPage

theorem keeps_withSel (h : Keeps s t) (p off sel) : Keeps s (withSel t p off sel) := by
  unfold withSel
  repeat' with_reducible first | assumption | simp only [↓keeps_mk] | split

theorem keeps_noteReg (h : Keeps s t) (p off) : Keeps s (noteReg t p off) := by
  unfold noteReg
  repeat' with_reducible first | assumption | apply keeps_noteBasic

theorem keeps_noteSel (h : Keeps s t) (p off sel) : Keeps s (noteSel t p off sel) := by
  unfold noteSel
  repeat' with_reducible first | assumption | apply keeps_noteBasic

theorem keeps_noteRegs (h : Keeps s t) (p offs) : Keeps s (noteRegs t p offs) := by
  unfold noteRegs
  repeat' with_reducible first | assumption | intro _ | apply keeps_noteReg | apply keeps_foldl

theorem keeps_noteSels (h : Keeps s t) (p sel offs) : Keeps s (noteSels t p sel offs) := by
  unfold noteSels
  repeat' with_reducible first | assumption | intro _ | apply keeps_noteSel | apply keeps_foldl

theorem keeps_noteOverride (h : Keeps s t) (p off sel f basic) : Keeps s (noteOverride t p off sel f basic) := by
  unfold noteOverride
  repeat' with_reducible first | assumption | apply keeps_updPage | apply keeps_tellEvent | apply keeps_raise | split | dsimp only

theorem keeps_afterExpert (h : Keeps s t) (v x2 x3) : Keeps s (afterExpert v t x2 x3) := by
  unfold afterExpert
  repeat' with_reducible first | assumption | intro _ | apply keeps_noteOverride | apply keeps_foldl | split | dsimp only

theorem keeps_unitWrite (h : Keeps s t) (a p off f) (hf : ∀ u, Keeps s u → Keeps s (f u)) : Keeps s (unitWrite t a p off f) := by
  unfold unitWrite
  repeat' with_reducible
    first
    | assumption | apply hf | apply keeps_refusedAcc | apply keeps_regRsp | apply keeps_setLast | apply keeps_afterExpert | split

theorem keeps_headWrite (h : Keeps s t) (a p f) (hf : ∀ u, Keeps s u → Keeps s (f u)) : Keeps s (headWrite t a p f) := by
  unfold headWrite
  repeat' with_reducible first | assumption | apply hf | apply keeps_refusedAcc | apply keeps_regRsp | split

theorem keeps_refuseLast (h : Keeps s t) (p st) : Keeps s (refuseLast t p st) := by
  unfold refuseLast
  repeat' with_reducible first | assumption | apply keeps_setLast

/-! ## Faults -/

theorem keeps_faultNoted (h : Keeps s t) (p w) : Keeps s (faultNoted t p w) := by
  unfold faultNoted
  repeat' with_reducible first | assumption | apply keeps_count | simp only [↓keeps_mk] | split

theorem keeps_faultPut (h : Keeps s t) (p hdr slot w) : Keeps s (faultPut t p hdr slot w) := by
  unfold faultPut
  repeat' with_reducible first | assumption | apply keeps_ownPuts | apply keeps_updPart | apply keeps_announce | apply keeps_faultNoted

theorem keeps_faultFailed (h : Keeps s t) (p st) : Keeps s (faultFailed t p st) := by
  unfold faultFailed
  repeat' with_reducible first | assumption | apply keeps_updPart | apply keeps_logProto | split

theorem keeps_faultHold (h : Keeps s t) (p w) : Keeps s (faultHold t p w) := by
  unfold faultHold
  repeat' with_reducible first | assumption | apply keeps_count | apply keeps_raise | simp only [↓keeps_mk] | split

theorem keeps_ringAsk (h : Keeps s t) (k p gpa) : Keeps s (ringAsk t k p gpa) := by
  unfold ringAsk
  repeat' with_reducible first | assumption | apply keeps_ownAsk | split

theorem keeps_faultWait (h : Keeps s t) (p) : Keeps s (faultWait t p) := by
  unfold faultWait
  repeat' with_reducible first | assumption | apply keeps_ringAsk | split

theorem keeps_faultRecord (h : Keeps s t) (p w) : Keeps s (faultRecord t p w) := by
  unfold faultRecord
  repeat' with_reducible
    first
    | assumption | apply keeps_faultPut | apply keeps_faultWait | apply keeps_faultHold | apply keeps_faultFailed | split

theorem keeps_faultRetry (h : Keeps s t) : Keeps s (faultRetry t) := by
  unfold faultRetry
  repeat' with_reducible
    first
    | assumption | intro _ | apply keeps_ownDone | apply keeps_faultPut | apply keeps_faultWait | apply keeps_faultFailed
    | apply keeps_foldl | simp only [↓keeps_mk] | split

theorem keeps_faultLose (h : Keeps s t) (f st) : Keeps s (faultLose t f st) := by
  unfold faultLose
  repeat' with_reducible first | assumption | apply keeps_faultRecord | apply keeps_logErr | apply keeps_doom | split

theorem keeps_updToken (h : Keeps s t) (k f) : Keeps s (updToken t k f) := keeps_of_same h rfl rfl

theorem keeps_demandRecord (h : Keeps s t) (f k attempt) : Keeps s (demandRecord t f k attempt) := by
  unfold demandRecord
  repeat' with_reducible first | assumption | apply keeps_faultRecord

theorem keeps_demandFault (h : Keeps s t) (f) : Keeps s (demandFault t f).1 := by
  unfold demandFault
  repeat' with_reducible
    first
    | assumption | apply keeps_faultLose | apply keeps_updToken | apply keeps_demandRecord | apply keeps_takeUnit | split | dsimp only

theorem keeps_tokenSettle (h : Keeps s t) (k) : Keeps s (tokenSettle t k) := by
  unfold tokenSettle
  repeat' with_reducible first | assumption | apply keeps_updToken | split

theorem keeps_burstFail (h : Keeps s t) (n b st) : Keeps s (burstFail t n b st) := by
  unfold burstFail
  repeat' with_reducible
    first
    | assumption | intro _ | apply keeps_tokenSettle | apply keeps_refuseReq | apply keeps_foldl | simp only [↓keeps_mk] | split

theorem keeps_burstsFail (h : Keeps s t) (f st) : Keeps s (burstsFail t f st) := by
  unfold burstsFail
  repeat' with_reducible first | assumption | intro _ | apply keeps_burstFail | apply keeps_foldl | split | dsimp only

theorem keeps_tokenRetry (h : Keeps s t) (k) : Keeps s (tokenRetry t k) := by
  unfold tokenRetry
  repeat' with_reducible first | assumption | apply keeps_updToken | apply keeps_tokenSettle | simp only [↓keeps_mk]

theorem keeps_tokenAbort (h : Keeps s t) (k st) : Keeps s (tokenAbort t k st) := by
  unfold tokenAbort
  repeat' with_reducible
    first
    | assumption | intro _ | apply keeps_doom | apply keeps_burstsFail | apply keeps_updToken | apply keeps_foldl | simp only [↓keeps_mk]

/-! ## Engine -/

theorem keeps_updBurst (h : Keeps s t) (n b f) : Keeps s (updBurst t n b f) := keeps_of_same h rfl rfl

theorem keeps_setSlot (h : Keeps s t) (k x) : Keeps s (setSlot t k x) := keeps_of_same h rfl rfl

theorem keeps_openStream (h : Keeps s t) (port c d) : Keeps s (openStream t port c d) := by
  unfold openStream
  repeat' with_reducible
    first
    | assumption | apply keeps_releaseSlot | apply keeps_count | apply keeps_setSlot | apply keeps_dropPref | simp only [↓keeps_mk]
    | split

theorem keeps_setFirefly (h : Keeps s t) (port l) : Keeps s (setFirefly t port l) := keeps_of_same h rfl rfl

theorem keeps_pfFirst (h : Keeps s t) (port space va) : Keeps s (pfFirst t port space va) := by
  unfold pfFirst
  repeat' with_reducible first | assumption | apply keeps_setFirefly | split

theorem keeps_pfTile (h : Keeps s t) (port k t' next) : Keeps s (pfTile t port k t' next) := by
  unfold pfTile
  repeat' with_reducible
    first
    | assumption | intro _ | apply keeps_setSlot | apply keeps_pfFirst | apply keeps_foldl | simp only [↓keeps_mk] | split

theorem keeps_startTile (h : Keeps s t) (port k t') : Keeps s (startTile t port k t') := by
  unfold startTile
  repeat' with_reducible first | assumption | intro _ | apply keeps_setSlot | apply keeps_pfTile | apply keeps_foldl | split

theorem keeps_slotUse (h : Keeps s t) (port k t') : Keeps s (slotUse t port k t') := by
  unfold slotUse
  repeat' with_reducible first | assumption | apply keeps_setSlot | apply keeps_startTile | split | dsimp only

theorem keeps_fireflyFill (h : Keeps s t) (port e) : Keeps s (fireflyFill t port e) := by
  unfold fireflyFill
  repeat' with_reducible first | assumption | apply keeps_setFirefly

theorem keeps_pfHit (h : Keeps s t) (e) : Keeps s (pfHit t e) := by
  unfold pfHit
  repeat' with_reducible first | assumption | apply keeps_count | simp only [↓keeps_mk] | split

theorem keeps_burstMiss (h : Keeps s t) (n b) : Keeps s (burstMiss t n b) := by
  unfold burstMiss
  repeat' with_reducible first | assumption | apply keeps_updBurst | simp only [↓keeps_mk] | split

theorem keeps_burstProbe (h : Keeps s t) (n b) : Keeps s (burstProbe t n b) := by
  unfold burstProbe
  repeat' with_reducible
    first
    | assumption | apply keeps_updBurst | apply keeps_pfHit | apply keeps_setFirefly | apply keeps_fireflyFill | apply keeps_lanternTouch
    | apply keeps_burstMiss | split | dsimp only

theorem keeps_burstFault (h : Keeps s t) (n b cause lvl stage) : Keeps s (burstFault t n b cause lvl stage) := by
  unfold burstFault
  repeat' with_reducible
    first
    | assumption | apply keeps_updBurst | apply keeps_demandFault | apply keeps_burstFail | apply keeps_faultLose
    | refine keeps_fst ?_ (by assumption) | split | dsimp only

theorem keeps_routeReq (h : Keeps s t) (r x) : Keeps s (routeReq t r x) := by
  unfold routeReq
  repeat' with_reducible first | assumption | apply keeps_refuseReq | apply keeps_remRoute | apply keeps_place | split | dsimp only

theorem keeps_issue (h : Keeps s t) (n b e) : Keeps s (issue t n b e) := by
  unfold issue
  repeat' with_reducible
    first
    | assumption | intro _ | apply keeps_updBurst | apply keeps_setFirefly | apply keeps_tokenSettle | apply keeps_routeReq
    | apply keeps_foldl

theorem keeps_dropEntry (h : Keeps s t) (port e) : Keeps s (dropEntry t port e) := by
  unfold dropEntry
  repeat' with_reducible first | assumption | apply keeps_setFirefly | simp only [↓keeps_mk]

theorem keeps_tryIssue (h : Keeps s t) (n b) : Keeps s (tryIssue t n b) := by
  unfold tryIssue
  repeat' with_reducible
    first
    | assumption | apply keeps_burstProbe | apply keeps_burstMiss | apply keeps_dropEntry | apply keeps_issue | apply keeps_burstFault
    | apply keeps_updBurst | split | dsimp only

theorem keeps_engLost (h : Keeps s t) (port tag c) : Keeps s (engLost t port tag c) := by
  unfold engLost
  repeat' with_reducible first | assumption | apply keeps_emit | apply keeps_logProto | split

theorem keeps_engClosed (h : Keeps s t) (tag) : Keeps s (engClosed t tag) := by
  unfold engClosed
  repeat' with_reducible first | assumption | apply keeps_emit

theorem keeps_engAccept (h : Keeps s t) (port r) : Keeps s (engAccept t port r) := by
  unfold engAccept
  repeat' with_reducible
    first
    | assumption | intro _ | apply keeps_slotUse | apply keeps_burstProbe | apply keeps_foldl | simp only [↓keeps_mk] | split

theorem keeps_engTaken (h : Keeps s t) (dats) : Keeps s (engTaken t dats) := by
  unfold engTaken
  repeat' with_reducible first | assumption | apply keeps_consume | split

theorem keeps_execEngineRequest (h : Keeps s t) (port r) : Ran s (execEngineRequest port r t) := by
  unfold execEngineRequest
  repeat' with_reducible
    first
    | apply ran_next | assumption | apply keeps_engTaken | apply keeps_engLost | apply keeps_engClosed | apply keeps_engAccept | split

theorem keeps_execStreamOpen (h : Keeps s t) (port ctx desc) : Ran s (execStreamOpen port ctx desc t) := by
  unfold execStreamOpen
  repeat' with_reducible
    first
    | apply ran_next | assumption | apply keeps_engTaken | apply keeps_engLost | apply keeps_engClosed | apply keeps_openStream | split

theorem keeps_closeStream (h : Keeps s t) (port c id) : Keeps s (closeStream t port c id) := by
  unfold closeStream
  repeat' with_reducible first | assumption | apply keeps_releaseSlot | split

theorem keeps_execStreamClose (h : Keeps s t) (port ctx streamId) : Ran s (execStreamClose port ctx streamId t) := by
  unfold execStreamClose
  repeat' with_reducible first | apply ran_next | assumption | apply keeps_engTaken | apply keeps_engLost | apply keeps_closeStream | split

theorem keeps_execBurstIssue (h : Keeps s t) (req burst) : Ran s (execBurstIssue req burst t) := by
  unfold execBurstIssue
  repeat' with_reducible first | apply ran_next | assumption | apply keeps_tryIssue | apply keeps_updBurst | split | dsimp only

/-! ## Withdraw -/

theorem keeps_wdAccept (h : Keeps s t) (kind target base len src p) : Keeps s (wdAccept t kind target base len src p) := by
  unfold wdAccept
  repeat' with_reducible first | assumption | apply keeps_wdDrop | simp only [↓keeps_mk] | split

theorem keeps_wdAsk (h : Keeps s t) (kind target base len src p) : Keeps s (wdAsk t kind target base len src p) := by
  unfold wdAsk
  repeat' with_reducible first | assumption | apply keeps_wdAccept | simp only [↓keeps_mk] | split

theorem keeps_wdNextAsk (h : Keeps s t) : Keeps s (wdNextAsk t) := by
  unfold wdNextAsk
  repeat' with_reducible first | assumption | apply keeps_wdAccept | simp only [↓keeps_mk] | split

theorem keeps_layoutWait (h : Keeps s t) (p m seq svc) : Keeps s (layoutWait t p m seq svc) := by
  unfold layoutWait
  repeat' with_reducible first | assumption | apply keeps_reply | simp only [↓keeps_mk] | split

theorem keeps_wdFinish (h : Keeps s t) (w st) : Keeps s (wdFinish t w st) := by
  unfold wdFinish
  repeat' with_reducible
    first
    | assumption | apply keeps_raise | apply keeps_endCmd | apply keeps_updCmd | apply keeps_reply | apply keeps_noteSel
    | simp only [↓keeps_mk] | split

theorem keeps_wdComplete (h : Keeps s t) (id) : Keeps s (wdComplete t id) := by
  unfold wdComplete
  repeat' with_reducible first | assumption | apply keeps_wdNextAsk | apply keeps_wdFinish | simp only [↓keeps_mk] | split

theorem keeps_wdCtlSet (h : Keeps s t) (v) : Keeps s (wdCtlSet t v) := by
  unfold wdCtlSet
  repeat' with_reducible
    first
    | assumption | apply keeps_refuseLast | apply keeps_wdFinish | apply keeps_wdAccept | simp only [↓keeps_mk] | split

theorem keeps_execWdGoWrite (h : Keeps s t) (a v) : Ran s (execWdGoWrite a v t) := by
  unfold execWdGoWrite
  repeat' with_reducible first | apply ran_next | assumption | intro _ | apply keeps_unitWrite | apply keeps_wdCtlSet

theorem keeps_spaceSet (h : Keeps s t) (off v) : Keeps s (spaceSet t off v) := by
  unfold spaceSet
  repeat' with_reducible first | assumption | apply keeps_refuseLast | simp only [↓keeps_mk] | split

theorem keeps_execSpaceRegisterWrite (h : Keeps s t) (a off v) : Ran s (execSpaceRegisterWrite a off v t) := by
  unfold execSpaceRegisterWrite
  repeat' with_reducible first | apply ran_next | assumption | intro _ | apply keeps_unitWrite | apply keeps_spaceSet | split

theorem keeps_s2RootSet (h : Keeps s t) (v) : Keeps s (s2RootSet t v) := by
  unfold s2RootSet
  repeat' with_reducible first | assumption | apply keeps_refuseLast | simp only [↓keeps_mk] | split

theorem keeps_execS2RootWrite (h : Keeps s t) (a v) : Ran s (execS2RootWrite a v t) := by
  unfold execS2RootWrite
  repeat' with_reducible first | apply ran_next | assumption | intro _ | apply keeps_unitWrite | apply keeps_s2RootSet

theorem keeps_hostRefuse (h : Keeps s t) (st r why) : Keeps s (hostRefuse t st r why) := by
  unfold hostRefuse
  repeat' with_reducible first | assumption | apply keeps_refuseReq | apply keeps_logProto

theorem keeps_hostNoSpan (h : Keeps s t) (st r) : Keeps s (hostNoSpan t st r) := by
  unfold hostNoSpan
  repeat' with_reducible first | assumption | apply keeps_refuseReq | apply keeps_logProto

theorem keeps_hostRequest (h : Keeps s t) (st op r node) : Keeps s (hostRequest t st op r node) := by
  unfold hostRequest
  repeat' with_reducible
    first
    | assumption | apply keeps_latOpen | apply keeps_reqConsumed | apply keeps_refuseReq | apply keeps_hostRefuse | apply keeps_place
    | apply keeps_hostNoSpan | apply keeps_remRoute | split | dsimp only

theorem keeps_execHostRequest (h : Keeps s t) (st op r node) : Ran s (execHostRequest st op r node t) := by
  unfold execHostRequest
  repeat' with_reducible first | apply ran_next | assumption | apply keeps_hostRequest

/-! ## Span -/

theorem keeps_updSpn (h : Keeps s t) (f) : Keeps s (updSpn t f) := keeps_of_same h rfl rfl

theorem keeps_resendUnsent (h : Keeps s t) (e) : Keeps s (resendUnsent t e) := by
  unfold resendUnsent
  repeat' with_reducible first | assumption | intro _ | apply keeps_toNode | apply keeps_updSpn | apply keeps_foldl | split

theorem keeps_routeApply (h : Keeps s t) (e v) : Keeps s (routeApply t e v) := by
  unfold routeApply
  repeat' with_reducible first | assumption | apply keeps_remDrain | apply keeps_resendUnsent | apply keeps_updSpn

theorem keeps_routeTo (h : Keeps s t) (v e) : Keeps s (routeTo t v e) := by
  unfold routeTo
  repeat' with_reducible first | assumption | apply keeps_updSpn | apply keeps_routeApply | split

theorem keeps_tableFill (h : Keeps s t) : Keeps s (tableFill t) := by
  unfold tableFill
  repeat' with_reducible first | assumption | intro _ | apply keeps_routeTo | apply keeps_raise | apply keeps_foldl | split | dsimp only

theorem keeps_routesFill (h : Keeps s t) (gone) : Keeps s (routesFill t gone) := by
  unfold routesFill
  repeat' with_reducible first | assumption | apply keeps_casAll | apply keeps_tableFill

theorem keeps_execSpanRouteSwitch (h : Keeps s t) (entry) : Ran s (execSpanRouteSwitch entry t) := by
  unfold execSpanRouteSwitch
  repeat' with_reducible first | apply ran_next | assumption | apply keeps_routeApply | split

theorem keeps_spnEnter (h : Keeps s t) (st bound) : Keeps s (spnEnter t st bound) := by
  unfold spnEnter
  repeat' with_reducible first | assumption | apply keeps_updSpn

theorem keeps_spnStart (h : Keeps s t) : Keeps s (spnStart t) := by
  unfold spnStart
  repeat' with_reducible first | assumption | apply keeps_updSpn | apply keeps_spnEnter | split | dsimp only

theorem keeps_spnLeave (h : Keeps s t) (st) : Keeps s (spnLeave t st) := by
  unfold spnLeave
  repeat' with_reducible first | assumption | apply keeps_updSpn | apply keeps_routesFill | apply keeps_raise | split | dsimp only

theorem keeps_spnPoll (h : Keeps s t) : Keeps s (spnPoll t) := by
  unfold spnPoll
  repeat' with_reducible first | assumption | apply keeps_spnStart | split

theorem keeps_spnDown (h : Keeps s t) : Keeps s (spnDown t) := by
  unfold spnDown
  repeat' with_reducible first | assumption | apply keeps_updSpn | apply keeps_spnLeave

theorem keeps_spnFail (h : Keeps s t) : Keeps s (spnFail t) := by
  unfold spnFail
  repeat' with_reducible first | assumption | apply keeps_spnEnter | apply keeps_spnLeave | apply keeps_updSpn

theorem keeps_dropGroup (h : Keeps s t) : Keeps s (dropGroup t) := by
  unfold dropGroup
  repeat' with_reducible first | assumption | apply keeps_updSpn | split

theorem keeps_spnRetrain (h : Keeps s t) : Keeps s (spnRetrain t) := by
  unfold spnRetrain
  repeat' with_reducible
    first
    | assumption | apply keeps_updSpn | apply keeps_spnLeave | apply keeps_spnStart | apply keeps_dropGroup | split

theorem keeps_remotesEnd (h : Keeps s t) (pos st) : Keeps s (remotesEnd t pos st) := by
  unfold remotesEnd
  repeat' with_reducible first | assumption | intro _ | apply keeps_refuseReq | apply keeps_updSpn | apply keeps_foldl | split

theorem keeps_quarantine (h : Keeps s t) (cause) : Keeps s (quarantine t cause) := by
  unfold quarantine
  repeat' with_reducible
    first
    | assumption | apply keeps_raise | apply keeps_updSpn | apply keeps_remotesEnd | apply keeps_spanLocal | apply keeps_routesFill
    | split

theorem keeps_lockEnd (h : Keeps s t) : Keeps s (lockEnd t) := by
  unfold lockEnd
  repeat' with_reducible
    first
    | assumption | apply keeps_spnFail | apply keeps_spnEnter | apply keeps_updSpn | apply keeps_spanLocal | split | dsimp only

theorem keeps_laneLock (h : Keeps s t) (lanes timeout) : Keeps s (laneLock t lanes timeout) := by
  unfold laneLock
  repeat' with_reducible first | assumption | apply keeps_updSpn | apply keeps_lockEnd | split | dsimp only

theorem keeps_execLaneLock (h : Keeps s t) (lanes timeout) : Ran s (execLaneLock lanes timeout t) := by
  unfold execLaneLock
  repeat' with_reducible first | apply ran_next | assumption | apply keeps_laneLock

theorem keeps_marker (h : Keeps s t) (lane m) : Keeps s (marker t lane m) := by
  unfold marker
  repeat' with_reducible first | assumption | apply keeps_updSpn | apply keeps_spnRetrain | split | dsimp only

theorem keeps_execMarkerReceive (h : Keeps s t) (lane m) : Ran s (execMarkerReceive lane m t) := by
  unfold execMarkerReceive
  repeat' with_reducible first | apply ran_next | assumption | apply keeps_marker

theorem keeps_hello (h : Keeps s t) (h') : Keeps s (hello t h') := by
  unfold hello
  repeat' with_reducible
    first
    | assumption | apply keeps_spnFail | apply keeps_updSpn | apply keeps_spanLocal | apply keeps_spnEnter | split | dsimp only

theorem keeps_execHello (h : Keeps s t) (h') : Ran s (execHello h' t) := by
  unfold execHello
  repeat' with_reducible first | apply ran_next | assumption | apply keeps_hello

theorem keeps_execCert (h : Keeps s t) (chain) : Ran s (execCert chain t) := by
  unfold execCert
  repeat' with_reducible first | apply ran_next | assumption | apply keeps_updSpn | apply keeps_quarantine | split

theorem keeps_execKeyx (h : Keeps s t) (nonce point) : Ran s (execKeyx nonce point t) := by
  unfold execKeyx
  repeat' with_reducible first | apply ran_next | assumption | apply keeps_spanLocal | simp only [↓keeps_mk] | split

theorem keeps_finish (h : Keeps s t) (sigOk) : Keeps s (finish t sigOk) := by
  unfold finish
  repeat' with_reducible first | assumption | apply keeps_spnEnter | apply keeps_updSpn | apply keeps_quarantine | split

theorem keeps_execFinish (h : Keeps s t) (sigOk) : Ran s (execFinish sigOk t) := by
  unfold execFinish
  repeat' with_reducible first | apply ran_next | assumption | apply keeps_finish

theorem keeps_spnActive (h : Keeps s t) : Keeps s (spnActive t) := by
  unfold spnActive
  repeat' with_reducible
    first
    | assumption | apply keeps_updSpn | apply keeps_raise | apply keeps_spanRelease | apply keeps_routesFill | split

theorem keeps_calReq (h : Keeps s t) (hold) : Keeps s (calReq t hold) := by
  unfold calReq
  repeat' with_reducible first | assumption | apply keeps_spanLocal | split

theorem keeps_execCalReq (h : Keeps s t) (hold) : Ran s (execCalReq hold t) := by
  unfold execCalReq
  repeat' with_reducible first | apply ran_next | assumption | apply keeps_calReq

theorem keeps_execCalTimer (h : Keeps s t) (t1) : Ran s (execCalTimer t1 t) := by
  unfold execCalTimer
  repeat' with_reducible first | apply ran_next | assumption | apply keeps_spanLocal | apply keeps_updSpn | split

theorem keeps_calRsp (h : Keeps s t) (hold t4) : Keeps s (calRsp t hold t4) := by
  unfold calRsp
  repeat' with_reducible first | assumption | apply keeps_raise | apply keeps_updSpn | apply keeps_spnActive | split | dsimp only

theorem keeps_execCalRsp (h : Keeps s t) (hold t4) : Ran s (execCalRsp hold t4 t) := by
  unfold execCalRsp
  repeat' with_reducible first | apply ran_next | assumption | apply keeps_calRsp

theorem keeps_execTrainingTimeout (h : Keeps s t) : Ran s (execTrainingTimeout t) := by
  unfold execTrainingTimeout
  repeat' with_reducible first | apply ran_next | assumption | apply keeps_lockEnd | apply keeps_spnFail | apply keeps_quarantine | split

theorem keeps_execBackoffExpire (h : Keeps s t) : Ran s (execBackoffExpire t) := by
  unfold execBackoffExpire
  repeat' with_reducible first | apply ran_next | assumption | apply keeps_spnStart | split

theorem keeps_trainEnSet (h : Keeps s t) (v) : Keeps s (trainEnSet t v) := by
  unfold trainEnSet
  repeat' with_reducible first | assumption | apply keeps_updSpn | apply keeps_spnPoll | apply keeps_spnDown | split | dsimp only

theorem keeps_execTrainEnWrite (h : Keeps s t) (a v) : Ran s (execTrainEnWrite a v t) := by
  unfold execTrainEnWrite
  repeat' with_reducible first | apply ran_next | assumption | intro _ | apply keeps_unitWrite | apply keeps_trainEnSet

theorem keeps_execQuarRelease (h : Keeps s t) (a v) : Ran s (execQuarRelease a v t) := by
  unfold execQuarRelease
  repeat' with_reducible
    first
    | apply ran_next | assumption | intro _ | apply keeps_unitWrite | apply keeps_spnStart | apply keeps_spnLeave | apply keeps_updSpn
    | split

theorem keeps_cricket (h : Keeps s t) (cnt) : Keeps s (cricket t cnt) := by
  unfold cricket
  repeat' with_reducible first | assumption | apply keeps_updSpn | split

theorem keeps_execCricket (h : Keeps s t) (count flit) : Ran s (execCricket count flit t) := by
  unfold execCricket
  repeat' with_reducible first | apply ran_next | assumption | apply keeps_cricket | split

theorem keeps_execCricketTimer (h : Keeps s t) : Ran s (execCricketTimer t) := by
  unfold execCricketTimer
  repeat' with_reducible first | apply ran_next | assumption | apply keeps_spanLocal | apply keeps_updSpn | split

theorem keeps_execCricketLoss (h : Keeps s t) : Ran s (execCricketLoss t) := by
  unfold execCricketLoss
  repeat' with_reducible first | apply ran_next | assumption | apply keeps_spnRetrain | split

theorem keeps_beaconMsg (h : Keeps s t) (w txOff arrival) : Keeps s (beaconMsg t w txOff arrival) := by
  unfold beaconMsg
  repeat' with_reducible first | assumption | apply keeps_updSpn | split

theorem keeps_execBeacon (h : Keeps s t) (w txOff arrival) : Ran s (execBeacon w txOff arrival t) := by
  unfold execBeacon
  repeat' with_reducible first | apply ran_next | assumption | apply keeps_beaconMsg

theorem keeps_replayed (h : Keeps s t) : Keeps s (replayed t) := by
  unfold replayed
  repeat' with_reducible first | assumption | apply keeps_count | apply keeps_updSpn | apply keeps_spnRetrain | split | dsimp only

theorem keeps_malformedMsg (h : Keeps s t) : Keeps s (malformedMsg t) := by
  unfold malformedMsg
  repeat' with_reducible
    first
    | assumption | apply keeps_count | apply keeps_updSpn | apply keeps_logErr | apply keeps_quarantine | split | dsimp only

theorem keeps_spanAck (h : Keeps s t) (flit) : Keeps s (spanAck t flit) := by
  unfold spanAck
  repeat' with_reducible first | assumption | apply keeps_malformedMsg | apply keeps_spanRelease | apply keeps_updSpn | split

theorem keeps_execSpanAck (h : Keeps s t) (flit) : Ran s (execSpanAck flit t) := by
  unfold execSpanAck
  repeat' with_reducible first | apply ran_next | assumption | apply keeps_spanAck

theorem keeps_spanNak (h : Keeps s t) (flit) : Keeps s (spanNak t flit) := by
  unfold spanNak
  repeat' with_reducible
    first
    | assumption | intro _ | apply keeps_malformedMsg | apply keeps_replayed | apply keeps_emit | apply keeps_foldl | split

theorem keeps_execSpanNak (h : Keeps s t) (flit) : Ran s (execSpanNak flit t) := by
  unfold execSpanNak
  repeat' with_reducible first | apply ran_next | assumption | apply keeps_spanNak

theorem keeps_spanCredit (h : Keeps s t) (credits) : Keeps s (spanCredit t credits) := by
  unfold spanCredit
  repeat' with_reducible first | assumption | intro _ | apply keeps_spanRelease | apply keeps_updSpn | apply keeps_foldl | split

theorem keeps_execSpanCredit (h : Keeps s t) (credits) : Ran s (execSpanCredit credits t) := by
  unfold execSpanCredit
  repeat' with_reducible first | apply ran_next | assumption | apply keeps_spanCredit

theorem keeps_execQuarNotice (h : Keeps s t) : Ran s (execQuarNotice t) := by
  unfold execQuarNotice
  repeat' with_reducible first | apply ran_next | assumption

theorem keeps_lsDeliver (h : Keeps s t) (m) : Keeps s (lsDeliver t m) := by
  unfold lsDeliver
  repeat' with_reducible first | assumption | apply keeps_toNode | simp only [↓keeps_mk] | split

theorem keeps_ingressIssue (h : Keeps s t) (r) : Keeps s (ingressIssue t r) := by
  unfold ingressIssue
  repeat' with_reducible first | assumption | apply keeps_updSpn | apply keeps_place | split

theorem keeps_ingressDrain (h : Keeps s t) : Keeps s (ingressDrain t) := by
  unfold ingressDrain
  repeat' with_reducible first | assumption | intro _ | apply keeps_ingressIssue | apply keeps_updSpn | apply keeps_foldl

theorem keeps_ingress (h : Keeps s t) (m) : Keeps s (ingress t m) := by
  unfold ingress
  repeat' with_reducible
    first
    | assumption | apply keeps_lsDeliver | apply keeps_updSpn | apply keeps_ingressIssue | apply keeps_refuseReq | apply keeps_logProto
    | split

theorem keeps_execSpanIngressRequest (h : Keeps s t) (m) : Ran s (execSpanIngressRequest m t) := by
  unfold execSpanIngressRequest
  repeat' with_reducible first | apply ran_next | assumption | apply keeps_ingress

theorem keeps_remoteRsp (h : Keeps s t) (tracker k status d pois) : Keeps s (remoteRsp t tracker k status d pois) := by
  unfold remoteRsp
  repeat' with_reducible
    first
    | assumption | apply keeps_malformedMsg | apply keeps_count | apply keeps_updSpn | apply keeps_remDrain | apply keeps_deliverAll
    | split

theorem keeps_execRemoteResponse (h : Keeps s t) (tracker kind status data poison) :
    Ran s (execRemoteResponse tracker kind status data poison t) := by
  unfold execRemoteResponse
  repeat' with_reducible first | apply ran_next | assumption | apply keeps_remoteRsp | split

theorem keeps_remoteDue (h : Keeps s t) (tracker) : Keeps s (remoteDue t tracker) := by
  unfold remoteDue
  repeat' with_reducible
    first
    | assumption | apply keeps_updSpn | apply keeps_count | apply keeps_raise | apply keeps_remDrain | apply keeps_refuseReq | split

theorem keeps_execRemoteDeadline (h : Keeps s t) (tracker) : Ran s (execRemoteDeadline tracker t) := by
  unfold execRemoteDeadline
  repeat' with_reducible first | apply ran_next | assumption | apply keeps_remoteDue

theorem keeps_remSnpDone (h : Keeps s t) (r) : Keeps s (remSnpDone t r) := by
  unfold remSnpDone
  repeat' with_reducible first | assumption | apply keeps_toNode | apply keeps_updSpn | split

theorem keeps_remoteSnoop (h : Keeps s t) (node line op) : Keeps s (remoteSnoop t node line op) := by
  unfold remoteSnoop
  repeat' with_reducible first | assumption | intro _ | apply keeps_remSnpDone | apply keeps_sendSnoop | apply keeps_foldl | split

theorem keeps_execRemoteSnoop (h : Keeps s t) (node line op) : Ran s (execRemoteSnoop node line op t) := by
  unfold execRemoteSnoop
  repeat' with_reducible first | apply ran_next | assumption | apply keeps_remoteSnoop

theorem keeps_remSnpTake (h : Keeps s t) (a line had d) : Keeps s (remSnpTake t a line had d) := by
  unfold remSnpTake
  repeat' with_reducible first | assumption | apply keeps_casTo | apply keeps_updSpn | apply keeps_remSnpDone | split

theorem keeps_execSnpRsp (h : Keeps s t) (agent line hadCopy wbPending dirty) :
    Ran s (execSnpRsp agent line hadCopy wbPending dirty t) := by
  unfold execSnpRsp
  repeat' with_reducible
    first
    | apply ran_next | assumption | intro _ | apply keeps_agentConsumed | apply keeps_remSnpTake | apply keeps_fromAgent
    | apply keeps_snoopAnswer | split

theorem keeps_execSnpData (h : Keeps s t) (agent line data poison dirty) : Ran s (execSnpData agent line data poison dirty t) := by
  unfold execSnpData
  repeat' with_reducible
    first
    | apply ran_next | assumption | intro _ | apply keeps_remSnpTake | apply keeps_agentConsumed | apply keeps_fromAgent
    | apply keeps_snoopData | split

theorem keeps_remoteSnpRsp (h : Keeps s t) (node line had d) : Keeps s (remoteSnpRsp t node line had d) := by
  unfold remoteSnpRsp
  repeat' with_reducible
    first
    | assumption | apply keeps_casTo | apply keeps_malformedMsg | apply keeps_snoopAnswer | apply keeps_snoopData | split | dsimp only

theorem keeps_spanAnswer (h : Keeps s t) (pos tracker k status d p) : Keeps s (spanAnswer t pos tracker k status d p) := by
  unfold spanAnswer
  repeat' with_reducible first | assumption | apply keeps_remoteRsp | apply keeps_casSend | split

theorem keeps_remoteAck (h : Keeps s t) (tag line) : Keeps s (remoteAck t tag line) := by
  unfold remoteAck
  repeat' with_reducible first | assumption | apply keeps_ackGrant | apply keeps_casTo | split

theorem keeps_spanTake (h : Keeps s t) (x1) : Keeps s (spanTake t x1) := by
  unfold spanTake
  repeat' with_reducible
    first
    | assumption | apply keeps_ingress | apply keeps_spanAnswer | apply keeps_remoteSnoop | apply keeps_remoteSnpRsp
    | apply keeps_remoteAck | apply keeps_spanAck | apply keeps_spanNak | apply keeps_spanCredit | apply keeps_cricket
    | apply keeps_calReq | apply keeps_malformedMsg | split

theorem keeps_flit (h : Keeps s t) (f msgs) : Keeps s (flit t f msgs) := by
  unfold flit
  repeat' with_reducible
    first
    | assumption | intro _ | apply keeps_replayed | apply keeps_spanLocal | apply keeps_updSpn | apply keeps_quarantine
    | apply keeps_spanTake | apply keeps_foldl | split

theorem keeps_execFlitReceive (h : Keeps s t) (words flit msgs) : Ran s (execFlitReceive words flit msgs t) := by
  unfold execFlitReceive
  repeat' with_reducible first | apply ran_next | assumption | intro _ | apply keeps_flit | apply keeps_codeword | apply keeps_foldl | split

/-! ## Cascade -/

theorem keeps_halt (h : Keeps s t) (err info) : Keeps s (halt t err info) := by
  unfold halt
  repeat' with_reducible
    first
    | assumption | intro _ | apply keeps_updPage | apply keeps_raise | apply keeps_spnDown | apply keeps_foldl | simp only [↓keeps_mk]

theorem keeps_bootAdvance (h : Keeps s t) : Keeps s (bootAdvance t) := by
  unfold bootAdvance
  repeat' with_reducible first | assumption | simp only [↓keeps_mk] | split

theorem keeps_memRangeSet (h : Keeps s t) (off v) : Keeps s (memRangeSet t off v) := by
  unfold memRangeSet
  repeat' with_reducible first | assumption | apply keeps_refuseLast | simp only [↓keeps_mk] | split

theorem keeps_execMemRangeWrite (h : Keeps s t) (a off v) : Ran s (execMemRangeWrite a off v t) := by
  unfold execMemRangeWrite
  repeat' with_reducible first | apply ran_next | assumption | intro _ | apply keeps_unitWrite | apply keeps_memRangeSet | split

theorem keeps_nodeIdPut (h : Keeps s t) (v) : Keeps s (nodeIdPut t v) := by
  unfold nodeIdPut
  repeat' with_reducible first | assumption | apply keeps_spnPoll | simp only [↓keeps_mk]

theorem keeps_nodeIdSet (h : Keeps s t) (v) : Keeps s (nodeIdSet t v) := by
  unfold nodeIdSet
  repeat' with_reducible first | assumption | apply keeps_refuseLast | apply keeps_casAll | apply keeps_nodeIdPut | split

theorem keeps_execNodeIdWrite (h : Keeps s t) (a v) : Ran s (execNodeIdWrite a v t) := by
  unfold execNodeIdWrite
  repeat' with_reducible first | apply ran_next | assumption | intro _ | apply keeps_unitWrite | apply keeps_nodeIdSet

theorem keeps_casLinkInit (h : Keeps s t) (port peer gen step reaches lat) : Keeps s (casLinkInit t port peer gen step reaches lat) := by
  unfold casLinkInit
  repeat' with_reducible first | assumption | intro _ | apply keeps_casRelease | apply keeps_foldl | simp only [↓keeps_mk] | split

theorem keeps_execCascadeLinkInit (h : Keeps s t) (port peer gen step reaches lat) :
    Ran s (execCascadeLinkInit port peer gen step reaches lat t) := by
  unfold execCascadeLinkInit
  repeat' with_reducible first | apply ran_next | assumption | apply keeps_casLinkInit

theorem keeps_casFormed (h : Keeps s t) : Keeps s (casFormed t) := by
  unfold casFormed
  repeat' with_reducible
    first
    | assumption | apply keeps_halt | apply keeps_casAll | apply keeps_raise | apply keeps_spnPoll | apply keeps_noteReg
    | apply keeps_updSpn | apply keeps_updPage | apply keeps_bootAdvance | simp only [↓keeps_mk] | split

theorem keeps_execCascadeFormed (h : Keeps s t) : Ran s (execCascadeFormed t) := by
  unfold execCascadeFormed
  repeat' with_reducible first | apply ran_next | assumption | apply keeps_casFormed

theorem keeps_execJoinDeadline (h : Keeps s t) : Ran s (execJoinDeadline t) := by
  unfold execJoinDeadline
  repeat' with_reducible first | apply ran_next | assumption | apply keeps_tellEvent | apply keeps_raise | simp only [↓keeps_mk] | split

theorem keeps_stationHere (h : Keeps s t) (src st gone) : Keeps s (stationHere t src st gone) := by
  unfold stationHere
  repeat' with_reducible first | assumption | apply keeps_updSpn | apply keeps_tableFill | apply keeps_remotesEnd | split

theorem keeps_dropLost (h : Keeps s t) : Keeps s (dropLost t) := by
  unfold dropLost
  repeat' with_reducible first | assumption | intro _ | apply keeps_stationHere | apply keeps_blockLose | apply keeps_foldl

theorem keeps_casReroute (h : Keeps s t) : Keeps s (casReroute t) := by
  unfold casReroute
  repeat' with_reducible
    first
    | assumption | apply keeps_dropLost | apply keeps_casRelease | apply keeps_raise | simp only [↓keeps_mk] | split

theorem keeps_casPortLost (h : Keeps s t) (port) : Keeps s (casPortLost t port) := by
  unfold casPortLost
  repeat' with_reducible
    first
    | assumption | apply keeps_casEnd | apply keeps_raise | apply keeps_casReroute | simp only [↓keeps_mk] | split

theorem keeps_execCascadePortDown (h : Keeps s t) (port) : Ran s (execCascadePortDown port t) := by
  unfold execCascadePortDown
  repeat' with_reducible first | apply ran_next | assumption | apply keeps_casPortLost

/-! ## DataPort -/

theorem keeps_dpIdle (h : Keeps s t) (p) : Keeps s (dpIdle t p) := by
  unfold dpIdle
  repeat' with_reducible first | assumption | apply keeps_updPage

theorem keeps_dpFail (h : Keeps s t) (p st) : Keeps s (dpFail t p st) := by
  unfold dpFail
  repeat' with_reducible first | assumption | apply keeps_raise | apply keeps_updPage | apply keeps_dpIdle

theorem keeps_dpLanded (h : Keeps s t) (p) : Keeps s (dpLanded t p) := by
  unfold dpLanded
  repeat' with_reducible first | assumption | apply keeps_updPage

theorem keeps_dpDoneOk (h : Keeps s t) (p) : Keeps s (dpDoneOk t p) := by
  unfold dpDoneOk
  repeat' with_reducible first | assumption | apply keeps_raise | apply keeps_updPage | apply keeps_dpIdle

theorem keeps_dpStart (h : Keeps s t) (st p mode v) : Keeps s (dpStart t st p mode v) := by
  unfold dpStart
  repeat' with_reducible first | assumption | apply keeps_updPage | apply keeps_dpFail | apply keeps_ownDone | split | dsimp only

theorem keeps_dpCommitOut (h : Keeps s t) (p flush) : Keeps s (dpCommitOut t p flush) := by
  unfold dpCommitOut
  repeat' with_reducible first | assumption | apply keeps_dpFail | apply keeps_updPage | split | dsimp only

theorem keeps_dpConflictSet (h : Keeps s t) (p) : Keeps s (dpConflictSet t p) := by
  unfold dpConflictSet
  repeat' with_reducible first | assumption | apply keeps_updPage

theorem keeps_dpIgnored (h : Keeps s t) (p) : Keeps s (dpIgnored t p) := by
  unfold dpIgnored
  repeat' with_reducible first | assumption | apply keeps_updPage

theorem keeps_dpCtlSet (h : Keeps s t) (st p v) : Keeps s (dpCtlSet t st p v) := by
  unfold dpCtlSet
  repeat' with_reducible
    first
    | assumption | apply keeps_dpCommitOut | apply keeps_dpIgnored | apply keeps_updPage | apply keeps_dpIdle | apply keeps_raise
    | apply keeps_dpStart | split | dsimp only

theorem keeps_dpAddrSet (h : Keeps s t) (p v) : Keeps s (dpAddrSet t p v) := by
  unfold dpAddrSet
  repeat' with_reducible first | assumption | apply keeps_updPage

theorem keeps_dpFetch (h : Keeps s t) (p) : Keeps s (dpFetch t p) := by
  unfold dpFetch
  repeat' with_reducible
    first
    | assumption | intro _ | apply keeps_dpFail | apply keeps_ownLines | apply keeps_updPage | apply keeps_foldl
    | refine keeps_snd ?_ (by assumption) | split | dsimp only

theorem keeps_execDpBlockFetched (h : Keeps s t) (page) : Ran s (execDpBlockFetched page t) := by
  unfold execDpBlockFetched
  repeat' with_reducible first | apply ran_next | assumption | apply keeps_dpFetch

theorem keeps_dpBlockRead (h : Keeps s t) (p) : Keeps s (dpBlockRead t p) := by
  unfold dpBlockRead
  repeat' with_reducible first | assumption | apply keeps_dpFail | apply keeps_dpDoneOk | apply keeps_updPage | split | dsimp only

theorem keeps_dpRead (h : Keeps s t) (a p off size) : Keeps s (dpRead t a p off size) := by
  unfold dpRead
  repeat' with_reducible
    first
    | assumption | apply keeps_regRsp | apply keeps_dpConflictSet | apply keeps_updPage | apply keeps_dpBlockRead | split | dsimp only

theorem keeps_dpWrite (h : Keeps s t) (p off size data) : Keeps s (dpWrite t p off size data) := by
  unfold dpWrite
  repeat' with_reducible first | assumption | intro _ | apply keeps_updPage | apply keeps_dpCommitOut | apply keeps_foldl | split

theorem keeps_dpDo (h : Keeps s t) (p x) : Keeps s (dpDo t p x) := by
  unfold dpDo
  repeat' with_reducible
    first
    | assumption | apply keeps_regRsp | apply keeps_dpConflictSet | apply keeps_dpAddrSet | apply keeps_dpCtlSet | apply keeps_dpWrite
    | apply keeps_dpRead | split | dsimp only

theorem keeps_dpAccess (h : Keeps s t) (p x) : Keeps s (dpAccess t p x) := by
  unfold dpAccess
  repeat' with_reducible
    first
    | assumption | apply keeps_refusedAcc | apply keeps_regRsp | apply keeps_badSize | apply keeps_updPage | apply keeps_dpDo | split
    | dsimp only

theorem keeps_dpSettle (h : Keeps s t) (n p) : Keeps s (dpSettle n t p) := by
  induction n generalizing t with
  | zero => exact h
  | succ n ih =>
    unfold dpSettle
    repeat' with_reducible first | assumption | apply ih | apply keeps_dpDo | apply keeps_updPage | split

theorem keeps_dpSettleAll (h : Keeps s t) (p) : Keeps s (dpSettleAll t p) := by
  unfold dpSettleAll
  repeat' with_reducible first | assumption | apply keeps_dpSettle

theorem keeps_dpFenced (h : Keeps s t) (p) : Keeps s (dpFenced t p) := by
  unfold dpFenced
  repeat' with_reducible first | assumption | apply keeps_dpSettleAll | apply keeps_dpLanded | apply keeps_dpFail | split

theorem keeps_execDpAddrWrite (h : Keeps s t) (a page v) : Ran s (execDpAddrWrite a page v t) := by
  unfold execDpAddrWrite
  repeat' with_reducible first | apply ran_next | assumption | apply keeps_dpAccess

theorem keeps_execDpStartRead (h : Keeps s t) (a page v) : Ran s (execDpStartRead a page v t) := by
  unfold execDpStartRead
  repeat' with_reducible first | apply ran_next | assumption | apply keeps_dpAccess | split

theorem keeps_execDpStartWrite (h : Keeps s t) (a page v) : Ran s (execDpStartWrite a page v t) := by
  unfold execDpStartWrite
  repeat' with_reducible first | apply ran_next | assumption | apply keeps_dpAccess | split

theorem keeps_execDpModeReserved (h : Keeps s t) (a page v) : Ran s (execDpModeReserved a page v t) := by
  unfold execDpModeReserved
  repeat' with_reducible first | apply ran_next | assumption | apply keeps_dpAccess | split

theorem keeps_execDpAbandon (h : Keeps s t) (a page v) : Ran s (execDpAbandon a page v t) := by
  unfold execDpAbandon
  repeat' with_reducible first | apply ran_next | assumption | apply keeps_dpAccess | split

theorem keeps_execDpFlush (h : Keeps s t) (a page v) : Ran s (execDpFlush a page v t) := by
  unfold execDpFlush
  repeat' with_reducible first | apply ran_next | assumption | apply keeps_dpAccess | split

theorem keeps_execDpWinRead (h : Keeps s t) (a page off size) : Ran s (execDpWinRead a page off size t) := by
  unfold execDpWinRead
  repeat' with_reducible first | apply ran_next | assumption | apply keeps_dpAccess | split

theorem keeps_execDpWinWrite (h : Keeps s t) (a page off size data) : Ran s (execDpWinWrite a page off size data t) := by
  unfold execDpWinWrite
  repeat' with_reducible first | apply ran_next | assumption | apply keeps_dpAccess | split

theorem keeps_stagePut (h : Keeps s t) (l) : Keeps s (stagePut t l) := by
  unfold stagePut
  repeat' with_reducible first | assumption | intro _ | apply keeps_foldl | simp only [↓keeps_mk]

theorem keeps_memCommit (h : Keeps s t) (p l) : Keeps s (memCommit t p l) := by
  unfold memCommit
  repeat' with_reducible first | assumption | intro _ | apply keeps_updPage | apply keeps_place | apply keeps_foldl

theorem keeps_xfmCommit (h : Keeps s t) (l) : Keeps s (xfmCommit t l) := by
  unfold xfmCommit
  repeat' with_reducible first | assumption | intro _ | apply keeps_foldl | simp only [↓keeps_mk]

theorem keeps_dpAfterCommit (h : Keeps s t) (p) : Keeps s (dpAfterCommit t p) := by
  unfold dpAfterCommit
  repeat' with_reducible
    first
    | assumption | apply keeps_dpLanded | apply keeps_dpSettleAll | apply keeps_dpDoneOk | apply keeps_dpFail | split

theorem keeps_dpCommitLand (h : Keeps s t) (p) : Keeps s (dpCommitLand t p) := by
  unfold dpCommitLand
  repeat' with_reducible
    first
    | assumption | apply keeps_dpAfterCommit | apply keeps_stagePut | apply keeps_xfmCommit | apply keeps_dpSettleAll
    | apply keeps_dpLanded | apply keeps_dpFail | apply keeps_memCommit | split | dsimp only

theorem keeps_execDpCommitDone (h : Keeps s t) (page) : Ran s (execDpCommitDone page t) := by
  unfold execDpCommitDone
  repeat' with_reducible first | apply ran_next | assumption | apply keeps_dpCommitLand

/-! ## MoverLook -/

theorem keeps_setPipeBuf (h : Keeps s t) (pipe l) : Keeps s (setPipeBuf t pipe l) := keeps_of_same h rfl rfl

theorem keeps_pipeFill (h : Keeps s t) (pipe e) : Keeps s (pipeFill t pipe e) := by
  unfold pipeFill
  repeat' with_reducible first | assumption | apply keeps_setPipeBuf

theorem keeps_pipeMiss (h : Keeps s t) (pipe sid va acc who) : Keeps s (pipeMiss t pipe sid va acc who) := by
  unfold pipeMiss
  repeat' with_reducible first | assumption | simp only [↓keeps_mk] | split

theorem keeps_pipeDrop (h : Keeps s t) (pipe e) : Keeps s (pipeDrop t pipe e) := by
  unfold pipeDrop
  repeat' with_reducible first | assumption | apply keeps_setPipeBuf | simp only [↓keeps_mk]

theorem keeps_pipeCheck (h : Keeps s t) (pipe sid va n acc who e) : Keeps s (pipeCheck t pipe sid va n acc who e).1 := by
  unfold pipeCheck
  repeat' with_reducible first | assumption | apply keeps_pipeMiss | apply keeps_pipeDrop | apply keeps_setPipeBuf | split | dsimp only

theorem keeps_pipeLook (h : Keeps s t) (pipe sid va n acc who) : Keeps s (pipeLook t pipe sid va n acc who).1 := by
  unfold pipeLook
  repeat' with_reducible
    first
    | assumption | apply keeps_pipeCheck | apply keeps_pipeFill | apply keeps_pfHit | apply keeps_lanternTouch | apply keeps_pipeMiss
    | refine keeps_fst ?_ (by assumption) | split | dsimp only

theorem keeps_chanSettle (h : Keeps s t) (ch) : Keeps s (chanSettle t ch) := by
  unfold chanSettle
  repeat' with_reducible first | assumption | intro _ | apply keeps_tokenSettle | apply keeps_updChan | apply keeps_foldl

theorem keeps_moverFault (h : Keeps s t) (ch c va cause lvl stage held acc mine) :
    Keeps s (moverFault t ch c va cause lvl stage held acc mine).1 := by
  unfold moverFault
  repeat' with_reducible
    first
    | assumption | apply keeps_demandFault | apply keeps_updChan | apply keeps_faultLose | refine keeps_fst ?_ (by assumption) | split
    | dsimp only

theorem keeps_descFault (h : Keeps s t) (ch va c l g) : Keeps s (descFault t ch va c l g) := by
  unfold descFault
  repeat' with_reducible
    first
    | assumption | apply keeps_moverFault | apply keeps_chanSettle | apply keeps_updChan | refine keeps_fst ?_ (by assumption) | split

theorem keeps_srcFault (h : Keeps s t) (ch k seg va c l g) : Keeps s (srcFault t ch k seg va c l g) := by
  unfold srcFault
  repeat' with_reducible
    first
    | assumption | apply keeps_chanSettle | apply keeps_updSeg | apply keeps_moverFault | refine keeps_fst ?_ (by assumption) | split
    | dsimp only

theorem keeps_dstFault (h : Keeps s t) (ch k seg va c l g acc) : Keeps s (dstFault t ch k seg va c l g acc) := by
  unfold dstFault
  repeat' with_reducible
    first
    | assumption | apply keeps_chanSettle | apply keeps_updSeg | apply keeps_moverFault | refine keeps_fst ?_ (by assumption) | split
    | dsimp only

theorem keeps_moveFault (h : Keeps s t) (who va c l g acc) : Keeps s (moveFault t who va c l g acc) := by
  unfold moveFault
  repeat' with_reducible first | assumption | apply keeps_descFault | apply keeps_srcFault | apply keeps_dstFault | split

/-! ## Release -/

theorem keeps_relPut (h : Keeps s t) (p hdr slot id) : Keeps s (relPut t p hdr slot id) := by
  unfold relPut
  repeat' with_reducible first | assumption | apply keeps_ownPuts | apply keeps_updPart | apply keeps_announce

theorem keeps_relFailed (h : Keeps s t) (p st) : Keeps s (relFailed t p st) := by
  unfold relFailed
  repeat' with_reducible first | assumption | apply keeps_updPart | apply keeps_logProto | split

theorem keeps_relHoldId (h : Keeps s t) (p id) : Keeps s (relHoldId t p id) := by
  unfold relHoldId
  repeat' with_reducible first | assumption | apply keeps_raise | apply keeps_updPart | simp only [↓keeps_mk] | split

theorem keeps_relWait (h : Keeps s t) (p) : Keeps s (relWait t p) := by
  unfold relWait
  repeat' with_reducible first | assumption | apply keeps_ringAsk | split

theorem keeps_relAppend (h : Keeps s t) (p id) : Keeps s (relAppend t p id) := by
  unfold relAppend
  repeat' with_reducible
    first
    | assumption | apply keeps_relPut | apply keeps_relWait | apply keeps_relHoldId | apply keeps_relFailed | split

theorem keeps_relWrite (h : Keeps s t) (p l) : Keeps s (relWrite t p l).1 := by
  induction l generalizing t with
  | nil => exact h
  | cons i l ih =>
    unfold relWrite
    repeat' with_reducible first | assumption | apply ih | apply keeps_relPut | apply keeps_relWait | apply keeps_relFailed | split

theorem keeps_relRetry (h : Keeps s t) : Keeps s (relRetry t) := by
  unfold relRetry
  repeat' with_reducible
    first
    | assumption | intro _ | apply keeps_relWrite | apply keeps_ownDone | apply keeps_updPart | apply keeps_foldl
    | refine keeps_fst ?_ (by assumption) | split | dsimp only

theorem keeps_objUntier (h : Keeps s t) (p id) : Keeps s (objUntier t p id) := keeps_of_same h rfl rfl

theorem keeps_objBars (h : Keeps s t) (p id) : Keeps s (objBars t p id) := by
  unfold objBars
  repeat' with_reducible first | assumption | intro _ | apply keeps_doom | apply keeps_setBar | apply keeps_foldl

theorem keeps_objWatches (h : Keeps s t) (p id) : Keeps s (objWatches t p id) := by
  unfold objWatches
  repeat' with_reducible
    first
    | assumption | intro _ | apply keeps_endCmd | apply keeps_ringReply | apply keeps_foldl | simp only [↓keeps_mk] | split

theorem keeps_objRelease (h : Keeps s t) (p id) : Keeps s (objRelease t p id) := by
  unfold objRelease
  repeat' with_reducible
    first
    | assumption | apply keeps_updPart | apply keeps_relAppend | apply keeps_objBars | apply keeps_objWatches | apply keeps_objUntier
    | split

theorem keeps_execObjectRelease (h : Keeps s t) (part obj) : Ran s (execObjectRelease part obj t) := by
  unfold execObjectRelease
  repeat' with_reducible first | apply ran_next | assumption | apply keeps_objRelease

theorem keeps_relScan (h : Keeps s t) (p) : Keeps s (relScan t p) := by
  unfold relScan
  repeat' with_reducible
    first
    | assumption | apply keeps_updPart | apply keeps_relWrite | refine keeps_fst ?_ (by assumption) | split | dsimp only

theorem keeps_execReleaseRingScan (h : Keeps s t) (part) : Ran s (execReleaseRingScan part t) := by
  unfold execReleaseRingScan
  repeat' with_reducible first | apply ran_next | assumption | apply keeps_relScan

/-! ## Walker -/

theorem keeps_beginWalk (h : Keeps s t) (i m) : Keeps s (beginWalk t i m) := by
  unfold beginWalk
  repeat' with_reducible first | assumption | apply keeps_count | apply keeps_takeUnit | simp only [↓keeps_mk]

theorem keeps_execWalkStart (h : Keeps s t) : Ran s (execWalkStart t) := by
  unfold execWalkStart
  repeat' with_reducible first | apply ran_next | assumption | apply keeps_beginWalk | simp only [↓keeps_mk] | split

theorem keeps_execPrefetchWalkStart (h : Keeps s t) : Ran s (execPrefetchWalkStart t) := by
  unfold execPrefetchWalkStart
  repeat' with_reducible first | apply ran_next | assumption | apply keeps_beginWalk | apply keeps_count | simp only [↓keeps_mk] | split

theorem keeps_missFill (h : Keeps s t) (e m) : Keeps s (missFill t e m) := by
  unfold missFill
  repeat' with_reducible first | assumption | apply keeps_pipeFill | apply keeps_fireflyFill | apply keeps_updBurst | split

theorem keeps_walkOk (h : Keeps s t) (w x) : Keeps s (walkOk t w x) := by
  unfold walkOk
  repeat' with_reducible
    first
    | assumption | intro _ | apply keeps_installX | apply keeps_missFill | apply keeps_foldl | simp only [↓keeps_mk]

theorem keeps_missFault (h : Keeps s t) (m c lvl stage) : Keeps s (missFault t m c lvl stage) := by
  unfold missFault
  repeat' with_reducible first | assumption | apply keeps_moveFault | apply keeps_burstFault | split

theorem keeps_walkFault (h : Keeps s t) (w c lvl stage) : Keeps s (walkFault t w c lvl stage) := by
  unfold walkFault
  repeat' with_reducible
    first
    | assumption | intro _ | apply keeps_count | apply keeps_missFault | apply keeps_foldl | simp only [↓keeps_mk] | split

theorem keeps_walkEnd (h : Keeps s t) (i) : Keeps s (walkEnd t i) := by
  unfold walkEnd
  repeat' with_reducible
    first
    | assumption | apply keeps_walk | apply keeps_walkOk | apply keeps_ownDone | apply keeps_walkFault | apply keeps_ownAsk
    | simp only [↓keeps_mk] | refine keeps_fst ?_ (by assumption) | split

theorem keeps_execWalkComplete (h : Keeps s t) (slot) : Ran s (execWalkComplete slot t) := by
  unfold execWalkComplete
  repeat' with_reducible first | apply ran_next | assumption | apply keeps_walkEnd

theorem keeps_execFaultRingRetry (h : Keeps s t) : Ran s (execFaultRingRetry t) := by
  unfold execFaultRingRetry
  repeat' with_reducible first | apply ran_next | assumption | apply keeps_relRetry | apply keeps_faultRetry | split

theorem keeps_demandExpire (h : Keeps s t) (token) : Keeps s (demandExpire t token) := by
  unfold demandExpire
  repeat' with_reducible first | assumption | apply keeps_tokenAbort | split | dsimp only

theorem keeps_execDemandTimeout (h : Keeps s t) (token) : Ran s (execDemandTimeout token t) := by
  unfold execDemandTimeout
  repeat' with_reducible first | apply ran_next | assumption | apply keeps_demandExpire

/-! ## Lamp -/

theorem keeps_spaceLookup (h : Keeps s t) (sid va acc) : Keeps s (spaceLookup t sid va acc).1 := by
  unfold spaceLookup
  repeat' with_reducible
    first
    | assumption | apply keeps_walk | apply keeps_installX | apply keeps_lanternTouch | apply keeps_count | simp only [↓keeps_mk]
    | refine keeps_fst ?_ (by assumption) | split

theorem keeps_ownLook (h : Keeps s t) (sid p va acc) : Keeps s (ownLook t sid p va acc).1 := by
  unfold ownLook
  repeat' with_reducible first | assumption | apply keeps_spaceLookup | refine keeps_fst ?_ (by assumption) | split | dsimp only

theorem keeps_drawWords (h : Keeps s t) (n) : Keeps s (drawWords n t).1 := by
  induction n generalizing t with
  | zero => exact h
  | succ n ih => exact ih (keeps_drawWord h)

theorem keeps_lampFault (h : Keeps s t) (c p sid va cause lvl stage acc) : Keeps s (lampFault t c p sid va cause lvl stage acc) := by
  unfold lampFault
  repeat' with_reducible first | assumption | apply keeps_faultLose

theorem keeps_relayPut (h : Keeps s t) (q seq p npa bs node) : Keeps s (relayPut t q seq p npa bs node) := by
  unfold relayPut
  repeat' with_reducible first | assumption | apply keeps_toPackage | apply keeps_place | split

theorem keeps_lampTook (h : Keeps s t) (v p q) : Keeps s (lampTook v t p q) := by
  unfold lampTook
  repeat' with_reducible first | assumption | apply keeps_useShare | simp only [↓keeps_mk] | split

theorem keeps_refCount (h : Keeps s t) (p st) : Keeps s (refCount t p st) := by
  unfold refCount
  repeat' with_reducible first | assumption | apply keeps_count | simp only [↓keeps_mk] | split

theorem keeps_takePins (h : Keeps s t) (p l) : Keeps s (takePins t p l).1 := by
  induction l generalizing t with
  | nil => exact h
  | cons i l ih => exact ih (keeps_refCount (keeps_objOp h _ _ _) _ _)

theorem keeps_enterCmd (h : Keeps s t) (q ws bad) : Keeps s (enterCmd t q ws bad) := by
  unfold enterCmd
  repeat' with_reducible
    first
    | assumption | apply keeps_updQ | apply keeps_takePins | simp only [↓keeps_mk] | refine keeps_fst ?_ (by assumption) | split

theorem keeps_fetchCmd_snd {u : State} {o : Option State} (h : Keeps s t) {q} (e : fetchCmd t q = (o, u)) : Keeps s u := by
  unfold fetchCmd at e
  dsimp only at e
  repeat' split at e
  all_goals cases e
  all_goals repeat' with_reducible
    first
    | assumption | apply keeps_ownAsk | refine keeps_recAsk ?_ (by assumption) | apply keeps_ownLook | refine keeps_fst ?_ (by assumption)

theorem keeps_fetchCmd_some {u v : State} (h : Keeps s t) {q} (e : fetchCmd t q = (some u, v)) : Keeps s u := by
  unfold fetchCmd at e
  dsimp only at e
  repeat' split at e
  all_goals cases e
  all_goals repeat' with_reducible
    first
    | assumption | apply keeps_enterCmd | apply keeps_ownDone | apply keeps_lampFault | apply keeps_ownLook | refine keeps_drawWords ?_ _
    | refine keeps_fst ?_ (by assumption)

theorem keeps_execCommandFetch (h : Keeps s t) : Ran s (execCommandFetch t) := by
  unfold execCommandFetch
  apply ran_next
  split
  · exact h
  · split
    · exact keeps_fetchCmd_snd h (by assumption)
    · exact keeps_lampTook (keeps_fetchCmd_some h (by assumption)) _ _ _

theorem keeps_acceptCmd (h : Keeps s t) (c) : Keeps s (acceptCmd t c) := by
  unfold acceptCmd
  repeat' with_reducible
    first
    | assumption | intro _ | apply keeps_endCmd | apply keeps_updCmd | apply keeps_dropRef | apply keeps_doom | apply keeps_foldl | split
    | dsimp only

theorem keeps_execCommandAccept (h : Keeps s t) (q seq) : Ran s (execCommandAccept q seq t) := by
  unfold execCommandAccept
  repeat' with_reducible first | apply ran_next | assumption | apply keeps_acceptCmd | split

theorem keeps_dispatchCmd (h : Keeps s t) (c) : Keeps s (dispatchCmd t c) := by
  unfold dispatchCmd
  repeat' with_reducible first | assumption | apply keeps_updQ | apply keeps_updCmd | split

theorem keeps_execCommandDispatch (h : Keeps s t) (q seq) : Ran s (execCommandDispatch q seq t) := by
  unfold execCommandDispatch
  repeat' with_reducible first | apply ran_next | assumption | apply keeps_dispatchCmd | split

theorem keeps_writeRecord (h : Keeps s t) (c) : Keeps s (writeRecord t c) := by
  unfold writeRecord
  repeat' with_reducible
    first
    | assumption | apply keeps_updCmd | apply keeps_ownLook | apply keeps_relayPut | apply keeps_ownAsk | apply keeps_lampFault
    | refine keeps_fst ?_ (by assumption) | split | dsimp only

theorem keeps_queueDrained (h : Keeps s t) (q) : Keeps s (queueDrained t q) := by
  unfold queueDrained
  repeat' with_reducible first | assumption | apply keeps_reply | apply keeps_noteSels | apply keeps_updQ | split

theorem keeps_retireCmd (h : Keeps s t) (c) : Keeps s (retireCmd t c) := by
  unfold retireCmd
  repeat' with_reducible
    first
    | assumption | intro _ | apply keeps_signalRef | apply keeps_dropRef | apply keeps_updQ | apply keeps_queueDrained
    | apply keeps_tenant | apply keeps_count | apply keeps_foldl | simp only [↓keeps_mk] | split

theorem keeps_retire (h : Keeps s t) (q seq) : Keeps s (retire t q seq) := by
  unfold retire
  repeat' with_reducible
    first
    | assumption | apply keeps_writeRecord | refine keeps_recAsk ?_ (by assumption) | apply keeps_retireCmd | apply keeps_ownDone | split
    | dsimp only

theorem keeps_wdEnd (h : Keeps s t) (id) : Keeps s (wdEnd t id) := by
  unfold wdEnd
  repeat' with_reducible first | assumption | apply keeps_wdComplete | apply keeps_retire | split

theorem keeps_execWithdrawalComplete (h : Keeps s t) (id) : Ran s (execWithdrawalComplete id t) := by
  unfold execWithdrawalComplete
  repeat' with_reducible first | apply ran_next | assumption | apply keeps_wdEnd

theorem keeps_execCommandRetire (h : Keeps s t) (q seq) : Ran s (execCommandRetire q seq t) := by
  unfold execCommandRetire
  repeat' with_reducible first | apply ran_next | assumption | apply keeps_retire

theorem keeps_doorbellWrite (h : Keeps s t) (a q f) (hf : ∀ u, Keeps s u → Keeps s (f u)) : Keeps s (doorbellWrite t a q f) := by
  unfold doorbellWrite
  repeat' with_reducible first | assumption | apply hf | apply keeps_refusedAcc | apply keeps_regRsp | split | dsimp only

theorem keeps_tailSet (h : Keeps s t) (q v) : Keeps s (tailSet t q v) := by
  unfold tailSet
  repeat' with_reducible first | assumption | apply keeps_updQ | apply keeps_raise | split | dsimp only

theorem keeps_execDbTailWrite (h : Keeps s t) (a q v) : Ran s (execDbTailWrite a q v t) := by
  unfold execDbTailWrite
  repeat' with_reducible first | apply ran_next | assumption | intro _ | apply keeps_doorbellWrite | apply keeps_tailSet

theorem keeps_objTry (h : Keeps s t) (q v) : Keeps s (objTry t q v) := by
  unfold objTry
  repeat' with_reducible
    first
    | assumption | refine keeps_recAsk ?_ (by assumption) | apply keeps_updQ | apply keeps_objOp | apply keeps_ownDone
    | apply keeps_refCount | refine keeps_fst ?_ (by assumption) | split | dsimp only

theorem keeps_objOpSet (h : Keeps s t) (q v) : Keeps s (objOpSet t q v) := by
  unfold objOpSet
  repeat' with_reducible first | assumption | apply keeps_updQ | apply keeps_objTry | split | dsimp only

theorem keeps_objTries (h : Keeps s t) : Keeps s (objTries t) := by
  unfold objTries
  repeat' with_reducible first | assumption | intro _ | apply keeps_objTry | apply keeps_foldl | split

theorem keeps_execObjOpTake (h : Keeps s t) (a q v) : Ran s (execObjOpTake a q v t) := by
  unfold execObjOpTake
  repeat' with_reducible first | apply ran_next | assumption | intro _ | apply keeps_doorbellWrite | apply keeps_objOpSet

theorem keeps_execObjOpDrop (h : Keeps s t) (a q v) : Ran s (execObjOpDrop a q v t) := by
  unfold execObjOpDrop
  repeat' with_reducible first | apply ran_next | assumption | intro _ | apply keeps_doorbellWrite | apply keeps_objOpSet

theorem keeps_qCtlSet (h : Keeps s t) (q v) : Keeps s (qCtlSet t q v) := by
  unfold qCtlSet
  repeat' with_reducible first | assumption | apply keeps_refuseLast | apply keeps_updQ | split | dsimp only

theorem keeps_queueRegSet (h : Keeps s t) (off v) : Keeps s (queueRegSet t off v) := by
  unfold queueRegSet
  repeat' with_reducible first | assumption | apply keeps_qCtlSet | apply keeps_refuseLast | apply keeps_updQ | split | dsimp only

theorem keeps_execQCtlWrite (h : Keeps s t) (a off v) : Ran s (execQCtlWrite a off v t) := by
  unfold execQCtlWrite
  repeat' with_reducible first | apply ran_next | assumption | intro _ | apply keeps_unitWrite | apply keeps_queueRegSet | split

theorem keeps_ctxCtlSet (h : Keeps s t) (v) : Keeps s (ctxCtlSet t v) := by
  unfold ctxCtlSet
  repeat' with_reducible first | assumption | apply keeps_refuseLast | simp only [↓keeps_mk] | split

theorem keeps_execCtxCtlWrite (h : Keeps s t) (a v) : Ran s (execCtxCtlWrite a v t) := by
  unfold execCtxCtlWrite
  repeat' with_reducible first | apply ran_next | assumption | intro _ | apply keeps_unitWrite | apply keeps_ctxCtlSet

theorem keeps_objTblSet (h : Keeps s t) (off v) : Keeps s (objTblSet t off v) := by
  unfold objTblSet
  repeat' with_reducible first | assumption | apply keeps_refuseLast | apply keeps_updPart | split | dsimp only

theorem keeps_execObjTblWrite (h : Keeps s t) (a off v) : Ran s (execObjTblWrite a off v t) := by
  unfold execObjTblWrite
  repeat' with_reducible first | apply ran_next | assumption | intro _ | apply keeps_unitWrite | apply keeps_objTblSet | split

/-! ## FenceCmds -/

theorem keeps_beginCmd (h : Keeps s t) (q seq op f) (hf : ∀ u y0, Keeps s u → Keeps s (f u y0)) : Keeps s (beginCmd t q seq op f) := by
  unfold beginCmd
  repeat' with_reducible first | assumption | apply hf | apply keeps_updCmd | split

theorem keeps_execNop (h : Keeps s t) (q seq) : Ran s (execNop q seq t) := by
  unfold execNop
  repeat' with_reducible first | apply ran_next | assumption | intro _ | apply keeps_beginCmd | apply keeps_endCmd

theorem keeps_stepAdvance (h : Keeps s t) (c) : Keeps s (stepAdvance t c) := by
  unfold stepAdvance
  repeat' with_reducible first | assumption | apply keeps_endCmd | apply keeps_updCtx

theorem keeps_execStepAdvance (h : Keeps s t) (q seq) : Ran s (execStepAdvance q seq t) := by
  unfold execStepAdvance
  repeat' with_reducible first | apply ran_next | assumption | intro _ | apply keeps_beginCmd | apply keeps_stepAdvance

theorem keeps_reportCmd (h : Keeps s t) (c) : Keeps s (reportCmd t c) := by
  unfold reportCmd
  repeat' with_reducible
    first
    | assumption | apply keeps_ownLook | apply keeps_relayPut | apply keeps_endCmd | apply keeps_ownAsk | apply keeps_updCmd
    | apply keeps_lampFault | refine keeps_fst ?_ (by assumption) | split | dsimp only

theorem keeps_execReport (h : Keeps s t) (q seq) : Ran s (execReport q seq t) := by
  unfold execReport
  repeat' with_reducible first | apply ran_next | assumption | intro _ | apply keeps_beginCmd | apply keeps_reportCmd

theorem keeps_engDispatch (h : Keeps s t) (c) : Keeps s (engDispatch t c) := by
  unfold engDispatch
  repeat' with_reducible
    first
    | assumption | apply keeps_endCmd | refine keeps_recAsk ?_ (by assumption) | apply keeps_updCmd | apply keeps_ownPut
    | apply keeps_ownDone | apply keeps_updPart | apply keeps_emit | split | dsimp only

theorem keeps_execEngDispatch (h : Keeps s t) (q seq) : Ran s (execEngDispatch q seq t) := by
  unfold execEngDispatch
  repeat' with_reducible first | apply ran_next | assumption | intro _ | apply keeps_beginCmd | apply keeps_engDispatch

theorem keeps_mapWithdraw (h : Keeps s t) (c) : Keeps s (mapWithdraw t c) := by
  unfold mapWithdraw
  repeat' with_reducible first | assumption | apply keeps_endCmd | apply keeps_updCmd | apply keeps_wdAccept | split | dsimp only

theorem keeps_execMapWithdraw (h : Keeps s t) (q seq) : Ran s (execMapWithdraw q seq t) := by
  unfold execMapWithdraw
  repeat' with_reducible first | apply ran_next | assumption | intro _ | apply keeps_beginCmd | apply keeps_mapWithdraw

theorem keeps_fenceAsk (h : Keeps s t) (c writes f) (hf : ∀ u y0, Keeps s u → Keeps s (f u y0)) : Keeps s (fenceAsk t c writes f) := by
  unfold fenceAsk
  repeat' with_reducible
    first
    | assumption | apply hf | refine keeps_linesAsk ?_ (by assumption) | apply keeps_updCmd | apply keeps_ownDone | split | dsimp only

theorem keeps_fenceSignalNow (h : Keeps s t) (c) : Keeps s (fenceSignalNow t c) := by
  unfold fenceSignalNow
  repeat' with_reducible
    first
    | assumption | apply keeps_endCmd | apply keeps_signalRec | apply keeps_toPackage | refine keeps_fst ?_ (by assumption) | split

theorem keeps_fenceSignal (h : Keeps s t) (c) : Keeps s (fenceSignal t c) := by
  unfold fenceSignal
  repeat' with_reducible first | assumption | intro _ | apply keeps_fenceAsk | apply keeps_fenceSignalNow

theorem keeps_execFenceSignal (h : Keeps s t) (q seq) : Ran s (execFenceSignal q seq t) := by
  unfold execFenceSignal
  repeat' with_reducible first | apply ran_next | assumption | intro _ | apply keeps_beginCmd | apply keeps_fenceSignal

theorem keeps_barCmdNow (h : Keeps s t) (drop c) : Keeps s (barCmdNow drop t c) := by
  unfold barCmdNow
  repeat' with_reducible first | assumption | apply keeps_endCmd | apply keeps_barOp | refine keeps_fst ?_ (by assumption) | split

theorem keeps_barCmd (h : Keeps s t) (drop c) : Keeps s (barCmd drop t c) := by
  unfold barCmd
  repeat' with_reducible first | assumption | intro _ | apply keeps_fenceAsk | apply keeps_barCmdNow

theorem keeps_execBarArrive (h : Keeps s t) (q seq) : Ran s (execBarArrive q seq t) := by
  unfold execBarArrive
  repeat' with_reducible first | apply ran_next | assumption | intro _ | apply keeps_beginCmd | apply keeps_barCmd

theorem keeps_execBarDrop (h : Keeps s t) (q seq) : Ran s (execBarDrop q seq t) := by
  unfold execBarDrop
  repeat' with_reducible first | apply ran_next | assumption | intro _ | apply keeps_beginCmd | apply keeps_barCmd

theorem keeps_setWatch (h : Keeps s t) (i w) : Keeps s (setWatch t i w) := keeps_of_same h rfl rfl

theorem keeps_watchDisarm (h : Keeps s t) (npa) : Keeps s (watchDisarm t npa) := by
  unfold watchDisarm
  repeat' with_reducible first | assumption | apply keeps_relayLater | apply keeps_wrWord | split | dsimp only

theorem keeps_watchEnd (h : Keeps s t) (i st) : Keeps s (watchEnd t i st) := by
  unfold watchEnd
  repeat' with_reducible
    first
    | assumption | apply keeps_setWatch | apply keeps_watchDisarm | apply keeps_endCmd | apply keeps_dropRef | apply keeps_ringReply
    | split

theorem keeps_watchPoll (h : Keeps s t) (i) : Keeps s (watchPoll t i) := by
  unfold watchPoll
  repeat' with_reducible
    first
    | assumption | apply keeps_ownAsk | apply keeps_ownDone | apply keeps_setWatch | apply keeps_drawWord | apply keeps_watchEnd
    | refine keeps_snd ?_ (by assumption) | split | dsimp only

theorem keeps_watchFullNote (h : Keeps s t) (p) : Keeps s (watchFullNote t p) := by
  unfold watchFullNote
  repeat' with_reducible first | assumption | apply keeps_count | simp only [↓keeps_mk]

theorem keeps_pollStart (h : Keeps s t) (i w) : Keeps s (pollStart t i w) := by
  unfold pollStart
  repeat' with_reducible first | assumption | apply keeps_watchPoll | apply keeps_setWatch | apply keeps_raise | split

theorem keeps_watchStart (h : Keeps s t) (w) : Keeps s (watchStart t w) := by
  unfold watchStart
  repeat' with_reducible
    first
    | assumption | apply keeps_pollStart | apply keeps_setWatch | apply keeps_takeUnit | apply keeps_watchFullNote | split

theorem keeps_fenceWaitNow (h : Keeps s t) (c) : Keeps s (fenceWaitNow t c) := by
  unfold fenceWaitNow
  repeat' with_reducible first | assumption | apply keeps_endCmd | apply keeps_watchStart | split | dsimp only

theorem keeps_fenceWait (h : Keeps s t) (c) : Keeps s (fenceWait t c) := by
  unfold fenceWait
  repeat' with_reducible first | assumption | intro _ | apply keeps_fenceAsk | apply keeps_fenceWaitNow

theorem keeps_execFenceWait (h : Keeps s t) (q seq) : Ran s (execFenceWait q seq t) := by
  unfold execFenceWait
  repeat' with_reducible first | apply ran_next | assumption | intro _ | apply keeps_beginCmd | apply keeps_fenceWait

theorem keeps_watchArm (h : Keeps s t) (i) : Keeps s (watchArm t i) := by
  unfold watchArm
  repeat' with_reducible first | assumption | apply keeps_wrWord | apply keeps_setWatch | split

theorem keeps_execFenceArm (h : Keeps s t) (slot) : Ran s (execFenceArm slot t) := by
  unfold execFenceArm
  repeat' with_reducible
    first
    | apply ran_next | assumption | refine keeps_recAsk ?_ (by assumption) | apply keeps_later | apply keeps_watchArm | split

theorem keeps_watchJudge (h : Keeps s t) (i) : Keeps s (watchJudge t i) := by
  unfold watchJudge
  repeat' with_reducible first | assumption | apply keeps_watchEnd | apply keeps_setWatch | split

theorem keeps_execFenceArmResult (h : Keeps s t) (slot) : Ran s (execFenceArmResult slot t) := by
  unfold execFenceArmResult
  repeat' with_reducible first | apply ran_next | assumption | apply keeps_watchJudge

theorem keeps_noteTake (h : Keeps s t) (a v) : Keeps s (noteTake t a v) := by
  unfold noteTake
  repeat' with_reducible first | assumption | intro _ | apply keeps_watchEnd | apply keeps_foldl

theorem keeps_execFenceNotification (h : Keeps s t) : Ran s (execFenceNotification t) := by
  unfold execFenceNotification
  repeat' with_reducible first | apply ran_next | assumption | apply keeps_noteTake | simp only [↓keeps_mk] | split

theorem keeps_execFencePoll (h : Keeps s t) (slot) : Ran s (execFencePoll slot t) := by
  unfold execFencePoll
  repeat' with_reducible first | apply ran_next | assumption | apply keeps_watchPoll | split

theorem keeps_watchExpire (h : Keeps s t) (i) : Keeps s (watchExpire t i) := by
  unfold watchExpire
  repeat' with_reducible first | assumption | apply keeps_watchEnd | apply keeps_doom | split

theorem keeps_execFenceWaitTimeout (h : Keeps s t) (slot) : Ran s (execFenceWaitTimeout slot t) := by
  unfold execFenceWaitTimeout
  repeat' with_reducible first | apply ran_next | assumption | apply keeps_watchExpire

theorem keeps_barExpire (h : Keeps s t) (i) : Keeps s (barExpire t i) := by
  unfold barExpire
  repeat' with_reducible first | assumption | apply keeps_barAbandon | split

theorem keeps_barDeadline (h : Keeps s t) (slot) : Keeps s (barDeadline t slot) := by
  unfold barDeadline
  repeat' with_reducible first | assumption | refine keeps_recAsk ?_ (by assumption) | apply keeps_later | apply keeps_barExpire | split

theorem keeps_execBarrierDeadline (h : Keeps s t) (slot) : Ran s (execBarrierDeadline slot t) := by
  unfold execBarrierDeadline
  repeat' with_reducible first | apply ran_next | assumption | apply keeps_barDeadline

theorem keeps_dropOwner (h : Keeps s t) (o) : Keeps s (dropOwner t o) := by
  unfold dropOwner
  repeat' with_reducible first | assumption | intro _ | apply keeps_barAbandon | apply keeps_barDropOwner | apply keeps_foldl | split

theorem keeps_execRegistrationDrop (h : Keeps s t) : Ran s (execRegistrationDrop t) := by
  unfold execRegistrationDrop
  repeat' with_reducible
    first
    | apply ran_next | assumption | intro _ | refine keeps_recAsk ?_ (by assumption) | apply keeps_later | apply keeps_dropOwner
    | apply keeps_foldl | simp only [↓keeps_mk] | split

/-! ## MoverCmds -/

theorem keeps_moveCmd (h : Keeps s t) (xfm c) : Keeps s (moveCmd xfm t c) := by
  unfold moveCmd
  repeat' with_reducible
    first
    | assumption | apply keeps_endCmd | apply keeps_updCmd | apply keeps_updQ | apply keeps_updChan | split | dsimp only

theorem keeps_execMove (h : Keeps s t) (q seq) : Ran s (execMove q seq t) := by
  unfold execMove
  repeat' with_reducible first | apply ran_next | assumption | intro _ | apply keeps_beginCmd | apply keeps_moveCmd

theorem keeps_execMoveXfm (h : Keeps s t) (q seq) : Ran s (execMoveXfm q seq t) := by
  unfold execMoveXfm
  repeat' with_reducible first | apply ran_next | assumption | intro _ | apply keeps_beginCmd | apply keeps_moveCmd

theorem keeps_updMove (h : Keeps s t) (ch q seq g) : Keeps s (updMove t ch q seq g) := by
  unfold updMove
  repeat' with_reducible first | assumption | apply keeps_updChan

theorem keeps_descEnter (h : Keeps s t) (ch f d bad) : Keeps s (descEnter t ch f d bad) := by
  unfold descEnter
  repeat' with_reducible
    first
    | assumption | intro _ | apply keeps_updMove | apply keeps_updChan | apply keeps_chanSettle | apply keeps_count | apply keeps_raise
    | apply keeps_foldl | simp only [↓keeps_mk] | split

theorem keeps_descStart (h : Keeps s t) (ch) : Keeps s (descStart t ch) := by
  unfold descStart
  repeat' with_reducible
    first
    | assumption | apply keeps_pipeLook | apply keeps_descFault | apply keeps_ownLines | apply keeps_descEnter | apply keeps_drawWords
    | refine keeps_fst ?_ (by assumption) | refine keeps_snd ?_ (by assumption) | split | dsimp only

theorem keeps_execDescriptorStart (h : Keeps s t) (chan) : Ran s (execDescriptorStart chan t) := by
  unfold execDescriptorStart
  repeat' with_reducible first | apply ran_next | assumption | apply keeps_descStart

theorem keeps_readLines (h : Keeps s t) (ch k seg f e l) : Keeps s (readLines t ch k seg f e l) := by
  unfold readLines
  repeat' with_reducible first | assumption | intro _ | apply keeps_updSeg | apply keeps_routeReq | apply keeps_foldl

theorem keeps_readBurst (h : Keeps s t) (ch k seg f pipe l) : Keeps s (readBurst t ch k seg f pipe l) := by
  unfold readBurst
  repeat' with_reducible
    first
    | assumption | apply keeps_pipeLook | apply keeps_readLines | apply keeps_srcFault | refine keeps_fst ?_ (by assumption) | split

theorem keeps_readSeg (h : Keeps s t) (ch k seg f g) : Keeps s (readSeg t ch k seg f g) := by
  unfold readSeg
  repeat' with_reducible first | assumption | intro _ | apply keeps_chanSettle | apply keeps_readBurst | apply keeps_foldl | split

theorem keeps_stageGrant (h : Keeps s t) (ch k seg) : Keeps s (stageGrant t ch k seg) := by
  unfold stageGrant
  repeat' with_reducible first | assumption | apply keeps_readSeg | apply keeps_updSeg | split | dsimp only

theorem keeps_execSegmentStageGrant (h : Keeps s t) (chan desc seg) : Ran s (execSegmentStageGrant chan desc seg t) := by
  unfold execSegmentStageGrant
  repeat' with_reducible first | apply ran_next | assumption | apply keeps_stageGrant

theorem keeps_dstLook (h : Keeps s t) (ch k seg f pipe acc l) : Keeps s (dstLook t ch k seg f pipe acc l).1 := by
  induction l generalizing t with
  | nil => exact h
  | cons b l ih =>
    unfold dstLook
    repeat' with_reducible
      first
      | assumption | apply ih | apply keeps_pipeLook | apply keeps_dstFault | refine keeps_fst ?_ (by assumption) | split | dsimp only

theorem keeps_poisonOut (h : Keeps s t) (p n) : Keeps s (poisonOut t p n) := by
  unfold poisonOut
  repeat' with_reducible first | assumption | apply keeps_count | apply keeps_raise | simp only [↓keeps_mk] | split

theorem keeps_stashPartial (h : Keeps s t) (p n) : Keeps s (stashPartial t p n) := by
  unfold stashPartial
  repeat' with_reducible first | assumption | apply keeps_count | simp only [↓keeps_mk] | split

theorem keeps_runSeg (h : Keeps s t) (ch k seg pipe) : Keeps s (runSeg t ch k seg pipe) := by
  unfold runSeg
  repeat' with_reducible
    first
    | assumption | intro _ | apply keeps_dstLook | apply keeps_countCv | apply keeps_updSeg | apply keeps_chanSettle
    | apply keeps_stashPartial | apply keeps_poisonOut | apply keeps_routeReq | apply keeps_tenant | apply keeps_foldl
    | simp only [↓keeps_mk] | refine keeps_fst ?_ (by assumption) | split

theorem keeps_noteServed (h : Keeps s t) (x) : Keeps s (noteServed t x) := by
  unfold noteServed
  repeat' with_reducible first | assumption | simp only [↓keeps_mk]

theorem keeps_pickWeighted (h : Keeps s t) (l) : Keeps s (pickWeighted t l).1 := by
  unfold pickWeighted
  repeat' with_reducible first | assumption | intro _ | apply keeps_updChan | apply keeps_foldl | split

theorem keeps_tookChan (h : Keeps s t) (pipe p c) : Keeps s (tookChan t pipe p c) := keeps_of_same h rfl rfl

theorem keeps_nextBelow (h : Keeps s t) (pipe l) : Keeps s (nextBelow t pipe l).1 := by
  unfold nextBelow
  repeat' with_reducible first | assumption | apply keeps_tookChan | simp only [↓keeps_mk] | split

theorem keeps_pickReserved (h : Keeps s t) (pipe l) : Keeps s (pickReserved t pipe l).1 := by
  unfold pickReserved
  repeat' with_reducible
    first
    | assumption | apply keeps_nextBelow | apply keeps_useShare | refine keeps_fst ?_ (by assumption) | split | dsimp only

theorem keeps_pickChan (h : Keeps s t) (pipe) : Keeps s (pickChan t pipe).1 := by
  unfold pickChan
  repeat' with_reducible
    first
    | assumption | apply keeps_tookChan | apply keeps_pickReserved | apply keeps_pickWeighted | refine keeps_fst ?_ (by assumption)
    | split | dsimp only

theorem keeps_nextSlot (h : Keeps s t) (pipe) : Keeps s (nextSlot t pipe) := by
  unfold nextSlot
  repeat' with_reducible first | assumption | intro _ | apply keeps_foldl | simp only [↓keeps_mk]

theorem keeps_pipeTakes (h : Keeps s t) (pipe ch k seg) : Keeps s (pipeTakes t pipe ch k seg) := by
  unfold pipeTakes
  repeat' with_reducible first | assumption | simp only [↓keeps_mk] | split

theorem keeps_pipeSlot (h : Keeps s t) (pipe) : Keeps s (pipeSlot t pipe) := by
  unfold pipeSlot
  repeat' with_reducible
    first
    | assumption | apply keeps_nextSlot | apply keeps_pickChan | apply keeps_noteServed | apply keeps_pipeTakes | apply keeps_runSeg
    | simp only [↓keeps_mk] | refine keeps_fst ?_ (by assumption) | split

theorem keeps_execPipeSlot (h : Keeps s t) (pipe) : Ran s (execPipeSlot pipe t) := by
  unfold execPipeSlot
  repeat' with_reducible first | apply ran_next | assumption | apply keeps_pipeSlot | split

theorem keeps_segComplete (h : Keeps s t) (ch k seg) : Keeps s (segComplete t ch k seg) := by
  unfold segComplete
  repeat' with_reducible first | assumption | apply keeps_updSeg | apply keeps_updChan | apply keeps_count | simp only [↓keeps_mk] | split

theorem keeps_execSegmentComplete (h : Keeps s t) (chan desc seg) : Ran s (execSegmentComplete chan desc seg t) := by
  unfold execSegmentComplete
  repeat' with_reducible first | apply ran_next | assumption | apply keeps_segComplete

theorem keeps_chBit (h : Keeps s t) (old ch irq f) : Keeps s (chBit t old ch irq f) := by
  unfold chBit
  repeat' with_reducible first | assumption | apply keeps_raise | simp only [↓keeps_mk] | split

theorem keeps_halfActs (h : Keeps s t) (ch a p) : Keeps s (halfActs t ch a p) := by
  unfold halfActs
  repeat' with_reducible first | assumption | apply keeps_signalRef | apply keeps_chBit | split | dsimp only

theorem keeps_fullActs (h : Keeps s t) (ch a p) : Keeps s (fullActs t ch a p) := by
  unfold fullActs
  repeat' with_reducible first | assumption | apply keeps_signalRef | apply keeps_chBit | split | dsimp only

theorem keeps_halfPoint (h : Keeps s t) (ch) : Keeps s (halfPoint t ch) := by
  unfold halfPoint
  repeat' with_reducible first | assumption | apply keeps_updActive | apply keeps_halfActs | split

theorem keeps_execHalfPoint (h : Keeps s t) (chan) : Ran s (execHalfPoint chan t) := by
  unfold execHalfPoint
  repeat' with_reducible first | apply ran_next | assumption | apply keeps_halfPoint

theorem keeps_moveDone (h : Keeps s t) (ch f) : Keeps s (moveDone t ch f) := by
  unfold moveDone
  repeat' with_reducible first | assumption | apply keeps_updChan | apply keeps_endCmd | split | dsimp only

theorem keeps_fullPoint (h : Keeps s t) (ch) : Keeps s (fullPoint t ch) := by
  unfold fullPoint
  repeat' with_reducible
    first
    | assumption | apply keeps_halfPoint | apply keeps_fullActs | apply keeps_updChan | apply keeps_chBit | apply keeps_moveDone
    | apply keeps_updMove | split

theorem keeps_execFullPoint (h : Keeps s t) (chan) : Ran s (execFullPoint chan t) := by
  unfold execFullPoint
  repeat' with_reducible first | apply ran_next | assumption | apply keeps_fullPoint

theorem keeps_chanLose (h : Keeps s t) (ch c) : Keeps s (chanLose t ch c) := by
  unfold chanLose
  repeat' with_reducible
    first
    | assumption | intro _ | apply keeps_updChan | apply keeps_moveDone | apply keeps_chanSettle | apply keeps_foldl | split | dsimp only

theorem keeps_moverRetry (h : Keeps s t) (k) : Keeps s (moverRetry t k) := by
  unfold moverRetry
  repeat' with_reducible first | assumption | intro _ | apply keeps_updChan | apply keeps_readSeg | apply keeps_foldl | split

theorem keeps_moverXfmGone (h : Keeps s t) : Keeps s (moverXfmGone t) := by
  unfold moverXfmGone
  repeat' with_reducible first | assumption | simp only [↓keeps_mk]

theorem keeps_moverPipeGone (h : Keeps s t) (pipe) : Keeps s (moverPipeGone t pipe) := by
  unfold moverPipeGone
  repeat' with_reducible first | assumption | simp only [↓keeps_mk]

theorem keeps_chCtlPut (h : Keeps s t) (ch v) : Keeps s (chCtlPut t ch v).1 := by
  unfold chCtlPut
  repeat' with_reducible first | assumption | apply keeps_updChan | split | dsimp only

theorem keeps_execChCtlWrite (h : Keeps s t) (a v) : Ran s (execChCtlWrite a v t) := by
  unfold execChCtlWrite
  repeat' with_reducible
    first
    | apply ran_next | assumption | intro _ | apply keeps_unitWrite | apply keeps_chCtlPut | apply keeps_refuseLast
    | refine keeps_fst ?_ (by assumption) | split

theorem keeps_slotCtlSet (h : Keeps s t) (v) : Keeps s (slotCtlSet t v) := by
  unfold slotCtlSet
  repeat' with_reducible first | assumption | apply keeps_refuseLast | simp only [↓keeps_mk] | split

theorem keeps_execSlotCtlWrite (h : Keeps s t) (a v) : Ran s (execSlotCtlWrite a v t) := by
  unfold execSlotCtlWrite
  repeat' with_reducible first | apply ran_next | assumption | intro _ | apply keeps_unitWrite | apply keeps_slotCtlSet

/-! ## Tiering -/

theorem keeps_lowFreeNote (h : Keeps s t) : Keeps s (lowFreeNote t) := by
  unfold lowFreeNote
  repeat' with_reducible first | assumption | apply keeps_raise | split

theorem keeps_heatUpdate (h : Keeps s t) : Keeps s (heatUpdate t) := by
  unfold heatUpdate
  repeat' with_reducible first | assumption | apply keeps_lowFreeNote | simp only [↓keeps_mk] | split

theorem keeps_execHeatUpdate (h : Keeps s t) : Ran s (execHeatUpdate t) := by
  unfold execHeatUpdate
  repeat' with_reducible first | apply ran_next | assumption | apply keeps_heatUpdate

theorem keeps_autoChoice (h : Keeps s t) : Keeps s (autoChoice t) := by
  unfold autoChoice
  repeat' with_reducible first | assumption | simp only [↓keeps_mk] | split

theorem keeps_execAutoMoveChoice (h : Keeps s t) : Ran s (execAutoMoveChoice t) := by
  unfold execAutoMoveChoice
  repeat' with_reducible first | apply ran_next | assumption | apply keeps_autoChoice

theorem keeps_updTierMove (h : Keeps s t) (i f) : Keeps s (updTierMove t i f) := keeps_of_same h rfl rfl

theorem keeps_updTierCmd (h : Keeps s t) (q seq f) : Keeps s (updTierCmd t q seq f) := by
  unfold updTierCmd
  repeat' with_reducible first | assumption | simp only [↓keeps_mk]

theorem keeps_closeTier (h : Keeps s t) (q seq) : Keeps s (closeTier t q seq) := by
  unfold closeTier
  repeat' with_reducible first | assumption | apply keeps_endCmd | apply keeps_updCmd | simp only [↓keeps_mk] | split

theorem keeps_moveEnd (h : Keeps s t) (i good) : Keeps s (moveEnd t i good) := by
  unfold moveEnd
  repeat' with_reducible first | assumption | apply keeps_closeTier | apply keeps_updTierCmd | simp only [↓keeps_mk] | split

theorem keeps_moveSettle (h : Keeps s t) (m) : Keeps s (moveSettle t m) := by
  unfold moveSettle
  repeat' with_reducible first | assumption | simp only [↓keeps_mk] | split

theorem keeps_moveUnsettle (h : Keeps s t) (m) : Keeps s (moveUnsettle t m) := by
  unfold moveUnsettle
  repeat' with_reducible first | assumption | simp only [↓keeps_mk] | split

theorem keeps_abandon (h : Keeps s t) (i m) : Keeps s (abandon t i m) := by
  unfold abandon
  repeat' with_reducible
    first
    | assumption | apply keeps_moveSettle | apply keeps_moveUnsettle | apply keeps_raise | apply keeps_count | apply keeps_retry
    | apply keeps_moveEnd | simp only [↓keeps_mk] | split

theorem keeps_unenrolPage (h : Keeps s t) (m) : Keeps s (unenrolPage t m) := by
  unfold unenrolPage
  repeat' with_reducible first | assumption | simp only [↓keeps_mk] | split

theorem keeps_moveOk (h : Keeps s t) (i m) : Keeps s (moveOk t i m) := by
  unfold moveOk
  repeat' with_reducible
    first
    | assumption | apply keeps_moveSettle | apply keeps_count | apply keeps_retry | apply keeps_moveEnd | simp only [↓keeps_mk] | split

theorem keeps_keepLeaf (h : Keeps s t) (m v) : Keeps s (keepLeaf t m v) := by
  unfold keepLeaf
  repeat' with_reducible first | assumption | simp only [↓keeps_mk] | split

theorem keeps_rewriteLeaf (h : Keeps s t) (i m v wait done) : Keeps s (rewriteLeaf t i m v wait done) := by
  unfold rewriteLeaf
  repeat' with_reducible
    first
    | assumption | refine keeps_recAsk ?_ (by assumption) | apply keeps_updTierMove | apply keeps_ownDone | apply keeps_unenrolPage
    | apply keeps_abandon | apply keeps_keepLeaf | apply keeps_mpWrite | apply keeps_wrWord | apply keeps_wdAccept | split | dsimp only

theorem keeps_copyLine (h : Keeps s t) (src dst) : Keeps s (copyLine t src dst) := by
  unfold copyLine
  repeat' with_reducible first | assumption | apply keeps_storeLine

theorem keeps_copyNow (h : Keeps s t) (m l) : Keeps s (copyNow t m l) := by
  unfold copyNow
  repeat' with_reducible first | assumption | intro _ | apply keeps_copyLine | apply keeps_foldl

theorem keeps_copyLines (h : Keeps s t) (i m l) : Keeps s (copyLines t i m l) := by
  unfold copyLines
  repeat' with_reducible
    first
    | assumption | intro _ | apply keeps_ownAsk | apply keeps_copyNow | apply keeps_updTierMove | apply keeps_foldl

theorem keeps_copyLate {u : State} {i : Nat} {m : TierMove} (h : Keeps s t) (e : copyLate t i m = some u) : Keeps s u := by
  unfold copyLate at e
  dsimp only at e
  split at e
  · cases e
  · cases e
    exact keeps_updTierMove (keeps_foldl (keeps_copyNow h _ _) _ _ (fun u x hu => keeps_ownAsk hu _ _)) _ _

theorem keeps_putLines (h : Keeps s t) (l) : Keeps s (putLines t l) := by
  unfold putLines
  repeat' with_reducible first | assumption | intro _ | apply keeps_mpWrite | apply keeps_wrLineMasked | apply keeps_foldl

theorem keeps_writeEmber (h : Keeps s t) (m) : Keeps s (writeEmber t m) := by
  unfold writeEmber
  repeat' with_reducible first | assumption | apply keeps_countCv | apply keeps_putLines

theorem keeps_decodePage (h : Keeps s t) (m) : Keeps s (decodePage t m) := by
  unfold decodePage
  repeat' with_reducible first | assumption | intro _ | apply keeps_storeLine | apply keeps_foldl

theorem keeps_startDown {u : State} {i f : Nat} {lossy : Bool} {cmd : Option (Nat × Nat)} (h : Keeps s t) (e :
    startDown t i f lossy cmd = some u) :
    Keeps s u := by
  unfold startDown at e
  dsimp only at e
  repeat' split at e
  · cases e
  · cases e
    repeat' with_reducible first | assumption | apply keeps_rewriteLeaf | apply keeps_takeUnit | simp only [↓keeps_mk]
  · obtain ⟨v, -, rfl⟩ := Option.map_eq_some_iff.1 e
    repeat' with_reducible first | assumption | apply keeps_copyLines | apply keeps_takeUnit | simp only [↓keeps_mk]

theorem keeps_startUp {u : State} {i k : Nat} {cmd : Option (Nat × Nat)} (h : Keeps s t) (e : startUp t i k cmd = some u) : Keeps s u := by
  unfold startUp at e
  dsimp only at e
  obtain ⟨f, -, rfl⟩ := Option.map_eq_some_iff.1 e
  repeat' with_reducible
    first
    | assumption | apply keeps_rewriteLeaf | apply keeps_decodePage | apply keeps_copyLines | apply keeps_takeUnit | simp only [↓keeps_mk]
    | split

theorem keeps_startMove (h : Keeps s t) (i far k lossy cmd) : Keeps s (startMove t i far k lossy cmd).1 := by
  unfold startMove
  repeat' with_reducible
    first
    | assumption | refine keeps_startUp ?_ (by assumption) | apply keeps_lowFreeNote | apply keeps_raise
    | refine keeps_startDown ?_ (by assumption) | split | dsimp only

theorem keeps_judgePage (h : Keeps s t) (c) : Keeps s (judgePage t c).1 := by
  unfold judgePage
  repeat' with_reducible
    first
    | assumption | apply keeps_walk | apply keeps_ownAsk | apply keeps_ownDone | refine keeps_fst ?_ (by assumption) | split | dsimp only

theorem keeps_pageNext (h : Keeps s t) (c good moving) : Keeps s (pageNext t c good moving) := by
  unfold pageNext
  repeat' with_reducible first | assumption | apply keeps_updTierCmd

theorem keeps_tierNext {u : State} {i : Nat} {l : List TierCmd} (h : Keeps s t) (e : tierNext t i l = some u) : Keeps s u := by
  induction l with
  | nil => cases e
  | cons c l ih =>
    unfold tierNext at e
    repeat' split at e
    all_goals first | exact ih e | cases e
    all_goals
      repeat' with_reducible
        first
        | assumption | apply keeps_closeTier | apply keeps_pageNext | apply keeps_updTierCmd | apply keeps_judgePage
        | apply keeps_startMove | refine keeps_fst ?_ (by assumption)

theorem keeps_tierStart (h : Keeps s t) : Keeps s (tierStart t) := by
  unfold tierStart
  split
  · exact h
  · dsimp only
    split
    · next u e =>
      obtain ⟨i, -, hi⟩ := Option.bind_eq_some_iff.1 e
      exact keeps_tierNext h hi
    · repeat' with_reducible first | assumption | apply keeps_startMove | simp only [↓keeps_mk] | split

theorem keeps_execTierMoveStart (h : Keeps s t) : Ran s (execTierMoveStart t) := by
  unfold execTierMoveStart
  repeat' with_reducible first | apply ran_next | assumption | apply keeps_tierStart

theorem keeps_tierBegin (h : Keeps s t) (c) : Keeps s (tierBegin t c) := by
  unfold tierBegin
  repeat' with_reducible first | assumption | apply keeps_closeTier | simp only [↓keeps_mk]

theorem keeps_execTierMove (h : Keeps s t) (q seq) : Ran s (execTierMove q seq t) := by
  unfold execTierMove
  repeat' with_reducible first | apply ran_next | assumption | intro _ | apply keeps_beginCmd | apply keeps_tierBegin

theorem keeps_passEnd (h : Keeps s t) (i m) : Keeps s (passEnd t i m) := by
  unfold passEnd
  repeat' with_reducible
    first
    | assumption | apply keeps_rewriteLeaf | apply keeps_abandon | apply keeps_updTierMove | apply keeps_copyLines | split

theorem keeps_execCopyPassEnd (h : Keeps s t) (slot) : Ran s (execCopyPassEnd slot t) := by
  unfold execCopyPassEnd
  repeat' with_reducible
    first
    | apply ran_next | assumption | apply keeps_abandon | refine keeps_copyLate ?_ (by assumption) | apply keeps_later
    | apply keeps_passEnd | split

theorem keeps_copyLate_getD {u : State} (h : Keeps s t) (hu : Keeps s u) (i m) : Keeps s ((copyLate t i m).getD u) := by
  cases e : copyLate t i m with
  | none => exact hu
  | some v => exact keeps_copyLate h e

theorem keeps_execSwitchFinalCopy (h : Keeps s t) (i) : Ran s (execSwitchFinalCopy i t) := by
  unfold execSwitchFinalCopy
  apply ran_next
  repeat' with_reducible
    first
    | assumption | apply keeps_later | apply keeps_copyLate_getD | apply keeps_copyLines | apply keeps_abandon | apply keeps_moveOk
    | split

theorem keeps_compressStep (h : Keeps s t) (i m) : Keeps s (compressStep t i m) := by
  unfold compressStep
  repeat' with_reducible
    first
    | assumption | apply keeps_rewriteLeaf | apply keeps_writeEmber | apply keeps_moveOk | simp only [↓keeps_mk] | split

theorem keeps_execCompressStep (h : Keeps s t) (slot) : Ran s (execCompressStep slot t) := by
  unfold execCompressStep
  repeat' with_reducible
    first
    | apply ran_next | assumption | apply keeps_abandon | refine keeps_linesAsk ?_ (by assumption) | apply keeps_later
    | apply keeps_compressStep | split

theorem keeps_poolSet (h : Keeps s t) (off v) : Keeps s (poolSet t off v) := by
  unfold poolSet
  repeat' with_reducible first | assumption | apply keeps_refuseLast | simp only [↓keeps_mk] | split

theorem keeps_execPoolRegisterWrite (h : Keeps s t) (a off v) : Ran s (execPoolRegisterWrite a off v t) := by
  unfold execPoolRegisterWrite
  repeat' with_reducible first | apply ran_next | assumption | intro _ | apply keeps_unitWrite | apply keeps_poolSet | split

/-! ## Loss -/

theorem keeps_watchesLose (h : Keeps s t) (c) : Keeps s (watchesLose t c) := by
  unfold watchesLose
  repeat' with_reducible first | assumption | intro _ | apply keeps_watchEnd | apply keeps_foldl | split

theorem keeps_loseWork (h : Keeps s t) (c) : Keeps s (loseWork t c) := by
  unfold loseWork
  repeat' with_reducible
    first
    | assumption | intro _ | apply keeps_updPart | apply keeps_watchesLose | apply keeps_closeTier | apply keeps_updTierCmd
    | apply keeps_chanLose | apply keeps_burstsFail | apply keeps_releaseSlotsOf | apply keeps_foldl | simp only [↓keeps_mk]

theorem keeps_ctxLose (h : Keeps s t) (c) : Keeps s (ctxLose t c) := by
  unfold ctxLose
  repeat' with_reducible
    first
    | assumption | apply keeps_updCtx | apply keeps_loseWork | apply keeps_raise | apply keeps_tenant | apply keeps_count
    | simp only [↓keeps_mk] | split

theorem keeps_execContextLoss (h : Keeps s t) (ctx) : Ran s (execContextLoss ctx t) := by
  unfold execContextLoss
  repeat' with_reducible first | apply ran_next | assumption | apply keeps_ctxLose

theorem keeps_ctxDrained (h : Keeps s t) (c) : Keeps s (ctxDrained t c) := by
  unfold ctxDrained
  have hu : ∀ (o : Option Nat) (u : State), Keeps s u → Keeps s (o.elim u (fun i => noteSel u pLMP 0x240 i)) := by
    intro o u hu
    cases o with
    | none => exact hu
    | some i => exact keeps_noteSel hu _ _ _
  repeat' with_reducible first | assumption | apply keeps_reply | apply hu | apply keeps_updCtx | simp only [↓keeps_mk] | split

theorem keeps_execContextDrained (h : Keeps s t) (ctx) : Ran s (execContextDrained ctx t) := by
  unfold execContextDrained
  repeat' with_reducible first | apply ran_next | assumption | apply keeps_ctxDrained

/-! ## Fencing -/

theorem keeps_irqKeep (h : Keeps s t) (x1) : Keeps s (irqKeep t x1) := by
  unfold irqKeep
  repeat' with_reducible first | assumption | apply keeps_updPage | simp only [↓keeps_mk] | split

theorem keeps_stationLost (h : Keeps s t) (p) : Keeps s (stationLost t p) := by
  unfold stationLost
  repeat' with_reducible
    first
    | assumption | intro _ | apply keeps_irqKeep | apply keeps_updLink | apply keeps_answersLose | apply keeps_agentLose
    | apply keeps_reqsLose | apply keeps_burstsFail | apply keeps_raise | apply keeps_foldl | simp only [↓keeps_mk] | split

theorem keeps_fpDirty (h : Keeps s t) : Keeps s (fpDirty t) := keeps_of_same h rfl rfl

theorem keeps_portGone (h : Keeps s t) (port) : Keeps s (portGone t port) := by
  unfold portGone
  repeat' with_reducible
    first
    | assumption | intro _ | apply keeps_doom | apply keeps_burstsFail | apply keeps_foldl | simp only [↓keeps_mk]

theorem keeps_rebalLine (h : Keeps s t) (line) : Keeps s (rebalLine t line) := by
  unfold rebalLine
  repeat' with_reducible
    first
    | assumption | apply keeps_logErr | apply keeps_setDir | apply keeps_sendSnoops | apply keeps_settle | apply keeps_setTxn
    | simp only [↓keeps_mk] | refine keeps_fst ?_ (by assumption) | split

theorem keeps_rebalLines (h : Keeps s t) (sl) : Keeps s (rebalLines t sl) := by
  unfold rebalLines
  repeat' with_reducible first | assumption | intro _ | apply keeps_rebalLine | apply keeps_foldl

theorem keeps_rebalStart (h : Keeps s t) (sl) : Keeps s (rebalStart t sl) := by
  unfold rebalStart
  repeat' with_reducible
    first
    | assumption | intro _ | apply keeps_reqsLose | apply keeps_updWin | apply keeps_aluBack | apply keeps_rebalLines | apply keeps_foldl
    | simp only [↓keeps_mk] | split

theorem keeps_fenceCell (h : Keeps s t) (c) : Keeps s (fenceCell t c) := by
  unfold fenceCell
  repeat' with_reducible
    first
    | assumption | apply keeps_raise | apply keeps_rebalStart | apply keeps_portGone | apply keeps_moverPipeGone | apply keeps_casPortLost
    | apply keeps_updSpn | apply keeps_spnRetrain | apply keeps_fpDirty | simp only [↓keeps_mk] | split

theorem keeps_memPortGone (h : Keeps s t) (i) : Keeps s (memPortGone t i) := by
  unfold memPortGone
  repeat' with_reducible
    first
    | assumption | intro _ | apply keeps_updMp | apply keeps_putBackAll | apply keeps_deliverAll | apply keeps_foldl
    | simp only [↓keeps_mk]

theorem keeps_tirGone (h : Keeps s t) : Keeps s (tirGone t) := by
  unfold tirGone
  repeat' with_reducible first | assumption | intro _ | apply keeps_closeTier | apply keeps_foldl | simp only [↓keeps_mk]

theorem keeps_movGone (h : Keeps s t) : Keeps s (movGone t) := keeps_of_same h rfl rfl

theorem keeps_fencePage (h : Keeps s t) (p) : Keeps s (fencePage t p) := by
  unfold fencePage
  repeat' with_reducible
    first
    | assumption | intro _ | apply keeps_raise | apply keeps_dpFenced | apply keeps_updPage | apply keeps_stationLost
    | apply keeps_portGone | apply keeps_memPortGone | apply keeps_routesFill | apply keeps_spnDown | apply keeps_remotesEnd
    | apply keeps_moverXfmGone | apply keeps_tirGone | apply keeps_movGone | apply keeps_bootAdvance | apply keeps_fpDirty
    | apply keeps_foldl | split

theorem keeps_rasWindow (h : Keeps s t) : Keeps s (rasWindow t) := by
  unfold rasWindow
  repeat' with_reducible first | assumption | simp only [↓keeps_mk] | split

theorem keeps_stationTimeout (h : Keeps s t) (p) : Keeps s (stationTimeout t p) := by
  unfold stationTimeout
  repeat' with_reducible
    first
    | assumption | apply keeps_rasWindow | apply keeps_fencePage | apply keeps_logErr | simp only [↓keeps_mk] | split

theorem keeps_ceFence (h : Keeps s t) (k page) : Keeps s (ceFence t k page) := by
  unfold ceFence
  repeat' with_reducible first | assumption | apply keeps_fenceCell | apply keeps_fencePage | split

theorem keeps_ceReport (h : Keeps s t) (page k) : Keeps s (ceReport t page k) := by
  unfold ceReport
  repeat' with_reducible
    first
    | assumption | apply keeps_rasWindow | apply keeps_logErr | apply keeps_ceFence | simp only [↓keeps_mk] | split

theorem keeps_scrubErr (h : Keeps s t) (e) : Keeps s (scrubErr t e) := by
  unfold scrubErr
  repeat' with_reducible
    first
    | assumption | apply keeps_logErr | apply keeps_ceReport | apply keeps_fenceCell | apply keeps_fencePage | simp only [↓keeps_mk]
    | split

theorem keeps_execPatrolScrub (h : Keeps s t) (errs) : Ran s (execPatrolScrub errs t) := by
  unfold execPatrolScrub
  repeat' with_reducible first | apply ran_next | assumption | intro _ | apply keeps_scrubErr | apply keeps_foldl | split

theorem keeps_fenceCellSet (h : Keeps s t) (v) : Keeps s (fenceCellSet t v) := by
  unfold fenceCellSet
  repeat' with_reducible first | assumption | apply keeps_fenceCell | apply keeps_refuseLast | split

theorem keeps_execFenceCellWrite (h : Keeps s t) (a v) : Ran s (execFenceCellWrite a v t) := by
  unfold execFenceCellWrite
  repeat' with_reducible first | apply ran_next | assumption | intro _ | apply keeps_unitWrite | apply keeps_fenceCellSet

theorem keeps_anyNodeLine (h : Keeps s t) (line) : Keeps s (anyNodeLine t line) := by
  unfold anyNodeLine
  repeat' with_reducible first | assumption | apply keeps_storeLine | simp only [↓keeps_mk] | split

theorem keeps_keepUncached (h : Keeps s t) : Keeps s (keepUncached t) := by
  unfold keepUncached
  repeat' with_reducible
    first
    | assumption | intro _ | apply keeps_setDir | apply keeps_casTo | apply keeps_foldl | simp only [↓keeps_mk] | split

theorem keeps_homesMove (h : Keeps s t) (sl) : Keeps s (homesMove t sl) := by
  unfold homesMove
  repeat' with_reducible first | assumption | intro _ | apply keeps_casSend | apply keeps_foldl | simp only [↓keeps_mk] | split

theorem keeps_rebalEnd (h : Keeps s t) : Keeps s (rebalEnd t) := by
  unfold rebalEnd
  repeat' with_reducible
    first
    | assumption | intro _ | apply keeps_rebalLines | apply keeps_anyNodeLine | apply keeps_raise | apply keeps_fpDirty
    | apply keeps_keepUncached | apply keeps_homesMove | apply keeps_rebalStart | apply keeps_retry | apply keeps_foldl
    | simp only [↓keeps_mk] | split

theorem keeps_execRebalanceComplete (h : Keeps s t) : Ran s (execRebalanceComplete t) := by
  unfold execRebalanceComplete
  repeat' with_reducible first | apply ran_next | assumption | apply keeps_rebalEnd

theorem keeps_execLogSelWrite (h : Keeps s t) (a v) : Ran s (execLogSelWrite a v t) := by
  unfold execLogSelWrite
  repeat' with_reducible first | apply ran_next | assumption | intro _ | apply keeps_unitWrite | simp only [↓keeps_mk]

theorem keeps_snoopExpire (h : Keeps s t) (a line) : Keeps s (snoopExpire t a line) := by
  unfold snoopExpire
  repeat' with_reducible
    first
    | assumption | apply keeps_snoopGone | apply keeps_timeoutCount | apply keeps_advanceToTick | apply keeps_stationTimeout | split
    | dsimp only

theorem keeps_execSnoopTimeout (h : Keeps s t) (agent line) : Ran s (execSnoopTimeout agent line t) := by
  unfold execSnoopTimeout
  repeat' with_reducible first | apply ran_next | assumption | apply keeps_snoopExpire

theorem keeps_heldIrqs (h : Keeps s t) (h') : Keeps s (heldIrqs t h') := by
  unfold heldIrqs
  repeat' with_reducible
    first
    | assumption | intro _ | apply keeps_updPage | apply keeps_emit | apply keeps_updMb | apply keeps_foldl | split | dsimp only

theorem keeps_execStationLinkUp (h : Keeps s t) (page) : Ran s (execStationLinkUp page t) := by
  unfold execStationLinkUp
  repeat' with_reducible first | apply ran_next | assumption | apply keeps_emit | apply keeps_updLink | split

theorem keeps_linkInit (h : Keeps s t) (p credits) : Keeps s (linkInit t p credits) := by
  unfold linkInit
  repeat' with_reducible
    first
    | assumption | apply keeps_updLink | apply keeps_raise | apply keeps_bootAdvance | apply keeps_heldIrqs | split

theorem keeps_execLinkInit (h : Keeps s t) (page credits) : Ran s (execLinkInit page credits t) := by
  unfold execLinkInit
  repeat' with_reducible first | apply ran_next | assumption | apply keeps_linkInit

theorem keeps_execStationLinkDown (h : Keeps s t) (page) : Ran s (execStationLinkDown page t) := by
  unfold execStationLinkDown
  repeat' with_reducible first | apply ran_next | assumption | apply keeps_stationLost | split

theorem keeps_badHead (h : Keeps s t) (p fdi h') : Keeps s (badHead t p fdi h') := by
  unfold badHead
  repeat' with_reducible first | assumption | apply keeps_updLink | apply keeps_raise | split

theorem keeps_execFlitCreditReturn (h : Keeps s t) (page port credits) : Ran s (execFlitCreditReturn page port credits t) := by
  unfold execFlitCreditReturn
  repeat' with_reducible
    first
    | apply ran_next | assumption | intro _ | apply keeps_badHead | apply keeps_linkRelease | apply keeps_updLink | apply keeps_casRelease
    | apply keeps_foldl | simp only [↓keeps_mk] | split

theorem keeps_mpRelease (h : Keeps s t) (i n) : Keeps s (mpRelease t i n) := by
  induction n generalizing t with
  | zero => exact h
  | succ n ih =>
    unfold mpRelease
    repeat' with_reducible first | assumption | apply ih | apply keeps_emit | apply keeps_updMp | simp only [↓keeps_mk] | split

theorem keeps_execMpCreditReturn (h : Keeps s t) (port cmds lines) : Ran s (execMpCreditReturn port cmds lines t) := by
  unfold execMpCreditReturn
  repeat' with_reducible first | apply ran_next | assumption | apply keeps_updMp | apply keeps_mpRelease | split

theorem keeps_memResponse (h : Keeps s t) (i tag pois) : Keeps s (memResponse t i tag pois) := by
  unfold memResponse
  repeat' with_reducible
    first
    | assumption | apply keeps_updMp | apply keeps_deliverAll | apply keeps_count | apply keeps_raise | apply keeps_logErr | split
    | dsimp only

theorem keeps_execMemoryResponse (h : Keeps s t) (port tag poison) : Ran s (execMemoryResponse port tag poison t) := by
  unfold execMemoryResponse
  repeat' with_reducible first | apply ran_next | assumption | apply keeps_memResponse | split

theorem keeps_execMemoryReadTimeout (h : Keeps s t) (port tag) : Ran s (execMemoryReadTimeout port tag t) := by
  unfold execMemoryReadTimeout
  repeat' with_reducible
    first
    | apply ran_next | assumption | apply keeps_raise | apply keeps_advanceToTick | apply keeps_fencePage | apply keeps_logErr | split

theorem keeps_execMpReadyRise (h : Keeps s t) (port) : Ran s (execMpReadyRise port t) := by
  unfold execMpReadyRise
  repeat' with_reducible
    first
    | apply ran_next | assumption | apply keeps_bootAdvance | apply keeps_retry | apply keeps_raise | apply keeps_updMp | split
    | dsimp only

theorem keeps_execMpReadyFall (h : Keeps s t) (port) : Ran s (execMpReadyFall port t) := by
  unfold execMpReadyFall
  repeat' with_reducible first | apply ran_next | assumption | apply keeps_fencePage | apply keeps_logErr | split | dsimp only

theorem keeps_execMemWaitExpire (h : Keeps s t) : Ran s (execMemWaitExpire t) := by
  unfold execMemWaitExpire
  repeat' with_reducible
    first
    | apply ran_next | assumption | intro _ | apply keeps_bootAdvance | apply keeps_fencePage | apply keeps_foldl | simp only [↓keeps_mk]
    | split

theorem keeps_execStationBringupTimeout (h : Keeps s t) (page) : Ran s (execStationBringupTimeout page t) := by
  unfold execStationBringupTimeout
  repeat' with_reducible
    first
    | apply ran_next | assumption | apply keeps_bootAdvance | apply keeps_advanceTo | simp only [↓keeps_mk] | split

/-! ## BcnCmds -/

theorem keeps_bcnCfgSet (h : Keeps s t) (v) : Keeps s (bcnCfgSet t v).1 := by
  unfold bcnCfgSet
  repeat' with_reducible first | assumption | apply keeps_updBcn | split | dsimp only

theorem keeps_bcnPeriodSet (h : Keeps s t) (v) : Keeps s (bcnPeriodSet t v).1 := by
  unfold bcnPeriodSet
  repeat' with_reducible first | assumption | apply keeps_updBcn | split | dsimp only

theorem keeps_withLast (p r) (hr : Keeps s r.1) : Keeps s (withLast p r) := by
  unfold withLast
  repeat' with_reducible first | assumption | apply hr | apply keeps_setLast

theorem keeps_execBcnCfgWrite (h : Keeps s t) (a v) : Ran s (execBcnCfgWrite a v t) := by
  unfold execBcnCfgWrite
  repeat' with_reducible
    first
    | apply ran_next | assumption | intro _ | apply keeps_unitWrite | apply keeps_withLast | apply keeps_bcnCfgSet

theorem keeps_execBcnPeriodWrite (h : Keeps s t) (a v) : Ran s (execBcnPeriodWrite a v t) := by
  unfold execBcnPeriodWrite
  repeat' with_reducible
    first
    | apply ran_next | assumption | intro _ | apply keeps_unitWrite | apply keeps_withLast | apply keeps_bcnPeriodSet

/-! ## Tick -/

theorem keeps_cntAdd (h : Keeps s t) (i l) : Keeps s (cntAdd t i l) := by
  unfold cntAdd
  repeat' with_reducible first | assumption | apply keeps_raise | simp only [↓keeps_mk] | split

theorem keeps_publishPart (h : Keeps s t) (p) : Keeps s (publishPart t p) := by
  unfold publishPart
  repeat' with_reducible first | assumption | apply keeps_updPart

theorem keeps_publish (h : Keeps s t) : Keeps s (publish t) := by
  unfold publish
  repeat' with_reducible
    first
    | assumption | intro _ | apply keeps_publishPart | apply keeps_count | apply keeps_foldl | simp only [↓keeps_mk] | split

theorem keeps_tickPass (h : Keeps s t) : Keeps s (tickPass t) := by
  unfold tickPass
  repeat' with_reducible
    first
    | assumption | intro _ | apply keeps_publish | apply keeps_cntAdd | apply keeps_returnCredits | apply keeps_foldl
    | simp only [↓keeps_mk] | split

/-! ## Counters -/

theorem keeps_execCntValWrite (h : Keeps s t) (a idx v) : Ran s (execCntValWrite a idx v t) := by
  unfold execCntValWrite
  repeat' with_reducible first | apply ran_next | assumption | intro _ | apply keeps_unitWrite | simp only [↓keeps_mk]

theorem keeps_execCntCfgWrite (h : Keeps s t) (a idx v) : Ran s (execCntCfgWrite a idx v t) := by
  unfold execCntCfgWrite
  repeat' with_reducible
    first
    | apply ran_next | assumption | intro _ | apply keeps_unitWrite | apply keeps_refuseLast | simp only [↓keeps_mk] | split

theorem keeps_cntCtlSet (h : Keeps s t) (v) : Keeps s (cntCtlSet t v) := by
  unfold cntCtlSet
  repeat' with_reducible first | assumption | simp only [↓keeps_mk] | split

theorem keeps_execCntFreeze (h : Keeps s t) (a v) : Ran s (execCntFreeze a v t) := by
  unfold execCntFreeze
  repeat' with_reducible first | apply ran_next | assumption | intro _ | apply keeps_unitWrite | apply keeps_cntCtlSet

theorem keeps_execCntClear (h : Keeps s t) (a v) : Ran s (execCntClear a v t) := by
  unfold execCntClear
  repeat' with_reducible first | apply ran_next | assumption | intro _ | apply keeps_unitWrite | apply keeps_cntCtlSet

theorem keeps_viewWrite (h : Keeps s t) (a p f) (hf : ∀ u, Keeps s u → Keeps s (f u)) : Keeps s (viewWrite t a p f) := by
  unfold viewWrite
  repeat' with_reducible first | assumption | apply hf | apply keeps_regRsp | apply keeps_refusedAcc | split

theorem keeps_tcCfgSet (h : Keeps s t) (p i v) : Keeps s (tcCfgSet t p i v) := by
  unfold tcCfgSet
  repeat' with_reducible first | assumption | apply keeps_updPart | split | dsimp only

theorem keeps_execTcCfgWrite (h : Keeps s t) (a view idx v) : Ran s (execTcCfgWrite a view idx v t) := by
  unfold execTcCfgWrite
  repeat' with_reducible first | apply ran_next | assumption | intro _ | apply keeps_viewWrite | apply keeps_tcCfgSet

theorem keeps_execTenantPublication (h : Keeps s t) : Ran s (execTenantPublication t) := by
  unfold execTenantPublication
  repeat' with_reducible first | apply ran_next | assumption | apply keeps_publish

/-! ## MbxCmds -/

theorem keeps_mbRsp (h : Keeps s t) (w data) : Keeps s (mbRsp t w data) := by
  unfold mbRsp
  repeat' with_reducible first | assumption | apply keeps_regRsp | apply keeps_emit | split

theorem keeps_mbWrite (h : Keeps s t) (w restricted f) (hf : ∀ u, Keeps s u → Keeps s (f u)) : Keeps s (mbWrite t w restricted f) := by
  unfold mbWrite
  repeat' with_reducible first | assumption | apply hf | apply keeps_mbRsp | apply keeps_refusedAcc | split

theorem keeps_execH2sPush (h : Keeps s t) (w v) : Ran s (execH2sPush w v t) := by
  unfold execH2sPush
  repeat' with_reducible first | apply ran_next | assumption | intro _ | apply keeps_mbWrite | apply keeps_pushH2s

theorem keeps_execS2hPop (h : Keeps s t) (w) : Ran s (execS2hPop w t) := by
  unfold execS2hPop
  repeat' with_reducible
    first
    | apply ran_next | assumption | apply keeps_popS2h | apply keeps_mbRsp | apply keeps_refusedAcc | refine keeps_fst ?_ (by assumption)
    | split

theorem keeps_execMbLockWrite (h : Keeps s t) (w v) : Ran s (execMbLockWrite w v t) := by
  unfold execMbLockWrite
  repeat' with_reducible first | apply ran_next | assumption | intro _ | apply keeps_mbWrite | apply keeps_updMb

theorem keeps_execH2sDbWrite (h : Keeps s t) (w v) : Ran s (execH2sDbWrite w v t) := by
  unfold execH2sDbWrite
  repeat' with_reducible first | apply ran_next | assumption | intro _ | apply keeps_mbWrite | apply keeps_armH2s | apply keeps_updMb

theorem keeps_execS2hDbClear (h : Keeps s t) (w v) : Ran s (execS2hDbClear w v t) := by
  unfold execS2hDbClear
  repeat' with_reducible
    first
    | apply ran_next | assumption | intro _ | apply keeps_mbWrite | apply keeps_afterMbWrite | apply keeps_armS2h | apply keeps_updMb

theorem keeps_execS2hMaskWrite (h : Keeps s t) (w v) : Ran s (execS2hMaskWrite w v t) := by
  unfold execS2hMaskWrite
  repeat' with_reducible first | apply ran_next | assumption | intro _ | apply keeps_mbWrite | apply keeps_afterMbWrite | apply keeps_updMb

theorem keeps_mbCtl (h : Keeps s t) (a mb f) (hf : ∀ u, Keeps s u → Keeps s (f u)) : Keeps s (mbCtl t a mb f) := by
  unfold mbCtl
  repeat' with_reducible first | assumption | intro _ | apply hf | apply keeps_mbWrite

theorem keeps_execForceUnlock (h : Keeps s t) (a mb) : Ran s (execForceUnlock a mb t) := by
  unfold execForceUnlock
  repeat' with_reducible first | apply ran_next | assumption | intro _ | apply keeps_mbCtl | apply keeps_updMb

theorem keeps_execFlushH2s (h : Keeps s t) (a mb) : Ran s (execFlushH2s a mb t) := by
  unfold execFlushH2s
  repeat' with_reducible first | apply ran_next | assumption | intro _ | apply keeps_mbCtl | apply keeps_flushToSudric

theorem keeps_execFlushS2h (h : Keeps s t) (a mb) : Ran s (execFlushS2h a mb t) := by
  unfold execFlushS2h
  repeat' with_reducible first | apply ran_next | assumption | intro _ | apply keeps_mbCtl | apply keeps_flushToHost

theorem keeps_execReplyPush (h : Keeps s t) (mb) : Ran s (execReplyPush mb t) := by
  unfold execReplyPush
  repeat' with_reducible first | apply ran_next | assumption | apply keeps_pushReply | split

theorem keeps_execH2sTimeout (h : Keeps s t) (mb) : Ran s (execH2sTimeout mb t) := by
  unfold execH2sTimeout
  repeat' with_reducible first | apply ran_next | assumption | apply keeps_h2sExpire

theorem keeps_execS2hTimeout (h : Keeps s t) (mb) : Ran s (execS2hTimeout mb t) := by
  unfold execS2hTimeout
  repeat' with_reducible first | apply ran_next | assumption | apply keeps_s2hExpire

/-! ## Registers -/

theorem keeps_linkCfgSet (h : Keeps s t) (p v) : Keeps s (linkCfgSet t p v) := by
  unfold linkCfgSet
  repeat' with_reducible first | assumption | apply keeps_refuseLast | apply keeps_updLink | split

theorem keeps_detSet (h : Keeps s t) (off v) : Keeps s (detSet t off v) := by
  unfold detSet
  repeat' with_reducible first | assumption | apply keeps_refuseLast | simp only [↓keeps_mk] | split

theorem keeps_mbxSet (h : Keeps s t) (off v) : Keeps s (mbxSet t off v) := by
  unfold mbxSet
  repeat' with_reducible first | assumption | apply keeps_updMb | simp only [↓keeps_mk] | split

theorem keeps_mpCfgSet (h : Keeps s t) (p v) : Keeps s (mpCfgSet t p v) := by
  unfold mpCfgSet
  repeat' with_reducible first | assumption | apply keeps_refuseLast | apply keeps_updMp | split

theorem keeps_xfmSet (h : Keeps s t) (off v) : Keeps s (xfmSet t off v) := by
  unfold xfmSet
  repeat' with_reducible first | assumption | apply keeps_fpDirty | simp only [↓keeps_mk] | split

theorem keeps_plainSet (h : Keeps s t) (p off v) : Keeps s (plainSet t p off v) := by
  unfold plainSet
  repeat' with_reducible
    first
    | assumption | apply keeps_mbxSet | apply keeps_detSet | apply keeps_xfmSet | apply keeps_linkCfgSet | apply keeps_updSpn
    | apply keeps_mpCfgSet | simp only [↓keeps_mk] | split

theorem keeps_otherSlot (h : Keeps s t) (a n off size write data zeros) : Keeps s (otherSlot t a n off size write data zeros) := by
  unfold otherSlot
  repeat' with_reducible first | assumption | apply keeps_casSend | apply keeps_consume | apply keeps_regRsp | apply keeps_logProto | split

theorem keeps_blockWrite (h : Keeps s t) (a off size data) : Keeps s (blockWrite t a off size data) := by
  unfold blockWrite
  repeat' with_reducible
    first
    | assumption | intro _ | apply keeps_refusedAcc | apply keeps_regRsp | apply keeps_badSize | apply keeps_headWrite
    | apply keeps_updPage | apply keeps_unitWrite | apply keeps_plainSet | apply keeps_doorbellWrite | apply keeps_viewWrite
    | simp only [id_eq] | split

theorem keeps_execRegisterWrite (h : Keeps s t) (a off size data) : Ran s (execRegisterWrite a off size data t) := by
  unfold execRegisterWrite
  repeat' with_reducible first | apply ran_next | assumption | apply keeps_otherSlot | apply keeps_blockWrite | split

theorem keeps_pageRead (h : Keeps s t) (a p o) : Keeps s (pageRead t a p o) := by
  unfold pageRead
  repeat' with_reducible first | assumption | apply keeps_mbClear | apply keeps_regClear | apply keeps_regRsp | split

theorem keeps_blockRead (h : Keeps s t) (a off size) : Keeps s (blockRead t a off size) := by
  unfold blockRead
  repeat' with_reducible
    first
    | assumption | apply keeps_refusedAcc | apply keeps_regRsp | apply keeps_badSize | apply keeps_dpAccess | apply keeps_pageRead
    | apply keeps_dbClear | apply keeps_pvClear | split | dsimp only

theorem keeps_execReadClear (h : Keeps s t) (a off size) : Ran s (execReadClear a off size t) := by
  unfold execReadClear
  repeat' with_reducible first | apply ran_next | assumption | apply keeps_otherSlot | apply keeps_blockRead | split

theorem keeps_irqAfter (h : Keeps s t) (p) : Keeps s (irqAfter t p) := by
  unfold irqAfter
  repeat' with_reducible first | assumption | apply keeps_sendIrq | split

theorem keeps_execIrqRawClear (h : Keeps s t) (a page v) : Ran s (execIrqRawClear a page v t) := by
  unfold execIrqRawClear
  repeat' with_reducible first | apply ran_next | assumption | intro _ | apply keeps_headWrite | apply keeps_irqAfter | apply keeps_updPage

theorem keeps_execIrqEnWrite (h : Keeps s t) (a page v) : Ran s (execIrqEnWrite a page v t) := by
  unfold execIrqEnWrite
  repeat' with_reducible first | apply ran_next | assumption | intro _ | apply keeps_headWrite | apply keeps_irqAfter | apply keeps_updPage

theorem keeps_pgCtlSet (h : Keeps s t) (p v) : Keeps s (pgCtlSet t p v) := by
  unfold pgCtlSet
  repeat' with_reducible first | assumption | apply keeps_updPage | apply keeps_fencePage | split

theorem keeps_execPgCtlWrite (h : Keeps s t) (a page v) : Ran s (execPgCtlWrite a page v t) := by
  unfold execPgCtlWrite
  repeat' with_reducible first | apply ran_next | assumption | intro _ | apply keeps_headWrite | apply keeps_pgCtlSet

theorem keeps_ownSet (h : Keeps s t) (p off v) : Keeps s (ownSet t p off v) := by
  unfold ownSet
  repeat' with_reducible
    first
    | assumption | apply keeps_bcnCfgSet | apply keeps_bcnPeriodSet | apply keeps_nodeIdSet | apply keeps_memRangeSet
    | apply keeps_s2RootSet | apply keeps_spaceSet | apply keeps_chCtlPut | apply keeps_slotCtlSet | apply keeps_poolSet
    | apply keeps_plainSet | apply keeps_ctxCtlSet | apply keeps_objTblSet | apply keeps_queueRegSet | apply keeps_trainEnSet
    | refine keeps_fst ?_ (by assumption) | split

theorem keeps_overrideOne (h : Keeps s t) (p e) : Keeps s (overrideOne t p e) := by
  unfold overrideOne
  repeat' with_reducible first | assumption | apply keeps_withSel | apply keeps_updPage | apply keeps_ownSet | split | dsimp only

theorem keeps_overrideCheck (h : Keeps s t) (p) : Keeps s (overrideCheck t p) := by
  unfold overrideCheck
  repeat' with_reducible first | assumption | intro _ | apply keeps_overrideOne | apply keeps_updPage | apply keeps_foldl | split

theorem keeps_execOverrideCheck (h : Keeps s t) (page) : Ran s (execOverrideCheck page t) := by
  unfold execOverrideCheck
  repeat' with_reducible first | apply ran_next | assumption | apply keeps_overrideCheck

theorem keeps_i3cMbSet (h : Keeps s t) (off v) : Keeps s (i3cMbSet t off v) := by
  unfold i3cMbSet
  repeat' with_reducible
    first
    | assumption | apply keeps_updMb | apply keeps_pushH2s | apply keeps_armH2s | apply keeps_afterMbWrite | apply keeps_armS2h | split

theorem keeps_execI3cAccess (h : Keeps s t) (write off v) : Ran s (execI3cAccess write off v t) := by
  unfold execI3cAccess
  repeat' with_reducible first | apply ran_next | assumption | apply keeps_i3cMbSet | apply keeps_mbClear | apply keeps_emits | split

theorem keeps_deadlineExpire (h : Keeps s t) (h') : Keeps s (deadlineExpire t h') := by
  unfold deadlineExpire
  repeat' with_reducible
    first
    | assumption | apply keeps_h2sExpire | apply keeps_s2hExpire | apply keeps_demandExpire | apply keeps_barDeadline
    | apply keeps_watchExpire | apply keeps_remoteDue | split

theorem keeps_execDeadlineExpire (h : Keeps s t) (handle) : Ran s (execDeadlineExpire handle t) := by
  unfold execDeadlineExpire
  repeat' with_reducible first | apply ran_next | assumption | apply keeps_deadlineExpire

/-! ## Gate -/

theorem keeps_relaySvc (h : Keeps s t) (m seq v args) : Keeps s (relaySvc t m seq v args) := by
  unfold relaySvc
  repeat' with_reducible first | assumption | apply keeps_casSend | apply keeps_reply | split

theorem keeps_runSvc (h : Keeps s t) (m seq v args f) (hf : ∀ u, Keeps s u → Keeps s (f u)) : Keeps s (runSvc t m seq v args f) := by
  unfold runSvc
  repeat' with_reducible first | assumption | apply hf | apply keeps_overrideCheck | apply keeps_casAll | split

theorem keeps_gate (h : Keeps s t) (m seq v args f) (hf : ∀ u, Keeps s u → Keeps s (f u)) : Keeps s (gate t m seq v args f) := by
  unfold gate
  repeat' with_reducible
    first
    | assumption | intro _ | apply hf | apply keeps_oweReply | apply keeps_runSvc | apply keeps_reply | apply keeps_relaySvc
    | apply keeps_casSend | split | dsimp only

/-! ## Services -/

theorem keeps_svcVersion (h : Keeps s t) (m seq args) : Keeps s (svcVersion t m seq args) := by
  unfold svcVersion
  repeat' with_reducible first | assumption | intro _ | apply keeps_gate | apply keeps_reply | apply keeps_updMb | split | dsimp only

theorem keeps_execVersion (h : Keeps s t) (mb seq args) : Ran s (execVersion mb seq args t) := by
  unfold execVersion
  repeat' with_reducible first | apply ran_next | assumption | apply keeps_svcVersion

theorem keeps_svcOverrideLog (h : Keeps s t) (m seq args) : Keeps s (svcOverrideLog t m seq args) := by
  unfold svcOverrideLog
  repeat' with_reducible first | assumption | intro _ | apply keeps_gate | apply keeps_reply | split | dsimp only

theorem keeps_execOverrideLog (h : Keeps s t) (mb seq args) : Ran s (execOverrideLog mb seq args t) := by
  unfold execOverrideLog
  repeat' with_reducible first | apply ran_next | assumption | apply keeps_svcOverrideLog

theorem keeps_svcLastReply (h : Keeps s t) (m seq args) : Keeps s (svcLastReply t m seq args) := by
  unfold svcLastReply
  repeat' with_reducible first | assumption | intro _ | apply keeps_gate | apply keeps_reply | split

theorem keeps_execLastReply (h : Keeps s t) (mb seq args) : Ran s (execLastReply mb seq args t) := by
  unfold execLastReply
  repeat' with_reducible first | apply ran_next | assumption | apply keeps_svcLastReply

theorem keeps_beaconSet (h : Keeps s t) (src) : Keeps s (beaconSet t src) := by
  unfold beaconSet
  repeat' with_reducible first | assumption | apply keeps_bcnCfgSet | apply keeps_bcnPeriodSet | apply keeps_noteBasic

theorem keeps_svcBcnSet (h : Keeps s t) (m seq args) : Keeps s (svcBcnSet t m seq args) := by
  unfold svcBcnSet
  refine keeps_gate h _ _ _ _ _ (fun u hu => ?_)
  extract_lets ns
  split
  split
  · exact keeps_reply hu _ _ _ _ _ _
  · split
    · next v e =>
      have hv := keeps_fst (keeps_bcnCfgSet hu _) e
      split
      · next w e2 =>
        have hw := keeps_fst (keeps_bcnPeriodSet hv _) e2
        exact keeps_reply (keeps_noteBasic (keeps_noteBasic hw _ _ _ _) _ _ _ _) _ _ _ _ _ _
      · exact keeps_reply hu _ _ _ _ _ _
    · exact keeps_reply hu _ _ _ _ _ _

theorem keeps_execBcnSet (h : Keeps s t) (mb seq args) : Ran s (execBcnSet mb seq args t) := by
  unfold execBcnSet
  repeat' with_reducible first | apply ran_next | assumption | apply keeps_svcBcnSet

theorem keeps_svcCtxCreate (h : Keeps s t) (m seq args) : Keeps s (svcCtxCreate t m seq args) := by
  unfold svcCtxCreate
  repeat' with_reducible
    first
    | assumption | intro _ | apply keeps_gate | apply keeps_reply | apply keeps_takeUnit | apply keeps_noteSel | simp only [↓keeps_mk]
    | split

theorem keeps_execCtxCreate (h : Keeps s t) (mb seq args) : Ran s (execCtxCreate mb seq args t) := by
  unfold execCtxCreate
  repeat' with_reducible first | apply ran_next | assumption | apply keeps_svcCtxCreate

theorem keeps_svcCtxDestroy_ (h : Keeps s t) (m seq args) : Keeps s (svcCtxDestroy_ t m seq args) := by
  unfold svcCtxDestroy_
  repeat' with_reducible
    first
    | assumption | intro _ | apply keeps_gate | apply keeps_reply | apply keeps_updCtx | apply keeps_doom | split | dsimp only

theorem keeps_execCtxDestroy (h : Keeps s t) (mb seq args) : Ran s (execCtxDestroy mb seq args t) := by
  unfold execCtxDestroy
  repeat' with_reducible first | apply ran_next | assumption | apply keeps_svcCtxDestroy_

theorem keeps_svcSpaceGet (h : Keeps s t) (m seq args) : Keeps s (svcSpaceGet t m seq args) := by
  unfold svcSpaceGet
  repeat' with_reducible
    first
    | assumption | intro _ | apply keeps_gate | apply keeps_reply | apply keeps_takeUnit | apply keeps_noteSels | simp only [↓keeps_mk]
    | split

theorem keeps_execSpaceGet (h : Keeps s t) (mb seq args) : Ran s (execSpaceGet mb seq args t) := by
  unfold execSpaceGet
  repeat' with_reducible first | apply ran_next | assumption | apply keeps_svcSpaceGet

theorem keeps_svcSpacePut_ (h : Keeps s t) (m seq args) : Keeps s (svcSpacePut_ t m seq args) := by
  unfold svcSpacePut_
  repeat' with_reducible
    first
    | assumption | intro _ | apply keeps_gate | apply keeps_reply | apply keeps_wdAsk | simp only [↓keeps_mk] | split

theorem keeps_execSpacePut (h : Keeps s t) (mb seq args) : Ran s (execSpacePut mb seq args t) := by
  unfold execSpacePut
  repeat' with_reducible first | apply ran_next | assumption | apply keeps_svcSpacePut_

theorem keeps_svcQueueCreate (h : Keeps s t) (m seq args) : Keeps s (svcQueueCreate t m seq args) := by
  unfold svcQueueCreate
  repeat' with_reducible
    first
    | assumption | intro _ | apply keeps_gate | apply keeps_reply | apply keeps_noteSels | apply keeps_updQ | apply keeps_takeUnit | split
    | dsimp only

theorem keeps_execQueueCreate (h : Keeps s t) (mb seq args) : Ran s (execQueueCreate mb seq args t) := by
  unfold execQueueCreate
  repeat' with_reducible first | apply ran_next | assumption | apply keeps_svcQueueCreate

theorem keeps_svcQueueDestroy_ (h : Keeps s t) (m seq args) : Keeps s (svcQueueDestroy_ t m seq args) := by
  unfold svcQueueDestroy_
  repeat' with_reducible
    first
    | assumption | intro _ | apply keeps_gate | apply keeps_reply | apply keeps_queueDrained | apply keeps_noteSel | apply keeps_updQ
    | split | dsimp only

theorem keeps_execQueueDestroy (h : Keeps s t) (mb seq args) : Ran s (execQueueDestroy mb seq args t) := by
  unfold execQueueDestroy
  repeat' with_reducible first | apply ran_next | assumption | apply keeps_svcQueueDestroy_

theorem keeps_svcObjTableSet (h : Keeps s t) (m seq args) : Keeps s (svcObjTableSet t m seq args) := by
  unfold svcObjTableSet
  repeat' with_reducible
    first
    | assumption | intro _ | apply keeps_gate | apply keeps_reply | apply keeps_updPart | apply keeps_noteSels | split

theorem keeps_execObjTableSet (h : Keeps s t) (mb seq args) : Ran s (execObjTableSet mb seq args t) := by
  unfold execObjTableSet
  repeat' with_reducible first | apply ran_next | assumption | apply keeps_svcObjTableSet

theorem keeps_sudricReads (h : Keeps s t) (i m seq code reads recs f) (hf : ∀ u, Keeps s u → Keeps s (f u)) :
    Keeps s (sudricReads t i m seq code reads recs f) := by
  unfold sudricReads
  repeat' with_reducible
    first
    | assumption | apply hf | refine keeps_linesAsk ?_ (by assumption) | apply keeps_later | apply keeps_ownDone | split

theorem keeps_takeAll (h : Keeps s t) (p got l) : Keeps s (takeAll t p got l).1 := by
  induction l generalizing t got with
  | nil => exact h
  | cons i l ih =>
    unfold takeAll
    repeat' with_reducible
      first
      | assumption | intro _ | apply ih | apply keeps_objOp | apply keeps_dropRef | apply keeps_refCount | apply keeps_foldl
      | refine keeps_fst ?_ (by assumption) | split

theorem keeps_svcFaultRingSet (h : Keeps s t) (m seq args) : Keeps s (svcFaultRingSet t m seq args) := by
  unfold svcFaultRingSet
  repeat' with_reducible
    first
    | assumption | intro _ | apply keeps_gate | apply keeps_reply | apply keeps_takeAll | apply keeps_updPart | apply keeps_dropRef
    | apply keeps_foldl | refine keeps_fst ?_ (by assumption) | split | dsimp only

theorem keeps_takeFaultRingSet (h : Keeps s t) (mb seq args) : Keeps s (takeFaultRingSet t mb seq args) := by
  unfold takeFaultRingSet
  repeat' with_reducible first | assumption | intro _ | apply keeps_sudricReads | apply keeps_svcFaultRingSet

theorem keeps_execFaultRingSet (h : Keeps s t) (mb seq args) : Ran s (execFaultRingSet mb seq args t) := by
  unfold execFaultRingSet
  repeat' with_reducible first | apply ran_next | assumption | apply keeps_takeFaultRingSet

theorem keeps_svcDispatchRingSet (h : Keeps s t) (m seq args) : Keeps s (svcDispatchRingSet t m seq args) := by
  unfold svcDispatchRingSet
  repeat' with_reducible
    first
    | assumption | intro _ | apply keeps_gate | apply keeps_reply | apply keeps_takeAll | apply keeps_updPart | apply keeps_dropRef
    | apply keeps_foldl | refine keeps_fst ?_ (by assumption) | split | dsimp only

theorem keeps_takeDispatchRingSet (h : Keeps s t) (mb seq args) : Keeps s (takeDispatchRingSet t mb seq args) := by
  unfold takeDispatchRingSet
  repeat' with_reducible first | assumption | intro _ | apply keeps_sudricReads | apply keeps_svcDispatchRingSet

theorem keeps_execDispatchRingSet (h : Keeps s t) (mb seq args) : Ran s (execDispatchRingSet mb seq args t) := by
  unfold execDispatchRingSet
  repeat' with_reducible first | apply ran_next | assumption | apply keeps_takeDispatchRingSet

theorem keeps_svcResume (h : Keeps s t) (m seq args) : Keeps s (svcResume t m seq args) := by
  unfold svcResume
  repeat' with_reducible
    first
    | assumption | intro _ | apply keeps_gate | apply keeps_reply | apply keeps_tokenAbort | apply keeps_moverRetry
    | apply keeps_tokenRetry | split | dsimp only

theorem keeps_execResumeRetry (h : Keeps s t) (mb seq args) : Ran s (execResumeRetry mb seq args t) := by
  unfold execResumeRetry
  repeat' with_reducible first | apply ran_next | assumption | apply keeps_svcResume

theorem keeps_execResumeAbort (h : Keeps s t) (mb seq args) : Ran s (execResumeAbort mb seq args t) := by
  unfold execResumeAbort
  repeat' with_reducible first | apply ran_next | assumption | apply keeps_svcResume

theorem keeps_svcFenceWatch (h : Keeps s t) (m seq args) : Keeps s (svcFenceWatch t m seq args) := by
  unfold svcFenceWatch
  repeat' with_reducible
    first
    | assumption | intro _ | apply keeps_gate | apply keeps_reply | apply keeps_objOp | apply keeps_refCount | apply keeps_takeUnit
    | apply keeps_pollStart | apply keeps_setWatch | refine keeps_fst ?_ (by assumption) | split | dsimp only

theorem keeps_takeFenceWatch (h : Keeps s t) (mb seq args) : Keeps s (takeFenceWatch t mb seq args) := by
  unfold takeFenceWatch
  repeat' with_reducible first | assumption | intro _ | apply keeps_sudricReads | apply keeps_svcFenceWatch

theorem keeps_execFenceWatch (h : Keeps s t) (mb seq args) : Ran s (execFenceWatch mb seq args t) := by
  unfold execFenceWatch
  repeat' with_reducible first | apply ran_next | assumption | apply keeps_takeFenceWatch

theorem keeps_svcFenceUnwatch (h : Keeps s t) (m seq args) : Keeps s (svcFenceUnwatch t m seq args) := by
  unfold svcFenceUnwatch
  repeat' with_reducible first | assumption | intro _ | apply keeps_gate | apply keeps_reply | apply keeps_watchEnd | split | dsimp only

theorem keeps_execFenceUnwatch (h : Keeps s t) (mb seq args) : Ran s (execFenceUnwatch mb seq args t) := by
  unfold execFenceUnwatch
  repeat' with_reducible first | apply ran_next | assumption | apply keeps_svcFenceUnwatch

theorem keeps_svcChanAssign (h : Keeps s t) (m seq args) : Keeps s (svcChanAssign t m seq args) := by
  unfold svcChanAssign
  repeat' with_reducible
    first
    | assumption | intro _ | apply keeps_gate | apply keeps_chCtlPut | apply keeps_reply | apply keeps_noteSel
    | refine keeps_fst ?_ (by assumption) | split | dsimp only

theorem keeps_execChanAssign (h : Keeps s t) (mb seq args) : Ran s (execChanAssign mb seq args t) := by
  unfold execChanAssign
  repeat' with_reducible first | apply ran_next | assumption | apply keeps_svcChanAssign

theorem keeps_svcXfmLoad (h : Keeps s t) (m seq args) : Keeps s (svcXfmLoad t m seq args) := by
  unfold svcXfmLoad
  repeat' with_reducible
    first
    | assumption | intro _ | apply keeps_gate | apply keeps_reply | apply keeps_fpDirty | apply keeps_foldl | simp only [↓keeps_mk]
    | split

theorem keeps_takeXfmLoad (h : Keeps s t) (mb seq args) : Keeps s (takeXfmLoad t mb seq args) := by
  unfold takeXfmLoad
  repeat' with_reducible first | assumption | intro _ | apply keeps_sudricReads | apply keeps_svcXfmLoad

theorem keeps_execXfmLoad (h : Keeps s t) (mb seq args) : Ran s (execXfmLoad mb seq args t) := by
  unfold execXfmLoad
  repeat' with_reducible first | apply ran_next | assumption | apply keeps_takeXfmLoad

/-! ## Windows -/

theorem keeps_winClear (h : Keeps s t) (i new) : Keeps s (winClear t i new) := by
  unfold winClear
  repeat' with_reducible first | assumption | intro _ | apply keeps_openRemoteInv | apply keeps_foldl | simp only [↓keeps_mk] | split

theorem keeps_winDrained (h : Keeps s t) (i) : Keeps s (winDrained t i) := by
  unfold winDrained
  repeat' with_reducible first | assumption | intro _ | apply keeps_openRemoteInv | apply keeps_foldl | simp only [↓keeps_mk] | split

theorem keeps_execWindowDrainDone (h : Keeps s t) (w) : Ran s (execWindowDrainDone w t) := by
  unfold execWindowDrainDone
  repeat' with_reducible first | apply ran_next | assumption | apply keeps_winDrained

theorem keeps_svcCwinSet (h : Keeps s t) (m seq args) : Keeps s (svcCwinSet t m seq args) := by
  unfold svcCwinSet
  repeat' with_reducible
    first
    | assumption | intro _ | apply keeps_gate | apply keeps_reply | apply keeps_winClear | simp only [↓keeps_mk] | split

theorem keeps_execCwinSet (h : Keeps s t) (mb seq args) : Ran s (execCwinSet mb seq args t) := by
  unfold execCwinSet
  repeat' with_reducible first | apply ran_next | assumption | apply keeps_svcCwinSet

theorem keeps_svcRedOpen (h : Keeps s t) (m seq args) : Keeps s (svcRedOpen t m seq args) := by
  unfold svcRedOpen
  repeat' with_reducible
    first
    | assumption | intro _ | apply keeps_gate | apply keeps_reply | apply keeps_takeUnit | simp only [↓keeps_mk] | split

theorem keeps_takeRedOpen (h : Keeps s t) (mb seq args) : Keeps s (takeRedOpen t mb seq args) := by
  unfold takeRedOpen
  repeat' with_reducible first | assumption | intro _ | apply keeps_sudricReads | apply keeps_svcRedOpen

theorem keeps_execRedOpen (h : Keeps s t) (mb seq args) : Ran s (execRedOpen mb seq args t) := by
  unfold execRedOpen
  repeat' with_reducible first | apply ran_next | assumption | apply keeps_takeRedOpen

theorem keeps_svcRedBind (h : Keeps s t) (m seq args) : Keeps s (svcRedBind t m seq args) := by
  unfold svcRedBind
  repeat' with_reducible first | assumption | intro _ | apply keeps_gate | apply keeps_reply | simp only [↓keeps_mk] | split

theorem keeps_execRedBind (h : Keeps s t) (mb seq args) : Ran s (execRedBind mb seq args t) := by
  unfold execRedBind
  repeat' with_reducible first | apply ran_next | assumption | apply keeps_svcRedBind

theorem keeps_svcRedUnbind (h : Keeps s t) (m seq args) : Keeps s (svcRedUnbind t m seq args) := by
  unfold svcRedUnbind
  repeat' with_reducible first | assumption | intro _ | apply keeps_gate | apply keeps_reply | simp only [↓keeps_mk] | split

theorem keeps_execRedUnbind (h : Keeps s t) (mb seq args) : Ran s (execRedUnbind mb seq args t) := by
  unfold execRedUnbind
  repeat' with_reducible first | apply ran_next | assumption | apply keeps_svcRedUnbind

theorem keeps_closeSession (h : Keeps s t) (k) : Keeps s (closeSession t k) := keeps_of_same h rfl rfl

theorem keeps_svcRedClose (h : Keeps s t) (m seq args) : Keeps s (svcRedClose t m seq args) := by
  unfold svcRedClose
  repeat' with_reducible first | assumption | intro _ | apply keeps_gate | apply keeps_reply | apply keeps_closeSession | split | dsimp only

theorem keeps_execRedClose (h : Keeps s t) (mb seq args) : Ran s (execRedClose mb seq args t) := by
  unfold execRedClose
  repeat' with_reducible first | apply ran_next | assumption | apply keeps_svcRedClose

theorem keeps_enrolPage {u : State} {p obj gpa : Nat} {w : Word} (h : Keeps s t) (e : enrolPage t p obj gpa w = some u) : Keeps s u := by
  unfold enrolPage at e
  obtain ⟨x, -, rfl⟩ := Option.map_eq_some_iff.1 e
  exact keeps_of_same h rfl rfl

theorem keeps_enrolPages (h : Keeps s t) (p obj gpa w n) : Keeps s (enrolPages t p obj gpa w n).1 := by
  induction n with
  | zero => exact h
  | succ n ih =>
    unfold enrolPages
    dsimp only
    split
    · exact keeps_enrolPage ih (by assumption)
    · exact ih

theorem keeps_svcTierEnrol (h : Keeps s t) (m seq args) : Keeps s (svcTierEnrol t m seq args) := by
  unfold svcTierEnrol
  repeat' with_reducible
    first
    | assumption | intro _ | apply keeps_gate | apply keeps_reply | apply keeps_enrolPages | refine keeps_fst ?_ (by assumption) | split
    | dsimp only

theorem keeps_takeTierEnrol (h : Keeps s t) (mb seq args) : Keeps s (takeTierEnrol t mb seq args) := by
  unfold takeTierEnrol
  repeat' with_reducible first | assumption | intro _ | apply keeps_sudricReads | apply keeps_svcTierEnrol

theorem keeps_execTierEnrol (h : Keeps s t) (mb seq args) : Ran s (execTierEnrol mb seq args t) := by
  unfold execTierEnrol
  repeat' with_reducible first | apply ran_next | assumption | apply keeps_takeTierEnrol

theorem keeps_unenrolFrames (h : Keeps s t) (p id) : Keeps s (unenrolFrames t p id) := keeps_of_same h rfl rfl

theorem keeps_svcTierUnenrol (h : Keeps s t) (m seq args) : Keeps s (svcTierUnenrol t m seq args) := by
  unfold svcTierUnenrol
  repeat' with_reducible first | assumption | intro _ | apply keeps_gate | apply keeps_unenrolFrames | apply keeps_reply

theorem keeps_execTierUnenrol (h : Keeps s t) (mb seq args) : Ran s (execTierUnenrol mb seq args t) := by
  unfold execTierUnenrol
  repeat' with_reducible first | apply ran_next | assumption | apply keeps_svcTierUnenrol

theorem keeps_svcTierPolicy (h : Keeps s t) (m seq args) : Keeps s (svcTierPolicy t m seq args) := by
  unfold svcTierPolicy
  repeat' with_reducible
    first
    | assumption | intro _ | apply keeps_gate | apply keeps_reply | apply keeps_noteRegs | simp only [↓keeps_mk] | split

theorem keeps_execTierPolicy (h : Keeps s t) (mb seq args) : Ran s (execTierPolicy mb seq args t) := by
  unfold execTierPolicy
  repeat' with_reducible first | apply ran_next | assumption | apply keeps_svcTierPolicy

/-! ## Partitions -/

theorem keeps_svcPartOpen (h : Keeps s t) (m seq args) : Keeps s (svcPartOpen t m seq args) := by
  unfold svcPartOpen
  repeat' with_reducible first | assumption | intro _ | apply keeps_gate | apply keeps_reply | apply keeps_updPart | split | dsimp only

theorem keeps_execPartOpen (h : Keeps s t) (mb seq args) : Ran s (execPartOpen mb seq args t) := by
  unfold execPartOpen
  repeat' with_reducible first | apply ran_next | assumption | apply keeps_svcPartOpen

theorem keeps_svcPartSeal (h : Keeps s t) (m seq args) : Keeps s (svcPartSeal t m seq args) := by
  unfold svcPartSeal
  repeat' with_reducible
    first
    | assumption | intro _ | apply keeps_gate | apply keeps_reply | apply keeps_noteSel | apply keeps_foldl | simp only [↓keeps_mk]
    | split

theorem keeps_execPartSeal (h : Keeps s t) (mb seq args) : Ran s (execPartSeal mb seq args t) := by
  unfold execPartSeal
  repeat' with_reducible first | apply ran_next | assumption | apply keeps_svcPartSeal

theorem keeps_loseAll (h : Keeps s t) (p) : Keeps s (loseAll t p) := by
  unfold loseAll
  repeat' with_reducible first | assumption | intro _ | apply keeps_ctxLose | apply keeps_doom | apply keeps_foldl | split | dsimp only

theorem keeps_svcPartClose_ (h : Keeps s t) (m seq args) : Keeps s (svcPartClose_ t m seq args) := by
  unfold svcPartClose_
  repeat' with_reducible
    first
    | assumption | intro _ | apply keeps_gate | apply keeps_reply | apply keeps_loseAll | apply keeps_updPart | split | dsimp only

theorem keeps_execPartClose (h : Keeps s t) (mb seq args) : Ran s (execPartClose mb seq args t) := by
  unfold execPartClose
  repeat' with_reducible first | apply ran_next | assumption | apply keeps_svcPartClose_

theorem keeps_closeQueue (h : Keeps s t) (q) : Keeps s (closeQueue t q) := by
  unfold closeQueue
  repeat' with_reducible first | assumption | apply keeps_noteSel | apply keeps_updQ | apply keeps_reply | split | dsimp only

theorem keeps_closeCtx (h : Keeps s t) (i) : Keeps s (closeCtx t i) := by
  unfold closeCtx
  repeat' with_reducible
    first
    | assumption | intro _ | apply keeps_closeQueue | apply keeps_noteSel | apply keeps_reply | apply keeps_foldl | simp only [↓keeps_mk]
    | split

theorem keeps_closeRegs (h : Keeps s t) (p) : Keeps s (closeRegs t p) := by
  unfold closeRegs
  repeat' with_reducible
    first
    | assumption | intro _ | apply keeps_updPart | apply keeps_noteSels | apply keeps_closeSession | apply keeps_foldl
    | simp only [↓keeps_mk] | split

theorem keeps_snuffStart (h : Keeps s t) (p) : Keeps s (snuffStart t p) := by
  unfold snuffStart
  repeat' with_reducible
    first
    | assumption | intro _ | apply keeps_raise | apply keeps_winClear | apply keeps_foldl | simp only [↓keeps_mk] | split

theorem keeps_closeDrained (h : Keeps s t) (p) : Keeps s (closeDrained t p) := by
  unfold closeDrained
  repeat' with_reducible
    first
    | assumption | intro _ | apply keeps_closeRegs | apply keeps_closeCtx | apply keeps_snuffStart | apply keeps_updPart
    | apply keeps_foldl | split

theorem keeps_execCloseDrainDone (h : Keeps s t) (part) : Ran s (execCloseDrainDone part t) := by
  unfold execCloseDrainDone
  repeat' with_reducible first | apply ran_next | assumption | apply keeps_closeDrained

theorem keeps_purgeLines (h : Keeps s t) (mine) : Keeps s (purgeLines t mine) := by
  unfold purgeLines
  repeat' with_reducible first | assumption | intro _ | apply keeps_openPurge | apply keeps_foldl

theorem keeps_purgeEnd (h : Keeps s t) (line) : Keeps s (purgeEnd t line) := by
  unfold purgeEnd
  repeat' with_reducible
    first
    | assumption | intro _ | apply keeps_snoopExpire | apply keeps_setTxn | apply keeps_setDir | apply keeps_refuseReq | apply keeps_foldl
    | simp only [↓keeps_mk] | split

theorem keeps_scrubPart (h : Keeps s t) (base n) : Keeps s (scrubPart t base n) := keeps_memOk h rfl (MemOk_scrubPart t base n)

theorem keeps_scrubEntry (h : Keeps s t) (i e p) : Keeps s (scrubEntry t i e p) := by
  unfold scrubEntry
  repeat' with_reducible
    first
    | assumption | apply keeps_scrubPart | apply keeps_reply | apply keeps_scrubLines | simp only [↓keeps_mk] | split

theorem keeps_scrubPool (h : Keeps s t) (line n p) : Keeps s (scrubPool t line n p).1 := by
  unfold scrubPool
  repeat' with_reducible first | assumption | apply keeps_scrubPart | apply keeps_scrubLines | split | dsimp only

theorem keeps_scrubFrame (h : Keeps s t) (f p) : Keeps s (scrubFrame t f p) := by
  unfold scrubFrame
  repeat' with_reducible first | assumption | apply keeps_scrubPool | simp only [↓keeps_mk] | refine keeps_fst ?_ (by assumption) | split

theorem keeps_scrubEmber (h : Keeps s t) (u' n p) : Keeps s (scrubEmber t u' n p) := by
  unfold scrubEmber
  repeat' with_reducible
    first
    | assumption | intro _ | apply keeps_scrubPool | apply keeps_foldl | simp only [↓keeps_mk] | refine keeps_fst ?_ (by assumption)
    | split

theorem keeps_snuffWrite (h : Keeps s t) (p) : Keeps s (snuffWrite t p) := by
  unfold snuffWrite
  repeat' with_reducible
    first
    | assumption | intro _ | apply keeps_scrubEntry | apply keeps_scrubFrame | apply keeps_scrubEmber | apply keeps_foldl

theorem keeps_removalReply (h : Keeps s t) (e) : Keeps s (removalReply t e) := by
  unfold removalReply
  repeat' with_reducible first | assumption | apply keeps_reply | split

theorem keeps_scrubDone (h : Keeps s t) (held) : Keeps s (scrubDone t held) := by
  unfold scrubDone
  repeat' with_reducible first | assumption | apply keeps_raise | apply keeps_count | simp only [↓keeps_mk] | split

theorem keeps_snuffRelease (h : Keeps s t) (p) : Keeps s (snuffRelease t p) := by
  unfold snuffRelease
  repeat' with_reducible
    first
    | assumption | intro _ | apply keeps_removalReply | apply keeps_updPart | apply keeps_fpDirty | apply keeps_scrubDone
    | apply keeps_reply | apply keeps_mbReset | apply keeps_foldl | simp only [↓keeps_mk]

theorem keeps_snuffNext (h : Keeps s t) : Keeps s (snuffNext t) := by
  unfold snuffNext
  repeat' with_reducible
    first
    | assumption | intro _ | apply keeps_advanceTo | apply keeps_purgeLines | apply keeps_purgeEnd | apply keeps_snuffWrite
    | apply keeps_snuffRelease | apply keeps_foldl | simp only [↓keeps_mk] | split

theorem keeps_removalEnd (h : Keeps s t) (i e) : Keeps s (removalEnd t i e) := by
  unfold removalEnd
  repeat' with_reducible
    first
    | assumption | apply keeps_scrubPart | apply keeps_reply | apply keeps_fpDirty | apply keeps_scrubDone | apply keeps_scrubLines
    | simp only [↓keeps_mk] | split

theorem keeps_removalNext (h : Keeps s t) : Keeps s (removalNext t) := by
  unfold removalNext
  repeat' with_reducible first | assumption | apply keeps_removalEnd | apply keeps_purgeLines | simp only [↓keeps_mk] | split

theorem keeps_execSnuffPhaseEnd (h : Keeps s t) : Ran s (execSnuffPhaseEnd t) := by
  unfold execSnuffPhaseEnd
  repeat' with_reducible first | apply ran_next | assumption | apply keeps_removalNext | apply keeps_snuffNext | split

theorem keeps_removeStart (h : Keeps s t) (m seq i) : Keeps s (removeStart t m seq i) := by
  unfold removeStart
  repeat' with_reducible first | assumption | apply keeps_wdAsk | simp only [↓keeps_mk] | split

theorem keeps_svcLayoutSet_ (h : Keeps s t) (m seq args) : Keeps s (svcLayoutSet_ t m seq args) := by
  unfold svcLayoutSet_
  repeat' with_reducible
    first
    | assumption | intro _ | apply keeps_gate | apply keeps_reply | apply keeps_layoutWait | apply keeps_fpDirty | apply keeps_removeStart
    | simp only [↓keeps_mk] | split

theorem keeps_execLayoutAssign (h : Keeps s t) (mb seq args) : Ran s (execLayoutAssign mb seq args t) := by
  unfold execLayoutAssign
  repeat' with_reducible first | apply ran_next | assumption | apply keeps_svcLayoutSet_

theorem keeps_execLayoutRemove (h : Keeps s t) (mb seq args) : Ran s (execLayoutRemove mb seq args t) := by
  unfold execLayoutRemove
  repeat' with_reducible first | apply ran_next | assumption | apply keeps_svcLayoutSet_

/-! ## Attest -/

theorem keeps_attestCount (h : Keeps s t) : Keeps s (attestCount t) := by
  unfold attestCount
  repeat' with_reducible first | assumption | apply keeps_count | simp only [↓keeps_mk]

theorem keeps_putGpa (h : Keeps s t) (p gpa bs n) : Keeps s (putGpa t p gpa bs n) := by
  induction n with
  | zero => exact h
  | succ n ih =>
    unfold putGpa
    repeat' with_reducible first | assumption | apply keeps_relayWrite | split | dsimp only

theorem keeps_attestRun (h : Keeps s t) (m seq args) : Keeps s (attestRun t m seq args) := by
  unfold attestRun
  repeat' with_reducible
    first
    | assumption | apply keeps_reply | apply keeps_putGpa | apply keeps_attestCount | simp only [↓keeps_mk] | split

theorem keeps_svcAttest (h : Keeps s t) (m seq args) : Keeps s (svcAttest t m seq args) := by
  unfold svcAttest
  repeat' with_reducible first | assumption | intro _ | apply keeps_gate | apply keeps_attestRun | simp only [↓keeps_mk] | split

theorem keeps_execAttestWrite (h : Keeps s t) (mb seq args) : Ran s (execAttestWrite mb seq args t) := by
  unfold execAttestWrite
  repeat' with_reducible first | apply ran_next | assumption | apply keeps_svcAttest

theorem keeps_execAttestCapture (h : Keeps s t) (mb seq args) : Ran s (execAttestCapture mb seq args t) := by
  unfold execAttestCapture
  repeat' with_reducible first | apply ran_next | assumption | apply keeps_svcAttest

theorem keeps_execAttestPiece (h : Keeps s t) (mb seq args) : Ran s (execAttestPiece mb seq args t) := by
  unfold execAttestPiece
  repeat' with_reducible first | apply ran_next | assumption | apply keeps_svcAttest

theorem keeps_fingerprintRun (h : Keeps s t) (m seq args) : Keeps s (fingerprintRun t m seq args) := by
  unfold fingerprintRun
  repeat' with_reducible first | assumption | apply keeps_reply

theorem keeps_svcFingerprint (h : Keeps s t) (m seq args) : Keeps s (svcFingerprint t m seq args) := by
  unfold svcFingerprint
  repeat' with_reducible
    first
    | assumption | intro _ | apply keeps_gate | apply keeps_reply | apply keeps_fingerprintRun | simp only [↓keeps_mk] | split

theorem keeps_execFingerprint (h : Keeps s t) (mb seq args) : Ran s (execFingerprint mb seq args t) := by
  unfold execFingerprint
  repeat' with_reducible first | apply ran_next | assumption | apply keeps_svcFingerprint

theorem keeps_fpCompute (h : Keeps s t) : Keeps s (fpCompute t) := by
  unfold fpCompute
  repeat' with_reducible first | assumption | intro _ | apply keeps_foldl | simp only [↓keeps_mk]

theorem keeps_fpRecompute (h : Keeps s t) : Keeps s (fpRecompute t) := by
  unfold fpRecompute
  repeat' with_reducible
    first
    | assumption | intro _ | apply keeps_fpCompute | apply keeps_raise | apply keeps_attestRun | apply keeps_fingerprintRun
    | apply keeps_foldl | simp only [↓keeps_mk] | split

theorem keeps_execFingerprintRecompute (h : Keeps s t) : Ran s (execFingerprintRecompute t) := by
  unfold execFingerprintRecompute
  repeat' with_reducible first | apply ran_next | assumption | apply keeps_fpRecompute

theorem keeps_svcReserve (h : Keeps s t) (m seq args) : Keeps s (svcReserve t m seq args) := by
  unfold svcReserve
  repeat' with_reducible first | assumption | intro _ | apply keeps_gate | apply keeps_reply | simp only [↓keeps_mk] | split

theorem keeps_execReserve (h : Keeps s t) (mb seq args) : Ran s (execReserve mb seq args t) := by
  unfold execReserve
  repeat' with_reducible first | apply ran_next | assumption | apply keeps_svcReserve

theorem keeps_tellBroken (h : Keeps s t) (p res fin eff) : Keeps s (tellBroken t p res fin eff) := by
  unfold tellBroken
  repeat' with_reducible
    first
    | assumption | apply keeps_updMb | apply keeps_count | apply keeps_pushReply | apply keeps_raise | simp only [↓keeps_mk] | split

theorem keeps_closeReserv (h : Keeps s t) (fin p res) : Keeps s (closeReserv t fin p res) := by
  unfold closeReserv
  repeat' with_reducible first | assumption | apply keeps_tellBroken | simp only [↓keeps_mk] | split

theorem keeps_windowEnd (h : Keeps s t) : Keeps s (windowEnd t) := by
  unfold windowEnd
  repeat' with_reducible first | assumption | intro _ | apply keeps_closeReserv | apply keeps_foldl | simp only [↓keeps_mk] | split

theorem keeps_execReservationWindowEnd (h : Keeps s t) : Ran s (execReservationWindowEnd t) := by
  unfold execReservationWindowEnd
  repeat' with_reducible first | apply ran_next | assumption | apply keeps_windowEnd

theorem keeps_svcHealth (h : Keeps s t) (m seq args) : Keeps s (svcHealth t m seq args) := by
  unfold svcHealth
  repeat' with_reducible first | assumption | intro _ | apply keeps_gate | apply keeps_reply | simp only [↓keeps_mk]

theorem keeps_execHealth (h : Keeps s t) (mb seq args) : Ran s (execHealth mb seq args t) := by
  unfold execHealth
  repeat' with_reducible first | apply ran_next | assumption | apply keeps_svcHealth

/-! ## Det -/

theorem keeps_kindlePut (h : Keeps s t) (k parts mb) : Keeps s (kindlePut t k parts mb) := keeps_of_same h rfl rfl

theorem keeps_kindleHere (h : Keeps s t) (armed k parts) : Keeps s (kindleHere t armed k parts) := by
  unfold kindleHere
  repeat' with_reducible first | assumption | apply keeps_kindlePut | apply keeps_kindleAbort | simp only [↓keeps_mk] | split

theorem keeps_svcKindle (h : Keeps s t) (m seq args) : Keeps s (svcKindle t m seq args) := by
  unfold svcKindle
  repeat' with_reducible
    first
    | assumption | intro _ | apply keeps_gate | apply keeps_reply | apply keeps_casAll | apply keeps_kindlePut | apply keeps_kindleAbort
    | simp only [↓keeps_mk] | split

theorem keeps_execKindleArm (h : Keeps s t) (mb seq args) : Ran s (execKindleArm mb seq args t) := by
  unfold execKindleArm
  repeat' with_reducible first | apply ran_next | assumption | apply keeps_svcKindle

theorem keeps_execKindleCancel (h : Keeps s t) (mb seq args) : Ran s (execKindleCancel mb seq args t) := by
  unfold execKindleCancel
  repeat' with_reducible first | apply ran_next | assumption | apply keeps_svcKindle

theorem keeps_arbReset (h : Keeps s t) : Keeps s (arbReset t) := keeps_of_same h rfl rfl

theorem keeps_kindleRelease (h : Keeps s t) : Keeps s (kindleRelease t) := by
  unfold kindleRelease
  repeat' with_reducible
    first
    | assumption | apply keeps_advanceTo | apply keeps_arbReset | apply keeps_raise | apply keeps_reply | simp only [↓keeps_mk] | split

theorem keeps_execKindleRelease (h : Keeps s t) : Ran s (execKindleRelease t) := by
  unfold execKindleRelease
  repeat' with_reducible first | apply ran_next | assumption | apply keeps_kindleRelease

theorem keeps_lsSend (h : Keeps s t) (i o ws) : Keeps s (lsSend t i o ws) := by
  unfold lsSend
  repeat' with_reducible first | assumption | apply keeps_toPackage

theorem keeps_svcLockstepPair (h : Keeps s t) (m seq args) : Keeps s (svcLockstepPair t m seq args) := by
  unfold svcLockstepPair
  repeat' with_reducible
    first
    | assumption | intro _ | apply keeps_gate | apply keeps_reply | apply keeps_lsSend | simp only [↓keeps_mk] | split

theorem keeps_execLockstepPair (h : Keeps s t) (mb seq args) : Ran s (execLockstepPair mb seq args t) := by
  unfold execLockstepPair
  repeat' with_reducible first | apply ran_next | assumption | apply keeps_svcLockstepPair

theorem keeps_execLockstepUnpair (h : Keeps s t) (mb seq args) : Ran s (execLockstepUnpair mb seq args t) := by
  unfold execLockstepUnpair
  repeat' with_reducible first | apply ran_next | assumption | apply keeps_svcLockstepPair

theorem keeps_lsCompare (h : Keeps s t) (j) : Keeps s (lsCompare t j) := by
  unfold lsCompare
  repeat' with_reducible first | assumption | apply keeps_lsBroken | apply keeps_lsFirst | simp only [↓keeps_mk] | split

theorem keeps_lsWindow (h : Keeps s t) (units) : Keeps s (lsWindow t units) := by
  unfold lsWindow
  repeat' with_reducible
    first
    | assumption | apply keeps_advanceTo | apply keeps_lsSend | apply keeps_lsCompare | apply keeps_count | simp only [↓keeps_mk] | split

theorem keeps_execLockstepWindowEnd (h : Keeps s t) (units) : Ran s (execLockstepWindowEnd units t) := by
  unfold execLockstepWindowEnd
  repeat' with_reducible first | apply ran_next | assumption | apply keeps_lsWindow

theorem keeps_execLockstepRecordIngress (h : Keeps s t) (m) : Ran s (execLockstepRecordIngress m t) := by
  unfold execLockstepRecordIngress
  repeat' with_reducible first | apply ran_next | assumption | apply keeps_ingress

theorem keeps_detModePut (h : Keeps s t) (w) : Keeps s (detModePut t w) := by
  unfold detModePut
  repeat' with_reducible first | assumption | apply keeps_fpDirty | simp only [↓keeps_mk]

theorem keeps_detModeSet (h : Keeps s t) (v) : Keeps s (detModeSet t v) := by
  unfold detModeSet
  repeat' with_reducible first | assumption | apply keeps_refuseLast | apply keeps_casAll | apply keeps_detModePut | split | dsimp only

theorem keeps_execDetModeWrite (h : Keeps s t) (a v) : Ran s (execDetModeWrite a v t) := by
  unfold execDetModeWrite
  repeat' with_reducible first | apply ran_next | assumption | intro _ | apply keeps_unitWrite | apply keeps_detModeSet

/-! ## StartUp -/

theorem keeps_fuseLoad (h : Keeps s t) (straps fuseOk) : Keeps s (fuseLoad t straps fuseOk) := by
  unfold fuseLoad
  repeat' with_reducible first | assumption | simp only [↓keeps_mk]

theorem keeps_afresh (h : Keeps s t) : Keeps s (afresh t) := keeps_memOk h rfl (fun _ => memWf_nil)

theorem keeps_execPowerOnReset (h : Keeps s t) (straps fuseOk) : Ran s (execPowerOnReset straps fuseOk t) := by
  unfold execPowerOnReset
  repeat' with_reducible first | apply ran_next | assumption | apply keeps_fuseLoad | apply keeps_afresh

theorem keeps_blockReset (h : Keeps s t) (x ok) : Keeps s (blockReset t x ok) := keeps_of_same h rfl rfl

theorem keeps_execBlockReset (h : Keeps s t) (straps fuseOk) : Ran s (execBlockReset straps fuseOk t) := by
  unfold execBlockReset
  repeat' with_reducible first | apply ran_next | assumption | apply keeps_blockReset

theorem keeps_execResetRelease (h : Keeps s t) : Ran s (execResetRelease t) := by
  unfold execResetRelease
  repeat' with_reducible first | apply ran_next | assumption | simp only [↓keeps_mk] | split

theorem keeps_romEnd (h : Keeps s t) (badPages badCells) : Keeps s (romEnd t badPages badCells) := by
  unfold romEnd
  repeat' with_reducible
    first
    | assumption | intro _ | apply keeps_halt | apply keeps_updPage | apply keeps_foldl | simp only [↓keeps_mk] | split

theorem keeps_execRomStageEnd (h : Keeps s t) (badPages badCells) : Ran s (execRomStageEnd badPages badCells t) := by
  unfold execRomStageEnd
  repeat' with_reducible first | apply ran_next | assumption | apply keeps_romEnd

theorem keeps_unitUp (h : Keeps s t) (p) : Keeps s (unitUp t p) := by
  unfold unitUp
  repeat' with_reducible first | assumption | apply keeps_updPage | apply keeps_noteReg | apply keeps_updLink | apply keeps_updMp | split

theorem keeps_paramBeacon (h : Keeps s t) : Keeps s (paramBeacon t) := by
  unfold paramBeacon
  repeat' with_reducible first | assumption | apply keeps_beaconSet | simp only [↓keeps_mk] | split

theorem keeps_paramCascade (h : Keeps s t) : Keeps s (paramCascade t) := by
  unfold paramCascade
  repeat' with_reducible
    first
    | assumption | intro _ | apply keeps_noteSels | apply keeps_noteReg | apply keeps_foldl | simp only [↓keeps_mk] | split

theorem keeps_paramMemory (h : Keeps s t) : Keeps s (paramMemory t) := by
  unfold paramMemory
  repeat' with_reducible
    first
    | assumption | intro _ | apply keeps_paramCascade | apply keeps_noteRegs | apply keeps_foldl | simp only [↓keeps_mk] | split

theorem keeps_raiseEpochs (h : Keeps s t) : Keeps s (raiseEpochs t) := by
  unfold raiseEpochs
  repeat' with_reducible first | assumption | intro _ | apply keeps_raise | apply keeps_foldl | simp only [↓keeps_mk] | split

theorem keeps_initStage (h : Keeps s t) : Keeps s (initStage t) := by
  unfold initStage
  repeat' with_reducible
    first
    | assumption | intro _ | apply keeps_halt | apply keeps_raiseEpochs | apply keeps_paramMemory | apply keeps_paramBeacon
    | apply keeps_bootAdvance | apply keeps_unitUp | apply keeps_foldl | simp only [↓keeps_mk] | split

theorem keeps_svcImageStart (h : Keeps s t) (m seq args) : Keeps s (svcImageStart t m seq args) := by
  unfold svcImageStart
  repeat' with_reducible
    first
    | assumption | intro _ | apply keeps_gate | apply keeps_reply | apply keeps_initStage | simp only [↓keeps_mk] | split

theorem keeps_execImageStart (h : Keeps s t) (mb seq args) : Ran s (execImageStart mb seq args t) := by
  unfold execImageStart
  repeat' with_reducible first | apply ran_next | assumption | apply keeps_svcImageStart

theorem keeps_attReadyAt (h : Keeps s t) (pos leaf sect) : Keeps s (attReadyAt t pos leaf sect) := by
  unfold attReadyAt
  repeat' with_reducible first | assumption | apply keeps_fpCompute | simp only [↓keeps_mk] | split

theorem keeps_execAttestationReady (h : Keeps s t) (pos leaf sect) : Ran s (execAttestationReady pos leaf sect t) := by
  unfold execAttestationReady
  repeat' with_reducible first | apply ran_next | assumption | apply keeps_attReadyAt

theorem keeps_openHere (h : Keeps s t) : Keeps s (openHere t) := by
  unfold openHere
  repeat' with_reducible first | assumption | apply keeps_updPart | apply keeps_raise | simp only [↓keeps_mk]

theorem keeps_openRoot (h : Keeps s t) : Keeps s (openRoot t) := by
  unfold openRoot
  repeat' with_reducible first | assumption | apply keeps_casAll | apply keeps_openHere | simp only [↓keeps_mk] | split

theorem keeps_execRootPartitionOpen (h : Keeps s t) : Ran s (execRootPartitionOpen t) := by
  unfold execRootPartitionOpen
  repeat' with_reducible first | apply ran_next | assumption | apply keeps_openRoot

theorem keeps_execRstCtlWrite (h : Keeps s t) (a v) : Ran s (execRstCtlWrite a v t) := by
  unfold execRstCtlWrite
  repeat' with_reducible first | apply ran_next | assumption | intro _ | apply keeps_unitWrite | simp only [↓keeps_mk] | split

theorem keeps_unitClear (h : Keeps s t) (p) : Keeps s (unitClear t p) := by
  unfold unitClear
  have h' := keeps_updPage h p (fun q => { fence := true, expert := q.expert })
  generalize updPage t p _ = u at h'
  repeat' with_reducible
    first
    | assumption | apply keeps_fpDirty | apply keeps_routesFill | apply keeps_updMp | apply keeps_kindleAbort | simp only [↓keeps_mk]
    | split

theorem keeps_unitRst (h : Keeps s t) (v) : Keeps s (unitRst t v) := by
  unfold unitRst
  repeat' with_reducible
    first
    | assumption | apply keeps_refuseLast | apply keeps_unitClear | apply keeps_fencePage | simp only [↓keeps_mk] | split

theorem keeps_execUnitRstWrite (h : Keeps s t) (a v) : Ran s (execUnitRstWrite a v t) := by
  unfold execUnitRstWrite
  repeat' with_reducible first | apply ran_next | assumption | intro _ | apply keeps_unitWrite | apply keeps_unitRst

theorem keeps_unitRstDone (h : Keeps s t) (bistOk) : Keeps s (unitRstDone t bistOk) := by
  unfold unitRstDone
  repeat' with_reducible
    first
    | assumption | apply keeps_unitUp | apply keeps_fpDirty | apply keeps_updPage | apply keeps_noteRegs | apply keeps_spnPoll
    | apply keeps_noteReg | apply keeps_updSpn | apply keeps_raise | simp only [↓keeps_mk] | split

theorem keeps_execUnitResetDone (h : Keeps s t) (bistOk) : Ran s (execUnitResetDone bistOk t) := by
  unfold execUnitResetDone
  repeat' with_reducible first | apply ran_next | assumption | apply keeps_unitRstDone

theorem keeps_execThrottleChange (h : Keeps s t) (level) : Ran s (execThrottleChange level t) := by
  unfold execThrottleChange
  repeat' with_reducible first | apply ran_next | assumption | simp only [↓keeps_mk] | split

theorem keeps_execPowerReport (h : Keeps s t) (units) : Ran s (execPowerReport units t) := by
  unfold execPowerReport
  repeat' with_reducible first | apply ran_next | assumption | simp only [↓keeps_mk] | split

theorem keeps_execFuseProgram (h : Keeps s t) (row bit) : Ran s (execFuseProgram row bit t) := by
  unfold execFuseProgram
  repeat' with_reducible first | apply ran_next | assumption | simp only [↓keeps_mk] | split

theorem keeps_execTestScanEntry (h : Keeps s t) : Ran s (execTestScanEntry t) := by
  unfold execTestScanEntry
  apply ran_next
  split
  · exact h
  · exact keeps_of_same h rfl rfl

theorem keeps_execMemoryBistRun (h : Keeps s t) (x0) : Ran s (execMemoryBistRun x0 t) := by
  unfold execMemoryBistRun
  repeat' with_reducible first | apply ran_next | assumption

/-! ## Relay -/

theorem keeps_nextOr (h : Keeps s t) {o} (ho : Ran s o) : Keeps s (nextOr t o) := by
  unfold nextOr
  split
  · exact ho _ rfl
  · exact h

theorem keeps_pageWriteHere (h : Keeps s t) (a p o size data) : Keeps s (pageWriteHere t a p o size data) := by
  unfold pageWriteHere
  repeat' with_reducible
    first
    | apply ran_next | assumption | intro _ | apply keeps_nextOr | apply keeps_execDpWinWrite | apply keeps_execPgCtlWrite
    | apply keeps_execIrqRawClear | apply keeps_execIrqEnWrite | apply keeps_execDpAddrWrite | apply keeps_dpAccess
    | apply keeps_execRstCtlWrite | apply keeps_execUnitRstWrite | apply keeps_execBcnCfgWrite | apply keeps_execBcnPeriodWrite
    | apply keeps_execCntFreeze | apply keeps_execFenceCellWrite | apply keeps_execLogSelWrite | apply keeps_execNodeIdWrite
    | apply keeps_execDetModeWrite | apply keeps_execS2RootWrite | apply keeps_execWdGoWrite | apply keeps_execChCtlWrite
    | apply keeps_execSlotCtlWrite | apply keeps_execCtxCtlWrite | apply keeps_execTrainEnWrite | apply keeps_execQuarRelease
    | apply keeps_execCntValWrite | apply keeps_execCntCfgWrite | apply keeps_execMemRangeWrite | apply keeps_execSpaceRegisterWrite
    | apply keeps_execPoolRegisterWrite | apply keeps_execQCtlWrite | apply keeps_execObjTblWrite | split

theorem keeps_mailboxWriteHere (h : Keeps s t) (w o v) : Keeps s (mailboxWriteHere t w o v) := by
  unfold mailboxWriteHere
  repeat' with_reducible
    first
    | apply ran_next | assumption | intro _ | apply keeps_nextOr | apply keeps_execMbLockWrite | apply keeps_execH2sPush
    | apply keeps_execH2sDbWrite | apply keeps_execS2hDbClear | apply keeps_execS2hMaskWrite | apply keeps_mbCtl | apply keeps_updMb
    | apply keeps_flushToSudric | apply keeps_flushToHost | split

theorem keeps_objOpHere (h : Keeps s t) (a q v) : Keeps s (objOpHere t a q v) := by
  unfold objOpHere
  repeat' with_reducible
    first
    | apply ran_next | assumption | intro _ | apply keeps_nextOr | apply keeps_execObjOpTake | apply keeps_execObjOpDrop
    | apply keeps_doorbellWrite | apply keeps_objOpSet | split

theorem keeps_placeWriteHere (h : Keeps s t) (a off size data) : Keeps s (placeWriteHere t a off size data) := by
  unfold placeWriteHere
  repeat' with_reducible
    first
    | apply ran_next | assumption | intro _ | apply keeps_blockWrite | apply keeps_mailboxWriteHere | apply keeps_pageWriteHere
    | apply keeps_nextOr | apply keeps_execDbTailWrite | apply keeps_objOpHere | apply keeps_execTcCfgWrite | split

theorem keeps_placeReadHere (h : Keeps s t) (a off size) : Keeps s (placeReadHere t a off size) := by
  unfold placeReadHere
  repeat' with_reducible
    first
    | apply ran_next | assumption | intro _ | apply keeps_nextOr | apply keeps_execDpWinRead | apply keeps_execS2hPop
    | apply keeps_blockRead | split

theorem keeps_regHere (h : Keeps s t) (src write a off size data) : Keeps s (regHere t src write a off size data) := by
  unfold regHere
  repeat' with_reducible
    first
    | assumption | apply keeps_placeWriteHere | apply keeps_placeReadHere | apply keeps_blockWrite | apply keeps_blockRead | split
    | dsimp only

theorem keeps_regBack (h : Keeps s t) (st status data) : Keeps s (regBack t st status data) := by
  unfold regBack
  repeat' with_reducible first | assumption | apply keeps_emit | apply keeps_emits | split

theorem keeps_svcHere (h : Keeps s t) (m seq code args) : Keeps s (svcHere t m seq code args) := by
  unfold svcHere
  repeat' with_reducible
    first
    | assumption | apply keeps_svcPartOpen | apply keeps_svcPartSeal | apply keeps_svcPartClose_ | apply keeps_svcLayoutSet_
    | apply keeps_svcCtxCreate | apply keeps_svcCtxDestroy_ | apply keeps_svcSpaceGet | apply keeps_svcSpacePut_
    | apply keeps_svcObjTableSet | apply keeps_takeFaultRingSet | apply keeps_takeDispatchRingSet | apply keeps_takeRedOpen
    | apply keeps_svcRedBind | apply keeps_svcRedUnbind | apply keeps_svcRedClose | apply keeps_takeTierEnrol | apply keeps_svcTierUnenrol
    | apply keeps_svcTierPolicy | apply keeps_svcAttest | split

theorem keeps_reqHere (h : Keeps s t) (src num r) : Keeps s (reqHere t src num r) := by
  unfold reqHere
  repeat' with_reducible first | assumption | apply keeps_place | simp only [↓keeps_mk] | split

theorem keeps_snpHere (h : Keeps s t) (src agent op line dest tag) : Keeps s (snpHere t src agent op line dest tag) := by
  unfold snpHere
  repeat' with_reducible first | assumption | apply keeps_updSpn | apply keeps_emit | split

theorem keeps_loadHere (h : Keeps s t) (src x2) : Keeps s (loadHere t src x2) := by
  unfold loadHere
  repeat' with_reducible
    first
    | assumption | intro _ | apply keeps_reqHere | apply keeps_casAns | apply keeps_snpHere | apply keeps_emit | apply keeps_remSnpTake
    | apply keeps_snoopAnswer | apply keeps_snoopData | apply keeps_ackGrant | apply keeps_evict | apply keeps_stashAccept
    | apply keeps_stashDecline | apply keeps_regHere | apply keeps_regBack | apply keeps_svcHere | apply keeps_reply
    | apply keeps_nodeIdPut | apply keeps_detModePut | apply keeps_kindleHere | apply keeps_noteSels | apply keeps_openHere
    | apply keeps_beaconSet | apply keeps_spanAnswer | apply keeps_toNode | apply keeps_retry | apply keeps_stationHere
    | apply keeps_setDir | apply keeps_foldl | simp only [↓keeps_mk] | split

theorem keeps_casForward (h : Keeps s t) (port m) : Keeps s (casForward t port m) := by
  unfold casForward
  repeat' with_reducible first | assumption | apply keeps_loadHere | apply keeps_casSend | apply keeps_count | simp only [↓keeps_mk] | split

theorem keeps_execCascadeForward (h : Keeps s t) (port m) : Ran s (execCascadeForward port m t) := by
  unfold execCascadeForward
  repeat' with_reducible first | apply ran_next | assumption | apply keeps_casForward

/-! ## Requests -/

theorem keeps_refuseRequest (h : Keeps s t) (m seq svc) : Keeps s (refuseRequest t m seq svc) := by
  unfold refuseRequest
  repeat' with_reducible first | assumption | apply keeps_reply | apply keeps_oweReply

theorem keeps_runService (h : Keeps s t) (m seq svc args) : Keeps s (runService t m seq svc args) := by
  unfold runService
  repeat' with_reducible
    first
    | assumption | apply keeps_svcVersion | apply keeps_svcOverrideLog | apply keeps_svcLastReply | apply keeps_svcBcnSet
    | apply keeps_svcPartOpen | apply keeps_svcPartSeal | apply keeps_svcPartClose_ | apply keeps_svcLayoutSet_ | apply keeps_svcCtxCreate
    | apply keeps_svcCtxDestroy_ | apply keeps_svcSpaceGet | apply keeps_svcSpacePut_ | apply keeps_svcQueueCreate
    | apply keeps_svcQueueDestroy_ | apply keeps_svcObjTableSet | apply keeps_takeFaultRingSet | apply keeps_takeDispatchRingSet
    | apply keeps_svcResume | apply keeps_takeFenceWatch | apply keeps_svcFenceUnwatch | apply keeps_svcChanAssign
    | apply keeps_takeXfmLoad | apply keeps_takeRedOpen | apply keeps_svcRedBind | apply keeps_svcRedUnbind | apply keeps_svcRedClose
    | apply keeps_svcCwinSet | apply keeps_takeTierEnrol | apply keeps_svcTierUnenrol | apply keeps_svcTierPolicy | apply keeps_svcAttest
    | apply keeps_svcReserve | apply keeps_svcKindle | apply keeps_svcLockstepPair | apply keeps_svcFingerprint
    | apply keeps_svcImageStart | apply keeps_svcHealth | apply keeps_refuseRequest | split

theorem keeps_runWords (h : Keeps s t) (n m l) : Keeps s (runWords n t m l) := by
  induction n generalizing t l with
  | zero => exact h
  | succ n ih => cases l with
    | nil => exact h
    | cons w l =>
      unfold runWords
      repeat' with_reducible first | apply ih | assumption | apply keeps_refuseRequest | apply keeps_runService | split

theorem keeps_takeRequest (h : Keeps s t) (m) : Keeps s (takeRequest t m) := by
  unfold takeRequest
  repeat' with_reducible first | assumption | apply keeps_armH2s | apply keeps_updMb | apply keeps_runWords | split

theorem keeps_execRequestTake (h : Keeps s t) (mb) : Ran s (execRequestTake mb t) := by
  unfold execRequestTake
  repeat' with_reducible first | apply ran_next | assumption | apply keeps_takeRequest

/-! ## Dispatch -/

theorem keeps_exec (h : Keeps s t) (i) : Ran s (exec i t) := by
  cases i with
  | powerOnReset straps fuseOk => exact keeps_execPowerOnReset h straps fuseOk
  | blockReset straps fuseOk => exact keeps_execBlockReset h straps fuseOk
  | resetRelease => exact keeps_execResetRelease h
  | romStageEnd badPages badCells => exact keeps_execRomStageEnd h badPages badCells
  | imageStart mb seq args => exact keeps_execImageStart h mb seq args
  | cascadeLinkInit port peer gen step reaches lat => exact keeps_execCascadeLinkInit h port peer gen step reaches lat
  | cascadeFormed => exact keeps_execCascadeFormed h
  | joinDeadline => exact keeps_execJoinDeadline h
  | stationBringupTimeout page => exact keeps_execStationBringupTimeout h page
  | mpReadyRise port => exact keeps_execMpReadyRise h port
  | mpReadyFall port => exact keeps_execMpReadyFall h port
  | memWaitExpire => exact keeps_execMemWaitExpire h
  | attestationReady pos leaf sect => exact keeps_execAttestationReady h pos leaf sect
  | rootPartitionOpen => exact keeps_execRootPartitionOpen h
  | rstCtlWrite a v => exact keeps_execRstCtlWrite h a v
  | unitRstWrite a v => exact keeps_execUnitRstWrite h a v
  | unitResetDone bistOk => exact keeps_execUnitResetDone h bistOk
  | throttleChange level => exact keeps_execThrottleChange h level
  | powerReport units => exact keeps_execPowerReport h units
  | fuseProgram row bit => exact keeps_execFuseProgram h row bit
  | testScanEntry => exact keeps_execTestScanEntry h
  | memoryBistRun page => exact keeps_execMemoryBistRun h page
  | i3cAccess write off v => exact keeps_execI3cAccess h write off v
  | registerWrite a off size data => exact keeps_execRegisterWrite h a off size data
  | readClear a off size => exact keeps_execReadClear h a off size
  | pgCtlWrite a page v => exact keeps_execPgCtlWrite h a page v
  | overrideCheck page => exact keeps_execOverrideCheck h page
  | irqRawClear a page v => exact keeps_execIrqRawClear h a page v
  | irqEnWrite a page v => exact keeps_execIrqEnWrite h a page v
  | dpAddrWrite a page v => exact keeps_execDpAddrWrite h a page v
  | dpStartRead a page v => exact keeps_execDpStartRead h a page v
  | dpStartWrite a page v => exact keeps_execDpStartWrite h a page v
  | dpModeReserved a page v => exact keeps_execDpModeReserved h a page v
  | dpAbandon a page v => exact keeps_execDpAbandon h a page v
  | dpFlush a page v => exact keeps_execDpFlush h a page v
  | dpBlockFetched page => exact keeps_execDpBlockFetched h page
  | dpWinRead a page off size => exact keeps_execDpWinRead h a page off size
  | dpWinWrite a page off size data => exact keeps_execDpWinWrite h a page off size data
  | dpCommitDone page => exact keeps_execDpCommitDone h page
  | beaconPulse span at_ => exact keeps_execBeaconPulse h span at_
  | beaconWord span bytes => exact keeps_execBeaconWord h span bytes
  | resyncInterrupts => exact keeps_execResyncInterrupts h
  | beaconCoast => exact keeps_execBeaconCoast h
  | beaconDarkEntry => exact keeps_execBeaconDarkEntry h
  | beaconFreeRunTick => exact keeps_execBeaconFreeRunTick h
  | bcnCfgWrite a v => exact keeps_execBcnCfgWrite h a v
  | bcnPeriodWrite a v => exact keeps_execBcnPeriodWrite h a v
  | deadlineExpire handle => exact keeps_execDeadlineExpire h handle
  | engineRequest port r => exact keeps_execEngineRequest h port r
  | streamOpen port ctx desc => exact keeps_execStreamOpen h port ctx desc
  | streamClose port ctx streamId => exact keeps_execStreamClose h port ctx streamId
  | prefetchWalkStart => exact keeps_execPrefetchWalkStart h
  | walkStart => exact keeps_execWalkStart h
  | walkComplete slot => exact keeps_execWalkComplete h slot
  | faultRingRetry => exact keeps_execFaultRingRetry h
  | demandTimeout token => exact keeps_execDemandTimeout h token
  | burstIssue req burst => exact keeps_execBurstIssue h req burst
  | hostRequest st op r node => exact keeps_execHostRequest h st op r node
  | contextLoss ctx => exact keeps_execContextLoss h ctx
  | rdShared r => exact keeps_execRdShared h r
  | rdOwn r => exact keeps_execRdOwn h r
  | upgrade r => exact keeps_execUpgrade h r
  | rdOnce r => exact keeps_execRdOnce h r
  | wrFull r => exact keeps_execWrFull h r
  | wrPart r => exact keeps_execWrPart h r
  | wrStash r => exact keeps_execWrStash h r
  | apertureRead r => exact keeps_execApertureRead h r
  | swap r fmt => exact keeps_execSwap h r fmt
  | cas r fmt => exact keeps_execCas h r fmt
  | fetchAdd r fmt => exact keeps_execFetchAdd h r fmt
  | fetchMin r fmt => exact keeps_execFetchMin h r fmt
  | fetchMax r fmt => exact keeps_execFetchMax h r fmt
  | fetchAnd r fmt => exact keeps_execFetchAnd h r fmt
  | fetchOr r fmt => exact keeps_execFetchOr h r fmt
  | fetchXor r fmt => exact keeps_execFetchXor h r fmt
  | redAdd r fmt => exact keeps_execRedAdd h r fmt
  | redMin r fmt => exact keeps_execRedMin h r fmt
  | redMax r fmt => exact keeps_execRedMax h r fmt
  | redOrd r fmt => exact keeps_execRedOrd h r fmt
  | lockAcq r fmt => exact keeps_execLockAcq h r fmt
  | lockRel r fmt => exact keeps_execLockRel h r fmt
  | fenceSig r fmt => exact keeps_execFenceSig h r fmt
  | barrierArrival r => exact keeps_execBarrierArrival h r
  | barrierLaneDrop r => exact keeps_execBarrierLaneDrop h r
  | registrationDrop => exact keeps_execRegistrationDrop h
  | barrierDeadline slot => exact keeps_execBarrierDeadline h slot
  | fenceArm slot => exact keeps_execFenceArm h slot
  | fenceArmResult slot => exact keeps_execFenceArmResult h slot
  | fenceNotification => exact keeps_execFenceNotification h
  | fencePoll slot => exact keeps_execFencePoll h slot
  | fenceWaitTimeout slot => exact keeps_execFenceWaitTimeout h slot
  | ack agent tag line => exact keeps_execAck h agent tag line
  | wickHoldEnd line => exact keeps_execWickHoldEnd h line
  | snpRsp agent line hadCopy wbPending dirty => exact keeps_execSnpRsp h agent line hadCopy wbPending dirty
  | snpData agent line data poison dirty => exact keeps_execSnpData h agent line data poison dirty
  | snoopTimeout agent line => exact keeps_execSnoopTimeout h agent line
  | evictClean agent tag line => exact keeps_execEvictClean h agent tag line
  | evictDirty agent tag line data poison => exact keeps_execEvictDirty h agent tag line data poison
  | stashAccept agent line => exact keeps_execStashAccept h agent line
  | stashDecline agent line => exact keeps_execStashDecline h agent line
  | linkInit page credits => exact keeps_execLinkInit h page credits
  | stationLinkUp page => exact keeps_execStationLinkUp h page
  | stationLinkDown page => exact keeps_execStationLinkDown h page
  | memoryResponse port tag poison => exact keeps_execMemoryResponse h port tag poison
  | memoryReadTimeout port tag => exact keeps_execMemoryReadTimeout h port tag
  | cascadeForward port m => exact keeps_execCascadeForward h port m
  | cascadePortDown port => exact keeps_execCascadePortDown h port
  | commandFetch => exact keeps_execCommandFetch h
  | commandAccept q seq => exact keeps_execCommandAccept h q seq
  | commandDispatch q seq => exact keeps_execCommandDispatch h q seq
  | commandRetire q seq => exact keeps_execCommandRetire h q seq
  | nop q seq => exact keeps_execNop h q seq
  | move q seq => exact keeps_execMove h q seq
  | moveXfm q seq => exact keeps_execMoveXfm h q seq
  | engDispatch q seq => exact keeps_execEngDispatch h q seq
  | fenceSignal q seq => exact keeps_execFenceSignal h q seq
  | fenceWait q seq => exact keeps_execFenceWait h q seq
  | barArrive q seq => exact keeps_execBarArrive h q seq
  | barDrop q seq => exact keeps_execBarDrop h q seq
  | stepAdvance q seq => exact keeps_execStepAdvance h q seq
  | tierMove q seq => exact keeps_execTierMove h q seq
  | mapWithdraw q seq => exact keeps_execMapWithdraw h q seq
  | report q seq => exact keeps_execReport h q seq
  | wdGoWrite a v => exact keeps_execWdGoWrite h a v
  | withdrawalComplete id => exact keeps_execWithdrawalComplete h id
  | spaceRegisterWrite a off v => exact keeps_execSpaceRegisterWrite h a off v
  | s2RootWrite a v => exact keeps_execS2RootWrite h a v
  | dbTailWrite a q v => exact keeps_execDbTailWrite h a q v
  | objOpTake a q v => exact keeps_execObjOpTake h a q v
  | objOpDrop a q v => exact keeps_execObjOpDrop h a q v
  | objectRelease part obj => exact keeps_execObjectRelease h part obj
  | releaseRingScan part => exact keeps_execReleaseRingScan h part
  | qCtlWrite a off v => exact keeps_execQCtlWrite h a off v
  | ctxCtlWrite a v => exact keeps_execCtxCtlWrite h a v
  | objTblWrite a off v => exact keeps_execObjTblWrite h a off v
  | contextDrained ctx => exact keeps_execContextDrained h ctx
  | descriptorStart chan => exact keeps_execDescriptorStart h chan
  | segmentStageGrant chan desc seg => exact keeps_execSegmentStageGrant h chan desc seg
  | pipeSlot pipe => exact keeps_execPipeSlot h pipe
  | segmentComplete chan desc seg => exact keeps_execSegmentComplete h chan desc seg
  | halfPoint chan => exact keeps_execHalfPoint h chan
  | fullPoint chan => exact keeps_execFullPoint h chan
  | chCtlWrite a v => exact keeps_execChCtlWrite h a v
  | slotCtlWrite a v => exact keeps_execSlotCtlWrite h a v
  | reductionGraceExpire sess line win => exact keeps_execReductionGraceExpire h sess line win
  | reductionWindowDone sess win => exact keeps_execReductionWindowDone h sess win
  | heatUpdate => exact keeps_execHeatUpdate h
  | autoMoveChoice => exact keeps_execAutoMoveChoice h
  | tierMoveStart => exact keeps_execTierMoveStart h
  | copyPassEnd slot => exact keeps_execCopyPassEnd h slot
  | switchFinalCopy slot => exact keeps_execSwitchFinalCopy h slot
  | compressStep slot => exact keeps_execCompressStep h slot
  | poolRegisterWrite a off v => exact keeps_execPoolRegisterWrite h a off v
  | h2sPush w v => exact keeps_execH2sPush h w v
  | s2hPop w => exact keeps_execS2hPop h w
  | mbLockWrite w v => exact keeps_execMbLockWrite h w v
  | h2sDbWrite w v => exact keeps_execH2sDbWrite h w v
  | s2hDbClear w v => exact keeps_execS2hDbClear h w v
  | s2hMaskWrite w v => exact keeps_execS2hMaskWrite h w v
  | forceUnlock a mb => exact keeps_execForceUnlock h a mb
  | flushH2s a mb => exact keeps_execFlushH2s h a mb
  | flushS2h a mb => exact keeps_execFlushS2h h a mb
  | requestTake mb => exact keeps_execRequestTake h mb
  | replyPush mb => exact keeps_execReplyPush h mb
  | h2sTimeout mb => exact keeps_execH2sTimeout h mb
  | s2hTimeout mb => exact keeps_execS2hTimeout h mb
  | version mb seq args => exact keeps_execVersion h mb seq args
  | overrideLog mb seq args => exact keeps_execOverrideLog h mb seq args
  | lastReply mb seq args => exact keeps_execLastReply h mb seq args
  | bcnSet mb seq args => exact keeps_execBcnSet h mb seq args
  | partOpen mb seq args => exact keeps_execPartOpen h mb seq args
  | partSeal mb seq args => exact keeps_execPartSeal h mb seq args
  | partClose mb seq args => exact keeps_execPartClose h mb seq args
  | closeDrainDone part => exact keeps_execCloseDrainDone h part
  | snuffPhaseEnd => exact keeps_execSnuffPhaseEnd h
  | layoutAssign mb seq args => exact keeps_execLayoutAssign h mb seq args
  | layoutRemove mb seq args => exact keeps_execLayoutRemove h mb seq args
  | ctxCreate mb seq args => exact keeps_execCtxCreate h mb seq args
  | ctxDestroy mb seq args => exact keeps_execCtxDestroy h mb seq args
  | spaceGet mb seq args => exact keeps_execSpaceGet h mb seq args
  | spacePut mb seq args => exact keeps_execSpacePut h mb seq args
  | queueCreate mb seq args => exact keeps_execQueueCreate h mb seq args
  | queueDestroy mb seq args => exact keeps_execQueueDestroy h mb seq args
  | objTableSet mb seq args => exact keeps_execObjTableSet h mb seq args
  | faultRingSet mb seq args => exact keeps_execFaultRingSet h mb seq args
  | dispatchRingSet mb seq args => exact keeps_execDispatchRingSet h mb seq args
  | resumeRetry mb seq args => exact keeps_execResumeRetry h mb seq args
  | resumeAbort mb seq args => exact keeps_execResumeAbort h mb seq args
  | fenceWatch mb seq args => exact keeps_execFenceWatch h mb seq args
  | fenceUnwatch mb seq args => exact keeps_execFenceUnwatch h mb seq args
  | chanAssign mb seq args => exact keeps_execChanAssign h mb seq args
  | xfmLoad mb seq args => exact keeps_execXfmLoad h mb seq args
  | redOpen mb seq args => exact keeps_execRedOpen h mb seq args
  | redBind mb seq args => exact keeps_execRedBind h mb seq args
  | redUnbind mb seq args => exact keeps_execRedUnbind h mb seq args
  | redClose mb seq args => exact keeps_execRedClose h mb seq args
  | cwinSet mb seq args => exact keeps_execCwinSet h mb seq args
  | windowDrainDone w => exact keeps_execWindowDrainDone h w
  | tierEnrol mb seq args => exact keeps_execTierEnrol h mb seq args
  | tierUnenrol mb seq args => exact keeps_execTierUnenrol h mb seq args
  | tierPolicy mb seq args => exact keeps_execTierPolicy h mb seq args
  | attestWrite mb seq args => exact keeps_execAttestWrite h mb seq args
  | attestCapture mb seq args => exact keeps_execAttestCapture h mb seq args
  | attestPiece mb seq args => exact keeps_execAttestPiece h mb seq args
  | reserve mb seq args => exact keeps_execReserve h mb seq args
  | kindleArm mb seq args => exact keeps_execKindleArm h mb seq args
  | kindleCancel mb seq args => exact keeps_execKindleCancel h mb seq args
  | kindleRelease => exact keeps_execKindleRelease h
  | lockstepPair mb seq args => exact keeps_execLockstepPair h mb seq args
  | lockstepUnpair mb seq args => exact keeps_execLockstepUnpair h mb seq args
  | lockstepWindowEnd units => exact keeps_execLockstepWindowEnd h units
  | lockstepRecordIngress m => exact keeps_execLockstepRecordIngress h m
  | fingerprint mb seq args => exact keeps_execFingerprint h mb seq args
  | fingerprintRecompute => exact keeps_execFingerprintRecompute h
  | detModeWrite a v => exact keeps_execDetModeWrite h a v
  | health mb seq args => exact keeps_execHealth h mb seq args
  | nodeIdWrite a v => exact keeps_execNodeIdWrite h a v
  | memRangeWrite a off v => exact keeps_execMemRangeWrite h a off v
  | spanRouteSwitch entry => exact keeps_execSpanRouteSwitch h entry
  | laneLock lanes timeout => exact keeps_execLaneLock h lanes timeout
  | markerReceive lane m => exact keeps_execMarkerReceive h lane m
  | hello x => exact keeps_execHello h x
  | cert chain => exact keeps_execCert h chain
  | keyx nonce point => exact keeps_execKeyx h nonce point
  | finish sigOk => exact keeps_execFinish h sigOk
  | calReq hold => exact keeps_execCalReq h hold
  | calRsp hold t4 => exact keeps_execCalRsp h hold t4
  | calTimer t1 => exact keeps_execCalTimer h t1
  | trainingTimeout => exact keeps_execTrainingTimeout h
  | backoffExpire => exact keeps_execBackoffExpire h
  | flitReceive words flit msgs => exact keeps_execFlitReceive h words flit msgs
  | spanAck flit => exact keeps_execSpanAck h flit
  | spanNak flit => exact keeps_execSpanNak h flit
  | spanCredit credits => exact keeps_execSpanCredit h credits
  | cricket count flit => exact keeps_execCricket h count flit
  | cricketTimer => exact keeps_execCricketTimer h
  | cricketLoss => exact keeps_execCricketLoss h
  | beacon w txOff arrival => exact keeps_execBeacon h w txOff arrival
  | quarNotice => exact keeps_execQuarNotice h
  | quarRelease a v => exact keeps_execQuarRelease h a v
  | trainEnWrite a v => exact keeps_execTrainEnWrite h a v
  | spanIngressRequest m => exact keeps_execSpanIngressRequest h m
  | remoteResponse tracker kind status data poison => exact keeps_execRemoteResponse h tracker kind status data poison
  | remoteDeadline tracker => exact keeps_execRemoteDeadline h tracker
  | remoteSnoop node line op => exact keeps_execRemoteSnoop h node line op
  | reservationWindowEnd => exact keeps_execReservationWindowEnd h
  | tenantPublication => exact keeps_execTenantPublication h
  | tcCfgWrite a view idx v => exact keeps_execTcCfgWrite h a view idx v
  | cntValWrite a idx v => exact keeps_execCntValWrite h a idx v
  | cntCfgWrite a idx v => exact keeps_execCntCfgWrite h a idx v
  | cntFreeze a v => exact keeps_execCntFreeze h a v
  | cntClear a v => exact keeps_execCntClear h a v
  | patrolScrub errs => exact keeps_execPatrolScrub h errs
  | fenceCellWrite a v => exact keeps_execFenceCellWrite h a v
  | rebalanceComplete => exact keeps_execRebalanceComplete h
  | logSelWrite a v => exact keeps_execLogSelWrite h a v
  | resyncWindowClose => exact keeps_execResyncWindowClose h
  | mpCreditReturn port cmds lines => exact keeps_execMpCreditReturn h port cmds lines
  | flitCreditReturn page port credits => exact keeps_execFlitCreditReturn h page port credits

/-! ## Order -/

theorem keeps_placeOwn (h : Keeps s t) : Keeps s (placeOwn t) := by
  unfold placeOwn
  repeat' with_reducible
    first
    | assumption | intro _ | apply keeps_wdNextAsk | apply keeps_ingressDrain | apply keeps_objTries | apply keeps_announceAll
    | apply keeps_place | apply keeps_retry | apply keeps_foldl | simp only [↓keeps_mk] | split

end Sys2Proof.Machine
end

section
/-!
# Steps: what stops one, and what every one keeps (R118)
-/
namespace Sys2Proof.Machine
open Sys2Proof

variable {s t : State}

/-- Settles O6. -/
theorem queueUntouched : Obligations.QueueUntouched := fun c _ t h => (keeps_exec (Keeps.refl _) c t h).1

/-- The events of a tick are put in the queue, and memory stays. -/
theorem memOk_nextTick (s : State) (h : MemOk s) : MemOk (nextTick s) := by
  have ht : MemOk (placeOwn (tickPass s)) := (keeps_placeOwn (keeps_tickPass (Keeps.refl s))).2 h
  unfold nextTick
  split
  · exact h
  · split
    · exact h
    · dsimp only
      split
      · exact ht
      · exact ht

/-- Settles O4: every command keeps memory in its canonical form, and so does the next event tick. -/
theorem memoryCanonical : Obligations.MemoryCanonical := by
  intro s t h hs
  unfold step at hs
  split at hs
  · cases hs
    exact memOk_nextTick s h
  · exact (keeps_exec (Keeps.refl _) _ t hs).2 h

/-- Settles O1. -/
theorem stepRunsFront : Obligations.StepRunsFront := fun _ _ _ => rfl

/-- Settles O5. -/
theorem resetMemory : Obligations.ResetMemory := ⟨memWf_nil, fun _ => rfl⟩

/-- A command that brings a request to a home is served there under its own line. -/
theorem exec_homeReq {c : Instr} {r : HomeReq} (s : State) (h : homeReqOf c = some r) : ∃ q, q.line = r.line ∧ exec c s = atHome q s := by
  cases c with
  | barrierArrival x => cases h; exact ⟨barrierReq r false, rfl, rfl⟩
  | barrierLaneDrop x => cases h; exact ⟨barrierReq r true, rfl, rfl⟩
  | _ => cases h <;> refine ⟨_, ?_, rfl⟩ <;> rfl

theorem execBeaconPulse_completes (span : Bool) (n : Nat) (s : State) : ∃ t, execBeaconPulse span n s = .next t := by
  unfold execBeaconPulse
  dsimp only
  repeat' split
  all_goals exact ⟨_, rfl⟩

theorem execReductionWindowDone_completes (sess win : Nat) (s : State) : ∃ t, execReductionWindowDone sess win s = .next t := by
  unfold execReductionWindowDone
  repeat' split
  all_goals exact ⟨_, rfl⟩

theorem execReductionGraceExpire_completes (sess line win : Nat) (s : State) : ∃ t, execReductionGraceExpire sess line win s = .next t := by
  unfold execReductionGraceExpire
  repeat' split
  all_goals exact ⟨_, rfl⟩

theorem execResyncWindowClose_completes (s : State) : ∃ t, execResyncWindowClose s = .next t := by
  unfold execResyncWindowClose
  repeat' split
  all_goals exact ⟨_, rfl⟩

theorem ite_next_completes {φ ρ : Type} {c : Prop} [Decidable c] (t u : State) :
    ∃ v, (if c then (.next t : Host.Outcome State φ ρ) else .next u) = .next v := by
  split <;> exact ⟨_, rfl⟩

/-- Every other command answers a next state, in each of its branches. -/
theorem exec_completes (c : Instr) (s : State) (h : homeReqOf c = none) : ∃ t, exec c s = .next t := by
  cases c with
  | beaconPulse span n => exact execBeaconPulse_completes span n s
  | reductionWindowDone sess win => exact execReductionWindowDone_completes sess win s
  | reductionGraceExpire sess line win => exact execReductionGraceExpire_completes sess line win s
  | resyncWindowClose => exact execResyncWindowClose_completes s
  | beaconWord | beaconCoast | beaconDarkEntry | beaconFreeRunTick => exact ite_next_completes _ _
  | _ => first | exact ⟨_, rfl⟩ | cases h

/-- Settles O3: a request outside the address space stops at its home, one inside is placed, and no other command has a branch that
stops. -/
theorem onlyFault : Obligations.OnlyFault := by
  intro c s
  constructor
  · intro r hr hline
    obtain ⟨q, hq, he⟩ := exec_homeReq s hr
    rw [he, atHome, if_pos (hq ▸ hline)]
  · intro hline
    cases hr : homeReqOf c with
    | none => exact exec_completes c s hr
    | some r =>
      obtain ⟨q, hq, he⟩ := exec_homeReq s hr
      have hlt : q.line < npaLines := hq ▸ hline r hr
      exact ⟨_, he.trans (if_neg (Nat.not_le.2 hlt))⟩

/-- Settles O22. -/
theorem lifecycleOfFuses : Obligations.LifecycleOfFuses := by
  intro rows
  refine ⟨by simp [lifeOf], fun h => ?_, fun h2 h1 => ?_, fun h2 h1 h0 => ?_, fun h2 h1 h0 => ?_⟩ <;> simp [lifeOf, *]

end Sys2Proof.Machine
end

section
namespace Sys2Proof.Machine
open Sys2Proof

/-! ## The order of the events of a tick -/

theorem keyLe_refl (l : List Nat) : keyLe l l = true := by
  induction l with
  | nil => rfl
  | cons a l ih => simp [keyLe, ih]

theorem keyLe_total (l m : List Nat) : keyLe l m = true ∨ keyLe m l = true := by
  induction l generalizing m with
  | nil => simp [keyLe]
  | cons a l ih => cases m with
    | nil => simp [keyLe]
    | cons b m =>
      rcases Nat.lt_trichotomy a b with h | rfl | h
      · simp [keyLe, h]
      · simpa [keyLe] using ih m
      · simp [keyLe, h]

theorem keyLe_trans {l m n : List Nat} (h : keyLe l m = true) (g : keyLe m n = true) : keyLe l n = true := by
  induction l generalizing m n with
  | nil => simp [keyLe]
  | cons a l ih => cases m with
    | nil => simp [keyLe] at h
    | cons b m => cases n with
      | nil => simp [keyLe] at g
      | cons c n =>
        simp only [keyLe, Bool.or_eq_true, decide_eq_true_eq, Bool.and_eq_true, beq_iff_eq] at h g ⊢
        rcases h with h | ⟨rfl, h⟩ <;> rcases g with g | ⟨rfl, g⟩
        · exact .inl (h.trans g)
        · exact .inl h
        · exact .inl g
        · exact .inr ⟨rfl, ih h g⟩

/-- The order of a tick is an insertion sort. -/
theorem eventOrder_eq_insertionSort (l : List Instr) : eventOrder l = l.insertionSort (fun x y => eventLe x y = true) := by
  have insert_eq : ∀ x l, insertEvent x l = l.orderedInsert (fun x y => eventLe x y = true) x := by
    intro x l
    induction l with
    | nil => rfl
    | cons y l ih => simp [insertEvent, List.orderedInsert, ih]
  induction l with
  | nil => rfl
  | cons x l ih => rw [List.insertionSort_cons, ← ih, ← insert_eq]; rfl

/-- A command goes among those level with it before all of them. -/
theorem filter_insertEvent (x : Instr) (l : List Instr) (p : Instr → Bool) (h : ∀ y, p x = true → p y = true → eventLe x y = true) :
    (insertEvent x l).filter p = (x :: l).filter p := by
  induction l with
  | nil => rfl
  | cons y l ih =>
    unfold insertEvent
    split
    · rfl
    · next hle =>
      cases hx : p x <;> cases hy : p y
      · simpa [hx, hy] using ih
      · simpa [hx, hy] using ih
      · simpa [hx, hy] using ih
      · exact absurd (h y hx hy) hle

theorem filter_eventOrder (l : List Instr) (p : Instr → Bool) (h : ∀ x y, p x = true → p y = true → eventLe x y = true) :
    (eventOrder l).filter p = l.filter p := by
  induction l with
  | nil => rfl
  | cons x l ih =>
    show (insertEvent x (eventOrder l)).filter p = _
    rw [filter_insertEvent x _ p (h x), List.filter_cons, List.filter_cons, ih]

theorem eventOrdering : Claim.EventOrdering := by
  intro l
  refine ⟨?_, ?_, fun n k => filter_eventOrder l _ (fun x y hx hy => ?_)⟩
  · rw [eventOrder_eq_insertionSort]
    exact List.perm_insertionSort _ l
  · rw [eventOrder_eq_insertionSort]
    have : Std.Total (fun x y : Instr => eventLe x y = true) := ⟨fun x y => keyLe_total _ _⟩
    have : IsTrans Instr (fun x y => eventLe x y = true) := ⟨fun x y z => keyLe_trans⟩
    exact List.pairwise_insertionSort _ l
  · simp only [Bool.and_eq_true, beq_iff_eq] at hx hy
    rw [eventLe, hx.1, hx.2, hy.1, hy.2]
    exact keyLe_refl _

end Sys2Proof.Machine
end

section
namespace Sys2Proof.Machine
open Sys2Proof

theorem publishPart_frame (s : State) (p) : Frame [.parts] s (publishPart s p) := by
  unfold publishPart
  repeat' with_reducible first | exact Frame.refl _ _ | assumption | refine Frame.andThen ?_ (updPart_frame _ _ _) (by decide) | split | dsimp only

theorem clk_frame (s : State) (x : Clk) : Frame [.clk] s { s with clk := x } := by
  intro c hc; cases c <;> first | rfl | exact absurd (by decide) hc

theorem publish_frame (s : State) : Frame [.clk, .cnt, .parts] s (publish s) := by
  unfold publish
  repeat' with_reducible first | exact Frame.refl _ _ | assumption | refine Frame.andThen ?_ (publishPart_frame _ _) (by decide) | refine Frame.andThen ?_ (count_frame _ _ _ _ _ _) (by decide) | refine Frame.andThen ?_ (Frame.foldl [.clk, .cnt, .parts] _ _ _ (fun u x => ?_)) (fun _ => id) | split | dsimp only | refine Frame.andThen ?_ (clk_frame _ _) (by decide)

theorem cnt_frame (s : State) (x : Cnt) : Frame [.cnt] s { s with cnt := x } := by
  intro c hc; cases c <;> first | rfl | exact absurd (by decide) hc

theorem cntAdd_frame (s : State) (i l) : Frame [.pages, .cnt, .eng, .hst, .out] s (cntAdd s i l) := by
  unfold cntAdd
  repeat' with_reducible first | exact Frame.refl _ _ | assumption | refine Frame.andThen ?_ (raise_frame _ _ _) (by decide) | split | dsimp only | refine Frame.andThen ?_ (cnt_frame _ _) (by decide)

theorem returnCredits_frame (s : State) (p) : Frame [.eng, .hst, .out] s (returnCredits s p) := by
  unfold returnCredits
  repeat' with_reducible first | exact Frame.refl _ _ | assumption | refine Frame.andThen ?_ (updLink_frame _ _ _) (by decide) | refine Frame.andThen ?_ (Frame.foldl [.eng, .hst, .out] _ _ _ (fun u x => ?_)) (fun _ => id) | split | dsimp only | refine Frame.andThen ?_ (out_frame _ _) (by decide)

theorem clk_cnt_parts_lmp_inUse_frame (s : State) (x0 : Clk) (x1 : Cnt) (x2 : Tbl Part) (x3 : Lmp) (x4 : List (Nat × Nat)) : Frame [.clk, .cnt, .parts, .lmp, .inUse] s { s with clk := x0, cnt := x1, parts := x2, lmp := x3, inUse := x4 } := by
  intro c hc; cases c <;> first | rfl | exact absurd (by decide) hc

end Sys2Proof.Machine
end

section
namespace Sys2Proof.Machine
open Sys2Proof

/-! ## The passing of a tick -/

/-- What the general and tenant counters add in a tick: the events of the commands before it, its cycles and itself. -/
def tickEvents (u : State) : List CntEvent :=
  u.cnt.events ++ [{ page := pCNT, ev := 0, part := 0x3FF, inst := 0xFFF, n := cycPassed u },
                   { page := pCNT, ev := 1, part := 0x3FF, inst := 0xFFF, n := ticksPassed u }]

/-- The general counters have added the tick's events. -/
def tickCounted (u : State) : State :=
  if enabled u pCNT && !fenced u pCNT && !u.cnt.freezeNow then
    (List.range 64).foldl (fun v i => cntAdd v i (tickEvents u)) { u with cnt := { u.cnt with events := [] } }
  else { u with cnt := { u.cnt with events := [] } }

/-- The stations have returned the credits that they owe. -/
def tickReturned (u : State) : State := [pENG, pHST0, pHST1].foldl returnCredits (tickCounted u)

/-- The units in use, the tenant counts, the settings and the clock of the tick are taken. -/
def tickTaken (u t : State) : State :=
  { t with
    inUse := unitsInUse t
    lmp := { t.lmp with slotsUsed := [] }
    parts := t.parts.map (fun e => (e.1, tenAdd e.1 e.2 (tickEvents u)))
    cnt := { t.cnt with freezeNow := t.cnt.freeze, cfgsNow := t.cnt.cfgs, clr := false }
    clk := { t.clk with cyc := max t.clk.cyc (t.clk.tickStart + cycPassed u), tickStart := t.clk.tickStart + cycPassed u,
                        et := t.clk.et + ticksPassed u } }

theorem tickPass_eq (s : State) (h : s.clk.stopped = false) : tickPass s = tickTaken (publish s) (tickReturned (publish s)) := by
  unfold tickPass
  rw [if_neg (by simp [h])]
  unfold tickTaken tickReturned tickCounted tickEvents
  with_reducible rfl

theorem tickTaken_frame (u t : State) : Frame [.clk, .cnt, .parts, .lmp, .inUse] t (tickTaken u t) := by
  intro c hc; cases c <;> first | exact absurd (by decide) hc | rfl

theorem tickCounted_frame (u : State) : Frame [.pages, .cnt, .eng, .hst, .out] u (tickCounted u) := by
  have h := cnt_frame u { u.cnt with events := [] }
  have hall := h.mono (m := [.pages, .cnt, .eng, .hst, .out]) (by decide)
  exact Frame.ite _ (hall.andThen (Frame.foldl _ _ _ _ (fun v i => cntAdd_frame v i _)) (fun _ => id)) hall

theorem tickReturned_frame (u : State) : Frame [.pages, .cnt, .eng, .hst, .out] u (tickReturned u) :=
  (tickCounted_frame u).andThen (Frame.foldl _ _ _ _ (fun v p => returnCredits_frame v p)) (by decide)

/-- A raised interrupt adds its event to the counts and changes no setting of them. -/
theorem raise_cnt (s : State) (p b : Nat) : ∃ ev, (raise s p b).cnt = { s.cnt with events := ev } := by
  unfold raise
  have hsend : ∀ (c : Prop) [Decidable c] (t : State), (if c then sendIrq t p else t).cnt = t.cnt := by
    intro c _ t
    split
    · exact sendIrq_frame t p .cnt (by decide)
    · rfl
  simp only [hsend]
  split
  · exact ⟨_, rfl⟩
  · exact ⟨s.cnt.events, rfl⟩

/-- The settings of the general counters stay. -/
def SameCntCfg (s t : State) : Prop := t.cnt.freeze = s.cnt.freeze ∧ t.cnt.cfgs = s.cnt.cfgs

theorem SameCntCfg.trans {s t u : State} (h : SameCntCfg s t) (g : SameCntCfg t u) : SameCntCfg s u := ⟨g.1.trans h.1, g.2.trans h.2⟩

theorem sameCntCfg_foldl {α : Type} (f : State → α → State) (l : List α) (s : State) (h : ∀ t x, SameCntCfg t (f t x)) : SameCntCfg s (l.foldl f s) := by
  induction l generalizing s with
  | nil => exact ⟨rfl, rfl⟩
  | cons x l ih => exact (h s x).trans (ih _)

theorem sameCntCfg_of_frame {l : List Comp} {s t : State} (h : Frame l s t) (hl : Comp.cnt ∉ l) : SameCntCfg s t := by
  have hc : t.cnt = s.cnt := h .cnt hl
  exact ⟨by rw [hc], by rw [hc]⟩

theorem sameCntCfg_cntAdd (s : State) (i : Nat) (l : List CntEvent) : SameCntCfg s (cntAdd s i l) := by
  unfold cntAdd
  dsimp only
  repeat' split
  · exact ⟨rfl, rfl⟩
  · exact ⟨rfl, rfl⟩
  · exact ⟨rfl, rfl⟩
  · obtain ⟨ev, hev⟩ := raise_cnt _ pCNT 0
    exact ⟨by rw [hev], by rw [hev]⟩

theorem sameCntCfg_tickReturned (u : State) : SameCntCfg u (tickReturned u) := by
  refine SameCntCfg.trans (t := tickCounted u) ?_ (sameCntCfg_foldl _ _ _ (fun t p => sameCntCfg_of_frame (returnCredits_frame t p) (by decide)))
  unfold tickCounted
  split
  · exact SameCntCfg.trans (t := { u with cnt := { u.cnt with events := [] } }) ⟨rfl, rfl⟩ (sameCntCfg_foldl _ _ _ (fun t i => sameCntCfg_cntAdd t i _))
  · exact ⟨rfl, rfl⟩

/-! ## A publication leaves the clock's cycles and the counters' settings -/

theorem sameCntCfg_count (s : State) (p ev : Nat) : SameCntCfg s (count s p ev) := by
  have h : ∃ l, (count s p ev).cnt = { s.cnt with events := l } := by
    unfold count
    exact ⟨_, rfl⟩
  obtain ⟨l, hl⟩ := h
  exact ⟨by rw [hl], by rw [hl]⟩

theorem publish_cnt (s : State) : SameCntCfg s (publish s) := by
  unfold publish
  split
  · exact ⟨rfl, rfl⟩
  · have h : SameCntCfg s ((List.range 64).foldl publishPart (count s pCNT 3)) :=
      (sameCntCfg_count s pCNT 3).trans (sameCntCfg_foldl publishPart _ _ (fun t p => sameCntCfg_of_frame (publishPart_frame t p) (by decide)))
    generalize (List.range 64).foldl publishPart (count s pCNT 3) = t at h
    exact ⟨h.1, h.2⟩

theorem publish_clk (s : State) : (publish s).clk = { s.clk with throttleMax := (publish s).clk.throttleMax } := by
  unfold publish
  split
  · rfl
  · have h : ((List.range 64).foldl publishPart (count s pCNT 3)).clk = s.clk :=
      (Frame.foldl [.parts] publishPart _ (count s pCNT 3) (fun t p => publishPart_frame t p)) .clk (by decide)
    simp only [h]

/-! ## What a tick keeps -/

theorem tickPass_frame (s : State) (h : s.clk.stopped = false) : Frame [.clk, .pages, .cnt, .parts, .eng, .hst, .lmp, .out, .inUse] s (tickPass s) := by
  rw [tickPass_eq s h]
  have h1 : Frame [.clk, .pages, .cnt, .parts, .eng, .hst, .out] s (tickReturned (publish s)) :=
    Frame.trans (publish_frame s) (tickReturned_frame _) (by decide) (by decide)
  exact Frame.trans h1 (tickTaken_frame _ _) (by decide) (by decide)

theorem tickPass_lmp (s : State) (h : s.clk.stopped = false) : (tickPass s).lmp = { s.lmp with slotsUsed := [] } := by
  have h1 : (tickReturned (publish s)).lmp = s.lmp :=
    (tickReturned_frame (publish s) .lmp (by decide)).trans (publish_frame s .lmp (by decide))
  rw [tickPass_eq s h]
  unfold tickTaken
  simp only [h1]

theorem tickPass_cnt (s : State) (h : s.clk.stopped = false) :
    (tickPass s).cnt.freezeNow = s.cnt.freeze ∧ (tickPass s).cnt.cfgsNow = s.cnt.cfgs := by
  obtain ⟨hf, hc⟩ := (publish_cnt s).trans (sameCntCfg_tickReturned (publish s))
  rw [tickPass_eq s h]
  exact ⟨hf, hc⟩

theorem cutAt_publish (s : State) : cutAt (publish s) = cutAt s := by
  have hd : (publish s).det = s.det := publish_frame s .det (by decide)
  have hc : (publish s).cas = s.cas := publish_frame s .cas (by decide)
  have hk := publish_clk s
  unfold cutAt releaseAt
  rw [hd, hc, hk]

theorem ticksPassed_publish (s : State) : ticksPassed (publish s) = ticksPassed s := by
  unfold ticksPassed
  rw [publish_clk s]

theorem cycPassed_publish (s : State) : cycPassed (publish s) = cycPassed s := by
  unfold cycPassed
  rw [cutAt_publish, ticksPassed_publish, publish_clk]

/-- The clock of a tick that passed. -/
theorem tickPass_clk (s : State) (h : s.clk.stopped = false) :
    (tickPass s).clk.cyc = max s.clk.cyc (s.clk.tickStart + cycPassed s) ∧ (tickPass s).clk.tickStart = s.clk.tickStart + cycPassed s ∧
    (tickPass s).clk.et = s.clk.et + ticksPassed s ∧ (tickPass s).clk.advancing = s.clk.advancing := by
  have h1 : (tickReturned (publish s)).clk = (publish s).clk := tickReturned_frame (publish s) .clk (by decide)
  rw [tickPass_eq s h]
  unfold tickTaken
  rw [h1, cycPassed_publish, ticksPassed_publish, publish_clk]
  exact ⟨rfl, rfl, rfl, rfl⟩

/-- What waits for the next tick is the same after a tick has passed. -/
theorem nothingWaits_tickPass {s : State} (h : s.clk.stopped = false) (hn : NothingWaits s) : NothingWaits (tickPass s) := by
  have hf := tickPass_frame s h
  have hhom : (tickPass s).hom = s.hom := hf .hom (by decide)
  have hlan : (tickPass s).lan = s.lan := hf .lan (by decide)
  have hspn : (tickPass s).spn = s.spn := hf .spn (by decide)
  unfold NothingWaits
  rw [hhom, hlan, hspn, tickPass_lmp s h]
  exact hn

/-! ## The order of what the tick places -/

theorem objTries_nothing {s : State} (h : ∀ e, e ∈ s.lmp.queues → e.2.objPend = none) : objTries s = s := by
  unfold objTries
  have hfold : ∀ (l : Tbl Queue), (∀ e, e ∈ l → e.2.objPend = none) →
      l.foldl (fun t e => match e.2.objPend with | some v => objTry t e.1 v | none => t) s = s := by
    intro l
    induction l with
    | nil => exact fun _ => rfl
    | cons e l ih =>
      intro hl
      rw [List.foldl_cons]
      simp only [hl e (List.mem_cons_self ..)]
      exact ih (fun x hx => hl x (List.mem_cons_of_mem _ hx))
  exact hfold _ h

theorem ingressDrain_nothing {s : State} (h : s.spn.ingWait = []) : ingressDrain s = s := by
  have hs : updSpn s (fun n => { n with ingWait := [] }) = s := by
    unfold updSpn
    simp only [← h]
  unfold ingressDrain
  rw [h, hs]
  rfl

/-- Nothing waits, so the tick places nothing. -/
theorem placeOwn_nothing {s : State} (h : NothingWaits s) : placeOwn s = s := by
  obtain ⟨hrelay, hnot, hset, hwd, hing, hobj⟩ := h
  have hs : ({ s with hom := { s.hom with relayQ := [] } } : State) = s := by rw [← hrelay]
  unfold placeOwn
  rw [hwd, List.foldl_nil]
  dsimp only
  rw [hrelay, List.foldl_nil, hs, hnot, List.length_nil, announceAll, objTries_nothing hobj, ingressDrain_nothing hing, hset]
  rfl

/-! ## The tick of an empty queue -/

theorem nextTick_stopped {s : State} (h : s.clk.stopped = true) : nextTick s = s := by
  unfold nextTick
  rw [if_pos h]

theorem nextTick_advancing {s : State} (h : s.clk.stopped = false) (ha : s.clk.advancing = true) : nextTick s = classEvents s := by
  unfold nextTick
  rw [if_neg (by simp [h]), if_pos ha]

theorem nextTick_passes {s : State} (h : s.clk.stopped = false) (ha : s.clk.advancing = false) (hn : NothingWaits s) :
    nextTick s = if (advanceEvents (tickPass s)).isEmpty then classEvents (tickPass s)
      else { tickPass s with
             pending := eventOrder (advanceEvents (tickPass s))
             sampled := (tickPass s).sampled.filter (fun i => rankOf i != 0)
             clk := { (tickPass s).clk with advancing := true } } := by
  unfold nextTick
  rw [if_neg (by simp [h]), if_neg (by simp [ha])]
  dsimp only
  rw [placeOwn_nothing (nothingWaits_tickPass h hn)]

/-- The events of a tick change the queue, what was sampled and the mark of an advance, and nothing else. -/
theorem nextTick_events {s : State} (h : s.clk.stopped = false) (ha : s.clk.advancing = false) (hn : NothingWaits s) :
    ∃ a, (nextTick s).clk = { (tickPass s).clk with advancing := a } ∧ Frame [.clk, .sampled, .pending] (tickPass s) (nextTick s) := by
  rw [nextTick_passes h ha hn]
  split
  · exact ⟨false, rfl, fun c hc => by cases c <;> first | exact absurd (by decide) hc | rfl⟩
  · exact ⟨true, rfl, fun c hc => by cases c <;> first | exact absurd (by decide) hc | rfl⟩

theorem cutAt_of_not_armed {s : State} (h : s.det.kindle ≠ 1) : cutAt s = none := by
  unfold cutAt
  rw [if_neg h]

theorem cycPassed_of_not_armed {s : State} (h : s.det.kindle ≠ 1) : cycPassed s = ticksPassed s * 8 := by
  unfold cycPassed
  rw [cutAt_of_not_armed h]
  rfl

theorem ticksPassed_eq (s : State) : ticksPassed s = (max s.clk.cyc (s.clk.tickStart + 8) - s.clk.tickStart) / 8 := rfl

/-- A release inside the tick in progress cuts it. -/
theorem cycPassed_of_release {s : State} {r : Nat} (hk : s.det.kindle = 1) (hr : releaseAt s = some r) (h1 : s.clk.tickStart < r)
    (h2 : s.clk.cyc ≤ r) (h3 : r < s.clk.tickStart + 8) : cycPassed s = r - s.clk.tickStart := by
  have hc : cutAt s = some r := by
    unfold cutAt
    rw [if_pos hk, hr]
    simp only [Option.filter_some, ite_eq_left_iff]
    intro hne
    exact absurd (by simp only [Bool.and_eq_true, decide_eq_true_eq]; exact ⟨⟨h1, h2⟩, h3⟩) hne
  unfold cycPassed
  rw [hc]

theorem kindleRelease_mem_advanceEvents {s : State} {r : Nat} (hk : s.det.kindle = 1) (hr : releaseAt s = some r) (hc : r ≤ s.clk.cyc) :
    .kindleRelease ∈ advanceEvents s := by
  have hd : kindleDue s = [.kindleRelease] := by
    unfold kindleDue
    rw [hk, hr]
    simp [hc]
  unfold advanceEvents advanceDue
  rw [hd]
  dsimp only
  split <;> exact List.mem_append_left _ (List.mem_singleton.mpr rfl)

/-- A tick that is not cut passes whole, and its clock stands at its end. -/
theorem tickPass_clk_whole {s : State} (h : s.clk.stopped = false) (hk : s.det.kindle ≠ 1) :
    (tickPass s).clk.cyc = max s.clk.cyc (s.clk.tickStart + 8) ∧
    (tickPass s).clk.et = s.clk.et + ((tickPass s).clk.cyc - s.clk.tickStart) / 8 ∧
    (tickPass s).clk.tickStart = s.clk.tickStart + ((tickPass s).clk.cyc - s.clk.tickStart) / 8 * 8 := by
  obtain ⟨hcyc, hts, het, -⟩ := tickPass_clk s h
  have hp := cycPassed_of_not_armed hk
  have ht := ticksPassed_eq s
  rw [hcyc, hts, het, hp, ht]
  omega

theorem tickPass_clk_cut {s : State} {r : Nat} (h : s.clk.stopped = false) (hk : s.det.kindle = 1) (hr : releaseAt s = some r)
    (h1 : s.clk.tickStart < r) (h2 : s.clk.cyc ≤ r) (h3 : r < s.clk.tickStart + 8) :
    (tickPass s).clk.cyc = r ∧ (tickPass s).clk.tickStart = r ∧ (tickPass s).clk.et = s.clk.et + 1 := by
  obtain ⟨hcyc, hts, het, -⟩ := tickPass_clk s h
  have hp := cycPassed_of_release hk hr h1 h2 h3
  have ht := ticksPassed_eq s
  rw [hcyc, hts, het, hp, ht]
  omega

theorem emptyQueueTick_claim : Claim.EmptyQueueTick := by
  intro s hp
  have hstep : step s = .next (nextTick s) := by unfold step; rw [hp]
  refine ⟨fun h => ?_, fun h ha => ?_, fun h ha hn hk => ?_, fun r h ha hn hk hr h1 h2 h3 => ?_⟩
  · rw [hstep, nextTick_stopped h]
  · refine ⟨_, hstep, ?_⟩
    rw [nextTick_advancing h ha]
    exact ⟨rfl, rfl, rfl, fun c hc => by cases c <;> first | exact absurd (by decide) hc | rfl⟩
  · obtain ⟨a, hclk, hev⟩ := nextTick_events h ha hn
    have hpass := tickPass_frame s h
    obtain ⟨hcyc, het, hts⟩ := tickPass_clk_whole h hk
    obtain ⟨hfr, hcf⟩ := tickPass_cnt s h
    have hcnt : (nextTick s).cnt = (tickPass s).cnt := hev .cnt (by decide)
    have hsam : (tickPass s).sampled = s.sampled := hpass .sampled (by decide)
    refine ⟨_, hstep, ?_, ?_, ?_, ?_, ?_, ?_, ?_, ?_, ?_, ?_⟩
    · rw [hclk]; exact hcyc
    · rw [hclk]; exact het
    · rw [hclk]; exact hts
    · rw [hcnt]; exact hfr
    · rw [hcnt]; exact hcf
    · exact (hev .bcn (by decide)).trans (hpass .bcn (by decide))
    · exact (hev .lmp (by decide)).trans (tickPass_lmp s h)
    · intro he
      rw [nextTick_passes h ha hn, if_pos (by simpa using he), ← hsam]
      exact ⟨rfl, rfl⟩
    · intro he
      rw [nextTick_passes h ha hn, if_neg (by simpa using he), ← hsam]
      exact ⟨rfl, rfl, rfl⟩
    · exact Frame.trans hpass hev (by decide) (by decide)
  · obtain ⟨a, hclk, -⟩ := nextTick_events h ha hn
    obtain ⟨hcyc, hts, het⟩ := tickPass_clk_cut h hk hr h1 h2 h3
    have hdet : (tickPass s).det = s.det := tickPass_frame s h .det (by decide)
    have hcas : (tickPass s).cas = s.cas := tickPass_frame s h .cas (by decide)
    have hrel : releaseAt (tickPass s) = some r := by
      unfold releaseAt at hr ⊢
      rw [hdet, hcas]
      exact hr
    refine ⟨_, hstep, ?_, ?_, ?_, kindleRelease_mem_advanceEvents (by rw [hdet]; exact hk) hrel hcyc.ge⟩
    · rw [hclk]; exact hcyc
    · rw [hclk]; exact hts
    · rw [hclk]; exact het

/-- Settles O2. -/
theorem emptyQueueTick : Obligations.EmptyQueueTick := ⟨emptyQueueTick_claim, eventOrdering⟩

end Sys2Proof.Machine
end

section
namespace Sys2Proof.Machine
open Sys2Proof

/-!
# What a signal of the block may change

Interrupt messages, doorbells of mailboxes and error records go to host stations and to the management controller, and never over the link
of an accelerator die. What they leave unchanged follows without the engine station.
-/

/-! ## Messages -/

/-- A message to a host station or an agent of one. -/
theorem emit_hostFrame {s : State} {m : OutMsg} {p c : Nat} (hm : msgLink s m = some (p, c)) (hp : p ≠ pENG) : Frame [.hst, .out] s (emit s m) :=
  frame_drop (emit_frame s m) (emit_eng hm hp)

/-- A message that no station link carries. -/
theorem emit_unlinked {s : State} {m : OutMsg} (hm : msgLink s m = none) : emit s m = { s with out := s.out ++ [m] } := by
  unfold emit
  rw [hm]

theorem emit_intr_frame (s : State) (h : Nat) (v : Word) (p : Nat) : Frame [.hst, .out] s (emit s (.intr h v p)) :=
  emit_hostFrame (p := pHST0 + h) (c := 5) rfl (stationPage_ne_engine h)

theorem emit_i3c_frame (s : State) (w : Word) : Frame [.out] s (emit s (.i3c w)) := out_frame s _

/-! ## Interrupts of a page -/

theorem sendIrqTo_hostFrame (p : Nat) (s : State) (h : Nat) : Frame [.pages, .hst, .out] s (sendIrqTo p s h) := by
  unfold sendIrqTo
  split
  · exact (emit_intr_frame s h _ p).mono (by decide)
  · exact (updPage_frame s p _).mono (by decide)

theorem sendIrq_hostFrame (s : State) (p : Nat) : Frame [.pages, .hst, .out] s (sendIrq s p) := by
  rw [sendIrq_eq]
  exact Frame.foldl _ _ _ _ (sendIrqTo_hostFrame p)

theorem raise_hostFrame (s : State) (p b : Nat) : Frame [.pages, .cnt, .hst, .out] s (raise s p b) := by
  obtain ⟨u, hu, hr⟩ := raise_eq s p b
  have h1 : Frame [.pages, .cnt, .hst, .out] s u := Frame.trans (updPage_frame s p _) hu (by decide) (by decide)
  rw [hr]
  split
  · exact h1.andThen (sendIrq_hostFrame u p) (by decide)
  · exact h1

/-- Two pages that differ in the interrupt messages held back alone. -/
def SameButHeld (x y : Page) : Prop := y = { x with irqHeld := y.irqHeld }

theorem SameButHeld.refl (x : Page) : SameButHeld x x := rfl

theorem SameButHeld.trans {x y z : Page} (h : SameButHeld x y) (g : SameButHeld y z) : SameButHeld x z := by
  unfold SameButHeld at *
  rw [g, h]

theorem page_sendIrqTo_ne (p : Nat) (s : State) (h : Nat) {q : Nat} (hq : q ≠ p) : page (sendIrqTo p s h) q = page s q := by
  unfold sendIrqTo
  split
  · exact page_of_frame (emit_frame s _) (by decide) q
  · exact page_updPage_ne s p q _ hq

theorem page_sendIrqTo_self (p : Nat) (s : State) (h : Nat) : SameButHeld (page s p) (page (sendIrqTo p s h) p) := by
  unfold sendIrqTo
  split
  · rw [page_of_frame (emit_frame s _) (by decide)]
    exact SameButHeld.refl _
  · rw [page_updPage_self]
    rfl

theorem page_sendIrq_ne (s : State) (p : Nat) {q : Nat} (hq : q ≠ p) : page (sendIrq s p) q = page s q := by
  rw [sendIrq_eq]
  generalize vecStations (page s p).irqVec = l
  induction l generalizing s with
  | nil => rfl
  | cons h l ih => rw [List.foldl_cons, ih, page_sendIrqTo_ne p s h hq]

theorem page_sendIrq_self (s : State) (p : Nat) : SameButHeld (page s p) (page (sendIrq s p) p) := by
  rw [sendIrq_eq]
  generalize vecStations (page s p).irqVec = l
  induction l generalizing s with
  | nil => exact SameButHeld.refl _
  | cons h l ih => exact (page_sendIrqTo_self p s h).trans (ih _)

theorem page_raise_ne (s : State) (p b : Nat) {q : Nat} (hq : q ≠ p) : page (raise s p b) q = page s q := by
  obtain ⟨u, hu, hr⟩ := raise_eq s p b
  have h1 : page u q = page s q := by rw [page_of_frame hu (by decide), page_updPage_ne s p q _ hq]
  rw [hr]
  split
  · rw [page_sendIrq_ne u p hq, h1]
  · exact h1

theorem page_raise_self (s : State) (p b : Nat) : SameButHeld (withIrqRaw b (page s p)) (page (raise s p b) p) := by
  obtain ⟨u, hu, hr⟩ := raise_eq s p b
  have h1 : page u p = withIrqRaw b (page s p) := by rw [page_of_frame hu (by decide), page_updPage_self]
  rw [hr, ← h1]
  split
  · exact page_sendIrq_self u p
  · exact SameButHeld.refl _

/-! ## Doorbells of a mailbox -/

/-- The message of a mailbox to one station of its vector. -/
def mbIrqTo (m : Nat) (s : State) (h : Nat) : State :=
  if hostUp s h then emit s (.intr h (mbox s m).vec pMBX) else updMb s m (fun q => { q with irqHeld := setIns q.irqHeld h })

theorem mbIrq_eq (s : State) (m : Nat) : mbIrq s m = if m = 64 then emit s (.i3c (w64 1)) else (vecStations (mbox s m).vec).foldl (mbIrqTo m) s := rfl

theorem mbIrqTo_hostFrame (m : Nat) (s : State) (h : Nat) : Frame [.mbx, .hst, .out] s (mbIrqTo m s h) := by
  unfold mbIrqTo
  split
  · exact (emit_intr_frame s h _ pMBX).mono (by decide)
  · exact (updMb_frame s m _).mono (by decide)

theorem mbIrq_hostFrame (s : State) (m : Nat) : Frame [.mbx, .hst, .out] s (mbIrq s m) := by
  rw [mbIrq_eq]
  split
  · exact (emit_i3c_frame s _).mono (by decide)
  · exact Frame.foldl _ _ _ _ (mbIrqTo_hostFrame m)

theorem ringS2h_hostFrame (s : State) (m b : Nat) : Frame [.mbx, .hst, .out] s (ringS2h s m b) := by
  have h1 := updMb_frame s m (fun q => { q with s2hDb := setBit q.s2hDb b true })
  unfold ringS2h
  dsimp only
  split
  · exact Frame.trans h1 (mbIrq_hostFrame _ _) (by decide) (fun _ => id)
  · exact h1.mono (by decide)

theorem ringReply_hostFrame (s : State) (m b : Nat) : Frame [.mbx, .hst, .out] s (ringReply s m b) := by
  unfold ringReply armS2h
  exact (ringS2h_hostFrame s m b).andThen (updMb_frame _ _ _) (by decide)

theorem tellEvent_hostFrame (s : State) (m : Nat) : Frame [.mbx, .hst, .out] s (tellEvent s m) := ringReply_hostFrame s m dbEvent

/-! ## Error records -/

theorem rasTotal_hostFrame (s : State) (c : ErrClass) : Frame [.pages, .mbx, .cnt, .ras, .hst, .out] s (rasTotal s c) := by
  have one : ∀ (x : Ras) (e : Nat), Frame [.pages, .mbx, .cnt, .ras, .hst, .out] s (count { s with ras := x } pRAS e) :=
    fun x e => Frame.trans (ras_frame s x) (count_frame _ _ _ _ _ _) (by decide) (by decide)
  have irq : ∀ (x : Ras) (e b : Nat), Frame [.pages, .mbx, .cnt, .ras, .hst, .out] s (raise (count { s with ras := x } pRAS e) pRAS b) :=
    fun x e b => (one x e).andThen (raise_hostFrame _ _ _) (by decide)
  cases c with
  | none => exact Frame.refl _ _
  | ce => exact Frame.ite _ (irq _ _ _) (one _ _)
  | ueData => exact irq _ _ _
  | ueUnit => exact irq _ _ _
  | protocol => exact one _ _
  | fatal => exact (irq _ _ _).andThen (ringS2h_hostFrame _ _ _) (by decide)

theorem logErr_hostFrame (s : State) (c : ErrClass) (st : Status) (page index part : Nat) (addr : Option Nat) (va : Bool) :
    Frame [.pages, .mbx, .cnt, .ras, .hst, .out] s (logErr s c st page index part addr va) := by
  have one : ∀ (t : State) (x : Ras), Frame [.pages, .mbx, .cnt, .ras, .hst, .out] s t →
      Frame [.pages, .mbx, .cnt, .ras, .hst, .out] s (count { t with ras := x } pRAS 0) :=
    fun t x h => (h.andThen (ras_frame t x) (by decide)).andThen (count_frame _ _ _ _ _ _) (by decide)
  unfold logErr
  dsimp only
  have h0 := fun x : Ras => (ras_frame s x).mono (m := [.pages, .mbx, .cnt, .ras, .hst, .out]) (by decide)
  refine Frame.andThen ?_ (rasTotal_hostFrame _ c) (fun _ => id)
  split
  · split
    · exact (one _ _ (h0 _)).andThen (raise_hostFrame _ _ _) (by decide)
    · exact one _ _ (h0 _)
  · exact h0 _

theorem logProto_hostFrame (s : State) (st : Status) (page index part : Nat) (addr : Option Nat) :
    Frame [.pages, .mbx, .cnt, .ras, .hst, .out] s (logProto s st page index part addr) := logErr_hostFrame _ _ _ _ _ _ _ _

/-! ## The override log -/

theorem noteOverride_hostFrame (s : State) (p off sel : Nat) (f : Nat × Nat) (b : Word) :
    Frame [.pages, .mbx, .cnt, .hst, .out] s (noteOverride s p off sel f b) := by
  unfold noteOverride
  dsimp only
  have log : ∀ (P : Prop) [Decidable P] (g : Page → Page), Frame [.pages, .mbx, .cnt, .hst, .out] s (if P then s else updPage s p g) :=
    fun P _ g => Frame.ite P (Frame.refl _ _) ((updPage_frame _ _ _).mono (by decide))
  have tell : ∀ (u : State) (P : Prop) [Decidable P], Frame [.pages, .mbx, .cnt, .hst, .out] s u →
      Frame [.pages, .mbx, .cnt, .hst, .out] s (if P then tellEvent u 0 else u) :=
    fun u P _ h => Frame.ite P (h.andThen (tellEvent_hostFrame u 0) (by decide)) h
  have irq : ∀ (u : State) (P : Prop) [Decidable P], Frame [.pages, .mbx, .cnt, .hst, .out] s u →
      Frame [.pages, .mbx, .cnt, .hst, .out] s (if P then u else raise u p 61) :=
    fun u P _ h => Frame.ite P h (h.andThen (raise_hostFrame u p 61) (by decide))
  exact irq _ _ ((tell _ _ (log _ _)).andThen (updPage_frame _ p _) (by decide))

theorem afterExpert_hostFrame (s t : State) (p off : Nat) : Frame [.pages, .mbx, .cnt, .hst, .out] t (afterExpert s t p off) := by
  unfold afterExpert
  split
  · exact Frame.refl _ _
  · exact Frame.foldl _ _ _ _ (fun u f => Frame.ite _ (Frame.refl _ _) (noteOverride_hostFrame _ _ _ _ _ _))

end Sys2Proof.Machine
end

section
namespace Sys2Proof.Machine
open Sys2Proof

/-! # Plain registers hold what is written (R47, R74) -/

/-! ## What the override log leaves unchanged -/

/-- `LAST` of every page and the configuration of the mailboxes stay. -/
def SameLastCfg (s t : State) : Prop := t.mbx.cfg = s.mbx.cfg ∧ ∀ q, (page t q).last = (page s q).last

theorem SameLastCfg.refl (s : State) : SameLastCfg s s := ⟨rfl, fun _ => rfl⟩

theorem SameLastCfg.trans {s t u : State} (h : SameLastCfg s t) (g : SameLastCfg t u) : SameLastCfg s u :=
  ⟨g.1.trans h.1, fun q => (g.2 q).trans (h.2 q)⟩

theorem sameLastCfg_foldl {α : Type} (f : State → α → State) (l : List α) (s : State) (h : ∀ t x, SameLastCfg t (f t x)) : SameLastCfg s (l.foldl f s) := by
  induction l generalizing s with
  | nil => exact SameLastCfg.refl s
  | cons x l ih => exact (h s x).trans (ih _)

theorem sameLastCfg_of_frame {l : List Comp} {s t : State} (h : Frame l s t) (hp : Comp.pages ∉ l) (hm : Comp.mbx ∉ l) : SameLastCfg s t :=
  ⟨by rw [show t.mbx = s.mbx from h .mbx hm], fun q => by rw [page_of_frame h hp]⟩

theorem sameLastCfg_updMb (s : State) (m : Nat) (f : Mailbox → Mailbox) : SameLastCfg s (updMb s m f) := ⟨rfl, fun _ => rfl⟩

theorem sameLastCfg_updPage (s : State) (p : Nat) (f : Page → Page) (hf : ∀ x, (f x).last = x.last) : SameLastCfg s (updPage s p f) := by
  refine ⟨rfl, fun q => ?_⟩
  by_cases hq : q = p
  · rw [hq, page_updPage_self, hf]
  · rw [page_updPage_ne s p q f hq]

theorem SameButHeld.last {x y : Page} (h : SameButHeld x y) : y.last = x.last := by rw [h]

theorem sameLastCfg_raise (s : State) (p b : Nat) : SameLastCfg s (raise s p b) := by
  refine ⟨by rw [show (raise s p b).mbx = s.mbx from raise_frame s p b .mbx (by decide)], fun q => ?_⟩
  by_cases hq : q = p
  · rw [hq, (page_raise_self s p b).last]; rfl
  · rw [page_raise_ne s p b hq]

theorem sameLastCfg_mbIrq (s : State) (m : Nat) : SameLastCfg s (mbIrq s m) := by
  rw [mbIrq_eq]
  split
  · exact sameLastCfg_of_frame (emit_i3c_frame s _) (by decide) (by decide)
  · refine sameLastCfg_foldl _ _ _ (fun t h => ?_)
    unfold mbIrqTo
    split
    · exact sameLastCfg_of_frame (emit_intr_frame t h _ _) (by decide) (by decide)
    · exact sameLastCfg_updMb t m _

theorem sameLastCfg_tellEvent (s : State) (m : Nat) : SameLastCfg s (tellEvent s m) := by
  unfold tellEvent ringReply armS2h
  refine SameLastCfg.trans ?_ (sameLastCfg_updMb _ m _)
  unfold ringS2h
  dsimp only
  split
  · exact (sameLastCfg_updMb s m _).trans (sameLastCfg_mbIrq _ m)
  · exact sameLastCfg_updMb s m _

theorem sameLastCfg_noteOverride (s : State) (p off sel : Nat) (f : Nat × Nat) (b : Word) : SameLastCfg s (noteOverride s p off sel f b) := by
  have log : ∀ (P : Prop) [Decidable P] (e : List Override), SameLastCfg s (if P then s else updPage s p (fun q => { q with log := (e ++ q.log).take 64 })) := by
    intro P _ e
    split
    · exact SameLastCfg.refl s
    · exact sameLastCfg_updPage s p _ (fun _ => rfl)
  have tell : ∀ (u : State) (P : Prop) [Decidable P], SameLastCfg s u → SameLastCfg s (if P then tellEvent u 0 else u) := by
    intro u P _ h
    split
    · exact h.trans (sameLastCfg_tellEvent u 0)
    · exact h
  have irq : ∀ (u : State) (P : Prop) [Decidable P], SameLastCfg s u → SameLastCfg s (if P then u else raise u p 61) := by
    intro u P _ h
    split
    · exact h
    · exact h.trans (sameLastCfg_raise u p 61)
  exact irq _ _ ((tell _ _ (log _ [_])).trans (sameLastCfg_updPage _ p _ (fun _ => rfl)))

theorem sameLastCfg_afterExpert (s t : State) (p off : Nat) : SameLastCfg t (afterExpert s t p off) := by
  unfold afterExpert
  split
  · exact SameLastCfg.refl t
  · refine sameLastCfg_foldl _ _ _ (fun u f => ?_)
    dsimp only
    split
    · exact SameLastCfg.refl u
    · exact sameLastCfg_noteOverride _ _ _ _ _ _

/-- What follows the effect of an expert write: the override log and the answer. -/
theorem afterWrite_frame (s t : State) (p off st : Nat) (hst : st < 16) :
    Frame [.pages, .mbx, .cnt, .hst, .out] t (regRsp (afterExpert s t p off) st .ok []) :=
  (afterExpert_hostFrame s t p off).andThen (regRsp_hostFrame _ st .ok [] hst) (by decide)

theorem afterWrite_sameLastCfg (s t : State) (p off st : Nat) (hst : st < 16) : SameLastCfg t (regRsp (afterExpert s t p off) st .ok []) :=
  (sameLastCfg_afterExpert s t p off).trans (sameLastCfg_of_frame (regRsp_hostFrame _ st .ok [] hst) (by decide) (by decide))

/-! ## A write of a unit register -/

/-- A register of a unit, by its place alone: its page, its offset and that its row is REGISTER_WRITE. -/
structure UnitRegister (p off : Nat) : Prop where
  isUnit : isPage p = true
  pageLt : p < 64
  unitReg : 0x200 ≤ off
  offLt : off < 65536
  aligned : off % 8 = 0
  plain : ownRow p off = false
  defined : regDefined p off = true

theorem UnitRegister.registerWrite {s : State} {a : Acc} {p off : Nat} (hr : UnitRegister p off) (h : UnitAdmits s a p off) (v : Word) :
    exec (.registerWrite a (s.cas.pos * 2 ^ 24 + p * 65536 + off) 8 [v]) s =
      .next (regRsp (afterExpert s (plainSet (setLast s p .ok) p off v) p off) a.st .ok []) := by
  have hacc : UnitAccess s a p off := ⟨h.2.1, h.2.2.1, hr.isUnit, h.2.2.2.1, hr.pageLt, hr.unitReg, hr.offLt, hr.aligned⟩
  rw [hacc.registerWrite hr.plain, unitWrite_admitted s a p off _ h hr.defined]

theorem regGet_unit {s : State} {p off : Nat} (hp : isPage p = true) (hbuilt : present s p = true) (hoff : 0x200 ≤ off) : regGet s p off = unitGet s p off := by
  simp [regGet, hp, hbuilt, Nat.not_lt.mpr hoff]

theorem present_congr {s t : State} (h : t.build = s.build) (p : Nat) : present t p = present s p := by
  unfold present
  rw [h]

/-! ## The plain registers -/

section
variable {p off : Nat} {m : Word} (h : (p, off, m) ∈ rwRegs)
include h

theorem unitRegister_of_rwRegs : UnitRegister p off := by
  simp only [rwRegs, List.mem_cons, Prod.mk.injEq, List.not_mem_nil, or_false] at h
  rcases h with ⟨rfl, rfl, -⟩ | ⟨rfl, rfl, -⟩ | ⟨rfl, rfl, -⟩ | ⟨rfl, rfl, -⟩ | ⟨rfl, rfl, -⟩ | ⟨rfl, rfl, -⟩ | ⟨rfl, rfl, -⟩ | ⟨rfl, rfl, -⟩ |
    ⟨rfl, rfl, -⟩ | ⟨rfl, rfl, -⟩ | ⟨rfl, rfl, -⟩ | ⟨rfl, rfl, -⟩ | ⟨rfl, rfl, -⟩ | ⟨rfl, rfl, -⟩ | ⟨rfl, rfl, -⟩
  all_goals exact ⟨by decide, by decide, by decide, by decide, by decide, by decide, by decide⟩

/-- The write of a plain register changes its unit alone. -/
theorem plainSet_frame_of_rwRegs (u : State) (v : Word) :
    Frame [.sec, .mbx, .ras, .lan, .eng, .hom, .tir, .lmp, .fnc, .spn] u (plainSet u p off v) := by
  simp only [rwRegs, List.mem_cons, Prod.mk.injEq, List.not_mem_nil, or_false] at h
  rcases h with ⟨rfl, rfl, -⟩ | ⟨rfl, rfl, -⟩ | ⟨rfl, rfl, -⟩ | ⟨rfl, rfl, -⟩ | ⟨rfl, rfl, -⟩ | ⟨rfl, rfl, -⟩ | ⟨rfl, rfl, -⟩ | ⟨rfl, rfl, -⟩ |
    ⟨rfl, rfl, -⟩ | ⟨rfl, rfl, -⟩ | ⟨rfl, rfl, -⟩ | ⟨rfl, rfl, -⟩ | ⟨rfl, rfl, -⟩ | ⟨rfl, rfl, -⟩ | ⟨rfl, rfl, -⟩
  all_goals (intro c hc; cases c <;> first | exact absurd (by decide) hc | rfl)

theorem unitGet_plainSet_of_rwRegs (u : State) (v : Word) : unitGet (plainSet u p off v) p off = v &&& m := by
  simp only [rwRegs, List.mem_cons, Prod.mk.injEq, List.not_mem_nil, or_false] at h
  rcases h with ⟨rfl, rfl, rfl⟩ | ⟨rfl, rfl, rfl⟩ | ⟨rfl, rfl, rfl⟩ | ⟨rfl, rfl, rfl⟩ | ⟨rfl, rfl, rfl⟩ | ⟨rfl, rfl, rfl⟩ | ⟨rfl, rfl, rfl⟩ |
    ⟨rfl, rfl, rfl⟩ | ⟨rfl, rfl, rfl⟩ | ⟨rfl, rfl, rfl⟩ | ⟨rfl, rfl, rfl⟩ | ⟨rfl, rfl, rfl⟩ | ⟨rfl, rfl, rfl⟩ | ⟨rfl, rfl, rfl⟩ | ⟨rfl, rfl, rfl⟩
  all_goals rfl

/-- The override log and an answer leave a plain register as it is. -/
theorem unitGet_kept_of_rwRegs {u t : State} (hf : Frame [.pages, .mbx, .cnt, .hst, .out] u t) (hk : SameLastCfg u t) : unitGet t p off = unitGet u p off := by
  simp only [rwRegs, List.mem_cons, Prod.mk.injEq, List.not_mem_nil, or_false] at h
  rcases h with ⟨rfl, rfl, -⟩ | ⟨rfl, rfl, -⟩ | ⟨rfl, rfl, -⟩ | ⟨rfl, rfl, -⟩ | ⟨rfl, rfl, -⟩ | ⟨rfl, rfl, -⟩ | ⟨rfl, rfl, -⟩ | ⟨rfl, rfl, -⟩ |
    ⟨rfl, rfl, -⟩ | ⟨rfl, rfl, -⟩ | ⟨rfl, rfl, -⟩ | ⟨rfl, rfl, -⟩ | ⟨rfl, rfl, -⟩ | ⟨rfl, rfl, -⟩ | ⟨rfl, rfl, -⟩
  · exact congrArg Sec.resCfg (hf .sec (by decide))
  · exact hk.1
  · exact congrArg Ras.cfg (hf .ras (by decide))
  · exact congrArg Hom.cfg (hf .hom (by decide))
  · exact congrArg Hom.wickCfg (hf .hom (by decide))
  · exact congrArg Hom.snoopCfg (hf .hom (by decide))
  · exact congrArg Lan.cfg (hf .lan (by decide))
  · exact congrArg Lan.wdBase (hf .lan (by decide))
  · exact congrArg Lan.wdLen (hf .lan (by decide))
  · exact congrArg Tir.win (hf .tir (by decide))
  · exact congrArg Lmp.cfg (hf .lmp (by decide))
  · exact congrArg Fnc.cfg (hf .fnc (by decide))
  · exact congrArg Eng.demandCfg (hf .eng (by decide))
  · exact congrArg Spn.hostileCfg (hf .spn (by decide))
  · exact congrArg Spn.ingressCfg (hf .spn (by decide))

end

/-- Settles O7: the write is the register's own effect between `setLast` and the override log with the answer, and neither touches a plain
register. -/
theorem registerWriteHolds : Obligations.RegisterWriteHolds := by
  unfold Obligations.RegisterWriteHolds
  intro s a p off m v hreg hadm
  have hst16 : a.st < 16 := Nat.lt_trans hadm.1 (by decide)
  have hr := unitRegister_of_rwRegs hreg
  refine ⟨_, hr.registerWrite hadm v, ?_⟩
  have hset := plainSet_frame_of_rwRegs hreg (setLast s p .ok) v
  have hend := afterWrite_frame s (plainSet (setLast s p .ok) p off v) p off a.st hst16
  have hkeep := afterWrite_sameLastCfg s (plainSet (setLast s p .ok) p off v) p off a.st hst16
  have hall : Frame [.pages, .sec, .mbx, .cnt, .ras, .lan, .eng, .hst, .hom, .tir, .lmp, .fnc, .spn, .out] s
      (regRsp (afterExpert s (plainSet (setLast s p .ok) p off v) p off) a.st .ok []) :=
    Frame.trans (setLast_frame s p .ok) (Frame.trans hset hend (n := [.pages, .sec, .mbx, .cnt, .ras, .lan, .eng, .hst, .hom, .tir, .lmp, .fnc, .spn, .out])
      (by decide) (by decide)) (by decide) (fun _ => id)
  refine ⟨?_, ?_, regRsp_answered _ _ _ _ hst16, hall⟩
  · rw [regGet_unit hr.isUnit ((present_congr (hall .build (by decide)) p).trans hadm.2.2.2.1) hr.unitReg,
      unitGet_kept_of_rwRegs hreg hend hkeep, unitGet_plainSet_of_rwRegs hreg]
  · rw [hkeep.2 p, page_of_frame hset (by decide), setLast, page_updPage_self]

end Sys2Proof.Machine
end

section
namespace Sys2Proof.Machine
open Sys2Proof

/-! # Refused accesses, reads that clear, and I3C (R9, R48, R720) -/

/-! ## A refused access -/

/-- A record of class PROTOCOL reaches no mailbox. -/
theorem logProto_quietFrame (s : State) (st : Status) (page index part : Nat) (addr : Option Nat) :
    Frame [.pages, .cnt, .ras, .hst, .out] s (logProto s st page index part addr) := by
  have one : ∀ (t : State) (x : Ras) (e : Nat), Frame [.pages, .cnt, .ras, .hst, .out] s t →
      Frame [.pages, .cnt, .ras, .hst, .out] s (count { t with ras := x } pRAS e) :=
    fun t x e h => (h.andThen (ras_frame t x) (by decide)).andThen (count_frame _ _ _ _ _ _) (by decide)
  have h0 := fun x : Ras => (ras_frame s x).mono (m := [.pages, .cnt, .ras, .hst, .out]) (by decide)
  unfold logProto logErr rasTotal
  dsimp only
  refine one _ _ _ ?_
  split
  · split
    · exact (one _ _ _ (h0 _)).andThen (raise_hostFrame _ _ _) (by decide)
    · exact one _ _ _ (h0 _)
  · exact h0 _

theorem logProto_log (s : State) (st : Status) (page index part : Nat) (addr : Option Nat) :
    (logProto s st page index part addr).ras.log.head? =
      some { status := st.code, cls := .protocol, page := page, index := index, part := part, addr := addr, addrVa := false, time := timestamp s } := by
  have hr : ∀ u p b, (raise u p b).ras = u.ras := fun u p b => raise_frame u p b .ras (by decide)
  unfold logProto logErr rasTotal
  dsimp only
  split
  · split
    · simp only [count_ras, hr, List.take_succ_cons, List.head?_cons]
    · simp only [count_ras, List.take_succ_cons, List.head?_cons]
  · simp only [count_ras, List.take_succ_cons, List.head?_cons]

theorem refusedAcc_frame (s : State) (a : Acc) (d : List Word) (h : a.st < 2) : Frame [.pages, .cnt, .ras, .hst, .out] s (refusedAcc s a d) :=
  (logProto_quietFrame _ _ _ _ _ _).andThen (regRsp_hostFrame _ _ _ _ (Nat.lt_trans h (by decide))) (by decide)

theorem refusedAcc_log (s : State) (a : Acc) (d : List Word) (h : a.st < 2) :
    ∃ r, (refusedAcc s a d).ras.log.head? = some r ∧ r.status = Status.permission.code ∧ r.cls = .protocol ∧ r.page = pHST0 + a.st ∧ r.part = a.part := by
  have hm : a.st % 16 = a.st := Nat.mod_eq_of_lt (Nat.lt_trans h (by decide))
  have hr : (refusedAcc s a d).ras = (logProto s .permission (pHST0 + a.st % 16) (a.st % 16) a.part).ras :=
    regRsp_hostFrame _ _ _ _ (Nat.lt_trans h (by decide)) .ras (by decide)
  rw [hr, logProto_log, hm]
  exact ⟨_, rfl, rfl, rfl, rfl, rfl⟩

theorem refusedAccess : Claim.RefusedAccess := by
  intro s a off v hst hup hoff hreach
  have hst16 : a.st < 16 := Nat.lt_trans hst (by decide)
  have hdiv : (s.cas.pos * 2 ^ 24 + off) / 2 ^ 24 = s.cas.pos := by omega
  have hmod : (s.cas.pos * 2 ^ 24 + off) % 2 ^ 24 = off := by omega
  have hwrite : exec (.registerWrite a (s.cas.pos * 2 ^ 24 + off) 8 [v]) s = .next (refusedAcc s a []) := by
    show execRegisterWrite a _ 8 [v] s = _
    simp only [execRegisterWrite, blockWrite, hdiv, hmod, hup, hreach, Bool.not_true, Bool.not_false, Bool.false_eq_true, ne_eq,
      not_true_eq_false, if_false, if_true]
  have hread : exec (.readClear a (s.cas.pos * 2 ^ 24 + off) 8) s = .next (refusedAcc s a [0]) := by
    show execReadClear a _ 8 s = _
    simp only [execReadClear, blockRead, hdiv, hmod, hup, hreach, Bool.not_true, Bool.not_false, Bool.false_eq_true, ne_eq,
      not_true_eq_false, if_false, if_true]
    rfl
  exact ⟨⟨_, hwrite, regRsp_answered _ _ _ _ hst16, refusedAcc_log s a [] hst, refusedAcc_frame s a [] hst⟩,
    ⟨_, hread, regRsp_answered _ _ _ _ hst16, refusedAcc_frame s a [0] hst⟩⟩

/-! ## A read that clears -/

/-- The counts that the claim on reads names: page and offset. -/
def clearedCounts : List (Nat × Nat) :=
  [(0x01, 0x228), (0x01, 0x230), (0x01, 0x238), (0x05, 0x250), (0x05, 0x258), (0x05, 0x260), (0x05, 0x268), (0x05, 0x270),
   (0x09, 0x238), (0x09, 0x240), (0x09, 0x248), (0x09, 0x250), (0x0A, 0x250), (0x0A, 0x258), (0x0A, 0x260)]

section
variable {p off : Nat} (h : (p, off) ∈ clearedCounts)
include h

theorem clearedCounts_place : isPage p = true ∧ p < 64 ∧ 0x200 ≤ off ∧ off < 65536 ∧ off % 8 = 0 ∧ p ≠ pMBX := by
  simp only [clearedCounts, List.mem_cons, Prod.mk.injEq, List.not_mem_nil, or_false] at h
  rcases h with ⟨rfl, rfl⟩ | ⟨rfl, rfl⟩ | ⟨rfl, rfl⟩ | ⟨rfl, rfl⟩ | ⟨rfl, rfl⟩ | ⟨rfl, rfl⟩ | ⟨rfl, rfl⟩ | ⟨rfl, rfl⟩ | ⟨rfl, rfl⟩ | ⟨rfl, rfl⟩ |
    ⟨rfl, rfl⟩ | ⟨rfl, rfl⟩ | ⟨rfl, rfl⟩ | ⟨rfl, rfl⟩ | ⟨rfl, rfl⟩
  all_goals decide

/-- The units of these counts are always built. -/
theorem clearedCounts_present (s : State) : present s p = true := by
  simp only [clearedCounts, List.mem_cons, Prod.mk.injEq, List.not_mem_nil, or_false] at h
  rcases h with ⟨rfl, rfl⟩ | ⟨rfl, rfl⟩ | ⟨rfl, rfl⟩ | ⟨rfl, rfl⟩ | ⟨rfl, rfl⟩ | ⟨rfl, rfl⟩ | ⟨rfl, rfl⟩ | ⟨rfl, rfl⟩ | ⟨rfl, rfl⟩ | ⟨rfl, rfl⟩ |
    ⟨rfl, rfl⟩ | ⟨rfl, rfl⟩ | ⟨rfl, rfl⟩ | ⟨rfl, rfl⟩ | ⟨rfl, rfl⟩
  all_goals rfl

theorem regClear_frame_of_clearedCounts (s : State) : Frame [.bcn, .ras, .hom, .mov] s (regClear s p off) := by
  simp only [clearedCounts, List.mem_cons, Prod.mk.injEq, List.not_mem_nil, or_false] at h
  rcases h with ⟨rfl, rfl⟩ | ⟨rfl, rfl⟩ | ⟨rfl, rfl⟩ | ⟨rfl, rfl⟩ | ⟨rfl, rfl⟩ | ⟨rfl, rfl⟩ | ⟨rfl, rfl⟩ | ⟨rfl, rfl⟩ | ⟨rfl, rfl⟩ | ⟨rfl, rfl⟩ |
    ⟨rfl, rfl⟩ | ⟨rfl, rfl⟩ | ⟨rfl, rfl⟩ | ⟨rfl, rfl⟩ | ⟨rfl, rfl⟩
  all_goals (intro c hc; cases c <;> first | exact absurd (by decide) hc | rfl)

/-- The count is zero once it is cleared, and the answer of the access leaves it so. -/
theorem unitGet_cleared {s t : State} (hf : Frame [.hst, .out] (regClear s p off) t) : unitGet t p off = 0 := by
  have hb : t.bcn = (regClear s p off).bcn := hf .bcn (by decide)
  have hr : t.ras = (regClear s p off).ras := hf .ras (by decide)
  have hh : t.hom = (regClear s p off).hom := hf .hom (by decide)
  have hm : t.mov = (regClear s p off).mov := hf .mov (by decide)
  simp only [clearedCounts, List.mem_cons, Prod.mk.injEq, List.not_mem_nil, or_false] at h
  rcases h with ⟨rfl, rfl⟩ | ⟨rfl, rfl⟩ | ⟨rfl, rfl⟩ | ⟨rfl, rfl⟩ | ⟨rfl, rfl⟩ | ⟨rfl, rfl⟩ | ⟨rfl, rfl⟩ | ⟨rfl, rfl⟩ | ⟨rfl, rfl⟩ | ⟨rfl, rfl⟩ |
    ⟨rfl, rfl⟩ | ⟨rfl, rfl⟩ | ⟨rfl, rfl⟩ | ⟨rfl, rfl⟩ | ⟨rfl, rfl⟩
  · exact congrArg (fun b => w64 b.stray) hb
  · exact congrArg (fun b => w64 b.coastTotal) hb
  · exact congrArg (fun b => w64 b.wordErr) hb
  · exact congrArg (fun b => w64 b.logLost) hr
  · exact congrArg (fun b => w64 b.ceTotal) hr
  · exact congrArg (fun b => w64 b.ueTotal) hr
  · exact congrArg (fun b => w64 b.protoTotal) hr
  · exact congrArg (fun b => w64 b.fatalTotal) hr
  · exact congrArg (fun b => w64 b.backinvTotal) hh
  · exact congrArg (fun b => w64 b.wickDelays) hh
  · exact congrArg (fun b => w64 b.stashTotal) hh
  · exact congrArg (fun b => w64 b.stashDropped) hh
  · exact congrArg (fun b => w64 b.segTotal) hm
  · exact congrArg (fun b => w64 b.stashPartial) hm
  · exact congrArg (fun b => w64 b.poisonOut) hm

end

theorem readClears : Claim.ReadClears := by
  intro s a p off hmem hst hup hreach
  have hst16 : a.st < 16 := Nat.lt_trans hst (by decide)
  obtain ⟨hpage, hp, hoff, hlt, h8, hmbx⟩ := clearedCounts_place hmem
  have hbuilt := clearedCounts_present hmem
  have hacc : UnitAccess s a p off := ⟨hup, hreach, hpage, hbuilt s, hp, hoff, hlt, h8⟩
  have hread : pageRead s a p off = regRsp (regClear s p off) a.st .ok [regGet s p off] := by
    unfold pageRead
    rw [if_neg hmbx, hbuilt s]
    simp
  refine ⟨_, hacc.readClear (fun hpop => hmbx hpop.1), ?_⟩
  rw [hread]
  have hrsp := regRsp_hostFrame (regClear s p off) a.st .ok [regGet s p off] hst16
  refine ⟨regRsp_answered _ _ _ _ hst16, ?_, Frame.trans (regClear_frame_of_clearedCounts hmem s) hrsp (by decide) (by decide)⟩
  rw [regGet_unit hpage (hbuilt _) hoff]
  exact unitGet_cleared hmem hrsp

/-! ## Accesses of the board management controller -/

theorem mbox_armH2s (s : State) (m : Nat) (r : Bool) (k : Nat) : ∃ timer, mbox (armH2s s m r) k = { mbox s k with h2sTimer := timer } := by
  by_cases hk : k = m
  · subst hk
    unfold armH2s
    rw [mbox_updMb_self]
    split
    · exact ⟨_, rfl⟩
    · exact ⟨_, rfl⟩
  · unfold armH2s
    rw [mbox_updMb_ne _ _ _ _ hk]
    exact ⟨(mbox s k).h2sTimer, rfl⟩

theorem armH2s_ne (s : State) (m : Nat) (r : Bool) {k : Nat} (hk : k ≠ m) : mbox (armH2s s m r) k = mbox s k := mbox_updMb_ne _ _ _ _ hk

theorem armH2s_frame (s : State) (m : Nat) (r : Bool) : Frame [.mbx] s (armH2s s m r) := updMb_frame _ _ _

/-- A word that finds room stands last in the FIFO of its mailbox, and every other mailbox stays. -/
theorem pushH2s_room {s : State} {m : Nat} (v : Word) (h : (mbox s m).h2s.length < 16) :
    (mbox (pushH2s s m v) m).h2s = (mbox s m).h2s ++ [v] ∧ (∀ k, k ≠ m → mbox (pushH2s s m v) k = mbox s k) ∧ Frame [.mbx] s (pushH2s s m v) := by
  unfold pushH2s
  rw [if_pos h]
  refine ⟨?_, fun k hk => ?_, (updMb_frame _ _ _).andThen (armH2s_frame _ _ _) (by decide)⟩
  · obtain ⟨timer, ht⟩ := mbox_armH2s (updMb s m (fun b => { b with h2s := b.h2s ++ [v] })) m false m
    rw [ht, mbox_updMb_self]
  · rw [armH2s_ne _ _ _ hk, mbox_updMb_ne _ _ _ _ hk]

theorem i3cAccess : Claim.I3cAccess := by
  intro s v hstage
  refine ⟨fun hroom => ?_, fun hrun => ?_⟩
  · have hexec : exec (.i3cAccess true 0x010 v) s = .next (pushH2s s 64 v) := by
      show execI3cAccess true 0x010 v s = _
      simp only [execI3cAccess, if_true, hstage, and_true]
      rfl
    obtain ⟨hself, hother, hframe⟩ := pushH2s_room v hroom
    exact ⟨_, hexec, hself, hother, hframe .out (by decide), hframe⟩
  · have hget : i3cGet s 0x008 = mbGet s 64 0x008 := by
      simp [i3cGet, Nat.not_lt.mpr hstage]
    have hexec : exec (.i3cAccess false 0x008 v) s = .next (emits s [.i3c (mbGet s 64 0x008)]) := by
      show execI3cAccess false 0x008 v s = _
      simp only [execI3cAccess, hrun, hget, Bool.false_eq_true, if_false]
      simp [hstage, mbClear]
    exact ⟨_, hexec, rfl, emits_frame _ _⟩

/-- Settles O9. -/
theorem registerAccesses : Obligations.RegisterAccesses := ⟨refusedAccess, readClears, i3cAccess⟩

end Sys2Proof.Machine
end

section
namespace Sys2Proof.Machine
open Sys2Proof

/-! # Frames of the model's operations: how they are put together -/

/-- A command that completes with a property. -/
theorem ends_of_exec {c : Instr} {s t : State} {P : State → Prop} (h : exec c s = .next t) (hp : P t) : Ends c s P := ⟨t, h, hp⟩

/-- Every component of the first list is in the second. -/
def subComps (m l : List Comp) : Bool := m.all (fun c => l.any (fun d => Nat.beq c.ctorIdx d.ctorIdx))

theorem Comp.eq_of_ctorIdx {c d : Comp} (h : c.ctorIdx = d.ctorIdx) : c = d := by
  cases c <;> cases d <;> first | rfl | exact absurd h (by decide)

theorem mem_of_subComps {m l : List Comp} (h : subComps m l = true) : ∀ c ∈ m, c ∈ l := by
  intro c hc
  obtain ⟨d, hd, hcd⟩ := List.any_eq_true.mp (List.all_eq_true.mp h c hc)
  rw [Comp.eq_of_ctorIdx (Nat.eq_of_beq_eq_true hcd)]
  exact hd

/-- An operation after a frame that allows what it changes. -/
theorem Frame.into {l m : List Comp} {s t u : State} (g : Frame m t u) (hm : subComps m l = true) (h : Frame l s t) : Frame l s u :=
  Frame.andThen h g (mem_of_subComps hm)

theorem Frame.foldlInto {α : Type} {l : List Comp} {s t : State} {f : State → α → State} {xs : List α} (h : Frame l s t)
    (hf : ∀ u x, Frame l u (f u x)) : Frame l s (xs.foldl f t) :=
  Frame.andThen h (Frame.foldl l f xs t hf) (fun _ => id)

/-- The state of a pair that an equation names. -/
theorem Frame.fst {α : Type} {l : List Comp} {s t : State} {x : State × α} {r : α} (h : Frame l s x.1) (e : x = (t, r)) : Frame l s t := by
  cases e; exact h

theorem Frame.snd {α : Type} {l : List Comp} {s t : State} {x : α × State} {r : α} (h : Frame l s x.2) (e : x = (r, t)) : Frame l s t := by
  cases e; exact h

theorem Comp.same_symm {s t : State} {c : Comp} (h : c.same s t) : c.same t s := by cases c <;> exact Eq.symm h

theorem Frame.ite_fst {α : Type} {l : List Comp} {s : State} {c : Prop} [Decidable c] {x y : State × α} (hx : Frame l s x.1) (hy : Frame l s y.1) :
    Frame l s (if c then x else y).1 := by
  split <;> assumption

/-- A write of components that may change. -/
theorem frame_iff_of_same {l m : List Comp} {s t u : State} (h : ∀ c, c ∉ m → c.same t u) (hm : subComps m l = true) : Frame l s u ↔ Frame l s t := by
  have hsub := mem_of_subComps hm
  constructor
  · exact fun g c hc => Comp.same_trans s u t c (g c hc) (Comp.same_symm (h c (fun x => hc (hsub c x))))
  · exact fun g => Frame.andThen g h hsub

/-- A reply, whoever owes it. -/
theorem reply_anyFrame (s : State) (m q v : Nat) (st : Status) (r : List Word) (o : Bool) : Frame [.mbx, .cas, .eng, .hst, .out] s (reply s m q v st r o) := by
  unfold reply
  dsimp only
  split
  · exact Frame.refl _ _
  · split
    · exact (casSend_frame s _).mono (by decide)
    · exact (updMb_frame s m _).mono (by decide)

/-- The answer of a register access, of whichever block it is. -/
theorem regRsp_anyFrame (s : State) (st : Nat) (status : Status) (d : List Word) : Frame [.cas, .eng, .hst, .out] s (regRsp s st status d) := by
  unfold regRsp
  split
  · exact casSend_frame s _
  · split
    · exact ((consume_frame s _ _ _).mono (by decide)).andThen (emit_frame _ _) (by decide)
    · exact (emits_frame s _).mono (by decide)

end Sys2Proof.Machine
end

section
namespace Sys2Proof.Machine
open Sys2Proof

/-!
# Frames of the model's operations

One lemma for each operation: the components that it may change. Each walks the branches of its definition and cites the frames of the operations
that the branch calls.
-/

theorem frame_free_iff {l : List Comp} {s t : State} (x0 : Nat) (hl : subComps [.free] l = true) :
    Frame l s { t with free := x0 } ↔ Frame l s t :=
  frame_iff_of_same (fun c hc => by cases c <;> first | exact absurd (by decide) hc | rfl) hl

theorem frame_inUse_iff {l : List Comp} {s t : State} (x0 : List (Nat × Nat)) (hl : subComps [.inUse] l = true) :
    Frame l s { t with inUse := x0 } ↔ Frame l s t :=
  frame_iff_of_same (fun c hc => by cases c <;> first | exact absurd (by decide) hc | rfl) hl

theorem frame_mem_memPois_memKey_iff {l : List Comp} {s t : State} (x0 : List Host.Cell) (x1 : List Nat) (x2 : Tbl (Option (Nat × Nat))) (hl : subComps [.mem, .memPois, .memKey] l = true) :
    Frame l s { t with mem := x0, memPois := x1, memKey := x2 } ↔ Frame l s t :=
  frame_iff_of_same (fun c hc => by cases c <;> first | exact absurd (by decide) hc | rfl) hl

theorem frame_hom_iff {l : List Comp} {s t : State} (x0 : Hom) (hl : subComps [.hom] l = true) :
    Frame l s { t with hom := x0 } ↔ Frame l s t :=
  frame_iff_of_same (fun c hc => by cases c <;> first | exact absurd (by decide) hc | rfl) hl

theorem frame_sec_iff {l : List Comp} {s t : State} (x0 : Sec) (hl : subComps [.sec] l = true) :
    Frame l s { t with sec := x0 } ↔ Frame l s t :=
  frame_iff_of_same (fun c hc => by cases c <;> first | exact absurd (by decide) hc | rfl) hl

theorem frame_lan_iff {l : List Comp} {s t : State} (x0 : Lan) (hl : subComps [.lan] l = true) :
    Frame l s { t with lan := x0 } ↔ Frame l s t :=
  frame_iff_of_same (fun c hc => by cases c <;> first | exact absurd (by decide) hc | rfl) hl

theorem frame_lan_eng_mov_iff {l : List Comp} {s t : State} (x0 : Lan) (x1 : Eng) (x2 : Mov) (hl : subComps [.lan, .eng, .mov] l = true) :
    Frame l s { t with lan := x0, eng := x1, mov := x2 } ↔ Frame l s t :=
  frame_iff_of_same (fun c hc => by cases c <;> first | exact absurd (by decide) hc | rfl) hl

theorem frame_lmp_iff {l : List Comp} {s t : State} (x0 : Lmp) (hl : subComps [.lmp] l = true) :
    Frame l s { t with lmp := x0 } ↔ Frame l s t :=
  frame_iff_of_same (fun c hc => by cases c <;> first | exact absurd (by decide) hc | rfl) hl

theorem frame_cas_iff {l : List Comp} {s t : State} (x0 : Cas) (hl : subComps [.cas] l = true) :
    Frame l s { t with cas := x0 } ↔ Frame l s t :=
  frame_iff_of_same (fun c hc => by cases c <;> first | exact absurd (by decide) hc | rfl) hl

theorem frame_spn_iff {l : List Comp} {s t : State} (x0 : Spn) (hl : subComps [.spn] l = true) :
    Frame l s { t with spn := x0 } ↔ Frame l s t :=
  frame_iff_of_same (fun c hc => by cases c <;> first | exact absurd (by decide) hc | rfl) hl

theorem frame_mbx_iff {l : List Comp} {s t : State} (x0 : Mbx) (hl : subComps [.mbx] l = true) :
    Frame l s { t with mbx := x0 } ↔ Frame l s t :=
  frame_iff_of_same (fun c hc => by cases c <;> first | exact absurd (by decide) hc | rfl) hl

theorem frame_det_iff {l : List Comp} {s t : State} (x0 : Det) (hl : subComps [.det] l = true) :
    Frame l s { t with det := x0 } ↔ Frame l s t :=
  frame_iff_of_same (fun c hc => by cases c <;> first | exact absurd (by decide) hc | rfl) hl

theorem frame_xfm_iff {l : List Comp} {s t : State} (x0 : Xfm) (hl : subComps [.xfm] l = true) :
    Frame l s { t with xfm := x0 } ↔ Frame l s t :=
  frame_iff_of_same (fun c hc => by cases c <;> first | exact absurd (by decide) hc | rfl) hl

theorem frame_eng_iff {l : List Comp} {s t : State} (x0 : Eng) (hl : subComps [.eng] l = true) :
    Frame l s { t with eng := x0 } ↔ Frame l s t :=
  frame_iff_of_same (fun c hc => by cases c <;> first | exact absurd (by decide) hc | rfl) hl

theorem frame_fnc_iff {l : List Comp} {s t : State} (x0 : Fnc) (hl : subComps [.fnc] l = true) :
    Frame l s { t with fnc := x0 } ↔ Frame l s t :=
  frame_iff_of_same (fun c hc => by cases c <;> first | exact absurd (by decide) hc | rfl) hl

theorem frame_tir_iff {l : List Comp} {s t : State} (x0 : Tir) (hl : subComps [.tir] l = true) :
    Frame l s { t with tir := x0 } ↔ Frame l s t :=
  frame_iff_of_same (fun c hc => by cases c <;> first | exact absurd (by decide) hc | rfl) hl

theorem frame_cas_spn_mps_iff {l : List Comp} {s t : State} (x0 : Cas) (x1 : Spn) (x2 : Tbl MemPort) (hl : subComps [.cas, .spn, .mps] l = true) :
    Frame l s { t with cas := x0, spn := x1, mps := x2 } ↔ Frame l s t :=
  frame_iff_of_same (fun c hc => by cases c <;> first | exact absurd (by decide) hc | rfl) hl

theorem frame_mov_iff {l : List Comp} {s t : State} (x0 : Mov) (hl : subComps [.mov] l = true) :
    Frame l s { t with mov := x0 } ↔ Frame l s t :=
  frame_iff_of_same (fun c hc => by cases c <;> first | exact absurd (by decide) hc | rfl) hl

theorem frame_boot_iff {l : List Comp} {s t : State} (x0 : Boot) (hl : subComps [.boot] l = true) :
    Frame l s { t with boot := x0 } ↔ Frame l s t :=
  frame_iff_of_same (fun c hc => by cases c <;> first | exact absurd (by decide) hc | rfl) hl

theorem frame_det_xfm_iff {l : List Comp} {s t : State} (x0 : Det) (x1 : Xfm) (hl : subComps [.det, .xfm] l = true) :
    Frame l s { t with det := x0, xfm := x1 } ↔ Frame l s t :=
  frame_iff_of_same (fun c hc => by cases c <;> first | exact absurd (by decide) hc | rfl) hl

theorem drawWord_frame (s : State) : Frame [.free] s (drawWord s).2 := by
  unfold drawWord
  repeat' with_reducible first | exact Frame.refl _ _ | simp (disch := decide) only [↓frame_free_iff]

theorem takeUnit_frame (s : State) (kind i) : Frame [.inUse] s (takeUnit s kind i) := by
  unfold takeUnit
  repeat' with_reducible first | exact Frame.refl _ _ | simp (disch := decide) only [↓frame_inUse_iff]

theorem mpLine_frame (s : State) (p) : Frame [.cnt, .mps] s (mpLine s p) := by
  unfold mpLine
  repeat' with_reducible first | exact Frame.refl _ _ | apply Frame.into (count_frame ..) | apply Frame.into (updMp_frame ..) | decide

theorem putBack_frame (s : State) (o) : Frame [.mem, .memPois, .memKey] s (putBack s o) := by
  unfold putBack
  repeat' with_reducible first | exact Frame.refl _ _ | simp (disch := decide) only [↓frame_mem_memPois_memKey_iff]

theorem putBackAll_frame (s : State) (l) : Frame [.mem, .memPois, .memKey] s (putBackAll s l) := by
  unfold putBackAll
  repeat' with_reducible first | exact Frame.refl _ _ | apply Frame.into (putBack_frame ..) | apply Frame.foldlInto | decide | intro _

theorem ownDone_frame (s : State) (k) : Frame [.hom] s (ownDone s k) := by
  unfold ownDone
  repeat' with_reducible first | exact Frame.refl _ _ | simp (disch := decide) only [↓frame_hom_iff]

theorem relayLater_frame (s : State) (r) : Frame [.hom] s (relayLater s r) := by
  unfold relayLater
  repeat' with_reducible first | exact Frame.refl _ _ | simp (disch := decide) only [↓frame_hom_iff]

theorem relayPuts_frame (s : State) (p x2) : Frame [.hom] s (relayPuts s p x2) := by
  induction x2 generalizing s with
  | nil => exact Frame.refl _ _
  | cons w l ih => exact Frame.into (ih _) (by decide) (relayLater_frame _ _)

theorem wrPuts_frame (s : State) (x1) : Frame [.mem, .memPois, .memKey] s (wrPuts s x1) := by
  induction x1 generalizing s with
  | nil => exact Frame.refl _ _
  | cons w l ih => exact Frame.into (ih _) (by decide) (wrWord_frame _ _ _)

theorem ownPuts_frame (s : State) (p l) : Frame [.hom, .mem, .memPois, .memKey] s (ownPuts s p l) := by
  unfold ownPuts
  repeat' with_reducible
    first
    | exact Frame.refl _ _ | apply Frame.into (wrPuts_frame ..) | apply Frame.into (relayPuts_frame ..) | decide | split

theorem ownPut_frame (s : State) (p a l) : Frame [.hom, .mem, .memPois, .memKey] s (ownPut s p a l) := by
  unfold ownPut
  repeat' with_reducible first | exact Frame.refl _ _ | apply Frame.into (ownPuts_frame ..) | decide

theorem countAdmit_frame (s : State) (p) : Frame [.hom] s (countAdmit s p) := by
  unfold countAdmit
  repeat' with_reducible first | exact Frame.refl _ _ | simp (disch := decide) only [↓frame_hom_iff] | decide | split

theorem lanternFill_frame (s : State) (e) : Frame [.lan] s (lanternFill s e) := by
  unfold lanternFill
  repeat' with_reducible first | exact Frame.refl _ _ | simp (disch := decide) only [↓frame_lan_iff] | decide | split

theorem lanternTouch_frame (s : State) (e) : Frame [.lan] s (lanternTouch s e) := by
  unfold lanternTouch
  repeat' with_reducible first | exact Frame.refl _ _ | simp (disch := decide) only [↓frame_lan_iff]

theorem upTouch_frame (s : State) (u) : Frame [.lan] s (upTouch s u) := by
  unfold upTouch
  repeat' with_reducible first | exact Frame.refl _ _ | simp (disch := decide) only [↓frame_lan_iff]

theorem runFell_frame (s : State) : Frame [.pages, .cnt, .lan, .hst, .out] s (runFell s) := by
  unfold runFell
  repeat' with_reducible
    first
    | exact Frame.refl _ _ | apply Frame.into (count_frame ..) | apply Frame.into (raise_hostFrame ..)
    | simp (disch := decide) only [↓frame_lan_iff] | decide | split

theorem s2Levels_frame (s : State) (k p gpa x4 x5 x6) : Frame [.pages, .cnt, .lan, .hst, .out] s (s2Levels s k p gpa x4 x5 x6).1 := by
  induction x4 generalizing s x5 x6 with
  | zero => exact Frame.refl _ _
  | succ n ih =>
    unfold s2Levels
    dsimp only
    repeat' with_reducible
      first
      | apply Frame.into (ih ..) | exact Frame.refl _ _ | apply Frame.ite_fst | apply Frame.into (upTouch_frame ..)
      | apply Frame.into (lanternFill_frame ..) | apply Frame.into (runFell_frame ..) | decide | apply ih | split

theorem s2Translate_frame (s : State) (k p gpa) : Frame [.pages, .cnt, .lan, .hst, .out] s (s2Translate s k p gpa).1 := by
  unfold s2Translate
  repeat' with_reducible
    first
    | exact Frame.refl _ _ | apply Frame.into (lanternTouch_frame ..) | apply Frame.into (s2Levels_frame ..)
    | apply Frame.into (upTouch_frame ..) | decide | refine Frame.fst ?_ (by assumption) | split | dsimp only

theorem s1Read_frame (s : State) (k p gpa) : Frame [.pages, .cnt, .lan, .hst, .out] s (s1Read s k p gpa).1 := by
  unfold s1Read
  repeat' with_reducible
    first
    | exact Frame.refl _ _ | apply Frame.into (s2Translate_frame ..) | decide | refine Frame.fst ?_ (by assumption) | split

theorem walkLeaf_frame (s : State) (k p va acc lvl x1) : Frame [.pages, .cnt, .lan, .hst, .out] s (walkLeaf s k p va acc lvl x1).1 := by
  unfold walkLeaf
  repeat' with_reducible
    first
    | exact Frame.refl _ _ | apply Frame.into (s2Translate_frame ..) | decide | refine Frame.fst ?_ (by assumption) | split | dsimp only

theorem s1Levels_frame (s : State) (k sid p va acc x6 x7 x8) : Frame [.pages, .cnt, .lan, .hst, .out] s (s1Levels s k sid p va acc x6 x7 x8).1 := by
  induction x6 generalizing s x7 x8 with
  | zero => exact Frame.refl _ _
  | succ n ih =>
    unfold s1Levels
    dsimp only
    repeat' with_reducible
      first
      | apply Frame.into (ih ..) | exact Frame.refl _ _ | apply Frame.into (upTouch_frame ..) | apply Frame.into (walkLeaf_frame ..)
      | apply Frame.into (runFell_frame ..) | apply Frame.into (s1Read_frame ..) | decide | apply ih | refine Frame.fst ?_ (by assumption)
      | split

theorem walkFrom_frame (s : State) (k sid va acc) : Frame [.pages, .cnt, .lan, .hst, .out] s (walkFrom s k sid va acc).1 := by
  unfold walkFrom
  repeat' with_reducible
    first
    | exact Frame.refl _ _ | apply Frame.into (s1Levels_frame ..) | apply Frame.into (upTouch_frame ..) | decide
    | refine Frame.fst ?_ (by assumption) | split | dsimp only

theorem walk_frame (s : State) (k sid va acc) : Frame [.pages, .cnt, .lan, .hst, .out] s (walk s k sid va acc).1 := by
  unfold walk
  repeat' with_reducible
    first
    | exact Frame.refl _ _ | apply Frame.into (walkFrom_frame ..) | apply Frame.into (raise_hostFrame ..) | decide
    | refine Frame.fst ?_ (by assumption) | split

theorem installX_frame (s : State) (sid e) : Frame [.lan] s (installX s sid e) := by
  unfold installX
  repeat' with_reducible
    first
    | exact Frame.refl _ _ | apply Frame.into (lanternFill_frame ..) | simp (disch := decide) only [↓frame_lan_iff] | decide

theorem wdDrop_frame (s : State) (kind target base len) : Frame [.lan, .eng, .mov] s (wdDrop s kind target base len) := by
  unfold wdDrop
  repeat' with_reducible first | exact Frame.refl _ _ | simp (disch := decide) only [↓frame_lan_eng_mov_iff]

theorem doom_frame (s : State) (c st) : Frame [.lmp] s (doom s c st) := by
  unfold doom
  repeat' with_reducible first | exact Frame.refl _ _ | apply Frame.into (updCtx_frame ..) | decide | split

theorem endCmd_frame (s : State) (q seq st res) : Frame [.lmp] s (endCmd s q seq st res) := by
  unfold endCmd
  repeat' with_reducible first | exact Frame.refl _ _ | apply Frame.into (updCmd_frame ..) | decide

theorem objOp_frame (s : State) (p id take) : Frame [.parts, .hom, .mem, .memPois, .memKey] s (objOp s p id take).1 := by
  unfold objOp
  repeat' with_reducible
    first
    | exact Frame.refl _ _ | apply Frame.into (updPart_frame ..) | apply Frame.into (ownPut_frame ..) | decide | split | dsimp only

theorem dropRef_frame (s : State) (p id) :
    Frame [.pages, .cnt, .parts, .ras, .hst, .hom, .lmp, .mem, .memPois, .memKey, .out] s (dropRef s p id) := by
  unfold dropRef
  repeat' with_reducible
    first
    | exact Frame.refl _ _ | apply Frame.into (objOp_frame ..) | apply Frame.into (count_frame ..)
    | apply Frame.into (logProto_quietFrame ..) | simp (disch := decide) only [↓frame_lmp_iff] | decide
    | refine Frame.fst ?_ (by assumption) | split

theorem casAll_frame (s : State) (l) : Frame [.cas, .eng, .hst, .out] s (casAll s l) := by
  unfold casAll
  repeat' with_reducible first | exact Frame.refl _ _ | apply Frame.into (casSend_frame ..) | apply Frame.foldlInto | decide | intro _

theorem remTake_frame (s : State) (x) : Frame [.cas, .eng, .hst, .spn, .out, .inUse] s (remTake s x) := by
  unfold remTake
  repeat' with_reducible
    first
    | exact Frame.refl _ _ | apply Frame.into (toNode_frame ..) | apply Frame.into (takeUnit_frame ..)
    | simp (disch := decide) only [↓frame_spn_iff] | decide | split

theorem remDrain_frame (s : State) : Frame [.cas, .eng, .hst, .spn, .out, .inUse] s (remDrain s) := by
  unfold remDrain
  repeat' with_reducible
    first
    | exact Frame.refl _ _ | apply Frame.into (remTake_frame ..) | apply Frame.foldlInto | simp (disch := decide) only [↓frame_spn_iff]
    | decide | intro _

theorem remRoute_frame (s : State) (node r) : Frame [.cas, .eng, .hst, .spn, .out, .inUse] s (remRoute s node r) := by
  unfold remRoute
  repeat' with_reducible
    first
    | exact Frame.refl _ _ | apply Frame.into (remDrain_frame ..) | simp (disch := decide) only [↓frame_spn_iff] | decide

theorem wordErr_frame (s : State) : Frame [.pages, .bcn, .cnt, .hst, .out] s (wordErr s) := by
  unfold wordErr
  repeat' with_reducible
    first
    | exact Frame.refl _ _ | apply Frame.into (raise_hostFrame ..) | apply Frame.into (count_frame ..) | apply Frame.into (updBcn_frame ..)
    | decide

theorem enterResync_frame (s : State) : Frame [.bcn] s (enterResync s) := by
  unfold enterResync
  repeat' with_reducible first | exact Frame.refl _ _ | apply Frame.into (updBcn_frame ..) | decide

theorem lsFirst_frame (s : State) (label kind station mine peer) :
    Frame [.pages, .cnt, .det, .hst, .out] s (lsFirst s label kind station mine peer) := by
  unfold lsFirst
  repeat' with_reducible
    first
    | exact Frame.refl _ _ | apply Frame.into (raise_hostFrame ..) | simp (disch := decide) only [↓frame_det_iff] | decide | split

theorem lsBroken_frame (s : State) (label kind) : Frame [.pages, .cnt, .det, .hst, .out] s (lsBroken s label kind) := by
  unfold lsBroken
  repeat' with_reducible
    first
    | exact Frame.refl _ _ | apply Frame.into (lsFirst_frame ..) | apply Frame.into (raise_hostFrame ..)
    | simp (disch := decide) only [↓frame_det_iff] | decide | split

theorem kindleAbort_frame (s : State) : Frame [.pages, .mbx, .cnt, .cas, .det, .eng, .hst, .out] s (kindleAbort s) := by
  unfold kindleAbort
  repeat' with_reducible
    first
    | exact Frame.refl _ _ | apply Frame.into (raise_hostFrame ..) | apply Frame.into (reply_anyFrame ..)
    | apply Frame.into (lsBroken_frame ..) | simp (disch := decide) only [↓frame_det_iff] | decide | split

theorem applyBcnNext_frame (s : State) : Frame [.bcn] s (applyBcnNext s) := by
  unfold applyBcnNext
  repeat' with_reducible
    first
    | exact Frame.refl _ _ | apply Frame.into (updBcn_frame ..) | apply Frame.into (enterResync_frame ..) | decide | split | dsimp only

theorem kindlePulse_frame (s : State) : Frame [.det] s (kindlePulse s) := by
  unfold kindlePulse
  repeat' with_reducible first | exact Frame.refl _ _ | simp (disch := decide) only [↓frame_det_iff] | decide | split

theorem noteAccepted_frame (s : State) : Frame [.free, .bcn] s (noteAccepted s) := by
  unfold noteAccepted
  repeat' with_reducible
    first
    | exact Frame.refl _ _ | apply Frame.into (updBcn_frame ..) | apply Frame.into (drawWord_frame ..) | decide
    | refine Frame.snd ?_ (by assumption) | split

theorem clearSrcUnc_frame (s : State) (w) : Frame [.bcn] s (clearSrcUnc s w) := by
  unfold clearSrcUnc
  repeat' with_reducible first | exact Frame.refl _ _ | apply Frame.into (updBcn_frame ..) | decide | split

theorem strayPulse_frame (s : State) : Frame [.pages, .bcn, .cnt, .hst, .out] s (strayPulse s) := by
  unfold strayPulse
  repeat' with_reducible
    first
    | exact Frame.refl _ _ | apply Frame.into (raise_hostFrame ..) | apply Frame.into (count_frame ..) | apply Frame.into (updBcn_frame ..)
    | decide

theorem phasePulse_frame (s : State) : Frame [.bcn] s (phasePulse s) := by
  unfold phasePulse
  repeat' with_reducible first | exact Frame.refl _ _ | apply Frame.into (updBcn_frame ..) | decide

theorem takeWord_frame (s : State) (w) : Frame [.pages, .bcn, .cnt, .hst, .out] s (takeWord s w) := by
  unfold takeWord
  repeat' with_reducible
    first
    | exact Frame.refl _ _ | apply Frame.into (updBcn_frame ..) | apply Frame.into (raise_hostFrame ..) | decide | split

theorem releaseSlotsOf_frame (s : State) (f) : Frame [.eng] s (releaseSlotsOf s f) := by
  unfold releaseSlotsOf
  repeat' with_reducible first | exact Frame.refl _ _ | simp (disch := decide) only [↓frame_eng_iff]

theorem kernelEnd_frame (s : State) (p slot) : Frame [.parts, .eng, .lmp, .fnc] s (kernelEnd s p slot) := by
  unfold kernelEnd
  repeat' with_reducible
    first
    | exact Frame.refl _ _ | apply Frame.into (updPart_frame ..) | apply Frame.into (endCmd_frame ..)
    | apply Frame.into (releaseSlotsOf_frame ..) | simp (disch := decide) only [↓frame_fnc_iff] | decide | split

theorem notify_frame (s : State) (a v) : Frame [.cas, .eng, .hst, .fnc, .out] s (notify s a v) := by
  unfold notify
  repeat' with_reducible
    first
    | exact Frame.refl _ _ | apply Frame.into (casSend_frame ..) | apply Frame.foldlInto | simp (disch := decide) only [↓frame_fnc_iff]
    | decide | intro _ | split

theorem signalRec_frame (s : State) (a v p) :
    Frame [.pages, .cnt, .parts, .cas, .eng, .hst, .lmp, .fnc, .mem, .memPois, .memKey, .out] s (signalRec s a v p).1 := by
  unfold signalRec
  repeat' with_reducible
    first
    | exact Frame.refl _ _ | apply Frame.into (wrWords_frame ..) | apply Frame.into (wrWord_frame ..) | apply Frame.into (tenant_frame ..)
    | apply Frame.into (count_frame ..) | apply Frame.into (notify_frame ..) | apply Frame.into (kernelEnd_frame ..)
    | apply Frame.into (raise_hostFrame ..) | apply Frame.foldlInto | simp (disch := decide) only [↓frame_fnc_iff] | decide | intro _
    | split

theorem remoteSignal_frame (s : State) (p node a v) : Frame [.cas, .eng, .hst, .spn, .out, .inUse] s (remoteSignal s p node a v) := by
  unfold remoteSignal
  repeat' with_reducible first | exact Frame.refl _ _ | apply Frame.into (remRoute_frame ..) | decide

theorem sigDrop_frame (s : State) (p) : Frame [.pages, .cnt, .hst, .fnc, .out] s (sigDrop s p) := by
  unfold sigDrop
  repeat' with_reducible
    first
    | exact Frame.refl _ _ | apply Frame.into (count_frame ..) | apply Frame.into (raise_hostFrame ..)
    | simp (disch := decide) only [↓frame_fnc_iff] | decide | split

theorem barWriteBack_frame (s : State) (b bound abandoned) : Frame [.mem, .memPois, .memKey] s (barWriteBack s b bound abandoned) := by
  unfold barWriteBack
  repeat' with_reducible first | exact Frame.refl _ _ | apply Frame.into (wrWord_frame ..) | apply Frame.into (wrWords_frame ..) | decide

theorem barRefuse_frame (s : State) (p st) : Frame [.cnt, .fnc] s (barRefuse s p st).1 := by
  unfold barRefuse
  repeat' with_reducible
    first
    | exact Frame.refl _ _ | apply Frame.into (count_frame ..) | simp (disch := decide) only [↓frame_fnc_iff] | decide

theorem updActive_frame (s : State) (c k f) : Frame [.mov] s (updActive s c k f) := by
  unfold updActive
  repeat' with_reducible first | exact Frame.refl _ _ | apply Frame.into (updChan_frame ..) | decide

theorem segReadDone_frame (s : State) (c k g i a) : Frame [.mov] s (segReadDone s c k g i a) := by
  unfold segReadDone
  repeat' with_reducible first | exact Frame.refl _ _ | apply Frame.into (updActive_frame ..) | decide

theorem segWriteDone_frame (s : State) (c k g tag st) : Frame [.mov] s (segWriteDone s c k g tag st) := by
  unfold segWriteDone
  repeat' with_reducible first | exact Frame.refl _ _ | apply Frame.into (updActive_frame ..) | decide

theorem ownGot_frame (s : State) (k a) : Frame [.hom, .mem, .memPois, .memKey] s (ownGot s k a) := by
  unfold ownGot
  repeat' with_reducible
    first
    | exact Frame.refl _ _ | apply Frame.into (wrLine_frame ..) | simp (disch := decide) only [↓frame_hom_iff] | decide | split

theorem deliver_frame (s : State) (last a) :
    Frame [.pages, .cnt, .cas, .det, .lan, .eng, .hst, .hom, .mov, .lmp, .spn, .mem, .memPois, .memKey, .out] s (deliver s last a) := by
  unfold deliver
  repeat' with_reducible
    first
    | exact Frame.refl _ _ | apply Frame.into (latClose_frame ..) | apply Frame.into (emit_frame ..) | apply Frame.into (casSend_frame ..)
    | apply Frame.into (ownGot_frame ..) | apply Frame.into (updPage_frame ..) | apply Frame.into (cmdAnswered_frame ..)
    | apply Frame.into (engLineDone_frame ..) | apply Frame.into (segReadDone_frame ..) | apply Frame.into (segWriteDone_frame ..)
    | apply Frame.into (toNode_frame ..) | simp (disch := decide) only [↓frame_det_iff, ↓frame_spn_iff] | decide | split

theorem deliverAll_frame (s : State) (x1) :
    Frame [.pages, .cnt, .cas, .det, .lan, .eng, .hst, .hom, .mov, .lmp, .spn, .mem, .memPois, .memKey, .out] s (deliverAll s x1) := by
  induction x1 generalizing s with
  | nil => exact Frame.refl _ _
  | cons a l ih => cases l with
    | nil => exact (deliver_frame _ _ _).mono (by decide)
    | cons b l => exact Frame.into (ih _) (by decide) ((deliver_frame _ _ _).mono (by decide))

theorem refuseReq_frame (s : State) (r st) :
    Frame [.pages, .cnt, .cas, .det, .lan, .eng, .hst, .hom, .mov, .lmp, .spn, .mem, .memPois, .memKey, .out] s (refuseReq s r st) := by
  unfold refuseReq
  repeat' with_reducible first | exact Frame.refl _ _ | apply Frame.into (deliverAll_frame ..) | decide | split

theorem setRedLine_frame (s : State) (r) : Frame [.hom] s (setRedLine s r) := by
  unfold setRedLine
  repeat' with_reducible first | exact Frame.refl _ _ | simp (disch := decide) only [↓frame_hom_iff]

theorem redExec_frame (s : State) (line base pois) : Frame [.hom] s (redExec s line base pois).1 := by
  unfold redExec
  repeat' with_reducible
    first
    | exact Frame.refl _ _ | apply Frame.into (setRedLine_frame ..) | apply Frame.foldlInto | decide | intro _ | split

theorem heatTouch_frame (s : State) (line wr) : Frame [.tir] s (heatTouch s line wr) := by
  unfold heatTouch
  repeat' with_reducible first | exact Frame.refl _ _ | simp (disch := decide) only [↓frame_tir_iff] | decide | split

theorem casTo_frame (s : State) (dst cls line bytes l) : Frame [.cas, .eng, .hst, .out] s (casTo s dst cls line bytes l) := by
  unfold casTo
  repeat' with_reducible first | exact Frame.refl _ _ | apply Frame.into (casSend_frame ..) | decide

theorem sendSnoop_frame (s : State) (line x dest tag) : Frame [.cas, .eng, .hst, .spn, .out] s (sendSnoop s line x dest tag) := by
  unfold sendSnoop
  repeat' with_reducible
    first
    | exact Frame.refl _ _ | apply Frame.into (toNode_frame ..) | apply Frame.into (casTo_frame ..) | apply Frame.into (emit_frame ..)
    | decide | split

theorem sendStash_frame (s : State) (a line d p) : Frame [.cas, .eng, .hst, .out] s (sendStash s a line d p) := by
  unfold sendStash
  repeat' with_reducible
    first
    | exact Frame.refl _ _ | apply Frame.into (casTo_frame ..) | apply Frame.into (emit_frame ..) | decide | split

theorem sendSnoops_frame (s : State) (line dest tag l) : Frame [.cnt, .cas, .eng, .hst, .hom, .spn, .out] s (sendSnoops s line dest tag l).1 := by
  unfold sendSnoops
  repeat' with_reducible
    first
    | exact Frame.refl _ _ | apply Frame.into (sendSnoop_frame ..) | apply Frame.into (count_frame ..) | apply Frame.foldlInto
    | simp (disch := decide) only [↓frame_hom_iff] | decide | intro _ | split

theorem logPoison_frame (s : State) (line pois) : Frame [.pages, .mbx, .cnt, .ras, .hst, .out] s (logPoison s line pois) := by
  unfold logPoison
  repeat' with_reducible first | exact Frame.refl _ _ | apply Frame.into (logErr_hostFrame ..) | decide | split

theorem logRead_frame (s : State) (line pois fromMem) : Frame [.pages, .mbx, .cnt, .ras, .hst, .out] s (logRead s line pois fromMem) := by
  unfold logRead
  repeat' with_reducible first | exact Frame.refl _ _ | apply Frame.into (logPoison_frame ..) | decide | split

theorem stashDrop_frame (s : State) (line) : Frame [.pages, .cnt, .hst, .hom, .out] s (stashDrop s line) := by
  unfold stashDrop
  repeat' with_reducible
    first
    | exact Frame.refl _ _ | apply Frame.into (count_frame ..) | apply Frame.into (raise_hostFrame ..)
    | simp (disch := decide) only [↓frame_hom_iff] | decide | split

theorem grantTxn_frame (s : State) (line t r st win) : Frame [.hom] s (grantTxn s line t r st win) := by
  unfold grantTxn
  repeat' with_reducible first | exact Frame.refl _ _ | apply Frame.into (setTxn_frame ..) | decide

theorem finishBack_frame (s : State) (line t) : Frame [.cnt, .eng, .hst, .hom, .mps, .mem, .memPois, .memKey, .out] s (finishBack s line t) := by
  unfold finishBack
  repeat' with_reducible
    first
    | exact Frame.refl _ _ | apply Frame.into (storeLine_frame ..) | apply Frame.into (setTxn_frame ..) | apply Frame.into (setDir_frame ..)
    | decide | split

theorem finishLost_frame (s : State) (line t) : Frame [.hom] s (finishLost s line t) := by
  unfold finishLost
  repeat' with_reducible first | exact Frame.refl _ _ | apply Frame.into (setTxn_frame ..) | apply Frame.into (setDir_frame ..) | decide

theorem txnDrop_frame (s : State) (line t a) : Frame [.hom] s (txnDrop s line t a).1 := by
  unfold txnDrop
  repeat' with_reducible first | exact Frame.refl _ _ | simp (disch := decide) only [↓frame_hom_iff]

theorem lostAnswer_frame (s : State) (line t a op) : Frame [.hom] s (lostAnswer s line t a op).1 := by
  unfold lostAnswer
  repeat' with_reducible
    first
    | exact Frame.refl _ _ | apply Frame.into (txnDrop_frame ..) | decide | refine Frame.fst ?_ (by assumption) | split

theorem answersLose_frame (s : State) (f g) : Frame [.cas, .spn, .mps] s (answersLose s f g) := by
  unfold answersLose
  repeat' with_reducible first | exact Frame.refl _ _ | simp (disch := decide) only [↓frame_cas_spn_mps_iff]

theorem noteBasic_frame (s : State) (p off sel v) : Frame [.pages] s (noteBasic s p off sel v) := by
  unfold noteBasic
  repeat' with_reducible first | exact Frame.refl _ _ | apply Frame.into (updPage_frame ..) | decide

theorem noteReg_frame (s : State) (p off) : Frame [.pages] s (noteReg s p off) := by
  unfold noteReg
  repeat' with_reducible first | exact Frame.refl _ _ | apply Frame.into (noteBasic_frame ..) | decide

theorem noteSel_frame (s : State) (p off sel) : Frame [.pages, .cas, .lan, .mov, .lmp] s (noteSel s p off sel) := by
  unfold noteSel
  repeat' with_reducible first | exact Frame.refl _ _ | apply Frame.into (noteBasic_frame ..) | decide

theorem noteRegs_frame (s : State) (p offs) : Frame [.pages] s (noteRegs s p offs) := by
  unfold noteRegs
  repeat' with_reducible first | exact Frame.refl _ _ | apply Frame.into (noteReg_frame ..) | apply Frame.foldlInto | decide | intro _

theorem noteSels_frame (s : State) (p sel offs) : Frame [.pages, .cas, .lan, .mov, .lmp] s (noteSels s p sel offs) := by
  unfold noteSels
  repeat' with_reducible first | exact Frame.refl _ _ | apply Frame.into (noteSel_frame ..) | apply Frame.foldlInto | decide | intro _

theorem updToken_frame (s : State) (k f) : Frame [.eng] s (updToken s k f) := by
  unfold updToken
  repeat' with_reducible first | exact Frame.refl _ _ | simp (disch := decide) only [↓frame_eng_iff]

theorem tokenSettle_frame (s : State) (k) : Frame [.eng] s (tokenSettle s k) := by
  unfold tokenSettle
  repeat' with_reducible first | exact Frame.refl _ _ | apply Frame.into (updToken_frame ..) | decide | split

theorem burstFail_frame (s : State) (n b st) :
    Frame [.pages, .cnt, .cas, .det, .lan, .eng, .hst, .hom, .mov, .lmp, .spn, .mem, .memPois, .memKey, .out] s (burstFail s n b st) := by
  unfold burstFail
  repeat' with_reducible
    first
    | exact Frame.refl _ _ | apply Frame.into (tokenSettle_frame ..) | apply Frame.into (refuseReq_frame ..) | apply Frame.foldlInto
    | simp (disch := decide) only [↓frame_eng_iff] | decide | intro _ | split

theorem burstsFail_frame (s : State) (f st) :
    Frame [.pages, .cnt, .cas, .det, .lan, .eng, .hst, .hom, .mov, .lmp, .spn, .mem, .memPois, .memKey, .out] s (burstsFail s f st) := by
  unfold burstsFail
  repeat' with_reducible
    first
    | exact Frame.refl _ _ | apply Frame.into (burstFail_frame ..) | apply Frame.foldlInto | decide | intro _ | split | dsimp only

theorem pfHit_frame (s : State) (e) : Frame [.cnt, .eng] s (pfHit s e) := by
  unfold pfHit
  repeat' with_reducible
    first
    | exact Frame.refl _ _ | apply Frame.into (count_frame ..) | simp (disch := decide) only [↓frame_eng_iff] | decide | split

theorem wdAccept_frame (s : State) (kind target base len src p) : Frame [.lan, .eng, .mov] s (wdAccept s kind target base len src p) := by
  unfold wdAccept
  repeat' with_reducible
    first
    | exact Frame.refl _ _ | apply Frame.into (wdDrop_frame ..) | simp (disch := decide) only [↓frame_lan_iff] | decide | split

theorem wdAsk_frame (s : State) (kind target base len src p) : Frame [.lan, .eng, .mov] s (wdAsk s kind target base len src p) := by
  unfold wdAsk
  repeat' with_reducible
    first
    | exact Frame.refl _ _ | apply Frame.into (wdAccept_frame ..) | simp (disch := decide) only [↓frame_lan_iff] | decide | split

theorem resendUnsent_frame (s : State) (e) : Frame [.cas, .eng, .hst, .spn, .out] s (resendUnsent s e) := by
  unfold resendUnsent
  repeat' with_reducible
    first
    | exact Frame.refl _ _ | apply Frame.into (toNode_frame ..) | apply Frame.into (updSpn_frame ..) | apply Frame.foldlInto | decide
    | intro _ | split

theorem routeApply_frame (s : State) (e v) : Frame [.cas, .eng, .hst, .spn, .out, .inUse] s (routeApply s e v) := by
  unfold routeApply
  repeat' with_reducible
    first
    | exact Frame.refl _ _ | apply Frame.into (remDrain_frame ..) | apply Frame.into (resendUnsent_frame ..)
    | apply Frame.into (updSpn_frame ..) | decide

theorem routeTo_frame (s : State) (v e) : Frame [.cas, .eng, .hst, .spn, .out, .inUse] s (routeTo s v e) := by
  unfold routeTo
  repeat' with_reducible
    first
    | exact Frame.refl _ _ | apply Frame.into (updSpn_frame ..) | apply Frame.into (routeApply_frame ..) | decide | split

theorem tableFill_frame (s : State) : Frame [.pages, .cnt, .cas, .eng, .hst, .spn, .out, .inUse] s (tableFill s) := by
  unfold tableFill
  repeat' with_reducible
    first
    | exact Frame.refl _ _ | apply Frame.into (routeTo_frame ..) | apply Frame.into (raise_hostFrame ..) | apply Frame.foldlInto | decide
    | intro _ | split | dsimp only

theorem routesFill_frame (s : State) (gone) : Frame [.pages, .cnt, .cas, .eng, .hst, .spn, .out, .inUse] s (routesFill s gone) := by
  unfold routesFill
  repeat' with_reducible first | exact Frame.refl _ _ | apply Frame.into (casAll_frame ..) | apply Frame.into (tableFill_frame ..) | decide

theorem spnEnter_frame (s : State) (st bound) : Frame [.spn] s (spnEnter s st bound) := by
  unfold spnEnter
  repeat' with_reducible first | exact Frame.refl _ _ | apply Frame.into (updSpn_frame ..) | decide

theorem spnStart_frame (s : State) : Frame [.spn] s (spnStart s) := by
  unfold spnStart
  repeat' with_reducible
    first
    | exact Frame.refl _ _ | apply Frame.into (updSpn_frame ..) | apply Frame.into (spnEnter_frame ..) | decide | split | dsimp only

theorem spnLeave_frame (s : State) (st) : Frame [.pages, .cnt, .cas, .eng, .hst, .spn, .out, .inUse] s (spnLeave s st) := by
  unfold spnLeave
  repeat' with_reducible
    first
    | exact Frame.refl _ _ | apply Frame.into (updSpn_frame ..) | apply Frame.into (routesFill_frame ..)
    | apply Frame.into (raise_hostFrame ..) | decide | split | dsimp only

theorem spnPoll_frame (s : State) : Frame [.spn] s (spnPoll s) := by
  unfold spnPoll
  repeat' with_reducible first | exact Frame.refl _ _ | apply Frame.into (spnStart_frame ..) | decide | split

theorem spnDown_frame (s : State) : Frame [.pages, .cnt, .cas, .eng, .hst, .spn, .out, .inUse] s (spnDown s) := by
  unfold spnDown
  repeat' with_reducible first | exact Frame.refl _ _ | apply Frame.into (updSpn_frame ..) | apply Frame.into (spnLeave_frame ..) | decide

theorem bootAdvance_frame (s : State) : Frame [.boot] s (bootAdvance s) := by
  unfold bootAdvance
  repeat' with_reducible first | exact Frame.refl _ _ | simp (disch := decide) only [↓frame_boot_iff] | decide | split

theorem dpIdle_frame (s : State) (p) : Frame [.pages] s (dpIdle s p) := by
  unfold dpIdle
  repeat' with_reducible first | exact Frame.refl _ _ | apply Frame.into (updPage_frame ..) | decide

theorem dpFail_frame (s : State) (p st) : Frame [.pages, .cnt, .hst, .out] s (dpFail s p st) := by
  unfold dpFail
  repeat' with_reducible
    first
    | exact Frame.refl _ _ | apply Frame.into (raise_hostFrame ..) | apply Frame.into (updPage_frame ..)
    | apply Frame.into (dpIdle_frame ..) | decide

theorem dpLanded_frame (s : State) (p) : Frame [.pages] s (dpLanded s p) := by
  unfold dpLanded
  repeat' with_reducible first | exact Frame.refl _ _ | apply Frame.into (updPage_frame ..) | decide

theorem dpDoneOk_frame (s : State) (p) : Frame [.pages, .cnt, .hst, .out] s (dpDoneOk s p) := by
  unfold dpDoneOk
  repeat' with_reducible
    first
    | exact Frame.refl _ _ | apply Frame.into (raise_hostFrame ..) | apply Frame.into (updPage_frame ..)
    | apply Frame.into (dpIdle_frame ..) | decide

theorem dpStart_frame (s : State) (st p mode v) : Frame [.pages, .cnt, .hst, .hom, .out] s (dpStart s st p mode v) := by
  unfold dpStart
  repeat' with_reducible
    first
    | exact Frame.refl _ _ | apply Frame.into (updPage_frame ..) | apply Frame.into (dpFail_frame ..) | apply Frame.into (ownDone_frame ..)
    | decide | split | dsimp only

theorem dpCommitOut_frame (s : State) (p flush) : Frame [.pages, .cnt, .hst, .out] s (dpCommitOut s p flush) := by
  unfold dpCommitOut
  repeat' with_reducible
    first
    | exact Frame.refl _ _ | apply Frame.into (dpFail_frame ..) | apply Frame.into (updPage_frame ..) | decide | split | dsimp only

theorem dpConflictSet_frame (s : State) (p) : Frame [.pages] s (dpConflictSet s p) := by
  unfold dpConflictSet
  repeat' with_reducible first | exact Frame.refl _ _ | apply Frame.into (updPage_frame ..) | decide

theorem dpIgnored_frame (s : State) (p) : Frame [.pages] s (dpIgnored s p) := by
  unfold dpIgnored
  repeat' with_reducible first | exact Frame.refl _ _ | apply Frame.into (updPage_frame ..) | decide

theorem dpCtlSet_frame (s : State) (st p v) : Frame [.pages, .cnt, .hst, .hom, .out] s (dpCtlSet s st p v) := by
  unfold dpCtlSet
  repeat' with_reducible
    first
    | exact Frame.refl _ _ | apply Frame.into (dpCommitOut_frame ..) | apply Frame.into (dpIgnored_frame ..)
    | apply Frame.into (updPage_frame ..) | apply Frame.into (dpIdle_frame ..) | apply Frame.into (raise_hostFrame ..)
    | apply Frame.into (dpStart_frame ..) | decide | split | dsimp only

theorem dpAddrSet_frame (s : State) (p v) : Frame [.pages] s (dpAddrSet s p v) := by
  unfold dpAddrSet
  repeat' with_reducible first | exact Frame.refl _ _ | apply Frame.into (updPage_frame ..) | decide

theorem dpBlockRead_frame (s : State) (p) : Frame [.pages, .cnt, .hst, .out] s (dpBlockRead s p) := by
  unfold dpBlockRead
  repeat' with_reducible
    first
    | exact Frame.refl _ _ | apply Frame.into (dpFail_frame ..) | apply Frame.into (dpDoneOk_frame ..) | apply Frame.into (updPage_frame ..)
    | decide | split | dsimp only

theorem dpRead_frame (s : State) (a p off size) : Frame [.pages, .cnt, .cas, .eng, .hst, .out] s (dpRead s a p off size) := by
  unfold dpRead
  repeat' with_reducible
    first
    | exact Frame.refl _ _ | apply Frame.into (regRsp_anyFrame ..) | apply Frame.into (dpConflictSet_frame ..)
    | apply Frame.into (updPage_frame ..) | apply Frame.into (dpBlockRead_frame ..) | decide | split | dsimp only

theorem dpWrite_frame (s : State) (p off size data) : Frame [.pages, .cnt, .hst, .out] s (dpWrite s p off size data) := by
  unfold dpWrite
  repeat' with_reducible
    first
    | exact Frame.refl _ _ | apply Frame.into (updPage_frame ..) | apply Frame.into (dpCommitOut_frame ..) | apply Frame.foldlInto | decide
    | intro _ | split

theorem dpDo_frame (s : State) (p x) : Frame [.pages, .cnt, .cas, .eng, .hst, .hom, .out] s (dpDo s p x) := by
  unfold dpDo
  repeat' with_reducible
    first
    | exact Frame.refl _ _ | apply Frame.into (regRsp_anyFrame ..) | apply Frame.into (dpConflictSet_frame ..)
    | apply Frame.into (dpAddrSet_frame ..) | apply Frame.into (dpCtlSet_frame ..) | apply Frame.into (dpWrite_frame ..)
    | apply Frame.into (dpRead_frame ..) | decide | split | dsimp only

theorem dpSettle_frame (s : State) (x0 x2) : Frame [.pages, .cnt, .cas, .eng, .hst, .hom, .out] s (dpSettle x0 s x2) := by
  induction x0 generalizing s with
  | zero => exact Frame.refl _ _
  | succ n ih =>
    unfold dpSettle
    repeat' with_reducible
      first
      | apply Frame.into (ih ..) | exact Frame.refl _ _ | apply Frame.into (dpDo_frame ..) | apply Frame.into (updPage_frame ..) | decide
      | apply ih | split

theorem dpSettleAll_frame (s : State) (p) : Frame [.pages, .cnt, .cas, .eng, .hst, .hom, .out] s (dpSettleAll s p) := by
  unfold dpSettleAll
  repeat' with_reducible first | exact Frame.refl _ _ | apply Frame.into (dpSettle_frame ..) | decide

theorem dpFenced_frame (s : State) (p) : Frame [.pages, .cnt, .cas, .eng, .hst, .hom, .out] s (dpFenced s p) := by
  unfold dpFenced
  repeat' with_reducible
    first
    | exact Frame.refl _ _ | apply Frame.into (dpSettleAll_frame ..) | apply Frame.into (dpLanded_frame ..)
    | apply Frame.into (dpFail_frame ..) | decide | split

theorem stagePut_frame (s : State) (l) : Frame [.boot] s (stagePut s l) := by
  unfold stagePut
  repeat' with_reducible first | exact Frame.refl _ _ | apply Frame.foldlInto | simp (disch := decide) only [↓frame_boot_iff]

theorem xfmCommit_frame (s : State) (l) : Frame [.det, .xfm] s (xfmCommit s l) := by
  unfold xfmCommit
  repeat' with_reducible first | exact Frame.refl _ _ | apply Frame.foldlInto | simp (disch := decide) only [↓frame_det_xfm_iff]

theorem setPipeBuf_frame (s : State) (pipe l) : Frame [.mov] s (setPipeBuf s pipe l) := by
  unfold setPipeBuf
  repeat' with_reducible first | exact Frame.refl _ _ | simp (disch := decide) only [↓frame_mov_iff]

theorem pipeFill_frame (s : State) (pipe e) : Frame [.mov] s (pipeFill s pipe e) := by
  unfold pipeFill
  repeat' with_reducible first | exact Frame.refl _ _ | apply Frame.into (setPipeBuf_frame ..) | decide

theorem pipeMiss_frame (s : State) (pipe sid va acc who) : Frame [.lan] s (pipeMiss s pipe sid va acc who) := by
  unfold pipeMiss
  repeat' with_reducible first | exact Frame.refl _ _ | simp (disch := decide) only [↓frame_lan_iff] | decide | split

theorem pipeDrop_frame (s : State) (pipe e) : Frame [.lan, .mov] s (pipeDrop s pipe e) := by
  unfold pipeDrop
  repeat' with_reducible
    first
    | exact Frame.refl _ _ | apply Frame.into (setPipeBuf_frame ..) | simp (disch := decide) only [↓frame_lan_iff] | decide

theorem pipeCheck_frame (s : State) (pipe sid va n acc who e) : Frame [.lan, .mov] s (pipeCheck s pipe sid va n acc who e).1 := by
  unfold pipeCheck
  repeat' with_reducible
    first
    | exact Frame.refl _ _ | apply Frame.into (pipeMiss_frame ..) | apply Frame.into (pipeDrop_frame ..)
    | apply Frame.into (setPipeBuf_frame ..) | decide | split | dsimp only

theorem pipeLook_frame (s : State) (pipe sid va n acc who) : Frame [.cnt, .lan, .eng, .mov] s (pipeLook s pipe sid va n acc who).1 := by
  unfold pipeLook
  repeat' with_reducible
    first
    | exact Frame.refl _ _ | apply Frame.into (pipeCheck_frame ..) | apply Frame.into (pipeFill_frame ..)
    | apply Frame.into (pfHit_frame ..) | apply Frame.into (lanternTouch_frame ..) | apply Frame.into (pipeMiss_frame ..) | decide
    | refine Frame.fst ?_ (by assumption) | split | dsimp only

theorem chanSettle_frame (s : State) (ch) : Frame [.eng, .mov] s (chanSettle s ch) := by
  unfold chanSettle
  repeat' with_reducible
    first
    | exact Frame.refl _ _ | apply Frame.into (tokenSettle_frame ..) | apply Frame.into (updChan_frame ..) | apply Frame.foldlInto | decide
    | intro _

theorem spaceLookup_frame (s : State) (sid va acc) : Frame [.pages, .cnt, .lan, .hst, .out] s (spaceLookup s sid va acc).1 := by
  unfold spaceLookup
  repeat' with_reducible
    first
    | exact Frame.refl _ _ | apply Frame.into (walk_frame ..) | apply Frame.into (installX_frame ..)
    | apply Frame.into (lanternTouch_frame ..) | apply Frame.into (count_frame ..) | simp (disch := decide) only [↓frame_lan_iff] | decide
    | refine Frame.fst ?_ (by assumption) | split

theorem ownLook_frame (s : State) (sid p va acc) : Frame [.pages, .cnt, .lan, .hst, .out] s (ownLook s sid p va acc).1 := by
  unfold ownLook
  repeat' with_reducible
    first
    | exact Frame.refl _ _ | apply Frame.into (spaceLookup_frame ..) | decide | refine Frame.fst ?_ (by assumption) | split | dsimp only

theorem watchDisarm_frame (s : State) (npa) : Frame [.hom, .mem, .memPois, .memKey] s (watchDisarm s npa) := by
  unfold watchDisarm
  repeat' with_reducible
    first
    | exact Frame.refl _ _ | apply Frame.into (relayLater_frame ..) | apply Frame.into (wrWord_frame ..) | decide | split | dsimp only

theorem tookChan_frame (s : State) (pipe p c) : Frame [.mov] s (tookChan s pipe p c) := by
  unfold tookChan
  repeat' with_reducible first | exact Frame.refl _ _ | simp (disch := decide) only [↓frame_mov_iff]

theorem moveDone_frame (s : State) (ch f) : Frame [.mov, .lmp] s (moveDone s ch f) := by
  unfold moveDone
  repeat' with_reducible
    first
    | exact Frame.refl _ _ | apply Frame.into (updChan_frame ..) | apply Frame.into (endCmd_frame ..) | decide | split | dsimp only

theorem chanLose_frame (s : State) (ch c) : Frame [.eng, .mov, .lmp] s (chanLose s ch c) := by
  unfold chanLose
  repeat' with_reducible
    first
    | exact Frame.refl _ _ | apply Frame.into (updChan_frame ..) | apply Frame.into (moveDone_frame ..)
    | apply Frame.into (chanSettle_frame ..) | apply Frame.foldlInto | decide | intro _ | split | dsimp only

theorem moverXfmGone_frame (s : State) : Frame [.mov] s (moverXfmGone s) := by
  unfold moverXfmGone
  repeat' with_reducible first | exact Frame.refl _ _ | simp (disch := decide) only [↓frame_mov_iff]

theorem lowFreeNote_frame (s : State) : Frame [.pages, .cnt, .hst, .out] s (lowFreeNote s) := by
  unfold lowFreeNote
  repeat' with_reducible first | exact Frame.refl _ _ | apply Frame.into (raise_hostFrame ..) | decide | split

theorem updTierCmd_frame (s : State) (q seq f) : Frame [.tir] s (updTierCmd s q seq f) := by
  unfold updTierCmd
  repeat' with_reducible first | exact Frame.refl _ _ | simp (disch := decide) only [↓frame_tir_iff]

theorem closeTier_frame (s : State) (q seq) : Frame [.tir, .lmp] s (closeTier s q seq) := by
  unfold closeTier
  repeat' with_reducible
    first
    | exact Frame.refl _ _ | apply Frame.into (endCmd_frame ..) | apply Frame.into (updCmd_frame ..)
    | simp (disch := decide) only [↓frame_tir_iff] | decide | split

theorem irqKeep_frame (s : State) (x1) : Frame [.pages, .mbx] s (irqKeep s x1) := by
  unfold irqKeep
  repeat' with_reducible
    first
    | exact Frame.refl _ _ | apply Frame.into (updPage_frame ..) | simp (disch := decide) only [↓frame_mbx_iff] | decide | split

theorem tirGone_frame (s : State) : Frame [.tir, .lmp] s (tirGone s) := by
  unfold tirGone
  repeat' with_reducible
    first
    | exact Frame.refl _ _ | apply Frame.into (closeTier_frame ..) | apply Frame.foldlInto | simp (disch := decide) only [↓frame_tir_iff]
    | decide | intro _

theorem movGone_frame (s : State) : Frame [.mov] s (movGone s) := by
  unfold movGone
  repeat' with_reducible first | exact Frame.refl _ _ | simp (disch := decide) only [↓frame_mov_iff]

theorem heldIrqs_frame (s : State) (h) : Frame [.pages, .mbx, .eng, .hst, .out] s (heldIrqs s h) := by
  unfold heldIrqs
  repeat' with_reducible
    first
    | exact Frame.refl _ _ | apply Frame.into (updPage_frame ..) | apply Frame.into (emit_frame ..) | apply Frame.into (updMb_frame ..)
    | apply Frame.foldlInto | decide | intro _ | split | dsimp only

theorem linkInit_frame (s : State) (p credits) : Frame [.pages, .boot, .mbx, .cnt, .eng, .hst, .out] s (linkInit s p credits) := by
  unfold linkInit
  repeat' with_reducible
    first
    | exact Frame.refl _ _ | apply Frame.into (updLink_frame ..) | apply Frame.into (raise_hostFrame ..)
    | apply Frame.into (bootAdvance_frame ..) | apply Frame.into (heldIrqs_frame ..) | decide | split

theorem bcnCfgSet_frame (s : State) (v) : Frame [.bcn] s (bcnCfgSet s v).1 := by
  unfold bcnCfgSet
  repeat' with_reducible first | exact Frame.refl _ _ | apply Frame.into (updBcn_frame ..) | decide | split | dsimp only

theorem bcnPeriodSet_frame (s : State) (v) : Frame [.bcn] s (bcnPeriodSet s v).1 := by
  unfold bcnPeriodSet
  repeat' with_reducible first | exact Frame.refl _ _ | apply Frame.into (updBcn_frame ..) | decide | split | dsimp only

theorem irqAfter_frame (s : State) (p) : Frame [.pages, .hst, .out] s (irqAfter s p) := by
  unfold irqAfter
  repeat' with_reducible first | exact Frame.refl _ _ | apply Frame.into (sendIrq_hostFrame ..) | decide | split

theorem beaconSet_frame (s : State) (src) : Frame [.pages, .bcn] s (beaconSet s src) := by
  unfold beaconSet
  repeat' with_reducible
    first
    | exact Frame.refl _ _ | apply Frame.into (bcnCfgSet_frame ..) | apply Frame.into (bcnPeriodSet_frame ..)
    | apply Frame.into (noteBasic_frame ..) | decide

theorem closeSession_frame (s : State) (k) : Frame [.hom] s (closeSession s k) := by
  unfold closeSession
  repeat' with_reducible first | exact Frame.refl _ _ | simp (disch := decide) only [↓frame_hom_iff]

theorem fpCompute_frame (s : State) : Frame [.det] s (fpCompute s) := by
  unfold fpCompute
  repeat' with_reducible first | exact Frame.refl _ _ | apply Frame.foldlInto | simp (disch := decide) only [↓frame_det_iff]

theorem unitUp_frame (s : State) (p) : Frame [.pages, .eng, .hst, .mps] s (unitUp s p) := by
  unfold unitUp
  repeat' with_reducible
    first
    | exact Frame.refl _ _ | apply Frame.into (updPage_frame ..) | apply Frame.into (noteReg_frame ..) | apply Frame.into (updLink_frame ..)
    | apply Frame.into (updMp_frame ..) | decide | split

theorem paramBeacon_frame (s : State) : Frame [.pages, .boot, .bcn] s (paramBeacon s) := by
  unfold paramBeacon
  repeat' with_reducible
    first
    | exact Frame.refl _ _ | apply Frame.into (beaconSet_frame ..) | simp (disch := decide) only [↓frame_boot_iff] | decide | split

theorem paramCascade_frame (s : State) : Frame [.pages, .cas, .lan, .mov, .lmp] s (paramCascade s) := by
  unfold paramCascade
  repeat' with_reducible
    first
    | exact Frame.refl _ _ | apply Frame.into (noteSels_frame ..) | apply Frame.into (noteReg_frame ..) | apply Frame.foldlInto
    | simp (disch := decide) only [↓frame_cas_iff] | decide | intro _ | split

theorem paramMemory_frame (s : State) : Frame [.pages, .cas, .lan, .mov, .tir, .lmp] s (paramMemory s) := by
  unfold paramMemory
  repeat' with_reducible
    first
    | exact Frame.refl _ _ | apply Frame.into (paramCascade_frame ..) | apply Frame.into (noteRegs_frame ..) | apply Frame.foldlInto
    | simp (disch := decide) only [↓frame_tir_iff] | decide | intro _ | split

theorem raiseEpochs_frame (s : State) : Frame [.pages, .boot, .sec, .cnt, .hst, .out] s (raiseEpochs s) := by
  unfold raiseEpochs
  repeat' with_reducible
    first
    | exact Frame.refl _ _ | apply Frame.into (raise_hostFrame ..) | apply Frame.foldlInto
    | simp (disch := decide) only [↓frame_sec_iff, ↓frame_boot_iff] | decide | intro _ | split

end Sys2Proof.Machine
end

section
namespace Sys2Proof.Machine
open Sys2Proof

/-!
# What leaves the fences of the pages as they are

The operations by which the block takes leave of a unit: each raises interrupts, answers what waits and lets requests move on, and none of them
fences a page or takes a fence away.
-/

/-- The fence of every page stays. -/
def FencesKept (s t : State) : Prop := ∀ q, (page t q).fence = (page s q).fence

variable {s t : State}

theorem FencesKept.refl (s : State) : FencesKept s s := fun _ => rfl

theorem FencesKept.ofFrame {l : List Comp} {u : State} (h : FencesKept s t) (g : Frame l t u) (hl : Comp.pages ∉ l) : FencesKept s u :=
  fun q => by rw [page_of_frame g hl, h q]

theorem fences_mk (build clk free boot fuses bcn sec mbx cnt parts ras cas det lan eng hst hom mov xfm tir lmp fnc spn
    mps mem memPois memKey memScrub out inUse sampled pending) :
    FencesKept s ⟨build, clk, free, t.pages, boot, fuses, bcn, sec, mbx, cnt, parts, ras, cas, det, lan, eng, hst, hom, mov, xfm, tir, lmp, fnc, spn,
      mps, mem, memPois, memKey, memScrub, out, inUse, sampled, pending⟩ ↔ FencesKept s t := Iff.rfl

theorem fences_foldl {α : Type} (h : FencesKept s t) (f : State → α → State) (l : List α) (hf : ∀ u x, FencesKept s u → FencesKept s (f u x)) :
    FencesKept s (l.foldl f t) := by
  induction l generalizing t with
  | nil => exact h
  | cons x l ih => exact ih (hf _ x h)

theorem fences_fst {α : Type} {x : State × α} {r : α} (h : FencesKept s x.1) (e : x = (t, r)) : FencesKept s t := by cases e; exact h

theorem fences_updPage (h : FencesKept s t) (p f) (hf : ∀ x : Page, (f x).fence = x.fence) : FencesKept s (updPage t p f) := by
  intro q
  by_cases hq : q = p
  · rw [hq, page_updPage_self, hf, h]
  · rw [page_updPage_ne _ _ _ _ hq, h]

theorem fences_emit (h : FencesKept s t) (m) : FencesKept s (emit t m) := h.ofFrame (emit_frame _ _) (by decide)

theorem fences_regRsp (h : FencesKept s t) (st status data) : FencesKept s (regRsp t st status data) := h.ofFrame (regRsp_anyFrame _ _ _ _) (by decide)

theorem fences_dpConflictSet (h : FencesKept s t) (p) : FencesKept s (dpConflictSet t p) := by
  unfold dpConflictSet
  repeat' with_reducible first | assumption | refine fences_updPage ?_ _ _ (fun _ => rfl)

theorem fences_dpAddrSet (h : FencesKept s t) (p v) : FencesKept s (dpAddrSet t p v) :=
  fences_updPage h p _ (fun x => by split <;> rfl)

theorem fences_count (h : FencesKept s t) (page ev part inst n) : FencesKept s (count t page ev part inst n) := h.ofFrame (count_frame _ _ _ _ _ _) (by decide)

theorem fences_sendIrq (h : FencesKept s t) (p) : FencesKept s (sendIrq t p) := by
  unfold sendIrq
  repeat' with_reducible first | assumption | intro _ | apply fences_emit | refine fences_updPage ?_ _ _ (fun _ => rfl) | apply fences_foldl | split

theorem fences_raise (h : FencesKept s t) (p bit) : FencesKept s (raise t p bit) := by
  unfold raise
  repeat' with_reducible first | assumption | refine fences_updPage ?_ _ _ (fun _ => rfl) | apply fences_count | apply fences_sendIrq | split | dsimp only

theorem fences_dpIdle (h : FencesKept s t) (p) : FencesKept s (dpIdle t p) := by
  unfold dpIdle
  repeat' with_reducible first | assumption | refine fences_updPage ?_ _ _ (fun _ => rfl)

theorem fences_dpFail (h : FencesKept s t) (p st) : FencesKept s (dpFail t p st) := by
  unfold dpFail
  repeat' with_reducible first | assumption | apply fences_raise | refine fences_updPage ?_ _ _ (fun _ => rfl) | apply fences_dpIdle

theorem dpAdvance_fence (q : Page) : (dpAdvance q).fence = q.fence := by
  unfold dpAdvance
  dsimp only
  repeat' split
  all_goals rfl

theorem fences_dpCommitOut (h : FencesKept s t) (p flush) : FencesKept s (dpCommitOut t p flush) := by
  unfold dpCommitOut
  repeat' with_reducible first | assumption | apply fences_dpFail | refine fences_updPage ?_ _ _ (fun x => ?_) | exact dpAdvance_fence _ | split | dsimp only
  all_goals rfl

theorem fences_dpIgnored (h : FencesKept s t) (p) : FencesKept s (dpIgnored t p) := by
  unfold dpIgnored
  repeat' with_reducible first | assumption | refine fences_updPage ?_ _ _ (fun _ => rfl)

theorem fences_ownDone (h : FencesKept s t) (k) : FencesKept s (ownDone t k) := h.ofFrame (ownDone_frame _ _) (by decide)

theorem fences_dpStart (h : FencesKept s t) (st p mode v) : FencesKept s (dpStart t st p mode v) := by
  unfold dpStart
  repeat' with_reducible first | assumption | refine fences_updPage ?_ _ _ (fun _ => rfl) | apply fences_dpFail | apply fences_ownDone | split | dsimp only

theorem fences_dpCtlSet (h : FencesKept s t) (st p v) : FencesKept s (dpCtlSet t st p v) := by
  unfold dpCtlSet
  repeat' with_reducible
    first
    | assumption | apply fences_dpCommitOut | apply fences_dpIgnored | refine fences_updPage ?_ _ _ (fun _ => rfl) | apply fences_dpIdle | apply fences_raise
    | apply fences_dpStart | split | dsimp only

theorem fences_dpWrite (h : FencesKept s t) (p off size data) : FencesKept s (dpWrite t p off size data) := by
  unfold dpWrite
  repeat' with_reducible first | assumption | intro _ | refine fences_updPage ?_ _ _ (fun _ => rfl) | apply fences_dpCommitOut | apply fences_foldl | split

theorem fences_dpDoneOk (h : FencesKept s t) (p) : FencesKept s (dpDoneOk t p) := by
  unfold dpDoneOk
  repeat' with_reducible first | assumption | apply fences_raise | refine fences_updPage ?_ _ _ (fun _ => rfl) | apply fences_dpIdle

theorem fences_dpBlockRead (h : FencesKept s t) (p) : FencesKept s (dpBlockRead t p) := by
  unfold dpBlockRead
  repeat' with_reducible first | assumption | apply fences_dpFail | apply fences_dpDoneOk | refine fences_updPage ?_ _ _ (fun _ => rfl) | split | dsimp only

theorem fences_dpRead (h : FencesKept s t) (a p off size) : FencesKept s (dpRead t a p off size) := by
  unfold dpRead
  repeat' with_reducible
    first
    | assumption | apply fences_regRsp | apply fences_dpConflictSet | refine fences_updPage ?_ _ _ (fun _ => rfl) | apply fences_dpBlockRead | split | dsimp only

theorem fences_dpDo (h : FencesKept s t) (p x) : FencesKept s (dpDo t p x) := by
  unfold dpDo
  repeat' with_reducible
    first
    | assumption | apply fences_regRsp | apply fences_dpConflictSet | apply fences_dpAddrSet | apply fences_dpCtlSet | apply fences_dpWrite
    | apply fences_dpRead | split | dsimp only

theorem fences_dpSettle (h : FencesKept s t) (n p) : FencesKept s (dpSettle n t p) := by
  induction n generalizing t with
  | zero => exact h
  | succ n ih =>
    unfold dpSettle
    repeat' with_reducible first | assumption | apply ih | apply fences_dpDo | refine fences_updPage ?_ _ _ (fun _ => rfl) | split

theorem fences_dpSettleAll (h : FencesKept s t) (p) : FencesKept s (dpSettleAll t p) := by
  unfold dpSettleAll
  repeat' with_reducible first | assumption | apply fences_dpSettle

theorem fences_dpLanded (h : FencesKept s t) (p) : FencesKept s (dpLanded t p) := by
  unfold dpLanded
  repeat' with_reducible first | assumption | refine fences_updPage ?_ _ _ (fun _ => rfl)

theorem fences_dpFenced (h : FencesKept s t) (p) : FencesKept s (dpFenced t p) := by
  unfold dpFenced
  repeat' with_reducible first | assumption | apply fences_dpSettleAll | apply fences_dpLanded | apply fences_dpFail | split

theorem fences_irqKeep (h : FencesKept s t) (m) : FencesKept s (irqKeep t m) := by
  unfold irqKeep
  repeat' with_reducible first | assumption | refine fences_updPage ?_ _ _ (fun x => ?_) | simp only [↓fences_mk] | split
  all_goals rfl

theorem fences_updLink (h : FencesKept s t) (p f) : FencesKept s (updLink t p f) := h.ofFrame (updLink_frame _ _ _) (by decide)

theorem fences_answersLose (h : FencesKept s t) (f g) : FencesKept s (answersLose t f g) := h.ofFrame (answersLose_frame _ _ _) (by decide)

theorem fences_sendSnoops (h : FencesKept s t) (line dest tag l) : FencesKept s (sendSnoops t line dest tag l).1 := h.ofFrame (sendSnoops_frame _ _ _ _ _) (by decide)

theorem fences_setTxn (h : FencesKept s t) (line t') : FencesKept s (setTxn t line t') := h.ofFrame (setTxn_frame _ _ _) (by decide)

theorem fences_setDir (h : FencesKept s t) (line e) : FencesKept s (setDir t line e) := h.ofFrame (setDir_frame _ _ _) (by decide)

theorem fences_latClose (h : FencesKept s t) (h' a last) : FencesKept s (latClose t h' a last) := h.ofFrame (latClose_frame _ _ _ _) (by decide)

theorem fences_casSend (h : FencesKept s t) (m) : FencesKept s (casSend t m) := h.ofFrame (casSend_frame _ _) (by decide)

theorem fences_ownGot (h : FencesKept s t) (k a) : FencesKept s (ownGot t k a) := h.ofFrame (ownGot_frame _ _ _) (by decide)

theorem fences_cmdAnswered (h : FencesKept s t) (q seq st) : FencesKept s (cmdAnswered t q seq st) := h.ofFrame (cmdAnswered_frame _ _ _ _) (by decide)

theorem fences_engLineDone (h : FencesKept s t) (n b st) : FencesKept s (engLineDone t n b st) := h.ofFrame (engLineDone_frame _ _ _ _) (by decide)

theorem fences_segReadDone (h : FencesKept s t) (c k g i a) : FencesKept s (segReadDone t c k g i a) := h.ofFrame (segReadDone_frame _ _ _ _ _ _) (by decide)

theorem fences_segWriteDone (h : FencesKept s t) (c k g tag st) : FencesKept s (segWriteDone t c k g tag st) := h.ofFrame (segWriteDone_frame _ _ _ _ _ _) (by decide)

theorem fences_toNode (h : FencesKept s t) (node m) : FencesKept s (toNode t node m) := h.ofFrame (toNode_frame _ _ _) (by decide)

theorem fences_deliver (h : FencesKept s t) (last a) : FencesKept s (deliver t last a) := by
  unfold deliver
  repeat' with_reducible
    first
    | assumption | apply fences_latClose | apply fences_emit | apply fences_casSend | apply fences_ownGot | refine fences_updPage ?_ _ _ (fun _ => rfl)
    | apply fences_cmdAnswered | apply fences_engLineDone | apply fences_segReadDone | apply fences_segWriteDone | apply fences_toNode
    | simp only [↓fences_mk] | split

theorem fences_deliverAll (h : FencesKept s t) (l) : FencesKept s (deliverAll t l) := by
  induction l generalizing t with
  | nil => exact h
  | cons a l ih => cases l with
    | nil => exact fences_deliver h _ _
    | cons b l => exact ih (fences_deliver h _ _)

theorem fences_refuseReq (h : FencesKept s t) (r st) : FencesKept s (refuseReq t r st) := by
  unfold refuseReq
  repeat' with_reducible first | assumption | apply fences_deliverAll | split

theorem fences_tenant (h : FencesKept s t) (part src n) : FencesKept s (tenant t part src n) := h.ofFrame (tenant_frame _ _ _ _) (by decide)

theorem fences_ringS2h (h : FencesKept s t) (m bit) : FencesKept s (ringS2h t m bit) := h.ofFrame (ringS2h_hostFrame _ _ _) (by decide)

theorem fences_rasTotal (h : FencesKept s t) (c) : FencesKept s (rasTotal t c) := by
  unfold rasTotal
  repeat' with_reducible first | assumption | apply fences_count | apply fences_raise | apply fences_ringS2h | simp only [↓fences_mk] | split

theorem fences_logErr (h : FencesKept s t) (c st page index part addr va) : FencesKept s (logErr t c st page index part addr va) := by
  unfold logErr
  repeat' with_reducible first | assumption | apply fences_count | apply fences_raise | apply fences_rasTotal | simp only [↓fences_mk] | split

theorem fences_logPoison (h : FencesKept s t) (line pois) : FencesKept s (logPoison t line pois) := by
  unfold logPoison
  repeat' with_reducible first | assumption | apply fences_logErr | split

theorem fences_logRead (h : FencesKept s t) (line pois fromMem) : FencesKept s (logRead t line pois fromMem) := by
  unfold logRead
  repeat' with_reducible first | assumption | apply fences_logPoison | split

theorem fences_grantTxn (h : FencesKept s t) (line t' r st win) : FencesKept s (grantTxn t line t' r st win) := h.ofFrame (grantTxn_frame _ _ _ _ _ _) (by decide)

theorem fences_updMp (h : FencesKept s t) (p f) : FencesKept s (updMp t p f) := h.ofFrame (updMp_frame _ _ _) (by decide)

theorem fences_mpLine (h : FencesKept s t) (p) : FencesKept s (mpLine t p) := h.ofFrame (mpLine_frame _ _) (by decide)

theorem fences_viaMemory (h : FencesKept s t) (line as) : FencesKept s (viaMemory t line as) := by
  unfold viaMemory
  repeat' with_reducible
    first
    | assumption | apply fences_deliverAll | apply fences_updMp | apply fences_mpLine | apply fences_emit | split | dsimp only

theorem fences_answer (h : FencesKept s t) (line fromMem as) : FencesKept s (answer t line fromMem as) := by
  unfold answer
  repeat' with_reducible first | assumption | apply fences_viaMemory | apply fences_deliverAll | split

theorem fences_storeLine (h : FencesKept s t) (line d pois) : FencesKept s (storeLine t line d pois) := h.ofFrame (storeLine_frame _ _ _ _) (by decide)

theorem fences_redExec (h : FencesKept s t) (line base pois) : FencesKept s (redExec t line base pois).1 := h.ofFrame (redExec_frame _ _ _ _) (by decide)

theorem fences_aluTouch (h : FencesKept s t) (line) : FencesKept s (aluTouch t line) := h.ofFrame (aluTouch_frame _ _) (by decide)

theorem fences_wrLine (h : FencesKept s t) (line d pois) : FencesKept s (wrLine t line d pois) := h.ofFrame (wrLine_frame _ _ _ _) (by decide)

theorem fences_wrWords (h : FencesKept s t) (a x2) : FencesKept s (wrWords t a x2) := h.ofFrame (wrWords_frame _ _ _) (by decide)

theorem fences_wrWord (h : FencesKept s t) (a w) : FencesKept s (wrWord t a w) := h.ofFrame (wrWord_frame _ _ _) (by decide)

theorem fences_notify (h : FencesKept s t) (a v) : FencesKept s (notify t a v) := h.ofFrame (notify_frame _ _ _) (by decide)

theorem fences_kernelEnd (h : FencesKept s t) (p slot) : FencesKept s (kernelEnd t p slot) := h.ofFrame (kernelEnd_frame _ _ _) (by decide)

theorem fences_signalRec (h : FencesKept s t) (a v p) : FencesKept s (signalRec t a v p).1 := by
  unfold signalRec
  repeat' with_reducible
    first
    | assumption | intro _ | apply fences_wrWords | apply fences_wrWord | apply fences_tenant | apply fences_count | apply fences_notify
    | apply fences_kernelEnd | apply fences_raise | apply fences_foldl | simp only [↓fences_mk] | split

theorem fences_barRefuse (h : FencesKept s t) (p st) : FencesKept s (barRefuse t p st).1 := h.ofFrame (barRefuse_frame _ _ _) (by decide)

theorem fences_doom (h : FencesKept s t) (c st) : FencesKept s (doom t c st) := h.ofFrame (doom_frame _ _ _) (by decide)

theorem fences_barWriteBack (h : FencesKept s t) (b bound abandoned) : FencesKept s (barWriteBack t b bound abandoned) := h.ofFrame (barWriteBack_frame _ _ _ _) (by decide)

theorem fences_setBar (h : FencesKept s t) (i b) : FencesKept s (setBar t i b) := h.ofFrame (setBar_frame _ _ _) (by decide)

theorem fences_takeUnit (h : FencesKept s t) (kind i) : FencesKept s (takeUnit t kind i) := h.ofFrame (takeUnit_frame _ _ _) (by decide)

theorem fences_sigDrop (h : FencesKept s t) (p) : FencesKept s (sigDrop t p) := by
  unfold sigDrop
  repeat' with_reducible first | assumption | apply fences_count | apply fences_raise | simp only [↓fences_mk] | split

theorem fences_remoteSignal (h : FencesKept s t) (p node a v) : FencesKept s (remoteSignal t p node a v) := h.ofFrame (remoteSignal_frame _ _ _ _ _) (by decide)

theorem fences_relayLater (h : FencesKept s t) (r) : FencesKept s (relayLater t r) := h.ofFrame (relayLater_frame _ _) (by decide)

theorem fences_signalRef (h : FencesKept s t) (p obj idx v) : FencesKept s (signalRef t p obj idx v) := by
  unfold signalRef
  repeat' with_reducible
    first
    | assumption | apply fences_sigDrop | apply fences_remoteSignal | apply fences_signalRec | apply fences_relayLater
    | refine fences_fst ?_ (by assumption) | split

theorem fences_barRelease (h : FencesKept s t) (i b) : FencesKept s (barRelease t i b) := by
  unfold barRelease
  repeat' with_reducible first | assumption | apply fences_barWriteBack | apply fences_setBar | apply fences_signalRef | split | dsimp only

theorem fences_barSettle (h : FencesKept s t) (i b) : FencesKept s (barSettle t i b) := by
  unfold barSettle
  repeat' with_reducible first | assumption | apply fences_barRelease | apply fences_setBar | split

theorem fences_barOp (h : FencesKept s t) (a w fromHost p) : FencesKept s (barOp t a w fromHost p).1 := by
  unfold barOp
  repeat' with_reducible
    first
    | assumption | apply fences_barRefuse | apply fences_doom | apply fences_barWriteBack | apply fences_setBar | apply fences_takeUnit
    | apply fences_barSettle | refine fences_fst ?_ (by assumption) | split | dsimp only

theorem fences_fenceSigAt (h : FencesKept s t) (line pos v fromHost p) : FencesKept s (fenceSigAt t line pos v fromHost p).1 := by
  unfold fenceSigAt
  repeat' with_reducible first | assumption | apply fences_signalRec | apply fences_barOp | refine fences_fst ?_ (by assumption) | split

theorem fences_execAtomic (h : FencesKept s t) (r aop base pois fromMem) : FencesKept s (execAtomic t r aop base pois fromMem).1 := by
  unfold execAtomic
  repeat' with_reducible
    first
    | assumption | apply fences_redExec | apply fences_storeLine | apply fences_logRead | apply fences_logPoison | apply fences_aluTouch
    | apply fences_tenant | apply fences_wrLine | apply fences_fenceSigAt | refine fences_fst ?_ (by assumption) | split | dsimp only

theorem fences_stashDrop (h : FencesKept s t) (line) : FencesKept s (stashDrop t line) := by
  unfold stashDrop
  repeat' with_reducible first | assumption | apply fences_count | apply fences_raise | simp only [↓fences_mk] | split

theorem fences_sendStash (h : FencesKept s t) (a line d p) : FencesKept s (sendStash t a line d p) := h.ofFrame (sendStash_frame _ _ _ _ _) (by decide)

theorem fences_finishServe (h : FencesKept s t) (line t' r) : FencesKept s (finishServe t line t' r) := by
  unfold finishServe
  repeat' with_reducible
    first
    | assumption | apply fences_setTxn | apply fences_setDir | apply fences_refuseReq | apply fences_tenant | apply fences_logRead
    | apply fences_grantTxn | apply fences_answer | apply fences_storeLine | apply fences_execAtomic | apply fences_stashDrop
    | apply fences_sendStash | refine fences_fst ?_ (by assumption) | split

theorem fences_finishLost (h : FencesKept s t) (line t') : FencesKept s (finishLost t line t') := h.ofFrame (finishLost_frame _ _ _) (by decide)

theorem fences_finishBack (h : FencesKept s t) (line t') : FencesKept s (finishBack t line t') := h.ofFrame (finishBack_frame _ _ _) (by decide)

theorem fences_settle (h : FencesKept s t) (line) : FencesKept s (settle t line) := by
  unfold settle
  repeat' with_reducible
    first
    | assumption | apply fences_finishServe | apply fences_setTxn | apply fences_finishLost | apply fences_finishBack | split

theorem fences_openBack (h : FencesKept s t) (line kind op) : FencesKept s (openBack t line kind op) := by
  unfold openBack
  repeat' with_reducible first | assumption | apply fences_sendSnoops | apply fences_settle | apply fences_setTxn

theorem fences_backInv (h : FencesKept s t) (line) : FencesKept s (backInv t line) := by
  unfold backInv
  repeat' with_reducible first | assumption | apply fences_count | apply fences_openBack | simp only [↓fences_mk]

theorem fences_apertureData (h : FencesKept s t) (line) : FencesKept s (apertureData t line).1 := by
  unfold apertureData
  repeat' with_reducible first | assumption | apply fences_count | apply fences_raise | simp only [↓fences_mk] | split

theorem fences_heatTouch (h : FencesKept s t) (line wr) : FencesKept s (heatTouch t line wr) := h.ofFrame (heatTouch_frame _ _ _) (by decide)

theorem fences_serve (h : FencesKept s t) (r) : FencesKept s (serve t r) := by
  unfold serve
  repeat' with_reducible
    first
    | assumption | apply fences_count | apply fences_heatTouch | apply fences_sendSnoops | apply fences_settle | apply fences_setTxn
    | simp only [↓fences_mk] | refine fences_fst ?_ (by assumption) | split

theorem fences_tryServe {u : State} {r : HomeReq} (h : FencesKept s t) (e : tryServe t r = some u) : FencesKept s u := by
  unfold tryServe at e
  dsimp only at e
  repeat' split at e
  all_goals cases e
  all_goals repeat' with_reducible
    first
    | assumption | apply fences_refuseReq | apply fences_deliverAll | apply fences_tenant | apply fences_logPoison | apply fences_apertureData
    | apply fences_serve

theorem fences_drain (h : FencesKept s t) (n line) : FencesKept s (drain n t line) := by
  induction n generalizing t with
  | zero => exact h
  | succ n ih =>
    unfold drain
    repeat' with_reducible
      first
      | assumption | apply ih | apply fences_backInv | refine fences_tryServe ?_ (by assumption) | simp only [↓fences_mk] | split

theorem fences_reqConsumed (h : FencesKept s t) (r) : FencesKept s (reqConsumed t r) := h.ofFrame (reqConsumed_frame _ _) (by decide)

theorem fences_place1 (h : FencesKept s t) (r) : FencesKept s (place1 t r) := by
  unfold place1
  repeat' with_reducible first | assumption | apply fences_drain | simp only [↓fences_mk]

theorem fences_countAdmit (h : FencesKept s t) (p) : FencesKept s (countAdmit t p) := h.ofFrame (countAdmit_frame _ _) (by decide)

theorem fences_admitReq (h : FencesKept s t) (r) : FencesKept s (admitReq t r) := by
  unfold admitReq
  repeat' with_reducible first | assumption | apply fences_reqConsumed | apply fences_place1 | apply fences_countAdmit

theorem fences_retry (h : FencesKept s t) : FencesKept s (retry t) := by
  unfold retry
  repeat' with_reducible
    first
    | assumption | intro _ | apply fences_drain | apply fences_admitReq | apply fences_foldl | simp only [↓fences_mk] | split

theorem fences_afterLine (h : FencesKept s t) (line) : FencesKept s (afterLine t line) := by
  unfold afterLine
  repeat' with_reducible first | assumption | apply fences_retry | apply fences_drain

theorem fences_txnDrop (h : FencesKept s t) (line t' a) : FencesKept s (txnDrop t line t' a).1 := h.ofFrame (txnDrop_frame _ _ _ _) (by decide)

theorem fences_snoopGone (h : FencesKept s t) (a line) : FencesKept s (snoopGone t a line) := by
  unfold snoopGone
  repeat' with_reducible
    first
    | assumption | apply fences_afterLine | apply fences_setTxn | apply fences_setDir | apply fences_stashDrop | apply fences_storeLine
    | apply fences_txnDrop | apply fences_settle | refine fences_fst ?_ (by assumption) | split

theorem fences_timeoutCount (h : FencesKept s t) (a line) : FencesKept s (timeoutCount t a line) := by
  unfold timeoutCount
  repeat' with_reducible first | assumption | apply fences_raise | apply fences_count | apply fences_updLink | simp only [↓fences_mk] | split

theorem fences_ownedLost (h : FencesKept s t) (a line) : FencesKept s (ownedLost t a line) := by
  unfold ownedLost
  repeat' with_reducible first | assumption | apply fences_timeoutCount | apply fences_storeLine

theorem fences_grantLose (h : FencesKept s t) (a line t' r) : FencesKept s (grantLose t a line t' r) := by
  unfold grantLose
  repeat' with_reducible
    first
    | assumption | apply fences_ownedLost | apply fences_afterLine | apply fences_setTxn | apply fences_setDir | split

theorem fences_txnLose (h : FencesKept s t) (a line) : FencesKept s (txnLose t a line) := by
  unfold txnLose
  repeat' with_reducible
    first
    | assumption | apply fences_snoopGone | apply fences_grantLose | apply fences_ownedLost | apply fences_timeoutCount | apply fences_txnDrop
    | apply fences_afterLine | apply fences_settle | apply fences_setTxn | refine fences_fst ?_ (by assumption) | split | dsimp only

theorem fences_lineLose (h : FencesKept s t) (a line) : FencesKept s (lineLose t a line) := by
  unfold lineLose
  repeat' with_reducible first | assumption | apply fences_ownedLost | apply fences_setDir | split

theorem fences_agentLose (h : FencesKept s t) (a) : FencesKept s (agentLose t a) := by
  unfold agentLose
  repeat' with_reducible first | assumption | intro _ | apply fences_txnLose | apply fences_lineLose | apply fences_foldl

theorem fences_lostAnswer (h : FencesKept s t) (line t' a op) : FencesKept s (lostAnswer t line t' a op).1 := h.ofFrame (lostAnswer_frame _ _ _ _ _) (by decide)

theorem fences_lostAnswers (h : FencesKept s t) (line) (x : Txn) (l : List (Nat × SnpOp)) :
    FencesKept s (l.foldl (fun (x : State × Txn) y => lostAnswer x.1 line x.2 y.1 y.2) (t, x)).1 := by
  induction l generalizing t x with
  | nil => exact h
  | cons y l ih => exact ih (fences_lostAnswer h _ _ _ _) _

theorem fences_txnOrphan (h : FencesKept s t) (line x r) : FencesKept s (txnOrphan t line x r) := by
  unfold txnOrphan
  repeat' with_reducible
    first
    | assumption | apply fences_afterLine | apply fences_settle | apply fences_setTxn | apply fences_lostAnswers | apply fences_storeLine
    | split

theorem fences_reqsLose (h : FencesKept s t) (f st) : FencesKept s (reqsLose t f st) := by
  unfold reqsLose
  repeat' with_reducible
    first
    | assumption | intro _ | apply fences_refuseReq | apply fences_retry | apply fences_txnOrphan | apply fences_foldl | simp only [↓fences_mk]
    | split

theorem fences_tokenSettle (h : FencesKept s t) (k) : FencesKept s (tokenSettle t k) := h.ofFrame (tokenSettle_frame _ _) (by decide)

theorem fences_burstFail (h : FencesKept s t) (n b st) : FencesKept s (burstFail t n b st) := by
  unfold burstFail
  repeat' with_reducible
    first
    | assumption | intro _ | apply fences_tokenSettle | apply fences_refuseReq | apply fences_foldl | simp only [↓fences_mk] | split

theorem fences_burstsFail (h : FencesKept s t) (f st) : FencesKept s (burstsFail t f st) := by
  unfold burstsFail
  repeat' with_reducible first | assumption | intro _ | apply fences_burstFail | apply fences_foldl | split | dsimp only

theorem tget_map_val {α : Type} [Inhabited α] (l : Tbl α) (f : α → α) (hd : f default = default) (k : Nat) :
    tget (l.map (fun e => (e.1, f e.2))) k = f (tget l k) := by
  induction l with
  | nil => exact hd.symm
  | cons e l ih =>
    rw [List.map_cons, tget, tget]
    split
    · rfl
    · exact ih

/-- A page without the waiting accesses of a station. -/
def dropWaiting (p : Nat) (q : Page) : Page := { q with dpWait := q.dpWait.filter (fun x => x.acc.st + pHST0 != p) }

/-- The accesses of a station that wait at the data ports leave. -/
theorem fences_dropWaiting (h : FencesKept s t) (p : Nat) :
    FencesKept s { t with pages := t.pages.map (fun e => (e.1, { e.2 with dpWait := e.2.dpWait.filter (fun x => x.acc.st + pHST0 != p) })) } := by
  intro q
  rw [← h q]
  show (tget (t.pages.map (fun e => (e.1, dropWaiting p e.2))) q).fence = (tget t.pages q).fence
  rw [tget_map_val _ (dropWaiting p) rfl, dropWaiting]

theorem fences_stationLost (h : FencesKept s t) (p) : FencesKept s (stationLost t p) := by
  unfold stationLost
  repeat' with_reducible
    first
    | assumption | intro _ | apply fences_irqKeep | apply fences_updLink | apply fences_answersLose | apply fences_agentLose
    | apply fences_reqsLose | apply fences_burstsFail | apply fences_raise | apply fences_foldl | apply fences_dropWaiting | simp only [↓fences_mk] | split

theorem fences_portGone (h : FencesKept s t) (port) : FencesKept s (portGone t port) := by
  unfold portGone
  repeat' with_reducible
    first
    | assumption | intro _ | apply fences_doom | apply fences_burstsFail | apply fences_foldl | simp only [↓fences_mk]

theorem fences_putBackAll (h : FencesKept s t) (l) : FencesKept s (putBackAll t l) := h.ofFrame (putBackAll_frame _ _) (by decide)

theorem fences_memPortGone (h : FencesKept s t) (i) : FencesKept s (memPortGone t i) := by
  unfold memPortGone
  repeat' with_reducible
    first
    | assumption | intro _ | apply fences_updMp | apply fences_putBackAll | apply fences_deliverAll | apply fences_foldl
    | simp only [↓fences_mk]

theorem fences_casAll (h : FencesKept s t) (l) : FencesKept s (casAll t l) := h.ofFrame (casAll_frame _ _) (by decide)

theorem fences_routeTo (h : FencesKept s t) (v e) : FencesKept s (routeTo t v e) := h.ofFrame (routeTo_frame _ _ _) (by decide)

theorem fences_tableFill (h : FencesKept s t) : FencesKept s (tableFill t) := by
  unfold tableFill
  repeat' with_reducible first | assumption | intro _ | apply fences_routeTo | apply fences_raise | apply fences_foldl | split | dsimp only

theorem fences_routesFill (h : FencesKept s t) (gone) : FencesKept s (routesFill t gone) := by
  unfold routesFill
  repeat' with_reducible first | assumption | apply fences_casAll | apply fences_tableFill

theorem fences_updSpn (h : FencesKept s t) (f) : FencesKept s (updSpn t f) := h.ofFrame (updSpn_frame _ _) (by decide)

theorem fences_spnLeave (h : FencesKept s t) (st) : FencesKept s (spnLeave t st) := by
  unfold spnLeave
  repeat' with_reducible first | assumption | apply fences_updSpn | apply fences_routesFill | apply fences_raise | split | dsimp only

theorem fences_spnDown (h : FencesKept s t) : FencesKept s (spnDown t) := by
  unfold spnDown
  repeat' with_reducible first | assumption | apply fences_updSpn | apply fences_spnLeave

theorem fences_remotesEnd (h : FencesKept s t) (pos st) : FencesKept s (remotesEnd t pos st) := by
  unfold remotesEnd
  repeat' with_reducible first | assumption | intro _ | apply fences_refuseReq | apply fences_updSpn | apply fences_foldl | split

theorem fences_moverXfmGone (h : FencesKept s t) : FencesKept s (moverXfmGone t) := h.ofFrame (moverXfmGone_frame _) (by decide)

theorem fences_tirGone (h : FencesKept s t) : FencesKept s (tirGone t) := h.ofFrame (tirGone_frame _) (by decide)

theorem fences_movGone (h : FencesKept s t) : FencesKept s (movGone t) := h.ofFrame (movGone_frame _) (by decide)

theorem fences_bootAdvance (h : FencesKept s t) : FencesKept s (bootAdvance t) := h.ofFrame (bootAdvance_frame _) (by decide)

theorem fences_fpDirty (h : FencesKept s t) : FencesKept s (fpDirty t) := h.ofFrame (fpDirty_frame _) (by decide)

end Sys2Proof.Machine
end

section
namespace Sys2Proof.Machine
open Sys2Proof

/-! # The page header: interrupts, PG_CTL and the override check (R60, R74, R76, R642) -/

variable {s t : State}

theorem page_irqAfter_self (s : State) (p : Nat) : SameButHeld (page s p) (page (irqAfter s p) p) := by
  unfold irqAfter
  split
  · exact SameButHeld.refl _
  · exact page_sendIrq_self s p

theorem page_irqAfter_ne (s : State) (p : Nat) {q : Nat} (hq : q ≠ p) : page (irqAfter s p) q = page s q := by
  unfold irqAfter
  split
  · rfl
  · exact page_sendIrq_ne s p hq

/-- A write of a header register that is admitted: its own effect, then the answer, which leaves the pages. -/
theorem headWrite_ends {a : Acc} {p : Nat} (f : State → State) (h : HeadAdmits s a p) :
    Frame [.hst, .out] (f s) (headWrite s a p f) ∧ Answered (headWrite s a p f) a.st .ok [] ∧ ∀ q, page (headWrite s a p f) q = page (f s) q := by
  have hst16 : a.st < 16 := Nat.lt_trans h.1 (by decide)
  rw [headWrite_admitted s a p f h]
  have hf := regRsp_hostFrame (f s) a.st .ok [] hst16
  exact ⟨hf, regRsp_answered _ _ _ _ hst16, fun q => page_of_frame hf (by decide) q⟩

/-- A write of the interrupt block that has one effect on the page. -/
theorem irqWrite_ends {a : Acc} {p : Nat} (f : Page → Page) (h : HeadAdmits s a p) (t : State) (ht : t = headWrite s a p (fun u => irqAfter (updPage u p f) p)) :
    page t p = { f (page s p) with irqHeld := (page t p).irqHeld } ∧ (∀ q, q ≠ p → page t q = page s q) ∧ Answered t a.st .ok [] ∧
    Frame [.pages, .hst, .out] s t := by
  subst ht
  obtain ⟨hf, hans, hpage⟩ := headWrite_ends (fun u => irqAfter (updPage u p f) p) h
  refine ⟨?_, fun q hq => ?_, hans, Frame.trans ((updPage_frame s p f).trans (irqAfter_frame _ p) (by decide) (fun _ => id)) hf (fun _ => id) (by decide)⟩
  · have hself := page_irqAfter_self (updPage s p f) p
    rw [page_updPage_self] at hself
    rw [hpage]
    exact hself
  · rw [hpage, page_irqAfter_ne _ _ hq, page_updPage_ne _ _ _ _ hq]

theorem interruptBlock : Claim.InterruptBlock := by
  intro s a p v h
  refine ⟨⟨_, rfl, ?_⟩, ⟨_, rfl, ?_⟩⟩
  · exact irqWrite_ends (fun q => { q with irqRaw := q.irqRaw &&& ~~~ v }) h _ rfl
  · exact irqWrite_ends (fun q => { q with irqEn := v &&& irqMask p }) h _ rfl

/-! ## PG_CTL -/

/-- The header of a page after a write of PG_CTL, before its unit is fenced. -/
def pgCtlPage (p : Nat) (v : Word) (q : Page) : Page :=
  { q with
    enable := if enableRw p then bitOf v 0 else q.enable
    expert := bitOf v 1
    checking := if bitOf v 1 then false else q.checking || q.expert
    last := if bitOf v 2 && unfenceable p then .permission else .ok }

theorem pgCtlSet_eq (s : State) (p : Nat) (v : Word) :
    pgCtlSet s p v = if bitOf v 2 then fencePage (updPage s p (pgCtlPage p v)) p else updPage s p (pgCtlPage p v) := rfl

/-- A unit that cannot be fenced stays as it is. -/
theorem fencePage_unfenceable {p : Nat} (h : unfenceable p = true) (s : State) : fencePage s p = s := by
  unfold fencePage
  rw [h]
  rfl

theorem pgCtlSet_unfenced {p : Nat} {v : Word} (h : bitOf v 2 = false ∨ unfenceable p = true) (s : State) :
    pgCtlSet s p v = updPage s p (pgCtlPage p v) := by
  rw [pgCtlSet_eq]
  rcases h with h | h
  · rw [h]; rfl
  · rw [fencePage_unfenceable h, ite_self]

theorem pageControl : Claim.PageControl := by
  intro s a p v h
  obtain ⟨hf, hans, hpage⟩ := headWrite_ends (fun u => pgCtlSet u p v) h
  have hset := fun hv => pgCtlSet_unfenced (p := p) (v := v) hv s
  have hframe : ∀ hv : bitOf v 2 = false ∨ unfenceable p = true, Frame [.pages, .hst, .out] s (headWrite s a p (fun u => pgCtlSet u p v)) := by
    intro hv
    rw [hset hv] at hf
    exact Frame.trans (updPage_frame s p _) hf (by decide) (by decide)
  refine ⟨fun hv => ⟨_, rfl, ?_, fun q hq => ?_, hans, hframe (.inl hv)⟩, fun hv hu => ⟨_, rfl, ?_, ?_, hans, hframe (.inr hu)⟩⟩
  · rw [hpage, hset (.inl hv), page_updPage_self, pgCtlPage, hv]
    cases bitOf v 1 <;> rfl
  · rw [hpage, hset (.inl hv), page_updPage_ne _ _ _ _ hq]
  · rw [hpage, hset (.inr hu), page_updPage_self, pgCtlPage, hv, hu]
    rfl
  · rw [hpage, hset (.inr hu), page_updPage_self, pgCtlPage]

/-! ## Fencing a unit -/

theorem fenced_eq (s : State) (p : Nat) : fenced s p = (fusedOff s p || (page s p).fence) := rfl

theorem fenced_of_kept (h : FencesKept s t) (hf : t.fuses = s.fuses) (p : Nat) : fenced t p = fenced s p := by
  rw [fenced_eq, fenced_eq, h p]
  simp only [fusedOff, hf]

theorem fences_of_ite {u v : State} (P : Prop) [Decidable P] (hu : FencesKept s u) (hv : FencesKept s v) : FencesKept s (if P then u else v) := by
  split <;> assumption

/-- What follows the fence of a unit leaves every fence. -/
theorem fencePage_fencesKept (s : State) (p : Nat) (hu : unfenceable p = false) (hf : fenced s p = false) (hp : present s p = true) :
    FencesKept (updPage s p (fun q => { q with fence := true })) (fencePage s p) := by
  unfold fencePage
  rw [hu, hf, hp]
  have h0 := fences_raise (fences_raise (fences_dpFenced (FencesKept.refl (updPage s p (fun q => { q with fence := true }))) p) p 60) pRAS 2
  refine fences_bootAdvance (fences_fpDirty ?_)
  refine fences_of_ite _ (fences_stationLost (fences_foldl h0 _ _ (fun u x hx => fences_portGone hx x)) p) ?_
  refine fences_of_ite _ (fences_stationLost h0 p) (fences_of_ite _ (fences_memPortGone h0 _) ?_)
  refine fences_of_ite _ (fences_routesFill (fences_spnDown (fences_remotesEnd h0 _ _)) _) ?_
  exact fences_of_ite _ (fences_moverXfmGone h0) (fences_of_ite _ (fences_tirGone h0) (fences_of_ite _ (fences_movGone h0) h0))

/-- A built unit that can be fenced is fenced then. -/
theorem fencePage_fenced (s : State) {p : Nat} (hu : unfenceable p = false) (hp : present s p = true) : fenced (fencePage s p) p = true := by
  cases hf : fenced s p with
  | true =>
    have : fencePage s p = s := by unfold fencePage; simp [hf]
    rw [this, hf]
  | false =>
    rw [fenced_eq, fencePage_fencesKept s p hu hf hp p, page_updPage_self, Bool.or_true]

theorem fenceByRegister : Claim.FenceByRegister := by
  intro s a p v h hv hu
  obtain ⟨hf, -, hpage⟩ := headWrite_ends (fun u => pgCtlSet u p v) h
  refine ⟨_, rfl, ?_⟩
  have hfuses : (headWrite s a p (fun u => pgCtlSet u p v)).fuses = (pgCtlSet s p v).fuses := hf .fuses (by decide)
  show fenced (headWrite s a p (fun u => pgCtlSet u p v)) p = true
  rw [fenced_of_kept (fun q => by rw [hpage q]) hfuses, pgCtlSet_eq, if_pos hv]
  obtain ⟨-, -, -, -, hbuilt⟩ := h
  exact fencePage_fenced _ hu ((present_congr (updPage_build s p _) p).trans hbuilt)

/-! ## The override check -/

theorem overrideChecked : Claim.OverrideChecked := by
  intro s p h
  refine ⟨_, rfl, ?_⟩
  unfold overrideCheck
  rw [h]
  dsimp only
  rw [if_neg (by decide), page_updPage_self]
  exact ⟨rfl, rfl, rfl⟩

/-- Settles O10. -/
theorem pageHeader : Obligations.PageHeader := ⟨interruptBlock, pageControl, fenceByRegister, overrideChecked⟩

end Sys2Proof.Machine
end

section
namespace Sys2Proof.Machine
open Sys2Proof

/-! # The data port: transfers (R62 to R65, R68, R69, R71, R713) -/

variable {s : State} {a : Acc} {p : Nat}

/-! ## Accesses that reach the port -/

theorem mayReach_page (s : State) (part p o o' : Nat) : mayReach s part (.page p o) = mayReach s part (.page p o') := rfl

/-- An access that is admitted and does not wait is executed. -/
theorem dpAccess_reached (h : HeadAdmits s a p) (hwait : (page s p).dpWait = []) {x : DpAcc} (hx : x.acc = a)
    (hsize : sizeOk (.page p x.off) x.off x.size = true) (hfree : dpBlocks (page s p) x = false) : dpAccess s p x = dpDo s p x := by
  obtain ⟨-, hup, hreach, hpage, hbuilt⟩ := h
  have hreach' : mayReach s a.part (.page p x.off) = true := hreach
  unfold dpAccess dpMustWait
  subst hx
  simp [hup, hreach', hpage, hbuilt, hsize, hwait, hfree]

theorem dpBlocks_of_not_commits {x : DpAcc} (q : Page) (h : dpCommits x = false) : dpBlocks q x = false := by
  unfold dpBlocks
  rw [h, Bool.and_false]

theorem dpBlocks_of_not_committing {q : Page} (x : DpAcc) (h : q.dpCommitting = false) : dpBlocks q x = false := by
  unfold dpBlocks
  rw [h]
  simp

/-- A write of DP_ADDR is executed at once (R62). -/
theorem exec_dpAddrWrite (h : HeadAdmits s a p) (hwait : (page s p).dpWait = []) (v : Word) :
    exec (.dpAddrWrite a p v) s = .next (regRsp (if dpForeign s a p then dpConflictSet s p else dpAddrSet s p v) a.st .ok []) := by
  show Host.Outcome.next (dpAccess s p _) = _
  rw [dpAccess_reached h hwait rfl (by simp [sizeOk]) (dpBlocks_of_not_commits _ rfl)]
  rfl

/-- An access of DP_CTL that finds no block on its way is executed at once. -/
theorem dpAccess_ctl (h : HeadAdmits s a p) (hwait : (page s p).dpWait = []) (hown : dpForeign s a p = false) (v : Word)
    (hfree : dpBlocks (page s p) (dpCtlAcc a v) = false) : dpAccess s p (dpCtlAcc a v) = regRsp (dpCtlSet s a.st p v) a.st .ok [] := by
  rw [dpAccess_reached h hwait rfl (by simp [sizeOk, dpCtlAcc]) hfree]
  simp only [dpDo, dpCtlAcc, hown, Bool.false_eq_true, if_false, List.headD_cons]

/-- An answer after an effect on one page. -/
theorem regRsp_page (hst : a.st < 2) (u : State) (d : List Word) (q : Nat) : page (regRsp u a.st .ok d) q = page u q :=
  page_of_frame (regRsp_hostFrame u a.st .ok d (Nat.lt_trans hst (by decide))) (by decide) q

theorem regRsp_host (hst : a.st < 2) (u : State) (d : List Word) : Frame [.hst, .out] u (regRsp u a.st .ok d) :=
  regRsp_hostFrame u a.st .ok d (Nat.lt_trans hst (by decide))

theorem regRsp_ok (hst : a.st < 2) (u : State) (d : List Word) : Answered (regRsp u a.st .ok d) a.st .ok d :=
  regRsp_answered u a.st .ok d (Nat.lt_trans hst (by decide))

/-- An effect on one page and the answer. -/
theorem updPage_answered (hst : a.st < 2) (f : Page → Page) (d : List Word) (t : State) (ht : t = regRsp (updPage s p f) a.st .ok d) :
    page t p = f (page s p) ∧ (∀ q, q ≠ p → page t q = page s q) ∧ Answered t a.st .ok d ∧ Frame [.pages, .hst, .out] s t := by
  subst ht
  refine ⟨?_, fun q hq => ?_, regRsp_ok hst _ d, Frame.trans (updPage_frame s p f) (regRsp_host hst _ d) (by decide) (by decide)⟩
  · rw [regRsp_page hst, page_updPage_self]
  · rw [regRsp_page hst, page_updPage_ne _ _ _ _ hq]

theorem dataPortAddress : Claim.DataPortAddress := by
  intro s a p v h hwait
  have hexec := exec_dpAddrWrite h hwait v
  refine ⟨fun hidle hown => ?_, fun hbusy hown => ?_, fun hforeign => ?_⟩
  · rw [hown] at hexec
    refine ⟨_, hexec, ?_⟩
    obtain ⟨hself, hother, hans, hf⟩ := updPage_answered (s := s) (p := p) h.1
      (fun q => if q.dpMode ≠ 0 then { q with dpStatus := .permission } else { q with dpAddr := v }) [] _ rfl
    exact ⟨hself.trans (if_neg (by simpa using hidle)), hother, hans, hf⟩
  · rw [hown] at hexec
    refine ⟨_, hexec, ?_⟩
    obtain ⟨hself, -, -, hf⟩ := updPage_answered (s := s) (p := p) h.1
      (fun q => if q.dpMode ≠ 0 then { q with dpStatus := .permission } else { q with dpAddr := v }) [] _ rfl
    exact ⟨hself.trans (if_pos hbusy), hf⟩
  · rw [hforeign] at hexec
    refine ⟨_, hexec, ?_⟩
    obtain ⟨hself, -, -, hf⟩ := updPage_answered (s := s) (p := p) h.1 (fun q => { q with dpConflict := true }) [] _ rfl
    exact ⟨hself, hf⟩

/-! ## The start of a transfer -/

/-- A page whose transfer has just started. -/
def dpStarted (st off mode : Nat) (v : Word) (q : Page) : Page :=
  { q with dpMode := mode, dpClaim := some st, dpOff := off, dpStatus := .ok, dpReady := false, dpDone := false,
           dpErr := false, dpRemain := fld v 47 32, dpValid := [], dpWin := [], dpPois := false, dpEnding := false }

/-- A page with DP_CTL written. -/
def withDpCtl (v : Word) (q : Page) : Page := { q with dpCtl := dpCtlKeep v }

/-- A start that the array's row of the table allows takes the page to its first block; a snapshot is kept besides, and no asked line. -/
theorem dpStart_ok {mode : Nat} (v : Word) (st : Nat) (hok : dpStartOk s p mode) (hmode : mode = 1 ∨ mode = 2) :
    ∃ snap, page (dpStart s st p mode v) p =
        { dpStarted st (fld (page s p).dpAddr 55 8 * 256) mode v (page s p) with dpSnap := snap } ∧
      (∀ q, q ≠ p → page (dpStart s st p mode v) q = page s q) ∧ Frame [.pages, .hom] s (dpStart s st p mode v) := by
  obtain ⟨r, hr, hin, hrw, hsize⟩ := hok
  have hnow : dpNow s p = some r := hr
  have h1 : (r.inside && fenced s p) = false := by
    cases hi : r.inside with
    | false => rfl
    | true => rw [hin hi]; rfl
  have h2 : ((mode == 1 && !r.read) || (mode == 2 && !r.write)) = false := by
    rcases hmode with rfl | rfl <;> simp_all
  have h3 : (mode == 2 && r.expert && !(page s p).expert) = false := by
    rcases hmode with rfl | rfl
    · rfl
    · cases he : r.expert with
      | false => rfl
      | true => rw [(hrw.2 he)]; rfl
  have hown : ∀ u : State, Frame [.hom] u (if r.mem then ownDone u (kArray p) else u) :=
    fun u => Frame.ite _ (ownDone_frame u _) (Frame.refl _ u)
  unfold dpStart
  rw [hnow]
  dsimp only
  rw [h1, h2, h3, if_neg (by decide), if_neg (by decide), if_neg (by decide), if_neg (Nat.not_le.mpr hsize)]
  have hfirst := updPage_frame s p (dpStarted st (fld (page s p).dpAddr 55 8 * 256) mode v)
  have hkept := hown (updPage s p (dpStarted st (fld (page s p).dpAddr 55 8 * 256) mode v))
  have hpage := page_of_frame hkept (by decide)
  split
  · refine ⟨if p = pCNT then cntSnapshot s else bytesWords s.sec.report 675, ?_, fun q hq => ?_, Frame.trans (Frame.trans hfirst hkept (n := [.pages, .hom]) (by decide) (by decide)) (updPage_frame _ p _) (fun _ => id) (by decide)⟩
    · rw [page_updPage_self]
      exact congrArg (fun x : Page => { x with dpSnap := if p = pCNT then cntSnapshot s else bytesWords s.sec.report 675 }) ((hpage p).trans (page_updPage_self s p _))
    · rw [page_updPage_ne _ _ _ _ hq]
      exact (hpage q).trans (page_updPage_ne s p q _ hq)
  · refine ⟨(page s p).dpSnap, ?_, fun q hq => ?_, Frame.trans hfirst hkept (by decide) (by decide)⟩
    · exact (hpage p).trans (page_updPage_self s p _)
    · exact (hpage q).trans (page_updPage_ne s p q _ hq)

/-- Starting a transfer from an idle port. -/
theorem dpCtlSet_start {mode : Nat} {v : Word} (st : Nat) (hidle : (page s p).dpMode = 0) (hv : fld v 1 0 = mode) (hmode : mode = 1 ∨ mode = 2)
    (hok : dpStartOk s p mode) :
    ∃ snap, page (dpCtlSet s st p v) p =
        { dpStarted st (fld (page s p).dpAddr 55 8 * 256) mode v (withDpCtl v (page s p)) with dpSnap := snap } ∧
      (∀ q, q ≠ p → page (dpCtlSet s st p v) q = page s q) ∧ Frame [.pages, .hom] s (dpCtlSet s st p v) := by
  have hset : dpCtlSet s st p v = dpStart (updPage s p (withDpCtl v)) st p mode v := by
    unfold dpCtlSet
    dsimp only
    rw [hidle, hv, if_neg (by decide), if_neg (by omega), if_neg (by omega)]
    rfl
  have hp1 : page (updPage s p (withDpCtl v)) p = withDpCtl v (page s p) := page_updPage_self s p _
  have hok' : dpStartOk (updPage s p (withDpCtl v)) p mode := by
    obtain ⟨r, hr, hin, hrw, hsize⟩ := hok
    refine ⟨r, ?_, fun hi => ?_, ?_, ?_⟩
    · rw [hp1]; exact hr
    · rw [fenced_updPage s p p (withDpCtl v) (fun _ => rfl)]; exact hin hi
    · rw [hp1]; exact hrw
    · rw [hp1]; exact hsize
  obtain ⟨snap, hself, hother, hf⟩ := dpStart_ok v st hok' hmode
  rw [hset]
  rw [hp1] at hself
  exact ⟨snap, hself, fun q hq => (hother q hq).trans (page_updPage_ne s p q _ hq), Frame.trans (updPage_frame s p _) hf (by decide) (fun _ => id)⟩

/-- A port that has no transfer of its own in mode 2 has no block on its way to an array that a start would wait for. -/
theorem dpBlocks_idle {q : Page} (h : q.dpMode = 0) (x : DpAcc) : dpBlocks q x = false := by
  unfold dpBlocks
  rw [h]
  rfl

theorem dpCtlSet_reserved {v : Word} (st : Nat) (hidle : (page s p).dpMode = 0) (hv : fld v 1 0 = 3) :
    dpCtlSet s st p v = raise (updPage (updPage s p (withDpCtl v)) p (fun q => { q with dpStatus := .permission, dpErr := true, dpDone := false })) p 62 := by
  unfold dpCtlSet
  dsimp only
  rw [hidle, hv, if_neg (by decide), if_neg (by decide), if_pos rfl]
  rfl

theorem dataPortStart : Claim.DataPortStart := by
  intro s a p v h hwait hidle hown
  have hctl := dpAccess_ctl h hwait hown v (dpBlocks_idle hidle _)
  refine ⟨fun hv hok => ?_, fun hv hok => ?_, fun hv => ?_⟩
  · have hexec : exec (.dpStartRead a p v) s = .next (regRsp (dpCtlSet s a.st p v) a.st .ok []) := by
      show Host.Outcome.next (if fld v 1 0 = 1 then _ else _) = _
      rw [if_pos hv, hctl]
    obtain ⟨snap, hself, hother, hf⟩ := dpCtlSet_start a.st hidle hv (.inl rfl) hok
    refine ⟨_, hexec, ?_⟩
    simp only [regRsp_page h.1, hself]
    exact ⟨rfl, rfl, rfl, rfl, rfl, rfl, rfl, rfl, rfl, hother, regRsp_ok h.1 _ _, Frame.trans hf (regRsp_host h.1 _ _) (by decide) (by decide)⟩
  · have hexec : exec (.dpStartWrite a p v) s = .next (regRsp (dpCtlSet s a.st p v) a.st .ok []) := by
      show Host.Outcome.next (if fld v 1 0 = 2 then _ else _) = _
      rw [if_pos hv, hctl]
    obtain ⟨snap, hself, hother, hf⟩ := dpCtlSet_start a.st hidle hv (.inr rfl) hok
    refine ⟨_, hexec, ?_⟩
    simp only [regRsp_page h.1, hself]
    exact ⟨rfl, rfl, rfl, rfl, rfl, rfl, rfl, hother, regRsp_ok h.1 _ _, Frame.trans hf (regRsp_host h.1 _ _) (by decide) (by decide)⟩
  · have hexec : exec (.dpModeReserved a p v) s = .next (regRsp (dpCtlSet s a.st p v) a.st .ok []) := by
      show Host.Outcome.next (if fld v 1 0 = 3 then _ else _) = _
      rw [if_pos hv, hctl]
    refine ⟨_, hexec, ?_⟩
    rw [dpCtlSet_reserved a.st hidle hv]
    have hraise := page_raise_self (updPage (updPage s p (withDpCtl v)) p (fun q => { q with dpStatus := .permission, dpErr := true, dpDone := false })) p 62
    rw [page_updPage_self, page_updPage_self] at hraise
    simp only [regRsp_page h.1]
    rw [hraise]
    refine ⟨hidle, rfl, rfl, rfl, ?_⟩
    exact Frame.trans (Frame.trans (Frame.trans (updPage_frame s p _) (updPage_frame _ p _) (n := [.pages]) (by decide) (by decide)) (raise_hostFrame _ p 62)
      (n := [.pages, .cnt, .hst, .out]) (by decide) (by decide)) (regRsp_host h.1 _ _) (by decide) (by decide)

/-! ## The end of a transfer -/

/-- A page whose transfer has been abandoned. -/
def dpAbandoned (q : Page) : Page :=
  { q with dpMode := 0, dpClaim := none, dpReady := false, dpValid := [], dpSnap := [], dpPois := false, dpEnding := false,
           dpOld := q.dpOld || q.dpCommitting, dpStatus := .ok }

theorem updPage_updPage (s : State) (p : Nat) (f g : Page → Page) : page (updPage (updPage s p f) p g) p = g (f (page s p)) := by
  rw [page_updPage_self, page_updPage_self]

/-- The block of a page on its way to its array. -/
def dpFlushed (ws : List (Nat × Word)) (q : Page) : Page :=
  { q with dpCommit := ws, dpCommitArr := dpSel q, dpCommitting := true, dpValid := [], dpOld := false, dpLeft := 0, dpSent := false }

/-- The words of a page's block that are valid. -/
def dpValidWords (q : Page) : List (Nat × Word) := q.dpValid.map (fun i => (q.dpOff + 8 * i, tget q.dpWin i))

/-- What becomes of the page when a block leaves: a flush leaves the offset, a single block ends the transfer, and a burst moves on. -/
def dpLeft (flush : Bool) (q : Page) : Page :=
  if flush then q
  else if !bitOf q.dpCtl 2 then { q with dpEnding := true }
  else { dpAdvance q with dpEnding := dpBounded q && (dpAdvance q).dpRemain == 0 }

theorem dpCommitOut_ok {r : DpArray} (flush : Bool) (hr : dpNow s p = some r) (hexp : r.expert = true → (page s p).expert = true) :
    dpCommitOut s p flush = updPage s p (fun q => dpLeft flush (dpFlushed (dpValidWords (page s p)) q)) := by
  have he : (r.expert && !(page s p).expert) = false := by
    cases h : r.expert with
    | false => rfl
    | true => rw [hexp h]; rfl
  unfold dpCommitOut
  rw [hr]
  dsimp only
  rw [he, if_neg (by decide)]
  rfl

theorem dataPortEnd : Claim.DataPortEnd := by
  intro s a p v h hwait hown
  refine ⟨fun hbusy hv hflush => ?_, fun hmode hcom hflush hr => ?_⟩
  · have hfree : dpBlocks (page s p) (dpCtlAcc a v) = false := dpBlocks_of_not_commits _ hflush
    have hset : dpCtlSet s a.st p v = updPage (dpIdle s p) p (fun q => { q with dpStatus := .ok }) := by
      unfold dpCtlSet
      dsimp only
      rw [if_pos hbusy, hflush, if_neg (by decide), if_pos hv]
    have hexec : exec (.dpAbandon a p v) s = .next (regRsp (dpCtlSet s a.st p v) a.st .ok []) := by
      show Host.Outcome.next (if fld v 1 0 = 0 ∧ _ then _ else _) = _
      rw [if_pos ⟨hv, by simp [hflush]⟩, dpAccess_ctl h hwait hown v hfree]
    refine ⟨_, hexec, ?_⟩
    rw [hset]
    have hself : page (updPage (dpIdle s p) p (fun q => { q with dpStatus := .ok })) p = dpAbandoned (page s p) := updPage_updPage s p _ _
    simp only [regRsp_page h.1, hself]
    refine ⟨rfl, rfl, rfl, rfl, rfl, fun q hq => ?_, regRsp_ok h.1 _ _, ?_⟩
    · rw [page_updPage_ne _ _ _ _ hq, dpIdle, page_updPage_ne _ _ _ _ hq]
    · exact Frame.trans (Frame.trans (dpIdle_frame s p) (updPage_frame _ p _) (n := [.pages]) (by decide) (by decide)) (regRsp_host h.1 _ _)
        (by decide) (by decide)
  · obtain ⟨r, hr, hexp⟩ := hr
    have hset : dpCtlSet s a.st p v = dpCommitOut s p true := by
      unfold dpCtlSet
      dsimp only
      rw [if_pos (by omega), hflush, if_pos rfl, if_pos hmode]
    have hexec : exec (.dpFlush a p v) s = .next (regRsp (dpCtlSet s a.st p v) a.st .ok []) := by
      show Host.Outcome.next (if bitOf v 3 = true then _ else _) = _
      rw [if_pos hflush, dpAccess_ctl h hwait hown v (dpBlocks_of_not_committing _ hcom)]
    refine ⟨_, hexec, ?_⟩
    rw [hset, dpCommitOut_ok true hr hexp]
    obtain ⟨hself, hother, hans, hf⟩ := updPage_answered (s := s) (p := p) h.1 (fun q => dpLeft true (dpFlushed (dpValidWords (page s p)) q)) [] _ rfl
    exact ⟨hself, hother, hans, hf⟩

/-- Settles O11. -/
theorem dataPortTransfers : Obligations.DataPortTransfers := ⟨dataPortAddress, dataPortStart, dataPortEnd⟩

end Sys2Proof.Machine
end

section
namespace Sys2Proof.Machine
open Sys2Proof

/-! # The data port: blocks and commits (R65 to R67, R70, R71) -/

variable {s : State} {a : Acc} {p : Nat}

/-! ## Lists of words set in a table -/

/-- Words set one after the other from a place on. -/
theorem tget_foldl_zipIdx {α : Type} [Inhabited α] [DecidableEq α] (l : List α) (t : Tbl α) (o n k : Nat) :
    tget ((l.zipIdx n).foldl (fun t e => tset t (o + e.2) e.1) t) k =
      if o + n ≤ k ∧ k < o + n + l.length then l.getD (k - (o + n)) default else tget t k := by
  induction l generalizing t n with
  | nil => rw [List.zipIdx_nil, List.foldl_nil, if_neg (by simp)]
  | cons x l ih =>
    rw [List.zipIdx_cons, List.foldl_cons, ih]
    simp only [List.length_cons]
    by_cases hk : k = o + n
    · rw [if_neg (by omega), if_pos (by omega), hk, tget_tset_self, Nat.sub_self, List.getD_cons_zero]
    · rw [tget_tset_ne _ _ _ _ hk]
      by_cases hin : o + n ≤ k ∧ k < o + n + (l.length + 1)
      · rw [if_pos (by omega), if_pos hin]
        obtain ⟨d, hd⟩ : ∃ d, k - (o + n) = d + 1 := ⟨k - (o + n) - 1, by omega⟩
        rw [hd, List.getD_cons_succ]
        congr 1
        omega
      · rw [if_neg (by omega), if_neg hin]

theorem tget_setBlock {α : Type} [Inhabited α] [DecidableEq α] (l : List α) {i : Nat} (h : i < l.length) :
    tget (l.zipIdx.foldl (fun t e => tset t e.2 e.1) ([] : Tbl α)) i = l.getD i default := by
  have hz := tget_foldl_zipIdx l ([] : Tbl α) 0 0 i
  simp only [Nat.zero_add, Nat.zero_le, true_and, Nat.sub_zero, h, if_true] at hz
  exact hz

theorem tget_setBytes (l : List Byte) (t : Tbl Byte) (o : Nat) {i : Nat} (h : i < l.length) :
    tget (l.zipIdx.foldl (fun t b => tset t (o + b.2) b.1) t) (o + i) = l.getD i 0 := by
  rw [tget_foldl_zipIdx l t o 0, if_pos (by omega)]
  congr 1
  omega

/-! ## The next block of a read -/

/-- The node memory of an array is behind the pages CTL and LAN alone. -/
theorem dpArray_mem {arr : Nat} {r : DpArray} (h : dpArray s p arr = some r) (hm : r.mem = true) : (p = 0x00 ∨ p = 0x08) ∧ arr = 2 := by
  unfold dpArray at h
  split at h <;> cases h <;> first | exact ⟨.inl rfl, rfl⟩ | exact ⟨.inr rfl, rfl⟩ | cases hm

/-- The lines of a page's asked block, taken off the list of fresh ones. -/
def dpTaken (s : State) (k off : Nat) : State :=
  { s with hom := { s.hom with fresh := s.hom.fresh.filter (fun x => !(x.1 == k && [off / 128, off / 128 + 1].contains x.2)) } }

theorem dpTaken_frame (s : State) (k off : Nat) : Frame [.hom] s (dpTaken s k off) := hom_frame s _

/-- A block of node memory does not depend on what the data port has asked for. -/
theorem dpBlock_dpTaken (k o off : Nat) (hp : p = 0x00 ∨ p = 0x08) (hsel : dpSel (page s p) = 2) : dpBlock (dpTaken s k o) p off = dpBlock s p off := by
  have hsel' : dpSel (page (dpTaken s k o) p) = 2 := hsel
  unfold dpBlock
  rw [hsel', hsel]
  rcases hp with rfl | rfl <;> rfl

/-- The page with its next block in the window. -/
def dpFetched (b : List Word × Bool) (q : Page) : Page :=
  { q with dpWin := b.1.zipIdx.foldl (fun t e => tset t e.2 e.1) ([] : Tbl Word), dpReady := true, dpPois := b.2 }

theorem dpFetch_ok {r : DpArray} (hmode : (page s p).dpMode = 1) (hready : (page s p).dpReady = false) (hr : dpNow s p = some r)
    (hsize : (page s p).dpOff < r.size)
    (hmem : r.mem = true → dpRefused s (page s p).dpOff = none ∧ lineCurrent s (kArray p) ((page s p).dpOff / 128) = true ∧
      lineCurrent s (kArray p) ((page s p).dpOff / 128 + 1) = true) :
    ∃ u, Frame [.hom] s u ∧ dpFetch s p = updPage u p (dpFetched (dpBlock s p (page s p).dpOff)) := by
  unfold dpFetch
  dsimp only
  rw [if_neg (by simp [hmode, hready]), hr]
  dsimp only
  rw [if_neg (Nat.not_le.mpr hsize)]
  cases hm : r.mem with
  | false =>
    refine ⟨s, Frame.refl _ _, ?_⟩
    simp only [Bool.false_eq_true, if_false, Bool.not_true]
    rfl
  | true =>
    obtain ⟨href, h1, h2⟩ := hmem hm
    obtain ⟨hp, hsel⟩ := dpArray_mem hr hm
    have hlines : ownLines s (kArray p) [(page s p).dpOff / 128, (page s p).dpOff / 128 + 1] = (true, dpTaken s (kArray p) (page s p).dpOff) := by
      unfold ownLines
      rw [if_pos (by simp [h1, h2])]
      rfl
    refine ⟨_, dpTaken_frame s (kArray p) (page s p).dpOff, ?_⟩
    simp only [if_true, href, hlines, Bool.not_true, Bool.false_eq_true, if_false]
    rw [dpBlock_dpTaken _ _ _ hp hsel]
    rfl

/-! ## Accesses of the window -/

/-- An access of the window inside its range is one of the data port. -/
theorem exec_dpWinRead (a : Acc) (p off size : Nat) (h1 : 0x100 ≤ off) (h2 : off < 0x200) (s : State) :
    exec (.dpWinRead a p off size) s = .next (dpAccess s p { acc := a, kind := .rd, off := off, size := size }) := by
  show Host.Outcome.next (if off < 0x100 ∨ 0x200 ≤ off then s else _) = _
  rw [if_neg (by omega)]

theorem exec_dpWinWrite (a : Acc) (p off size : Nat) (d : List Word) (h1 : 0x100 ≤ off) (h2 : off < 0x200) (s : State) :
    exec (.dpWinWrite a p off size d) s = .next (dpAccess s p { acc := a, kind := .win, off := off, size := size, data := d }) := by
  show Host.Outcome.next (if off < 0x100 ∨ 0x200 ≤ off then s else _) = _
  rw [if_neg (by omega)]

/-- A read of the window that the port executes. -/
theorem dpAccess_read (h : HeadAdmits s a p) (hwait : (page s p).dpWait = []) (hown : dpForeign s a p = false) {off size : Nat} (h1 : 0x100 ≤ off)
    (hsize : sizeOk (.page p off) off size = true) :
    dpAccess s p { acc := a, kind := .rd, off := off, size := size } =
      if (page s p).dpReady then regRsp (if off + size = 0x200 then dpBlockRead s p else s) a.st .ok (dpWords (page s p) off size)
      else regRsp (updPage s p (fun q => { q with dpUnderrun := true })) a.st .ok (zeroWords size) := by
  rw [dpAccess_reached h hwait rfl hsize (dpBlocks_of_not_commits _ rfl)]
  simp only [dpDo, h1, if_true, dpRead, hown, Bool.false_eq_true, if_false]
  cases (page s p).dpReady <;> rfl

/-- A write of the window that the port executes. -/
theorem dpAccess_write (h : HeadAdmits s a p) (hwait : (page s p).dpWait = []) (hown : dpForeign s a p = false) {off size : Nat} (d : List Word)
    (hsize : sizeOk (.page p off) off size = true)
    (hfree : dpBlocks (page s p) { acc := a, kind := .win, off := off, size := size, data := d } = false) :
    dpAccess s p { acc := a, kind := .win, off := off, size := size, data := d } = regRsp (dpWrite s p off size d) a.st .ok [] := by
  rw [dpAccess_reached h hwait rfl hsize hfree]
  simp only [dpDo, hown, Bool.false_eq_true, if_false]

/-- A page with a word of its window written. -/
def dpWritten (i : Nat) (w : Word) (q : Page) : Page := { q with dpWin := tset q.dpWin i w, dpValid := setIns q.dpValid i }

/-- A write of one word places it and marks it valid. -/
theorem dpWrite_word (hmode : (page s p).dpMode = 2) (off : Nat) (w : Word) :
    dpWrite s p off 8 [w] =
      if off + 8 = 0x200 then dpCommitOut (updPage s p (dpWritten ((off - 0x100) / 8) w)) p false else updPage s p (dpWritten ((off - 0x100) / 8) w) := by
  unfold dpWrite
  rw [if_neg (by simp [hmode])]
  rfl

theorem sizeOk_word {off : Nat} (p : Nat) (h : off % 8 = 0) : sizeOk (.page p off) off 8 = true := by simp [sizeOk, h]

/-- Moving on leaves what is on its way to the array. -/
theorem dpLeft_last (q : Page) : (dpLeft false q).dpCommitting = q.dpCommitting ∧ (dpLeft false q).dpCommit = q.dpCommit ∧
    (dpLeft false q).dpCommitArr = q.dpCommitArr ∧ (dpLeft false q).dpValid = q.dpValid := by
  unfold dpLeft
  rw [if_neg (by decide)]
  split <;> exact ⟨rfl, rfl, rfl, rfl⟩

theorem dataPortWindow : Claim.DataPortWindow := by
  refine ⟨?_, ?_, ?_, ?_, ?_⟩
  · intro s p r hmode hready hr hsize hmem
    obtain ⟨u, hu, hfetch⟩ := dpFetch_ok hmode hready hr hsize hmem
    refine ⟨dpFetch s p, rfl, ?_⟩
    rw [hfetch]
    simp only [page_updPage_self, page_of_frame hu (by decide)]
    refine ⟨rfl, rfl, fun i hi => tget_setBlock _ hi, fun q hq => ?_, Frame.trans hu (updPage_frame u p _) (by decide) (by decide)⟩
    rw [page_updPage_ne _ _ _ _ hq, page_of_frame hu (by decide)]
  · intro s a p off size h h1 h2 hsize hwait hown
    have hexec := exec_dpWinRead a p off size h1 (by omega) s
    rw [dpAccess_read h hwait hown h1 hsize] at hexec
    refine ⟨fun hready => ?_, fun hready => ?_⟩
    · rw [hready, if_pos rfl, if_neg (by omega)] at hexec
      exact ⟨_, hexec, regRsp_ok h.1 _ _, regRsp_host h.1 _ _⟩
    · rw [hready, if_neg (by decide)] at hexec
      obtain ⟨hself, -, hans, hf⟩ := updPage_answered (s := s) (p := p) h.1 (fun q => { q with dpUnderrun := true }) (zeroWords size) _ rfl
      exact ⟨_, hexec, hans, hself, hf⟩
  · intro s a p h hwait hown hready hpois hburst hcount
    have hexec := exec_dpWinRead a p 0x1F8 8 (by decide) (by decide) s
    have hblock : dpBlockRead s p = updPage s p (fun q => { dpAdvance q with dpReady := false }) := by
      unfold dpBlockRead dpBounded
      dsimp only
      rw [hpois, hburst, hcount]
      rfl
    rw [dpAccess_read h hwait hown (by decide) (sizeOk_word p rfl), hready, if_pos rfl, if_pos rfl, hblock] at hexec
    obtain ⟨hself, hother, hans, hf⟩ := updPage_answered (s := s) (p := p) h.1 (fun q => { dpAdvance q with dpReady := false }) (dpWords (page s p) 0x1F8 8) _ rfl
    refine ⟨_, hexec, hans, ?_, ?_, ?_, hother, hf⟩
    · rw [hself]
    · rw [hself]; rfl
    · rw [hself]; rfl
  · intro s a p w h hwait hown hmode hcom hvalid hr
    obtain ⟨r, hr, hexp⟩ := hr
    have hexec := exec_dpWinWrite a p 0x1F8 8 [w] (by decide) (by decide) s
    rw [dpAccess_write h hwait hown _ (sizeOk_word p rfl) (dpBlocks_of_not_committing _ hcom), dpWrite_word hmode, if_pos rfl] at hexec
    have hp1 : page (updPage s p (dpWritten 31 w)) p = dpWritten 31 w (page s p) := page_updPage_self s p _
    have hr1 : dpNow (updPage s p (dpWritten 31 w)) p = some r := by unfold dpNow; rw [hp1]; exact hr
    rw [dpCommitOut_ok false hr1 (by rw [hp1]; exact hexp)] at hexec
    have hwords : dpValidWords (dpWritten 31 w (page s p)) = [((page s p).dpOff + 248, w)] := by
      rw [dpValidWords, dpWritten, hvalid]
      simp only [setIns, List.map_cons, List.map_nil, tget_tset_self]
    rw [hp1, hwords] at hexec
    obtain ⟨hself, hother, hans, hf⟩ := updPage_answered (s := updPage s p (dpWritten 31 w)) (p := p) h.1
      (fun q => dpLeft false (dpFlushed [((page s p).dpOff + 248, w)] q)) [] _ rfl
    refine ends_of_exec hexec ?_
    obtain ⟨hcommitting, hcommit, harr, hleft⟩ := dpLeft_last (dpFlushed [((page s p).dpOff + 248, w)] (dpWritten 31 w (page s p)))
    rw [hself, hp1]
    refine ⟨?_, ?_, ?_, ?_, hans, fun q hq => (hother q hq).trans (page_updPage_ne _ _ _ _ hq),
      Frame.trans (updPage_frame s p _) hf (by decide) (fun _ => id)⟩
    · rw [hcommitting]; rfl
    · rw [hcommit]; rfl
    · rw [harr]; rfl
    · rw [hleft]; rfl
  · intro s a p off w h h1 h2 h8 hwait hown hmode
    have hexec := exec_dpWinWrite a p off 8 [w] h1 (by omega) s
    have hfree : dpBlocks (page s p) { acc := a, kind := .win, off := off, size := 8, data := [w] } = false := by
      refine dpBlocks_of_not_commits _ ?_
      simp only [dpCommits, beq_eq_false_iff_ne]
      omega
    rw [dpAccess_write h hwait hown _ (sizeOk_word p h8) hfree, dpWrite_word hmode, if_neg (by omega)] at hexec
    obtain ⟨hself, hother, hans, hf⟩ := updPage_answered (s := s) (p := p) h.1 (dpWritten ((off - 0x100) / 8) w) [] _ rfl
    refine ⟨_, hexec, ?_, ?_, hans, hother, hf⟩
    · rw [hself, dpWritten, tget_tset_self]
    · rw [hself, dpWritten]
      exact mem_setIns.mpr (.inl rfl)

/-! ## Commits -/

theorem dpSettleAll_idle (h : (page s p).dpWait = []) : dpSettleAll s p = s := by
  unfold dpSettleAll
  rw [h]
  rfl

/-- A page on which an operation of the port ended, or which it left: what waits and what is on its way to an array stay. -/
theorem raise_port (s : State) (p b : Nat) : (page (raise s p b) p).dpWait = (page s p).dpWait ∧ (page (raise s p b) p).dpCommitting = (page s p).dpCommitting := by
  rw [page_raise_self s p b]
  exact ⟨rfl, rfl⟩

theorem dpFail_port (s : State) (p : Nat) (st : Status) : (page (dpFail s p st) p).dpWait = (page s p).dpWait ∧ (page (dpFail s p st) p).dpCommitting = (page s p).dpCommitting := by
  unfold dpFail dpIdle
  obtain ⟨h1, h2⟩ := raise_port (updPage (updPage s p _) p _) p 62
  rw [h1, h2, updPage_updPage]
  exact ⟨rfl, rfl⟩

theorem dpDoneOk_port (s : State) (p : Nat) : (page (dpDoneOk s p) p).dpWait = (page s p).dpWait ∧ (page (dpDoneOk s p) p).dpCommitting = (page s p).dpCommitting := by
  unfold dpDoneOk dpIdle
  obtain ⟨h1, h2⟩ := raise_port (updPage (updPage s p _) p _) p 63
  rw [h1, h2, updPage_updPage]
  exact ⟨rfl, rfl⟩

/-- A commit that has reached its array: nothing is on its way any more, and nothing waited. -/
theorem dpAfterCommit_ok (h : (page s p).dpWait = []) : (page (dpAfterCommit s p) p).dpCommitting = false ∧ Frame [.pages, .cnt, .hst, .out] s (dpAfterCommit s p) := by
  have hl : (page (dpLanded s p) p).dpWait = [] ∧ (page (dpLanded s p) p).dpCommitting = false := by
    unfold dpLanded
    rw [page_updPage_self]
    exact ⟨h, rfl⟩
  have hf : Frame [.pages, .cnt, .hst, .out] s (dpLanded s p) := (dpLanded_frame s p).mono (by decide)
  have hend : ∀ u, (page u p).dpWait = [] → (page u p).dpCommitting = false → Frame [.pages, .cnt, .hst, .out] s u →
      (page (dpSettleAll u p) p).dpCommitting = false ∧ Frame [.pages, .cnt, .hst, .out] s (dpSettleAll u p) := by
    intro u hw hc hu
    rw [dpSettleAll_idle hw]
    exact ⟨hc, hu⟩
  unfold dpAfterCommit
  dsimp only
  split
  · exact hend _ hl.1 hl.2 hf
  · split
    · obtain ⟨h1, h2⟩ := dpDoneOk_port (dpLanded s p) p
      exact hend _ (h1.trans hl.1) (h2.trans hl.2) (hf.andThen (dpDoneOk_frame _ p) (by decide))
    · split
      · obtain ⟨h1, h2⟩ := dpFail_port (dpLanded s p) p .unmapped
        exact hend _ (h1.trans hl.1) (h2.trans hl.2) (hf.andThen (dpFail_frame _ p _) (by decide))
      · exact hend _ hl.1 hl.2 hf

theorem dataPortCommit : Claim.DataPortCommit := by
  intro s k w
  refine ⟨fun hwait hcom harr hl => ?_, fun hwait hcom harr hl => ?_⟩
  · have hland : dpCommitLand s pXFM = dpAfterCommit (xfmCommit s [(8 * k, w)]) pXFM := by
      unfold dpCommitLand
      dsimp only
      rw [hcom, harr, hl]
      rfl
    obtain ⟨hdone, hf⟩ := dpAfterCommit_ok (s := xfmCommit s [(8 * k, w)]) (p := pXFM) hwait
    have hxfm : (dpAfterCommit (xfmCommit s [(8 * k, w)]) pXFM).xfm = (xfmCommit s [(8 * k, w)]).xfm := hf .xfm (by decide)
    have hdet : (dpAfterCommit (xfmCommit s [(8 * k, w)]) pXFM).det = (xfmCommit s [(8 * k, w)]).det := hf .det (by decide)
    have hdiv : 8 * k / 8 = k := by omega
    refine ends_of_exec (congrArg Host.Outcome.next hland) ?_
    rw [hxfm, hdet]
    refine ⟨?_, fun j hj => ?_, rfl, hdone, Frame.trans (xfmCommit_frame s _) hf (by decide) (by decide)⟩
    · show tget (tset s.xfm.store (8 * k / 8) w) k = w
      rw [hdiv, tget_tset_self]
    · show tget (tset s.xfm.store (8 * k / 8) w) j = _
      rw [hdiv, tget_tset_ne _ _ _ _ hj]
  · have hland : dpCommitLand s pCTL = dpAfterCommit (stagePut s [(8 * k, w)]) pCTL := by
      unfold dpCommitLand
      dsimp only
      rw [hcom, harr, hl]
      rfl
    obtain ⟨hdone, hf⟩ := dpAfterCommit_ok (s := stagePut s [(8 * k, w)]) (p := pCTL) hwait
    have hboot : (dpAfterCommit (stagePut s [(8 * k, w)]) pCTL).boot = (stagePut s [(8 * k, w)]).boot := hf .boot (by decide)
    refine ends_of_exec (congrArg Host.Outcome.next hland) ?_
    rw [hboot]
    refine ⟨fun i hi => ?_, hdone, Frame.trans (stagePut_frame s _) hf (by decide) (by decide)⟩
    exact tget_setBytes (wordBytes w) s.boot.staging (8 * k) (by rw [wordBytes_length]; exact hi)

/-- Settles O12. -/
theorem dataPortBlocks : Obligations.DataPortBlocks := ⟨dataPortWindow, dataPortCommit⟩

end Sys2Proof.Machine
end

section
namespace Sys2Proof.Machine
open Sys2Proof

/-! # Mailboxes: words, doorbells, flushes, replies and timers (R483 to R496, R502) -/

variable {s : State} {w : MbAcc} {m : Nat}

/-! ## Bits of a word -/

theorem bitOf_setBit_true {n : Nat} (v : Word) (h : n < 64) : bitOf (setBit v n true) n = true := by
  simp [bitOf, setBit, w64, BitVec.getLsbD_ofNat, h, Nat.testBit_shiftLeft, -BitVec.getLsbD_eq_getElem]

theorem bitOf_setBit_false {n : Nat} (v : Word) (h : n < 64) : bitOf (setBit v n false) n = false := by
  simp [bitOf, setBit, w64, BitVec.getLsbD_ofNat, h, Nat.testBit_shiftLeft, -BitVec.getLsbD_eq_getElem]

/-! ## What the parts of a mailbox operation leave -/

/-- Two mailboxes that differ in the stations whose message is held back alone. -/
def SameButMbHeld (x y : Mailbox) : Prop := y = { x with irqHeld := y.irqHeld }

theorem SameButMbHeld.refl (x : Mailbox) : SameButMbHeld x x := rfl

theorem SameButMbHeld.trans {x y z : Mailbox} (h : SameButMbHeld x y) (g : SameButMbHeld y z) : SameButMbHeld x z := by
  unfold SameButMbHeld at *
  rw [g, h]

theorem mbox_mbIrqTo (m : Nat) (s : State) (h : Nat) :
    SameButMbHeld (mbox s m) (mbox (mbIrqTo m s h) m) ∧ ∀ k, k ≠ m → mbox (mbIrqTo m s h) k = mbox s k := by
  unfold mbIrqTo
  split
  · have hm := mbox_of_frame (emit_intr_frame s h (mbox s m).vec pMBX) (by decide)
    exact ⟨by rw [hm]; exact SameButMbHeld.refl _, fun k _ => hm k⟩
  · exact ⟨by rw [mbox_updMb_self]; rfl, fun k hk => mbox_updMb_ne s m k _ hk⟩

theorem mbox_mbIrq (s : State) (m : Nat) : SameButMbHeld (mbox s m) (mbox (mbIrq s m) m) ∧ ∀ k, k ≠ m → mbox (mbIrq s m) k = mbox s k := by
  rw [mbIrq_eq]
  split
  · have hm := mbox_of_frame (emit_i3c_frame s (w64 1)) (by decide)
    exact ⟨by rw [hm]; exact SameButMbHeld.refl _, fun k _ => hm k⟩
  · generalize vecStations (mbox s m).vec = l
    induction l generalizing s with
    | nil => exact ⟨SameButMbHeld.refl _, fun _ _ => rfl⟩
    | cons h l ih =>
      obtain ⟨h1, h2⟩ := mbox_mbIrqTo m s h
      obtain ⟨g1, g2⟩ := ih (mbIrqTo m s h)
      exact ⟨h1.trans g1, fun k hk => (g2 k hk).trans (h2 k hk)⟩

theorem mbox_afterMbWrite (s : State) (m : Nat) :
    SameButMbHeld (mbox s m) (mbox (afterMbWrite s m) m) ∧ ∀ k, k ≠ m → mbox (afterMbWrite s m) k = mbox s k := by
  unfold afterMbWrite
  split
  · exact mbox_mbIrq s m
  · exact ⟨SameButMbHeld.refl _, fun _ _ => rfl⟩

theorem afterMbWrite_hostFrame (s : State) (m : Nat) : Frame [.mbx, .hst, .out] s (afterMbWrite s m) :=
  Frame.ite _ (mbIrq_hostFrame s m) (Frame.refl _ _)

/-- The timer toward the host is the one part of its mailbox that arming it changes. -/
theorem mbox_armS2h (s : State) (m : Nat) (r : Bool) :
    (∃ timer, mbox (armS2h s m r) m = { mbox s m with s2hTimer := timer }) ∧ ∀ k, k ≠ m → mbox (armS2h s m r) k = mbox s k := by
  unfold armS2h
  refine ⟨?_, fun k hk => mbox_updMb_ne s m k _ hk⟩
  rw [mbox_updMb_self]
  split
  · exact ⟨_, rfl⟩
  · exact ⟨_, rfl⟩

theorem armS2h_hostFrame (s : State) (m : Nat) (r : Bool) : Frame [.mbx] s (armS2h s m r) := updMb_frame _ _ _

theorem mbox_ringS2h (s : State) (m b : Nat) :
    SameButMbHeld { mbox s m with s2hDb := setBit (mbox s m).s2hDb b true } (mbox (ringS2h s m b) m) ∧ ∀ k, k ≠ m → mbox (ringS2h s m b) k = mbox s k := by
  have hself : mbox (updMb s m (fun q => { q with s2hDb := setBit q.s2hDb b true })) m = { mbox s m with s2hDb := setBit (mbox s m).s2hDb b true } :=
    mbox_updMb_self s m _
  have hother : ∀ k, k ≠ m → mbox (updMb s m (fun q => { q with s2hDb := setBit q.s2hDb b true })) k = mbox s k := fun k hk => mbox_updMb_ne s m k _ hk
  unfold ringS2h
  dsimp only
  split
  · obtain ⟨h1, h2⟩ := mbox_mbIrq (updMb s m (fun q => { q with s2hDb := setBit q.s2hDb b true })) m
    rw [hself] at h1
    exact ⟨h1, fun k hk => (h2 k hk).trans (hother k hk)⟩
  · exact ⟨by rw [hself]; exact SameButMbHeld.refl _, hother⟩

/-! ## Words and doorbells of the host -/

/-- A write that reaches its mailbox: what the register's own effect leaves stands after the answer. -/
theorem mbWrite_ends (hw : MbAdmits s w) (f : State → State) :
    (∀ k, mbox (mbWrite s w true f) k = mbox (f s) k) ∧ Frame [.hst, .out] (f s) (mbWrite s w true f) := by
  rw [mbWrite_reached f hw.1]
  have h := mbRsp_write_frame (f s) hw.2
  exact ⟨mbox_of_frame h (by decide), h⟩

/-- The answer to a read goes to the station that made it, or over I3C. -/
theorem mbRsp_read_frame (s : State) {w : MbAcc} (hw : ViaOwn w.via) (v : Word) : Frame [.hst, .out] s (mbRsp s w [v]) := by
  obtain ⟨mb, via⟩ := w
  cases via with
  | view a => exact regRsp_hostFrame s a.st .ok [v] (Nat.lt_trans hw (by decide))
  | page a => exact regRsp_hostFrame s a.st .ok [v] (Nat.lt_trans hw (by decide))
  | i3c => exact (emit_i3c_frame s v).mono (by decide)

theorem mbRsp_answered (s : State) {w : MbAcc} (hw : ViaOwn w.via) (v : Word) (a : Acc) (ha : w.via = .view a ∨ w.via = .page a) :
    Answered (mbRsp s w [v]) a.st .ok [v] := by
  have hst : a.st < 2 := by
    rcases ha with h | h <;> rw [h] at hw <;> exact hw
  unfold mbRsp
  rcases ha with h | h <;> rw [h] <;> exact regRsp_answered s a.st .ok [v] (Nat.lt_trans hst (by decide))

theorem armH2s_timer {s : State} {m : Nat} (r : Bool) (h : (mbox s m).h2s ≠ []) : (mbox (armH2s s m r) m).h2sTimer ≠ none := by
  have hne : (mbox s m).h2s.isEmpty = false := by simpa using h
  unfold armH2s
  rw [mbox_updMb_self, hne]
  simp only [Bool.false_and, Bool.false_eq_true, if_false]
  split
  · simp
  · next hn => exact fun he => hn (by rw [he]; simp)

theorem s2hPop_exec (hw : MbAdmits s w) : exec (.s2hPop w) s = .next (mbRsp (popS2h s w.mb).1 w [(popS2h s w.mb).2]) := by
  show Host.Outcome.next _ = _
  rw [hw.1]

theorem mailboxWords : Claim.MailboxWords := by
  intro s w v hw
  have hpush := mbWrite_ends hw (fun t => pushH2s t w.mb v)
  have hpop := s2hPop_exec hw
  refine ⟨fun hroom => ?_, fun hfull => ?_, fun x l hx => ?_, fun hempty => ?_, ?_⟩
  · refine ends_of_exec rfl ?_
    obtain ⟨hbox, hf⟩ := hpush
    obtain ⟨hself, hother, hframe⟩ := pushH2s_room v hroom
    obtain ⟨timer, htimer⟩ := mbox_armH2s (updMb s w.mb (fun b => { b with h2s := b.h2s ++ [v] })) w.mb false w.mb
    have heq : pushH2s s w.mb v = armH2s (updMb s w.mb (fun b => { b with h2s := b.h2s ++ [v] })) w.mb false := by
      unfold pushH2s
      rw [if_pos hroom]
    refine ⟨?_, ?_, ?_, fun k hk => ?_, Frame.trans hframe hf (by decide) (by decide)⟩
    · rw [hbox, hself]
    · rw [hbox, heq, htimer, mbox_updMb_self]
    · rw [hbox, heq]
      exact armH2s_timer false (by rw [mbox_updMb_self]; simp)
    · rw [hbox, hother k hk]
  · refine ends_of_exec rfl ?_
    obtain ⟨hbox, hf⟩ := hpush
    have heq : pushH2s s w.mb v = updMb s w.mb (fun b => { b with overrun := true }) := by
      unfold pushH2s
      rw [if_neg (by omega)]
    rw [heq] at hf
    refine ⟨?_, fun k hk => ?_, Frame.trans (updMb_frame _ _ _) hf (by decide) (by decide)⟩
    · rw [hbox, heq, mbox_updMb_self]
    · rw [hbox, heq, mbox_updMb_ne _ _ _ _ hk]
  · refine ends_of_exec hpop ?_
    obtain ⟨u, hu, hself, hother⟩ : ∃ u, popS2h s w.mb = (armS2h u w.mb true, x) ∧
        ((mbox u w.mb).s2h = l ∧ (mbox u w.mb).underrun = (mbox s w.mb).underrun ∧ (mbox u w.mb).s2hDb = (mbox s w.mb).s2hDb) ∧
        (∀ k, k ≠ w.mb → mbox u k = mbox s k) ∧ Frame [.mbx] s u := by
      unfold popS2h
      rw [hx]
      refine ⟨_, rfl, ?_, fun k hk => mbox_updMb_ne _ _ _ _ hk, updMb_frame _ _ _⟩
      rw [mbox_updMb_self]
      exact ⟨rfl, rfl, rfl⟩
    obtain ⟨hother, hframe⟩ := hother
    obtain ⟨⟨timer, htimer⟩, harm⟩ := mbox_armS2h u w.mb true
    have hrsp := mbRsp_read_frame (armS2h u w.mb true) hw.2 x
    have hbox := mbox_of_frame hrsp (by decide)
    rw [hu]
    dsimp only
    refine ⟨?_, ?_, ?_, mbRsp_answered _ hw.2 x, fun k hk => ?_, ?_⟩
    · rw [hbox, htimer]; exact hself.1
    · rw [hbox, htimer]; exact hself.2.1
    · rw [hbox, htimer]; exact hself.2.2
    · rw [hbox, harm k hk, hother k hk]
    · exact Frame.trans (Frame.trans hframe (armS2h_hostFrame u w.mb true) (n := [.mbx]) (by decide) (by decide)) hrsp (by decide) (by decide)
  · refine ends_of_exec hpop ?_
    have hu : popS2h s w.mb = (updMb s w.mb (fun b => { b with underrun := true }), 0) := by
      unfold popS2h
      rw [hempty]
    rw [hu]
    dsimp only
    have hrsp := mbRsp_read_frame (updMb s w.mb (fun b => { b with underrun := true })) hw.2 0
    refine ⟨?_, mbRsp_answered _ hw.2 0, Frame.trans (updMb_frame _ _ _) hrsp (by decide) (by decide)⟩
    rw [mbox_of_frame hrsp (by decide), mbox_updMb_self]
  · refine ends_of_exec rfl ?_
    obtain ⟨hbox, hf⟩ := mbWrite_ends hw (fun t => armH2s (updMb t w.mb (fun b => { b with h2sDb := b.h2sDb ||| (v &&& 1) })) w.mb false)
    obtain ⟨timer, htimer⟩ := mbox_armH2s (updMb s w.mb (fun b => { b with h2sDb := b.h2sDb ||| (v &&& 1) })) w.mb false w.mb
    refine ⟨?_, ?_, fun k hk => ?_, ?_⟩
    · rw [hbox, htimer, mbox_updMb_self]
    · rw [hbox, htimer, mbox_updMb_self]
    · rw [hbox, armH2s_ne _ _ _ hk, mbox_updMb_ne _ _ _ _ hk]
    · exact Frame.trans (Frame.trans (updMb_frame _ _ _) (armH2s_frame _ _ _) (n := [.mbx]) (by decide) (by decide)) hf (by decide) (by decide)

theorem mailboxDoorbells : Claim.MailboxDoorbells := by
  intro s w v hw
  refine ⟨ends_of_exec rfl ?_, ends_of_exec rfl ?_⟩
  · obtain ⟨hbox, hf⟩ := mbWrite_ends hw
      (fun t => afterMbWrite (armS2h (updMb t w.mb (fun b => { b with s2hDb := b.s2hDb &&& ~~~ v })) w.mb false) w.mb)
    obtain ⟨hheld, hrest⟩ := mbox_afterMbWrite (armS2h (updMb s w.mb (fun b => { b with s2hDb := b.s2hDb &&& ~~~ v })) w.mb false) w.mb
    obtain ⟨⟨timer, htimer⟩, harm⟩ := mbox_armS2h (updMb s w.mb (fun b => { b with s2hDb := b.s2hDb &&& ~~~ v })) w.mb false
    rw [htimer, mbox_updMb_self] at hheld
    have hall := Frame.trans (Frame.trans (updMb_frame s w.mb (fun b => { b with s2hDb := b.s2hDb &&& ~~~ v })) (armS2h_hostFrame _ w.mb false)
      (n := [.mbx]) (by decide) (by decide)) (afterMbWrite_hostFrame _ w.mb) (n := [.mbx, .hst, .out]) (by decide) (by decide)
    refine ⟨?_, ?_, ?_, fun k hk => ?_, Frame.trans hall hf (by decide) (by decide)⟩
    · rw [hbox, hheld]
    · rw [hbox, hheld]
    · rw [hbox, hheld]
    · rw [hbox, hrest k hk, harm k hk, mbox_updMb_ne _ _ _ _ hk]
  · obtain ⟨hbox, hf⟩ := mbWrite_ends hw (fun t => afterMbWrite (updMb t w.mb (fun b => { b with s2hMask := v &&& (mask 31 8 ||| mask 1 0) })) w.mb)
    obtain ⟨hheld, hrest⟩ := mbox_afterMbWrite (updMb s w.mb (fun b => { b with s2hMask := v &&& (mask 31 8 ||| mask 1 0) })) w.mb
    rw [mbox_updMb_self] at hheld
    refine ⟨?_, fun k hk => ?_, ?_⟩
    · rw [hbox]; exact hheld
    · rw [hbox, hrest k hk, mbox_updMb_ne _ _ _ _ hk]
    · exact Frame.trans (Frame.trans (updMb_frame _ _ _) (afterMbWrite_hostFrame _ w.mb) (n := [.mbx, .hst, .out]) (by decide) (by decide)) hf
        (by decide) (by decide)

/-! ## MB_CTL -/

/-- A write of MB_CTL by the root partition has its own effect and is answered. -/
theorem mbCtl_ends {a : Acc} (hst : a.st < 2) (hup : accUp s a.st = true) (hm : m < 66) (hreach : mayReach s a.part (.page pMBX 0x1000) = true)
    (f : State → State) :
    (∀ k, mbox (mbCtl s a m f) k = mbox (f s) k) ∧ Answered (mbCtl s a m f) a.st .ok [] ∧ Frame [.hst, .out] (f s) (mbCtl s a m f) := by
  have hok : mbReach s { mb := m, via := .page a } false = .ok := by
    unfold mbReach
    simp [hup, hreach, Nat.not_le.mpr hm]
  have heq : mbCtl s a m f = regRsp (f s) a.st .ok [] := mbWrite_reached f hok
  rw [heq]
  have hf := regRsp_host hst (f s) []
  exact ⟨mbox_of_frame hf (by decide), regRsp_ok hst _ _, hf⟩

theorem mailboxFlush : Claim.MailboxFlush := by
  intro s a m hst hup hm hreach
  refine ⟨ends_of_exec rfl ?_, ends_of_exec rfl ?_, ends_of_exec rfl ?_⟩
  · obtain ⟨hbox, hans, hf⟩ := mbCtl_ends hst hup hm hreach (fun t => updMb t m (fun b => { b with held := false, owner := 0 }))
    refine ⟨?_, fun k hk => ?_, hans, Frame.trans (updMb_frame _ _ _) hf (by decide) (by decide)⟩
    · rw [hbox, mbox_updMb_self]
    · rw [hbox, mbox_updMb_ne _ _ _ _ hk]
  · obtain ⟨hbox, hans, hf⟩ := mbCtl_ends hst hup hm hreach (fun t => flushToSudric t m)
    obtain ⟨timer, htimer⟩ := mbox_armH2s (updMb s m (fun b => { b with h2s := [] })) m false m
    have hself : mbox (flushToSudric s m) m = { mbox s m with h2s := [], h2sTimer := timer } := by
      rw [flushToSudric, htimer, mbox_updMb_self]
    refine ⟨?_, ?_, ?_, fun k hk => ?_, hans, Frame.trans (Frame.trans (updMb_frame _ _ _) (armH2s_frame _ _ _) (n := [.mbx]) (by decide) (by decide)) hf
      (by decide) (by decide)⟩
    · rw [hbox, hself]
    · rw [hbox, hself]
    · rw [hbox, hself]
    · rw [hbox, flushToSudric, armH2s_ne _ _ _ hk, mbox_updMb_ne _ _ _ _ hk]
  · obtain ⟨hbox, hans, hf⟩ := mbCtl_ends hst hup hm hreach (fun t => flushToHost t m)
    obtain ⟨⟨timer, htimer⟩, harm⟩ := mbox_armS2h (updMb s m (fun b => { b with s2h := [], fifoMsgs := [] })) m false
    have hself : mbox (flushToHost s m) m = { mbox s m with s2h := [], fifoMsgs := [], s2hTimer := timer } := by
      rw [flushToHost, htimer, mbox_updMb_self]
    refine ⟨?_, ?_, ?_, fun k hk => ?_, hans, Frame.trans (Frame.trans (updMb_frame _ _ _) (armS2h_hostFrame _ _ _) (n := [.mbx]) (by decide) (by decide)) hf
      (by decide) (by decide)⟩
    · rw [hbox, hself]
    · rw [hbox, hself]
    · rw [hbox, hself]
    · rw [hbox, flushToHost, harm k hk, mbox_updMb_ne _ _ _ _ hk]

/-- Settles O18. -/
theorem mailboxHostSide : Obligations.MailboxHostSide := ⟨mailboxWords, mailboxDoorbells, mailboxFlush⟩

/-! ## Replies and timers -/

/-- A timer that expired marks its mailbox in the map, with an interrupt where the mark is new, and leaves the mailboxes. -/
theorem mbTimedOut_ends (s : State) (hm : m < 66) :
    (∀ k, mbox (mbTimedOut s m) k = mbox s k) ∧
    (if m < 64 then bitOf (mbTimedOut s m).mbx.toMapLo m = true else bitOf (mbTimedOut s m).mbx.toMapHi (m - 64) = true) ∧
    Frame [.pages, .mbx, .cnt, .hst, .out] s (mbTimedOut s m) := by
  obtain ⟨x, hx, hboxes, hmap⟩ : ∃ x : Mbx, (mbTimedOut s m = { s with mbx := x } ∨ mbTimedOut s m = raise { s with mbx := x } pMBX 0) ∧
      x.boxes = s.mbx.boxes ∧ (if m < 64 then bitOf x.toMapLo m = true else bitOf x.toMapHi (m - 64) = true) := by
    refine ⟨{ s.mbx with
        toMapLo := if m < 64 then setBit s.mbx.toMapLo m true else s.mbx.toMapLo
        toMapHi := if m < 64 then s.mbx.toMapHi else setBit s.mbx.toMapHi (m - 64) true }, ?_, rfl, ?_⟩
    · unfold mbTimedOut
      dsimp only
      generalize (if m < 64 then bitOf s.mbx.toMapLo m else bitOf s.mbx.toMapHi (m - 64)) = old
      cases old
      · exact .inr rfl
      · exact .inl rfl
    · dsimp only
      split
      · next h => exact bitOf_setBit_true _ h
      · exact bitOf_setBit_true _ (by omega)
  have hone : Frame [.pages, .mbx, .cnt, .hst, .out] s { s with mbx := x } := by
    intro c hc; cases c <;> first | exact absurd (by decide) hc | rfl
  have hbox : ∀ k, mbox { s with mbx := x } k = mbox s k := fun k => by unfold mbox; rw [hboxes]
  rcases hx with hx | hx
  · rw [hx]; exact ⟨hbox, hmap, hone⟩
  · have hmbx : (raise { s with mbx := x } pMBX 0).mbx = x := raise_frame { s with mbx := x } pMBX 0 .mbx (by decide)
    rw [hx, hmbx]
    exact ⟨fun k => (mbox_of_frame (raise_hostFrame _ _ _) (by decide) k).trans (hbox k), hmap, hone.andThen (raise_hostFrame _ _ _) (by decide)⟩

/-- A mailbox whose timer toward Sudric expired. -/
def h2sDropped (rx : Nat) (b : Mailbox) : Mailbox := { b with h2sTo := true, h2sCause := rx, h2s := [], h2sDb := 0, h2sTimer := none }

theorem h2sExpire_due {d : Word} (h : (mbox s m).h2sTimer = some d) (hd : btDue s d.toNat = true) :
    h2sExpire s m = mbTimedOut (updMb s m (h2sDropped (h2sRx s m))) m := by
  unfold h2sExpire
  rw [h]
  dsimp only
  rw [hd]
  rfl

/-- A mailbox whose timer toward the host expired. -/
def s2hDropped (rx : Nat) (b : Mailbox) : Mailbox :=
  { b with s2hTo := true, s2hCause := rx, lost := satAdd 8 b.lost b.fifoMsgs.length, s2h := [], fifoMsgs := [],
           s2hDb := setBit b.s2hDb dbReply false, s2hTimer := none }

theorem s2hExpire_due {d : Word} (h : (mbox s m).s2hTimer = some d) (hd : btDue s d.toNat = true) :
    s2hExpire s m = mbTimedOut (armS2h (updMb s m (s2hDropped (s2hRx s m))) m false) m := by
  unfold s2hExpire
  rw [h]
  dsimp only
  rw [hd]
  rfl

theorem mailboxReplies : Claim.MailboxReplies := by
  refine ⟨?_, ?_, ?_⟩
  · intro s m r l hserves hreplies howed hroom hsvc
    have hexec : exec (.replyPush m) s = .next (ringReply (updMb s m (fun b => { b with s2h := b.s2h ++ r, fifoMsgs := b.fifoMsgs ++ [r.length], replies := l })) m dbReply) := by
      show Host.Outcome.next (if sudricServes s m then pushReply s m else s) = _
      rw [hserves, if_pos rfl]
      unfold pushReply
      dsimp only
      rw [hreplies]
      dsimp only
      rw [howed, if_neg (by simpa using hroom), if_neg hsvc]
    refine ends_of_exec hexec ?_
    obtain ⟨hring, hother⟩ := mbox_ringS2h (updMb s m (fun b => { b with s2h := b.s2h ++ r, fifoMsgs := b.fifoMsgs ++ [r.length], replies := l })) m dbReply
    obtain ⟨⟨timer, htimer⟩, harm⟩ := mbox_armS2h (ringS2h (updMb s m (fun b => { b with s2h := b.s2h ++ r, fifoMsgs := b.fifoMsgs ++ [r.length], replies := l })) m dbReply) m false
    rw [mbox_updMb_self] at hring
    unfold ringReply
    rw [htimer, hring]
    refine ⟨rfl, rfl, bitOf_setBit_true _ (by decide), fun n hn => ?_, ?_⟩
    · rw [harm n hn, hother n hn, mbox_updMb_ne _ _ _ _ hn]
    · exact Frame.trans (updMb_frame _ _ _) (ringReply_hostFrame _ m dbReply) (by decide) (by decide)
  · intro s m d hm htimer hdue
    refine ends_of_exec (congrArg Host.Outcome.next (h2sExpire_due htimer hdue)) ?_
    obtain ⟨hbox, hmap, hf⟩ := mbTimedOut_ends (updMb s m (h2sDropped (h2sRx s m))) hm
    refine ⟨?_, hmap, fun n hn => ?_, Frame.trans (updMb_frame _ _ _) hf (by decide) (by decide)⟩
    · rw [hbox, mbox_updMb_self]; rfl
    · rw [hbox, mbox_updMb_ne _ _ _ _ hn]
  · intro s m d hm htimer hdue
    refine ends_of_exec (congrArg Host.Outcome.next (s2hExpire_due htimer hdue)) ?_
    obtain ⟨hbox, hmap, hf⟩ := mbTimedOut_ends (armS2h (updMb s m (s2hDropped (s2hRx s m))) m false) hm
    obtain ⟨⟨timer, htimer⟩, harm⟩ := mbox_armS2h (updMb s m (s2hDropped (s2hRx s m))) m false
    have hself : mbox (mbTimedOut (armS2h (updMb s m (s2hDropped (s2hRx s m))) m false) m) m = { s2hDropped (s2hRx s m) (mbox s m) with s2hTimer := timer } := by
      rw [hbox, htimer, mbox_updMb_self]
    rw [hself]
    refine ⟨rfl, rfl, rfl, bitOf_setBit_false _ (by decide), rfl, rfl, hmap, fun n hn => ?_, ?_⟩
    · rw [hbox, harm n hn, mbox_updMb_ne _ _ _ _ hn]
    · exact Frame.trans (Frame.trans (updMb_frame _ _ _) (armS2h_hostFrame _ _ _) (n := [.mbx]) (by decide) (by decide)) hf (by decide) (by decide)

/-- A timer that expired leaves the mailboxes, wherever it stands in the map. -/
theorem mbox_mbTimedOut (s : State) (m k : Nat) : mbox (mbTimedOut s m) k = mbox s k := by
  unfold mbTimedOut
  dsimp only
  generalize (if m < 64 then bitOf s.mbx.toMapLo m else bitOf s.mbx.toMapHi (m - 64)) = old
  cases old
  case true => rfl
  case false => exact mbox_of_frame (raise_hostFrame _ _ _) (by decide) k

theorem deadlineExpire_h2s (s : State) (m : Nat) : deadlineExpire s (8 * m) = h2sExpire s m := by
  have h1 : 8 * m % 8 = 0 := by omega
  have h2 : 8 * m / 8 = m := by omega
  unfold deadlineExpire
  simp only [h1, h2]

theorem deadlines : Claim.Deadlines := by
  intro s m d htimer
  refine ⟨fun hdue => ?_, fun hnot => ?_⟩
  · refine ends_of_exec (congrArg Host.Outcome.next ((deadlineExpire_h2s s m).trans (h2sExpire_due htimer hdue))) ?_
    rw [mbox_mbTimedOut, mbox_updMb_self]
    exact ⟨rfl, rfl, rfl⟩
  · have hkeep : h2sExpire s m = s := by
      unfold h2sExpire
      rw [htimer]
      dsimp only
      rw [hnot]
      rfl
    exact ends_of_exec (congrArg Host.Outcome.next ((deadlineExpire_h2s s m).trans hkeep)) rfl

/-- Settles O20. -/
theorem mailboxTimers : Obligations.MailboxTimers := ⟨mailboxReplies, deadlines⟩

end Sys2Proof.Machine
end

section
namespace Sys2Proof.Machine
open Sys2Proof

/-! # Pulses and words of the beacon (R84 to R93, R109 to R112) -/

variable {s : State} {c : Nat}

/-! ## What the parts of a pulse leave of the beacon's registers -/

theorem advanceTo_at (h : s.clk.cyc ≤ c) : advanceTo s c = { s with clk := { s.clk with cyc := c } } := by
  unfold advanceTo
  rw [Nat.max_eq_right h]

theorem driveBeacon_outFrame (s : State) : Frame [.out] s (driveBeacon s) := by
  unfold driveBeacon
  split
  · rw [emit_unlinked rfl]
    intro c hc; cases c <;> first | exact absurd (by decide) hc | rfl
  · exact Frame.refl _ _

/-- A period that waits begins to hold. -/
theorem applyBcnNext_bcn (h : s.bcn.cfgNext = none) :
    ∃ p n, (applyBcnNext s).bcn = { s.bcn with period := p, periodNext := n } := by
  unfold applyBcnNext
  cases hp : s.bcn.periodNext with
  | none =>
    dsimp only
    split
    · next c hc => exact absurd (h.symm.trans hc) (by simp)
    · exact ⟨_, _, rfl⟩
  | some v =>
    have hc : (updBcn s (fun b => { b with period := v, periodNext := none })).bcn.cfgNext = none := h
    dsimp only
    rw [hc]
    exact ⟨v, none, rfl⟩

/-- The count takes a value, with the period that waited. -/
theorem setCount_bcn (h : s.bcn.cfgNext = none) (n : Word) (co : Bool) :
    ∃ p x, (setCount s n co).bcn = { s.bcn with count := n, lastTick := tickOf s, coasted := co, period := p, periodNext := x } := by
  obtain ⟨p, x, he⟩ := applyBcnNext_bcn (s := count (updBcn s (fun b => { b with count := n, lastTick := tickOf s, coasted := co })) pCNT 2) h
  exact ⟨p, x, (driveBeacon_outFrame _ .bcn (by decide)).trans he⟩

theorem setCount_hostFrame (s : State) (n : Word) (co : Bool) : Frame [.bcn, .cnt, .out] s (setCount s n co) := by
  have hbcn := updBcn_frame s (fun b => { b with count := n, lastTick := tickOf s, coasted := co })
  have hcnt := Frame.trans hbcn (count_frame _ pCNT 2 0x3FF 0xFFF 1) (n := [.bcn, .cnt, .out]) (by decide) (by decide)
  exact (hcnt.andThen (applyBcnNext_frame _) (by decide)).andThen (driveBeacon_outFrame _) (by decide)

theorem noteAccepted_bcn (s : State) :
    ∃ l, (noteAccepted s).bcn = { s.bcn with lastPeriod := l, lastAcc := some s.clk.cyc, lastPulse := s.clk.cyc } := by
  unfold noteAccepted
  dsimp only
  split
  · exact ⟨_, rfl⟩
  · split <;> exact ⟨_, rfl⟩

theorem clearSrcUnc_bcn (s : State) (w : Option BcnWord) :
    ∃ a b, (clearSrcUnc s w).bcn = { s.bcn with srcUncertain := a, uncertain := b } := by
  unfold clearSrcUnc
  split
  · split <;> exact ⟨_, _, rfl⟩
  · exact ⟨_, _, rfl⟩

/-! ## A pulse inside the window -/

/-- The pulse is noted, and its word used up. -/
def pulseNoted (s : State) : State :=
  clearSrcUnc (noteAccepted (updBcn s (fun b => { b with mode := .locked, word := none, expected := s.clk.cyc }))) s.bcn.word

/-- The beacon's registers when a pulse has been noted: its times, and what the spec lets follow from its word. -/
def notedBcn (b : Bcn) (cyc period : Nat) (src unc : Bool) : Bcn :=
  { b with mode := .locked, word := none, expected := cyc, lastPeriod := period, lastAcc := some cyc, lastPulse := cyc,
           srcUncertain := src, uncertain := unc }

theorem pulseNoted_bcn (s : State) : ∃ l a b, (pulseNoted s).bcn = notedBcn s.bcn s.clk.cyc l a b := by
  obtain ⟨a, b, h⟩ := clearSrcUnc_bcn (noteAccepted (updBcn s (fun b => { b with mode := .locked, word := none, expected := s.clk.cyc }))) s.bcn.word
  obtain ⟨l, h'⟩ := noteAccepted_bcn (updBcn s (fun b => { b with mode := .locked, word := none, expected := s.clk.cyc }))
  refine ⟨l, a, b, ?_⟩
  rw [pulseNoted, h, h']
  rfl

theorem pulseNoted_frame (s : State) : Frame [.free, .bcn] s (pulseNoted s) :=
  ((updBcn_frame s _).mono (by decide)).andThen ((noteAccepted_frame _).andThen (clearSrcUnc_frame _ _) (by decide)) (by decide)

/-- The count has advanced by the pulse. -/
def pulseCounted (s t : State) : State := kindlePulse (setCount t (s.bcn.count + 1) false)

/-- The beacon's registers when the count has advanced by a pulse. -/
theorem pulseCounted_bcn {t : State} (s : State) (h : t.bcn.cfgNext = none) :
    ∃ p x, (pulseCounted s t).bcn = { t.bcn with count := s.bcn.count + 1, lastTick := tickOf t, coasted := false, period := p, periodNext := x } := by
  obtain ⟨p, x, he⟩ := setCount_bcn h (s.bcn.count + 1) false
  exact ⟨p, x, (kindlePulse_frame _ .bcn (by decide)).trans he⟩

theorem pulseCounted_frame (s t : State) : Frame [.bcn, .cnt, .det, .out] t (pulseCounted s t) :=
  ((setCount_hostFrame t _ _).mono (by decide)).andThen (kindlePulse_frame _) (by decide)

theorem advanceCount_pulse (s : State) (co : Bool) : advanceCount s co true = setCount s (s.bcn.count + 1) co := rfl

theorem pulseNoted_count (s : State) : (pulseNoted s).bcn.count = s.bcn.count := by
  obtain ⟨l, a, b, h⟩ := pulseNoted_bcn s
  rw [h, notedBcn]

/-- A pulse whose word, if one came, announced the count that it reaches. -/
theorem lockedPulse_good (hw : ∀ w, s.bcn.word = some w → w.next = s.bcn.count + 1) :
    ∃ m, (lockedPulse s).bcn = { (pulseCounted s (pulseNoted s)).bcn with missRow := m } ∧
      Frame [.bcn] (pulseCounted s (pulseNoted s)) (lockedPulse s) := by
  have hbad : s.bcn.word.any (fun x => x.next != s.bcn.count + 1) = false := by
    cases hword : s.bcn.word with
    | none => rfl
    | some w => rw [Option.any_some, hw w hword, bne_self_eq_false]
  unfold lockedPulse
  dsimp only
  rw [hbad, ← pulseNoted, Bool.false_and, if_neg Bool.false_ne_true, if_neg Bool.false_ne_true, advanceCount_pulse, pulseNoted_count, ← pulseCounted]
  split
  · exact ⟨0, rfl, updBcn_frame _ _⟩
  · exact ⟨(pulseCounted s (pulseNoted s)).bcn.missRow, rfl, Frame.refl _ _⟩

/-- The lock is lost on the third pulse in a row whose word announced another count: UNCERTAIN is set before the count advances. -/
def pulseDoubted (s : State) : State :=
  if 3 ≤ s.bcn.missRow + 1 then updBcn (pulseNoted s) (fun b => { b with uncertain := true }) else pulseNoted s

theorem pulseDoubted_bcn (s : State) : ∃ l a b, (pulseDoubted s).bcn = notedBcn s.bcn s.clk.cyc l a b := by
  obtain ⟨l, a, b, h⟩ := pulseNoted_bcn s
  unfold pulseDoubted
  split
  · exact ⟨l, a, true, congrArg (fun x : Bcn => { x with uncertain := true }) h⟩
  · exact ⟨l, a, b, h⟩

/-- A pulse whose word announced another count: it counts, and the word is counted as an error. -/
def pulseMistold (s : State) : State :=
  wordErr (updBcn (pulseCounted s (pulseDoubted s)) (fun b => { b with missRow := b.missRow + 1 }))

theorem lockedPulse_bad {w : BcnWord} (hw : s.bcn.word = some w) (hne : w.next ≠ s.bcn.count + 1) :
    lockedPulse s = if 3 ≤ s.bcn.missRow + 1 then enterResync (pulseMistold s) else pulseMistold s := by
  obtain ⟨l, a, b, hd⟩ := pulseDoubted_bcn s
  have hn : (pulseDoubted s).bcn.count = s.bcn.count := by rw [hd, notedBcn]
  have hbad : s.bcn.word.any (fun x => x.next != s.bcn.count + 1) = true := by rw [hw, Option.any_some, bne_iff_ne]; exact hne
  unfold lockedPulse
  dsimp only
  rw [hbad, ← pulseNoted, Bool.true_and, if_pos rfl]
  simp only [decide_eq_true_eq]
  rw [← pulseDoubted, advanceCount_pulse, hn, ← pulseCounted, ← pulseMistold]

theorem wordErr_bcn (s : State) : (wordErr s).bcn = { s.bcn with wordErr := satAdd 32 s.bcn.wordErr 1 } :=
  raise_hostFrame _ pBCN 5 .bcn (by decide)

theorem page_raise_bit (s : State) (p b : Nat) (h : b < 64) : bitOf (page (raise s p b) p).irqRaw b = true := by
  rw [page_raise_self s p b]
  exact bitOf_setBit_true _ h

theorem wordErr_irq (s : State) : bitOf (page (wordErr s) pBCN).irqRaw 5 = true := page_raise_bit _ _ _ (by decide)

theorem pulseMistold_bcn (h : s.bcn.cfgNext = none) : ∃ b, (pulseMistold s).bcn = b ∧ b.count = s.bcn.count + 1 ∧
    b.wordErr = satAdd 32 s.bcn.wordErr 1 ∧ b.word = none ∧ b.mode = .locked ∧ b.missRow = s.bcn.missRow + 1 := by
  obtain ⟨l, x, y, hd⟩ := pulseDoubted_bcn s
  obtain ⟨p, n, hc⟩ := pulseCounted_bcn (t := pulseDoubted s) s (by rw [hd]; exact h)
  refine ⟨_, wordErr_bcn _, ?_, ?_, ?_, ?_, ?_⟩
  all_goals simp only [updBcn, hc, hd, notedBcn]

/-! ## The commands -/

theorem execBeaconPulse_inForce (hlive : live s = true) (hspan : fromSpan s = false) :
    (!live s || false != fromSpan s || (false && !s.spn.bcnOut.any (fun x => x.2.2 == c))) = false := by
  rw [hlive, hspan]; rfl

/-- A pulse of a source that is in force, in a block that is locked or coasts. -/
theorem exec_beaconPulse_locked (hlive : live s = true) (hspan : fromSpan s = false) (hmode : s.bcn.mode = .locked ∨ s.bcn.mode = .coast) :
    exec (.beaconPulse false c) s = .next (if missBy (advanceTo s c).clk.cyc (s.bcn.expected + periodNom s) ≤ bcnWin s
      then lockedPulse (advanceTo s c) else strayPulse (advanceTo s c)) := by
  show execBeaconPulse false c s = _
  unfold execBeaconPulse
  rw [execBeaconPulse_inForce hlive hspan, if_neg Bool.false_ne_true]
  dsimp only
  rw [if_neg Bool.false_ne_true, advanceTo_bcn]
  rcases hmode with hm | hm
  all_goals
    rw [hm]
    exact (apply_ite Host.Outcome.next _ _ _).symm

theorem exec_beaconPulse_dark (hlive : live s = true) (hspan : fromSpan s = false) (hmode : s.bcn.mode = .dark) :
    exec (.beaconPulse false c) s = .next (phasePulse (advanceTo s c)) := by
  show execBeaconPulse false c s = _
  unfold execBeaconPulse
  rw [execBeaconPulse_inForce hlive hspan, if_neg Bool.false_ne_true]
  dsimp only
  rw [if_neg Bool.false_ne_true, advanceTo_bcn, hmode]

theorem beaconPulseLocked : Claim.BeaconPulseLocked := by
  intro s c hlive hspan hmode hc
  have hexec := exec_beaconPulse_locked (c := c) hlive hspan hmode
  have hclk := advanceTo_frame s c
  have hcyc : (advanceTo s c).clk.cyc = c := Nat.max_eq_right hc
  have hbcn := advanceTo_bcn s c
  generalize advanceTo s c = u at hexec hclk hcyc hbcn
  rw [hcyc] at hexec
  refine ⟨fun hwin hnext hword => ?_, fun w hwin hnext hword hne => ?_, fun hwin => ?_⟩
  · rw [if_pos hwin] at hexec
    rw [← hbcn] at hword hnext
    obtain ⟨l, x, y, hn⟩ := pulseNoted_bcn u
    obtain ⟨p, n, hb⟩ := pulseCounted_bcn (t := pulseNoted u) u (by rw [hn]; exact hnext)
    obtain ⟨m, hm, hf⟩ := lockedPulse_good hword
    rw [hb, hn, hcyc, hbcn] at hm
    have hall : Frame [.clk, .free, .pages, .bcn, .cnt, .det, .hst, .out] s (lockedPulse u) :=
      Frame.into hf rfl (Frame.into (pulseCounted_frame u _) rfl (Frame.into (pulseNoted_frame u) rfl (hclk.mono (by decide))))
    have hclkkeep : (lockedPulse u).clk = u.clk := (Frame.into hf rfl (Frame.into (pulseCounted_frame u _) rfl ((pulseNoted_frame u).mono (by decide)))
      : Frame [.free, .bcn, .cnt, .det, .out] u _) .clk (by decide)
    refine ends_of_exec hexec ?_
    rw [hm, hclkkeep]
    exact ⟨rfl, rfl, rfl, rfl, rfl, rfl, rfl, rfl, hcyc, hall⟩
  · rw [if_pos hwin] at hexec
    rw [← hbcn] at hword hne hnext
    obtain ⟨b, hb, hcount, herr, hnone, hlocked, hmiss⟩ := pulseMistold_bcn hnext
    have hirq : bitOf (page (pulseMistold u) pBCN).irqRaw 5 = true := wordErr_irq _
    rw [lockedPulse_bad hword hne] at hexec
    refine ends_of_exec hexec ?_
    rw [hbcn] at hcount herr hmiss
    by_cases hlost : 3 ≤ u.bcn.missRow + 1
    · have hlost' : ¬ s.bcn.missRow < 2 := by rw [← hbcn]; omega
      rw [if_pos hlost]
      unfold enterResync updBcn
      dsimp only
      rw [hb]
      exact ⟨hcount, herr, hnone, hirq, fun h => absurd h hlost', fun _ => ⟨rfl, rfl, rfl⟩⟩
    · have hlost' : ¬ 2 ≤ s.bcn.missRow := by rw [← hbcn]; omega
      rw [if_neg hlost, hb]
      exact ⟨hcount, herr, hnone, hirq, fun _ => ⟨hlocked, hmiss⟩, fun h => absurd h hlost'⟩
  · rw [if_neg (by omega)] at hexec
    refine ends_of_exec hexec ⟨?_, page_raise_bit _ _ _ (by decide), ?_, Frame.into (strayPulse_frame u) rfl (hclk.mono (by decide))⟩
    · rw [← hbcn]; exact raise_hostFrame _ pBCN 4 .bcn (by decide)
    · rw [strayPulse_frame u .clk (by decide)]; exact hcyc

theorem beaconPulseDark : Claim.BeaconPulseDark := by
  intro s c hlive hspan hmode hc
  have hexec := exec_beaconPulse_dark (c := c) hlive hspan hmode
  rw [advanceTo_at hc] at hexec
  exact ends_of_exec hexec ⟨rfl, rfl, rfl, rfl, rfl, rfl, rfl, Frame.into (phasePulse_frame _) rfl ((clk_frame s _).mono (by decide))⟩

/-! ## Words -/

theorem exec_beaconWord (hlive : live s = true) (hspan : fromSpan s = false) (bs : List Byte) :
    exec (.beaconWord false bs) s = .next (match beaconWordOf bs with
      | none => wordErr (updBcn s (fun b => { b with word := none }))
      | some w => takeWord s w) := by
  show execBeaconWord false bs s = _
  unfold execBeaconWord
  rw [hlive, hspan]
  rfl

theorem beaconWords : Claim.BeaconWords := by
  intro s bs hlive hspan
  have hexec := exec_beaconWord hlive hspan bs
  refine ⟨fun w hw => ?_, fun hnone => ?_⟩
  · rw [hw] at hexec
    refine ends_of_exec hexec ?_
    have hf := takeWord_frame s w
    obtain ⟨a, b, hb, hab⟩ : ∃ a b, (takeWord s w).bcn = { s.bcn with word := some w, wordAt := s.clk.cyc, uncertain := a, srcUncertain := b } ∧
        (w.uncertain = true → s.bcn.mode = .locked ∨ s.bcn.mode = .coast → a = true ∧ b = true) := by
      unfold takeWord
      dsimp only
      split
      · refine ⟨true, true, ?_, fun _ _ => ⟨rfl, rfl⟩⟩
        split
        · rfl
        · exact raise_hostFrame _ pBCN 6 .bcn (by decide)
      · next hnot =>
        refine ⟨_, _, rfl, fun hu hm => absurd ?_ hnot⟩
        rw [hu]
        rcases hm with hm | hm <;> rw [hm] <;> rfl
    rw [hb]
    exact ⟨rfl, rfl, rfl, rfl, hab, hf⟩
  · rw [hnone] at hexec
    refine ends_of_exec hexec ⟨wordErr_bcn _, wordErr_irq _, Frame.into (wordErr_frame _) rfl ((updBcn_frame s _).mono (by decide))⟩

/-- Settles O14: a pulse inside the window advances the count, and its word is judged before it is used up. -/
theorem beaconPulses : Obligations.BeaconPulses := ⟨beaconPulseLocked, beaconPulseDark, beaconWords⟩

end Sys2Proof.Machine
end

section
namespace Sys2Proof.Machine
open Sys2Proof

/-! # The cancel of a Kindle that another block asked for (R107, R606) -/

/-- A locked block with a Kindle armed by a request that block 0 passed to this master (SEQ 256), with a route to block 0 and no credit
toward it. -/
def relayedKindle : State :=
  { State.reset with
    boot := { State.reset.boot with stage := 2 }
    bcn := { State.reset.bcn with mode := .locked }
    det := { State.reset.det with kindle := 1, kindleMb := some 256 }
    cas := { State.reset.cas with routes := [(0, 8)] } }

/-- At its dark entry the answer of the cancelled arm waits for a credit of the cascade. -/
theorem relayedKindle_answered : ∃ t, exec .beaconDarkEntry relayedKindle = .next t ∧ t.cas.pools.length = 1 :=
  ⟨_, rfl, by decide⟩

/-- Refutes O15: an armed Kindle that a request of another block armed is answered over the cascade when the dark entry cancels it, so the
registers of the cascade change, which the frame of the clause on dark entry does not allow. -/
theorem not_beaconWithoutPulses : ¬ Obligations.BeaconWithoutPulses := by
  intro h
  obtain ⟨-, hloss, -⟩ := h
  obtain ⟨hdark, -⟩ := hloss relayedKindle (by decide)
  obtain ⟨t, ht, -, -, -, -, -, -, -, -, hframe⟩ := hdark (by decide) rfl
  obtain ⟨u, hu, hpools⟩ := relayedKindle_answered
  obtain rfl : t = u := Host.Outcome.next.inj (ht.symm.trans hu)
  have hcas : t.cas = relayedKindle.cas := hframe .cas (by decide)
  rw [hcas] at hpools
  exact absurd hpools (by decide)

end Sys2Proof.Machine
end

section
namespace Sys2Proof.Machine
open Sys2Proof

/-! # Fields of a 64-bit word, bit by bit -/

variable {hi lo i n : Nat}

theorem getLsbD_w64 (n i : Nat) : (w64 n).getLsbD i = (decide (i < 64) && n.testBit i) := BitVec.getLsbD_ofNat 64 n i

theorem testBit_fld (w : Word) (hi lo i : Nat) : (fld w hi lo).testBit i = (decide (i < hi - lo + 1) && w.getLsbD (lo + i)) := by
  rw [fld, Nat.testBit_mod_two_pow, Nat.testBit_shiftRight, BitVec.testBit_toNat]

/-- Words that agree in the bits of a field have the same field. -/
theorem fld_congr {a b : Word} (h : ∀ i, lo ≤ i → i ≤ lo + (hi - lo) → a.getLsbD i = b.getLsbD i) : fld a hi lo = fld b hi lo := by
  refine Nat.eq_of_testBit_eq (fun i => ?_)
  rw [testBit_fld, testBit_fld]
  by_cases hi' : i < hi - lo + 1
  · rw [h (lo + i) (by omega) (by omega)]
  · simp [hi']

theorem getLsbD_mask (h : lo ≤ hi + 1) (i : Nat) : (mask hi lo).getLsbD i = (decide (i < 64) && decide (lo ≤ i) && decide (i ≤ hi)) := by
  have hval : 2 ^ (hi + 1) - 1 - (2 ^ lo - 1) = 2 ^ lo * (2 ^ (hi + 1 - lo) - 1) := by
    have hsplit : 2 ^ (hi + 1) = 2 ^ lo * 2 ^ (hi + 1 - lo) := by rw [← Nat.pow_add]; congr 1; omega
    have hpos := Nat.two_pow_pos lo
    rw [hsplit, Nat.mul_sub, Nat.mul_one]
    omega
  rw [mask, getLsbD_w64, hval, Nat.mul_comm, Nat.testBit_mul_two_pow, Nat.testBit_two_pow_sub_one, Bool.and_assoc]
  congr 1
  by_cases h1 : lo ≤ i <;> simp [h1] <;> omega

/-- The bits of a word in which a field was set. -/
theorem getLsbD_setFld (h : lo ≤ hi) (hhi : hi < 64) (w : Word) (v i : Nat) :
    (setFld w hi lo v).getLsbD i = if lo ≤ i ∧ i ≤ hi then v.testBit (i - lo) else w.getLsbD i := by
  obtain ⟨k, rfl⟩ : ∃ k, hi = lo + k := ⟨hi - lo, by omega⟩
  have hk : lo + k - lo + 1 = k + 1 := by omega
  have hfld : fld w (lo + k) lo = w.toNat / 2 ^ lo % 2 ^ (k + 1) := by rw [fld, hk, Nat.shiftRight_eq_div_pow]
  have hlow : w.toNat = 2 ^ lo * (w.toNat / 2 ^ lo) + w.toNat % 2 ^ lo := (Nat.div_add_mod _ _).symm
  have hmid : w.toNat / 2 ^ lo = 2 ^ (k + 1) * (w.toNat / 2 ^ lo / 2 ^ (k + 1)) + w.toNat / 2 ^ lo % 2 ^ (k + 1) := (Nat.div_add_mod _ _).symm
  have hval : w.toNat - fld w (lo + k) lo * 2 ^ lo + v % 2 ^ (k + 1) * 2 ^ lo =
      2 ^ lo * (2 ^ (k + 1) * (w.toNat / 2 ^ lo / 2 ^ (k + 1)) + v % 2 ^ (k + 1)) + w.toNat % 2 ^ lo := by
    rw [hfld]
    generalize w.toNat / 2 ^ lo / 2 ^ (k + 1) = top at hmid ⊢
    generalize w.toNat / 2 ^ lo % 2 ^ (k + 1) = mid at hmid ⊢
    rw [hmid] at hlow
    generalize w.toNat % 2 ^ lo = low at hlow ⊢
    rw [hlow, Nat.mul_add, Nat.mul_add, Nat.mul_comm mid, Nat.mul_comm (v % _)]
    omega
  have hlt : w.toNat % 2 ^ lo < 2 ^ lo := Nat.mod_lt _ (Nat.two_pow_pos lo)
  have hvlt : v % 2 ^ (k + 1) < 2 ^ (k + 1) := Nat.mod_lt _ (Nat.two_pow_pos _)
  rw [setFld, hk, getLsbD_w64, hval, Nat.testBit_two_pow_mul_add _ hlt, Nat.testBit_two_pow_mul_add _ hvlt, Nat.testBit_mod_two_pow,
    Nat.testBit_mod_two_pow, Nat.testBit_div_two_pow, Nat.testBit_div_two_pow, BitVec.testBit_toNat, BitVec.testBit_toNat]
  by_cases h64 : i < 64
  · by_cases h1 : i < lo
    · rw [if_pos h1, if_neg (by omega)]; simp [h1, h64]
    · rw [if_neg h1]
      by_cases h2 : i - lo < k + 1
      · rw [if_pos h2, if_pos (by omega)]; simp [h2, h64]
      · rw [if_neg h2, if_neg (by omega), show i - lo - (k + 1) + (k + 1) + lo = i by omega]; simp [h64]
  · have hout : ¬ (lo ≤ i ∧ i ≤ lo + k) := by omega
    rw [if_neg hout, BitVec.getLsbD_of_ge w i (by omega)]; simp [h64]

/-- A field that was set reads as the value, taken to its width. -/
theorem fld_setFld_self (h : lo ≤ hi) (hhi : hi < 64) (w : Word) (v : Nat) : fld (setFld w hi lo v) hi lo = v % 2 ^ (hi - lo + 1) := by
  refine Nat.eq_of_testBit_eq (fun i => ?_)
  rw [testBit_fld, getLsbD_setFld h hhi, Nat.testBit_mod_two_pow, Nat.add_sub_cancel_left]
  by_cases hi' : i < hi - lo + 1
  · rw [if_pos (by omega)]
  · simp [hi']

/-- A field beside the one that was set reads as before. -/
theorem fld_setFld_ne {hi' lo' : Nat} (h : lo ≤ hi) (hhi : hi < 64) (hd : lo' + (hi' - lo') < lo ∨ hi < lo') (w : Word) (v : Nat) :
    fld (setFld w hi lo v) hi' lo' = fld w hi' lo' :=
  fld_congr (fun i h1 h2 => by rw [getLsbD_setFld h hhi, if_neg (by omega)])

theorem fld_lt (w : Word) (hi lo : Nat) : fld w hi lo < 2 ^ (hi - lo + 1) := Nat.mod_lt _ (Nat.two_pow_pos _)

/-- A word masked with a field's bits has the same field. -/
theorem fld_and {m : Word} (h : ∀ i, lo ≤ i → i ≤ lo + (hi - lo) → m.getLsbD i = true) (w : Word) : fld (w &&& m) hi lo = fld w hi lo :=
  fld_congr (fun i h1 h2 => by rw [BitVec.getLsbD_and, h i h1 h2, Bool.and_true])

/-- The bits of a packed word: of every field those of its value from its place on. -/
theorem getLsbD_pack_cons (lo v : Nat) (l : List (Nat × Nat)) (i : Nat) :
    (pack ((lo, v) :: l)).getLsbD i = ((decide (i < 64) && (decide (lo ≤ i) && v.testBit (i - lo))) || (pack l).getLsbD i) := by
  rw [pack, BitVec.getLsbD_or, getLsbD_w64, Nat.testBit_shiftLeft]

theorem getLsbD_pack_nil (i : Nat) : (pack []).getLsbD i = false := BitVec.getLsbD_zero

/-- A value of a packed word that begins above a field, or ends below it, is not in it. -/
theorem fld_pack_skip {o v : Nat} {l : List (Nat × Nat)} (h : lo + (hi - lo) < o ∨ v < 2 ^ (lo - o)) :
    fld (pack ((o, v) :: l)) hi lo = fld (pack l) hi lo := by
  refine fld_congr (fun i h1 h2 => ?_)
  rw [getLsbD_pack_cons]
  have hout : (decide (o ≤ i) && v.testBit (i - o)) = false := by
    rcases h with h | h
    · rw [decide_eq_false (by omega), Bool.false_and]
    · rw [Nat.testBit_lt_two_pow (Nat.lt_of_lt_of_le h (Nat.pow_le_pow_right (by decide) (by omega))), Bool.and_false]
  rw [hout, Bool.and_false, Bool.false_or]

theorem fld_pack_nil (hi lo : Nat) : fld (pack []) hi lo = 0 := by
  rw [pack, fld]
  simp

/-- A value of a packed word reads back from its field when no other reaches into it. -/
theorem fld_pack_here {v : Nat} {l : List (Nat × Nat)} (hv : v < 2 ^ (hi - lo + 1)) (hhi : lo + (hi - lo) < 64) (h : fld (pack l) hi lo = 0) :
    fld (pack ((lo, v) :: l)) hi lo = v := by
  refine Nat.eq_of_testBit_eq (fun i => ?_)
  have hz : (fld (pack l) hi lo).testBit i = false := by rw [h, Nat.zero_testBit]
  rw [testBit_fld] at hz ⊢
  rw [getLsbD_pack_cons, Nat.add_sub_cancel_left, Bool.and_or_distrib_left, hz, Bool.or_false]
  by_cases hi' : i < hi - lo + 1
  · simp [hi', show lo + i < 64 by omega]
  · rw [Nat.testBit_lt_two_pow (Nat.lt_of_lt_of_le hv (Nat.pow_le_pow_right (by decide) (by omega)))]
    simp

end Sys2Proof.Machine
end

section
namespace Sys2Proof.Machine
open Sys2Proof

/-! # Services that Sudric runs (R492, R501) -/

variable {s : State} {m seq : Nat} {v : Svc} {args : List Word}

theorem argOf_zero (a : Word) (l : List Word) : argOf (a :: l) 0 = a := rfl
theorem argOf_one (a b : Word) (l : List Word) : argOf (a :: b :: l) 1 = b := rfl
theorem argOf_two (a b c : Word) (l : List Word) : argOf (a :: b :: c :: l) 2 = c := rfl
theorem argOf_three (a b c d : Word) (l : List Word) : argOf (a :: b :: c :: d :: l) 3 = d := rfl

/-- A message to another block of the cascade waits for its credit in CAS, or leaves at once. -/
theorem casSend_outFrame (s : State) (x : CasMsg) : Frame [.cas, .out] s (casSend s x) := by
  unfold casSend
  split
  · exact Frame.refl _ _
  · split
    · rw [emit_unlinked rfl]
      intro c hc; cases c <;> first | exact absurd (by decide) hc | rfl
    · exact (cas_frame s _).mono (by decide)

theorem casAll_outFrame (s : State) (l : CasLoad) : Frame [.cas, .out] s (casAll s l) :=
  Frame.foldl _ _ _ _ (fun t b => casSend_outFrame t _)

/-- The state on which a service runs: its reply is owed, and the master has told the other blocks of a service of cascade scope. -/
def svcStart (s : State) (m seq : Nat) (v : Svc) (args : List Word) : State :=
  if s.cas.master && cascadeScope v.code && !ctxScope v.code then casAll (oweReply s m seq v.code) (.svc m (silent seq) v.code args)
  else oweReply s m seq v.code

theorem svcStart_frame (s : State) (m seq : Nat) (v : Svc) (args : List Word) : Frame [.mbx, .cas, .out] s (svcStart s m seq v args) := by
  have howe : Frame [.mbx, .cas, .out] s (oweReply s m seq v.code) := (oweReply_frame s m seq v.code).mono (by decide)
  unfold svcStart
  split
  · exact Frame.into (casAll_outFrame _ _) rfl howe
  · exact howe

/-- A service that stays on its block, or is on contexts, is told to no other block. -/
theorem svcStart_here (h : cascadeScope v.code = false ∨ ctxScope v.code = true) : svcStart s m seq v args = oweReply s m seq v.code := by
  unfold svcStart
  rw [if_neg]
  rcases h with h | h <;> simp [h]

theorem svcStart_hereFrame (h : cascadeScope v.code = false ∨ ctxScope v.code = true) : Frame [.mbx] s (svcStart s m seq v args) := by
  rw [svcStart_here h]
  exact oweReply_frame s m seq v.code

theorem gate_svcRuns (h : SvcRuns s m seq v args) (f : State → State) : gate s m seq v args f = f (svcStart s m seq v args) := by
  obtain ⟨hseq, hmaster, hserved, hgate, hcheck⟩ := h
  have hwhere : s.cas.master = true ∨ (cascadeScope v.code = false ∧ v.code ≠ 0x80) := by
    by_cases hm : s.cas.master = true
    · exact .inl hm
    · refine .inr ⟨?_, fun hc => hm (hmaster (.inr hc))⟩
      cases hc : cascadeScope v.code with
      | false => rfl
      | true => exact absurd (hmaster (.inl hc)) hm
  rw [gate_runs s m seq v args f hseq hserved hgate hwhere]
  have howe := oweReply_frame s m seq v.code
  have hcas : (oweReply s m seq v.code).cas = s.cas := howe .cas (by decide)
  unfold runSvc svcStart
  rw [hcas]
  cases hp : v.page with
  | none => rfl
  | some p =>
    dsimp only
    have hpc : (page s p).checking = false := by rw [hp] at hcheck; simpa using hcheck
    rw [overrideCheck_idle _ _ (by rw [page_of_frame howe (by decide)]; exact hpc)]

theorem replied_reply (s : State) (m svc : Nat) (st : Status) (res : List Word) (h : seq < 256) : Replied (reply s m seq svc st res) m seq svc st res :=
  ⟨reply_mem s m seq svc st res false h, reply_recent s m seq svc st res false h⟩

end Sys2Proof.Machine
end

section
namespace Sys2Proof.Machine
open Sys2Proof

/-! # The registers of the beacon (R89, R115, R116) -/

variable {s : State} {a : Acc} {v : Word}

/-! ## BCN_CFG and BCN_PERIOD -/

theorem bcnCfgSet_absent (h : fld v 1 0 = 1) (hp : present s pSPN = false) : bcnCfgSet s v = (s, .unitAbsent) := by
  unfold bcnCfgSet
  dsimp only
  rw [if_pos ⟨h, by rw [hp]; rfl⟩]

theorem bcnCfgSet_slave (h : fld v 1 0 = 1) (hp : present s pSPN = true) (hm : s.cas.master = false) : bcnCfgSet s v = (s, .permission) := by
  unfold bcnCfgSet
  dsimp only
  rw [if_neg (by rw [hp]; simp), if_pos ⟨h, by rw [hm]; rfl⟩]

theorem bcnCfgSet_reserved (h : fld v 1 0 ≠ 1) (hr : 2 ≤ fld v 1 0 ∨ 5 < fld v 6 4) : bcnCfgSet s v = (s, .permission) := by
  unfold bcnCfgSet
  dsimp only
  rw [if_neg (fun x => h x.1), if_neg (fun x => h x.1), if_pos hr]

/-- The bits of BCN_CFG, and the change of SRC that waits, after a write. -/
def cfgTaken (v : Word) (b : Bcn) : Bcn :=
  { b with cfg := setFld (v &&& w64 0xFF0077) 1 0 (fld b.cfg 1 0)
           cfgNext := if fld v 1 0 = fld b.cfg 1 0 then none else some (v &&& w64 0xFF0077) }

theorem bcnCfgSet_taken (h : fld v 1 0 = 0 ∨ (fld v 1 0 = 1 ∧ present s pSPN = true ∧ s.cas.master = true)) (hs : fld v 6 4 ≤ 5) :
    bcnCfgSet s v = (updBcn s (cfgTaken v), .ok) := by
  unfold bcnCfgSet
  dsimp only
  rcases h with h | ⟨h, hp, hm⟩
  · rw [if_neg (by omega), if_neg (by omega), if_neg (by omega)]
    rfl
  · rw [if_neg (by rw [hp]; simp), if_neg (by rw [hm]; simp), if_neg (by omega)]
    rfl

/-- The bits that BCN_CFG has. -/
theorem cfgMask_bit : ∀ i < 24, 16 ≤ i ∨ 4 ≤ i ∧ i ≤ 6 ∨ i ≤ 2 → (w64 0xFF0077).getLsbD i = true := by decide

/-- The settings that a write takes at once are those that were written, and SRC is the one in force. -/
theorem cfgTaken_fields (v : Word) (b : Bcn) :
    fld (cfgTaken v b).cfg 23 16 = fld v 23 16 ∧ fld (cfgTaken v b).cfg 6 4 = fld v 6 4 ∧ bitOf (cfgTaken v b).cfg 2 = bitOf v 2 ∧
    fld (cfgTaken v b).cfg 1 0 = fld b.cfg 1 0 := by
  have hlt := fld_lt b.cfg 1 0
  refine ⟨?_, ?_, ?_, ?_⟩
  · rw [cfgTaken, fld_setFld_ne (by decide) (by decide) (by decide), fld_and (fun i h1 h2 => cfgMask_bit i (by omega) (by omega))]
  · rw [cfgTaken, fld_setFld_ne (by decide) (by decide) (by decide), fld_and (fun i h1 h2 => cfgMask_bit i (by omega) (by omega))]
  · rw [cfgTaken, bitOf, getLsbD_setFld (by decide) (by decide), if_neg (by decide), BitVec.getLsbD_and, cfgMask_bit 2 (by decide) (by decide), Bool.and_true, bitOf]
  · rw [cfgTaken, fld_setFld_self (by decide) (by decide)]
    omega

theorem bcnPeriodSet_taken (h1 : 300 ≤ fld v 19 0) (h2 : fld v 19 0 ≤ 35200) (h3 : fld v 35 20 ≤ fld v 19 0 / 4) :
    bcnPeriodSet s v = (updBcn s (fun b => { b with periodNext := some (v &&& mask 35 0) }), .ok) := by
  unfold bcnPeriodSet
  dsimp only
  rw [if_neg (by omega)]

theorem bcnPeriodSet_refused (h : fld v 19 0 < 300 ∨ 35200 < fld v 19 0 ∨ fld v 19 0 / 4 < fld v 35 20) : bcnPeriodSet s v = (s, .permission) := by
  unfold bcnPeriodSet
  dsimp only
  rw [if_pos h]

/-- A write of one of the two registers: its effect on the beacon's registers, with the status in LAST, and what follows an expert write. -/
theorem bcnWrite_ends {off : Nat} (f : State → State × Status) (h : UnitAdmits s a pBCN off) (hd : regDefined pBCN off = true)
    (hf : ∀ t, Frame [.bcn] t (f t).1) {t : State}
    (ht : t = unitWrite s a pBCN off (fun u => withLast pBCN (f u))) :
    t.bcn = (f (setLast s pBCN .ok)).1.bcn ∧ (page t pBCN).last = (f (setLast s pBCN .ok)).2 ∧ Answered t a.st .ok [] ∧
    Frame [.pages, .mbx, .cnt, .hst, .out] (f (setLast s pBCN .ok)).1 t := by
  have hst16 : a.st < 16 := Nat.lt_trans h.1 (by decide)
  rw [unitWrite_admitted s a pBCN off _ h hd] at ht
  subst ht
  have hend := afterWrite_frame s (withLast pBCN (f (setLast s pBCN .ok))) pBCN off a.st hst16
  have hall : Frame [.pages, .mbx, .cnt, .hst, .out] (f (setLast s pBCN .ok)).1 _ := Frame.trans (setLast_frame _ pBCN _) hend (by decide) (fun _ => id)
  refine ⟨hall .bcn (by decide), ?_, regRsp_answered _ _ _ _ hst16, hall⟩
  rw [(afterWrite_sameLastCfg s (withLast pBCN (f (setLast s pBCN .ok))) pBCN off a.st hst16).2 pBCN, withLast, setLast, page_updPage_self]

theorem bcnWrite_refused {off : Nat} (f : State → State × Status) (h : UnitAdmits s a pBCN off) (hd : regDefined pBCN off = true)
    (hf : ∀ t, Frame [.bcn] t (f t).1) {st : Status} (hr : f (setLast s pBCN .ok) = (setLast s pBCN .ok, st)) {t : State}
    (ht : t = unitWrite s a pBCN off (fun u => withLast pBCN (f u))) :
    t.bcn = s.bcn ∧ (page t pBCN).last = st ∧ Frame [.pages, .mbx, .cnt, .hst, .out] s t := by
  obtain ⟨hb, hl, -, hall⟩ := bcnWrite_ends f h hd hf ht
  rw [hr] at hb hl hall
  exact ⟨hb, hl, Frame.into hall rfl ((setLast_frame s pBCN .ok).mono (by decide))⟩

theorem beaconRegisters : Claim.BeaconRegisters := by
  intro s a v hadm
  have hadm' : UnitAdmits s a pBCN 0x208 := hadm
  have hcfgF : ∀ t, Frame [.bcn] t (bcnCfgSet t v).1 := fun t => bcnCfgSet_frame t v
  have hperF : ∀ t, Frame [.bcn] t (bcnPeriodSet t v).1 := fun t => bcnPeriodSet_frame t v
  have hset := (setLast_frame s pBCN .ok).mono (m := [.pages, .bcn, .mbx, .cnt, .hst, .out]) (by decide)
  refine ⟨fun hsrc hsh => ?_, fun h1 hp => ?_, fun h1 hp hm => ?_, fun h1 hr => ?_, fun h1 h2 h3 => ?_, fun hr => ?_⟩
  · have heff := bcnCfgSet_taken (s := setLast s pBCN .ok) hsrc hsh
    refine ends_of_exec rfl ?_
    obtain ⟨hb, hl, hans, hall⟩ := bcnWrite_ends (fun t => bcnCfgSet t v) hadm rfl hcfgF rfl
    rw [heff] at hb hl hall
    obtain ⟨h1, h2, h3, h4⟩ := cfgTaken_fields v s.bcn
    replace hb : _ = cfgTaken v s.bcn := hb
    rw [hb]
    refine ⟨h1, h2, h3, h4, fun he => if_pos he.symm, fun hne => ⟨_, if_neg (Ne.symm hne), ?_⟩, hl, rfl, hans,
      Frame.into hall rfl (Frame.into (updBcn_frame _ _) rfl hset)⟩
    exact fld_and (fun i h1 h2 => cfgMask_bit i (by omega) (by omega)) v
  · exact ends_of_exec rfl (bcnWrite_refused (fun t => bcnCfgSet t v) hadm rfl hcfgF (bcnCfgSet_absent h1 hp) rfl)
  · exact ends_of_exec rfl (bcnWrite_refused (fun t => bcnCfgSet t v) hadm rfl hcfgF (bcnCfgSet_slave h1 hp hm) rfl)
  · exact ends_of_exec rfl (bcnWrite_refused (fun t => bcnCfgSet t v) hadm rfl hcfgF (bcnCfgSet_reserved h1 hr) rfl)
  · have heff := bcnPeriodSet_taken (s := setLast s pBCN .ok) h1 h2 h3
    refine ends_of_exec rfl ?_
    obtain ⟨hb, hl, -, hall⟩ := bcnWrite_ends (fun t => bcnPeriodSet t v) hadm' rfl hperF rfl
    rw [heff] at hb hl hall
    exact ⟨hb, hl, Frame.into hall rfl (Frame.into (updBcn_frame _ _) rfl hset)⟩
  · exact ends_of_exec rfl (bcnWrite_refused (fun t => bcnPeriodSet t v) hadm' rfl hperF (bcnPeriodSet_refused hr) rfl)

/-! ## BCN_SET -/

/-- The words that BCN_SET writes for a period: BCN_CFG and BCN_PERIOD. -/
def cfgWord (b : Bool) (sh n : Nat) : Word := pack [(0, 0), (2, b2n b), (4, sh), (16, n)]
def periodWord (p : Nat) : Word := pack [(0, p), (20, winOf p)]

theorem shiftOf_le (p w : Nat) : shiftOf p w ≤ 5 := by
  unfold shiftOf
  cases h : (List.range 6).find? (fun k => decide ((p + w) >>> k ≤ 0x7FF)) with
  | none => exact Nat.le_refl 5
  | some k => exact Nat.le_of_lt_succ (List.mem_range.mp (List.mem_of_find?_eq_some h))

theorem winOf_le {p : Nat} (h : p ≤ 35200) : winOf p ≤ 1104 := by
  have hc : cdiv p 256 = (p + 255) / 256 := rfl
  rw [winOf, hc]
  omega

theorem periodWord_fields {p : Nat} (h : p ≤ 35200) : fld (periodWord p) 19 0 = p ∧ fld (periodWord p) 35 20 = winOf p := by
  have hw := winOf_le h
  have hrest : fld (pack [(20, winOf p)]) 19 0 = 0 := by rw [fld_pack_skip (.inl (by decide)), fld_pack_nil]
  refine ⟨fld_pack_here (by omega) (by decide) hrest, ?_⟩
  rw [periodWord, fld_pack_skip (.inr (by omega)), fld_pack_here (by omega) (by decide) (fld_pack_nil _ _)]

/-- The period's word has no bit beyond its two fields. -/
theorem periodWord_mask {p : Nat} (h : p ≤ 35200) : periodWord p &&& mask 35 0 = periodWord p := by
  have hw := winOf_le h
  refine BitVec.eq_of_getLsbD_eq (fun i hi => ?_)
  rw [BitVec.getLsbD_and, getLsbD_mask (by decide)]
  by_cases h35 : i ≤ 35
  · simp [h35, hi]
  · rw [periodWord, getLsbD_pack_cons, getLsbD_pack_cons, getLsbD_pack_nil]
    have h1 : p.testBit (i - 0) = false := Nat.testBit_lt_two_pow (Nat.lt_of_lt_of_le (show p < 2 ^ 36 by omega) (Nat.pow_le_pow_right (by decide) (by omega)))
    have h2 : (winOf p).testBit (i - 20) = false :=
      Nat.testBit_lt_two_pow (Nat.lt_of_lt_of_le (show winOf p < 2 ^ 16 by omega) (Nat.pow_le_pow_right (by decide) (by omega)))
    rw [h1, h2]
    simp

theorem cfgWord_fields (b : Bool) {sh n : Nat} (hs : sh ≤ 5) (hn : n < 256) :
    fld (cfgWord b sh n) 1 0 = 0 ∧ fld (cfgWord b sh n) 6 4 = sh ∧ fld (cfgWord b sh n) 23 16 = n ∧ bitOf (cfgWord b sh n) 2 = b := by
  have hb : b2n b ≤ 1 := by cases b <;> decide
  refine ⟨?_, ?_, ?_, ?_⟩
  · rw [cfgWord, fld_pack_skip (.inr (by decide)), fld_pack_skip (.inl (by decide)), fld_pack_skip (.inl (by decide)), fld_pack_skip (.inl (by decide)), fld_pack_nil]
  · rw [cfgWord, fld_pack_skip (.inr (by decide)), fld_pack_skip (.inr (by omega)), fld_pack_here (by omega) (by decide)]
    rw [fld_pack_skip (.inl (by decide)), fld_pack_nil]
  · rw [cfgWord, fld_pack_skip (.inr (by decide)), fld_pack_skip (.inr (by omega)), fld_pack_skip (.inr (by omega)),
      fld_pack_here (by omega) (by decide) (fld_pack_nil _ _)]
  · rw [cfgWord, bitOf, getLsbD_pack_cons, getLsbD_pack_cons, getLsbD_pack_cons, getLsbD_pack_cons, getLsbD_pack_nil]
    cases b <;> simp [b2n]

/-- The beacon's registers after BCN_SET has taken its two words. -/
def setTaken (c p : Word) (b : Bcn) : Bcn := { cfgTaken c b with periodNext := some p }

/-- The state after BCN_SET: the two words are taken, and kept as the basic values of their registers. -/
def bcnSetDone (t : State) (m seq : Nat) (c p : Word) : State :=
  reply (noteBasic (noteBasic (updBcn t (setTaken c p)) pBCN 0x200 0 c) pBCN 0x208 0 p) m seq 0x0010 .ok

theorem bcnSetDone_frames (t : State) (m : Nat) {seq : Nat} (c p : Word) (h : seq < 256) :
    Frame [.pages, .bcn, .mbx] t (bcnSetDone t m seq c p) ∧ (bcnSetDone t m seq c p).bcn = setTaken c p t.bcn := by
  have hnote : Frame [.pages, .mbx] (updBcn t (setTaken c p)) (bcnSetDone t m seq c p) :=
    Frame.into (reply_frame _ _ _ _ _ _ _ h) rfl (Frame.into (noteBasic_frame _ _ _ _ _) rfl ((noteBasic_frame _ _ _ _ _).mono (by decide)))
  exact ⟨Frame.into hnote rfl ((updBcn_frame t _).mono (by decide)), hnote .bcn (by decide)⟩

/-- The words that BCN_SET makes of a period and of RESYNC_N. -/
theorem bcnWords_period {t : State} {ns p : Nat} (h : periodOf t ns = p) (n : Nat) :
    bcnWords t ns 0 n = (cfgWord (bitOf t.bcn.cfg 2) (shiftOf p (winOf p)) n, periodWord p) := by
  rw [bcnWords, h]
  rfl

/-- BCN_SET in the catalogue. -/
def bcnSetSvc : Svc := { code := 0x0010, who := .root, masks := [mask 23 0, mask 1 0 ||| mask 23 16], page := some pBCN }

/-- What BCN_SET does once it runs: the two words are taken when the period is in its range and the source is the package's, and a period out
of range is refused. -/
theorem svcBcnSet_eq (s : State) (m seq : Nat) (a b : Word) : ∃ f, svcBcnSet s m seq [a, b] = gate s m seq bcnSetSvc [a, b] f ∧
    (∀ t u w c p, 250 ≤ fld a 23 0 → fld a 23 0 ≤ 16000 → bcnWords t (fld a 23 0) (fld b 1 0) (fld b 23 16) = (c, p) →
      bcnCfgSet t c = (u, .ok) → bcnPeriodSet u p = (w, .ok) → f t = reply (noteBasic (noteBasic w pBCN 0x200 0 c) pBCN 0x208 0 p) m seq 0x0010 .ok) ∧
    (∀ t, fld a 23 0 < 250 ∨ 16000 < fld a 23 0 → f t = reply t m seq 0x0010 .permission) := by
  refine ⟨_, rfl, fun t u w c p h1 h2 hw hc hp => ?_, fun t h => if_pos h⟩
  extract_lets ns
  split
  next c' p' hw' =>
  obtain ⟨rfl, rfl⟩ := Prod.mk.inj (hw'.symm.trans hw)
  have hns : ns = fld a 23 0 := rfl
  rw [if_neg (by omega)]
  split
  · next u' hc' =>
    obtain ⟨rfl, -⟩ := Prod.mk.inj (hc'.symm.trans hc)
    split
    · next w' hp' =>
      obtain ⟨rfl, -⟩ := Prod.mk.inj (hp'.symm.trans hp)
      rfl
    · next hne hp' => exact (hne (Prod.mk.inj (hp'.symm.trans hp)).2).elim
  · next hne hc' => exact (hne (Prod.mk.inj (hc'.symm.trans hc)).2).elim

/-- BCN_SET with a period in its range and the package's source takes its two words. -/
theorem bcnSet_words_taken (t : State) {p n : Nat} (h1 : 300 ≤ p) (h2 : p ≤ 35200) (hn : n < 256) :
    bcnCfgSet t (cfgWord (bitOf t.bcn.cfg 2) (shiftOf p (winOf p)) n) = (updBcn t (cfgTaken (cfgWord (bitOf t.bcn.cfg 2) (shiftOf p (winOf p)) n)), .ok) ∧
    ∀ c, bcnPeriodSet (updBcn t (cfgTaken c)) (periodWord p) = (updBcn t (setTaken c (periodWord p)), .ok) := by
  have hsh := shiftOf_le p (winOf p)
  obtain ⟨hf1, hf2, -, -⟩ := cfgWord_fields (bitOf t.bcn.cfg 2) hsh hn
  obtain ⟨hp1, hp2⟩ := periodWord_fields h2
  have hwin : winOf p ≤ p / 4 := by
    have hc : cdiv p 256 = (p + 255) / 256 := rfl
    rw [winOf, hc]
    omega
  refine ⟨bcnCfgSet_taken (.inl hf1) (hf2.symm ▸ hsh), fun c => ?_⟩
  rw [bcnPeriodSet_taken (hp1.symm ▸ h1) (hp1.symm ▸ h2) (by rw [hp1, hp2]; exact hwin), periodWord_mask h2]
  rfl

theorem beaconService : Claim.BeaconService := by
  intro s m seq a b hruns
  have hseq : seq < 256 := hruns.1
  obtain ⟨f, hf, htaken, hrefused⟩ := svcBcnSet_eq s m seq a b
  have hexec : exec (.bcnSet m seq [a, b]) s = .next (f (svcStart s m seq bcnSetSvc [a, b])) :=
    congrArg Host.Outcome.next (hf.trans (gate_svcRuns hruns f))
  have hstart := svcStart_hereFrame (s := s) (m := m) (seq := seq) (v := bcnSetSvc) (args := [a, b]) (.inl rfl)
  generalize svcStart s m seq bcnSetSvc [a, b] = t at hexec hstart
  refine ⟨fun h1 h2 h3 h4 h5 => ?_, fun h => ?_⟩
  · have hper : periodOf t (fld a 23 0) = periodOf s (fld a 23 0) := by rw [periodOf, periodOf, show t.boot = s.boot from hstart .boot (by decide)]
    have hbcn : t.bcn = s.bcn := hstart .bcn (by decide)
    rw [← hbcn]
    generalize hp : periodOf s (fld a 23 0) = p at h4 h5 hper ⊢
    have hwords := bcnWords_period hper (fld b 23 16)
    obtain ⟨hcfg, hpset⟩ := bcnSet_words_taken t h4 h5 (fld_lt b 23 16)
    obtain ⟨-, hc2, hc3, hc4⟩ := cfgWord_fields (bitOf t.bcn.cfg 2) (shiftOf_le p (winOf p)) (fld_lt b 23 16)
    generalize cfgWord (bitOf t.bcn.cfg 2) (shiftOf p (winOf p)) (fld b 23 16) = c at hwords hcfg hc2 hc3 hc4
    rw [htaken t _ _ _ _ h1 h2 (h3.symm ▸ hwords) hcfg (hpset c)] at hexec
    refine ends_of_exec (t := bcnSetDone t m seq c (periodWord p)) hexec ?_
    obtain ⟨hg1, hg2, hg3, -⟩ := cfgTaken_fields c t.bcn
    obtain ⟨hdone, hregs⟩ := bcnSetDone_frames t m c (periodWord p) hseq
    rw [hregs]
    exact ⟨replied_reply _ _ _ _ _ hseq, rfl, hg1.trans hc3, hg2.trans hc2, hg3.trans hc4, Frame.into hdone rfl (hstart.mono (by decide))⟩
  · rw [hrefused t h] at hexec
    exact ends_of_exec hexec ⟨replied_reply _ _ _ _ _ hseq, Frame.into (reply_frame _ _ _ _ _ _ _ hseq) rfl hstart⟩

/-- Settles O16. -/
theorem beaconSettings : Obligations.BeaconSettings := ⟨beaconRegisters, beaconService⟩

end Sys2Proof.Machine
end

section
namespace Sys2Proof.Machine
open Sys2Proof

/-! # General and tenant counters (R624 to R633) -/

variable {s t : State} {a : Acc}

/-! ## What an expert write adds to the counts: events, and nothing of the settings or values -/

/-- The counters differ in the events sampled for the tick alone. -/
def SameButEvents (x y : Cnt) : Prop := y = { x with events := y.events }

theorem SameButEvents.refl (x : Cnt) : SameButEvents x x := rfl

theorem SameButEvents.trans {x y z : Cnt} (h : SameButEvents x y) (g : SameButEvents y z) : SameButEvents x z := by
  unfold SameButEvents at *
  rw [g, h]

theorem sameButEvents_of_frame {l : List Comp} (h : Frame l s t) (hl : Comp.cnt ∉ l) : SameButEvents s.cnt t.cnt := by
  rw [show t.cnt = s.cnt from h .cnt hl]
  rfl

theorem sameButEvents_raise (s : State) (p b : Nat) : SameButEvents s.cnt (raise s p b).cnt := by
  obtain ⟨ev, h⟩ := raise_cnt s p b
  rw [h]
  rfl

theorem sameButEvents_noteOverride (s : State) (p off sel : Nat) (f : Nat × Nat) (b : Word) :
    SameButEvents s.cnt (noteOverride s p off sel f b).cnt := by
  have log : ∀ (P : Prop) [Decidable P] (g : Page → Page), SameButEvents s.cnt (if P then s else updPage s p g).cnt := by
    intro P _ g
    split <;> rfl
  have tell : ∀ (u : State) (P : Prop) [Decidable P], SameButEvents s.cnt u.cnt → SameButEvents s.cnt (if P then tellEvent u 0 else u).cnt := by
    intro u P _ h
    split
    · exact h.trans (sameButEvents_of_frame (tellEvent_hostFrame u 0) (by decide))
    · exact h
  have irq : ∀ (u : State) (P : Prop) [Decidable P], SameButEvents s.cnt u.cnt → SameButEvents s.cnt (if P then u else raise u p 61).cnt := by
    intro u P _ h
    split
    · exact h
    · exact h.trans (sameButEvents_raise u p 61)
  exact irq _ _ (tell _ _ (log _ _))

theorem sameButEvents_afterExpert (s t : State) (p off : Nat) : SameButEvents t.cnt (afterExpert s t p off).cnt := by
  unfold afterExpert
  split
  · exact SameButEvents.refl _
  · refine List.foldlRecOn (motive := fun u : State => SameButEvents t.cnt u.cnt) _ _ (SameButEvents.refl _) (fun u hu f _ => ?_)
    dsimp only
    split
    · exact hu
    · exact hu.trans (sameButEvents_noteOverride _ _ _ _ _ _)

/-- The effect of a write of CNT_CFG. -/
def cntCfgTaken (i : Nat) (v : Word) (t : State) : State :=
  if bitOf v 12 && !isSource t (fld v 11 0) then refuseLast t pCNT .unitAbsent
  else { t with cnt := { t.cnt with cfgs := tset t.cnt.cfgs i (v &&& cntCfgMask) } }

/-- A write of a register of the counters that is admitted: its own effect on them, beside events of the tick. -/
theorem cntWrite_ends {off : Nat} (f : State → State) (h : UnitAdmits s a pCNT off) (hd : regDefined pCNT off = true)
    (hf : Frame [.pages, .cnt] (setLast s pCNT .ok) (f (setLast s pCNT .ok))) {t : State} (ht : t = unitWrite s a pCNT off f) :
    SameButEvents (f (setLast s pCNT .ok)).cnt t.cnt ∧ (page t pCNT).last = (page (f (setLast s pCNT .ok)) pCNT).last ∧ Answered t a.st .ok [] ∧
    Frame [.pages, .mbx, .cnt, .hst, .out] s t := by
  have hst16 : a.st < 16 := Nat.lt_trans h.1 (by decide)
  rw [unitWrite_admitted s a pCNT off f h hd] at ht
  subst ht
  have hall := afterWrite_frame s (f (setLast s pCNT .ok)) pCNT off a.st hst16
  refine ⟨(sameButEvents_afterExpert s _ pCNT off).trans (sameButEvents_of_frame (regRsp_hostFrame _ _ _ _ hst16) (by decide)),
    (afterWrite_sameLastCfg s (f (setLast s pCNT .ok)) pCNT off a.st hst16).2 pCNT, regRsp_answered _ _ _ _ hst16, ?_⟩
  exact Frame.into hall rfl (Frame.into hf rfl ((setLast_frame s pCNT .ok).mono (by decide)))

theorem counterRegisters : Claim.CounterRegisters := by
  intro s a i v hadm hi
  have hlast : (page (setLast s pCNT .ok) pCNT).last = .ok := by rw [setLast, page_updPage_self]
  have hmod : i % 64 = i := Nat.mod_eq_of_lt hi
  have hvals : regDefined pCNT (0x400 + 8 * (i % 64)) = true := by
    simp [regDefined, pCNT]
    omega
  have hcfgs : regDefined pCNT (0x600 + 8 * (i % 64)) = true := by
    simp [regDefined, pCNT]
    omega
  have hexpert : ∀ off, UnitAdmits s a pCNT off := by
    obtain ⟨h1, h2, h3, h4, h5⟩ := hadm
    exact fun off => ⟨h1, h2, h3, h4, .inl (h5.resolve_right (by decide))⟩
  refine ⟨?_, fun hsrc => ?_, fun h12 hsrc => ?_, fun h1 => ?_, fun h1 => ?_⟩
  · refine ends_of_exec rfl ?_
    obtain ⟨hc, -, hans, hall⟩ := cntWrite_ends (fun t => { t with cnt := { t.cnt with vals := tset t.cnt.vals (i % 64) (fld v 47 0) } }) (hexpert _) hvals
      ((cnt_frame _ _).mono (by decide)) rfl
    rw [hc]
    refine ⟨?_, fun j hj => ?_, rfl, rfl, hans, hall⟩
    · rw [hmod]; exact tget_tset_self _ _ _
    · rw [hmod]; exact tget_tset_ne _ _ _ _ hj
  · have hno : (bitOf v 12 && !isSource (setLast s pCNT .ok) (fld v 11 0)) = false := by
      rcases hsrc with h | h
      · rw [h]; rfl
      · rw [show isSource (setLast s pCNT .ok) (fld v 11 0) = _ from h]; simp
    have heff : cntCfgTaken (i % 64) v (setLast s pCNT .ok) = { setLast s pCNT .ok with cnt := { s.cnt with cfgs := tset s.cnt.cfgs (i % 64) (v &&& cntCfgMask) } } := by
      unfold cntCfgTaken
      rw [hno, if_neg Bool.false_ne_true]
      rfl
    refine ends_of_exec (t := unitWrite s a pCNT (0x600 + 8 * (i % 64)) (cntCfgTaken (i % 64) v)) rfl ?_
    obtain ⟨hc, hl, -, hall⟩ := cntWrite_ends (cntCfgTaken (i % 64) v) (hexpert _) hcfgs (by rw [heff]; exact (cnt_frame _ _).mono (by decide)) rfl
    rw [heff] at hc hl
    refine ⟨?_, by rw [hc], by rw [hc], hl.trans hlast, hall⟩
    rw [hc, hmod]
    exact tget_tset_self _ _ _
  · have heff : cntCfgTaken (i % 64) v (setLast s pCNT .ok) = setLast (setLast s pCNT .ok) pCNT .unitAbsent := by
      unfold cntCfgTaken
      rw [h12, show isSource (setLast s pCNT .ok) (fld v 11 0) = _ from hsrc]
      rfl
    refine ends_of_exec (t := unitWrite s a pCNT (0x600 + 8 * (i % 64)) (cntCfgTaken (i % 64) v)) rfl ?_
    obtain ⟨hc, hl, -, -⟩ := cntWrite_ends (cntCfgTaken (i % 64) v) (hexpert _) hcfgs (by rw [heff]; exact (setLast_frame _ _ _).mono (by decide)) rfl
    rw [heff] at hc hl
    refine ⟨by rw [hc]; rfl, hl.trans ?_⟩
    rw [setLast, page_updPage_self]
  · have heff : cntCtlSet (setLast s pCNT .ok) v = { setLast s pCNT .ok with cnt := { s.cnt with freeze := bitOf v 0 } } := by
      unfold cntCtlSet
      rw [h1]
      rfl
    refine ends_of_exec rfl ?_
    obtain ⟨hc, -, hans, hall⟩ := cntWrite_ends (fun t => cntCtlSet t v) hadm rfl (by rw [heff]; exact (cnt_frame _ _).mono (by decide)) rfl
    rw [heff] at hc
    exact ⟨by rw [hc], by rw [hc], by rw [hc], by rw [hc], hans, hall⟩
  · have heff : cntCtlSet (setLast s pCNT .ok) v =
        { setLast s pCNT .ok with cnt := { s.cnt with freeze := bitOf v 0, vals := [], ovf := 0, clr := true } } := by
      unfold cntCtlSet
      rw [h1]
      rfl
    refine ends_of_exec rfl ?_
    obtain ⟨hc, -, hans, hall⟩ := cntWrite_ends (fun t => cntCtlSet t v) hadm rfl (by rw [heff]; exact (cnt_frame _ _).mono (by decide)) rfl
    rw [heff] at hc
    exact ⟨by rw [hc], by rw [hc], by rw [hc], by rw [hc], hans, hall⟩

/-! ## Tenant counters -/

/-- A write of a partition's view page that is admitted: its own effect, and the answer. -/
theorem viewWrite_admitted {p : Nat} (f : State → State) (hup : accUp s a.st = true) (hp : p < 64) (hreach : mayReach s a.part (.view p 0) = true) :
    viewWrite s a p f = regRsp (f s) a.st .ok [] := by
  unfold viewWrite
  rw [hup, if_neg (by decide), if_neg (by omega), hreach, if_neg (by decide)]

theorem tcCfgWrite_ends {p i : Nat} {v : Word} (hst : a.st < 2) (hup : accUp s a.st = true) (hp : p < 64)
    (hreach : mayReach s a.part (.view p 0) = true) (hi : i < 8) :
    exec (.tcCfgWrite a p i v) s = .next (regRsp (tcCfgSet s p i v) a.st .ok []) := by
  show Host.Outcome.next (viewWrite s a p (fun t => tcCfgSet t p (i % 8) v)) = _
  rw [viewWrite_admitted _ hup hp hreach, Nat.mod_eq_of_lt hi]

/-- A publication takes one partition: its counters show what they have counted, and the count of the beacon. -/
theorem part_publishPart_self (t : State) (p : Nat) : (part (publishPart t p) p).tcPub = t.bcn.count ∧
    (part (publishPart t p) p).tc = (part t p).tc.map (fun e => (e.1, { e.2 with val := e.2.raw / 1024 * 1024 })) := by
  unfold publishPart
  rw [part_updPart_self]
  exact ⟨rfl, rfl⟩

theorem part_publishPart_ne (t : State) {p q : Nat} (h : q ≠ p) : part (publishPart t p) q = part t q := part_updPart_ne t p q _ h

/-- The partitions below a number have been published. -/
theorem part_publishAll (t : State) (n : Nat) {p : Nat} (hp : p < n) :
    (part ((List.range n).foldl publishPart t) p).tcPub = t.bcn.count ∧
    (part ((List.range n).foldl publishPart t) p).tc = (part t p).tc.map (fun e => (e.1, { e.2 with val := e.2.raw / 1024 * 1024 })) := by
  have hkeep : ∀ n q, n ≤ q → part ((List.range n).foldl publishPart t) q = part t q := by
    intro n q hq
    refine List.foldlRecOn (motive := fun u => part u q = part t q) _ _ rfl (fun u hu k hk => ?_)
    have hk' := List.mem_range.mp hk
    rw [part_publishPart_ne u (by omega), hu]
  have hbcn : ∀ n, ((List.range n).foldl publishPart t).bcn = t.bcn := fun n =>
    (Frame.foldl [.parts] publishPart _ t (fun u k => publishPart_frame u k)) .bcn (by decide)
  induction n with
  | zero => omega
  | succ n ih =>
    rw [List.range_succ, List.foldl_append, List.foldl_cons, List.foldl_nil]
    by_cases hn : p = n
    · obtain ⟨h1, h2⟩ := part_publishPart_self ((List.range n).foldl publishPart t) n
      rw [hn, h1, h2, hkeep n n (Nat.le_refl n), hbcn]
      exact ⟨rfl, rfl⟩
    · rw [part_publishPart_ne _ hn]
      exact ih (by omega)

/-- A publication that is due takes every partition, and the throttle level begins to be watched again. -/
theorem publish_due (h : bt s / 4096 ≠ (part s 0).tcPub.toNat / 4096) :
    (publish s).parts = ((List.range 64).foldl publishPart (count s pCNT 3)).parts ∧ (publish s).clk.throttleMax = s.clk.throttle := by
  have hdue : pubDue s = true := bne_iff_ne.mpr h
  have hclk : ((List.range 64).foldl publishPart (count s pCNT 3)).clk = s.clk :=
    (Frame.foldl [.parts] publishPart _ (count s pCNT 3) (fun t p => publishPart_frame t p)) .clk (by decide)
  unfold publish
  rw [hdue, Bool.not_true, if_neg Bool.false_ne_true]
  dsimp only
  rw [hclk]
  exact ⟨rfl, rfl⟩

theorem tenantCounters : Claim.TenantCounters := by
  refine ⟨fun s a p i v hst hup hp hreach hi => ⟨fun hv hsrc => ?_, fun hv => ?_⟩, fun s hdue => ?_⟩
  · have hst16 : a.st < 16 := Nat.lt_trans hst (by decide)
    have hset : tcCfgSet s p i v = updPart s p (fun q => { q with tc := tset q.tc i { src := fld v 7 0, srcNow := 0, raw := 0, val := 0 } }) := by
      unfold tcCfgSet
      exact if_neg (by rintro (h | h) <;> omega)
    have hrsp := regRsp_hostFrame (tcCfgSet s p i v) a.st .ok [] hst16
    refine ends_of_exec (tcCfgWrite_ends hst hup hp hreach hi) ?_
    have hpart : ∀ q, part (regRsp (tcCfgSet s p i v) a.st .ok []) q = part (tcCfgSet s p i v) q := fun q => by
      unfold part
      rw [show (regRsp (tcCfgSet s p i v) a.st .ok []).parts = _ from hrsp .parts (by decide)]
    simp only [hpart]
    rw [hset] at hrsp ⊢
    refine ⟨?_, fun j hj => ?_, fun q hq => part_updPart_ne s p q _ hq, regRsp_answered _ _ _ _ hst16,
      Frame.into hrsp rfl ((updPart_frame s p _).mono (by decide))⟩
    · rw [part_updPart_self]; exact tget_tset_self _ _ _
    · rw [part_updPart_self]; exact tget_tset_ne _ _ _ _ hj
  · have hset : tcCfgSet s p i v = s := if_pos (.inl hv)
    have hrsp := regRsp_hostFrame s a.st .ok [] (Nat.lt_trans hst (by decide))
    refine ends_of_exec ((tcCfgWrite_ends hst hup hp hreach hi).trans (by rw [hset])) ⟨?_, hrsp⟩
    unfold part
    rw [show (regRsp s a.st .ok []).parts = s.parts from hrsp .parts (by decide)]
  · obtain ⟨hparts, hthrottle⟩ := publish_due hdue
    refine ends_of_exec (t := publish s) rfl ⟨fun p hp => ?_, hthrottle, publish_frame s⟩
    obtain ⟨hpub, htc⟩ := part_publishAll (count s pCNT 3) 64 hp
    have hpart : part (publish s) p = part ((List.range 64).foldl publishPart (count s pCNT 3)) p := by rw [part, hparts, part]
    rw [hpart]
    refine ⟨hpub, fun i => ?_⟩
    rw [htc, tget_map_val _ (fun c : TenCnt => { c with val := c.raw / 1024 * 1024 }) rfl]
    exact ⟨rfl, rfl, rfl⟩

/-- Settles O17. -/
theorem counterValues : Obligations.CounterValues := ⟨counterRegisters, tenantCounters⟩

end Sys2Proof.Machine
end

section
namespace Sys2Proof.Machine
open Sys2Proof

/-! # A line reads as it was last written -/

variable {s : State} {line l : Nat}

/-- The bytes of a line in memory are those of its addresses. -/
theorem memGet_congr {m m' : List Host.Cell} {a n : Nat} (h : ∀ i < n, tget m (a + i) = tget m' (a + i)) : memGet m a n = memGet m' a n :=
  List.map_congr_left (fun i hi => h i (List.mem_range.mp hi))

/-- A store of one line leaves how every other line reads. -/
theorem rdLine_wrLine_ne (d : LineData) (pois : Nat) (h : l ≠ line) : rdLine (wrLine s line d pois) l = rdLine s l := by
  have hkey : writtenKey (wrLine s line d pois) l = writtenKey s l := by
    have h1 : tget (tset s.memKey line (some (lineKey s line))) l = tget s.memKey l := tget_tset_ne _ _ _ _ h
    show (match tget (tset s.memKey line (some (lineKey s line))) l with | some k => some k | none => _) = _
    rw [h1]
    rfl
  have hbyte : ∀ j < 128, memByte (wrLine s line d pois) (l * 128 + j) = memByte s (l * 128 + j) :=
    fun j hj => memByte_wrLine_ne s line d pois _ (by omega)
  have hother : ∀ k r, otherKeyLine (wrLine s line d pois) l k r = otherKeyLine s l k r := fun k r => by
    have hroot : rootKeyOf (wrLine s line d pois) l = rootKeyOf s l := rfl
    unfold otherKeyLine
    rw [hroot, memGet_congr (m' := s.mem) hbyte]
  refine congrArg lineOf (List.map_congr_left (fun i hi => ?_))
  have hi' := List.mem_range.mp hi
  have hdiv : (l * 128 + i) / 128 = l := by omega
  have hlk : lineKey (wrLine s line d pois) l = lineKey s l := rfl
  unfold keyedByte
  simp only [hdiv, hkey, hbyte i hi', hother, hlk]

theorem linePois_wrLine_ne (d : LineData) (pois : Nat) (h : l ≠ line) : linePois (wrLine s line d pois) l = linePois s l := by
  rw [linePois_eq_bitsNat, linePois_eq_bitsNat]
  refine bitsNat_congr (fun i hi => ?_)
  have hmem := mem_setPois s.memPois line pois (l * 8 + i)
  rw [if_neg (by omega)] at hmem
  rw [Bool.eq_iff_iff, List.contains_iff_mem, List.contains_iff_mem]
  exact hmem

/-- Settles O32. -/
theorem readAfterWrite : Obligations.ReadAfterWrite := by
  unfold Obligations.ReadAfterWrite
  intro s line l d pois
  obtain ⟨hline, hpois, -⟩ := lineStored_of_wrLine (s := s) (u := s) (d := d) (pois := pois) (line := line) rfl (Frame.refl [] _) (by decide)
  exact ⟨hline, hpois, fun h => ⟨rdLine_wrLine_ne d pois h, linePois_wrLine_ne d pois h⟩, MemOk_wrLine s line d pois⟩

end Sys2Proof.Machine
end

section
namespace Sys2Proof.Machine
open Sys2Proof

/-! # Resets (R663 to R665) -/

theorem mem_foldl_setIns (l m : List Nat) (k : Nat) : k ∈ m.foldl setIns l ↔ k ∈ l ∨ k ∈ m := by
  induction m generalizing l with
  | nil => simp
  | cons a m ih => rw [List.foldl_cons, ih, mem_setIns, List.mem_cons]; tauto

theorem mem_openParts (s : State) (p : Nat) : p ∈ openParts s ↔ p < 64 ∧ (part s p).st ≠ .free := by
  unfold openParts
  rw [List.mem_filter, List.mem_range, bne_iff_ne]

/-- Settles O21. -/
theorem resets : Obligations.Resets := by
  refine ⟨fun s x ok => ends_of_exec rfl rfl, fun s x ok => ends_of_exec rfl ⟨rfl, fun p => ?_⟩⟩
  show p ∈ (openParts s).foldl setIns s.boot.wasOpen ↔ _
  rw [mem_foldl_setIns, mem_openParts]

end Sys2Proof.Machine
end

section
namespace Sys2Proof.Machine
open Sys2Proof

/-! # Release, the ROM stage and the image stage (R597, R647, R672 to R681) -/

variable {s t : State}

/-! ## The ROM stage -/

theorem fence_foldl (l : List Nat) (s : State) (q : Nat) :
    page (l.foldl (fun u p => updPage u p (fun q => { q with fence := true })) s) q = if q ∈ l then { page s q with fence := true } else page s q := by
  induction l generalizing s with
  | nil => rfl
  | cons p l ih =>
    rw [List.foldl_cons, ih]
    by_cases hq : q = p
    · subst hq
      rw [page_updPage_self, if_pos List.mem_cons_self]
      split <;> rfl
    · rw [page_updPage_ne _ _ _ _ hq]
      have hiff : q ∈ p :: l ↔ q ∈ l := by rw [List.mem_cons, or_iff_right hq]
      simp only [hiff]

/-- The state at the end of the ROM stage: what failed its test is fenced, and the block waits for an image. -/
def romDone (s : State) (ps cs : List Nat) : State :=
  let t := (ps.filter (present s)).foldl (fun u p => updPage u p (fun q => { q with fence := true })) s
  { t with ras := { t.ras with cells := (cs.filter (fun c => decide (c < 56))).foldl setIns t.ras.cells }, boot := { t.boot with stage := 3 } }

theorem romEnd_good {ps : List Nat} (cs : List Nat) (hs : s.boot.stage = 2) (h : ps.find? unfenceable = none) : romEnd s ps cs = romDone s ps cs := by
  unfold romEnd
  rw [if_neg (by omega), h]
  rfl

theorem romDone_frame (ps cs : List Nat) : Frame [.pages, .boot, .ras] s (romDone s ps cs) := by
  have hpages : Frame [.pages] s ((ps.filter (present s)).foldl (fun u p => updPage u p (fun q => { q with fence := true })) s) :=
    Frame.foldl _ _ _ _ (fun u p => updPage_frame u p _)
  refine Frame.trans hpages (n := [.pages, .boot, .ras]) (m := [.boot, .ras]) ?_ (by decide) (by decide)
  intro c hc; cases c <;> first | exact absurd (by decide) hc | rfl

theorem page_romDone (ps cs : List Nat) (q : Nat) :
    page (romDone s ps cs) q = if q ∈ ps ∧ present s q = true then { page s q with fence := true } else page s q := by
  show page ((ps.filter (present s)).foldl (fun u p => updPage u p (fun q => { q with fence := true })) s) q = _
  rw [fence_foldl]
  simp only [List.mem_filter]

/-- The start-up registers of a block that halts. -/
def haltBoot (b : Boot) (err info : Nat) : Boot := { b with stage := 0xF, err := err, info := setFld b.info 7 0 info, running := false }

/-- No unit that the partner interfaces need is enabled. -/
def unitsDisabled (s : State) : State :=
  (stationPages ++ memPages ++ [pSPN]).foldl (fun u p => updPage u p (fun q => { q with enable := false })) s

theorem halt_eq (s : State) (err info : Nat) : halt s err info =
    raise (spnDown { unitsDisabled { s with boot := haltBoot s.boot err info } with
      mps := (unitsDisabled { s with boot := haltBoot s.boot err info }).mps.map (fun e => (e.1, { e.2 with en := false, ready := false })) }) pCTL 1 := rfl

theorem halt_ends (s : State) (err info : Nat) : (halt s err info).boot = haltBoot s.boot err info ∧ bitOf (page (halt s err info) pCTL).irqRaw 1 = true := by
  rw [halt_eq]
  refine ⟨?_, page_raise_bit _ _ _ (by decide)⟩
  have hraise : ∀ u : State, (raise (spnDown u) pCTL 1).boot = u.boot := fun u =>
    (Frame.into (raise_frame (spnDown u) pCTL 1) rfl ((spnDown_frame u).mono (m := [.pages, .cnt, .cas, .eng, .hst, .spn, .out, .inUse]) (by decide)) :
      Frame [.pages, .cnt, .cas, .eng, .hst, .spn, .out, .inUse] u _) .boot (by decide)
  have hdis : ∀ u : State, (unitsDisabled u).boot = u.boot := fun u =>
    (Frame.foldl [.pages] (fun (u : State) p => updPage u p (fun q => { q with enable := false })) _ u (fun u p => updPage_frame u p _)) .boot (by decide)
  refine (hraise _).trans ?_
  dsimp only
  rw [hdis]

theorem romStage : Claim.RomStage := by
  refine ⟨fun s h1 h2 => ?_, fun s ps cs h2 hp => ?_, fun s ps cs p h2 hp => ?_⟩
  · refine ends_of_exec (t := { s with boot := { s.boot with stage := 2 }, clk := { s.clk with cyc := 0, tickStart := 0, et := 0 } }) ?_ rfl
    exact congrArg Host.Outcome.next (if_neg (by rw [h1, h2]; decide))
  · refine ends_of_exec (congrArg Host.Outcome.next (romEnd_good cs h2 hp)) ⟨?_, fun q hq hb => ?_, fun q hq => ?_, fun c hc hlt => ?_, romDone_frame ps cs⟩
    · have hboot : ((ps.filter (present s)).foldl (fun u p => updPage u p (fun q => { q with fence := true })) s).boot = s.boot :=
        (Frame.foldl [.pages] (fun (u : State) p => updPage u p (fun q => { q with fence := true })) _ _ (fun u p => updPage_frame u p _)) .boot (by decide)
      exact congrArg (fun b : Boot => { b with stage := 3 }) hboot
    · rw [fenced, show (tget (romDone s ps cs).pages q) = _ from page_romDone ps cs q, if_pos ⟨hq, hb⟩, Bool.or_true]
    · rw [page_romDone, if_neg (fun h => hq h.1)]
    · have hmem : c ∈ (romDone s ps cs).ras.cells := by
        refine (mem_foldl_setIns _ _ c).mpr (.inr ?_)
        rw [List.mem_filter]
        exact ⟨hc, decide_eq_true hlt⟩
      rw [cellFenced, List.contains_iff_mem.mpr hmem, Bool.true_or]
  · have hrom : romEnd s ps cs = halt s 2 p := by
      unfold romEnd
      rw [if_neg (by omega), hp]
    obtain ⟨hboot, hirq⟩ := halt_ends s 2 p
    refine ends_of_exec (congrArg Host.Outcome.next hrom) ?_
    rw [hboot]
    exact ⟨rfl, rfl, rfl, hirq⟩

/-! ## The image stage: what the parameters are judged by -/

/-- The parameters and what they are judged with: the staging array, the build, the cascade's and the pools' registers. -/
structure SameParams (s t : State) : Prop where
  staging : t.boot.staging = s.boot.staging
  build : t.build = s.build
  cas : t.cas = s.cas
  tir : t.tir = s.tir

theorem stagedNat_congr (h : t.boot.staging = s.boot.staging) (a n : Nat) : stagedNat t a n = stagedNat s a n := by
  rw [stagedNat, stagedNat, staged, staged, h]

theorem imageErr_congr (hb : t.boot.staging = s.boot.staging) (hf : t.fuses = s.fuses) (hbuild : t.build = s.build) : imageErr t = imageErr s := by
  unfold imageErr headerOk signedBytes imageLen minSvn stagedNat staged stagedZero
  rw [hb, hf, hbuild]

theorem paramsOk_congr (hb : t.boot.staging = s.boot.staging) (hc : t.cas = s.cas) : paramsOk t = paramsOk s := by
  unfold paramsOk paramRange paramPool stagedNat staged stagedZero
  rw [hb, hc]

theorem noteSels_pagesFrame (s : State) (p sel : Nat) (offs : List Nat) : Frame [.pages] s (noteSels s p sel offs) :=
  Frame.foldl _ _ _ _ (fun t o => noteBasic_frame t p o sel _)

/-- The registers of the cascade as the parameters set them. -/
def paramCas (s : State) : Cas :=
  if !s.cas.master then s.cas
  else { s.cas with ranges := (List.range 16).foldl (fun u i => tset u i (paramRange s i)) []
                    nodeId := pack [(0, stagedNat s (pb + 0xE) 2), (16, stagedNat s (pb + 0x13) 1 % 2)] }

/-- The pool registers as the parameters set them. -/
def paramTir (s : State) : Tir :=
  if s.build.tir then (List.range 5).foldl (fun u i => poolPut u (0x218 + 8 * i) (paramPool s i)) s.tir else s.tir

theorem paramCascade_ends (s : State) : Frame [.pages] { s with cas := paramCas s } (paramCascade s) := by
  unfold paramCascade paramCas
  split
  · exact Frame.refl _ _
  · exact Frame.into (Frame.foldl [.pages] _ _ _ (fun u i => noteSels_pagesFrame u pCAS i _)) rfl (noteReg_frame _ _ _)

theorem paramMemory_ends (s : State) : Frame [.pages] { s with cas := paramCas s, tir := paramTir s } (paramMemory s) := by
  have hcas := paramCascade_ends s
  have hbuild : (paramCascade s).build = s.build := hcas .build (by decide)
  have htir : (paramCascade s).tir = s.tir := hcas .tir (by decide)
  have hset : Frame [.pages] { s with cas := paramCas s, tir := paramTir s } { paramCascade s with tir := paramTir s } := by
    intro c hc
    have h := hcas c hc
    cases c <;> first | exact h | rfl
  unfold paramMemory
  dsimp only
  by_cases hb : s.build.tir = true
  · have hb' : (paramCascade s).build.tir = true := by rw [hbuild, hb]
    have hfold : (List.range 5).foldl (fun u i => poolPut u (0x218 + 8 * i) (paramPool s i)) (paramCascade s).tir = paramTir s := by
      rw [paramTir, if_pos hb, htir]
    rw [if_pos hb', if_pos hb', hfold]
    exact Frame.into (noteRegs_frame _ _ _) rfl hset
  · have hb' : ¬(paramCascade s).build.tir = true := by rw [hbuild]; exact hb
    have hkept : paramTir s = s.tir := by rw [paramTir, if_neg hb]
    rw [if_neg hb', if_neg hb', hkept]
    exact hcas

/-- The memory parameters judged in a state with the same parameters are judged the same. -/
theorem SameParams.judged (h : SameParams s t) : rangesOk (paramMemory t) = rangesOk (paramMemory s) ∧ poolsOk (paramMemory t) = poolsOk (paramMemory s) := by
  have hs := paramMemory_ends s
  have ht := paramMemory_ends t
  have hstaged := stagedNat_congr h.staging
  have hcas : (paramMemory t).cas = (paramMemory s).cas := by
    rw [show (paramMemory t).cas = paramCas t from ht .cas (by decide), show (paramMemory s).cas = paramCas s from hs .cas (by decide)]
    simp only [paramCas, paramRange, h.cas, hstaged]
  have htir : (paramMemory t).tir = (paramMemory s).tir := by
    rw [show (paramMemory t).tir = paramTir t from ht .tir (by decide), show (paramMemory s).tir = paramTir s from hs .tir (by decide)]
    simp only [paramTir, paramPool, h.tir, h.build, hstaged]
  have hbuild : (paramMemory t).build = (paramMemory s).build := by
    rw [show (paramMemory t).build = t.build from ht .build (by decide), show (paramMemory s).build = s.build from hs .build (by decide), h.build]
  constructor
  · simp only [rangesOk, rangeOk, blocks, hcas, hbuild]
  · simp only [poolsOk, poolRanges, hcas, htir, hbuild]

/-! ## The image stage: what it leaves -/

theorem raiseEpochs_boot (s : State) : (raiseEpochs s).boot = { s.boot with wasOpen := [] } := by
  have hfold := Frame.foldl [.pages, .cnt, .sec, .hst, .out] (fun (u : State) p =>
      let k := satAdd 32 (tget u.sec.epochs p) 1
      let v := { u with sec := { u.sec with epochs := tset u.sec.epochs p k } }
      if k = 0xFFFFFFFF then raise v pSEC 3 else v) s.boot.wasOpen s (fun u p => by
    dsimp only
    have hsec : Frame [.pages, .cnt, .sec, .hst, .out] u { u with sec := { u.sec with epochs := tset u.sec.epochs p (satAdd 32 (tget u.sec.epochs p) 1) } } := by
      intro c hc; cases c <;> first | exact absurd (by decide) hc | rfl
    split
    · exact Frame.into (raise_hostFrame _ _ _) rfl hsec
    · exact hsec)
  exact congrArg (fun b : Boot => { b with wasOpen := [] }) (hfold .boot (by decide))

/-- The start-up registers as step 6 sets them. -/
def runningBoot (s : State) (b : Boot) (cyc : Nat) (cnt : Word) : Boot :=
  { b with
    stage := 6, err := 0, running := true, restarted := false, info := setFld b.info 47 16 (stagedNat s 0x00C 4)
    sudricDigest := sha384 (signedBytes s), memWait := stagedNat s (pb + 0x14) 4, fclkKhz := stagedNat s (pb + 4) 4
    spanTrain := (stagedNat s (pb + 0xC) 1).testBit 2, cert := staged s (pb + 0x408) (stagedNat s (pb + 0x400) 2)
    step6Cyc := cyc, step6Count := cnt, ungated := [], attReady := [] }

theorem paramBeacon_boot (s : State) : ∃ n, (paramBeacon s).boot = { s.boot with beaconNs := n } := by
  unfold paramBeacon
  dsimp only
  split
  · exact ⟨_, (beaconSet_frame _ _) .boot (by decide)⟩
  · exact ⟨s.boot.beaconNs, (beaconSet_frame _ _) .boot (by decide)⟩

theorem bootAdvance_running {s : State} (hr : s.boot.running = true) (h5 : 5 ≤ s.boot.stage) (h8 : s.boot.stage ≤ 8) :
    ∃ st, 6 ≤ st ∧ st ≤ 8 ∧ (bootAdvance s).boot = { s.boot with stage := st } := by
  unfold bootAdvance
  rw [hr, decide_eq_true h5, decide_eq_true h8]
  refine ⟨_, ?_, ?_, rfl⟩
  · split
    · exact Nat.le_refl _
    · split <;> decide
  · split
    · decide
    · split <;> decide

/-- Start-up steps 6 to 8 with parameters in their ranges. -/
theorem initStage_good (hr : s.boot.restarted = true → tget s.sec.epochs 0 ≠ 0xFFFFFFFF) (hranges : rangesOk (paramMemory s) = true)
    (hpools : poolsOk (paramMemory s) = true) :
    ∃ st n cyc cnt, 6 ≤ st ∧ st ≤ 8 ∧ (initStage s).boot =
      { runningBoot s { s.boot with wasOpen := [] } cyc cnt with beaconNs := n, stage := st } := by
  have hepoch : ¬(s.boot.restarted = true ∧ tget s.sec.epochs 0 = 0xFFFFFFFF) := fun h => hr h.1 h.2
  have hstart : initStage s =
      (let u := { raiseEpochs s with boot := runningBoot s (raiseEpochs s).boot (raiseEpochs s).clk.cyc (raiseEpochs s).bcn.count }
       let t := paramMemory (paramBeacon u)
       if !rangesOk t || !poolsOk t then halt t 0x06 t.cas.pos else bootAdvance (initPages.foldl unitUp t)) := if_neg hepoch
  obtain ⟨n, hbeacon⟩ := paramBeacon_boot { raiseEpochs s with boot := runningBoot s (raiseEpochs s).boot (raiseEpochs s).clk.cyc (raiseEpochs s).bcn.count }
  have hraise := raiseEpochs_frame s
  have hboot := raiseEpochs_boot s
  generalize hu : ({ raiseEpochs s with boot := runningBoot s (raiseEpochs s).boot (raiseEpochs s).clk.cyc (raiseEpochs s).bcn.count } : State) = u at hstart hbeacon
  have hub : u.boot = runningBoot s { s.boot with wasOpen := [] } (raiseEpochs s).clk.cyc (raiseEpochs s).bcn.count := by rw [← hu, ← hboot]
  have hparams : SameParams s (paramBeacon u) := by
    have hb := paramBeacon_frame u
    refine ⟨?_, ?_, ?_, ?_⟩
    · rw [hbeacon, hub]; rfl
    · rw [show (paramBeacon u).build = u.build from hb .build (by decide), ← hu]; exact hraise .build (by decide)
    · rw [show (paramBeacon u).cas = u.cas from hb .cas (by decide), ← hu]; exact hraise .cas (by decide)
    · rw [show (paramBeacon u).tir = u.tir from hb .tir (by decide), ← hu]; exact hraise .tir (by decide)
  obtain ⟨hr', hp'⟩ := hparams.judged
  dsimp only at hstart
  rw [hr', hp', hranges, hpools] at hstart
  have hunits := Frame.foldl [.pages, .eng, .hst, .mps] unitUp initPages (paramMemory (paramBeacon u)) (fun u p => unitUp_frame u p)
  have hmem := paramMemory_frame (paramBeacon u)
  have hlast : (initPages.foldl unitUp (paramMemory (paramBeacon u))).boot =
      { runningBoot s { s.boot with wasOpen := [] } (raiseEpochs s).clk.cyc (raiseEpochs s).bcn.count with beaconNs := n } := by
    rw [show (initPages.foldl unitUp (paramMemory (paramBeacon u))).boot = _ from hunits .boot (by decide),
      show (paramMemory (paramBeacon u)).boot = _ from hmem .boot (by decide), hbeacon, hub]
  obtain ⟨st, h6, h8, hst⟩ := bootAdvance_running (s := initPages.foldl unitUp (paramMemory (paramBeacon u)))
    (by rw [hlast]; rfl) (by rw [hlast]; exact (by decide : 5 ≤ 6)) (by rw [hlast]; exact (by decide : 6 ≤ 8))
  refine ⟨st, n, (raiseEpochs s).clk.cyc, (raiseEpochs s).bcn.count, h6, h8, ?_⟩
  rw [hstart]
  exact hst.trans (congrArg (fun b : Boot => { b with stage := st }) hlast)

theorem bytesNat_lt (l : List Byte) : bytesNat l < 2 ^ (8 * l.length) := by
  induction l with
  | nil => exact Nat.one_pos
  | cons b l ih =>
    rw [bytesNat, List.length_cons, show 8 * (l.length + 1) = 8 * l.length + 8 by ring, Nat.pow_add]
    have hb : b.toNat < 256 := b.isLt
    omega

theorem stagedNat_lt (s : State) (a n : Nat) : stagedNat s a n < 2 ^ (8 * n) := by
  have h := bytesNat_lt (staged s a n)
  rwa [staged, List.length_map, List.length_range] at h

theorem runningBoot_svn (s : State) (b : Boot) (cyc : Nat) (cnt : Word) : fld (runningBoot s b cyc cnt).info 47 16 = stagedNat s 0x00C 4 := by
  refine (fld_setFld_self (by decide) (by decide) b.info (stagedNat s 0x00C 4)).trans (Nat.mod_eq_of_lt ?_)
  exact stagedNat_lt s 0x00C 4

theorem imageStart : Claim.ImageStart := by
  intro s m seq hsvc hstage hrun
  have hgate : ∃ f, svcImageStart s m seq [] = gate s m seq { code := 0x00A0, who := .start, masks := [] } [] f ∧
      (∀ t e, t.boot.running = false → t.boot.stage = 3 → imageErr t = some e →
        f t = reply { t with boot := { t.boot with err := e } } m seq 0x00A0 .permission) ∧
      (∀ t, t.boot.running = false → t.boot.stage = 3 → imageErr t = none → paramsOk t = true → (initStage t).boot.running = true →
        f t = reply (initStage t) m seq 0x00A0 .ok) := by
    refine ⟨_, rfl, fun t e hrun hstage he => ?_, fun t hrun hstage he hp hi => ?_⟩
    · have hidle : ¬(t.boot.running = true ∨ t.boot.stage ≠ 3) := by rw [hrun, hstage]; decide
      extract_lets no
      rw [if_neg hidle, he]
    · have hidle : ¬(t.boot.running = true ∨ t.boot.stage ≠ 3) := by rw [hrun, hstage]; decide
      extract_lets no
      rw [if_neg hidle, he]
      dsimp only
      rw [hp, hi]
      rfl
  obtain ⟨f, hf, hbad, hgood⟩ := hgate
  have hrunf := hf.trans (gate_svcRuns hsvc f)
  have hstart : Frame [.mbx] s (svcStart s m seq { code := 0x00A0, who := .start, masks := [] } []) := svcStart_hereFrame (.inl rfl)
  have hseq := hsvc.1
  generalize svcStart s m seq { code := 0x00A0, who := .start, masks := [] } [] = t at hrunf hstart
  have hboot : t.boot = s.boot := hstart .boot (by decide)
  have hcas : t.cas = s.cas := hstart .cas (by decide)
  have hsec : t.sec = s.sec := hstart .sec (by decide)
  have hstaging : t.boot.staging = s.boot.staging := congrArg Boot.staging hboot
  have herr : imageErr t = imageErr s := imageErr_congr hstaging (hstart .fuses (by decide)) (hstart .build (by decide))
  have hrun' : t.boot.running = false := by rw [hboot, hrun]
  have hstage' : t.boot.stage = 3 := by rw [hboot, hstage]
  refine ⟨fun himage hparams hranges hpools hepoch => ?_, fun e himage => ?_⟩
  · have hsame : SameParams s t := ⟨hstaging, hstart .build (by decide), hcas, hstart .tir (by decide)⟩
    obtain ⟨st, n, cyc, cnt, h6, h8, hinit⟩ := initStage_good (s := t) (by rw [hboot, hsec]; exact hepoch)
      (hsame.judged.1.trans hranges) (hsame.judged.2.trans hpools)
    have hsum : (initStage t).boot.running = true := by rw [hinit]; rfl
    have hrun1 := hgood t hrun' hstage' (herr.trans himage) ((paramsOk_congr hstaging hcas).trans hparams) hsum
    refine ends_of_exec (congrArg Host.Outcome.next (hrunf.trans hrun1)) ⟨replied_reply _ _ _ _ _ hseq, ?_⟩
    have hlast : (reply (initStage t) m seq 0x00A0 .ok).boot = _ := ((reply_frame (initStage t) m seq 0x00A0 .ok [] false hseq) .boot (by decide)).trans hinit
    rw [hlast]
    refine ⟨rfl, rfl, h6, h8, ?_, ?_, ?_, rfl⟩
    · exact (runningBoot_svn t { t.boot with wasOpen := [] } cyc cnt).trans (stagedNat_congr hstaging _ _)
    · refine congrArg sha384 (?_ : signedBytes t = signedBytes s)
      unfold signedBytes imageLen stagedNat staged
      rw [hstaging]
    · exact stagedNat_congr hstaging _ _
  · have hrun1 := hbad t e hrun' hstage' (herr.trans himage)
    have hr := reply_frame { t with boot := { t.boot with err := e } } m seq 0x00A0 .permission [] false hseq
    refine ends_of_exec (congrArg Host.Outcome.next (hrunf.trans hrun1)) ⟨replied_reply _ _ _ _ _ hseq, ?_, ?_⟩
    · exact (hr .boot (by decide)).trans (congrArg (fun b : Boot => { b with err := e }) hboot)
    · refine Frame.trans hstart (n := [.boot, .mbx]) (m := [.boot, .mbx]) ?_ (by decide) (by decide)
      exact Frame.into (hr.mono (m := [.boot, .mbx]) (by decide)) rfl (by intro c hc; cases c <;> first | exact absurd (by decide) hc | rfl)

/-- Settles O23. -/
theorem startUpStages : Obligations.StartUpStages := ⟨romStage, imageStart⟩

end Sys2Proof.Machine
end

section
namespace Sys2Proof.Machine
open Sys2Proof

/-! # The loss of a cascade port in a cascade of more than 8 positions (R528, R657) -/

/-- The peer that is lost. -/
def lostPeer : CasPeer := { pos := 1, up := true }

/-- A formed cascade whose size register holds 9 positions, which no strap sets: one port is lost, the other reaches every position. -/
def wideCascade : State :=
  { State.reset with
    cas := { State.reset.cas with
      st := 2, sizeM1 := 8, peers := [(0, some lostPeer), (1, some { pos := 8, up := true, reaches := [1, 2, 3, 4, 5, 6, 7] })] } }

/-- Every position has a route once the port is down. -/
theorem wideCascade_reached : ∀ n, n < blocks wideCascade → n ≠ wideCascade.cas.pos → (casRoute (portOff wideCascade 0 lostPeer) n).testBit 3 = true := by
  decide

set_option maxRecDepth 4000 in
/-- The table of routes has 8 entries, so position 8 counts as lost and its rebalance begins. -/
theorem wideCascade_rebalances : (casPortLost wideCascade 0).ras.rebal = [16] := by decide

/-- Refutes O24: the statement bounds the cascade's size by nothing. In a register of 9 positions the ninth has a route and no entry in the
table of routes; when a port goes down its homes are rebalanced, and the frame of the clause does not allow RAS to change. -/
theorem not_cascadeLinks : ¬ Obligations.CascadeLinks := by
  intro h
  obtain ⟨-, hports, -⟩ := h
  obtain ⟨-, -, hdown, -⟩ := hports
  obtain ⟨t, ht, -, -, -, hframe⟩ := hdown wideCascade 0 lostPeer rfl rfl rfl wideCascade_reached
  obtain rfl : casPortLost wideCascade 0 = t := Host.Outcome.next.inj ht
  have hras : (casPortLost wideCascade 0).ras = wideCascade.ras := hframe .ras (by decide)
  have hrebal := wideCascade_rebalances
  rw [hras] at hrebal
  exact absurd hrebal (by decide)

end Sys2Proof.Machine
end

section
namespace Sys2Proof.Machine
open Sys2Proof

/-! # Station links that come up and go down (R239, R248, R250) -/

variable {s t : State}

/-! ## What an interrupt message leaves of a link -/

/-- Interrupt messages alone have passed between the two records of a link: they take credits of class 5 or wait for them, and a link
that is not active takes none. -/
structure LinkKept (l m : Link) : Prop where
  st : m.st = l.st
  creditTx : m.creditTx = l.creditTx
  held : ∀ c, c < 5 → tget m.held c = tget l.held c
  quiet : l.st ≠ 2 → m = l

theorem LinkKept.refl (l : Link) : LinkKept l l := ⟨rfl, rfl, fun _ _ => rfl, fun _ => rfl⟩

theorem LinkKept.trans {l m n : Link} (h : LinkKept l m) (g : LinkKept m n) : LinkKept l n :=
  ⟨g.st.trans h.st, g.creditTx.trans h.creditTx, fun c hc => (g.held c hc).trans (h.held c hc),
    fun hl => (g.quiet (h.st ▸ hl)).trans (h.quiet hl)⟩

theorem linkKept_of_frame {n : List Comp} (h : Frame n s t) (he : Comp.eng ∉ n) (hh : Comp.hst ∉ n) (p : Nat) : LinkKept (linkOf s p) (linkOf t p) := by
  have heng : t.eng = s.eng := h .eng he
  have hhst : t.hst = s.hst := h .hst hh
  rw [linkOf, linkOf, hst, hst, heng, hhst]
  exact LinkKept.refl _

theorem linkOf_updLink (s : State) (p q : Nat) (f : Link → Link) (hp : pHST0 ≤ p) (hq : q = pENG ∨ pHST0 ≤ q) :
    linkOf (updLink s p f) q = if q = p then f (linkOf s q) else linkOf s q := by
  have hpe : p ≠ pENG := fun h => absurd (h ▸ hp) (by decide)
  unfold linkOf
  rw [hst_updLink, updLink_eng_of_ne s p f hpe]
  rcases hq with rfl | hq
  · rw [if_pos rfl, if_pos rfl, if_neg (fun h => hpe h.symm)]
  · have hqe : q ≠ pENG := fun h => absurd (h ▸ hq) (by decide)
    rw [if_neg hqe, if_neg hqe]
    by_cases h : q = p
    · rw [if_pos h, if_pos ⟨hpe, by rw [h]⟩]
    · rw [if_neg h, if_neg (fun h' => h (by omega))]

theorem isStation_place {p : Nat} (h : isStation p = true) : p = pENG ∨ pHST0 ≤ p := by
  simp only [isStation, Bool.or_eq_true, beq_iff_eq] at h
  rcases h with (h | h) | h
  · exact .inl h
  · exact .inr (h ▸ Nat.le_refl _)
  · exact .inr (h ▸ (by decide))

/-- Sending an interrupt message to a host station. -/
theorem linkKept_emit_intr (s : State) (h : Nat) (v : Word) (q : Nat) {p : Nat} (hp : isStation p = true) :
    LinkKept (linkOf s p) (linkOf (emit s (.intr h v q)) p) := by
  have hplace : pHST0 ≤ pHST0 + h := Nat.le_add_right _ _
  rcases emit_cases (s := s) (m := .intr h v q) (p := pHST0 + h) (c := 5) rfl with ⟨-, he⟩ | ⟨hup, he | he⟩ <;> rw [he]
  · exact LinkKept.refl _
  · show LinkKept _ (linkOf (updLink s (pHST0 + h) (spendCredit 5)) p)
    rw [linkOf_updLink s _ p _ hplace (isStation_place hp)]
    split
    · next heq =>
      exact ⟨rfl, rfl, fun c hc => tget_tupd_ne (linkOf s p).held 5 c (fun n => n - 1) (by omega), fun hne => absurd (heq ▸ hup) hne⟩
    · exact LinkKept.refl _
  · rw [linkOf_updLink s _ p _ hplace (isStation_place hp)]
    split
    · next heq => exact ⟨rfl, rfl, fun _ _ => rfl, fun hne => absurd (heq ▸ hup) hne⟩
    · exact LinkKept.refl _

theorem linkKept_foldl {α : Type} (f : State → α → State) (l : List α) (p : Nat) (h : ∀ u x, LinkKept (linkOf u p) (linkOf (f u x) p)) (s : State) :
    LinkKept (linkOf s p) (linkOf (l.foldl f s) p) := by
  induction l generalizing s with
  | nil => exact LinkKept.refl _
  | cons x l ih => exact (h s x).trans (ih (f s x))

theorem linkKept_raise (s : State) (q b : Nat) {p : Nat} (hp : isStation p = true) : LinkKept (linkOf s p) (linkOf (raise s q b) p) := by
  obtain ⟨u, hu, hr⟩ := raise_eq s q b
  have hcount : LinkKept (linkOf s p) (linkOf u p) :=
    (linkKept_of_frame (updPage_frame s q _) (by decide) (by decide) p).trans (linkKept_of_frame hu (by decide) (by decide) p)
  rw [hr]
  split
  · refine hcount.trans ?_
    rw [sendIrq_eq]
    refine linkKept_foldl _ _ p (fun v h => ?_) u
    unfold sendIrqTo
    split
    · exact linkKept_emit_intr v h _ q hp
    · exact linkKept_of_frame (updPage_frame v q _) (by decide) (by decide) p
  · exact hcount

/-- The messages held back for a station leave when its link comes up. -/
theorem linkKept_heldIrqs (s : State) (h : Nat) {p : Nat} (hp : isStation p = true) : LinkKept (linkOf s p) (linkOf (heldIrqs s h) p) := by
  unfold heldIrqs
  refine (linkKept_foldl _ _ p (fun u e => ?_) s).trans (linkKept_foldl _ _ p (fun u e => ?_) _)
  · have hpage := linkKept_of_frame (updPage_frame u e.1 (fun q => { q with irqHeld := setDel q.irqHeld h })) (by decide) (by decide) p
    dsimp only
    split
    · exact hpage.trans (linkKept_emit_intr _ h _ e.1 hp)
    · exact hpage
  · have hbox := linkKept_of_frame (updMb_frame u e.1 (fun q => { q with irqHeld := setDel q.irqHeld h })) (by decide) (by decide) p
    dsimp only
    split
    · exact hbox.trans (linkKept_emit_intr _ h _ pMBX hp)
    · exact hbox

/-! ## Links come up -/

/-- Credits come in for the 6 classes of a link. -/
theorem tget_creditTbl (l : Tbl Nat) (v : Word) (c : Nat) (h : c < 6) : tget (creditTbl l 0 v) c = tget l c + fld v (8 * c + 7) (8 * c) := by
  show tget ([0, 1, 2, 3, 4, 5].foldl (fun t c => tupd t (0 + c) (fun k => k + fld v (8 * c + 7) (8 * c))) l) c = _
  interval_cases c <;> simp [List.foldl, tget_tupd_ne]

theorem linkOf_updLink_self {p : Nat} (hp : isStation p = true) (s : State) (f : Link → Link) : linkOf (updLink s p f) p = f (linkOf s p) := by
  rcases isStation_place hp with rfl | hge
  · rfl
  · rw [linkOf_updLink s p p f hge (.inr hge), if_pos rfl]

theorem stationLinkUp : Claim.StationLinkUp := by
  intro s p v hp hen hf
  have hself := linkOf_updLink_self (p := p) hp
  refine ⟨fun h0 => ?_, fun h1 => ?_⟩
  · let u := updLink s p (fun l => { l with st := 1, fdi := if p = pENG then engInstances s else 0, creditRx := ownCredits })
    have hexec : exec (.stationLinkUp p) s = .next (emit u (.linkInit p ownCredits)) :=
      congrArg Host.Outcome.next (if_pos (by rw [hp, hen, hf, h0]; rfl))
    rw [emit_unlinked rfl] at hexec
    have hu : Frame [.eng, .hst] s u := updLink_frame s p _
    refine ends_of_exec hexec ⟨?_, congrArg (· ++ _) (hu .out (by decide)), Frame.into (out_frame u _) rfl (hu.mono (by decide))⟩
    exact congrArg Link.st (hself s _)
  · let u := updLink s p (fun l => { l with st := 2, creditTx := v, held := creditTbl [] 0 v })
    have hlink : linkOf u p = { linkOf s p with st := 2, creditTx := v, held := creditTbl [] 0 v } := hself s _
    have hinit : linkInit s p v = bootAdvance (if p = pENG then raise u p (if p = pENG then 8 else 0)
        else heldIrqs (raise u p (if p = pENG then 8 else 0)) (p - pHST0)) := if_neg (by rw [hp, hen, hf, h1]; decide)
    have hkept : LinkKept (linkOf u p) (linkOf (linkInit s p v) p) := by
      rw [hinit]
      refine LinkKept.trans ?_ (linkKept_of_frame (bootAdvance_frame _) (by decide) (by decide) p)
      split
      · exact linkKept_raise u p 8 hp
      · exact (linkKept_raise u p 0 hp).trans (linkKept_heldIrqs _ _ hp)
    rw [hlink] at hkept
    refine ends_of_exec (congrArg Host.Outcome.next rfl) ⟨hkept.st, hkept.creditTx, fun c hc => ?_, linkInit_frame s p v⟩
    rw [hkept.held c hc, tget_creditTbl _ _ _ (by omega)]
    exact Nat.zero_add _

/-! ## A link goes down -/

/-- Nothing of a quiet block is lost with an agent. -/
theorem agentLose_idle (htx : s.hom.txns = []) (hd : s.hom.dir = []) (a : Nat) : agentLose s a = s := by
  simp only [agentLose, htx, List.map_nil, List.foldl_nil, hd, List.filter_nil]

theorem reqsLose_idle (hw : s.hom.waiters = []) (hs : s.hom.setWait = []) (htx : s.hom.txns = []) (f : HomeReq → Bool) (st : Status) :
    Frame [.hom] s (reqsLose s f st) := by
  simp only [reqsLose, htx, hw, hs, List.flatMap_nil, List.map_nil, List.filter_nil, List.append_nil, List.foldl_nil, tsome, List.filterMap_nil]
  rw [retry_idle rfl rfl]
  exact hom_frame s _

theorem burstsFail_idle (h : s.eng.reqs = []) (f : EngReq → Burst → Bool) (st : Status) : burstsFail s f st = s := by
  unfold burstsFail
  rw [h]
  rfl

/-- The link of a lost station, with no credits. -/
def deadLink (l : Link) : Link := { l with st := 0, fdi := 0, creditTx := 0, held := [], waiting := [], owed := [], lat := [] }

/-- A lost station before the agents and requests behind it are given up. -/
def linkDead (s : State) (p : Nat) : State :=
  let t := (linkOf s p).waiting.foldl (fun u m => irqKeep u m) s
  let t := updLink t p deadLink
  let t := if p = pENG then t else { t with pages := t.pages.map (fun e => (e.1, { e.2 with dpWait := e.2.dpWait.filter (fun x => x.acc.st + pHST0 != p) })) }
  answersLose t (fromStation p) (fun o => fromStation p { origin := o })

theorem stationLost_eq (hst : (linkOf s p).st ≠ 0) : stationLost s p =
    (let t := (stationAgents (linkDead s p) p).foldl agentLose (linkDead s p)
     let t := reqsLose t (fromStation p) .partnerAbsent
     let t := if p = pENG then burstsFail t (fun _ _ => true) .partnerAbsent else t
     raise t p (if p = pENG then 9 else 1)) := if_neg hst

theorem linkDead_ends (s : State) {p : Nat} (hp : isStation p = true) : linkOf (linkDead s p) p = deadLink (linkOf s p) ∧
    (linkDead s p).eng.reqs = s.eng.reqs ∧ Frame [.pages, .mbx, .cas, .eng, .hst, .spn, .mps] s (linkDead s p) := by
  have hkeep : Frame [.pages, .mbx] s ((linkOf s p).waiting.foldl (fun u m => irqKeep u m) s) := Frame.foldl _ _ _ _ (fun u m => irqKeep_frame u m)
  unfold linkDead
  dsimp only
  generalize (linkOf s p).waiting.foldl (fun u m => irqKeep u m) s = u at hkeep
  have heng : u.eng = s.eng := hkeep .eng (by decide)
  have hhst : u.hst = s.hst := hkeep .hst (by decide)
  have hlink : linkOf (updLink u p deadLink) p = deadLink (linkOf s p) := by
    rw [linkOf_updLink_self hp, linkOf, linkOf, hst, hst, heng, hhst]
  have hreqs : (updLink u p deadLink).eng.reqs = s.eng.reqs := by
    rw [← heng, updLink]
    split <;> rfl
  have hup : Frame [.pages, .mbx, .eng, .hst] s (updLink u p deadLink) := Frame.into (updLink_frame u p _) rfl (hkeep.mono (by decide))
  generalize updLink u p deadLink = v at hlink hreqs hup
  have hpages : ∀ w, w = (if p = pENG then v else { v with pages := v.pages.map (fun e => (e.1, { e.2 with dpWait := e.2.dpWait.filter (fun x => x.acc.st + pHST0 != p) })) }) →
      Frame [.pages] v w := by
    rintro w rfl
    split
    · exact Frame.refl _ _
    · intro c hc; cases c <;> first | exact absurd (by decide) hc | rfl
  have hans : ∀ w, Frame [.pages] v w → linkOf w p = linkOf v p ∧ w.eng = v.eng := fun w hw => by
    have he : w.eng = v.eng := hw .eng (by decide)
    have hh : w.hst = v.hst := hw .hst (by decide)
    exact ⟨by rw [linkOf, linkOf, hst, hst, he, hh], he⟩
  obtain ⟨hl, he⟩ := hans _ (hpages _ rfl)
  refine ⟨hl.trans hlink, (congrArg Eng.reqs he).trans hreqs, Frame.into (answersLose_frame _ _ _) rfl (Frame.into (hpages _ rfl) rfl (hup.mono (by decide)))⟩

theorem stationLinkDown : Claim.StationLinkDown := by
  intro s p hp hst hidle
  obtain ⟨hw, hs, htx, hd, hreqs⟩ := hidle
  obtain ⟨hlink, hreqs', hframe⟩ := linkDead_ends s hp
  have hlost := stationLost_eq hst
  generalize linkDead s p = u at hlink hreqs' hframe hlost
  have hhom : u.hom = s.hom := hframe .hom (by decide)
  have hagents : (stationAgents u p).foldl agentLose u = u := by
    generalize stationAgents u p = l
    induction l with
    | nil => rfl
    | cons a l ih => rw [List.foldl_cons, agentLose_idle (by rw [hhom, htx]) (by rw [hhom, hd]), ih]
  have hreq := reqsLose_idle (s := u) (by rw [hhom, hw]) (by rw [hhom, hs]) (by rw [hhom, htx]) (fromStation p) .partnerAbsent
  dsimp only at hlost
  rw [hagents] at hlost
  generalize reqsLose u (fromStation p) .partnerAbsent = v at hreq hlost
  have heng : v.eng = u.eng := hreq .eng (by decide)
  rw [burstsFail_idle (by rw [heng, hreqs', hreqs]), ite_self] at hlost
  have hkept : LinkKept (deadLink (linkOf s p)) (linkOf (raise v p (if p = pENG then 9 else 1)) p) := by
    rw [← hlink]
    exact (linkKept_of_frame hreq (by decide) (by decide) p).trans (linkKept_raise v p _ hp)
  have hdead := hkept.quiet (by show (0 : Nat) ≠ 2; decide)
  refine ends_of_exec (t := raise v p (if p = pENG then 9 else 1)) (congrArg Host.Outcome.next ((if_pos hp).trans hlost)) ?_
  rw [hdead]
  refine ⟨rfl, rfl, rfl, page_raise_bit v p _ ?_, ?_⟩
  · split <;> decide
  · exact ((raise_hostFrame v p _) .mem (by decide)).trans ((hreq .mem (by decide)).trans (hframe .mem (by decide)))

/-- Settles O25. -/
theorem stationLinks : Obligations.StationLinks := ⟨stationLinkUp, stationLinkDown⟩

end Sys2Proof.Machine
end

section
namespace Sys2Proof.Machine
open Sys2Proof

/-! # Memory ports, the waits of start-up, and the opening of the root partition (R660, R674, R729) -/

variable {s t : State}

/-! ## A unit error in the log -/

theorem logErr_ueUnit (s : State) (st : Status) (page index : Nat) :
    (∃ r, (logErr s .ueUnit st page index).ras.log.head? = some r ∧ r.cls = .ueUnit ∧ r.page = page ∧ r.index = index) ∧
    Frame [.pages, .cnt, .ras, .hst, .out] s (logErr s .ueUnit st page index) := by
  have one : ∀ (t : State) (x : Ras) (e : Nat), Frame [.pages, .cnt, .ras, .hst, .out] s t →
      Frame [.pages, .cnt, .ras, .hst, .out] s (count { t with ras := x } pRAS e) :=
    fun t x e h => (h.andThen (ras_frame t x) (by decide)).andThen (count_frame _ _ _ _ _ _) (by decide)
  have h0 := fun x : Ras => (ras_frame s x).mono (m := [.pages, .cnt, .ras, .hst, .out]) (by decide)
  have hr : ∀ u p b, (raise u p b).ras = u.ras := fun u p b => raise_frame u p b .ras (by decide)
  refine ⟨?_, ?_⟩
  · refine ⟨{ status := st.code, cls := .ueUnit, page := page, index := index, part := 0x3FF, addr := none, addrVa := false, time := timestamp s }, ?_, rfl, rfl, rfl⟩
    unfold logErr rasTotal
    dsimp only
    rw [hr]
    split
    · split
      · simp only [count_ras, hr, List.take_succ_cons, List.head?_cons]
      · simp only [count_ras, List.take_succ_cons, List.head?_cons]
    · simp only [count_ras, List.take_succ_cons, List.head?_cons]
  · unfold logErr rasTotal
    dsimp only
    refine (one _ _ _ ?_).andThen (raise_hostFrame _ _ _) (by decide)
    split
    · split
      · exact (one _ _ _ (h0 _)).andThen (raise_hostFrame _ _ _) (by decide)
      · exact one _ _ _ (h0 _)
    · exact h0 _

/-! ## Memory ports -/

theorem putBackAll_mem_congr (l : List OldLine) (h : t.mem = s.mem) : (putBackAll t l).mem = (putBackAll s l).mem := by
  unfold putBackAll
  induction l.reverse generalizing s t with
  | nil => exact h
  | cons o l ih => exact ih (congrArg (fun m => memPut m (o.line * 128) (lineBytes o.data)) h)

/-- A memory port page is neither that of a station nor of a unit that cannot be fenced. -/
theorem memPort_page {i : Nat} (h : i < 4) : unfenceable (pNMP0 + i) = false ∧ pNMP0 + i ≠ pENG ∧ ¬(pNMP0 + i = pHST0 ∨ pNMP0 + i = pHST1) ∧
    (pNMP0 ≤ pNMP0 + i ∧ pNMP0 + i ≤ pNMP0 + 3) := by
  interval_cases i <;> decide

/-- The registers of a fenced memory port. -/
def goneMp (q : MemPort) : MemPort := { q with reads := [], queue := [], unwritten := [], en := false, ready := false }

/-- A fenced memory port with no read outstanding. -/
def portGoneIdle (s : State) (i : Nat) : State :=
  let t := updMp (putBackAll s (tget s.mps i).unwritten) i goneMp
  { t with hom := { t.hom with wbuf := t.hom.wbuf.filter (fun l => !(tget s.mps i).queue.contains (true, l)) } }

theorem memPortGone_idle {i : Nat} (hr : (tget s.mps i).reads = []) : memPortGone s i = portGoneIdle s i := by
  unfold memPortGone
  dsimp only
  rw [hr]
  rfl

theorem portGoneIdle_frame (s : State) (i : Nat) : Frame [.hom, .mps, .mem, .memPois, .memKey] s (portGoneIdle s i) :=
  Frame.into (hom_frame _ _) rfl (Frame.into (updMp_frame _ _ _) rfl ((putBackAll_frame s _).mono (by decide)))

theorem portGoneIdle_mps (s : State) (i : Nat) : (portGoneIdle s i).mps = tupd s.mps i goneMp :=
  congrArg (fun m => tupd m i goneMp) (putBackAll_frame s _ .mps (by decide))

theorem bootAdvance_ungated (s : State) : (bootAdvance s).boot.ungated = s.boot.ungated := by
  unfold bootAdvance
  split <;> rfl

/-- What the fence of a memory port with no read outstanding changes. -/
structure PortFenced (s t : State) (i : Nat) : Prop where
  frame : Frame [.pages, .boot, .cnt, .cas, .det, .eng, .hst, .hom, .mps, .mem, .memPois, .memKey, .out] s t
  mps : t.mps = tupd s.mps i goneMp
  mem : t.mem = (putBackAll s (tget s.mps i).unwritten).mem
  ungated : t.boot.ungated = s.boot.ungated

theorem fencePage_memPort {i : Nat} (h : i < 4) (hf : fenced s (pNMP0 + i) = false) (hp : present s (pNMP0 + i) = true) (hr : (tget s.mps i).reads = []) :
    PortFenced s (fencePage s (pNMP0 + i)) i := by
  obtain ⟨hu, heng, hhst, hmem⟩ := memPort_page h
  generalize hu0 : raise (raise (dpFenced (updPage s (pNMP0 + i) (fun q => { q with fence := true })) (pNMP0 + i)) (pNMP0 + i) 60) pRAS 2 = u
  have hframe : Frame [.pages, .cnt, .cas, .eng, .hst, .hom, .out] s u := by
    rw [← hu0]
    exact ((((updPage_frame s _ _).mono (by decide)).andThen (dpFenced_frame _ _) (by decide)).andThen (raise_frame _ _ _) (by decide)).andThen
      (raise_frame _ _ _) (by decide)
  have hmps : u.mps = s.mps := hframe .mps (by decide)
  have hgone : fencePage s (pNMP0 + i) = bootAdvance (fpDirty (portGoneIdle u i)) := by
    unfold fencePage
    rw [hu, hf, hp]
    dsimp only [Bool.not_true, Bool.or_self]
    rw [if_neg (by decide), if_neg heng, if_neg hhst, if_pos hmem, Nat.add_sub_cancel_left, hu0]
    exact congrArg (fun x => bootAdvance (fpDirty x)) (memPortGone_idle (s := u) (by rw [hmps]; exact hr))
  have hlast : Frame [.det, .boot] (portGoneIdle u i) (fencePage s (pNMP0 + i)) := by
    rw [hgone]
    exact Frame.into (bootAdvance_frame _) rfl ((fpDirty_frame _).mono (by decide))
  refine ⟨?_, ?_, ?_, ?_⟩
  · exact Frame.into hlast rfl (Frame.into (portGoneIdle_frame u i) rfl (hframe.mono (by decide)))
  · rw [show (fencePage s (pNMP0 + i)).mps = (portGoneIdle u i).mps from hlast .mps (by decide), portGoneIdle_mps, hmps]
  · refine (hlast .mem (by decide)).trans ((?_ : (portGoneIdle u i).mem = (putBackAll u (tget s.mps i).unwritten).mem).trans
      (putBackAll_mem_congr _ (hframe .mem (by decide))))
    rw [← hmps]
    rfl
  · rw [hgone, bootAdvance_ungated]
    exact congrArg Boot.ungated ((fpDirty_frame _ .boot (by decide)).trans ((portGoneIdle_frame u i .boot (by decide)).trans (hframe .boot (by decide))))

theorem memoryPortReady : Claim.MemoryPortReady := by
  intro s i hi hpres hen hf hpr
  refine ⟨fun hr hw hs => ?_, fun hr hreads => ?_⟩
  · let u := raise (updMp s i (fun q => { q with ready := true })) (pNMP0 + i) 0
    have hframe : Frame [.pages, .boot, .cnt, .hom, .hst, .mps, .out] s u :=
      ((updMp_frame s i _).mono (by decide)).andThen (raise_hostFrame _ _ _) (by decide)
    have hhom : u.hom = s.hom := (raise_hostFrame _ _ _) .hom (by decide)
    have hexec : exec (.mpReadyRise i) s = .next (bootAdvance u) := by
      refine congrArg Host.Outcome.next ((if_neg ?_).trans ?_)
      · rw [hpres, hen, hr, hf]
        simp only [Bool.not_true, Bool.or_false, decide_eq_true_eq]
        omega
      · exact congrArg bootAdvance (retry_idle (s := u) (by rw [hhom, hw]) (by rw [hhom, hs]))
    refine ends_of_exec hexec ⟨?_, ?_, hframe.andThen (bootAdvance_frame u) (by decide)⟩
    · have hmps : (bootAdvance u).mps = (updMp s i (fun q => { q with ready := true })).mps :=
        (bootAdvance_frame u .mps (by decide)).trans ((raise_hostFrame _ _ _) .mps (by decide))
      rw [hmps]
      exact tget_tupd_self s.mps i (fun q => { q with ready := true })
    · rw [page_of_frame (bootAdvance_frame u) (by decide)]
      exact page_raise_bit _ _ _ (by decide)
  · obtain ⟨⟨r, hlog, hcls, hpage, hidx⟩, hframe⟩ := logErr_ueUnit s .ok (pNMP0 + i) i
    have hkept : FencesKept s (logErr s .ueUnit .ok (pNMP0 + i) i) := fences_logErr (FencesKept.refl s) _ _ _ _ _ _ _
    have hexec : exec (.mpReadyFall i) s = .next (fencePage (logErr s .ueUnit .ok (pNMP0 + i) i) (pNMP0 + i)) := by
      refine congrArg Host.Outcome.next (if_neg ?_)
      rw [hen, hr]
      simp only [Bool.not_true, Bool.or_false, decide_eq_true_eq]
      omega
    generalize logErr s .ueUnit .ok (pNMP0 + i) i = u at hlog hframe hkept hexec
    have hmps : u.mps = s.mps := hframe .mps (by decide)
    have hport := fencePage_memPort (s := u) hi
      ((fenced_of_kept hkept (hframe .fuses (by decide)) _).trans hf) ((present_congr (hframe .build (by decide)) _).trans hpr) (by rw [hmps]; exact hreads)
    have hfenced := fencePage_fenced u (memPort_page hi).1 ((present_congr (hframe .build (by decide)) _).trans hpr)
    refine ends_of_exec hexec ⟨hfenced, ?_, ?_, ?_, ⟨r, ?_, hcls, hpage, hidx⟩, ?_⟩
    · rw [hport.mps, tget_tupd_self]; rfl
    · rw [hport.mps, tget_tupd_self]; rfl
    · rw [hport.mps, tget_tupd_self]; rfl
    · rw [show (fencePage u (pNMP0 + i)).ras = u.ras from hport.frame .ras (by decide)]; exact hlog
    · rw [hport.mem, hmps]
      exact putBackAll_mem_congr _ (hframe .mem (by decide))

theorem mem_setIns_self (l : List Nat) (k : Nat) : k ∈ setIns l k := mem_setIns.mpr (.inl rfl)

/-- The fence of a memory port whose wait has ended. -/
def fenceLate (t : State) (p : Nat) : State := fencePage { t with boot := { t.boot with ungated := setIns t.boot.ungated p } } p

/-- The memory ports whose wait ends are fenced one after the other. -/
structure PortsLate (s t : State) : Prop where
  build : t.build = s.build
  reads : ∀ j, (tget s.mps j).reads = [] → (tget t.mps j).reads = []
  fenced : ∀ q, fenced s q = true → fenced t q = true
  ungated : ∀ q, q ∈ s.boot.ungated → q ∈ t.boot.ungated

theorem PortsLate.trans {u : State} (h : PortsLate s t) (g : PortsLate t u) : PortsLate s u :=
  ⟨g.build.trans h.build, fun j hj => g.reads j (h.reads j hj), fun q hq => g.fenced q (h.fenced q hq), fun q hq => g.ungated q (h.ungated q hq)⟩

theorem portsLate_fenceLate {i : Nat} (h : i < 4) (hp : present s (pNMP0 + i) = true) (hr : (tget s.mps i).reads = []) :
    PortsLate s (fenceLate s (pNMP0 + i)) ∧ pNMP0 + i ∈ (fenceLate s (pNMP0 + i)).boot.ungated ∧ fenced (fenceLate s (pNMP0 + i)) (pNMP0 + i) = true := by
  let u : State := { s with boot := { s.boot with ungated := setIns s.boot.ungated (pNMP0 + i) } }
  have hu : PortsLate s u := ⟨rfl, fun _ h => h, fun _ h => h, fun q hq => mem_setIns.mpr (.inr hq)⟩
  have hin : pNMP0 + i ∈ u.boot.ungated := mem_setIns_self _ _
  have hdone : fenced (fencePage u (pNMP0 + i)) (pNMP0 + i) = true := fencePage_fenced u (memPort_page h).1 hp
  cases hf : fenced u (pNMP0 + i) with
  | true =>
    have hsame : fenceLate s (pNMP0 + i) = u := by
      show fencePage u (pNMP0 + i) = u
      unfold fencePage
      rw [if_pos (by simp [hf])]
    rw [hsame]
    exact ⟨hu, hin, hf⟩
  | false =>
    have hsame : fenceLate s (pNMP0 + i) = fencePage u (pNMP0 + i) := rfl
    rw [hsame]
    have hport := fencePage_memPort (s := u) h hf hp hr
    have hkept := fencePage_fencesKept u (pNMP0 + i) (memPort_page h).1 hf hp
    refine ⟨hu.trans ⟨hport.frame .build (by decide), fun j hj => ?_, fun q hq => ?_, fun q hq => ?_⟩, ?_, hdone⟩
    · rw [hport.mps]
      by_cases hij : j = i
      · rw [hij, tget_tupd_self]; rfl
      · rw [tget_tupd_ne _ _ _ _ hij]; exact hj
    · have hfuses : (fencePage u (pNMP0 + i)).fuses = u.fuses := hport.frame .fuses (by decide)
      rw [fenced_of_kept hkept hfuses]
      by_cases hqi : q = pNMP0 + i
      · rw [hqi, fenced_eq, page_updPage_self, Bool.or_true]
      · rw [fenced_eq, page_updPage_ne _ _ _ _ hqi]; exact hq
    · rw [hport.ungated]; exact hq
    · rw [hport.ungated]; exact hin

theorem portsLate_foldl (l : List Nat) (hl : ∀ p, p ∈ l → ∃ i, i < 4 ∧ p = pNMP0 + i ∧ present s p = true ∧ (tget s.mps i).reads = []) :
    PortsLate s (l.foldl fenceLate s) ∧ ∀ p, p ∈ l → p ∈ (l.foldl fenceLate s).boot.ungated ∧ fenced (l.foldl fenceLate s) p = true := by
  induction l generalizing s with
  | nil => exact ⟨⟨rfl, fun _ h => h, fun _ h => h, fun _ h => h⟩, fun p hp => absurd hp List.not_mem_nil⟩
  | cons p l ih =>
    obtain ⟨i, hi, rfl, hpres, hreads⟩ := hl p List.mem_cons_self
    obtain ⟨hlate, hung, hfen⟩ := portsLate_fenceLate hi hpres hreads
    obtain ⟨hrest, hall⟩ := ih (s := fenceLate s (pNMP0 + i)) (fun q hq => by
      obtain ⟨j, hj, rfl, hpj, hrj⟩ := hl q (List.mem_cons_of_mem _ hq)
      exact ⟨j, hj, rfl, (present_congr hlate.build _).trans hpj, hlate.reads j hrj⟩)
    refine ⟨hlate.trans hrest, fun q hq => ?_⟩
    rcases List.mem_cons.mp hq with rfl | hq
    · exact ⟨hrest.ungated _ hung, hrest.fenced _ hfen⟩
    · exact hall q hq

theorem startWaits : Claim.StartWaits := by
  intro s hrun h5 h9
  refine ⟨fun p hp hl => ?_, fun hw hdue hreads => ?_⟩
  · let u := advanceTo { s with boot := { s.boot with ungated := setIns s.boot.ungated p } } (s.boot.step6Cyc + 40000000)
    have hexec : exec (.stationBringupTimeout p) s = .next (bootAdvance u) := by
      refine congrArg Host.Outcome.next (if_neg ?_)
      rw [hrun, hp, hl]
      simp only [Bool.not_true, Bool.or_self, Bool.false_or, Bool.or_eq_true, decide_eq_true_eq]
      omega
    refine ends_of_exec hexec ⟨?_, ?_, ?_⟩
    · rw [bootAdvance_ungated]; exact mem_setIns_self _ _
    · exact congrArg Clk.cyc (bootAdvance_frame u .clk (by decide))
    · refine Frame.into (bootAdvance_frame u) rfl ?_
      intro c hc; cases c <;> first | exact absurd (by decide) hc | rfl
  · generalize hl : memPages.filter (fun p => present s p && (tget s.mps (p - pNMP0)).present && !fenced s p && !linkUp s p) = late
    have hexec : exec .memWaitExpire s = .next (bootAdvance (late.foldl fenceLate s)) := by
      rw [← hl]
      refine congrArg Host.Outcome.next (if_neg ?_)
      rw [hrun, hdue]
      simp only [Bool.not_true, Bool.or_false, Bool.false_or, Bool.or_eq_true, decide_eq_true_eq]
      omega
    obtain ⟨-, hall⟩ := portsLate_foldl (s := s) late (fun p hp => by
      rw [← hl, List.mem_filter] at hp
      obtain ⟨hmem, hcond⟩ := hp
      simp only [Bool.and_eq_true] at hcond
      obtain ⟨⟨⟨hpres, -⟩, -⟩, -⟩ := hcond
      have hplace : ∃ i, i < 4 ∧ p = pNMP0 + i := by
        simp only [memPages, List.mem_cons, List.not_mem_nil, or_false] at hmem
        rcases hmem with rfl | rfl | rfl | rfl
        · exact ⟨0, by decide, rfl⟩
        · exact ⟨1, by decide, rfl⟩
        · exact ⟨2, by decide, rfl⟩
        · exact ⟨3, by decide, rfl⟩
      obtain ⟨i, hi, rfl⟩ := hplace
      exact ⟨i, hi, rfl, hpres, hreads i hi⟩)
    refine ends_of_exec hexec (fun i hi hpres hconn hf hlink => ?_)
    have hin : pNMP0 + i ∈ late := by
      have hmem : ∀ j, j < 4 → pNMP0 + j ∈ memPages := by decide
      rw [← hl, List.mem_filter, Nat.add_sub_cancel_left, hpres, hconn, hf, hlink]
      exact ⟨hmem i hi, rfl⟩
    obtain ⟨hung, hfen⟩ := hall _ hin
    have hb := bootAdvance_frame (late.foldl fenceLate s)
    refine ⟨by rw [bootAdvance_ungated]; exact hung, ?_⟩
    rw [fenced_of_kept (fun q => by rw [page_of_frame hb (by decide)]) (hb .fuses (by decide))]
    exact hfen

/-- The block as the root partition opens. -/
def opened (s : State) : State :=
  { updPart s 0 (fun q => { q with st := .open_ }) with
    boot := { s.boot with stage := 9, openAt := s.bcn.count }, sec := { s.sec with slices := openSlices (updPart s 0 (fun q => { q with st := .open_ })) } }

theorem openHere_eq (s : State) : openHere s = raise (opened s) pCTL 0 := rfl

theorem opened_frame (s : State) : Frame [.boot, .sec, .parts] s (opened s) := by
  intro c hc; cases c <;> first | exact absurd (by decide) hc | rfl

theorem openRoot_opens (hmay : mayOpen s = true) (hret : retiredAt s = none) :
    ∃ t, openRoot s = t ∧ Frame [.pages, .cnt, .cas, .hst, .out] (opened s) t ∧ page t pCTL = page (openHere s) pCTL := by
  refine ⟨_, rfl, ?_⟩
  have hraise : Frame [.pages, .cnt, .cas, .hst, .out] (opened s) (openHere s) := (raise_hostFrame (opened s) pCTL 0).mono (by decide)
  unfold openRoot
  rw [hmay, hret]
  dsimp only
  rw [if_neg (by decide)]
  split
  · have hall := casAll_outFrame (openHere s) .rootOpen
    exact ⟨Frame.into hall rfl hraise, page_of_frame hall (by decide) _⟩
  · exact ⟨hraise, rfl⟩

theorem rootOpens : Claim.RootOpens := by
  refine ⟨fun s k x h8 => ?_, fun s p k x hp hm hb hr => ?_, fun s hmay => ⟨fun hret => ?_, fun p hret => ?_⟩⟩
  · refine ends_of_exec (congrArg Host.Outcome.next ((if_pos rfl).trans (if_neg (by omega)))) ⟨mem_setIns_self _ _, rfl, rfl, ?_⟩
    refine Frame.into (fpCompute_frame _) rfl ?_
    intro c hc; cases c <;> first | exact absurd (by decide) hc | rfl
  · refine ends_of_exec (congrArg Host.Outcome.next ((if_neg hp).trans (if_pos ⟨hm, hb, hr⟩))) ⟨mem_setIns_self _ _, tget_tset_self _ _ _, ?_⟩
    intro c hc; cases c <;> first | exact absurd (by decide) hc | rfl
  · obtain ⟨t, ht, hframe, hpage⟩ := openRoot_opens hmay hret
    have hboot : t.boot = (opened s).boot := hframe .boot (by decide)
    have hparts : t.parts = (opened s).parts := hframe .parts (by decide)
    have hpart : ∀ p, part t p = tget (tupd s.parts 0 (fun q => { q with st := .open_ })) p := fun p => congrArg (fun l => tget l p) hparts
    refine ends_of_exec (congrArg Host.Outcome.next ht) ⟨?_, ?_, ?_, ?_, fun p hp => ?_, Frame.into hframe rfl ((opened_frame s).mono (by decide))⟩
    · rw [rootOpen, hboot]; rfl
    · rw [hpart, tget_tupd_self]; rfl
    · rw [hboot]; rfl
    · rw [hpage, openHere_eq]
      exact page_raise_bit _ _ _ (by decide)
    · rw [hpart, tget_tupd_ne _ _ _ _ hp]; rfl
  · have hopen : openRoot s = { s with boot := { s.boot with err := 0x08, info := setFld s.boot.info 7 0 p } } := by
      unfold openRoot
      rw [hmay, hret]
      rfl
    exact ends_of_exec (congrArg Host.Outcome.next hopen) ⟨rfl, rfl, by intro c hc; cases c <;> first | exact absurd (by decide) hc | rfl⟩

/-- Settles O26. -/
theorem startUpEnds : Obligations.StartUpEnds := ⟨memoryPortReady, startWaits, rootOpens⟩

end Sys2Proof.Machine
end

section
namespace Sys2Proof.Machine
open Sys2Proof

/-! # Unit resets, fuses and test access (R666, R667, R704, R708) -/

variable {s t : State} {a : Acc} {v : Word}

/-! ## What leaves the units switched as they are -/

/-- FENCE and ENABLE of every page stay. -/
def SameUnits (s t : State) : Prop := ∀ q, (page t q).fence = (page s q).fence ∧ (page t q).enable = (page s q).enable

theorem SameUnits.refl (s : State) : SameUnits s s := fun _ => ⟨rfl, rfl⟩

theorem SameUnits.trans {u : State} (h : SameUnits s t) (g : SameUnits t u) : SameUnits s u :=
  fun q => ⟨(g q).1.trans (h q).1, (g q).2.trans (h q).2⟩

theorem sameUnits_of_frame {l : List Comp} (h : Frame l s t) (hl : Comp.pages ∉ l) : SameUnits s t := fun q => by
  rw [page_of_frame h hl]
  exact ⟨rfl, rfl⟩

theorem sameUnits_updPage (s : State) (p : Nat) {f : Page → Page} (hf : ∀ x, (f x).fence = x.fence ∧ (f x).enable = x.enable) :
    SameUnits s (updPage s p f) := fun q => by
  by_cases hq : q = p
  · rw [hq, page_updPage_self]; exact hf _
  · rw [page_updPage_ne _ _ _ _ hq]; exact ⟨rfl, rfl⟩

theorem sameUnits_raise (s : State) (p b : Nat) : SameUnits s (raise s p b) := fun q => by
  by_cases hq : q = p
  · rw [hq, page_raise_self s p b]; exact ⟨rfl, rfl⟩
  · rw [page_raise_ne s p b hq]; exact ⟨rfl, rfl⟩

theorem sameUnits_foldl {α : Type} (f : State → α → State) (l : List α) (s : State) (h : ∀ u x, SameUnits u (f u x)) : SameUnits s (l.foldl f s) := by
  induction l generalizing s with
  | nil => exact SameUnits.refl s
  | cons x l ih => exact (h s x).trans (ih _)

theorem sameUnits_ite {u v : State} (P : Prop) [Decidable P] (hu : SameUnits s u) (hv : SameUnits s v) : SameUnits s (if P then u else v) := by
  split <;> assumption

theorem sameUnits_noteOverride (s : State) (p off sel : Nat) (f : Nat × Nat) (b : Word) : SameUnits s (noteOverride s p off sel f b) := by
  have log : ∀ (P : Prop) [Decidable P] (e : List Override), SameUnits s (if P then s else updPage s p (fun q => { q with log := (e ++ q.log).take 64 })) :=
    fun P _ e => sameUnits_ite P (SameUnits.refl s) (sameUnits_updPage s p (fun _ => ⟨rfl, rfl⟩))
  have tell : ∀ (u : State) (P : Prop) [Decidable P], SameUnits s u → SameUnits s (if P then tellEvent u 0 else u) :=
    fun u P _ h => sameUnits_ite P (h.trans (sameUnits_of_frame (tellEvent_hostFrame u 0) (by decide))) h
  have irq : ∀ (u : State) (P : Prop) [Decidable P], SameUnits s u → SameUnits s (if P then u else raise u p 61) :=
    fun u P _ h => sameUnits_ite P h (h.trans (sameUnits_raise u p 61))
  exact irq _ _ ((tell _ _ (log _ [_])).trans (sameUnits_updPage _ p (fun _ => ⟨rfl, rfl⟩)))

theorem sameUnits_afterExpert (s t : State) (p off : Nat) : SameUnits t (afterExpert s t p off) := by
  unfold afterExpert
  split
  · exact SameUnits.refl t
  · refine sameUnits_foldl _ _ _ (fun u f => ?_)
    exact sameUnits_ite _ (SameUnits.refl u) (sameUnits_noteOverride _ _ _ _ _ _)

theorem sameUnits_afterWrite (s t : State) (p off : Nat) (hst : a.st < 2) : SameUnits t (regRsp (afterExpert s t p off) a.st .ok []) :=
  (sameUnits_afterExpert s t p off).trans (sameUnits_of_frame (regRsp_hostFrame _ _ .ok [] (Nat.lt_trans hst (by decide))) (by decide))

theorem sameUnits_lsBroken (s : State) (label : Word) (kind : Nat) : SameUnits s (lsBroken s label kind) := by
  have hfirst : SameUnits s (lsFirst s label kind 0 0 0) := by
    unfold lsFirst
    refine sameUnits_ite _ (SameUnits.refl s) ?_
    exact SameUnits.trans (fun _ => ⟨rfl, rfl⟩) (sameUnits_raise _ pDET 1)
  unfold lsBroken
  refine sameUnits_ite _ (SameUnits.refl s) ?_
  exact SameUnits.trans (fun q => hfirst q) (sameUnits_raise _ pDET 2)

theorem sameUnits_kindleAbort (s : State) : SameUnits s (kindleAbort s) := by
  have hraise : SameUnits s (raise { s with det := { s.det with kindle := 3, kindleMb := none, kindlePulse := none } } pDET 0) :=
    SameUnits.trans (fun _ => ⟨rfl, rfl⟩) (sameUnits_raise _ pDET 0)
  have hreply : ∀ q : Option Nat, SameUnits s (match q with
      | some q => reply (raise { s with det := { s.det with kindle := 3, kindleMb := none, kindlePulse := none } } pDET 0) 65 q 0x90 .timeout [0]
      | none => raise { s with det := { s.det with kindle := 3, kindleMb := none, kindlePulse := none } } pDET 0) := fun q => by
    cases q with
    | none => exact hraise
    | some q => exact hraise.trans (sameUnits_of_frame (reply_anyFrame _ _ _ _ _ _ _) (by decide))
  unfold kindleAbort
  refine sameUnits_ite _ (SameUnits.refl s) ?_
  exact sameUnits_ite _ ((hreply _).trans (sameUnits_lsBroken _ _ _)) (hreply _)

theorem sameUnits_routesFill (s : State) : SameUnits s (routesFill s) := by
  have hroutes : SameUnits s ((List.range 256).foldl (fun u e => routeTo u (routeOf (servingAt s) e) e) s) :=
    sameUnits_foldl _ _ _ (fun u e => sameUnits_of_frame (routeTo_frame u _ e) (by decide))
  unfold routesFill tableFill
  refine SameUnits.trans ?_ (sameUnits_of_frame (casAll_outFrame _ _) (by decide))
  exact sameUnits_ite _ (hroutes.trans (sameUnits_raise _ pCAS 3)) hroutes

/-! ## UNIT_RST -/

/-- The page of a unit whose reset runs. -/
theorem sameUnits_unitClear (s : State) (p : Nat) : SameUnits (updPage s p (fun q => { fence := true, expert := q.expert })) (unitClear s p) := by
  unfold unitClear
  dsimp only
  have hrest : ∀ u : State, u.pages = (updPage s p (fun q => { fence := true, expert := q.expert })).pages →
      SameUnits (updPage s p (fun q => { fence := true, expert := q.expert })) u := fun u h q => by
    rw [page, page, h]
    exact ⟨rfl, rfl⟩
  refine sameUnits_ite _ (hrest _ rfl) (sameUnits_ite _ (hrest _ rfl) (sameUnits_ite _ (hrest _ rfl) (sameUnits_ite _ ?_ (sameUnits_ite _ (hrest _ rfl)
    (sameUnits_ite _ (hrest _ rfl) (sameUnits_ite _ (hrest _ rfl) (sameUnits_ite _ (hrest _ rfl) (sameUnits_ite _ ?_ (hrest _ rfl)))))))))
  · exact SameUnits.trans (fun q => ⟨rfl, rfl⟩) (sameUnits_routesFill _)
  · exact SameUnits.trans (sameUnits_kindleAbort _) (fun q => ⟨rfl, rfl⟩)

theorem unitClear_mem (s : State) (p : Nat) : (unitClear s p).mem = s.mem := by
  have hite : ∀ (P : Prop) [Decidable P] (u v : State), u.mem = s.mem → v.mem = s.mem → (if P then u else v).mem = s.mem := fun P _ u v hu hv => by
    split <;> assumption
  unfold unitClear
  dsimp only
  refine hite _ _ _ rfl (hite _ _ _ rfl (hite _ _ _ rfl (hite _ _ _ ?_ (hite _ _ _ rfl (hite _ _ _ rfl (hite _ _ _ rfl (hite _ _ _ rfl
    (hite _ _ _ ?_ rfl))))))))
  · exact routesFill_frame _ _ .mem (by decide)
  · exact kindleAbort_frame _ .mem (by decide)

theorem unitClear_mov (s : State) : (unitClear s pMOV).mov = {} := rfl

theorem unitClear_xfm (s : State) : (unitClear s pXFM).xfm = { store := s.xfm.store } := rfl

/-- A write of a register of CTL that is admitted: its own effect on the state with LAST at OK, then the override log and the answer. -/
theorem ctlWrite_ends {off : Nat} (h : UnitAdmits s a pCTL off) (hd : regDefined pCTL off = true) (f : State → State) :
    ∃ t, unitWrite s a pCTL off f = t ∧ Frame [.pages, .mbx, .cnt, .hst, .out] (f (setLast s pCTL .ok)) t ∧
      SameUnits (f (setLast s pCTL .ok)) t ∧ (page t pCTL).last = (page (f (setLast s pCTL .ok)) pCTL).last ∧ Answered t a.st .ok [] := by
  have hst : a.st < 16 := Nat.lt_trans h.1 (by decide)
  refine ⟨_, unitWrite_admitted s a pCTL off f h hd, afterWrite_frame _ _ _ _ _ hst, sameUnits_afterWrite _ _ _ _ h.1,
    (afterWrite_sameLastCfg _ _ _ _ _ hst).2 pCTL, regRsp_answered _ _ _ _ hst⟩

theorem resettable_pages : ∀ p, p ∈ resettable → p ≠ pCTL ∧ unfenceable p = false := by decide

theorem pgBusy_setLast {p : Nat} (hp : p ≠ pCTL) (s : State) (st : Status) : pgBusy (setLast s pCTL st) p = pgBusy s p := by
  have hpage : page (setLast s pCTL st) p = page s p := page_updPage_ne _ _ _ _ hp
  unfold pgBusy
  rw [hpage]
  rfl

theorem fenced_setLast (s : State) (st : Status) (p : Nat) : fenced (setLast s pCTL st) p = fenced s p :=
  fenced_of_kept (fun q => (sameUnits_updPage s pCTL (f := fun x => { x with last := st }) (fun _ => ⟨rfl, rfl⟩) q).1) rfl p

/-- UNIT_RST of a fenced unit. -/
theorem unitRst_fenced (hgo : bitOf v 8 = true) (hb : s.boot.urBusy = false) (hr : resettable.contains (fld v 7 0) = true)
    (hp : present s (fld v 7 0) = true) (hf : fenced s (fld v 7 0) = true) :
    unitRst s v = { unitClear s (fld v 7 0) with boot := { (unitClear s (fld v 7 0)).boot with urPage := fld v 7 0, urBusy := true, urStatus := .ok } } := by
  unfold unitRst
  dsimp only
  rw [hgo, hb, hr, hp, hf]
  rfl

/-- UNIT_RST without GO, while a reset runs, of a unit that no reset names or that is absent, or of one that is neither fenced nor idle. -/
theorem unitRst_refused (s : State) (v : Word) (h : bitOf v 8 = false ∨ s.boot.urBusy = true ∨ resettable.contains (fld v 7 0) = false ∨
      present s (fld v 7 0) = false ∨ (fenced s (fld v 7 0) = false ∧ ((page s (fld v 7 0)).enable = true ∨ pgBusy s (fld v 7 0) = true))) :
    unitRst (setLast s pCTL .ok) v = setLast (setLast s pCTL .ok) pCTL .permission := by
  refine if_pos ?_
  rw [fenced_setLast, present_congr (s := s) (t := setLast s pCTL .ok) rfl, show (setLast s pCTL .ok).boot = s.boot from rfl]
  cases hres : resettable.contains (fld v 7 0) with
  | false => simp
  | true =>
    have hp : fld v 7 0 ≠ pCTL := (resettable_pages _ (List.contains_iff_mem.mp hres)).1
    rw [pgBusy_setLast hp, setLast, page_updPage_ne _ _ _ _ hp]
    rcases h with h | h | h | h | ⟨hf, h | h⟩
    · rw [h]; rfl
    · rw [h, Bool.or_true]; rfl
    · rw [hres] at h; exact absurd h (by decide)
    · rw [h, Bool.not_false, Bool.or_true]; rfl
    · rw [hf, h]; simp
    · rw [hf, h]; simp

theorem fences_noteReg {u : State} (h : FencesKept s u) (p off : Nat) : FencesKept s (noteReg u p off) := fences_updPage h p _ (fun _ => rfl)

theorem fences_noteRegs {u : State} (h : FencesKept s u) (p : Nat) (l : List Nat) : FencesKept s (noteRegs u p l) :=
  fences_foldl h _ l (fun _ x hx => fences_noteReg hx p x)

theorem fences_unitUp {u : State} (h : FencesKept s u) (p : Nat) : FencesKept s (unitUp u p) := by
  unfold unitUp
  dsimp only
  have hon := fences_of_ite (initPages.contains p = true) (fences_updPage h p (fun q => { q with enable := true }) (fun _ => rfl)) h
  exact fences_of_ite _ h (fences_of_ite _ (fences_noteReg (fences_updLink hon _ _) _ _) (fences_of_ite _ (fences_updMp hon _ _) hon))

/-- The unit whose test is passed, up again. -/
def unitBack (s : State) (p : Nat) : State :=
  let u := unitUp (fpDirty (updPage s p (fun q => { q with fence := false, expert := false }))) p
  let u := if p = pTIR ∧ !fenced u p then noteRegs u pTIR [0x218, 0x220, 0x228, 0x230, 0x238] else u
  if p = pSPN ∧ u.boot.spanTrain ∧ u.cas.st = 2 ∧ !fenced u p then
    spnPoll (noteReg (updSpn (updPage u p (fun q => { q with enable := true })) (fun n => { n with cfg := n.cfg ||| 1 })) pSPN 0x200)
  else u

theorem unitBack_ends (s : State) (p : Nat) : (unitBack s p).boot = s.boot ∧ (page (unitBack s p) p).fence = false := by
  have hup := unitUp_frame (fpDirty (updPage s p (fun q => { q with fence := false, expert := false }))) p
  have hkept := fences_unitUp (FencesKept.refl (fpDirty (updPage s p (fun q => { q with fence := false, expert := false })))) p
  unfold unitBack
  dsimp only
  generalize hv : unitUp (fpDirty (updPage s p (fun q => { q with fence := false, expert := false }))) p = v at hup hkept
  have hvb : v.boot = s.boot := hup .boot (by decide)
  have hvf : (page v p).fence = false := by
    rw [hkept p]
    exact congrArg Page.fence (page_updPage_self s p (fun q => { q with fence := false, expert := false }))
  have hw : ∀ w, w = (if p = pTIR ∧ (!fenced v p) = true then noteRegs v pTIR [0x218, 0x220, 0x228, 0x230, 0x238] else v) →
      w.boot = s.boot ∧ (page w p).fence = false := by
    rintro w rfl
    split
    · exact ⟨(noteRegs_frame v _ _ .boot (by decide)).trans hvb, (fences_noteRegs (FencesKept.refl v) _ _ p).trans hvf⟩
    · exact ⟨hvb, hvf⟩
  obtain ⟨hwb, hwf⟩ := hw _ rfl
  generalize (if p = pTIR ∧ (!fenced v p) = true then noteRegs v pTIR [0x218, 0x220, 0x228, 0x230, 0x238] else v) = w at hwb hwf
  split
  · refine ⟨?_, ?_⟩
    · exact (spnPoll_frame _ .boot (by decide)).trans ((noteReg_frame _ _ _ .boot (by decide)).trans hwb)
    · rw [page_of_frame (spnPoll_frame _) (by decide)]
      refine Eq.trans (fences_noteReg (fences_updSpn (fences_updPage (FencesKept.refl w) p (fun q => { q with enable := true }) (fun _ => rfl)) _) _ _ p) hwf
  · exact ⟨hwb, hwf⟩

theorem unitRstDone_passed (hb : s.boot.urBusy = true) : (unitRstDone s true).boot = { s.boot with urBusy := false, urStatus := .ok } ∧
    (page (unitRstDone s true) s.boot.urPage).fence = false ∧ bitOf (page (unitRstDone s true) pCTL).irqRaw 2 = true := by
  have hdone : unitRstDone s true = raise (unitBack { s with boot := { s.boot with urBusy := false, urStatus := .ok } } s.boot.urPage) pCTL 2 := by
    unfold unitRstDone
    rw [hb]
    rfl
  obtain ⟨hboot, hfence⟩ := unitBack_ends { s with boot := { s.boot with urBusy := false, urStatus := .ok } } s.boot.urPage
  rw [hdone]
  exact ⟨(raise_frame _ _ _ .boot (by decide)).trans hboot, ((sameUnits_raise _ pCTL 2 _).1).trans hfence, page_raise_bit _ _ _ (by decide)⟩

theorem unitReset : Claim.UnitReset := by
  refine ⟨fun s a v h => ?_, fun s a v h hgo hb hr hp hf => ?_, fun s a v h hbad => ?_, fun s hb hr => ⟨?_, ?_⟩⟩
  · obtain ⟨t, ht, hframe, -, -, hans⟩ := ctlWrite_ends h (by decide) (fun t => if bitOf v 0 && fld v 15 8 == 0x5A then { t with clk := { t.clk with rstReq := true } } else t)
    refine ends_of_exec (congrArg Host.Outcome.next ht) ⟨?_, hans, Frame.into hframe rfl ?_⟩
    · refine (hframe .clk (by decide)).trans ?_
      cases hk : (bitOf v 0 && fld v 15 8 == 0x5A)
      · rw [if_neg (by decide), Bool.or_false]; rfl
      · rw [if_pos rfl, Bool.or_true]; rfl
    · split
      · intro c hc; cases c <;> first | exact absurd (by decide) hc | rfl
      · exact (setLast_frame s _ _).mono (by decide)
  · obtain ⟨t, ht, hframe, hunits, -, -⟩ := ctlWrite_ends h (by decide) (fun t => unitRst t v)
    have hbuild : (setLast s pCTL .ok).build = s.build := rfl
    have hrun := unitRst_fenced (s := setLast s pCTL .ok) hgo hb hr ((present_congr hbuild _).trans hp) ((fenced_setLast s _ _).trans hf)
    rw [hrun] at hframe hunits
    have hboot := hframe .boot (by decide)
    obtain ⟨hfence, henable⟩ := hunits (fld v 7 0)
    obtain ⟨hcf, hce⟩ := sameUnits_unitClear (setLast s pCTL .ok) (fld v 7 0) (fld v 7 0)
    rw [page_updPage_self] at hcf hce
    refine ends_of_exec (congrArg Host.Outcome.next ht) ⟨?_, ?_, ?_, hfence.trans hcf, henable.trans hce, fun hm => ?_, fun hx => ?_, ?_⟩
    · exact congrArg Boot.urBusy hboot
    · exact congrArg Boot.urPage hboot
    · exact congrArg Boot.urStatus hboot
    · refine (hframe .mov (by decide)).trans ?_
      rw [hm]; rfl
    · refine (hframe .xfm (by decide)).trans ?_
      rw [hx]; rfl
    · exact (hframe .mem (by decide)).trans (unitClear_mem _ _)
  · obtain ⟨t, ht, hframe, -, hlast, hans⟩ := ctlWrite_ends h (by decide) (fun t => unitRst t v)
    have hrefused : unitRst (setLast s pCTL .ok) v = setLast (setLast s pCTL .ok) pCTL .permission := unitRst_refused s v hbad
    rw [hrefused] at hframe hlast
    refine ends_of_exec (congrArg Host.Outcome.next ht) ⟨?_, hframe .boot (by decide), hans, Frame.into hframe rfl ?_⟩
    · rw [hlast, setLast, page_updPage_self]
    · exact ((setLast_frame s _ _).andThen (setLast_frame _ _ _) (by decide)).mono (by decide)
  · obtain ⟨hboot, hfence, hirq⟩ := unitRstDone_passed hb
    refine ends_of_exec rfl ⟨?_, ?_, hfence, hirq⟩
    · rw [hboot]
    · rw [hboot]
  · have hdone : unitRstDone s false = raise { s with boot := { s.boot with urBusy := false, urStatus := .poison } } pCTL 2 := by
      unfold unitRstDone
      rw [hb]
      rfl
    refine ends_of_exec (congrArg Host.Outcome.next hdone) ⟨raise_frame _ _ _ .boot (by decide), ?_, page_raise_bit _ _ _ (by decide)⟩
    exact (sameUnits_raise { s with boot := { s.boot with urBusy := false, urStatus := .poison } } pCTL 2 _).1

theorem powerAndTest : Claim.PowerAndTest := by
  intro s
  refine ⟨fun l h => ?_, fun u h => ?_, fun r b h => ?_, fun r b h => ?_, fun h => ?_, fun h => ?_, fun p => ends_of_exec rfl rfl⟩
  · exact ends_of_exec (congrArg Host.Outcome.next (if_neg (by omega))) rfl
  · exact ends_of_exec (congrArg Host.Outcome.next (if_neg (by omega))) rfl
  · refine ends_of_exec (congrArg Host.Outcome.next (if_neg (by rw [h]; decide))) ⟨?_, fun q hq => tget_tset_ne _ _ _ _ hq, rfl, rfl, ?_⟩
    · have hb : b < 64 := by
        simp only [fuseRefused, Bool.or_eq_false_iff, decide_eq_false_iff_not] at h
        omega
      dsimp only
      rw [tget_tset_self]
      exact bitOf_setBit_true _ hb
    · intro c hc; cases c <;> first | exact absurd (by decide) hc | rfl
  · exact ends_of_exec (congrArg Host.Outcome.next (if_pos h)) rfl
  · exact ends_of_exec (congrArg Host.Outcome.next (if_neg h)) ⟨rfl, rfl, rfl, rfl, rfl, rfl, rfl, rfl, rfl, rfl⟩
  · exact ends_of_exec (congrArg Host.Outcome.next (if_pos h)) rfl

/-- Settles O27. -/
theorem unitResetAndTest : Obligations.UnitResetAndTest := ⟨unitReset, powerAndTest⟩

end Sys2Proof.Machine
end

section
namespace Sys2Proof.Machine
open Sys2Proof

/-! # Words in memory: what a word reads after a store of a word (R36, R303) -/

variable {s t : State} {a b l : Nat}

/-! ## Bytes of a line -/

/-- The bytes that a line is made of are the bytes it holds. -/
theorem bytesNat_div_mod (bs : List Byte) (i : Nat) : bytesNat bs / 2 ^ (8 * i) % 256 = (bs.getD i 0).toNat := by
  induction bs generalizing i with
  | nil => simp [bytesNat]
  | cons b bs ih =>
    have hb : b.toNat < 256 := b.isLt
    cases i with
    | zero => simpa [bytesNat] using hb
    | succ i =>
      rw [bytesNat, show 8 * (i + 1) = 8 + 8 * i by ring, Nat.pow_add, ← Nat.div_div_eq_div_mul,
        show (b.toNat + 256 * bytesNat bs) / 2 ^ 8 = bytesNat bs by omega, ih]
      rfl

theorem lineByte_lineOf (bs : List Byte) (h : bs.length = 128) {i : Nat} (hi : i < 128) : lineByte (lineOf bs) i = bs.getD i 0 := by
  have hlt : bytesNat bs < 2 ^ (8 * 128) := h ▸ bytesNat_lt bs
  refine BitVec.eq_of_toNat_eq ?_
  rw [lineByte_toNat, lineOf, BitVec.toNat_ofNat, Nat.mod_eq_of_lt hlt, ← bytesNat_div_mod]

/-- A byte of a line as its key reads it. -/
theorem keyedByte_eq (s : State) (l : Nat) {i : Nat} (hi : i < 128) : keyedByte s (lineKey s l) (l * 128 + i) = lineByte (rdLine s l) i := by
  rw [rdLine, lineByte_lineOf _ (by simp) hi, List.getD_eq_getElem _ _ (by simpa using hi)]
  simp

/-- Bytes within one line are bytes of that line. -/
theorem rdBytes_eq (s : State) (a n : Nat) (h : a % 128 + n ≤ 128) :
    rdBytes s a n = (List.range n).map (fun i => lineByte (rdLine s (a / 128)) (a % 128 + i)) := by
  refine List.map_congr_left (fun i hi => ?_)
  have hin := List.mem_range.mp hi
  have hdiv : (a + i) / 128 = a / 128 := by omega
  have haddr : a + i = a / 128 * 128 + (a % 128 + i) := by omega
  rw [hdiv]
  conv_lhs => rw [haddr]
  exact keyedByte_eq s (a / 128) (by omega)

theorem rdWord_eq (s : State) (a : Nat) (h : a % 8 = 0) :
    rdWord s a = w64 (bytesNat ((List.range 8).map (fun i => lineByte (rdLine s (a / 128)) (a % 128 + i)))) := by
  rw [rdWord, rdBytes_eq s a 8 (by omega)]

/-! ## A store within one line -/

/-- The line that a store of bytes leaves. -/
def storedLine (s : State) (a : Nat) (bs : List Byte) : LineData :=
  lineOf ((List.range 128).map (fun i => if a % 128 ≤ i && i < a % 128 + bs.length then bs.getD (i - a % 128) 0 else lineByte (rdLine s (a / 128)) i))

theorem rdLine_wrLine (s : State) (l : Nat) (d : LineData) (pois : Nat) : rdLine (wrLine s l d pois) l = d :=
  (lineStored_of_wrLine (s := s) (u := s) (d := d) (pois := pois) (line := l) rfl (Frame.refl [] _) (by decide)).1

theorem rdLine_wrBytesLine (s : State) (a : Nat) (bs : List Byte) (l : Nat) :
    rdLine (wrBytesLine s a bs) l = if l = a / 128 then storedLine s a bs else rdLine s l := by
  split
  · next h => rw [h]; exact rdLine_wrLine _ _ _ _
  · next h => exact rdLine_wrLine_ne _ _ h

theorem lineByte_storedLine (s : State) (a : Nat) (bs : List Byte) {i : Nat} (hi : i < 128) :
    lineByte (storedLine s a bs) i = if a % 128 ≤ i ∧ i < a % 128 + bs.length then bs.getD (i - a % 128) 0 else lineByte (rdLine s (a / 128)) i := by
  rw [storedLine, lineByte_lineOf _ (by simp) hi, List.getD_eq_getElem _ _ (by simpa using hi)]
  simp

/-! ## Words -/

theorem bytesNat_wordBytes (w : Word) : bytesNat (wordBytes w) = w.toNat := by
  have hword : wordBytes w = (List.range' 0 8).map (lineByte (BitVec.ofNat 1024 w.toNat)) := by
    rw [wordBytes, List.range_eq_range']
    refine List.map_congr_left (fun i _ => BitVec.eq_of_toNat_eq ?_)
    rw [lineByte_toNat, BitVec.toNat_ofNat, BitVec.toNat_ofNat, Nat.mod_eq_of_lt (a := w.toNat) (by omega), Nat.shiftRight_eq_div_pow]
  rw [hword, bytesNat_lineByte, BitVec.toNat_ofNat, Nat.mod_eq_of_lt (a := w.toNat) (by omega), Nat.mul_zero, Nat.pow_zero, Nat.div_one,
    Nat.mod_eq_of_lt (by omega)]

/-- A word reads as it was stored. -/
theorem rdWord_wrWord_self (s : State) (a : Nat) (w : Word) (h : a % 8 = 0) : rdWord (wrWord s a w) a = w := by
  have hbytes : (List.range 8).map (fun i => lineByte (rdLine (wrWord s a w) (a / 128)) (a % 128 + i)) = wordBytes w := by
    rw [wrWord, rdLine_wrBytesLine, if_pos rfl]
    refine List.map_congr_left (fun i hi => ?_)
    have hin := List.mem_range.mp hi
    rw [lineByte_storedLine _ _ _ (by omega), wordBytes_length, if_pos (by omega), Nat.add_sub_cancel_left,
      List.getD_eq_getElem _ _ (by rw [wordBytes_length]; exact hin)]
    simp [wordBytes]
  rw [rdWord_eq _ _ h, hbytes, bytesNat_wordBytes]
  exact BitVec.ofNat_toNat ..

/-- Words next to the one stored read as before. -/
theorem rdWord_wrWord_ne (s : State) (w : Word) (ha : a % 8 = 0) (hb : b % 8 = 0) (hne : a ≠ b) : rdWord (wrWord s a w) b = rdWord s b := by
  rw [rdWord_eq _ _ hb, rdWord_eq _ _ hb, wrWord, rdLine_wrBytesLine]
  split
  · next hline =>
    refine congrArg (fun x => w64 (bytesNat x)) (List.map_congr_left (fun i hi => ?_))
    have hin := List.mem_range.mp hi
    rw [lineByte_storedLine _ _ _ (by omega), wordBytes_length, if_neg (by omega), hline]
  · rfl

end Sys2Proof.Machine
end

section
namespace Sys2Proof.Machine
open Sys2Proof

/-! # Armed waits on a fence record (R455 to R463) -/

variable {s t : State} {i : Nat} {w : Watch}

/-! ## The lines of a record -/

/-- A record whose line no cache holds is taken at once. -/
theorem recAsk_ready {k l : Nat} (h : recReady s k l = true) : recAsk s k [l] = none := by
  unfold recAsk
  rw [List.filter_singleton, h]
  rfl

/-- A record whose line a cache holds is asked for. -/
theorem recAsk_held {k l : Nat} (h : recReady s k l = false) : recAsk s k [l] = some (ownClear s k l) := by
  unfold recAsk
  rw [List.filter_singleton, h]
  rfl

theorem recAsk_nil (k : Nat) : recAsk s k [] = none := rfl

/-! ## The end of a wait -/

/-- A wait whose slot is freed, with the block's bit of the record. -/
def watchLeft (s : State) (i : Nat) (w : Watch) : State := if w.armed then watchDisarm (setWatch s i none) w.npa else setWatch s i none

/-- A wait whose command, where it has one, has ended. -/
def watchRetired (s : State) (i : Nat) (w : Watch) (st : Status) : State :=
  match w.cmd with
  | some c => endCmd (watchLeft s i w) c.1 c.2 st
  | none => watchLeft s i w

theorem watchEnd_command (h : watchOf s i = some w) (hh : w.host = none) (st : Status) : watchEnd s i st = watchRetired s i w st := by
  unfold watchEnd watchRetired
  rw [h]
  dsimp only
  rw [hh]
  cases w.cmd <;> rfl

theorem watchEnd_host (h : watchOf s i = some w) {b : Nat} (hh : w.host = some b) (st : Status) :
    watchEnd s i st = dropRef (ringReply (watchRetired s i w st) w.part b) w.part w.obj := by
  unfold watchEnd watchRetired
  rw [h]
  dsimp only
  rw [hh]
  cases w.cmd <;> rfl

theorem watchLeft_frame (s : State) (i : Nat) (w : Watch) : Frame [.hom, .mem, .memPois, .memKey] (setWatch s i none) (watchLeft s i w) := by
  unfold watchLeft
  split
  · exact watchDisarm_frame _ _
  · exact Frame.refl _ _

theorem watchRetired_fnc (s : State) (i : Nat) (w : Watch) (st : Status) : (watchRetired s i w st).fnc = (setWatch s i none).fnc := by
  have hleft : (watchLeft s i w).fnc = (setWatch s i none).fnc := watchLeft_frame s i w .fnc (by decide)
  unfold watchRetired
  cases w.cmd with
  | none => exact hleft
  | some c => exact hleft

/-- The registers of waits and notifications as the end of a wait leaves them. -/
theorem watchEnd_fnc (h : watchOf s i = some w) (st : Status) : (watchEnd s i st).fnc = (setWatch s i none).fnc := by
  cases hh : w.host with
  | none => rw [watchEnd_command h hh]; exact watchRetired_fnc s i w st
  | some b =>
    rw [watchEnd_host h hh]
    exact (dropRef_frame _ _ _ .fnc (by decide)).trans ((ringReply_hostFrame _ _ _ .fnc (by decide)).trans (watchRetired_fnc s i w st))

theorem watchEnd_none (h : watchOf s i = none) (st : Status) : watchEnd s i st = s := by
  unfold watchEnd
  rw [h]

theorem watchOf_watchEnd (s : State) (i : Nat) (st : Status) (j : Nat) : watchOf (watchEnd s i st) j = if j = i then none else watchOf s j := by
  cases h : watchOf s i with
  | none =>
    rw [watchEnd_none h]
    split
    · next hj => rw [hj, h]
    · rfl
  | some w =>
    rw [watchOf, watchEnd_fnc h]
    split
    · next hj => rw [hj]; exact watchOf_setWatch_self s i none
    · next hj => exact watchOf_setWatch_ne s i j none hj

theorem watchEnd_notes (s : State) (i : Nat) (st : Status) : (watchEnd s i st).fnc.notes = s.fnc.notes := by
  cases h : watchOf s i with
  | none => rw [watchEnd_none h]
  | some w => rw [watchEnd_fnc h]; rfl

theorem find?_map_of_key {α : Type} (p : α → Bool) (f : α → α) (hf : ∀ c, p c = true → p (f c) = true) (l : List α) :
    (l.map (fun c => if p c then f c else c)).find? p = (l.find? p).map f := by
  induction l with
  | nil => rfl
  | cons c l ih =>
    cases hc : p c with
    | true => simp [List.find?_cons, hc, hf c hc]
    | false => simp [List.find?_cons, hc, ih]

/-- A command after a step of its own. -/
theorem cmdOf_updCmd (s : State) (q n : Nat) (f : Cmd → Cmd) (hf : ∀ c, (f c).q = c.q ∧ (f c).seq = c.seq) :
    cmdOf (updCmd s q n f) q n = (cmdOf s q n).map f :=
  find?_map_of_key (fun c : Cmd => c.q == q && c.seq == n) f (fun c h => by rw [(hf c).1, (hf c).2]; exact h) _

/-- A command that was at work has ended with the status. -/
theorem endedAs_endCmd {q n : Nat} {c : Cmd} (h : cmdOf s q n = some c) (hc : c.st ≠ .retire) (st : Status) (res : Word) :
    EndedAs (endCmd s q n st res) q n st := by
  refine ⟨{ c with st := .retire, status := st, result := res }, ?_, rfl, rfl⟩
  rw [endCmd, cmdOf_updCmd _ _ _ _ (fun c => by split <;> exact ⟨rfl, rfl⟩), h, Option.map_some, if_neg (by simpa using hc)]

theorem waitOver_watchEnd (h : watchOf s i = some w) (st : Status) : WaitOver s (watchEnd s i st) i w st := by
  refine ⟨by rw [watchOf_watchEnd, if_pos rfl], fun q n c hcmd hhost hc hne => ?_⟩
  have hleft : cmdOf (watchLeft s i w) q n = some c := by
    rw [cmdOf, show (watchLeft s i w).lmp = s.lmp from watchLeft_frame s i w .lmp (by decide)]
    exact hc
  rw [watchEnd_command h hhost, watchRetired, hcmd]
  exact endedAs_endCmd hleft hne st 0

/-! ## ARM and its answer -/

theorem armLine_waiting (h : watchOf s i = some w) (ha : w.armed = false) (hp : w.poll = false) (hv : w.armVal = none) : armLine s i = [w.npa / 128] := by
  unfold armLine
  rw [h]
  dsimp only
  rw [ha, hp, hv]
  rfl

/-- The wait as its ARM leaves it on a fence record. -/
theorem watchArm_fence (h : watchOf s i = some w) (ha : w.armed = false) (hp : w.poll = false) (hv : w.armVal = none) (hk : recKind s w.npa = 0) :
    watchArm s i = setWatch (wrWord s (w.npa + 48) (setBit (rdWord s (w.npa + 48)) s.cas.pos true)) i
      (some { w with armed := true, armVal := some (recValue s w.npa, 0) }) := by
  unfold watchArm
  rw [h]
  dsimp only
  rw [ha, hp, hv, hk]
  rfl

theorem fenceArms : Claim.FenceArms := by
  refine ⟨fun s i w h ha hp hv hn hpos hk hr => ?_, fun s i w h ha hp hv hr => ?_, fun s i w v k h hv => ⟨fun hk hs => ?_, fun hk hs => ?_, fun hk => ?_⟩⟩
  · let m := setBit (rdWord s (w.npa + 48)) s.cas.pos true
    let u := wrWord s (w.npa + 48) m
    have hexec : exec (.fenceArm i) s = .next (setWatch u i (some { w with armed := true, armVal := some (recValue s w.npa, 0) })) := by
      refine congrArg Host.Outcome.next ?_
      rw [armLine_waiting h ha hp hv, recAsk_ready hr]
      exact watchArm_fence h ha hp hv hk
    refine ends_of_exec hexec ⟨watchOf_setWatch_self _ _ _, ?_, ?_, fun j hj => ?_, ?_⟩
    · show bitOf (rdWord u (w.npa + 48)) s.cas.pos = true
      rw [rdWord_wrWord_self _ _ _ (by omega)]
      exact bitOf_setBit_true _ (by omega)
    · exact rdWord_wrWord_ne s m (by omega) (by omega) (by omega)
    · rw [watchOf_setWatch_ne _ _ _ _ hj]
      exact congrArg (fun f : Fnc => tget f.watches j) (wrWord_frame s _ m .fnc (by decide))
    · exact Frame.into (setWatch_frame _ _ _) rfl ((wrWord_frame s _ m).mono (by decide))
  · refine ends_of_exec (t := later (ownClear s kObj (w.npa / 128)) (.fenceArm i)) ?_ (List.mem_append_right _ (List.mem_singleton_self _))
    refine congrArg Host.Outcome.next ?_
    rw [armLine_waiting h ha hp hv, recAsk_held hr]
  · refine ends_of_exec (t := watchEnd s i .ok) (congrArg Host.Outcome.next ?_) (waitOver_watchEnd h .ok)
    unfold watchJudge
    rw [h]
    dsimp only
    rw [hv]
    exact (if_neg (by omega)).trans (if_pos hs)
  · refine ends_of_exec (t := setWatch s i (some { w with armVal := none })) (congrArg Host.Outcome.next ?_)
      ⟨watchOf_setWatch_self _ _ _, setWatch_frame _ _ _⟩
    unfold watchJudge
    rw [h]
    dsimp only
    rw [hv]
    exact (if_neg (by omega)).trans (if_neg (by rw [hs]; decide))
  · refine ends_of_exec (t := watchEnd s i .permission) (congrArg Host.Outcome.next ?_) (waitOver_watchEnd h .permission)
    unfold watchJudge
    rw [h]
    dsimp only
    rw [hv]
    exact if_pos hk

/-! ## Notifications, polls and deadlines -/

theorem watchEnds_fnc (l : List (Nat × Watch)) (s : State) (st : Status) :
    (l.foldl (fun t e => watchEnd t e.1 st) s).fnc.notes = s.fnc.notes ∧
    ∀ j, watchOf (l.foldl (fun t e => watchEnd t e.1 st) s) j = if j ∈ l.map Prod.fst then none else watchOf s j := by
  induction l generalizing s with
  | nil => exact ⟨rfl, fun j => rfl⟩
  | cons e l ih =>
    obtain ⟨hn, hw⟩ := ih (watchEnd s e.1 st)
    refine ⟨hn.trans (watchEnd_notes _ _ _), fun j => ?_⟩
    rw [List.foldl_cons, hw, watchOf_watchEnd, List.map_cons]
    by_cases h1 : j ∈ l.map Prod.fst
    · rw [if_pos h1, if_pos (List.mem_cons_of_mem _ h1)]
    · by_cases h2 : j = e.1
      · rw [if_neg h1, if_pos h2, if_pos (h2 ▸ List.mem_cons_self)]
      · rw [if_neg h1, if_neg h2, if_neg (by simp only [List.mem_cons, not_or]; exact ⟨h2, h1⟩)]

/-- The wait as a poll leaves it that does not meet its target. -/
def polled (s : State) (w : Watch) : Watch := { w with nextPoll := s.bcn.count + w64 (pollBt s) }

/-- What a poll reads, and what follows. -/
def watchPolled (u : State) (i : Nat) (w : Watch) : State :=
  let (v, kind, t) :=
    if w.remote then
      let (a, t) := drawWord u
      let (b, u) := drawWord t
      (a, fld b 3 0, u)
    else (recValue u w.npa, recKind u w.npa, u)
  if kind ≠ 0 then watchEnd t i .permission
  else if satisfied v w.target then watchEnd t i .ok else t

theorem watchPolled_here (u : State) (i : Nat) (hr : w.remote = false) (hk : recKind u w.npa = 0) :
    watchPolled u i w = if satisfied (recValue u w.npa) w.target = true then watchEnd u i .ok else u := by
  unfold watchPolled
  rw [hr, if_neg Bool.false_ne_true]
  exact if_neg (fun h => h hk)

/-- A poll of a record of this package that no cache owns. -/
theorem watchPoll_current (h : watchOf s i = some w) (hr : w.remote = false) (hc : lineCurrent s kObj (w.npa / 128) = true) :
    watchPoll s i = watchPolled (ownDone (setWatch s i (some (polled s w))) kObj) i w := by
  unfold watchPoll
  rw [h]
  refine (if_neg ?_).trans rfl
  rw [hr, hc]
  decide

theorem watchPoll_here (h : watchOf s i = some w) (hr : w.remote = false) (hk : recKind s w.npa = 0) (hc : lineCurrent s kObj (w.npa / 128) = true) :
    watchPoll s i = if satisfied (recValue s w.npa) w.target = true then watchEnd (ownDone (setWatch s i (some (polled s w))) kObj) i .ok
      else ownDone (setWatch s i (some (polled s w))) kObj :=
  (watchPoll_current h hr hc).trans (watchPolled_here (ownDone (setWatch s i (some (polled s w))) kObj) i hr hk)

theorem fencePoll_exec (h : watchOf s i = some w) (hp : w.poll = true) (hd : btDue s w.nextPoll.toNat = true) : exec (.fencePoll i) s = .next (watchPoll s i) := by
  refine congrArg Host.Outcome.next ?_
  rw [h]
  exact if_pos (by rw [hp, hd]; rfl)

theorem fenceWaits : Claim.FenceWaits := by
  refine ⟨fun s a v l hn => ?_, fun s i w h hp hr hd hk hc => ⟨fun hs => ?_, fun hs => ?_⟩, fun s i w h hp hr hd hc => ?_, fun s i w d h hdue hd hv hn => ?_⟩
  · let u : State := { s with fnc := { s.fnc with notes := l } }
    have hexec : exec .fenceNotification s = .next (noteTake u a v) := by
      refine congrArg Host.Outcome.next ?_
      rw [hn]
    obtain ⟨hnotes, hwatch⟩ := watchEnds_fnc ((tsome u.fnc.watches).filter (fun e => e.2.armed && e.2.npa == a && satisfied v e.2.target)) u .ok
    refine ends_of_exec hexec ⟨hnotes, fun i w hw ha hnpa hs => ?_⟩
    refine (hwatch i).trans (if_pos (List.mem_map.mpr ⟨(i, w), List.mem_filter.mpr ⟨hw, ?_⟩, rfl⟩))
    dsimp only
    rw [ha, hnpa, hs, beq_self_eq_true]
    rfl
  · refine ends_of_exec ((fencePoll_exec h hp hd).trans (congrArg Host.Outcome.next ((watchPoll_here h hr hk hc).trans (if_pos hs)))) ?_
    rw [watchOf_watchEnd, if_pos rfl]
  · refine ends_of_exec ((fencePoll_exec h hp hd).trans (congrArg Host.Outcome.next ((watchPoll_here h hr hk hc).trans (if_neg (by rw [hs]; decide))))) ?_
    refine ⟨watchOf_setWatch_self s i _, Frame.into (ownDone_frame _ _) rfl ((setWatch_frame s i _).mono (by decide))⟩
  · refine ends_of_exec (fencePoll_exec h hp hd) ?_
    unfold watchPoll
    rw [h]
    dsimp only
    rw [hr, hc]
    rfl
  · have hexp : watchExpire s i = if w.lose && w.cmd.isSome then doom (watchEnd s i .timeout) w.ctx .timeout else watchEnd s i .timeout := by
      unfold watchExpire
      rw [h]
      dsimp only
      rw [hdue]
      dsimp only
      rw [hd, hv, hn]
      exact if_neg (by simp)
    have hexec : exec (.fenceWaitTimeout i) s = .next (watchExpire s i) := rfl
    rw [hexp] at hexec
    refine ends_of_exec hexec ⟨?_, fun hl => ?_⟩
    · split
      · rw [watchOf, show (doom (watchEnd s i .timeout) w.ctx .timeout).fnc = _ from doom_frame _ _ _ .fnc (by decide)]
        exact (watchOf_watchEnd s i .timeout i).trans (if_pos rfl)
      · rw [watchOf_watchEnd, if_pos rfl]
    · rw [hl]
      exact waitOver_watchEnd h .timeout

/-- Settles O36. -/
theorem fenceWatches : Obligations.FenceWatches := ⟨fenceArms, fenceWaits⟩

end Sys2Proof.Machine
end

section
namespace Sys2Proof.Machine
open Sys2Proof

/-! # Fence records and barriers (R447 to R451, R464 to R476) -/

variable {s t x : State} {r : HomeReq} {p e i : Nat}

/-! ## An atomic operation of the records at a quiet home -/

/-- An atomic at a quiet home that does more than to write its line: it is placed, executes and answers in the one step. -/
theorem place_atomic_exec {aop : Nat} {F : State → State} {as : List Answer} (hq : HomeQuiet s r p) (hd : dirOf s r.line = {}) (hop : aopOp aop ≠ 0xB)
    (hlast : ∀ a ∈ as.getLast?, a.kind = .comp)
    (hexec : ∀ x, AtomicOpen s x r aop → execAtomic x (atomicReq r aop) aop (rdLine s r.line) (linePois s r.line) (aopReturns aop) = (F (touched x r), as) ∧
      (F (touched x r)).hom = (touched x r).hom) :
    ∃ x, AtomicOpen s x r aop ∧ place s (atomicReq r aop) = afterAtomic (F (touched x r)) r aop as := by
  obtain ⟨x, hx, hplace1⟩ := place1_atomic aop hq hd
  obtain ⟨hmine, hhomF⟩ := hexec x hx
  obtain ⟨buf, hbuf, hhom⟩ := aluTouch_hom (tenant x (homePart r) 5) r.line
  have hF : (F (touched x r)).hom = { x.hom with aluLines := buf } := hhomF.trans hhom
  rw [← hx.rdLine_eq, ← hx.linePois_eq] at hmine
  rw [finishServe_atomic hmine (by rw [hF]; exact hbuf)] at hplace1
  have hadmit : admitReq s (atomicReq r aop) = afterAtomic (F (touched x r)) r aop as := congrArg (reqConsumed · (atomicReq r aop)) hplace1
  obtain ⟨-, fresh, hfresh⟩ := delivered_deliverAll (F (touched x r)) as hlast
  have hwaiters : (deliverAll (F (touched x r)) as).hom.waiters = tset [] r.line [atomicReq r aop] := by rw [hfresh, hF]; exact hx.waiters
  have hset : (deliverAll (F (touched x r)) as).hom.setWait = [] := by rw [hfresh, hF]; exact hx.setWait
  have hidle : retry (afterAtomic (F (touched x r)) r aop as) = afterAtomic (F (touched x r)) r aop as := by
    refine retry_idle ?_ ?_ <;> rw [afterAtomic_hom]
    · exact (congrArg (tset · r.line []) hwaiters).trans (tset_leave _ _)
    · exact hset
  exact ⟨x, hx, by rw [place_atomic hq hop, hadmit, hidle]⟩

/-- What the operation on a record executes: at the record that holds the one enabled word. -/
theorem execAtomic_record (hx : AtomicOpen s x r 0xE7) (he : elems r.mask 8 = [e]) (hr : aopRefused 0xE7 r.mask (linePois s r.line) = none) :
    execAtomic x (atomicReq r 0xE7) 0xE7 (rdLine s r.line) (linePois s r.line) false =
      ((fenceSigAt (touched x r) r.line e (w64 (elemAt r.data 8 e)) r.ctx.isNone r.part).1,
       [ansOf r .comp (fenceSigAt (touched x r) r.line e (w64 (elemAt r.data 8 e)) r.ctx.isNone r.part).2 0 0]) := by
  have hline : rdLine (touched x r) r.line = rdLine s r.line := by
    rw [← hx.rdLine_eq]
    exact rdLine_congr (touched_frame x r) (by decide) (layoutOwner_congr (touched_frame x r .sec (by decide)) (touched_frame x r .tir (by decide)) _)
  have hmask : (atomicReq r 0xE7).mask = r.mask := rfl
  have hstrict : strictRefused x 0xE7 = false := by
    rw [strictRefused]
    simp [aopOp]
  have hop : aopOp 0xE7 = 14 := rfl
  simp only [execAtomic, hop, hmask, hr, hstrict, he]
  rw [show aluTouch (tenant x (homePart (atomicReq r 0xE7)) 5) (atomicReq r 0xE7).line = touched x r from rfl]
  rw [show (atomicReq r 0xE7).line = r.line from rfl, if_pos hline]
  rfl

/-! ## Lines that were just written -/

/-- A line was written under the key it is read with. -/
def KeyedNow (s : State) (l : Nat) : Prop := tget s.memKey l = some (lineKey s l)

theorem keyedNow_wrWord (s : State) (a : Nat) (w : Word) : KeyedNow (wrWord s a w) (a / 128) := tget_tset_self s.memKey (a / 128) (some (lineKey s (a / 128)))

theorem KeyedNow.rdLine_eq {n : List Comp} {l : Nat} (h : KeyedNow s l) (hf : Frame n s t) (hn : ∀ c ∈ [Comp.sec, .tir, .mem, .memKey], c ∉ n) :
    rdLine t l = rdLine s l := by
  have hsec : t.sec = s.sec := hf .sec (hn _ (by decide))
  have htir : t.tir = s.tir := hf .tir (hn _ (by decide))
  have hmem : t.mem = s.mem := hf .mem (hn _ (by decide))
  have hkeys : t.memKey = s.memKey := hf .memKey (hn _ (by decide))
  have ht : tget t.memKey l = some (lineKey t l) := by rw [hkeys, lineKey_congr hsec (layoutOwner_congr hsec htir _)]; exact h
  rw [rdLine_of_lineKey ht, rdLine_of_lineKey h]
  simp only [memByte, hmem]

theorem rdWord_of_rdLine {a : Nat} (h8 : a % 8 = 0) (h : rdLine t (a / 128) = rdLine s (a / 128)) : rdWord t a = rdWord s a := by
  rw [rdWord_eq _ _ h8, rdWord_eq _ _ h8, h]

theorem memByte_wrWord_ne (s : State) (a : Nat) (w : Word) {b : Nat} (h : b / 128 ≠ a / 128) : memByte (wrWord s a w) b = memByte s b :=
  memByte_wrLine_ne s (a / 128) _ _ b h

/-! ## Answers leave how lines read -/

/-- What the home of a line rests on stays: the position, the size and the memory ranges. -/
structure SameMap (s t : State) : Prop where
  pos : t.cas.pos = s.cas.pos
  size : t.cas.sizeM1 = s.cas.sizeM1
  ranges : t.cas.ranges = s.cas.ranges

theorem SameMap.refl (s : State) : SameMap s s := ⟨rfl, rfl, rfl⟩

theorem SameMap.trans {u : State} (h : SameMap s t) (g : SameMap t u) : SameMap s u :=
  ⟨g.pos.trans h.pos, g.size.trans h.size, g.ranges.trans h.ranges⟩

theorem sameMap_of_frame {n : List Comp} (h : Frame n s t) (hn : Comp.cas ∉ n) : SameMap s t := by
  have hcas : t.cas = s.cas := h .cas hn
  exact ⟨by rw [hcas], by rw [hcas], by rw [hcas]⟩

theorem sameMap_casSend (s : State) (m : CasMsg) : SameMap s (casSend s m) := by
  unfold casSend
  split
  · exact SameMap.refl s
  · split
    · rw [emit_unlinked rfl]
      exact ⟨rfl, rfl, rfl⟩
    · exact ⟨rfl, rfl, rfl⟩

theorem sameMap_ite {u v : State} (P : Prop) [Decidable P] (hu : SameMap s u) (hv : SameMap s v) : SameMap s (if P then u else v) := by
  split <;> assumption

theorem sameMap_toNode (s : State) (n : Nat) (m : SpanMsg) : SameMap s (toNode s n m) := by
  unfold toNode
  exact sameMap_ite _ (SameMap.refl s) (sameMap_ite _ (sameMap_of_frame (spanSend_frame s m) (by decide)) (sameMap_casSend s _))

theorem sameMap_deliver (s : State) (last : Bool) (a : Answer) : SameMap s (deliver s last a) := by
  have hsent : SameMap s (emit s (.ans a)) := sameMap_of_frame (emit_frame s _) (by decide)
  unfold deliver
  cases a.origin with
  | host h => exact hsent.trans (sameMap_of_frame (latClose_frame _ h a last) (by decide))
  | cascade p => exact hsent
  | relay => exact SameMap.refl s
  | block b n => exact sameMap_casSend s _
  | own k => exact sameMap_ite _ (sameMap_of_frame (ownGot_frame s k a) (by decide)) (SameMap.refl s)
  | dp p => exact sameMap_ite _ (sameMap_of_frame (updPage_frame s p _) (by decide)) (SameMap.refl s)
  | det w => exact sameMap_ite _ (sameMap_of_frame (det_frame s _) (by decide)) (SameMap.refl s)
  | cmd q n => exact sameMap_ite _ (sameMap_of_frame (cmdAnswered_frame s q n _) (by decide)) (SameMap.refl s)
  | eng n b => exact sameMap_ite _ (hsent.trans (sameMap_of_frame (engLineDone_frame _ n b _) (by decide))) hsent
  | mover c d g =>
    exact sameMap_ite _ (sameMap_of_frame (updChan_frame s c _) (by decide)) (sameMap_ite _ (sameMap_of_frame (updChan_frame s c _) (by decide)) (SameMap.refl s))
  | span k =>
    dsimp only
    split
    · exact SameMap.refl s
    · next i _ =>
      have hnode := sameMap_toNode s i.node (.ans i.node i.pos i.tag a.kind a.status a.data a.poison)
      exact sameMap_ite _ (hnode.trans (sameMap_of_frame (spn_frame _ _) (by decide))) hnode

theorem sameMap_deliverAll (s : State) (as : List Answer) : SameMap s (deliverAll s as) := by
  induction as generalizing s with
  | nil => exact SameMap.refl s
  | cons a as ih => cases as with
    | nil => exact sameMap_deliver s true a
    | cons b as => exact (sameMap_deliver s false a).trans (ih _)

theorem sameMap_afterAtomic (u : State) (r : HomeReq) (aop : Nat) (as : List Answer) : SameMap u (afterAtomic u r aop as) :=
  ((sameMap_deliverAll u as).trans (sameMap_of_frame (freed_frame _ _) (by decide))).trans (sameMap_of_frame (reqConsumed_frame _ _) (by decide))

theorem rdLine_sameMap {n : List Comp} (h : SameMap s t) (hf : Frame n s t) (hn : ∀ c ∈ [Comp.fuses, .sec, .tir, .mem, .memKey, .memScrub], c ∉ n) (l : Nat) :
    rdLine t l = rdLine s l := by
  have hfuses : t.fuses = s.fuses := hf .fuses (hn _ (by decide))
  have hsec : t.sec = s.sec := hf .sec (hn _ (by decide))
  have htir : t.tir = s.tir := hf .tir (hn _ (by decide))
  have hmem : t.mem = s.mem := hf .mem (hn _ (by decide))
  have hkey : t.memKey = s.memKey := hf .memKey (hn _ (by decide))
  have hscrub : t.memScrub = s.memScrub := hf .memScrub (hn _ (by decide))
  simp only [rdLine, lineKey_congr hsec (layoutOwner_congr hsec htir _), keyedByte, writtenKey, memByte, otherKeyLine, rootKeyOf, portOf, rangeOf, homeK, blocks,
    hfuses, h.pos, h.size, h.ranges, hmem, hkey, hscrub]

/-! ## A signal (R449, R450) -/

/-- The record as a signal that is ahead of VALUE leaves it. -/
def signalled (s : State) (a : Nat) (v : Word) : State :=
  wrWords (wrWord s a v) (a + 32) [w64 (timestamp s), w64 (timestamp s / 2 ^ 64)]

/-- The record as a signal that is behind VALUE leaves it. -/
def regressed (s : State) (a : Nat) (v : Word) : State :=
  wrWords s (a + 8) [setBit (setFld (rdWord s (a + 8)) 31 0 (satAdd 32 (fld (rdWord s (a + 8)) 31 0) 1)) 32 true, v]

theorem notify_advTotal (s : State) (a : Nat) (v : Word) : (notify s a v).fnc.advTotal = s.fnc.advTotal := by
  have hstep : ∀ (l : List Nat) (u : State) (g : State → Nat → State), (∀ w n, (g w n).fnc.advTotal = w.fnc.advTotal) →
      (l.foldl g u).fnc.advTotal = u.fnc.advTotal := fun l u g hg => by
    induction l generalizing u with
    | nil => rfl
    | cons n l ih => exact (ih (g u n)).trans (hg u n)
  refine hstep _ _ _ (fun w n => ?_)
  dsimp only
  split
  · rfl
  · split
    · rfl
    · exact congrArg Fnc.advTotal (casSend_outFrame w _ .fnc (by decide))

theorem kernelEnd_advTotal (s : State) (p slot : Nat) : (kernelEnd s p slot).fnc.advTotal = s.fnc.advTotal := by
  unfold kernelEnd
  dsimp only
  split <;> rfl

/-- What a signal changes beside memory. -/
def signalComps : List Comp := [.pages, .cnt, .parts, .cas, .eng, .hst, .lmp, .fnc, .out]

/-- What follows the new VALUE: the counts, the notifications and the ends of kernels. -/
def advanced (s : State) (a : Nat) (v : Word) (p : Nat) : State :=
  let t := tenant (count { s with fnc := { s.fnc with advTotal := satAdd 48 s.fnc.advTotal 1 } } pFNC 1 p) p 8
  (endedSlots (notify t a v) a v).foldl (fun u e => kernelEnd u e.1 e.2) (notify t a v)

theorem advanced_ends (s : State) (a : Nat) (v : Word) (p : Nat) :
    Frame signalComps s (advanced s a v p) ∧ (advanced s a v p).fnc.advTotal = satAdd 48 s.fnc.advTotal 1 := by
  have hcount : Frame signalComps s (tenant (count { s with fnc := { s.fnc with advTotal := satAdd 48 s.fnc.advTotal 1 } } pFNC 1 p) p 8) := by
    intro c hc; cases c <;> first | exact absurd (by decide) hc | rfl
  have htotal : (tenant (count { s with fnc := { s.fnc with advTotal := satAdd 48 s.fnc.advTotal 1 } } pFNC 1 p) p 8).fnc.advTotal = satAdd 48 s.fnc.advTotal 1 := rfl
  unfold advanced
  dsimp only
  generalize tenant (count { s with fnc := { s.fnc with advTotal := satAdd 48 s.fnc.advTotal 1 } } pFNC 1 p) p 8 = t at hcount htotal
  have hends : ∀ (l : List (Nat × Nat)) (u : State), Frame signalComps u (l.foldl (fun u e => kernelEnd u e.1 e.2) u) ∧
      (l.foldl (fun u e => kernelEnd u e.1 e.2) u).fnc.advTotal = u.fnc.advTotal := fun l => by
    induction l with
    | nil => exact fun u => ⟨Frame.refl _ _, rfl⟩
    | cons e l ih => exact fun u => ⟨Frame.trans ((kernelEnd_frame u e.1 e.2).mono (by decide)) (ih _).1 (n := signalComps) (m := signalComps) (fun _ => id) (fun _ => id),
        (ih _).2.trans (kernelEnd_advTotal _ _ _)⟩
  obtain ⟨hf, ht⟩ := hends (endedSlots (notify t a v) a v) (notify t a v)
  exact ⟨Frame.into hf rfl (Frame.into ((notify_frame t a v).mono (m := signalComps) (by decide)) rfl hcount), ht.trans ((notify_advTotal t a v).trans htotal)⟩

theorem signalled_frame (s : State) (a : Nat) (v : Word) : Frame [.mem, .memPois, .memKey] s (signalled s a v) :=
  Frame.into (wrWords_frame _ _ _) rfl (wrWord_frame s a v)

theorem signalRec_ahead {a : Nat} {v : Word} (hp : bytesPois s a 16 = false) (hk : recKind s a = 0) (h0 : 0 < (v - recValue s a).toNat)
    (h63 : (v - recValue s a).toNat < 2 ^ 63) : signalRec s a v p = (advanced (signalled s a v) a v p, .ok) := by
  unfold signalRec
  rw [hp, if_neg (by decide), if_neg (fun h => h hk)]
  dsimp only
  rw [if_neg (by omega), if_pos h63]
  rfl

/-- The count of a signal that was behind. -/
def regressNoted (s : State) (first : Prop) [Decidable first] (p : Nat) : State :=
  let t := count { s with fnc := { s.fnc with regressTotal := satAdd 32 s.fnc.regressTotal 1 } } pFNC 2 p
  if first then raise t pFNC 3 else t

theorem regressed_frame (s : State) (a : Nat) (v : Word) : Frame [.mem, .memPois, .memKey] s (regressed s a v) := wrWords_frame _ _ _

theorem signalRec_behind {a : Nat} {v : Word} (hp : bytesPois s a 16 = false) (hk : recKind s a = 0) (h63 : 2 ^ 63 ≤ (v - recValue s a).toNat) :
    signalRec s a v p = (regressNoted (regressed s a v) (s.fnc.regressTotal = 0) p, .regressive) := by
  unfold signalRec
  rw [hp, if_neg (by decide), if_neg (fun h => h hk)]
  dsimp only
  rw [if_neg (by omega), if_neg (by omega)]
  rfl

theorem hst_st_raise (s : State) (q b h : Nat) : (hst (raise s q b) h).st = (hst s h).st := by
  obtain ⟨u, hu, hr⟩ := raise_eq s q b
  have hcount : hst u h = hst s h := by
    rw [hst, hst, show u.hst = (updPage s q (withIrqRaw b)).hst from hu .hst (by decide)]
    rfl
  have hsend : ∀ (l : List Nat) (v : State), (hst (l.foldl (sendIrqTo q) v) h).st = (hst v h).st := fun l => by
    induction l with
    | nil => exact fun v => rfl
    | cons k l ih =>
      refine fun v => (ih (sendIrqTo q v k)).trans ?_
      unfold sendIrqTo
      split
      · exact hst_st_emit h (p := pHST0 + k) (c := 5) rfl
      · rfl
  rw [hr]
  split
  · rw [sendIrq_eq, hsend, hcount]
  · rw [hcount]

theorem hostUp_raise (s : State) (q b h : Nat) : hostUp (raise s q b) h = hostUp s h := by
  rw [hostUp, hostUp, hst_st_raise, fenced_of_kept (fences_raise (FencesKept.refl s) q b) (raise_frame s q b .fuses (by decide))]

theorem regressNoted_ends (s : State) (first : Prop) [Decidable first] (p : Nat) : Frame [.pages, .cnt, .hst, .fnc, .out] s (regressNoted s first p) ∧
    (regressNoted s first p).fnc.regressTotal = satAdd 32 s.fnc.regressTotal 1 ∧ ∀ h, hostUp (regressNoted s first p) h = hostUp s h := by
  let u := count { s with fnc := { s.fnc with regressTotal := satAdd 32 s.fnc.regressTotal 1 } } pFNC 2 p
  have hu : Frame [.pages, .cnt, .hst, .fnc, .out] s u := by
    intro c hc; cases c <;> first | exact absurd (by decide) hc | rfl
  show Frame _ s (if first then raise u pFNC 3 else u) ∧ (if first then raise u pFNC 3 else u).fnc.regressTotal = _ ∧ ∀ h, hostUp (if first then raise u pFNC 3 else u) h = _
  split
  · refine ⟨Frame.into ((raise_hostFrame u pFNC 3).mono (m := [.pages, .cnt, .hst, .fnc, .out]) (by decide)) rfl hu, congrArg Fnc.regressTotal (raise_frame u pFNC 3 .fnc (by decide)), fun h => ?_⟩
    exact hostUp_raise u pFNC 3 h
  · exact ⟨hu, rfl, fun h => rfl⟩

theorem signalRec_equal {a : Nat} {v : Word} (hp : bytesPois s a 16 = false) (hk : recKind s a = 0) (h : v = recValue s a) :
    signalRec s a v p = (s, .ok) := by
  unfold signalRec
  rw [hp, if_neg (by decide), if_neg (fun h => h hk)]
  dsimp only
  rw [if_pos (by rw [h, BitVec.sub_self]; rfl)]

/-! ## Signals at a quiet home -/

/-- The record on which an operation executes is the one in memory. -/
structure RecordAt (s u : State) (l : Nat) : Prop where
  frame : Frame [.hom, .tir, .cnt, .mps, .out] s u
  line : rdLine u l = rdLine s l
  owner : ∀ a, layoutOwner u a = layoutOwner s a

theorem recordAt_touched (hx : AtomicOpen s x r 0xE7) : RecordAt s (touched x r) r.line := by
  have hown : ∀ a, layoutOwner (touched x r) a = layoutOwner x a :=
    layoutOwner_congr (touched_frame x r .sec (by decide)) (touched_frame x r .tir (by decide))
  exact ⟨hx.touched_frame, (rdLine_congr (touched_frame x r) (by decide) (hown _)).trans hx.rdLine_eq, fun a => (hown a).trans (hx.owner a)⟩

section
variable {u : State} {l a : Nat} (h : RecordAt s u l)
include h

theorem RecordAt.rdWord_eq (ha : a / 128 = l) (h8 : a % 8 = 0) : rdWord u a = rdWord s a := rdWord_of_rdLine h8 (by rw [ha, h.line])

theorem RecordAt.recValue_eq (ha : a / 128 = l) (h8 : a % 64 = 0) : recValue u a = recValue s a := h.rdWord_eq ha (by omega)

theorem RecordAt.recKind_eq (ha : a / 128 = l) (h8 : a % 64 = 0) : recKind u a = recKind s a := by
  rw [recKind, recKind, h.rdWord_eq (by omega) (by omega)]

theorem RecordAt.bytesPois_eq (a n : Nat) : bytesPois u a n = bytesPois s a n := by
  rw [bytesPois, bytesPois, show u.memPois = s.memPois from h.frame .memPois (by decide)]

end

/-- An operation on a record at a quiet home: it executes on the record in memory, and its completion goes out. -/
theorem fenceOp_ends (hq : HomeQuiet s r p) (hd : dirOf s r.line = {}) (he : elems r.mask 8 = [e]) (hr : aopRefused 0xE7 r.mask (linePois s r.line) = none)
    (hhom : ∀ u, RecordAt s u r.line → (fenceSigAt u r.line e (w64 (elemAt r.data 8 e)) r.ctx.isNone r.part).1.hom = u.hom)
    (st : Status) (hst : ∀ u, RecordAt s u r.line → (fenceSigAt u r.line e (w64 (elemAt r.data 8 e)) r.ctx.isNone r.part).2 = st) :
    ∃ u, RecordAt s u r.line ∧ atHome (atomicReq r 0xE7) s =
      .next (afterAtomic (fenceSigAt u r.line e (w64 (elemAt r.data 8 e)) r.ctx.isNone r.part).1 r 0xE7 [ansOf r .comp st 0 0]) := by
  have hlast : ∀ a ∈ [ansOf r .comp st 0 0].getLast?, a.kind = .comp := by
    rintro a ha
    rw [List.getLast?_singleton, Option.mem_some_iff] at ha
    rw [← ha]
    rfl
  obtain ⟨x, hx, hplace⟩ := place_atomic_exec (F := fun u => (fenceSigAt u r.line e (w64 (elemAt r.data 8 e)) r.ctx.isNone r.part).1)
    (as := [ansOf r .comp st 0 0]) (aop := 0xE7) hq hd (by decide) hlast (fun x hx => by
      have hrec := recordAt_touched hx
      refine ⟨?_, hhom _ hrec⟩
      rw [← hst _ hrec]
      exact execAtomic_record hx he hr)
  exact ⟨touched x r, recordAt_touched hx, by rw [atHome_quiet hq, hplace]⟩

theorem elems_lt {m : LineMask} {w q : Nat} (h : q ∈ elems m w) : q < 128 := by
  unfold elems at h
  split at h
  · exact absurd h List.not_mem_nil
  · next hw =>
    obtain ⟨i, hi, rfl⟩ := List.mem_map.mp (List.mem_filter.mp h).1
    have hlt := List.mem_range.mp hi
    have hle : (i + 1) * w ≤ 128 / w * w := Nat.mul_le_mul_right w hlt
    have h128 : 128 / w * w ≤ 128 := Nat.div_mul_le_self 128 w
    have hpos : 0 < w := Nat.pos_of_ne_zero hw
    rw [Nat.add_mul] at hle
    omega

/-- The state after the operation, from what the operation leaves: memory as it left it, and its completion on its way. -/
theorem afterAtomic_ends {u : State} {l : Nat} (st : Status) (hkey : KeyedNow u l) :
    (∀ a, a / 128 = l → a % 8 = 0 → rdWord (afterAtomic u r 0xE7 [ansOf r .comp st 0 0]) a = rdWord u a) := by
  have hframe : Frame answerComps u (afterAtomic u r 0xE7 [ansOf r .comp st 0 0]) := afterAtomic_frame u r 0xE7 (fun a ha => by
    rw [List.getLast?_singleton, Option.mem_some_iff] at ha
    rw [← ha]
    rfl)
  exact fun a ha h8 => rdWord_of_rdLine h8 (by rw [ha, hkey.rdLine_eq hframe (by decide)])

theorem afterComp_frame (u : State) (st : Status) : Frame answerComps u (afterAtomic u r 0xE7 [ansOf r .comp st 0 0]) :=
  afterAtomic_frame u r 0xE7 (fun a ha => by
    rw [List.getLast?_singleton, Option.mem_some_iff] at ha
    rw [← ha]
    rfl)

theorem memByte_signalled (s : State) {a : Nat} (v : Word) (h : a % 64 = 0) {b : Nat} (hb : b / 128 ≠ a / 128) : memByte (signalled s a v) b = memByte s b := by
  show memByte (wrWord (wrWord (wrWord s a v) (a + 32) _) (a + 32 + 8) _) b = _
  rw [memByte_wrWord_ne _ _ _ (by omega), memByte_wrWord_ne _ _ _ (by omega), memByte_wrWord_ne _ _ _ hb]

theorem memByte_regressed (s : State) {a : Nat} (v : Word) (h : a % 64 = 0) {b : Nat} (hb : b / 128 ≠ a / 128) : memByte (regressed s a v) b = memByte s b := by
  show memByte (wrWord (wrWord s (a + 8) _) (a + 8 + 8) _) b = _
  rw [memByte_wrWord_ne _ _ _ (by omega), memByte_wrWord_ne _ _ _ (by omega)]

theorem recValue_signalled (s : State) {a : Nat} (v : Word) (h : a % 64 = 0) : recValue (signalled s a v) a = v := by
  show rdWord (wrWord (wrWord (wrWord s a v) (a + 32) _) (a + 32 + 8) _) a = _
  rw [rdWord_wrWord_ne _ _ (by omega) (by omega) (by omega), rdWord_wrWord_ne _ _ (by omega) (by omega) (by omega), rdWord_wrWord_self _ _ _ (by omega)]

theorem recValue_regressed (s : State) {a : Nat} (v : Word) (h : a % 64 = 0) : recValue (regressed s a v) a = recValue s a := by
  show rdWord (wrWord (wrWord s (a + 8) _) (a + 8 + 8) _) a = _
  rw [rdWord_wrWord_ne _ _ (by omega) (by omega) (by omega), rdWord_wrWord_ne _ _ (by omega) (by omega) (by omega)]
  rfl

theorem keyedNow_signalled (s : State) {a : Nat} (v : Word) (h : a % 64 = 0) : KeyedNow (signalled s a v) (a / 128) := by
  have hk := keyedNow_wrWord (wrWord (wrWord s a v) (a + 32) (w64 (timestamp s))) (a + 32 + 8) (w64 (timestamp s / 2 ^ 64))
  rwa [show (a + 32 + 8) / 128 = a / 128 by omega] at hk

theorem keyedNow_regressed (s : State) {a : Nat} (v : Word) (h : a % 64 = 0) : KeyedNow (regressed s a v) (a / 128) := by
  have hk := keyedNow_wrWord (wrWord s (a + 8) (setBit (setFld (rdWord s (a + 8)) 31 0 (satAdd 32 (fld (rdWord s (a + 8)) 31 0) 1)) 32 true)) (a + 8 + 8) v
  rwa [show (a + 8 + 8) / 128 = a / 128 by omega] at hk

theorem KeyedNow.of_frame {n : List Comp} {l : Nat} (h : KeyedNow s l) (hf : Frame n s t) (hn : ∀ c ∈ [Comp.sec, .tir, .memKey], c ∉ n) : KeyedNow t l := by
  have hsec : t.sec = s.sec := hf .sec (hn _ (by decide))
  have htir : t.tir = s.tir := hf .tir (hn _ (by decide))
  rw [KeyedNow, show t.memKey = s.memKey from hf .memKey (hn _ (by decide)), lineKey_congr hsec (layoutOwner_congr hsec htir _)]
  exact h

theorem fenceSigAt_signal (u : State) (l : Nat) (v : Word) (f : Bool) (p : Nat) (h : e % 64 = 0) : fenceSigAt u l e v f p = signalRec u (l * 128 + e) v p := by
  have haddr : l * 128 + e / 64 * 64 = l * 128 + e := by omega
  unfold fenceSigAt
  rw [haddr]
  exact if_pos h

theorem fenceSignals : Claim.FenceSignals := by
  intro s r p e hq hd he h64 hr hp hk a v
  have hlt : e < 128 := elems_lt (he ▸ List.mem_singleton_self e)
  have ha64 : a % 64 = 0 := by show (r.line * 128 + e) % 64 = 0; omega
  have hline : a / 128 = r.line := by show (r.line * 128 + e) / 128 = r.line; omega
  have hval : ∀ u, RecordAt s u r.line → recValue u a = recValue s a := fun u h => h.recValue_eq hline ha64
  have hpu : ∀ u, RecordAt s u r.line → bytesPois u a 16 = false := fun u h => (h.bytesPois_eq a 16).trans hp
  have hku : ∀ u, RecordAt s u r.line → recKind u a = 0 := fun u h => (h.recKind_eq hline ha64).trans hk
  refine ⟨fun h0 h63 => ?_, fun h63 => ?_, fun heq => ?_⟩
  · have hrun : ∀ u, RecordAt s u r.line → fenceSigAt u r.line e v r.ctx.isNone r.part = (advanced (signalled u a v) a v r.part, .ok) := fun u h => by
      rw [fenceSigAt_signal u _ _ _ _ h64]
      exact signalRec_ahead (hpu u h) (hku u h) (by rw [hval u h]; exact h0) (by rw [hval u h]; exact h63)
    obtain ⟨u, hu, hexec⟩ := fenceOp_ends hq hd he hr (fun u h => by
      rw [hrun u h]
      exact ((advanced_ends _ _ _ _).1 .hom (by decide)).trans (signalled_frame u a v .hom (by decide))) .ok (fun u h => by rw [hrun u h])
    rw [hrun u hu] at hexec
    obtain ⟨hadv, htotal⟩ := advanced_ends (signalled u a v) a v r.part
    have hkey : KeyedNow (signalled u a v) r.line := hline ▸ keyedNow_signalled u v ha64
    have hmem := @memByte_signalled u a v ha64
    have hread := recValue_signalled u v ha64
    have hfnc : (signalled u a v).fnc = s.fnc := (signalled_frame u a v .fnc (by decide)).trans (hu.frame .fnc (by decide))
    generalize advanced (signalled u a v) a v r.part = w at hexec hadv htotal
    generalize signalled u a v = m at hadv htotal hkey hmem hread hfnc
    have hlast := afterComp_frame (r := r) w .ok
    have hword := afterAtomic_ends (r := r) .ok (hkey.of_frame hadv (by decide)) a hline (by omega)
    have hkept : rdWord w a = rdWord m a := rdWord_of_rdLine (by omega) (by rw [hline, hkey.rdLine_eq hadv (by decide)])
    refine ends_of_exec hexec ⟨hword.trans (hkept.trans hread), ?_, fun b hb => ?_⟩
    · rw [show (afterAtomic w r 0xE7 [ansOf r .comp .ok 0 0]).fnc = w.fnc from hlast .fnc (by decide), htotal, hfnc]
    · rw [memByte_congr (hlast .mem (by decide)), memByte_congr (hadv .mem (by decide)), hmem (by rw [hline]; exact hb),
        memByte_congr (hu.frame .mem (by decide))]
  · have hrun : ∀ u, RecordAt s u r.line → fenceSigAt u r.line e v r.ctx.isNone r.part =
        (regressNoted (regressed u a v) (u.fnc.regressTotal = 0) r.part, .regressive) := fun u h => by
      rw [fenceSigAt_signal u _ _ _ _ h64]
      exact signalRec_behind (hpu u h) (hku u h) (by rw [hval u h]; exact h63)
    obtain ⟨u, hu, hexec⟩ := fenceOp_ends hq hd he hr (fun u h => by
      rw [hrun u h]
      exact ((regressNoted_ends _ _ _).1 .hom (by decide)).trans (regressed_frame u a v .hom (by decide))) .regressive (fun u h => by rw [hrun u h])
    rw [hrun u hu] at hexec
    obtain ⟨hadv, htotal, hups⟩ := regressNoted_ends (regressed u a v) (u.fnc.regressTotal = 0) r.part
    have hkey : KeyedNow (regressed u a v) r.line := hline ▸ keyedNow_regressed u v ha64
    have hmem := @memByte_regressed u a v ha64
    have hread := recValue_regressed u v ha64
    have hfnc : (regressed u a v).fnc = s.fnc := (regressed_frame u a v .fnc (by decide)).trans (hu.frame .fnc (by decide))
    have hup : ∀ h, hostUp (regressed u a v) h = hostUp s h := fun h =>
      (hostUp_of_frame (regressed_frame u a v) (by decide) h).trans (hostUp_of_frame hu.frame (by decide) h)
    generalize regressNoted (regressed u a v) (u.fnc.regressTotal = 0) r.part = w at hexec hadv htotal hups
    generalize regressed u a v = m at hadv htotal hkey hmem hread hfnc hup hups
    have hlast := afterComp_frame (r := r) w .regressive
    have hword := afterAtomic_ends (r := r) .regressive (hkey.of_frame hadv (by decide)) a hline (by omega)
    have hkept : rdWord w a = rdWord m a := rdWord_of_rdLine (by omega) (by rw [hline, hkey.rdLine_eq hadv (by decide)])
    refine ends_of_exec hexec ⟨hword.trans (hkept.trans (hread.trans (hval u hu))), ?_, fun h ho hh => ?_, fun b hb => ?_⟩
    · rw [show (afterAtomic w r 0xE7 [ansOf r .comp .regressive 0 0]).fnc = w.fnc from hlast .fnc (by decide), htotal, hfnc]
    · exact afterAtomic_outTo 0xE7 (fun b hb => by rw [List.mem_singleton.mp hb]; exact ho) ((hups h).trans ((hup h).trans hh)) (List.mem_singleton_self _)
    · rw [memByte_congr (hlast .mem (by decide)), memByte_congr (hadv .mem (by decide)), hmem (by rw [hline]; exact hb),
        memByte_congr (hu.frame .mem (by decide))]
  · have hrun : ∀ u, RecordAt s u r.line → fenceSigAt u r.line e v r.ctx.isNone r.part = (u, .ok) := fun u h => by
      rw [fenceSigAt_signal u _ _ _ _ h64]
      exact signalRec_equal (hpu u h) (hku u h) (by rw [hval u h]; exact heq)
    obtain ⟨u, hu, hexec⟩ := fenceOp_ends hq hd he hr (fun u h => by rw [hrun u h]) .ok (fun u h => by rw [hrun u h])
    rw [hrun u hu] at hexec
    have hlast := afterComp_frame (r := r) u .ok
    refine ends_of_exec hexec ⟨?_, (hlast .fnc (by decide)).trans (hu.frame .fnc (by decide)), (hlast .mem (by decide)).trans (hu.frame .mem (by decide))⟩
    rw [heq, ← hval u hu]
    exact rdWord_of_rdLine (by omega) (rdLine_sameMap (sameMap_afterAtomic u r 0xE7 _) hlast (by decide) _)

/-! ## Barrier operations (R468 to R473) -/

/-- The record of a bound barrier as its release leaves it: the generation advances, and PENDING is LIVE again. -/
def nextGen (b : Bar) : Bar := { b with gen := b.gen + 1, pending := b.live, due := none, regs := b.regs.map (fun r => { r with arr := 0, isOpen := false }) }

theorem barSettle_pending {b : Bar} (h : b.pending ≠ 0) : barSettle s i b = setBar s i (some b) := if_neg h

theorem barSettle_released {b : Bar} (h : b.pending = 0) (hr : b.relEn = false) :
    barSettle s i b = barWriteBack (setBar s i (if b.live != 0 then some (nextGen b) else none)) (nextGen b) (b.live != 0) false := by
  rw [barSettle, if_pos h]
  exact if_neg (by rw [hr]; decide)

/-- The barrier's entry after an operation that releases it or not. -/
theorem barSettle_ends (s : State) (i : Nat) {b : Bar} (hr : b.relEn = false) :
    Frame [.fnc, .mem, .memPois, .memKey] s (barSettle s i b) ∧
    (barSettle s i b).fnc = { s.fnc with bars := tset s.fnc.bars i (if b.pending ≠ 0 then some b else if b.live != 0 then some (nextGen b) else none) } := by
  by_cases h : b.pending = 0
  · rw [barSettle_released h hr, if_neg (not_not_intro h)]
    have hback := barWriteBack_frame (setBar s i (if b.live != 0 then some (nextGen b) else none)) (nextGen b) (b.live != 0) false
    refine ⟨Frame.into (hback.mono (m := [.fnc, .mem, .memPois, .memKey]) (by decide)) rfl ?_, hback .fnc (by decide)⟩
    intro c hc; cases c <;> first | exact absurd (by decide) hc | rfl
  · rw [barSettle_pending h, if_pos h]
    refine ⟨?_, rfl⟩
    intro c hc; cases c <;> first | exact absurd (by decide) hc | rfl

theorem unitsHeld_congr (h : t.inUse = s.inUse) (k : Nat) (l : List Nat) : unitsHeld t k l = unitsHeld s k l := by rw [unitsHeld, unitsHeld, h]

theorem barApply_congr (hb : t.bcn = s.bcn) (hi : t.inUse = s.inUse) (hf : t.fnc = s.fnc) (b : Bar) (n : Nat) (d : Bool) (c : Nat) (k : Option Nat) :
    barApply t b n d c k = barApply s b n d c k := by
  unfold barApply
  rw [unitsHeld_congr hi, regNames, regNames, hf, hb]

/-- An element reads as it was set. -/
theorem elemAt_setElem (d : LineData) (w q v : Nat) (h : 8 * q + 8 * w ≤ 1024) : elemAt (setElem d w q v) w q = v % 2 ^ (8 * w) := by
  have hsplit : 2 ^ 1024 = 2 ^ (8 * q) * (2 ^ (8 * w) * 2 ^ (1024 - 8 * q - 8 * w)) := by
    rw [← Nat.pow_add, ← Nat.pow_add]
    congr 1
    omega
  have hP : 0 < 2 ^ (8 * q) := Nat.two_pow_pos _
  have hlow : d.toNat / 2 ^ (8 * q) % 2 ^ (8 * w) * 2 ^ (8 * q) ≤ d.toNat :=
    (Nat.mul_le_mul_right _ (Nat.mod_le _ _)).trans (Nat.div_mul_le_self _ _)
  rw [elemAt, setElem, elemAt, BitVec.toNat_ofNat, Nat.shiftRight_eq_div_pow, Nat.shiftRight_eq_div_pow, hsplit, Nat.mod_mul_right_div_self,
    Nat.mod_mul_right_mod]
  generalize 2 ^ (8 * q) = P at *
  generalize 2 ^ (8 * w) = W at *
  have hd : d.toNat = (W * (d.toNat / P / W) + d.toNat / P % W) * P + d.toNat % P := by
    rw [Nat.div_add_mod, Nat.div_add_mod']
  have hx : d.toNat - d.toNat / P % W * P + v % W * P = P * (W * (d.toNat / P / W) + v % W) + d.toNat % P := by
    have h1 : (W * (d.toNat / P / W) + d.toNat / P % W) * P = W * (d.toNat / P / W) * P + d.toNat / P % W * P := Nat.add_mul _ _ _
    have h2 : P * (W * (d.toNat / P / W) + v % W) = W * (d.toNat / P / W) * P + v % W * P := by ring
    omega
  rw [hx, Nat.mul_add_div hP, Nat.div_eq_of_lt (Nat.mod_lt _ hP), Nat.add_zero, Nat.mul_add_mod, Nat.mod_mod]

/-- The DROP bit of an operand as the command sets it. -/
theorem testBit_dropBit (u : Nat) (drop : Bool) : (u - u / 2 ^ 21 % 2 * 2 ^ 21 + b2n drop * 2 ^ 21).testBit 21 = drop := by
  rw [Nat.testBit_eq_decide_div_mod_eq]
  cases drop
  · refine decide_eq_false ?_
    show ¬((u - u / 2 ^ 21 % 2 * 2 ^ 21 + 0 * 2 ^ 21) / 2 ^ 21 % 2 = 1)
    omega
  · refine decide_eq_true ?_
    show (u - u / 2 ^ 21 % 2 * 2 ^ 21 + 1 * 2 ^ 21) / 2 ^ 21 % 2 = 1
    omega

theorem elems_eight {m : LineMask} {q : Nat} (h : q ∈ elems m 8) : q ≤ 120 := by
  obtain ⟨i, hi, rfl⟩ := List.mem_map.mp (List.mem_filter.mp h).1
  have hlt := List.mem_range.mp hi
  omega

theorem bitOf_barWord (r : HomeReq) (drop : Bool) (he : elems r.mask 8 = [e]) : bitOf (barWord r drop e) 21 = drop := by
  have hle : e ≤ 120 := elems_eight (he ▸ List.mem_singleton_self e)
  have hdata : (barrierReq r drop).data =
      setElem r.data 8 e (elemAt r.data 8 e - elemAt r.data 8 e / 2 ^ 21 % 2 * 2 ^ 21 + b2n drop * 2 ^ 21) := by
    rw [barrierReq, he]
    rfl
  rw [barWord, hdata, elemAt_setElem _ _ _ _ (by omega), bitOf, getLsbD_w64]
  have hbit := testBit_dropBit (elemAt r.data 8 e) drop
  generalize elemAt r.data 8 e - elemAt r.data 8 e / 2 ^ 21 % 2 * 2 ^ 21 + b2n drop * 2 ^ 21 = v at hbit
  rw [Nat.testBit_mod_two_pow, hbit]
  rfl

theorem barOp_known {a : Nat} {w : Word} {b b' : Bar} (hp : bytesPois s a 64 = false) (hn : fld w 20 0 ≠ 0) (hz : fld w 47 35 = 0)
    (hv : bitOf (rdWord s a) 0 = true) (hk : recKind s a = 1) (hat : barAt s a = some (i, b))
    (happ : barApply s b (fld w 20 0) (bitOf w 21) (fld w 63 48) (if bitOf w 22 then none else some (fld w 34 23)) = .ok b') :
    barOp s a w false p = (barSettle s i b', .ok) := by
  have hgood : (false || fld w 20 0 == 0 || fld w 47 35 != 0 || !bitOf (rdWord s a) 0 || recKind s a != 1) = false := by
    rw [hz, hv, hk]
    simp [hn]
  unfold barOp
  dsimp only
  rw [hp, hgood, hat]
  rw [if_neg Bool.false_ne_true, if_neg Bool.false_ne_true, Option.isNone_some, Bool.false_and, if_neg Bool.false_ne_true]
  dsimp only
  rw [if_neg Bool.false_ne_true, happ]

/-- The request that a barrier command brings to the home. -/
def barReq (r : HomeReq) (drop : Bool) : HomeReq := { r with data := (barrierReq r drop).data }

theorem barrier_exec (s : State) (r : HomeReq) (drop : Bool) :
    exec (if drop then .barrierLaneDrop r else .barrierArrival r) s = atHome (atomicReq (barReq r drop) 0xE7) s := by
  cases drop <;> rfl

theorem fenceSigAt_barrier (u : State) (l : Nat) (v : Word) (p : Nat) (h : e % 64 = 8) :
    fenceSigAt u l e v false p = barOp u (l * 128 + e / 64 * 64) v false p := by
  unfold fenceSigAt
  exact (if_neg (by omega)).trans (if_pos h)

theorem barriers : Claim.Barriers := by
  intro s r p e i b b' drop hq hd he h64 hr hctx a w hp hn hz hv hk hat happ hrel
  have hle : e ≤ 120 := elems_eight (he ▸ List.mem_singleton_self e)
  have hline : a / 128 = r.line := by show (r.line * 128 + e / 64 * 64) / 128 = r.line; omega
  have ha64 : a % 64 = 0 := by show (r.line * 128 + e / 64 * 64) % 64 = 0; omega
  have hqr : HomeQuiet s (barReq r drop) p := hq
  have hbit : bitOf w 21 = drop := bitOf_barWord r drop he
  have hrun : ∀ u, RecordAt s u r.line → fenceSigAt u r.line e w r.ctx.isNone r.part = (barSettle u i b', .ok) := fun u h => by
    rw [show r.ctx.isNone = false by rw [Option.isNone_eq_false_iff]; exact hctx, fenceSigAt_barrier u _ _ _ h64]
    refine barOp_known ((h.bytesPois_eq a 64).trans hp) hn hz ?_ ((h.recKind_eq hline ha64).trans hk) ?_ ?_ (b := b)
    · rw [h.rdWord_eq hline (by omega)]; exact hv
    · rw [barAt, show u.fnc = s.fnc from h.frame .fnc (by decide)]; exact hat
    · rw [hbit, barApply_congr (h.frame .bcn (by decide)) (h.frame .inUse (by decide)) (h.frame .fnc (by decide))]; exact happ
  obtain ⟨u, hu, hexec⟩ := fenceOp_ends (r := barReq r drop) (e := e) hqr hd he hr (fun u h => by
    refine (congrArg (fun x : State × Status => x.1.hom) (hrun u h)).trans ?_
    exact (barSettle_ends u i hrel).1 .hom (by decide)) .ok (fun u h => congrArg Prod.snd (hrun u h))
  have hrunu : fenceSigAt u (barReq r drop).line e (w64 (elemAt (barReq r drop).data 8 e)) (barReq r drop).ctx.isNone (barReq r drop).part =
      (barSettle u i b', .ok) := hrun u hu
  rw [hrunu] at hexec
  have hlast := afterComp_frame (r := barReq r drop) (barSettle u i b') .ok
  have hbars : (afterAtomic (barSettle u i b') (barReq r drop) 0xE7 [ansOf (barReq r drop) .comp .ok 0 0]).fnc.bars =
      tset u.fnc.bars i (if b'.pending ≠ 0 then some b' else if b'.live != 0 then some (nextGen b') else none) := by
    rw [show (afterAtomic (barSettle u i b') (barReq r drop) 0xE7 _).fnc = _ from hlast .fnc (by decide), (barSettle_ends u i hrel).2]
  refine ends_of_exec ((barrier_exec s r drop).trans hexec) ⟨fun hpend => ?_, fun hpend hlive => ?_, fun hpend hlive => ?_⟩
  · rw [hbars, tget_tset_self, if_pos hpend]
  · rw [hbars, tget_tset_self, if_neg (not_not_intro hpend), if_pos (by simpa using hlive)]
    exact ⟨nextGen b', rfl, rfl, rfl, rfl, rfl⟩
  · rw [hbars, tget_tset_self, if_neg (not_not_intro hpend), if_neg (by simpa using hlive)]

/-! ## Ends of barriers (R474 to R476) -/

/-- The entry of an abandoned barrier is gone and counted before the interrupt and the losses of its owners. -/
def barGone (s : State) (i : Nat) (b : Bar) : State :=
  let t := barWriteBack (setBar s i none) b false true
  count { t with fnc := { t.fnc with abandonTotal := satAdd 32 t.fnc.abandonTotal 1 } } pFNC 4 b.part

theorem barGone_fnc (s : State) (i : Nat) (b : Bar) :
    (barGone s i b).fnc = { s.fnc with bars := tset s.fnc.bars i none, abandonTotal := satAdd 32 s.fnc.abandonTotal 1 } := by
  have hback : (barWriteBack (setBar s i none) b false true).fnc = (setBar s i none).fnc := barWriteBack_frame _ _ _ _ .fnc (by decide)
  show { (barWriteBack (setBar s i none) b false true).fnc with
    abandonTotal := satAdd 32 (barWriteBack (setBar s i none) b false true).fnc.abandonTotal 1 } = _
  rw [hback]
  rfl

theorem barAbandon_ends (s : State) (i : Nat) (b : Bar) : (barAbandon s i b).fnc = (barGone s i b).fnc ∧ bitOf (page (barAbandon s i b) pFNC).irqRaw 1 = true := by
  have hdoom : Frame [.lmp] (raise (barGone s i b) pFNC 1) (barAbandon s i b) := Frame.foldl _ _ _ _ (fun u c => doom_frame u c _)
  refine ⟨(hdoom .fnc (by decide)).trans (raise_frame _ _ _ .fnc (by decide)), ?_⟩
  rw [page_of_frame hdoom (by decide)]
  exact page_raise_bit _ _ _ (by decide)

/-- The entry of a barrier whose one registration has dropped. -/
def dropped (b : Bar) (r : Reg) : Bar := { b with pending := sub21 b.pending (sub21 r.reg r.arr), live := sub21 b.live r.reg, regs := [] }

theorem barDropOwner_one {u : State} {own : Reg → Bool} {b : Bar} {r : Reg} (hget : tget u.fnc.bars i = some b) (hregs : b.regs = [r]) (ho : own r = true)
    (hp : (dropped b r).pending ≠ 0) : barDropOwner u i own = setBar u i (some (dropped b r)) := by
  have hfilter : [r].filter own = [r] := by simp [ho]
  have hrest : [r].filter (fun r => !own r) = [] := by simp [ho]
  have hone : barDropOwner u i own = barSettle u i (dropped b r) := by
    unfold barDropOwner
    rw [hget]
    dsimp only
    rw [hregs, hfilter, hrest, List.isEmpty_cons, if_neg Bool.false_ne_true, List.foldl_cons, List.foldl_nil, List.foldl_cons, List.foldl_nil]
    rfl
  rw [hone, barSettle_pending hp]

/-- The drop of the one registration of the one barrier, with lanes still pending. -/
theorem dropOwner_one {u : State} {c : Nat} {b : Bar} (hbars : u.fnc.bars = [(i, some b)]) (hl : b.lossAb = false) :
    dropOwner u (c, none) = barDropOwner u i (fun r => r.ctx == c && (true || r.slot == none)) := by
  have hget : tget u.fnc.bars i = some b := by rw [hbars, tget, if_pos rfl]
  have hall : tsome u.fnc.bars = [(i, b)] := by rw [hbars]; rfl
  unfold dropOwner
  rw [hall, List.foldl_cons, List.foldl_nil]
  dsimp only
  rw [hget]
  exact if_neg (by simp [hl])

theorem barrierEnds : Claim.BarrierEnds := by
  refine ⟨fun s i b d hb hdue hd hpend hr => ?_, fun s i c b r hdrops hbars hl hregs hc hp hr => ?_, fun s i b hb hr => ?_⟩
  · have hexec : exec (.barrierDeadline i) s = .next (barAbandon s i b) := by
      refine congrArg Host.Outcome.next ?_
      have hline : barLine s i = [b.npa / 128] := by rw [barLine, hb]; rfl
      unfold barDeadline
      rw [hline, recAsk_ready hr]
      unfold barExpire
      rw [hb]
      exact if_pos (by simp [hdue, hd, hpend])
    obtain ⟨hfnc, hirq⟩ := barAbandon_ends s i b
    refine ends_of_exec hexec ⟨?_, fun j hj => ?_, ?_, hirq⟩
    · rw [hfnc, barGone_fnc]; exact tget_tset_self s.fnc.bars i none
    · rw [hfnc, barGone_fnc]; exact tget_tset_ne s.fnc.bars i j none hj
    · rw [hfnc, barGone_fnc]
  · let u : State := { s with fnc := { s.fnc with drops := [] } }
    have hlines : dropLines s = [b.npa / 128] := by
      unfold dropLines
      rw [hdrops, hbars]
      simp [tsome, hregs, hc]
    have hexec : exec .registrationDrop s = .next (dropOwner u (c, none)) := by
      refine congrArg Host.Outcome.next ?_
      rw [hlines, recAsk_ready hr, hdrops]
      rfl
    rw [dropOwner_one (u := u) hbars hl, barDropOwner_one (u := u) (b := b) (r := r) (by show tget s.fnc.bars i = some b; rw [hbars, tget, if_pos rfl]) hregs
      (by simp [hc]) hp] at hexec
    refine ends_of_exec hexec ⟨rfl, tget_tset_self s.fnc.bars i (some (dropped b r)), ?_⟩
    intro c hc; cases c <;> first | exact absurd (by decide) hc | rfl
  · refine ends_of_exec (t := later (ownClear s kObj (b.npa / 128)) (.barrierDeadline i)) (congrArg Host.Outcome.next ?_)
      (List.mem_append_right _ (List.mem_singleton_self _))
    unfold barDeadline barLine
    rw [hb]
    show (match recAsk s kObj [b.npa / 128] with | some u => later u (.barrierDeadline i) | none => barExpire s i) = _
    rw [recAsk_held hr]

/-- Settles O33. -/
theorem fenceRecords : Obligations.FenceRecords := ⟨fenceSignals, barriers, barrierEnds⟩

end Sys2Proof.Machine
end

section
namespace Sys2Proof.Machine
open Sys2Proof

/-! # The end of Snuff for a close that another block asked for (R564) -/

/-- A master that releases partition 1 at the end of its Snuff. The PART_CLOSE came from block 1 (SEQ 512), to which a route leads and toward
which no credit is left. -/
def relayedClose : State :=
  { State.reset with
    boot := { State.reset.boot with stage := 2 }
    sec := { State.reset.sec with snuffPhase := 4, snuffPart := 1, snuffMb := 0, snuffSeq := 512 }
    cas := { State.reset.cas with master := true, routes := [(1, 8)] } }

/-- At the end of the Snuff the answer of the close waits for a credit of the cascade. -/
theorem relayedClose_answered : ∃ t, exec .snuffPhaseEnd relayedClose = .next t ∧ t.cas.pools.length = 1 :=
  ⟨_, rfl, by decide⟩

/-- Refutes O55: a close that another block of the cascade asked for is answered over the cascade at the end of the Snuff, so the registers
of the cascade change, which the frame of the clause on the release does not allow. -/
theorem not_snuffAndLayout : ¬ Obligations.SnuffAndLayout := by
  intro h
  obtain ⟨hsnuff, -⟩ := h
  obtain ⟨-, -, -, hrelease⟩ := hsnuff relayedClose (by decide)
  obtain ⟨t, ht, -, -, -, -, -, -, -, -, -, hframe⟩ := hrelease rfl
  obtain ⟨u, hu, hpools⟩ := relayedClose_answered
  obtain rfl : t = u := Host.Outcome.next.inj (ht.symm.trans hu)
  have hcas : t.cas = relayedClose.cas := hframe .cas (by decide)
  rw [hcas] at hpools
  exact absurd hpools (by decide)

end Sys2Proof.Machine
end

section
namespace Sys2Proof.Machine
open Sys2Proof

/-! # The release of a Kindle that another block asked for (R605, R606) -/

/-- An open master with a Kindle armed by a request of block 1 (SEQ 512), to which a route leads and toward which no credit is left; the
pulse that releases it has been received. -/
def relayedArm : State :=
  { State.reset with
    boot := { State.reset.boot with stage := 2 }
    det := { State.reset.det with kindle := 1, kindlePulse := some 1000, kindleMb := some 512 }
    cas := { State.reset.cas with master := true, routes := [(1, 8)] } }

/-- At the release the answer of the arm waits for a credit of the cascade. -/
theorem relayedArm_answered : ∃ t, exec .kindleRelease relayedArm = .next t ∧ t.cas.pools.length = 1 :=
  ⟨_, rfl, by decide⟩

/-- Refutes O59: an arm that another block of the cascade asked for is answered over the cascade at the release, so the registers of the
cascade change, which the frame of the clause on the release does not allow. -/
theorem not_timeGuarantees : ¬ Obligations.TimeGuarantees := by
  intro h
  obtain ⟨-, hkindle, -⟩ := h
  obtain ⟨-, hrelease⟩ := hkindle
  obtain ⟨harmed, -⟩ := hrelease relayedArm
  obtain ⟨t, ht, -, -, -, -, -, -, -, -, hframe⟩ := harmed 1016 rfl (by decide)
  obtain ⟨u, hu, hpools⟩ := relayedArm_answered
  obtain rfl : t = u := Host.Outcome.next.inj (ht.symm.trans hu)
  have hcas : t.cas = relayedArm.cas := hframe .cas (by decide)
  rw [hcas] at hpools
  exact absurd hpools (by decide)

end Sys2Proof.Machine
end

section
namespace Sys2Proof.Machine
open Sys2Proof

/-! # The completion of a withdrawal whose command has ended before it (R196, R197) -/

/-- The MAP_WITHDRAW of a context that was lost: its command has ended with CONTEXT_LOST while its withdrawal still drains. -/
def endedBeforeDrain : State :=
  { State.reset with
    lmp := { State.reset.lmp with cmds := [{ q := 0, seq := 0, st := .retire, status := .contextLost, words := [0x30] }] }
    lan := { State.reset.lan with wds := [{ kind := 2, src := .cmd 0 0 }], wdNext := 1 } }

/-- A completion that the block does not accept yet retires the command. -/
theorem endedBeforeDrain_retired : ∃ t, exec (.withdrawalComplete 0) endedBeforeDrain = .next t ∧ t.lmp.cmds.length = 0 := ⟨_, rfl, by decide⟩

/-- Refutes O43: a completion that the block does not accept yet still retires a command that has ended before its withdrawal, so that not
everything stays. -/
theorem not_withdrawalsAndFilters : ¬ Obligations.WithdrawalsAndFilters := by
  intro h
  obtain ⟨⟨-, -, hwaits⟩, -⟩ := h
  obtain ⟨t, ht, hsame⟩ := hwaits endedBeforeDrain { kind := 2, src := .cmd 0 0 } (by decide) (by decide)
  obtain ⟨u, hu, hcmds⟩ := endedBeforeDrain_retired
  obtain rfl : t = u := Host.Outcome.next.inj (ht.symm.trans hu)
  rw [hsame] at hcmds
  exact absurd hcmds (by decide)

end Sys2Proof.Machine
end

section
namespace Sys2Proof.Machine
open Sys2Proof

/-!
# A request at a quiet home (R207 to R214)

At a home where nothing waits, a request on a line that no cache has to answer for takes its tracker and its place, is served without a snoop,
and leaves its place in the same step.
-/

/-! ## What the records of a home say nothing of -/

theorem homeOf_hom (s : State) (h : Hom) (line : Nat) : homeOf { s with hom := h } line = homeOf s line := by
  have hn : ∀ n k, nextHome { s with hom := h } n k = nextHome s n k := by
    intro n
    induction n with
    | zero => intro k; rfl
    | succ n ih =>
      intro k
      simp only [nextHome, ih]
      rfl
  have hk : homeK { s with hom := h } line = homeK s line := rfl
  have hb : blocks { s with hom := h } = blocks s := rfl
  simp only [homeOf, hk, hn, hb]

theorem homeNo_hom (s : State) (h : Hom) : homeNo { s with hom := h } = homeNo s := by
  funext line
  rw [homeNo, homeNo, homeOf_hom]

theorem dirSet_hom (s : State) (h : Hom) : dirSet { s with hom := h } = dirSet s := by
  funext line
  rw [dirSet, dirSet, homeNo_hom]

theorem mayEvictDir_hom (s : State) (h : Hom) : mayEvictDir { s with hom := h } = mayEvictDir s := rfl

theorem stashAgent_hom (s : State) {h : Hom} (hc : h.cfg = s.hom.cfg) : stashAgent { s with hom := h } = stashAgent s := by
  funext r
  have hcach : ∀ a, isCaching { s with hom := h } a = isCaching s a := fun _ => rfl
  simp only [stashAgent, hcach, hc]
  rfl

theorem needsWay_hom (s : State) {h : Hom} (hc : h.cfg = s.hom.cfg) : needsWay { s with hom := h } = needsWay s := by
  funext r
  rw [needsWay, needsWay, stashAgent_hom s hc]

theorem setLines_hom (s : State) {h : Hom} (hc : h.cfg = s.hom.cfg) (hl : h.dirLru = s.hom.dirLru) (ht : h.txns = s.hom.txns) :
    setLines { s with hom := h } = setLines s := by
  funext line
  rw [setLines, setLines, dirSet_hom, needsWay_hom s hc]
  simp only [hl, ht]

theorem roomFor_hom (s : State) {h : Hom} (q : HomeReq) (hc : h.cfg = s.hom.cfg) (hd : h.dir = s.hom.dir) (hl : h.dirLru = s.hom.dirLru)
    (ht : h.txns = s.hom.txns) (hw : h.wick = s.hom.wick) : roomFor { s with hom := h } q = roomFor s q := by
  have hdir : ∀ l, dirOf { s with hom := h } l = dirOf s l := fun l => congrArg (tget · l) hd
  have htxn : ∀ l, txnOf { s with hom := h } l = txnOf s l := fun l => congrArg (tget · l) ht
  simp only [roomFor, setLines_hom s hc hl ht, mayEvictDir_hom, dirSet_hom, hdir, htxn, ht, hw]

/-- A request stands alone behind its line. -/
def turn (s : State) (q : HomeReq) : State := setWaiters (countAdmit s (homePart q)) q.line [q]

theorem turn_eq {s : State} (q : HomeReq) (hw : s.hom.waiters = []) :
    ∃ a b, turn s q = { s with hom := { s.hom with admitted := a, admittedNext := b, waiters := tset [] q.line [q] } } := by
  obtain ⟨a, b, h⟩ := countAdmit_eq s (homePart q)
  refine ⟨a, b, ?_⟩
  rw [turn, h, setWaiters, ← hw]

/-- A home is quiet for a request whatever its operation. -/
theorem homeQuiet_withOp {s : State} {r : HomeReq} {p : Nat} (h : HomeQuiet s r p) (op : HomeOp) : HomeQuiet s { r with op := op } p := by
  obtain ⟨hlive, hline, hw, hset, htxns, hrebal, hmoves, hmem, htrack, hap, hport, hhere⟩ := h
  have hfree : trackerFree s { r with op := op } = true := htrack
  exact ⟨hlive, hline, hw, hset, htxns, hrebal, hmoves, hmem, hfree, hap, hport, hhere⟩

/-- A home is quiet for a request whatever target it names. -/
theorem homeQuiet_withStash {s : State} {r : HomeReq} {p : Nat} (h : HomeQuiet s r p) (n : Nat) : HomeQuiet s { r with stash := n } p := by
  obtain ⟨hlive, hline, hw, hset, htxns, hrebal, hmoves, hmem, htrack, hap, hport, hhere⟩ := h
  have hfree : trackerFree s { r with stash := n } = true := htrack
  exact ⟨hlive, hline, hw, hset, htxns, hrebal, hmoves, hmem, hfree, hap, hport, hhere⟩

/-- A request that is no atomic and offers no stash that its target's mask refuses. -/
def PlainPlace (s : State) (q : HomeReq) : Prop := (∀ a, q.op ≠ .atomic a) ∧ (q.op = .wrStash → stashAllowed s q = true)

theorem place_plain {s : State} {q : HomeReq} (hset : s.hom.setWait = []) (htrack : trackerFree s q = true) (hhere : homeHere s q.line = true)
    (hq : PlainPlace s q) : place s q = retry (admitReq s q) := by
  have hmay : trackerMay s q = true := by simp [trackerMay, htrack, hset]
  have hstash : (q.op == .wrStash && !stashAllowed s q) = false := by
    by_cases h : q.op = .wrStash
    · simp [hq.2 h]
    · simp [h]
  have htake : takeTracker s q = retry (admitReq s q) := by rw [takeTracker, if_pos hmay]
  simp only [place, hhere, hstash, Bool.not_true, Bool.false_eq_true, if_false]
  split
  · next a ha => exact absurd ha (hq.1 a)
  · exact htake

/-- A stash that its target's mask refuses is placed as one without a target. -/
theorem place_stashRefused {s : State} {r : HomeReq} (hset : s.hom.setWait = []) (htrack : trackerFree s r = true) (hhere : homeHere s r.line = true)
    (hno : stashAllowed s r = false) : place s { r with op := .wrStash } = retry (admitReq s { r with op := .wrStash, stash := 0 }) := by
  have hmay : trackerMay s { r with op := .wrStash, stash := 0 } = true := by
    have hfree : trackerFree s { r with op := .wrStash, stash := 0 } = true := htrack
    simp [trackerMay, hfree, hset]
  have hrefused : stashAllowed s { r with op := .wrStash } = false := hno
  have htake : takeTracker s { r with op := .wrStash, stash := 0 } = retry (admitReq s { r with op := .wrStash, stash := 0 }) := by
    rw [takeTracker, if_pos hmay]
  simp only [place, hhere, hrefused, Bool.not_true, Bool.not_false, Bool.false_eq_true, if_false, beq_self_eq_true, Bool.and_self, if_true]
  exact htake

/-- The one request behind a line that can be served leaves its place. -/
theorem drain_one {x y : State} {q : HomeReq} (htxn : txnOf x q.line = none) (hmove : moveHolds x q.line = false)
    (hw : tget x.hom.waiters q.line = [q]) (hserve : tryServe x q = some y) : drain 1 x q.line = setWaiters y q.line [] := by
  simp only [drain, htxn, hmove, hw, hserve]
  rfl

theorem place1_served {s y : State} {q : HomeReq} (hw : s.hom.waiters = []) (htxns : s.hom.txns = [])
    (hmoves : ∀ e, e ∈ tsome s.tir.moves → e.2.step ≠ .withdraw) (hserve : tryServe (turn s q) q = some y) :
    place1 (countAdmit s (homePart q)) q = setWaiters y q.line [] := by
  have hdrain : place1 (countAdmit s (homePart q)) q = drain 1 (turn s q) q.line := by
    have hnone : tget (countAdmit s (homePart q)).hom.waiters q.line = [] := by rw [countAdmit_waiters, hw]; rfl
    rw [place1, hnone]
    rfl
  obtain ⟨a, b, hturn⟩ := turn_eq q hw
  rw [hdrain]
  refine drain_one ?_ ?_ ?_ hserve
  · rw [hturn]
    exact congrArg (tget · q.line) htxns
  · rw [hturn]
    exact moveHolds_quiet hmoves q.line
  · rw [hturn]
    exact tget_tset_self [] q.line [q]

/-- The state after a request that was served: its place is empty, and its credits are owed back. -/
def leftPlace (y : State) (q : HomeReq) : State := reqConsumed (setWaiters y q.line []) q

theorem leftPlace_frame (y : State) (q : HomeReq) : Frame [.hom, .eng, .hst] y (leftPlace y q) :=
  Frame.trans (hom_frame y _) (reqConsumed_frame _ q) (by decide) (by decide)

theorem leftPlace_hom (y : State) (q : HomeReq) : (leftPlace y q).hom = { y.hom with waiters := tset y.hom.waiters q.line [] } :=
  reqConsumed_frame (setWaiters y q.line []) q .hom (by decide)

@[simp] theorem dirOf_leftPlace (y : State) (q : HomeReq) (l : Nat) : dirOf (leftPlace y q) l = dirOf y l := by rw [dirOf, leftPlace_hom]; rfl

@[simp] theorem txnOf_leftPlace (y : State) (q : HomeReq) (l : Nat) : txnOf (leftPlace y q) l = txnOf y l := by rw [txnOf, leftPlace_hom]; rfl

theorem sentOrHeld_leftPlace (y : State) (q : HomeReq) (h : Nat) (m : OutMsg) : sentOrHeld (leftPlace y q) h m = sentOrHeld y h m := by
  rw [leftPlace, reqConsumed_sentOrHeld]
  rfl

/-- A served request leaves a home at which nothing waits. -/
theorem admitReq_served {s y : State} {q : HomeReq} (hw : s.hom.waiters = []) (htxns : s.hom.txns = [])
    (hmoves : ∀ e, e ∈ tsome s.tir.moves → e.2.step ≠ .withdraw) (hserve : tryServe (turn s q) q = some y)
    (hyw : y.hom.waiters = tset [] q.line [q]) (hys : y.hom.setWait = []) :
    retry (admitReq s q) = leftPlace y q := by
  have hadmit : admitReq s q = leftPlace y q := congrArg (reqConsumed · q) (place1_served hw htxns hmoves hserve)
  have hhom : (leftPlace y q).hom = (setWaiters y q.line []).hom := reqConsumed_frame _ _ .hom (by decide)
  rw [hadmit]
  refine retry_idle ?_ ?_ <;> rw [hhom]
  · exact (congrArg (tset · q.line []) hyw).trans (tset_leave _ _)
  · exact hys

/-! ## Service without a snoop -/

/-- The transaction of a request that awaits nobody. -/
def servedTxn (q : HomeReq) (e : DirEntry) : Txn := { req := some q, old := e.st }

/-- The request changes memory, as the heat of its page counts it. -/
def writesLine (q : HomeReq) : Bool := match q.op with
  | .wrFull | .wrPart | .wrStash | .atomic _ => true
  | _ => false

/-- The state in which a request is finished, from the one in which its turn came. -/
def openedFor (x : State) (q : HomeReq) : State := setTxn (heatTouch x q.line (writesLine q)) q.line (some (servedTxn q (dirOf x q.line)))

/-- Nobody has to be asked for a request, which is served as it came. -/
structure Alone (x : State) (q : HomeReq) : Prop where
  five : fifthPointer x q = false
  op : upgradeOp (dirOf x q.line) (servedOp x q) (holderNo q) = q.op
  snoops : ∀ fwd, snoopsFor q.op (dirOf x q.line) (holderNo q) fwd = []

theorem serve_alone {x : State} {q : HomeReq} (h : Alone x q) : serve x q = settle (openedFor x q) q.line := by
  simp only [serve, h.five, h.op, h.snoops, sendSnoops_none, Bool.false_eq_true, if_false, List.nil_append]
  rfl

theorem settle_openedFor (x : State) (q : HomeReq) :
    settle (openedFor x q) q.line = finishServe (openedFor x q) q.line (servedTxn q (dirOf x q.line)) q := by
  have htxn : txnOf (openedFor x q) q.line = some (servedTxn q (dirOf x q.line)) := txnOf_setTxn_self _ _ _
  simp only [settle, htxn]
  rfl

theorem tryServe_alone {x : State} {q : HomeReq} (h : Alone x q) (hr : x.ras.rebal = []) (hap : apertureSlot x (q.line * 128) = none)
    (hm : memStatus x q.line = .ok) (hway : needsWay x q = false ∨ roomFor x q = .ok) :
    tryServe x q = some (finishServe (openedFor x q) q.line (servedTxn q (dirOf x q.line)) q) := by
  rw [← settle_openedFor, ← serve_alone h]
  simp only [tryServe, sliceDown_quiet hr, hap, hm, h.op, Bool.false_eq_true, if_false, Option.isSome_none, Bool.false_and, bne_self_eq_false]
  rcases hway with hno | hroom
  · exact if_neg (by rw [hno]; decide)
  · rw [hroom]
    exact ite_self _

/-- A request on an Uncached line asks nobody. -/
theorem alone_uncached {x : State} {q : HomeReq} (hd : dirOf x q.line = {}) (hop : upgradeOp {} (servedOp x q) (holderNo q) = q.op)
    (hfive : fifthPointer x q = false) : Alone x q :=
  ⟨hfive, by rw [hd]; exact hop, fun fwd => by rw [hd]; exact snoopsFor_uncached _ _ _⟩

/-- Only a request of another node for a copy may need a fifth pointer (R550). -/
theorem fifthPointer_here (x : State) {q : HomeReq} (h : q.node = none) : fifthPointer x q = false := by
  simp only [fifthPointer, h]

theorem fifthPointer_plain (x : State) {q : HomeReq} (h : q.op ≠ .rdShared ∧ q.op ≠ .rdOwn ∧ q.op ≠ .upgrade) : fifthPointer x q = false := by
  obtain ⟨h1, h2, h3⟩ := h
  cases hn : q.node with
  | none => exact fifthPointer_here x hn
  | some n => simp [fifthPointer, hn, h1, h2, h3]

theorem servedOp_plain (x : State) {q : HomeReq} (h : q.op ≠ .rdShared ∧ q.op ≠ .rdOwn ∧ q.op ≠ .upgrade) : servedOp x q = q.op := by
  obtain ⟨h1, h2, h3⟩ := h
  simp [servedOp, h1, h2, h3]

theorem servedOp_caching {x : State} {q : HomeReq} (hn : q.node = none) (hc : isCaching x q.agent = true) : servedOp x q = q.op := by
  simp [servedOp, hn, hc]

theorem upgradeOp_ne {op : HomeOp} (h : op ≠ .upgrade) (e : DirEntry) (n : Nat) : upgradeOp e op n = op := if_neg h

/-! ## The state in which a request at a quiet home is finished -/

/-- Nothing of the owners of lines has changed, and the request stands alone behind its line. -/
structure OpenFor (s x : State) (q : HomeReq) : Prop where
  frame : Frame [.hom, .tir] s x
  owner : ∀ a, layoutOwner x a = layoutOwner s a
  waiters : x.hom.waiters = tset [] q.line [q]
  setWait : x.hom.setWait = []
  dir : ∀ l, dirOf x l = dirOf s l
  txns : ∀ l, l ≠ q.line → txnOf x l = none
  alu : x.hom.aluLines = s.hom.aluLines
  cfg : x.hom.cfg = s.hom.cfg
  stash : x.hom.stashDropped = s.hom.stashDropped

theorem openFor_openedFor {s : State} {q : HomeReq} (hw : s.hom.waiters = []) (hset : s.hom.setWait = []) (htxns : s.hom.txns = []) :
    OpenFor s (openedFor (turn s q) q) q := by
  obtain ⟨a, b, hturn⟩ := turn_eq q hw
  rw [hturn]
  generalize hh : ({ s.hom with admitted := a, admittedNext := b, waiters := tset [] q.line [q] } : Hom) = h
  have hheat := heatOnly_heatTouch { s with hom := h } q.line (writesLine q)
  have hhom : (heatTouch { s with hom := h } q.line (writesLine q)).hom = h := hheat.frame .hom (by decide)
  have htouched : ∃ w, (openedFor { s with hom := h } q).hom = { h with txns := tset h.txns q.line w } :=
    ⟨_, congrArg (fun k : Hom => { k with txns := tset k.txns q.line (some (servedTxn q (dirOf { s with hom := h } q.line))) }) hhom⟩
  obtain ⟨w, hopen⟩ := htouched
  refine ⟨?_, fun a => ?_, ?_, ?_, fun l => ?_, fun l hl => ?_, ?_, ?_, ?_⟩
  · exact (Frame.trans (hom_frame s h) hheat.frame (n := [.hom, .tir]) (by decide) (by decide)).andThen (setTxn_frame _ _ _) (by decide)
  · exact (hheat.layoutOwner_eq a).trans (layoutOwner_congr (s := s) rfl rfl a)
  · rw [hopen, ← hh]
  · rw [hopen, ← hh]
    exact hset
  · rw [dirOf, hopen, ← hh]
    rfl
  · rw [txnOf, hopen]
    refine (tget_tset_ne h.txns _ _ _ hl).trans ?_
    rw [← hh]
    exact congrArg (tget · l) htxns
  · rw [hopen, ← hh]
  · rw [hopen, ← hh]
  · rw [hopen, ← hh]

theorem OpenFor.rdLine_eq {s x : State} {q : HomeReq} (h : OpenFor s x q) (l : Nat) : rdLine x l = rdLine s l :=
  rdLine_congr h.frame (by decide) (h.owner _)

theorem OpenFor.linePois_eq {s x : State} {q : HomeReq} (h : OpenFor s x q) (l : Nat) : linePois x l = linePois s l :=
  linePois_congr (h.frame .memPois (by decide)) _

/-- A request at a quiet home that asks nobody is finished in the same step. -/
theorem admit_alone {s : State} {q : HomeReq} {p : Nat} (hq : HomeQuiet s q p) (halone : Alone (turn s q) q)
    (hway : needsWay s q = false ∨ roomFor s q = .ok) :
    ∃ x, OpenFor s x q ∧ ∀ y, finishServe x q.line (servedTxn q (dirOf s q.line)) q = y → y.hom.waiters = x.hom.waiters → y.hom.setWait = x.hom.setWait →
      retry (admitReq s q) = leftPlace y q := by
  obtain ⟨-, -, hw, hset, htxns, hrebal, hmoves, hmem, -, hap, -, -⟩ := hq
  have hopen := openFor_openedFor (q := q) hw hset htxns
  obtain ⟨a, b, hturn⟩ := turn_eq q hw
  have hroom : roomFor (turn s q) q = roomFor s q := by rw [hturn]; exact roomFor_hom s q rfl rfl rfl rfl rfl
  have hneeds : needsWay (turn s q) q = needsWay s q := by rw [hturn]; exact congrFun (needsWay_hom s rfl) q
  have hmem' : memStatus (turn s q) q.line = memStatus s q.line := by rw [hturn]; rfl
  have hap' : apertureSlot (turn s q) (q.line * 128) = apertureSlot s (q.line * 128) := by rw [hturn]; rfl
  have hdir : dirOf (turn s q) q.line = dirOf s q.line := by rw [hturn]; rfl
  have hserve := tryServe_alone halone (by rw [hturn]; exact hrebal) (hap'.trans hap) (hmem'.trans hmem) (by rw [hroom, hneeds]; exact hway)
  rw [hdir] at hserve
  refine ⟨_, hopen, fun y hy hyw hys => ?_⟩
  rw [hy] at hserve
  exact admitReq_served hw htxns hmoves hserve (hyw.trans hopen.waiters) (hys.trans hopen.setWait)

theorem place_alone {s : State} {q : HomeReq} {p : Nat} (hq : HomeQuiet s q p) (hplain : PlainPlace s q) (halone : Alone (turn s q) q)
    (hway : needsWay s q = false ∨ roomFor s q = .ok) :
    ∃ x, OpenFor s x q ∧ ∀ y, finishServe x q.line (servedTxn q (dirOf s q.line)) q = y → y.hom.waiters = x.hom.waiters → y.hom.setWait = x.hom.setWait →
      place s q = leftPlace y q := by
  obtain ⟨x, hx, hdone⟩ := admit_alone hq halone hway
  obtain ⟨-, -, -, hset, -, -, -, -, htrack, -, -, hhere⟩ := hq
  exact ⟨x, hx, fun y hy hyw hys => by rw [place_plain hset htrack hhere hplain, hdone y hy hyw hys]⟩

theorem dirOf_turn {s : State} {q : HomeReq} (hw : s.hom.waiters = []) (l : Nat) : dirOf (turn s q) l = dirOf s l := by
  obtain ⟨a, b, h⟩ := turn_eq q hw
  rw [h]
  rfl

/-- A request that asks for no copy is alone on an Uncached line. -/
theorem alone_plain {s : State} {q : HomeReq} (hw : s.hom.waiters = []) (hd : dirOf s q.line = {}) (hop : q.op ≠ .rdShared ∧ q.op ≠ .rdOwn ∧ q.op ≠ .upgrade) :
    Alone (turn s q) q :=
  alone_uncached ((dirOf_turn hw q.line).trans hd) (by rw [servedOp_plain _ hop]; exact upgradeOp_ne hop.2.2 _ _) (fifthPointer_plain _ hop)

/-! ## A read of memory for an answer (R637, R690) -/

theorem portOf_congr {s t : State} (h : t.cas = s.cas) (line : Nat) : portOf t line = portOf s line := by
  simp only [portOf, rangeOf, homeK, blocks, h]

/-- A read at a memory port of this block leaves its answer with the port. -/
theorem viaMemory_here {s : State} {line p : Nat} (h : portOf s line = some (s.cas.pos, p)) (a : Answer) :
    ReadFor (viaMemory s line [a]) p line a ∧ Frame [.mps, .cnt, .out] s (viaMemory s line [a]) := by
  have hmp : ∀ u f, Frame [.mps, .cnt, .out] u (updMp u p f) := fun u f => (updMp_frame u p f).mono (by decide)
  have hline : Frame [.mps, .cnt, .out] s (mpLine s p) := (mpLine_frame s p).mono (by decide)
  have hemit : ∀ u m, Frame [.mps, .cnt, .out] u (emit u (.mem p false m line)) := fun u m c hc => by cases c <;> first | exact absurd (by decide) hc | rfl
  simp only [viaMemory, h, ne_eq, not_true_eq_false, if_false]
  generalize htag : ((List.map (fun i => ((tget s.mps p).nextTag + i) % if p < 2 then 4096 else 1024) (List.range (if p < 2 then 4096 else 1024))).find?
    (fun k => !(tget s.mps p).reads.any (fun d => d.tag == k))).getD ((tget s.mps p).nextTag % if p < 2 then 4096 else 1024) = tag
  split
  · refine ⟨⟨{ tag := tag, line := line, cyc := s.clk.cyc, pois := linePois s line, ans := [a] }, ?_, rfl, rfl⟩, ?_⟩
    · show _ ∈ (tget (emit _ _).mps p).reads
      simp [emit, msgLink, updMp]
    · exact ((hline.andThen (hmp _ _) (fun _ => id)).andThen (hmp _ _) (fun _ => id)).andThen (hemit _ _) (fun _ => id)
  · refine ⟨⟨{ tag := tag, line := line, cyc := s.clk.cyc, pois := linePois s line, ans := [a] }, ?_, rfl, rfl⟩, ?_⟩
    · simp [updMp]
    · exact (hline.andThen (hmp _ _) (fun _ => id)).andThen (hmp _ _) (fun _ => id)

end Sys2Proof.Machine
end

section
namespace Sys2Proof.Machine
open Sys2Proof

/-! # Reads of an Uncached line at a quiet home (R209, R210, R214) -/

/-- The answer with the data of a line is on its way through the line's memory port, and the read is counted. -/
def readAns (x : State) (q : HomeReq) (k : AnsKind) : State :=
  viaMemory (tenant x (homePart q) 3) q.line [dataAns q k (rdLine x q.line) (linePois x q.line)]

theorem readAns_port {x : State} {q : HomeReq} {p : Nat} (k : AnsKind) (h : portOf x q.line = some (x.cas.pos, p)) :
    ReadFor (readAns x q k) p q.line (dataAns q k (rdLine x q.line) (linePois x q.line)) ∧ Frame [.mps, .cnt, .out] x (readAns x q k) := by
  have hten := (tenant_frame x (homePart q) 3 1).mono (m := [.mps, .cnt, .out]) (by decide)
  have hport : portOf (tenant x (homePart q) 3) q.line = some ((tenant x (homePart q) 3).cas.pos, p) := by
    rw [portOf_congr (hten .cas (by decide)), show (tenant x (homePart q) 3).cas = x.cas from hten .cas (by decide), h]
  obtain ⟨hread, hframe⟩ := viaMemory_here hport (dataAns q k (rdLine x q.line) (linePois x q.line))
  exact ⟨hread, hten.andThen hframe (fun _ => id)⟩

/-- Data that the atomic buffer does not hold comes through the port, which logs its poison there. -/
theorem answer_read {x : State} {q : HomeReq} {p : Nat} (k : AnsKind) (halu : q.line ∉ x.hom.aluLines) (h : portOf x q.line = some (x.cas.pos, p)) :
    answer (tenant (logRead x q.line (linePois x q.line) true) (homePart q) 3) q.line true [dataAns q k (rdLine x q.line) (linePois x q.line)] =
      readAns x q k := by
  have hbuf : x.hom.aluLines.contains q.line = false := by simpa using halu
  have hvia : viaPort x q.line true = true := by simp [viaPort, halu, h]
  have hten : (tenant x (homePart q) 3).hom = x.hom := tenant_frame x (homePart q) 3 1 .hom (by decide)
  rw [logRead, if_pos hvia, answer, hten, hbuf]
  rfl

theorem finishServe_rdOnce {x : State} {q : HomeReq} {p : Nat} (hop : q.op = .rdOnce) (hd : dirOf x q.line = {}) (halu : q.line ∉ x.hom.aluLines)
    (h : portOf x q.line = some (x.cas.pos, p)) :
    finishServe x q.line (servedTxn q {}) q = setTxn (setDir (readAns x q .dataOnce) q.line {}) q.line none := by
  have hstatus : (servedTxn q {}).status = .ok := rfl
  have hdata : (servedTxn q {}).data = none := rfl
  simp only [finishServe, hstatus, hop, hd, txnLine, hdata, Option.isNone_none, answer_read .dataOnce halu h, ne_eq, not_true_eq_false, if_false]
  rfl

/-- The transaction of a line that was granted to a requester whose ACK is awaited. -/
def grantedTxn (q : HomeReq) (e : DirEntry) : Txn :=
  { servedTxn q e with grant := .owned q.agent, ackFrom := some (q.agent, q.tag), win := true }

theorem finishServe_copy {x : State} {q : HomeReq} {p : Nat} (hop : q.op = .rdShared ∨ q.op = .rdOwn) (hn : q.node = none)
    (halu : q.line ∉ x.hom.aluLines) (h : portOf x q.line = some (x.cas.pos, p)) :
    finishServe x q.line (servedTxn q {}) q = setTxn (readAns x q .dataCE) q.line (some (grantedTxn q {})) := by
  have hstatus : (servedTxn q {}).status = .ok := rfl
  have hdata : (servedTxn q {}).data = none := rfl
  have hfwd : (servedTxn q {}).fwded = false := rfl
  have hold : (servedTxn q {}).old = .unc := rfl
  have hagent : reqAgent q = q.agent := by rw [reqAgent, hn]; rfl
  rcases hop with hop | hop
  · simp only [finishServe, hstatus, hop, hn, hfwd, hold, txnLine, hdata, Option.isNone_none, Option.isSome_none, answer_read .dataCE halu h, ne_eq,
      not_true_eq_false, if_false, if_true, Bool.false_eq_true]
    rfl
  · simp only [finishServe, hstatus, hop, hagent, txnLine, hdata, Option.isNone_none, Option.isSome_none, Bool.false_and, answer_read .dataCE halu h, ne_eq,
      not_true_eq_false, if_false, Bool.false_eq_true]
    rfl

/-- What holds of the requester's line and of the others after a read at a quiet home that was finished. -/
theorem placed_port {s x : State} {q : HomeReq} {p : Nat} (hq : HomeQuiet s q p) (hx : OpenFor s x q) : portOf x q.line = some (x.cas.pos, p) := by
  obtain ⟨-, -, -, -, -, -, -, -, -, -, hport, -⟩ := hq
  rw [portOf_congr (hx.frame .cas (by decide)), show x.cas = s.cas from hx.frame .cas (by decide), hport]

theorem readFor_of_frame {l : List Comp} {t u : State} {p line : Nat} {a : Answer} (h : ReadFor t p line a) (hf : Frame l t u) (hl : Comp.mps ∉ l) :
    ReadFor u p line a := by
  have hmps : u.mps = t.mps := hf .mps hl
  rwa [ReadFor, hmps]

/-- What a finished read leaves: the read outstanding at the port, and only records of the homes, the ports and the heat changed, before the
credits of the request are owed back. -/
structure ReadOpen (s y : State) (q : HomeReq) (p : Nat) (k : AnsKind) : Prop where
  read : ReadFor y p q.line (dataAns q k (rdLine s q.line) (linePois s q.line))
  frame : Frame [.hom, .tir, .mps, .cnt, .out] s y

theorem readOpen_readAns {s x y : State} {q : HomeReq} {p : Nat} (k : AnsKind) (hx : OpenFor s x q) (hport : portOf x q.line = some (x.cas.pos, p))
    (hy : Frame [.hom] (readAns x q k) y) : ReadOpen s y q p k := by
  obtain ⟨hread, hframe⟩ := readAns_port k hport
  rw [hx.rdLine_eq, hx.linePois_eq] at hread
  exact ⟨readFor_of_frame hread hy (by decide), ((hx.frame.mono (by decide)).andThen hframe (by decide)).andThen hy (by decide)⟩

theorem needsWay_rdOnce (s : State) {q : HomeReq} (h : q.op = .rdOnce) : needsWay s q = false := by simp [needsWay, h]

/-- RD_ONCE at a quiet home: the data goes to the requester, and no entry changes. -/
theorem place_rdOnce {s : State} {r : HomeReq} {p : Nat} (hq : HomeQuiet s r p) (hd : dirOf s r.line = {}) (halu : r.line ∉ s.hom.aluLines) :
    ∃ y, place s { r with op := .rdOnce } = leftPlace y { r with op := .rdOnce } ∧ ReadOpen s y { r with op := .rdOnce } p .dataOnce ∧
      (∀ l, txnOf y l = none) ∧ ∀ l, dirOf y l = dirOf s l := by
  generalize hqr : ({ r with op := .rdOnce } : HomeReq) = q
  have hop : q.op = .rdOnce := by rw [← hqr]
  have hline : q.line = r.line := by rw [← hqr]
  have hquiet : HomeQuiet s q p := by rw [← hqr]; exact homeQuiet_withOp hq _
  rw [← hline] at hd halu
  obtain ⟨-, -, hw, -, -, -, -, -, -, -, -, -⟩ := id hq
  have hplain : PlainPlace s q := by rw [PlainPlace, hop]; exact ⟨fun a => by simp, by simp⟩
  have hnocopy : q.op ≠ .rdShared ∧ q.op ≠ .rdOwn ∧ q.op ≠ .upgrade := by rw [hop]; decide
  obtain ⟨x, hx, hdone⟩ := place_alone hquiet hplain (alone_plain hw hd hnocopy) (.inl (needsWay_rdOnce s hop))
  have hport := placed_port hquiet hx
  obtain ⟨-, hread⟩ := readAns_port .dataOnce hport
  have hrhom : (readAns x q .dataOnce).hom = x.hom := hread .hom (by decide)
  rw [hd] at hdone
  refine ⟨_, hdone _ (finishServe_rdOnce hop ((hx.dir _).trans hd) (hx.alu ▸ halu) hport) ?_ ?_, ?_, fun l => ?_, fun l => ?_⟩
  · show (readAns x q .dataOnce).hom.waiters = _
    rw [hrhom]
  · show (readAns x q .dataOnce).hom.setWait = _
    rw [hrhom]
  · exact readOpen_readAns _ hx hport ((setDir_frame _ _ _).andThen (setTxn_frame _ _ _) (by decide))
  · by_cases hl : l = q.line
    · rw [hl, txnOf_setTxn_self]
    · rw [txnOf_setTxn_ne _ _ _ _ hl]
      show txnOf (readAns x q .dataOnce) l = none
      rw [txnOf, hrhom]
      exact hx.txns l hl
  · show dirOf (setDir (readAns x q .dataOnce) q.line {}) l = _
    by_cases hl : l = q.line
    · rw [hl, dirOf_setDir_self, hd]
      rfl
    · rw [dirOf_setDir_ne _ _ _ _ hl, dirOf, hrhom]
      exact hx.dir l

/-- RD_SHARED and RD_OWN of a caching agent at a quiet home: the data goes to it in CE, and the line is Blocked until its ACK. -/
theorem place_copy {s : State} {r : HomeReq} {p : Nat} {op : HomeOp} (hq : HomeQuiet s r p) (hop : op = .rdShared ∨ op = .rdOwn) (hd : dirOf s r.line = {})
    (halu : r.line ∉ s.hom.aluLines) (hn : r.node = none) (hc : isCaching s r.agent = true) (hroom : roomFor s r = .ok) :
    ∃ y, place s { r with op := op } = leftPlace y { r with op := op } ∧ ReadOpen s y { r with op := op } p .dataCE ∧ Granted y r (.owned r.agent) ∧
      ∀ l, dirOf y l = dirOf s l := by
  have hroom' : roomFor s { r with op := op } = .ok := hroom
  generalize hqr : ({ r with op := op } : HomeReq) = q at hroom' ⊢
  have hqop : q.op = op := by rw [← hqr]
  have hline : q.line = r.line := by rw [← hqr]
  have hagent : q.agent = r.agent := by rw [← hqr]
  have htag : q.tag = r.tag := by rw [← hqr]
  have hqn : q.node = none := by rw [← hqr]; exact hn
  have hquiet : HomeQuiet s q p := by rw [← hqr]; exact homeQuiet_withOp hq _
  rw [← hline] at hd halu
  obtain ⟨-, -, hw, -, -, -, -, -, -, -, -, -⟩ := id hq
  have hplain : PlainPlace s q := by
    rw [PlainPlace, hqop]
    rcases hop with rfl | rfl <;> exact ⟨fun a => by simp, by simp⟩
  have hcach : isCaching (turn s q) q.agent = true := by
    obtain ⟨a, b, hturn⟩ := turn_eq q hw
    rw [hturn, hagent]
    exact hc
  have halone : Alone (turn s q) q := by
    refine alone_uncached ((dirOf_turn hw q.line).trans hd) ?_ (fifthPointer_here _ hqn)
    rw [servedOp_caching hqn hcach, hqop]
    rcases hop with rfl | rfl <;> rfl
  obtain ⟨x, hx, hdone⟩ := place_alone hquiet hplain halone (.inr hroom')
  have hport := placed_port hquiet hx
  obtain ⟨-, hread⟩ := readAns_port .dataCE hport
  have hrhom : (readAns x q .dataCE).hom = x.hom := hread .hom (by decide)
  rw [hd] at hdone
  refine ⟨_, hdone _ (finishServe_copy (hqop ▸ hop) hqn (hx.alu ▸ halu) hport) ?_ ?_, ?_, ?_, fun l => ?_⟩
  · show (readAns x q .dataCE).hom.waiters = _
    rw [hrhom]
  · show (readAns x q .dataCE).hom.setWait = _
    rw [hrhom]
  · exact readOpen_readAns _ hx hport (setTxn_frame _ _ _)
  · exact ⟨grantedTxn q {}, by rw [← hline, txnOf_setTxn_self], by rw [← hagent]; rfl, by rw [← hagent, ← htag]; rfl⟩
  · show dirOf (readAns x q .dataCE) l = _
    rw [dirOf, hrhom]
    exact hx.dir l

end Sys2Proof.Machine
end

section
namespace Sys2Proof.Machine
open Sys2Proof

/-! # An upgrade of the only sharer, and reads of the decode aperture (R209, R396) -/

/-- A number below 24 as the only one of a vector of agents. -/
theorem vecAgents_agentsVec : ∀ a < 24, vecAgents (agentsVec [a]) = [a] := by decide +kernel

theorem holders_sole {a : Nat} (h : a < 24) : holders { st := .shared (agentsVec [a]) } = [a] := by
  simp [holders, vecAgents_agentsVec a h]

/-- The only sharer of a line asks nobody for it. -/
theorem alone_upgrade {x : State} {q : HomeReq} (hop : q.op = .upgrade) (hd : dirOf x q.line = { st := .shared (agentsVec [q.agent]) }) (ha : q.agent < 24)
    (hn : q.node = none) (hc : isCaching x q.agent = true) : Alone x q := by
  have hno : holderNo q = q.agent := by rw [holderNo, hn]
  refine ⟨fifthPointer_here x hn, ?_, fun fwd => ?_⟩
  · rw [servedOp_caching hn hc, hop, hd, hno, upgradeOp, if_pos rfl]
    simp [holders_sole ha]
  · rw [hop, hd, hno]
    simp [snoopsFor, holders_sole ha]

theorem roomFor_listed {s : State} {q : HomeReq} (h : dirOf s q.line ≠ {}) : roomFor s q = .ok := by
  simp [roomFor, h]

theorem finishServe_upgrade {x : State} {q : HomeReq} (hop : q.op = .upgrade) (hn : q.node = none) (e : DirEntry) :
    finishServe x q.line (servedTxn q e) q = setTxn (deliverAll x [ansOf q .comp .ok 0 0]) q.line (some (grantedTxn q e)) := by
  have hstatus : (servedTxn q e).status = .ok := rfl
  have hagent : reqAgent q = q.agent := by rw [reqAgent, hn]; rfl
  simp only [finishServe, hstatus, hop, hagent, ne_eq, not_true_eq_false, if_false]
  rfl

/-- The completion of a request reaches the station that sent it, or waits at its link. -/
theorem outTo_answered {x y : State} {q : HomeReq} {h : Nat} {a : Answer} (ho : a.origin = .host h) (hup : hostUp x h = true)
    (hy : Frame [.hom] (deliverAll x [a]) y) : OutTo (leftPlace y q) h (.ans a) := by
  refine outTo_of_sentOrHeld ?_
  rw [sentOrHeld_leftPlace, sentOrHeld_of_frame hy (by decide), deliverAll_host_sent [a] (fun b hb => (List.mem_singleton.mp hb) ▸ ho) hup]
  simp

theorem delivered_comp (x : State) (q : HomeReq) (st : Status) : Delivered x (deliverAll x [ansOf q .comp st 0 0]) :=
  delivered_deliverAll x _ (fun a ha => by
    rw [List.getLast?_singleton, Option.mem_some_iff] at ha
    rw [← ha]
    rfl)

/-- UPGRADE of the only sharer at a quiet home: it is granted without data. -/
theorem place_upgrade {s : State} {r : HomeReq} {p : Nat} (hq : HomeQuiet s r p) (hd : dirOf s r.line = { st := .shared (agentsVec [r.agent]) })
    (ha : r.agent < 24) (hn : r.node = none) (hc : isCaching s r.agent = true) :
    Granted (place s { r with op := .upgrade }) r (.owned r.agent) ∧
      (∀ h, r.origin = .host h → hostUp s h = true → OutTo (place s { r with op := .upgrade }) h (.ans (ansOf r .comp .ok 0 0))) ∧
      Frame homeReadComps s (place s { r with op := .upgrade }) := by
  have hans : ansOf r .comp .ok 0 0 = ansOf { r with op := .upgrade } .comp .ok 0 0 := rfl
  rw [hans]
  have hgr : ∀ t, Granted t { r with op := .upgrade } (.owned r.agent) → Granted t r (.owned r.agent) := fun _ h => h
  have horigin : ({ r with op := .upgrade } : HomeReq).origin = r.origin := rfl
  generalize hqr : ({ r with op := .upgrade } : HomeReq) = q at hans horigin hgr ⊢
  have hqop : q.op = .upgrade := by rw [← hqr]
  have hline : q.line = r.line := by rw [← hqr]
  have hagent : q.agent = r.agent := by rw [← hqr]
  have hqn : q.node = none := by rw [← hqr]; exact hn
  have hquiet : HomeQuiet s q p := by rw [← hqr]; exact homeQuiet_withOp hq _
  rw [← hline, ← hagent] at hd
  rw [← hagent] at ha hc hgr ⊢
  obtain ⟨-, -, hw, -, -, -, -, -, -, -, -, -⟩ := id hq
  have hplain : PlainPlace s q := by
    rw [PlainPlace, hqop]
    exact ⟨fun a => by simp, by simp⟩
  have hcach : isCaching (turn s q) q.agent = true := by
    obtain ⟨a, b, hturn⟩ := turn_eq q hw
    rw [hturn]
    exact hc
  have hroom : roomFor s q = .ok := roomFor_listed (by rw [hd]; simp)
  obtain ⟨x, hx, hdone⟩ := place_alone hquiet hplain (alone_upgrade hqop ((dirOf_turn hw q.line).trans hd) ha hqn hcach) (.inr hroom)
  obtain ⟨hdel, fresh, hfresh⟩ := delivered_comp x q .ok
  rw [hdone _ (finishServe_upgrade hqop hqn _) (by show (deliverAll _ _).hom.waiters = _; rw [hfresh]) (by show (deliverAll _ _).hom.setWait = _; rw [hfresh])]
  refine ⟨hgr _ ⟨grantedTxn q (dirOf s q.line), ?_, rfl, rfl⟩, fun h ho hup => ?_, ?_⟩
  · rw [txnOf_leftPlace, txnOf_setTxn_self]
  · exact outTo_answered (horigin.trans ho) ((hostUp_of_frame hx.frame (by decide) h).trans hup) (setTxn_frame _ _ _)
  · exact (((hx.frame.mono (m := homeReadComps) (by decide)).andThen hdel (by decide)).andThen (setTxn_frame _ _ _) (by decide)).andThen
      (leftPlace_frame _ _) (by decide)

/-! ## The decode aperture -/

/-- An answer reaches a requester outside the block: no operation of the block takes its data. -/
theorem delivered_notOwn (s : State) {a : Answer} (hk : ∀ k, a.origin ≠ .own k) : Delivered s (deliver s true a) := by
  have hsent : Delivered s (emit s (.ans a)) := .of_frame (emit_frame s _) (by decide) (by decide)
  unfold deliver
  cases ho : a.origin with
  | host h => exact hsent.trans (.of_frame (latClose_frame _ h a true) (by decide) (by decide))
  | cascade p => exact hsent
  | relay => exact .refl s
  | block b n => exact .of_frame (casSend_frame s _) (by decide) (by decide)
  | own k => exact absurd ho (hk k)
  | dp p => exact .of_frame (updPage_frame s p _) (by decide) (by decide)
  | det w => exact delivered_ite _ (.of_frame (det_frame s _) (by decide) (by decide)) (.refl s)
  | cmd q n => exact .of_frame (cmdAnswered_frame s q n _) (by decide) (by decide)
  | eng n b => exact hsent.trans (.of_frame (engLineDone_frame _ n b _) (by decide) (by decide))
  | mover c d g =>
    exact delivered_ite _ (.of_frame (updChan_frame s c _) (by decide) (by decide)) (.of_frame (updChan_frame s c _) (by decide) (by decide))
  | span k =>
    dsimp only
    split
    · exact .refl s
    · next i _ =>
      have hnode : Delivered s (toNode s i.node (.ans i.node i.pos i.tag a.kind a.status a.data a.poison)) :=
        .of_frame (toNode_frame s _ _) (by decide) (by decide)
      exact hnode.trans (.of_frame (spn_frame _ _) (by decide) (by decide))

theorem rdBytes_hom (s : State) (h : Hom) : rdBytes { s with hom := h } = rdBytes s := rfl

theorem emberLine_hom (s : State) (h : Hom) : emberLine { s with hom := h } = emberLine s := by
  have hpois : bytesPois { s with hom := h } = bytesPois s := rfl
  funext k e i
  simp only [emberLine, emberElem, memBits, rdBytes_hom, hpois]

/-- A read of the aperture is counted, and a poisoned ember is an error and an interrupt. -/
def apertureRead (x : State) (p : Nat) : State :=
  let t := count { x with tir := { x.tir with decodeReads := satAdd 48 x.tir.decodeReads 1 } } pTIR 4
  if p ≠ 0 then raise t pTIR 3 else t

theorem apertureData_shown {x : State} {line sl k : Nat} {e : Heat} (hf : fenced x pTIR = false) (hsl : apertureSlot x (line * 128) = some sl)
    (he : emberOfSlot x sl = some (k, e)) :
    apertureData x line = (apertureRead x (emberLine x k e (line % 32768)).2, emberLine x k e (line % 32768)) := by
  rw [apertureData, if_neg (by rw [hf]; decide), hsl]
  dsimp only
  rw [he]
  rfl

/-- An error that is not fatal: its interrupts change no link's stage, and no mailbox hears of it. -/
structure LoggedOnly (s t : State) : Prop where
  frame : Frame [.pages, .cnt, .ras, .hst, .out] s t
  up : ∀ h, hostUp t h = hostUp s h

theorem LoggedOnly.trans {s t u : State} (h : LoggedOnly s t) (g : LoggedOnly t u) : LoggedOnly s u :=
  ⟨h.frame.andThen g.frame (fun _ => id), fun k => (g.up k).trans (h.up k)⟩

theorem loggedOnly_raise (s : State) (p b : Nat) : LoggedOnly s (raise s p b) :=
  ⟨(raise_hostFrame s p b).mono (by decide), hostUp_raise s p b⟩

theorem loggedOnly_mk (s : State) (ras : Ras) : LoggedOnly s { s with ras := ras } :=
  ⟨by intro c hc; cases c <;> first | exact absurd (by decide) hc | rfl, fun _ => rfl⟩

theorem loggedOnly_count (s : State) (page ev part inst n : Nat) : LoggedOnly s (count s page ev part inst n) :=
  ⟨(count_frame s page ev part inst n).mono (by decide), fun h => hostUp_of_frame (count_frame s page ev part inst n) (by decide) h⟩

theorem loggedOnly_rasTotal (s : State) {c : ErrClass} (hc : c ≠ .fatal) : LoggedOnly s (rasTotal s c) := by
  have hcounted : ∀ ras ev, LoggedOnly s (count { s with ras := ras } pRAS ev) := fun ras ev => (loggedOnly_mk s ras).trans (loggedOnly_count _ _ _ _ _ _)
  cases c with
  | none => exact loggedOnly_mk s s.ras
  | ce =>
    rw [rasTotal]
    dsimp only
    split
    · exact (hcounted _ _).trans (loggedOnly_raise _ _ _)
    · exact hcounted _ _
  | ueData => exact (hcounted _ _).trans (loggedOnly_raise _ _ _)
  | ueUnit => exact (hcounted _ _).trans (loggedOnly_raise _ _ _)
  | protocol => exact hcounted _ _
  | fatal => exact absurd rfl hc

theorem loggedOnly_logErr (s : State) {c : ErrClass} (hc : c ≠ .fatal) (st : Status) (page index part : Nat) (addr : Option Nat) (va : Bool) :
    LoggedOnly s (logErr s c st page index part addr va) := by
  unfold logErr
  extract_lets r full ras t ras' u t'
  have ht : LoggedOnly s t := loggedOnly_mk s _
  have hlost : LoggedOnly t t' := by
    dsimp only [t']
    clear_value t full
    split
    · have hcount := (loggedOnly_mk t { t.ras with logLost := satAdd 32 t.ras.logLost 1 }).trans (loggedOnly_count _ pRAS 0 0x3FF 0xFFF 1)
      split
      · exact hcount.trans (loggedOnly_raise _ _ _)
      · exact hcount
    · exact loggedOnly_mk t t.ras
  exact (ht.trans hlost).trans (loggedOnly_rasTotal _ hc)

theorem apertureRead_ends (x : State) (p : Nat) : Frame [.pages, .cnt, .hst, .tir, .out] x (apertureRead x p) ∧
    (apertureRead x p).tir.decodeReads = satAdd 48 x.tir.decodeReads 1 ∧ ∀ h, hostUp (apertureRead x p) h = hostUp x h := by
  let u := count { x with tir := { x.tir with decodeReads := satAdd 48 x.tir.decodeReads 1 } } pTIR 4
  have hu : Frame [.pages, .cnt, .hst, .tir, .out] x u := by intro c hc; cases c <;> first | exact absurd (by decide) hc | rfl
  show Frame _ x (if p ≠ 0 then raise u pTIR 3 else u) ∧ (if p ≠ 0 then raise u pTIR 3 else u).tir.decodeReads = _ ∧
    ∀ h, hostUp (if p ≠ 0 then raise u pTIR 3 else u) h = hostUp x h
  split
  · exact ⟨Frame.into ((raise_hostFrame u pTIR 3).mono (m := [.pages, .cnt, .hst, .tir, .out]) (by decide)) rfl hu,
      congrArg Tir.decodeReads (raise_frame u pTIR 3 .tir (by decide)), fun h => hostUp_raise u pTIR 3 h⟩
  · exact ⟨hu, rfl, fun h => rfl⟩

theorem loggedOnly_logPoison (s : State) (line p : Nat) : LoggedOnly s (logPoison s line p) := by
  unfold logPoison
  split
  · exact loggedOnly_mk s s.ras
  · exact loggedOnly_logErr s (by decide) _ _ _ _ _ _

/-- The state in which the answer of an aperture read is delivered. -/
def apertureTold (x : State) (q : HomeReq) (p : Nat) : State := tenant (logPoison (apertureRead x p) q.line p) (homePart q) 3

theorem apertureTold_ends (x : State) (q : HomeReq) (p : Nat) : Frame [.pages, .cnt, .ras, .hst, .tir, .out] x (apertureTold x q p) ∧
    (apertureTold x q p).tir.decodeReads = satAdd 48 x.tir.decodeReads 1 ∧ ∀ h, hostUp (apertureTold x q p) h = hostUp x h := by
  obtain ⟨hr, hn, hup⟩ := apertureRead_ends x p
  obtain ⟨hl, hup'⟩ := loggedOnly_logPoison (apertureRead x p) q.line p
  have hten := tenant_frame (logPoison (apertureRead x p) q.line p) (homePart q) 3 1
  have htir : (apertureTold x q p).tir = (apertureRead x p).tir := (hten .tir (by decide)).trans (hl .tir (by decide))
  refine ⟨((hr.mono (by decide)).andThen hl (by decide)).andThen hten (by decide), by rw [htir, hn], fun h => ?_⟩
  rw [apertureTold, hostUp_of_frame hten (by decide), hup', hup]

theorem tryServe_aperture {x : State} {q : HomeReq} {sl k : Nat} {e : Heat} (hr : x.ras.rebal = []) (hop : q.op = .rdOnce) (hf : fenced x pTIR = false)
    (hsl : apertureSlot x (q.line * 128) = some sl) (he : emberOfSlot x sl = some (k, e)) :
    tryServe x q = some (deliverAll (apertureTold x q (emberLine x k e (q.line % 32768)).2)
      [dataAns q .dataOnce (emberLine x k e (q.line % 32768)).1 (emberLine x k e (q.line % 32768)).2]) := by
  rw [tryServe, if_neg (by rw [sliceDown_quiet hr]; decide), if_pos (by rw [hsl, hop]; rfl), apertureData_shown hf hsl he]
  rfl

/-- A read of the decode aperture at a quiet home. -/
theorem place_aperture {s : State} {r : HomeReq} {sl k : Nat} {e : Heat} (hw : s.hom.waiters = []) (hset : s.hom.setWait = []) (htxns : s.hom.txns = [])
    (hrebal : s.ras.rebal = []) (hmoves : ∀ e, e ∈ tsome s.tir.moves → e.2.step ≠ .withdraw) (htrack : trackerFree s r = true)
    (hhere : homeHere s r.line = true) (hown : ∀ k, r.origin ≠ .own k) (hsl : apertureSlot s (r.line * 128) = some sl) (hf : fenced s pTIR = false)
    (he : emberOfSlot s sl = some (k, e)) :
    (place s { r with op := .rdOnce }).tir.decodeReads = satAdd 48 s.tir.decodeReads 1 ∧
      (∀ h, r.origin = .host h → hostUp s h = true → OutTo (place s { r with op := .rdOnce }) h
        (.ans (dataAns r .dataOnce (emberLine s k e (r.line % 32768)).1 (emberLine s k e (r.line % 32768)).2))) ∧
      Frame homeReadComps s (place s { r with op := .rdOnce }) := by
  have hans : ∀ d p, dataAns r .dataOnce d p = dataAns { r with op := .rdOnce } .dataOnce d p := fun _ _ => rfl
  have hfree : trackerFree s { r with op := .rdOnce } = true := htrack
  have hop : ({ r with op := .rdOnce } : HomeReq).op = .rdOnce := rfl
  rw [hans]
  have horigin : ({ r with op := .rdOnce } : HomeReq).origin = r.origin := rfl
  have hline : ({ r with op := .rdOnce } : HomeReq).line = r.line := rfl
  generalize ({ r with op := .rdOnce } : HomeReq) = q at hfree hop hline horigin ⊢
  rw [← hline] at hhere hsl ⊢
  rw [← horigin] at hown ⊢
  have hplain : PlainPlace s q := by
    rw [PlainPlace, hop]
    exact ⟨fun a => by simp, by simp⟩
  obtain ⟨a, b, hturn⟩ := turn_eq q hw
  have hfT : fenced (turn s q) pTIR = false := by rw [hturn]; exact hf
  have hslT : apertureSlot (turn s q) (q.line * 128) = some sl := (congrArg (apertureSlot · _) hturn).trans hsl
  have heT : emberOfSlot (turn s q) sl = some (k, e) := by rw [hturn]; exact he
  have hline : emberLine (turn s q) = emberLine s := by rw [hturn]; exact emberLine_hom s _
  have hserve := tryServe_aperture (x := turn s q) (by rw [hturn]; exact hrebal) hop hfT hslT heT
  have hframe : Frame [.hom] s (turn s q) := by rw [hturn]; exact hom_frame s _
  have hreads : (turn s q).tir = s.tir := hframe .tir (by decide)
  have hwaiters : (turn s q).hom.waiters = tset [] q.line [q] := congrArg (fun t : State => t.hom.waiters) hturn
  have hsets : (turn s q).hom.setWait = [] := (congrArg (fun t : State => t.hom.setWait) hturn).trans hset
  rw [hline] at hserve
  generalize emberLine s k e (q.line % 32768) = d at hserve ⊢
  obtain ⟨htold, hcount, hups⟩ := apertureTold_ends (turn s q) q d.2
  obtain ⟨hdel, fresh, hfresh⟩ := delivered_notOwn (apertureTold (turn s q) q d.2) (a := dataAns q .dataOnce d.1 d.2) hown
  have hhom : (apertureTold (turn s q) q d.2).hom = (turn s q).hom := htold .hom (by decide)
  have hplace : place s q = leftPlace (deliverAll (apertureTold (turn s q) q d.2) [dataAns q .dataOnce d.1 d.2]) q := by
    rw [place_plain hset hfree hhere hplain]
    refine admitReq_served hw htxns hmoves hserve ?_ ?_
    · show (deliver _ true _).hom.waiters = _
      rw [hfresh]
      exact (congrArg Hom.waiters hhom).trans hwaiters
    · show (deliver _ true _).hom.setWait = _
      rw [hfresh]
      exact (congrArg Hom.setWait hhom).trans hsets
  rw [hplace]
  have hrest := hdel.andThen (leftPlace_frame _ q) (by decide)
  refine ⟨?_, fun h ho hup => ?_, ?_⟩
  · exact (congrArg Tir.decodeReads (hrest .tir (by decide))).trans (hcount.trans (by rw [hreads]))
  · exact outTo_answered ho ((hups h).trans ((hostUp_of_frame hframe (by decide) h).trans hup)) (Frame.refl _ _)
  · exact ((hframe.mono (m := homeReadComps) (by decide)).andThen htold (by decide)).andThen hrest (by decide)

/-! ## The obligation -/

theorem atHome_live {s : State} {q : HomeReq} (hl : live s = true) (hline : q.line < npaLines) : atHome q s = .next (place s q) := by
  have hspace : ¬ 2 ^ 39 ≤ q.line := Nat.not_le.mpr hline
  rw [atHome, if_neg hspace, if_pos hl]

/-- The frame of a finished read, with the credits of the request owed back. -/
theorem ReadOpen.frame_left {s y : State} {q : HomeReq} {p : Nat} {k : AnsKind} (h : ReadOpen s y q p k) : Frame homeReadComps s (leftPlace y q) :=
  (h.frame.mono (by decide)).andThen (leftPlace_frame y q) (by decide)

theorem homeReads_claim : Claim.HomeReads := by
  intro s r p hq
  obtain ⟨hlive, hline, -⟩ := id hq
  refine ⟨fun hd halu => ?_, fun hd halu hn hc hroom => ?_, fun hd ha hn hc => ?_⟩
  · obtain ⟨y, hplace, hread, htxn, hdir⟩ := place_rdOnce hq hd halu
    refine ends_of_exec (atHome_live hlive hline) ?_
    rw [hplace]
    exact ⟨readFor_of_frame hread.read (leftPlace_frame _ _) (by decide), fun l => by rw [txnOf_leftPlace, htxn], fun l => by rw [dirOf_leftPlace, hdir],
      hread.frame_left⟩
  · have hcopy : ∀ op, op = .rdShared ∨ op = .rdOwn → ReadFor (place s { r with op := op }) p r.line (dataAns r .dataCE (rdLine s r.line) (linePois s r.line)) ∧
        Granted (place s { r with op := op }) r (.owned r.agent) ∧ (∀ l, dirOf (place s { r with op := op }) l = dirOf s l) ∧
        Frame homeReadComps s (place s { r with op := op }) := by
      intro op hop
      obtain ⟨y, hplace, hread, ⟨x, hx, hgrant⟩, hdir⟩ := place_copy hq hop hd halu hn hc hroom
      rw [hplace]
      exact ⟨readFor_of_frame hread.read (leftPlace_frame _ _) (by decide), ⟨x, by rw [txnOf_leftPlace, hx], hgrant⟩, fun l => by rw [dirOf_leftPlace, hdir],
        hread.frame_left⟩
    exact ⟨ends_of_exec (atHome_live hlive hline) (hcopy _ (.inl rfl)), ends_of_exec (atHome_live hlive hline) (hcopy _ (.inr rfl))⟩
  · exact ends_of_exec (atHome_live hlive hline) (place_upgrade hq hd ha hn hc)

theorem apertureReads_claim : Claim.ApertureReads := by
  intro s r sl k e hlive hline hw hset htxns hrebal hmoves htrack hhere hown hsl hf he
  exact ends_of_exec (atHome_live hlive hline) (place_aperture hw hset htxns hrebal hmoves htrack hhere hown hsl hf he)

/-- Settles O28: at a quiet home the request takes its tracker and its place and is finished in the same step (`place_alone`, or the read of the
aperture), with the answer left at the memory port, the grant on the line, or the completion sent. -/
theorem homeReads : Obligations.HomeReads := ⟨homeReads_claim, apertureReads_claim⟩

end Sys2Proof.Machine
end

section
namespace Sys2Proof.Machine
open Sys2Proof

/-! # Writes of an Uncached line at a quiet home (R209, R228 to R230, R246) -/

/-- A sum of different powers of two. -/
theorem foldl_bits_lt (f : Nat → Bool) (n : Nat) : (List.range n).foldl (fun p i => if f i then p + 2 ^ i else p) 0 < 2 ^ n := by
  induction n with
  | zero => exact Nat.one_pos
  | succ n ih =>
    rw [List.range_succ, List.foldl_append, List.foldl_cons, List.foldl_nil, Nat.pow_succ]
    split <;> omega

theorem mergePois_lt (old new : Nat) (m : LineMask) : mergePois old new m < 256 := by
  have h := foldl_bits_lt (fun i => if (fullChunks m).testBit i then new.testBit i
    else if (someChunks m).testBit i then new.testBit i || old.testBit i else old.testBit i) 8
  refine lt_of_eq_of_lt (congrArg (fun g => List.foldl g 0 (List.range 8)) ?_) h
  funext p i
  split
  · rfl
  · split <;> rfl

/-- Everything but memory and what names the owners of its lines. -/
def besideMemory : List Comp :=
  [.pages, .mbx, .cnt, .parts, .ras, .cas, .det, .lan, .eng, .hst, .hom, .mov, .xfm, .lmp, .fnc, .spn, .mps, .out, .inUse]

/-- What a write leaves that reached memory: the line as it was written, whatever follows beside memory, and only records of the home, the port,
the heat and the answer's way changed. -/
structure WriteOpen (s y : State) (line : Nat) (d : LineData) (pois : Nat) : Prop where
  stored : ∀ {t : State}, Frame besideMemory y t → LineStored s t line d (pois % 256)
  frame : Frame homeWriteComps s y

/-- The line of a finished write: stored in memory, and counted for its partition. -/
def lineWritten (x : State) (q : HomeReq) (d : LineData) (pois : Nat) : State := tenant (storeLine x q.line d pois) (homePart q) 4

theorem lineWritten_frame (x : State) (q : HomeReq) (d : LineData) (pois : Nat) :
    Frame [.mps, .cnt, .out] (wrLine x q.line d pois) (lineWritten x q d pois) :=
  ((mpWrite_portFrame (wrLine x q.line d pois) q.line (oldLine x q.line)).mono (by decide)).andThen (tenant_frame _ _ _ _) (by decide)

theorem lineWritten_all (x : State) (q : HomeReq) (d : LineData) (pois : Nat) :
    Frame [.mem, .memPois, .memKey, .mps, .cnt, .out] x (lineWritten x q d pois) :=
  ((wrLine_frame x q.line d pois).mono (by decide)).andThen (lineWritten_frame x q d pois) (by decide)

theorem writeOpen_of_frame {s x y : State} {q : HomeReq} {d : LineData} {pois : Nat} (hx : OpenFor s x q)
    (hy : Frame answerComps (lineWritten x q d pois) y) : WriteOpen s y q.line d pois where
  stored hk := lineStored_of_wrLine (hx.frame .mem (by decide))
    ((((lineWritten_frame x q d pois).mono (m := besideMemory) (by decide)).andThen hy (by decide)).andThen hk (fun _ => id)) (by decide)
  frame := ((hx.frame.mono (m := homeWriteComps) (by decide)).andThen (lineWritten_all x q d pois) (by decide)).andThen hy (by decide)

/-- The end of a write that grants nothing: its completion is on its way, and the line is free. -/
def wroteFree (x : State) (q : HomeReq) (d : LineData) (pois : Nat) : State :=
  setTxn (setDir (deliverAll (lineWritten x q d pois) [ansOf q .comp .ok 0 0]) q.line {}) q.line none

theorem finishServe_wrFull {x : State} {q : HomeReq} (hop : q.op = .wrFull) :
    finishServe x q.line (servedTxn q {}) q = wroteFree x q q.data q.poison := by
  have hstatus : (servedTxn q {}).status = .ok := rfl
  simp only [finishServe, hstatus, hop, ne_eq, not_true_eq_false, if_false]
  rfl

theorem finishServe_wrPart {x : State} {q : HomeReq} (hop : q.op = .wrPart) :
    finishServe x q.line (servedTxn q {}) q =
      wroteFree x q (mergeLine (rdLine x q.line) q.data q.mask) (mergePois (linePois x q.line) q.poison q.mask) := by
  have hstatus : (servedTxn q {}).status = .ok := rfl
  simp only [finishServe, hstatus, hop, ne_eq, not_true_eq_false, if_false]
  rfl

theorem wroteFree_hom (x : State) (q : HomeReq) (d : LineData) (pois : Nat) :
    (wroteFree x q d pois).hom.waiters = x.hom.waiters ∧ (wroteFree x q d pois).hom.setWait = x.hom.setWait := by
  obtain ⟨-, fresh, hfresh⟩ := delivered_comp (lineWritten x q d pois) q .ok
  have hhom : (lineWritten x q d pois).hom = x.hom := lineWritten_all x q d pois .hom (by decide)
  have hw : (deliverAll (lineWritten x q d pois) [ansOf q .comp .ok 0 0]).hom.waiters = x.hom.waiters := by rw [hfresh, hhom]
  have hs : (deliverAll (lineWritten x q d pois) [ansOf q .comp .ok 0 0]).hom.setWait = x.hom.setWait := by rw [hfresh, hhom]
  exact ⟨hw, hs⟩

theorem wroteFree_frame (x : State) (q : HomeReq) (d : LineData) (pois : Nat) : Frame answerComps (lineWritten x q d pois) (wroteFree x q d pois) :=
  (((delivered_comp (lineWritten x q d pois) q .ok).1).andThen (setDir_frame _ _ _) (by decide)).andThen (setTxn_frame _ _ _) (by decide)

/-- A write that grants nothing, at a quiet home on an Uncached line. -/
structure Wrote (s t : State) (q : HomeReq) (d : LineData) (pois : Nat) : Prop where
  stored : LineStored s t q.line d (pois % 256)
  dir : dirOf t q.line = {}
  txn : txnOf t q.line = none
  sent : ∀ h, q.origin = .host h → hostUp s h = true → OutTo t h (.ans (ansOf q .comp .ok 0 0))
  frame : Frame homeWriteComps s t

theorem wrote_leftPlace {s x : State} {q : HomeReq} (hx : OpenFor s x q) (d : LineData) (pois : Nat) :
    Wrote s (leftPlace (wroteFree x q d pois) q) q d pois := by
  have hopen := writeOpen_of_frame hx (wroteFree_frame x q d pois)
  have hleft := leftPlace_frame (wroteFree x q d pois) q
  refine ⟨hopen.stored (hleft.mono (by decide)), ?_, ?_, fun h ho hup => ?_, hopen.frame.andThen hleft (by decide)⟩
  · rw [dirOf_leftPlace]
    show dirOf (setDir (deliverAll (lineWritten x q d pois) [ansOf q .comp .ok 0 0]) q.line {}) q.line = _
    rw [dirOf_setDir_self, if_pos rfl]
  · rw [txnOf_leftPlace, wroteFree, txnOf_setTxn_self]
  · have hall := ((hx.frame.mono (m := homeWriteComps) (by decide)).andThen (lineWritten_all x q d pois) (by decide))
    refine outTo_answered ho ?_ ((setDir_frame _ _ _).andThen (setTxn_frame _ _ _) (fun _ => id))
    rw [hostUp_of_frame (lineWritten_all x q d pois) (by decide), hostUp_of_frame hx.frame (by decide), hup]

theorem needsWay_write (s : State) {q : HomeReq} (h : q.op = .wrFull ∨ q.op = .wrPart) : needsWay s q = false := by
  rcases h with h | h <;> simp [needsWay, h]

/-- WR_FULL and WR_PART at a quiet home on an Uncached line, placed and finished in the same step. -/
theorem place_write {s : State} {q : HomeReq} {p : Nat} (hq : HomeQuiet s q p) (hd : dirOf s q.line = {}) :
    (q.op = .wrFull → ∃ x, OpenFor s x q ∧ place s q = leftPlace (wroteFree x q q.data q.poison) q) ∧
    (q.op = .wrPart → ∃ x, OpenFor s x q ∧ place s q =
      leftPlace (wroteFree x q (mergeLine (rdLine s q.line) q.data q.mask) (mergePois (linePois s q.line) q.poison q.mask)) q) := by
  obtain ⟨-, -, hw, -, -, -, -, -, -, -, -, -⟩ := id hq
  have hplace : q.op = .wrFull ∨ q.op = .wrPart → ∃ x, OpenFor s x q ∧ ∀ d pois, finishServe x q.line (servedTxn q {}) q = wroteFree x q d pois →
      place s q = leftPlace (wroteFree x q d pois) q := by
    intro hop
    have hplain : PlainPlace s q := by
      rw [PlainPlace]
      rcases hop with hop | hop <;> rw [hop] <;> exact ⟨fun a => by simp, by simp⟩
    have hnocopy : q.op ≠ .rdShared ∧ q.op ≠ .rdOwn ∧ q.op ≠ .upgrade := by rcases hop with hop | hop <;> rw [hop] <;> decide
    obtain ⟨x, hx, hdone⟩ := place_alone hq hplain (alone_plain hw hd hnocopy) (.inl (needsWay_write s hop))
    rw [hd] at hdone
    exact ⟨x, hx, fun d pois hfin => hdone _ hfin (wroteFree_hom x q d pois).1 (wroteFree_hom x q d pois).2⟩
  refine ⟨fun hop => ?_, fun hop => ?_⟩
  · obtain ⟨x, hx, hdone⟩ := hplace (.inl hop)
    exact ⟨x, hx, hdone _ _ (finishServe_wrFull hop)⟩
  · obtain ⟨x, hx, hdone⟩ := hplace (.inr hop)
    have hfin := finishServe_wrPart (x := x) hop
    rw [hx.rdLine_eq, hx.linePois_eq] at hfin
    exact ⟨x, hx, hdone _ _ hfin⟩

theorem place_wrFull {s : State} {q : HomeReq} {p : Nat} (hq : HomeQuiet s q p) (hd : dirOf s q.line = {}) (hop : q.op = .wrFull) :
    Wrote s (place s q) q q.data q.poison := by
  obtain ⟨x, hx, hplace⟩ := (place_write hq hd).1 hop
  rw [hplace]
  exact wrote_leftPlace hx _ _

theorem place_wrPart {s : State} {q : HomeReq} {p : Nat} (hq : HomeQuiet s q p) (hd : dirOf s q.line = {}) (hop : q.op = .wrPart) :
    Wrote s (place s q) q (mergeLine (rdLine s q.line) q.data q.mask) (mergePois (linePois s q.line) q.poison q.mask) := by
  obtain ⟨x, hx, hplace⟩ := (place_write hq hd).2 hop
  rw [hplace]
  exact wrote_leftPlace hx _ _

/-! ## A write with an offer (R246) -/

theorem stashAgent_open {s x : State} {q : HomeReq} (hx : OpenFor s x q) (r : HomeReq) : stashAgent x r = stashAgent s r := by
  have hhst : x.hst = s.hst := hx.frame .hst (by decide)
  have heng : x.eng = s.eng := hx.frame .eng (by decide)
  have hcas : x.cas = s.cas := hx.frame .cas (by decide)
  have hpages : x.pages = s.pages := hx.frame .pages (by decide)
  have hfuses : x.fuses = s.fuses := hx.frame .fuses (by decide)
  have hbuild : x.build = s.build := hx.frame .build (by decide)
  simp only [stashAgent, isCaching, hostStation, hostUp, hst, fenced, fusedOff, blocks, hx.cfg, hhst, heng, hcas, hpages, hfuses, hbuild] <;> rfl

/-- The end of a write whose offer nobody takes. -/
def stashLost (x : State) (q : HomeReq) : State :=
  setTxn (setDir (stashDrop (deliverAll (lineWritten x q q.data q.poison) [ansOf q .comp .ok 0 0]) q.line) q.line {}) q.line none

/-- The end of a write whose offer goes to an agent. -/
def stashOut (x : State) (q : HomeReq) (a : Nat) : State :=
  let u := deliverAll (lineWritten x q q.data q.poison) [ansOf q .comp .ok 0 0]
  let v := sendStash (setDir u q.line {}) a q.line q.data q.poison
  setTxn v q.line (some { req := some q, kind := .stash a, await := [(a, .inv, snoopDue x a)] })

theorem finishServe_wrStash {x : State} {q : HomeReq} (hop : q.op = .wrStash) :
    finishServe x q.line (servedTxn q {}) q = match stashAgent x q with
      | none => stashLost x q
      | some a => stashOut x q a := by
  have hstatus : (servedTxn q {}).status = .ok := rfl
  simp only [finishServe, hstatus, hop, ne_eq, not_true_eq_false, if_false]
  cases stashAgent x q <;> rfl

theorem stashDrop_ends (s : State) (line : Nat) : Frame [.pages, .cnt, .hst, .hom, .out] s (stashDrop s line) ∧
    (stashDrop s line).hom = { s.hom with stashDropped := satAdd 32 s.hom.stashDropped 1 } := by
  refine ⟨stashDrop_frame s line, ?_⟩
  unfold stashDrop
  dsimp only
  split
  · exact raise_frame _ pHOM 2 .hom (by decide)
  · rfl


/-- What a write with an offer leaves in memory, and the records of offers at the home. -/
structure StashWrote (s y : State) (q : HomeReq) (dropped : Nat) : Prop where
  done : WriteOpen s y q.line q.data q.poison
  waiters : y.hom.waiters = tset [] q.line [q]
  setWait : y.hom.setWait = []
  dropped : y.hom.stashDropped = dropped

/-- The state in which a write with an offer has answered. -/
def stashTold (x : State) (q : HomeReq) : State := deliverAll (lineWritten x q q.data q.poison) [ansOf q .comp .ok 0 0]

theorem stashTold_hom (x : State) (q : HomeReq) : ∃ fresh, (stashTold x q).hom = { x.hom with fresh := fresh } := by
  obtain ⟨-, fresh, hfresh⟩ := delivered_comp (lineWritten x q q.data q.poison) q .ok
  exact ⟨fresh, by rw [stashTold, hfresh, show (lineWritten x q q.data q.poison).hom = x.hom from lineWritten_all x q _ _ .hom (by decide)]⟩

theorem stashLost_wrote {s x : State} {q : HomeReq} (hx : OpenFor s x q) : StashWrote s (stashLost x q) q (satAdd 32 s.hom.stashDropped 1) := by
  have htold : Frame answerComps (lineWritten x q q.data q.poison) (stashTold x q) := (delivered_comp _ q .ok).1
  obtain ⟨hdrop, hcount⟩ := stashDrop_ends (stashTold x q) q.line
  obtain ⟨fresh, hhom⟩ := stashTold_hom x q
  have hw : (stashDrop (stashTold x q) q.line).hom.waiters = x.hom.waiters := by rw [hcount, hhom]
  have hs : (stashDrop (stashTold x q) q.line).hom.setWait = x.hom.setWait := by rw [hcount, hhom]
  have hn : (stashDrop (stashTold x q) q.line).hom.stashDropped = satAdd 32 s.hom.stashDropped 1 := by rw [hcount, hhom, ← hx.stash]
  exact ⟨writeOpen_of_frame hx (((htold.andThen hdrop (by decide)).andThen (setDir_frame _ _ _) (by decide)).andThen (setTxn_frame _ _ _) (by decide)),
    hw.trans hx.waiters, hs.trans hx.setWait, hn⟩

theorem stashOut_wrote {s x : State} {q : HomeReq} (hx : OpenFor s x q) (a : Nat) : StashWrote s (stashOut x q a) q s.hom.stashDropped := by
  have htold : Frame answerComps (lineWritten x q q.data q.poison) (stashTold x q) := (delivered_comp _ q .ok).1
  obtain ⟨fresh, hhom⟩ := stashTold_hom x q
  have hsend := sendStash_frame (setDir (stashTold x q) q.line {}) a q.line q.data q.poison
  have hkept : (sendStash (setDir (stashTold x q) q.line {}) a q.line q.data q.poison).hom = (setDir (stashTold x q) q.line {}).hom := hsend .hom (by decide)
  have hw : (sendStash (setDir (stashTold x q) q.line {}) a q.line q.data q.poison).hom.waiters = x.hom.waiters := by
    rw [hkept]
    show (stashTold x q).hom.waiters = _
    rw [hhom]
  have hs : (sendStash (setDir (stashTold x q) q.line {}) a q.line q.data q.poison).hom.setWait = x.hom.setWait := by
    rw [hkept]
    show (stashTold x q).hom.setWait = _
    rw [hhom]
  have hn : (sendStash (setDir (stashTold x q) q.line {}) a q.line q.data q.poison).hom.stashDropped = x.hom.stashDropped := by
    rw [hkept]
    show (stashTold x q).hom.stashDropped = _
    rw [hhom]
  exact ⟨writeOpen_of_frame hx (((htold.andThen (setDir_frame _ _ _) (by decide)).andThen hsend (by decide)).andThen (setTxn_frame _ _ _) (by decide)),
    hw.trans hx.waiters, hs.trans hx.setWait, hn.trans hx.stash⟩

theorem StashWrote.left {s y : State} {q : HomeReq} {n : Nat} (h : StashWrote s y q n) :
    LineStored s (leftPlace y q) q.line q.data (q.poison % 256) ∧ (leftPlace y q).hom.stashDropped = n ∧ Frame homeWriteComps s (leftPlace y q) := by
  have hleft := leftPlace_frame y q
  refine ⟨h.done.stored (hleft.mono (by decide)), ?_, h.done.frame.andThen hleft (by decide)⟩
  rw [leftPlace_hom]
  exact h.dropped

/-- A write with an offer, admitted at a quiet home with room for a directory way where it needs one. -/
theorem admit_wrStash {s : State} {q : HomeReq} {p : Nat} (hq : HomeQuiet s q p) (hd : dirOf s q.line = {}) (hop : q.op = .wrStash)
    (hway : stashAgent s q = none ∨ roomFor s q = .ok) :
    ∃ x, OpenFor s x q ∧ (stashAgent s q = none → retry (admitReq s q) = leftPlace (stashLost x q) q) ∧
      ∀ a, stashAgent s q = some a → retry (admitReq s q) = leftPlace (stashOut x q a) q := by
  obtain ⟨-, -, hw, -, -, -, -, -, -, -, -, -⟩ := id hq
  have hnocopy : q.op ≠ .rdShared ∧ q.op ≠ .rdOwn ∧ q.op ≠ .upgrade := by rw [hop]; decide
  have hneeds : needsWay s q = false ∨ roomFor s q = .ok := hway.imp_left (fun h => by simp [needsWay, hop, h])
  obtain ⟨x, hx, hdone⟩ := admit_alone hq (alone_plain hw hd hnocopy) hneeds
  have hfin := finishServe_wrStash (x := x) hop
  rw [stashAgent_open hx] at hfin
  rw [hd] at hdone
  refine ⟨x, hx, fun hnone => ?_, fun a ha => ?_⟩
  · rw [hnone] at hfin
    have hlost := stashLost_wrote hx
    exact hdone _ hfin (hlost.waiters.trans hx.waiters.symm) (hlost.setWait.trans hx.setWait.symm)
  · rw [ha] at hfin
    have hout := stashOut_wrote hx a
    exact hdone _ hfin (hout.waiters.trans hx.waiters.symm) (hout.setWait.trans hx.setWait.symm)

/-- A write whose offer nobody takes: its target is none, or refuses it by its mask. -/
theorem place_stashLost {s : State} {r : HomeReq} {p : Nat} (hq : HomeQuiet s r p) (hd : dirOf s r.line = {})
    (hno : stashAgent s r = none ∨ stashAllowed s r = false) :
    LineStored s (place s { r with op := .wrStash }) r.line r.data (r.poison % 256) ∧ txnOf (place s { r with op := .wrStash }) r.line = none ∧
      (place s { r with op := .wrStash }).hom.stashDropped = satAdd 32 s.hom.stashDropped 1 ∧ Frame homeWriteComps s (place s { r with op := .wrStash }) := by
  obtain ⟨-, -, -, hset, -, -, -, -, htrack, -, -, hhere⟩ := id hq
  have hplaced : ∃ n, HomeQuiet s { r with op := .wrStash, stash := n } p ∧ stashAgent s { r with op := .wrStash, stash := n } = none ∧
      place s { r with op := .wrStash } = retry (admitReq s { r with op := .wrStash, stash := n }) := by
    cases hallow : stashAllowed s r with
    | false => exact ⟨0, homeQuiet_withStash (homeQuiet_withOp hq .wrStash) 0, if_pos (.inl rfl), place_stashRefused hset htrack hhere hallow⟩
    | true =>
      have hnone : stashAgent s r = none := hno.resolve_right (by rw [hallow]; decide)
      have hfree : trackerFree s { r with op := .wrStash } = true := htrack
      exact ⟨r.stash, homeQuiet_withOp hq .wrStash, hnone, place_plain hset hfree hhere ⟨fun a => by simp, fun _ => hallow⟩⟩
  obtain ⟨n, hquiet, hnone, hplace⟩ := hplaced
  obtain ⟨x, hx, hlost, -⟩ := admit_wrStash hquiet hd rfl (.inl hnone)
  obtain ⟨hstored, hcount, hframe⟩ := (stashLost_wrote hx).left
  rw [hplace, hlost hnone]
  refine ⟨hstored, ?_, hcount, hframe⟩
  rw [txnOf_leftPlace]
  exact txnOf_setTxn_self _ r.line none

/-- A write whose offer goes to its target. -/
theorem place_stashOut {s : State} {r : HomeReq} {p a : Nat} (hq : HomeQuiet s r p) (hd : dirOf s r.line = {}) (ha : stashAgent s r = some a)
    (hallow : stashAllowed s r = true) (hroom : roomFor s r = .ok) :
    LineStored s (place s { r with op := .wrStash }) r.line r.data (r.poison % 256) ∧
      (∃ x, txnOf (place s { r with op := .wrStash }) r.line = some x ∧ x.kind = .stash a) ∧
      (place s { r with op := .wrStash }).hom.stashDropped = s.hom.stashDropped ∧ Frame homeWriteComps s (place s { r with op := .wrStash }) := by
  obtain ⟨-, -, -, hset, -, -, -, -, htrack, -, -, hhere⟩ := id hq
  have hfree : trackerFree s { r with op := .wrStash } = true := htrack
  have hplace := place_plain (q := { r with op := .wrStash }) hset hfree hhere ⟨fun a => by simp, fun _ => hallow⟩
  obtain ⟨x, hx, -, hout⟩ := admit_wrStash (homeQuiet_withOp hq .wrStash) hd rfl (.inr hroom)
  obtain ⟨hstored, hcount, hframe⟩ := (stashOut_wrote hx a).left
  rw [hplace, hout a ha]
  refine ⟨hstored, ⟨{ req := some { r with op := .wrStash }, kind := .stash a, await := [(a, .inv, snoopDue x a)] }, ?_, rfl⟩, hcount, hframe⟩
  rw [txnOf_leftPlace]
  exact txnOf_setTxn_self _ r.line _

/-- Settles O29: at a quiet home a write of an Uncached line is placed, stored and answered in the same step; its line reads as it was written, and
an offer is counted or goes out. -/
theorem homeWrites : Obligations.HomeWrites := by
  intro s r p hq hd
  obtain ⟨hlive, hline, -⟩ := id hq
  refine ⟨?_, ?_, fun hno => ?_, fun a ha hallow hroom => ?_⟩
  · have hw := place_wrFull (q := { r with op := .wrFull }) (homeQuiet_withOp hq _) hd rfl
    exact ends_of_exec (atHome_live hlive hline) ⟨hw.stored, hw.dir, hw.txn, hw.sent, hw.frame⟩
  · have hw := place_wrPart (q := { r with op := .wrPart }) (homeQuiet_withOp hq _) hd rfl
    have hstored := hw.stored
    rw [Nat.mod_eq_of_lt (mergePois_lt _ _ _)] at hstored
    exact ends_of_exec (atHome_live hlive hline) ⟨hstored, hw.dir, hw.txn, hw.frame⟩
  · exact ends_of_exec (atHome_live hlive hline) (place_stashLost hq hd hno)
  · exact ends_of_exec (atHome_live hlive hline) (place_stashOut hq hd ha hallow hroom)

end Sys2Proof.Machine
end

section
namespace Sys2Proof.Machine
open Sys2Proof

/-! # Opening, sealing and closing partitions (R407, R576, R583) -/

section
variable {s t : State}

/-! ## What the loss of a context leaves of every partition -/

/-- Whether each partition is open or closing, and who waits for its close, stays. -/
def ClosingKept (s t : State) : Prop :=
  ∀ p, (part t p).st = (part s p).st ∧ (part t p).closeMb = (part s p).closeMb ∧ (part t p).closeSeq = (part s p).closeSeq

theorem ClosingKept.ofFrame {l : List Comp} {u : State} (h : ClosingKept s t) (g : Frame l t u) (hl : Comp.parts ∉ l) : ClosingKept s u := by
  intro p
  rw [part, g .parts hl]
  exact h p

theorem closing_mk (build clk free pages boot fuses bcn sec mbx cnt ras cas det lan eng hst hom mov xfm tir lmp fnc spn
    mps mem memPois memKey memScrub out inUse sampled pending) :
    ClosingKept s ⟨build, clk, free, pages, boot, fuses, bcn, sec, mbx, cnt, t.parts, ras, cas, det, lan, eng, hst, hom, mov, xfm, tir, lmp, fnc, spn,
      mps, mem, memPois, memKey, memScrub, out, inUse, sampled, pending⟩ ↔ ClosingKept s t := Iff.rfl

theorem closing_foldl {α : Type} (h : ClosingKept s t) (f : State → α → State) (l : List α) (hf : ∀ u x, ClosingKept s u → ClosingKept s (f u x)) :
    ClosingKept s (l.foldl f t) := by
  induction l generalizing t with
  | nil => exact h
  | cons x l ih => exact ih (hf _ x h)

theorem closing_fst {α : Type} {x : State × α} {r : α} (h : ClosingKept s x.1) (e : x = (t, r)) : ClosingKept s t := by cases e; exact h

theorem closing_updPart (h : ClosingKept s t) (p f)
    (hf : ∀ x : Part, (f x).st = x.st ∧ (f x).closeMb = x.closeMb ∧ (f x).closeSeq = x.closeSeq) : ClosingKept s (updPart t p f) := by
  intro q
  by_cases hq : q = p
  · obtain ⟨h1, h2, h3⟩ := hf (part t p)
    obtain ⟨k1, k2, k3⟩ := h p
    rw [hq, part_updPart_self]
    exact ⟨h1.trans k1, h2.trans k2, h3.trans k3⟩
  · rw [part_updPart_ne _ _ _ _ hq]
    exact h q

theorem closing_updCtx (h : ClosingKept s t) (c f) : ClosingKept s (updCtx t c f) := h.ofFrame (updCtx_frame _ _ _) (by decide)

theorem closing_setWatch (h : ClosingKept s t) (i w) : ClosingKept s (setWatch t i w) := h.ofFrame (setWatch_frame _ _ _) (by decide)

theorem closing_watchDisarm (h : ClosingKept s t) (npa) : ClosingKept s (watchDisarm t npa) := h.ofFrame (watchDisarm_frame _ _) (by decide)

theorem closing_endCmd (h : ClosingKept s t) (q seq st res) : ClosingKept s (endCmd t q seq st res) := h.ofFrame (endCmd_frame _ _ _ _ _) (by decide)

theorem closing_ownPut (h : ClosingKept s t) (p a l) : ClosingKept s (ownPut t p a l) := h.ofFrame (ownPut_frame _ _ _ _) (by decide)

theorem closing_objOp (h : ClosingKept s t) (p id take) : ClosingKept s (objOp t p id take).1 := by
  unfold objOp
  repeat' with_reducible first | assumption | refine closing_updPart ?_ _ _ (fun _ => ⟨rfl, rfl, rfl⟩) | apply closing_ownPut | split | dsimp only

theorem closing_count (h : ClosingKept s t) (page ev part inst n) : ClosingKept s (count t page ev part inst n) := h.ofFrame (count_frame _ _ _ _ _ _) (by decide)

theorem closing_logProto (h : ClosingKept s t) (st page index part addr) : ClosingKept s (logProto t st page index part addr) := h.ofFrame (logProto_quietFrame _ _ _ _ _ _) (by decide)

theorem closing_dropRef (h : ClosingKept s t) (p id) : ClosingKept s (dropRef t p id) := by
  unfold dropRef
  repeat' with_reducible
    first
    | assumption | apply closing_objOp | apply closing_count | apply closing_logProto | simp only [↓closing_mk]
    | refine closing_fst ?_ (by assumption) | split

theorem closing_ringReply (h : ClosingKept s t) (m bit) : ClosingKept s (ringReply t m bit) := h.ofFrame (ringReply_hostFrame _ _ _) (by decide)

theorem closing_watchEnd (h : ClosingKept s t) (i st) : ClosingKept s (watchEnd t i st) := by
  unfold watchEnd
  repeat' with_reducible
    first
    | assumption | apply closing_setWatch | apply closing_watchDisarm | apply closing_endCmd | apply closing_dropRef | apply closing_ringReply
    | split

theorem closing_watchesLose (h : ClosingKept s t) (c) : ClosingKept s (watchesLose t c) := by
  unfold watchesLose
  repeat' with_reducible first | assumption | intro _ | apply closing_watchEnd | apply closing_foldl | split

theorem closing_closeTier (h : ClosingKept s t) (q seq) : ClosingKept s (closeTier t q seq) := h.ofFrame (closeTier_frame _ _ _) (by decide)

theorem closing_updTierCmd (h : ClosingKept s t) (q seq f) : ClosingKept s (updTierCmd t q seq f) := h.ofFrame (updTierCmd_frame _ _ _ _) (by decide)

theorem closing_chanLose (h : ClosingKept s t) (ch c) : ClosingKept s (chanLose t ch c) := h.ofFrame (chanLose_frame _ _ _) (by decide)

theorem closing_burstsFail (h : ClosingKept s t) (f st) : ClosingKept s (burstsFail t f st) := h.ofFrame (burstsFail_frame _ _ _) (by decide)

theorem closing_releaseSlotsOf (h : ClosingKept s t) (f) : ClosingKept s (releaseSlotsOf t f) := h.ofFrame (releaseSlotsOf_frame _ _) (by decide)

theorem closing_loseWork (h : ClosingKept s t) (c) : ClosingKept s (loseWork t c) := by
  unfold loseWork
  repeat' with_reducible
    first
    | assumption | intro _ | refine closing_updPart ?_ _ _ (fun _ => ⟨rfl, rfl, rfl⟩) | apply closing_watchesLose | apply closing_closeTier | apply closing_updTierCmd
    | apply closing_chanLose | apply closing_burstsFail | apply closing_releaseSlotsOf | apply closing_foldl | simp only [↓closing_mk]

theorem closing_tenant (h : ClosingKept s t) (part src n) : ClosingKept s (tenant t part src n) := h.ofFrame (tenant_frame _ _ _ _) (by decide)

theorem closing_ctxLose (h : ClosingKept s t) (c) : ClosingKept s (ctxLose t c) := by
  unfold ctxLose
  repeat' with_reducible
    first
    | assumption | apply closing_updCtx | apply closing_loseWork | refine ClosingKept.ofFrame ?_ (raise_hostFrame _ _ _) (by decide) | apply closing_tenant | apply closing_count
    | simp only [↓closing_mk] | split

end

/-- A service that only answers ends with its answer. -/
theorem svc_answers {i : Instr} {s t : State} {m seq svc : Nat} {st : Status} {res : List Word} {l : List Comp}
    (hexec : exec i s = .next (reply t m seq svc st res)) (hseq : seq < 256) (hstart : Frame l s t) (hl : subComps [.mbx] l = true) :
    Ends i s (fun u => Replied u m seq svc st res ∧ Frame l s u) :=
  ends_of_exec hexec ⟨replied_reply _ _ _ _ _ hseq, Frame.into (reply_frame _ _ _ _ _ _ _ hseq) hl hstart⟩

/-! ## PART_OPEN -/

/-- PART_OPEN in the catalogue. -/
def partOpenSvc : Svc := { code := 0x0020, who := .root, masks := [mask 5 0] }

theorem svcPartOpen_eq (s : State) (m seq : Nat) (a : Word) : ∃ f, svcPartOpen s m seq [a] = gate s m seq partOpenSvc [a] f ∧
    (∀ t, fld a 5 0 ≠ 0 → (part t (fld a 5 0)).st = .free → tget t.sec.epochs (fld a 5 0) < 0xFFFFFFFF → f t =
      reply (updPart t (fld a 5 0) (fun q => { q with st := .open_ })) m seq 0x0020 .ok [w64 (tget t.sec.epochs (fld a 5 0))]) ∧
    (∀ t, fld a 5 0 = 0 ∨ (part t (fld a 5 0)).st ≠ .free → f t = reply t m seq 0x0020 .permission) ∧
    (∀ t, fld a 5 0 ≠ 0 → (part t (fld a 5 0)).st = .free → 0xFFFFFFFF ≤ tget t.sec.epochs (fld a 5 0) → f t = reply t m seq 0x0020 .quota) := by
  refine ⟨_, rfl, fun t h0 hfree hk => ?_, fun t h => if_pos h, fun t h0 hfree hk => ?_⟩
  · exact (if_neg (by simp [argOf_zero, h0, hfree])).trans (if_neg (by simpa [argOf_zero] using hk))
  · exact (if_neg (by simp [argOf_zero, h0, hfree])).trans (if_pos hk)

theorem partOpens (s : State) (m seq : Nat) (a : Word) (hruns : SvcRuns s m seq { code := 0x0020, who := .root, masks := [mask 5 0] } [a]) :
    (fld a 5 0 ≠ 0 → (part s (fld a 5 0)).st = .free → tget s.sec.epochs (fld a 5 0) < 0xFFFFFFFF → Ends (.partOpen m seq [a]) s (fun t =>
      Replied t m seq 0x0020 .ok [w64 (tget s.sec.epochs (fld a 5 0))] ∧ part t (fld a 5 0) = { part s (fld a 5 0) with st := .open_ } ∧
      (∀ q, q ≠ fld a 5 0 → part t q = part s q) ∧ Frame [.parts, .mbx, .cas, .out] s t)) ∧
    ((fld a 5 0 = 0 ∨ (part s (fld a 5 0)).st ≠ .free) → Ends (.partOpen m seq [a]) s (fun t =>
      Replied t m seq 0x0020 .permission [] ∧ Frame [.mbx, .cas, .out] s t)) ∧
    (fld a 5 0 ≠ 0 → (part s (fld a 5 0)).st = .free → 0xFFFFFFFF ≤ tget s.sec.epochs (fld a 5 0) → Ends (.partOpen m seq [a]) s (fun t =>
      Replied t m seq 0x0020 .quota [] ∧ Frame [.mbx, .cas, .out] s t)) := by
  have hseq : seq < 256 := hruns.1
  obtain ⟨f, hf, hopen, hrefused, hquota⟩ := svcPartOpen_eq s m seq a
  have hexec : exec (.partOpen m seq [a]) s = .next (f (svcStart s m seq partOpenSvc [a])) :=
    congrArg Host.Outcome.next (hf.trans (gate_svcRuns hruns f))
  have hstart := svcStart_frame s m seq partOpenSvc [a]
  generalize svcStart s m seq partOpenSvc [a] = t at hexec hstart
  have hpart : ∀ q, part t q = part s q := fun q => by rw [part, part, hstart .parts (by decide)]
  have hsec : t.sec = s.sec := hstart .sec (by decide)
  rw [← hpart, ← hsec]
  refine ⟨fun h0 hfree hk => ?_, fun h => ?_, fun h0 hfree hk => ?_⟩
  · rw [hopen t h0 hfree hk] at hexec
    have hreply := reply_frame (updPart t (fld a 5 0) (fun q => { q with st := .open_ })) m seq 0x0020 .ok
      [w64 (tget t.sec.epochs (fld a 5 0))] false hseq
    refine ends_of_exec hexec ⟨replied_reply _ _ _ _ _ hseq, ?_, fun q hq => ?_,
      Frame.into hreply rfl (hstart.trans (updPart_frame _ _ _) (by decide) (by decide))⟩
    · rw [part, hreply .parts (by decide)]
      exact part_updPart_self _ _ _
    · rw [part, hreply .parts (by decide)]
      exact (part_updPart_ne _ _ _ _ hq).trans (hpart q)
  · rw [hrefused t h] at hexec
    exact svc_answers hexec hseq hstart rfl
  · rw [hquota t h0 hfree hk] at hexec
    exact svc_answers hexec hseq hstart rfl

/-! ## PART_SEAL -/

theorem tget_foldl_tset {α : Type} [Inhabited α] [DecidableEq α] (l : List Nat) (t : Tbl α) (v : α) (k : Nat) :
    tget (l.foldl (fun t i => tset t i v) t) k = if k ∈ l then v else tget t k := by
  induction l generalizing t with
  | nil => simp
  | cons i l ih =>
    rw [List.foldl_cons, ih, tget_tset]
    by_cases h1 : k ∈ l <;> by_cases h2 : k = i <;> simp [h1, h2]

/-- The numbers of the slots that frame positions have in the eight pipes. -/
def pipeSlots (l : List Nat) : List Nat := l.flatMap (fun i => (List.range 8).map (fun pipe => pipe * 64 + i))

theorem tget_sealAt (t : Tbl Nat) (p : Nat) (l : List Nat) (k : Nat) : tget (sealAt t p l) k = if k ∈ pipeSlots l then p + 1024 else tget t k := by
  have hfold : sealAt t p l = (pipeSlots l).foldl (fun t k => tset t k (p + 1024)) t := by
    rw [pipeSlots, List.foldl_flatMap]
    simp only [List.foldl_map]
    rfl
  rw [hfold, tget_foldl_tset]

theorem pipeSlots_mem {l : List Nat} {i pipe : Nat} (hi : i ∈ l) (hp : pipe < 8) : pipe * 64 + i ∈ pipeSlots l :=
  List.mem_flatMap.2 ⟨i, hi, List.mem_map.2 ⟨pipe, List.mem_range.2 hp, rfl⟩⟩

/-- PART_SEAL in the catalogue. -/
def partSealSvc : Svc := { code := 0x0021, who := .root, masks := [mask 13 0 &&& ~~~ (mask 7 6)], page := some pMOV }

/-- The frame positions that PART_SEAL gives a partition. -/
def sealFrames (s : State) (p n : Nat) : List Nat := (openSlots (unsealSlots s.mov.slots p)).take n

/-- The state after PART_SEAL has given a partition its slots. -/
def slotsSealed (t : State) (p n : Nat) : State :=
  { t with
    sec := { t.sec with sealed := tset t.sec.sealed p n,
                        frame := (sealFrames t p n).foldl (fun f i => tset f i (p + 1024)) (unsealSlots t.sec.frame p) }
    mov := { t.mov with slots := sealAt (unsealSlots t.mov.slots p) p (sealFrames t p n) } }

/-- The slots that changed are kept as the basic values of their registers. -/
def slotsNoted (t u : State) : State :=
  (List.range 512).foldl (fun v i => if tget u.mov.slots i = tget t.mov.slots i then v else noteSel v pMOV 0x240 i) u

theorem slotsNoted_frame (t u : State) : Frame [.pages] u (slotsNoted t u) :=
  Frame.foldl _ _ _ _ (fun v i => by
    split
    · exact Frame.refl _ _
    · exact noteBasic_frame _ _ _ _ _)

/-- What refuses PART_SEAL for good. -/
def SealRefused (s : State) (p : Nat) : Prop := p = 0 ∨ hasLive s p = true ∨ (part s p).st = .closing ∨ (part s p).st = .scrub

/-- Too few slots are free for PART_SEAL. -/
def SealShort (s : State) (p n : Nat) : Prop :=
  48 < sealTotal (tset s.sec.sealed p n) ∨ 8 < (tset s.sec.sealed p n).length ∨ (sealFrames s p n).length < n ∨
    (List.range 8).any (fun i => decide (48 < sealedSlots (sealAt (unsealSlots s.mov.slots p) p (sealFrames s p n)) i)) = true

theorem svcPartSeal_eq (s : State) (m seq : Nat) (a : Word) : ∃ f, svcPartSeal s m seq [a] = gate s m seq partSealSvc [a] f ∧
    (∀ t, SealRefused t (fld a 5 0) → f t = reply t m seq 0x0021 .permission) ∧
    (∀ t, ¬ SealRefused t (fld a 5 0) → SealShort t (fld a 5 0) (fld a 13 8) → f t = reply t m seq 0x0021 .quota) ∧
    (∀ t, ¬ SealRefused t (fld a 5 0) → ¬ SealShort t (fld a 5 0) (fld a 13 8) → f t =
      reply (slotsNoted t (slotsSealed t (fld a 5 0) (fld a 13 8))) m seq 0x0021 .ok) :=
  ⟨_, rfl, fun _ h => if_pos h, fun _ h hs => (if_neg h).trans (if_pos hs), fun _ h hs => (if_neg h).trans (if_neg hs)⟩

/-- A service that the master tells the other blocks leaves the partitions, the contexts, the seals and the movers as they are. -/
theorem sealRefused_of_frame {s t : State} (h : Frame [.mbx, .cas, .out] s t) (p : Nat) : SealRefused t p ↔ SealRefused s p := by
  rw [SealRefused, SealRefused, hasLive, hasLive, part, part, h .lmp (by decide), h .parts (by decide)]

theorem sealShort_of_frame {s t : State} (h : Frame [.mbx, .cas, .out] s t) (p n : Nat) : SealShort t p n ↔ SealShort s p n := by
  rw [SealShort, SealShort, sealFrames, sealFrames, h .sec (by decide), h .mov (by decide)]

theorem partSeals (s : State) (m seq : Nat) (a : Word)
    (hruns : SvcRuns s m seq { code := 0x0021, who := .root, masks := [mask 13 0 &&& ~~~ (mask 7 6)], page := some pMOV } [a]) :
    let p := fld a 5 0
    let n := fld a 13 8
    let map := tset s.sec.sealed p n
    let l := (openSlots (unsealSlots s.mov.slots p)).take n
    (p ≠ 0 → hasLive s p = false → (part s p).st ≠ .closing → (part s p).st ≠ .scrub → sealTotal map ≤ 48 → map.length ≤ 8 → l.length = n →
      (∀ i, i < 8 → sealedSlots (sealAt (unsealSlots s.mov.slots p) p l) i ≤ 48) → Ends (.partSeal m seq [a]) s (fun t =>
        Replied t m seq 0x0021 .ok [] ∧ t.sec = { s.sec with sealed := map, frame := l.foldl (fun f i => tset f i (p + 1024)) (unsealSlots s.sec.frame p) } ∧
        (∀ i pipe, i ∈ l → pipe < 8 → tget t.mov.slots (pipe * 64 + i) = p + 1024) ∧
        (∀ k, k ∉ l.flatMap (fun i => (List.range 8).map (fun pipe => pipe * 64 + i)) →
          tget t.mov.slots k = tget (unsealSlots s.mov.slots p) k) ∧
        Frame [.pages, .sec, .mov, .mbx, .cas, .out] s t)) ∧
    ((p = 0 ∨ hasLive s p = true ∨ (part s p).st = .closing ∨ (part s p).st = .scrub) → Ends (.partSeal m seq [a]) s (fun t =>
      Replied t m seq 0x0021 .permission [] ∧ Frame [.mbx, .cas, .out] s t)) ∧
    (p ≠ 0 → hasLive s p = false → (part s p).st ≠ .closing → (part s p).st ≠ .scrub → 48 < sealTotal map → Ends (.partSeal m seq [a]) s (fun t =>
      Replied t m seq 0x0021 .quota [] ∧ Frame [.mbx, .cas, .out] s t)) := by
  intro p n map l
  have hseq : seq < 256 := hruns.1
  obtain ⟨f, hf, hrefused, hshort, hsealed⟩ := svcPartSeal_eq s m seq a
  have hexec : exec (.partSeal m seq [a]) s = .next (f (svcStart s m seq partSealSvc [a])) :=
    congrArg Host.Outcome.next (hf.trans (gate_svcRuns hruns f))
  have hstart := svcStart_frame s m seq partSealSvc [a]
  generalize svcStart s m seq partSealSvc [a] = t at hexec hstart
  have hadmitted : p ≠ 0 → hasLive s p = false → (part s p).st ≠ .closing → (part s p).st ≠ .scrub → ¬ SealRefused t p := by
    intro h0 hl hc hs
    rw [sealRefused_of_frame hstart]
    rintro (h | h | h | h)
    exacts [h0 h, Bool.noConfusion (hl.symm.trans h), hc h, hs h]
  refine ⟨fun h0 hl hc hs htotal hlen hn hpipes => ?_, fun h => ?_, fun h0 hl hc hs htotal => ?_⟩
  · have hroom : ¬ SealShort t p n := by
      rw [sealShort_of_frame hstart]
      rintro (h | h | h | h)
      · exact absurd h (Nat.not_lt.2 htotal)
      · exact absurd h (Nat.not_lt.2 hlen)
      · exact absurd h (Nat.not_lt.2 hn.ge)
      · obtain ⟨i, hi, h48⟩ := List.any_eq_true.1 h
        exact absurd (of_decide_eq_true h48) (Nat.not_lt.2 (hpipes i (List.mem_range.1 hi)))
    rw [hsealed t (hadmitted h0 hl hc hs) hroom] at hexec
    have hdone : Frame [.pages, .mbx] (slotsSealed t p n) (reply (slotsNoted t (slotsSealed t p n)) m seq 0x0021 .ok) :=
      Frame.into (reply_frame _ _ _ _ _ _ _ hseq) rfl ((slotsNoted_frame _ _).mono (by decide))
    have hsec : t.sec = s.sec := hstart .sec (by decide)
    have hmov : t.mov = s.mov := hstart .mov (by decide)
    have hslots : (reply (slotsNoted t (slotsSealed t p n)) m seq 0x0021 .ok).mov.slots = sealAt (unsealSlots s.mov.slots p) p l := by
      rw [hdone .mov (by decide), slotsSealed, sealFrames, hmov]
    refine ends_of_exec hexec ⟨replied_reply _ _ _ _ _ hseq, ?_, fun i pipe hi hp => ?_, fun k hk => ?_, Frame.into hdone rfl ?_⟩
    · rw [hdone .sec (by decide), slotsSealed, sealFrames, hsec, hmov]
    · rw [hslots, tget_sealAt, if_pos (pipeSlots_mem hi hp)]
    · rw [hslots, tget_sealAt]
      exact if_neg hk
    · refine hstart.trans (m := [.sec, .mov]) ?_ (by decide) (by decide)
      intro c hc
      cases c <;> first | exact absurd (by decide) hc | rfl
  · rw [hrefused t ((sealRefused_of_frame hstart p).2 h)] at hexec
    exact svc_answers hexec hseq hstart rfl
  · rw [hshort t (hadmitted h0 hl hc hs) ((sealShort_of_frame hstart p n).2 (.inl htotal))] at hexec
    exact svc_answers hexec hseq hstart rfl

theorem openAndSeal : Claim.OpenAndSeal := ⟨partOpens, partSeals⟩

/-! ## PART_CLOSE -/

/-- PART_CLOSE in the catalogue. -/
def partCloseSvc : Svc := { code := 0x0022, who := .root, masks := [mask 5 0], page := some pLMP }

/-- The state in which a partition is closing and the reply of its close is owed. -/
def closing (s : State) (p m seq : Nat) : State := updPart s p (fun q => { q with st := .closing, closeMb := m, closeSeq := seq })

theorem svcPartClose_eq (s : State) (m seq : Nat) (a : Word) : ∃ f, svcPartClose_ s m seq [a] = gate s m seq partCloseSvc [a] f ∧
    (∀ t, fld a 5 0 = 0 ∨ (part t (fld a 5 0)).st ≠ .open_ → f t = reply t m seq 0x0022 .permission) ∧
    (∀ t, fld a 5 0 ≠ 0 → (part t (fld a 5 0)).st = .open_ → f t = loseAll (closing t (fld a 5 0) m seq) (fld a 5 0)) :=
  ⟨_, rfl, fun _ h => if_pos h, fun _ h0 hopen => if_neg (by simp [argOf_zero, h0, hopen])⟩

theorem closing_loseAll (s : State) (p : Nat) : ClosingKept s (loseAll s p) := by
  refine closing_foldl (fun _ => ⟨rfl, rfl, rfl⟩) _ _ (fun u i h => ?_)
  dsimp only
  split
  · exact closing_ctxLose (h.ofFrame (doom_frame _ _ _) (by decide)) _
  · exact h

theorem loseAll_idle {s : State} {p : Nat} (h : ctxsOf s p = []) : loseAll s p = s := by rw [loseAll, h]; rfl

theorem partCloses (s : State) (m seq : Nat) (a : Word)
    (hruns : SvcRuns s m seq { code := 0x0022, who := .root, masks := [mask 5 0], page := some pLMP } [a]) :
    (fld a 5 0 ≠ 0 → (part s (fld a 5 0)).st = .open_ → Ends (.partClose m seq [a]) s (fun t =>
      (part t (fld a 5 0)).st = .closing ∧ (part t (fld a 5 0)).closeMb = m ∧ (part t (fld a 5 0)).closeSeq = seq ∧
      (ctxsOf s (fld a 5 0) = [] → (∀ q, q ≠ fld a 5 0 → part t q = part s q) ∧ Frame [.parts, .mbx, .cas, .out] s t))) ∧
    ((fld a 5 0 = 0 ∨ (part s (fld a 5 0)).st ≠ .open_) → Ends (.partClose m seq [a]) s (fun t =>
      Replied t m seq 0x0022 .permission [] ∧ Frame [.mbx, .cas, .out] s t)) := by
  have hseq : seq < 256 := hruns.1
  obtain ⟨f, hf, hrefused, hcloses⟩ := svcPartClose_eq s m seq a
  have hexec : exec (.partClose m seq [a]) s = .next (f (svcStart s m seq partCloseSvc [a])) :=
    congrArg Host.Outcome.next (hf.trans (gate_svcRuns hruns f))
  have hstart := svcStart_frame s m seq partCloseSvc [a]
  generalize svcStart s m seq partCloseSvc [a] = t at hexec hstart
  have hpart : ∀ q, part t q = part s q := fun q => by rw [part, part, hstart .parts (by decide)]
  rw [← hpart]
  refine ⟨fun h0 hopen => ?_, fun h => ?_⟩
  · rw [hcloses t h0 hopen] at hexec
    obtain ⟨h1, h2, h3⟩ := closing_loseAll (closing t (fld a 5 0) m seq) (fld a 5 0) (fld a 5 0)
    rw [closing, part_updPart_self] at h1 h2 h3
    refine ends_of_exec hexec ⟨h1, h2, h3, fun hidle => ?_⟩
    have hctxs : ctxsOf (closing t (fld a 5 0) m seq) (fld a 5 0) = [] := by
      rw [← hidle, ctxsOf, ctxsOf, closing, updPart_lmp, hstart .lmp (by decide)]
    rw [loseAll_idle hctxs]
    exact ⟨fun q hq => (part_updPart_ne _ _ _ _ hq).trans (hpart q), hstart.trans (updPart_frame _ _ _) (by decide) (by decide)⟩
  · rw [hrefused t h] at hexec
    exact svc_answers hexec hseq hstart rfl

/-! ## The end of a close -/

/-- The partition without its registrations. -/
def unregistered (q : Part) : Part :=
  { q with objTbl := 0, relBase := 0, relCtl := 0, relProduce := 0, relHold := [], relFail := false, goneTodo := [],
           goneLate := [], faultObj := none, faultLog := 0, faultFObj := 0, faultFIdx := 0, faultProduce := 0,
           ringFail := false, dispObj := none, dispLog := 0, dispNext := 0, dispRun := [], dispQ := [],
           dispOf := [] }

/-- The records held for a partition's ring, its watches and its barriers leave. -/
def withoutHeld (s : State) (p : Nat) : State :=
  { s with
    eng := { s.eng with hold := s.eng.hold.filter (fun e => e.1 != p) }
    fnc := { s.fnc with watches := s.fnc.watches.filter (fun e => !(e.2.any (fun w => w.host.isSome && w.part == p)))
                        bars := s.fnc.bars.filter (fun e => !(e.2.any (fun b => b.part == p))) } }

/-- The reduction sessions of a partition end. -/
def sessionsClosed (s : State) (p : Nat) : State :=
  (tsome s.hom.sessions).foldl (fun u e => if e.2.part = p then closeSession u e.1 else u) s

theorem closeRegs_eq (s : State) (p : Nat) :
    closeRegs s p = sessionsClosed (withoutHeld (noteSels (updPart s p unregistered) pLMP p [0x258, 0x260, 0x268]) p) p := rfl

theorem sessionsClosed_frame (s : State) (p : Nat) :
    Frame [.hom] s (sessionsClosed s p) ∧ (sessionsClosed s p).hom.windows = s.hom.windows := by
  refine List.foldlRecOn (motive := fun u => Frame [.hom] s u ∧ u.hom.windows = s.hom.windows) _ _ ⟨Frame.refl _ _, rfl⟩ (fun u hu e _ => ?_)
  split
  · exact ⟨Frame.into (closeSession_frame u e.1) rfl hu.1, hu.2⟩
  · exact hu

theorem withoutHeld_frame (s : State) (p : Nat) : Frame [.eng, .fnc] s (withoutHeld s p) := by
  intro c hc
  cases c <;> first | exact absurd (by decide) hc | rfl

/-- What the end of a partition's registrations changes beside the partition: records held for its ring, its watches and barriers, and its
reduction sessions. -/
theorem closeRegs_only (s : State) (p : Nat) :
    Frame [.pages, .eng, .fnc, .hom] (updPart s p unregistered) (closeRegs s p) ∧ (closeRegs s p).hom.windows = s.hom.windows := by
  rw [closeRegs_eq]
  have hnote : Frame [.pages] (updPart s p unregistered) (noteSels (updPart s p unregistered) pLMP p [0x258, 0x260, 0x268]) :=
    Frame.foldl _ _ _ _ (fun u off => noteBasic_frame _ _ _ _ _)
  generalize noteSels (updPart s p unregistered) pLMP p [0x258, 0x260, 0x268] = t at hnote
  have hheld := hnote.trans (withoutHeld_frame t p) (n := [.pages, .eng, .fnc]) (by decide) (by decide)
  obtain ⟨hses, hwin⟩ := sessionsClosed_frame (withoutHeld t p) p
  exact ⟨hheld.trans hses (by decide) (by decide), hwin.trans (congrArg Hom.windows (hnote .hom (by decide)))⟩

/-- The partition is scrubbed and its registrations are gone. -/
def inScrub (q : Part) : Part := { unregistered q with st := .scrub }

/-- The state in which the last step of a close begins Snuff. -/
def closeEnded (s : State) (p : Nat) : State := updPart (closeRegs s p) p (fun q => { q with st := .scrub })

theorem closeEnded_frame (s : State) (p : Nat) :
    Frame [.pages, .parts, .eng, .hom, .fnc] s (closeEnded s p) ∧ (closeEnded s p).hom.windows = s.hom.windows ∧
      part (closeEnded s p) p = inScrub (part s p) := by
  obtain ⟨hregs, hwin⟩ := closeRegs_only s p
  have hpart : part (closeRegs s p) p = unregistered (part s p) := by
    rw [part, hregs .parts (by decide)]
    exact part_updPart_self _ _ _
  have hmid := ((updPart_frame s p unregistered).trans hregs (n := [.pages, .parts, .eng, .hom, .fnc]) (by decide) (by decide))
  refine ⟨hmid.trans (updPart_frame _ _ _) (by decide) (by decide), hwin, ?_⟩
  rw [closeEnded, part_updPart_self, hpart]
  rfl

/-- The registers of SEC at the beginning of Snuff for a partition. -/
def snuffBegun (s : State) (p : Nat) : Sec :=
  { s.sec with epochs := tset s.sec.epochs p (satAdd 32 (tget s.sec.epochs p) 1), snuffPart := p, snuffPhase := 1, snuffEnd := s.clk.cyc + 8,
               snuffMb := (part s p).closeMb, snuffSeq := (part s p).closeSeq, snuffHeld := false }

/-- Without coherent windows the beginning of Snuff changes only the registers of SEC, and raises the interrupt of a last key epoch. -/
theorem snuffStart_noWindows {s : State} (p : Nat) (h : s.hom.windows = []) :
    Frame [.pages, .sec, .cnt, .hst, .out] s (snuffStart s p) ∧ (snuffStart s p).sec = snuffBegun s p := by
  have hsec : Frame [.sec] s { s with sec := snuffBegun s p } := by
    intro c hc
    cases c <;> first | exact absurd (by decide) hc | rfl
  have heq : snuffStart s p =
      if satAdd 32 (tget s.sec.epochs p) 1 = 0xFFFFFFFF then raise { s with sec := snuffBegun s p } pSEC 3 else { s with sec := snuffBegun s p } := by
    unfold snuffStart
    extract_lets k q s0 t1 t2
    have hwin : t2.hom.windows = [] := by
      have hraise : Frame [.pages, .cnt, .hst, .out] t1 t2 := by
        dsimp only [t2]
        split
        · exact raise_hostFrame _ _ _
        · exact Frame.refl _ _
      rw [hraise .hom (by decide)]
      exact h
    rw [hwin]
    rfl
  rw [heq]
  split
  · have hraise := raise_hostFrame { s with sec := snuffBegun s p } pSEC 3
    exact ⟨hsec.trans hraise (by decide) (by decide), hraise .sec (by decide)⟩
  · exact ⟨hsec.mono (by decide), rfl⟩

theorem closeDrained_eq {s : State} {p : Nat} (hp : p < 64) (hst : (part s p).st = .closing) (hph : s.sec.snuffPhase = 0)
    (hready : closeReady s p = true) (hctxs : ctxsOf s p = []) : closeDrained s p = snuffStart (closeEnded s p) p := by
  rw [closeDrained, if_neg (by simp [hp, hst, hph, hready]), hctxs]
  rfl

theorem partCloseDrains (s : State) (p : Nat) (hp : p < 64) (hst : (part s p).st = .closing) (hph : s.sec.snuffPhase = 0) :
    (closeReady s p = true → ctxsOf s p = [] → s.hom.windows = [] → Ends (.closeDrainDone p) s (fun t =>
      (part t p).st = .scrub ∧ (part t p).objTbl = 0 ∧ (part t p).faultObj = none ∧ (part t p).dispObj = none ∧
      t.sec.snuffPart = p ∧ t.sec.snuffPhase = 1 ∧ t.sec.snuffEnd = s.clk.cyc + 8 ∧ t.sec.snuffMb = (part s p).closeMb ∧
      t.sec.snuffSeq = (part s p).closeSeq ∧ tget t.sec.epochs p = satAdd 32 (tget s.sec.epochs p) 1 ∧
      (∀ q, q ≠ p → tget t.sec.epochs q = tget s.sec.epochs q) ∧ Frame [.pages, .sec, .cnt, .parts, .eng, .hst, .hom, .fnc, .out] s t)) ∧
    (closeReady s p = false → Ends (.closeDrainDone p) s (fun t => t = s)) := by
  refine ⟨fun hready hctxs hwin => ?_, fun hready => ends_of_exec (t := s) ?_ rfl⟩
  · obtain ⟨hended, hwin2, hpart⟩ := closeEnded_frame s p
    obtain ⟨hstart, hsec⟩ := snuffStart_noWindows p (hwin2.trans hwin)
    have hexec : exec (.closeDrainDone p) s = .next (snuffStart (closeEnded s p) p) :=
      congrArg Host.Outcome.next (closeDrained_eq hp hst hph hready hctxs)
    have hpart2 : part (snuffStart (closeEnded s p) p) p = inScrub (part s p) := by rw [part, hstart .parts (by decide)]; exact hpart
    refine ends_of_exec hexec ?_
    rw [hpart2, hsec, snuffBegun, hpart, hended .sec (by decide), hended .clk (by decide)]
    exact ⟨rfl, rfl, rfl, rfl, rfl, rfl, rfl, rfl, rfl, tget_tset_self _ _ _, fun q hq => tget_tset_ne _ _ _ _ hq,
      hended.trans hstart (by decide) (by decide)⟩
  · exact congrArg Host.Outcome.next (if_pos (by simp [hready]))

/-- Settles O54. -/
theorem partitionLifetime : Obligations.PartitionLifetime := ⟨openAndSeal, partCloses, partCloseDrains⟩

end Sys2Proof.Machine
end

section
namespace Sys2Proof.Machine
open Sys2Proof

/-! # Requests of a mailbox (R492, R501) -/

variable {s : State} {m : Nat}

/-! ## REQUEST takes the words -/

/-- The mailbox whose request has been taken. -/
def taken (s : State) (m : Nat) : State := armH2s (updMb s m (fun b => { b with h2s := [], h2sDb := setBit b.h2sDb 0 false })) m true

theorem takeRequest_eq {h : Word} {args : List Word} (hserved : mbServed s m = true) (hreq : bitOf (mbox s m).h2sDb 0 = true)
    (hwords : (mbox s m).h2s = h :: args) : takeRequest s m = runWords (args.length + 1) (taken s m) m (h :: args) := by
  rw [takeRequest, if_neg (by simp [hserved, hreq]), hwords]
  rfl

theorem runWords_nil (n : Nat) (s : State) (m : Nat) : runWords n s m [] = s := by cases n <;> rfl

theorem runWords_cons (n : Nat) (s : State) (m : Nat) (h : Word) (args : List Word) : runWords (n + 1) s m (h :: args) =
    if args.length < fld h 19 16 then refuseRequest s m (fld h 31 24) (fld h 15 0)
    else if h &&& reqReserved ≠ 0 then runWords n (refuseRequest s m (fld h 31 24) (fld h 15 0)) m (args.drop (fld h 19 16))
    else runWords n (runService s m (fld h 31 24) (fld h 15 0) (args.take (fld h 19 16))) m (args.drop (fld h 19 16)) := rfl

/-- A code beyond the catalogue names no service. -/
theorem runService_unnamed {code : Nat} (s : State) (m seq : Nat) (args : List Word) (h : 0xB0 < code) :
    runService s m seq code args = refuseRequest s m seq code := by
  unfold runService
  split
  all_goals first | rfl | exact absurd h (by decide)

theorem taken_frame (s : State) (m : Nat) : Frame [.mbx] s (taken s m) := Frame.into (updMb_frame _ _ _) rfl (updMb_frame s m _)

theorem taken_mbox (s : State) (m : Nat) : (mbox (taken s m) m).h2s = [] ∧ bitOf (mbox (taken s m) m).h2sDb 0 = false := by
  rw [taken, armH2s, mbox_updMb_self, mbox_updMb_self]
  dsimp only
  split <;> exact ⟨rfl, bitOf_setBit_false _ (by decide)⟩

/-- A request that is refused is answered PERMISSION and leaves the words of its mailbox as they are. -/
theorem refuseRequest_ends (t : State) (m : Nat) {seq : Nat} (svc : Nat) (hseq : seq < 256) :
    Replied (refuseRequest t m seq svc) m seq svc .permission [] ∧ Frame [.mbx] t (refuseRequest t m seq svc) ∧
      (mbox (refuseRequest t m seq svc) m).h2s = (mbox t m).h2s ∧ (mbox (refuseRequest t m seq svc) m).h2sDb = (mbox t m).h2sDb := by
  refine ⟨replied_reply _ _ _ _ _ hseq, Frame.into (reply_frame _ _ _ _ _ _ _ hseq) rfl (oweReply_frame t m seq svc), ?_⟩
  rw [refuseRequest, reply, if_neg (by omega), if_neg (by omega), mbox_updMb_self, oweReply, if_neg (by omega), mbox_updMb_self]
  exact ⟨rfl, rfl⟩

theorem requestsTaken : Claim.RequestsTaken := by
  intro s m h args hserved hreq hwords
  have hexec : exec (.requestTake m) s = .next (runWords (args.length + 1) (taken s m) m (h :: args)) :=
    congrArg Host.Outcome.next (takeRequest_eq hserved hreq hwords)
  rw [runWords_cons] at hexec
  refine ⟨fun hlen hres => ?_, fun hbad => ?_⟩
  · rw [if_neg (by omega), if_neg (not_not.2 hres), hlen, List.take_length, List.drop_length, runWords_nil] at hexec
    exact ends_of_exec hexec rfl
  · have hrefuse : exec (.requestTake m) s = .next (refuseRequest (taken s m) m (fld h 31 24) (fld h 15 0)) := by
      rw [hexec]
      rcases hbad with hlt | ⟨hlen, hbad⟩
      · rw [if_pos hlt]
      · rw [if_neg (by omega), List.drop_eq_nil_of_le hlen.le, runWords_nil, runWords_nil]
        split
        · rfl
        · next hres => rw [runService_unnamed _ _ _ _ (hbad.resolve_left hres)]
    obtain ⟨hanswer, hframe, hh2s, hdb⟩ := refuseRequest_ends (taken s m) m (fld h 15 0) (fld_lt h 31 24)
    obtain ⟨hw, hb⟩ := taken_mbox s m
    exact ends_of_exec hrefuse ⟨hanswer, hh2s.trans hw, by rw [hdb, hb], Frame.into hframe rfl (taken_frame s m)⟩

/-! ## VERSION, LAST_REPLY, OVERRIDE_LOG and HEALTH -/

/-- VERSION in the catalogue. -/
def versionSvc : Svc := { code := 0x0001, who := .any, masks := [mask 15 0] }

theorem svcVersion_eq (s : State) (m seq : Nat) (a : Word) : ∃ f, svcVersion s m seq [a] = gate s m seq versionSvc [a] f ∧
    (∀ t, fld a 7 0 ≠ 0 → fld a 15 8 ≤ 1 → f t = reply (updMb t m (fun b => { b with version := 1 })) m seq 0x0001 .ok [versionWord 1]) ∧
    (∀ t, fld a 7 0 = 0 ∨ 1 < fld a 15 8 → f t = reply t m seq 0x0001 .permission [versionWord 0]) := by
  have hhigh : verHigh = 1 := rfl
  have hlow : verLow = 1 := rfl
  refine ⟨_, rfl, fun t h0 h1 => ?_, fun t h => if_pos ?_⟩
  · have hmin : min (fld a 7 0) verHigh = 1 := by omega
    rw [argOf_zero, if_neg (by omega), hmin]
  · rw [argOf_zero]
    omega

theorem reply_version (t : State) (m : Nat) {seq : Nat} (svc : Nat) (st : Status) (res : List Word) (h : seq < 256) :
    (mbox (reply t m seq svc st res) m).version = (mbox t m).version := by
  rw [reply, if_neg (by omega), if_neg (by omega), mbox_updMb_self]

theorem version_ends (s : State) (m seq : Nat) (a : Word) (hruns : SvcRuns s m seq { code := 0x0001, who := .any, masks := [mask 15 0] } [a]) :
    (fld a 7 0 ≠ 0 → fld a 15 8 ≤ 1 → Ends (.version m seq [a]) s (fun t =>
        Replied t m seq 0x0001 .ok [versionWord 1] ∧ (mbox t m).version = 1 ∧ Frame [.mbx] s t)) ∧
    ((fld a 7 0 = 0 ∨ 1 < fld a 15 8) → Ends (.version m seq [a]) s (fun t =>
        Replied t m seq 0x0001 .permission [versionWord 0] ∧ (mbox t m).version = (mbox s m).version ∧ Frame [.mbx] s t)) := by
  have hseq : seq < 256 := hruns.1
  obtain ⟨f, hf, hok, hrefused⟩ := svcVersion_eq s m seq a
  have hexec : exec (.version m seq [a]) s = .next (f (oweReply s m seq 0x0001)) :=
    congrArg Host.Outcome.next ((hf.trans (gate_svcRuns hruns f)).trans (congrArg f (svcStart_here (.inl rfl))))
  have howe := oweReply_frame s m seq 0x0001
  refine ⟨fun h0 h1 => ?_, fun h => ?_⟩
  · rw [hok _ h0 h1] at hexec
    refine ends_of_exec hexec ⟨replied_reply _ _ _ _ _ hseq, ?_, Frame.into (reply_frame _ _ _ _ _ _ _ hseq) rfl (Frame.into (updMb_frame _ _ _) rfl howe)⟩
    rw [reply_version _ _ _ _ _ hseq, mbox_updMb_self]
  · rw [hrefused _ h] at hexec
    refine ends_of_exec hexec ⟨replied_reply _ _ _ _ _ hseq, ?_, Frame.into (reply_frame _ _ _ _ _ _ _ hseq) rfl howe⟩
    rw [reply_version _ _ _ _ _ hseq, oweReply, if_neg (by omega), mbox_updMb_self]

/-- LAST_REPLY in the catalogue. -/
def lastReplySvc : Svc := { code := 0x0003, who := .any, masks := [mask 7 0] }

theorem svcLastReply_eq (s : State) (m seq : Nat) (a : Word) : ∃ f, svcLastReply s m seq [a] = gate s m seq lastReplySvc [a] f ∧
    (∀ t h, (mbox t m).recent.find? (fun x => fld x 31 24 == fld a 7 0) = some h → f t = reply t m seq 0x0003 .ok [h]) ∧
    (∀ t, (mbox t m).recent.find? (fun x => fld x 31 24 == fld a 7 0) = none → f t = reply t m seq 0x0003 .timeout) :=
  ⟨_, rfl, fun t h hfind => by rw [argOf_zero, hfind], fun t hfind => by rw [argOf_zero, hfind]⟩

theorem lastReply_ends (s : State) (m seq : Nat) (a : Word) (hruns : SvcRuns s m seq { code := 0x0003, who := .any, masks := [mask 7 0] } [a]) :
    (∀ h, (mbox s m).recent.find? (fun x => fld x 31 24 == fld a 7 0) = some h → Ends (.lastReply m seq [a]) s (fun t =>
        Replied t m seq 0x0003 .ok [h] ∧ Frame [.mbx] s t)) ∧
    ((mbox s m).recent.find? (fun x => fld x 31 24 == fld a 7 0) = none → Ends (.lastReply m seq [a]) s (fun t =>
        Replied t m seq 0x0003 .timeout [] ∧ Frame [.mbx] s t)) := by
  have hseq : seq < 256 := hruns.1
  obtain ⟨f, hf, hok, hnone⟩ := svcLastReply_eq s m seq a
  have hexec : exec (.lastReply m seq [a]) s = .next (f (oweReply s m seq 0x0003)) :=
    congrArg Host.Outcome.next ((hf.trans (gate_svcRuns hruns f)).trans (congrArg f (svcStart_here (.inl rfl))))
  have howe := oweReply_frame s m seq 0x0003
  have hrecent : (mbox (oweReply s m seq 0x0003) m).recent = (mbox s m).recent := by rw [oweReply, if_neg (by omega), mbox_updMb_self]
  rw [← hrecent]
  refine ⟨fun h hfind => ?_, fun hfind => ?_⟩
  · rw [hok _ h hfind] at hexec
    exact svc_answers hexec hseq howe rfl
  · rw [hnone _ hfind] at hexec
    exact svc_answers hexec hseq howe rfl

/-- OVERRIDE_LOG in the catalogue. -/
def overrideLogSvc : Svc := { code := 0x0002, who := .root0, masks := [mask 7 0] }

theorem svcOverrideLog_eq (s : State) (m seq : Nat) (a : Word) : ∃ f, svcOverrideLog s m seq [a] = gate s m seq overrideLogSvc [a] f ∧
    (∀ t, isPage (fld a 7 0) = true → present t (fld a 7 0) = true → f t =
      reply t m seq 0x0002 .ok (((page t (fld a 7 0)).log.take 7).flatMap (overrideWords (fld a 7 0)))) ∧
    (∀ t, isPage (fld a 7 0) = true → present t (fld a 7 0) = false → f t = reply t m seq 0x0002 .unitAbsent) ∧
    (∀ t, isPage (fld a 7 0) = false → f t = reply t m seq 0x0002 .permission) := by
  refine ⟨_, rfl, fun t hp hu => ?_, fun t hp hu => ?_, fun t hp => if_pos (by simp [argOf_zero, hp])⟩
  · exact (if_neg (by simp [argOf_zero, hp])).trans (if_neg (by simp [argOf_zero, hu]))
  · exact (if_neg (by simp [argOf_zero, hp])).trans (if_pos (by simp [argOf_zero, hu]))

theorem overrideLog_ends (s : State) (m seq : Nat) (a : Word) (hruns : SvcRuns s m seq { code := 0x0002, who := .root0, masks := [mask 7 0] } [a]) :
    (isPage (fld a 7 0) = true → present s (fld a 7 0) = true → Ends (.overrideLog m seq [a]) s (fun t =>
        Replied t m seq 0x0002 .ok (((page s (fld a 7 0)).log.take 7).flatMap (overrideWords (fld a 7 0))) ∧ Frame [.mbx] s t)) ∧
    (isPage (fld a 7 0) = true → present s (fld a 7 0) = false → Ends (.overrideLog m seq [a]) s (fun t =>
        Replied t m seq 0x0002 .unitAbsent [] ∧ Frame [.mbx] s t)) ∧
    (isPage (fld a 7 0) = false → Ends (.overrideLog m seq [a]) s (fun t => Replied t m seq 0x0002 .permission [] ∧ Frame [.mbx] s t)) := by
  have hseq : seq < 256 := hruns.1
  obtain ⟨f, hf, hok, habsent, hrefused⟩ := svcOverrideLog_eq s m seq a
  have hexec : exec (.overrideLog m seq [a]) s = .next (f (oweReply s m seq 0x0002)) :=
    congrArg Host.Outcome.next ((hf.trans (gate_svcRuns hruns f)).trans (congrArg f (svcStart_here (.inl rfl))))
  have howe := oweReply_frame s m seq 0x0002
  have hpres : present (oweReply s m seq 0x0002) (fld a 7 0) = present s (fld a 7 0) := present_congr (howe .build (by decide)) _
  rw [← hpres, ← page_of_frame howe (by decide)]
  refine ⟨fun hp hu => ?_, fun hp hu => ?_, fun hp => ?_⟩
  · rw [hok _ hp hu] at hexec
    exact svc_answers hexec hseq howe rfl
  · rw [habsent _ hp hu] at hexec
    exact svc_answers hexec hseq howe rfl
  · rw [hrefused _ hp] at hexec
    exact svc_answers hexec hseq howe rfl
/-- HEALTH in the catalogue. -/
def healthSvc : Svc := { code := 0x00B0, who := .bmc, masks := [] }

/-- What HEALTH answers. -/
def healthWords (s : State) : List Word :=
  [pack [(0, s.ras.worstHealth), (8, s.ras.sinceHealth), (16, bitsSet (disLo s) + bitsSet (disHi s))], disLo s, disHi s,
    pack [(0, s.ras.ceTotal), (32, s.ras.ueTotal)]]

/-- The state in which what HEALTH has told begins anew. -/
def healthTold (s : State) : State := { s with ras := { s.ras with worstHealth := 0, sinceHealth := 0 } }

theorem svcHealth_eq (s : State) (m seq : Nat) :
    svcHealth s m seq [] = gate s m seq healthSvc [] (fun t => reply (healthTold t) m seq 0x00B0 .ok (healthWords t)) := rfl

/-- The mailboxes hold nothing of what HEALTH answers. -/
theorem healthWords_of_frame {s t : State} (h : Frame [.mbx] s t) : healthWords t = healthWords s := by
  have hcell : ∀ c, cellFenced t c = cellFenced s c := fun c => by rw [cellFenced, cellFenced, h .ras (by decide), h .fuses (by decide)]
  have hbuild : t.build = s.build := h .build (by decide)
  have hfenced : ∀ p, fenced t p = fenced s p := fun p => fenced_of_kept (fun q => by rw [page_of_frame h (by decide)]) (h .fuses (by decide)) p
  have hlo : disLo t = disLo s := by simp only [disLo, hcell, hbuild]
  have hhi : disHi t = disHi s := by simp only [disHi, hfenced]
  rw [healthWords, healthWords, hlo, hhi, h .ras (by decide)]

theorem health_ends (s : State) (m seq : Nat) (hruns : SvcRuns s m seq { code := 0x00B0, who := .bmc, masks := [] } []) :
    Ends (.health m seq []) s (fun t =>
      Replied t m seq 0x00B0 .ok [pack [(0, s.ras.worstHealth), (8, s.ras.sinceHealth), (16, bitsSet (disLo s) + bitsSet (disHi s))], disLo s, disHi s,
        pack [(0, s.ras.ceTotal), (32, s.ras.ueTotal)]] ∧
      t.ras = { s.ras with worstHealth := 0, sinceHealth := 0 } ∧ Frame [.ras, .mbx] s t) := by
  have hseq : seq < 256 := hruns.1
  have howe := oweReply_frame s m seq 0x00B0
  have hexec : exec (.health m seq []) s = .next (reply (healthTold (oweReply s m seq 0x00B0)) m seq 0x00B0 .ok (healthWords s)) := by
    refine congrArg Host.Outcome.next ((svcHealth_eq s m seq).trans ((gate_svcRuns hruns _).trans ?_))
    rw [svcStart_here (.inl rfl)]
    exact congrArg (fun w => reply _ m seq 0x00B0 .ok w) (healthWords_of_frame howe)
  have hreply := reply_frame (healthTold (oweReply s m seq 0x00B0)) m seq 0x00B0 .ok (healthWords s) false hseq
  refine ends_of_exec hexec ⟨replied_reply _ _ _ _ _ hseq, ?_, Frame.into hreply rfl (howe.trans (m := [.ras]) ?_ (by decide) (by decide))⟩
  · rw [hreply .ras (by decide), healthTold, howe .ras (by decide)]
  · intro c hc
    cases c <;> first | exact absurd (by decide) hc | rfl

theorem generalServices : Claim.GeneralServices :=
  fun s m seq a => ⟨version_ends s m seq a, lastReply_ends s m seq a, overrideLog_ends s m seq a, health_ends s m seq⟩

/-! ## Services of cascade scope -/

/-- The services that a block relays all go through the gate, under their codes. -/
theorem exec_relayOf {c : Instr} {m seq code : Nat} {args : List Word} (h : relayOf c = some (m, seq, code, args)) (s : State) (hseq : seq < 256)
    (hmaster : s.cas.master = false) :
    (cascadeScope code = true ∨ code = 0x80) ∧ ∃ v f, v.code = code ∧ exec c s = .next (gate s m seq v args f) := by
  have hreads : ∀ {i : Instr} {code : Nat} {rd rc : List Nat} {f : State → State}, cascadeScope code = true →
      sudricReads s i m seq code rd rc f = f s := fun hscope => if_pos ⟨hseq, .inr (by simp [hmaster, hscope])⟩
  unfold relayOf at h
  split at h
  all_goals cases h
  case h_11 | h_12 | h_13 | h_17 => exact ⟨by decide, _, _, rfl, congrArg Host.Outcome.next (hreads rfl)⟩
  all_goals exact ⟨by decide, _, _, rfl, rfl⟩

theorem gate_relays (s : State) (m : Nat) {seq : Nat} (v : Svc) (args : List Word) (f : State → State) (hseq : seq < 256) (hserved : mbServed s m = true)
    (hmaster : s.cas.master = false) (hboot : bootAllows s m v.code = true) (hscope : cascadeScope v.code = true ∨ v.code = 0x80) :
    gate s m seq v args f = relaySvc (oweReply s m seq v.code) m seq v args := by
  have howe := oweReply_frame s m seq v.code
  have hboot2 : bootAllows (oweReply s m seq v.code) m v.code = true := by
    rw [← hboot, bootAllows, bootAllows, howe .fuses (by decide), howe .boot (by decide)]
  rw [gate, if_neg (by simp [hserved]), if_neg (by omega), if_pos (by simpa [hmaster, hseq] using hscope), if_neg (by simp [hboot2])]

/-- Where a message to another block goes: out, or into the pool of those that wait for a credit. -/
theorem casSend_sent {s : State} {x : CasMsg} {p : Nat} (h : casPort s x.dst = some p) :
    OutMsg.cas p x ∈ (casSend s x).out ∨ x ∈ (casSend s x).cas.pools := by
  rw [casSend, h]
  dsimp only
  split
  · left
    rw [emit_unlinked rfl]
    exact List.mem_append_right _ (List.mem_singleton.2 rfl)
  · exact .inr (List.mem_append_right _ (List.mem_singleton.2 rfl))

theorem serviceRelay : Claim.ServiceRelay := by
  refine ⟨fun c s m seq code args hc hseq hserved hmaster hboot => ?_, fun s m seq v args f hmaster hscope hctx hcheck => ?_⟩
  · obtain ⟨hscope, v, f, rfl, hexec⟩ := exec_relayOf hc s hseq hmaster
    rw [gate_relays s m v args f hseq hserved hmaster hboot hscope] at hexec
    have howe := oweReply_frame s m seq v.code
    have hreplies : (mbox (oweReply s m seq v.code) m).replies.length = (mbox s m).replies.length + 1 := by
      rw [oweReply, if_neg (by omega), mbox_updMb_self]
      simp
    have hpos : masterPos (oweReply s m seq v.code) = masterPos s := by rw [masterPos, masterPos, howe .cas (by decide)]
    have hport : ∀ b, casPort (oweReply s m seq v.code) b = casPort s b := fun b => by
      rw [casPort, casPort, howe .cas (by decide)]
    have hcas : (oweReply s m seq v.code).cas = s.cas := howe .cas (by decide)
    generalize oweReply s m seq v.code = t at hexec howe hreplies hpos hport hcas
    rw [relaySvc, hpos] at hexec
    refine ⟨fun b p hb hp => ?_, fun hnone => ?_⟩
    · rw [hb, Option.filter_some, if_pos (by rw [hport, hp]; rfl)] at hexec
      dsimp only at hexec
      rw [hcas, Nat.mod_eq_of_lt hseq] at hexec
      have hsend := casSend_outFrame t { src := s.cas.pos, dst := b, cls := 5, bytes := 16 + 8 * args.length, load := .svc m seq v.code args }
      refine ends_of_exec hexec ⟨casSend_sent ((hport b).trans hp), ?_, howe.trans hsend (by decide) (by decide)⟩
      rw [mbox, hsend .mbx (by decide)]
      exact hreplies
    · have hfilter : (masterPos s).filter (fun b => (casPort t b).isSome) = none := by
        cases hb : masterPos s with
        | none => rfl
        | some b => rw [Option.filter_some, if_neg (by simp [hport, hnone b hb])]
      rw [hfilter] at hexec
      exact svc_answers hexec hseq howe rfl
  · unfold runSvc
    cases hp : v.page with
    | none => exact congrArg f (if_pos (by simp [hmaster, hscope, hctx]))
    | some p =>
      dsimp only
      rw [overrideCheck_idle s p (by rw [hp] at hcheck; simpa using hcheck), if_pos (by simp [hmaster, hscope, hctx])]

/-! ## Services whose records lie on lines that others hold -/

theorem sudricReads_asks {s u : State} {i : Instr} {m seq code : Nat} {rd rc : List Nat} {f : State → State} (hseq : seq < 256)
    (hserved : mbServed s m = true) (hscope : s.cas.master = true ∨ cascadeScope code = false) (h : linesAsk s kSudric rd rc = some u) :
    sudricReads s i m seq code rd rc f = later u i := by
  have hsilent : isSilent seq = false := decide_eq_false (by omega)
  rw [sudricReads, if_neg (by rcases hscope with h | h <;> simp [hserved, h]), hsilent]
  simp only [Bool.false_eq_true, if_false, h]

theorem exec_svcLines {s : State} {c : Instr} {m seq code : Nat} {rd rc : List Nat} (h : svcLines s c = some (m, seq, code, rd, rc)) :
    ∃ f, exec c s = .next (sudricReads s c m seq code rd rc f) := by
  unfold svcLines at h
  split at h
  all_goals cases h
  all_goals exact ⟨_, rfl⟩

theorem serviceLines : Claim.ServiceLines := by
  intro c s u m seq code rd rc hc hseq hserved hscope hask
  obtain ⟨f, hexec⟩ := exec_svcLines hc
  rw [sudricReads_asks hseq hserved hscope hask] at hexec
  exact ends_of_exec hexec rfl

/-- Settles O53. -/
theorem mailboxRequests : Obligations.MailboxRequests := ⟨requestsTaken, generalServices, serviceRelay, serviceLines⟩

end Sys2Proof.Machine
end

section
namespace Sys2Proof.Machine
open Sys2Proof

/-! # What the start of a service leaves as it finds it

When a service starts, its reply is owed, the other blocks of the cascade may have been told (R501), and what Sudric asked for is no longer
fresh. What the block looks up then is what it would have looked up before.
-/

/-- What the start of a service may set: the mailboxes, the credits and pools of the cascade, the messages sent, and the answers that are
fresh to an operation. -/
structure Told where
  mbx : Mbx
  credits : Tbl Nat
  pools : List CasMsg
  out : List OutMsg
  fresh : List (Nat × Nat)

/-- The state in which that is set. -/
def told (x : Told) (s : State) : State :=
  { s with mbx := x.mbx, cas := { s.cas with credits := x.credits, pools := x.pools }, out := x.out, hom := { s.hom with fresh := x.fresh } }

theorem told_frame (x : Told) (s : State) : Frame [.mbx, .hom, .cas, .out] s (told x s) := by
  intro c hc
  cases c <;> first | exact absurd (by decide) hc | rfl

theorem told_told (x y : Told) (s : State) : told x (told y s) = told x s := rfl

/-! ## The start of a service -/

theorem updMb_told (s : State) (m : Nat) (f : Mailbox → Mailbox) : ∃ x, updMb s m f = told x s := ⟨⟨_, _, _, _, _⟩, rfl⟩

theorem oweReply_told (s : State) (m seq svc : Nat) : ∃ x, oweReply s m seq svc = told x s := by
  unfold oweReply
  split
  · exact ⟨⟨_, _, _, _, _⟩, rfl⟩
  · exact updMb_told _ _ _

theorem casSend_told (s : State) (q : CasMsg) : ∃ x, casSend s q = told x s := by
  unfold casSend
  split
  · exact ⟨⟨_, _, _, _, _⟩, rfl⟩
  · split
    · rw [emit_unlinked rfl]
      exact ⟨⟨_, _, _, _, _⟩, rfl⟩
    · exact ⟨⟨_, _, _, _, _⟩, rfl⟩

theorem casAll_told (s : State) (l : CasLoad) : ∃ x, casAll s l = told x s := by
  refine List.foldlRecOn (motive := fun t => ∃ x, t = told x s) _ _ ⟨⟨_, _, _, _, _⟩, rfl⟩ (fun t ⟨x, ht⟩ b _ => ?_)
  obtain ⟨y, hy⟩ := casSend_told t { src := s.cas.pos, dst := b, cls := 5, bytes := 16, load := l }
  exact ⟨y, by rw [ht] at hy ⊢; exact hy⟩

theorem svcStart_told (s : State) (m seq : Nat) (v : Svc) (args : List Word) : ∃ x, svcStart s m seq v args = told x s := by
  obtain ⟨x, hx⟩ := oweReply_told s m seq v.code
  rw [svcStart, hx]
  split
  · obtain ⟨y, hy⟩ := casAll_told (told x s) (.svc m (silent seq) v.code args)
    exact ⟨y, hy⟩
  · exact ⟨x, rfl⟩

theorem ownDone_told (s : State) (k : Nat) : ∃ x, ownDone s k = told x s := ⟨⟨_, _, _, _, _⟩, rfl⟩

/-! ## What a lookup finds -/

variable (x : Told) (s : State)

theorem rdWord_told (a : Nat) : rdWord (told x s) a = rdWord s a := rfl
theorem memStatus_told (l : Nat) : memStatus (told x s) l = memStatus s l := rfl
theorem inLayout_told (p a : Nat) : inLayout (told x s) p a = inLayout s p a := rfl
theorem localX_told (e : Xlat) : localX (told x s) e = localX s e := rfl
theorem bytesPois_told (a n : Nat) : bytesPois (told x s) a n = bytesPois s a n := rfl
theorem upTouch_told (u : UpEntry) : upTouch (told x s) u = told x (upTouch s u) := rfl
theorem keyOf_told (p : Nat) : keyOf (told x s) p = keyOf s p := rfl
theorem present_told (p : Nat) : present (told x s) p = present s p := rfl

theorem tableRead_told (a : Nat) (k : Nat × Nat) : tableRead (told x s) a k = tableRead s a k := by
  unfold tableRead
  rw [memStatus_told, bytesPois_told]
  rfl

theorem s2Levels_told (p gpa n lvl tbl : Nat) :
    (s2Levels (told x s) none p gpa n lvl tbl).2 = (s2Levels s none p gpa n lvl tbl).2 := by
  induction n generalizing lvl tbl s with
  | zero => rfl
  | succ n ih =>
    unfold s2Levels
    simp only [inLayout_told, keyOf_told, tableRead_told, upTouch_told, tableAsk, apply_ite Prod.snd, ih]

theorem upFind_told (st : Bool) (id lvl a : Nat) : upFind (told x s) st id lvl a = upFind s st id lvl a := rfl
theorem lanternFind_told (st : Bool) (id a : Nat) : lanternFind (told x s) st id a = lanternFind s st id a := rfl

theorem s2Translate_told (p gpa : Nat) : (s2Translate (told x s) none p gpa).2 = (s2Translate s none p gpa).2 := by
  have hs2 : (told x s).lan.s2 = s.lan.s2 := rfl
  unfold s2Translate
  simp only [hs2, upTouch_told, upFind_told, lanternFind_told, apply_ite Prod.snd]
  congr 1
  cases lanternFind s true p gpa with
  | some e => rfl
  | none =>
    cases upFind s true p 1 gpa with
    | some u => exact s2Levels_told _ _ _ _ _ _ _
    | none =>
      cases upFind s true p 0 gpa with
      | some u => exact s2Levels_told _ _ _ _ _ _ _
      | none => exact s2Levels_told _ _ _ _ _ _ _

theorem gpaLookup_told (p gpa : Nat) : gpaLookup (told x s) p gpa = gpaLookup s p gpa := by
  unfold gpaLookup
  rw [s2Translate_told]
  simp only [localX_told, present_told, inLayout_told, memStatus_told]
  rfl

theorem objWhere_told (p id : Nat) : objWhere (told x s) p id = objWhere s p id := by
  have hpart : part (told x s) p = part s p := rfl
  unfold objWhere
  simp only [hpart, gpaLookup_told, bytesPois_told]

theorem homeHere_told (l : Nat) : homeHere (told x s) l = homeHere s l := by
  have hn : ∀ n k, nextHome (told x s) n k = nextHome s n k := by
    intro n
    induction n with
    | zero => intro k; rfl
    | succ n ih =>
      intro k
      simp only [nextHome, ih]
      rfl
  have hk : homeK (told x s) l = homeK s l := rfl
  have hb : blocks (told x s) = blocks s := rfl
  have hpos : (told x s).cas.pos = s.cas.pos := rfl
  simp only [homeHere, homeOf, hk, hn, hb, hpos]

theorem lineIdle_told (l : Nat) : lineIdle (told x s) l = lineIdle s l := by
  unfold lineIdle
  rw [homeHere_told]
  rfl

/-! ## The records of objects -/

theorem wrPuts_told (l : List (Nat × Word)) : wrPuts (told x s) l = told x (wrPuts s l) := by
  induction l generalizing s with
  | nil => rfl
  | cons e l ih => exact ih (wrWord s e.1 e.2)

theorem relayPuts_told (p : Nat) (l : List (Nat × Word)) : relayPuts (told x s) p l = told x (relayPuts s p l) := by
  induction l generalizing s with
  | nil => rfl
  | cons e l ih => exact ih (relayLater s (relayBytes s p e.1 (wordBytes e.2)))

theorem ownPut_told (p a : Nat) (l : List Word) : ownPut (told x s) p a l = told x (ownPut s p a l) := by
  unfold ownPut ownPuts
  simp only [lineIdle_told, wrPuts_told, relayPuts_told]
  split <;> rfl

/-- The reference count of a record. -/
def refsOf (s : State) (a : Nat) : Nat := fld (rdWord s (a + 8)) 31 0

/-- A reference is taken of a valid record whose count is neither 0 nor saturated; the count goes up by one. -/
theorem objOp_take {s u : State} {n p id : Nat} : objOp s p id true = (u, .ok, n) ↔ ∃ a, objWhere s p id = (.ok, a) ∧ objWord0Ok (rdWord s a) p id = true ∧
    refsOf s a ≠ 0 ∧ refsOf s a < 0xFFFFFF00 ∧ u = ownPut s p (a + 8) [setFld (rdWord s (a + 8)) 31 0 (refsOf s a + 1)] ∧ n = refsOf s a + 1 := by
  unfold objOp
  obtain ⟨st, a⟩ := objWhere s p id
  dsimp only [refsOf]
  constructor
  · intro h
    split at h
    · next hst => exact absurd (Prod.mk.inj (Prod.mk.inj h).2).1 (by simpa using hst)
    · next hst =>
      obtain rfl : st = .ok := by simpa using hst
      split at h
      · cases h
      · next hword =>
        split at h
        · cases h
        · next h0 =>
          rw [if_pos rfl] at h
          split at h
          · cases h
          · next hmax =>
            cases h
            exact ⟨a, rfl, by simpa using hword, h0, by omega, rfl, rfl⟩
  · rintro ⟨b, hb, hword, h0, hmax, rfl, rfl⟩
    obtain ⟨rfl, rfl⟩ := Prod.mk.inj hb
    rw [if_neg (by simp), if_neg (by simp [hword]), if_neg h0, if_pos rfl, if_neg (by omega)]

/-- A reference of an object is taken as it would have been. -/
theorem objOp_told {s u : State} {n p id : Nat} (h : objOp s p id true = (u, .ok, n)) : objOp (told x s) p id true = (told x u, .ok, n) := by
  obtain ⟨a, hwhere, hword, h0, hmax, rfl, rfl⟩ := objOp_take.1 h
  exact objOp_take.2 ⟨a, (objWhere_told x s p id).trans hwhere, hword, h0, hmax, (ownPut_told x s _ _ _).symm, rfl⟩

/-- All references are taken, one after the other. -/
theorem takeAll_ok {s u : State} {p id : Nat} {got l : List Nat} :
    takeAll s p got (id :: l) = (u, .ok) ↔ ∃ v n, objOp s p id true = (v, .ok, n) ∧ takeAll v p (id :: got) l = (u, .ok) := by
  rw [takeAll]
  obtain ⟨v, st, n⟩ := objOp s p id true
  dsimp only
  constructor
  · intro h
    split at h
    · next hst => exact ⟨v, n, by rw [eq_of_beq hst], h⟩
    · next hst => exact absurd (Prod.mk.inj h).2 (by simpa using hst)
  · rintro ⟨w, k, hw, h⟩
    cases hw
    exact h

theorem takeAll_told {p : Nat} {s u : State} {got l : List Nat} (h : takeAll s p got l = (u, .ok)) : takeAll (told x s) p got l = (told x u, .ok) := by
  induction l generalizing s got with
  | nil =>
    cases h
    rfl
  | cons id l ih =>
    obtain ⟨v, n, htake, hrest⟩ := takeAll_ok.1 h
    exact takeAll_ok.2 ⟨_, n, objOp_told x htake, ih hrest⟩

/-- Taking references leaves all but their records, and what waits for the lines of those, as it is. -/
theorem takeAll_taken {p : Nat} {s u : State} {got l : List Nat} (h : takeAll s p got l = (u, .ok)) : Frame [.hom, .mem, .memPois, .memKey] s u := by
  induction l generalizing s got with
  | nil =>
    cases h
    exact Frame.refl _ _
  | cons id l ih =>
    obtain ⟨v, n, htake, hrest⟩ := takeAll_ok.1 h
    obtain ⟨a, -, -, -, -, rfl, -⟩ := objOp_take.1 htake
    exact (ownPut_frame s p _ _).andThen (ih hrest) (by decide)

theorem gpaInLayout_told (p gpa : Nat) : gpaInLayout (told x s) p gpa = gpaInLayout s p gpa := by
  unfold gpaInLayout
  rw [s2Translate_told]
  cases (s2Translate s none p gpa).2 with
  | ok e => rfl
  | fault => rfl
  | ask => rfl

theorem rangeInLayout_told (p gpa n : Nat) : rangeInLayout (told x s) p gpa n = rangeInLayout s p gpa n := by
  unfold rangeInLayout
  simp only [gpaInLayout_told]

theorem ringObjOk_told (p id : Nat) (fence : Bool) (bytes : Nat) : ringObjOk (told x s) p id fence bytes = ringObjOk s p id fence bytes := by
  unfold ringObjOk
  rw [objWhere_told]
  rfl

theorem objTableOk_told (p : Nat) (a b c : Word) : objTableOk (told x s) p a b c = objTableOk s p a b c := by
  unfold objTableOk objTblFits relRingFits
  simp only [rangeInLayout_told]

/-! ## Services whose records Sudric reads -/

/-- A service that no line keeps from its records runs as it would have run. -/
theorem sudricReads_runs {s : State} {i : Instr} {m seq : Nat} {v : Svc} {args : List Word} {rd rc : List Nat} (hruns : SvcRuns s m seq v args)
    (hask : linesAsk s kSudric rd rc = none) (f : State → State) :
    ∃ x, sudricReads s i m seq v.code rd rc (fun t => gate t m seq v args f) = f (told x s) ∧
      (cascadeScope v.code = false ∨ ctxScope v.code = true → Frame [.mbx, .hom] s (told x s)) := by
  have hsilent : isSilent seq = false := decide_eq_false (by have := hruns.1; omega)
  have hdone : SvcRuns (ownDone s kSudric) m seq v args := hruns
  obtain ⟨x, hx⟩ := svcStart_told (ownDone s kSudric) m seq v args
  obtain ⟨y, hy⟩ := ownDone_told s kSudric
  have hhere : cascadeScope v.code = false ∨ ctxScope v.code = true → Frame [.mbx, .hom] s (told x s) := fun hscope => by
    have h := (ownDone_frame s kSudric).trans (svcStart_hereFrame (m := m) (seq := seq) (args := args) hscope) (n := [.mbx, .hom]) (by decide) (by decide)
    rwa [hx, hy] at h
  refine ⟨x, ?_, hhere⟩
  obtain ⟨-, hmaster, hserved, -, -⟩ := hruns
  have hrun : ¬ (seq < 256 ∧ (!mbServed s m ∨ (!s.cas.master ∧ cascadeScope v.code))) := by
    rintro ⟨-, h | ⟨h1, h2⟩⟩
    · simp [hserved] at h
    · simp [hmaster (.inl h2)] at h1
  rw [sudricReads, if_neg hrun, hsilent]
  simp only [Bool.false_eq_true, if_false, hask]
  rw [gate_svcRuns hdone, hx, hy, told_told]

end Sys2Proof.Machine
end

section
namespace Sys2Proof.Machine
open Sys2Proof

/-! # Services of a driver (R403 to R410, R500) -/

/-! ## Contexts -/

/-- CTX_CREATE in the catalogue. -/
def ctxCreateSvc : Svc := { code := 0x0030, who := .driver, masks := [mask 11 0], page := some pLMP }

/-- The state after context i has been given to a partition, bound to a space. -/
def ctxGiven (t : State) (m i sp : Nat) : State :=
  { takeUnit t uCtx i with
    lan := { t.lan with spaces := tupd t.lan.spaces sp (fun x => { x with bound := x.bound + 1 }) }
    lmp := { t.lmp with ctxs := tset t.lmp.ctxs i { part := m, space := sp, st := .live } } }

theorem svcCtxCreate_eq (s : State) (m seq : Nat) (a : Word) : ∃ f, svcCtxCreate s m seq [a] = gate s m seq ctxCreateSvc [a] f ∧
    (∀ t i, ownSpace t m (fld a 11 0) = true → freeCtx t = some i → f t =
      reply (noteSel (ctxGiven t m i (fld a 11 0)) pLMP 0x240 i) m seq 0x0030 .ok [w64 (ctxNum t i)]) ∧
    (∀ t, ownSpace t m (fld a 11 0) = true → freeCtx t = none → f t = reply t m seq 0x0030 .quota) ∧
    (∀ t, ownSpace t m (fld a 11 0) = false → f t = reply t m seq 0x0030 .permission) := by
  refine ⟨_, rfl, fun t i hs hi => ?_, fun t hs hi => ?_, fun t hs => if_pos (by simp [argOf_zero, hs])⟩
  · refine (if_neg (by simp [argOf_zero, hs])).trans ?_
    rw [hi]
    rfl
  · refine (if_neg (by simp [argOf_zero, hs])).trans ?_
    rw [hi]

theorem ctxGiven_spaces (t : State) (m i sp : Nat) :
    (ctxGiven t m i sp).lan.spaces = tupd t.lan.spaces sp (fun x => { x with bound := x.bound + 1 }) := rfl

theorem ctxGiven_frame (t : State) (m i sp : Nat) : Frame [.lan, .lmp, .inUse] t (ctxGiven t m i sp) := by
  intro c hc
  cases c <;> first | exact absurd (by decide) hc | rfl

theorem ctxCreates (s : State) (m seq : Nat) (a : Word) (hruns : SvcRuns s m seq { code := 0x0030, who := .driver, masks := [mask 11 0], page := some pLMP } [a]) :
    (∀ i, ownSpace s m (fld a 11 0) = true → freeCtx s = some i → Ends (.ctxCreate m seq [a]) s (fun t =>
        Replied t m seq 0x0030 .ok [w64 (ctxNum s i)] ∧ tget t.lmp.ctxs i = { part := m, space := fld a 11 0, st := .live } ∧
        (∀ j, j ≠ i → tget t.lmp.ctxs j = tget s.lmp.ctxs j) ∧
        tget t.lan.spaces (fld a 11 0) = { tget s.lan.spaces (fld a 11 0) with bound := (tget s.lan.spaces (fld a 11 0)).bound + 1 } ∧
        (∀ j, j ≠ fld a 11 0 → tget t.lan.spaces j = tget s.lan.spaces j) ∧ t.inUse = (uCtx, i) :: s.inUse ∧
        Frame [.pages, .lan, .lmp, .mbx, .inUse] s t)) ∧
      (ownSpace s m (fld a 11 0) = true → freeCtx s = none → Ends (.ctxCreate m seq [a]) s (fun t =>
        Replied t m seq 0x0030 .quota [] ∧ Frame [.mbx] s t)) ∧
      (ownSpace s m (fld a 11 0) = false → Ends (.ctxCreate m seq [a]) s (fun t => Replied t m seq 0x0030 .permission [] ∧ Frame [.mbx] s t)) := by
  have hseq : seq < 256 := hruns.1
  obtain ⟨f, hf, hok, hnone, hrefused⟩ := svcCtxCreate_eq s m seq a
  have hexec : exec (.ctxCreate m seq [a]) s = .next (f (svcStart s m seq ctxCreateSvc [a])) :=
    congrArg Host.Outcome.next (hf.trans (gate_svcRuns hruns f))
  have hstart := svcStart_hereFrame (s := s) (m := m) (seq := seq) (v := ctxCreateSvc) (args := [a]) (.inr rfl)
  generalize svcStart s m seq ctxCreateSvc [a] = t at hexec hstart
  have hlan : t.lan = s.lan := hstart .lan (by decide)
  have hlmp : t.lmp = s.lmp := hstart .lmp (by decide)
  have huse : t.inUse = s.inUse := hstart .inUse (by decide)
  have hown : ownSpace t m (fld a 11 0) = ownSpace s m (fld a 11 0) := by rw [ownSpace, ownSpace, hlan]
  have hfree : freeCtx t = freeCtx s := by simp only [freeCtx, unitOpen, hlmp, huse]
  have hnum : ∀ i, ctxNum t i = ctxNum s i := fun i => by rw [ctxNum, ctxNum, hstart .cas (by decide)]
  rw [← hown, ← hfree, ← hlan, ← hlmp, ← huse]
  refine ⟨fun i hs hi => ?_, fun hs hi => ?_, fun hs => ?_⟩
  · rw [hok t i hs hi, hnum] at hexec
    have hdone : Frame [.pages, .mbx] (ctxGiven t m i (fld a 11 0))
        (reply (noteSel (ctxGiven t m i (fld a 11 0)) pLMP 0x240 i) m seq 0x0030 .ok [w64 (ctxNum s i)]) :=
      Frame.into (reply_frame _ _ _ _ _ _ _ hseq) rfl ((noteBasic_frame _ _ _ _ _).mono (by decide))
    refine ends_of_exec hexec ⟨replied_reply _ _ _ _ _ hseq, ?_⟩
    rw [hdone .lmp (by decide), hdone .lan (by decide), hdone .inUse (by decide)]
    rw [ctxGiven_spaces]
    exact ⟨tget_tset_self _ _ _, fun j hj => tget_tset_ne _ _ _ _ hj, tget_tupd_self _ _ _, fun j hj => tget_tupd_ne _ _ _ _ hj, rfl,
      Frame.into hdone rfl (hstart.trans (ctxGiven_frame _ _ _ _) (by decide) (by decide))⟩
  · rw [hnone t hs hi] at hexec
    exact svc_answers hexec hseq hstart rfl
  · rw [hrefused t hs] at hexec
    exact svc_answers hexec hseq hstart rfl

/-- CTX_DESTROY in the catalogue. -/
def ctxDestroySvc : Svc := { code := 0x0031, who := .driver, masks := [mask 15 0], page := some pLMP }

/-- The context whose destroy waits; one that is lost already is being killed. -/
def ctxKilled (t : State) (m seq c : Nat) : State :=
  updCtx t c (fun x => { x with killMb := some (m, seq), st := if x.st == .lost then .killing else x.st })

theorem svcCtxDestroy_eq (s : State) (m seq : Nat) (a : Word) : ∃ f, svcCtxDestroy_ s m seq [a] = gate s m seq ctxDestroySvc [a] f ∧
    (∀ t i, ctxIdx t (fld a 15 0) = some i → (ctxOf t (fld a 15 0)).part = m → (ctxOf t (fld a 15 0)).killMb = none →
      (ctxOf t (fld a 15 0)).st = .live ∨ (ctxOf t (fld a 15 0)).st = .lost → f t =
      doom (ctxKilled t m seq (fld a 15 0)) (fld a 15 0) .contextLost) ∧
    (∀ t, ctxIdx t (fld a 15 0) = none ∨ ((ctxOf t (fld a 15 0)).st ≠ .free ∧ (ctxOf t (fld a 15 0)).part ≠ m) → f t =
      reply t m seq 0x0031 .permission) := by
  refine ⟨_, rfl, fun t i hi hp hk hst => ?_, fun t h => ?_⟩
  · refine (if_neg (by simp [argOf_zero, hi])).trans ((if_neg ?_).trans ((if_neg ?_).trans (if_neg ?_)))
    · rcases hst with h | h <;> simp [argOf_zero, h]
    · simp [argOf_zero, hp]
    · rcases hst with h | h <;> simp [argOf_zero, h, hk]
  · by_cases hi : ctxIdx t (fld a 15 0) = none
    · exact if_pos (by simp [argOf_zero, hi])
    · obtain ⟨hst, hp⟩ := h.resolve_left hi
      exact (if_neg (by simpa [argOf_zero] using hi)).trans ((if_neg (by simpa [argOf_zero] using hst)).trans (if_pos (by simpa [argOf_zero] using hp)))

/-- What an update of a context leaves of it. -/
theorem ctxOf_updCtx {t : State} {c i : Nat} (h : ctxIdx t c = some i) (f : Ctx → Ctx) : ctxOf (updCtx t c f) c = f (ctxOf t c) := by
  have hidx : ctxIdx (updCtx t c f) c = some i := by
    rw [← h, ctxIdx, ctxIdx, updCtx_frame t c f .cas (by decide)]
  rw [ctxOf, hidx, ctxOf, h, updCtx, h]
  exact tget_tupd_self _ _ _

theorem ctxDestroys (s : State) (m seq : Nat) (a : Word) (hruns : SvcRuns s m seq { code := 0x0031, who := .driver, masks := [mask 15 0], page := some pLMP } [a]) :
    let c := fld a 15 0
    (∀ i, ctxIdx s c = some i → (ctxOf s c).part = m → (ctxOf s c).killMb = none →
      ((ctxOf s c).st = .live → Ends (.ctxDestroy m seq [a]) s (fun t =>
        ctxOf t c = { ctxOf s c with killMb := some (m, seq), doomed := some ((ctxOf s c).doomed.getD .contextLost) } ∧ Frame [.lmp, .mbx] s t)) ∧
      ((ctxOf s c).st = .lost → Ends (.ctxDestroy m seq [a]) s (fun t =>
        ctxOf t c = { ctxOf s c with killMb := some (m, seq), st := .killing } ∧ Frame [.lmp, .mbx] s t))) ∧
    (ctxIdx s c = none ∨ ((ctxOf s c).st ≠ .free ∧ (ctxOf s c).part ≠ m) → Ends (.ctxDestroy m seq [a]) s (fun t =>
      Replied t m seq 0x0031 .permission [] ∧ Frame [.mbx] s t)) := by
  intro c
  have hseq : seq < 256 := hruns.1
  obtain ⟨f, hf, hkill, hrefused⟩ := svcCtxDestroy_eq s m seq a
  have hexec : exec (.ctxDestroy m seq [a]) s = .next (f (svcStart s m seq ctxDestroySvc [a])) :=
    congrArg Host.Outcome.next (hf.trans (gate_svcRuns hruns f))
  have hstart := svcStart_hereFrame (s := s) (m := m) (seq := seq) (v := ctxDestroySvc) (args := [a]) (.inr rfl)
  generalize svcStart s m seq ctxDestroySvc [a] = t at hexec hstart
  have hidx : ctxIdx t c = ctxIdx s c := by rw [ctxIdx, ctxIdx, hstart .cas (by decide)]
  have hctx : ctxOf t c = ctxOf s c := by rw [ctxOf, ctxOf, hidx, hstart .lmp (by decide)]
  rw [← hidx, ← hctx]
  have hkilled : Frame [.lmp, .mbx] s (ctxKilled t m seq c) := hstart.trans (updCtx_frame t c _) (by decide) (by decide)
  refine ⟨fun i hi hp hk => ⟨fun hst => ?_, fun hst => ?_⟩, fun h => ?_⟩
  · rw [hkill t i hi hp hk (.inl hst)] at hexec
    have hof : ctxOf (ctxKilled t m seq c) c = { ctxOf t c with killMb := some (m, seq) } := by
      have hsame : (if (ctxOf t c).st == .lost then .killing else (ctxOf t c).st) = (ctxOf t c).st := by rw [hst]; rfl
      rw [ctxKilled, ctxOf_updCtx hi, hsame]
    have hidx2 : ctxIdx (ctxKilled t m seq c) c = some i := by rw [← hi, ctxIdx, ctxIdx, hkilled .cas (by decide), hstart .cas (by decide)]
    have hlive : ctxLive (ctxKilled t m seq c) c = true := by
      rw [ctxLive, hof, hidx2]
      exact beq_iff_eq.2 hst
    rw [doom, if_pos hlive] at hexec
    refine ends_of_exec hexec ⟨?_, Frame.into (updCtx_frame _ _ _) rfl hkilled⟩
    rw [ctxOf_updCtx hidx2, hof]
  · rw [hkill t i hi hp hk (.inr hst)] at hexec
    have hof : ctxOf (ctxKilled t m seq c) c = { ctxOf t c with killMb := some (m, seq), st := .killing } := by
      rw [ctxKilled, ctxOf_updCtx hi, hst]
      rfl
    have hlive : ctxLive (ctxKilled t m seq c) c = false := by
      rw [ctxLive, hof]
      exact Bool.and_false _
    rw [doom, if_neg (Bool.eq_false_iff.1 hlive)] at hexec
    exact ends_of_exec hexec ⟨hof, hkilled⟩
  · rw [hrefused t h] at hexec
    exact svc_answers hexec hseq hstart rfl

/-! ## Spaces -/

/-- SPACE_GET in the catalogue. -/
def spaceGetSvc : Svc := { code := 0x0032, who := .driver, masks := [mask 51 15], page := some pLAN }

/-- A space as it is given to a partition, with the root of its tables. -/
def givenTo (m root : Nat) (x : Space) : Space := { x with valid := true, root := root, part := m, taken := true, sizes := 0 }

/-- The state after space i has been given to a partition. -/
def spaceGiven (t : State) (m i root : Nat) : State :=
  { takeUnit t uSpace i with lan := { t.lan with spaces := tupd t.lan.spaces i (givenTo m root) } }

theorem spaceGiven_spaces (t : State) (m i root : Nat) : (spaceGiven t m i root).lan.spaces = tupd t.lan.spaces i (givenTo m root) := rfl

theorem spaceGiven_frame (t : State) (m i root : Nat) : Frame [.lan, .inUse] t (spaceGiven t m i root) := by
  intro c hc
  cases c <;> first | exact absurd (by decide) hc | rfl

theorem svcSpaceGet_eq (s : State) (m seq : Nat) (a : Word) : ∃ f, svcSpaceGet s m seq [a] = gate s m seq spaceGetSvc [a] f ∧
    (∀ t i, freeSpace t = some i → f t =
      reply (noteSels (spaceGiven t m i (fld a 51 15 * 2 ^ 15)) pLAN i [0x218, 0x220]) m seq 0x0032 .ok [w64 i]) ∧
    (∀ t, freeSpace t = none → f t = reply t m seq 0x0032 .quota) :=
  ⟨_, rfl, fun t i hi => by rw [hi]; rfl, fun t hi => by rw [hi]⟩

/-- Basic values of registers are kept in the register pages. -/
theorem noteSels_only (t : State) (p sel : Nat) (offs : List Nat) : Frame [.pages] t (noteSels t p sel offs) :=
  Frame.foldl _ _ _ _ (fun _ _ => noteBasic_frame _ _ _ _ _)

theorem spaceGets (s : State) (m seq : Nat) (a : Word) (hruns : SvcRuns s m seq { code := 0x0032, who := .driver, masks := [mask 51 15], page := some pLAN } [a]) :
    (∀ i, freeSpace s = some i → Ends (.spaceGet m seq [a]) s (fun t =>
        Replied t m seq 0x0032 .ok [w64 i] ∧
        tget t.lan.spaces i = { tget s.lan.spaces i with valid := true, root := fld a 51 15 * 2 ^ 15, part := m, taken := true, sizes := 0 } ∧
        (∀ j, j ≠ i → tget t.lan.spaces j = tget s.lan.spaces j) ∧ t.inUse = (uSpace, i) :: s.inUse ∧
        Frame [.pages, .lan, .mbx, .inUse, .cas, .out] s t)) ∧
      (freeSpace s = none → Ends (.spaceGet m seq [a]) s (fun t => Replied t m seq 0x0032 .quota [] ∧ Frame [.mbx, .cas, .out] s t)) := by
  have hseq : seq < 256 := hruns.1
  obtain ⟨f, hf, hok, hnone⟩ := svcSpaceGet_eq s m seq a
  have hexec : exec (.spaceGet m seq [a]) s = .next (f (svcStart s m seq spaceGetSvc [a])) :=
    congrArg Host.Outcome.next (hf.trans (gate_svcRuns hruns f))
  have hstart := svcStart_frame s m seq spaceGetSvc [a]
  generalize svcStart s m seq spaceGetSvc [a] = t at hexec hstart
  have hlan : t.lan = s.lan := hstart .lan (by decide)
  have huse : t.inUse = s.inUse := hstart .inUse (by decide)
  have hfree : freeSpace t = freeSpace s := by simp only [freeSpace, unitOpen, hlan, huse]
  rw [← hfree, ← hlan, ← huse]
  refine ⟨fun i hi => ?_, fun hi => ?_⟩
  · rw [hok t i hi] at hexec
    have hdone : Frame [.pages, .mbx] (spaceGiven t m i (fld a 51 15 * 2 ^ 15))
        (reply (noteSels (spaceGiven t m i (fld a 51 15 * 2 ^ 15)) pLAN i [0x218, 0x220]) m seq 0x0032 .ok [w64 i]) :=
      Frame.into (reply_frame _ _ _ _ _ _ _ hseq) rfl ((noteSels_only _ _ _ _).mono (by decide))
    refine ends_of_exec hexec ⟨replied_reply _ _ _ _ _ hseq, ?_⟩
    rw [hdone .lan (by decide), hdone .inUse (by decide), spaceGiven_spaces]
    exact ⟨tget_tupd_self _ _ _, fun j hj => tget_tupd_ne _ _ _ _ hj, rfl,
      Frame.into hdone rfl (hstart.trans (spaceGiven_frame _ _ _ _) (by decide) (by decide))⟩
  · rw [hnone t hi] at hexec
    exact svc_answers hexec hseq hstart rfl

/-- SPACE_PUT in the catalogue. -/
def spacePutSvc : Svc := { code := 0x0033, who := .driver, masks := [mask 11 0], page := some pLAN }

/-- The state in which a space that is put back waits for its withdrawal. -/
def spacePutting (t : State) (m seq i : Nat) : State :=
  { t with lan := { t.lan with spaces := tupd t.lan.spaces i (fun x => { x with putMb := some (m, seq) }) } }

/-- What refuses SPACE_PUT. -/
def PutRefused (t : State) (m i : Nat) : Prop :=
  (tget t.lan.spaces i).bound ≠ 0 ∨ (tget t.lan.spaces i).part ≠ m ∨ (tget t.lan.spaces i).putMb.isSome = true

theorem svcSpacePut_eq (s : State) (m seq : Nat) (a : Word) : ∃ f, svcSpacePut_ s m seq [a] = gate s m seq spacePutSvc [a] f ∧
    (∀ t, PutRefused t m (fld a 11 0) → f t = reply t m seq 0x0033 .permission) ∧
    (∀ t, ¬ PutRefused t m (fld a 11 0) → f t = wdAsk (spacePutting t m seq (fld a 11 0)) 2 (fld a 11 0) 0 0 (.space (fld a 11 0) m seq) m) :=
  ⟨_, rfl, fun _ h => if_pos h, fun _ h => if_neg h⟩

/-- The withdrawal of a space, while a drain is free: it is accepted, and stands last. -/
theorem wdAsk_space {t : State} {i p : Nat} (src : WdFrom) (hwait : t.lan.wdWait = []) (hroom : wdDraining t < 16) :
    Frame [.lan, .eng, .mov] t (wdAsk t 2 i 0 0 src p) ∧
      (∃ w, (wdAsk t 2 i 0 0 src p).lan.wds = t.lan.wds ++ [w] ∧ w.kind = 2 ∧ w.target = i ∧ w.src = src) ∧
      ∀ j, (tget (wdAsk t 2 i 0 0 src p).lan.spaces j).putMb = (tget t.lan.spaces j).putMb := by
  refine ⟨wdAsk_frame _ _ _ _ _ _ _, ?_⟩
  rw [wdAsk, if_pos (by simp [hwait, hroom])]
  refine ⟨⟨_, rfl, rfl, rfl, rfl⟩, fun j => ?_⟩
  · have hspaces : (wdAccept t 2 i 0 0 src p).lan.spaces =
        tupd t.lan.spaces i (fun q => { q with epoch := ((tget t.lan.spaces i).epoch + 1) % 2 ^ 32, sizes := 0 }) := rfl
    rw [hspaces]
    by_cases hj : j = i
    · rw [hj, tget_tupd_self]
    · rw [tget_tupd_ne _ _ _ _ hj]

theorem spacePuts (s : State) (m seq : Nat) (a : Word) (hruns : SvcRuns s m seq { code := 0x0033, who := .driver, masks := [mask 11 0], page := some pLAN } [a]) :
    ((tget s.lan.spaces (fld a 11 0)).bound = 0 → (tget s.lan.spaces (fld a 11 0)).part = m → (tget s.lan.spaces (fld a 11 0)).putMb = none →
        s.lan.wdWait = [] → wdDraining s < 16 → Ends (.spacePut m seq [a]) s (fun t =>
        (tget t.lan.spaces (fld a 11 0)).putMb = some (m, seq) ∧
        (∃ w, t.lan.wds = s.lan.wds ++ [w] ∧ w.kind = 2 ∧ w.target = fld a 11 0 ∧ w.src = .space (fld a 11 0) m seq) ∧
        Frame [.lan, .eng, .mov, .mbx, .cas, .out] s t)) ∧
      ((tget s.lan.spaces (fld a 11 0)).bound ≠ 0 ∨ (tget s.lan.spaces (fld a 11 0)).part ≠ m → Ends (.spacePut m seq [a]) s (fun t =>
        Replied t m seq 0x0033 .permission [] ∧ Frame [.mbx, .cas, .out] s t)) := by
  have hseq : seq < 256 := hruns.1
  obtain ⟨f, hf, hrefused, hput⟩ := svcSpacePut_eq s m seq a
  have hexec : exec (.spacePut m seq [a]) s = .next (f (svcStart s m seq spacePutSvc [a])) :=
    congrArg Host.Outcome.next (hf.trans (gate_svcRuns hruns f))
  have hstart := svcStart_frame s m seq spacePutSvc [a]
  generalize svcStart s m seq spacePutSvc [a] = t at hexec hstart
  have hlan : t.lan = s.lan := hstart .lan (by decide)
  have hdrain : wdDraining t = wdDraining s := by rw [wdDraining, wdDraining, unitsHeld, unitsHeld, wdDrains, wdDrains, hlan, hstart .inUse (by decide)]
  rw [← hlan, ← hdrain]
  refine ⟨fun hb hp hm hwait hroom => ?_, fun h => ?_⟩
  · rw [hput t (by rintro (h | h | h); exacts [h hb, h hp, by simp [hm] at h])] at hexec
    obtain ⟨hframe, hwd, hmb⟩ := wdAsk_space (t := spacePutting t m seq (fld a 11 0)) (i := fld a 11 0) (p := m) (.space (fld a 11 0) m seq) hwait hroom
    refine ends_of_exec hexec ⟨?_, hwd, Frame.into hframe rfl (hstart.trans (m := [.lan]) ?_ (by decide) (by decide))⟩
    · rw [hmb, spacePutting, tget_tupd_self]
    · intro c hc
      cases c <;> first | exact absurd (by decide) hc | rfl
  · rw [hrefused t (by rcases h with h | h; exacts [.inl h, .inr (.inl h)])] at hexec
    exact svc_answers hexec hseq hstart rfl

theorem contextServices : Claim.ContextServices :=
  fun s m seq a => ⟨ctxCreates s m seq a, ctxDestroys s m seq a, spaceGets s m seq a, spacePuts s m seq a⟩

/-! ## Queues -/

/-- QUEUE_CREATE in the catalogue. -/
def queueCreateSvc : Svc := { code := 0x0034, who := .driver, masks := [mask 56 6, mask 56 5, mask 4 0 ||| mask 32 16], page := some pLMP }

/-- What refuses QUEUE_CREATE. -/
def CreateRefused (t : State) (m : Nat) (a b c : Word) : Prop := (bitOf c 32 = true ∧ m ≠ 0) ∨ mayEnable t (newQueue m a b c) (queueCtl c) = false

/-- The state after queue q has been given. -/
def queueGiven (t : State) (q : Nat) (k : Queue) : State := updQ (takeUnit t uQueue q) q (fun _ => k)

theorem svcQueueCreate_eq (s : State) (m seq : Nat) (a b c : Word) : ∃ f, svcQueueCreate s m seq [a, b, c] = gate s m seq queueCreateSvc [a, b, c] f ∧
    (∀ t, CreateRefused t m a b c → f t = reply t m seq 0x0034 .permission) ∧
    (∀ t q, ¬ CreateRefused t m a b c → freeQueue t = some q → f t =
      reply (noteSels (queueGiven t q (newQueue m a b c)) pLMP q [0x218, 0x220, 0x228]) m seq 0x0034 .ok [w64 q]) := by
  refine ⟨_, rfl, fun t h => ?_, fun t q h hq => ?_⟩
  · by_cases hpriv : bitOf c 32 = true ∧ m ≠ 0
    · exact if_pos (by simpa [argOf_two] using hpriv)
    · exact (if_neg (by simpa [argOf_two] using hpriv)).trans (if_pos (by simpa [argOf_zero, argOf_one, argOf_two] using h.resolve_left hpriv))
  · obtain ⟨hpriv, hmay⟩ := not_or.1 h
    refine (if_neg (by simpa [argOf_two] using hpriv)).trans ((if_neg (by simpa [argOf_zero, argOf_one, argOf_two] using hmay)).trans ?_)
    rw [hq]
    rfl

theorem queueCreates (s : State) (m seq : Nat) (a b c : Word)
    (hruns : SvcRuns s m seq { code := 0x0034, who := .driver, masks := [mask 56 6, mask 56 5, mask 4 0 ||| mask 32 16], page := some pLMP } [a, b, c]) :
    (∀ q, (bitOf c 32 = true → m = 0) → mayEnable s (newQueue m a b c) (queueCtl c) = true → freeQueue s = some q →
      Ends (.queueCreate m seq [a, b, c]) s (fun t =>
        Replied t m seq 0x0034 .ok [w64 q] ∧ queue t q = newQueue m a b c ∧ (∀ r, r ≠ q → queue t r = queue s r) ∧
        t.inUse = (uQueue, q) :: s.inUse ∧ Frame [.pages, .lmp, .mbx, .inUse] s t)) ∧
    ((bitOf c 32 = true ∧ m ≠ 0) ∨ mayEnable s (newQueue m a b c) (queueCtl c) = false → Ends (.queueCreate m seq [a, b, c]) s (fun t =>
      Replied t m seq 0x0034 .permission [] ∧ Frame [.mbx] s t)) := by
  have hseq : seq < 256 := hruns.1
  obtain ⟨f, hf, hrefused, hok⟩ := svcQueueCreate_eq s m seq a b c
  have hexec : exec (.queueCreate m seq [a, b, c]) s = .next (f (svcStart s m seq queueCreateSvc [a, b, c])) :=
    congrArg Host.Outcome.next (hf.trans (gate_svcRuns hruns f))
  have hstart := svcStart_hereFrame (s := s) (m := m) (seq := seq) (v := queueCreateSvc) (args := [a, b, c]) (.inl rfl)
  generalize svcStart s m seq queueCreateSvc [a, b, c] = t at hexec hstart
  have hlmp : t.lmp = s.lmp := hstart .lmp (by decide)
  have huse : t.inUse = s.inUse := hstart .inUse (by decide)
  have hidx : ∀ n, ctxIdx t n = ctxIdx s n := fun n => by rw [ctxIdx, ctxIdx, hstart .cas (by decide)]
  have hmay : ∀ k v, mayEnable t k v = mayEnable s k v := fun k v => by simp only [mayEnable, mayBind, ctxLive, ctxOf, hidx, hlmp]
  have hfree : freeQueue t = freeQueue s := by simp only [freeQueue, queueFree, queue, qInFlight, unitOpen, hlmp, huse]
  have hqueue : ∀ r, queue t r = queue s r := fun r => by rw [queue, queue, hlmp]
  rw [← hmay, ← hfree, ← huse]
  refine ⟨fun q hpriv hmay hq => ?_, fun h => ?_⟩
  · rw [hok t q (by rintro (⟨h1, h2⟩ | h); exacts [h2 (hpriv h1), by simp [hmay] at h]) hq] at hexec
    have hdone : Frame [.pages, .mbx] (queueGiven t q (newQueue m a b c))
        (reply (noteSels (queueGiven t q (newQueue m a b c)) pLMP q [0x218, 0x220, 0x228]) m seq 0x0034 .ok [w64 q]) :=
      Frame.into (reply_frame _ _ _ _ _ _ _ hseq) rfl ((noteSels_only _ _ _ _).mono (by decide))
    have hgiven : Frame [.lmp, .inUse] t (queueGiven t q (newQueue m a b c)) := by
      intro c hc
      cases c <;> first | exact absurd (by decide) hc | rfl
    refine ends_of_exec hexec ⟨replied_reply _ _ _ _ _ hseq, ?_, fun r hr => ?_, ?_,
      Frame.into hdone rfl (hstart.trans hgiven (by decide) (by decide))⟩
    · rw [queue, hdone .lmp (by decide)]
      exact queue_updQ_self _ _ _
    · rw [queue, hdone .lmp (by decide), ← hqueue]
      exact queue_updQ_ne _ _ _ _ hr
    · rw [hdone .inUse (by decide)]
      rfl
  · rw [hrefused t h] at hexec
    exact svc_answers hexec hseq hstart rfl

/-- QUEUE_DESTROY in the catalogue. -/
def queueDestroySvc : Svc := { code := 0x0035, who := .driver, masks := [mask 9 0], page := some pLMP }

/-- The state in which a queue is disabled and its destroy waits. -/
def queueKilled (t : State) (m seq q : Nat) : State := updQ t q (fun k => { k with enable := false, killMb := some (m, seq) })

theorem svcQueueDestroy_eq (s : State) (m seq : Nat) (a : Word) : ∃ f, svcQueueDestroy_ s m seq [a] = gate s m seq queueDestroySvc [a] f ∧
    (∀ t, (queue t (fld a 9 0)).part ≠ m → f t = reply t m seq 0x0035 .permission) ∧
    (∀ t, queueFree t (fld a 9 0) = false → (queue t (fld a 9 0)).part = m → (queue t (fld a 9 0)).killMb = none → f t =
      queueDrained (noteSel (queueKilled t m seq (fld a 9 0)) pLMP 0x228 (fld a 9 0)) (fld a 9 0)) :=
  ⟨_, rfl, fun t h => if_pos (by simp [argOf_zero, h]), fun t hfree hp hk => if_neg (by simp [argOf_zero, hfree, hp, hk])⟩

/-- A queue whose destroy waits is free, and the destroy answered, when it has no command in flight. -/
theorem queueDrained_waiting {t : State} {q m seq : Nat} (h : (queue t q).killMb = some (m, seq)) : queueDrained t q =
    if qInFlight t q = 0 then reply (noteSels (updQ t q (fun _ => {})) pLMP q [0x218, 0x220, 0x228]) m seq 0x0035 .ok else t := by
  rw [queueDrained, h]
  rfl

theorem queueDestroys (s : State) (m seq : Nat) (a : Word)
    (hruns : SvcRuns s m seq { code := 0x0035, who := .driver, masks := [mask 9 0], page := some pLMP } [a]) :
    let q := fld a 9 0
    (queueFree s q = false → (queue s q).part = m → (queue s q).killMb = none →
      (qInFlight s q = 0 → Ends (.queueDestroy m seq [a]) s (fun t =>
        Replied t m seq 0x0035 .ok [] ∧ queue t q = {} ∧ (∀ r, r ≠ q → queue t r = queue s r) ∧ Frame [.pages, .lmp, .mbx] s t)) ∧
      (qInFlight s q ≠ 0 → Ends (.queueDestroy m seq [a]) s (fun t =>
        queue t q = { queue s q with enable := false, killMb := some (m, seq) } ∧ (∀ r, r ≠ q → queue t r = queue s r) ∧ Frame [.pages, .lmp, .mbx] s t))) ∧
    ((queue s q).part ≠ m → Ends (.queueDestroy m seq [a]) s (fun t => Replied t m seq 0x0035 .permission [] ∧ Frame [.mbx] s t)) := by
  intro q
  have hseq : seq < 256 := hruns.1
  obtain ⟨f, hf, hrefused, hkill⟩ := svcQueueDestroy_eq s m seq a
  have hexec : exec (.queueDestroy m seq [a]) s = .next (f (svcStart s m seq queueDestroySvc [a])) :=
    congrArg Host.Outcome.next (hf.trans (gate_svcRuns hruns f))
  have hstart := svcStart_hereFrame (s := s) (m := m) (seq := seq) (v := queueDestroySvc) (args := [a]) (.inl rfl)
  generalize svcStart s m seq queueDestroySvc [a] = t at hexec hstart
  have hlmp : t.lmp = s.lmp := hstart .lmp (by decide)
  have hqueue : ∀ r, queue t r = queue s r := fun r => by rw [queue, queue, hlmp]
  have hflight : qInFlight t q = qInFlight s q := by rw [qInFlight, qInFlight, hlmp]
  have hfree : queueFree t q = queueFree s q := by rw [queueFree, queueFree, hqueue, hflight]
  rw [← hfree, ← hqueue, ← hflight]
  refine ⟨fun hf hp hk => ?_, fun h => ?_⟩
  · have hnote : Frame [.pages] (queueKilled t m seq q) (noteSel (queueKilled t m seq q) pLMP 0x228 q) := noteBasic_frame _ _ _ _ _
    have hkilled : Frame [.pages, .lmp, .mbx] s (noteSel (queueKilled t m seq q) pLMP 0x228 q) :=
      hstart.trans (Frame.into hnote rfl ((updQ_frame t q _).mono (m := [.pages, .lmp]) (by decide))) (by decide) (by decide)
    rw [hkill t hf hp hk] at hexec
    have hq : ∀ r, queue (noteSel (queueKilled t m seq q) pLMP 0x228 q) r = queue (queueKilled t m seq q) r := fun r => by
      rw [queue, queue, hnote .lmp (by decide)]
    have hself : queue (noteSel (queueKilled t m seq q) pLMP 0x228 q) q = { queue t q with enable := false, killMb := some (m, seq) } :=
      (hq q).trans (queue_updQ_self _ _ _)
    have hother : ∀ r, r ≠ q → queue (noteSel (queueKilled t m seq q) pLMP 0x228 q) r = queue s r := fun r hr =>
      (hq r).trans ((queue_updQ_ne _ _ _ _ hr).trans (hqueue r))
    have hfl : qInFlight (noteSel (queueKilled t m seq q) pLMP 0x228 q) q = qInFlight t q := by
      rw [qInFlight, hnote .lmp (by decide)]
      rfl
    generalize noteSel (queueKilled t m seq q) pLMP 0x228 q = u at hexec hkilled hself hother hfl
    rw [queueDrained_waiting (by rw [hself])] at hexec
    refine ⟨fun h0 => ?_, fun h0 => ?_⟩
    · rw [if_pos (hfl.trans h0)] at hexec
      have hdone : Frame [.pages, .mbx] (updQ u q (fun _ => {})) (reply (noteSels (updQ u q (fun _ => {})) pLMP q [0x218, 0x220, 0x228]) m seq 0x0035 .ok) :=
        Frame.into (reply_frame _ _ _ _ _ _ _ hseq) rfl ((noteSels_only _ _ _ _).mono (by decide))
      refine ends_of_exec hexec ⟨replied_reply _ _ _ _ _ hseq, ?_, fun r hr => ?_, Frame.into hdone rfl (Frame.into (updQ_frame _ _ _) rfl hkilled)⟩
      · rw [queue, hdone .lmp (by decide)]
        exact queue_updQ_self _ _ _
      · rw [queue, hdone .lmp (by decide), ← hother r hr]
        exact queue_updQ_ne _ _ _ _ hr
    · rw [if_neg (fun h => h0 (hfl.symm.trans h))] at hexec
      exact ends_of_exec hexec ⟨hself, hother, hkilled⟩
  · rw [hrefused t h] at hexec
    exact svc_answers hexec hseq hstart rfl

theorem queueServices : Claim.QueueServices := ⟨queueCreates, queueDestroys⟩

/-! ## Tables and rings -/

/-- OBJ_TABLE_SET in the catalogue. -/
def objTableSvc : Svc := { code := 0x0036, who := .driver, masks := [mask 4 0 ||| mask 51 12, mask 51 6, mask 4 0 ||| mask 31 8 ||| mask 63 32],
                           page := some pLMP }

/-- A partition with its object table and release ring. -/
def tableSet (a b c : Word) (q : Part) : Part := { q with objTbl := a, relBase := b, relCtl := c, relProduce := 0, relHold := [], relFail := false }

theorem svcObjTableSet_eq (s : State) (m seq : Nat) (a b c : Word) : ∃ f, svcObjTableSet s m seq [a, b, c] = gate s m seq objTableSvc [a, b, c] f ∧
    (∀ t, partCtxBusy t m = false → objTableOk t m a b c = true → f t =
      reply (noteSels (updPart t m (tableSet a b c)) pLMP m [0x258, 0x260, 0x268]) m seq 0x0036 .ok) ∧
    (∀ t, partCtxBusy t m = true ∨ objTableOk t m a b c = false → f t = reply t m seq 0x0036 .permission) :=
  ⟨_, rfl, fun t hb ho => if_neg (by simp [argOf_zero, argOf_one, argOf_two, hb, ho]),
    fun t h => if_pos (by rcases h with h | h <;> simp [argOf_zero, argOf_one, argOf_two, h])⟩

theorem objTableSets (s : State) (m seq : Nat) (a b c : Word)
    (hruns : SvcRuns s m seq objTableSvc [a, b, c]) :
    (partCtxBusy s m = false → objTableOk s m a b c = true → Ends (.objTableSet m seq [a, b, c]) s (fun t =>
      Replied t m seq 0x0036 .ok [] ∧
      part t m = { part s m with objTbl := a, relBase := b, relCtl := c, relProduce := 0, relHold := [], relFail := false } ∧
      (∀ q, q ≠ m → part t q = part s q) ∧ Frame [.pages, .parts, .mbx, .cas, .out] s t)) ∧
    ((partCtxBusy s m = true ∨ objTableOk s m a b c = false) → Ends (.objTableSet m seq [a, b, c]) s (fun t =>
      Replied t m seq 0x0036 .permission [] ∧ Frame [.mbx, .cas, .out] s t)) := by
  have hseq : seq < 256 := hruns.1
  obtain ⟨f, hf, hok, hrefused⟩ := svcObjTableSet_eq s m seq a b c
  have hexec : exec (.objTableSet m seq [a, b, c]) s = .next (f (svcStart s m seq objTableSvc [a, b, c])) :=
    congrArg Host.Outcome.next (hf.trans (gate_svcRuns hruns f))
  have hstart := svcStart_frame s m seq objTableSvc [a, b, c]
  obtain ⟨x, hx⟩ := svcStart_told s m seq objTableSvc [a, b, c]
  have hbusy : partCtxBusy (svcStart s m seq objTableSvc [a, b, c]) m = partCtxBusy s m := by rw [hx]; rfl
  have htbl : objTableOk (svcStart s m seq objTableSvc [a, b, c]) m a b c = objTableOk s m a b c := by rw [hx, objTableOk_told]
  generalize svcStart s m seq objTableSvc [a, b, c] = t at hexec hstart hbusy htbl
  have hpart : ∀ q, part t q = part s q := fun q => by rw [part, part, hstart .parts (by decide)]
  rw [← hbusy, ← htbl, ← hpart]
  refine ⟨fun hb ho => ?_, fun h => ?_⟩
  · rw [hok t hb ho] at hexec
    have hdone : Frame [.pages, .mbx] (updPart t m (tableSet a b c))
        (reply (noteSels (updPart t m (tableSet a b c)) pLMP m [0x258, 0x260, 0x268]) m seq 0x0036 .ok) :=
      Frame.into (reply_frame _ _ _ _ _ _ _ hseq) rfl ((noteSels_only _ _ _ _).mono (by decide))
    refine ends_of_exec hexec ⟨replied_reply _ _ _ _ _ hseq, ?_, fun q hq => ?_,
      Frame.into hdone rfl (hstart.trans (updPart_frame _ _ _) (by decide) (by decide))⟩
    · rw [part, hdone .parts (by decide)]
      exact part_updPart_self _ _ _
    · rw [part, hdone .parts (by decide), ← hpart]
      exact part_updPart_ne _ _ _ _ hq
  · rw [hrefused t h] at hexec
    exact svc_answers hexec hseq hstart rfl

/-- Only the list of a partition's objects that are gone may have changed in the partitions. -/
def OnlyGone (p : Nat) (s t : State) : Prop := part t p = { part s p with goneTodo := (part t p).goneTodo } ∧ ∀ q, q ≠ p → part t q = part s q

theorem OnlyGone.of_same {p : Nat} {s t u : State} (h : OnlyGone p s t) (hu : u.parts = t.parts) : OnlyGone p s u := by
  rw [OnlyGone, part, hu]
  exact ⟨h.1, fun q hq => by rw [part, hu]; exact h.2 q hq⟩

theorem OnlyGone.gone {p : Nat} {s t : State} (h : OnlyGone p s t) (id : Nat) :
    OnlyGone p s (updPart t p (fun q => { q with goneTodo := q.goneTodo ++ [id] })) := by
  refine ⟨?_, fun q hq => (part_updPart_ne _ _ _ _ hq).trans (h.2 q hq)⟩
  rw [part_updPart_self]
  conv_lhs => rw [h.1]

theorem onlyGone_objOp {p : Nat} {s t : State} (h : OnlyGone p s t) (id : Nat) (take : Bool) : OnlyGone p s (objOp t p id take).1 := by
  have hput : ∀ {u : State} (a l), OnlyGone p s u → OnlyGone p s (ownPut u p a l) := fun a l hu => hu.of_same (ownPut_frame _ _ _ _ .parts (by decide))
  unfold objOp
  repeat' with_reducible first | assumption | apply OnlyGone.gone | apply hput | split | dsimp only

theorem onlyGone_dropRef {p : Nat} {s t : State} (h : OnlyGone p s t) (id : Nat) : OnlyGone p s (dropRef t p id) := by
  have hop := onlyGone_objOp h id false
  unfold dropRef
  dsimp only
  split
  · exact hop
  · exact hop.of_same ((logProto_quietFrame _ _ _ _ _ _ .parts (by decide)).trans ((count_frame _ _ _ _ _ _ .parts (by decide)).trans rfl))

/-- The old references of a partition are given back. -/
def refsDropped (s : State) (p : Nat) (l : List Nat) : State := l.foldl (fun v i => dropRef v p i) s

theorem refsDropped_onlyGone (s : State) (p : Nat) (l : List Nat) : OnlyGone p s (refsDropped s p l) :=
  List.foldlRecOn (motive := fun t => OnlyGone p s t) l _ ⟨rfl, fun _ _ => rfl⟩ (fun _ h i _ => onlyGone_dropRef h i)


/-- FAULT_RING_SET in the catalogue. -/
def faultRingSvc : Svc := { code := 0x0037, who := .driver, masks := [mask 23 0, mask 4 0, mask 23 0 ||| mask 63 32] }

/-- A partition with its fault ring. -/
def faultRing (o n f i : Nat) (q : Part) : Part :=
  { q with faultObj := some o, faultLog := n, faultFObj := f, faultFIdx := i, faultProduce := 0, ringFail := false }

/-- What refuses FAULT_RING_SET. -/
def FaultRingRefused (t : State) (m o n f i : Nat) : Prop :=
  n < 6 ∨ 16 < n ∨ (!ringObjOk t m o false (64 + 2 ^ n * 64)) = true ∨ (!ringObjOk t m f true ((i + 1) * 64)) = true

theorem svcFaultRingSet_eq (m seq : Nat) (a b c : Word) : ∃ g, (∀ t, svcFaultRingSet t m seq [a, b, c] = gate t m seq faultRingSvc [a, b, c] g) ∧
    (∀ t, FaultRingRefused t m (fld a 23 0) (fld b 4 0) (fld c 23 0) (fld c 63 32) → g t = reply t m seq 0x0037 .permission) ∧
    (∀ t u, seq < 256 → ¬ FaultRingRefused t m (fld a 23 0) (fld b 4 0) (fld c 23 0) (fld c 63 32) → takeAll t m [] [fld a 23 0, fld c 23 0] = (u, .ok) →
      g t = reply (refsDropped (updPart u m (faultRing (fld a 23 0) (fld b 4 0) (fld c 23 0) (fld c 63 32))) m (faultRefs (part t m))) m seq 0x0037 .ok) := by
  refine ⟨_, fun t => rfl, fun t h => if_pos h, fun t u hseq h hu => (if_neg h).trans ?_⟩
  have hsilent : isSilent seq = false := decide_eq_false (by omega)
  simp only [hsilent, Bool.false_eq_true, if_false, argOf_zero, argOf_two, hu]
  rfl

/-- A partition as it is after its references have been given back. -/
theorem ringReplied {t u : State} {m seq code : Nat} {f : Part → Part} {old : List Nat} (hseq : seq < 256) (hu : u.parts = t.parts) :
    OnlyGone m (updPart t m f) (reply (refsDropped (updPart u m f) m old) m seq code .ok) := by
  have hdrop := (refsDropped_onlyGone (updPart u m f) m old).of_same ((reply_frame _ m seq code .ok [] false hseq) .parts (by decide))
  have hparts : (updPart u m f).parts = (updPart t m f).parts := by rw [updPart, updPart, hu]
  obtain ⟨hself, hother⟩ := hdrop
  have hpart : ∀ q, part (updPart u m f) q = part (updPart t m f) q := fun q => by rw [part, part, hparts]
  rw [hpart] at hself
  exact ⟨hself, fun q hq => (hother q hq).trans (hpart q)⟩

theorem faultRingSets (s : State) (m seq : Nat) (a b c : Word) (hruns : SvcRuns s m seq faultRingSvc [a, b, c]) :
    let o := fld a 23 0
    let n := fld b 4 0
    let f := fld c 23 0
    let i := fld c 63 32
    linesAsk s kSudric [] (objLines s m ([o, f] ++ faultRefs (part s m))) = none →
    (∀ u, 6 ≤ n → n ≤ 16 → ringObjOk s m o false (64 + 2 ^ n * 64) = true → ringObjOk s m f true ((i + 1) * 64) = true →
      takeAll s m [] [o, f] = (u, .ok) → Ends (.faultRingSet m seq [a, b, c]) s (fun t =>
        let x := { part s m with faultObj := some o, faultLog := n, faultFObj := f, faultFIdx := i, faultProduce := 0, ringFail := false }
        Replied t m seq 0x0037 .ok [] ∧ part t m = { x with goneTodo := (part t m).goneTodo } ∧ (∀ q, q ≠ m → part t q = part s q) ∧
        ((part s m).faultObj = none → t.mem = u.mem ∧ part t m = x ∧ Frame [.parts, .mbx, .hom, .mem, .memPois, .memKey, .cas, .out] s t))) ∧
    (n < 6 ∨ 16 < n ∨ ringObjOk s m o false (64 + 2 ^ n * 64) = false → Ends (.faultRingSet m seq [a, b, c]) s (fun t =>
      Replied t m seq 0x0037 .permission [] ∧ Frame [.mbx, .hom, .cas, .out] s t)) := by
  intro o n f i hask
  have hseq : seq < 256 := hruns.1
  obtain ⟨g, hg, hrefused, htakes⟩ := svcFaultRingSet_eq m seq a b c
  obtain ⟨x, hx, -⟩ := sudricReads_runs (i := .faultRingSet m seq [a, b, c]) hruns hask g
  have hexec : exec (.faultRingSet m seq [a, b, c]) s = .next (g (told x s)) := by
    rw [← hx]
    simp only [← hg]
    rfl
  have hframe := told_frame x s
  have hpart : ∀ q, part (told x s) q = part s q := fun _ => rfl
  have hcond : FaultRingRefused (told x s) m o n f i ↔ FaultRingRefused s m o n f i := by
    rw [FaultRingRefused, FaultRingRefused, ringObjOk_told, ringObjOk_told]
  refine ⟨fun u h6 h16 ho hf hu => ?_, fun h => ?_⟩
  · have hok : ¬ FaultRingRefused s m o n f i := by
      rintro (h | h | h | h)
      · omega
      · omega
      · simp [ho] at h
      · simp [hf] at h
    rw [htakes _ _ hseq (fun h => hok (hcond.1 h)) (takeAll_told x hu), hpart] at hexec
    have htaken := takeAll_taken hu
    obtain ⟨hself, hother⟩ := ringReplied (t := s) (u := told x u) (m := m) (code := 0x0037) (f := faultRing o n f i) (old := faultRefs (part s m)) hseq
      (htaken .parts (by decide))
    rw [part_updPart_self] at hself
    refine ends_of_exec hexec ⟨replied_reply _ _ _ _ _ hseq, hself, fun q hq => (hother q hq).trans (part_updPart_ne _ _ _ _ hq), fun hnone => ?_⟩
    have hrefs : faultRefs (part s m) = [] := by rw [faultRefs, hnone]
    have hreply := reply_frame (updPart (told x u) m (faultRing o n f i)) m seq 0x0037 .ok [] false hseq
    rw [hrefs]
    refine ⟨hreply .mem (by decide), ?_, ?_⟩
    · rw [refsDropped, List.foldl_nil, part, hreply .parts (by decide)]
      exact (part_updPart_self (told x u) m _).trans (congrArg (fun l => faultRing o n f i (tget l m)) (htaken .parts (by decide)))
    · exact Frame.into hreply rfl (Frame.into (updPart_frame _ _ _) rfl (htaken.trans (told_frame x u) (by decide) (by decide)))
  · rw [hrefused _ (hcond.2 (by rcases h with h | h | h; exacts [.inl h, .inr (.inl h), .inr (.inr (.inl (by simp [h])))]))] at hexec
    exact svc_answers hexec hseq hframe rfl

/-- DISPATCH_RING_SET in the catalogue. -/
def dispatchRingSvc : Svc := { code := 0x0038, who := .driver, masks := [mask 23 0, mask 3 0] }

/-- A partition with its dispatch ring. -/
def dispatchRing (o n : Nat) (q : Part) : Part := { q with dispObj := some o, dispLog := n, dispNext := 0 }

/-- What refuses DISPATCH_RING_SET. -/
def DispatchRingRefused (t : State) (m o n : Nat) : Prop := n < 4 ∨ 12 < n ∨ (!ringObjOk t m o true (2 ^ n * 128)) = true

theorem svcDispatchRingSet_eq (m seq : Nat) (a b : Word) : ∃ g, (∀ t, svcDispatchRingSet t m seq [a, b] = gate t m seq dispatchRingSvc [a, b] g) ∧
    (∀ t, DispatchRingRefused t m (fld a 23 0) (fld b 3 0) → g t = reply t m seq 0x0038 .permission) ∧
    (∀ t u, seq < 256 → ¬ DispatchRingRefused t m (fld a 23 0) (fld b 3 0) → takeAll t m [] [fld a 23 0] = (u, .ok) →
      g t = reply (refsDropped (updPart u m (dispatchRing (fld a 23 0) (fld b 3 0))) m (part t m).dispObj.toList) m seq 0x0038 .ok) := by
  refine ⟨_, fun t => rfl, fun t h => if_pos h, fun t u hseq h hu => (if_neg h).trans ?_⟩
  have hsilent : isSilent seq = false := decide_eq_false (by omega)
  simp only [hsilent, Bool.false_eq_true, if_false, argOf_zero, hu]
  rfl

theorem dispatchRingSets (s : State) (m seq : Nat) (a b : Word) (hruns : SvcRuns s m seq dispatchRingSvc [a, b]) :
    let o := fld a 23 0
    let n := fld b 3 0
    linesAsk s kSudric [] (objLines s m ([o] ++ (part s m).dispObj.toList)) = none →
    (∀ u, 4 ≤ n → n ≤ 12 → ringObjOk s m o true (2 ^ n * 128) = true → takeAll s m [] [o] = (u, .ok) → Ends (.dispatchRingSet m seq [a, b]) s (fun t =>
        let x := { part s m with dispObj := some o, dispLog := n, dispNext := 0 }
        Replied t m seq 0x0038 .ok [] ∧ part t m = { x with goneTodo := (part t m).goneTodo } ∧ (∀ q, q ≠ m → part t q = part s q) ∧
        ((part s m).dispObj = none → t.mem = u.mem ∧ part t m = x ∧ Frame [.parts, .mbx, .hom, .mem, .memPois, .memKey, .cas, .out] s t))) ∧
    (n < 4 ∨ 12 < n ∨ ringObjOk s m o true (2 ^ n * 128) = false → Ends (.dispatchRingSet m seq [a, b]) s (fun t =>
      Replied t m seq 0x0038 .permission [] ∧ Frame [.mbx, .hom, .cas, .out] s t)) := by
  intro o n hask
  have hseq : seq < 256 := hruns.1
  obtain ⟨g, hg, hrefused, htakes⟩ := svcDispatchRingSet_eq m seq a b
  obtain ⟨x, hx, -⟩ := sudricReads_runs (i := .dispatchRingSet m seq [a, b]) hruns hask g
  have hexec : exec (.dispatchRingSet m seq [a, b]) s = .next (g (told x s)) := by
    rw [← hx]
    simp only [← hg]
    rfl
  have hframe := told_frame x s
  have hpart : ∀ q, part (told x s) q = part s q := fun _ => rfl
  have hcond : DispatchRingRefused (told x s) m o n ↔ DispatchRingRefused s m o n := by
    rw [DispatchRingRefused, DispatchRingRefused, ringObjOk_told]
  refine ⟨fun u h4 h12 ho hu => ?_, fun h => ?_⟩
  · have hok : ¬ DispatchRingRefused s m o n := by
      rintro (h | h | h)
      · omega
      · omega
      · simp [ho] at h
    rw [htakes _ _ hseq (fun h => hok (hcond.1 h)) (takeAll_told x hu), hpart] at hexec
    have htaken := takeAll_taken hu
    obtain ⟨hself, hother⟩ := ringReplied (t := s) (u := told x u) (m := m) (code := 0x0038) (f := dispatchRing o n) (old := (part s m).dispObj.toList) hseq
      (htaken .parts (by decide))
    rw [part_updPart_self] at hself
    refine ends_of_exec hexec ⟨replied_reply _ _ _ _ _ hseq, hself, fun q hq => (hother q hq).trans (part_updPart_ne _ _ _ _ hq), fun hnone => ?_⟩
    have hreply := reply_frame (updPart (told x u) m (dispatchRing o n)) m seq 0x0038 .ok [] false hseq
    rw [hnone]
    refine ⟨hreply .mem (by decide), ?_, ?_⟩
    · rw [Option.toList_none, refsDropped, List.foldl_nil, part, hreply .parts (by decide)]
      exact (part_updPart_self (told x u) m _).trans (congrArg (fun l => dispatchRing o n (tget l m)) (htaken .parts (by decide)))
    · exact Frame.into hreply rfl (Frame.into (updPart_frame _ _ _) rfl (htaken.trans (told_frame x u) (by decide) (by decide)))
  · rw [hrefused _ (hcond.2 (by rcases h with h | h | h; exacts [.inl h, .inr (.inl h), .inr (.inr (by simp [h]))]))] at hexec
    exact svc_answers hexec hseq hframe rfl

theorem ringServices : Claim.RingServices := ⟨objTableSets, faultRingSets, dispatchRingSets⟩

/-- Settles O56. -/
theorem driverServices : Obligations.DriverServices := ⟨contextServices, queueServices, ringServices⟩

end Sys2Proof.Machine
end

section
namespace Sys2Proof.Machine
open Sys2Proof

/-! # Units and coherent windows (R320, R367, R546) -/

section
variable {s t : State}

/-! ## What the end of a transaction leaves of the windows -/

/-- The coherent windows stay. -/
def WindowsKept (s t : State) : Prop := t.hom.windows = s.hom.windows

theorem WindowsKept.ofFrame {l : List Comp} {u : State} (h : WindowsKept s t) (g : Frame l t u) (hl : Comp.hom ∉ l) : WindowsKept s u :=
  (congrArg Hom.windows (g .hom hl)).trans h

theorem windows_mk (build clk free pages boot fuses bcn sec mbx cnt parts ras cas det lan eng hst hom mov xfm tir lmp fnc spn
    mps mem memPois memKey memScrub out inUse sampled pending) :
    WindowsKept s ⟨build, clk, free, pages, boot, fuses, bcn, sec, mbx, cnt, parts, ras, cas, det, lan, eng, hst, hom, mov, xfm, tir, lmp, fnc, spn,
      mps, mem, memPois, memKey, memScrub, out, inUse, sampled, pending⟩ ↔ hom.windows = s.hom.windows := Iff.rfl

theorem WindowsKept.eq (h : WindowsKept s t) : t.hom.windows = s.hom.windows := h

theorem windows_foldl {α : Type} (h : WindowsKept s t) (f : State → α → State) (l : List α) (hf : ∀ u x, WindowsKept s u → WindowsKept s (f u x)) :
    WindowsKept s (l.foldl f t) := List.foldlRecOn l f h (fun u hu x _ => hf u x hu)

theorem windows_fst {α : Type} {x : State × α} {r : α} (h : WindowsKept s x.1) (e : x = (t, r)) : WindowsKept s t := by cases e; exact h

theorem windows_sendSnoop (h : WindowsKept s t) (line x dest tag) : WindowsKept s (sendSnoop t line x dest tag) := h.ofFrame (sendSnoop_frame _ _ _ _ _) (by decide)

theorem windows_count (h : WindowsKept s t) (page ev part inst n) : WindowsKept s (count t page ev part inst n) := h.ofFrame (count_frame _ _ _ _ _ _) (by decide)

theorem windows_sendSnoops (h : WindowsKept s t) (line dest tag l) : WindowsKept s (sendSnoops t line dest tag l).1 := by
  unfold sendSnoops
  repeat' with_reducible
    first
    | assumption | intro _ | apply windows_sendSnoop | apply windows_count | apply windows_foldl | simp only [↓windows_mk] | apply WindowsKept.eq | split

theorem windows_setDir (h : WindowsKept s t) (line e) : WindowsKept s (setDir t line e) := by
  unfold setDir
  repeat' with_reducible first | assumption | simp only [↓windows_mk] | apply WindowsKept.eq

theorem windows_setTxn (h : WindowsKept s t) (line t') : WindowsKept s (setTxn t line t') := h

theorem windows_latClose (h : WindowsKept s t) (h' a last) : WindowsKept s (latClose t h' a last) := h.ofFrame (latClose_frame _ _ _ _) (by decide)

theorem windows_casSend (h : WindowsKept s t) (m) : WindowsKept s (casSend t m) := h.ofFrame (casSend_frame _ _) (by decide)

theorem windows_wrLine (h : WindowsKept s t) (line d pois) : WindowsKept s (wrLine t line d pois) := h.ofFrame (wrLine_frame _ _ _ _) (by decide)

theorem windows_ownGot (h : WindowsKept s t) (k a) : WindowsKept s (ownGot t k a) := by
  unfold ownGot
  repeat' with_reducible first | assumption | apply windows_wrLine | simp only [↓windows_mk] | apply WindowsKept.eq | split

theorem windows_updPage (h : WindowsKept s t) (p f) : WindowsKept s (updPage t p f) := h.ofFrame (updPage_frame _ _ _) (by decide)

theorem windows_cmdAnswered (h : WindowsKept s t) (q seq st) : WindowsKept s (cmdAnswered t q seq st) := h.ofFrame (cmdAnswered_frame _ _ _ _) (by decide)

theorem windows_engLineDone (h : WindowsKept s t) (n b st) : WindowsKept s (engLineDone t n b st) := h.ofFrame (engLineDone_frame _ _ _ _) (by decide)

theorem windows_segReadDone (h : WindowsKept s t) (c k g i a) : WindowsKept s (segReadDone t c k g i a) := h.ofFrame (segReadDone_frame _ _ _ _ _ _) (by decide)

theorem windows_segWriteDone (h : WindowsKept s t) (c k g tag st) : WindowsKept s (segWriteDone t c k g tag st) := h.ofFrame (segWriteDone_frame _ _ _ _ _ _) (by decide)

theorem windows_toNode (h : WindowsKept s t) (node m) : WindowsKept s (toNode t node m) := h.ofFrame (toNode_frame _ _ _) (by decide)

theorem windows_deliver (h : WindowsKept s t) (last a) : WindowsKept s (deliver t last a) := by
  unfold deliver
  repeat' with_reducible
    first
    | assumption | apply windows_latClose | refine WindowsKept.ofFrame ?_ (emit_frame _ _) (by decide) | apply windows_casSend | apply windows_ownGot | apply windows_updPage
    | apply windows_cmdAnswered | apply windows_engLineDone | apply windows_segReadDone | apply windows_segWriteDone | apply windows_toNode
    | simp only [↓windows_mk] | apply WindowsKept.eq | split

theorem windows_deliverAll (h : WindowsKept s t) (l) : WindowsKept s (deliverAll t l) := by
  induction l generalizing t with
  | nil => exact h
  | cons a l ih => cases l with
    | nil => exact windows_deliver h _ _
    | cons b l => exact ih (windows_deliver h _ _)

theorem windows_refuseReq (h : WindowsKept s t) (r st) : WindowsKept s (refuseReq t r st) := by
  unfold refuseReq
  repeat' with_reducible first | assumption | apply windows_deliverAll | split

theorem windows_tenant (h : WindowsKept s t) (part src n) : WindowsKept s (tenant t part src n) := h.ofFrame (tenant_frame _ _ _ _) (by decide)

theorem windows_logRead (h : WindowsKept s t) (line pois fromMem) : WindowsKept s (logRead t line pois fromMem) := h.ofFrame (logRead_frame _ _ _ _) (by decide)

theorem windows_grantTxn (h : WindowsKept s t) (line t' r st win) : WindowsKept s (grantTxn t line t' r st win) := by
  unfold grantTxn
  repeat' with_reducible first | assumption | apply windows_setTxn

theorem windows_updMp (h : WindowsKept s t) (p f) : WindowsKept s (updMp t p f) := h.ofFrame (updMp_frame _ _ _) (by decide)

theorem windows_mpLine (h : WindowsKept s t) (p) : WindowsKept s (mpLine t p) := h.ofFrame (mpLine_frame _ _) (by decide)

theorem windows_viaMemory (h : WindowsKept s t) (line as) : WindowsKept s (viaMemory t line as) := by
  unfold viaMemory
  repeat' with_reducible
    first
    | assumption | apply windows_deliverAll | apply windows_updMp | apply windows_mpLine | refine WindowsKept.ofFrame ?_ (emit_frame _ _) (by decide) | split | dsimp only

theorem windows_answer (h : WindowsKept s t) (line fromMem as) : WindowsKept s (answer t line fromMem as) := by
  unfold answer
  repeat' with_reducible first | assumption | apply windows_viaMemory | apply windows_deliverAll | split

theorem windows_storeLine (h : WindowsKept s t) (line d pois) : WindowsKept s (storeLine t line d pois) := h.ofFrame (storeLine_frame _ _ _ _) (by decide)

theorem windows_setRedLine (h : WindowsKept s t) (r) : WindowsKept s (setRedLine t r) := by
  unfold setRedLine
  repeat' with_reducible first | assumption | simp only [↓windows_mk] | apply WindowsKept.eq

theorem windows_redExec (h : WindowsKept s t) (line base pois) : WindowsKept s (redExec t line base pois).1 := by
  unfold redExec
  repeat' with_reducible first | assumption | intro _ | apply windows_setRedLine | apply windows_foldl | split

theorem windows_logPoison (h : WindowsKept s t) (line pois) : WindowsKept s (logPoison t line pois) := h.ofFrame (logPoison_frame _ _ _) (by decide)

theorem windows_mpWrite (h : WindowsKept s t) (line old) : WindowsKept s (mpWrite t line old) := h.ofFrame (mpWrite_portFrame _ _ _) (by decide)

theorem windows_aluBack (h : WindowsKept s t) (line) : WindowsKept s (aluBack t line) := by
  unfold aluBack
  repeat' with_reducible first | assumption | apply windows_mpWrite | simp only [↓windows_mk] | apply WindowsKept.eq

theorem windows_aluTouch (h : WindowsKept s t) (line) : WindowsKept s (aluTouch t line) := by
  unfold aluTouch
  repeat' with_reducible first | assumption | apply windows_aluBack | simp only [↓windows_mk] | apply WindowsKept.eq | split

theorem windows_signalRec (h : WindowsKept s t) (a v p) : WindowsKept s (signalRec t a v p).1 := h.ofFrame (signalRec_frame _ _ _ _) (by decide)

theorem windows_barRefuse (h : WindowsKept s t) (p st) : WindowsKept s (barRefuse t p st).1 := h.ofFrame (barRefuse_frame _ _ _) (by decide)

theorem windows_doom (h : WindowsKept s t) (c st) : WindowsKept s (doom t c st) := h.ofFrame (doom_frame _ _ _) (by decide)

theorem windows_barWriteBack (h : WindowsKept s t) (b bound abandoned) : WindowsKept s (barWriteBack t b bound abandoned) := h.ofFrame (barWriteBack_frame _ _ _ _) (by decide)

theorem windows_setBar (h : WindowsKept s t) (i b) : WindowsKept s (setBar t i b) := h.ofFrame (setBar_frame _ _ _) (by decide)

theorem windows_takeUnit (h : WindowsKept s t) (kind i) : WindowsKept s (takeUnit t kind i) := h.ofFrame (takeUnit_frame _ _ _) (by decide)

theorem windows_sigDrop (h : WindowsKept s t) (p) : WindowsKept s (sigDrop t p) := h.ofFrame (sigDrop_frame _ _) (by decide)

theorem windows_remoteSignal (h : WindowsKept s t) (p node a v) : WindowsKept s (remoteSignal t p node a v) := h.ofFrame (remoteSignal_frame _ _ _ _ _) (by decide)

theorem windows_relayLater (h : WindowsKept s t) (r) : WindowsKept s (relayLater t r) := h

theorem windows_signalRef (h : WindowsKept s t) (p obj idx v) : WindowsKept s (signalRef t p obj idx v) := by
  unfold signalRef
  repeat' with_reducible
    first
    | assumption | apply windows_sigDrop | apply windows_remoteSignal | apply windows_signalRec | apply windows_relayLater
    | refine windows_fst ?_ (by assumption) | split

theorem windows_barRelease (h : WindowsKept s t) (i b) : WindowsKept s (barRelease t i b) := by
  unfold barRelease
  repeat' with_reducible first | assumption | apply windows_barWriteBack | apply windows_setBar | apply windows_signalRef | split | dsimp only

theorem windows_barSettle (h : WindowsKept s t) (i b) : WindowsKept s (barSettle t i b) := by
  unfold barSettle
  repeat' with_reducible first | assumption | apply windows_barRelease | apply windows_setBar | split

theorem windows_barOp (h : WindowsKept s t) (a w fromHost p) : WindowsKept s (barOp t a w fromHost p).1 := by
  unfold barOp
  repeat' with_reducible
    first
    | assumption | apply windows_barRefuse | apply windows_doom | apply windows_barWriteBack | apply windows_setBar | apply windows_takeUnit
    | apply windows_barSettle | refine windows_fst ?_ (by assumption) | split | dsimp only

theorem windows_fenceSigAt (h : WindowsKept s t) (line pos v fromHost p) : WindowsKept s (fenceSigAt t line pos v fromHost p).1 := by
  unfold fenceSigAt
  repeat' with_reducible first | assumption | apply windows_signalRec | apply windows_barOp | refine windows_fst ?_ (by assumption) | split

theorem windows_execAtomic (h : WindowsKept s t) (r aop base pois fromMem) : WindowsKept s (execAtomic t r aop base pois fromMem).1 := by
  unfold execAtomic
  repeat' with_reducible
    first
    | assumption | apply windows_redExec | apply windows_storeLine | apply windows_logRead | apply windows_logPoison | apply windows_aluTouch
    | apply windows_tenant | apply windows_wrLine | apply windows_fenceSigAt | refine windows_fst ?_ (by assumption) | split | dsimp only

theorem windows_stashDrop (h : WindowsKept s t) (line) : WindowsKept s (stashDrop t line) := by
  unfold stashDrop
  repeat' with_reducible first | assumption | apply windows_count | refine WindowsKept.ofFrame ?_ (raise_hostFrame _ _ _) (by decide) | simp only [↓windows_mk] | apply WindowsKept.eq | split

theorem windows_sendStash (h : WindowsKept s t) (a line d p) : WindowsKept s (sendStash t a line d p) := h.ofFrame (sendStash_frame _ _ _ _ _) (by decide)

theorem windows_finishServe (h : WindowsKept s t) (line t' r) : WindowsKept s (finishServe t line t' r) := by
  unfold finishServe
  repeat' with_reducible
    first
    | assumption | apply windows_setTxn | apply windows_setDir | apply windows_refuseReq | apply windows_tenant | apply windows_logRead
    | apply windows_grantTxn | apply windows_answer | apply windows_storeLine | apply windows_execAtomic | apply windows_stashDrop
    | apply windows_sendStash | refine windows_fst ?_ (by assumption) | split

theorem windows_finishLost (h : WindowsKept s t) (line t') : WindowsKept s (finishLost t line t') := by
  unfold finishLost
  repeat' with_reducible first | assumption | apply windows_setTxn | apply windows_setDir

theorem windows_finishBack (h : WindowsKept s t) (line t') : WindowsKept s (finishBack t line t') := by
  unfold finishBack
  repeat' with_reducible first | assumption | apply windows_storeLine | apply windows_setTxn | apply windows_setDir | split

theorem windows_settle (h : WindowsKept s t) (line) : WindowsKept s (settle t line) := by
  unfold settle
  repeat' with_reducible
    first
    | assumption | apply windows_finishServe | apply windows_setTxn | apply windows_finishLost | apply windows_finishBack | split

theorem windows_openRemoteInv (h : WindowsKept s t) (line gone) : WindowsKept s (openRemoteInv t line gone) := by
  unfold openRemoteInv
  repeat' with_reducible
    first
    | assumption | intro _ | apply windows_sendSnoops | apply windows_setDir | apply windows_settle | apply windows_setTxn

end

/-! ## CHAN_ASSIGN -/

/-- CHAN_ASSIGN in the catalogue. -/
def chanAssignSvc : Svc := { code := 0x0050, who := .root0, masks := [mask 5 0, chCtlMask], unit := some pMOV, page := some pMOV }

/-- A channel as its control register gives it. -/
def chanSet (v : Word) (h : Chan) : Chan :=
  { h with part := fld v 9 0, owned := bitOf v 10, weight := fld v 17 14, pipes := fld v 30 23, cap := fld v 43 32 }

theorem chCtlPut_taken {t : State} {ch : Nat} {v : Word}
    (h : chanBusy (chan t ch) = false ∨ (fld v 9 0 = (chan t ch).part ∧ bitOf v 10 = (chan t ch).owned)) :
    chCtlPut t ch v = (updChan t ch (chanSet v), .ok) :=
  if_neg (by rcases h with h | ⟨h1, h2⟩ <;> simp [*])

theorem chCtlPut_refused {t : State} {ch : Nat} {v : Word} (hb : chanBusy (chan t ch) = true)
    (h : fld v 9 0 ≠ (chan t ch).part ∨ bitOf v 10 ≠ (chan t ch).owned) : chCtlPut t ch v = (t, .permission) :=
  if_pos (by rcases h with h | h <;> simp [hb, h])

theorem svcChanAssign_eq (s : State) (m seq : Nat) (a v : Word) : ∃ f, svcChanAssign s m seq [a, v] = gate s m seq chanAssignSvc [a, v] f ∧
    (∀ t u, chCtlPut t (fld a 5 0) v = (u, .ok) → f t = reply (noteSel u pMOV 0x208 (fld a 5 0)) m seq 0x0050 .ok) ∧
    (∀ t u, chCtlPut t (fld a 5 0) v = (u, .permission) → f t = reply t m seq 0x0050 .permission) :=
  ⟨_, rfl, fun t u h => by dsimp only [argOf_zero, argOf_one]; rw [h], fun t u h => by dsimp only [argOf_zero, argOf_one]; rw [h]⟩

theorem chanAssigns (s : State) (m seq : Nat) (a v : Word) (hruns : SvcRuns s m seq chanAssignSvc [a, v]) :
    (chanBusy (chan s (fld a 5 0)) = false ∨ (fld v 9 0 = (chan s (fld a 5 0)).part ∧ bitOf v 10 = (chan s (fld a 5 0)).owned) →
      Ends (.chanAssign m seq [a, v]) s (fun t =>
      Replied t m seq 0x0050 .ok [] ∧
      chan t (fld a 5 0) = { chan s (fld a 5 0) with part := fld v 9 0, owned := bitOf v 10, weight := fld v 17 14, pipes := fld v 30 23,
                                                      cap := fld v 43 32 } ∧
      (∀ c, c ≠ fld a 5 0 → chan t c = chan s c) ∧ Frame [.pages, .mov, .mbx] s t)) ∧
    (chanBusy (chan s (fld a 5 0)) = true → fld v 9 0 ≠ (chan s (fld a 5 0)).part ∨ bitOf v 10 ≠ (chan s (fld a 5 0)).owned →
      Ends (.chanAssign m seq [a, v]) s (fun t => Replied t m seq 0x0050 .permission [] ∧ Frame [.mbx] s t)) := by
  have hseq : seq < 256 := hruns.1
  obtain ⟨f, hf, hok, hrefused⟩ := svcChanAssign_eq s m seq a v
  have hexec : exec (.chanAssign m seq [a, v]) s = .next (f (svcStart s m seq chanAssignSvc [a, v])) :=
    congrArg Host.Outcome.next (hf.trans (gate_svcRuns hruns f))
  have hstart := svcStart_hereFrame (s := s) (m := m) (seq := seq) (v := chanAssignSvc) (args := [a, v]) (.inl rfl)
  generalize svcStart s m seq chanAssignSvc [a, v] = t at hexec hstart
  have hchan : ∀ c, chan t c = chan s c := fun c => by rw [chan, chan, hstart .mov (by decide)]
  rw [← hchan]
  refine ⟨fun h => ?_, fun hb h => ?_⟩
  · rw [hok t _ (chCtlPut_taken h)] at hexec
    have hdone : Frame [.pages, .mbx] (updChan t (fld a 5 0) (chanSet v)) (reply (noteSel (updChan t (fld a 5 0) (chanSet v)) pMOV 0x208 (fld a 5 0)) m seq 0x0050 .ok) :=
      Frame.into (reply_frame _ _ _ _ _ _ _ hseq) rfl ((noteBasic_frame _ _ _ _ _).mono (by decide))
    refine ends_of_exec hexec ⟨replied_reply _ _ _ _ _ hseq, ?_, fun c hc => ?_, Frame.into hdone rfl (hstart.trans (updChan_frame _ _ _) (by decide) (by decide))⟩
    · rw [chan, hdone .mov (by decide)]
      exact tget_tupd_self _ _ _
    · rw [chan, hdone .mov (by decide), ← hchan]
      exact tget_tupd_ne _ _ _ _ hc
  · rw [hrefused t _ (chCtlPut_refused hb h)] at hexec
    exact svc_answers hexec hseq hstart rfl

/-! ## XFM_LOAD -/

/-- XFM_LOAD in the catalogue. -/
def xfmLoadSvc : Svc := { code := 0x0051, who := .driver, masks := [mask 7 0, mask 51 8], unit := some pXFM }

/-- The program store with a program in a slot. -/
def programIn (store : Tbl Word) (sl : Nat) (p : List Word) : Tbl Word := (List.range 32).foldl (fun y i => tset y (32 * sl + i) (p.getD i 0)) store

/-- The state in which a program has been loaded; the fingerprints are stale. -/
def programLoaded (t : State) (sl : Nat) (p : List Word) : State := fpDirty { t with xfm := { t.xfm with store := programIn t.xfm.store sl p } }

theorem tget_foldl_range (f : Nat → Word) (o k : Nat) (t : Tbl Word) (n : Nat) :
    tget ((List.range n).foldl (fun y i => tset y (o + i) (f i)) t) k = if o ≤ k ∧ k < o + n then f (k - o) else tget t k := by
  induction n with
  | zero => simp
  | succ n ih =>
    rw [List.range_succ, List.foldl_append, List.foldl_cons, List.foldl_nil, tget_tset, ih]
    by_cases h : k = o + n
    · rw [if_pos h, if_pos (by omega), h, Nat.add_sub_cancel_left]
    · rw [if_neg h]
      by_cases h2 : o ≤ k ∧ k < o + n
      · rw [if_pos h2, if_pos (by omega)]
      · rw [if_neg h2, if_neg (by omega)]

theorem tget_programIn (store : Tbl Word) (sl : Nat) (p : List Word) (k : Nat) :
    tget (programIn store sl p) k = if 32 * sl ≤ k ∧ k < 32 * sl + 32 then p.getD (k - 32 * sl) 0 else tget store k :=
  tget_foldl_range (fun i => p.getD i 0) _ _ _ _

theorem svcXfmLoad_eq (m seq : Nat) (a b : Word) : ∃ f, (∀ t, svcXfmLoad t m seq [a, b] = gate t m seq xfmLoadSvc [a, b] f) ∧
    (∀ t p, fld (tget t.xfm.own (fld a 7 0)) 9 0 = m → bitOf (tget t.xfm.own (fld a 7 0)) 11 = false →
      gpaImage t m (fld b 51 8 * 256) = .ok p → progFieldsOk p = true → f t = reply (programLoaded t (fld a 7 0) p) m seq 0x0051 .ok) ∧
    (∀ t, fld (tget t.xfm.own (fld a 7 0)) 9 0 ≠ m → f t = reply t m seq 0x0051 .permission) := by
  refine ⟨_, fun t => rfl, fun t p hown hbit hp hok => ?_, fun t h => if_pos (.inl h)⟩
  refine (if_neg (by simp [argOf_zero, hown, hbit])).trans ?_
  rw [argOf_one, hp]
  exact if_neg (by simp [hok])

theorem gpaImage_told (x : Told) (s : State) (p gpa : Nat) : gpaImage (told x s) p gpa = gpaImage s p gpa := by
  unfold gpaImage
  rw [gpaLookup_told]
  rfl

theorem xfmLoads (s : State) (m seq : Nat) (a b : Word) (hruns : SvcRuns s m seq xfmLoadSvc [a, b])
    (hask : linesAsk s kSudric (gpaLines s m (fld b 51 8 * 256) 256) [] = none) :
    (∀ p, fld (tget s.xfm.own (fld a 7 0)) 9 0 = m → bitOf (tget s.xfm.own (fld a 7 0)) 11 = false →
      gpaImage s m (fld b 51 8 * 256) = .ok p → progFieldsOk p = true → Ends (.xfmLoad m seq [a, b]) s (fun t =>
        Replied t m seq 0x0051 .ok [] ∧ (∀ i, i < 32 → tget t.xfm.store (32 * fld a 7 0 + i) = p.getD i 0) ∧
        (∀ j, j / 32 ≠ fld a 7 0 → tget t.xfm.store j = tget s.xfm.store j) ∧ t.det = { s.det with fpStale := true } ∧
        Frame [.xfm, .det, .mbx, .hom] s t)) ∧
    (fld (tget s.xfm.own (fld a 7 0)) 9 0 ≠ m → Ends (.xfmLoad m seq [a, b]) s (fun t => Replied t m seq 0x0051 .permission [] ∧ Frame [.mbx, .hom] s t)) := by
  have hseq : seq < 256 := hruns.1
  obtain ⟨f, hf, hok, hrefused⟩ := svcXfmLoad_eq m seq a b
  obtain ⟨x, hx, hhere⟩ := sudricReads_runs (i := .xfmLoad m seq [a, b]) hruns hask f
  have hexec : exec (.xfmLoad m seq [a, b]) s = .next (f (told x s)) := by
    rw [← hx]
    simp only [← hf]
    rfl
  have hstart : Frame [.mbx, .hom] s (told x s) := hhere (.inl rfl)
  refine ⟨fun p hown hbit hp hfields => ?_, fun h => ?_⟩
  · rw [hok (told x s) p hown hbit ((gpaImage_told x s m _).trans hp) hfields] at hexec
    have hreply := reply_frame (programLoaded (told x s) (fld a 7 0) p) m seq 0x0051 .ok [] false hseq
    have hload : Frame [.xfm, .det] (told x s) (programLoaded (told x s) (fld a 7 0) p) := by
      intro c hc
      cases c <;> first | exact absurd (by decide) hc | rfl
    have hstore : (reply (programLoaded (told x s) (fld a 7 0) p) m seq 0x0051 .ok).xfm.store = programIn s.xfm.store (fld a 7 0) p :=
      congrArg Xfm.store (hreply .xfm (by decide))
    refine ends_of_exec hexec ⟨replied_reply _ _ _ _ _ hseq, fun i hi => ?_, fun j hj => ?_, hreply .det (by decide),
      Frame.into hreply rfl (hstart.trans hload (by decide) (by decide))⟩
    · rw [hstore, tget_programIn, if_pos (by omega), Nat.add_sub_cancel_left]
    · rw [hstore, tget_programIn, if_neg (by omega)]
  · rw [hrefused (told x s) h] at hexec
    exact svc_answers hexec hseq hstart rfl

theorem unitServices : Claim.UnitServices := ⟨chanAssigns, xfmLoads⟩

/-! ## CWIN_SET -/

/-- CWIN_SET in the catalogue. -/
def cwinSetSvc : Svc := { code := 0x0068, who := .root, masks := [mask 5 0, mask 42 0, mask 47 0], page := some pHOM }

/-- The state in which a window register has a new value. -/
def windowIn (t : State) (i : Nat) (w : Window) : State := { t with hom := { t.hom with windows := tset t.hom.windows i w } }

theorem svcCwinSet_eq (s : State) (m seq : Nat) (a b c : Word) : ∃ f, svcCwinSet s m seq [a, b, c] = gate s m seq cwinSetSvc [a, b, c] f ∧
    (∀ t, bitOf b 0 = false → f t = reply (winClear t (fld a 5 0) { w0 := b, w1 := c }) m seq 0x0068 .ok) ∧
    (∀ t st, bitOf b 0 = true → winRefused t (fld a 5 0) { w0 := b, w1 := c } = some st → f t = reply t m seq 0x0068 st) ∧
    (∀ t, bitOf b 0 = true → winRefused t (fld a 5 0) { w0 := b, w1 := c } = none → f t =
      reply (windowIn t (fld a 5 0) { w0 := b, w1 := c }) m seq 0x0068 .ok) := by
  refine ⟨_, rfl, fun t h => if_pos (by simp [argOf_one, h]), fun t st h hw => ?_, fun t h hw => ?_⟩
  · refine (if_neg (by simp [argOf_one, h])).trans ?_
    rw [argOf_zero, argOf_one, argOf_two, hw]
  · refine (if_neg (by simp [argOf_one, h])).trans ?_
    rw [argOf_zero, argOf_one, argOf_two, hw]
    rfl

theorem partOwns_told (x : Told) (s : State) (p g n : Nat) : partOwns (told x s) p g n = partOwns s p g n := by
  have hentry : ∀ k g e, entryAll (told x s) p k g e = entryAll s p k g e := by
    intro k
    induction k with
    | zero => exact fun _ _ => rfl
    | succ k ih =>
      intro g e
      have hto : entryTo (told x s) p g = entryTo s p g := rfl
      simp only [entryAll, hto, ih]
  have hroot : rootOwns (told x s) g n = rootOwns s g n := rfl
  rw [partOwns, partOwns, hroot, hentry]

theorem winRefused_told (x : Told) (s : State) (i : Nat) (w : Window) : winRefused (told x s) i w = winRefused s i w := by
  unfold winRefused
  rw [partOwns_told]
  rfl

/-- A cleared window register has its new value, whatever copies are called back. -/
theorem winClear_windows (t : State) (i : Nat) (w : Window) : (winClear t i w).hom.windows = tset t.hom.windows i w := by
  have hset : WindowsKept (windowIn t i w) (windowIn t i w) := rfl
  show WindowsKept (windowIn t i w) (winClear t i w)
  unfold winClear
  dsimp only
  split
  · exact hset
  · split
    · exact hset
    · exact windows_foldl rfl _ _ (fun u x hu => windows_openRemoteInv hu x _)

/-- With no remote copy only the register changes. -/
theorem winClear_noCopies {t : State} {i : Nat} (w : Window) (h : winCopies t (tget t.hom.windows i) = []) : winClear t i w = windowIn t i w := by
  unfold winClear
  dsimp only
  split
  · rfl
  · have hcopies : winCopies (windowIn t i w) (tget t.hom.windows i) = [] := h
    exact if_pos (by rw [← windowIn, hcopies]; rfl)

theorem cwinSets (s : State) (m seq : Nat) (a b c : Word) (hruns : SvcRuns s m seq cwinSetSvc [a, b, c]) :
    let i := fld a 5 0
    (bitOf b 0 = true → winRefused s i { w0 := b, w1 := c } = none → Ends (.cwinSet m seq [a, b, c]) s (fun t =>
      Replied t m seq 0x0068 .ok [] ∧ tget t.hom.windows i = { w0 := b, w1 := c } ∧
      (∀ j, j ≠ i → tget t.hom.windows j = tget s.hom.windows j) ∧ Frame [.hom, .mbx] s t)) ∧
    (∀ st, bitOf b 0 = true → winRefused s i { w0 := b, w1 := c } = some st → Ends (.cwinSet m seq [a, b, c]) s (fun t =>
      Replied t m seq 0x0068 st [] ∧ Frame [.mbx] s t)) ∧
    (bitOf b 0 = false → Ends (.cwinSet m seq [a, b, c]) s (fun t =>
      Replied t m seq 0x0068 .ok [] ∧ tget t.hom.windows i = { w0 := b, w1 := c } ∧
      (∀ j, j ≠ i → tget t.hom.windows j = tget s.hom.windows j) ∧
      (winCopies s (tget s.hom.windows i) = [] → Frame [.hom, .mbx] s t))) := by
  intro i
  have hseq : seq < 256 := hruns.1
  obtain ⟨f, hf, hclear, hrefused, hok⟩ := svcCwinSet_eq s m seq a b c
  have hexec : exec (.cwinSet m seq [a, b, c]) s = .next (f (oweReply s m seq 0x0068)) :=
    congrArg Host.Outcome.next ((hf.trans (gate_svcRuns hruns f)).trans (congrArg f (svcStart_here (.inl rfl))))
  have howe := oweReply_frame s m seq 0x0068
  have hhom : (oweReply s m seq 0x0068).hom = s.hom := howe .hom (by decide)
  have hwin : ∀ w, winRefused (oweReply s m seq 0x0068) i w = winRefused s i w := by
    obtain ⟨x, hx⟩ := oweReply_told s m seq 0x0068
    rw [hx]
    exact fun w => winRefused_told x s i w
  generalize oweReply s m seq 0x0068 = t at hexec howe hhom hwin
  have hreply : ∀ u : State, (reply u m seq 0x0068 .ok).hom = u.hom := fun u => reply_frame u m seq 0x0068 .ok [] false hseq .hom (by decide)
  have hset : Frame [.hom] t (windowIn t i { w0 := b, w1 := c }) := by
    intro c hc
    cases c <;> first | exact absurd (by decide) hc | rfl
  have hdone : Frame [.hom, .mbx] s (reply (windowIn t i { w0 := b, w1 := c }) m seq 0x0068 .ok) :=
    Frame.into (reply_frame _ _ _ _ _ _ _ hseq) rfl (howe.trans hset (by decide) (by decide))
  refine ⟨fun hb hw => ?_, fun st hb hw => ?_, fun hb => ?_⟩
  · rw [hok t hb ((hwin _).trans hw)] at hexec
    refine ends_of_exec hexec ⟨replied_reply _ _ _ _ _ hseq, ?_⟩
    rw [hreply, ← hhom]
    exact ⟨tget_tset_self _ _ _, fun j hj => tget_tset_ne _ _ _ _ hj, hdone⟩
  · rw [hrefused t st hb ((hwin _).trans hw)] at hexec
    exact svc_answers hexec hseq howe rfl
  · rw [hclear t hb] at hexec
    refine ends_of_exec hexec ⟨replied_reply _ _ _ _ _ hseq, ?_⟩
    rw [hreply, winClear_windows, ← hhom]
    refine ⟨tget_tset_self _ _ _, fun j hj => tget_tset_ne _ _ _ _ hj, fun hcopies => ?_⟩
    have hnone : winCopies t (tget t.hom.windows i) = [] := by
      rw [winCopies] at hcopies ⊢
      rw [← hcopies, hhom]
    rw [winClear_noCopies _ hnone]
    exact hdone

/-! ## The end of a drain -/

theorem windowDrains (s : State) (i : Nat) (hcopies : winCopies s (tget s.hom.winDrain i) = []) (htxns : s.hom.txns = []) :
    Ends (.windowDrainDone i) s (fun t =>
      tget t.hom.winDrain i = {} ∧ (∀ j, j ≠ i → tget t.hom.winDrain j = tget s.hom.winDrain j) ∧ t.hom.windows = s.hom.windows ∧ Frame [.hom] s t) := by
  by_cases hw : tget s.hom.winDrain i = {}
  · exact ends_of_exec (t := s) (congrArg Host.Outcome.next (if_pos hw)) ⟨hw, fun _ _ => rfl, rfl, Frame.refl _ _⟩
  · have hdone : winDrained s i = { s with hom := { s.hom with winDrain := tset s.hom.winDrain i {} } } :=
      (if_neg hw).trans (if_pos (by rw [hcopies, htxns]; rfl))
    refine ends_of_exec (congrArg Host.Outcome.next hdone)
      ⟨tget_tset_self s.hom.winDrain i {}, fun j hj => tget_tset_ne s.hom.winDrain i j {} hj, rfl, ?_⟩
    intro c hc
    cases c <;> first | exact absurd (by decide) hc | rfl

/-- Settles O57. -/
theorem unitsAndWindows : Obligations.UnitsAndWindows := ⟨unitServices, cwinSets, windowDrains⟩

end Sys2Proof.Machine
end

section
namespace Sys2Proof.Machine
open Sys2Proof

/-! # The state of the tiering engine (R371 to R403) -/

/-! ## Heat -/

/-- A tracked entry at the end of a window. -/
def heatNext (d k : Nat) (h : Heat) : Heat := if tracked h.st = true then heatStep d k h else h

theorem tget_heatAll (d k : Nat) (t : Tbl Heat) (i : Nat) : tget (heatAll d k t) i = heatNext d k (tget t i) := by
  have hmap : heatAll d k t = t.map (fun e => (e.1, heatNext d k e.2)) :=
    List.map_congr_left (fun e _ => by dsimp only [heatNext]; split <;> rfl)
  rw [hmap, tget_map_val _ (heatNext d k) rfl]

/-- The registers of the tiering engine at the end of a window of heat. -/
def windowEnded (s : State) : Tir :=
  { s.tir with cfgNow := s.tir.cfg, winNow := s.tir.win, threshNow := s.tir.thresh, heatAt := s.bcn.count,
               frames := heatAll (clamp 1 8 (fld s.tir.cfg 7 4)) (fld s.tir.cfg 11 8) s.tir.frames,
               embers := heatAll (clamp 1 8 (fld s.tir.cfg 7 4)) (fld s.tir.cfg 11 8) s.tir.embers,
               autoQ := [], autoDue := bitOf s.tir.cfg 0 && !bitOf s.det.mode 3 }

theorem heatUpdate_eq {s : State} (h : heatDue s = true) : heatUpdate s = lowFreeNote { s with tir := windowEnded s } :=
  if_neg (by simp [h])

theorem heatUpdates (s : State) (hdue : heatDue s = true) : Ends .heatUpdate s (fun t =>
    (∀ k, tget t.tir.frames k = (let h := tget s.tir.frames k
      if tracked h.st = true then heatStep (clamp 1 8 (fld s.tir.cfg 7 4)) (fld s.tir.cfg 11 8) h else h)) ∧
    (∀ k, tget t.tir.embers k = (let h := tget s.tir.embers k
      if tracked h.st = true then heatStep (clamp 1 8 (fld s.tir.cfg 7 4)) (fld s.tir.cfg 11 8) h else h)) ∧
    t.tir.cfgNow = s.tir.cfg ∧ t.tir.threshNow = s.tir.thresh ∧ t.tir.winNow = s.tir.win ∧ t.tir.heatAt = s.bcn.count ∧
    Frame [.pages, .cnt, .tir, .hst, .out] s t) := by
  have hnote := lowFreeNote_frame { s with tir := windowEnded s }
  refine ends_of_exec (congrArg Host.Outcome.next (heatUpdate_eq hdue)) ?_
  rw [hnote .tir (by decide)]
  refine ⟨fun k => tget_heatAll _ _ _ _, fun k => tget_heatAll _ _ _ _, rfl, rfl, rfl, rfl, Frame.trans (m := [.pages, .cnt, .hst, .out]) (l := [.tir]) ?_ hnote (by decide) (by decide)⟩
  intro c hc
  cases c <;> first | exact absurd (by decide) hc | rfl

theorem mem_byKey (f : Heat → Nat) (l : List (Nat × Heat)) (x : Nat × Heat) : x ∈ byKey f l ↔ x ∈ l := by
  induction l with
  | nil => exact Iff.rfl
  | cons y l ih =>
    have hsplit : ∀ p : Nat × Heat → Bool, x ∈ byKey f l ↔ x ∈ (byKey f l).takeWhile p ∨ x ∈ (byKey f l).dropWhile p := fun p => by
      rw [← List.mem_append, List.takeWhile_append_dropWhile]
    have hstep : byKey f (y :: l) =
        (byKey f l).takeWhile (fun z => decide (f z.2 < f y.2)) ++ y :: (byKey f l).dropWhile (fun z => decide (f z.2 < f y.2)) := rfl
    rw [hstep, List.mem_append, List.mem_cons, List.mem_cons, ← ih, hsplit (fun z => decide (f z.2 < f y.2))]
    tauto

/-- The automatic moves that are chosen: demotions while frames run low, and promotions. -/
def autoPicks (s : State) : List (Bool × Nat) :=
  (if freeFrames s < lowFree s then (byKey (fun h => h.heat) (demotable s)).map (fun e => (false, e.1)) else []) ++
    ((byKey (fun h => 255 - h.heat) (promotable s)).take (freeFrames s - lowFree s)).map (fun e => (true, e.1))

theorem demotion_mem (s : State) (k : Nat) : (false, k) ∈ autoPicks s ↔ freeFrames s < lowFree s ∧ ∃ e, (k, e) ∈ demotable s := by
  have hup : (false, k) ∉ ((byKey (fun h => 255 - h.heat) (promotable s)).take (freeFrames s - lowFree s)).map (fun e => (true, e.1)) := by
    rw [List.mem_map]
    rintro ⟨e, -, he⟩
    exact Bool.noConfusion (Prod.mk.inj he).1
  rw [autoPicks, List.mem_append, or_iff_left hup]
  by_cases h : freeFrames s < lowFree s
  · simp [h, mem_byKey]
  · simp [h]

theorem promotion_mem {s : State} {k : Nat} (h : (true, k) ∈ autoPicks s) : ∃ e, (k, e) ∈ promotable s := by
  rw [autoPicks, List.mem_append] at h
  rcases h with h | h
  · split at h <;> simp at h
  · obtain ⟨⟨j, e⟩, hmem, heq⟩ := List.mem_map.1 h
    obtain ⟨-, rfl⟩ := Prod.mk.inj heq
    exact ⟨e, (mem_byKey _ _ _).1 (List.mem_of_mem_take hmem)⟩

theorem autoChoice_eq {s : State} (hdue : s.tir.autoDue = true) (hen : enabled s pTIR = true) (hf : fenced s pTIR = false) :
    autoChoice s = { s with tir := { s.tir with autoDue := false, autoQ := autoPicks s } } :=
  (if_neg (by simp [hdue])).trans (if_neg (show ¬ (!enabled s pTIR || fenced s pTIR) = true by simp [hen, hf]))

theorem tierHeat : Claim.TierHeat := by
  refine ⟨heatUpdates, fun s hdue hen hf => ?_⟩
  refine ends_of_exec (congrArg Host.Outcome.next (autoChoice_eq hdue hen hf)) ⟨rfl, demotion_mem s, fun k => promotion_mem, rfl, ?_⟩
  intro c hc
  cases c <;> first | exact absurd (by decide) hc | rfl

/-! ## The pool registers -/

theorem poolSet_taken {t : State} {off : Nat} {v : Word} (hen : enabled t pTIR = false) (hany : anyEnrolled t = false) :
    poolSet t off v = { t with tir := poolPut t.tir off v } := if_neg (by simp [hen, hany])

theorem poolSet_refused {t : State} {off : Nat} {v : Word} (h : enabled t pTIR = true ∨ anyEnrolled t = true) :
    poolSet t off v = setLast t pTIR .permission := if_pos (by rcases h with h | h <;> simp [h])

theorem enabled_setLast (s : State) (p q : Nat) (st : Status) : enabled (setLast s p st) q = enabled s q := by
  have hpage : (page (setLast s p st) q).enable = (page s q).enable := by
    by_cases h : q = p
    · rw [h, setLast, page_updPage_self]
    · rw [setLast, page_updPage_ne _ _ _ _ h]
  unfold enabled
  rw [← page, ← page, hpage]

theorem poolRegisters : Claim.PoolRegisters := by
  intro s a off v hoff hadm
  have hst16 : a.st < 16 := Nat.lt_trans hadm.1 (by decide)
  have hrange : (0x218 ≤ off ∧ off ≤ 0x238 ∧ off % 8 = 0) ∧ regDefined pTIR off = true := by
    simp only [List.mem_cons, List.not_mem_nil, or_false] at hoff
    rcases hoff with rfl | rfl | rfl | rfl | rfl <;> decide
  have hexec : exec (.poolRegisterWrite a off v) s = .next (regRsp (afterExpert s (poolSet (setLast s pTIR .ok) off v) pTIR off) a.st .ok []) :=
    congrArg Host.Outcome.next ((if_pos hrange.1).trans (unitWrite_admitted s a pTIR off _ hadm hrange.2))
  have hset := setLast_frame s pTIR .ok
  have hany : anyEnrolled (setLast s pTIR .ok) = anyEnrolled s := rfl
  rw [← enabled_setLast s pTIR pTIR .ok, ← hany]
  refine ⟨fun hen hno => ?_, fun h => ?_⟩
  · rw [poolSet_taken hen hno] at hexec
    have hput : Frame [.tir] (setLast s pTIR .ok) { setLast s pTIR .ok with tir := poolPut s.tir off v } := tir_frame _ _
    have hend := afterWrite_frame s { setLast s pTIR .ok with tir := poolPut s.tir off v } pTIR off a.st hst16
    have hlast := (afterWrite_sameLastCfg s { setLast s pTIR .ok with tir := poolPut s.tir off v } pTIR off a.st hst16).2 pTIR
    refine ends_of_exec hexec ⟨hend .tir (by decide), hlast.trans ?_, regRsp_answered _ _ _ _ hst16,
      Frame.into hend rfl (hset.trans hput (by decide) (by decide))⟩
    rw [page_of_frame hput (by decide), setLast, page_updPage_self]
  · rw [poolSet_refused h] at hexec
    have hend := afterWrite_frame s (setLast (setLast s pTIR .ok) pTIR .permission) pTIR off a.st hst16
    have hlast := (afterWrite_sameLastCfg s (setLast (setLast s pTIR .ok) pTIR .permission) pTIR off a.st hst16).2 pTIR
    refine ends_of_exec hexec ⟨hend .tir (by decide), hlast.trans ?_⟩
    rw [setLast, page_updPage_self]

/-! ## TIER_ENROL -/

/-- TIER_ENROL in the catalogue. -/
def tierEnrolSvc : Svc := { code := 0x0070, who := .driver, masks := [mask 23 0], unit := some pTIR }

/-- The pages of the object of a record: the first GPA, the record's word 0 and how many there are. -/
def enrolled (t : State) (m id a : Nat) : State × Nat :=
  enrolPages t m id (fld (rdWord t (a + 16)) 51 22 * 2 ^ 22) (rdWord t a) (fld (rdWord t (a + 24)) 31 0)

theorem svcTierEnrol_eq (m seq : Nat) (a : Word) : ∃ f, (∀ t, svcTierEnrol t m seq [a] = gate t m seq tierEnrolSvc [a] f) ∧
    (∀ t st, tierObj t m (fld a 23 0) = .error st → f t = reply t m seq 0x0070 st) ∧
    (∀ t x, tierObj t m (fld a 23 0) = .ok x → f t = reply (enrolled t m (fld a 23 0) x).1 m seq 0x0070
      (if bitOf (rdWord t x) 4 && !lossyWorks (rdWord t x) then .partly else .ok)
      [pack [(0, (enrolled t m (fld a 23 0) x).2 % 2 ^ 32), (32, fld (rdWord t (x + 24)) 31 0 - (enrolled t m (fld a 23 0) x).2)]]) := by
  refine ⟨_, fun t => rfl, fun t st h => ?_, fun t x h => ?_⟩
  · dsimp only [argOf_zero]
    rw [h]
  · dsimp only [argOf_zero]
    rw [h]
    rfl

/-- The heat entry of a page at its enrolment. -/
def heatOf (p obj gpa l : Nat) (v w0 : Word) : Heat :=
  { st := .resident, auto := true, lossyOk := bitOf w0 4 && lossyWorks w0, srcFmt := fld w0 8 5, mxFmt := fld w0 14 9,
    part := p, obj := obj, leaf := l, leafVal := v, perm := fld v 5 3, attr := fld v 9 8, gpa := gpa }

/-- The state in which a frame holds an enrolled page. -/
def framed (t : State) (f : Nat) (h : Heat) : State := { t with tir := { t.tir with frames := tset t.tir.frames f h } }

theorem enrolPages_one_some {t : State} {p obj gpa l f : Nat} {v : Word} (w0 : Word) (h : enrolPlace t p gpa = some (l, v, f)) :
    enrolPages t p obj gpa w0 1 = (framed t f (heatOf p obj gpa l v w0), 1) := by
  simp only [enrolPages, enrolPage, Nat.zero_mul, Nat.add_zero, Nat.zero_add, h]
  rfl

theorem enrolPages_one_none {t : State} {p obj gpa : Nat} (w0 : Word) (h : enrolPlace t p gpa = none) : enrolPages t p obj gpa w0 1 = (t, 0) := by
  simp only [enrolPages, enrolPage, Nat.zero_mul, Nat.add_zero, h]
  rfl

theorem tierObj_told (x : Told) (s : State) (p id : Nat) : tierObj (told x s) p id = tierObj s p id := by
  unfold tierObj
  simp only [objWhere_told, rdWord_told]

theorem s2Entry_told (x : Told) (s : State) (tbl lvl gpa : Nat) : s2Entry (told x s) tbl lvl gpa = s2Entry s tbl lvl gpa := by
  unfold s2Entry
  simp only [keyOf_told, tableRead_told]

theorem enrolPlace_told (x : Told) (s : State) (p gpa : Nat) : enrolPlace (told x s) p gpa = enrolPlace s p gpa := by
  have hleaf : s2LeafOf (told x s) p gpa = s2LeafOf s p gpa := by
    unfold s2LeafOf
    simp only [s2Entry_told]
    rfl
  have hnear : ∀ a, nearFrame (told x s) a = nearFrame s a := fun _ => rfl
  have htir : (told x s).tir = s.tir := rfl
  have hsec : (told x s).sec = s.sec := rfl
  unfold enrolPlace
  rw [hleaf, htir, hsec]
  simp only [hnear]

theorem tierEnrols (s : State) (m seq : Nat) (a : Word) (hruns : SvcRuns s m seq tierEnrolSvc [a]) :
    let id := fld a 23 0
    linesAsk s kSudric (enrolLines s m id) [] = none →
    (∀ x, tierObj s m id = .ok x → fld (rdWord s (x + 24)) 31 0 = 1 → bitOf (rdWord s x) 4 = false →
      let g := fld (rdWord s (x + 16)) 51 22 * 2 ^ 22
      (∀ l v f, enrolPlace s m g = some (l, v, f) → Ends (.tierEnrol m seq [a]) s (fun t =>
        Replied t m seq 0x0070 .ok [pack [(0, 1), (32, 0)]] ∧
        (let h := tget t.tir.frames f
         h.st = .resident ∧ h.auto = true ∧ h.lossyOk = false ∧ h.part = m ∧ h.obj = id ∧ h.leaf = l ∧ h.leafVal = v ∧ h.gpa = g) ∧
        (∀ j, j ≠ f → tget t.tir.frames j = tget s.tir.frames j) ∧ Frame [.tir, .mbx, .hom, .cas, .out] s t)) ∧
      (enrolPlace s m g = none → Ends (.tierEnrol m seq [a]) s (fun t =>
        Replied t m seq 0x0070 .ok [pack [(0, 0), (32, 1)]] ∧ Frame [.mbx, .hom, .cas, .out] s t))) ∧
    (∀ st, tierObj s m id = .error st → Ends (.tierEnrol m seq [a]) s (fun t => Replied t m seq 0x0070 st [] ∧ Frame [.mbx, .hom, .cas, .out] s t)) := by
  intro id hask
  have hseq : seq < 256 := hruns.1
  obtain ⟨f, hf, herr, hok⟩ := svcTierEnrol_eq m seq a
  obtain ⟨x, hx, -⟩ := sudricReads_runs (i := .tierEnrol m seq [a]) hruns hask f
  have hexec : exec (.tierEnrol m seq [a]) s = .next (f (told x s)) := by
    rw [← hx]
    simp only [← hf]
    rfl
  have hframe := told_frame x s
  refine ⟨fun r hr hone hlossy => ?_, fun st hst => ?_⟩
  · intro g
    have hpages : enrolled (told x s) m id r = enrolPages (told x s) m id g (rdWord s r) 1 := by
      rw [enrolled, rdWord_told, rdWord_told, rdWord_told, hone]
    rw [hok (told x s) r ((tierObj_told x s m id).trans hr), rdWord_told, rdWord_told, hone, hlossy, hpages] at hexec
    refine ⟨fun l v k hplace => ?_, fun hplace => ?_⟩
    · rw [enrolPages_one_some _ ((enrolPlace_told x s m g).trans hplace)] at hexec
      have hreply := reply_frame (framed (told x s) k (heatOf m id g l v (rdWord s r))) m seq 0x0070 .ok [pack [(0, 1), (32, 0)]] false hseq
      have hframes : (framed (told x s) k (heatOf m id g l v (rdWord s r))).tir.frames = tset s.tir.frames k (heatOf m id g l v (rdWord s r)) := rfl
      refine ends_of_exec (t := reply (framed (told x s) k (heatOf m id g l v (rdWord s r))) m seq 0x0070 .ok [pack [(0, 1), (32, 0)]]) hexec
        ⟨replied_reply _ _ _ _ _ hseq, ?_, fun j hj => ?_, Frame.into hreply rfl (hframe.trans (tir_frame _ _) (by decide) (by decide))⟩
      · have hself : tget (tset s.tir.frames k (heatOf m id g l v (rdWord s r))) k = heatOf m id g l v (rdWord s r) := tget_tset_self _ _ _
        rw [hreply .tir (by decide), hframes, hself]
        exact ⟨rfl, rfl, by rw [heatOf, hlossy]; rfl, rfl, rfl, rfl, rfl, rfl⟩
      · rw [hreply .tir (by decide), hframes]
        exact tget_tset_ne _ _ _ _ hj
    · rw [enrolPages_one_none _ ((enrolPlace_told x s m g).trans hplace)] at hexec
      exact svc_answers hexec hseq hframe rfl
  · rw [herr (told x s) st ((tierObj_told x s m id).trans hst)] at hexec
    exact svc_answers hexec hseq hframe rfl

/-! ## TIER_UNENROL and TIER_POLICY -/

/-- TIER_UNENROL in the catalogue. -/
def tierUnenrolSvc : Svc := { code := 0x0071, who := .driver, masks := [mask 23 0], unit := some pTIR }

theorem svcTierUnenrol_eq (s : State) (m seq : Nat) (a : Word) : svcTierUnenrol s m seq [a] = gate s m seq tierUnenrolSvc [a] (fun t =>
    reply (unenrolFrames t m (fld a 23 0)) m seq 0x0071 (if objAway (unenrolFrames t m (fld a 23 0)) m (fld a 23 0) then .partly else .ok)) := rfl

/-- The frames given back hold no page that is away. -/
theorem objAway_unenrolFrames (t : State) (p id : Nat) : objAway (unenrolFrames t p id) p id = objAway t p id := by
  have hframes : (t.tir.frames.filter (fun e => !(e.2.st == .resident && e.2.part == p && e.2.obj == id))).any
      (fun e => (tracked e.2.st && e.2.part == p && e.2.obj == id) && e.2.st != .resident) =
      t.tir.frames.any (fun e => (tracked e.2.st && e.2.part == p && e.2.obj == id) && e.2.st != .resident) := by
    rw [List.any_filter]
    congr 1
    funext e
    cases e.2.st <;> simp [tracked]
  unfold objAway unenrolFrames
  dsimp only
  rw [hframes]

theorem tierUnenrols (s : State) (m seq : Nat) (a : Word) (hruns : SvcRuns s m seq tierUnenrolSvc [a]) : Ends (.tierUnenrol m seq [a]) s (fun t =>
      Replied t m seq 0x0071 (if objAway s m (fld a 23 0) then .partly else .ok) [] ∧
      t.tir.frames = s.tir.frames.filter (fun e => !(e.2.st == .resident && e.2.part == m && e.2.obj == fld a 23 0)) ∧ t.tir.embers = s.tir.embers ∧
      Frame [.tir, .mbx, .cas, .out] s t) := by
  have hseq : seq < 256 := hruns.1
  have hexec : exec (.tierUnenrol m seq [a]) s = .next _ :=
    congrArg Host.Outcome.next ((svcTierUnenrol_eq s m seq a).trans (gate_svcRuns hruns _))
  have hstart := svcStart_frame s m seq tierUnenrolSvc [a]
  generalize svcStart s m seq tierUnenrolSvc [a] = t at hexec hstart
  have htir : t.tir = s.tir := hstart .tir (by decide)
  have haway : objAway t m (fld a 23 0) = objAway s m (fld a 23 0) := by rw [objAway, objAway, htir]
  rw [objAway_unenrolFrames, haway] at hexec
  have hreply := reply_frame (unenrolFrames t m (fld a 23 0)) m seq 0x0071 (if objAway s m (fld a 23 0) then .partly else .ok) [] false hseq
  refine ends_of_exec hexec ⟨replied_reply _ _ _ _ _ hseq, ?_, ?_, Frame.into hreply rfl (hstart.trans (tir_frame _ _) (by decide) (by decide))⟩
  · rw [hreply .tir (by decide), ← htir]
    rfl
  · rw [hreply .tir (by decide), ← htir]
    rfl

/-- TIER_POLICY in the catalogue. -/
def tierPolicySvc : Svc := { code := 0x0072, who := .root0, masks := [mask 0 0 ||| mask 28 4, mask 47 0, mask 31 0], unit := some pTIR, page := some pTIR }

/-- The state in which the three registers of the policy are set. -/
def policySet (t : State) (a b c : Word) : State := { t with tir := { t.tir with cfg := a, thresh := b, win := c } }

theorem svcTierPolicy_eq (s : State) (m seq : Nat) (a b c : Word) : ∃ f, svcTierPolicy s m seq [a, b, c] = gate s m seq tierPolicySvc [a, b, c] f ∧
    (∀ t, fld b 15 8 ≤ fld b 7 0 → f t = reply t m seq 0x0072 .permission) ∧
    (∀ t, fld b 7 0 < fld b 15 8 → f t = reply (noteRegs (policySet t a b c) pTIR [0x200, 0x208, 0x210]) m seq 0x0072 .ok) :=
  ⟨_, rfl, fun _ h => if_pos h, fun _ h => if_neg (Nat.not_le.2 h)⟩

theorem tierPolicies (s : State) (m seq : Nat) (a b c : Word) (hruns : SvcRuns s m seq tierPolicySvc [a, b, c]) :
    (fld b 7 0 < fld b 15 8 → Ends (.tierPolicy m seq [a, b, c]) s (fun t =>
      Replied t m seq 0x0072 .ok [] ∧ t.tir = { s.tir with cfg := a, thresh := b, win := c } ∧ Frame [.pages, .tir, .mbx, .cas, .out] s t)) ∧
    (fld b 15 8 ≤ fld b 7 0 → Ends (.tierPolicy m seq [a, b, c]) s (fun t => Replied t m seq 0x0072 .permission [] ∧ Frame [.mbx, .cas, .out] s t)) := by
  have hseq : seq < 256 := hruns.1
  obtain ⟨f, hf, hrefused, hok⟩ := svcTierPolicy_eq s m seq a b c
  have hexec : exec (.tierPolicy m seq [a, b, c]) s = .next (f (svcStart s m seq tierPolicySvc [a, b, c])) :=
    congrArg Host.Outcome.next (hf.trans (gate_svcRuns hruns f))
  have hstart := svcStart_frame s m seq tierPolicySvc [a, b, c]
  generalize svcStart s m seq tierPolicySvc [a, b, c] = t at hexec hstart
  refine ⟨fun h => ?_, fun h => ?_⟩
  · rw [hok t h] at hexec
    have hnote : Frame [.pages] (policySet t a b c) (noteRegs (policySet t a b c) pTIR [0x200, 0x208, 0x210]) :=
      Frame.foldl _ _ _ _ (fun _ _ => noteBasic_frame _ _ _ _ _)
    have hdone : Frame [.pages, .mbx] (policySet t a b c) (reply (noteRegs (policySet t a b c) pTIR [0x200, 0x208, 0x210]) m seq 0x0072 .ok) :=
      Frame.into (reply_frame _ _ _ _ _ _ _ hseq) rfl (hnote.mono (by decide))
    refine ends_of_exec hexec ⟨replied_reply _ _ _ _ _ hseq, ?_, Frame.into hdone rfl (hstart.trans (tir_frame _ _) (by decide) (by decide))⟩
    rw [hdone .tir (by decide), policySet, hstart .tir (by decide)]
  · rw [hrefused t h] at hexec
    exact svc_answers hexec hseq hstart rfl

/-- Settles O50. -/
theorem tieringState : Obligations.TieringState :=
  ⟨tierHeat, poolRegisters, fun s m seq a => ⟨tierEnrols s m seq a, tierUnenrols s m seq a⟩, tierPolicies⟩

end Sys2Proof.Machine
end

section
namespace Sys2Proof.Machine
open Sys2Proof

/-! # An ACK and a grant that no read of the links reaches (R209, R239) -/

/-- The grant of line 0 to agent 0, with TAG 0. -/
def heldGrant : Answer := { agent := 0, kind := .dataCE }

/-- An open block whose host station 0 has an active link for agent 0, and whose home waits for the ACK of the grant. The table of links names
the station a second time, in an entry that no read of the table reaches, and there the grant still waits for a credit. -/
def shadowedGrant : State :=
  { State.reset with
    boot := { State.reset.boot with stage := 2 }
    hst := [(0, { st := 2, cfg := 0x1000 }), (0, { waiting := [.ans heldGrant] })]
    hom := { State.reset.hom with txns := [(0, some { req := some {}, ackFrom := some (0, 0), grant := .owned 0 })] } }

/-- The credit of the ACK is owed to the station, which leaves one entry of it in the table: the grant counts as sent, and the line is freed. -/
theorem shadowedGrant_acked : ∃ t, exec (.ack 0 0 0) shadowedGrant = .next t ∧ (txnOf t 0).isNone = true :=
  ⟨_, rfl, by decide⟩

/-- Refutes O35: an ACK that names a grant which still waits at a link is not always a protocol error. Where the table of links has two entries of
the agent's station and the grant waits in the second, the ACK's own credit removes that entry before the home looks for the grant, so the
ACK is taken and the line is freed. -/
theorem not_snoopsAndEvictions : ¬ Obligations.SnoopsAndEvictions := by
  intro h
  obtain ⟨hgrants, -⟩ := h
  obtain ⟨-, hstray, -⟩ := hgrants shadowedGrant 0 rfl (by decide) rfl rfl
  obtain ⟨t, ht, hhom, -⟩ := hstray _ 0 0 rfl (.inr (by decide))
  obtain ⟨u, hu, hfreed⟩ := shadowedGrant_acked
  obtain rfl : t = u := Host.Outcome.next.inj (ht.symm.trans hu)
  rw [txnOf, hhom] at hfreed
  exact absurd hfreed (by decide)

end Sys2Proof.Machine
end

section
namespace Sys2Proof.Machine
open Sys2Proof

/-! # Commands that begin (R413, R414) -/

variable {s : State} {q n op : Nat} {c : Cmd}

/-- A command that its unit has taken. -/
def atWork (c : Cmd) : Cmd := { c with st := .running }

/-- A command that is ready begins: its unit takes it as it was dispatched. -/
theorem beginCmd_ready (h : Ready s q n op c) (f : State → Cmd → State) : beginCmd s q n op f = f (begun s q n) c := by
  obtain ⟨hc, -, -, hst, hop⟩ := h
  rw [beginCmd, hc]
  dsimp only
  rw [if_pos (by rw [hst, hop]; simp)]
  rfl

theorem cmdOf_begun (h : Ready s q n op c) : cmdOf (begun s q n) q n = some { c with st := .running } := by
  rw [show begun s q n = updCmd s q n atWork from rfl, cmdOf_updCmd s q n atWork (fun _ => ⟨rfl, rfl⟩), h.1]
  rfl

theorem begun_frame (s : State) (q n : Nat) : Frame [.lmp] s (begun s q n) := updCmd_frame s q n _

/-- A command that has begun ends with the status its unit gives it. -/
theorem endedAs_begun {t : State} (h : Ready s q n op c) (ht : t.lmp = (begun s q n).lmp) (st : Status) (res : Word) : EndedAs (endCmd t q n st res) q n st := by
  have hcmd : cmdOf t q n = some { c with st := .running } := by rw [← cmdOf_begun h, cmdOf, cmdOf, ht]
  exact endedAs_endCmd hcmd (by simp) st res

end Sys2Proof.Machine
end

section
namespace Sys2Proof.Machine
open Sys2Proof

/-! # A REPORT of a context that is lost (R414, R429) -/

/-- The REPORT of queue 1 and context 3, dispatched: its record goes to address 0x20040. -/
def lostReport : Cmd := { q := 1, ctx := 3, words := [0x38, 0, 0x20040], st := .dispatched }

/-- An open block with 16 pages of memory behind port 0, in which context 3 is lost while its REPORT stands dispatched. Its space translates the
first 16 GiB to the same addresses. -/
def reportOfLost : State :=
  { State.reset with
    boot := { State.reset.boot with stage := 9, running := true }
    cas := { State.reset.cas with st := 2, ranges := [(0, { ctl := 0x1000010 })] }
    mps := [(0, { en := true, ready := true, cmdCr := 8, lineCr := 8 })]
    parts := [(0, { st := .open_ })]
    lan := { State.reset.lan with
      spaces := [(5, { valid := true, bound := 1 })]
      lantern := [{ id := 5, x := { size := 2, r := true, w := true, atom := true } }] }
    lmp := { State.reset.lmp with ctxs := [(3, { space := 5, st := .lost })], cmds := [lostReport] } }

/-- The state in which the address of the record has been looked up. -/
def reportLooked : State := (ownLook (begun reportOfLost 1 0) 5 0 0x20040 .write).1

theorem reportLooked_place : (ownLook (begun reportOfLost 1 0) (ctxOf reportOfLost 3).space 0 (fld (cw lostReport 2) 56 6 * 64) .write) =
    (reportLooked, .here 0x20040) := by rfl

theorem reportLooked_quiet : HomeQuiet reportLooked (relayReq reportLooked 1 0 0 0x20040 ((reportWords reportOfLost lostReport).flatMap wordBytes)) 0 := by
  unfold HomeQuiet; decide +kernel

/-- The write of the record is performed, and its command ends with CONTEXT_LOST. -/
theorem reportOfLost_ended : ∃ t, exec (.report 1 0) reportOfLost = .next t ∧ (cmdOf t 1 0).map (fun c => c.status) = some .contextLost :=
  ⟨_, rfl, by decide +kernel⟩

/-- Refutes O45: the command of a lost context ends with CONTEXT_LOST when its write is answered, so a REPORT does not end with OK in every state
in which it is dispatched and its record has an address. -/
theorem not_commandsOfTheLamplighter : ¬ Obligations.CommandsOfTheLamplighter := by
  intro h
  obtain ⟨hplain, -⟩ := h
  obtain ⟨-, -, hreport, -⟩ := hplain reportOfLost 1 0 lostReport
  obtain ⟨t, ht, -, c, hc, -, hok⟩ := hreport reportLooked 0x20040 0 ⟨rfl, rfl, rfl, rfl, rfl⟩ reportLooked_place (by decide) reportLooked_quiet (by decide +kernel)
  obtain ⟨u, hu, hlost⟩ := reportOfLost_ended
  obtain rfl : t = u := Host.Outcome.next.inj (ht.symm.trans hu)
  rw [hc, Option.map_some, hok] at hlost
  exact absurd hlost (by decide)

end Sys2Proof.Machine
end

section
namespace Sys2Proof.Machine
open Sys2Proof

/-! # What a quiet home does not look at

A request at a quiet home rests on the homes, the memory ranges, the memory ports, the fences and the tiers: not on the records of translation, of
the movers, of the accelerator die and the hosts, of the Lamplighter, or of the counters.
-/

/-- Records that no home looks at. -/
structure Aside where
  free : Nat
  mbx : Mbx
  cnt : Cnt
  parts : Tbl Part
  det : Det
  lan : Lan
  eng : Eng
  hst : Tbl Link
  mov : Mov
  xfm : Xfm
  lmp : Lmp
  fnc : Fnc
  out : List OutMsg
  inUse : List (Nat × Nat)
  sampled : List Instr
  pending : List Instr

/-- The state with these records. -/
def aside (x : Aside) (s : State) : State :=
  { s with free := x.free, mbx := x.mbx, cnt := x.cnt, parts := x.parts, det := x.det, lan := x.lan, eng := x.eng, hst := x.hst, mov := x.mov, xfm := x.xfm, lmp := x.lmp,
           fnc := x.fnc, out := x.out, inUse := x.inUse, sampled := x.sampled, pending := x.pending }

/-- The components that hold them. -/
def asideComps : List Comp :=
  [.free, .mbx, .cnt, .parts, .det, .lan, .eng, .hst, .mov, .xfm, .lmp, .fnc, .out, .inUse, .sampled, .pending]

/-- Those records of a state. -/
def asideOf (s : State) : Aside :=
  { free := s.free, mbx := s.mbx, cnt := s.cnt, parts := s.parts, det := s.det, lan := s.lan, eng := s.eng, hst := s.hst, mov := s.mov, xfm := s.xfm, lmp := s.lmp,
    fnc := s.fnc, out := s.out, inUse := s.inUse, sampled := s.sampled, pending := s.pending }

/-- A step that changes nothing else leaves the state with other such records. -/
theorem aside_of_frame {l : List Comp} {s t : State} (h : Frame l s t) (hl : ∀ c ∈ l, c ∈ asideComps) : t = aside (asideOf t) s := by
  have hw : Frame asideComps s t := h.mono hl
  have hbuild : t.build = s.build := hw .build (by decide)
  have hclk : t.clk = s.clk := hw .clk (by decide)
  have hpages : t.pages = s.pages := hw .pages (by decide)
  have hboot : t.boot = s.boot := hw .boot (by decide)
  have hfuses : t.fuses = s.fuses := hw .fuses (by decide)
  have hbcn : t.bcn = s.bcn := hw .bcn (by decide)
  have hsec : t.sec = s.sec := hw .sec (by decide)
  have hras : t.ras = s.ras := hw .ras (by decide)
  have hcas : t.cas = s.cas := hw .cas (by decide)
  have hhom : t.hom = s.hom := hw .hom (by decide)
  have htir : t.tir = s.tir := hw .tir (by decide)
  have hspn : t.spn = s.spn := hw .spn (by decide)
  have hmps : t.mps = s.mps := hw .mps (by decide)
  have hmem : t.mem = s.mem := hw .mem (by decide)
  have hpois : t.memPois = s.memPois := hw .memPois (by decide)
  have hkey : t.memKey = s.memKey := hw .memKey (by decide)
  have hscrub : t.memScrub = s.memScrub := hw .memScrub (by decide)
  rw [aside, ← hbuild, ← hclk, ← hpages, ← hboot, ← hfuses, ← hbcn, ← hsec, ← hras, ← hcas, ← hhom, ← htir, ← hspn, ← hmps, ← hmem, ← hpois, ← hkey, ← hscrub]
  rfl

variable (x : Aside) (s : State)

theorem homeOf_aside (l : Nat) : homeOf (aside x s) l = homeOf s l := by
  have hn : ∀ n k, nextHome (aside x s) n k = nextHome s n k := by
    intro n
    induction n with
    | zero => intro k; rfl
    | succ n ih =>
      intro k
      simp only [nextHome, ih]
      rfl
  have hk : homeK (aside x s) l = homeK s l := rfl
  have hb : blocks (aside x s) = blocks s := rfl
  simp only [homeOf, hk, hn, hb]

theorem homeHere_aside (l : Nat) : homeHere (aside x s) l = homeHere s l := by
  rw [homeHere, homeHere, homeOf_aside]
  rfl

theorem homeNo_aside (l : Nat) : homeNo (aside x s) l = homeNo s l := by rw [homeNo, homeNo, homeOf_aside]

theorem inTrackers_aside (n : Nat) : inTrackers (aside x s) n = inTrackers s n := by
  have hhom : (aside x s).hom = s.hom := rfl
  simp only [inTrackers, homeNo_aside, hhom]

theorem lineCurrent_aside (k l : Nat) : lineCurrent (aside x s) k l = lineCurrent s k l := by
  have hhom : (aside x s).hom = s.hom := rfl
  simp only [lineCurrent, homeHere_aside, hhom]

theorem slotOpen_aside (p i : Nat) : slotOpen (aside x s) p i = slotOpen s p i := rfl

theorem trackerFree_aside (r : HomeReq) : trackerFree (aside x s) r = trackerFree s r := by
  have hpool : trackerPool (aside x s) = trackerPool s := rfl
  have hcap : ingressCap (aside x s) = ingressCap s := rfl
  have hseal : isSealed (aside x s) = isSealed s := rfl
  have hsec : (aside x s).sec = s.sec := rfl
  have htick : frameTick (aside x s) = frameTick s := rfl
  simp only [trackerFree, inTrackers_aside, homeNo_aside, slotOpen_aside, hpool, hcap, hseal, hsec, htick]

theorem homeQuiet_aside {s : State} {r : HomeReq} {p : Nat} (h : HomeQuiet s r p) : HomeQuiet (aside x s) r p := by
  obtain ⟨hlive, hline, hw, hset, htxns, hrebal, hmoves, hmem, htrack, hap, hport, hhere⟩ := h
  exact ⟨hlive, hline, hw, hset, htxns, hrebal, hmoves, hmem, (trackerFree_aside x s r).trans htrack, hap, hport, (homeHere_aside x s _).trans hhere⟩

/-- A quiet home stays quiet for a request over a step that no home looks at. -/
theorem homeQuiet_of_frame {l : List Comp} {s t : State} {r : HomeReq} {p : Nat} (h : HomeQuiet s r p) (hf : Frame l s t) (hl : ∀ c ∈ l, c ∈ asideComps) :
    HomeQuiet t r p := by
  rw [aside_of_frame hf hl]
  exact homeQuiet_aside _ h

theorem lineCurrent_of_frame {l : List Comp} {s t : State} (hf : Frame l s t) (hl : ∀ c ∈ l, c ∈ asideComps) (k a : Nat) : lineCurrent t k a = lineCurrent s k a := by
  rw [aside_of_frame hf hl]
  exact lineCurrent_aside _ s k a

theorem rdLine_of_aside {l : List Comp} {s t : State} (hf : Frame l s t) (hl : ∀ c ∈ l, c ∈ asideComps) (a : Nat) :
    rdLine t a = rdLine s a ∧ linePois t a = linePois s a := by
  rw [aside_of_frame hf hl]
  exact ⟨rfl, rfl⟩

/-! ## A request under a translation -/

/-- A plain request under a translation to this package comes to its home. -/
theorem routeReq_here (s : State) {r : HomeReq} {x : Xlat} (hx : x.glob = false) (hr : ∀ a, r.op ≠ .atomic a) : routeReq s r x = place s r := by
  have hlocal : localX s x = x := by
    rw [localX, hx]
    rfl
  have hbar : barSlotBad s r = false := by
    rw [barSlotBad]
    split
    · next a h => exact absurd h (hr a)
    · rfl
  have hnode : ∀ n, wrongNode r n = false := by
    intro n
    rw [wrongNode]
    split
    · next a h => exact absurd h (hr a)
    · rfl
  simp only [routeReq, hlocal, hbar, hx, hnode, Bool.false_eq_true, if_false]

end Sys2Proof.Machine
end

section
namespace Sys2Proof.Machine
open Sys2Proof

/-! # Channels, their descriptors and segments (R316 to R318, R325 to R328) -/

variable {s t : State} {ch k i : Nat} {a : Active} {f : ChanCmd}

/-! ## Descriptors and segments of a channel -/

theorem activeOf_congr (h : chan t ch = chan s ch) (k : Nat) : activeOf t ch k = activeOf s ch k := by rw [activeOf, activeOf, h]

theorem chan_updActive (s : State) (ch k : Nat) (f : Active → Active) :
    chan (updActive s ch k f) ch = { chan s ch with active := (chan s ch).active.map (fun a => if a.key == k then f a else a) } := chan_updChan_self ..

/-- A descriptor after a step of its own, which leaves its number and its command. -/
theorem activeOf_updActive (h : activeOf s ch k = some (a, f)) {g : Active → Active} (hg : ∀ b, (g b).key = b.key ∧ (g b).cmd = b.cmd) :
    activeOf (updActive s ch k g) ch k = some (g a, f) := by
  have hfind := find?_map_of_key (fun b : Active => b.key == k) g (fun b hb => by rw [(hg b).1]; exact hb) (chan s ch).active
  rw [activeOf] at h ⊢
  rw [chan_updActive]
  dsimp only
  rw [hfind]
  cases hb : (chan s ch).active.find? (fun b => b.key == k) with
  | none => rw [hb] at h; exact absurd h (by simp)
  | some b =>
    rw [hb] at h
    obtain ⟨c, hc, heq⟩ := Option.map_eq_some_iff.mp h
    obtain ⟨rfl, rfl⟩ := Prod.mk.inj heq
    dsimp only [Option.map_some]
    rw [(hg b).2, hc]
    rfl

theorem activeOf_updSeg (h : activeOf s ch k = some (a, f)) (i : Nat) (g : Seg → Seg) :
    activeOf (updSeg s ch k i g) ch k = some ({ a with segs := lmod a.segs i g }, f) := activeOf_updActive h (fun _ => ⟨rfl, rfl⟩)

/-- The descriptor belongs to the command. -/
theorem activeOf_cmd (h : activeOf s ch k = some (a, f)) : a.key = k ∧ a.cmd = (f.q, f.seq) := by
  rw [activeOf] at h
  cases hb : (chan s ch).active.find? (fun b => b.key == k) with
  | none => rw [hb] at h; exact absurd h (by simp)
  | some b =>
    rw [hb] at h
    obtain ⟨c, hc, heq⟩ := Option.map_eq_some_iff.mp h
    obtain ⟨rfl, rfl⟩ := Prod.mk.inj heq
    have hkey := List.find?_some hb
    have hcmd := List.find?_some hc
    exact ⟨by simpa using hkey, (beq_iff_eq.mp hcmd).symm⟩

theorem getElem?_lmod_self {α : Type} (l : List α) (i : Nat) (f : α → α) : (lmod l i f)[i]? = l[i]?.map f := by
  induction l generalizing i with
  | nil => rfl
  | cons x l ih =>
    cases i with
    | zero => rfl
    | succ i => simpa [lmod] using ih i

/-! ## A settled channel -/

/-- What a channel makes of a segment when its pauses leave room: what waited for room reads on. -/
def segUnparked (g : Seg) : Seg :=
  { g with held := g.held.filter (fun k => k != 0), reads := g.reads.map (fun l => if l.st == 3 && l.token == 0 then { l with st := 0 } else l) }

/-- What a settled channel makes of its descriptors. -/
def settledActive (h : Chan) (a : Active) : Active := if 8 ≤ chanPaused h then a else { a with segs := a.segs.map segUnparked }

theorem settledActive_key (h : Chan) (a : Active) : (settledActive h a).key = a.key ∧ (settledActive h a).cmd = a.cmd := by
  unfold settledActive
  split <;> exact ⟨rfl, rfl⟩

/-- A channel with its pauses dropped that nothing holds. -/
def pausesLive (h : Chan) : Chan := { h with paused := h.paused.filter (fun k => (liveTokens h).contains k) }

theorem chanUnpark_eq (h : Chan) :
    (chanUnpark h).active = h.active.map (settledActive h) ∧ (chanUnpark h).fifo = h.fifo ∧ (chanUnpark h).nextKey = h.nextKey ∧ (chanUnpark h).bytes = h.bytes := by
  unfold chanUnpark
  split
  · next hfull =>
    refine ⟨?_, rfl, rfl, rfl⟩
    rw [show settledActive h = id from funext (fun a => if_pos hfull), List.map_id]
  · next hroom =>
    refine ⟨List.map_congr_left (fun a _ => ?_), rfl, rfl, rfl⟩
    rw [settledActive, if_neg hroom]
    rfl

/-- A settled channel is the channel with what waited for room reading on; no other channel changes. -/
theorem chan_chanSettle (s : State) (ch c : Nat) :
    chan (chanSettle s ch) c = if c = ch then chanUnpark (pausesLive (chan s ch)) else chan s c := by
  have hfold : ∀ (l : List Nat) (t : State), (l.foldl tokenSettle t).mov = t.mov := by
    intro l t
    refine List.foldlRecOn (motive := fun u : State => u.mov = t.mov) _ _ rfl (fun u hu b _ => ?_)
    rw [tokenSettle]
    split
    · exact hu
    · exact hu
  rw [chanSettle, chan, hfold]
  show chan (updChan s ch _) c = _
  split
  · next h =>
    rw [h, chan_updChan_self]
    rfl
  · next h => exact chan_updChan_ne _ _ _ _ h

theorem activeOf_chanSettle (h : activeOf s ch k = some (a, f)) :
    activeOf (chanSettle s ch) ch k = some (settledActive (pausesLive (chan s ch)) a, f) := by
  obtain ⟨hactive, hfifo, -⟩ := chanUnpark_eq (pausesLive (chan s ch))
  rw [activeOf] at h ⊢
  rw [chan_chanSettle, if_pos rfl, hactive, hfifo, List.find?_map]
  have hkey : ((fun b : Active => b.key == k) ∘ settledActive (pausesLive (chan s ch))) = fun b => b.key == k :=
    funext (fun b => by rw [Function.comp_apply, (settledActive_key _ b).1])
  rw [hkey]
  have hlive : (pausesLive (chan s ch)).active = (chan s ch).active ∧ (pausesLive (chan s ch)).fifo = (chan s ch).fifo := ⟨rfl, rfl⟩
  rw [hlive.1, hlive.2]
  cases hb : (chan s ch).active.find? (fun b => b.key == k) with
  | none => rw [hb] at h; exact absurd h (by simp)
  | some b =>
    rw [hb] at h
    obtain ⟨c, hc, heq⟩ := Option.map_eq_some_iff.mp h
    obtain ⟨rfl, rfl⟩ := Prod.mk.inj heq
    dsimp only [Option.map_some]
    rw [(settledActive_key _ b).2, hc]
    rfl

/-- A segment that nothing holds and none of whose reads waits for room is as it was. -/
theorem segUnparked_free {g : Seg} (hheld : g.held = []) (hreads : ∀ r ∈ g.reads, r.st ≠ 3) : segUnparked g = g := by
  have hmap : g.reads.map (fun l => if l.st == 3 && l.token == 0 then { l with st := 0 } else l) = g.reads := by
    refine (List.map_congr_left (fun r hr => ?_)).trans (List.map_id _)
    rw [if_neg (by simp [hreads r hr])]
    rfl
  rw [segUnparked, hmap, hheld]
  show { g with held := [] } = g
  rw [← hheld]

theorem settledActive_seg {h : Chan} {a : Active} {i : Nat} {g : Seg} (hg : a.segs[i]? = some g) (hfree : segUnparked g = g) :
    (settledActive h a).segs[i]? = some g := by
  unfold settledActive
  split
  · exact hg
  · show (a.segs.map segUnparked)[i]? = _
    rw [List.getElem?_map, hg, Option.map_some, hfree]

/-! ## A look-up of a pipe -/

/-- Of the movers only the buffers of the pipes differ. -/
def BuffersOnly (s t : State) : Prop := ∃ b, t.mov = { s.mov with buffers := b }

theorem BuffersOnly.refl (s : State) : BuffersOnly s s := ⟨s.mov.buffers, rfl⟩

theorem BuffersOnly.trans {u : State} (h : BuffersOnly s t) (g : BuffersOnly t u) : BuffersOnly s u := by
  obtain ⟨b, hb⟩ := h
  obtain ⟨c, hc⟩ := g
  exact ⟨c, by rw [hc, hb]⟩

theorem BuffersOnly.chan (h : BuffersOnly s t) (c : Nat) : chan t c = chan s c := by
  obtain ⟨b, hb⟩ := h
  rw [Machine.chan, hb]
  rfl

theorem BuffersOnly.of_mov (h : t.mov = s.mov) : BuffersOnly s t := ⟨s.mov.buffers, h⟩

theorem buffersOnly_setPipeBuf (s : State) (p : Nat) (l : List TlbEntry) : BuffersOnly s (setPipeBuf s p l) := ⟨_, rfl⟩

theorem buffersOnly_pipeCheck (s : State) (p sid va n : Nat) (acc : Access) (who : MoveFor) (e : TlbEntry) :
    BuffersOnly s (pipeCheck s p sid va n acc who e).1 := by
  have hdrop : BuffersOnly s (pipeMiss (pipeDrop s p e) p sid va acc who) :=
    (buffersOnly_setPipeBuf s p _).trans (.of_mov (by rw [pipeMiss]; dsimp only; split <;> rfl))
  unfold pipeCheck
  dsimp only
  split
  · exact hdrop
  · split
    · split
      · exact buffersOnly_setPipeBuf s p _
      · exact .refl s
    · split
      · exact hdrop
      · exact .refl s

theorem pipeLook_buffers (s : State) (p sid va n : Nat) (acc : Access) (who : MoveFor) : BuffersOnly s (pipeLook s p sid va n acc who).1 := by
  unfold pipeLook
  split
  · exact buffersOnly_pipeCheck ..
  · split
    · next e _ =>
      have hfill : BuffersOnly s (pipeFill (pfHit (lanternTouch s e) e) p e) :=
        BuffersOnly.trans (t := pfHit (lanternTouch s e) e) (.of_mov (pfHit_frame _ e .mov (by decide))) (buffersOnly_setPipeBuf _ p _)
      dsimp only
      split
      · exact hfill.trans (buffersOnly_pipeCheck ..)
      · exact hfill
    · exact .of_mov (by rw [pipeMiss]; dsimp only; split <;> rfl)

end Sys2Proof.Machine
end

section
namespace Sys2Proof.Machine
open Sys2Proof

/-! # Commands of the movers (R314 to R316) -/

section
variable {s : State} {q n : Nat} {c : Cmd} {xfm : Bool}

theorem exec_move (h : Ready s q n (if xfm then 0x02 else 0x01) c) :
    exec (if xfm then .moveXfm q n else .move q n) s = .next (moveCmd xfm (begun s q n) c) := by
  rw [← beginCmd_ready h (moveCmd xfm)]
  cases xfm <;> rfl

theorem unitFull_begun (s : State) (q n : Nat) (c : Cmd) : unitFull (begun s q n) c = unitFull s c := rfl

/-- A command that was put back as it was dispatched. -/
theorem cmdOf_putBack {t : State} (h : cmdOf t q n = some { c with st := .running }) (hst : c.st = .dispatched) :
    cmdOf (updCmd t q n (fun x => { x with st := .dispatched })) q n = some c := by
  rw [cmdOf_updCmd t q n (fun x => { x with st := .dispatched }) (fun _ => ⟨rfl, rfl⟩), h, Option.map_some, ← hst]

/-- The entry of a channel's FIFO that a command makes. -/
def moveEntryOf (xfm : Bool) (c : Cmd) : ChanCmd :=
  { q := c.q, seq := c.seq, xfm := xfm, ctx := c.ctx, part := c.part, descVa := fld (cw c 2) 56 0, count := fld (cw c 3) 15 0 }

theorem moveCmd_empty (t : State) (h : fld (cw c 3) 15 0 = 0) : moveCmd xfm t c = endCmd t c.q c.seq .ok := if_pos h

theorem moveCmd_room {t : State} (h : fld (cw c 3) 15 0 ≠ 0) (hroom : unitFull t c = false) :
    moveCmd xfm t c = updChan t (cChan c) (fun k => { k with fifo := k.fifo ++ [moveEntryOf xfm c] }) :=
  (if_neg h).trans (if_neg (by rw [hroom]; decide))

theorem moveCmd_full {t : State} (h : fld (cw c 3) 15 0 ≠ 0) (hfull : unitFull t c = true) :
    moveCmd xfm t c = updCmd (updQ t c.q (fun k => { k with stalled := true })) c.q c.seq (fun x => { x with st := .dispatched }) :=
  (if_neg h).trans (if_pos hfull)

theorem moveCommands : Claim.MoveCommands := by
  intro s q n c xfm h
  have hexec := exec_move h
  have hbegun := begun_frame s q n
  have hcmd := cmdOf_begun h
  obtain ⟨-, rfl, rfl, hst, -⟩ := id h
  refine ⟨fun hn => ?_, fun hn hroom => ?_, fun hn hfull => ?_⟩
  · rw [moveCmd_empty _ hn] at hexec
    exact ends_of_exec hexec ⟨endedAs_begun h rfl _ _, hbegun.andThen (endCmd_frame _ _ _ _ _) (by decide)⟩
  · rw [moveCmd_room hn ((unitFull_begun _ _ _ _).trans hroom)] at hexec
    exact ends_of_exec hexec ⟨congrArg Chan.fifo (chan_updChan_self _ _ _), fun k hk => chan_updChan_ne _ _ _ _ hk, hcmd,
      (hbegun.mono (by decide)).andThen (updChan_frame _ _ _) (by decide)⟩
  · rw [moveCmd_full hn ((unitFull_begun _ _ _ _).trans hfull)] at hexec
    have hqueue := queue_updQ_self (begun s c.q c.seq) c.q (fun k => { k with stalled := true })
    exact ends_of_exec hexec ⟨cmdOf_putBack hcmd hst, hqueue, (hbegun.andThen (updQ_frame _ _ _) (by decide)).andThen (updCmd_frame _ _ _ _) (by decide)⟩

end

/-! # The start of a descriptor (R317, R322 to R325) -/

section
variable {s t : State} {ch : Nat} {f : ChanCmd} {d : Desc}

/-- What refuses a descriptor that was read, or that could not be. -/
def startStops (s : State) (f : ChanCmd) (d : Desc) (bad : Option Status) : List Status :=
  match bad with
  | some st => [st]
  | none => descStops s f d

/-- The descriptor as its channel starts it: with its segments, or with none and the worst of the statuses that refuse it. -/
def startedDesc (s : State) (ch : Nat) (f : ChanCmd) (d : Desc) (bad : Option Status) : Active :=
  { key := (chan s ch).nextKey, idx := f.next, cmd := (f.q, f.seq), desc := d, arr := s.mov.nextArr
    prog := if (f.xfm && bad.isNone) && (startStops s f d bad).isEmpty then progSlot s (dProg d) else []
    slot := if (f.xfm && bad.isNone) && (startStops s f d bad).isEmpty then some (dProg d) else none
    segs := if (startStops s f d bad).isEmpty then cutSegs d else []
    status := (startStops s f d bad).foldl maxStatus .ok }

/-- The command whose next descriptor starts. -/
def cmdStarts (s : State) (f : ChanCmd) (stop : Bool) (x : ChanCmd) : ChanCmd :=
  { x with next := x.next + 1, step := if x.started then x.step else (ctxOf s x.ctx).step, started := true, stop := x.stop || stop }

/-- The channel that a descriptor joins. -/
def chanStarts (a : Active) (h : Chan) : Chan := { h with active := h.active ++ [a], nextKey := a.key + 1, descRetry := 0 }

/-- The state in which a descriptor has joined its channel. -/
def joined (s : State) (ch : Nat) (f : ChanCmd) (a : Active) (stop : Bool) : State :=
  updChan (updMove s ch f.q f.seq (cmdStarts s f stop)) ch (chanStarts a)

/-- The same, with the number of the next one that starts in any channel. -/
def startedChan (s : State) (ch : Nat) (f : ChanCmd) (a : Active) (stop : Bool) : State :=
  { joined s ch f a stop with mov := { (joined s ch f a stop).mov with nextArr := s.mov.nextArr + 1 } }

theorem chan_startedChan (s : State) (ch : Nat) (f : ChanCmd) (a : Active) (stop : Bool) :
    (chan (startedChan s ch f a stop) ch).active = (chan s ch).active ++ [a] ∧ (chan (startedChan s ch f a stop) ch).nextKey = a.key + 1 ∧
      ∀ c, c ≠ ch → chan (startedChan s ch f a stop) c = chan s c := by
  have harr : ∀ c, chan (startedChan s ch f a stop) c = chan (joined s ch f a stop) c := fun _ => rfl
  have hself : chan (joined s ch f a stop) ch = chanStarts a (chan (updMove s ch f.q f.seq (cmdStarts s f stop)) ch) := chan_updChan_self _ _ _
  have hmove : (chan (updMove s ch f.q f.seq (cmdStarts s f stop)) ch).active = (chan s ch).active := by rw [updMove, chan_updChan_self]
  refine ⟨?_, ?_, fun c hc => ?_⟩
  · rw [harr, hself, chanStarts, hmove]
  · rw [harr, hself, chanStarts]
  · rw [harr, joined, chan_updChan_ne _ _ _ _ hc, updMove, chan_updChan_ne _ _ _ _ hc]

theorem startedChan_frame (s : State) (ch : Nat) (f : ChanCmd) (a : Active) (stop : Bool) : Frame [.mov] s (startedChan s ch f a stop) := by
  have hjoined : Frame [.mov] s (joined s ch f a stop) :=
    ((updChan_frame _ _ _).andThen (updChan_frame _ _ _) (by decide) : Frame [.mov] s (updChan (updMove s ch f.q f.seq (cmdStarts s f stop)) ch (chanStarts a)))
  rw [startedChan]
  generalize joined s ch f a stop = t at hjoined ⊢
  exact (frame_mov_iff _ (by decide)).mpr hjoined

/-- A descriptor that was read enters its channel, which settles; a refused program is counted besides. -/
theorem descEnter_frame_settled (s : State) (ch : Nat) (f : ChanCmd) (d : Desc) (bad : Option Status) :
    Frame [.pages, .cnt, .xfm, .hst, .out] (chanSettle (startedChan s ch f (startedDesc s ch f d bad) (!(startStops s f d bad).isEmpty)) ch)
      (descEnter s ch f d bad) := by
  unfold descEnter
  extract_lets stops latch refused k a t1 t2 mov t3 xfm u
  have h3 : t3 = chanSettle (startedChan s ch f (startedDesc s ch f d bad) (!(startStops s f d bad).isEmpty)) ch := by cases bad <;> rfl
  rw [← h3]
  clear_value t3 xfm
  have hu : Frame [.pages, .cnt, .xfm, .hst, .out] t3 u :=
    Frame.into (count_frame _ _ _ _ _ _) (by decide) ((frame_xfm_iff _ (by decide)).mpr (Frame.refl _ t3))
  clear_value u
  split
  · exact Frame.refl _ _
  · split
    · exact Frame.into (raise_hostFrame u pXFM 0) (by decide) hu
    · exact hu

theorem cutSegs_free {g : Seg} (h : g ∈ cutSegs d) : segUnparked g = g := by
  rw [cutSegs] at h
  obtain ⟨r, -, hr⟩ := List.mem_flatMap.mp h
  obtain ⟨k, -, rfl⟩ := List.mem_map.mp hr
  exact segUnparked_free rfl (fun x hx => absurd hx (by simp))

/-- A descriptor that starts is as it was cut once its channel has settled. -/
theorem settledActive_started (h : Chan) (s : State) (ch : Nat) (f : ChanCmd) (d : Desc) : settledActive h (startedDesc s ch f d none) = startedDesc s ch f d none := by
  have hsegs : (startedDesc s ch f d none).segs.map segUnparked = (startedDesc s ch f d none).segs := by
    refine (List.map_congr_left (fun g hg => ?_)).trans (List.map_id _)
    have hg' : g ∈ if (descStops s f d).isEmpty then cutSegs d else [] := hg
    split at hg'
    · exact cutSegs_free hg'
    · exact absurd hg' (by simp)
  unfold settledActive
  split
  · rfl
  · rw [hsegs]

/-- What stands in the channels once a descriptor that was read has entered. -/
theorem descEnter_chans (s : State) (ch : Nat) (f : ChanCmd) (d : Desc) :
    (∃ r, (chan (descEnter s ch f d none) ch).active = r ++ [startedDesc s ch f d none] ∧ r.map (fun b => b.key) = (chan s ch).active.map (fun b => b.key)) ∧
      (chan (descEnter s ch f d none) ch).nextKey = (chan s ch).nextKey + 1 ∧ (∀ c, c ≠ ch → chan (descEnter s ch f d none) c = chan s c) ∧
      (descEnter s ch f d none).mem = s.mem := by
  have hframe := descEnter_frame_settled s ch f d none
  obtain ⟨hactive, hkey, hother⟩ := chan_startedChan s ch f (startedDesc s ch f d none) (!(startStops s f d none).isEmpty)
  have hstart := startedChan_frame s ch f (startedDesc s ch f d none) (!(startStops s f d none).isEmpty)
  generalize startedChan s ch f (startedDesc s ch f d none) (!(startStops s f d none).isEmpty) = u at hframe hactive hkey hother hstart
  have hchan : ∀ c, chan (descEnter s ch f d none) c = chan (chanSettle u ch) c := fun c => congrArg (fun m : Mov => tget m.chans c) (hframe .mov (by decide))
  obtain ⟨hmap, -, hnext, -⟩ := chanUnpark_eq (pausesLive (chan u ch))
  have hlive : (pausesLive (chan u ch)).active = (chan u ch).active := rfl
  rw [hlive, hactive, List.map_append, List.map_singleton, settledActive_started] at hmap
  refine ⟨⟨(chan s ch).active.map (settledActive (pausesLive (chan u ch))), ?_, ?_⟩, ?_, fun c hc => ?_, ?_⟩
  · rw [hchan, chan_chanSettle, if_pos rfl, hmap]
  · rw [List.map_map]
    exact List.map_congr_left (fun a _ => (settledActive_key _ a).1)
  · rw [hchan, chan_chanSettle, if_pos rfl, hnext]
    exact hkey
  · rw [hchan, chan_chanSettle, if_neg hc, hother c hc]
  · exact (hframe .mem (by decide)).trans ((chanSettle_frame u ch .mem (by decide)).trans (hstart .mem (by decide)))

theorem foldl_maxStatus_mem (l : List Status) (a : Status) : l.foldl maxStatus a = a ∨ l.foldl maxStatus a ∈ l := by
  induction l generalizing a with
  | nil => exact .inl rfl
  | cons x l ih =>
    have hmax : maxStatus a x = a ∨ maxStatus a x = x := by
      unfold maxStatus
      split
      · exact .inr rfl
      · exact .inl rfl
    rcases ih (maxStatus a x) with h | h
    · rcases hmax with hm | hm
      · exact .inl (h.trans hm)
      · refine .inr ?_
        rw [List.foldl_cons, h, hm]
        exact List.mem_cons_self ..
    · exact .inr (List.mem_cons_of_mem _ h)

theorem descStops_mem {st : Status} (h : st ∈ descStops s f d) : st = .permission ∨ st = .unitAbsent := by
  unfold descStops at h
  simp only [List.mem_append] at h
  rcases h with (h | h) | h
  · split at h
    · exact .inl (List.mem_singleton.mp h)
    · exact absurd h (by simp)
  · split at h
    · exact .inr (List.mem_singleton.mp h)
    · split at h
      · exact .inl (List.mem_singleton.mp h)
      · exact absurd h (by simp)
  · split at h
    · exact .inl (List.mem_singleton.mp h)
    · exact absurd h (by simp)

/-- A refused descriptor carries one of the statuses that refuse it. -/
theorem descStops_worst (h : descStops s f d ≠ []) : (descStops s f d).foldl maxStatus .ok ∈ descStops s f d := by
  have hmem := fun st (hst : st ∈ descStops s f d) => descStops_mem hst
  generalize descStops s f d = l at h hmem
  obtain ⟨x, l, rfl⟩ := List.exists_cons_of_ne_nil h
  have hx : maxStatus .ok x = x := by rcases hmem x (List.mem_cons_self ..) with rfl | rfl <;> rfl
  rw [List.foldl_cons, hx]
  rcases foldl_maxStatus_mem l x with he | he
  · rw [he]; exact List.mem_cons_self ..
  · exact List.mem_cons_of_mem _ he

/-- The state in which a line that no cache holds newer counts as read. -/
def ownLined (s : State) (k l : Nat) : State := { s with hom := { s.hom with fresh := s.hom.fresh.filter (fun x => !(x.1 == k && [l].contains x.2)) } }

/-- The words of a descriptor are in memory, and no cache holds its line newer: it enters its channel. -/
theorem descStart_here {s t : State} {ch p a : Nat} {f : ChanCmd} {l : List Nat} {x : Xlat} (hnext : nextMove (chan s ch) = some f) (hpipes : pipesOf s (chan s ch) = p :: l)
    (hroom : (chan s ch).active.length < 16) (htok : (chan s ch).descTok = 0) (hpark : (chan s ch).descPark = false) (hfail : moveFailed (chan s ch) f = false)
    (hlive : ctxLive s f.ctx = true) (hlook : pipeLook s p (ctxOf s f.ctx).space ((f.descVa + 128 * f.next) % 2 ^ 57) 1 .read (.desc ch) = (t, .ok x))
    (hplace : vaPlace t f.part ((f.descVa + 128 * f.next) % 2 ^ 57) x = .here a) (hline : lineCurrent t (kChan ch) (a / 128) = true)
    (hpois : bytesPois s a 128 = false) :
    descStart s ch = descEnter (ownLines t (kChan ch) [a / 128]).2 ch f { words := rdWords s a 16 } none := by
  have hframe : Frame [.cnt, .lan, .eng, .mov] s t := by
    have h := pipeLook_frame s p (ctxOf s f.ctx).space ((f.descVa + 128 * f.next) % 2 ^ 57) 1 .read (.desc ch)
    rwa [hlook] at h
  have hown : ownLines t (kChan ch) [a / 128] = (true, (ownLines t (kChan ch) [a / 128]).2) := by
    rw [ownLines, if_pos (by simpa using hline)]
  have hwords : rdWords (ownLines t (kChan ch) [a / 128]).2 a 16 = rdWords s a 16 := by
    rw [ownLines, if_pos (by simpa using hline), aside_of_frame hframe (by decide)]
    rfl
  have hpois' : bytesPois (ownLines t (kChan ch) [a / 128]).2 a 128 = false := by
    have hmem : (ownLines t (kChan ch) [a / 128]).2.memPois = s.memPois := by
      rw [ownLines, if_pos (by simpa using hline)]
      exact hframe .memPois (by decide)
    rw [← hpois, bytesPois, bytesPois, hmem]
  have hgo : ¬ (16 ≤ (chan s ch).active.length ∨ (chan s ch).descTok ≠ 0 ∨ (chan s ch).descPark = true ∨ moveFailed (chan s ch) f = true ∨ (!ctxLive s f.ctx) = true) := by
    rw [htok, hpark, hfail, hlive]
    simp
    omega
  unfold descStart
  dsimp only
  rw [hnext, hpipes]
  dsimp only
  rw [if_neg hgo, hlook]
  dsimp only
  rw [hplace]
  dsimp only
  rw [hown]
  dsimp only
  rw [hpois', hwords]
  rfl

theorem descriptorStarts : Claim.DescriptorStarts := by
  intro s t ch p a f l x h d hnext hpipes hroom htok hpark hfail hlive hlook hplace hline hpois
  have hexec : exec (.descriptorStart ch) s = .next (descEnter (ownLines t (kChan ch) [a / 128]).2 ch f d none) :=
    congrArg Host.Outcome.next (descStart_here hnext hpipes hroom htok hpark hfail hlive hlook hplace hline hpois)
  have hbuf := pipeLook_buffers s p (ctxOf s f.ctx).space ((f.descVa + 128 * f.next) % 2 ^ 57) 1 .read (.desc ch)
  have hmem : t.mem = s.mem := by
    have hf := pipeLook_frame s p (ctxOf s f.ctx).space ((f.descVa + 128 * f.next) % 2 ^ 57) 1 .read (.desc ch) .mem (by decide)
    rwa [hlook] at hf
  rw [hlook] at hbuf
  have hown : ownLines t (kChan ch) [a / 128] = (true, ownLined t (kChan ch) (a / 128)) := if_pos (by simpa using hline)
  rw [hown] at hexec
  obtain ⟨⟨r, hactive, hkeys⟩, hkey, hother, hmem'⟩ := descEnter_chans (ownLined t (kChan ch) (a / 128)) ch f d
  have hchan : ∀ c, chan (ownLined t (kChan ch) (a / 128)) c = chan s c := fun c => hbuf.chan c
  have hstops : descStops (ownLined t (kChan ch) (a / 128)) f d = descStops t f d := rfl
  rw [hchan] at hkeys hkey
  refine ends_of_exec hexec ⟨⟨startedDesc (ownLined t (kChan ch) (a / 128)) ch f d none, r, hactive, hkeys, ?_, rfl, rfl, rfl, fun hrun => ⟨?_, ?_⟩, fun hstop => ⟨?_, ?_⟩⟩, hkey,
    fun c hc => (hother c hc).trans (hchan c), hmem'.trans hmem⟩
  · exact congrArg Chan.nextKey (hchan ch)
  · show (descStops (ownLined t (kChan ch) (a / 128)) f d).foldl maxStatus .ok = .ok
    rw [hstops, hrun]
    rfl
  · show (if (descStops (ownLined t (kChan ch) (a / 128)) f d).isEmpty then cutSegs d else []) = cutSegs d
    rw [hstops, hrun]
    rfl
  · show (if (descStops (ownLined t (kChan ch) (a / 128)) f d).isEmpty then cutSegs d else []) = []
    rw [hstops, if_neg (by simpa using hstop)]
  · exact descStops_worst hstop

end

/-! # The staging of a segment (R326 to R328) -/

section
variable {s t : State} {ch k i p l sh : Nat} {a : Active} {f : ChanCmd} {g : Seg} {x : Xlat}

/-- A segment with its staging space, whose one source line is to be read. -/
def stagedSeg (a : Active) (g : Seg) (sh l : Nat) : Seg := { g with st := .staged, stage := segStage a.desc g, shared := sh, reads := [{ va := l }] }

/-- The same once its line is asked for. -/
def readingSeg (a : Active) (g : Seg) (sh l : Nat) : Seg := { stagedSeg a g sh l with reads := [{ va := l, st := 1 }] }

/-- A descriptor one of whose segments has been replaced. -/
def readingActive (a : Active) (i : Nat) (g : Seg) : Active := { a with segs := lmod a.segs i (fun _ => g) }

theorem lmod_lmod {α : Type} (l : List α) (i : Nat) (f g : α → α) : lmod (lmod l i f) i g = lmod l i (fun x => g (f x)) := by
  induction l generalizing i with
  | nil => rfl
  | cons x l ih =>
    cases i with
    | zero => rfl
    | succ i => simp [lmod, ih]

/-- A segment takes its staging space in order and reads its source. -/
theorem stageGrant_reads (h : activeOf s ch k = some (a, f)) (hg : a.segs[i]? = some g) (hst : g.st = .wait) (hlive : ctxLive s f.ctx = true)
    (horder : dOrder a.desc = false) (hbehind : stageBehind (chan s ch) k i = false) (hroom : stageFor s ch (segStage a.desc g) = some sh)
    (hshared : sharedBehind s ch a.arr sh = false) (hlines : segLines a.desc g = [l]) :
    stageGrant s ch k i = readSeg (updSeg s ch k i (fun _ => stagedSeg a g sh l)) ch k i f (stagedSeg a g sh l) := by
  unfold stageGrant
  rw [h]
  dsimp only
  rw [hg]
  dsimp only
  rw [hlive, hst, horder, hbehind, hroom]
  dsimp only
  rw [hshared, hlines]
  rfl

/-- A segment of one source line reads it under the translation of its pipe. -/
theorem readSeg_line {s1 : State} {r : List Nat} (hpipes : pipesOf s1 (chan s1 ch) = p :: r) (sg : Seg) (hreads : sg.reads = [{ va := l }])
    (hlook : pipeLook s1 p (ctxOf s1 f.ctx).space (l * 128) 1 .read (.src ch k i) = (t, .ok x)) :
    readSeg s1 ch k i f sg = chanSettle (readLines t ch k i f x [(0, l)]) ch := by
  have hl : ((List.range sg.reads.length).filter (fun i => (sg.reads.getD i {}).st == 0)).map (fun i => (i, (sg.reads.getD i {}).va)) = [(0, l)] := by
    rw [hreads]
    rfl
  unfold readSeg
  rw [hpipes]
  dsimp only
  rw [hl]
  show chanSettle (readBurst s1 ch k i f p [(0, l)]) ch = _
  rw [readBurst]
  dsimp only [List.length_singleton]
  rw [hlook]

theorem srcReq_of_frame {n : List Comp} (h : Frame n s t) (hn : ∀ c ∈ n, c ∈ asideComps) (ch k i j : Nat) (f : ChanCmd) (va : Nat) (x : Xlat) :
    srcReq t ch k i j f va x = srcReq s ch k i j f va x := by
  rw [aside_of_frame h hn]
  rfl

theorem pipesOf_updSeg (s : State) (ch k i : Nat) (w : Seg → Seg) : pipesOf (updSeg s ch k i w) (chan (updSeg s ch k i w) ch) = pipesOf s (chan s ch) := by
  rw [updSeg, chan_updActive]
  rfl

theorem segmentStages : Claim.SegmentStages := by
  intro s t ch k i p l sh port r a f g x h hg hst hheld hlive horder hbehind hroom hshared hlines hpipes g' s1 hlook hglob hquiet hdir halu
  have hexec : exec (.segmentStageGrant ch k i) s = .next (chanSettle (readLines t ch k i f x [(0, l)]) ch) := by
    refine congrArg Host.Outcome.next ((stageGrant_reads h hg hst hlive horder hbehind hroom hshared hlines).trans (readSeg_line (r := r) ?_ _ rfl hlook))
    rw [← hpipes]
    exact pipesOf_updSeg ..
  have hseg1 : Frame [.mov] s s1 := updChan_frame _ _ _
  have hlooked : Frame [.cnt, .lan, .eng, .mov] s1 t := by
    have hf := pipeLook_frame s1 p (ctxOf s f.ctx).space (l * 128) 1 .read (.src ch k i)
    rwa [hlook] at hf
  have hbuf : BuffersOnly s1 t := by
    have hb := pipeLook_buffers s1 p (ctxOf s f.ctx).space (l * 128) 1 .read (.src ch k i)
    rwa [hlook] at hb
  generalize hv : updSeg t ch k i (fun q => { q with reads := lmod q.reads 0 (fun r => { r with st := 1, token := 0 }) }) = v
  have hseg2 : Frame [.mov] t v := hv ▸ updChan_frame _ _ _
  have hsv : Frame [.cnt, .lan, .eng, .mov] s v := ((hseg1.mono (by decide)).andThen hlooked (fun _ => id)).andThen hseg2 (by decide)
  have hreq : readLines t ch k i f x [(0, l)] = place v (srcReq s ch k i 0 f l x) := by
    show routeReq (updSeg t ch k i _) (srcReq (updSeg t ch k i _) ch k i 0 f l x) x = _
    rw [hv, srcReq_of_frame hsv (by decide)]
    exact routeReq_here v hglob (fun a => by simp [srcReq])
  obtain ⟨y, hplace, hopen, -, -⟩ := place_rdOnce (homeQuiet_of_frame hquiet hseg2 (by decide)) ((congrArg (fun h : Hom => tget h.dir _) (hseg2 .hom (by decide))).trans hdir)
    ((congrArg Hom.aluLines (hseg2 .hom (by decide))).symm ▸ halu)
  have hplace' : place v (srcReq s ch k i 0 f l x) = leftPlace y (srcReq s ch k i 0 f l x) := hplace
  rw [hreq, hplace'] at hexec
  have hleft := leftPlace_frame y (srcReq s ch k i 0 f l x)
  obtain ⟨hline, hpois⟩ := rdLine_of_aside hsv (by decide) (srcReq s ch k i 0 f l x).line
  have hread := hopen.read
  rw [hline, hpois] at hread
  have hyv : Frame [.hom, .tir, .mps, .cnt, .eng, .hst, .out] v (leftPlace y (srcReq s ch k i 0 f l x)) := (hopen.frame.mono (by decide)).andThen hleft (by decide)
  have hact : activeOf v ch k = some (readingActive a i (readingSeg a g sh l), f) := by
    have h1 := activeOf_updSeg h i (fun _ => stagedSeg a g sh l)
    have h2 := activeOf_updSeg ((activeOf_congr (hbuf.chan ch) k).trans h1) i (fun q => { q with reads := lmod q.reads 0 (fun r => { r with st := 1, token := 0 }) })
    rw [hv] at h2
    rw [h2, lmod_lmod]
    rfl
  have hactY : activeOf (leftPlace y (srcReq s ch k i 0 f l x)) ch k = some (readingActive a i (readingSeg a g sh l), f) := by
    rw [activeOf_congr (congrArg (fun m : Mov => tget m.chans ch) (hyv .mov (by decide))) k, hact]
  have hseg : (readingActive a i (readingSeg a g sh l)).segs[i]? = some (readingSeg a g sh l) := by
    show (lmod a.segs i _)[i]? = _
    rw [getElem?_lmod_self, hg]
    rfl
  have hfree : segUnparked (readingSeg a g sh l) = readingSeg a g sh l := segUnparked_free hheld (fun r hr => by
    obtain rfl := List.mem_singleton.mp hr
    exact (by decide : (1 : Nat) ≠ 3))
  have hsettle := chanSettle_frame (leftPlace y (srcReq s ch k i 0 f l x)) ch
  refine ends_of_exec hexec ⟨⟨_, activeOf_chanSettle hactY, settledActive_seg hseg hfree⟩, readFor_of_frame (readFor_of_frame hread hleft (by decide)) hsettle (by decide), ?_⟩
  exact (hsettle .mem (by decide)).trans ((hyv .mem (by decide)).trans (hsv .mem (by decide)))

end

/-- Settles O48. -/
theorem movesStart : Obligations.MovesStart := ⟨moveCommands, descriptorStarts, segmentStages⟩

end Sys2Proof.Machine
end

section
namespace Sys2Proof.Machine
open Sys2Proof

/-! # Registers of the channels and of the slot table (R320, R344) -/

section
variable {s : State} {a : Acc} {v : Word}

/-- An admitted write of a register of the movers that takes effect: its own effect, with LAST at OK, before it is answered. -/
theorem movWrite_taken {off : Nat} (hadm : UnitAdmits s a pMOV off) {t : State} (ht : Frame [.mov] (setLast s pMOV .ok) t) :
    (regRsp (afterExpert s t pMOV off) a.st .ok []).mov = t.mov ∧ (page (regRsp (afterExpert s t pMOV off) a.st .ok []) pMOV).last = .ok ∧
      Frame [.pages, .mbx, .cnt, .mov, .hst, .out] s (regRsp (afterExpert s t pMOV off) a.st .ok []) := by
  have hst16 : a.st < 16 := Nat.lt_trans hadm.1 (by decide)
  have hend := afterWrite_frame s t pMOV off a.st hst16
  have hlast := (afterWrite_sameLastCfg s t pMOV off a.st hst16).2 pMOV
  refine ⟨hend .mov (by decide), hlast.trans ?_, Frame.into hend rfl ((setLast_frame s pMOV .ok).trans ht (by decide) (by decide))⟩
  rw [page_of_frame ht (by decide), setLast, page_updPage_self]

/-- An admitted write that is refused leaves the movers as they were and its reason in LAST. -/
theorem movWrite_refused {off : Nat} (hadm : UnitAdmits s a pMOV off) (st : Status) :
    (regRsp (afterExpert s (refuseLast (setLast s pMOV .ok) pMOV st) pMOV off) a.st .ok []).mov = s.mov ∧
      (page (regRsp (afterExpert s (refuseLast (setLast s pMOV .ok) pMOV st) pMOV off) a.st .ok []) pMOV).last = st := by
  have hst16 : a.st < 16 := Nat.lt_trans hadm.1 (by decide)
  have hend := afterWrite_frame s (refuseLast (setLast s pMOV .ok) pMOV st) pMOV off a.st hst16
  have hlast := (afterWrite_sameLastCfg s (refuseLast (setLast s pMOV .ok) pMOV st) pMOV off a.st hst16).2 pMOV
  refine ⟨hend .mov (by decide), hlast.trans ?_⟩
  show (page (setLast (setLast s pMOV .ok) pMOV st) pMOV).last = st
  rw [setLast, page_updPage_self]

theorem chCtlWrites (s : State) (a : Acc) (v : Word) (hadm : UnitAdmits s a pMOV 0x208) :
    (chanBusy (chan s s.mov.chSel) = false ∨ (fld v 9 0 = (chan s s.mov.chSel).part ∧ bitOf v 10 = (chan s s.mov.chSel).owned) → Ends (.chCtlWrite a v) s (fun t =>
      chan t s.mov.chSel = { chan s s.mov.chSel with part := fld v 9 0, owned := bitOf v 10, weight := fld v 17 14, pipes := fld v 30 23, cap := fld v 43 32 } ∧
      (∀ c, c ≠ s.mov.chSel → chan t c = chan s c) ∧ (page t pMOV).last = .ok ∧ Frame [.pages, .mbx, .cnt, .mov, .hst, .out] s t)) ∧
    (chanBusy (chan s s.mov.chSel) = true → (fld v 9 0 ≠ (chan s s.mov.chSel).part ∨ bitOf v 10 ≠ (chan s s.mov.chSel).owned) → Ends (.chCtlWrite a v) s (fun t =>
      t.mov = s.mov ∧ (page t pMOV).last = .permission)) := by
  have hexec : ∀ t st, chCtlPut (setLast s pMOV .ok) s.mov.chSel v = (t, st) →
      exec (.chCtlWrite a v) s = .next (regRsp (afterExpert s (match st with | .ok => t | _ => refuseLast t pMOV st) pMOV 0x208) a.st .ok []) := by
    intro t st h
    refine congrArg Host.Outcome.next ((unitWrite_admitted s a pMOV 0x208 _ hadm rfl).trans ?_)
    have hsel : chCtlPut (setLast s pMOV .ok) (setLast s pMOV .ok).mov.chSel v = (t, st) := h
    rw [hsel]
    cases st <;> rfl
  have hchan : ∀ c, chan (setLast s pMOV .ok) c = chan s c := fun _ => rfl
  refine ⟨fun h => ?_, fun hbusy h => ?_⟩
  · have hset := chCtlPut_taken (t := setLast s pMOV .ok) (ch := s.mov.chSel) (v := v) (by rwa [hchan])
    obtain ⟨hmov, hlast, hframe⟩ := movWrite_taken hadm (updChan_frame (setLast s pMOV .ok) s.mov.chSel (chanSet v))
    have hc : ∀ c, chan (regRsp (afterExpert s (updChan (setLast s pMOV .ok) s.mov.chSel (chanSet v)) pMOV 0x208) a.st .ok []) c =
        chan (updChan (setLast s pMOV .ok) s.mov.chSel (chanSet v)) c := fun c => congrArg (fun m : Mov => tget m.chans c) hmov
    refine ends_of_exec (hexec _ _ hset) ⟨(hc _).trans (chan_updChan_self _ _ _), fun c hne => (hc c).trans (chan_updChan_ne _ _ _ _ hne), hlast, hframe⟩
  · have hset := chCtlPut_refused (t := setLast s pMOV .ok) (ch := s.mov.chSel) (v := v) (by rwa [hchan]) (by rwa [hchan])
    exact ends_of_exec (hexec _ _ hset) (movWrite_refused hadm .permission)

/-- The slot table with a slot set. -/
def slotsSet (s : State) (v : Word) : State := { s with mov := { s.mov with slots := tset s.mov.slots s.mov.slotSel (fld v 10 0) } }

theorem slotCtlSet_taken (h : sealedSlots (tset s.mov.slots s.mov.slotSel (fld v 10 0)) (s.mov.slotSel / 64) ≤ 48) : slotCtlSet s v = slotsSet s v :=
  if_neg (Nat.not_lt.mpr h)

theorem slotCtlSet_refused (h : 48 < sealedSlots (tset s.mov.slots s.mov.slotSel (fld v 10 0)) (s.mov.slotSel / 64)) :
    slotCtlSet s v = refuseLast s pMOV .quota := if_pos h

theorem slotsSet_frame (s : State) (v : Word) : Frame [.mov] s (slotsSet s v) := (frame_mov_iff _ (by decide)).mpr (Frame.refl _ s)

theorem slotCtlWrites (s : State) (a : Acc) (v : Word) (hadm : UnitAdmits s a pMOV 0x240) :
    (sealedSlots (tset s.mov.slots s.mov.slotSel (fld v 10 0)) (s.mov.slotSel / 64) ≤ 48 → Ends (.slotCtlWrite a v) s (fun t =>
      tget t.mov.slots s.mov.slotSel = fld v 10 0 ∧ (∀ k, k ≠ s.mov.slotSel → tget t.mov.slots k = tget s.mov.slots k) ∧
      t.mov.slotsNow = s.mov.slotsNow ∧ (page t pMOV).last = .ok ∧ Frame [.pages, .mbx, .cnt, .mov, .hst, .out] s t)) ∧
    (48 < sealedSlots (tset s.mov.slots s.mov.slotSel (fld v 10 0)) (s.mov.slotSel / 64) → Ends (.slotCtlWrite a v) s (fun t =>
      t.mov = s.mov ∧ (page t pMOV).last = .quota)) := by
  have hexec : exec (.slotCtlWrite a v) s = .next (regRsp (afterExpert s (slotCtlSet (setLast s pMOV .ok) v) pMOV 0x240) a.st .ok []) :=
    congrArg Host.Outcome.next (unitWrite_admitted s a pMOV 0x240 _ hadm rfl)
  refine ⟨fun h => ?_, fun h => ?_⟩
  · rw [slotCtlSet_taken (s := setLast s pMOV .ok) h] at hexec
    obtain ⟨hmov, hlast, hframe⟩ := movWrite_taken hadm (slotsSet_frame (setLast s pMOV .ok) v)
    refine ends_of_exec hexec ⟨?_, fun k hk => ?_, by rw [hmov]; rfl, hlast, hframe⟩
    · exact (congrArg (fun m : Mov => tget m.slots s.mov.slotSel) hmov).trans (tget_tset_self _ _ _)
    · exact (congrArg (fun m : Mov => tget m.slots k) hmov).trans (tget_tset_ne _ _ _ _ hk)
  · rw [slotCtlSet_refused (s := setLast s pMOV .ok) h] at hexec
    exact ends_of_exec hexec (movWrite_refused hadm .quota)

theorem moverRegisters : Claim.MoverRegisters := ⟨chCtlWrites, slotCtlWrites⟩

end

/-! # The ends of segments and descriptors (R327, R338 to R342, R345) -/

section
variable {s : State} {ch k i : Nat} {a : Active} {f : ChanCmd} {g : Seg} {l : List Active}

/-- A complete segment, with its staging space free. -/
def doneSeg (g : Seg) : Seg := { g with st := .done, stage := 0, shared := 0, reads := [] }

/-- The state in which a segment is complete and its bytes are counted on its channel. -/
def segDone (s : State) (ch k i n : Nat) : State := updChan (updSeg s ch k i doneSeg) ch (fun h => { h with bytes := satAdd 48 h.bytes n })

/-- The same, with the segment counted in SEG_TOTAL. -/
def segTold (s : State) (ch k i n : Nat) : State :=
  { segDone s ch k i n with mov := { (segDone s ch k i n).mov with segTotal := satAdd 32 (segDone s ch k i n).mov.segTotal 1 } }

theorem segDone_frame (s : State) (ch k i n : Nat) : Frame [.mov] s (segDone s ch k i n) := (updChan_frame _ _ _).andThen (updChan_frame _ _ _) (by decide)

theorem segDone_ends (h : activeOf s ch k = some (a, f)) (i n : Nat) :
    activeOf (segDone s ch k i n) ch k = some ({ a with segs := lmod a.segs i doneSeg }, f) ∧
      (chan (segDone s ch k i n) ch).bytes = satAdd 48 (chan s ch).bytes n ∧ (segDone s ch k i n).mov.segTotal = s.mov.segTotal := by
  have hself : chan (segDone s ch k i n) ch = { chan (updSeg s ch k i doneSeg) ch with bytes := satAdd 48 (chan (updSeg s ch k i doneSeg) ch).bytes n } :=
    chan_updChan_self _ _ _
  have hbytes : (chan (updSeg s ch k i doneSeg) ch).bytes = (chan s ch).bytes := by rw [updSeg, chan_updActive]
  refine ⟨?_, ?_, rfl⟩
  · rw [← activeOf_updSeg h i doneSeg, activeOf, activeOf, hself]
  · rw [hself]
    exact congrArg (fun b => satAdd 48 b n) hbytes

theorem segComplete_eq (h : activeOf s ch k = some (a, f)) (hg : a.segs[i]? = some g) (hst : g.st = .written) (hout : g.out = []) :
    segComplete s ch k i =
      count (count (segTold s ch k i (dstRange a.desc g).2) pMOV 1 f.part ch) pMOV 0 f.part ch (dstRange a.desc g).2 := by
  unfold segComplete
  rw [h]
  dsimp only
  rw [hg]
  dsimp only
  rw [if_neg (by rw [hst, hout]; decide)]
  rfl

theorem segmentCompletes (s : State) (ch k i : Nat) (a : Active) (f : ChanCmd) (g : Seg) (h : activeOf s ch k = some (a, f)) (hg : a.segs[i]? = some g)
    (hst : g.st = .written) (hout : g.out = []) :
    Ends (.segmentComplete ch k i) s (fun t =>
      (∃ A F, activeOf t ch k = some (A, F) ∧ A.segs[i]? = some { g with st := .done, stage := 0, shared := 0, reads := [] }) ∧
      (chan t ch).bytes = satAdd 48 (chan s ch).bytes (dstRange a.desc g).2 ∧ t.mov.segTotal = satAdd 32 s.mov.segTotal 1 ∧ Frame [.cnt, .mov] s t) := by
  have hexec : exec (.segmentComplete ch k i) s =
      .next (count (count (segTold s ch k i (dstRange a.desc g).2) pMOV 1 f.part ch) pMOV 0 f.part ch (dstRange a.desc g).2) :=
    congrArg Host.Outcome.next (segComplete_eq h hg hst hout)
  obtain ⟨hact, hbytes, htotal⟩ := segDone_ends h i (dstRange a.desc g).2
  have htold : Frame [.mov] s (segTold s ch k i (dstRange a.desc g).2) := (frame_mov_iff _ (by decide)).mpr (segDone_frame s ch k i _)
  have hcount := (count_frame (segTold s ch k i (dstRange a.desc g).2) pMOV 1 f.part ch 1).andThen
    (count_frame (count (segTold s ch k i (dstRange a.desc g).2) pMOV 1 f.part ch) pMOV 0 f.part ch (dstRange a.desc g).2) (fun _ => id)
  generalize count (count (segTold s ch k i (dstRange a.desc g).2) pMOV 1 f.part ch) pMOV 0 f.part ch (dstRange a.desc g).2 = t at hexec hcount
  have hmov : t.mov = (segTold s ch k i (dstRange a.desc g).2).mov := hcount .mov (by decide)
  have hchan : chan t ch = chan (segDone s ch k i (dstRange a.desc g).2) ch := by
    rw [chan, hmov]
    rfl
  refine ends_of_exec hexec ⟨⟨_, f, (activeOf_congr hchan k).trans hact, ?_⟩, (congrArg Chan.bytes hchan).trans hbytes, ?_, Frame.into hcount rfl (htold.mono (by decide))⟩
  · rw [getElem?_lmod_self, hg]
    rfl
  · rw [hmov, ← htotal]
    rfl

/-! ## HALF and FULL -/

/-- A bit of CH_HALF, CH_FULL or CH_ERR is set, and its interrupt raised when it was 0. -/
theorem chBit_ends (s : State) (old : Word) (ch irq : Nat) (F : Mov → Mov) (hirq : irq < 64) :
    (chBit s old ch irq F).mov = F s.mov ∧ Frame [.pages, .cnt, .mov, .hst, .out] s (chBit s old ch irq F) ∧
      (bitOf old ch = false → bitOf (page (chBit s old ch irq F) pMOV).irqRaw irq = true) := by
  have hset : Frame [.mov] s { s with mov := F s.mov } := (frame_mov_iff _ (by decide)).mpr (Frame.refl _ s)
  unfold chBit
  dsimp only
  split
  · next h => exact ⟨rfl, hset.mono (by decide), fun h' => absurd h (by rw [h']; decide)⟩
  · exact ⟨raise_frame _ pMOV irq .mov (by decide), Frame.into (raise_hostFrame _ pMOV irq) (by decide) (hset.mono (by decide)), fun _ => page_raise_bit _ _ _ hirq⟩

theorem half_of_done (h : (chan s ch).active = a :: l) (hhalf : a.half = true) : halfPoint s ch = s := by
  unfold halfPoint
  rw [h]
  dsimp only
  split
  · rfl
  · rw [if_pos (by rw [hhalf]; rfl)]

/-- HALF is marked and its doorbell bit set. -/
def halved (s : State) (ch : Nat) (a : Active) : State := updActive s ch a.key (fun a => { a with half := true })

theorem halfPoint_eq (h : (chan s ch).active = a :: l) (hact : activeOf s ch a.key = some (a, f)) (hhalf : a.half = false)
    (hrows : rowsDone a (cdiv (dRows a.desc) 2) = true) (hlive : ctxLive s f.ctx = true) (hsig : bitOf (dw a.desc 6) 14 = false)
    (hbell : bitOf (dw a.desc 6) 16 = true) :
    halfPoint s ch = chBit (halved s ch a) (halved s ch a).mov.chHalf ch 0 (fun m => { m with chHalf := setBit m.chHalf ch true }) := by
  unfold halfPoint
  rw [h]
  dsimp only
  rw [hact]
  dsimp only
  rw [if_neg (by rw [hhalf, hrows]; decide), if_pos hlive, halfActs, hsig, hbell]
  rfl

theorem halfPoints (s : State) (ch : Nat) (a : Active) (l : List Active) (f : ChanCmd) (h : (chan s ch).active = a :: l)
    (hact : activeOf s ch a.key = some (a, f)) (hhalf : a.half = false) (hrows : rowsDone a (cdiv (dRows a.desc) 2) = true)
    (hlive : ctxLive s f.ctx = true) (hsig : bitOf (dw a.desc 6) 14 = false) (hch : ch < 64) (hbell : bitOf (dw a.desc 6) 16 = true) :
    Ends (.halfPoint ch) s (fun t =>
      (∃ A r, (chan t ch).active = A :: r ∧ A = { a with half := true }) ∧ bitOf t.mov.chHalf ch = true ∧
      (bitOf s.mov.chHalf ch = false → bitOf (page t pMOV).irqRaw 0 = true) ∧ Frame [.pages, .cnt, .mov, .hst, .out] s t) := by
  have hexec : exec (.halfPoint ch) s = .next (chBit (halved s ch a) (halved s ch a).mov.chHalf ch 0 (fun m => { m with chHalf := setBit m.chHalf ch true })) :=
    congrArg Host.Outcome.next (halfPoint_eq h hact hhalf hrows hlive hsig hbell)
  have hhalved : Frame [.mov] s (halved s ch a) := updChan_frame _ _ _
  obtain ⟨hmov, hframe, hirq⟩ := chBit_ends (halved s ch a) (halved s ch a).mov.chHalf ch 0 (fun m => { m with chHalf := setBit m.chHalf ch true }) (by decide)
  refine ends_of_exec hexec ⟨⟨{ a with half := true }, l.map (fun b => if b.key == a.key then { b with half := true } else b), ?_, rfl⟩, ?_, hirq,
    Frame.into hframe rfl (hhalved.mono (by decide))⟩
  · have hchan := congrArg (fun m : Mov => (tget m.chans ch).active) hmov
    refine hchan.trans ?_
    show (chan (halved s ch a) ch).active = _
    rw [halved, chan_updActive, h, List.map_cons, if_pos (beq_self_eq_true a.key)]
  · rw [hmov]
    exact bitOf_setBit_true _ hch

/-- FULL sets the descriptor's doorbell bit, and the descriptor leaves its channel. -/
def fullTold (s : State) (ch : Nat) : State := chBit s s.mov.chFull ch 1 (fun m => { m with chFull := setBit m.chFull ch true })
def fullLeft (s : State) (ch : Nat) (a : Active) : State := updChan (fullTold s ch) ch (fun h => { h with active := h.active.filter (fun x => x.key != a.key) })

theorem updMove_id (s : State) (ch q n : Nat) {w : ChanCmd → ChanCmd} (hw : ∀ x, w x = x) : chan (updMove s ch q n w) ch = chan s ch := by
  have hid : (chan s ch).fifo.map (fun f => if f.q == q && f.seq == n then w f else f) = (chan s ch).fifo := by
    refine (List.map_congr_left (fun x _ => ?_)).trans (List.map_id _)
    rw [hw]
    exact ite_self x
  rw [updMove, chan_updChan_self, hid]

/-- The channel without the command whose last descriptor is done. -/
def moveLeft (s : State) (ch : Nat) (f : ChanCmd) : State :=
  updChan s ch (fun h => { h with fifo := h.fifo.filter (fun x => !(x.q == f.q && x.seq == f.seq)) })

theorem moveDone_last (hnext : f.next = f.count) (hother : ∀ b ∈ (chan s ch).active, b.cmd ≠ (f.q, f.seq)) (hlive : ctxLive s f.ctx = true) :
    moveDone s ch f = endCmd (moveLeft s ch f) f.q f.seq f.status (w64 f.bad) := by
  have hany : (chan s ch).active.any (fun a => a.cmd == (f.q, f.seq)) = false := by
    rw [List.any_eq_false]
    exact fun b hb => by simpa using hother b hb
  have hstay : ¬ ((decide (f.next < f.count) && !f.stop) || (chan s ch).active.any (fun a => a.cmd == (f.q, f.seq))) = true := by
    rw [hany, hnext]
    simp
  exact (if_neg hstay).trans (if_pos hlive)

/-- The last descriptor of a command reaches its FULL point. -/
theorem fullPoint_eq (h : (chan s ch).active = a :: l) (hact : activeOf s ch a.key = some (a, f)) (hhalf : a.half = true)
    (hdone : a.segs.all (fun g => g.st == .done) = true) (hok : a.status = .ok) (hlive : ctxLive s f.ctx = true) (hsig : bitOf (dw a.desc 6) 15 = false)
    (hbell : bitOf (dw a.desc 6) 17 = true) :
    ∃ w, (∀ x, w x = x) ∧ fullPoint s ch = moveDone (updMove (fullLeft s ch a) ch f.q f.seq w) ch f := by
  refine ⟨fun f => if f.status == .ok && a.status != .ok then { f with status := a.status, bad := a.idx, stop := true } else f,
    fun x => if_neg (by rw [hok]; simp), ?_⟩
  have hw : (if f.status == .ok && a.status != .ok then { f with status := a.status, bad := a.idx, stop := true } else f) = f := if_neg (by rw [hok]; simp)
  have hacts : fullActs s ch a f.part = fullTold s ch := by
    rw [fullActs, hsig, hbell]
    rfl
  unfold fullPoint
  rw [h]
  dsimp only
  rw [hact]
  dsimp only
  rw [if_neg (by rw [hdone]; decide), half_of_done h hhalf, if_pos hlive, hacts, if_pos (by rw [hok]; rfl), hw]
  rfl

theorem fullPoints (s : State) (ch : Nat) (a : Active) (l : List Active) (f : ChanCmd) (c : Cmd) (h : (chan s ch).active = a :: l)
    (hact : activeOf s ch a.key = some (a, f)) (hhalf : a.half = true) (hdone : a.segs.all (fun g => g.st == .done) = true) (hok : a.status = .ok)
    (hlive : ctxLive s f.ctx = true) (hsig : bitOf (dw a.desc 6) 15 = false) (hch : ch < 64) (hbell : bitOf (dw a.desc 6) 17 = true) (hnext : f.next = f.count)
    (hother : ∀ b, b ∈ l → b.cmd ≠ a.cmd) (hc : cmdOf s f.q f.seq = some c) (hst : c.st ≠ .retire) :
    Ends (.fullPoint ch) s (fun t =>
      (∀ b, b ∈ (chan t ch).active → b.key ≠ a.key) ∧ bitOf t.mov.chFull ch = true ∧ t.mov.chErr = s.mov.chErr ∧
      (∀ y, y ∈ (chan t ch).fifo → ¬ (y.q = f.q ∧ y.seq = f.seq)) ∧ EndedAs t f.q f.seq f.status ∧
      Frame [.pages, .cnt, .mov, .lmp, .hst, .out] s t) := by
  obtain ⟨w, hw, heq⟩ := fullPoint_eq h hact hhalf hdone hok hlive hsig hbell
  obtain ⟨hmov, htold, -⟩ := chBit_ends s s.mov.chFull ch 1 (fun m => { m with chFull := setBit m.chFull ch true }) (by decide)
  have hleft : Frame [.pages, .cnt, .mov, .hst, .out] s (updMove (fullLeft s ch a) ch f.q f.seq w) :=
    Frame.into ((updChan_frame (fullTold s ch) ch _).andThen (updChan_frame (fullLeft s ch a) ch _) (fun _ => id)) (by decide) htold
  have hactive : (chan (updMove (fullLeft s ch a) ch f.q f.seq w) ch).active = l.filter (fun x => x.key != a.key) := by
    have hchan : chan (fullTold s ch) ch = chan s ch := by rw [chan, show (fullTold s ch).mov = _ from hmov]; rfl
    rw [updMove_id _ _ _ _ hw, fullLeft, chan_updChan_self, hchan]
    show (chan s ch).active.filter _ = _
    rw [h, List.filter_cons_of_neg (by simp)]
  have hfullBit : (updMove (fullLeft s ch a) ch f.q f.seq w).mov.chFull = setBit s.mov.chFull ch true := by
    show (fullTold s ch).mov.chFull = _
    rw [show (fullTold s ch).mov = _ from hmov]
  have herr : (updMove (fullLeft s ch a) ch f.q f.seq w).mov.chErr = s.mov.chErr := by
    show (fullTold s ch).mov.chErr = _
    rw [show (fullTold s ch).mov = _ from hmov]
  generalize updMove (fullLeft s ch a) ch f.q f.seq w = u at heq hleft hactive hfullBit herr
  have hlmp : u.lmp = s.lmp := hleft .lmp (by decide)
  have hliveU : ctxLive u f.ctx = true := by
    have hcas : u.cas = s.cas := hleft .cas (by decide)
    rw [← hlive, ctxLive, ctxLive, ctxOf, ctxOf, ctxIdx, ctxIdx, hlmp, hcas]
  have hexec : exec (.fullPoint ch) s = .next (endCmd (moveLeft u ch f) f.q f.seq f.status (w64 f.bad)) := by
    refine congrArg Host.Outcome.next (heq.trans (moveDone_last hnext (fun b hb => ?_) hliveU))
    rw [← (activeOf_cmd hact).2]
    rw [hactive] at hb
    exact hother b (List.mem_of_mem_filter hb)
  have hgone : Frame [.mov, .lmp] u (endCmd (moveLeft u ch f) f.q f.seq f.status (w64 f.bad)) :=
    ((updChan_frame u ch _).mono (by decide)).andThen (endCmd_frame _ _ _ _ _) (by decide)
  have hend : (endCmd (moveLeft u ch f) f.q f.seq f.status (w64 f.bad)).mov = (moveLeft u ch f).mov := endCmd_frame _ _ _ _ _ .mov (by decide)
  have hchan : chan (endCmd (moveLeft u ch f) f.q f.seq f.status (w64 f.bad)) ch = chan (moveLeft u ch f) ch := congrArg (fun m : Mov => tget m.chans ch) hend
  refine ends_of_exec hexec ⟨fun b hb => ?_, ?_, ?_, fun y hy => ?_, ?_, Frame.into hgone rfl (hleft.mono (by decide))⟩
  · rw [hchan, moveLeft, chan_updChan_self] at hb
    have hb' : b ∈ (chan u ch).active := hb
    rw [hactive] at hb'
    simpa using List.of_mem_filter hb'
  · rw [hend]
    show bitOf u.mov.chFull ch = true
    rw [hfullBit]
    exact bitOf_setBit_true _ hch
  · rw [hend]
    exact herr
  · rw [hchan, moveLeft, chan_updChan_self] at hy
    have hy' := List.of_mem_filter hy
    rintro ⟨hq, hseq⟩
    simp [hq, hseq] at hy'
  · refine endedAs_endCmd (c := c) ?_ hst f.status _
    rw [← hc, cmdOf, cmdOf, show (moveLeft u ch f).lmp = s.lmp from hlmp]

theorem moverEnds : Claim.MoverEnds := ⟨segmentCompletes, halfPoints, fullPoints⟩

end
end Sys2Proof.Machine
end

section
namespace Sys2Proof.Machine
open Sys2Proof

/-! # Homes over raised interrupts and charged reservations -/

/-- The state with other registers of pages and other counts of the reservations. -/
def charged (P : Tbl Page) (R : Tbl Reserv) (s : State) : State := { s with pages := P, sec := { s.sec with reserv := R } }

section
variable {s : State} {P : Tbl Page} (R : Tbl Reserv) (hf : ∀ p, (tget P p).fence = (tget s.pages p).fence)

theorem homeOf_charged : homeOf (charged P R s) = homeOf s := by
  funext l
  have hn : ∀ n k, nextHome (charged P R s) n k = nextHome s n k := by
    intro n
    induction n with
    | zero => intro k; rfl
    | succ n ih =>
      intro k
      simp only [nextHome, ih]
      rfl
  have hk : homeK (charged P R s) l = homeK s l := rfl
  have hb : blocks (charged P R s) = blocks s := rfl
  simp only [homeOf, hk, hn, hb]

theorem trackerFree_charged (r : HomeReq) : trackerFree (charged P R s) r = trackerFree s r := by
  have hno : homeNo (charged P R s) = homeNo s := by
    funext l
    rw [homeNo, homeNo, homeOf_charged]
  have hin : inTrackers (charged P R s) = inTrackers s := by
    funext n
    simp only [inTrackers, hno]
    rfl
  have hpool : trackerPool (charged P R s) = trackerPool s := rfl
  have hcap : ingressCap (charged P R s) = ingressCap s := rfl
  have hseal : isSealed (charged P R s) = isSealed s := rfl
  have hsealed : (charged P R s).sec.sealed = s.sec.sealed := rfl
  have htick : frameTick (charged P R s) = frameTick s := rfl
  have hslot : slotOpen (charged P R s) = slotOpen s := rfl
  simp only [trackerFree, hin, hno, hslot, hpool, hcap, hseal, hsealed, htick]

include hf in
theorem memStatus_charged (l : Nat) : memStatus (charged P R s) l = memStatus s l := by
  have hfence : ∀ p, fenced (charged P R s) p = fenced s p := fun p => by
    show (fusedOff s p || (tget P p).fence) = _
    rw [hf]
    rfl
  have hup : portUp (charged P R s) = portUp s := by
    funext bp
    rw [portUp, hfence]
    rfl
  have hdown : portFenced (charged P R s) = portFenced s := by
    funext bp
    rw [portFenced, hfence]
    rfl
  rw [memStatus, memStatus, hup, hdown]
  rfl

include hf in
theorem homeQuiet_charged {r : HomeReq} {p : Nat} (h : HomeQuiet s r p) : HomeQuiet (charged P R s) r p := by
  obtain ⟨hlive, hline, hw, hset, htxns, hrebal, hmoves, hmem, htrack, hap, hport, hhere⟩ := h
  refine ⟨hlive, hline, hw, hset, htxns, hrebal, hmoves, (memStatus_charged R hf _).trans hmem, (trackerFree_charged R r).trans htrack, hap, hport, ?_⟩
  rw [homeHere, homeOf_charged]
  exact hhere

end

/-- Of the pages no fence differs, and of the security records only the counts of the reservations. -/
structure Charged (s t : State) : Prop where
  frame : Frame (.pages :: .sec :: asideComps) s t
  fence : FencesKept s t
  reserv : ∃ R, t.sec = { s.sec with reserv := R }

theorem Charged.trans {s t u : State} (h : Charged s t) (g : Charged t u) : Charged s u where
  frame := h.frame.andThen g.frame (fun _ => id)
  fence q := (g.fence q).trans (h.fence q)
  reserv := by
    obtain ⟨R, hR⟩ := h.reserv
    obtain ⟨Q, hQ⟩ := g.reserv
    exact ⟨Q, by rw [hQ, hR]⟩

theorem Charged.of_frame {l : List Comp} {s t : State} (h : Frame l s t) (hl : ∀ c ∈ l, c ∈ asideComps) : Charged s t where
  frame := h.mono (fun c hc => List.mem_cons_of_mem _ (List.mem_cons_of_mem _ (hl c hc)))
  fence q := by rw [page, page, show t.pages = s.pages from h .pages (fun hc => absurd (hl _ hc) (by decide))]
  reserv := ⟨s.sec.reserv, h .sec (fun hc => absurd (hl _ hc) (by decide))⟩

theorem Charged.eq {s t : State} (h : Charged s t) : ∃ R, t = aside (asideOf t) (charged t.pages R s) := by
  obtain ⟨R, hR⟩ := h.reserv
  refine ⟨R, aside_of_frame (l := asideComps) (fun c hc => ?_) (fun _ => id)⟩
  by_cases hp : c = .pages
  · subst hp; rfl
  · by_cases hs : c = .sec
    · subst hs; exact hR
    · have := h.frame c (by simp [hp, hs, hc])
      cases c <;> first | exact this | contradiction

theorem Charged.homeQuiet {s t : State} {r : HomeReq} {p : Nat} (h : Charged s t) (hq : HomeQuiet s r p) : HomeQuiet t r p := by
  obtain ⟨R, hR⟩ := h.eq
  rw [hR]
  exact homeQuiet_aside _ (homeQuiet_charged R h.fence hq)

theorem Charged.refl (s : State) : Charged s s := .of_frame (l := []) (Frame.refl _ s) (by decide)

theorem Charged.rdLine {s t : State} (h : Charged s t) (a : Nat) : rdLine t a = Machine.rdLine s a ∧ linePois t a = Machine.linePois s a := by
  obtain ⟨R, hR⟩ := h.eq
  rw [hR]
  exact ⟨rfl, rfl⟩

end Sys2Proof.Machine
end

section
namespace Sys2Proof.Machine
open Sys2Proof

/-! # A slot of a pipe: O49 -/

section
variable {s : State} {pipe c k i : Nat} {a : Active} {f : ChanCmd} {g : Seg} {x : Xlat}

/-! ## Choosing a channel -/

/-- A choice changes the turns of the channels, and of the security records the counts of the reservations. -/
structure Picked (s t : State) : Prop where
  frame : Frame [.mov, .sec] s t
  reserv : ∃ R, t.sec = { s.sec with reserv := R }

theorem Picked.of_mov {s t : State} (h : Frame [.mov] s t) : Picked s t := ⟨h.mono (by decide), _, h .sec (by decide)⟩

theorem Picked.refl (s : State) : Picked s s := .of_mov (Frame.refl _ s)

theorem Picked.trans {s t u : State} (h : Picked s t) (g : Picked t u) : Picked s u where
  frame := h.frame.andThen g.frame (fun _ => id)
  reserv := by
    obtain ⟨R, hR⟩ := h.reserv
    obtain ⟨Q, hQ⟩ := g.reserv
    exact ⟨Q, by rw [hQ, hR]⟩

theorem Picked.charged {s t : State} (h : Picked s t) : Charged s t :=
  ⟨h.frame.mono (by decide), fun q => congrArg (fun P => (tget P q).fence) (h.frame .pages (by decide)), h.reserv⟩

theorem picked_useShare (s : State) (res p used cut : Nat) : Picked s (useShare s res p used cut) where
  frame c hc := by cases c <;> first | exact absurd (by decide) hc | rfl
  reserv := ⟨_, rfl⟩

theorem picked_nextBelow (s : State) (pipe : Nat) (l : List Nat) : Picked s (nextBelow s pipe l).1 := by
  unfold nextBelow
  split
  · exact .refl s
  · split
    · exact .refl s
    · next p _ _ _ _ => exact .of_mov (((frame_mov_iff { s.mov with rrPart := tset s.mov.rrPart pipe ((p + 1) % 64) } (by decide)).mpr (Frame.refl [.mov] s)).andThen (tookChan_frame _ _ _ _) (fun _ => id))

theorem picked_pickReserved (s : State) (pipe : Nat) (l : List Nat) : Picked s (pickReserved s pipe l).1 := by
  have hnext := picked_nextBelow s pipe l
  unfold pickReserved
  split
  · exact .refl s
  · next t c h =>
    rw [h] at hnext
    dsimp only
    split
    · split
      · exact picked_useShare ..
      · exact hnext.trans (picked_useShare ..)
    · exact hnext.trans (picked_useShare ..)

theorem picked_pickWeighted (s : State) (l : List Nat) : Picked s (pickWeighted s l).1 := by
  unfold pickWeighted
  split
  · exact .of_mov (updChan_frame s _ _)
  · split
    · exact .refl s
    · next d r _ =>
      have hfold : Frame [.mov] s ((d :: r).foldl (fun u y => updChan u y (fun h => { h with credit := max 1 h.weight })) s) :=
        Frame.foldl _ _ _ _ (fun u y => updChan_frame u y _)
      exact .of_mov (hfold.andThen (updChan_frame _ _ _) (by decide))

theorem picked_pickChan (s : State) (pipe : Nat) : Picked s (pickChan s pipe).1 := by
  unfold pickChan
  dsimp only
  split
  · split
    · exact .of_mov (tookChan_frame _ _ _ _)
    · exact .refl s
  · split
    · exact .refl s
    · have hres := picked_pickReserved s pipe ((readyChans s pipe).filter (fun c => !isSealed s (chan s c).part))
      split
      · next h => rwa [h] at hres
      · next h =>
        rw [h] at hres
        exact hres.trans (picked_pickWeighted ..)

/-! ## A look-up rests on the buffers -/

/-- What a check of a buffered translation answers. -/
theorem pipeCheck_answer (s : State) (p sid va n : Nat) (acc : Access) (who : MoveFor) (e : TlbEntry) :
    (pipeCheck s p sid va n acc who e).2 =
      if e.epoch ≠ (tget s.lan.spaces sid).epoch ∨ e.epoch2 ≠ (tget s.lan.s2 (tget s.lan.spaces sid).part).epoch then .wait
      else if permits e.x acc then (if inLayoutRun s (tget s.lan.spaces sid).part va n (localX s e.x) then .ok (localX s e.x) else .fault 7 0 2)
      else if bitOf s.lan.cfg 0 then .wait else .fault 4 0 1 := by
  unfold pipeCheck
  dsimp only
  split
  · rfl
  · split
    · split <;> rfl
    · split <;> rfl

theorem pipeCheck_mov (s : State) (m : Mov) (p sid va n : Nat) (acc : Access) (who : MoveFor) (e : TlbEntry) :
    (pipeCheck { s with mov := m } p sid va n acc who e).2 = (pipeCheck s p sid va n acc who e).2 := by
  rw [pipeCheck_answer, pipeCheck_answer]
  rfl

theorem pfHit_mov (s : State) (m : Mov) (e : TlbEntry) : pfHit { s with mov := m } e = { pfHit s e with mov := m } := by
  rw [pfHit, pfHit]
  split <;> rfl

/-- What a look-up answers: the check of the translation that its buffer holds, or takes from the lantern. -/
theorem pipeLook_answer (s : State) (p sid va n : Nat) (acc : Access) (who : MoveFor) :
    (pipeLook s p sid va n acc who).2 = match tlbFind (pipeBuf s p) false sid va with
      | some e => (pipeCheck s p sid va n acc who e).2
      | none => match lanternFind s false sid va with
        | some e => (match tlbFind (tlbFill (pfHit (lanternTouch s e) e) (pipeBuf s p) e (fun _ => false)) false sid va with
          | some e' => (pipeCheck (pfHit (lanternTouch s e) e) p sid va n acc who e').2
          | none => .wait)
        | none => .wait := by
  cases h1 : tlbFind (pipeBuf s p) false sid va with
  | some e => simp only [pipeLook, h1]
  | none =>
    cases h2 : lanternFind s false sid va with
    | none => simp only [pipeLook, h1, h2]
    | some e =>
      have hmov : (pfHit (lanternTouch s e) e).mov = s.mov := pfHit_frame _ e .mov (by decide)
      have hbuf : pipeBuf (pipeFill (pfHit (lanternTouch s e) e) p e) p = tlbFill (pfHit (lanternTouch s e) e) (pipeBuf s p) e (fun _ => false) := by
        have hold : pipeBuf (pfHit (lanternTouch s e) e) p = pipeBuf s p := congrArg (fun m : Mov => tget m.buffers p) hmov
        rw [pipeFill, hold]
        exact tget_tset_self _ _ _
      have hcheck : ∀ e', (pipeCheck (pipeFill (pfHit (lanternTouch s e) e) p e) p sid va n acc who e').2 =
          (pipeCheck (pfHit (lanternTouch s e) e) p sid va n acc who e').2 := fun e' => pipeCheck_mov ..
      simp only [pipeLook, h1, h2, hbuf]
      cases tlbFind (tlbFill (pfHit (lanternTouch s e) e) (pipeBuf s p) e (fun _ => false)) false sid va with
      | none => rfl
      | some e' => exact hcheck e'

/-- The answer of a look-up rests on the buffers of the movers alone. -/
theorem pipeLook_mov (s : State) {m : Mov} (h : m.buffers = s.mov.buffers) (p sid va n : Nat) (acc : Access) (who : MoveFor) :
    (pipeLook { s with mov := m } p sid va n acc who).2 = (pipeLook s p sid va n acc who).2 := by
  have hbuf : pipeBuf { s with mov := m } p = pipeBuf s p := congrArg (fun b => tget b p) h
  have hfind : lanternFind { s with mov := m } false sid va = lanternFind s false sid va := rfl
  have htouch : ∀ e, lanternTouch { s with mov := m } e = { lanternTouch s e with mov := m } := fun _ => rfl
  have hfill : ∀ (t : State) l e, tlbFill { t with mov := m } l e (fun _ => false) = tlbFill t l e (fun _ => false) := fun _ _ _ => rfl
  rw [pipeLook_answer, pipeLook_answer, hbuf, hfind]
  simp only [htouch, pfHit_mov, hfill, pipeCheck_mov]

/-! ## A segment of one line -/

/-- What a segment is whose write is under way. -/
def segWrites (pipe tag : Nat) (q : Seg) : Seg := { q with st := .written, pipe := pipe, held := [], retry := [], out := [tag] }

/-- The state in which a segment of one line has sent its write. -/
def segSent (t : State) (c k i pipe tag p n : Nat) : State :=
  tenant (poisonOut (chanSettle (updSeg (countCv t {}) c k i (segWrites pipe tag)) c) p n) p 6 1

theorem convertSeg_raw {d : Desc} (h : dConv d = false) (prog : List Word) (g : Seg) (u : Nat → Nat → Nat) :
    convertSeg d prog g u = { elems := (convertSeg d prog g (fun _ _ => 0)).elems } := by
  simp only [convertSeg, h, Bool.not_false, if_true]

theorem lostLines_none {d : Desc} {g : Seg} (h : ∀ y, y ∈ g.reads → y.bad = false) : lostLines d g = ([], []) := by
  have hany : g.reads.any (fun l => l.bad) = false := by
    rw [List.any_eq_false]
    exact fun y hy => by simp [h y hy]
  rw [lostLines, hany]
  rfl

theorem packLines_nil (va w : Nat) : packLines va w [] = [] := by
  rw [packLines, show (List.length ([] : List (Nat × Bool))) * w / 8 = 0 by simp]
  rfl

theorem runSeg_line {t : State} {l : Nat} {e : DstLine} (hact : activeOf s c k = some (a, f)) (hg : a.segs[i]? = some g) (hreads : ∀ y, y ∈ g.reads → y.bad = false)
    (hxfm : f.xfm = false) (hconv : dConv a.desc = false) (hred : dRed a.desc = 0) (hstash : dStash a.desc = 0)
    (hlines : (rangeTouch (dstRange a.desc g)).dedup = [l])
    (hlook : pipeLook s pipe (ctxOf s f.ctx).space (l * 128) 1 .write (.dst c k i) = (t, .ok x))
    (hdata : packLines (dstRange a.desc g).1 (dWd a.desc) (convertSeg a.desc a.prog g (fun _ _ => 0)).elems = [e]) (he : e.1 = l) :
    runSeg s c k i pipe = routeReq (segSent t c k i pipe 1 f.part (chunks e.2.2.2)) (dstReq (countCv t {}) c k i 0 f a.desc false x e) x := by
  have hmx : dMxDst a.desc = false := by rw [dMxDst, hconv]; rfl
  have hlookAll : dstLook s c k i f pipe .write (lineBursts ([l].map (fun l => (0, l)))) = (t, some [(l, x)]) := by
    show dstLook s c k i f pipe .write [[(0, l)]] = _
    rw [dstLook]
    dsimp only [List.headD_cons, List.length_cons, List.length_nil]
    rw [hlook]
    rfl
  have hraw := convertSeg_raw hconv a.prog g
  generalize (convertSeg a.desc a.prog g (fun _ _ => 0)).elems = es at hraw hdata
  simp only [runSeg, hact, hg, hred, hmx, ne_eq, not_true_eq_false, if_false, Bool.false_eq_true, List.append_nil, hlines, hlookAll, hxfm, Bool.false_and,
    lostLines_none hreads, hstash, hraw, hdata, packLines_nil]
  have hkept : ([e].filter (fun y => !([] : List Nat).contains y.1)) = [e] := rfl
  have hscales : (([] : List DstLine).filter (fun y => !([] : List Nat).contains y.1)) = [] := rfl
  have hfind : ([(l, x)].find? (fun y => y.1 == e.1)) = some (l, x) := by simp [he]
  have hone : List.range 1 = [0] := rfl
  have hpartial : ([e].filter (fun y => 0 != 0 && y.2.2.1 != BitVec.allOnes 128)) = [] := rfl
  simp only [hkept, hscales, hpartial, List.map_cons, List.map_nil, List.append_nil, List.length_cons, List.length_nil, Nat.zero_add, hone, List.filterMap_cons, List.filterMap_nil,
    List.getD_cons_zero, hfind, Option.map_some, List.foldl_cons, List.foldl_nil]
  rfl

/-- The movers' count of poison that left them. -/
def poisonNoted (s : State) (p n : Nat) : State := count { s with mov := { s.mov with poisonOut := satAdd 32 s.mov.poisonOut n } } pMOV 3 p 0xFFF n

theorem poisonNoted_frame (s : State) (p n : Nat) : Frame [.mov, .cnt] s (poisonNoted s p n) :=
  (((frame_mov_iff { s.mov with poisonOut := satAdd 32 s.mov.poisonOut n } (by decide)).mpr (Frame.refl [.mov] s)).mono (by decide)).andThen (count_frame _ _ _ _ _ _) (by decide)

theorem chan_poisonNoted (s : State) (p n ch : Nat) : chan (poisonNoted s p n) ch = chan s ch := by
  rw [chan, poisonNoted, count_frame _ _ _ _ _ _ .mov (by decide)]
  rfl

theorem poisonOut_cases (s : State) (p n : Nat) : poisonOut s p n = s ∨ poisonOut s p n = poisonNoted s p n ∨ poisonOut s p n = raise (poisonNoted s p n) pMOV 3 := by
  unfold poisonOut
  split
  · exact .inl rfl
  · dsimp only
    split
    · exact .inr (.inr rfl)
    · exact .inr (.inl rfl)

theorem charged_raise (s : State) (p b : Nat) : Charged s (raise s p b) :=
  ⟨(raise_hostFrame s p b).mono (by decide), fences_raise (fun _ => rfl) _ _, ⟨_, raise_hostFrame s p b .sec (by decide)⟩⟩

theorem charged_poisonOut (s : State) (p n : Nat) : Charged s (poisonOut s p n) := by
  have hnoted : Charged s (poisonNoted s p n) := .of_frame (poisonNoted_frame s p n) (by decide)
  rcases poisonOut_cases s p n with h | h | h <;> rw [h]
  · exact .refl s
  · exact hnoted
  · exact hnoted.trans (charged_raise _ _ _)

theorem chan_poisonOut (s : State) (p n ch : Nat) : chan (poisonOut s p n) ch = chan s ch := by
  rcases poisonOut_cases s p n with h | h | h <;> rw [h]
  · exact chan_poisonNoted ..
  · exact (congrArg (fun m : Mov => tget m.chans ch) (raise_hostFrame _ pMOV 3 .mov (by decide))).trans (chan_poisonNoted ..)

/-- A segment of a plain move counts no conversions. -/
theorem countCv_none_frame (s : State) : Frame [.xfm] s (countCv s {}) := by
  unfold countCv
  split
  · exact (Frame.refl [] s).mono (by decide)
  · simp only [ne_eq, not_true_eq_false, and_false, if_true, if_false]
    exact (frame_xfm_iff _ (by decide)).mpr (Frame.refl _ s)

theorem charged_segSent (t : State) (c k i pipe tag p n : Nat) : Charged t (segSent t c k i pipe tag p n) :=
  (((Charged.of_frame (countCv_none_frame t) (by decide)).trans (.of_frame (updChan_frame _ _ _) (by decide))).trans (.of_frame (chanSettle_frame _ c) (by decide))).trans
    ((charged_poisonOut _ p n).trans (.of_frame (tenant_frame _ _ _ _) (by decide)))

theorem settledActive_seg_kept {h : Chan} {a : Active} {i : Nat} {g : Seg} (hg : a.segs[i]? = some g) :
    ∃ r, (settledActive h a).segs[i]? = some r ∧ r.st = g.st ∧ r.out = g.out := by
  unfold settledActive
  split
  · exact ⟨g, hg, rfl, rfl⟩
  · refine ⟨segUnparked g, ?_, rfl, rfl⟩
    show (a.segs.map segUnparked)[i]? = _
    rw [List.getElem?_map, hg, Option.map_some]

/-- A segment that sent its write waits for one answer. -/
theorem activeOf_segSent {t : State} (h : activeOf t c k = some (a, f)) (hg : a.segs[i]? = some g) (pipe tag p n : Nat) :
    ∃ A G, activeOf (segSent t c k i pipe tag p n) c k = some (A, f) ∧ A.segs[i]? = some G ∧ G.st = .written ∧ G.out = [tag] := by
  have hcv : activeOf (countCv t {}) c k = some (a, f) := by
    rw [activeOf_congr (congrArg (fun m : Mov => tget m.chans c) (countCv_none_frame t .mov (by decide))), h]
  have hsettle := activeOf_chanSettle (activeOf_updSeg hcv i (segWrites pipe tag))
  obtain ⟨G, hG, hst, hout⟩ := settledActive_seg_kept (h := pausesLive (chan (updSeg (countCv t {}) c k i (segWrites pipe tag)) c))
    (a := { a with segs := lmod a.segs i (segWrites pipe tag) }) (i := i) (g := segWrites pipe tag g) (by
      show (lmod a.segs i _)[i]? = _
      rw [getElem?_lmod_self, hg]
      rfl)
  refine ⟨_, G, ?_, hG, hst, hout⟩
  rw [segSent, activeOf_congr (s := chanSettle (updSeg (countCv t {}) c k i (segWrites pipe tag)) c) ?_, hsettle]
  exact (congrArg (fun m : Mov => tget m.chans c) (tenant_frame _ _ _ _ .mov (by decide))).trans (chan_poisonOut ..)

/-! ## The write and its answer -/

/-- A write of a mover at a quiet home is answered in the same step. -/
theorem place_write_mover {q : HomeReq} {p tag : Nat} (hq : HomeQuiet s q p) (hd : dirOf s q.line = {}) (hop : q.op = .wrFull ∨ q.op = .wrPart)
    (ho : q.origin = .mover c k i) (htag : q.tag = tag) (hodd : tag % 2 = 1) :
    chan (place s q) c = chan (segWriteDone s c k i tag .ok) c := by
  have hdone : ∀ x d pois, OpenFor s x q → chan (leftPlace (wroteFree x q d pois) q) c = chan (segWriteDone s c k i tag .ok) c := by
    intro x d pois hx
    have hans : deliverAll (lineWritten x q d pois) [ansOf q .comp .ok 0 0] = segWriteDone (lineWritten x q d pois) c k i tag .ok := by
      show deliver (lineWritten x q d pois) true (ansOf q .comp .ok 0 0) = _
      have hao : (ansOf q .comp .ok 0 0).origin = .mover c k i := ho
      have hat : (ansOf q .comp .ok 0 0).tag = tag := htag
      rw [deliver, hao]
      dsimp only
      rw [hat, if_neg (by omega)]
      rfl
    have hmov : (lineWritten x q d pois).mov = s.mov := (lineWritten_all x q d pois .mov (by decide)).trans (hx.frame .mov (by decide))
    rw [chan, leftPlace_frame _ q .mov (by decide)]
    show chan (deliverAll (lineWritten x q d pois) [ansOf q .comp .ok 0 0]) c = _
    rw [hans, segWriteDone, segWriteDone, chan_updActive, chan_updActive, show chan (lineWritten x q d pois) c = chan s c from congrArg (fun m : Mov => tget m.chans c) hmov]
  obtain ⟨hfull, hpart⟩ := place_write hq hd
  rcases hop with hop | hop
  · obtain ⟨x, hx, heq⟩ := hfull hop
    rw [heq]
    exact hdone x _ _ hx
  · obtain ⟨x, hx, heq⟩ := hpart hop
    rw [heq]
    exact hdone x _ _ hx

theorem activeOf_segWriteDone {G : Seg} {tag : Nat} (h : activeOf s c k = some (a, f)) (hg : a.segs[i]? = some G) :
    ∃ A, activeOf (segWriteDone s c k i tag .ok) c k = some (A, f) ∧ A.segs[i]? = some { G with out := G.out.erase tag } := by
  refine ⟨_, activeOf_updActive h (fun b => ⟨rfl, rfl⟩), ?_⟩
  show (lmod a.segs i _)[i]? = _
  rw [getElem?_lmod_self, hg]
  rfl

theorem mergeLine_full (old new : LineData) : mergeLine old new (BitVec.allOnes 128) = new := by
  have hbytes : (List.range 128).map (fun i => if (BitVec.allOnes 128).getLsbD i then lineByte new i else lineByte old i) = lineBytes new := by
    refine List.map_congr_left (fun i hi => ?_)
    rw [if_pos]
    rw [BitVec.getLsbD_allOnes]
    simpa using List.mem_range.mp hi
  rw [mergeLine, hbytes, lineOf_lineBytes]

/-- The write of a plain segment leaves its line with the bytes that it enables. -/
theorem lineStored_dst {q : HomeReq} {p : Nat} (hq : HomeQuiet s q p) (hd : dirOf s q.line = {})
    (hop : q.op = if q.mask == BitVec.allOnes 128 then .wrFull else .wrPart) :
    rdLine (place s q) q.line = mergeLine (rdLine s q.line) q.data q.mask ∧ (∀ b, b / 128 ≠ q.line → memByte (place s q) b = memByte s b) := by
  by_cases hfull : q.mask = BitVec.allOnes 128
  · rw [if_pos (beq_iff_eq.mpr hfull)] at hop
    obtain ⟨hline, -, hother⟩ := (place_wrFull hq hd hop).stored
    rw [hfull, mergeLine_full]
    exact ⟨hline, hother⟩
  · rw [if_neg (by simpa using hfull)] at hop
    obtain ⟨hline, -, hother⟩ := (place_wrPart hq hd hop).stored
    exact ⟨hline, hother⟩

/-! ## The slot -/

/-- The state in which the channel that runs has been noted as served. -/
def chanServed (s : State) (pipe c : Nat) : State :=
  let t := match readyCtx (chan s c) with
    | some x => noteServed s x
    | none => s
  { t with mov := { t.mov with rr := tset t.mov.rr pipe ((c + 1) % 64) } }

theorem chanServed_mov (s : State) (pipe c : Nat) : ∃ m : Mov, chanServed s pipe c = { s with mov := m } ∧ m.buffers = s.mov.buffers ∧ m.chans = s.mov.chans := by
  unfold chanServed
  split
  · rw [noteServed]
    split <;> exact ⟨_, rfl, rfl, rfl⟩
  · exact ⟨_, rfl, rfl, rfl⟩

theorem pipeSlot_runs {s1 : State} (hpipe : ¬ (8 ≤ pipe ∨ cellFenced s (40 + pipe) ∨ fenced s pMOV)) (hidle : tget s.mov.busy pipe = 0) (hpick : pickChan s pipe = (s1, some c))
    (hready : readySeg (chan s1 c) = some (k, i)) :
    pipeSlot s pipe = nextSlot (pipeTakes (runSeg (chanServed s1 pipe c) c k i pipe) pipe c k i) pipe := by
  rw [pipeSlot, if_neg hpipe, if_neg (by simp [hidle])]
  simp only [hpick, hready]
  rfl

theorem nextSlot_chans (s : State) (pipe : Nat) : Frame [.mov] s (nextSlot s pipe) ∧ (nextSlot s pipe).mov.chans = s.mov.chans :=
  ⟨(frame_mov_iff _ (by decide)).mpr (Frame.refl _ s), rfl⟩

theorem pipeTakes_chans (s : State) (pipe ch k i : Nat) : Frame [.mov] s (pipeTakes s pipe ch k i) ∧ (pipeTakes s pipe ch k i).mov.chans = s.mov.chans := by
  unfold pipeTakes
  split
  · exact ⟨Frame.refl _ s, rfl⟩
  · split
    · exact ⟨Frame.refl _ s, rfl⟩
    · split
      · exact ⟨(frame_mov_iff _ (by decide)).mpr (Frame.refl _ s), rfl⟩
      · exact ⟨Frame.refl _ s, rfl⟩

theorem pipeSlot_line {s1 : State} {port l : Nat} {e : DstLine} (hlive : live s = true) (hpipe : ¬ (8 ≤ pipe ∨ cellFenced s (40 + pipe) ∨ fenced s pMOV))
    (hidle : tget s.mov.busy pipe = 0) (hreads : ∀ y, y ∈ g.reads → y.bad = false) (hpick : pickChan s pipe = (s1, some c))
    (hready : readySeg (chan s1 c) = some (k, i)) (hact : activeOf s1 c k = some (a, f)) (hg : a.segs[i]? = some g) (hxfm : f.xfm = false)
    (hconv : dConv a.desc = false) (hred : dRed a.desc = 0) (hstash : dStash a.desc = 0) (hlines : (rangeTouch (dstRange a.desc g)).dedup = [l])
    (hlook : (pipeLook s1 pipe (ctxOf s f.ctx).space (l * 128) 1 .write (.dst c k i)).2 = .ok x) (hglob : x.glob = false) (hattr : x.attr = 0)
    (hdata : packLines (dstRange a.desc g).1 (dWd a.desc) (convertSeg a.desc a.prog g (fun _ _ => 0)).elems = [e]) (he : e.1 = l)
    (hquiet : HomeQuiet s (dstReq s c k i 0 f a.desc false x e) port) (hdir : dirOf s (dstReq s c k i 0 f a.desc false x e).line = {}) :
    Ends (.pipeSlot pipe) s (fun t =>
      let n := (dstReq s c k i 0 f a.desc false x e).line
      rdLine t n = mergeLine (rdLine s n) e.2.1 e.2.2.1 ∧ (∀ b, b / 128 ≠ n → memByte t b = memByte s b) ∧
      (∃ A F, activeOf t c k = some (A, F) ∧ ∃ G, A.segs[i]? = some G ∧ G.st = .written ∧ G.out = [])) := by
  have hs1 : Picked s s1 := by
    have h := picked_pickChan s pipe
    rwa [hpick] at h
  obtain ⟨m, hm, hbuf, hchans⟩ := chanServed_mov s1 pipe c
  generalize htaken : chanServed s1 pipe c = s2 at hm
  have hs2f : Frame [.mov] s1 s2 := by rw [hm]; exact (frame_mov_iff _ (by decide)).mpr (Frame.refl _ s1)
  have hs2 : Charged s s2 := hs1.charged.trans (.of_frame hs2f (by decide))
  have hctx : ctxOf s2 f.ctx = ctxOf s f.ctx := by
    have hlmp : s2.lmp = s.lmp := (hs2f .lmp (by decide)).trans (hs1.frame .lmp (by decide))
    have hcas : s2.cas = s.cas := (hs2f .cas (by decide)).trans (hs1.frame .cas (by decide))
    rw [ctxOf, ctxOf, ctxIdx, ctxIdx, hlmp, hcas]
  have hanswer : (pipeLook s2 pipe (ctxOf s2 f.ctx).space (l * 128) 1 .write (.dst c k i)).2 = .ok x := by
    rw [hctx, hm, pipeLook_mov s1 hbuf]
    exact hlook
  obtain ⟨t, ht⟩ : ∃ t, pipeLook s2 pipe (ctxOf s2 f.ctx).space (l * 128) 1 .write (.dst c k i) = (t, .ok x) := ⟨_, Prod.ext rfl hanswer⟩
  have hlooked : Frame [.cnt, .lan, .eng, .mov] s2 t := by
    have hf := pipeLook_frame s2 pipe (ctxOf s2 f.ctx).space (l * 128) 1 .write (.dst c k i)
    rwa [ht] at hf
  have hbufs : BuffersOnly s2 t := by
    have hb := pipeLook_buffers s2 pipe (ctxOf s2 f.ctx).space (l * 128) 1 .write (.dst c k i)
    rwa [ht] at hb
  have hact2 : activeOf s2 c k = some (a, f) := by rw [activeOf_congr (show chan s2 c = chan s1 c by rw [hm]; exact congrArg (fun z => tget z c) hchans), hact]
  have hactT : activeOf t c k = some (a, f) := by rw [activeOf_congr (hbufs.chan c), hact2]
  have hrun := runSeg_line hact2 hg hreads hxfm hconv hred hstash hlines ht hdata he
  have hcvf : Frame [.cnt, .lan, .eng, .mov, .xfm] s2 (countCv t {}) := (hlooked.mono (by decide)).andThen (countCv_none_frame t) (by decide)
  have hreq : dstReq (countCv t {}) c k i 0 f a.desc false x e = dstReq s c k i 0 f a.desc false x e := by
    have hch : Charged s (countCv t {}) := hs2.trans (.of_frame hcvf (by decide))
    obtain ⟨R, hR⟩ := hch.eq
    rw [hR]
    rfl
  rw [hreq] at hrun
  generalize hr : dstReq s c k i 0 f a.desc false x e = r at hquiet hdir hrun ⊢
  have hop : r.op = if r.mask == BitVec.allOnes 128 then .wrFull else .wrPart := by
    rw [← hr]
    simp only [dstReq, hred, hattr, hstash, ne_eq, not_true_eq_false, false_and, if_false, attrOp, if_true]
  have hopCases : r.op = .wrFull ∨ r.op = .wrPart := by
    rw [hop]
    split
    · exact .inl rfl
    · exact .inr rfl
  have ho : r.origin = .mover c k i := by rw [← hr]; rfl
  have htag : r.tag = 1 := by rw [← hr]; rfl
  rw [routeReq_here _ hglob (fun z => by rcases hopCases with h | h <;> rw [h] <;> simp)] at hrun
  have hsent : Charged s (segSent t c k i pipe 1 f.part (chunks e.2.2.2)) := (hs2.trans (.of_frame hlooked (by decide))).trans (charged_segSent ..)
  obtain ⟨A, G, hA, hG, hst, hout⟩ := activeOf_segSent hactT hg pipe 1 f.part (chunks e.2.2.2)
  generalize segSent t c k i pipe 1 f.part (chunks e.2.2.2) = v at hrun hsent hA
  have hquietV := hsent.homeQuiet hquiet
  have hdirV : dirOf v r.line = {} := by rw [← hdir, dirOf, dirOf, show v.hom = s.hom from hsent.frame .hom (by decide)]
  obtain ⟨hline, hother⟩ := lineStored_dst hquietV hdirV hop
  obtain ⟨B, hB, hBG⟩ := activeOf_segWriteDone (tag := 1) hA hG
  rw [← activeOf_congr (place_write_mover hquietV hdirV hopCases ho htag (by decide))] at hB
  obtain ⟨htakes, htakesChans⟩ := pipeTakes_chans (place v r) pipe c k i
  obtain ⟨hnext, hnextChans⟩ := nextSlot_chans (pipeTakes (place v r) pipe c k i) pipe
  have hexec : exec (.pipeSlot pipe) s = .next (nextSlot (pipeTakes (place v r) pipe c k i) pipe) := by
    show Host.Outcome.next (if live s then pipeSlot s pipe else s) = _
    rw [if_pos hlive, pipeSlot_runs hpipe hidle hpick hready, htaken, hrun]
  have hfin := htakes.andThen hnext (fun _ => id)
  refine ends_of_exec hexec ⟨?_, fun b hb => ?_, B, f, ?_, _, hBG, hst, ?_⟩
  · rw [(rdLine_of_aside hfin (by decide) _).1, hline, (hsent.rdLine _).1, ← hr]
    rfl
  · rw [memByte, hfin .mem (by decide)]
    exact (hother b hb).trans (congrArg (fun z => tget z b) (hsent.frame .mem (by decide)))
  · rw [activeOf_congr (congrArg (fun z => tget z c) (hnextChans.trans htakesChans)), hB]
  · show G.out.erase 1 = []
    rw [hout]
    rfl

theorem slotOfPipe : Claim.PipeSlots := by
  intro s s1 pipe hlive hlt hcell hfence
  have hpipe : ¬ (8 ≤ pipe ∨ cellFenced s (40 + pipe) ∨ fenced s pMOV) := by simp [hcell, hfence, hlt]
  have hexec : exec (.pipeSlot pipe) s = .next (pipeSlot s pipe) := by
    show Host.Outcome.next (if live s then pipeSlot s pipe else s) = _
    rw [if_pos hlive]
  refine ⟨fun hbusy => ?_, fun hidle hpick => ?_, fun c k i a f g x port l e hidle hreads hpick hready hact hg hxfm hconv hred hstash hlines hlook hglob hattr hdata he hquiet hdir =>
    pipeSlot_line hlive hpipe hidle hreads hpick hready hact hg hxfm hconv hred hstash hlines hlook hglob hattr hdata he hquiet hdir⟩
  · rw [pipeSlot, if_neg hpipe, if_pos hbusy] at hexec
    exact ends_of_exec hexec ⟨tget_tset_self _ _ _, tget_tset_self _ _ _, rfl, ((frame_mov_iff { s.mov with busy := tset s.mov.busy pipe (tget s.mov.busy pipe - 1) } (by decide)).mpr (Frame.refl _ s)).andThen (nextSlot_chans _ pipe).1 (fun _ => id)⟩
  · have hpicked := picked_pickChan s pipe
    rw [hpick] at hpicked
    rw [pipeSlot, if_neg hpipe, if_neg (by simp [hidle])] at hexec
    simp only [hpick] at hexec
    exact ends_of_exec hexec ⟨tget_tset_self _ _ _, rfl, hpicked.frame .mem (by decide)⟩

end

/-- Settles O49. -/
theorem movesEnd : Obligations.MovesEnd := ⟨slotOfPipe, moverEnds, moverRegisters⟩

end Sys2Proof.Machine
end

section
namespace Sys2Proof.Machine
open Sys2Proof

/-! # What a look-up of a translation leaves (R127 to R157)

A look-up fills caches, counts, and raises interrupts. The fences and enables of the pages stay, and of the Lamplighter of translations everything
but its caches, their counts, and the sizes that a space was seen to use.
-/

/-- The records of translation without the caches. -/
def lanBare (l : Lan) : Lan := { l with lantern := [], upper := [], runFallback := 0, missTotal := 0, spaces := [] }

/-- A space without the sizes that it was seen to use. -/
def spaceBare (x : Space) : Space := { x with sizes := 0 }

structure LookKept (s t : State) : Prop where
  fence : ∀ q, (page t q).fence = (page s q).fence
  enable : ∀ q, (page t q).enable = (page s q).enable
  lan : lanBare t.lan = lanBare s.lan
  space : ∀ k, spaceBare (tget t.lan.spaces k) = spaceBare (tget s.lan.spaces k)

section
variable {s t : State}

theorem LookKept.refl (s : State) : LookKept s s := ⟨fun _ => rfl, fun _ => rfl, rfl, fun _ => rfl⟩

theorem LookKept.into {u : State} (g : LookKept t u) (h : LookKept s t) : LookKept s u :=
  ⟨fun q => (g.fence q).trans (h.fence q), fun q => (g.enable q).trans (h.enable q), g.lan.trans h.lan, fun k => (g.space k).trans (h.space k)⟩

theorem LookKept.fst {α : Type} {x : State × α} {r : α} (h : LookKept s x.1) (e : x = (t, r)) : LookKept s t := by cases e; exact h

theorem LookKept.ite_fst {α : Type} {c : Prop} [Decidable c] {x y : State × α} (hx : LookKept s x.1) (hy : LookKept s y.1) : LookKept s (if c then x else y).1 := by
  split
  · exact hx
  · exact hy

theorem count_look (s : State) (p e : Nat) (part inst n : Nat) : LookKept s (count s p e part inst n) := by
  have hf := count_frame s p e part inst n
  have hp : (count s p e part inst n).pages = s.pages := hf .pages (by decide)
  have hl : (count s p e part inst n).lan = s.lan := hf .lan (by decide)
  exact ⟨fun q => by rw [page, page, hp], fun q => by rw [page, page, hp], by rw [hl], fun k => by rw [hl]⟩

theorem raise_look (s : State) (p b : Nat) : LookKept s (raise s p b) := by
  have hl : (raise s p b).lan = s.lan := raise_hostFrame s p b .lan (by decide)
  have hpage : ∀ q, (page (raise s p b) q).fence = (page s q).fence ∧ (page (raise s p b) q).enable = (page s q).enable := by
    intro q
    by_cases hq : q = p
    · subst hq
      have h : page (raise s q b) q = { withIrqRaw b (page s q) with irqHeld := (page (raise s q b) q).irqHeld } := page_raise_self s q b
      rw [h]
      exact ⟨rfl, rfl⟩
    · rw [page_raise_ne s p b hq]
      exact ⟨rfl, rfl⟩
  exact ⟨fun q => (hpage q).1, fun q => (hpage q).2, by rw [hl], fun k => by rw [hl]⟩

theorem lanternFill_look (s : State) (e : TlbEntry) : LookKept s (lanternFill s e) := by
  unfold lanternFill
  dsimp only
  split
  · exact .refl s
  · exact ⟨fun _ => rfl, fun _ => rfl, rfl, fun _ => rfl⟩

theorem lanternTouch_look (s : State) (e : TlbEntry) : LookKept s (lanternTouch s e) := ⟨fun _ => rfl, fun _ => rfl, rfl, fun _ => rfl⟩

theorem upTouch_look (s : State) (u : UpEntry) : LookKept s (upTouch s u) := ⟨fun _ => rfl, fun _ => rfl, rfl, fun _ => rfl⟩

theorem runFell_look (s : State) : LookKept s (runFell s) := by
  have hcount : LookKept s (count { s with lan := { s.lan with runFallback := satAdd 32 s.lan.runFallback 1 } } pLAN 1) :=
    (count_look _ _ _ _ _ _).into ⟨fun _ => rfl, fun _ => rfl, rfl, fun _ => rfl⟩
  unfold runFell
  dsimp only
  split
  · exact (raise_look _ _ _).into hcount
  · exact hcount

theorem s2Levels_look (s : State) (k p gpa n lvl tbl) : LookKept s (s2Levels s k p gpa n lvl tbl).1 := by
  induction n generalizing s lvl tbl with
  | zero => exact .refl s
  | succ n ih =>
    unfold s2Levels
    dsimp only
    repeat' with_reducible first | exact LookKept.refl _ | apply LookKept.ite_fst | apply LookKept.into (ih ..) | apply LookKept.into (upTouch_look ..) | apply LookKept.into (lanternFill_look ..) | apply LookKept.into (runFell_look ..) | split | dsimp only

theorem s2Translate_look (s : State) (k p gpa) : LookKept s (s2Translate s k p gpa).1 := by
  unfold s2Translate
  repeat' with_reducible first | exact LookKept.refl _ | apply LookKept.into (s2Levels_look ..) | exact lanternTouch_look _ _ | exact upTouch_look _ _ | split | dsimp only

theorem s1Read_look (s : State) (k p gpa) : LookKept s (s1Read s k p gpa).1 := by
  have h := s2Translate_look s k p gpa
  unfold s1Read
  repeat' with_reducible first | exact LookKept.refl _ | exact LookKept.fst h (by assumption) | split | dsimp only

theorem walkLeaf_look (s : State) (k p va acc lvl x1) : LookKept s (walkLeaf s k p va acc lvl x1).1 := by
  have h := s2Translate_look s k p (x1.out + va % pageBytes x1.size)
  unfold walkLeaf
  repeat' with_reducible first | exact LookKept.refl _ | exact LookKept.fst h (by assumption) | split | dsimp only

theorem s1Levels_look (s : State) (k sid p va acc n lvl tbl) : LookKept s (s1Levels s k sid p va acc n lvl tbl).1 := by
  induction n generalizing s lvl tbl with
  | zero => exact .refl s
  | succ n ih =>
    unfold s1Levels
    dsimp only
    repeat' with_reducible first | exact LookKept.refl _ | apply LookKept.into (ih ..) | apply LookKept.into (upTouch_look ..) | apply LookKept.into (walkLeaf_look ..) | apply LookKept.into (runFell_look ..) | refine LookKept.fst (s1Read_look ..) (by assumption) | refine LookKept.into (LookKept.fst (s1Read_look ..) (by assumption)) ?_ | split | dsimp only

theorem walkFrom_look (s : State) (k sid va acc) : LookKept s (walkFrom s k sid va acc).1 := by
  unfold walkFrom
  repeat' with_reducible first | exact LookKept.refl _ | apply LookKept.into (s1Levels_look ..) | exact upTouch_look _ _ | split | dsimp only

theorem walk_look (s : State) (k sid va acc) : LookKept s (walk s k sid va acc).1 := by
  have h := walkFrom_look s k sid va acc
  unfold walk
  split
  · next e =>
    rw [e] at h
    dsimp only
    split
    · exact (raise_look _ _ _).into h
    · exact h
  · exact h

theorem installX_look (s : State) (sid : Nat) (e : TlbEntry) : LookKept s (installX s sid e) := by
  have hfill := lanternFill_look s e
  refine LookKept.into (t := lanternFill s e) ⟨fun _ => rfl, fun _ => rfl, rfl, fun k => ?_⟩ hfill
  show spaceBare (tget (tupd (lanternFill s e).lan.spaces sid (fun q => { q with sizes := q.sizes ||| (1 <<< e.x.size) })) k) = _
  rw [tupd, tget_tset]
  split
  · next hk => rw [hk]; rfl
  · rfl

/-- A walk of a look-up, with what it installs. -/
def walkInstalled (s : State) (sid va : Nat) (acc : Access) : State × WalkRes :=
  match walk s (some kLamp) sid va acc with
  | (t, .ok x) =>
    let sp := tget t.lan.spaces sid
    (installX t sid (walkEntry t sid va x sp.epoch (tget t.lan.s2 sp.part).epoch false), .ok x)
  | r => r

theorem walkInstalled_look (s : State) (sid va : Nat) (acc : Access) : LookKept s (walkInstalled s sid va acc).1 := by
  have hw := walk_look s (some kLamp) sid va acc
  unfold walkInstalled
  split
  · next e =>
    rw [e] at hw
    exact (installX_look _ _ _).into hw
  · exact hw

theorem spaceLookup_look (s : State) (sid va acc) : LookKept s (spaceLookup s sid va acc).1 := by
  unfold spaceLookup
  dsimp only
  split
  · split
    · exact lanternTouch_look _ _
    · split
      · exact (walkInstalled_look _ _ _ _).into ⟨fun _ => rfl, fun _ => rfl, rfl, fun _ => rfl⟩
      · exact .refl s
  · exact (walkInstalled_look _ _ _ _).into ((count_look _ _ _ _ _ _).into ⟨fun _ => rfl, fun _ => rfl, rfl, fun _ => rfl⟩)

theorem ownLook_look (s : State) (sid p va acc) : LookKept s (ownLook s sid p va acc).1 := by
  have h := spaceLookup_look s sid va acc
  unfold ownLook
  repeat' with_reducible first | exact LookKept.refl _ | exact LookKept.fst h (by assumption) | split | dsimp only

end
end Sys2Proof.Machine
end

section
namespace Sys2Proof.Machine
open Sys2Proof

/-! # Commands from their fetch to their retirement: O44 -/

section
variable {s u : State} {q n : Nat} {c : Cmd}

/-! ## The look-up of the Lamplighter -/

theorem LookKept.charged (h : LookKept s u) (hf : Frame [.pages, .cnt, .lan, .hst, .out] s u) : Charged s u :=
  ⟨hf.mono (by decide), h.fence, ⟨s.sec.reserv, hf .sec (by decide)⟩⟩

theorem charged_ownLook {sid p va : Nat} {acc : Access} {r : VaRes} (h : ownLook s sid p va acc = (u, r)) : Charged s u := by
  have hl := ownLook_look s sid p va acc
  have hf := ownLook_frame s sid p va acc
  rw [h] at hl hf
  exact hl.charged hf

theorem Charged.rdWords (h : Charged s u) (a n : Nat) : rdWords u a n = Machine.rdWords s a n := by
  obtain ⟨R, hR⟩ := h.eq
  rw [hR]
  rfl

theorem Charged.bytesPois (h : Charged s u) (a n : Nat) : bytesPois u a n = Machine.bytesPois s a n := by
  obtain ⟨R, hR⟩ := h.eq
  rw [hR]
  rfl

/-! ## Pins -/

/-- The commands and queues of the Lamplighter stay. -/
def QueuesKept (s t : State) : Prop := t.lmp.cmds = s.lmp.cmds ∧ t.lmp.queues = s.lmp.queues

theorem QueuesKept.of_lmp (h : u.lmp = s.lmp) : QueuesKept s u := by rw [QueuesKept, h]; exact ⟨rfl, rfl⟩

theorem QueuesKept.trans {t : State} (h : QueuesKept s t) (g : QueuesKept t u) : QueuesKept s u := ⟨g.1.trans h.1, g.2.trans h.2⟩

theorem queuesKept_refCount (s : State) (p : Nat) (st : Status) : QueuesKept s (refCount s p st) := by
  unfold refCount
  split
  · exact ⟨rfl, rfl⟩
  · have hl : (count { s with lmp := { s.lmp with refRefused := satAdd 32 s.lmp.refRefused 1 } } pLMP 2 p).lmp = _ := count_frame _ _ _ _ _ _ .lmp (by decide)
    rw [QueuesKept, hl]
    exact ⟨rfl, rfl⟩

theorem takePins_queues (s : State) (p : Nat) (l : List Nat) : QueuesKept s (takePins s p l).1 ∧ (takePins s p l).2.length = l.length := by
  induction l generalizing s with
  | nil => exact ⟨⟨rfl, rfl⟩, rfl⟩
  | cons i l ih =>
    obtain ⟨hkept, hlen⟩ := ih (refCount (objOp s p i true).1 p (objOp s p i true).2.1)
    have hobj : QueuesKept s (objOp s p i true).1 := .of_lmp (objOp_frame s p i true .lmp (by decide))
    exact ⟨(hobj.trans (queuesKept_refCount _ _ _)).trans hkept, congrArg (· + 1) hlen⟩

/-! ## The fetch -/

theorem cmdCheck_of_look (h : LookKept s u) (hf : Frame [.pages, .cnt, .lan, .hst, .out, .hom, .lmp] s u) (priv : Bool) (c : Cmd) :
    cmdCheck u priv c = cmdCheck s priv c := by
  have hbuild : u.build = s.build := hf .build (by decide)
  have hfuses : u.fuses = s.fuses := hf .fuses (by decide)
  have hmov : u.mov = s.mov := hf .mov (by decide)
  have hparts : u.parts = s.parts := hf .parts (by decide)
  have hpres : present u = present s := by funext p; simp only [present, hbuild]
  have hfence : fenced u = fenced s := by
    funext p
    show (fusedOff u p || (page u p).fence) = (fusedOff s p || (page s p).fence)
    rw [h.fence, fusedOff, fusedOff, hfuses]
  have hen : enabled u = enabled s := by
    funext p
    show (if _ then (page u p).enable else true) = (if _ then (page s p).enable else true)
    rw [h.enable]
  have hspace : ∀ k, (tget u.lan.spaces k).part = (tget s.lan.spaces k).part := fun k =>
    show (spaceBare (tget u.lan.spaces k)).part = (spaceBare (tget s.lan.spaces k)).part from congrArg Space.part (h.space k)
  have hpart : part u = part s := by funext p; rw [part, part, hparts]
  have hwd : wdRefused u c = wdRefused s c := by simp only [wdRefused, hspace]
  have hop : opRefused u c = opRefused s c := by rw [opRefused, opRefused, hmov, hpart, hwd]
  rw [cmdCheck, cmdCheck, hpres, hfence, hen, hop]

theorem ownDone_look (s : State) (k : Nat) : LookKept s (ownDone s k) := ⟨fun _ => rfl, fun _ => rfl, rfl, fun _ => rfl⟩

theorem updQ_look (s : State) (q : Nat) (f : Queue → Queue) : LookKept s (updQ s q f) := ⟨fun _ => rfl, fun _ => rfl, rfl, fun _ => rfl⟩

/-- The command that enters from a queue. -/
def entering (s : State) (q : Nat) (ws : List Word) : Cmd :=
  { q := q, seq := (queue s q).head, ctx := (queue s q).ctx, part := (ctxOf s (queue s q).ctx).part, words := ws }

theorem enterCmd_ended (ws : List Word) (hlive : (ctxOf s (queue s q).ctx).st = .live) {st : Status}
    (hcheck : cmdCheck (updQ s q (fun k => { k with head := (k.head + 1) % 2 ^ 64 })) (queue s q).priv (entering s q ws) = some st) :
    (enterCmd s q ws none).lmp.cmds = s.lmp.cmds ++ [{ entering s q ws with st := .retire, status := st }] ∧
    (queue (enterCmd s q ws none) q).head = ((queue s q).head + 1) % 2 ^ 64 := by
  rw [entering] at hcheck
  have hq : (queue (updQ s q (fun k => { k with head := (k.head + 1) % 2 ^ 64 })) q).head = ((queue s q).head + 1) % 2 ^ 64 := by rw [queue_updQ_self]
  simp only [enterCmd, hlive, bne_self_eq_false, Bool.false_eq_true, if_false, Option.isSome_none, hcheck]
  exact ⟨rfl, hq⟩

theorem enterCmd_taking (ws : List Word) (hlive : (ctxOf s (queue s q).ctx).st = .live)
    (hcheck : cmdCheck (updQ s q (fun k => { k with head := (k.head + 1) % 2 ^ 64 })) (queue s q).priv (entering s q ws) = none) :
    (∃ l, l.length = (cPins (entering s q ws)).length ∧ (enterCmd s q ws none).lmp.cmds = s.lmp.cmds ++ [{ entering s q ws with takes := l }]) ∧
    (queue (enterCmd s q ws none) q).head = ((queue s q).head + 1) % 2 ^ 64 := by
  have hq : (queue (updQ s q (fun k => { k with head := (k.head + 1) % 2 ^ 64 })) q).head = ((queue s q).head + 1) % 2 ^ 64 := by rw [queue_updQ_self]
  obtain ⟨⟨hcmds, hqueues⟩, hlen⟩ := takePins_queues (updQ s q (fun k => { k with head := (k.head + 1) % 2 ^ 64 })) (ctxOf s (queue s q).ctx).part (cPins (entering s q ws))
  rw [entering] at hcheck hcmds hqueues hlen ⊢
  simp only [enterCmd, hlive, bne_self_eq_false, Bool.false_eq_true, if_false, Option.isSome_none, hcheck]
  refine ⟨⟨_, hlen, congrArg (· ++ _) hcmds⟩, ?_⟩
  rw [← hq]
  exact congrArg (fun z => (tget z q).head) hqueues

theorem lampTook_queues (s t : State) (p q : Nat) : QueuesKept t (lampTook s t p q) ∧ (lampTook s t p q).lmp.rrPart = (p + 1) % 64 := by
  unfold lampTook
  dsimp only
  split
  · exact ⟨⟨rfl, rfl⟩, rfl⟩
  · split <;> exact ⟨⟨rfl, rfl⟩, rfl⟩

theorem fetchCmd_here {a : Nat} (hlook : ownLook s (ctxOf s (queue s q).ctx).space (ctxOf s (queue s q).ctx).part
      (fld (queue s q).base 56 6 * 64 + (queue s q).head % 2 ^ (queue s q).log2 * 64) .read = (u, .here a))
    (hpois : bytesPois s a 64 = false) (hask : recAsk u kLamp (pinLines u q (rdWords s a 8)) = none) :
    fetchCmd s q = (some (enterCmd (ownDone u kLamp) q (rdWords s a 8) none), s) := by
  have hch := charged_ownLook hlook
  simp only [fetchCmd, hlook, hch.rdWords, hask, hch.bytesPois, hpois]
  rfl

theorem commandFetches (s u : State) (p q a : Nat) (hnext : nextQueue s = some (p, q)) (hlive : (ctxOf s (queue s q).ctx).st = .live)
    (hlook : ownLook s (ctxOf s (queue s q).ctx).space (ctxOf s (queue s q).ctx).part
      (fld (queue s q).base 56 6 * 64 + (queue s q).head % 2 ^ (queue s q).log2 * 64) .read = (u, .here a))
    (hpois : bytesPois s a 64 = false) (hask : recAsk u kLamp (pinLines u q (rdWords s a 8)) = none) :
    (∀ st, cmdCheck s (queue s q).priv (entering s q (rdWords s a 8)) = some st → Ends .commandFetch s (fun t =>
      t.lmp.cmds = s.lmp.cmds ++ [{ entering s q (rdWords s a 8) with st := .retire, status := st }] ∧ (queue t q).head = ((queue s q).head + 1) % 2 ^ 64)) ∧
    (cmdCheck s (queue s q).priv (entering s q (rdWords s a 8)) = none → Ends .commandFetch s (fun t =>
      (∃ l, l.length = (cPins (entering s q (rdWords s a 8))).length ∧ t.lmp.cmds = s.lmp.cmds ++ [{ entering s q (rdWords s a 8) with takes := l }]) ∧
      (cPins (entering s q (rdWords s a 8)) = [] → t.lmp.cmds = s.lmp.cmds ++ [entering s q (rdWords s a 8)]) ∧
      (queue t q).head = ((queue s q).head + 1) % 2 ^ 64 ∧ t.lmp.rrPart = (p + 1) % 64)) := by
  have hexec : exec .commandFetch s = .next (lampTook s (enterCmd (ownDone u kLamp) q (rdWords s a 8) none) p q) := by
    refine congrArg Host.Outcome.next ?_
    simp only [hnext, fetchCmd_here hlook hpois hask]
  have hlooked : Frame [.pages, .cnt, .lan, .hst, .out] s u := by
    have hf := ownLook_frame s (ctxOf s (queue s q).ctx).space (ctxOf s (queue s q).ctx).part
      (fld (queue s q).base 56 6 * 64 + (queue s q).head % 2 ^ (queue s q).log2 * 64) .read
    rwa [hlook] at hf
  have hkept : LookKept s u := by
    have hk := ownLook_look s (ctxOf s (queue s q).ctx).space (ctxOf s (queue s q).ctx).part
      (fld (queue s q).base 56 6 * 64 + (queue s q).head % 2 ^ (queue s q).log2 * 64) .read
    rwa [hlook] at hk
  have hf : Frame [.pages, .cnt, .lan, .hst, .out, .hom] s (ownDone u kLamp) := (hlooked.mono (by decide)).andThen (ownDone_frame _ _) (by decide)
  have hlmp : (ownDone u kLamp).lmp = s.lmp := hf .lmp (by decide)
  have hcas : (ownDone u kLamp).cas = s.cas := hf .cas (by decide)
  have hqueue : queue (ownDone u kLamp) q = queue s q := by rw [queue, hlmp]; rfl
  have hctx : ∀ k, ctxOf (ownDone u kLamp) k = ctxOf s k := fun k => by rw [ctxOf, ctxOf, ctxIdx, ctxIdx, hlmp, hcas]
  have hent : entering (ownDone u kLamp) q (rdWords s a 8) = entering s q (rdWords s a 8) := by rw [entering, entering, hqueue, hctx]
  have hcheck : cmdCheck (updQ (ownDone u kLamp) q (fun k => { k with head := (k.head + 1) % 2 ^ 64 })) (queue s q).priv (entering s q (rdWords s a 8)) =
      cmdCheck s (queue s q).priv (entering s q (rdWords s a 8)) :=
    cmdCheck_of_look ((updQ_look _ _ _).into ((ownDone_look _ _).into hkept)) ((hf.mono (by decide)).andThen (updQ_frame _ _ _) (by decide)) _ _
  obtain ⟨⟨hcmdsT, hqueuesT⟩, hrr⟩ := lampTook_queues s (enterCmd (ownDone u kLamp) q (rdWords s a 8) none) p q
  have hheadT : ∀ {x}, (queue (enterCmd (ownDone u kLamp) q (rdWords s a 8) none) q).head = x →
      (queue (lampTook s (enterCmd (ownDone u kLamp) q (rdWords s a 8) none) p q) q).head = x := fun h =>
    (congrArg (fun z => (tget z q).head) hqueuesT).trans h
  have hliveD : (ctxOf (ownDone u kLamp) (queue (ownDone u kLamp) q).ctx).st = .live := by rw [hqueue, hctx, hlive]
  refine ⟨fun st hst => ?_, fun hnone => ?_⟩
  · obtain ⟨hcmds, hhead⟩ := enterCmd_ended (s := ownDone u kLamp) (rdWords s a 8) hliveD (by rw [hqueue, hent, hcheck, hst])
    rw [hent, hlmp] at hcmds
    rw [hqueue] at hhead
    exact ends_of_exec hexec ⟨hcmdsT.trans hcmds, hheadT hhead⟩
  · obtain ⟨⟨l, hlen, hcmds⟩, hhead⟩ := enterCmd_taking (s := ownDone u kLamp) (rdWords s a 8) hliveD (by rw [hqueue, hent, hcheck, hnone])
    rw [hent, hlmp] at hcmds
    rw [hent] at hlen
    rw [hqueue] at hhead
    refine ends_of_exec hexec ⟨⟨l, hlen, hcmdsT.trans hcmds⟩, fun hpins => ?_, hheadT hhead, hrr⟩
    rw [hpins] at hlen
    rw [hcmdsT.trans hcmds, List.length_eq_zero_iff.mp hlen]
    rfl

/-! ## Acceptance and dispatch -/

theorem cmdOf_key (h : cmdOf s q n = some c) : c.q = q ∧ c.seq = n := by
  have hk := List.find?_some h
  simpa using hk

theorem acceptCmd_pinned (hpins : c.takes.all (fun x => x == .ok) = true) (hlive : ctxLive s c.ctx = true) (hwait : wdMustWait s c = false) :
    acceptCmd s c = updCmd s c.q c.seq (fun c => { c with st := .accepted, pinned := true }) := by
  rw [acceptCmd]
  dsimp only
  rw [if_pos hpins, hlive, hwait]
  rfl

theorem acceptCmd_refused {st : Status} (htakes : c.takes = [st]) (hok : st ≠ .ok) (hgone : st ≠ .objectGone) (hlive : ctxLive s c.ctx = true) :
    acceptCmd s c = endCmd s c.q c.seq st (w64 0) := by
  have hzip : ((cPins c).zip [st]).filter (fun x => x.2 == .ok) = [] := by
    rw [List.filter_eq_nil_iff]
    intro x hx
    have hmem : x.2 ∈ [st] := (List.of_mem_zip (a := x.1) (b := x.2) hx).2
    rw [List.mem_singleton] at hmem
    simp [hmem, hok]
  have hall : [st].all (fun x => x == .ok) = false := by simp [hok]
  have hcont : [st].contains .objectGone = false := by simpa using fun h => hgone h.symm
  have hfirst : firstPin (fun x => x != .ok) [st] = 0 := by
    rw [firstPin, List.findIdx_cons, show (st != .ok) = true by simpa using hok]
    rfl
  rw [acceptCmd]
  dsimp only
  rw [htakes, hzip, hall, hcont, hlive, if_neg (by decide), if_neg (by decide), if_neg (by decide), if_neg (by decide), hfirst]
  rfl

theorem commandAccepts (s : State) (q n : Nat) (c : Cmd) (hc : cmdOf s q n = some c) (hst : c.st = .taking) (hlive : ctxLive s c.ctx = true) :
    (c.takes.all (fun x => x == .ok) = true → wdMustWait s c = false → Ends (.commandAccept q n) s (fun t =>
      cmdOf t q n = some { c with st := .accepted, pinned := true } ∧ Frame [.lmp] s t)) ∧
    (∀ st, c.takes = [st] → st ≠ .ok → st ≠ .objectGone → Ends (.commandAccept q n) s (fun t => EndedAs t q n st ∧ Frame [.lmp] s t)) := by
  obtain ⟨hq, hn⟩ := cmdOf_key hc
  have hexec : exec (.commandAccept q n) s = .next (acceptCmd s c) := by
    refine congrArg Host.Outcome.next ?_
    simp only [hc, hst, beq_self_eq_true, if_true]
  refine ⟨fun hpins hwait => ?_, fun st htakes hok hgone => ?_⟩
  · rw [acceptCmd_pinned hpins hlive hwait, hq, hn] at hexec
    refine ends_of_exec hexec ⟨?_, updCmd_frame _ _ _ _⟩
    exact (cmdOf_updCmd s q n (fun c => { c with st := .accepted, pinned := true }) (fun _ => ⟨rfl, rfl⟩)).trans (by rw [hc]; rfl)
  · rw [acceptCmd_refused htakes hok hgone hlive, hq, hn] at hexec
    exact ends_of_exec hexec ⟨endedAs_endCmd hc (by rw [hst]; decide) _ _, endCmd_frame _ _ _ _ _⟩

theorem commandDispatches (s : State) (q n : Nat) (c : Cmd) (hc : cmdOf s q n = some c) (hst : c.st = .accepted) (hmay : mayDispatch s c = true) :
    (unitFull s c = false → Ends (.commandDispatch q n) s (fun t =>
      cmdOf t q n = some { c with st := .dispatched } ∧ (queue t q).stalled = false ∧ Frame [.lmp] s t)) ∧
    (unitFull s c = true → Ends (.commandDispatch q n) s (fun t => cmdOf t q n = some c ∧ (queue t q).stalled = true ∧ Frame [.lmp] s t)) := by
  obtain ⟨hq, hn⟩ := cmdOf_key hc
  have hexec : exec (.commandDispatch q n) s = .next (dispatchCmd s c) := by
    refine congrArg Host.Outcome.next ?_
    simp only [hc, hst, beq_self_eq_true, if_true]
  rw [dispatchCmd, hmay, if_neg (by decide), hq, hn] at hexec
  refine ⟨fun hroom => ?_, fun hfull => ?_⟩
  · rw [hroom, if_neg (by decide)] at hexec
    refine ends_of_exec hexec ⟨?_, ?_, (updQ_frame _ _ _).andThen (updCmd_frame _ _ _ _) (by decide)⟩
    · have hc' : cmdOf (updQ s q (fun k => { k with stalled := false })) q n = some c := hc
      exact (cmdOf_updCmd _ q n (fun c => { c with st := .dispatched }) (fun _ => ⟨rfl, rfl⟩)).trans (by rw [hc']; rfl)
    · show (queue (updQ s q (fun k => { k with stalled := false })) q).stalled = false
      rw [queue_updQ_self]
  · rw [hfull, if_pos rfl] at hexec
    refine ends_of_exec hexec ⟨hc, ?_, updQ_frame _ _ _⟩
    rw [queue_updQ_self]

/-! ## Retirement -/

/-- The state without a command, counted. -/
def cmdGone (s : State) (c : Cmd) : State :=
  { s with lmp := { s.lmp with cmds := s.lmp.cmds.filter (fun x => !(x.q == c.q && x.seq == c.seq)), cmdTotal := satAdd 32 s.lmp.cmdTotal 1 } }

/-- A queue with one more command retired. -/
def queueRetires (n : Nat) (k : Queue) : Queue :=
  { k with done := (advanceDone (k.retired.length + 1) k.done (n :: k.retired)).1, retired := (advanceDone (k.retired.length + 1) k.done (n :: k.retired)).2 }

/-- The state that a command without fences and pins leaves. -/
def cmdRetired (s : State) (c : Cmd) : State :=
  tenant (count (updQ (cmdGone s c) c.q (queueRetires c.seq)) pLMP 0 c.part) c.part 1

theorem cmdRetired_frame (s : State) (c : Cmd) : Frame [.cnt, .lmp] s (cmdRetired s c) := by
  have hgone : Frame [.lmp] s (cmdGone s c) := fun x hx => by cases x <;> first | exact absurd (by decide) hx | rfl
  exact ((((hgone.andThen (updQ_frame _ _ _) (fun _ => id)).mono (by decide)).andThen (count_frame _ _ _ _ _ _) (by decide)).andThen (tenant_frame _ _ _ _) (by decide))

theorem cmdRetired_lmp (s : State) (c : Cmd) : (cmdRetired s c).lmp = (updQ (cmdGone s c) c.q (queueRetires c.seq)).lmp :=
  (tenant_frame _ _ _ _ .lmp (by decide)).trans (count_frame _ _ _ _ _ _ .lmp (by decide))

theorem retireCmd_plain (hf : c.fences = []) (hp : cPins c = []) (hkill : (queue s c.q).killMb = none) : retireCmd s c = cmdRetired s c := by
  have hk : (queue (cmdRetired s c) c.q).killMb = none := by
    rw [queue, cmdRetired_lmp]
    show (queue (updQ (cmdGone s c) c.q (queueRetires c.seq)) c.q).killMb = none
    rw [queue_updQ_self]
    exact hkill
  have hpins : (if c.pinned then (cPins c).foldl (fun u i => dropRef u c.part i) s else s) = s := by rw [hp]; split <;> rfl
  rw [retireCmd]
  dsimp only
  rw [hf, List.foldl_nil, hpins]
  show queueDrained (cmdRetired s c) c.q = _
  rw [queueDrained, hk]

theorem cmdOf_cmdRetired (hq : c.q = q) (hn : c.seq = n) : cmdOf (cmdRetired s c) q n = none := by
  rw [cmdOf, cmdRetired_lmp]
  show (s.lmp.cmds.filter (fun x => !(x.q == c.q && x.seq == c.seq))).find? (fun x => x.q == q && x.seq == n) = none
  rw [List.find?_eq_none]
  intro x hx
  have := List.of_mem_filter hx
  rw [hq, hn] at this
  simpa only [Bool.not_eq_true, Bool.not_eq_true'] using this

theorem cmdTotal_cmdRetired (s : State) (c : Cmd) : (cmdRetired s c).lmp.cmdTotal = satAdd 32 s.lmp.cmdTotal 1 := by
  rw [cmdRetired_lmp]
  rfl

/-- The last step of a retirement: the command leaves, unless its record is on its way. -/
def leaves (t : State) (d : Cmd) : State :=
  if d.recorded == 1 || (needsRecord d && d.recorded == 0) then t
  else match recAsk t kObj (if d.pinned then objLines t d.part (cPins d) else []) with
    | some u => u
    | none => retireCmd (ownDone t kObj) d

theorem leaves_plain {t : State} (hrec : (c.recorded == 1 || (needsRecord c && c.recorded == 0)) = false) (hf : c.fences = []) (hp : cPins c = [])
    (hkill : (queue t c.q).killMb = none) : leaves t c = cmdRetired (ownDone t kObj) c := by
  have hlines : (if c.pinned then objLines t c.part (cPins c) else []) = [] := by rw [hp]; split <;> rfl
  rw [leaves, hrec, if_neg (by decide), hlines, recAsk_nil]
  exact retireCmd_plain hf hp hkill

theorem retire_leaves {t : State} {d : Cmd} (hc : cmdOf s q n = some c) (hst : c.st = .retire) (horder : retireOrder s c = false) (hrec : (c.recorded == 1) = false)
    (ht : (if needsRecord c && c.recorded == 0 then writeRecord s c else s) = t) (hd : cmdOf t q n = some d) : retire s q n = leaves t d := by
  rw [retire, hc]
  dsimp only
  rw [hst, horder, hrec, if_neg (by decide), ht, hd]
  rfl

theorem commandRetires (s : State) (q n : Nat) (c : Cmd) (hc : cmdOf s q n = some c) (hst : c.st = .retire) (hneed : needsRecord c = false) (hrec : c.recorded = 0)
    (hf : c.fences = []) (hp : cPins c = []) (hkill : (queue s q).killMb = none) : Ends (.commandRetire q n) s (fun t =>
      cmdOf t q n = none ∧ t.lmp.cmdTotal = satAdd 32 s.lmp.cmdTotal 1 ∧
      ((queue s q).retired = [] → n = (queue s q).done → (queue t q).done = (n + 1) % 2 ^ 64) ∧ Frame [.cnt, .hom, .lmp] s t) := by
  obtain ⟨hq, hn⟩ := cmdOf_key hc
  have horder : retireOrder s c = false := by
    have hok : c.status = .ok := by simpa [needsRecord] using (Bool.or_eq_false_iff.mp hneed).1
    rw [retireOrder, hok]
    rfl
  have hexec : exec (.commandRetire q n) s = .next (cmdRetired (ownDone s kObj) c) := by
    show Host.Outcome.next (retire s q n) = _
    rw [retire_leaves hc hst horder (by rw [hrec]; rfl) (by rw [hneed]; rfl) hc, leaves_plain (by simp [hrec, hneed]) hf hp (by rw [hq]; exact hkill)]
  refine ends_of_exec hexec ⟨cmdOf_cmdRetired hq hn, cmdTotal_cmdRetired _ _, fun hempty hdone => ?_, ((ownDone_frame s kObj).mono (by decide)).andThen (cmdRetired_frame _ _) (by decide)⟩
  rw [queue, cmdRetired_lmp]
  show (queue (updQ (cmdGone (ownDone s kObj) c) c.q (queueRetires c.seq)) q).done = _
  rw [hq, queue_updQ_self, queueRetires]
  have hs : queue (cmdGone (ownDone s kObj) c) q = queue s q := rfl
  rw [hs, hempty, hn, ← hdone]
  simp [advanceDone]

theorem commandFlow : Claim.CommandFlow :=
  ⟨fun s u p q a hnext => fun hlive hlook hpois hask => commandFetches s u p q a hnext hlive hlook hpois hask, commandAccepts, commandDispatches, commandRetires⟩

/-! ## The completion record -/

theorem lineByte_mergeLine (old new : LineData) (m : LineMask) {i : Nat} (hi : i < 128) :
    lineByte (mergeLine old new m) i = if m.getLsbD i then lineByte new i else lineByte old i := by
  rw [mergeLine, lineByte_lineOf _ (by simp) hi, List.getD_eq_getElem _ _ (by simpa using hi)]
  simp

theorem relayMask_bit (n off : Nat) {i : Nat} (hi : i < 128) :
    (BitVec.ofNat 128 ((2 ^ n - 1) * 2 ^ off)).getLsbD i = (decide (off ≤ i) && decide (i - off < n)) := by
  rw [BitVec.getLsbD_ofNat, Nat.testBit_mul_two_pow, Nat.testBit_two_pow_sub_one]
  simp [hi]

theorem getD_wordBytes (ws : List Word) {i j : Nat} (hi : i < ws.length) (hj : j < 8) :
    (ws.flatMap wordBytes).getD (8 * i + j) 0 = (wordBytes (ws.getD i 0)).getD j 0 := by
  induction ws generalizing i with
  | nil => simp at hi
  | cons w ws ih =>
    rw [List.flatMap_cons]
    cases i with
    | zero => rw [List.getD_append _ _ _ _ (by rw [wordBytes_length]; omega)]; simp
    | succ i =>
      rw [List.getD_append_right _ _ _ _ (by rw [wordBytes_length]; omega), wordBytes_length,
        show 8 * (i + 1) + j - 8 = 8 * i + j by omega, ih (by simpa using hi)]
      rfl

theorem length_wordBytes (ws : List Word) : (ws.flatMap wordBytes).length = 8 * ws.length := by
  induction ws with
  | nil => rfl
  | cons w ws ih => rw [List.flatMap_cons, List.length_append, ih, wordBytes_length, List.length_cons]; ring

/-- Words that a write of the block stored within one line read back. -/
theorem rdWords_relayed {t : State} {old : LineData} {a p : Nat} (ws : List Word) (ha : a % 8 = 0) (hfit : a % 128 + 8 * ws.length ≤ 128)
    (hline : rdLine t (a / 128) = mergeLine old (relayReq s q n p a (ws.flatMap wordBytes)).data (relayReq s q n p a (ws.flatMap wordBytes)).mask) :
    rdWords t a ws.length = ws := by
  refine List.ext_getElem (by simp [rdWords]) (fun i hi hi' => ?_)
  have hin : i < ws.length := hi'
  have hbytes : (List.range 8).map (fun j => lineByte (rdLine t ((a + 8 * i) / 128)) ((a + 8 * i) % 128 + j)) = wordBytes ws[i] := by
    have hw : wordBytes ws[i] = (List.range 8).map (fun j => (wordBytes ws[i]).getD j 0) := by
      refine List.ext_getElem (by simp [wordBytes_length]) (fun j hj _ => ?_)
      rw [List.getElem_map, List.getElem_range, List.getD_eq_getElem _ _ hj]
    rw [hw]
    refine List.map_congr_left (fun j hj => ?_)
    have hj8 := List.mem_range.mp hj
    have hk : (a + 8 * i) % 128 + j = a % 128 + (8 * i + j) := by omega
    have hlt : a % 128 + (8 * i + j) < 128 := by omega
    rw [show (a + 8 * i) / 128 = a / 128 by omega, hline, hk, lineByte_mergeLine _ _ _ hlt]
    have hmask : (relayReq s q n p a (ws.flatMap wordBytes)).mask.getLsbD (a % 128 + (8 * i + j)) = true := by
      show (BitVec.ofNat 128 ((2 ^ (ws.flatMap wordBytes).length - 1) * 2 ^ (a % 128))).getLsbD _ = true
      rw [relayMask_bit _ _ hlt, length_wordBytes]
      simp only [Bool.and_eq_true, decide_eq_true_eq]
      omega
    have hdata : lineByte (relayReq s q n p a (ws.flatMap wordBytes)).data (a % 128 + (8 * i + j)) = (ws.flatMap wordBytes).getD (8 * i + j) 0 := by
      show lineByte (lineOf ((List.range 128).map _)) _ = _
      rw [lineByte_lineOf _ (by simp) hlt, List.getD_eq_getElem _ _ (by simpa using hlt)]
      simp only [List.getElem_map, List.getElem_range, length_wordBytes]
      rw [if_pos (by simp only [Bool.and_eq_true, decide_eq_true_eq]; omega), Nat.add_sub_cancel_left]
    rw [if_pos hmask, hdata, getD_wordBytes ws hin hj8, List.getD_eq_getElem _ _ hin]
  simp only [rdWords, List.getElem_map, List.getElem_range]
  rw [rdWord_eq _ _ (by omega), hbytes, bytesNat_wordBytes]
  exact BitVec.ofNat_toNat ..

/-- A write of the block for a command at a quiet home is answered in the same step. -/
theorem place_write_cmd {r : HomeReq} {p : Nat} (hq : HomeQuiet s r p) (hd : dirOf s r.line = {}) (hop : r.op = .wrPart) (ho : r.origin = .cmd q n) :
    (place s r).lmp = (cmdAnswered s q n .ok).lmp := by
  obtain ⟨x, hx, heq⟩ := (place_write hq hd).2 hop
  have hlw : ∀ d pois, (lineWritten x r d pois).lmp = s.lmp ∧ (lineWritten x r d pois).cas = s.cas := fun d pois =>
    ⟨(lineWritten_all x r d pois .lmp (by decide)).trans (hx.frame .lmp (by decide)), (lineWritten_all x r d pois .cas (by decide)).trans (hx.frame .cas (by decide))⟩
  have hans : ∀ d pois, (deliverAll (lineWritten x r d pois) [ansOf r .comp .ok 0 0]).lmp = (cmdAnswered s q n .ok).lmp := by
    intro d pois
    have hdel : deliverAll (lineWritten x r d pois) [ansOf r .comp .ok 0 0] = cmdAnswered (lineWritten x r d pois) q n .ok := by
      show deliver (lineWritten x r d pois) true (ansOf r .comp .ok 0 0) = _
      have hao : (ansOf r .comp .ok 0 0).origin = .cmd q n := ho
      rw [deliver, hao]
      rfl
    obtain ⟨hlmp, hcas⟩ := hlw d pois
    have hof : cmdOf (lineWritten x r d pois) q n = cmdOf s q n := by rw [cmdOf, hlmp]; rfl
    have hlive : ∀ k, ctxLive (lineWritten x r d pois) k = ctxLive s k := fun k => by rw [ctxLive, ctxLive, ctxOf, ctxOf, ctxIdx, ctxIdx, hlmp, hcas]
    rw [hdel, cmdAnswered, cmdAnswered, hof]
    split
    · exact hlmp
    · rw [hlive]
      split <;> simp only [updCmd, endCmd, hlmp]
  rw [heq, leftPlace_frame _ r .lmp (by decide)]
  exact hans _ _

theorem rdWords_ownDone (s : State) (k a n : Nat) : rdWords (ownDone s k) a n = rdWords s a n := rfl

/-- A command with its record written. -/
def recordedCmd (c : Cmd) : Cmd := { c with recorded := 2 }

/-- The state after a record was written: the record stands in memory, and of the Lamplighter only the command changed. -/
structure RecordStands (s t : State) (q n a : Nat) (c : Cmd) : Prop where
  words : rdWords t a 4 = recordWords s c
  cmd : cmdOf t q n = some (recordedCmd c)
  queues : t.lmp.queues = s.lmp.queues
  total : t.lmp.cmdTotal = s.lmp.cmdTotal

theorem writeRecord_stands {a p : Nat} (hc : cmdOf s q n = some c) (hst : c.st = .retire)
    (hlook : ownLook s (ctxOf s c.ctx).space c.part (fld (queue s q).cbase 56 5 * 32 + n % 2 ^ (queue s q).log2 * 32) .write = (u, .here a)) (halign : a % 32 = 0)
    (hquiet : HomeQuiet u (relayReq u q n c.part a ((recordWords s c).flatMap wordBytes)) p) (hdir : dirOf u (a / 128) = {}) :
    RecordStands s (writeRecord s c) q n a c := by
  obtain ⟨hq, hn⟩ := cmdOf_key hc
  have hlooked : Frame [.pages, .cnt, .lan, .hst, .out] s u := by
    have hf := ownLook_frame s (ctxOf s c.ctx).space c.part (fld (queue s q).cbase 56 5 * 32 + n % 2 ^ (queue s q).log2 * 32) .write
    rwa [hlook] at hf
  have hlmpU : u.lmp = s.lmp := hlooked .lmp (by decide)
  generalize hv : updCmd u q n (fun c => { c with recorded := 1 }) = v
  have hvf : Frame [.lmp] u v := hv ▸ updCmd_frame _ _ _ _
  generalize hr : relayReq u q n c.part a ((recordWords s c).flatMap wordBytes) = r at hquiet
  have hwrite : writeRecord s c = place v r := by
    rw [writeRecord]
    dsimp only
    rw [hq, hn, hlook]
    dsimp only [relayPut]
    have hcasv : v.cas = u.cas := hvf .cas (by decide)
    rw [hv, ← hr]
    simp only [relayReq, hcasv, hn]
  have hcv : cmdOf v q n = some { c with recorded := 1 } := by
    have hcu : cmdOf u q n = some c := by rw [← hc, cmdOf, cmdOf, hlmpU]
    rw [← hv]
    exact (cmdOf_updCmd u q n (fun c => { c with recorded := 1 }) (fun _ => ⟨rfl, rfl⟩)).trans (by rw [hcu]; rfl)
  have hline : r.line = a / 128 := by rw [← hr]; rfl
  have hop : r.op = .wrPart := by rw [← hr]; rfl
  have hdirV : dirOf v r.line = {} := by rw [hline, ← hdir, dirOf, dirOf, show v.hom = u.hom from hvf .hom (by decide)]
  have hquietV := homeQuiet_of_frame hquiet hvf (by decide)
  have hlmp := place_write_cmd (q := q) (n := n) hquietV hdirV hop (by rw [← hr]; rfl)
  have hanswered : cmdAnswered v q n .ok = updCmd v q n (fun c => { c with recorded := if c.recorded = 1 then 2 else c.recorded }) := by
    rw [cmdAnswered, hcv]
    dsimp only
    rw [hst]
    rfl
  rw [hanswered] at hlmp
  have hstored := (place_wrPart hquietV hdirV hop).stored.1
  rw [hline] at hstored
  rw [hwrite]
  refine ⟨rdWords_relayed (s := u) (q := q) (n := n) (p := c.part) (old := rdLine v (a / 128)) (recordWords s c) (by omega) ?_ ?_, ?_, ?_, ?_⟩
  · show a % 128 + 8 * 4 ≤ 128
    omega
  · rw [hr]
    exact hstored
  · rw [cmdOf, hlmp]
    exact (cmdOf_updCmd v q n (fun c => { c with recorded := if c.recorded = 1 then 2 else c.recorded }) (fun _ => ⟨rfl, rfl⟩)).trans (by rw [hcv]; rfl)
  · rw [hlmp, ← hv, ← hlmpU]
    rfl
  · rw [hlmp, ← hv, ← hlmpU]
    rfl

theorem completionRecords : Claim.CompletionRecords := by
  intro s u q n a p c hc hst hneed hrec hlost hf hp hkill hlook halign hquiet hdir
  obtain ⟨hq, hn⟩ := cmdOf_key hc
  obtain ⟨hwords, hct, hqueues, htotal⟩ := writeRecord_stands hc hst hlook halign hquiet hdir
  have horder : retireOrder s c = false := by
    rw [retireOrder, show (c.status == .contextLost) = false by simpa using hlost]
    rfl
  have hretire := retire_leaves hc hst horder (by rw [hrec]; rfl) (by rw [hneed, hrec, if_pos (by decide)]) hct
  generalize writeRecord s c = t at hwords hct hqueues htotal hretire
  have hkillT : (queue t (recordedCmd c).q).killMb = none := by
    show (tget t.lmp.queues c.q).killMb = none
    rw [hqueues, hq]
    exact hkill
  rw [leaves_plain (c := recordedCmd c) (Bool.or_eq_false_iff.mpr ⟨rfl, Bool.and_eq_false_iff.mpr (.inr rfl)⟩) hf hp hkillT] at hretire
  have hexec : exec (.commandRetire q n) s = .next (cmdRetired (ownDone t kObj) (recordedCmd c)) := congrArg Host.Outcome.next hretire
  have hleft : Charged (ownDone t kObj) (cmdRetired (ownDone t kObj) (recordedCmd c)) := .of_frame (cmdRetired_frame _ _) (by decide)
  refine ends_of_exec hexec ⟨?_, cmdOf_cmdRetired hq hn, ?_⟩
  · rw [hleft.rdWords, rdWords_ownDone, hwords]
  · rw [cmdTotal_cmdRetired, ← htotal]
    rfl

end

/-- Settles O44. -/
theorem commandsRetire : Obligations.CommandsRetire := ⟨commandFlow, completionRecords⟩

end Sys2Proof.Machine
end
